-- ==== Sys2Proof/Word.lean ====
section
/-! DEFINITION. The word types of the GX960 and the two kinds of sparse store the state is made of. -/

namespace Sys2Proof

/-- A byte of memory (R3). -/
abbrev Byte := BitVec 8

/-- A doubleword, the width of a scalar operand and of every system register (R3). -/
abbrev Word := BitVec 64

/-- A 64-byte line (R133, R134), byte 0 in bits [7:0] (R3). -/
abbrev Line := BitVec 512

/-- A row number, v0 to v127 (R116). -/
abbrev Row := BitVec 7

/-- A store of things by number: pairs with keys strictly rising.  A key not listed stands for the thing's
state at reset, which the reader of the store supplies. -/
abbrev AMap (α : Type) := List (Nat × α)

/-- Bytes by address: keys strictly rising and no zero byte listed, since every memory of the part reads as
zero until it is written (HBM by R61 step 3, scratchpads by R132, rows by R122). -/
abbrev Mem := List (Nat × Byte)

end Sys2Proof
end

