-- ==== Sys2Proof/Config.lean ====
section
/-! DEFINITION. What an implementation fixes and the spec leaves open.  Each is opaque: no proof can see its value. -/

namespace Sys2Proof.Config

/-- The result of the SFU for a function code of R361 and an FP32 or narrower input, outside the inputs for which R361
fixes the result: R361 binds it to a fixed function within an error bound and does not give the bits (log entry 8).  A value beyond
the bound is not used. -/
opaque sfu : BitVec 3 → BitVec 32 → BitVec 32

/-- The decryption under the second key of what the first has encrypted at a physical line address (R20; log entry 9): the contents of a
line, as written, give what is read. -/
opaque recrypt : BitVec 512 → BitVec 512 → Nat → BitVec 512 → BitVec 512

/-- The L1 set of a physical line address (R133 gives 256 sets and no index function; log entry 10). -/
opaque l1Set : Nat → BitVec 8

/-- The L2 set of a physical line address: 64 MiB in 16 ways are 65,536 sets (R134 gives no index function; log entry 10). -/
opaque l2Set : Nat → BitVec 16

/-- The sets of the 8-way TLBs by the page's virtual address: 128 in an octet TLB, 1,024 in a partition's half of a die TLB (R143 gives no
index function; log entry 10). -/
opaque octTlbSet : Nat → BitVec 7
opaque dieTlbSet : Nat → BitVec 10

/-- The mode that a reserved FPSR.RM value, which only a latch load can bring in, stands for (R240; log entry 11). -/
opaque reservedRm : BitVec 3 → BitVec 3

/-- The bytes of a checkpoint image in memory: R89 gives the items and their sizes, and no layout (log entry 14).  The number of
the image and the address give a byte. -/
opaque imageByte : Nat → Nat → BitVec 8

/-- SHA-512 of a byte string (R49, R50), which the spec names and does not define (log entry 15). -/
opaque sha512 : List (BitVec 8) → BitVec 512

/-- The digest of a die's ROM and fuse state (R50): 0 to 3 the compute dies, 4 to 11 the base dies, 12 the I/O die; 13 is the
fused firmware key with the fused version (log entry 15). -/
opaque romDigest : Nat → Nat → BitVec 512

/-- A die's signature with its own P-521 key (R50; log entry 15). -/
opaque dieSign : Nat → BitVec 512 → BitVec 1056

/-- The DER certificate of a die's key; for the I/O die, 12, its identity chain (R49, R50; log entry 15). -/
opaque dieCert : Nat → List (BitVec 8)

/-- The fresh random key that a partition reset loads into slot 0 (R51; log entry 15). -/
opaque freshKey : Nat → BitVec 512

end Sys2Proof.Config
end

