-- ==== Sys2Proof/Syntax.lean ====
section
/-! DEFINITION. The instructions and the events of the GX960: one constructor for every row of
spec/opcode_table.json.  The first 185 are the major forms of R271; the rest are the part's events, which
have no encoding and carry what the event names. -/

namespace Sys2Proof

/-- A scalar operand field (R259).  The reserved indexes have no constructor. -/
inductive Opnd
  | g (n : BitVec 5)
  | o (n : BitVec 3)
  | lr
  | q (n : BitVec 3)
  | zr
  | lit
  | imm (v : BitVec 5)
deriving DecidableEq, Repr

/-- The four lengths (R254). -/
inductive Len
  | w | wl | x | xl
deriving DecidableEq, Repr

/-- The element types, in the order of their codes (R266). -/
inductive ElTy
  | i8 | n8 | i16 | n16 | i32 | n32 | i64 | f64 | f32 | bf16 | f16 | e4m3 | e5m2 | e2m1 | d8 | e8m0
deriving DecidableEq, Repr

/-- The size codes (R267); code 111 is reserved. -/
inductive Sz
  | i8 | n8 | i16 | n16 | i32 | n32 | i64
deriving DecidableEq, Repr

/-- The rounding field (R263); 111 is reserved. -/
inductive RndF
  | fpsr | rne | rtz | rdn | rup | rna | sr
deriving DecidableEq, Repr

/-- The conditions of CMPP and SETC (R293). -/
inductive Cc
  | eq | ne | lt | le | ltn | len | tst | ntst
deriving DecidableEq, Repr

/-- The conditions of FCMPP (R298); 6 and 7 are reserved. -/
inductive Fcc
  | eq | ne | lt | le | unord | ord
deriving DecidableEq, Repr

/-- The scopes of R7; 10 to 15 are reserved. -/
inductive Scope
  | ctx | core | oct | gang | cvy | die | part | dev | fab | sys
deriving DecidableEq, Repr

/-- The ordering kind of FENCE (R325); 0 is reserved. -/
inductive FenceKind
  | acq | rel | full
deriving DecidableEq, Repr

/-- The system registers of R312; numbers 11 to 127 are reserved. -/
inductive Sr
  | wsp | slim | tvec | epc | cause | faddr | fpsr | seed | cyc | gang | tcbi
deriving DecidableEq, Repr

/-- What every instruction carries beside its operands: its length (R254), the fields of the extension word
(R263) other than C, and the literal.  In a form without extension the fields are zero, and in a form
without literal `lit` is zero. -/
structure Mods where
  len : Len
  imm32 : BitVec 32
  mod : BitVec 8
  sat : Bool
  rnd : RndF
  zero : Bool
  mask : BitVec 3
  ty : ElTy
  gen : Bool
  gsense : Bool
  gpred : BitVec 3
  lit : Word
deriving DecidableEq, Repr

/-- Pilot firmware's three resolutions of a FAULTED task (R93). -/
inductive Resolution
  | resume | restart | kill
deriving DecidableEq, Repr

/-- What pilot firmware writes at step 8 of a partition reset (R63, R141, R410): the new root, the halt table's
address, and the physical bytes of the page tables it has built. -/
structure ResetSetup where
  root : Word
  hltBase : Word
  tables : Mem
deriving DecidableEq, Repr

/-- A firmware image (R56): what its header and the check of its signature give, and its bytes. -/
structure FwImage where
  signed : Bool
  version : BitVec 6
  lengthOk : Bool
  data : List Byte := []
deriving DecidableEq, Repr

/-- Who writes a register over the links (R54, R58): the host driver with or without the TEE bit, or pilot
firmware. -/
inductive RegWriter
  | host (tee : Bool) | pilot
deriving DecidableEq, Repr

/-- What self-calibration finds out of range (R61): ports, and stacks whose PHY is local to them. -/
structure BadPhys where
  badPorts : List Nat
  badStacks : List Nat
deriving DecidableEq, Repr

/-- A value written to a partition's SND_CTL (R230). -/
structure SndWrite where
  part : Nat
  v : BitVec 64
deriving DecidableEq, Repr

/-- The request code of an SPDM message and its first parameter (R49). -/
structure SpdmHead where
  code : BitVec 8
  param : BitVec 8
deriving DecidableEq, Repr

/-- One constructor for every row of spec/opcode_table.json. -/
inductive Instr
  /-- ADD (R290). -/
  | add (d a b : Opnd) (m : Mods)
  /-- SUB (R290). -/
  | sub (d a b : Opnd) (m : Mods)
  /-- AND (R290). -/
  | and (d a b : Opnd) (m : Mods)
  /-- OR (R290). -/
  | or (d a b : Opnd) (m : Mods)
  /-- XOR (R290). -/
  | xor (d a b : Opnd) (m : Mods)
  /-- ANDN (R290). -/
  | andn (d a b : Opnd) (m : Mods)
  /-- SHL (R290). -/
  | shl (d a b : Opnd) (m : Mods)
  /-- SHR (R290). -/
  | shr (d a b : Opnd) (m : Mods)
  /-- SAR (R290). -/
  | sar (d a b : Opnd) (m : Mods)
  /-- ROR (R290). -/
  | ror (d a b : Opnd) (m : Mods)
  /-- MIN (R290). -/
  | min (d a b : Opnd) (m : Mods)
  /-- MAX (R290). -/
  | max (d a b : Opnd) (m : Mods)
  /-- MUL (R290). -/
  | mul (d a b : Opnd) (m : Mods)
  /-- MULH (R290). -/
  | mulh (d a b : Opnd) (m : Mods)
  /-- DIV (R290). -/
  | div (d a b : Opnd) (m : Mods)
  /-- REM (R290). -/
  | rem (d a b : Opnd) (m : Mods)
  /-- CLZ (R290). -/
  | clz (d a : Opnd) (m : Mods)
  /-- CTZ (R290). -/
  | ctz (d a : Opnd) (m : Mods)
  /-- POPC (R290). -/
  | popc (d a : Opnd) (m : Mods)
  /-- BREV (R290). -/
  | brev (d a : Opnd) (m : Mods)
  /-- EXT (R291). -/
  | ext (d a b : Opnd) (m : Mods)
  /-- INS (R291). -/
  | ins (d a b : Opnd) (m : Mods)
  /-- LEA (R292). -/
  | lea (d a b : Opnd) (m : Mods)
  /-- MOV (R290). -/
  | mov (d a : Opnd) (m : Mods)
  /-- ADDI (R290). -/
  | addi (d a : Opnd) (i : BitVec 10) (m : Mods)
  /-- CMPP (R293). -/
  | cmpp (f : Cc) (d : BitVec 3) (a b : Opnd) (m : Mods)
  /-- SETC (R293). -/
  | setc (f : Cc) (d a b : Opnd) (m : Mods)
  /-- SEL (R294). -/
  | sel (f : BitVec 3) (d a b : Opnd) (m : Mods)
  /-- FADD (R295). -/
  | fadd (d a b : Opnd) (m : Mods)
  /-- FSUB (R295). -/
  | fsub (d a b : Opnd) (m : Mods)
  /-- FMUL (R295). -/
  | fmul (d a b : Opnd) (m : Mods)
  /-- FMULZ (R295). -/
  | fmulz (d a b : Opnd) (m : Mods)
  /-- FDIV (R295). -/
  | fdiv (d a b : Opnd) (m : Mods)
  /-- FMIN (R295). -/
  | fmin (d a b : Opnd) (m : Mods)
  /-- FMAX (R295). -/
  | fmax (d a b : Opnd) (m : Mods)
  /-- FMA (R295). -/
  | fma (d a b c : Opnd) (m : Mods)
  /-- FSQRT (R295). -/
  | fsqrt (d a : Opnd) (m : Mods)
  /-- FNEG (R295). -/
  | fneg (d a : Opnd) (m : Mods)
  /-- FABS (R295). -/
  | fabs (d a : Opnd) (m : Mods)
  /-- FCLASS (R296). -/
  | fclass (d a : Opnd) (m : Mods)
  /-- FCVT (R297). -/
  | fcvt (d a : Opnd) (m : Mods)
  /-- FCMPP (R298). -/
  | fcmpp (f : Fcc) (d : BitVec 3) (a b : Opnd) (m : Mods)
  /-- PAND (R299). -/
  | pand (d a b : BitVec 3) (m : Mods)
  /-- POR (R299). -/
  | por (d a b : BitVec 3) (m : Mods)
  /-- PXOR (R299). -/
  | pxor (d a b : BitVec 3) (m : Mods)
  /-- PNOT (R299). -/
  | pnot (d a : BitVec 3) (m : Mods)
  /-- PPACK (R299). -/
  | ppack (d : Opnd) (m : Mods)
  /-- PUNPK (R299). -/
  | punpk (a : Opnd) (m : Mods)
  /-- BR (R300). -/
  | br (off : BitVec 20) (neg : Bool) (p : BitVec 3) (m : Mods)
  /-- JMP (R300). -/
  | jmp (off : BitVec 24) (m : Mods)
  /-- CALL (R300). -/
  | call (off : BitVec 24) (m : Mods)
  /-- JMPR (R300). -/
  | jmpr (a : Opnd) (m : Mods)
  /-- CALLR (R300). -/
  | callr (a : Opnd) (m : Mods)
  /-- RET (R300). -/
  | ret (m : Mods)
  /-- ENTER (R301). -/
  | enter (d : BitVec 7) (m : Mods)
  /-- LEAVE (R302). -/
  | leave (m : Mods)
  /-- NOP (R303). -/
  | nop (m : Mods)
  /-- HALT (R303). -/
  | halt (m : Mods)
  /-- TRAP (R303). -/
  | trap (d : BitVec 4) (m : Mods)
  /-- SYSC (R304). -/
  | sysc (d a b : Opnd) (m : Mods)
  /-- ERET (R212). -/
  | eret (m : Mods)
  /-- LOOP (R300). -/
  | loop (off : BitVec 17) (d : Opnd) (m : Mods)
  /-- HSTART (R101). -/
  | hstart (d a b : Opnd) (m : Mods)
  /-- HJOIN (R102). -/
  | hjoin (d a : Opnd) (m : Mods)
  /-- HEXIT (R102). -/
  | hexit (m : Mods)
  /-- CID (R310). -/
  | cid (d : Opnd) (m : Mods)
  /-- MCRD (R311). -/
  | mcrd (d a : Opnd) (m : Mods)
  /-- YIELD (R308). -/
  | yield (a : Opnd) (m : Mods)
  /-- SRD (R312). -/
  | srd (d : Opnd) (a : Sr) (m : Mods)
  /-- SWR (R312). -/
  | swr (d : Sr) (a : Opnd) (m : Mods)
  /-- WSPX (R107). -/
  | wspx (d a : Opnd) (m : Mods)
  /-- QSTAT (R315). -/
  | qstat (d : Opnd) (a : BitVec 3) (m : Mods)
  /-- QFLUSH (R315). -/
  | qflush (a : BitVec 3) (m : Mods)
  /-- TLBI (R316). -/
  | tlbi (a : Opnd) (m : Mods)
  /-- BKPT (R317). -/
  | bkpt (m : Mods)
  /-- PROG (R318). -/
  | prog (a : Opnd) (m : Mods)
  /-- TRACE (R318). -/
  | trace (a : Opnd) (m : Mods)
  /-- CKSET (R319). -/
  | ckset (d a : Opnd) (m : Mods)
  /-- LD (R322). -/
  | ld (d a : Opnd) (z : Sz) (i : BitVec 7) (m : Mods)
  /-- ST (R322). -/
  | st (d a : Opnd) (z : Sz) (i : BitVec 7) (m : Mods)
  /-- LDX (R322). -/
  | ldx (f : Sz) (d a b : Opnd) (m : Mods)
  /-- STX (R322). -/
  | stx (f : Sz) (d a b : Opnd) (m : Mods)
  /-- LDA (R322). -/
  | lda (d a : Opnd) (z : Sz) (i : BitVec 3) (k : Scope) (m : Mods)
  /-- STL (R322). -/
  | stl (d a : Opnd) (z : Sz) (i : BitVec 3) (k : Scope) (m : Mods)
  /-- PREF (R323). -/
  | pref (a c : Opnd) (m : Mods)
  /-- CWB (R323). -/
  | cwb (a c : Opnd) (m : Mods)
  /-- CINV (R323). -/
  | cinv (a c : Opnd) (m : Mods)
  /-- CDISC (R136). -/
  | cdisc (a c : Opnd) (m : Mods)
  /-- CZERO (R136). -/
  | czero (a c : Opnd) (m : Mods)
  /-- IFENCE (R324). -/
  | ifence (m : Mods)
  /-- FENCE (R325). -/
  | fence (d : FenceKind) (m : Mods)
  /-- WAITA (R326). -/
  | waita (f : Sz) (d a b c : Opnd) (m : Mods)
  /-- AADD (R327). -/
  | aadd (d a b : Opnd) (m : Mods)
  /-- AAND (R327). -/
  | aand (d a b : Opnd) (m : Mods)
  /-- AOR (R327). -/
  | aor (d a b : Opnd) (m : Mods)
  /-- AXOR (R327). -/
  | axor (d a b : Opnd) (m : Mods)
  /-- AMIN (R327). -/
  | amin (d a b : Opnd) (m : Mods)
  /-- AMAX (R327). -/
  | amax (d a b : Opnd) (m : Mods)
  /-- ASWP (R327). -/
  | aswp (d a b : Opnd) (m : Mods)
  /-- AFADD (R327). -/
  | afadd (d a b : Opnd) (m : Mods)
  /-- ACAS (R327). -/
  | acas (d a b c : Opnd) (m : Mods)
  /-- BINIT (R330). -/
  | binit (a : BitVec 7) (d : Opnd) (m : Mods)
  /-- BARR (R331). -/
  | barr (a : BitVec 7) (m : Mods)
  /-- BWAIT (R331). -/
  | bwait (d : Opnd) (a : BitVec 7) (c : Opnd) (m : Mods)
  /-- BARW (R331). -/
  | barw (d : Opnd) (a : BitVec 7) (c : Opnd) (m : Mods)
  /-- BSTAT (R332). -/
  | bstat (d : Opnd) (a : BitVec 7) (m : Mods)
  /-- ROSEB (R149). -/
  | roseb (d : BitVec 4) (a : Opnd) (m : Mods)
  /-- ROSEQ (R333). -/
  | roseq (d : Opnd) (a : BitVec 4) (m : Mods)
  /-- ROSEX (R333). -/
  | rosex (d : BitVec 4) (m : Mods)
  /-- MSEND (R335). -/
  | msend (a c : Opnd) (m : Mods)
  /-- MSENDR (R335). -/
  | msendr (d a c : Opnd) (m : Mods)
  /-- MRECV (R336). -/
  | mrecv (d a c : Opnd) (m : Mods)
  /-- MRECVR (R336). -/
  | mrecvr (d a c : Opnd) (m : Mods)
  /-- MBIND (R174). -/
  | mbind (a : Opnd) (m : Mods)
  /-- MSTAT (R177). -/
  | mstat (d a : Opnd) (m : Mods)
  /-- TTGO (R179). -/
  | ttgo (a : Opnd) (m : Mods)
  /-- TTSEND (R180). -/
  | ttsend (d a : Opnd) (m : Mods)
  /-- TTRECV (R180). -/
  | ttrecv (d a : Opnd) (m : Mods)
  /-- TTEND (R181). -/
  | ttend (m : Mods)
  /-- TTQ (R181). -/
  | ttq (d : Opnd) (m : Mods)
  /-- FXDEF (R184). -/
  | fxdef (d a : Opnd) (m : Mods)
  /-- FXJOIN (R187). -/
  | fxjoin (a : Opnd) (m : Mods)
  /-- FXC (R190). -/
  | fxc (d a c : Opnd) (m : Mods)
  /-- FXW (R195). -/
  | fxw (d a c : Opnd) (m : Mods)
  /-- FXQ (R195). -/
  | fxq (d a : Opnd) (m : Mods)
  /-- FXLV (R187). -/
  | fxlv (a : Opnd) (m : Mods)
  /-- XTPL (R339). -/
  | xtpl (d : BitVec 6) (a : Opnd) (m : Mods)
  /-- XST (R340). -/
  | xst (d : BitVec 3) (a : Opnd) (m : Mods)
  /-- XCAN (R343). -/
  | xcan (d : BitVec 3) (m : Mods)
  /-- XSTAT (R343). -/
  | xstat (d : Opnd) (a : BitVec 3) (m : Mods)
  /-- CHARM (R71). -/
  | charm (a : Opnd) (m : Mods)
  /-- CHDEC (R73). -/
  | chdec (a : Opnd) (m : Mods)
  /-- CHPATCH (R72). -/
  | chpatch (d a : Opnd) (m : Mods)
  /-- CHCARD (R75). -/
  | chcard (d : Opnd) (m : Mods)
  /-- CHDONE (R76). -/
  | chdone (a : Opnd) (m : Mods)
  /-- CHQ (R344). -/
  | chq (d a : Opnd) (m : Mods)
  /-- VADD (R350). -/
  | vadd (d a b : Row) (m : Mods)
  /-- VSUB (R350). -/
  | vsub (d a b : Row) (m : Mods)
  /-- VMUL (R350). -/
  | vmul (d a b : Row) (m : Mods)
  /-- VMULZ (R350). -/
  | vmulz (d a b : Row) (m : Mods)
  /-- VFMA (R350). -/
  | vfma (d a b c : Row) (m : Mods)
  /-- VMIN (R350). -/
  | vmin (d a b : Row) (m : Mods)
  /-- VMAX (R350). -/
  | vmax (d a b : Row) (m : Mods)
  /-- VSACC (R352). -/
  | vsacc (d a b : Row) (c : Opnd) (m : Mods)
  /-- VAND (R353). -/
  | vand (d a b : Row) (m : Mods)
  /-- VOR (R353). -/
  | vor (d a b : Row) (m : Mods)
  /-- VXOR (R353). -/
  | vxor (d a b : Row) (m : Mods)
  /-- VSHL (R353). -/
  | vshl (d a b : Row) (m : Mods)
  /-- VSHR (R353). -/
  | vshr (d a b : Row) (m : Mods)
  /-- VSAR (R353). -/
  | vsar (d a b : Row) (m : Mods)
  /-- VABS (R354). -/
  | vabs (d a : Row) (m : Mods)
  /-- VNEG (R354). -/
  | vneg (d a : Row) (m : Mods)
  /-- VCMP (R355). -/
  | vcmp (d a b : Row) (m : Mods)
  /-- VSEL (R356). -/
  | vsel (d a b : Row) (m : Mods)
  /-- VCVT (R358). -/
  | vcvt (d a : Row) (m : Mods)
  /-- VMOV (R356). -/
  | vmov (d a : Row) (m : Mods)
  /-- VIOTA (R356). -/
  | viota (d : Row) (c : Opnd) (m : Mods)
  /-- VBCAST (R356). -/
  | vbcast (d : Row) (c : Opnd) (m : Mods)
  /-- VEXTR (R357). -/
  | vextr (d : Opnd) (a : Row) (c : Opnd) (m : Mods)
  /-- VINS (R357). -/
  | vins (d : Row) (a c : Opnd) (m : Mods)
  /-- VRED (R359). -/
  | vred (d a : Row) (m : Mods)
  /-- VSCAN (R359). -/
  | vscan (d a : Row) (m : Mods)
  /-- VPERM (R360). -/
  | vperm (d a b : Row) (m : Mods)
  /-- VSF (R361). -/
  | vsf (d a : Row) (m : Mods)
  /-- VMK (R362). -/
  | vmk (d a b : Row) (m : Mods)
  /-- VMPOP (R362). -/
  | vmpop (d : Opnd) (a : Row) (m : Mods)
  /-- VFENCE (R367). -/
  | vfence (m : Mods)
  /-- VLD (R364). -/
  | vld (d : Row) (c : Opnd) (m : Mods)
  /-- VST (R364). -/
  | vst (d : Row) (c : Opnd) (m : Mods)
  /-- VLDS (R364). -/
  | vlds (d : Row) (a c : Opnd) (m : Mods)
  /-- VSTS (R364). -/
  | vsts (d : Row) (a c : Opnd) (m : Mods)
  /-- VGATH (R365). -/
  | vgath (d a : Row) (c : Opnd) (m : Mods)
  /-- VSCAT (R365). -/
  | vscat (d a : Row) (c : Opnd) (m : Mods)
  /-- MWLD (R375). -/
  | mwld (d a : Opnd) (m : Mods)
  /-- MMA (R376). -/
  | mma (d a : Opnd) (m : Mods)
  /-- MMAG (R377). -/
  | mmag (d a c : Opnd) (m : Mods)
  /-- MMAP (R380). -/
  | mmap (d a : Opnd) (m : Mods)
  /-- MUPL (R379). -/
  | mupl (d : Opnd) (m : Mods)
  /-- MZERO (R381). -/
  | mzero (d : Opnd) (m : Mods)
  /-- MTR (R381). -/
  | mtr (d : Opnd) (m : Mods)
  /-- MST (R382). -/
  | mst (d a : Opnd) (m : Mods)
  /-- MLD (R382). -/
  | mld (d a : Opnd) (m : Mods)
  /-- MSACC (R381). -/
  | msacc (d : Opnd) (m : Mods)
  /-- MFENCE (R384). -/
  | mfence (m : Mods)
  /-- MSTAT_MATRIX (R385). -/
  | mstatMatrix (d : Opnd) (m : Mods)
  /-- ILLEGAL_ENCODING (R273): A word sequence that is not an instruction raises its cause when reached. -/
  | illegalEncoding (cause : BitVec 8) (enc : BitVec 64)
  /-- HALT_ON_WITHHELD (R204): A context waiting on an object halts with 0xA0 when the object becomes withheld. -/
  | haltOnWithheld (core ctx : Nat)
  /-- WAIT_LIMIT_EXPIRY (R206): A wait's limit runs out and the wait returns its timeout result. -/
  | waitLimitExpiry (core ctx : Nat)
  /-- WAITA_POLL (R326): A WAITA repeats its acquire poll of the word. -/
  | waitaPoll (core ctx : Nat)
  /-- PLACEMENT_ATTEMPT (R79): The dispatcher tries the first pool entries and places gangs on free aligned cores. -/
  | placementAttempt (part : Nat)
  /-- KERNEL_ENTRY (R122): After the zero-fill and waiting accesses, the control context starts at ENTRY in its entry state. -/
  | kernelEntry (core : Nat)
  /-- GANG_RETIRE (R86): A draining gang's work is acknowledged, its cores release at .part and return to the free set, and its task may
  become DONE. -/
  | gangRetire (part gang : Nat)
  /-- GRACE_EXPIRY (R87): A pre-empted task's grace period runs out and it becomes DISCARDED. -/
  | graceExpiry (part tcb : Nat)
  /-- TASK_WATCHDOG_EXPIRY (R60): A RUNNING task shows no progress for LIMIT µs and CHR_EVT.WDOG is set. -/
  | taskWatchdogExpiry (part tcb : Nat)
  /-- CHECKPOINT_IMAGE_WRITE (R88): Once accepted engine work has drained, copy engines write the image to the other half. -/
  | checkpointImageWrite (part cvy : Nat)
  /-- CHECKPOINT_COMMIT (R88): The header is written last, the deferred log is committed and the convoy resumes. -/
  | checkpointCommit (part cvy : Nat)
  /-- MATRIX_GRANT (R85): The octet matrix unit grants the next command by weighted rotation and starts it. -/
  | matrixGrant (octet : Nat)
  /-- MATRIX_COMMAND_COMPLETE (R370): A matrix command completes, writing its rows or faulting. -/
  | matrixCommandComplete (core : Nat)
  /-- MMAG_MEETING (R377): Every core of the rectangle waits in MMAG with room, and all commands enter their queues. -/
  | mmagMeeting (core : Nat)
  /-- VECTOR_ENGINE_START (R349): The vector engine starts its next queued instruction once its rows are free. -/
  | vectorEngineStart (core : Nat)
  /-- VECTOR_ENGINE_COMPLETE (R348): A vector instruction writes its rows and ORs its flags into FPSR. -/
  | vectorEngineComplete (core : Nat)
  /-- SFU_REQUEST_START (R119): The octet SFU starts the oldest request whose rows are free. -/
  | sfuRequestStart (octet : Nat)
  /-- SFU_RESULT (R119): An SFU result reaches its destination row. -/
  | sfuResult (octet : Nat)
  /-- COPY_START (R341): A channel runs its next accepted copy with its captured template. -/
  | copyStart (core ch : Nat)
  /-- COPY_COMPLETE (R342): A copy's writes are acknowledged, its flag is written and its status word set. -/
  | copyComplete (core ch : Nat)
  /-- MAIN_FILE_WRITEBACK (R105): On an idle scratchpad port cycle one dirty entry of an unbound workspace is written back. -/
  | mainFileWriteback (core : Nat)
  /-- MESH_ACCESS_ARRIVAL (R132): An access from another core reaches a core's array port and is performed or held. -/
  | meshAccessArrival (id : Nat)
  /-- PAGE_WALK_COMPLETE (R143): A translation walk ends, installing entries on success or faulting the waiting accesses. -/
  | pageWalkComplete (id : Nat)
  /-- ZERO_ON_FIRST_TOUCH (R144): The base die finishes zero-filling a Z page and the walk clears Z. -/
  | zeroOnFirstTouch (id : Nat)
  /-- MESSAGE_SEND (R175): The network interface sends a queued message once an allowance is free. -/
  | messageSend (core : Nat)
  /-- MESSAGE_ARRIVAL (R175): A message arrives whole and is stored in its mailbox and folded into the wake digest. -/
  | messageArrival (id : Nat)
  /-- ALLOWANCE_RETURN (R175): An allowance returns to the sender after a message is taken. -/
  | allowanceReturn (id : Nat)
  /-- MAILBOX_GRANT (R174): A producer's network interface records a grant from MBIND and sends held messages. -/
  | mailboxGrant (id : Nat)
  /-- MBIND_COMPLETE (R174): Revoked messages have arrived and MBIND grants or fails. -/
  | mbindComplete (core : Nat)
  /-- BARRIER_ARRIVAL (R330): An arrival reaches the origin core and is counted, possibly completing the instance. -/
  | barrierArrival (id : Nat)
  /-- BARRIER_RELEASE (R330): A barrier release reaches a participating core, returning waits and advancing bound rose needles. -/
  | barrierRelease (id : Nat)
  /-- TIMETABLE_RELEASE (R179): All participants have joined and the phase releases them in one mesh cycle. -/
  | timetableRelease (core : Nat)
  /-- TIMETABLE_WORD_ARRIVAL (R181): A timetable word reaches its destination, damaged or intact. -/
  | timetableWordArrival (id : Nat)
  /-- TIMETABLE_END (R181): The TTEND meeting releases and the links return to ordinary use. -/
  | timetableEnd (core : Nat)
  /-- FIX_CONTRIBUTION_ARRIVAL (R190): A contribution reaches the folding agent and is judged on time, late, early, duplicate or
  rejected. -/
  | fixContributionArrival (id : Nat)
  /-- NEAR_MEMORY_FOLD (R17): A base die folds 64 B of contributions into a DRAM line in place. -/
  | nearMemoryFold (id : Nat)
  /-- PKT_FIX_CONTRIBUTION (R31): A fix contribution packet arrives at a port and passes the checks. -/
  | pktFixContribution (port : Nat)
  /-- PKT_FIX_RESULT (R31): A fix result packet arrives at a port. -/
  | pktFixResult (port : Nat)
  /-- PKT_REMOTE_WRITE (R31): A remote write packet arrives and is translated and written. -/
  | pktRemoteWrite (port : Nat)
  /-- PKT_REMOTE_FOLD (R31): A remote fold packet arrives and is folded at the base die. -/
  | pktRemoteFold (port : Nat)
  /-- PKT_E2E_ACK (R33): A cumulative end-to-end acknowledgement frees kept packets. -/
  | pktE2eAck (port : Nat)
  /-- PKT_WITHHELD (R35): A withheld notice marks a remote rank withheld. -/
  | pktWithheld (port : Nat)
  /-- PKT_RELEASED (R207): A released notice cancels a withheld rank and releases waiters next cycle. -/
  | pktReleased (port : Nat)
  /-- E2E_TIMEOUT (R33): The oldest unacknowledged packet has waited TIMEOUT µs and the flow resends. -/
  | e2eTimeout (dev vl : Nat)
  /-- FLOW_LOST (R34): RETRY_LIM resends fail, the flow is lost and its packets discarded. -/
  | flowLost (dev vl : Nat)
  /-- HUB_DRAIN_TIMEOUT (R41): After 100 µs the remaining packets of a reset partition are dropped. -/
  | hubDrainTimeout (die part : Nat)
  /-- HUB_SCRUB (R41): After the drain, the partition's combining entries are zeroed and freed. -/
  | hubScrub (die part : Nat)
  /-- COMPLETION_RECORD_WRITE (R53): A waiting completion record is written to the host ring and MSI-X 0 is sent. -/
  | completionRecordWrite (vf : Nat)
  /-- MMU_INV_COMPLETE (R145): Earlier walks have ended and GO reads 0. -/
  | mmuInvComplete (part : Nat)
  /-- CHAINED_RELEASE (R207): Halts naming a released halt as upstream are released one mesh cycle later. -/
  | chainedRelease (part : Nat) (id : Nat)
  /-- TRACE_RECORD_WRITE (R223): A buffered trace record is written to the ring. -/
  | traceRecordWrite (core : Nat)
  /-- SOUNDING_PAUSE (R228): The trial's count reaches P and delays are charged. -/
  | soundingPause (part : Nat)
  /-- TIMETABLE_OFFSET_REACHED (R180): The mesh cycle of an early TTSEND's or TTRECV's offset arrives, and the word is injected or the
  receive acts. -/
  | timetableOffsetReached (core ctx : Nat)
  /-- MEMORY_ACCESS_ARRIVAL (R137): A load, store, atomic or prefetch reaches the L2, the die scratchpad or the stack, and is ordered and
  performed in arrival order, including the answer to an outstanding HBM miss. -/
  | memoryAccessArrival (id : Nat)
  /-- ACCESS_RESPONSE_RETURN (R166): A load's data or a store's or atomic's acknowledgement returns to the issuing core, writing the
  destination or letting a pending release or fence complete. -/
  | accessResponseReturn (id : Nat)
  /-- BREAKPOINT_HALT (R219): An instruction breakpoint matches before issue and halts the context with 0x90. -/
  | breakpointHalt (core ctx i : Nat)
  /-- CHR_PREEMPT (R87): Pilot firmware's pre-emption request stops gangs or dealing of a task or convoy. -/
  | chrPreempt (part : Nat) (v : BitVec 64)
  /-- FAULT_RESOLUTION (R93): Pilot firmware resolves a FAULTED task by resume, chunk restart or kill. -/
  | faultResolution (part tcb : Nat) (how : Resolution)
  /-- RX_DATA_FLIT (R29): A data flit is received and checked by CRC and sequence. -/
  | rxDataFlit (port : Nat) (flit : BitVec 512)
  /-- RX_NAK_FLIT (R29): A NAK makes the sender resend from the next flit. -/
  | rxNakFlit (port : Nat) (flit : BitVec 512)
  /-- RX_CREDIT_FLIT (R32): A credit flit returns send allowances. -/
  | rxCreditFlit (port : Nat) (flit : BitVec 512)
  /-- RX_IDLE_FLIT (R28): An idle flit carries an acknowledgement. -/
  | rxIdleFlit (port : Nat) (flit : BitVec 512)
  /-- LANE_FAIL (R30): A lane fails after eight resends and the port drops to one lane or retrains. -/
  | laneFail (port lane : Nat)
  /-- TRAINING_ATTEMPT_END (R27): A training attempt ends with lanes up or fails and retries. -/
  | trainingAttemptEnd (port : Nat) (pass0 pass1 : Bool) (peer0 peer1 : BitVec 62)
  /-- TRAINING_TIMEOUT (R26): No lane passes within 10 ms and a new attempt or FAILED follows. -/
  | trainingTimeout (port : Nat)
  /-- FLOW_RESET (R34): A FLOW_RESET write restarts the flows to and from a device. -/
  | flowReset (dev : Nat)
  /-- LINK_EN (R26): Setting LINK_EN starts training; clearing it disables the port. -/
  | linkEn (port : Nat) (on : Bool)
  /-- LINK_RETRAIN (R26): Writing LINK_RETRAIN starts RETRAIN from UP2 or UP1. -/
  | linkRetrain (port : Nat)
  /-- PACKAGE_RESET (R61): Package reset starts bring-up. -/
  | packageReset
  /-- POWER_GOOD (R61): Power is good on all rails and bring-up step 1 ends. -/
  | powerGood
  /-- RAIL_TIMEOUT (R61): Rails are not good within 50 ms and bring-up fails. -/
  | railTimeout
  /-- SELF_CALIBRATION_DONE (R61): SerDes, PHY and sensor calibration ends. -/
  | selfCalibrationDone (ok : Bool) (bad : BadPhys)
  /-- HBM_INIT_DONE (R61): HBM initialisation and zero-fill ends. -/
  | hbmInitDone (ok : Bool)
  /-- BOOT_ROM_LOAD (R56): The boot ROM checks and loads pilot firmware, runs self-tests and sets READY or recovery. -/
  | bootRomLoad (failing : List Nat)
  /-- POWER_CLAMP_SAMPLE (R22): Package power is sampled and the clock is stepped down or up. -/
  | powerClampSample (avgWatts : Nat) (below1ms : Bool)
  /-- THERMAL_LIMIT (R22): A junction above 105 °C forces the lowest clock step until it falls below 95 °C. -/
  | thermalLimit (hot : Bool)
  /-- THERMAL_TRIP (R22): Above 115 °C the I/O die removes package power and records TRIP. -/
  | thermalTrip
  /-- PILOT_WD_KICK (R60): A pilot-core write restarts the pilot watchdog count. -/
  | pilotWdKick
  /-- PILOT_WATCHDOG_EXPIRY (R60): The pilot watchdog expires and pilot firmware is reloaded. -/
  | pilotWatchdogExpiry
  /-- NUMVFS_WRITE (R47): A NumVFs write enables or disables VFs, or is held before READY. -/
  | numvfsWrite (n : Nat)
  /-- LOCK_INTERFACE_REQUEST (R48): Locks the VF's configuration and moves it to CONFIG_LOCKED. -/
  | lockInterfaceRequest (vf : Nat)
  /-- START_INTERFACE_REQUEST (R48): Moves a locked VF to RUN. -/
  | startInterfaceRequest (vf : Nat)
  /-- STOP_INTERFACE_REQUEST (R48): Resets the partition as needed and returns the VF to CONFIG_UNLOCKED. -/
  | stopInterfaceRequest (vf : Nat)
  /-- GET_DEVICE_INTERFACE_REPORT (R48): Returns the VF's MMIO range report. -/
  | getDeviceInterfaceReport (vf : Nat)
  /-- LOCKED_ITEM_WRITE (R48): A host write to a locked item is a breach moving the VF to ERROR. -/
  | lockedItemWrite (vf : Nat)
  /-- IDE_INTEGRITY_FAILURE (R48): An integrity failure on the VF's IDE stream is a breach. -/
  | ideIntegrityFailure (vf : Nat)
  /-- FUNCTION_LEVEL_RESET (R63): An FLR of a VF resets its partition. -/
  | functionLevelReset (vf : Nat)
  /-- PARTITION_RESET_COMPLETE (R63): After the stack zero-fill, firmware rebuilds tables and the VF becomes CONFIG_UNLOCKED. -/
  | partitionResetComplete (part : Nat) (setup : ResetSetup)
  /-- GET_MEASUREMENTS (R50): Returns measurement blocks including per-die evidence. -/
  | getMeasurements (fn : Nat) (nonce : BitVec 256)
  /-- DIE_EVIDENCE_TIMEOUT (R50): A die fails to answer within 10 ms and its block has an empty signature. -/
  | dieEvidenceTimeout (die : Nat)
  /-- KEY_EXCHANGE (R49): Sets up a secure SPDM session, refusing a fifth. -/
  | keyExchange (fn : Nat) (version : BitVec 8)
  /-- KEY_LOAD (R51): A vendor-defined message loads a key into a slot and increments its generation. -/
  | keyLoad (vf slot : Nat) (key : BitVec 512)
  /-- VF_ARM (R52): A host arm of a TCB, refused into VF_ARMERR on failure. -/
  | vfArm (vf : Nat) (v : BitVec 64)
  /-- VF_CMPL_TAIL (R53): A TAIL write frees ring room for waiting records. -/
  | vfCmplTail (vf : Nat) (v : BitVec 64)
  /-- VF_CMPL_CTL (R54): A write sets the ring size and enable, clearing EN on a bad LOG2N. -/
  | vfCmplCtl (vf : Nat) (v : BitVec 64)
  /-- VF_LOAD_GO (R62): GO starts a code load or is refused. -/
  | vfLoadGo (vf : Nat) (tee : Bool)
  /-- CODE_LOAD_COMPLETE (R285): The container is checked, finalised or copied, relocated, TCBs written and STATUS reported. -/
  | codeLoadComplete (vf : Nat) (hostReadOk : Bool)
  /-- FW_UPDATE_GO (R57): GO starts fetching and checking a firmware image. -/
  | fwUpdateGo (v : BitVec 64)
  /-- FW_UPDATE_COMPLETE (R57): The flash write ends and FW_STAT reports the outcome. -/
  | fwUpdateComplete (image : FwImage) (flashOk : Bool)
  /-- CORE_DUMP_START (R64): A fatal partition fault with ARM set starts a core dump. -/
  | coreDumpStart (part : Nat) (cause : BitVec 8) (haltId : Nat)
  /-- DUMP_RECORD_READBACK (R65): A dump record's read-backs complete and the next record or header follows. -/
  | dumpRecordReadback (fault : Option Nat)
  /-- DUMP_READBACK_TIMEOUT (R65): A read-back times out after 50 ms and the dump stops with WRITE_FAULT. -/
  | dumpReadbackTimeout (off : Nat)
  /-- MMU_INV (R145): Starts invalidation of matching translations across the partition. -/
  | mmuInv (part : Nat) (v : BitVec 64)
  /-- HALT_REQUEST (R217): HLT_REQ.GO halts the named contexts. -/
  | haltRequest (part : Nat) (v : BitVec 64)
  /-- HALT_RELEASE (R207): HLT_REL without KILL releases a halt. -/
  | haltRelease (part : Nat) (id : Nat)
  /-- HALT_KILL (R208): HLT_REL with KILL kills the context. -/
  | haltKill (part : Nat) (id : Nat)
  /-- TR_CTL (R223): A TR_CTL write, clearing EN only once the buffer drains. -/
  | trCtl (core : Nat) (v : BitVec 64)
  /-- WAKE (R226): A WAKE write sets the digest and clears WAKE_CNT on 0. -/
  | wake (core : Nat) (v : BitVec 64)
  /-- SOUNDING_GO (R228): Starts a sounding trial or sets ERR. -/
  | soundingGo (part : Nat) (v : BitVec 64)
  /-- SOUNDING_STOP (R228): Ends the sounding trial. -/
  | soundingStop (w : SndWrite)
  /-- REGISTER_WRITE (R5): A write to a register with no row of its own, by its access codes. -/
  | registerWrite (src : RegWriter) (addr : Nat) (v : BitVec 64)
  /-- SPDM_REQUEST (R49): An SPDM request other than KEY_EXCHANGE or GET_MEASUREMENTS (version, capabilities, algorithms, certificate,
  challenge, heartbeat, end of session) is answered by the responder, or refused with VersionMismatch. -/
  | spdmRequest (fn : Nat) (version : BitVec 8) (h : SpdmHead)
deriving DecidableEq, Repr

end Sys2Proof
end

