-- ==== Sys2Proof/Machine/State.lean ====
section
/-! DEFINITION. The state of the whole package as plain data: what each chapter of the spec gives the machine, the
model's own fields that say which agent moves next, the faults, the refusals and the state after reset. -/

namespace Sys2Proof.Machine

/-! ### A hardware context (05_cores.md) -/

/-- R100. -/
inductive CtxSt
  | free | live | halted
deriving DecidableEq, Repr

/-- What a context blocked in a wait instruction awaits (R98, R202). -/
inductive WaitOn
  | popQ (q : Nat) | pushQ (q : Nat)
  | mailbox (m : Nat)
  | barrier (b : Nat)
  | fix (h : BitVec 32) (tag : BitVec 32)
  | fixq (h : BitVec 32) (tag : BitVec 32)
  | helper (h : Nat)
  | channel (ch : Nat)
  | phase
  | inject
  | meeting
  | chart
  | release
  | poll
  | helpers
  | vector
  | operands
deriving DecidableEq, Repr

/-- A wait in progress: its limit (0 for none), the cycles counted towards it (R206), whether its arrival has been made
(R204), whether the limit has run out, and for WAITA the cycle of the last poll. -/
structure Wait where
  on : WaitOn
  limit : Nat := 0
  elapsed : Nat := 0
  arrived : Bool := false
  expired : Bool := false
deriving DecidableEq, Repr

/-- How a value that returns is widened to 64 bits (R266, R267). -/
inductive Widen
  | size (z : Sz) | ty (t : ElTy)
deriving DecidableEq, Repr

/-- A destination whose value has not been produced yet (R99). -/
structure Pend where
  id : Nat
  d : Opnd
deriving DecidableEq, Repr

/-- A halt record, d0 to d3 (R199). -/
structure HaltRec where
  d0 : Word := 0
  d1 : Word := 0
  d2 : Word := 0
  d3 : Word := 0
deriving DecidableEq, Repr

/-- The ordering kinds of pages (R141, R164). -/
inductive PageKind
  | so | rc | uo
deriving DecidableEq, Repr

/-- Where an access is performed. -/
inductive Loc
  | scr (core off : Nat)
  | die (d off : Nat)
  | hbm (pa key : Nat) (kind : PageKind) (x : Bool)
  | acc (core off : Nat)
deriving DecidableEq, Repr

/-- A command of the vector engine or the SFU (R114, R119): the instruction, what it read at issue (scalars, the seed of
R239, the rounding field resolved, FTZ), the lanes' bytes as its checks found them (R363), what is ordered before its accesses,
and the id that its results carry.  `ctx` is 11 once its context has ended; `issuer` still names it then. -/
structure VCmd where
  id : Nat
  ctx : Nat
  issuer : Nat := ctx
  instr : Instr
  s0 : Word := 0
  s1 : Word := 0
  seed : BitVec 32 := 0
  rm : RndF := .rne
  ftz : Bool := false
  lanes : List (Nat × List (Loc × Nat)) := []
  after : List Nat := []
deriving DecidableEq, Repr

/-- A command of the matrix port (R368 to R370): the instruction, its control word, its resolved address and pitch, the
rounding resolved at issue, the seed, and its sequence (R386); for MMAG the rectangle word, whether the descriptors differ, and
the cores and words that supply A and B (R377, R378); the bytes read as the command started, and the fault of that read. -/
structure MCmd where
  id : Nat
  ctx : Nat
  instr : Instr
  word : Word := 0
  addr : Word := 0
  pitch : Nat := 0
  rm : RndF := .rne
  seed : BitVec 32 := 0
  seq : BitVec 16 := 0
  after : List Nat := []
  rect : Word := 0
  meet : Nat := 0
  bad : Bool := false
  aFrom : Nat × Word × Nat := (0, 0, 0)
  bFrom : Nat × Word := (0, 0)
  data : List Byte := []
  bdata : List Byte := []
  fault : Option (BitVec 8) := none
deriving DecidableEq, Repr

/-- What the record of a halt names (R199, R204): the awaited object, whether the wait had arrived, and the upstream's core, context
and halt id: all 0 where no halt stands behind it, none where it is a rank of another device. -/
structure Upstream where
  kind : Nat
  obj : Nat
  arrived : Bool
  up : Option (Nat × Nat × Nat)
deriving DecidableEq, Repr

/-- One hardware context (R96, R100, R104, R122). -/
structure Ctx where
  st : CtxSt := .free
  wsp : Word := 0
  o : Vector Word 8 := Vector.replicate 8 0
  lr : Word := 0
  p : BitVec 8 := 0
  pc : Word := 0
  fpsr : Word := 0
  slim : Word := 0
  tvec : Word := 0
  cause : Word := 0
  faddr : Word := 0
  epc : Word := 0
  seed : BitVec 32 := 0x2545F491#32
  /-- The fetch buffer and the address of its block (R155). -/
  fbuf : Option (Nat × Line) := none
  /-- The cycle of the last issue, and the cycle of becoming live (R97). -/
  lastIssue : Option Nat := none
  liveAt : Nat := 0
  /-- Destinations not yet written, and whose result lr waits for (R99, R109). -/
  pend : List Pend := []
  lrPend : Option Nat := none
  /-- What must retire before the context is ready again (R166, R325, R344, R367, R384). -/
  block : List Nat := []
  wait : Option Wait := none
  /-- The instruction that has issued and has not completed, if there is one (R98, R112), what it read as it issued, in the order A, B, C,
  D, and the queue entry that it has reserved for its result: the queue, and the entry's id. -/
  doing : Option Instr := none
  held : List Word := []
  tail : Option (Nat × Nat) := none
  /-- A halt whose registers have been written back and whose record waits for the release of R170: cause, PC, what it names. -/
  halting : Option (BitVec 8 × Word × Option Upstream) := none
  /-- The id of a halt that has been taken and whose record is still to be written (R199, R201). -/
  haltAs : Option Nat := none
  /-- The cycle until which a YIELD holds the context (R308). -/
  delayTo : Nat := 0
  /-- Pending delay of a sounding (R228). -/
  sounding : Nat := 0
  /-- The workspace last held since placement (R102). -/
  lastWs : Option Word := none
  /-- Unstarted SFU requests held after a deschedule (R120). -/
  heldSfu : List VCmd := []
  /-- The halt record (R199). -/
  hrec : HaltRec := {}
  /-- The breakpoint, BKPT or step that stopped the context is passed for one issue (R207, R317). -/
  pass : Bool := false
  /-- A page walk that failed: page, cause (R146). -/
  walkFault : Option (Nat × BitVec 8) := none
  /-- The workspace-less entry of R123. -/
  noWs : Bool := false
  /-- Stopped by a checkpoint pause (R88). -/
  paused : Bool := false
  /-- Halt requested and to be taken at the next boundary (R217). -/
  haltReq : Bool := false
  /-- To be killed at the next boundary (R208). -/
  killReq : Bool := false
  /-- The answer to the context's request to the Chartroom or its binding of a mailbox, or what a poll read: a cause, or 0
  and a value (R174, R326, R344). -/
  answer : Option (BitVec 8 × Word) := none
  /-- The two queue entries that a waiting MRECVR has reserved: the queue, and the first of their two ids (R336). -/
  resv : Option (Nat × Nat) := none
  /-- An early TTSEND or TTRECV: whether it sends, the target core, the offset, the word as the links carry it (R180). -/
  tt : Option (Bool × Nat × Nat × Word) := none
  /-- The command of an MMAG that waits for its meeting (R377). -/
  meet : Option MCmd := none
  /-- A watchpoint or step halt that is taken once the matched instruction has taken effect: cause, FADDR (R221, R222). -/
  stopBy : Option (BitVec 8 × Word) := none
deriving DecidableEq, Repr

/-! ### A core -/

/-- A main-file entry (R105); the list of them stands most recently used first. -/
structure MfEntry where
  addr : Nat
  val : Word
  dirty : Bool
deriving DecidableEq, Repr

/-- An entry of a queue register: reserved until its value is there (R111, R112). -/
structure QEntry where
  id : Nat
  val : Option Word
deriving DecidableEq, Repr

/-- A queue register with the contexts that the withheld rule looks at (R202). -/
structure QReg where
  ents : List QEntry := []
  pushers : List Nat := []
  poppers : List Nat := []
  /-- Reserved entries whose values are discarded when they arrive (R113). -/
  discard : List Nat := []
deriving DecidableEq, Repr

/-- A named barrier of one core (R329, R330, R332). -/
structure Barrier where
  desc : Option Word := none
  /-- Contexts of this core with an arrival not yet released. -/
  waiting : List Nat := []
  /-- At the origin: the (core, context) pairs counted in the current instance. -/
  counted : List (Nat × Nat) := []
  /-- At the origin: arrivals held until bN is bound to their descriptor. -/
  held : List (Word × Nat × Nat) := []
  /-- Releases seen at this core, those of each descriptor (R152), and by context the descriptor of the instance that has released it
  (R169). -/
  seen : Nat := 0
  rels : AMap Nat := []
  freed : AMap Word := []
deriving DecidableEq, Repr

/-- A rose region (R148, R149, R154). -/
structure Rose where
  bound : Bool := false
  base : Word := 0
  lead : Nat := 0
  barrier : Nat := 0
  slots : Nat := 0
  slotbytes : Nat := 0
  laps : Nat := 0
  view : Bool := false
  hregion : Nat := 0
  /-- The home core of a view, and the home's generation that the view recorded. -/
  hcore : Nat := 0
  hgen : Nat := 0
  needle : Nat := 0
  lap : BitVec 32 := 0
  gen : Nat := 0
deriving DecidableEq, Repr

/-- A stored message (R175, R176): its header, its payload as the link carries it (R178), the sender and the grant's
generation. -/
structure Msg where
  hdr : Word
  data : List Byte
  src : Nat
  gen : Nat
  /-- Arrived out of its turn under replay (R227), and the number of its arrival. -/
  hidden : Bool := false
  seq : Nat := 0
deriving DecidableEq, Repr

/-- An MBIND in progress (R174): the new binding word, whether step 2 waits, and the producers whose grant is on its
way. -/
structure Rebind where
  id : Nat
  ctx : Nat
  word : Word
deriving DecidableEq, Repr

/-- A mailbox (R173). -/
structure Mailbox where
  word : Option Word := none
  msgs : List Msg := []
  gen : Nat := 0
  rebind : Option Rebind := none
deriving DecidableEq, Repr

/-- A grant held by a network interface for a mailbox of another core (R174, R175). -/
structure Grant where
  gen : Nat
  slotBytes : Nat
  free : Nat
deriving DecidableEq, Repr

/-- A command of the send queue (R114): a message, or a fix contribution (R338). -/
inductive SendCmd
  | msg (dst mbox : Nat) (hdr : Word) (data : List Byte) (after : List Nat)
  | fix (handle tag : BitVec 32) (rank : Nat) (src : Word) (after : List Nat)
deriving DecidableEq, Repr

/-- A copy accepted by a channel (R340): the captured template, the value of XST, the issuing context and the
workspace that it had bound, its sequence, the resolved rose bases (R152), and the fault found at acceptance. -/
structure Copy where
  tpl : Line
  word : Word
  ctx : Nat
  wsp : Word
  seq : BitVec 16
  void : Bool := false
  roseSrc : Option Word := none
  roseDst : Option Word := none
  fault : Option (BitVec 8) := none
  after : List Nat := []
  /-- Its claim on accumulator rows (R117); ids rise in the order of issue. -/
  claim : Nat := 0
  /-- It is deferred: it was accepted in a checkpointed convoy with DEFER set (R89). -/
  defer : Bool := false
  /-- A lost flow has discarded packets of a REMOTE copy (R342). -/
  lost : Bool := false
  bytes : Nat := 0
deriving DecidableEq, Repr

/-- A copy channel (R114, R342, R343). -/
structure Channel where
  queue : List Copy := []
  running : Option Copy := none
  status : Word := 0
  seq : BitVec 16 := 0
  /-- The issuing context of the faulted copy, and the next halt id when the fault was recorded (R202). -/
  faultBy : Option (Nat × Nat) := none
deriving DecidableEq, Repr

/-- The matrix status word's parts (R387). -/
structure MStat where
  fseq : BitVec 16 := 0
  done : BitVec 16 := 0
  flags : BitVec 5 := 0
  cause : BitVec 8 := 0
  faulted : Bool := false
  accepted : BitVec 16 := 0
deriving DecidableEq, Repr

/-- A claim on rows in the scoreboard of R117, in issue order; `rd` and `wr` are row sets. -/
structure Claim where
  id : Nat
  rd : BitVec 128
  wr : BitVec 128
deriving DecidableEq, Repr

/-- An L1 line (R131, R133, R165): its way, its physical address, its bytes, which of them are valid and which dirty, the page's
kind and whether the page is executable. -/
structure L1Line where
  way : Nat
  pa : Nat
  key : Nat
  data : Line
  valid : BitVec 64
  dirty : BitVec 64
  kind : PageKind
  x : Bool
deriving DecidableEq, Repr

/-- A TLB entry (R143): the page's first virtual address, its size, the physical base and the leaf's fields. -/
structure TlbEnt where
  va : Nat
  size : Nat
  pa : Nat
  root : Nat
  key : Nat
  kind : PageKind
  r : Bool
  w : Bool
  x : Bool
deriving DecidableEq, Repr

/-- The gang that a core belongs to (R79, R80, R313): the placing partition, the task and the gang's number, the
rectangle, and whether the core's control context has exited. -/
structure GangRef where
  part : Nat
  tcb : Nat
  num : Nat
  x0 : Nat
  y0 : Nat
  lw : Nat
  lh : Nat
  /-- The convoy (0xFFFF for none) and the member index (R82, R311). -/
  convoy : Nat := 0xFFFF
  member : Nat := 0
deriving DecidableEq, Repr

/-- A word under way in a timetable phase (R180): where it comes from, when it was injected, and its value. -/
structure TtWord where
  id : Nat
  src : Nat
  dst : Nat
  off : Nat
  val : Word
  damaged : Bool := false
deriving DecidableEq, Repr

/-- A core's part in a timetable phase (R179 to R181). -/
structure Phase where
  rect : Word
  ctx : Nat
  /-- The mesh cycle r of the release, none while the phase is pending. -/
  release : Option Nat := none
  damage : Bool := false
  /-- Words that have reached this core: (offset at which they are readable, value, damaged). -/
  arrived : List (Nat × Word × Bool) := []
  /-- The context waits at TTEND. -/
  ending : Bool := false
  ended : Bool := false
deriving DecidableEq, Repr

/-- A contribution, or under ARRIVAL order a chunk of one, on its way to or held at a folding agent (R190, R192, R193). -/
structure Contrib where
  rank : Nat
  tag : BitVec 32
  vals : List (BitVec 32)
  weight : BitVec 32 := 0x3F800000
  /-- Which chunk, and of how many. -/
  chunk : Nat := 0
  chunks : Nat := 1
  /-- The port through which it has reached the home die's hub, 64 from the hub's own die, and the partition that a combining entry is
  charged to (R39, R40). -/
  port : Nat := 64
  part : Nat := 0
deriving DecidableEq, Repr

/-- The round state that a folding agent holds (R186, R190, R191, R194). -/
structure Fold where
  tag : BitVec 32 := 0
  onTime : List Contrib := []
  late : List Contrib := []
  early : List Contrib := []
  /-- (round, rank, chunk) received on time and late, for R194. -/
  seen : List (BitVec 32 × Nat × Nat) := []
  lagging : List Nat := []
  /-- A departure has left the open round without its quorum (R191). -/
  quorumLost : Bool := false
  /-- The last completed round: tag, contributors, quorum lost. -/
  last : Option (BitVec 32 × Nat × Bool) := none
  stopped : Bool := false
  /-- ARRIVAL order: the running values, whether an element has had its first term, and the weight sum (R189, R193). -/
  acc : List (BitVec 32) := []
  wsum : BitVec 32 := 0
  lates : Nat := 0
  /-- Chunks from other devices of a contribution that is not whole yet. -/
  parts : List Contrib := []
  folderr : Bool := false
deriving DecidableEq, Repr

/-- The algorithms of R185. -/
inductive Alg
  | auto | pushall | combine | fold | timetable
deriving DecidableEq, Repr

/-- A fix object (R182 to R187): its descriptor, its resolved algorithm, its rank table, who joined, and the folding
agents' round states by member (a single agent, the home, stands at 0). -/
structure FixObj where
  live : Bool := false
  gen : BitVec 4 := 0
  desc : Line := 0
  alg : Alg := .auto
  table : List Word := []
  root : Nat := 0
  /-- Rank, core, context. -/
  joined : List (Nat × Nat × Nat) := []
  departed : List Nat := []
  /-- Ranks of other devices known to be halted (R35, R202). -/
  remoteHalted : List Nat := []
  /-- Ranks of this device whose withheld notice has been sent and not cancelled (R35). -/
  noticed : List Nat := []
  folds : List (Nat × Fold) := []
  /-- TIMETABLE: contributions at their members' network interfaces that wait for the round's phase (R186). -/
  phase : List Contrib := []
deriving DecidableEq, Repr

/-- One core (R96). -/
structure Core where
  ctxs : Vector Ctx 11 := Vector.replicate 11 {}
  mf : List MfEntry := []
  qs : Vector QReg 8 := Vector.replicate 8 {}
  bars : AMap Barrier := []
  roses : AMap Rose := []
  mboxes : AMap Mailbox := []
  grants : AMap Grant := []
  sendq : List SendCmd := []
  tpls : AMap Line := []
  chans : AMap Channel := []
  vq : List VCmd := []
  vrun : List VCmd := []
  mq : List MCmd := []
  mrun : Option MCmd := none
  mstat : MStat := {}
  /-- The microprogram word of the slot (R379), and whether an MUPL has been issued. -/
  mup : Word := 0
  mupIssued : Bool := false
  rows : AMap (BitVec 2048) := []
  wts : Mem := []
  claims : List Claim := []
  scr : Mem := []
  /-- SCRATCH and STACK of the last launch, in KiB (R128, R131, R311). -/
  scratch : Nat := 0
  stack : Nat := 0
  l1 : List L1Line := []
  fifo : List Nat := []
  tlb : List TlbEnt := []
  gang : Option GangRef := none
  phase : Option Phase := none
  fixes : AMap FixObj := []
  trace : List (Word × Word) := []
  /-- The records of the present cycle that tracing has not taken: they are recorded if its start source fires in the cycle (R224). -/
  missed : List (Word × Word) := []
  rplPos : Nat := 0
  /-- A stop trigger has fired in this cycle (R224). -/
  trStop : Bool := false
  /-- Under STOPFULL the ring is full (R223). -/
  trFull : Bool := false
  /-- A write that clears TR_CTL.EN, which waits for the trace buffer to drain (R223). -/
  trOff : Option Word := none
  /-- The boundary move of a placement is under way (R132). -/
  moving : Bool := false
deriving DecidableEq, Repr

/-! ### Shared units -/

/-- An octet (R11, R85, R118, R119, R143). -/
structure Octet where
  tlb : List TlbEnt := []
  sfuq : List (Nat × VCmd) := []
  sfuRun : List (Nat × VCmd) := []
  /-- Rotation position and grants used of the matrix arbiter (R85). -/
  arb : Nat := 0
  used : Nat := 0
  /-- The core whose command the matrix unit runs. -/
  matrix : Option Nat := none
deriving DecidableEq, Repr

/-- A page walk under way (R143, R144, R146): the root, the page's virtual address, and the contexts and engines that
wait for it. -/
structure Walk where
  id : Nat
  core : Nat
  root : Nat
  va : Nat
  /-- The entry's address while its page's zero-fill runs (R144). -/
  zeroing : Option Nat := none
deriving DecidableEq, Repr

/-- An L2 line (R134, R135): its way, 0 to 7 for the even and 8 to 15 for the odd partition's stack; a zero line holds a zero tag, which
has no way, and no data.  `key` is the slot of its page. -/
structure L2Line where
  way : Nat
  pa : Nat
  zero : Bool
  data : Line
  dirty : Bool
  key : Option Nat
deriving DecidableEq, Repr

/-- A compute die (R9, R134, R139, R143). -/
structure Die where
  scr : Mem := []
  l2 : List L2Line := []
  /-- The last-level TLB, by partition: each has its half (R143). -/
  tlb : AMap (List TlbEnt) := []
  walks : List Walk := []
deriving DecidableEq, Repr

/-! ### Accesses under way (R132, R137, R166) -/

/-- What an access does there. -/
inductive MemOp
  | read | write (v : Word) | rmw (i : Instr) (y c : Word)
  | zero
  | fill
  | wb (data : Line) (mask : BitVec 64)
deriving DecidableEq, Repr

/-- What an access through a rose view takes with it (R150, R152): the home core and region, the slot distance k, the offset in the slot
and the bytes; BASE, SLOTS and SLOTBYTES of the region as the access issued; and the advances that the needle must have made. -/
structure RoseRef where
  hcore : Nat
  hregion : Nat
  k : Nat
  off : Nat
  bytes : Nat
  base : Nat
  slots : Nat
  slotbytes : Nat
  need : Nat
deriving DecidableEq, Repr

/-- An access that has left its core and is not complete.  Its bytes lie in pieces: where, and how many. -/
structure Access where
  id : Nat
  core : Nat
  ctx : Nat
  op : MemOp
  locs : List (Loc × Nat)
  widen : Widen := .size .n32
  /-- What must retire before the access is performed (R166). -/
  after : List Nat := []
  performed : Bool := false
  result : Word := 0
  /-- An acquire read of this scope (R166). -/
  acquire : Option Scope := none
  /-- A poll of a WAITA: its value is an answer to the context and no register's (R326). -/
  poll : Bool := false
  rose : Option RoseRef := none
deriving DecidableEq, Repr

/-- A message of the machine itself on the mesh: an arrival or release of a barrier, a message, an allowance, a grant, a
fix contribution (R174, R175, R186, R330). -/
inductive NocMsg
  | barArrive (b : Nat) (desc : Word) (core ctx : Nat)
  | barRelease (b : Nat) (desc : Word) (core : Nat)
  | msg (dst mbox : Nat) (m : Msg)
  | allowance (dest dst mbox gen : Nat)
  | grant (dest dst mbox : Nat) (g : Grant)
  | ttWord (w : TtWord)
  | fix (handle : BitVec 32) (member : Nat) (c : Contrib)
  | nearFold (handle : BitVec 32) (c : Contrib)
deriving DecidableEq, Repr

/-- A mesh message with what it waits for, its flight time in mesh cycles where the spec fixes it, and the mesh cycle in
which it is due once it is under way. -/
structure NocItem where
  id : Nat
  m : NocMsg
  after : List Nat := []
  dist : Nat := 0
  due : Option Nat := none
  /-- The rectangle of the fix round's timetable phase that carries it (R186). -/
  phase : Option Word := none
deriving DecidableEq, Repr

/-- A service request (R304). -/
structure Svc where
  seq : Nat
  core : Nat
  ctx : Nat
  code : BitVec 16
  arg : Word
  after : List Nat
deriving DecidableEq, Repr

/-- A chunk held unacknowledged or to be dealt again (R75, R76, R87): first record, count, and the core and context whose
CHCARD took it. -/
structure Chunk where
  first : Nat
  count : Nat
  core : Nat := 0
  ctx : Nat := 0
deriving DecidableEq, Repr

/-- Why a gang drains (R86, R87, R91, R93). -/
inductive Leave
  | done | restart | discard | kill
deriving DecidableEq, Repr

/-- A gang that the partition's Chartroom placed (R75, R80, R86). -/
structure Gang where
  num : Nat
  tcb : Nat
  x0 : Nat
  y0 : Nat
  lw : Nat
  lh : Nat
  convoy : Nat := 0xFFFF
  member : Nat := 0
  draining : Bool := false
  leave : Leave := .done
  chunks : List Chunk := []
deriving DecidableEq, Repr

/-- A request to the Chartroom (R70, R77). -/
inductive ChartOp
  | patch (tcb w : Nat) (v : Word)
  /-- What a completion has still to do: whether it has not been served yet, the successors to be decremented as its list stood when the
  task became DONE, and the record that follows the last of them (R74). -/
  | completed (tcb : Nat) (fresh : Bool) (left : List Nat) (rec : Option (Vector Word 4))
  | dec (tcb : Nat)
  | arm (tcb : Nat)
  | hostArm (tcb : Nat)
  | done (first : Nat)
  | card
  | ckset (cvy : Nat) (v : Word)
deriving DecidableEq, Repr

/-- A request with the id that its context waits for. -/
structure ChartReq where
  id : Nat
  core : Nat
  ctx : Nat
  op : ChartOp
deriving DecidableEq, Repr

/-- An entry of a deferred log (R89): destination bytes to write at step 6 of R88, and the id of its copy, which rises in the order of
issue. -/
structure LogEnt where
  ord : Nat := 0
  core : Nat
  addr : Word
  data : List Byte
deriving DecidableEq, Repr

/-- A partition: service requests (R304) and its Chartroom (R66 to R95). -/
structure Part where
  svc : List Svc := []
  svcSeq : Nat := 1
  /-- The mesh cycle and the core of the last request (R304). -/
  svcLast : Nat × Nat := (0, 0)
  /-- The TCBs that the Chartroom caches, sixteen doublewords each (R66, R67). -/
  tcbs : AMap (Vector Word 16) := []
  /-- TCBs in PATCHING, with the state they return to (R69). -/
  patching : List (Nat × Nat) := []
  reqs : List ChartReq := []
  gangs : List Gang := []
  gangNum : Nat := 0
  /-- The passed counts of R79, by TCB index, or 8,192 plus a convoy's id. -/
  passed : AMap Nat := []
  redeal : AMap (List Chunk) := []
  /-- By task: gangs that have retired with chunks unacknowledged (R76, R93). -/
  lost : AMap (List Gang) := []
  /-- By task: the number of the gang whose fault it has recorded (R94). -/
  faulty : AMap Nat := []
  /-- Tasks whose dealing a pre-emption has stopped, with the cycle at which their grace period began (R87). -/
  grace : AMap Nat := []
  /-- Pre-emptions that wait: for a FAULTED task, or for step 6 of a checkpoint (R87, R88). -/
  preempts : List Nat := []
  lastPlace : Option Nat := none
  /-- The number of the first gang that the last placement placed (R80). -/
  lastNum : Nat := 0
  /-- The holder of the reservation and its origins (R84); convoys that have failed a placement. -/
  resv : Option (Nat × List (Nat × Nat)) := none
  failed : List Nat := []
  /-- The origins that a pre-empted checkpointed convoy held (R91). -/
  origins : AMap (List (Nat × Nat)) := []
  /-- Checkpoints under way, by convoy: the step of R88 that goes on. -/
  pause : AMap Nat := []
  log : AMap (List LogEnt) := []
  /-- Images by 2 × convoy + half: member, place in its gang, the core as it was (R88, R89). -/
  images : AMap (List (Nat × Nat × Core)) := []
  /-- Per task: the cycle of the last progress that its watchdog saw (R60). -/
  wdog : AMap Nat := []
  /-- One more than the mesh cycle of the last placement attempt (R79). -/
  lastTry : Nat := 0
  /-- Completion records that wait for the ring, oldest first, PHASE not yet set (R53). -/
  recs : List (Vector Word 4) := []
  /-- By convoy: the word that CKSET has staged for the checkpoint under way, and for the next (R319). -/
  stage : AMap (Option Word × Option Word) := []
  /-- The chunks that the gang of a convoy's member held as its checkpointed convoy was pre-empted (R91). -/
  kept : AMap (List Chunk) := []
  /-- A of the sounding trial (R228). -/
  snd : Nat := 0
  /-- An invalidation under way: the walks begun before it (R145). -/
  inv : Option (List Nat) := none
  /-- Releases that pass to the halts naming them as upstream: halt id, and the mesh cycle in which that happens (R207). -/
  chain : List (Nat × Nat) := []
  /-- Rounds whose remote rank has been released: d2 of the waiters' records, and the mesh cycle (R207). -/
  remote : List (Word × Nat) := []
deriving DecidableEq, Repr

/-! ### The fabric (02_fabric.md) -/

/-- A flit (R28), byte 0 in bits [7:0]. -/
abbrev Flit := BitVec 512

/-- A packet: its header doublewords and its payload (R31). -/
structure Packet where
  h0 : Word := 0
  h1 : Word := 0
  h2 : Word := 0
  h3 : Word := 0
  data : List Byte := []
deriving DecidableEq, Repr

/-- A packet kept until it is acknowledged end to end (R33): the hub it leaves, when it was last sent and how often it has
been sent again, and the copy that it carries bytes of (core, channel, sequence, bytes). -/
structure TxPkt where
  pkt : Packet
  hub : Nat
  sentAt : Nat
  resends : Nat := 0
  copy : Option (Nat × Nat × BitVec 16 × Nat) := none
deriving DecidableEq, Repr

/-- Both directions of the flows with one device on one virtual lane (R33, R34). -/
structure Flow where
  next : BitVec 32 := 0
  kept : List TxPkt := []
  lost : Bool := false
  expect : BitVec 32 := 0
  /-- Packets accepted since the last acknowledgement was sent, and the last of them. -/
  since : Nat := 0
  lastRx : Packet := {}
deriving DecidableEq, Repr

/-- A port of a hub (R25 to R30). -/
structure Port where
  queue : List Packet := []
  /-- By virtual lane: the packet that is being sent, and how many of its flits have gone (R32). -/
  tx : AMap (Packet × Nat) := []
  /-- Numbered flits sent and not acknowledged, oldest first, by sequence (R29). -/
  replay : List (BitVec 12 × Flit) := []
  txSeq : BitVec 12 := 0
  rxGood : BitVec 12 := 0xFFF
  /-- A flit has failed, and its resent copy has not arrived (R29). -/
  dropping : Bool := false
  /-- Flits of a packet that is arriving, by virtual lane. -/
  asm : List (Nat × List Flit) := []
  rxq : List Packet := []
  /-- Send allowances by virtual lane, in flits, and those to be given back (R32). -/
  allow : Vector Nat 4 := #v[128, 256, 16, 16]
  owed : Vector Nat 4 := #v[0, 0, 0, 0]
  /-- How often each unacknowledged flit has been resent in a row, by sequence (R29). -/
  resent : AMap Nat := []
  attempts : Nat := 0
  /-- Training: the mesh cycle in which the attempt began. -/
  trainAt : Nat := 0
  /-- The flits given to the link, in order. -/
  out : List Flit := []
deriving DecidableEq, Repr

/-- An entry of a combining table (R39, R193): the partition it is charged to, whether it comes from the shared pool, and
the sums of a chunk of a round. -/
structure CmbEntry where
  part : Nat
  shared : Bool
  handle : BitVec 32
  tag : BitVec 32
  chunk : Nat
  vals : List (BitVec 32)
  /-- The mesh cycle in which the packet with the combined value leaves the hub; the entry is free in the next (R41). -/
  leaves : Option Nat := none
deriving DecidableEq, Repr

/-- The port hub of a die: its combining table, and the partitions whose reset drain or scrub is under way with the mesh
cycle in which it began (R41). -/
structure Hub where
  cmb : List CmbEntry := []
  /-- Contributions of the mesh cycle that ask for an entry of the shared pool: handle, round tag, contribution (R40). -/
  asks : List (BitVec 32 × BitVec 32 × Contrib) := []
  draining : List (Nat × Nat) := []
deriving DecidableEq, Repr

/-! ### The host side (03_host.md) -/

/-- A code load under way (R62): the container's host address and length, and the destination. -/
structure Load where
  src : Nat
  len : Nat
  dst : Nat
deriving DecidableEq, Repr

/-- A virtual function (R47, R48, R62, R63); its TDISP state stands in VF_STAT. -/
structure Vf where
  /-- Pilot firmware has assigned the partition to a tenant. -/
  assigned : Bool := true
  enabled : Bool := false
  /-- A partition reset runs; it ends in CONFIG_UNLOCKED whatever the state, or in the VF's disabling. -/
  resetting : Bool := false
  unlock : Bool := false
  disable : Bool := false
  load : Option Load := none
  /-- The partition's translation cache, last used first: the containers whose finalised sections it holds. -/
  cache : List (List Byte) := []
  /-- The lock-time configuration: VF_CMPL_BASE, VF_CMPL_CTL, then BAR0's address and size, memory-space enable and the MSI-X table (R48;
  R50, index 17). -/
  lockCfg : List Word := []
  /-- BAR0's address, memory-space enable and the MSI-X table, in configuration space (R47, R48). -/
  bar0 : Word := 0
  memEn : Bool := false
  msixTable : List Word := []
  /-- A STOP_INTERFACE_REQUEST is answered when the reset that it has asked for ends (R48). -/
  stopping : Bool := false
  /-- A code has been loaded since the partition's reset (R66). -/
  loaded : Bool := false
deriving DecidableEq, Repr

/-- A measurement block (R50): its index, its digest, a die's certificate and signature, none where the die did not answer or has no block
of evidence, and the generations of a partition's key slots. -/
structure Block where
  index : Nat
  digest : BitVec 512
  cert : Option (List Byte) := none
  sig : Option (BitVec 1056) := none
  gens : List Nat := []
deriving DecidableEq, Repr

/-- What the responder can do, and the algorithms that it negotiates (R49). -/
inductive Capability
  | cert | chal | measSig | keyEx | mac | encrypt | hbeat | measFresh
deriving DecidableEq, Repr
inductive Algorithm
  | ecdsaP521 | sha512 | ecdheSecp521r1 | aes256Gcm
deriving DecidableEq, Repr

/-- What a responder of a function has sent (R48 to R50). -/
inductive Answer
  | versionMismatch (fn : Nat)
  | sessionLimit (fn : Nat)
  | unsupported (fn : Nat) (code : BitVec 8)
  | reply (fn : Nat) (code : BitVec 8)
  | capabilities (fn : Nat) (cs : List Capability)
  /-- Signature, hash and measurement hash, key exchange, AEAD. -/
  | algorithms (fn : Nat) (signature hash keyExchange aead : Algorithm)
  /-- The certificate slots that hold a chain, with its digest. -/
  | digests (fn : Nat) (slots : List (Nat × BitVec 512))
  /-- The chain in a certificate slot, none in an empty one. -/
  | certificate (fn slot : Nat) (chain : Option (List Byte))
  | challenge (fn slot : Nat) (chainDigest : Option (BitVec 512))
  | measurements (fn : Nat) (nonce : BitVec 256) (blocks : List Block)
  /-- The MMIO range of a VF: its bytes, and the offset from which it is TEE-private. -/
  | report (vf bytes teeFrom : Nat)
  /-- TDISP: a VF is locked, runs, is unlocked; or its state does not take the request. -/
  | locked (vf : Nat)
  | started (vf : Nat)
  | stopped (vf : Nat)
  | stateError (vf : Nat)
  /-- TDISP: the version spoken, the requests taken, which are those of R48, and a VF's state by its number in VF_STAT. -/
  | tdispVersion (vf : Nat) (version : BitVec 8)
  | tdispCapabilities (vf : Nat)
  | interfaceState (vf st : Nat)
deriving DecidableEq, Repr

/-- A core dump under way (R64, R65): what it dumps, its buffer, the number of whole records written, the read-backs that are
awaited, and whether the header is being written. -/
structure Dump where
  part : Nat
  cause : BitVec 8
  haltId : Nat
  base : Nat
  size : Nat
  recs : Nat := 0
  reads : List Nat := []
  flags : Nat := 0
  faultOff : Nat := 0
  header : Bool := false
deriving DecidableEq, Repr

/-- The device (01_package.md, 03_host.md): what does not belong to one die or one partition. -/
structure Dev where
  powered : Bool := true
  /-- The arithmetic clock in MHz (R22, R311), and whether a junction is too hot for more than the lowest step. -/
  clock : Nat := 4000
  hot : Bool := false
  /-- Fenced octets (R24), the dies whose port hub is fenced, the stacks of which a PHY is (R61), and mesh links by their two cores. -/
  fenced : List Nat := []
  fencedHubs : List Nat := []
  fencedStacks : List Nat := []
  fencedLinks : List (Nat × Nat) := []
  /-- What has been logged for the host (R23, R59): kind, and what it names; and the reads of the host, by address and value. -/
  hostLog : List (Nat × Word × Word) := []
  hostReads : List (Nat × Word) := []
  /-- Events raised to pilot firmware, oldest first: kind, and what it names (R146, R198, R217). -/
  pilot : List (Nat × Word × Word) := []
  /-- MSI-X messages sent: function (0 the PF) and vector (R53, R54, R59). -/
  msix : List (Nat × Nat) := []
  flows : AMap Flow := []
  /-- The last result packet of a fix whose home is another device, by handle: round tag and the record's head (R31, R189). -/
  results : AMap (BitVec 32 × List Byte) := []
  /-- Fixes of fabric scope whose home is another device, by handle, as this device's members know them (R35, R183). -/
  farFixes : AMap FixObj := []
  /-- Departures of this device's ranks that other devices have been told of, latest last: device, handle, rank (R196, log entry 38). -/
  told : List (Nat × BitVec 32 × Nat) := []
  /-- The image in flash, none where no valid one is there; the fused security version; the image that runs (R56, R57). -/
  flash : Option FwImage := some { signed := true, version := 0, lengthOk := true }
  fused : BitVec 6 := 0
  running : Option FwImage := none
  /-- The pilot watchdog (R60): the cycle from which it counts, none while it does not, and whether the pilot cores are held. -/
  kickAt : Option Nat := none
  pilotHeld : Bool := false
  /-- NumVFs, and a value held before READY (R47, R61). -/
  numVfs : Nat := 0
  heldVfs : Option Nat := none
  vfs : AMap Vf := []
  /-- Secure sessions by function (R49), and the responses sent, each with the I/O die's signature. -/
  sessions : AMap Nat := []
  answers : List (Answer × BitVec 1056) := []
  /-- The dump that runs, and those that wait for the buffer (R64). -/
  dump : Option Dump := none
  dumpQueue : List (Nat × BitVec 8 × Nat) := []
deriving DecidableEq, Repr

/-! ### The whole -/

/-- A TDISP request that asks what the responder is or how an interface stands (R48). -/
inductive TdispQuery
  | version | capabilities | state
deriving DecidableEq, Repr

/-- What comes from outside the package, or from pilot firmware's own policy, and has no row in the opcode table. -/
inductive Outside
  /-- A bad symbol in a sector of HBM (R15). -/
  | symbol (sector sym : Nat)
  /-- Pilot firmware retires the 64 KiB granule of a page, to a spare frame if it has one, with a frame for a new table (R16). -/
  | retire (part va table : Nat) (spare : Option Nat)
  /-- Pilot firmware fences an octet, a port hub, a stack's PHY or a mesh link (R24). -/
  | fenceOctet (o : Nat)
  | fenceHub (d : Nat)
  | fenceStack (k : Nat)
  | fenceLink (a b : Nat)
  /-- Pilot firmware logs one of its events for the host and posts an operator notice (R59). -/
  | notice (e : Nat × Word × Word)
  /-- Pilot firmware assigns a partition to a tenant, or takes it from one (R47). -/
  | assign (part : Nat) (on : Bool)
  /-- The host writes a VF's BAR0 address, memory-space enable and MSI-X table (R48). -/
  | vfConfig (vf : Nat) (bar0 : Word) (memEn : Bool) (table : List Word)
  /-- A TDISP request of the host for a VF (R48). -/
  | tdisp (vf : Nat) (q : TdispQuery)
  /-- Pilot firmware takes a partition's oldest service request (R304). -/
  | takeService (part : Nat)
  /-- The host reads a register. -/
  | hostRead (tee : Bool) (addr : Nat)
  /-- Pilot firmware writes partition memory, or a table by its physical address (R66, R141). -/
  | pilotWrite (part va : Nat) (bytes : List Byte)
  | tableWrite (pa : Nat) (bytes : List Byte)
  /-- The link carries a port's oldest flit away (R28). -/
  | flitGone (port : Nat)
  /-- A fix whose home is another device is made known to its members here (R183, R186). -/
  | remoteFix (handle : BitVec 32) (desc : Line) (table : List Word) (alg : Alg) (part : Nat)
  /-- Another device tells that it has freed a fix (R183), or that a rank of its own has departed (R196). -/
  | remoteFree (handle : BitVec 32)
  | remoteDepart (handle : BitVec 32) (rank : Nat)
deriving DecidableEq, Repr

/-- A move of the agenda: which agent acts next.  A context of a core issues its next instruction if it is ready; an
event of the opcode table happens; something comes from outside it; an arithmetic cycle ends. -/
inductive Move
  | issue (core ctx : Nat)
  | event (i : Instr)
  | outside (o : Outside)
  | tick
deriving DecidableEq, Repr

/-- The state of the package. -/
structure State where
  cores : AMap Core := []
  octets : AMap Octet := []
  dies : AMap Die := []
  parts : AMap Part := []
  ports : AMap Port := []
  hubs : AMap Hub := []
  dev : Dev := {}
  /-- PF and VF registers by address (R43, R54, R58, R95, R147, R194, R217, R229, R230); an address not listed holds its
  reset value. -/
  regs : AMap Word := []
  /-- HBM by physical address (R15, R140), as the plaintext that its lines were written with. -/
  hbm : Mem := []
  /-- Generations of key slots, and the key material in them, by 16 × stack + slot (R51). -/
  keyGen : AMap Nat := []
  keys : AMap (BitVec 512) := []
  /-- The key material under which a line was last written, by physical line address, and the zero-filled ranges, latest first: base,
  size, key material; a line listed under lineKey has been written since its range was filled (R20, R144). -/
  lineKey : AMap (BitVec 512) := []
  fills : List (Nat × Nat × BitVec 512) := []
  /-- The bad 8-bit symbols of a 32-byte sector, by its physical address: one is corrected, two are detected (R15). -/
  ecc : AMap (List Nat) := []
  /-- The base dies' error logs: corrected errors by stack, and by 64 KiB granule as pilot firmware counts them (R16); the flags of a
  base die's fold statistics (R17). -/
  corrected : AMap Nat := []
  granuleErrs : AMap Nat := []
  foldStats : AMap (BitVec 5) := []
  hostMem : Mem := []
  flight : List Access := []
  noc : List NocItem := []
  /-- Arithmetic cycles since package reset (R312). -/
  cyc : Nat := 0
  /-- The model's own fields: the number of the next id, the free-value counter, the context whose instruction exec
  runs, and what happens next. -/
  nextId : Nat := 1
  fresh : Nat := 0
  cur : Nat × Nat := (0, 0)
  agenda : List Move := []
deriving DecidableEq, Repr

/-! ### How a step can stop -/

/-- The machine stops with a fault. -/
inductive Fault
  /-- Raised by `step` alone: no agent of the package acts once the power has been removed (R22, thermal trip), and the
  agenda is empty.  Safe: nothing is said of such a machine. -/
  | powerRemoved
deriving DecidableEq, Repr

/-- No meaning. -/
inductive Refusal
  /-- Raised by a dispatch arm that has no meaning yet.  Safe: nothing is said of such an instruction. -/
  | notModelled (mnemonic : String)
deriving DecidableEq, Repr

/-- The package right after its reset: nothing placed, no context live, every memory zero, every register at its reset
value (log entries 2 and 3 name the values the spec does not give). -/
def State.reset : State := {}

end Sys2Proof.Machine
end

