-- ==== Sys2Proof/Machine/Store.lean ====
section
/-! DEFINITION. The named operations over sparse stores and byte memories, and the accessors of the state: every read and
write of a part of the state goes through one of these. -/

namespace Sys2Proof

/-! ### Stores by number -/

/-- The thing listed under k. -/
def AMap.get? {α : Type} : AMap α → Nat → Option α
  | [], _ => none
  | (j, v) :: m, k => if j = k then some v else get? m k

/-- The thing listed under k, or its reset state. -/
def AMap.getD {α : Type} (m : AMap α) (k : Nat) (d : α) : α := (AMap.get? m k).getD d

/-- Lists v under k, keys kept rising. -/
def AMap.set {α : Type} : AMap α → Nat → α → AMap α
  | [], k, v => [(k, v)]
  | (j, w) :: m, k, v =>
    if k < j then (k, v) :: (j, w) :: m
    else if k = j then (k, v) :: m
    else (j, w) :: set m k v

/-- Removes what is listed under k. -/
def AMap.erase {α : Type} : AMap α → Nat → AMap α
  | [], _ => []
  | (j, w) :: m, k => if j = k then m else (j, w) :: erase m k

/-! ### Byte memories (R3): no zero byte is listed -/

/-- What an unlisted address reads as. -/
def Mem.unlisted : Byte := 0

/-- The byte at an address. -/
def Mem.get : Mem → Nat → Byte
  | [], _ => Mem.unlisted
  | (j, b) :: m, a => if j = a then b else get m a

/-- Writes one byte, keeping the canonical form. -/
def Mem.set : Mem → Nat → Byte → Mem
  | [], a, b => if b = Mem.unlisted then [] else [(a, b)]
  | (j, c) :: m, a, b =>
    if a < j then (if b = Mem.unlisted then (j, c) :: m else (a, b) :: (j, c) :: m)
    else if a = j then (if b = Mem.unlisted then m else (a, b) :: m)
    else (j, c) :: set m a b

/-- The canonical form: addresses strictly rising, none of them reading as an unlisted one. -/
def Mem.wfFrom : Nat → Mem → Bool
  | _, [] => true
  | lo, (j, b) :: m => decide (lo ≤ j) && b != Mem.unlisted && wfFrom (j + 1) m

def Mem.wf (m : Mem) : Bool := Mem.wfFrom 0 m

/-- n bytes from an address as a number, the byte at the lowest address least (R3). -/
def Mem.read (m : Mem) (a : Nat) : Nat → Nat
  | 0 => 0
  | n + 1 => (m.get a).toNat + 256 * read m (a + 1) n

/-- Writes the low n bytes of v. -/
def Mem.write (m : Mem) (a : Nat) : Nat → Nat → Mem
  | 0, _ => m
  | n + 1, v => write (m.set a (BitVec.ofNat 8 v)) (a + 1) n (v / 256)

/-- A list of bytes from an address. -/
def Mem.bytes (m : Mem) (a : Nat) : Nat → List Byte
  | 0 => []
  | n + 1 => m.get a :: bytes m (a + 1) n

/-- Writes a list of bytes. -/
def Mem.setBytes (m : Mem) (a : Nat) : List Byte → Mem
  | [] => m
  | b :: bs => setBytes (m.set a b) (a + 1) bs

/-- Fills [a, a + n) with zeros. -/
def Mem.zero (m : Mem) (a n : Nat) : Mem := m.filter (fun p => decide (p.1 < a) || decide (a + n ≤ p.1))

/-- The aligned 64-byte line at an address. -/
def Mem.line (m : Mem) (a : Nat) : Line := BitVec.ofNat 512 (m.read (a / 64 * 64) 64)

/-- The bytes of a value, low byte first. -/
def leBytes : Nat → Nat → List Byte
  | 0, _ => []
  | n + 1, v => BitVec.ofNat 8 v :: leBytes n (v / 256)

/-- The value of bytes, low byte first. -/
def ofLeBytes : List Byte → Nat
  | [] => 0
  | b :: bs => b.toNat + 256 * ofLeBytes bs

namespace Machine

/-! ### The parts of the state -/

/-- Context x of a core; there are eleven (R96). -/
def Core.ctx (c : Core) (x : Nat) : Ctx := if h : x < 11 then c.ctxs[x] else {}
def Core.setCtx (c : Core) (x : Nat) (k : Ctx) : Core := if h : x < 11 then { c with ctxs := c.ctxs.set x k } else c
def Core.q (c : Core) (n : Nat) : QReg := if h : n < 8 then c.qs[n] else {}
def Core.setQ (c : Core) (n : Nat) (q : QReg) : Core := if h : n < 8 then { c with qs := c.qs.set n q } else c
def Core.row (c : Core) (n : Nat) : BitVec 2048 := AMap.getD c.rows n 0
def Core.setRow (c : Core) (n : Nat) (v : BitVec 2048) : Core := { c with rows := AMap.set c.rows n v }
def Core.bar (c : Core) (n : Nat) : Barrier := AMap.getD c.bars n {}
def Core.setBar (c : Core) (n : Nat) (b : Barrier) : Core := { c with bars := AMap.set c.bars n b }
def Core.rose (c : Core) (n : Nat) : Rose := AMap.getD c.roses n {}
def Core.setRose (c : Core) (n : Nat) (r : Rose) : Core := { c with roses := AMap.set c.roses n r }
def Core.mbox (c : Core) (n : Nat) : Mailbox := AMap.getD c.mboxes n {}
def Core.setMbox (c : Core) (n : Nat) (m : Mailbox) : Core := { c with mboxes := AMap.set c.mboxes n m }
def Core.chan (c : Core) (n : Nat) : Channel := AMap.getD c.chans n {}
def Core.setChan (c : Core) (n : Nat) (k : Channel) : Core := { c with chans := AMap.set c.chans n k }
def Core.fixObj (c : Core) (n : Nat) : FixObj := AMap.getD c.fixes n {}
def Core.setFix (c : Core) (n : Nat) (f : FixObj) : Core := { c with fixes := AMap.set c.fixes n f }

namespace State

def core (s : State) (n : Nat) : Core := AMap.getD s.cores n {}
def setCore (s : State) (n : Nat) (c : Core) : State := { s with cores := AMap.set s.cores n c }
def octet (s : State) (n : Nat) : Octet := AMap.getD s.octets n {}
def setOctet (s : State) (n : Nat) (o : Octet) : State := { s with octets := AMap.set s.octets n o }
def die (s : State) (n : Nat) : Die := AMap.getD s.dies n {}
def setDie (s : State) (n : Nat) (d : Die) : State := { s with dies := AMap.set s.dies n d }
def part (s : State) (n : Nat) : Part := AMap.getD s.parts n {}
def setPart (s : State) (n : Nat) (p : Part) : State := { s with parts := AMap.set s.parts n p }
def port (s : State) (n : Nat) : Port := AMap.getD s.ports n {}
def setPort (s : State) (n : Nat) (p : Port) : State := { s with ports := AMap.set s.ports n p }
def hub (s : State) (n : Nat) : Hub := AMap.getD s.hubs n {}
def setHub (s : State) (n : Nat) (p : Hub) : State := { s with hubs := AMap.set s.hubs n p }
def flow (s : State) (dev vl : Nat) : Flow := AMap.getD s.dev.flows (dev * 4 + vl) {}
def setFlow (s : State) (dev vl : Nat) (f : Flow) : State := { s with dev := { s.dev with flows := AMap.set s.dev.flows (dev * 4 + vl) f } }

def ctx (s : State) (n x : Nat) : Ctx := (s.core n).ctx x
def setCtx (s : State) (n x : Nat) (k : Ctx) : State := s.setCore n ((s.core n).setCtx x k)

/-- The core and the context whose instruction is running. -/
def me (s : State) : Core := s.core s.cur.1
def my (s : State) : Ctx := s.ctx s.cur.1 s.cur.2
def setMe (s : State) (c : Core) : State := s.setCore s.cur.1 c
def setMy (s : State) (k : Ctx) : State := s.setCtx s.cur.1 s.cur.2 k

/-- Mesh cycles: one for two arithmetic cycles (R4). -/
def mesh (s : State) : Nat := s.cyc / 2

end State
end Machine
end Sys2Proof
end

