-- ==== Sys2Proof/Machine/Place.lean ====
section
/-! DEFINITION. Where things lie: coordinates, octets, dies and partitions (R10 to R12), scope instances (R158), and the
register map of PF space. -/

namespace Sys2Proof.Machine

/-! ### Cores.  Core number n is y × 32 + x. -/

def coreX (n : Nat) : Nat := n % 32
def coreY (n : Nat) : Nat := n / 32
def coreAt (x y : Nat) : Nat := y * 32 + x

/-- The compute die of a core (R10). -/
def dieOf (n : Nat) : Nat := coreY n / 16 * 2 + coreX n / 16
/-- The partition of a core (R12). -/
def partOf (n : Nat) : Nat := dieOf n * 2 + coreY n / 8 % 2
/-- The octet number (R11). -/
def octetOf (n : Nat) : Nat := coreY n / 2 * 8 + coreX n / 4
/-- The core's index in its octet (R11). -/
def octIdx (n : Nat) : Nat := coreX n % 4 + 4 * (coreY n % 2)
/-- Core i of an octet (R11). -/
def octetCore (o i : Nat) : Nat := coreAt (4 * (o % 8) + i % 4) (2 * (o / 8) + i / 4)
/-- The die of a partition (R12). -/
def partDie (p : Nat) : Nat := p / 2
/-- The origin of a partition (R12, R200). -/
def partX0 (p : Nat) : Nat := 16 * (partDie p % 2)
def partY0 (p : Nat) : Nat := 16 * (partDie p / 2) + 8 * (p % 2)
/-- The index of a core in its partition (R200). -/
def coreIdx (n : Nat) : Nat := (coreY n - partY0 (partOf n)) * 16 + (coreX n - partX0 (partOf n))
/-- Core ci of a partition. -/
def partCore (p ci : Nat) : Nat := coreAt (partX0 p + ci % 16) (partY0 p + ci / 16)
/-- The j-th octet of a partition, in ascending octet number (R311). -/
def partOctet (p j : Nat) : Nat := (partY0 p / 2 + j / 4) * 8 + partX0 p / 4 + j % 4

/-- Die-edge hops between two coordinates (R10). -/
def edgeHops (a b : Nat) : Nat := if a / 16 = b / 16 then 0 else 1
def absDiff (a b : Nat) : Nat := (a - b) + (b - a)
/-- Mesh cycles from one core to another: an in-die hop takes 1, a die-edge hop 6 (R10). -/
def meshDist (m n : Nat) : Nat :=
  let c := edgeHops (coreX m) (coreX n) + edgeHops (coreY m) (coreY n)
  (absDiff (coreX m) (coreX n) + absDiff (coreY m) (coreY n) - c) + 6 * c

/-- The cores of a rectangle in ascending (y, x). -/
def rectCores (x0 y0 lw lh : Nat) : List Nat :=
  (List.range (2 ^ lh)).flatMap (fun j => (List.range (2 ^ lw)).map (fun i => coreAt (x0 + i) (y0 + j)))

/-- A rectangle word (R329): origin, and log2 of width and height. -/
structure Rect where
  x0 : Nat
  y0 : Nat
  lw : Nat
  lh : Nat
deriving DecidableEq, Repr

def bitsOf (w : Word) (lo n : Nat) : Nat := w.toNat / 2 ^ lo % 2 ^ n

def rectOfWord (w : Word) : Rect := ⟨bitsOf w 0 5, bitsOf w 5 5, bitsOf w 10 3, bitsOf w 13 3⟩
def Rect.cores (r : Rect) : List Nat := rectCores r.x0 r.y0 r.lw r.lh
def Rect.has (r : Rect) (n : Nat) : Bool :=
  decide (r.x0 ≤ coreX n) && decide (coreX n < r.x0 + 2 ^ r.lw) &&
  decide (r.y0 ≤ coreY n) && decide (coreY n < r.y0 + 2 ^ r.lh)
/-- The origin is aligned and the sides lie in the mesh (R329). -/
def Rect.aligned (r : Rect) : Bool :=
  decide (r.lw ≤ 5) && decide (r.lh ≤ 5) && decide (r.x0 % 2 ^ r.lw = 0) && decide (r.y0 % 2 ^ r.lh = 0)
def Rect.within (r g : Rect) : Bool :=
  decide (g.x0 ≤ r.x0) && decide (r.x0 + 2 ^ r.lw ≤ g.x0 + 2 ^ g.lw) &&
  decide (g.y0 ≤ r.y0) && decide (r.y0 + 2 ^ r.lh ≤ g.y0 + 2 ^ g.lh)
def GangRef.rect (g : GangRef) : Rect := ⟨g.x0, g.y0, g.lw, g.lh⟩

/-! ### Routes on the mesh (R179, R180) -/

/-- The next core on the way in X, then in Y. -/
def nextHop (n k : Nat) : Nat :=
  if coreX n < coreX k then n + 1 else if coreX k < coreX n then n - 1
  else if coreY n < coreY k then n + 32 else n - 32

/-- The links from one core to another. -/
def route : Nat → Nat → Nat → List (Nat × Nat)
  | 0, _, _ => []
  | fuel + 1, n, k => if n = k then [] else (n, nextHop n k) :: route fuel (nextHop n k) k

def routeOf (n k : Nat) : List (Nat × Nat) := route 64 n k

/-- The phase is running: released, and its TTEND meeting has not released. -/
def Phase.running (p : Phase) : Bool := p.release.isSome && !p.ended

/-- A phase that a TTSEND, TTRECV or TTEND finds. -/
def Core.inPhase (c : Core) : Option Phase :=
  match c.phase with
  | some p => if p.running then some p else none
  | none => none

/-- The rectangles whose links carry only the words of a phase: of running phases, and of fix rounds on their way (R179, R186). -/
def State.heldRects (s : State) : List Rect :=
  s.cores.filterMap (fun c => c.2.inPhase.map (fun p => rectOfWord p.rect)) ++ s.noc.filterMap (fun i => i.phase.map rectOfWord)

/-- A mesh link is fenced, in both its directions. -/
def State.linkFenced (s : State) (l : Nat × Nat) : Bool := s.dev.fencedLinks.contains l || s.dev.fencedLinks.contains (l.2, l.1)

/-- The way around a fenced link by the other links of its die (R24): the shortest by way of one other core of the die, and of those the
first in the order of the cores; the link itself where every such way is fenced (log entry 96). -/
def State.detour (s : State) (l : Nat × Nat) : List (Nat × Nat) :=
  let ways := ((List.range 1024).filter (fun w => dieOf w = dieOf l.1)).map (fun w => routeOf l.1 w ++ routeOf w l.2)
  let best := (ways.filter (fun r => !r.any s.linkFenced)).foldl (fun (acc : Option (List (Nat × Nat))) r => match acc with
    | some b => if r.length < b.length then some r else acc
    | none => some r) none
  best.getD [l]

/-- The links that traffic takes: in X, then in Y, with a way around each fenced link. -/
def State.pathOf (s : State) (n k : Nat) : List (Nat × Nat) :=
  (routeOf n k).flatMap (fun l => if s.linkFenced l then s.detour l else [l])

/-- A core's traffic that needs a link inside the rectangle of a running phase waits (R179). -/
def State.linkBusy (s : State) (n k : Nat) : Bool :=
  s.heldRects.any (fun r => (s.pathOf n k).any (fun l => r.has l.1 && r.has l.2))

/-- The partitions that a core reaches: its own and those its gang covers (R128). -/
def State.reach (s : State) (n p : Nat) : Bool :=
  decide (p = partOf n) ||
  match (s.core n).gang with
  | some g => g.rect.cores.any (fun m => partOf m = p)
  | none => false

/-- The gang die of a core (R128). -/
def State.gangDie (s : State) (n : Nat) : Nat :=
  match (s.core n).gang with
  | some g => partDie g.part
  | none => dieOf n

/-- The partition with whose root a core translates (R140). -/
def State.homePart (s : State) (n : Nat) : Nat :=
  match (s.core n).gang with
  | some g => g.part
  | none => partOf n

/-! ### The register map of PF space -/

namespace Pf

def chr (p off : Nat) : Nat := 0x300000 + p * 0x100 + off
def mmuRoot (p : Nat) : Nat := 0x400000 + p * 0x100
def mmuReach (p : Nat) : Nat := 0x400008 + p * 0x100
def mmuInv (p : Nat) : Nat := 0x400010 + p * 0x100
def mmuWalk (p : Nat) : Nat := 0x400018 + p * 0x100
def fxThresh (p : Nat) : Nat := 0x500000 + p * 0x100
def fxStat (p : Nat) : Nat := 0x500008 + p * 0x100
def hltBase (p : Nat) : Nat := 0x600000 + p * 0x100
def hltCtl (p : Nat) : Nat := 0x600008 + p * 0x100
def hltReq (p : Nat) : Nat := 0x600010 + p * 0x100
def hltRel (p : Nat) : Nat := 0x600018 + p * 0x100
def hltStat (p : Nat) : Nat := 0x600020 + p * 0x100
def hltEvt (p : Nat) : Nat := 0x600028 + p * 0x100
/-- The debug block of a core (R229). -/
def dbg (n off : Nat) : Nat := 0x700000 + partOf n * 0x10000 + coreIdx n * 0x200 + off
def snd (p off : Nat) : Nat := 0x800000 + p * 0x100 + off
/-- FAB_SELF (R43). -/
def fabSelf : Nat := 0x200010
def keyStat (stack : Nat) : Nat := 0x100 + stack * 8
/-- A register of VF v (R54): VF BAR0s lie above PF space in the model's numbering. -/
def vf (v off : Nat) : Nat := 0x1000000 + v * 0x10000 + off

/-- Port and hub registers (R43). -/
def port (p off : Nat) : Nat := 0x100000 + p * 0x400 + off
def hub (d off : Nat) : Nat := 0x200000 + d * 0x2000 + off

/-- The value a register resets to, where that is not zero (R44, R95, R147, R194, R217, R229). -/
def resetValue (a : Nat) : Word :=
  if 0x100 ≤ a ∧ a < 0x140 then 1
  else if a = 0x60 then 100
  else if 0x100000 ≤ a ∧ a < 0x110000 ∧ a % 0x400 = 0 then 6
  else if 0x100000 ≤ a ∧ a < 0x110000 ∧ a % 0x400 = 0xC8 then 0x832
  else if 0x300000 ≤ a ∧ a < 0x300800 ∧ a % 0x100 = 0x10 then 10000
  else if 0x300000 ≤ a ∧ a < 0x300800 ∧ a % 0x100 = 0x20 then 15
  else if 0x300000 ≤ a ∧ a < 0x300800 ∧ a % 0x100 = 0x40 then 0xFFFF <<< 32
  else if 0x400000 ≤ a ∧ a < 0x400800 ∧ a % 0x100 = 8 then BitVec.ofNat 64 (2 ^ (a / 0x100 % 8))
  else if 0x500000 ≤ a ∧ a < 0x500800 ∧ a % 0x100 = 0 then 0x40000
  else if 0x600000 ≤ a ∧ a < 0x600800 ∧ a % 0x100 = 0x20 then 1
  else if 0x700000 ≤ a ∧ a < 0x780000 ∧ a % 0x200 = 0x188 then 0x7F <<< 5
  else 0

end Pf

namespace State

/-- A register of PF or VF space. -/
def reg (s : State) (a : Nat) : Word := AMap.getD s.regs a (Pf.resetValue a)
def setReg (s : State) (a : Nat) (v : Word) : State := { s with regs := AMap.set s.regs a v }
/-- A field of a register, and a write of it. -/
def regF (s : State) (a lo n : Nat) : Nat := bitsOf (s.reg a) lo n
def setRegF (s : State) (a lo n v : Nat) : State :=
  s.setReg a (BitVec.ofNat 64 (s.reg a).toNat - BitVec.ofNat 64 (bitsOf (s.reg a) lo n * 2 ^ lo) +
    BitVec.ofNat 64 (v % 2 ^ n * 2 ^ lo))

/-- An event is raised to pilot firmware. -/
def pilotEvent (s : State) (kind : Nat) (a b : Word) : State :=
  { s with dev := { s.dev with pilot := s.dev.pilot ++ [(kind, a, b)] } }

/-- What pilot firmware is told of and the host's log holds (R23). -/
def report (s : State) (kind : Nat) (a b : Word) : State :=
  let t := s.pilotEvent kind a b
  { t with dev := { t.dev with hostLog := t.dev.hostLog ++ [(kind, a, b)] } }

/-- DEVSTAT.READY (R58). -/
def ready (s : State) : Bool := (s.reg 0).getLsbD 0

/-- Pilot firmware runs: the device is ready, and the pilot cores are not held in reset (R58, R60, R61). -/
def pilotRuns (s : State) : Bool := s.ready && !s.dev.pilotHeld

/-- The next id. -/
def newId (s : State) : Nat × State := (s.nextId, { s with nextId := s.nextId + 1 })

end State
end Sys2Proof.Machine
end

