-- ==== Sys2Proof/Machine/Sem.lean ====
section
/-! DEFINITION. The form in which a meaning is written: a computation over the state that may raise a cause or find that its
instruction cannot issue yet; and the registers of a context: main file, workspaces, queues. -/

namespace Sys2Proof.Machine

/-- How an instruction fails to complete: it raises a cause and takes no effect (R210); it raises a cause and the
effect `g` stands (the exceptions of R210); it does not issue, and `g` is what that leaves; it issues and is blocked, and `g` is what
its wait leaves (R98); or its object is withheld and the context halts (R204).  In each case everything else the computation has done
is undone. -/
inductive Stop
  | raise (c : BitVec 8) (f : Word)
  | raiseKeep (c : BitVec 8) (f : Word) (g : State → State)
  | wait (g : State → State)
  | block (g : State → State)
  | withheld (u : Upstream)

abbrev Sem := StateT State (Except Stop)

/-- Signal(cause) with its FADDR (R8, R215). -/
def raise {α : Type} (c : BitVec 8) (f : Word) : Sem α := fun _ => .error (.raise c f)

/-- Signals when a check fails. -/
def check (ok : Bool) (c : BitVec 8) (f : Word) : Sem Unit := fun s => if ok then .ok ((), s) else .error (.raise c f)

/-- The instruction does not issue; `g` says what its wait leaves in the state. -/
def notYet {α : Type} (g : State → State := id) : Sem α := fun _ => .error (.wait g)

/-- The instruction has issued and goes on later; `g` says what it leaves in the state. -/
def blocked {α : Type} (g : State → State := id) : Sem α := fun _ => .error (.block g)

/-! ### The own scratchpad window and the workspaces (R104, R128) -/

/-- The base of the own scratchpad window (R128). -/
def ownBase : Nat := 0xFF00000000000000

/-- The scratchpad's size in bytes (R131). -/
def Core.top (c : Core) : Nat := c.scratch * 1024

/-- The scratchpad offset that a workspace pointer names. -/
def wsOff (wsp : Word) : Nat := wsp.toNat - ownBase

/-- LegalWorkspace (R104). -/
def Core.legalWs (c : Core) (wsp : Word) : Bool :=
  decide (wsp.toNat % 512 = 0) && decide (ownBase ≤ wsp.toNat) && decide (wsOff wsp + 512 ≤ c.top)

/-- Context x holds a workspace (R104). -/
def Core.holds (c : Core) (x : Nat) : Bool := (c.ctx x).st ≠ .free && !(c.ctx x).noWs

/-- The contexts of a core. -/
def ctxNums : List Nat := List.range 11

/-- A context other than x that has the workspace bound. -/
def Core.boundElsewhere (c : Core) (wsp : Word) (x : Nat) : Bool :=
  ctxNums.any (fun y => y ≠ x && c.holds y && (c.ctx y).wsp = wsp)

/-- The workspace of a g word at an address is bound. -/
def Core.gBound (c : Core) (a : Nat) : Bool :=
  ctxNums.any (fun y => c.holds y && wsOff (c.ctx y).wsp = a / 512 * 512)

/-! ### The main file (R105, R108) -/

def mfFind : List MfEntry → Nat → Option MfEntry
  | [], _ => none
  | e :: es, a => if e.addr = a then some e else mfFind es a

def mfDrop (l : List MfEntry) (a : Nat) : List MfEntry := l.filter (fun e => e.addr ≠ a)

/-- Writes a dirty entry to the scratchpad array. -/
def Core.mfBack (c : Core) (e : MfEntry) : Core :=
  if e.dirty then { c with scr := c.scr.write e.addr 8 e.val.toNat } else c

/-- The entry that gives way in a full main file: of an unbound workspace first, then the least recently used (R105). -/
def Core.mfVictim (c : Core) : Option MfEntry :=
  match (c.mf.filter (fun e => !c.gBound e.addr)).getLast? with
  | some e => some e
  | none => c.mf.getLast?

/-- The number of main-file entries (R105). -/
def mfSize : Nat := 384

/-- Puts an entry first, replacing one when the file is full. -/
def Core.mfPut (c : Core) (e : MfEntry) : Core :=
  let l := mfDrop c.mf e.addr
  if l.length < mfSize then { c with mf := e :: l }
  else match c.mfVictim with
    | some v => let c' := c.mfBack v; { c' with mf := e :: mfDrop l v.addr }
    | none => { c with mf := e :: l }

/-- The value of a g word: the cached value if an entry exists, else the array's. -/
def Core.gWord (c : Core) (a : Nat) : Word :=
  match mfFind c.mf a with
  | some e => e.val
  | none => BitVec.ofNat 64 (c.scr.read a 8)

/-- A read of a g word through a register operand: a miss fills an entry. -/
def Core.gTouch (c : Core) (a : Nat) : Core :=
  match mfFind c.mf a with
  | some e => { c with mf := e :: mfDrop c.mf a }
  | none => c.mfPut ⟨a, BitVec.ofNat 64 (c.scr.read a 8), false⟩

/-- A write of a g word through a register operand: no fill, and the entry is dirty. -/
def Core.gWrite (c : Core) (a : Nat) (v : Word) : Core := c.mfPut ⟨a, v, true⟩

/-- The address of register gn of a workspace (R104). -/
def gAddr (wsp : Word) (n : Nat) : Nat := wsOff wsp + 8 * n

/-- Writes back the dirty g entries of one workspace (R106, R166). -/
def Core.gFlush (c : Core) (wsp : Word) : Core :=
  let mine (e : MfEntry) : Bool := e.addr / 512 * 512 = wsOff wsp
  let c' := (c.mf.filter mine).foldl Core.mfBack c
  { c' with mf := c.mf.map (fun e => if mine e then { e with dirty := false } else e) }

/-! ### The scratchpad as its readers and writers see it (R108) -/

/-- Overlays a byte range of one doubleword entry. -/
def overlay (off n v : Nat) (e : MfEntry) : Nat :=
  (List.range 8).foldl (fun acc k =>
    let a := e.addr + k
    if off ≤ a ∧ a < off + n then
      acc - (v / 256 ^ (a - off) % 256) * 256 ^ (a - off) + (e.val.toNat / 256 ^ k % 256) * 256 ^ (a - off)
    else acc) v

/-- Reads n bytes: the array, with the cached words that the reader sees laid over it.  The core's own port sees every
entry; a read from the mesh sees only those of unbound workspaces. -/
def Core.scrRead (c : Core) (own : Bool) (off n : Nat) : Nat :=
  (c.mf.filter (fun e => e.dirty && decide (off < e.addr + 8) && decide (e.addr < off + n) && (own || !c.gBound e.addr))).foldl
    (overlay off n) (c.scr.read off n)

/-- A read of n bytes first writes back the dirty entries of unbound workspaces that lie in them (R108). -/
def Core.scrServe (c : Core) (off n : Nat) : Core :=
  let hit (e : MfEntry) : Bool := e.dirty && decide (off < e.addr + 8) && decide (e.addr < off + n) && !c.gBound e.addr
  if c.mf.any hit then
    { (c.mf.filter hit).foldl Core.mfBack c with mf := c.mf.map (fun e => if hit e then { e with dirty := false } else e) }
  else c

/-- The entry's value after n bytes at off have been written with v. -/
def mergeEntry (off n v : Nat) (e : MfEntry) : MfEntry :=
  { e with val := BitVec.ofNat 64 ((List.range 8).foldl (fun acc k =>
      let a := e.addr + k
      if off ≤ a ∧ a < off + n then acc - (acc / 256 ^ k % 256) * 256 ^ k + (v / 256 ^ (a - off) % 256) * 256 ^ k
      else acc) e.val.toNat) }

/-- Writes n bytes from any agent: the array and any cached entry. -/
def Core.scrWrite (c : Core) (off n v : Nat) : Core :=
  { c with
    scr := c.scr.write off n v
    mf := c.mf.map (fun e => if off < e.addr + 8 ∧ e.addr < off + n then mergeEntry off n v e else e) }

/-! ### Latches (R106, R107) -/

/-- The latch writeback of R106. -/
def Core.latchBack (c : Core) (x : Nat) : Core :=
  let k := c.ctx x
  let b := wsOff k.wsp
  let ws : List Word := k.o.toList ++ [k.lr, k.p.setWidth 64, k.pc, k.fpsr, k.slim, k.tvec, k.cause, k.faddr, k.epc, k.seed.setWidth 64]
  let put (m : Mem) (l : List Word) (a : Nat) : Mem :=
    (l.foldl (fun p w => (p.1.write p.2 8 w.toNat, p.2 + 8)) (m, a)).1
  { c with scr := (put c.scr ws (b + 0x100)).zero (b + 0x190) 0x70 }

/-- The bits of FPSR and CAUSE that are not reserved (R240, R211). -/
def fpsrMask : Word := 0x171F1F
def causeMask : Word := 0xF1FF

/-- The latches of a workspace (R104).  Reserved bits are RSV and read as 0 (R6); SEED holds 32 bits (R239). -/
def Core.latchLoad (c : Core) (k : Ctx) (wsp : Word) : Ctx :=
  let rd (off : Nat) : Word := BitVec.ofNat 64 (c.scr.read (wsOff wsp + off) 8)
  { k with
    wsp := wsp
    o := Vector.ofFn (fun (i : Fin 8) => rd (0x100 + 8 * i.val))
    lr := rd 0x140, p := (rd 0x148).setWidth 8, pc := rd 0x150, fpsr := rd 0x158 &&& fpsrMask, slim := rd 0x160, tvec := rd 0x168
    cause := rd 0x170 &&& causeMask, faddr := rd 0x178, epc := rd 0x180, seed := (rd 0x188).setWidth 32 }

/-- Unbinds nothing but writes all registers of context x back: latches and dirty g entries (R106). -/
def Core.writeBackAll (c : Core) (x : Nat) : Core :=
  if (c.ctx x).noWs then c else (c.gFlush (c.ctx x).wsp).latchBack x

/-! ### Queues (R111 to R113, R202) -/

/-- Written entries at the head. -/
def QReg.written (q : QReg) : Nat := (q.ents.takeWhile (fun e => e.val.isSome)).length
def QReg.count (q : QReg) : Nat := q.ents.length

/-- Context x joins a set of contexts. -/
def joinSet (l : List Nat) (x : Nat) : List Nat := if l.contains x then l else x :: l

/-- A pop by context x of the head, which the check of R112 found written.  The pop that ends a fullness starts the poppers' set anew
(log entry 82). -/
def QReg.pop (q : QReg) (x : Nat) : QReg :=
  { q with ents := q.ents.drop 1, poppers := if 8 ≤ q.ents.length then [x] else joinSet q.poppers x }

/-- A push by context x of a value, or the reservation of an entry whose value comes later.  The push that ends an emptiness starts the
pushers' set anew (log entry 82). -/
def QReg.push (q : QReg) (x id : Nat) (v : Option Word) : QReg :=
  { q with ents := q.ents ++ [⟨id, v⟩], pushers := if q.ents.isEmpty then [x] else joinSet q.pushers x }

/-- A killed context is no producer and no consumer (R208). -/
def QReg.forget (q : QReg) (x : Nat) : QReg :=
  { q with pushers := q.pushers.filter (· ≠ x), poppers := q.poppers.filter (· ≠ x) }

/-- The value of a reserved entry arrives. -/
def QReg.fill (q : QReg) (id : Nat) (v : Word) : QReg :=
  { q with ents := q.ents.map (fun e => if e.id = id ∧ e.val = none then { e with val := some v } else e)
           discard := q.discard.filter (· ≠ id) }

/-- A reserved entry is removed (R210, R336). -/
def QReg.cancel (q : QReg) (id : Nat) : QReg := { q with ents := q.ents.filter (fun e => !(e.id = id ∧ e.val = none)) }

/-- QFLUSH (R113). -/
def QReg.flush (q : QReg) : QReg :=
  { q with
    ents := []
    discard := q.discard ++ (q.ents.filter (fun e => e.val.isNone)).map QEntry.id }

/-! ### The running context -/

/-- What the running instruction reads of the state. -/
def getS : Sem State := fun s => .ok (s, s)
def putS (s : State) : Sem Unit := fun _ => .ok ((), s)
def modS (f : State → State) : Sem Unit := fun s => .ok ((), f s)
def getMy : Sem Ctx := fun s => .ok (s.my, s)
def modMy (f : Ctx → Ctx) : Sem Unit := fun s => .ok ((), s.setMy (f s.my))
def getMe : Sem Core := fun s => .ok (s.me, s)
def modMe (f : Core → Core) : Sem Unit := fun s => .ok ((), s.setMe (f s.me))
def freshId : Sem Nat := fun s => .ok (s.nextId, { s with nextId := s.nextId + 1 })

end Sys2Proof.Machine
end

