-- ==== Sys2Proof/Machine/Translate.lean ====
section
/-! DEFINITION. HBM behind the L2 (R134 to R138), the page walk (R140 to R144), the TLBs (R143, R145, R316). -/

namespace Sys2Proof.Machine

/-! ### The stacks and the L2 -/

/-- The stack, which is also the partition, of a physical address (R140). -/
def stackOf (pa : Nat) : Nat := pa / 2 ^ 36
/-- The die whose L2 fronts it (R134). -/
def paDie (pa : Nat) : Nat := stackOf pa / 2
def lineBase (a : Nat) : Nat := a / 64 * 64

/-- The key material in a slot of a stack's base die (R20, R51). -/
def State.material (s : State) (stack slot : Nat) : BitVec 512 := AMap.getD s.keys (stack * 16 + slot) 0

/-- Key slot loaded (R51, R58). -/
def State.keyLoaded (s : State) (stack slot : Nat) : Bool := (s.reg (Pf.keyStat stack)).getLsbD slot

/-- The key material under which a line of HBM was last written, none where nothing has written it. -/
def State.writtenUnder (s : State) (pa : Nat) : Option (BitVec 512) :=
  match AMap.get? s.lineKey pa with
  | some k => some k
  | none => (s.fills.find? (fun f => decide (f.1 ≤ pa) && decide (pa < f.1 + f.2.1))).map (fun f => f.2.2)

/-- A line of HBM read under a slot: the decryption under the slot's key of what the line's own key encrypted (R20, log entry 9).  Pilot
firmware's tables are read under the key they were written with (`none`). -/
def State.hbmLine (s : State) (pa : Nat) (slot : Option Nat) : Line :=
  match s.writtenUnder pa, slot with
  | some k, some j =>
    if k = s.material (stackOf pa) j then s.hbm.line pa
    else Config.recrypt k (s.material (stackOf pa) j) pa (s.hbm.line pa)
  | _, _ => s.hbm.line pa

/-! ### Check codes (R15, R16) -/

/-- The bad symbols of each sector of a line. -/
def State.badSymbols (s : State) (l : Nat) : List Nat := [(AMap.getD s.ecc l []).length, (AMap.getD s.ecc (l + 32) []).length]

/-- A line of HBM with a sector that two or more bad symbols make uncorrectable.  R15 has any two detected; that more than two are detected
too is the model's choice (DESIGN CHOICE, log entry 86). -/
def State.eccLine (s : State) (l : Nat) : Bool := (s.badSymbols l).any (fun k => decide (2 ≤ k))

/-- A read of a line from HBM: each sector with one bad symbol is corrected and counted in the base die's error log; pilot firmware is told,
counts it for the 64 KiB granule, and logs it for the host (R16, R23). -/
def State.countCorrected (s : State) (l : Nat) : State :=
  let k := ((s.badSymbols l).filter (fun j => j = 1)).length
  if k = 0 then s
  else
    let g := l / 65536 * 65536
    { s with corrected := AMap.set s.corrected (stackOf l) (AMap.getD s.corrected (stackOf l) 0 + k)
             granuleErrs := AMap.set s.granuleErrs g (AMap.getD s.granuleErrs g 0 + k) }.report 25 (BitVec.ofNat 64 l) (BitVec.ofNat 64 k)

/-- Pilot firmware is told of a line with an uncorrectable error, and logs it for the host: kind 2, the line (R16, R17, R23). -/
def State.eccEvent (s : State) (pa : Nat) : State := s.report 2 (BitVec.ofNat 64 (lineBase pa)) 0

/-- A whole line written to HBM under a key: its sectors get new check codes (log entry 86). -/
def State.hbmPut (s : State) (pa : Nat) (v : Line) (under : Option (BitVec 512)) : State :=
  { s with hbm := s.hbm.write pa 64 v.toNat
           lineKey := match under with | some k => AMap.set s.lineKey pa k | none => s.lineKey
           ecc := AMap.erase (AMap.erase s.ecc pa) (pa + 32) }

/-! ### The L2 -/

def l2Find : List L2Line → Nat → Option L2Line
  | [], _ => none
  | l :: ls, a => if l.pa = a then some l else l2Find ls a

def l2Drop (ls : List L2Line) (a : Nat) : List L2Line := ls.filter (fun l => l.pa ≠ a)

/-- Writes an L2 line to HBM (R135: a zero line as zeros), under the key that its slot holds then (R20, R51). -/
def State.l2Evict (s : State) (l : L2Line) : State :=
  if l.zero || l.dirty then s.hbmPut l.pa (if l.zero then 0 else l.data) (l.key.map (s.material (stackOf l.pa))) else s

/-- HBM is to deliver a line that it cannot correct: the L2 does not hold it (R16). -/
def State.lineBad (s : State) (l : Nat) : Bool := s.eccLine l && (l2Find (s.die (paDie l)).l2 l).isNone

/-- The line as every reader through the L2 sees it (R134, R135). -/
def State.lineView (s : State) (pa : Nat) (key : Option Nat) : Line :=
  match l2Find (s.die (paDie pa)).l2 pa with
  | some l => if l.zero then 0 else l.data
  | none => s.hbmLine pa key

/-- The zero tags of a partition (R135), and the ways that each stack has of the sixteen (R134). -/
def zeroTags : Nat := 262144
def stackWays : Nat := 8

/-- The least way from `base` on that is not taken. -/
def freeWay (taken : List Nat) (base n : Nat) : Nat :=
  ((List.range n).map (· + base)).find? (fun w => !taken.contains w) |>.getD base

/-- The lines of a stack's half that stand in the way of a line: for a zero line the half's zero lines, for a data line the data lines
of its set; all data lines of a half with fewer than eight of them, since no set of it can be full. -/
def l2Rivals (ls : List L2Line) (l : L2Line) : List L2Line :=
  let mine := ls.filter (fun m => m.pa ≠ l.pa && m.zero = l.zero && stackOf m.pa = stackOf l.pa)
  if l.zero || mine.length < stackWays then mine else mine.filter (fun m => Config.l2Set m.pa = Config.l2Set l.pa)

/-- Installs a line in the L2.  A full set gives up its oldest line but for a clean one whose HBM copy is uncorrectable (log entries 10,
86); a full set of zero tags gives up its oldest one. -/
def State.l2Put (s : State) (l : L2Line) : State :=
  let d := s.die (paDie l.pa)
  let rivals := l2Rivals d.l2 l
  let cap := if l.zero then zeroTags else stackWays
  let base := stackOf l.pa % 2 * stackWays
  match (if rivals.length < cap then none else
      match (rivals.filter (fun m => m.dirty || !s.eccLine m.pa)).getLast? with
      | some v => some v
      | none => rivals.getLast?) with
  | none =>
    let way := if l.zero then 0 else freeWay (rivals.map L2Line.way) base stackWays
    s.setDie (paDie l.pa) { d with l2 := { l with way := way } :: l2Drop d.l2 l.pa }
  | some v =>
    let s' := s.l2Evict v
    s'.setDie (paDie l.pa) { d with l2 := { l with way := v.way } :: l2Drop (l2Drop d.l2 l.pa) v.pa }

/-- A line that a read brings into the L2 from HBM; an uncorrectable one is not delivered. -/
def State.l2Fill (s : State) (pa : Nat) (key : Option Nat) : State :=
  if (l2Find (s.die (paDie pa)).l2 pa).isSome || s.eccLine pa then s
  else (s.countCorrected pa).l2Put ⟨0, pa, false, s.hbmLine pa key, false, key⟩

/-- The bits of the bytes that a 64-bit byte mask names. -/
def maskBits (mask : BitVec 64) : Line :=
  BitVec.ofNat 512 ((List.range 64).foldl (fun acc i => if mask.getLsbD i then acc + 255 * 256 ^ i else acc) 0)

/-- The byte mask of n bytes from offset o of a line. -/
def byteMask (o n : Nat) : BitVec 64 := BitVec.ofNat 64 ((2 ^ n - 1) * 2 ^ o)

/-- old with the masked bytes of new. -/
def mergeLine (old new : Line) (mask : BitVec 64) : Line := (old &&& ~~~(maskBits mask)) ||| (new &&& maskBits mask)

/-- A write of some bytes of a line reaches the L2 (R135).  A part of a line that the L2 does not hold and HBM cannot deliver goes to HBM,
and the line stays uncorrectable (log entry 86). -/
def State.l2Write (s : State) (pa : Nat) (key : Option Nat) (data : Line) (mask : BitVec 64) : State :=
  let absent := (l2Find (s.die (paDie pa)).l2 pa).isNone
  let line := mergeLine (s.lineView pa key) data mask
  if absent && s.eccLine pa && mask ≠ BitVec.allOnes 64 then
    { s with hbm := s.hbm.write pa 64 line.toNat
             lineKey := match key with | some j => AMap.set s.lineKey pa (s.material (stackOf pa) j) | none => s.lineKey }
  else (if absent && mask ≠ BitVec.allOnes 64 then s.countCorrected pa else s).l2Put ⟨0, pa, false, line, true, key⟩

/-- L2MakeZero (R136). -/
def State.l2Zero (s : State) (pa key : Nat) : State := s.l2Put ⟨0, pa, true, 0, true, some key⟩

/-- A read through the L2 of some lines: those that HBM can deliver are brought in. -/
def State.l2Reads (s : State) (key : Option Nat) (ls : List Nat) : State := ls.foldl (fun s l => s.l2Fill l key) s

/-- The lines of n bytes at a physical address. -/
def linesAt (pa n : Nat) : List Nat :=
  if n = 0 then [] else (List.range ((pa + n - 1) / 64 - pa / 64 + 1)).map (fun i => lineBase pa + 64 * i)

/-- Reads n bytes from a physical address, line by line, at the L2. -/
def State.paRead (s : State) (key : Option Nat) (pa : Nat) : Nat → Nat
  | 0 => 0
  | n + 1 => (s.lineView (lineBase pa) key).toNat / 256 ^ (pa % 64) % 256 + 256 * paRead s key (pa + 1) n

/-- Writes bytes at the L2. -/
def State.paWrite (s : State) (key : Option Nat) (pa : Nat) : List Byte → State
  | [] => s
  | b :: bs => paWrite (s.l2Write (lineBase pa) key (BitVec.ofNat 512 (b.toNat * 256 ^ (pa % 64))) (byteMask (pa % 64) 1)) key (pa + 1) bs

/-! ### The walk (R140 to R142) -/

/-- What a walk ends in; `ecc` where it meets an entry that HBM cannot deliver (R16). -/
inductive WalkRes
  | page (t : TlbEnt) (entry : Nat) (z : Bool)
  | absent
  | bad (level reason entry : Nat)
  | ecc (entry : Nat)
deriving DecidableEq, Repr

def kindOf (n : Nat) : PageKind := if n = 0 then .so else if n = 1 then .rc else .uo

/-- The size of the page that a leaf maps, in bits of address (R140). -/
def leafBits (level : Nat) (grp : Bool) : Nat := if level = 3 then (if grp then 30 else 25) else (if grp then 21 else 16)

/-- One entry: REASON of a bad one (R147), none for a good one.  Of several that hold the first in this order is recorded, bits 55 to 39
of a leaf count as part of its address, and the fields of a leaf (Z, GRP, KIND) say nothing in an entry that is none (DESIGN CHOICE, log
entry 100). -/
def badEntry (e : Word) (level : Nat) : Option Nat :=
  let leaf := e.getLsbD 6
  let grp := e.getLsbD 7
  if e.getLsbD 63 || bitsOf e 8 4 ≠ 0 || bitsOf e 1 2 ≠ 0 then some 1
  else if leaf && bitsOf e 56 2 = 3 then some 2
  else if (level < 3 && leaf) || (level = 4 && !leaf) then some 3
  else if leaf && (bitsOf e 39 17 ≠ 0 || (bitsOf e 12 27 * 4096) % 2 ^ leafBits level grp ≠ 0) then some 4
  else if leaf && e.getLsbD 62 && grp then some 5
  else none

/-- The levels of R140: where the index lies, and its width. -/
def walkLevels : List (Nat × Nat × Nat) := [(0, 52, 4), (1, 43, 9), (2, 34, 9), (3, 25, 9), (4, 16, 9)]

/-- The walk from a table, reading entries through the L2 by physical address.  An address of a table above 39 bits
names no entry (log entry 100). -/
def State.walkFrom (s : State) (root va : Nat) : List (Nat × Nat × Nat) → Nat → WalkRes
  | [], _ => .absent
  | (level, lo, w) :: rest, table =>
    let entry := table + 8 * (va / 2 ^ lo % 2 ^ w)
    let e : Word := BitVec.ofNat 64 (s.paRead none entry 8)
    if entry ≥ 2 ^ 39 then .absent
    else if s.lineBad (lineBase entry) then .ecc entry
    else if !e.getLsbD 0 then .absent
    else match badEntry e level with
      | some r => .bad level r entry
      | none =>
        if e.getLsbD 6 then
          let b := leafBits level (e.getLsbD 7)
          .page ⟨va / 2 ^ b * 2 ^ b, 2 ^ b, bitsOf e 12 27 * 4096, root, bitsOf e 58 4, kindOf (bitsOf e 56 2),
            e.getLsbD 3, e.getLsbD 4, e.getLsbD 5⟩ entry (e.getLsbD 62)
        else walkFrom s root va rest (bitsOf e 12 44 * 4096)

/-- The address of a partition's root table (R140, R147). -/
def State.rootOf (s : State) (part : Nat) : Nat := bitsOf (s.reg (Pf.mmuRoot part)) 7 49 * 128

/-- A walk with the root of a partition (R140). -/
def State.walk (s : State) (part va : Nat) : WalkRes := s.walkFrom part va walkLevels (s.rootOf part)

/-- The lines of the entries that a walk reads. -/
def State.walkLines (s : State) (va : Nat) : List (Nat × Nat × Nat) → Nat → List Nat
  | [], _ => []
  | (level, lo, w) :: rest, table =>
    let entry := table + 8 * (va / 2 ^ lo % 2 ^ w)
    let e : Word := BitVec.ofNat 64 (s.paRead none entry 8)
    if entry ≥ 2 ^ 39 then []
    else if s.lineBad (lineBase entry) || !e.getLsbD 0 || (badEntry e level).isSome || e.getLsbD 6 then [lineBase entry]
    else lineBase entry :: walkLines s va rest (bitsOf e 12 44 * 4096)

/-- What the reads of a walk leave in the L2 and in the base dies' logs (R143, R16). -/
def State.walkReads (s : State) (part va : Nat) : State := s.l2Reads none (s.walkLines va walkLevels (s.rootOf part))

/-- R144: the page's lines leave the L2, zeros encrypted under KEY are written over the page, and Z of the entry is cleared. -/
def State.zeroFill (s : State) (t : TlbEnt) (entry : Nat) : State :=
  let d := s.die (paDie t.pa)
  let out (a : Nat) : Bool := decide (a < t.pa) || decide (t.pa + t.size ≤ a)
  let s1 := s.setDie (paDie t.pa) { d with l2 := d.l2.filter (fun l => out l.pa) }
  let s2 := { s1 with
    hbm := s1.hbm.zero t.pa t.size, lineKey := s1.lineKey.filter (fun p => out p.1), ecc := s1.ecc.filter (fun p => out p.1)
    fills := (t.pa, t.size, s1.material (stackOf t.pa) t.key) :: s1.fills.filter (fun f => out f.1 || decide (t.pa + t.size < f.1 + f.2.1)) }
  let e : Word := BitVec.ofNat 64 (s2.paRead none entry 8)
  s2.paWrite none entry (leBytes 8 (e &&& 0xBFFFFFFFFFFFFFFF#64).toNat)

/-- Records a bad entry in MMU_WALK unless one is recorded (R147). -/
def State.recordBad (s : State) (part level reason entry : Nat) : State :=
  if (s.reg (Pf.mmuWalk part)).getLsbD 63 then s
  else s.setReg (Pf.mmuWalk part)
    (BitVec.ofNat 64 (2 ^ 63 + level * 2 ^ 60 + reason * 2 ^ 56 + entry / 8 * 8))

/-! ### The TLBs (R143) -/

def TlbEnt.hit (t : TlbEnt) (root va : Nat) : Bool := t.root = root && decide (t.va ≤ va) && decide (va < t.va + t.size)

def tlbFind (ts : List TlbEnt) (root va : Nat) : Option TlbEnt := ts.find? (fun t => t.hit root va)

/-- Installs an entry; a full TLB gives up its oldest one. -/
def tlbPut (ts : List TlbEnt) (cap : Nat) (t : TlbEnt) : List TlbEnt :=
  (t :: ts.filter (fun u => !(u.root = t.root && u.va = t.va && u.size = t.size))).take cap

/-- Installs an entry in an 8-way TLB: a full set gives up its oldest one. -/
def tlbPut8 (set : Nat → Nat) (ts : List TlbEnt) (t : TlbEnt) : List TlbEnt :=
  let rest := ts.filter (fun u => !(u.root = t.root && u.va = t.va && u.size = t.size))
  if rest.length < 8 then t :: rest
  else
    let mine := rest.filter (fun u => set u.va = set t.va)
    match (if mine.length < 8 then none else mine.getLast?) with
    | some v => t :: rest.erase v
    | none => t :: rest

/-- The half of the die TLB that a core uses is its partition's (R143). -/
def Die.tlbOf (d : Die) (p : Nat) : List TlbEnt := AMap.getD d.tlb p []
def Die.setTlb (d : Die) (p : Nat) (ts : List TlbEnt) : Die := { d with tlb := AMap.set d.tlb p ts }

/-- Installs a translation at every level above the one that held it. -/
def State.tlbInstall (s : State) (n : Nat) (t : TlbEnt) : State :=
  let d := s.die (dieOf n)
  let s1 := s.setDie (dieOf n) (d.setTlb (partOf n) (tlbPut8 (fun va => (Config.dieTlbSet va).toNat) (d.tlbOf (partOf n)) t))
  let o := s1.octet (octetOf n)
  let s2 := s1.setOctet (octetOf n) { o with tlb := tlbPut8 (fun va => (Config.octTlbSet va).toNat) o.tlb t }
  s2.setCore n { s2.core n with tlb := tlbPut (s2.core n).tlb 64 t }

/-- Looks an address up in the core's, the octet's and the die's TLB in turn. -/
def State.tlbLook (s : State) (n root va : Nat) : Option TlbEnt :=
  match tlbFind (s.core n).tlb root va with
  | some t => some t
  | none =>
    match tlbFind (s.octet (octetOf n)).tlb root va with
    | some t => some t
    | none => tlbFind ((s.die (dieOf n)).tlbOf (partOf n)) root va

/-- The page that holds an address, by the tables as they stand: its first address and its size, the smallest page where there is none. -/
def State.pageAt (s : State) (root va : Nat) : Nat × Nat :=
  match s.walk root va with
  | .page t _ _ => (t.va, t.size)
  | _ => (va / 2 ^ 16 * 2 ^ 16, 2 ^ 16)

/-- The checks 3 to 5 of R142 on sz bytes of a page: permission, which a store to the TCB pool never has (R66), reach, key. -/
inductive Perm
  | r | w | rw | x
deriving DecidableEq, Repr

def TlbEnt.allows (t : TlbEnt) : Perm → Bool
  | .r => t.r | .w => t.w | .rw => t.r && t.w | .x => t.x

/-- Bytes of a partition's TCB pool, 8,192 TCBs of 128 bytes (R66, log entry 87). -/
def State.inPool (s : State) (part va sz : Nat) : Bool :=
  let b := bitsOf (s.reg (Pf.chr part 0x00)) 20 36 * 2 ^ 20
  decide (va < b + 2 ^ 20) && decide (b < va + sz)

def State.pageCause (s : State) (t : TlbEnt) (p : Perm) (va sz : Nat) : Option (BitVec 8) :=
  if !t.allows p || ((p = .w || p = .rw) && s.inPool t.root va sz) then some 0x11
  else if !(s.reg (Pf.mmuReach t.root)).getLsbD (stackOf t.pa) then some 0x16
  else if !s.keyLoaded (stackOf t.pa) t.key then some 0x12
  else none

/-- The physical address of a virtual one. -/
def TlbEnt.phys (t : TlbEnt) (va : Nat) : Nat := t.pa + (va - t.va)

/-- The key slot that a page's lines are written under. -/
def State.keyOf (_ : State) (t : TlbEnt) : Option Nat := some t.key

/-- A partition address (R410) to a page and its entry, without permission checks; `true` where the page is still to be zero-filled. -/
def State.partPage (s : State) (part va : Nat) : Option (TlbEnt × Nat × Bool) :=
  match s.walk part va with
  | .page t e z => some (t, e, z)
  | _ => none

/-- A partition address to a physical address. -/
def State.partAddr (s : State) (part va : Nat) : Option Nat := (s.partPage part va).map (fun p => p.1.phys va)

/-- The first of the lines of partition memory that HBM is to deliver and cannot; a page that is still to be zero-filled has none. -/
def State.partBad (s : State) (part va n : Nat) : Option Nat :=
  match s.partPage part va with
  | some (t, _, false) => (linesAt (t.phys va) n).find? s.lineBad
  | _ => none

/-- A read of partition memory by the Chartroom, the halt or the fix logic finds its page and data (R410, R16, log entries 12 and 106). -/
def State.partThere (s : State) (part va n : Nat) : Bool := (s.partPage part va).isSome && (s.partBad part va n).isNone

/-- Reads and writes of partition memory by the Chartroom and the halt logic, with the zero-fill of R144 before them.  Where no page is
mapped nothing is written, and zeros are read (log entry 12). -/
def State.partRead (s : State) (part va n : Nat) : Nat :=
  match s.partPage part va with
  | some (t, _, z) => if z || (s.partBad part va n).isSome then 0 else s.paRead (s.keyOf t) (t.phys va) n
  | none => 0
def State.partWrite (s : State) (part va : Nat) (bs : List Byte) : State :=
  match s.partPage part va with
  | some (t, e, z) => (if z then s.zeroFill t e else s).paWrite (s.keyOf t) (t.phys va) bs
  | none => s

/-- A table that has no page: pilot event 6 names the register and the address (R410). -/
def State.unmapped (s : State) (reg addr : Nat) : State := s.pilotEvent 6 (BitVec.ofNat 64 reg) (BitVec.ofNat 64 addr)

/-- What a read of n bytes of a table that a register names leaves: the walk and the bytes go through the L2, a page with Z is zero-filled
first (R144), and pilot firmware is told of a page that is not there (R410) and of data or an entry that HBM cannot deliver (R16). -/
def State.tableRead (s : State) (part reg va n : Nat) : State :=
  let s1 := s.walkReads part va
  match s1.walk part va with
  | .page t e z =>
    let s2 := if z then s1.zeroFill t e else s1
    match s2.partBad part va n with
    | some l => s2.eccEvent l
    | none => s2.l2Reads (s2.keyOf t) (linesAt (t.phys va) n)
  | .ecc e => s1.eccEvent e
  | _ => s1.unmapped reg va

/-- A write to such a table; one that finds no page is not performed, and pilot firmware is told (R410). -/
def State.tableStore (s : State) (part reg va : Nat) (bs : List Byte) : State :=
  if (s.partPage part va).isNone then s.unmapped reg va else s.partWrite part va bs

end Sys2Proof.Machine
end

