-- ==== Sys2Proof/Machine/Convoy.lean ====
section
/-! DEFINITION. Convoy records (R82), which convoys are checkpointed (R88, R90). -/

namespace Sys2Proof.Machine

/-! ### Convoy records (R82) -/

/-- The partition address of a convoy record. -/
def State.cvyAddr (s : State) (p id : Nat) : Nat := bitsOf (s.reg (Pf.chr p 0x08)) 17 39 * 2 ^ 17 + id * 128

/-- Doubleword i of a convoy record. -/
def State.cvyWord (s : State) (p id i : Nat) : Word := BitVec.ofNat 64 (s.partRead p (s.cvyAddr p id + 8 * i) 8)

/-- Writes a doubleword of a convoy record. -/
def State.setCvyWord (s : State) (p id i : Nat) (v : Word) : State :=
  s.tableStore p (Pf.chr p 0x08) (s.cvyAddr p id + 8 * i) (leBytes 8 v.toNat)

/-- The Chartroom finds a convoy record (R410, R16), and reads it. -/
def State.cvyThere (s : State) (p id : Nat) : Bool := s.partThere p (s.cvyAddr p id) 128
def State.readCvy (s : State) (p id : Nat) : State := s.tableRead p (Pf.chr p 0x08) (s.cvyAddr p id) 128

/-- MEMBERS of a record, and the TCB of one of them. -/
def State.cvyMembers (s : State) (p id : Nat) : List Nat :=
  (List.range (bitsOf (s.cvyWord p id 0) 0 2 + 1)).map (fun j => bitsOf (s.cvyWord p id 1) (16 * j) 16)

/-- The live gang of a convoy's member. -/
def State.cvyGang (s : State) (p id j : Nat) : Option Gang :=
  (s.part p).gangs.find? (fun g => g.convoy = id && g.member = j && !g.draining)

/-- The pacing core and region of a placed convoy. -/
def State.pacer (s : State) (p id : Nat) : Option (Nat × Nat) :=
  let d0 := s.cvyWord p id 0
  (s.cvyGang p id (bitsOf d0 12 2)).map (fun g => (coreAt (g.x0 + bitsOf d0 14 5) (g.y0 + bitsOf d0 19 5), bitsOf d0 8 4))

/-- The checkpoint interval N of a placed convoy: LAPS of the pacing region (R82, R148); 0 where that region is no home. -/
def State.cvyLaps (s : State) (p id : Nat) : Nat :=
  match s.pacer p id with
  | some (n, r) => let e := (s.core n).rose r; if e.bound && !e.view then e.laps else 0
  | none => 0

/-- The convoy of a core is checkpointed: stores to translated addresses are refused (R90). -/
def State.checkpointed (s : State) (n : Nat) : Bool :=
  match (s.core n).gang with
  | some g => decide (g.convoy < 1024) && decide (s.cvyLaps g.part g.convoy ≠ 0)
  | none => false

end Sys2Proof.Machine
end

