-- ==== Sys2Proof/Machine/Chart.lean ====
section
/-! DEFINITION. The Chartroom's state machine (04_chartroom.md): TCBs and their states (R66 to R69), arming and patching (R71,
R72), dependences (R73, R74), dealing (R75, R76), the requests of one mesh cycle (R70, R77), a gang's last exit (R83, R86),
faults of tasks (R92, R94), and completion records (R53). -/

namespace Sys2Proof.Machine

/-- The partitions. -/
def partNums : List Nat := List.range 8

/-- Replaces bits [lo, lo + n) of a word. -/
def putBits (w : Word) (lo n v : Nat) : Word :=
  BitVec.ofNat 64 (w.toNat - bitsOf w lo n * 2 ^ lo + v % 2 ^ n * 2 ^ lo)

/-! ### TCBs (R66, R67) -/

/-- The pool's address of a TCB. -/
def State.tcbAddr (s : State) (p i : Nat) : Nat := bitsOf (s.reg (Pf.chr p 0)) 20 36 * 2 ^ 20 + i * 128

/-- A TCB as the Chartroom holds it, none where its page is not mapped or cannot be read (R410, R16). -/
def State.tcb? (s : State) (p i : Nat) : Option (Vector Word 16) :=
  match AMap.get? (s.part p).tcbs i with
  | some t => some t
  | none =>
    if !s.partThere p (s.tcbAddr p i) 128 then none
    else some (Vector.ofFn (fun (j : Fin 16) => BitVec.ofNat 64 (s.partRead p (s.tcbAddr p i + 8 * j.val) 8)))

def State.tcb (s : State) (p i : Nat) : Vector Word 16 := (s.tcb? p i).getD (Vector.replicate 16 0)
def vecGet (t : Vector Word 16) (j : Nat) : Word := if h : j < 16 then t[j] else 0
def State.tcbW (s : State) (p i j : Nat) : Word := vecGet (s.tcb p i) j
def State.tcbF (s : State) (p i j lo n : Nat) : Nat := bitsOf (s.tcbW p i j) lo n

/-- The register and the address of a TCB in the pool. -/
def State.tcbMiss (s : State) (p i : Nat) : Nat × Nat := (Pf.chr p 0, s.tcbAddr p i)

/-- The Chartroom needs TCBs: those that it does not cache are read from the pool (R410, R16, R144). -/
def State.readTcb (s : State) (p i : Nat) : State :=
  if 8192 ≤ i || (AMap.get? (s.part p).tcbs i).isSome then s else s.tableRead p (Pf.chr p 0) (s.tcbAddr p i) 128
def State.readTcbs (s : State) (p : Nat) (is : List Nat) : State := is.foldl (fun s i => s.readTcb p i) s

/-- A change of one doubleword, written through to the pool; a pool entry without a page is reported (R410). -/
def State.setTcbW (s : State) (p i j : Nat) (v : Word) : State :=
  let t := s.tcb p i
  let t' := if h : j < 16 then t.set j v else t
  let s1 := s.setPart p { s.part p with tcbs := AMap.set (s.part p).tcbs i t' }
  s1.tableStore p (Pf.chr p 0) (s.tcbAddr p i + 8 * j) (leBytes 8 v.toNat)

def State.setTcbF (s : State) (p i j lo n v : Nat) : State := s.setTcbW p i j (putBits (s.tcbW p i j) lo n v)

/-- The states of R69. -/
abbrev tFree : Nat := 0
abbrev tPatching : Nat := 1
abbrev tWaiting : Nat := 2
abbrev tReady : Nat := 3
abbrev tRunning : Nat := 4
abbrev tDraining : Nat := 5
abbrev tDone : Nat := 6
abbrev tFaulted : Nat := 7
abbrev tDiscarded : Nat := 8
abbrev tLink : Nat := 9

def State.tcbSt (s : State) (p i : Nat) : Nat := s.tcbF p i 0 0 8
def State.setTcbSt (s : State) (p i v : Nat) : State := s.setTcbF p i 0 0 8 v
def State.recCount (s : State) (p i : Nat) : Nat := s.tcbF p i 3 16 32
def State.cursor (s : State) (p i : Nat) : Nat := s.tcbF p i 4 0 32
def State.acked (s : State) (p i : Nat) : Nat := s.tcbF p i 4 32 32
def State.tcbConvoy (s : State) (p i : Nat) : Nat := s.tcbF p i 8 48 16

/-- A bit of CHR_EVT is set; its rising edge is a pilot event: kind 7, the partition and the bit (R95). -/
def State.chrEvt (s : State) (p bit : Nat) : State :=
  let a := Pf.chr p 0x48
  if (s.reg a).getLsbD bit then s
  else (s.setReg a (s.reg a ||| BitVec.ofNat 64 (2 ^ bit))).pilotEvent 7 (BitVec.ofNat 64 p) (BitVec.ofNat 64 bit)

/-! ### Completion records (R53, R54) -/

/-- Sends an MSI-X message. -/
def State.msi (s : State) (fn vec : Nat) : State := { s with dev := { s.dev with msix := s.dev.msix ++ [(fn, vec)] } }

/-- A bit of VF_EVT rises: MSI-X vector 1. -/
def State.vfEvt (s : State) (v bit : Nat) : State :=
  let a := Pf.vf v 0x18
  if (s.reg a).getLsbD bit then s else (s.setReg a (s.reg a ||| BitVec.ofNat 64 (2 ^ bit))).msi v 1

/-- Free entries of a VF's ring. -/
def State.ringRoom (s : State) (v : Nat) : Nat :=
  let used := (s.regF (Pf.vf v 0x50) 0 32 + 2 ^ 32 - s.regF (Pf.vf v 0x58) 0 32) % 2 ^ 32
  if (s.reg (Pf.vf v 0x48)).getLsbD 5 then 2 ^ s.regF (Pf.vf v 0x48) 0 5 - used else 0

/-- The record of a task that has reached a state, with what it names of a fault. -/
def State.cmplRec (s : State) (p i st cause x y : Nat) : Vector Word 4 :=
  #v[BitVec.ofNat 64 (y * 2 ^ 40 + x * 2 ^ 32 + cause * 2 ^ 24 + st * 2 ^ 16 + i), s.tcbW p i 8,
     BitVec.ofNat 64 (s.acked p i), s.tcbW p i 15]

/-- A record that NOTIFY asks for. -/
def State.cmplOf (s : State) (p i st cause x y : Nat) : Option (Vector Word 4) :=
  if (s.tcbW p i 5).getLsbD 20 then some (s.cmplRec p i st cause x y) else none

/-- A record joins the wait list; one that finds 256 waiting for room is dropped. -/
def State.queueRec (s : State) (p : Nat) (r : Option (Vector Word 4)) : State :=
  match r with
  | none => s
  | some r =>
    let v := p + 1
    if (s.part p).recs.length ≥ 256 + s.ringRoom v then
      let a := Pf.vf v 0x18
      (s.setRegF a 32 32 (min (s.regF a 32 32 + 1) 0xFFFFFFFF)).vfEvt v 0
    else s.setPart p { s.part p with recs := (s.part p).recs ++ [r] }

def State.complete (s : State) (p i st cause x y : Nat) : State := s.queueRec p (s.cmplOf p i st cause x y)

/-! ### Successors (R68, R74) -/

/-- The successor indexes in a block's own fields. -/
def State.succBlock (s : State) (p i : Nat) : List Nat :=
  (List.range (min (s.tcbF p i 5 16 4) 8)).map (fun k => s.tcbF p i (6 + k / 4) (16 * (k % 4)) 16)

/-- The TCBs that CONT leads to, in chain order: LINK blocks, and at the end one that is none. -/
def State.chain (s : State) (p : Nat) : Nat → Nat → List Nat
  | 0, _ => []
  | fuel + 1, i =>
    let cont := s.tcbF p i 5 32 32
    if (s.tcb? p i).isNone || 8192 ≤ cont then [] else cont :: (if s.tcbSt p cont = tLink then chain s p fuel cont else [])

/-- The whole list: own fields, then the LINK blocks in chain order. -/
def State.succs (s : State) (p : Nat) : Nat → Nat → List Nat
  | 0, _ => []
  | fuel + 1, i =>
    let cont := s.tcbF p i 5 32 32
    s.succBlock p i ++ (if (s.tcb? p i).isSome ∧ cont < 8192 ∧ s.tcbSt p cont = tLink then succs s p fuel cont else [])

/-- Check 5 of R71, block by block; `left` blocks may follow.  A block without a page refuses the request (R410). -/
def State.chainCause (s : State) (p : Nat) : Nat → Nat → Option (BitVec 8 × Option (Nat × Nat))
  | left, i =>
    if s.tcbF p i 5 16 4 > 8 then some (0x71, none)
    else if (s.succBlock p i).any (fun k => decide (8192 ≤ k)) then some (0x72, none)
    else
      let cont := s.tcbF p i 5 32 32
      if cont = 0xFFFFFFFF then none
      else if cont ≥ 8192 then some (0x72, none)
      else match left with
        | 0 => some (0x71, none)
        | l + 1 =>
          if (s.tcb? p cont).isNone then some (0x72, some (s.tcbMiss p cont))
          else if s.tcbSt p cont ≠ tLink then some (0x71, none) else chainCause s p l cont

/-! ### Where a gang fits (R79, R80) -/

/-- Aligned origins in y-major order from the partition's origin, whose whole rectangle lies in the partition and its span
set, without a fenced octet. -/
def State.origins (s : State) (p lw lh : Nat) : List (Nat × Nat) :=
  let span := s.reg (Pf.chr p 0x28)
  let spots := (List.range 8).flatMap (fun j => (List.range 16).map (fun i => (partX0 p + i, partY0 p + j)))
  spots.filter (fun o =>
    decide (o.1 % 2 ^ lw = 0) && decide (o.2 % 2 ^ lh = 0) && decide (o.1 + 2 ^ lw ≤ 32) && decide (o.2 + 2 ^ lh ≤ 32) &&
    (rectCores o.1 o.2 lw lh).all (fun n => (partOf n = p || span.getLsbD (partOf n)) && !s.dev.fenced.contains (octetOf n)))

/-- A core in the free set. -/
def State.coreFree (s : State) (n : Nat) : Bool := (s.core n).gang.isNone && !s.dev.fenced.contains (octetOf n)

def State.lwOf (s : State) (p i : Nat) : Nat := s.tcbF p i 0 10 4
def State.lhOf (s : State) (p i : Nat) : Nat := s.tcbF p i 0 14 4

/-- An operand word as an address range: none for address 0 (R81). -/
def operRange (w : Word) : Option (Nat × Nat) :=
  let many (n : Nat) : Nat := if n = 0 then 256 else n
  if bitsOf w 0 48 = 0 then none else some (bitsOf w 0 48, many (bitsOf w 48 8) * many (bitsOf w 56 8) * 64)

/-- The partition whose stack holds OPER0 of a spanning gang, where it is another one of the span set (R81). -/
def State.affinity (s : State) (p i : Nat) : Option Nat :=
  if s.lwOf p i ≤ 4 ∧ s.lhOf p i ≤ 3 then none
  else match (operRange (s.tcbW p i 11)).bind (fun r => s.partAddr p r.1) with
    | some pa => if stackOf pa ≠ p && (s.reg (Pf.chr p 0x28)).getLsbD (stackOf pa) then some (stackOf pa) else none
    | none => none

/-- The origins of a task's gang in the order in which they are tried: y-major, from the partition's origin, or from the one that affinity
names and then round to it (R79, R81, log entry 46). -/
def State.scan (s : State) (p i : Nat) : List (Nat × Nat) :=
  let os := s.origins p (s.lwOf p i) (s.lhOf p i)
  match s.affinity p i with
  | none => os
  | some q =>
    let from_ (o : Nat × Nat) : Bool := decide (partY0 q < o.2) || (o.2 = partY0 q && decide (partX0 q ≤ o.1))
    os.filter from_ ++ os.filter (fun o => !from_ o)

/-- The first origin whose rectangle lies in the available cores. -/
def State.fit (s : State) (p i : Nat) (avail : Nat → Bool) (only : Option (Nat × Nat)) : Option (Nat × Nat) :=
  let os := s.scan p i
  (match only with | some o => os.filter (· = o) | none => os).find? (fun o => (rectCores o.1 o.2 (s.lwOf p i) (s.lhOf p i)).all avail)

/-- The origins of an entry's members in member order, each without the cores of the earlier ones. -/
def State.fitAll (s : State) (p : Nat) (free : Nat → Bool) : List (Nat × Option (Nat × Nat)) → List Nat → Option (List (Nat × Nat))
  | [], _ => some []
  | (i, only) :: rest, taken =>
    match s.fit p i (fun n => free n && !taken.contains n) only with
    | none => none
    | some o => (fitAll s p free rest (taken ++ rectCores o.1 o.2 (s.lwOf p i) (s.lhOf p i))).map (fun os => o :: os)

/-- The gang, or the gangs of its convoy together, fit nowhere among cores that are not fenced (R24, R83). -/
def State.placeCause (s : State) (p i : Nat) : Option (BitVec 8) :=
  let id := s.tcbConvoy p i
  if s.origins p (s.lwOf p i) (s.lhOf p i) = [] then some 0x73
  else if id < 1024 && (s.fitAll p (fun _ => true) ((s.cvyMembers p id).map (fun j => (j, none))) []).isNone then some 0x73
  else none

/-! ### Convoys (R82, R83, R89) -/

/-- Bytes of the declared ranges of a member. -/
def State.cvyRanges (s : State) (p id j : Nat) : Nat :=
  ((List.range 8).map (fun r => let w := s.cvyWord p id (4 + r); if bitsOf w 62 2 = j then bitsOf w 32 30 else 0)).foldl (· + ·) 0

/-- The image bound of R89. -/
def State.imageBound (s : State) (p id : Nat) : Nat :=
  let d0 := s.cvyWord p id 0
  let per := 5632 + 640 + 576 + 8320 + 80 + (if d0.getLsbD 2 then 32768 else 0) + (if d0.getLsbD 3 then 131072 else 0)
  let ms := (s.cvyMembers p id).zipIdx
  64 + (ms.map (fun m => 2 ^ (s.lwOf p m.1 + s.lhOf p m.1) * (per + s.cvyRanges p id m.2))).foldl (· + ·) 0

/-- The reserved fields of a record are zero. -/
def State.cvyRsvOk (s : State) (p id : Nat) : Bool :=
  let w := s.cvyWord p id
  decide (bitsOf (w 0) 24 40 = 0) && decide (bitsOf (w 0) 4 4 = 0) && decide (bitsOf (w 2) 48 16 = 0) &&
  decide (bitsOf (w 13) 2 62 = 0) && decide (w 14 = 0)

/-- The member checks of R83. -/
def State.memberOk (s : State) (p i : Nat) : Bool :=
  let id := s.tcbConvoy p i
  decide (id < 1024) && (s.cvyMembers p id).contains i && decide (s.tcbF p i 0 18 4 = 0) && s.cvyRsvOk p id &&
  decide (s.imageBound p id ≤ bitsOf (s.cvyWord p id 3) 0 32)

/-! ### Arming (R71) -/

/-- The reserved fields of a TCB are zero. -/
def State.tcbRsvOk (s : State) (p i : Nat) : Bool :=
  decide (s.tcbF p i 0 56 8 = 0) && decide (s.tcbF p i 0 26 6 = 0) && decide (s.tcbF p i 5 22 10 = 0) &&
  decide (s.tcbF p i 9 28 4 = 0) && decide (s.tcbF p i 10 33 31 = 0)

/-- The first check of a member that fails (R83, R24): its record's page and those of its fellow members' TCBs, the record, and a place for
all of the convoy's gangs together. -/
def State.memberCause (s : State) (p i : Nat) : Option (BitVec 8 × Option (Nat × Nat)) :=
  let id := s.tcbConvoy p i
  if id ≥ 1024 then some (0x73, none)
  else if !s.cvyThere p id then some (0x72, some (Pf.chr p 0x08, s.cvyAddr p id))
  else match (s.cvyMembers p id).find? (fun j => decide (j < 8192) && (s.tcb? p j).isNone) with
    | some j => some (0x72, some (s.tcbMiss p j))
    | none =>
      if !s.memberOk p i then some (0x73, none)
      else if (s.fitAll p (fun _ => true) ((s.cvyMembers p id).map (fun j => (j, none))) []).isNone then some (0x73, none)
      else none

/-- The first check that fails: its cause, and the register and the address of a table that has no page. -/
def State.armFault (s : State) (p i : Nat) : Option (BitVec 8 × Option (Nat × Nat)) :=
  let f := s.tcbF p i
  if i ≥ 8192 then some (0x72, none)
  else if (s.tcb? p i).isNone then some (0x72, some (s.tcbMiss p i))
  else if s.tcbSt p i ≠ tFree then some (0x71, none)
  else if !s.tcbRsvOk p i || s.tcbF p i 1 0 2 ≠ 0 || f 0 10 4 > 5 || f 0 14 4 > 5 || f 0 18 4 > 7 || f 5 16 4 > 8 ||
      (f 3 16 32 > 0 && f 3 0 16 = 0) then some (0x71, none)
  else if f 0 32 16 % 16 ≠ 0 || f 0 32 16 > 256 || f 0 48 8 > f 0 32 16 then some (0x71, none)
  else match s.chainCause p 16 i with
    | some c => some c
    | none =>
      if s.origins p (f 0 10 4) (f 0 14 4) = [] then some (0x73, none)
      else if f 8 48 16 = 0xFFFF then none
      else s.memberCause p i

def State.armCause (s : State) (p i : Nat) : Option (BitVec 8) := (s.armFault p i).map Prod.fst

/-- The tables that the checks of an arm come to, in their order: the TCB, its LINK blocks, its convoy's record and members. -/
def State.armTables (s : State) (p i : Nat) : List (Nat × Nat) :=
  let id := s.tcbConvoy p i
  let cached (j : Nat) : Bool := (AMap.get? (s.part p).tcbs j).isSome || decide (8192 ≤ j)
  ((i :: s.chain p 17 i).filter (fun j => !cached j)).map (s.tcbMiss p) ++
  (if id < 1024 then (Pf.chr p 0x08, s.cvyAddr p id) :: ((s.cvyMembers p id).filter (fun j => !cached j)).map (s.tcbMiss p) else [])

/-- An arm reads the tables that its checks come to, as far as they go: one that has no page is the last (R410). -/
def State.armReads (s : State) (p i : Nat) : State :=
  let ts := s.armTables p i
  let seen := match s.armFault p i with
    | none => ts
    | some (_, some m) => ts.takeWhile (· ≠ m) ++ [m]
    | some (_, none) => ts.take 1
  seen.foldl (fun s m => s.tableRead p m.1 m.2 128) s

/-- A task that becomes READY, with its place in the order of R77: class, core, id. -/
structure Newly where
  cls : Nat
  core : Nat
  id : Nat
  tcb : Nat
deriving DecidableEq, Repr

def Newly.before (a b : Newly) : Bool :=
  decide (a.cls < b.cls) || (a.cls = b.cls && (decide (a.core < b.core) || (a.core = b.core && decide (a.id < b.id))))

/-- Inserts in order, after its equals. -/
def insertBy {α : Type} (lt : α → α → Bool) (x : α) : List α → List α
  | [] => [x]
  | y :: ys => if lt x y then x :: y :: ys else y :: insertBy lt x ys

def sortBy {α : Type} (lt : α → α → Bool) (l : List α) : List α := l.foldl (fun acc x => insertBy lt x acc) []

/-- A successful arm. -/
def State.armTask (s : State) (p i : Nat) : State :=
  let s1 := ((s.setTcbW p i 4 0).setTcbW p i 9 0).setTcbW p i 10 0
  let q := s1.part p
  let s2 := s1.setPart p { q with redeal := AMap.erase q.redeal i, lost := AMap.erase q.lost i, faulty := AMap.erase q.faulty i, passed := AMap.erase (AMap.erase q.passed i) (8192 + s1.tcbConvoy p i), grace := AMap.erase q.grace i }
  s2.setTcbSt p i (if s2.tcbF p i 5 0 16 = 0 then tReady else tWaiting)

/-! ### Patching (R72) -/

/-- The bits of each doubleword that CHPATCH may write (R67). -/
def tcbRw : Nat → Word
  | 0 => 0x00FFFFFF03FFFF00
  | 1 => 0xFFFFFFFFFFFFFFFF
  | 2 => 0xFFFFFFFFFFFFFFFF
  | 3 => 0xFFFFFFFFFFFFFFFF
  | 4 => 0
  | 5 => 0xFFFFFFFF003FFFFF
  | 6 => 0xFFFFFFFFFFFFFFFF
  | 7 => 0xFFFFFFFFFFFFFFFF
  | 8 => 0xFFFF000000000000
  | 9 => 0
  | 10 => 0
  | _ => 0xFFFFFFFFFFFFFFFF

/-- A patch: its cause, or the state after it. -/
def State.patch (s : State) (p i w : Nat) (v : Word) : Except (BitVec 8) State :=
  let st := s.tcbSt p i
  let word := if st = tFree || st = tDone || st = tDiscarded then true
    else if st = tWaiting then decide (w = 2 ∨ 11 ≤ w) else false
  if i ≥ 8192 || (s.tcb? p i).isNone then .error 0x72
  else if !word || v &&& ~~~(tcbRw w) ≠ 0 then .error 0x71
  else
    let s1 := s.setTcbW p i w ((s.tcbW p i w &&& ~~~(tcbRw w)) ||| v)
    let back := if st = tWaiting then tWaiting else tFree
    let s2 := s1.setTcbSt p i tPatching
    .ok (s2.setPart p { s2.part p with patching := (s2.part p).patching ++ [(i, back)] })

/-- The end of a patch's mesh cycle. -/
def State.endPatching (s : State) (p : Nat) : State :=
  let l := (s.part p).patching
  if l = [] then s
  else
    let s1 := l.foldl (fun s e => if s.tcbSt p e.1 = tPatching then s.setTcbSt p e.1 e.2 else s) s
    s1.setPart p { s1.part p with patching := [] }

/-! ### Decrements (R73) -/

/-- A decrement: its cause, or whether the task has become READY, and the state. -/
def State.decrement (s : State) (p i : Nat) : Except (BitVec 8) (Bool × State) :=
  let st := s.tcbSt p i
  let d := s.tcbF p i 5 0 16
  if i ≥ 8192 || (s.tcb? p i).isNone then .error 0x72
  else if (st ≠ tFree && st ≠ tWaiting) || d = 0 then .error 0x70
  else
    let s1 := s.setTcbF p i 5 0 16 (d - 1)
    if st = tWaiting && d = 1 then .ok (true, s1.setTcbSt p i tReady) else .ok (false, s1)

/-- A completion's decrement that finds a counter at zero. -/
def State.underflow (s : State) (p : Nat) : State :=
  let a := Pf.chr p 0x40
  (s.setRegF a 48 16 (min (s.regF a 48 16 + 1) 0xFFFF)).chrEvt p 0

/-- A prefetch of a line into the L2 of its die (R81, R138): one without a translation, that faults, or whose page is still to be
zero-filled does nothing, and neither does one of a line that the L2 holds. -/
def State.prefetch (s : State) (p a : Nat) : State :=
  match s.partPage p a with
  | some (t, _, false) => if (s.pageCause t .r a 1).isSome then s else s.l2Fill (lineBase (t.phys a)) (some t.key)
  | _ => s

/-- A task becomes READY with the next READYSEQ (R77), and its declared tiles are prefetched (R81). -/
def State.seqOne (s : State) (p i : Nat) : State :=
  let q := s.regF (Pf.chr p 0x38) 0 48
  let s1 := (s.setTcbF p i 8 0 48 q).setReg (Pf.chr p 0x38) (BitVec.ofNat 64 ((q + 1) % 2 ^ 48))
  (((List.range 4).filterMap (fun j => operRange (s1.tcbW p i (11 + j)))).flatMap (fun r =>
    (List.range ((r.1 % 64 + r.2 + 63) / 64)).map (fun k => lineBase r.1 + 64 * k))).foldl (fun s a => s.prefetch p a) s1

/-- The tasks that became READY in a mesh cycle, in the order of R77. -/
def State.seqAll (s : State) (p : Nat) (new : List Newly) : State :=
  (sortBy Newly.before new).foldl (fun s k => s.seqOne p k.tcb) s

/-! ### Dealing (R75, R76, R92, R94) -/

/-- The gang of a core, as its placing Chartroom holds it. -/
def State.gangOf (s : State) (n : Nat) : Option (Nat × Gang) :=
  match (s.core n).gang with
  | none => none
  | some r => ((s.part r.part).gangs.find? (fun g => g.num = r.num)).map (fun g => (r.part, g))

/-- Live gangs of a task. -/
def State.liveGangs (s : State) (p i : Nat) : Nat := ((s.part p).gangs.filter (fun g => g.tcb = i && !g.draining)).length

def State.setGang (s : State) (p : Nat) (g : Gang) : State :=
  s.setPart p { s.part p with gangs := (s.part p).gangs.map (fun h => if h.num = g.num then g else h) }

def Gang.cores (g : Gang) : List Nat := rectCores g.x0 g.y0 g.lw g.lh

def State.progress (s : State) (p i : Nat) : State :=
  s.setPart p { s.part p with wdog := AMap.set (s.part p).wdog i s.cyc }

/-- QUIET (R94): every chunk that has been dealt outside the faulting gang is acknowledged, and none waits to be dealt again. -/
def State.quietUpdate (s : State) (p i : Nat) : State :=
  if s.tcbSt p i ≠ tFaulted then s
  else
    let bad := AMap.get? (s.part p).faulty i
    if AMap.getD (s.part p).redeal i [] = [] &&
        (AMap.getD (s.part p).lost i [] ++ (s.part p).gangs).all (fun g => g.tcb ≠ i || bad = some g.num || g.chunks.isEmpty) then
      s.setTcbF p i 10 32 1 1
    else s

/-- A chunk for a gang (R75): none while its CHCARD is held. -/
def State.deal (s : State) (n x : Nat) : Option (Word × State) :=
  match s.gangOf n with
  | none => some (0, s)
  | some (p, g) =>
    let i := g.tcb
    let q := s.part p
    let cur := s.cursor p i
    let empty : Option (Word × State) := some (BitVec.ofNat 64 cur, s.progress p i)
    if s.tcbSt p i = tFaulted then none
    else if (AMap.get? q.grace i).isSome then empty
    else if g.chunks.length ≥ 2 then none
    else match AMap.getD q.redeal i [] with
      | c :: rest =>
        let s1 := s.setPart p { q with redeal := if rest = [] then AMap.erase q.redeal i else AMap.set q.redeal i rest }
        some (BitVec.ofNat 64 (c.count * 2 ^ 32 + c.first),
          (s1.setGang p { g with chunks := g.chunks ++ [{ c with core := n, ctx := x }] }).progress p i)
      | [] =>
        let rem := s.recCount p i - cur
        if rem = 0 then empty
        else
          let k := 2 ^ s.tcbF p i 0 18 4
          let cnt := min rem (max (max 1 (s.tcbF p i 3 48 16)) ((rem + 2 * k - 1) / (2 * k)))
          some (BitVec.ofNat 64 (cnt * 2 ^ 32 + cur),
            ((s.setTcbF p i 4 0 32 (cur + cnt)).setGang p { g with chunks := g.chunks ++ [⟨cur, cnt, n, x⟩] }).progress p i)

/-- CHDONE (R76). -/
def State.ack (s : State) (n first : Nat) : Except (BitVec 8) State :=
  match s.gangOf n with
  | none => .error 0x71
  | some (p, g) =>
    match g.chunks.find? (fun c => c.first = first) with
    | none => .error 0x71
    | some c =>
      let i := g.tcb
      let a := s.acked p i + c.count
      let s1 := (s.setGang p { g with chunks := g.chunks.filter (fun d => d.first ≠ first) }).setTcbF p i 4 32 32 a
      let s2 := if a = s1.recCount p i ∧ s1.tcbSt p i = tRunning then s1.setTcbSt p i tDraining else s1
      .ok ((s2.quietUpdate p i).progress p i)

/-! ### The requests of one mesh cycle (R70, R77) -/

/-- A request's place in the order of R70 and R77. -/
def ChartReq.key (r : ChartReq) : Nat × Nat × Nat × Nat :=
  match r.op with
  | .patch _ _ _ => (0, 1, r.core, r.id)
  | .completed i _ _ _ => (1, 0, i, r.id)
  | .dec _ => (1, 1, r.core, r.id)
  | .arm _ => (2, 1, r.core, r.id)
  | .hostArm _ => (2, 2, 0, r.id)
  | .done _ => (3, 1, r.core, r.id)
  | .card => (4, 1, r.core, r.id)
  | .ckset _ _ => (5, 1, r.core, r.id)

def key4 (a b : Nat × Nat × Nat × Nat) : Bool :=
  decide (a.1 < b.1) || (a.1 = b.1 && (decide (a.2.1 < b.2.1) || (a.2.1 = b.2.1 &&
    (decide (a.2.2.1 < b.2.2.1) || (a.2.2.1 = b.2.2.1 && decide (a.2.2.2 < b.2.2.2))))))

/-- The answer reaches the context. -/
def State.answerReq (s : State) (r : ChartReq) (c : BitVec 8) (v : Word) : State :=
  let k := s.ctx r.core r.ctx
  s.setCtx r.core r.ctx { k with answer := some (c, v), block := k.block.filter (· ≠ r.id) }

/-- VF_ARMERR captures a refusal (R52). -/
def State.armRefused (s : State) (p i : Nat) (c : BitVec 8) : State :=
  let a := Pf.vf (p + 1) 0x08
  let n := min (s.regF a 32 32 + 1) 0xFFFFFFFF
  if (s.reg a).getLsbD 31 then s.setRegF a 32 32 n
  else (s.setReg a (BitVec.ofNat 64 (n * 2 ^ 32 + 2 ^ 31 + c.toNat * 2 ^ 16 + i % 8192))).msi (p + 1) 1

/-- A TCB is in PATCHING. -/
def State.isPatching (s : State) (p i : Nat) : Bool := (s.part p).patching.any (fun e => e.1 = i)

/-- Decrements of a completing task's successors: the state, the newly READY, and the successors that are held.  One whose TCB has no page
is reported and nothing more (R410). -/
def State.release1 (s : State) (p i : Nat) (new : List Newly) (id : Nat) (left : List Nat) : State × List Newly × List Nat :=
  left.foldl (fun acc j =>
    let (s0, new, held) := acc
    let s := s0.readTcb p j
    if s.isPatching p j then (s, new, held ++ [j])
    else match s.decrement p j with
      | .ok (true, t) => (t, new ++ [⟨0, i, id, j⟩], held)
      | .ok (false, t) => (t, new, held)
      | .error c => ((if c = 0x72 then s else s.underflow p), new, held)) (s, new, [])

/-- What has become of the requests: the state, the newly READY, and those held for the next mesh cycle. -/
structure Batch where
  s : State
  new : List Newly := []
  held : List ChartReq := []

/-- One request. -/
def Batch.apply (p : Nat) (b : Batch) (r : ChartReq) : Batch :=
  let s := b.s
  match r.op with
  | .patch i w v =>
    let s := s.readTcb p i
    match s.patch p i w v with
    | .ok t => { b with s := t.answerReq r 0 0 }
    | .error c => { b with s := s.answerReq r c 0 }
  | .completed i _ left rec =>
    let (t, new, held) := s.release1 p i b.new r.id left
    if held = [] then { b with s := t.queueRec p rec, new := new }
    else { s := t, new := new, held := b.held ++ [{ r with op := .completed i false held rec }] }
  | .dec i =>
    if s.isPatching p i then { b with held := b.held ++ [r] }
    else
      let s := s.readTcb p i
      match s.decrement p i with
      | .ok (rd, t) => { b with s := t.answerReq r 0 0, new := if rd then b.new ++ [⟨1, r.core, r.id, i⟩] else b.new }
      | .error c => { b with s := s.answerReq r c 0 }
  | .arm i =>
    if s.isPatching p i then { b with held := b.held ++ [r] }
    else match s.armCause p i with
      | some c => { b with s := (s.armReads p i).answerReq r c 0 }
      | none =>
        let t := (s.armReads p i).armTask p i
        { b with s := t.answerReq r 0 0, new := if t.tcbSt p i = tReady then b.new ++ [⟨1, r.core, r.id, i⟩] else b.new }
  | .hostArm i =>
    if s.isPatching p i then { b with held := b.held ++ [r] }
    else match s.armCause p i with
      | some c => { b with s := (s.armReads p i).armRefused p i c }
      | none =>
        let t := (s.armReads p i).armTask p i
        { b with s := t, new := if t.tcbSt p i = tReady then b.new ++ [⟨2, 0, r.id, i⟩] else b.new }
  | .done first =>
    match s.ack r.core first with
    | .ok t => { b with s := t.answerReq r 0 0 }
    | .error c => { b with s := s.answerReq r c 0 }
  | .card =>
    match s.deal r.core r.ctx with
    | some (v, t) => { b with s := t.answerReq r 0 v }
    | none => { b with held := b.held ++ [r] }
  | .ckset id v =>
    let there := s.cvyThere p id
    let s := s.readCvy p id
    let w := s.cvyWord p id 12
    let st := AMap.getD (s.part p).stage id (none, none)
    let st' := if (AMap.get? (s.part p).pause id).isSome then (st.1, some v) else (some v, st.2)
    let t := s.setPart p { s.part p with stage := AMap.set (s.part p).stage id st' }
    if there then { b with s := t.answerReq r 0 (BitVec.ofNat 64 (bitsOf w 32 32 * 2 ^ 32 + bitsOf w 0 32)) }
    else { b with s := s.answerReq r 0x72 0 }

/-- All requests that have reached a partition's Chartroom in a mesh cycle. -/
def State.chartCycle (s : State) (p : Nat) : State :=
  if (s.part p).reqs = [] ∧ (s.part p).patching = [] then s
  else
    let s1 := s.endPatching p
    let reqs := sortBy (fun a b => key4 a.key b.key) (s1.part p).reqs
    let b := reqs.foldl (Batch.apply p) { s := s1.setPart p { s1.part p with reqs := [] } }
    let t := b.s.seqAll p b.new
    t.setPart p { t.part p with reqs := b.held ++ (t.part p).reqs }

/-! ### A task's end (R74, R76, R83, R86) -/

/-- A task becomes DONE: the successors that its list names then are decremented, and its completion record follows (R74). -/
def State.taskDone (s : State) (p i : Nat) : State :=
  let s1 := (s.setTcbSt p i tDone).readTcbs p (s.chain p 17 i)
  let (id, s2) := s1.newId
  s2.setPart p { s2.part p with reqs := (s2.part p).reqs ++ [⟨id, 0, 0, .completed i true (s2.succs p 17 i) (s2.cmplOf p i tDone 0 0 0)⟩], wdog := AMap.erase (s2.part p).wdog i }

/-- A task becomes FAULTED through its gang number `num` (R92): only the first fault is recorded. -/
def State.taskFault (s : State) (p i num : Nat) (n x : Nat) (c : BitVec 8) (chunks : List Chunk) : State :=
  let st := s.tcbSt p i
  if st ≠ tRunning ∧ st ≠ tDraining then s
  else
    let (f, k) := match chunks with
      | ch :: _ => (ch.first, ch.count)
      | [] => (s.cursor p i, 0)
    let s1 := s.setTcbW p i 9 (BitVec.ofNat 64 (f * 2 ^ 32 + x * 2 ^ 24 + coreY n * 2 ^ 16 + coreX n * 2 ^ 8 + c.toNat))
    let s2 := (s1.setTcbW p i 10 (BitVec.ofNat 64 k)).setTcbSt p i tFaulted
    let s3 := s2.setPart p { s2.part p with faulty := AMap.set (s2.part p).faulty i num }
    ((s3.chrEvt p 1).quietUpdate p i).complete p i tFaulted c.toNat (coreX n) (coreY n)

/-- A root halt of a context of a gang makes its task FAULTED, but for debug halts and HALT (R92). -/
def State.taskHalted (s : State) (n x : Nat) (c : BitVec 8) : State :=
  if (0x90 ≤ c && c ≤ 0x96) || c = 0xA0 || c = 0xA1 then s
  else match s.gangOf n with
    | none => s
    | some (p, g) => s.taskFault p g.tcb g.num n x c g.chunks

/-- No core of a gang has a context: the control context is the last to leave, but for helpers that are still to be killed. -/
def State.gangEmpty (s : State) (g : Gang) : Bool :=
  g.cores.all (fun n => (List.range 11).all (fun x => (s.ctx n x).st = .free) && !(s.core n).moving)

/-- A gang enters DRAINING: a chunk that it still holds faults its task (R76), and the exit of a single launch's gang makes its
task DRAINING (R69). -/
def State.drainGang (s : State) (p : Nat) (g : Gang) : State :=
  let i := g.tcb
  let s1 := s.setGang p { g with draining := true }
  if g.leave ≠ .done then s1
  else match g.chunks with
    | c :: _ => s1.taskFault p i g.num c.core c.ctx 0x71 g.chunks
    | [] => if s1.recCount p i = 0 ∧ s1.tcbSt p i = tRunning then s1.setTcbSt p i tDraining else s1

/-- The last control context of a gang to leave starts the drain; a convoy's gangs drain together (R83, R86). -/
def State.gangCheck (s : State) (p : Nat) (g : Gang) : State :=
  if g.draining || !s.gangEmpty g then s
  else if g.convoy ≥ 1024 then s.drainGang p g
  else
    let mine := (s.part p).gangs.filter (fun h => h.convoy = g.convoy)
    if mine.all s.gangEmpty then mine.foldl (fun s h => s.drainGang p h) s else s

/-- HEXIT of the control context of core n. -/
def State.controlExit (s : State) (n : Nat) : State :=
  match s.gangOf n with
  | none => s
  | some (p, g) => (s.progress p g.tcb).gangCheck p g

end Sys2Proof.Machine
end

