-- ==== Sys2Proof/Machine/Forms.lean ====
section
/-! DEFINITION. The encoding tables of 12_encoding.md: where the fields of a word lie (R257, R263), in which
role each instruction uses them (R260, R265, R271 and the entries), and which cause a word sequence that is
not an instruction raises (R273). -/

namespace Sys2Proof

/-! ### Codes of operands, types and fields -/

/-- The operand a 7-bit field names; none for the reserved indexes (R259). -/
def Opnd.ofBits (x : BitVec 7) : Option Opnd :=
  let k := x.extractLsb' 5 2
  let n := x.extractLsb' 0 5
  if k = 0 then some (.g n)
  else if k = 1 then if n.toNat < 8 then some (.o (n.extractLsb' 0 3)) else none
  else if k = 2 then
    if n = 0 then some .lr
    else if n.extractLsb' 3 2 = 1#2 then some (.q (n.extractLsb' 0 3))
    else if n = 16 then some .zr
    else if n = 31 then some .lit
    else none
  else some (.imm n)

/-- The 7-bit field that names an operand (R259). -/
def Opnd.bits : Opnd → BitVec 7
  | .g n => 0#2 ++ n
  | .o n => 1#2 ++ (0#2 ++ n)
  | .lr => 2#2 ++ 0#5
  | .q n => 2#2 ++ (1#2 ++ n)
  | .zr => 2#2 ++ 16#5
  | .lit => 2#2 ++ 31#5
  | .imm v => 3#2 ++ v

/-- The operand of a field, zr standing in for a reserved index (which `Raw.cause` refuses). -/
def Opnd.ofBitsD (x : BitVec 7) : Opnd := (Opnd.ofBits x).getD .zr

/-- Bits [1:0] of the first word (R254). -/
def Len.bits : Len → BitVec 2
  | .w => 0 | .wl => 1 | .x => 2 | .xl => 3

def Len.ofBits (x : BitVec 2) : Len :=
  if x = 0 then .w else if x = 1 then .wl else if x = 2 then .x else .xl

/-- ILEN, the length in 32-bit words (R254). -/
def Len.words : Len → Nat
  | .w => 1 | .wl => 3 | .x => 3 | .xl => 5

/-- The form has an extension word. -/
def Len.ext : Len → Bool
  | .w => false | .wl => false | .x => true | .xl => true

/-- The form has a literal. -/
def Len.hasLit : Len → Bool
  | .w => false | .wl => true | .x => false | .xl => true

/-- The type codes of R266. -/
def ElTy.code : ElTy → BitVec 4
  | .i8 => 0 | .n8 => 1 | .i16 => 2 | .n16 => 3 | .i32 => 4 | .n32 => 5 | .i64 => 6 | .f64 => 7
  | .f32 => 8 | .bf16 => 9 | .f16 => 10 | .e4m3 => 11 | .e5m2 => 12 | .e2m1 => 13 | .d8 => 14 | .e8m0 => 15

def ElTy.ofCode (x : BitVec 4) : ElTy :=
  match x.toNat with
  | 0 => .i8 | 1 => .n8 | 2 => .i16 | 3 => .n16 | 4 => .i32 | 5 => .n32 | 6 => .i64 | 7 => .f64
  | 8 => .f32 | 9 => .bf16 | 10 => .f16 | 11 => .e4m3 | 12 => .e5m2 | 13 => .e2m1 | 14 => .d8 | _ => .e8m0

/-- The size codes of R267. -/
def Sz.code : Sz → BitVec 3
  | .i8 => 0 | .n8 => 1 | .i16 => 2 | .n16 => 3 | .i32 => 4 | .n32 => 5 | .i64 => 6

def Sz.ofCode (x : BitVec 3) : Sz :=
  match x.toNat with
  | 0 => .i8 | 1 => .n8 | 2 => .i16 | 3 => .n16 | 4 => .i32 | 5 => .n32 | _ => .i64

/-- The rounding field codes of R263. -/
def RndF.code : RndF → BitVec 3
  | .fpsr => 0 | .rne => 1 | .rtz => 2 | .rdn => 3 | .rup => 4 | .rna => 5 | .sr => 6

def RndF.ofCode (x : BitVec 3) : RndF :=
  match x.toNat with
  | 0 => .fpsr | 1 => .rne | 2 => .rtz | 3 => .rdn | 4 => .rup | 5 => .rna | _ => .sr

/-- The condition codes of R293. -/
def Cc.code : Cc → BitVec 3
  | .eq => 0 | .ne => 1 | .lt => 2 | .le => 3 | .ltn => 4 | .len => 5 | .tst => 6 | .ntst => 7

def Cc.ofCode (x : BitVec 3) : Cc :=
  match x.toNat with
  | 0 => .eq | 1 => .ne | 2 => .lt | 3 => .le | 4 => .ltn | 5 => .len | 6 => .tst | _ => .ntst

/-- The condition codes of R298; 6 and 7 are reserved. -/
def Fcc.code : Fcc → BitVec 3
  | .eq => 0 | .ne => 1 | .lt => 2 | .le => 3 | .unord => 4 | .ord => 5

def Fcc.ofCode? (x : BitVec 3) : Option Fcc :=
  match x.toNat with
  | 0 => some .eq | 1 => some .ne | 2 => some .lt | 3 => some .le | 4 => some .unord | 5 => some .ord | _ => none

/-- The scope numbers of R7. -/
def Scope.code : Scope → BitVec 4
  | .ctx => 0 | .core => 1 | .oct => 2 | .gang => 3 | .cvy => 4 | .die => 5 | .part => 6 | .dev => 7
  | .fab => 8 | .sys => 9

def Scope.ofCode (x : BitVec 4) : Scope :=
  match x.toNat with
  | 0 => .ctx | 1 => .core | 2 => .oct | 3 => .gang | 4 => .cvy | 5 => .die | 6 => .part | 7 => .dev
  | 8 => .fab | _ => .sys

/-- The ordering kinds of FENCE, in D[1:0] (R325). -/
def FenceKind.code : FenceKind → BitVec 7
  | .acq => 1 | .rel => 2 | .full => 3

def FenceKind.ofCode (x : BitVec 7) : FenceKind :=
  if x.extractLsb' 0 2 = 1#2 then .acq else if x.extractLsb' 0 2 = 2#2 then .rel else .full

/-- The system register numbers of R312. -/
def Sr.code : Sr → BitVec 7
  | .wsp => 0 | .slim => 1 | .tvec => 2 | .epc => 3 | .cause => 4 | .faddr => 5 | .fpsr => 6 | .seed => 7
  | .cyc => 8 | .gang => 9 | .tcbi => 10

def Sr.ofCode (x : BitVec 7) : Sr :=
  match x.toNat with
  | 0 => .wsp | 1 => .slim | 2 => .tvec | 3 => .epc | 4 => .cause | 5 => .faddr | 6 => .fpsr | 7 => .seed
  | 8 => .cyc | 9 => .gang | _ => .tcbi

/-! ### A word sequence by its parts -/

/-- The parts of one instruction (R254): bits [1:0], bits [7:2] and bits [31:8] of the first word, the extension
and the literal (zero where the form has none). -/
structure Raw where
  len : BitVec 2
  major : BitVec 6
  hi : BitVec 24
  ext : Word
  lit : Word
deriving DecidableEq, Repr

namespace Raw

/-! The fields of the first word (R257), counted in `hi`, whose bit 0 is bit 8 of the word. -/

def f (r : Raw) : BitVec 3 := r.hi.extractLsb' 21 3
def b (r : Raw) : BitVec 7 := r.hi.extractLsb' 14 7
def a (r : Raw) : BitVec 7 := r.hi.extractLsb' 7 7
def d (r : Raw) : BitVec 7 := r.hi.extractLsb' 0 7
def fn (r : Raw) : BitVec 10 := r.hi.extractLsb' 14 10
def imm10 (r : Raw) : BitVec 10 := r.hi.extractLsb' 14 10
def size (r : Raw) : BitVec 3 := r.hi.extractLsb' 14 3
def disp7 (r : Raw) : BitVec 7 := r.hi.extractLsb' 17 7
def disp3 (r : Raw) : BitVec 3 := r.hi.extractLsb' 17 3
def scope (r : Raw) : BitVec 4 := r.hi.extractLsb' 20 4
def off20 (r : Raw) : BitVec 20 := r.hi.extractLsb' 4 20
def sense (r : Raw) : BitVec 1 := r.hi.extractLsb' 3 1
def pred (r : Raw) : BitVec 3 := r.hi.extractLsb' 0 3
def off24 (r : Raw) : BitVec 24 := r.hi
def off17 (r : Raw) : BitVec 17 := r.hi.extractLsb' 7 17

/-! The fields of the extension word (R263). -/

def eImm (r : Raw) : BitVec 32 := r.ext.extractLsb' 32 32
def eMod (r : Raw) : BitVec 8 := r.ext.extractLsb' 24 8
def eC (r : Raw) : BitVec 7 := r.ext.extractLsb' 17 7
def eSat (r : Raw) : BitVec 1 := r.ext.extractLsb' 16 1
def eRnd (r : Raw) : BitVec 3 := r.ext.extractLsb' 13 3
def eZero (r : Raw) : BitVec 1 := r.ext.extractLsb' 12 1
def eMask (r : Raw) : BitVec 3 := r.ext.extractLsb' 9 3
def eTy (r : Raw) : BitVec 4 := r.ext.extractLsb' 5 4
def eGen (r : Raw) : BitVec 1 := r.ext.extractLsb' 4 1
def eGsense (r : Raw) : BitVec 1 := r.ext.extractLsb' 3 1
def eGpred (r : Raw) : BitVec 3 := r.ext.extractLsb' 0 3

/-- The form of the instruction. -/
def form (r : Raw) : Len := Len.ofBits r.len

/-- The first word. -/
def word (r : Raw) : BitVec 32 := r.hi ++ (r.major ++ r.len)

/-- FADDR of column E of R215: the first word, and bits [31:0] of the extension or 0. -/
def encFaddr (r : Raw) : Word := r.ext.extractLsb' 0 32 ++ r.word

end Raw

/-- One bit from a Bool. -/
def bit (b : Bool) : BitVec 1 := BitVec.ofBool b

/-- The extension word of an instruction (R263), zero in a form that has none. -/
def Mods.extBits (m : Mods) (c : BitVec 7) : Word :=
  m.imm32 ++ (m.mod ++ (c ++ (bit m.sat ++ (m.rnd.code ++ (bit m.zero ++ (m.mask ++
    (m.ty.code ++ (bit m.gen ++ (bit m.gsense ++ m.gpred)))))))))

/-- The fields that every instruction carries, read from its parts.  Without extension the type is the default of
the instruction's group (R266). -/
def Raw.mods (r : Raw) (dty : ElTy) : Mods :=
  { len := r.form, imm32 := r.eImm, mod := r.eMod, sat := r.eSat = 1#1, rnd := RndF.ofCode r.eRnd
    zero := r.eZero = 1#1, mask := r.eMask, ty := if r.form.ext then ElTy.ofCode r.eTy else dty
    gen := r.eGen = 1#1, gsense := r.eGsense = 1#1, gpred := r.eGpred, lit := r.lit }

/-! ### How an instruction uses the fields -/

/-- The role of a 7-bit operand field (R260, R262, R287, R320). -/
inductive Use
  | unused | src | dst | dsrcdst | base | ctr | pred | raw (k : Nat) | row | sr | queue | fkind
deriving DecidableEq, Repr

/-- The word formats (R257).  `rz` is format R with a size code in F; `sb` is the S format with a third operand, see
log entry 7. -/
inductive Fmt
  | r | rz | i | m | ma | s | sb | v | b | j | l
deriving DecidableEq, Repr

/-- What an entry says of its fields.  `tys` are the types it allows (empty: TYPE is not used), `dty` the type it
takes without extension (R266), `mod` the bits of the modifier byte that it uses (R269), `hasScope` that
MOD[31:28] is a scope (R268), `typed` which of A, B, C are read by the operation's type (R261). -/
structure Desc where
  fmt : Fmt
  d : Use
  a : Use
  b : Use
  c : Use
  tys : List ElTy
  dty : ElTy
  mod : BitVec 8
  xOnly : Bool
  sat : Bool
  rnd : Bool
  zero : Bool
  mask : Bool
  imm : Bool
  hasScope : Bool
  typed : Bool × Bool × Bool
deriving DecidableEq, Repr

namespace ElTy

def ints : List ElTy := [.i8, .n8, .i16, .n16, .i32, .n32, .i64]
def fps : List ElTy := [.f32, .f64]
def all : List ElTy :=
  [.i8, .n8, .i16, .n16, .i32, .n32, .i64, .f64, .f32, .bf16, .f16, .e4m3, .e5m2, .e2m1, .d8, .e8m0]
def amo : List ElTy := [.i32, .n32, .i64]
def amoF : List ElTy := [.i32, .n32, .i64, .f32]
/-- The vector types: all but i64 and f64 (R116). -/
def vall : List ElTy :=
  [.i8, .n8, .i16, .n16, .i32, .n32, .f32, .bf16, .f16, .e4m3, .e5m2, .e2m1, .d8, .e8m0]
def vints : List ElTy := [.i8, .n8, .i16, .n16, .i32, .n32]
def vfps : List ElTy := [.f32, .bf16, .f16]
def varith : List ElTy := vints ++ vfps
/-- The strided forms refuse e2m1 and d8 (R364). -/
def vbytes : List ElTy := [.i8, .n8, .i16, .n16, .i32, .n32, .f32, .bf16, .f16, .e4m3, .e5m2, .e8m0]
/-- VPERM: the 8-, 16- and 32-bit types but d8 (R360). -/
def vperm : List ElTy := vbytes
/-- VGATH and VSCAT: 16- and 32-bit types (R365). -/
def v1632 : List ElTy := [.i16, .n16, .i32, .n32, .f32, .bf16, .f16]
def f32i32 : List ElTy := [.f32, .i32]
/-- The input formats of MMA and MMAG (R372). -/
def mx : List ElTy := [.bf16, .f16, .e4m3, .e5m2, .i8, .n8, .e2m1, .d8, .f32]
/-- The input formats of MMAP (R372). -/
def mxp : List ElTy := [.bf16, .f16, .e4m3, .e5m2, .e2m1, .d8, .f32]

/-- An integer type (R232). -/
def isInt (t : ElTy) : Bool := t.code.toNat < 7

/-- The width of an element in bits (R116, R339). -/
def bits : ElTy → Nat
  | .i8 | .n8 | .e4m3 | .e5m2 | .d8 | .e8m0 => 8
  | .i16 | .n16 | .bf16 | .f16 => 16
  | .i32 | .n32 | .f32 => 32
  | .i64 | .f64 => 64
  | .e2m1 => 4

end ElTy

/-! ### The opcode map (R271) and the entries' use of the fields -/

/-- The entry's use of its fields; for an event row, which has no encoding, nothing. -/
def Instr.desc? (i : Instr) : Option Desc :=
  match i with
  | .add _ _ _ _ =>
    some ⟨.r, .dst, .src, .src, .unused, ElTy.ints, .i64, 0, false, false, false, false, false, false, false, (false, false, false)⟩
  | .sub _ _ _ _ =>
    some ⟨.r, .dst, .src, .src, .unused, ElTy.ints, .i64, 0, false, false, false, false, false, false, false, (false, false, false)⟩
  | .and _ _ _ _ =>
    some ⟨.r, .dst, .src, .src, .unused, ElTy.ints, .i64, 0, false, false, false, false, false, false, false, (false, false, false)⟩
  | .or _ _ _ _ =>
    some ⟨.r, .dst, .src, .src, .unused, ElTy.ints, .i64, 0, false, false, false, false, false, false, false, (false, false, false)⟩
  | .xor _ _ _ _ =>
    some ⟨.r, .dst, .src, .src, .unused, ElTy.ints, .i64, 0, false, false, false, false, false, false, false, (false, false, false)⟩
  | .andn _ _ _ _ =>
    some ⟨.r, .dst, .src, .src, .unused, ElTy.ints, .i64, 0, false, false, false, false, false, false, false, (false, false, false)⟩
  | .shl _ _ _ _ =>
    some ⟨.r, .dst, .src, .src, .unused, ElTy.ints, .i64, 0, false, false, false, false, false, false, false, (false, false, false)⟩
  | .shr _ _ _ _ =>
    some ⟨.r, .dst, .src, .src, .unused, ElTy.ints, .i64, 0, false, false, false, false, false, false, false, (false, false, false)⟩
  | .sar _ _ _ _ =>
    some ⟨.r, .dst, .src, .src, .unused, ElTy.ints, .i64, 0, false, false, false, false, false, false, false, (false, false, false)⟩
  | .ror _ _ _ _ =>
    some ⟨.r, .dst, .src, .src, .unused, ElTy.ints, .i64, 0, false, false, false, false, false, false, false, (false, false, false)⟩
  | .min _ _ _ _ =>
    some ⟨.r, .dst, .src, .src, .unused, ElTy.ints, .i64, 1, false, false, false, false, false, false, false, (false, false, false)⟩
  | .max _ _ _ _ =>
    some ⟨.r, .dst, .src, .src, .unused, ElTy.ints, .i64, 1, false, false, false, false, false, false, false, (false, false, false)⟩
  | .mul _ _ _ _ =>
    some ⟨.r, .dst, .src, .src, .unused, ElTy.ints, .i64, 0, false, false, false, false, false, false, false, (false, false, false)⟩
  | .mulh _ _ _ _ =>
    some ⟨.r, .dst, .src, .src, .unused, ElTy.ints, .i64, 1, false, false, false, false, false, false, false, (false, false, false)⟩
  | .div _ _ _ _ =>
    some ⟨.r, .dst, .src, .src, .unused, ElTy.ints, .i64, 1, false, false, false, false, false, false, false, (false, false, false)⟩
  | .rem _ _ _ _ =>
    some ⟨.r, .dst, .src, .src, .unused, ElTy.ints, .i64, 1, false, false, false, false, false, false, false, (false, false, false)⟩
  | .clz _ _ _ =>
    some ⟨.r, .dst, .src, .unused, .unused, ElTy.ints, .i64, 0, false, false, false, false, false, false, false, (false, false, false)⟩
  | .ctz _ _ _ =>
    some ⟨.r, .dst, .src, .unused, .unused, ElTy.ints, .i64, 0, false, false, false, false, false, false, false, (false, false, false)⟩
  | .popc _ _ _ =>
    some ⟨.r, .dst, .src, .unused, .unused, ElTy.ints, .i64, 0, false, false, false, false, false, false, false, (false, false, false)⟩
  | .brev _ _ _ =>
    some ⟨.r, .dst, .src, .unused, .unused, ElTy.ints, .i64, 0, false, false, false, false, false, false, false, (false, false, false)⟩
  | .ext _ _ _ _ =>
    some ⟨.r, .dst, .src, .src, .unused, [.i64], .i64, 0, false, false, false, false, false, false, false, (false, false, false)⟩
  | .ins _ _ _ _ =>
    some ⟨.r, .dsrcdst, .src, .src, .unused, [.i64], .i64, 0, false, false, false, false, false, false, false, (false, false, false)⟩
  | .lea _ _ _ _ =>
    some ⟨.r, .dst, .src, .src, .unused, ElTy.ints, .i64, 0, false, false, false, false, false, true, false, (false, false, false)⟩
  | .mov _ _ _ =>
    some ⟨.r, .dst, .src, .unused, .unused, ElTy.ints, .i64, 0, false, false, false, false, false, false, false, (false, false, false)⟩
  | .addi _ _ _ _ =>
    some ⟨.i, .dst, .src, .unused, .unused, ElTy.ints, .i64, 0, false, false, false, false, false, true, false, (false, false, false)⟩
  | .cmpp _ _ _ _ _ =>
    some ⟨.r, .pred, .src, .src, .unused, ElTy.ints, .i64, 0, false, false, false, false, false, false, false, (false, false, false)⟩
  | .setc _ _ _ _ _ =>
    some ⟨.r, .dst, .src, .src, .unused, ElTy.ints, .i64, 0, false, false, false, false, false, false, false, (false, false, false)⟩
  | .sel _ _ _ _ _ =>
    some ⟨.r, .dst, .src, .src, .unused, ElTy.ints, .i64, 0, false, false, false, false, false, false, false, (false, false, false)⟩
  | .fadd _ _ _ _ =>
    some ⟨.r, .dst, .src, .src, .unused, ElTy.fps, .f32, 0, false, true, true, false, false, false, false, (true, true, true)⟩
  | .fsub _ _ _ _ =>
    some ⟨.r, .dst, .src, .src, .unused, ElTy.fps, .f32, 0, false, true, true, false, false, false, false, (true, true, true)⟩
  | .fmul _ _ _ _ =>
    some ⟨.r, .dst, .src, .src, .unused, ElTy.fps, .f32, 0, false, true, true, false, false, false, false, (true, true, true)⟩
  | .fmulz _ _ _ _ =>
    some ⟨.r, .dst, .src, .src, .unused, ElTy.fps, .f32, 0, false, true, true, false, false, false, false, (true, true, true)⟩
  | .fdiv _ _ _ _ =>
    some ⟨.r, .dst, .src, .src, .unused, ElTy.fps, .f32, 0, false, true, true, false, false, false, false, (true, true, true)⟩
  | .fmin _ _ _ _ =>
    some ⟨.r, .dst, .src, .src, .unused, ElTy.fps, .f32, 0, false, false, false, false, false, false, false, (true, true, true)⟩
  | .fmax _ _ _ _ =>
    some ⟨.r, .dst, .src, .src, .unused, ElTy.fps, .f32, 0, false, false, false, false, false, false, false, (true, true, true)⟩
  | .fma _ _ _ _ _ =>
    some ⟨.r, .dst, .src, .src, .src, ElTy.fps, .f32, 0, true, true, true, false, false, false, false, (true, true, true)⟩
  | .fsqrt _ _ _ =>
    some ⟨.r, .dst, .src, .unused, .unused, ElTy.fps, .f32, 0, false, true, true, false, false, false, false, (true, true, true)⟩
  | .fneg _ _ _ =>
    some ⟨.r, .dst, .src, .unused, .unused, ElTy.fps, .f32, 0, false, false, false, false, false, false, false, (true, true, true)⟩
  | .fabs _ _ _ =>
    some ⟨.r, .dst, .src, .unused, .unused, ElTy.fps, .f32, 0, false, false, false, false, false, false, false, (true, true, true)⟩
  | .fclass _ _ _ =>
    some ⟨.r, .dst, .src, .unused, .unused, ElTy.fps, .f32, 0, false, false, false, false, false, false, false, (true, true, true)⟩
  | .fcvt _ _ _ =>
    some ⟨.r, .dst, .src, .unused, .unused, ElTy.all, .f32, 15, true, true, true, false, false, false, false, (true, true, true)⟩
  | .fcmpp _ _ _ _ _ =>
    some ⟨.r, .pred, .src, .src, .unused, ElTy.fps, .f32, 0, false, false, false, false, false, false, false, (true, true, true)⟩
  | .pand _ _ _ _ =>
    some ⟨.r, .pred, .pred, .pred, .unused, [], .i8, 0, false, false, false, false, false, false, false, (false, false, false)⟩
  | .por _ _ _ _ =>
    some ⟨.r, .pred, .pred, .pred, .unused, [], .i8, 0, false, false, false, false, false, false, false, (false, false, false)⟩
  | .pxor _ _ _ _ =>
    some ⟨.r, .pred, .pred, .pred, .unused, [], .i8, 0, false, false, false, false, false, false, false, (false, false, false)⟩
  | .pnot _ _ _ =>
    some ⟨.r, .pred, .pred, .unused, .unused, [], .i8, 0, false, false, false, false, false, false, false, (false, false, false)⟩
  | .ppack _ _ =>
    some ⟨.r, .dst, .unused, .unused, .unused, [], .i8, 0, false, false, false, false, false, false, false, (false, false, false)⟩
  | .punpk _ _ =>
    some ⟨.r, .unused, .src, .unused, .unused, [], .i8, 0, false, false, false, false, false, false, false, (false, false, false)⟩
  | .br _ _ _ _ =>
    some ⟨.b, .unused, .unused, .unused, .unused, [], .i8, 0, false, false, false, false, false, false, false, (false, false, false)⟩
  | .jmp _ _ =>
    some ⟨.j, .unused, .unused, .unused, .unused, [], .i8, 0, false, false, false, false, false, false, false, (false, false, false)⟩
  | .call _ _ =>
    some ⟨.j, .unused, .unused, .unused, .unused, [], .i8, 0, false, false, false, false, false, false, false, (false, false, false)⟩
  | .jmpr _ _ =>
    some ⟨.s, .unused, .src, .unused, .unused, [], .i8, 0, false, false, false, false, false, false, false, (false, false, false)⟩
  | .callr _ _ =>
    some ⟨.s, .unused, .src, .unused, .unused, [], .i8, 0, false, false, false, false, false, false, false, (false, false, false)⟩
  | .ret _ =>
    some ⟨.s, .unused, .unused, .unused, .unused, [], .i8, 0, false, false, false, false, false, false, false, (false, false, false)⟩
  | .enter _ _ =>
    some ⟨.s, .raw 7, .unused, .unused, .unused, [], .i8, 0, false, false, false, false, false, true, false, (false, false, false)⟩
  | .leave _ =>
    some ⟨.s, .unused, .unused, .unused, .unused, [], .i8, 0, false, false, false, false, false, false, false, (false, false, false)⟩
  | .nop _ =>
    some ⟨.s, .unused, .unused, .unused, .unused, [], .i8, 0, false, false, false, false, false, false, false, (false, false, false)⟩
  | .halt _ =>
    some ⟨.s, .unused, .unused, .unused, .unused, [], .i8, 0, false, false, false, false, false, false, false, (false, false, false)⟩
  | .trap _ _ =>
    some ⟨.s, .raw 4, .unused, .unused, .unused, [], .i8, 0, false, false, false, false, false, false, false, (false, false, false)⟩
  | .sysc _ _ _ _ =>
    some ⟨.sb, .dst, .src, .src, .unused, [], .i8, 0, false, false, false, false, false, false, false, (false, false, false)⟩
  | .eret _ =>
    some ⟨.s, .unused, .unused, .unused, .unused, [], .i8, 0, false, false, false, false, false, false, false, (false, false, false)⟩
  | .loop _ _ _ =>
    some ⟨.l, .ctr, .unused, .unused, .unused, [], .i8, 0, false, false, false, false, false, false, false, (false, false, false)⟩
  | .hstart _ _ _ _ =>
    some ⟨.sb, .dst, .src, .src, .unused, [], .i8, 0, false, false, false, false, false, false, false, (false, false, false)⟩
  | .hjoin _ _ _ =>
    some ⟨.s, .dst, .src, .unused, .unused, [], .i8, 0, false, false, false, false, false, false, false, (false, false, false)⟩
  | .hexit _ =>
    some ⟨.s, .unused, .unused, .unused, .unused, [], .i8, 0, false, false, false, false, false, false, false, (false, false, false)⟩
  | .cid _ _ =>
    some ⟨.s, .dst, .unused, .unused, .unused, [], .i8, 0, false, false, false, false, false, false, false, (false, false, false)⟩
  | .mcrd _ _ _ =>
    some ⟨.s, .dst, .src, .unused, .unused, [], .i8, 0, false, false, false, false, false, false, false, (false, false, false)⟩
  | .yield _ _ =>
    some ⟨.s, .unused, .src, .unused, .unused, [], .i8, 0, false, false, false, false, false, false, false, (false, false, false)⟩
  | .srd _ _ _ =>
    some ⟨.s, .dst, .sr, .unused, .unused, [], .i8, 0, false, false, false, false, false, false, false, (false, false, false)⟩
  | .swr _ _ _ =>
    some ⟨.s, .sr, .src, .unused, .unused, [], .i8, 0, false, false, false, false, false, false, false, (false, false, false)⟩
  | .wspx _ _ _ =>
    some ⟨.s, .dst, .src, .unused, .unused, [], .i8, 0, false, false, false, false, false, false, false, (false, false, false)⟩
  | .qstat _ _ _ =>
    some ⟨.s, .dst, .queue, .unused, .unused, [], .i8, 0, false, false, false, false, false, false, false, (false, false, false)⟩
  | .qflush _ _ =>
    some ⟨.s, .unused, .queue, .unused, .unused, [], .i8, 0, false, false, false, false, false, false, false, (false, false, false)⟩
  | .tlbi _ _ =>
    some ⟨.s, .unused, .src, .unused, .unused, [], .i8, 0, false, false, false, false, false, false, false, (false, false, false)⟩
  | .bkpt _ =>
    some ⟨.s, .unused, .unused, .unused, .unused, [], .i8, 0, false, false, false, false, false, false, false, (false, false, false)⟩
  | .prog _ _ =>
    some ⟨.s, .unused, .src, .unused, .unused, [], .i8, 0, false, false, false, false, false, false, false, (false, false, false)⟩
  | .trace _ _ =>
    some ⟨.s, .unused, .src, .unused, .unused, [], .i8, 0, false, false, false, false, false, false, false, (false, false, false)⟩
  | .ckset _ _ _ =>
    some ⟨.s, .dst, .src, .unused, .unused, [], .i8, 0, false, false, false, false, false, false, false, (false, false, false)⟩
  | .ld _ _ _ _ _ =>
    some ⟨.m, .dst, .base, .unused, .unused, [], .i8, 0, false, false, false, false, false, true, false, (false, false, false)⟩
  | .st _ _ _ _ _ =>
    some ⟨.m, .src, .base, .unused, .unused, [], .i8, 0, false, false, false, false, false, true, false, (false, false, false)⟩
  | .ldx _ _ _ _ _ =>
    some ⟨.rz, .dst, .base, .src, .unused, [], .i8, 0, false, false, false, false, false, false, false, (false, false, false)⟩
  | .stx _ _ _ _ _ =>
    some ⟨.rz, .src, .base, .src, .unused, [], .i8, 0, false, false, false, false, false, false, false, (false, false, false)⟩
  | .lda _ _ _ _ _ _ =>
    some ⟨.ma, .dst, .base, .unused, .unused, [], .i8, 0, false, false, false, false, false, true, false, (false, false, false)⟩
  | .stl _ _ _ _ _ _ =>
    some ⟨.ma, .src, .base, .unused, .unused, [], .i8, 0, false, false, false, false, false, true, false, (false, false, false)⟩
  | .pref _ _ _ =>
    some ⟨.s, .unused, .src, .unused, .src, [], .i8, 4, false, false, false, false, false, false, false, (false, false, false)⟩
  | .cwb _ _ _ =>
    some ⟨.s, .unused, .src, .unused, .src, [], .i8, 0, false, false, false, false, false, false, false, (false, false, false)⟩
  | .cinv _ _ _ =>
    some ⟨.s, .unused, .src, .unused, .src, [], .i8, 0, false, false, false, false, false, false, false, (false, false, false)⟩
  | .cdisc _ _ _ =>
    some ⟨.s, .unused, .src, .unused, .src, [], .i8, 0, false, false, false, false, false, false, false, (false, false, false)⟩
  | .czero _ _ _ =>
    some ⟨.s, .unused, .src, .unused, .src, [], .i8, 0, false, false, false, false, false, false, false, (false, false, false)⟩
  | .ifence _ =>
    some ⟨.s, .unused, .unused, .unused, .unused, [], .i8, 0, false, false, false, false, false, false, false, (false, false, false)⟩
  | .fence _ _ =>
    some ⟨.s, .fkind, .unused, .unused, .unused, [], .i8, 240, false, false, false, false, false, false, true, (false, false, false)⟩
  | .waita _ _ _ _ _ _ =>
    some ⟨.rz, .dst, .src, .src, .src, [], .i8, 240, false, false, false, false, false, false, true, (false, false, false)⟩
  | .aadd _ _ _ _ =>
    some ⟨.r, .dst, .src, .src, .unused, ElTy.amo, .i64, 0, false, false, false, false, false, false, false, (false, false, false)⟩
  | .aand _ _ _ _ =>
    some ⟨.r, .dst, .src, .src, .unused, ElTy.amo, .i64, 0, false, false, false, false, false, false, false, (false, false, false)⟩
  | .aor _ _ _ _ =>
    some ⟨.r, .dst, .src, .src, .unused, ElTy.amo, .i64, 0, false, false, false, false, false, false, false, (false, false, false)⟩
  | .axor _ _ _ _ =>
    some ⟨.r, .dst, .src, .src, .unused, ElTy.amo, .i64, 0, false, false, false, false, false, false, false, (false, false, false)⟩
  | .amin _ _ _ _ =>
    some ⟨.r, .dst, .src, .src, .unused, ElTy.amoF, .i64, 0, false, false, false, false, false, false, false, (false, true, false)⟩
  | .amax _ _ _ _ =>
    some ⟨.r, .dst, .src, .src, .unused, ElTy.amoF, .i64, 0, false, false, false, false, false, false, false, (false, true, false)⟩
  | .aswp _ _ _ _ =>
    some ⟨.r, .dst, .src, .src, .unused, ElTy.amo, .i64, 0, false, false, false, false, false, false, false, (false, false, false)⟩
  | .afadd _ _ _ _ =>
    some ⟨.r, .dst, .src, .src, .unused, [.f32], .i64, 0, false, false, false, false, false, false, false, (false, true, false)⟩
  | .acas _ _ _ _ _ =>
    some ⟨.r, .dst, .src, .src, .src, ElTy.amo, .i64, 0, true, false, false, false, false, false, false, (false, false, false)⟩
  | .binit _ _ _ =>
    some ⟨.s, .src, .raw 7, .unused, .unused, [], .i8, 0, false, false, false, false, false, false, false, (false, false, false)⟩
  | .barr _ _ =>
    some ⟨.s, .unused, .raw 7, .unused, .unused, [], .i8, 0, false, false, false, false, false, false, false, (false, false, false)⟩
  | .bwait _ _ _ _ =>
    some ⟨.s, .dst, .raw 7, .unused, .src, [], .i8, 0, false, false, false, false, false, false, false, (false, false, false)⟩
  | .barw _ _ _ _ =>
    some ⟨.s, .dst, .raw 7, .unused, .src, [], .i8, 0, false, false, false, false, false, false, false, (false, false, false)⟩
  | .bstat _ _ _ =>
    some ⟨.s, .dst, .raw 7, .unused, .unused, [], .i8, 0, false, false, false, false, false, false, false, (false, false, false)⟩
  | .roseb _ _ _ =>
    some ⟨.s, .raw 4, .src, .unused, .unused, [], .i8, 0, false, false, false, false, false, false, false, (false, false, false)⟩
  | .roseq _ _ _ =>
    some ⟨.s, .dst, .raw 4, .unused, .unused, [], .i8, 0, false, false, false, false, false, false, false, (false, false, false)⟩
  | .rosex _ _ =>
    some ⟨.s, .raw 4, .unused, .unused, .unused, [], .i8, 0, false, false, false, false, false, false, false, (false, false, false)⟩
  | .msend _ _ _ =>
    some ⟨.s, .unused, .src, .unused, .src, [], .i8, 0, true, false, false, false, false, false, false, (false, false, false)⟩
  | .msendr _ _ _ _ =>
    some ⟨.s, .src, .src, .unused, .src, [], .i8, 0, false, false, false, false, false, false, false, (false, false, false)⟩
  | .mrecv _ _ _ _ =>
    some ⟨.s, .dst, .src, .unused, .src, [], .i8, 0, false, false, false, false, false, false, false, (false, false, false)⟩
  | .mrecvr _ _ _ _ =>
    some ⟨.s, .dst, .src, .unused, .src, [], .i8, 0, false, false, false, false, false, false, false, (false, false, false)⟩
  | .mbind _ _ =>
    some ⟨.s, .unused, .src, .unused, .unused, [], .i8, 0, false, false, false, false, false, false, false, (false, false, false)⟩
  | .mstat _ _ _ =>
    some ⟨.s, .dst, .src, .unused, .unused, [], .i8, 0, false, false, false, false, false, false, false, (false, false, false)⟩
  | .ttgo _ _ =>
    some ⟨.s, .unused, .src, .unused, .unused, [], .i8, 0, false, false, false, false, false, false, false, (false, false, false)⟩
  | .ttsend _ _ _ =>
    some ⟨.s, .src, .src, .unused, .unused, [], .i8, 7, false, false, false, false, false, false, false, (false, false, false)⟩
  | .ttrecv _ _ _ =>
    some ⟨.s, .dst, .src, .unused, .unused, [], .i8, 7, false, false, false, false, false, false, false, (false, false, false)⟩
  | .ttend _ =>
    some ⟨.s, .unused, .unused, .unused, .unused, [], .i8, 0, false, false, false, false, false, false, false, (false, false, false)⟩
  | .ttq _ _ =>
    some ⟨.s, .dst, .unused, .unused, .unused, [], .i8, 0, false, false, false, false, false, false, false, (false, false, false)⟩
  | .fxdef _ _ _ =>
    some ⟨.s, .dst, .src, .unused, .unused, [], .i8, 0, false, false, false, false, false, false, false, (false, false, false)⟩
  | .fxjoin _ _ =>
    some ⟨.s, .unused, .src, .unused, .unused, [], .i8, 0, false, false, false, false, false, false, false, (false, false, false)⟩
  | .fxc _ _ _ _ =>
    some ⟨.s, .src, .src, .unused, .src, [], .i8, 0, true, false, false, false, false, false, false, (false, false, false)⟩
  | .fxw _ _ _ _ =>
    some ⟨.s, .dst, .src, .unused, .src, [], .i8, 2, false, false, false, false, false, true, false, (false, false, false)⟩
  | .fxq _ _ _ =>
    some ⟨.s, .dst, .src, .unused, .unused, [], .i8, 0, false, false, false, false, false, false, false, (false, false, false)⟩
  | .fxlv _ _ =>
    some ⟨.s, .unused, .src, .unused, .unused, [], .i8, 0, false, false, false, false, false, false, false, (false, false, false)⟩
  | .xtpl _ _ _ =>
    some ⟨.s, .raw 6, .src, .unused, .unused, [], .i8, 0, false, false, false, false, false, false, false, (false, false, false)⟩
  | .xst _ _ _ =>
    some ⟨.s, .raw 3, .src, .unused, .unused, [], .i8, 0, false, false, false, false, false, false, false, (false, false, false)⟩
  | .xcan _ _ =>
    some ⟨.s, .raw 3, .unused, .unused, .unused, [], .i8, 0, false, false, false, false, false, false, false, (false, false, false)⟩
  | .xstat _ _ _ =>
    some ⟨.s, .dst, .raw 3, .unused, .unused, [], .i8, 0, false, false, false, false, false, false, false, (false, false, false)⟩
  | .charm _ _ =>
    some ⟨.s, .unused, .src, .unused, .unused, [], .i8, 0, false, false, false, false, false, false, false, (false, false, false)⟩
  | .chdec _ _ =>
    some ⟨.s, .unused, .src, .unused, .unused, [], .i8, 0, false, false, false, false, false, false, false, (false, false, false)⟩
  | .chpatch _ _ _ =>
    some ⟨.s, .src, .src, .unused, .unused, [], .i8, 0, false, false, false, false, false, false, false, (false, false, false)⟩
  | .chcard _ _ =>
    some ⟨.s, .dst, .unused, .unused, .unused, [], .i8, 0, false, false, false, false, false, false, false, (false, false, false)⟩
  | .chdone _ _ =>
    some ⟨.s, .unused, .src, .unused, .unused, [], .i8, 0, false, false, false, false, false, false, false, (false, false, false)⟩
  | .chq _ _ _ =>
    some ⟨.s, .dst, .src, .unused, .unused, [], .i8, 0, false, false, false, false, false, false, false, (false, false, false)⟩
  | .vadd _ _ _ _ =>
    some ⟨.v, .row, .row, .row, .unused, ElTy.varith, .i8, 0, true, true, true, true, true, false, false, (false, false, false)⟩
  | .vsub _ _ _ _ =>
    some ⟨.v, .row, .row, .row, .unused, ElTy.varith, .i8, 0, true, true, true, true, true, false, false, (false, false, false)⟩
  | .vmul _ _ _ _ =>
    some ⟨.v, .row, .row, .row, .unused, ElTy.varith, .i8, 0, true, true, true, true, true, false, false, (false, false, false)⟩
  | .vmulz _ _ _ _ =>
    some ⟨.v, .row, .row, .row, .unused, ElTy.vfps, .i8, 0, true, true, true, true, true, false, false, (false, false, false)⟩
  | .vfma _ _ _ _ _ =>
    some ⟨.v, .row, .row, .row, .row, ElTy.vfps, .i8, 0, true, true, true, true, true, false, false, (false, false, false)⟩
  | .vmin _ _ _ _ =>
    some ⟨.v, .row, .row, .row, .unused, ElTy.varith, .i8, 1, true, true, true, true, true, false, false, (false, false, false)⟩
  | .vmax _ _ _ _ =>
    some ⟨.v, .row, .row, .row, .unused, ElTy.varith, .i8, 1, true, true, true, true, true, false, false, (false, false, false)⟩
  | .vsacc _ _ _ _ _ =>
    some ⟨.v, .row, .row, .row, .src, ElTy.f32i32, .i8, 0, true, false, true, true, true, false, false, (false, false, false)⟩
  | .vand _ _ _ _ =>
    some ⟨.v, .row, .row, .row, .unused, ElTy.vints, .i8, 0, true, false, false, true, true, false, false, (false, false, false)⟩
  | .vor _ _ _ _ =>
    some ⟨.v, .row, .row, .row, .unused, ElTy.vints, .i8, 0, true, false, false, true, true, false, false, (false, false, false)⟩
  | .vxor _ _ _ _ =>
    some ⟨.v, .row, .row, .row, .unused, ElTy.vints, .i8, 0, true, false, false, true, true, false, false, (false, false, false)⟩
  | .vshl _ _ _ _ =>
    some ⟨.v, .row, .row, .row, .unused, ElTy.vints, .i8, 0, true, true, false, true, true, false, false, (false, false, false)⟩
  | .vshr _ _ _ _ =>
    some ⟨.v, .row, .row, .row, .unused, ElTy.vints, .i8, 0, true, false, false, true, true, false, false, (false, false, false)⟩
  | .vsar _ _ _ _ =>
    some ⟨.v, .row, .row, .row, .unused, ElTy.vints, .i8, 0, true, false, false, true, true, false, false, (false, false, false)⟩
  | .vabs _ _ _ =>
    some ⟨.v, .row, .row, .unused, .unused, ElTy.varith, .i8, 0, true, true, false, true, true, false, false, (false, false, false)⟩
  | .vneg _ _ _ =>
    some ⟨.v, .row, .row, .unused, .unused, ElTy.varith, .i8, 0, true, true, false, true, true, false, false, (false, false, false)⟩
  | .vcmp _ _ _ _ =>
    some ⟨.v, .row, .row, .row, .unused, ElTy.varith, .i8, 7, true, false, false, true, true, false, false, (false, false, false)⟩
  | .vsel _ _ _ _ =>
    some ⟨.v, .row, .row, .row, .unused, ElTy.vall, .i8, 0, true, false, false, false, true, false, false, (false, false, false)⟩
  | .vcvt _ _ _ =>
    some ⟨.v, .row, .row, .unused, .unused, ElTy.vall, .i8, 255, true, true, true, true, true, false, false, (false, false, false)⟩
  | .vmov _ _ _ =>
    some ⟨.v, .row, .row, .unused, .unused, ElTy.vall, .i8, 0, true, false, false, true, true, false, false, (false, false, false)⟩
  | .viota _ _ _ =>
    some ⟨.v, .row, .unused, .unused, .src, ElTy.vints, .i8, 0, true, false, false, true, true, false, false, (false, false, false)⟩
  | .vbcast _ _ _ =>
    some ⟨.v, .row, .unused, .unused, .src, ElTy.vall, .i8, 0, true, false, false, true, true, false, false, (false, false, false)⟩
  | .vextr _ _ _ _ =>
    some ⟨.v, .dst, .row, .unused, .src, ElTy.vall, .i8, 0, true, false, false, false, false, false, false, (false, false, false)⟩
  | .vins _ _ _ _ =>
    some ⟨.v, .row, .src, .unused, .src, ElTy.vall, .i8, 0, true, false, false, false, false, false, false, (false, false, false)⟩
  | .vred _ _ _ =>
    some ⟨.v, .row, .row, .unused, .unused, ElTy.varith, .i8, 6, true, true, true, true, true, false, false, (false, false, false)⟩
  | .vscan _ _ _ =>
    some ⟨.v, .row, .row, .unused, .unused, ElTy.varith, .i8, 6, true, true, true, true, true, false, false, (false, false, false)⟩
  | .vperm _ _ _ _ =>
    some ⟨.v, .row, .row, .row, .unused, ElTy.vperm, .i8, 0, true, false, false, true, true, false, false, (false, false, false)⟩
  | .vsf _ _ _ =>
    some ⟨.v, .row, .row, .unused, .unused, ElTy.vfps, .i8, 7, true, false, false, true, true, false, false, (false, false, false)⟩
  | .vmk _ _ _ _ =>
    some ⟨.v, .row, .row, .row, .unused, [], .i8, 3, true, false, false, false, false, false, false, (false, false, false)⟩
  | .vmpop _ _ _ =>
    some ⟨.v, .dst, .row, .unused, .unused, [], .i8, 0, true, false, false, false, false, false, false, (false, false, false)⟩
  | .vfence _ =>
    some ⟨.v, .unused, .unused, .unused, .unused, [], .i8, 0, true, false, false, false, false, false, false, (false, false, false)⟩
  | .vld _ _ _ =>
    some ⟨.v, .row, .unused, .unused, .src, ElTy.vall, .i8, 0, true, false, false, true, true, true, false, (false, false, false)⟩
  | .vst _ _ _ =>
    some ⟨.v, .row, .unused, .unused, .src, ElTy.vall, .i8, 0, true, false, false, false, true, true, false, (false, false, false)⟩
  | .vlds _ _ _ _ =>
    some ⟨.v, .row, .src, .unused, .src, ElTy.vbytes, .i8, 0, true, false, false, true, true, true, false, (false, false, false)⟩
  | .vsts _ _ _ _ =>
    some ⟨.v, .row, .src, .unused, .src, ElTy.vbytes, .i8, 0, true, false, false, false, true, true, false, (false, false, false)⟩
  | .vgath _ _ _ _ =>
    some ⟨.v, .row, .row, .unused, .src, ElTy.v1632, .i8, 0, true, false, false, true, true, true, false, (false, false, false)⟩
  | .vscat _ _ _ _ =>
    some ⟨.v, .row, .row, .unused, .src, ElTy.v1632, .i8, 0, true, false, false, false, true, true, false, (false, false, false)⟩
  | .mwld _ _ _ =>
    some ⟨.s, .src, .src, .unused, .unused, [], .i8, 0, false, false, false, false, false, false, false, (false, false, false)⟩
  | .mma _ _ _ =>
    some ⟨.s, .src, .src, .unused, .unused, ElTy.mx, .i8, 31, true, false, false, false, false, true, false, (false, false, false)⟩
  | .mmag _ _ _ _ =>
    some ⟨.s, .src, .src, .unused, .src, ElTy.mx, .i8, 31, true, false, false, false, false, true, false, (false, false, false)⟩
  | .mmap _ _ _ =>
    some ⟨.s, .src, .src, .unused, .unused, ElTy.mxp, .i8, 31, true, false, false, false, false, true, false, (false, false, false)⟩
  | .mupl _ _ =>
    some ⟨.s, .src, .unused, .unused, .unused, [], .i8, 0, false, false, false, false, false, false, false, (false, false, false)⟩
  | .mzero _ _ =>
    some ⟨.s, .src, .unused, .unused, .unused, [], .i8, 0, false, false, false, false, false, false, false, (false, false, false)⟩
  | .mtr _ _ =>
    some ⟨.s, .src, .unused, .unused, .unused, [], .i8, 0, false, false, false, false, false, false, false, (false, false, false)⟩
  | .mst _ _ _ =>
    some ⟨.s, .src, .src, .unused, .unused, ElTy.f32i32, .i8, 15, true, true, true, false, false, true, false, (false, false, false)⟩
  | .mld _ _ _ =>
    some ⟨.s, .src, .src, .unused, .unused, ElTy.all, .i8, 15, true, true, true, false, false, true, false, (false, false, false)⟩
  | .msacc _ _ =>
    some ⟨.s, .src, .unused, .unused, .unused, [], .i8, 0, false, false, false, false, false, false, false, (false, false, false)⟩
  | .mfence _ =>
    some ⟨.s, .unused, .unused, .unused, .unused, [], .i8, 0, false, false, false, false, false, false, false, (false, false, false)⟩
  | .mstatMatrix _ _ =>
    some ⟨.s, .dst, .unused, .unused, .unused, [], .i8, 0, false, false, false, false, false, false, false, (false, false, false)⟩
  | _ => none

/-- The major opcode (R271). -/
def Instr.major (i : Instr) : BitVec 6 :=
  match i with
  | .add _ _ _ _ | .sub _ _ _ _ | .and _ _ _ _ | .or _ _ _ _ | .xor _ _ _ _ | .andn _ _ _ _ | .shl _ _ _ _ | .shr _ _ _ _ => 1
  | .sar _ _ _ _ | .ror _ _ _ _ | .min _ _ _ _ | .max _ _ _ _ | .mul _ _ _ _ | .mulh _ _ _ _ | .div _ _ _ _ | .rem _ _ _ _ => 2
  | .clz _ _ _ | .ctz _ _ _ | .popc _ _ _ | .brev _ _ _ | .ext _ _ _ _ | .ins _ _ _ _ | .lea _ _ _ _ | .mov _ _ _ => 3
  | .addi _ _ _ _ => 4
  | .cmpp _ _ _ _ _ => 5
  | .setc _ _ _ _ _ => 6
  | .sel _ _ _ _ _ => 7
  | .fadd _ _ _ _ | .fsub _ _ _ _ | .fmul _ _ _ _ | .fmulz _ _ _ _ | .fdiv _ _ _ _ | .fmin _ _ _ _ | .fmax _ _ _ _ | .fma _ _ _ _ _ => 8
  | .fsqrt _ _ _ | .fneg _ _ _ | .fabs _ _ _ | .fclass _ _ _ | .fcvt _ _ _ => 9
  | .fcmpp _ _ _ _ _ => 10
  | .pand _ _ _ _ | .por _ _ _ _ | .pxor _ _ _ _ | .pnot _ _ _ | .ppack _ _ | .punpk _ _ => 11
  | .br _ _ _ _ => 12
  | .jmp _ _ => 13
  | .call _ _ => 14
  | .jmpr _ _ | .callr _ _ | .ret _ | .enter _ _ | .leave _ | .nop _ | .halt _ | .trap _ _ | .sysc _ _ _ _ | .eret _ => 15
  | .loop _ _ _ => 16
  | .hstart _ _ _ _ | .hjoin _ _ _ | .hexit _ | .cid _ _ | .mcrd _ _ _ | .yield _ _ | .srd _ _ _ | .swr _ _ _ | .wspx _ _ _ | .qstat _ _ _ | .qflush _ _ | .tlbi _ _ | .bkpt _ | .prog _ _ | .trace _ _ | .ckset _ _ _ => 17
  | .ld _ _ _ _ _ => 18
  | .st _ _ _ _ _ => 19
  | .ldx _ _ _ _ _ => 20
  | .stx _ _ _ _ _ => 21
  | .lda _ _ _ _ _ _ => 22
  | .stl _ _ _ _ _ _ => 23
  | .pref _ _ _ | .cwb _ _ _ | .cinv _ _ _ | .cdisc _ _ _ | .czero _ _ _ | .ifence _ | .fence _ _ => 24
  | .waita _ _ _ _ _ _ => 25
  | .aadd _ _ _ _ | .aand _ _ _ _ | .aor _ _ _ _ | .axor _ _ _ _ | .amin _ _ _ _ | .amax _ _ _ _ | .aswp _ _ _ _ | .afadd _ _ _ _ => 26
  | .acas _ _ _ _ _ => 27
  | .binit _ _ _ | .barr _ _ | .bwait _ _ _ _ | .barw _ _ _ _ | .bstat _ _ _ | .roseb _ _ _ | .roseq _ _ _ | .rosex _ _ => 28
  | .msend _ _ _ | .msendr _ _ _ _ | .mrecv _ _ _ _ | .mrecvr _ _ _ _ | .mbind _ _ | .mstat _ _ _ => 29
  | .ttgo _ _ | .ttsend _ _ _ | .ttrecv _ _ _ | .ttend _ | .ttq _ _ => 30
  | .fxdef _ _ _ | .fxjoin _ _ | .fxc _ _ _ _ | .fxw _ _ _ _ | .fxq _ _ _ | .fxlv _ _ => 31
  | .xtpl _ _ _ | .xst _ _ _ | .xcan _ _ | .xstat _ _ _ => 32
  | .charm _ _ | .chdec _ _ | .chpatch _ _ _ | .chcard _ _ | .chdone _ _ | .chq _ _ _ => 33
  | .vadd _ _ _ _ | .vsub _ _ _ _ | .vmul _ _ _ _ | .vmulz _ _ _ _ | .vfma _ _ _ _ _ | .vmin _ _ _ _ | .vmax _ _ _ _ | .vsacc _ _ _ _ _ => 34
  | .vand _ _ _ _ | .vor _ _ _ _ | .vxor _ _ _ _ | .vshl _ _ _ _ | .vshr _ _ _ _ | .vsar _ _ _ _ | .vabs _ _ _ | .vneg _ _ _ => 35
  | .vcmp _ _ _ _ | .vsel _ _ _ _ | .vcvt _ _ _ | .vmov _ _ _ | .viota _ _ _ | .vbcast _ _ _ | .vextr _ _ _ _ | .vins _ _ _ _ => 36
  | .vred _ _ _ | .vscan _ _ _ | .vperm _ _ _ _ | .vsf _ _ _ | .vmk _ _ _ _ | .vmpop _ _ _ | .vfence _ => 37
  | .vld _ _ _ | .vst _ _ _ | .vlds _ _ _ _ | .vsts _ _ _ _ | .vgath _ _ _ _ | .vscat _ _ _ _ => 38
  | .mwld _ _ _ | .mma _ _ _ | .mmag _ _ _ _ | .mmap _ _ _ | .mupl _ _ | .mzero _ _ | .mtr _ _ | .mst _ _ _ | .mld _ _ _ | .msacc _ _ | .mfence _ | .mstatMatrix _ _ => 48
  | _ => 0

/-- Bits [31:8] of the first word (R257). -/
def Instr.hi (i : Instr) : BitVec 24 :=
  match i with
  | .add d a b _ => 0#3 ++ (b.bits ++ (a.bits ++ d.bits))
  | .sub d a b _ => 1#3 ++ (b.bits ++ (a.bits ++ d.bits))
  | .and d a b _ => 2#3 ++ (b.bits ++ (a.bits ++ d.bits))
  | .or d a b _ => 3#3 ++ (b.bits ++ (a.bits ++ d.bits))
  | .xor d a b _ => 4#3 ++ (b.bits ++ (a.bits ++ d.bits))
  | .andn d a b _ => 5#3 ++ (b.bits ++ (a.bits ++ d.bits))
  | .shl d a b _ => 6#3 ++ (b.bits ++ (a.bits ++ d.bits))
  | .shr d a b _ => 7#3 ++ (b.bits ++ (a.bits ++ d.bits))
  | .sar d a b _ => 0#3 ++ (b.bits ++ (a.bits ++ d.bits))
  | .ror d a b _ => 1#3 ++ (b.bits ++ (a.bits ++ d.bits))
  | .min d a b _ => 2#3 ++ (b.bits ++ (a.bits ++ d.bits))
  | .max d a b _ => 3#3 ++ (b.bits ++ (a.bits ++ d.bits))
  | .mul d a b _ => 4#3 ++ (b.bits ++ (a.bits ++ d.bits))
  | .mulh d a b _ => 5#3 ++ (b.bits ++ (a.bits ++ d.bits))
  | .div d a b _ => 6#3 ++ (b.bits ++ (a.bits ++ d.bits))
  | .rem d a b _ => 7#3 ++ (b.bits ++ (a.bits ++ d.bits))
  | .clz d a _ => 0#3 ++ (0#7 ++ (a.bits ++ d.bits))
  | .ctz d a _ => 1#3 ++ (0#7 ++ (a.bits ++ d.bits))
  | .popc d a _ => 2#3 ++ (0#7 ++ (a.bits ++ d.bits))
  | .brev d a _ => 3#3 ++ (0#7 ++ (a.bits ++ d.bits))
  | .ext d a b _ => 4#3 ++ (b.bits ++ (a.bits ++ d.bits))
  | .ins d a b _ => 5#3 ++ (b.bits ++ (a.bits ++ d.bits))
  | .lea d a b _ => 6#3 ++ (b.bits ++ (a.bits ++ d.bits))
  | .mov d a _ => 7#3 ++ (0#7 ++ (a.bits ++ d.bits))
  | .addi d a i _ => i ++ (a.bits ++ d.bits)
  | .cmpp f d a b _ => f.code ++ (b.bits ++ (a.bits ++ (0#4 ++ d)))
  | .setc f d a b _ => f.code ++ (b.bits ++ (a.bits ++ d.bits))
  | .sel f d a b _ => f ++ (b.bits ++ (a.bits ++ d.bits))
  | .fadd d a b _ => 0#3 ++ (b.bits ++ (a.bits ++ d.bits))
  | .fsub d a b _ => 1#3 ++ (b.bits ++ (a.bits ++ d.bits))
  | .fmul d a b _ => 2#3 ++ (b.bits ++ (a.bits ++ d.bits))
  | .fmulz d a b _ => 3#3 ++ (b.bits ++ (a.bits ++ d.bits))
  | .fdiv d a b _ => 4#3 ++ (b.bits ++ (a.bits ++ d.bits))
  | .fmin d a b _ => 5#3 ++ (b.bits ++ (a.bits ++ d.bits))
  | .fmax d a b _ => 6#3 ++ (b.bits ++ (a.bits ++ d.bits))
  | .fma d a b _ _ => 7#3 ++ (b.bits ++ (a.bits ++ d.bits))
  | .fsqrt d a _ => 0#3 ++ (0#7 ++ (a.bits ++ d.bits))
  | .fneg d a _ => 1#3 ++ (0#7 ++ (a.bits ++ d.bits))
  | .fabs d a _ => 2#3 ++ (0#7 ++ (a.bits ++ d.bits))
  | .fclass d a _ => 3#3 ++ (0#7 ++ (a.bits ++ d.bits))
  | .fcvt d a _ => 4#3 ++ (0#7 ++ (a.bits ++ d.bits))
  | .fcmpp f d a b _ => f.code ++ (b.bits ++ (a.bits ++ (0#4 ++ d)))
  | .pand d a b _ => 0#3 ++ ((0#4 ++ b) ++ ((0#4 ++ a) ++ (0#4 ++ d)))
  | .por d a b _ => 1#3 ++ ((0#4 ++ b) ++ ((0#4 ++ a) ++ (0#4 ++ d)))
  | .pxor d a b _ => 2#3 ++ ((0#4 ++ b) ++ ((0#4 ++ a) ++ (0#4 ++ d)))
  | .pnot d a _ => 3#3 ++ (0#7 ++ ((0#4 ++ a) ++ (0#4 ++ d)))
  | .ppack d _ => 4#3 ++ (0#7 ++ (0#7 ++ d.bits))
  | .punpk a _ => 5#3 ++ (0#7 ++ (a.bits ++ 0#7))
  | .br off neg p _ => off ++ (bit neg ++ p)
  | .jmp off _ => off
  | .call off _ => off
  | .jmpr a _ => 0#10 ++ (a.bits ++ 0#7)
  | .callr a _ => 1#10 ++ (a.bits ++ 0#7)
  | .ret _ => 2#10 ++ (0#7 ++ 0#7)
  | .enter d _ => 3#10 ++ (0#7 ++ d)
  | .leave _ => 4#10 ++ (0#7 ++ 0#7)
  | .nop _ => 5#10 ++ (0#7 ++ 0#7)
  | .halt _ => 6#10 ++ (0#7 ++ 0#7)
  | .trap d _ => 7#10 ++ (0#7 ++ (0#3 ++ d))
  | .sysc d a b _ => (if b = .g 0 then 8#10 else 4#3 ++ b.bits) ++ (a.bits ++ d.bits)
  | .eret _ => 9#10 ++ (0#7 ++ 0#7)
  | .loop off d _ => off ++ d.bits
  | .hstart d a b _ => (if b = .g 0 then 0#10 else 4#3 ++ b.bits) ++ (a.bits ++ d.bits)
  | .hjoin d a _ => 1#10 ++ (a.bits ++ d.bits)
  | .hexit _ => 2#10 ++ (0#7 ++ 0#7)
  | .cid d _ => 3#10 ++ (0#7 ++ d.bits)
  | .mcrd d a _ => 4#10 ++ (a.bits ++ d.bits)
  | .yield a _ => 5#10 ++ (a.bits ++ 0#7)
  | .srd d a _ => 6#10 ++ (a.code ++ d.bits)
  | .swr d a _ => 7#10 ++ (a.bits ++ d.code)
  | .wspx d a _ => 8#10 ++ (a.bits ++ d.bits)
  | .qstat d a _ => 9#10 ++ ((0b1001#4 ++ a) ++ d.bits)
  | .qflush a _ => 10#10 ++ ((0b1001#4 ++ a) ++ 0#7)
  | .tlbi a _ => 11#10 ++ (a.bits ++ 0#7)
  | .bkpt _ => 12#10 ++ (0#7 ++ 0#7)
  | .prog a _ => 13#10 ++ (a.bits ++ 0#7)
  | .trace a _ => 14#10 ++ (a.bits ++ 0#7)
  | .ckset d a _ => 15#10 ++ (a.bits ++ d.bits)
  | .ld d a z i _ => i ++ (z.code ++ (a.bits ++ d.bits))
  | .st d a z i _ => i ++ (z.code ++ (a.bits ++ d.bits))
  | .ldx f d a b _ => f.code ++ (b.bits ++ (a.bits ++ d.bits))
  | .stx f d a b _ => f.code ++ (b.bits ++ (a.bits ++ d.bits))
  | .lda d a z i k _ => k.code ++ (i ++ (z.code ++ (a.bits ++ d.bits)))
  | .stl d a z i k _ => k.code ++ (i ++ (z.code ++ (a.bits ++ d.bits)))
  | .pref a _ _ => 0#10 ++ (a.bits ++ 0#7)
  | .cwb a _ _ => 1#10 ++ (a.bits ++ 0#7)
  | .cinv a _ _ => 2#10 ++ (a.bits ++ 0#7)
  | .cdisc a _ _ => 3#10 ++ (a.bits ++ 0#7)
  | .czero a _ _ => 4#10 ++ (a.bits ++ 0#7)
  | .ifence _ => 5#10 ++ (0#7 ++ 0#7)
  | .fence d _ => 6#10 ++ (0#7 ++ d.code)
  | .waita f d a b _ _ => f.code ++ (b.bits ++ (a.bits ++ d.bits))
  | .aadd d a b _ => 0#3 ++ (b.bits ++ (a.bits ++ d.bits))
  | .aand d a b _ => 1#3 ++ (b.bits ++ (a.bits ++ d.bits))
  | .aor d a b _ => 2#3 ++ (b.bits ++ (a.bits ++ d.bits))
  | .axor d a b _ => 3#3 ++ (b.bits ++ (a.bits ++ d.bits))
  | .amin d a b _ => 4#3 ++ (b.bits ++ (a.bits ++ d.bits))
  | .amax d a b _ => 5#3 ++ (b.bits ++ (a.bits ++ d.bits))
  | .aswp d a b _ => 6#3 ++ (b.bits ++ (a.bits ++ d.bits))
  | .afadd d a b _ => 7#3 ++ (b.bits ++ (a.bits ++ d.bits))
  | .acas d a b _ _ => 0#3 ++ (b.bits ++ (a.bits ++ d.bits))
  | .binit a d _ => 0#10 ++ (a ++ d.bits)
  | .barr a _ => 1#10 ++ (a ++ 0#7)
  | .bwait d a _ _ => 2#10 ++ (a ++ d.bits)
  | .barw d a _ _ => 3#10 ++ (a ++ d.bits)
  | .bstat d a _ => 4#10 ++ (a ++ d.bits)
  | .roseb d a _ => 5#10 ++ (a.bits ++ (0#3 ++ d))
  | .roseq d a _ => 6#10 ++ ((0#3 ++ a) ++ d.bits)
  | .rosex d _ => 7#10 ++ (0#7 ++ (0#3 ++ d))
  | .msend a _ _ => 0#10 ++ (a.bits ++ 0#7)
  | .msendr d a _ _ => 1#10 ++ (a.bits ++ d.bits)
  | .mrecv d a _ _ => 2#10 ++ (a.bits ++ d.bits)
  | .mrecvr d a _ _ => 3#10 ++ (a.bits ++ d.bits)
  | .mbind a _ => 4#10 ++ (a.bits ++ 0#7)
  | .mstat d a _ => 5#10 ++ (a.bits ++ d.bits)
  | .ttgo a _ => 0#10 ++ (a.bits ++ 0#7)
  | .ttsend d a _ => 1#10 ++ (a.bits ++ d.bits)
  | .ttrecv d a _ => 2#10 ++ (a.bits ++ d.bits)
  | .ttend _ => 3#10 ++ (0#7 ++ 0#7)
  | .ttq d _ => 4#10 ++ (0#7 ++ d.bits)
  | .fxdef d a _ => 0#10 ++ (a.bits ++ d.bits)
  | .fxjoin a _ => 1#10 ++ (a.bits ++ 0#7)
  | .fxc d a _ _ => 2#10 ++ (a.bits ++ d.bits)
  | .fxw d a _ _ => 3#10 ++ (a.bits ++ d.bits)
  | .fxq d a _ => 4#10 ++ (a.bits ++ d.bits)
  | .fxlv a _ => 5#10 ++ (a.bits ++ 0#7)
  | .xtpl d a _ => 0#10 ++ (a.bits ++ (0#1 ++ d))
  | .xst d a _ => 1#10 ++ (a.bits ++ (0#4 ++ d))
  | .xcan d _ => 2#10 ++ (0#7 ++ (0#4 ++ d))
  | .xstat d a _ => 3#10 ++ ((0#4 ++ a) ++ d.bits)
  | .charm a _ => 0#10 ++ (a.bits ++ 0#7)
  | .chdec a _ => 1#10 ++ (a.bits ++ 0#7)
  | .chpatch d a _ => 2#10 ++ (a.bits ++ d.bits)
  | .chcard d _ => 3#10 ++ (0#7 ++ d.bits)
  | .chdone a _ => 4#10 ++ (a.bits ++ 0#7)
  | .chq d a _ => 5#10 ++ (a.bits ++ d.bits)
  | .vadd d a b _ => 0#3 ++ (b ++ (a ++ d))
  | .vsub d a b _ => 1#3 ++ (b ++ (a ++ d))
  | .vmul d a b _ => 2#3 ++ (b ++ (a ++ d))
  | .vmulz d a b _ => 3#3 ++ (b ++ (a ++ d))
  | .vfma d a b _ _ => 4#3 ++ (b ++ (a ++ d))
  | .vmin d a b _ => 5#3 ++ (b ++ (a ++ d))
  | .vmax d a b _ => 6#3 ++ (b ++ (a ++ d))
  | .vsacc d a b _ _ => 7#3 ++ (b ++ (a ++ d))
  | .vand d a b _ => 0#3 ++ (b ++ (a ++ d))
  | .vor d a b _ => 1#3 ++ (b ++ (a ++ d))
  | .vxor d a b _ => 2#3 ++ (b ++ (a ++ d))
  | .vshl d a b _ => 3#3 ++ (b ++ (a ++ d))
  | .vshr d a b _ => 4#3 ++ (b ++ (a ++ d))
  | .vsar d a b _ => 5#3 ++ (b ++ (a ++ d))
  | .vabs d a _ => 6#3 ++ (0#7 ++ (a ++ d))
  | .vneg d a _ => 7#3 ++ (0#7 ++ (a ++ d))
  | .vcmp d a b _ => 0#3 ++ (b ++ (a ++ d))
  | .vsel d a b _ => 1#3 ++ (b ++ (a ++ d))
  | .vcvt d a _ => 2#3 ++ (0#7 ++ (a ++ d))
  | .vmov d a _ => 3#3 ++ (0#7 ++ (a ++ d))
  | .viota d _ _ => 4#3 ++ (0#7 ++ (0#7 ++ d))
  | .vbcast d _ _ => 5#3 ++ (0#7 ++ (0#7 ++ d))
  | .vextr d a _ _ => 6#3 ++ (0#7 ++ (a ++ d.bits))
  | .vins d a _ _ => 7#3 ++ (0#7 ++ (a.bits ++ d))
  | .vred d a _ => 0#3 ++ (0#7 ++ (a ++ d))
  | .vscan d a _ => 1#3 ++ (0#7 ++ (a ++ d))
  | .vperm d a b _ => 2#3 ++ (b ++ (a ++ d))
  | .vsf d a _ => 3#3 ++ (0#7 ++ (a ++ d))
  | .vmk d a b _ => 4#3 ++ (b ++ (a ++ d))
  | .vmpop d a _ => 5#3 ++ (0#7 ++ (a ++ d.bits))
  | .vfence _ => 6#3 ++ (0#7 ++ (0#7 ++ 0#7))
  | .vld d _ _ => 0#3 ++ (0#7 ++ (0#7 ++ d))
  | .vst d _ _ => 1#3 ++ (0#7 ++ (0#7 ++ d))
  | .vlds d a _ _ => 2#3 ++ (0#7 ++ (a.bits ++ d))
  | .vsts d a _ _ => 3#3 ++ (0#7 ++ (a.bits ++ d))
  | .vgath d a _ _ => 4#3 ++ (0#7 ++ (a ++ d))
  | .vscat d a _ _ => 5#3 ++ (0#7 ++ (a ++ d))
  | .mwld d a _ => 0#10 ++ (a.bits ++ d.bits)
  | .mma d a _ => 1#10 ++ (a.bits ++ d.bits)
  | .mmag d a _ _ => 2#10 ++ (a.bits ++ d.bits)
  | .mmap d a _ => 3#10 ++ (a.bits ++ d.bits)
  | .mupl d _ => 4#10 ++ (0#7 ++ d.bits)
  | .mzero d _ => 5#10 ++ (0#7 ++ d.bits)
  | .mtr d _ => 6#10 ++ (0#7 ++ d.bits)
  | .mst d a _ => 7#10 ++ (a.bits ++ d.bits)
  | .mld d a _ => 8#10 ++ (a.bits ++ d.bits)
  | .msacc d _ => 9#10 ++ (0#7 ++ d.bits)
  | .mfence _ => 10#10 ++ (0#7 ++ 0#7)
  | .mstatMatrix d _ => 11#10 ++ (0#7 ++ d.bits)
  | _ => 0

/-- The C field of the extension. -/
def Instr.cField (i : Instr) : BitVec 7 :=
  match i with
  | .fma _ _ _ c _ => c.bits
  | .pref _ c _ => c.bits
  | .cwb _ c _ => c.bits
  | .cinv _ c _ => c.bits
  | .cdisc _ c _ => c.bits
  | .czero _ c _ => c.bits
  | .waita _ _ _ _ c _ => c.bits
  | .acas _ _ _ c _ => c.bits
  | .bwait _ _ c _ => c.bits
  | .barw _ _ c _ => c.bits
  | .msend _ c _ => c.bits
  | .msendr _ _ c _ => c.bits
  | .mrecv _ _ c _ => c.bits
  | .mrecvr _ _ c _ => c.bits
  | .fxc _ _ c _ => c.bits
  | .fxw _ _ c _ => c.bits
  | .vfma _ _ _ c _ => c
  | .vsacc _ _ _ c _ => c.bits
  | .viota _ c _ => c.bits
  | .vbcast _ c _ => c.bits
  | .vextr _ _ c _ => c.bits
  | .vins _ _ c _ => c.bits
  | .vld _ c _ => c.bits
  | .vst _ c _ => c.bits
  | .vlds _ _ c _ => c.bits
  | .vsts _ _ c _ => c.bits
  | .vgath _ _ c _ => c.bits
  | .vscat _ _ c _ => c.bits
  | .mmag _ _ c _ => c.bits
  | _ => 0

/-- What every instruction carries; none for an event. -/
def Instr.mods? (i : Instr) : Option Mods :=
  match i with
  | .add _ _ _ m | .sub _ _ _ m | .and _ _ _ m | .or _ _ _ m | .xor _ _ _ m | .andn _ _ _ m | .shl _ _ _ m | .shr _ _ _ m => some m
  | .sar _ _ _ m | .ror _ _ _ m | .min _ _ _ m | .max _ _ _ m | .mul _ _ _ m | .mulh _ _ _ m | .div _ _ _ m | .rem _ _ _ m => some m
  | .clz _ _ m | .ctz _ _ m | .popc _ _ m | .brev _ _ m | .ext _ _ _ m | .ins _ _ _ m | .lea _ _ _ m | .mov _ _ m => some m
  | .addi _ _ _ m => some m
  | .cmpp _ _ _ _ m => some m
  | .setc _ _ _ _ m => some m
  | .sel _ _ _ _ m => some m
  | .fadd _ _ _ m | .fsub _ _ _ m | .fmul _ _ _ m | .fmulz _ _ _ m | .fdiv _ _ _ m | .fmin _ _ _ m | .fmax _ _ _ m | .fma _ _ _ _ m => some m
  | .fsqrt _ _ m | .fneg _ _ m | .fabs _ _ m | .fclass _ _ m | .fcvt _ _ m => some m
  | .fcmpp _ _ _ _ m => some m
  | .pand _ _ _ m | .por _ _ _ m | .pxor _ _ _ m | .pnot _ _ m | .ppack _ m | .punpk _ m => some m
  | .br _ _ _ m => some m
  | .jmp _ m => some m
  | .call _ m => some m
  | .jmpr _ m | .callr _ m | .ret m | .enter _ m | .leave m | .nop m | .halt m | .trap _ m | .sysc _ _ _ m | .eret m => some m
  | .loop _ _ m => some m
  | .hstart _ _ _ m | .hjoin _ _ m | .hexit m | .cid _ m | .mcrd _ _ m | .yield _ m | .srd _ _ m | .swr _ _ m | .wspx _ _ m | .qstat _ _ m | .qflush _ m | .tlbi _ m | .bkpt m | .prog _ m | .trace _ m | .ckset _ _ m => some m
  | .ld _ _ _ _ m => some m
  | .st _ _ _ _ m => some m
  | .ldx _ _ _ _ m => some m
  | .stx _ _ _ _ m => some m
  | .lda _ _ _ _ _ m => some m
  | .stl _ _ _ _ _ m => some m
  | .pref _ _ m | .cwb _ _ m | .cinv _ _ m | .cdisc _ _ m | .czero _ _ m | .ifence m | .fence _ m => some m
  | .waita _ _ _ _ _ m => some m
  | .aadd _ _ _ m | .aand _ _ _ m | .aor _ _ _ m | .axor _ _ _ m | .amin _ _ _ m | .amax _ _ _ m | .aswp _ _ _ m | .afadd _ _ _ m => some m
  | .acas _ _ _ _ m => some m
  | .binit _ _ m | .barr _ m | .bwait _ _ _ m | .barw _ _ _ m | .bstat _ _ m | .roseb _ _ m | .roseq _ _ m | .rosex _ m => some m
  | .msend _ _ m | .msendr _ _ _ m | .mrecv _ _ _ m | .mrecvr _ _ _ m | .mbind _ m | .mstat _ _ m => some m
  | .ttgo _ m | .ttsend _ _ m | .ttrecv _ _ m | .ttend m | .ttq _ m => some m
  | .fxdef _ _ m | .fxjoin _ m | .fxc _ _ _ m | .fxw _ _ _ m | .fxq _ _ m | .fxlv _ m => some m
  | .xtpl _ _ m | .xst _ _ m | .xcan _ m | .xstat _ _ m => some m
  | .charm _ m | .chdec _ m | .chpatch _ _ m | .chcard _ m | .chdone _ m | .chq _ _ m => some m
  | .vadd _ _ _ m | .vsub _ _ _ m | .vmul _ _ _ m | .vmulz _ _ _ m | .vfma _ _ _ _ m | .vmin _ _ _ m | .vmax _ _ _ m | .vsacc _ _ _ _ m => some m
  | .vand _ _ _ m | .vor _ _ _ m | .vxor _ _ _ m | .vshl _ _ _ m | .vshr _ _ _ m | .vsar _ _ _ m | .vabs _ _ m | .vneg _ _ m => some m
  | .vcmp _ _ _ m | .vsel _ _ _ m | .vcvt _ _ m | .vmov _ _ m | .viota _ _ m | .vbcast _ _ m | .vextr _ _ _ m | .vins _ _ _ m => some m
  | .vred _ _ m | .vscan _ _ m | .vperm _ _ _ m | .vsf _ _ m | .vmk _ _ _ m | .vmpop _ _ m | .vfence m => some m
  | .vld _ _ m | .vst _ _ m | .vlds _ _ _ m | .vsts _ _ _ m | .vgath _ _ _ m | .vscat _ _ _ m => some m
  | .mwld _ _ m | .mma _ _ m | .mmag _ _ _ m | .mmap _ _ m | .mupl _ m | .mzero _ m | .mtr _ m | .mst _ _ m | .mld _ _ m | .msacc _ m | .mfence m | .mstatMatrix _ m => some m
  | _ => none

/-- The parts of an instruction's encoding.  Without extension, C is not encoded. -/
def Instr.raw (i : Instr) (m : Mods) : Raw :=
  { len := m.len.bits, major := i.major, hi := i.hi
    ext := if m.len.ext then m.extBits i.cField else 0
    lit := if m.len.hasLit then m.lit else 0 }

/-! ### The causes of R273 -/

namespace Raw

/-- The fields that lie in the format, with their roles. -/
def fields (r : Raw) (x : Desc) : List (BitVec 7 × Use) :=
  match x.fmt with
  | .r | .rz | .v => [(r.a, x.a), (r.b, x.b), (r.d, x.d)]
  | .sb => [(r.a, x.a), (if r.hi.extractLsb' 23 1 = 1#1 then r.b else 0, x.b), (r.d, x.d)]
  | .i | .m | .ma | .s => [(r.a, x.a), (r.d, x.d)]
  | .l => [(r.d, x.d)]
  | .b | .j => []

/-- The fields with a role, C among them in a form with extension. -/
def operands (r : Raw) (x : Desc) : List (BitVec 7 × Use) :=
  r.fields x ++ (if r.form.ext then [(r.eC, x.c)] else [])

/-- A field that is not used, or bits of it that are not (R265, R272, R287). -/
def strayBits (v : BitVec 7) : Use → Bool
  | .unused => v ≠ 0
  | .pred => v.extractLsb' 3 4 ≠ 0#4
  | .fkind => v.extractLsb' 2 5 ≠ 0#5
  | .raw k => v.toNat ≥ 2 ^ k
  | _ => false

/-- The displacement field of the word where the extension's IMM32 takes its place (R258). -/
def strayImm (r : Raw) (x : Desc) : Bool :=
  r.form.ext && (match x.fmt with
    | .i => r.imm10 ≠ 0 | .m => r.disp7 ≠ 0 | .ma => r.disp3 ≠ 0 | _ => false)

/-- A field of the extension that the entry does not use (R265). -/
def strayExt (r : Raw) (x : Desc) : Bool :=
  r.form.ext &&
    ((!x.imm && r.eImm ≠ 0) || (r.eMod &&& ~~~x.mod) ≠ 0 || (!x.sat && r.eSat ≠ 0) || (!x.rnd && r.eRnd ≠ 0) ||
     (!x.zero && r.eZero ≠ 0) || (!x.mask && r.eMask ≠ 0) || (x.tys.isEmpty && r.eTy ≠ 0))

/-- The type of the operation (R266). -/
def opTy (r : Raw) (x : Desc) : ElTy := if r.form.ext then ElTy.ofCode r.eTy else x.dty

/-- The literal's field pattern, kind 10 index 31 (R259). -/
def litField : BitVec 7 := 0b1011111#7

/-- A role in which a field may read the literal (R260). -/
def Use.reads : Use → Bool
  | .src | .base => true
  | _ => false

/-- A role that holds an operand kind. -/
def Use.isOpnd : Use → Bool
  | .src | .base | .dst | .dsrcdst | .ctr => true
  | _ => false

/-- Cause 0x07: the literal named where there is none or where it may not stand, or carried and not read. -/
def litMisuse (r : Raw) (x : Desc) : Bool :=
  (r.operands x).any (fun p => Use.isOpnd p.2 && p.1 = litField && !(r.form.hasLit && Use.reads p.2)) ||
  (r.form.hasLit && !(r.operands x).any (fun p => Use.reads p.2 && p.1 = litField))

/-- A field whose value is reserved in its role (R259, R260, R287, R325). -/
def badField (v : BitVec 7) (u : Use) : Bool :=
  (Use.isOpnd u && (Opnd.ofBits v).isNone) ||
  (match u with
   | .dst | .dsrcdst | .base => v.extractLsb' 5 2 = 3#2
   | .ctr => v.extractLsb' 5 2 = 3#2 || v = 0b1010000#7
   | .sr => v.toNat > 10
   | .queue => v.extractLsb' 3 4 ≠ 0b1001#4
   | .fkind => v.extractLsb' 0 2 = 0#2
   | _ => false)

/-- Literal bits [63:32] not zero where an f32 operand reads the literal (R261). -/
def badF32Lit (r : Raw) (x : Desc) : Bool :=
  r.form.hasLit && r.opTy x = .f32 && r.lit.extractLsb' 32 32 ≠ 0#32 &&
  ((x.typed.1 && r.a = litField) || (x.typed.2.1 && r.b = litField) ||
   (x.typed.2.2 && r.form.ext && r.eC = litField))

/-- Cause 0x02 that the formats give. -/
def reservedValue (r : Raw) (x : Desc) : Bool :=
  (r.operands x).any (fun p => badField p.1 p.2) ||
  (match x.fmt with
   | .rz => r.f = 7#3
   | .m => r.size = 7#3
   | .ma => r.size = 7#3 || r.scope.toNat > 9
   | _ => false) ||
  (r.form.ext && x.rnd && r.eRnd = 7#3) ||
  (r.form.ext && x.hasScope && (r.eMod.extractLsb' 4 4).toNat > 9) ||
  r.badF32Lit x

end Raw

/-- Cause 0x01 that an entry gives beyond its format: RND on an integer type and SAT on a floating-point type where
they must be 0 (R350, R354), vB of a mask NOT (R362), D of ENTER in a form with extension (R301). -/
def Instr.stray (i : Instr) : Bool :=
  match i with
  | .vadd _ _ _ m | .vsub _ _ _ m | .vmul _ _ _ m | .vmin _ _ _ m | .vmax _ _ _ m => m.ty.isInt && m.rnd ≠ .fpsr
  | .vabs _ _ m | .vneg _ _ m => !m.ty.isInt && m.sat
  | .vmk _ _ b m => m.mod.extractLsb' 0 2 = 3#2 && b ≠ 0
  | .enter d m => m.len.ext && d ≠ 0
  | _ => false

/-- A rounding field that a D8 destination refuses (R235). -/
def d8Rnd (t : ElTy) (m : Mods) : Bool := t = .d8 && m.rnd ≠ .fpsr && m.rnd ≠ .rne

/-- The destination or memory type that MOD[27:24] names (R269). -/
def Mods.modTy (m : Mods) : ElTy := ElTy.ofCode (m.mod.extractLsb' 0 4)

/-- How many parts a VCVT has (R358). -/
def vcvtParts (s t : ElTy) : Nat := Nat.max s.bits t.bits / Nat.min s.bits t.bits

/-- Cause 0x02 that an entry gives for a field of the word or the extension. -/
def Instr.reserved (i : Instr) : Bool :=
  match i with
  | .enter _ m => m.len.ext && (m.imm32.toNat ≥ 2 ^ 31 || m.imm32.toNat % 16 ≠ 0)
  | .fcvt _ _ m => d8Rnd m.modTy m
  | .vcvt _ _ m => d8Rnd m.modTy m || (m.mod.extractLsb' 4 4).toNat ≥ vcvtParts m.ty m.modTy
  | .mst _ _ m => d8Rnd m.modTy m
  | .mld _ _ m => d8Rnd m.ty m
  | .vcmp _ _ _ m => !m.ty.isInt && (m.mod.extractLsb' 0 3).toNat ≥ 6
  | .vred _ _ m | .vscan _ _ m => m.mod.extractLsb' 1 2 = 3#2 || m.rnd = .sr
  | .vsf _ _ m => m.mod.extractLsb' 0 3 = 7#3
  | .ttsend _ _ m | .ttrecv _ _ m => m.mod.extractLsb' 0 3 = 7#3
  | _ => false

/-- The allowed pairs of R372. -/
def mxPair (ta tb : ElTy) : Bool :=
  match ta with
  | .bf16 => tb = .bf16
  | .f16 => tb = .f16
  | .f32 => tb = .f32
  | .e4m3 | .e5m2 => tb = .e4m3 || tb = .e5m2
  | .i8 | .n8 => tb = .i8 || tb = .n8
  | .e2m1 | .d8 => tb = .e2m1 || tb = .d8
  | _ => false

/-- The format of B (R372): that of A unless MOD[28] is 1. -/
def Mods.bTy (m : Mods) : ElTy := if m.mod.getLsbD 4 then m.modTy else m.ty

/-- Cause 0x04 that an entry gives beyond its list for TYPE. -/
def Instr.badType (i : Instr) : Bool :=
  match i with
  | .vcvt _ _ m => !ElTy.vall.contains m.modTy
  | .mma _ _ m | .mmag _ _ _ m | .mmap _ _ m => !mxPair m.ty m.bTy
  | .mld _ _ m => !ElTy.f32i32.contains m.modTy
  | _ => false

/-- The cause that a word sequence raises, none where it is an instruction: the encoding causes in the order
0x01, 0x06, 0x07, 0x02, 0x04 (R215, R273). -/
def Instr.encodingCause (i : Instr) (x : Desc) (r : Raw) : Option (BitVec 8) :=
  if (r.fields x).any (fun p => Raw.strayBits p.1 p.2) || (r.form.ext && Raw.strayBits r.eC x.c) || r.strayImm x ||
      r.strayExt x || i.stray then some 0x01
  else if x.xOnly && !r.form.ext then some 0x06
  else if r.litMisuse x then some 0x07
  else if r.reservedValue x || i.reserved then some 0x02
  else if (!x.tys.isEmpty && !x.tys.contains (r.opTy x)) || i.badType then some 0x04
  else none

/-- What a form does not carry stands at its one canonical value: without extension the fields of R263 are zero, the
type is the default (R266) and C is zr; without literal `lit` is zero. -/
def Mods.canonical (m : Mods) (dty : ElTy) : Bool :=
  (m.len.ext || (m.imm32 = 0 && m.mod = 0 && !m.sat && m.rnd = .fpsr && !m.zero && m.mask = 0 && m.ty = dty &&
    !m.gen && !m.gsense && m.gpred = 0)) && (m.len.hasLit || m.lit = 0)

/-- C stands at `zr` (row 0) in a form without extension. -/
def Instr.cCanonical (i : Instr) (x : Desc) (m : Mods) : Bool :=
  m.len.ext || i.cField = (match x.c with | .unused | .row => 0 | _ => Opnd.bits .zr)

end Sys2Proof
end

