-- ==== Sys2Proof/Machine/Memory.lean ====
section
/-! DEFINITION. The issue side of a memory access: the classes and windows of R127 to R130, rose resolution (R150), the L1 and its
FIFO (R133, R165), loads and stores of a context, releases and acquires (R166). -/

namespace Sys2Proof.Machine

/-! ### Address classes and windows (R127 to R129) -/

/-- What an address range names. -/
inductive Target
  | own (off : Nat)
  | mesh (core off : Nat)
  | die (d off : Nat)
  | rose (region off : Nat)
  | aperture (off : Nat)
  | acc (off : Nat)
  | global (va : Nat)
deriving DecidableEq, Repr

/-- The seven windows: base and greatest extent (R128). -/
def winSpans : List (Nat × Nat) :=
  [(ownBase, 0x40000), (ownBase + 0x100000000, 0x400000), (ownBase + 0x200000000, 0x2000000),
   (ownBase + 0x300000000, 0x1000000), (ownBase + 0x400000000, 0x40), (ownBase + 0x500000000, 0x8000),
   (ownBase + 0x1000000000, 0x40000000)]

/-- The window whose span holds an address, by its place in `winSpans`, and the offset in it. -/
def winOf (a : Nat) : Option (Nat × Nat) :=
  match winSpans.findIdx? (fun w => decide (w.1 ≤ a) && decide (a < w.1 + w.2)) with
  | some i => some (i, a - (winSpans.getD i (0, 0)).1)
  | none => none

/-- The first check of R142, without the rules of R129: class (0x11), extent (0x15), reach (0x16). -/
def State.classify (s : State) (n ea sz : Nat) : Except (BitVec 8) Target :=
  let last := ea + (sz - 1)
  if ea < 2 ^ 56 then (if last < 2 ^ 56 then .ok (.global ea) else .error 0x11)
  else match winOf ea, winOf last with
    | some (w, o), some (w', o') =>
      if w ≠ w' then .error 0x11
      else match w with
        | 0 => if o' < (s.core n).top then .ok (.own o) else .error 0x15
        | 1 =>
          let m := octetCore (octetOf n) (o / 0x80000)
          if o' - o / 0x80000 * 0x80000 < (s.core m).top then .ok (.mesh m (o % 0x80000)) else .error 0x15
        | 2 =>
          let d := s.gangDie n
          if s.reach n (2 * d + o / 0x1000000) && s.reach n (2 * d + o' / 0x1000000) then .ok (.die d o) else .error 0x16
        | 3 => .ok (.rose (o / 0x100000) (o % 0x100000))
        | 4 => .ok (.aperture o)
        | 5 => .ok (.acc o)
        | _ =>
          let m := o / 0x100000
          if ¬ o' - m * 0x100000 < (s.core m).top then .error 0x15
          else if s.reach n (partOf m) then .ok (.mesh m (o % 0x100000)) else .error 0x16
    | _, _ => .error 0x11

/-! ### Rose regions (R149, R150) -/

/-- The home of a region: core and region number. -/
def State.roseHome (s : State) (n region : Nat) : Nat × Nat :=
  let r := (s.core n).rose region
  if r.view then (r.hcore, r.hregion) else (n, region)

/-- A view whose home has been rebound or unbound since (R149). -/
def State.roseStale (s : State) (n region : Nat) : Bool :=
  let r := (s.core n).rose region
  let h := (s.core r.hcore).rose r.hregion
  r.view && (!h.bound || h.view || h.gen ≠ r.hgen)

/-- The resolution of R150 but for the needle: home core and region, slot distance, offset. -/
def State.roseResolve (s : State) (n region off sz : Nat) (store : Bool) : Except (BitVec 8) (Nat × Nat × Nat × Nat) :=
  let r := (s.core n).rose region
  let (hc, hr) := s.roseHome n region
  let h := (s.core hc).rose hr
  if !r.bound || s.roseStale n region then .error 0x53
  else
    let k := off / r.slotbytes
    let o := off % r.slotbytes
    if k ≥ r.slots || o + sz > r.slotbytes then .error 0x52
    else if store && k > h.lead then .error 0x51
    else .ok (hc, hr, k, o)

/-- The scratchpad offset of a slot k places past a needle (R150). -/
def slotAt (base slots slotbytes needle k o : Nat) : Nat := base + (needle + k) % slots * slotbytes + o
def Rose.slotOff (r : Rose) (k o : Nat) : Nat := slotAt r.base.toNat r.slots r.slotbytes r.needle k o

/-! ### The L1 and the FIFO (R133, R165) -/

def l1Find : List L1Line → Nat → Option L1Line
  | [], _ => none
  | l :: ls, a => if l.pa = a then some l else l1Find ls a

def l1Drop (ls : List L1Line) (a : Nat) : List L1Line := ls.filter (fun l => l.pa ≠ a)

/-- The ways of the L1 (R131). -/
def Core.l1Ways (c : Core) : Nat := 20 - c.scratch / 16

/-- Adds an access that leaves its core. -/
def State.fly (s : State) (a : Access) : State := { s with flight := s.flight ++ [a] }

/-- The writeback of a line's dirty bytes leaves the core (R165). -/
def State.l1Back (s : State) (n : Nat) (l : L1Line) : State :=
  if l.dirty = 0 then s
  else
    let (id, s1) := s.newId
    let c := s1.core n
    let s2 := s1.setCore n { c with
      fifo := c.fifo.filter (· ≠ l.pa)
      l1 := c.l1.map (fun m => if m.pa = l.pa then { m with dirty := 0 } else m) }
    s2.fly { id := id, core := n, ctx := 11, op := .wb l.data l.dirty, locs := [(.hbm l.pa l.key l.kind l.x, 64)] }

/-- The lines among which a full set gives one up: those of the line's set, or all lines of an L1 with fewer lines than ways, since no
set of it can be full. -/
def Core.l1Rivals (c : Core) (pa : Nat) : List L1Line :=
  let others := c.l1.filter (fun l => l.pa ≠ pa)
  if others.length < c.l1Ways then others else others.filter (fun l => Config.l1Set l.pa = Config.l1Set pa)

/-- The line that a full set gives up: the least recently used (R133). -/
def Core.l1Victim (c : Core) (pa : Nat) : Option L1Line :=
  if (c.l1Rivals pa).length < c.l1Ways then none else (c.l1Rivals pa).getLast?

/-- The way in which a line is put: its own, or the victim's, or the least that is free. -/
def Core.l1Way (c : Core) (pa : Nat) : Nat :=
  match l1Find c.l1 pa, c.l1Victim pa with
  | some l, _ => l.way
  | none, some v => v.way
  | none, none => freeWay ((c.l1Rivals pa).map L1Line.way) 0 c.l1Ways

/-- Puts a line first, after a full set has given up a line. -/
def State.l1Put (s : State) (n : Nat) (l : L1Line) : State :=
  let way := (s.core n).l1Way l.pa
  let s1 := match (s.core n).l1Victim l.pa with
    | some v => let s' := s.l1Back n v; s'.setCore n { s'.core n with l1 := l1Drop (s'.core n).l1 v.pa }
    | none => s
  s1.setCore n { s1.core n with l1 := { l with way := way } :: l1Drop (s1.core n).l1 l.pa }

/-- A hit makes a line the most recently used. -/
def Core.l1Touch (c : Core) (b : Nat) : Core :=
  match l1Find c.l1 b with
  | some l => { c with l1 := l :: l1Drop c.l1 b }
  | none => c

/-- A store of n bytes into a line of the L1, which may hold only the bytes stored; an RC line that becomes dirty enters
the FIFO, whose 65th entry first writes the oldest back. -/
def State.l1Store (s : State) (n pa key : Nat) (kind : PageKind) (x : Bool) (sz v : Nat) : State :=
  let b := lineBase pa
  let o := pa % 64
  let m := byteMask o sz
  let new : Line := BitVec.ofNat 512 (v % 256 ^ sz * 256 ^ o)
  let old := (l1Find (s.core n).l1 b).getD ⟨0, b, key, 0, 0, 0, kind, x⟩
  let s1 := s.l1Put n { old with data := mergeLine old.data new m, valid := old.valid ||| m, dirty := old.dirty ||| m }
  if old.dirty = 0 && kind = .rc then
    let s2 := match (s1.core n).fifo with
      | a :: rest =>
        if rest.length + 1 < 64 then s1
        else match l1Find (s1.core n).l1 a with
          | some l => s1.l1Back n l
          | none => s1.setCore n { s1.core n with fifo := rest }
      | [] => s1
    s2.setCore n { s2.core n with fifo := (s2.core n).fifo ++ [b] }
  else s1

/-- Writes a line back and, where asked, drops it. -/
def State.l1Clean (s : State) (n b : Nat) (drop : Bool) : State :=
  match l1Find (s.core n).l1 b with
  | some l =>
    let s1 := s.l1Back n l
    if drop then s1.setCore n { s1.core n with l1 := l1Drop (s1.core n).l1 b } else s1
  | none => s

/-- DropL1Line (R136): no writeback. -/
def State.l1Forget (s : State) (n b : Nat) : State :=
  s.setCore n { s.core n with l1 := l1Drop (s.core n).l1 b, fifo := (s.core n).fifo.filter (· ≠ b) }

/-- Drains the FIFO in its order (R165). -/
def State.drain (s : State) (n : Nat) : State :=
  (s.core n).fifo.foldl (fun s b => s.l1Clean n b false) s

/-- Drops the clean lines that a test selects, and of the dirty ones the bytes that are not dirty, which are as old (R163, log entry 88). -/
def Core.l1Invalidate (c : Core) (sel : L1Line → Bool) : Core :=
  { c with l1 := (c.l1.filter (fun l => !(l.dirty = 0 && sel l))).map (fun l => if sel l then { l with valid := l.dirty } else l) }

/-! ### What is under way -/

/-- An access that changes memory. -/
def MemOp.stores : MemOp → Bool
  | .write _ | .rmw _ _ _ | .zero | .wb _ _ => true
  | .read | .fill => false

/-- An access that brings a value, and the fill of a PREF (R157). -/
def MemOp.reads : MemOp → Bool
  | .read | .fill | .rmw _ _ _ => true
  | .write _ | .zero | .wb _ _ => false

def MemOp.isWb : MemOp → Bool
  | .wb _ _ => true
  | _ => false

/-- An access that names a line of HBM. -/
def Access.names (a : Access) (line : Nat) : Bool :=
  a.locs.any (fun p => match p.1 with | .hbm pa _ _ _ => lineBase pa = line | _ => false)

/-- Vector memory instructions of a context that are not complete (R366). -/
def VCmd.isMem (v : VCmd) : Bool := v.instr.major = 0x26#6

def Core.vmIds (c : Core) (x : Nat) : List Nat :=
  ((c.vq ++ c.vrun).filter (fun v => v.ctx = x && v.isMem)).map VCmd.id

/-- Stores, atomics, CZERO, CDISC and writebacks of a core that their targets have not acknowledged. -/
def State.unacked (s : State) (n : Nat) : List Nat :=
  (s.flight.filter (fun a => a.core = n && a.op.stores)).map Access.id

/-- Two pieces share a line of one memory. -/
def locsMeet (a b : Loc × Nat) : Bool :=
  match a.1, b.1 with
  | .scr c o, .scr c' o' => c = c' && decide (o < o' + b.2) && decide (o' < o + a.2)
  | .die d o, .die d' o' => d = d' && decide (o < o' + b.2) && decide (o' < o + a.2)
  | .acc c o, .acc c' o' => c = c' && decide (o < o' + b.2) && decide (o' < o + a.2)
  | .hbm p _ _ _, .hbm p' _ _ _ => decide (lineBase p ≤ p' + b.2 - 1) && decide (lineBase p' ≤ p + a.2 - 1)
  | _, _ => false

/-- An earlier access of the core to the same bytes is still to be performed, so that performing this one now would
break the core's program order to a location (R163, coherence). -/
def State.blockedBy (s : State) (n id : Nat) (locs : List (Loc × Nat)) : Bool :=
  s.flight.any (fun a => a.core = n && decide (a.id < id) && !a.performed && a.locs.any (fun p => locs.any (locsMeet p)))

/-- The same for a store into the L1, which a writeback on its way does not hold: the line's next one comes after it. -/
def State.l1Blocked (s : State) (n : Nat) (locs : List (Loc × Nat)) : Bool :=
  s.flight.any (fun a => a.core = n && !a.op.isWb && !a.performed && a.locs.any (fun p => locs.any (locsMeet p)))

/-- An access's bytes go to the L2 with it. -/
def Access.lands (a : Access) (s : State) : State :=
  match a.op with
  | .wb data mask => a.locs.foldl (fun s p => match p.1 with | .hbm pa key _ _ => s.l2Write pa (some key) data mask | _ => s) s
  | _ => s

/-- The writebacks of a line that are on their way from a core reach the L2, in their order, up to the first other access of the core that
names the line; `true` where there is none. -/
def State.settleFlight (s : State) (n b : Nat) : Nat → State × Bool
  | 0 => (s, false)
  | fuel + 1 =>
    match s.flight.find? (fun a => a.core = n && !a.performed && a.names b) with
    | none => (s, true)
    | some a =>
      if a.op.isWb then
        let t := a.lands s
        settleFlight { t with flight := t.flight.map (fun c => if c.id = a.id then { c with performed := true } else c) } n b fuel
      else (s, false)

/-- What a core has stored to a line stands at the L2 before an engine of the core writes there past the L1 (R161, row 8; R163, coherence):
its writebacks on their way, then the dirty bytes of its L1. -/
def State.settleLine (s : State) (n b : Nat) : State :=
  match s.settleFlight n b (s.flight.length + 1) with
  | (t, true) =>
    match l1Find (t.core n).l1 b with
    | some l =>
      if l.dirty = 0 then t
      else
        let u := t.l2Write b (some l.key) l.data l.dirty
        let c := u.core n
        u.setCore n { c with fifo := c.fifo.filter (· ≠ b), l1 := c.l1.map (fun m => if m.pa = b then { m with dirty := 0 } else m) }
    | none => t
  | (t, false) => t

/-- The clean bytes of a core's L1 copy that a write at the L2 replaces are no longer valid. -/
def State.l1Stale (s : State) (n pa sz : Nat) : State :=
  let c := s.core n
  s.setCore n { c with l1 := c.l1.map (fun l =>
    if l.pa = lineBase pa then { l with valid := l.valid &&& (~~~(byteMask (pa % 64) sz) ||| l.dirty) } else l) }

/-! ### Ordering actions (R166, R366) -/

def Scope.isWide (sc : Scope) : Bool := decide (2 ≤ sc.code.toNat)

/-- The reads of a context that have not returned. -/
def State.readsUnderWay (s : State) (n x : Nat) : List Nat :=
  (s.flight.filter (fun a => a.core = n && a.ctx = x && a.op.reads)).map Access.id

/-- The actions of a release of scope sc by context x of core n; what must retire before the release is complete: the context's
earlier reads and vector accesses (rows 3 and 5 of R161), and from octet scope on what the core has stored. -/
def State.releaseActs (s : State) (n x : Nat) (sc : Scope) : List Nat × State :=
  if sc = .ctx then ([], s)
  else
    let s1 := if (s.ctx n x).noWs then s else s.setCore n ((s.core n).gFlush (s.ctx n x).wsp)
    let own := s1.readsUnderWay n x ++ (s1.core n).vmIds x
    if Scope.isWide sc then let s2 := s1.drain n; (s2.unacked n ++ own, s2) else (own, s1)

/-- The actions of an acquire (R166): the clean RC lines of the L1 are invalidated. -/
def State.acquireActs (s : State) (n : Nat) (sc : Scope) : State :=
  if Scope.isWide sc then s.setCore n ((s.core n).l1Invalidate (fun l => l.kind = .rc)) else s

/-- Dirty UO lines are written back. -/
def State.drainUo (s : State) (n : Nat) : State :=
  (((s.core n).l1.filter (fun l => l.kind = .uo)).map L1Line.pa).foldl (fun s b => s.l1Clean n b false) s

/-- Every clean translated line of the L1 is invalidated. -/
def State.invalidateAll (s : State) (n : Nat) : State := s.setCore n ((s.core n).l1Invalidate (fun l => l.kind ≠ .so))

/-- FENCE.full adds to a release: dirty UO lines are written back; what must retire before its acquire half. -/
def State.fullActs (s : State) (n x : Nat) (sc : Scope) : List Nat × State :=
  let r := s.releaseActs n x sc
  if Scope.isWide sc then let t := r.2.drainUo n; (t.unacked n ++ r.1, t) else r

/-- And to an acquire: clean UO lines are invalidated. -/
def State.fullEnd (s : State) (n : Nat) (sc : Scope) : State := if Scope.isWide sc then s.invalidateAll n else s

/-- The release of the running context. -/
def release (sc : Scope) : Sem (List Nat) := fun s => .ok (s.releaseActs s.cur.1 s.cur.2 sc)

/-- The context is not ready again until these have retired. -/
def blockOn (ids : List Nat) : Sem Unit := modMy (fun k => { k with block := k.block ++ ids })

/-! ### Translation at issue (R142, R143, R146) -/

/-- A miss in every TLB starts a walk, or joins the one under way for the page, and the instruction issues again when
it has ended; a 65th walk waits. -/
def State.startWalk (s : State) (n x root va : Nat) : State :=
  let d := s.die (dieOf n)
  let page := s.pageAt root va
  match d.walks.find? (fun w => w.root = root && decide (page.1 ≤ w.va) && decide (w.va < page.1 + page.2)) with
  | some w => s.setCtx n x { s.ctx n x with block := w.id :: (s.ctx n x).block }
  | none =>
    if d.walks.length ≥ 64 then s
    else
      let (id, s1) := s.newId
      let s2 := s1.setDie (dieOf n) { s1.die (dieOf n) with walks := d.walks ++ [⟨id, n, root, va / 2 ^ 16 * 2 ^ 16, none⟩] }
      s2.setCtx n x { s2.ctx n x with block := id :: (s2.ctx n x).block }

/-- Translates sz bytes of a page for the running context, with the checks 2 to 5 of R142. -/
def xlate (va sz : Nat) (p : Perm) (faddr : Word) : Sem TlbEnt := fun s =>
  let n := s.cur.1
  let root := s.homePart n
  match s.tlbLook n root va with
  | some t =>
    match s.pageCause t p va (min sz (t.va + t.size - va)) with
    | some c => .error (.raise c faddr)
    | none => .ok (t, if (tlbFind (s.core n).tlb root va).isSome then s else s.tlbInstall n t)
  | none =>
    match s.my.walkFault with
    | some (page, c) => if page = va / 2 ^ 16 then .error (.raise c faddr) else .error (.wait (fun s => s.startWalk n s.cur.2 root va))
    | none => .error (.wait (fun s => s.startWalk n s.cur.2 root va))

/-- The pages of an access: one, or two where it crosses the boundary of its first page (R142). -/
inductive Pages
  | one (t : TlbEnt)
  | two (t u : TlbEnt) (n0 : Nat)
  | cut (t : TlbEnt) (n0 : Nat) (c : BitVec 8)

/-- Translates the pages of an access; a failure on the second page is answered, not raised, since the first part may take
effect (R142). -/
def pages (va sz : Nat) (p : Perm) : Sem Pages := do
  let t ← xlate va sz p (BitVec.ofNat 64 va)
  let stop := t.va + t.size
  if va + sz ≤ stop then pure (.one t)
  else fun s =>
    match xlate stop (va + sz - stop) p (BitVec.ofNat 64 stop) s with
    | .ok (u, s') => .ok (.two t u (stop - va), s')
    | .error (.raise c _) => .ok (.cut t (stop - va) c, s)
    | .error e => .error e

/-- Lines of a physical range. -/
def splitLines (pa : Nat) : Nat → Nat → List (Nat × Nat)
  | 0, _ => []
  | fuel + 1, sz => if sz = 0 then [] else
    let k := min sz (64 - pa % 64)
    (pa, k) :: splitLines (pa + k) fuel (sz - k)

/-- Check 7 of R142: HBM is to deliver data of a line that it cannot correct (R16). -/
def State.eccBad (s : State) (pa sz : Nat) : Bool :=
  (splitLines pa (sz + 1) sz).any (fun p => s.lineBad (lineBase p.1))

def hbmLocs (s : State) (t : TlbEnt) (va sz : Nat) : List (Loc × Nat) :=
  (splitLines (t.phys va) (sz + 1) sz).map (fun p => (.hbm p.1 ((s.keyOf t).getD 0) t.kind t.x, p.2))

/-! ### Loads and stores of a context (R321) -/

/-- The bytes of one piece that the L1 holds, none where it does not hold them all. -/
def Core.l1Piece (c : Core) (p : Nat × Nat) : Option Nat :=
  match l1Find c.l1 (lineBase p.1) with
  | some l =>
    let m := byteMask (p.1 % 64) p.2
    if l.valid &&& m = m then some (l.data.toNat / 256 ^ (p.1 % 64) % 256 ^ p.2) else none
  | none => none

def Loc.pa : Loc → Nat
  | .hbm pa _ _ _ => pa
  | _ => 0

/-- The value in the L1 of all pieces. -/
def Core.l1Value (c : Core) : List (Loc × Nat) → Option Nat
  | [] => some 0
  | (l, k) :: rest =>
    match c.l1Piece (l.pa, k), l1Value c rest with
    | some v, some w => some (v + 256 ^ k * w)
    | _, _ => none

/-- A load's value, or the id of the access that brings it. -/
inductive Got
  | val (v : Nat)
  | later (id : Nat)
deriving DecidableEq, Repr

/-- Sends an access on its way. -/
def send (op : MemOp) (locs : List (Loc × Nat)) (w : Widen) (after : List Nat) (acq : Option Scope)
    (rose : Option RoseRef) (poll : Bool := false) : Sem Nat := fun s =>
  let (id, s1) := s.newId
  .ok (id, s1.fly { id := id, core := s.cur.1, ctx := s.cur.2, op := op, locs := locs, widen := w, after := after
                    acquire := acq, rose := rose, poll := poll })

/-- The own port waits for an earlier access of the core to the same bytes through another path. -/
def ownReady (off sz : Nat) : Sem Unit := fun s =>
  if s.blockedBy s.cur.1 s.nextId [(.scr s.cur.1 off, sz)] then .error (.wait id) else .ok ((), s)

/-- A read through the own port (R108). -/
def ownRead (off sz : Nat) : Sem Nat := fun s => .ok (s.me.scrRead true off sz, s.setMe (s.me.scrServe off sz))

/-- The rows of an accumulator-window access are free in the scoreboard (R117, R129). -/
def Core.rowsBusy (c : Core) (rd wr : BitVec 128) : Bool :=
  c.claims.any (fun k => k.wr &&& (rd ||| wr) ≠ 0 || k.rd &&& wr ≠ 0)

/-- The claim of an access on its rows. -/
def Core.claim (c : Core) (id : Nat) (rd wr : BitVec 128) : Core := { c with claims := c.claims ++ [⟨id, rd, wr⟩] }
def Core.unclaim (c : Core) (id : Nat) : Core := { c with claims := c.claims.filter (fun k => k.id ≠ id) }

/-- Every earlier conflicting access to the rows of a claim has completed. -/
def Core.rowsFree (c : Core) (id : Nat) : Bool :=
  match c.claims.find? (fun k => k.id = id) with
  | none => true
  | some k => (c.claims.takeWhile (fun j => j.id ≠ id)).all (fun j => j.wr &&& (k.rd ||| k.wr) = 0 && j.rd &&& k.wr = 0)

def rowSet (lo n : Nat) : BitVec 128 := BitVec.ofNat 128 ((2 ^ n - 1) * 2 ^ lo)
def accRows (off sz : Nat) : BitVec 128 := rowSet (off / 256) ((off + sz - 1) / 256 - off / 256 + 1)

def Core.accByte (c : Core) (off : Nat) : Nat := (c.row (off / 256)).toNat / 256 ^ (off % 256) % 256
def Core.accRead (c : Core) (off : Nat) : Nat → Nat
  | 0 => 0
  | n + 1 => c.accByte off + 256 * accRead c (off + 1) n
def Core.accWrite (c : Core) (off : Nat) : Nat → Nat → Core
  | 0, _ => c
  | n + 1, v =>
    let r := (c.row (off / 256)).toNat
    let b := 256 ^ (off % 256)
    accWrite (c.setRow (off / 256) (BitVec.ofNat 2048 (r - r / b % 256 * b + v % 256 * b))) (off + 1) n (v / 256)

/-- The releases of a barrier's present descriptor at a core hc that core n has seen: an instance releases every core of its rectangle, so
that the two counts are those of the same instances (R330). -/
def State.relsSeen (s : State) (n hc b : Nat) : Nat :=
  match ((s.core hc).bar b).desc with
  | some w => AMap.getD ((s.core n).bar b).rels w.toNat 0
  | none => 0

/-- The releases of a home's bound barrier that a core has seen (R152). -/
def State.roseNeed (s : State) (n hc hr : Nat) : Nat := s.relsSeen n hc ((s.core hc).rose hr).barrier

/-- The home has made the advances that an access needs; a home that is not bound makes none. -/
def State.roseReady (s : State) (hc hr need : Nat) : Bool :=
  !((s.core hc).rose hr).bound || decide (need ≤ s.relsSeen hc hc ((s.core hc).rose hr).barrier)

/-- What an access of core n through its view `region` takes with it (R150, R152). -/
def roseInfo (s : State) (n region hc hr k o sz : Nat) : RoseRef :=
  let r := (s.core n).rose region
  ⟨hc, hr, k, o, sz, r.base.toNat, r.slots, r.slotbytes, s.roseNeed n hc hr⟩

/-- The context's SO accesses that are not complete. -/
def State.soIds (s : State) (n x : Nat) : List Nat :=
  (s.flight.filter (fun a => a.core = n && a.ctx = x && !a.performed &&
    a.locs.any (fun p => match p.1 with | .hbm _ _ .so _ => true | _ => false))).map Access.id ++
  ((((s.core n).vq ++ (s.core n).vrun).filter (fun v => v.ctx = x && v.lanes.any (fun l =>
    l.2.any (fun p => match p.1 with | .hbm _ _ .so _ => true | _ => false)))).map VCmd.id)

/-- What an SO access comes after: the context's earlier SO accesses (R164). -/
def soAfter (kind : PageKind) : Sem (List Nat) := fun s => .ok (if kind = .so then s.soIds s.cur.1 s.cur.2 else [], s)

/-- The acquire actions of a read that is served at issue. -/
def acquireNow (acq : Option Scope) : Sem Unit :=
  match acq with
  | some sc => modS (fun s => s.acquireActs s.cur.1 sc)
  | none => pure ()

/-- The bytes of one piece are all dirty in the L1. -/
def Core.l1DirtyPiece (c : Core) (p : Loc × Nat) : Bool :=
  match l1Find c.l1 (lineBase p.1.pa) with
  | some l => let m := byteMask (p.1.pa % 64) p.2; decide (l.dirty &&& m = m)
  | none => false

/-- The kind of a piece's page. -/
def Loc.kind : Loc → PageKind
  | .hbm _ _ k _ => k
  | _ => .rc

/-- A load's data on translated pages (R133, R164, R166): from the L1 where it may serve them, or by an access.  Each part of one that
straddles pages is ordered as its own page requires; an acquire read takes from the L1 what is dirty there alone, and where all pages are UO
it orders nothing (R161). -/
def loadPages (locs : List (Loc × Nat)) (w : Widen) (acq : Option Scope) (poll : Bool) (parts : List (Nat × Word)) : Sem Got := do
  let s ← getS
  let n := s.cur.1
  let so := locs.any (fun p => p.1.kind = .so)
  let fresh (p : Loc × Nat) : Bool := (acq.map Scope.isWide).getD false && (p.1.kind = .rc || poll)
  let acq := if locs.all (fun p => p.1.kind = .uo) then none else acq
  match (if so || locs.any (fun p => fresh p && !s.me.l1DirtyPiece p) || s.blockedBy n s.nextId locs then none else s.me.l1Value locs) with
  | some v => do
    modMe (fun c => locs.foldl (fun c p => c.l1Touch (lineBase p.1.pa)) c)
    acquireNow acq
    pure (.val v)
  | none => do
    match locs.find? (fun p => s.eccBad p.1.pa p.2) with
    | some p => raise 0x14 (((parts.filter (fun q => decide (q.1 ≤ (locs.takeWhile (· ≠ p)).length))).getLast?.map Prod.snd).getD 0)
    | none => do
      modMe (fun c => c.l1Invalidate (fun l => locs.any (fun p => fresh p && lineBase p.1.pa = l.pa)))
      let after ← soAfter (if so then .so else .rc)
      pure (.later (← send .read locs w after acq none poll))

/-- A load of sz bytes at ea: plain, an acquire read, or a poll of WAITA (R326), which the L1 serves only where all its bytes are dirty,
whatever the page. -/
def load (ea : Word) (sz : Nat) (w : Widen) (acq : Option Scope) (poll : Bool := false) : Sem Got := do
  let s ← getS
  let n := s.cur.1
  match s.classify n ea.toNat sz with
  | .error c => raise c ea
  | .ok (.own off) => do
    ownReady off sz
    acquireNow acq
    pure (.val (← ownRead off sz))
  | .ok (.mesh m off) => do pure (.later (← send .read [(.scr m off, sz)] w [] acq none poll))
  | .ok (.die d off) => do pure (.later (← send .read [(.die d off, sz)] w [] acq none poll))
  | .ok (.rose r off) =>
    match s.roseResolve n r off sz false with
    | .error c => raise c ea
    | .ok (hc, hr, k, o) =>
      if hc = n then do
        let a := (s.me.rose hr).slotOff k o
        ownReady a sz
        acquireNow acq
        pure (.val (← ownRead a sz))
      else do pure (.later (← send .read [] w [] acq (some (roseInfo s n r hc hr k o sz)) poll))
  | .ok (.aperture off) =>
    if poll then raise 0x11 ea
    else if sz = 8 ∧ off % 8 = 0 then do
      acquireNow acq
      pure (.val (s.me.chan (off / 8)).status.toNat)
    else raise 0x05 ea
  | .ok (.acc off) =>
    if poll then raise 0x11 ea
    else if s.me.rowsBusy (accRows off sz) 0 then notYet
    else do
      acquireNow acq
      pure (.val (s.me.accRead off sz))
  | .ok (.global va) => do
    let pg ← pages va sz .r
    let s ← getS
    match pg with
    | .one t => loadPages (hbmLocs s t va sz) w acq poll [(0, ea)]
    | .two t u n0 =>
      let first := hbmLocs s t va n0
      loadPages (first ++ hbmLocs s u (va + n0) (sz - n0)) w acq poll [(0, ea), (first.length, BitVec.ofNat 64 (va + n0))]
    | .cut t n0 c => do
      -- the first part's last check comes before the second part's
      check ((hbmLocs s t va n0).all (fun p => (s.me.l1Piece (p.1.pa, p.2)).isSome || !s.eccBad p.1.pa p.2)) 0x14 ea
      raise c (BitVec.ofNat 64 (va + n0))

/-- A store that the machine performs at its target, after what its release waits for. -/
def sendStore (v : Nat) (locs : List (Loc × Nat)) (after : List Nat) (rose : Option RoseRef := none) : Sem Unit := do
  let _ ← send (.write (BitVec.ofNat 64 v)) locs (.size .i64) after none rose

/-- A translated store on its pages.  A release write of octet scope or wider on an RC page is performed at its target (R322). -/
def storePiece (t : TlbEnt) (va sz v : Nat) (rel : Option Scope) (after : List Nat) : Sem Unit := do
  let s ← getS
  let through := match rel with | some sc => t.kind = .rc && Scope.isWide sc | none => false
  if t.kind = .so || through || after ≠ [] then do
    let so ← soAfter t.kind
    -- the L1 never holds an SO line; a store that goes to its target leaves no copy behind in the L1
    modS (fun s => (splitLines (t.phys va) (sz + 1) sz).foldl (fun s p => s.l1Clean s.cur.1 (lineBase p.1) true) s)
    sendStore v (hbmLocs s t va sz) (after ++ so)
  else do
    -- an earlier access of the core to the line comes first (R163, coherence)
    if s.l1Blocked s.cur.1 (hbmLocs s t va sz) then notYet else pure ()
    modS (fun s => ((splitLines (t.phys va) (sz + 1) sz).foldl
      (fun p k => (p.1.l1Store p.1.cur.1 k.1 t.key t.kind t.x k.2 p.2, p.2 / 256 ^ k.2)) (s, v)).1)

/-- A store through the own port, at once where no release stands before it. -/
def ownStore (off sz v : Nat) (acts : Sem (List Nat)) : Sem Unit := do
  ownReady off sz
  let after ← acts
  let n := (← getS).cur.1
  if after = [] then modMe (fun c => c.scrWrite off sz v) else sendStore v [(.scr n off, sz)] after

/-- A store to the accumulator window, which claims its rows while a release stands before it (R117, R130). -/
def accStore (off sz v : Nat) (acts : Sem (List Nat)) : Sem Unit := do
  let s ← getS
  if s.me.rowsBusy 0 (accRows off sz) then notYet
  else do
    let after ← acts
    if after = [] then modMe (fun c => c.accWrite off sz v)
    else do
      let id ← send (.write (BitVec.ofNat 64 v)) [(.acc s.cur.1 off, sz)] (.size .i64) after none none
      modMe (fun c => c.claim id 0 (accRows off sz))

/-- A store of the low sz bytes of v at ea; `rel` is the scope of a release write.
A checkpointed convoy's translated stores are refused (R90). -/
def storeTo (ea : Word) (sz : Nat) (v : Nat) (rel : Option Scope) (aperture : Nat → Word → Sem Unit) : Sem Unit := do
  let s ← getS
  let n := s.cur.1
  let v := v % 256 ^ sz
  let acts : Sem (List Nat) := match rel with | some sc => release sc | none => pure []
  match s.classify n ea.toNat sz with
  | .error c => raise c ea
  | .ok (.own off) => ownStore off sz v acts
  | .ok (.mesh m off) => do sendStore v [(.scr m off, sz)] (← acts)
  | .ok (.die d off) => do sendStore v [(.die d off, sz)] (← acts)
  | .ok (.rose r off) =>
    match s.roseResolve n r off sz true with
    | .error c => raise c ea
    | .ok (hc, hr, k, o) =>
      if hc = n then ownStore ((s.me.rose hr).slotOff k o) sz v acts
      else do sendStore v [] (← acts) (some (roseInfo s n r hc hr k o sz))
  | .ok (.aperture off) => if sz = 8 ∧ off % 8 = 0 then do let _ ← acts; aperture (off / 8) (BitVec.ofNat 64 v) else raise 0x05 ea
  | .ok (.acc off) => accStore off sz v acts
  | .ok (.global va) => do
    check (!s.checkpointed n) 0x11 ea
    let pg ← pages va sz .w
    match pg with
    | .one t => do
      let after ← (if t.kind = .uo then pure [] else acts)
      storePiece t va sz v rel after
    | .two t u n0 => do
      let after ← (if t.kind = .uo ∧ u.kind = .uo then pure [] else acts)
      storePiece t va n0 (v % 256 ^ n0) rel after
      storePiece u (va + n0) (sz - n0) (v / 256 ^ n0) rel after
    | .cut t n0 c => do
      let first : Sem Unit := do
        let after ← (if t.kind = .uo then pure [] else acts)
        storePiece t va n0 (v % 256 ^ n0) rel after
      let _ ← first
      fun _ => .error (.raiseKeep c (BitVec.ofNat 64 (va + n0)) (fun s => match first s with | .ok (_, s') => s' | .error _ => s))

end Sys2Proof.Machine
end

