-- ==== Sys2Proof/Machine/Num.lean ====
section
/-! DEFINITION. Number formats and arithmetic (11_numbers.md): exact values, Round and its overflow rule (R237, R238), the
operations (R244 to R247), the conversions (R248). -/

namespace Sys2Proof.Machine

/-! ### Exact values -/

/-- A value of some format: (−1)^neg × m × 2^e, an infinity, or a NaN, which signals or not (R231). -/
inductive FpNum
  | nan (sig : Bool)
  | inf (neg : Bool)
  | fin (neg : Bool) (m : Nat) (e : Int)
deriving DecidableEq, Repr

/-- A floating-point format (R231): width, precision with the leading bit, bias, the largest finite value maxK × 2^maxE,
whether it has infinities, and its canonical NaN. -/
structure FpFmt where
  w : Nat
  p : Nat
  bias : Nat
  maxK : Nat
  maxE : Int
  infs : Bool
  nan : Nat
deriving DecidableEq, Repr

def FpFmt.emin (f : FpFmt) : Int := 1 - f.bias

/-- The formats of R231.  E8M0 rounds with precision 1 and emin −127 (R236). -/
def fpFmt : ElTy → FpFmt
  | .f64 => ⟨64, 53, 1023, 2 ^ 53 - 1, 971, true, 0x7FF8000000000000⟩
  | .f32 => ⟨32, 24, 127, 2 ^ 24 - 1, 104, true, 0x7FC00000⟩
  | .f16 => ⟨16, 11, 15, 2 ^ 11 - 1, 5, true, 0x7E00⟩
  | .bf16 => ⟨16, 8, 127, 2 ^ 8 - 1, 120, true, 0x7FC0⟩
  | .e5m2 => ⟨8, 3, 15, 7, 13, true, 0x7E⟩
  | .e4m3 => ⟨8, 4, 7, 14, 5, false, 0x7F⟩
  | .e2m1 => ⟨4, 2, 1, 3, 1, false, 0⟩
  | _ => ⟨8, 1, 128, 1, 127, false, 0xFF⟩

/-- Two's complement of n bits. -/
def toSigned (v n : Nat) : Int := if v % 2 ^ n < 2 ^ (n - 1) then (v % 2 ^ n : Nat) else (v % 2 ^ n : Nat) - (2 ^ n : Nat)

/-- A signed integer type (R232). -/
def tySigned : ElTy → Bool
  | .i8 | .i16 | .i32 | .i64 => true
  | _ => false

def numOfInt (i : Int) : FpNum := .fin (decide (i < 0)) i.natAbs 0

/-- The integer that a bit pattern of an integer type stands for. -/
def intOf (t : ElTy) (v : Nat) : Int := if tySigned t then toSigned v t.bits else (v % 2 ^ t.bits : Nat)

/-- One term of a D8 byte, in units of 2^−6 (R234). -/
def d8Term (x : Nat) : Int := let c := x % 8; if c = 7 then 0 else (if x / 8 % 2 = 1 then -1 else 1) * ((2 : Int) ^ (6 - c))

/-- The value of a bit pattern (R231 to R236). -/
def numOf (t : ElTy) (v : Nat) : FpNum :=
  if t.isInt then numOfInt (intOf t v)
  else match t with
  | .d8 => let i := d8Term (v / 16) + d8Term v; .fin (decide (i < 0)) i.natAbs (-6)
  | .e8m0 => if v % 256 = 255 then .nan false else .fin false 1 ((v % 256 : Nat) - 127)
  | _ =>
    let f := fpFmt t
    let M := f.p - 1
    let neg := decide (v / 2 ^ (f.w - 1) % 2 = 1)
    let top := 2 ^ (f.w - 1 - M)
    let e := v / 2 ^ M % top
    let m := v % 2 ^ M
    if f.infs && e = top - 1 then (if m = 0 then .inf neg else .nan (decide (m / 2 ^ (M - 1) = 0)))
    else if t = .e4m3 && e = 15 && m = 7 then .nan false
    else if e = 0 then .fin neg m (1 - (f.bias : Int) - M)
    else .fin neg (2 ^ M + m) ((e : Int) - f.bias - M)

def FpNum.isZero : FpNum → Bool
  | .fin _ m _ => m = 0
  | _ => false
def FpNum.isNan : FpNum → Bool
  | .nan _ => true
  | _ => false
def FpNum.isInf : FpNum → Bool
  | .inf _ => true
  | _ => false
def FpNum.isSig : FpNum → Bool
  | .nan s => s
  | _ => false
def FpNum.isNeg : FpNum → Bool
  | .nan _ => false
  | .inf n => n
  | .fin n _ _ => n
def FpNum.negate : FpNum → FpNum
  | .nan s => .nan s
  | .inf n => .inf (!n)
  | .fin n m e => .fin (!n) m e

/-! ### Flags (R240) -/

def fNV : BitVec 5 := 1
def fDZ : BitVec 5 := 2
def fOF : BitVec 5 := 4
def fUF : BitVec 5 := 8
def fNX : BitVec 5 := 16
def nvIf (b : Bool) : BitVec 5 := if b then fNV else 0

/-! ### Rounding (R237, R238) -/

/-- The decision of R237: k is lo / q and rem / 2^sh is f. -/
def roundsUp (mode : RndF) (st : BitVec 32) (neg : Bool) (k rem sh : Nat) : Bool :=
  match mode with
  | .rtz => false
  | .rup => decide (rem ≠ 0) && !neg
  | .rdn => decide (rem ≠ 0) && neg
  | .rna => decide (2 * rem ≥ 2 ^ sh) && decide (rem ≠ 0)
  | .sr => decide (rem * 2 ^ 32 / 2 ^ sh + st.toNat ≥ 2 ^ 32)
  | .rne | .fpsr => decide (2 * rem > 2 ^ sh) || (decide (2 * rem = 2 ^ sh) && decide (k % 2 = 1))

/-- A magnitude m × 2^e on the grid of spacing 2^qe: the multiple, and whether it differs. -/
def onGrid (mode : RndF) (st : BitVec 32) (neg : Bool) (m : Nat) (e qe : Int) : Nat × Bool :=
  if qe ≤ e then (m * 2 ^ (e - qe).toNat, false)
  else
    let sh := (qe - e).toNat
    let k := m / 2 ^ sh
    let rem := m % 2 ^ sh
    (if roundsUp mode st neg k rem sh then k + 1 else k, decide (rem ≠ 0))

def maxInt (a b : Int) : Int := if a < b then b else a

def signBit (f : FpFmt) (neg : Bool) : Nat := if neg then 2 ^ (f.w - 1) else 0

/-- The bits of the largest finite value and of infinity. -/
def FpFmt.maxBits (f : FpFmt) : Nat := ((f.maxE + (f.p : Int) - 1 + f.bias).toNat) * 2 ^ (f.p - 1) + f.maxK - 2 ^ (f.p - 1)
def FpFmt.infBits (f : FpFmt) : Nat := (2 ^ (f.w - f.p) - 1) * 2 ^ (f.p - 1)

/-- R238: the result on overflow. -/
def overflowBits (f : FpFmt) (mode : RndF) (sat neg : Bool) : Nat :=
  let toMax := sat || !f.infs || mode = .rtz || (mode = .rup && neg) || (mode = .rdn && !neg)
  signBit f neg + (if toMax then f.maxBits else f.infBits)

/-- Round(x, F, mode, state) of R237 with the overflow rule and the underflow flag of R238, for x = ±m × 2^e, m ≠ 0. -/
def roundFin (f : FpFmt) (mode : RndF) (st : BitVec 32) (sat neg : Bool) (m : Nat) (e : Int) : Nat × BitVec 5 :=
  let e0 : Int := (Nat.log2 m : Nat) + e
  let ex := maxInt e0 f.emin
  let qe := ex - f.p + 1
  let (k, nx) := onGrid mode st neg m e qe
  if maxInt f.maxE qe ≠ f.maxE || (qe = f.maxE && decide (k > f.maxK)) then
    (overflowBits f mode sat neg, fOF ||| fNX)
  else
    let free := onGrid mode st neg m e (e0 - f.p + 1)
    let tiny := decide (e0 < f.emin) && !(decide (e0 = f.emin - 1) && decide (free.1 = 2 ^ f.p))
    (signBit f neg + ((ex + f.bias).toNat * 2 ^ (f.p - 1) + k - 2 ^ (f.p - 1)),
     (if nx then fNX else 0) ||| (if tiny && nx then fUF else 0))

/-! ### D8 and E8M0 destinations (R234 to R236) -/

/-- The non-negative D8 values in units of 2^−6 (R235). -/
def d8Values : List Nat :=
  [0, 1, 2, 3, 4, 5, 6, 7, 8, 9, 10, 12, 14, 15, 16, 17, 18, 20, 24, 28, 30, 31, 32, 33, 34, 36, 40, 48, 56, 60, 62, 63, 64,
   65, 66, 68, 72, 80, 96, 128]

/-- The number of non-zero terms of a value (R235). -/
def d8Terms (v : Nat) : Nat := if v = 0 then 0 else if v = 128 then 2 else if 2 ^ Nat.log2 v = v then 1 else 2

/-- The canonical encoding of a non-negative value, for its sign (R234). -/
def d8Code (neg : Bool) (v : Nat) : Nat :=
  let s := if neg then 8 else 0
  if v = 0 then 0x77
  else if v = 128 then s * 16 + s
  else if d8Terms v = 1 then (s + (6 - Nat.log2 v)) * 16 + 7
  else
    let pairs := (List.range 7).flatMap (fun c1 => (List.range 7).map (fun c2 => (c1, c2)))
    match pairs.find? (fun p => decide (p.1 < p.2) && decide (2 ^ (6 - p.1) + 2 ^ (6 - p.2) = v)) with
    | some p => (s + p.1) * 16 + (s + p.2)
    | none =>
      match pairs.find? (fun p => decide (p.1 < p.2) && decide (2 ^ (6 - p.1) = v + 2 ^ (6 - p.2))) with
      | some p => (s + p.1) * 16 + (8 - s + p.2)
      | none => 0x77

/-- The nearer of two candidates to m / 2^d, with the ties of R235. -/
def d8Nearer (m d a b : Nat) : Nat :=
  let da := (a * 2 ^ d - m) + (m - a * 2 ^ d)
  let db := (b * 2 ^ d - m) + (m - b * 2 ^ d)
  if da < db then a else if db < da then b
  else if d8Terms a < d8Terms b then a else if d8Terms b < d8Terms a then b else min a b

/-- Conversion to D8 (R235). -/
def toD8 : FpNum → Nat × BitVec 5
  | .nan _ => (0x77, fNV)
  | .inf n => (d8Code n 128, fNV)
  | .fin n m e =>
    let d := (-(e + 6)).toNat
    let x := m * 2 ^ (e + 6).toNat
    if x > 128 * 2 ^ d then (d8Code n 128, fOF ||| fNX)
    else
      let v := d8Values.foldl (fun best c => d8Nearer x d best c) 0
      (d8Code n v, if v * 2 ^ d = x then 0 else fNX)

/-- Conversion to E8M0 (R236). -/
def toE8M0 (mode : RndF) (st : BitVec 32) : FpNum → Nat × BitVec 5
  | .fin false m e =>
    if m = 0 then (0xFF, fNV)
    else if (Nat.log2 m : Nat) + e < -127 then (0, fUF ||| fNX)
    else
      let r := onGrid mode st false m e ((Nat.log2 m : Nat) + e)
      let x := (Nat.log2 m : Nat) + e + (if r.1 = 2 then 1 else 0)
      if x > 127 then (0xFE, fOF ||| fNX) else ((x + 127).toNat, if r.2 then fNX else 0)
  | _ => (0xFF, fNV)

/-! ### Results -/

/-- Encodes an exact result in a format, with the flags its operation has set. -/
def finish (t : ElTy) (mode : RndF) (st : BitVec 32) (sat : Bool) (r : FpNum × BitVec 5) : Nat × BitVec 5 :=
  let f := fpFmt t
  match r.1 with
  | .nan _ => (f.nan, r.2)
  | .inf n => (signBit f n + f.infBits, r.2)
  | .fin n m e => if m = 0 then (signBit f n, r.2) else
    let q := roundFin f mode st sat n m e
    (q.1, q.2 ||| r.2)

/-! ### Exact operations (R244 to R247).  The sign of an exact zero depends on the mode (R245). -/

def anySig (xs : List FpNum) : BitVec 5 := nvIf (xs.any FpNum.isSig)

def exactAdd (mode : RndF) (x y : FpNum) : FpNum × BitVec 5 :=
  if x.isNan || y.isNan then (.nan false, anySig [x, y])
  else match x, y with
  | .inf a, .inf b => if a = b then (.inf a, 0) else (.nan false, fNV)
  | .inf a, _ => (.inf a, 0)
  | _, .inf b => (.inf b, 0)
  | .fin a m e, .fin b n g =>
    let lo := if e < g then e else g
    let u : Int := (if a then -1 else 1) * ((m * 2 ^ (e - lo).toNat : Nat) : Int)
    let v : Int := (if b then -1 else 1) * ((n * 2 ^ (g - lo).toNat : Nat) : Int)
    let t := u + v
    if t = 0 then (.fin (if a = b then a else mode = .rdn) 0 0, 0) else (.fin (decide (t < 0)) t.natAbs lo, 0)
  | _, _ => (.nan false, 0)

def exactMul (x y : FpNum) : FpNum × BitVec 5 :=
  if x.isNan || y.isNan then (.nan false, anySig [x, y])
  else match x, y with
  | .fin a m e, .fin b n g => (.fin (a != b) (m * n) (e + g), 0)
  | _, _ => if x.isZero || y.isZero then (.nan false, fNV) else (.inf (x.isNeg != y.isNeg), 0)

/-- FMULZ and VMULZ (R246). -/
def exactMulZ (x y : FpNum) (sx sy : Bool) : FpNum × BitVec 5 :=
  if x.isZero || y.isZero then (.fin (sx != sy) 0 0, 0) else exactMul x y

/-- The quotient to 128 bits past the point of the format, with a last bit that says whether anything remains. -/
def exactDiv (x y : FpNum) : FpNum × BitVec 5 :=
  if x.isNan || y.isNan then (.nan false, anySig [x, y])
  else
    let s := x.isNeg != y.isNeg
    match x, y with
    | .inf _, .inf _ => (.nan false, fNV)
    | .inf _, _ => (.inf s, 0)
    | _, .inf _ => (.fin s 0 0, 0)
    | .fin _ m e, .fin _ n g =>
      if n = 0 then (if m = 0 then (.nan false, fNV) else (.inf s, fDZ))
      else if m = 0 then (.fin s 0 0, 0)
      else
        let q := m * 2 ^ 192 / n
        (.fin s (2 * q + (if m * 2 ^ 192 % n = 0 then 0 else 1)) (e - g - 193), 0)
    | _, _ => (.nan false, 0)

/-- The integer square root, one bit at a time from bit k. -/
def isqrt (n : Nat) : Nat → Nat → Nat
  | 0, r => r
  | k + 1, r => let c := r + 2 ^ k; isqrt n k (if c * c ≤ n then c else r)

def exactSqrt (x : FpNum) : FpNum × BitVec 5 :=
  match x with
  | .nan s => (.nan false, nvIf s)
  | .inf n => if n then (.nan false, fNV) else (.inf false, 0)
  | .fin n m e =>
    if m = 0 then (.fin n 0 0, 0)
    else if n then (.nan false, fNV)
    else
      let odd := decide (e % 2 = 1)
      let m' := (if odd then 2 * m else m) * 2 ^ 192
      let e' := ((if odd then e - 1 else e) - 192) / 2
      let r := isqrt m' 160 0
      (.fin false (2 * r + (if r * r = m' then 0 else 1)) (e' - 1), 0)

/-- a × b + c with one rounding to follow (R247). -/
def exactFma (mode : RndF) (a b c : FpNum) : FpNum × BitVec 5 :=
  let z := (a.isZero && b.isInf) || (a.isInf && b.isZero)
  if z then (.nan false, fNV)
  else if a.isNan || b.isNan || c.isNan then (.nan false, anySig [a, b, c])
  else exactAdd mode (exactMul a b).1 c

/-! ### Comparison, minimum and maximum (R244, R245) -/

/-- a < b as real values or infinities; false for a NaN. -/
def FpNum.ltb : FpNum → FpNum → Bool
  | .nan _, _ | _, .nan _ => false
  | .inf a, .inf b => a && !b
  | .inf a, _ => a
  | _, .inf b => !b
  | .fin a m e, .fin b n g =>
    let lo := if e < g then e else g
    let u : Int := (if a then -1 else 1) * ((m * 2 ^ (e - lo).toNat : Nat) : Int)
    let v : Int := (if b then -1 else 1) * ((n * 2 ^ (g - lo).toNat : Nat) : Int)
    decide (u < v)

/-- a = b as real values or infinities; −0 equals +0. -/
def FpNum.eqb (a b : FpNum) : Bool := !a.isNan && !b.isNan && !a.ltb b && !b.ltb a

/-- MinimumNumber and MaximumNumber on bit patterns of a format. -/
def minMaxNum (t : ElTy) (wantMax : Bool) (x y : Nat) : Nat × BitVec 5 :=
  let a := numOf t x
  let b := numOf t y
  let fl := anySig [a, b]
  if a.isNan && b.isNan then ((fpFmt t).nan, fl)
  else if a.isNan then (y, fl)
  else if b.isNan then (x, fl)
  else if a.ltb b then (if wantMax then y else x, fl)
  else if b.ltb a then (if wantMax then x else y, fl)
  else if a.isNeg then (if wantMax then y else x, fl)
  else (if wantMax then x else y, fl)

/-! ### Conversions (R248) -/

def clampInt (lo hi v : Int) : Int := if v < lo then lo else if hi < v then hi else v
def tyMin (t : ElTy) : Int := if tySigned t then -(2 ^ (t.bits - 1) : Nat) else 0
def tyMax (t : ElTy) : Int := if tySigned t then (2 ^ (t.bits - 1) : Nat) - 1 else (2 ^ t.bits : Nat) - 1
/-- The low bits of an integer. -/
def lowBits (n : Nat) (v : Int) : Nat := (v % (2 ^ n : Nat)).toNat

def toInt (t : ElTy) (mode : RndF) (st : BitVec 32) : FpNum → Nat × BitVec 5
  | .nan _ => (0, fNV)
  | .inf n => (lowBits t.bits (if n then tyMin t else tyMax t), fNV)
  | .fin n m e =>
    let r := onGrid mode st n m e 0
    let v : Int := if n then -(r.1 : Int) else r.1
    if v < tyMin t then (lowBits t.bits (tyMin t), fNV)
    else if tyMax t < v then (lowBits t.bits (tyMax t), fNV)
    else (lowBits t.bits v, if r.2 then fNX else 0)

/-- A float or E8M0 value to a floating-point format other than D8 and E8M0. -/
def toFp (t : ElTy) (mode : RndF) (st : BitVec 32) (sat : Bool) (x : FpNum) : Nat × BitVec 5 :=
  let f := fpFmt t
  match x with
  | .nan s => if t = .e2m1 then (0, fNV) else (f.nan, nvIf s)
  | .inf n =>
    if t = .e2m1 then (signBit f n + f.maxBits, fNV)
    else if t = .e4m3 then (signBit f n + 0x7F, fNV)
    else (signBit f n + f.infBits, 0)
  | .fin n m e => finish t mode st sat (.fin n m e, 0)

/-- Conversion of a bit pattern from one type to another.  Equal types copy the bits. -/
def convert (src dst : ElTy) (mode : RndF) (st : BitVec 32) (sat : Bool) (v : Nat) : Nat × BitVec 5 :=
  let v := v % 2 ^ src.bits
  if src = dst then (v, 0)
  else if src.isInt && dst.isInt then
    let i := intOf src v
    (lowBits dst.bits (if sat && decide (dst.bits ≤ src.bits) then clampInt (tyMin dst) (tyMax dst) i else i), 0)
  else if dst.isInt then toInt dst mode st (numOf src v)
  else match dst with
    | .d8 => toD8 (numOf src v)
    | .e8m0 => toE8M0 mode st (numOf src v)
    | _ => toFp dst mode st sat (numOf src v)

/-! ### The seed of stochastic rounding (R239) -/

def xorshift (x : BitVec 32) : BitVec 32 :=
  let a := x ^^^ (x <<< 13)
  let b := a ^^^ (a >>> 17)
  b ^^^ (b <<< 5)

/-- The state of lane i. -/
def laneSeed (seed : BitVec 32) (i : Nat) : BitVec 32 := seed ^^^ BitVec.ofNat 32 (i * 0x9E3779B9)

/-- The mode of FPSR.RM (R240). -/
def rmOf (x : BitVec 3) : RndF :=
  match x.toNat with
  | 0 => .rne | 1 => .rtz | 2 => .rdn | 3 => .rup | 4 => .rna | 5 => .sr
  | _ => match (Config.reservedRm x).toNat % 6 with
    | 0 => .rne | 1 => .rtz | 2 => .rdn | 3 => .rup | 4 => .rna | _ => .sr

/-- ModeOf(RND) (R237). -/
def modeOf (r : RndF) (fpsr : Word) : RndF :=
  match r with
  | .fpsr => rmOf (fpsr.extractLsb' 16 3)
  | r => r

/-! ### FP32 steps of folds and atomics: RoundRNE, subnormals kept, canonical NaN (R17, R192, R252) -/

def addRne (t : ElTy) (x y : Nat) : Nat × BitVec 5 := finish t .rne 0 false (exactAdd .rne (numOf t x) (numOf t y))
def mulRne (t : ElTy) (x y : Nat) : Nat × BitVec 5 := finish t .rne 0 false (exactMul (numOf t x) (numOf t y))
def subRne (t : ElTy) (x y : Nat) : Nat × BitVec 5 := finish t .rne 0 false (exactAdd .rne (numOf t x) (numOf t y).negate)

end Sys2Proof.Machine
end

