-- ==== Sys2Proof/Machine/Operands.lean ====
section
/-! DEFINITION. Operands: which an instruction names, when they are ready (R98, R99, R112), what a source reads (R259 to R261)
and what a destination write does (R109, R288). -/

namespace Sys2Proof.Machine

/-! ### The operands an instruction names -/

/-- The fields of an instruction with their roles, in the order A, B, C, D. -/
def fieldsOf (i : Instr) : List (Opnd × Use) :=
  match i.mods?, i.desc? with
  | some m, some x =>
    let r := i.raw m
    let ab := (r.fields x).dropLast.map (fun p => (Opnd.ofBitsD p.1, p.2))
    let d := ((r.fields x).getLast?.toList).map (fun p => (Opnd.ofBitsD p.1, p.2))
    (ab ++ (if m.len.ext then [(Opnd.ofBitsD r.eC, x.c)] else []) ++ d).filter (fun p => Raw.Use.isOpnd p.2)
  | _, _ => []

/-- The link, stack and frame registers (R104). -/
def lk : Opnd := .g 31
def sp : Opnd := .g 30
def fp : Opnd := .g 29

/-- The registers that an instruction reads or writes without naming them in a field (R300, R303). -/
def implicitOpnds : Instr → List Opnd
  | .call _ _ | .callr _ _ | .ret _ => [lk]
  | .enter _ _ | .leave _ => [sp, lk, fp]
  | _ => []

/-- A field that is read. -/
def readsField : Use → Bool
  | .src | .base | .dsrcdst | .ctr => true
  | _ => false

def writesField : Use → Bool
  | .dst | .dsrcdst | .ctr => true
  | _ => false

def Opnd.isQ : Opnd → Bool
  | .q _ => true
  | _ => false

/-- Cause 0x43 (R113, R260, R291, R305): a queue as a memory base or index, as LOOP's counter, as INS's destination, or as an
operand of WSPX or HSTART.  HSTART's destination D may be a queue: R305 names A and B alone, R113 any operand (DEDUCED, log entry 116). -/
def queueMisuse (i : Instr) : Bool :=
  (fieldsOf i).any (fun p => Opnd.isQ p.1 && (p.2 = .base || p.2 = .ctr || p.2 = .dsrcdst)) ||
  (match i with
   | .ldx _ _ _ b _ | .stx _ _ _ b _ => Opnd.isQ b
   | .wspx d a _ => Opnd.isQ d || Opnd.isQ a
   | .hstart _ a b _ => Opnd.isQ a || Opnd.isQ b
   | _ => false)

/-! ### Readiness -/

/-- A register whose value has not been produced (R99); writing one waits as reading one does. -/
def Ctx.pending (k : Ctx) (o : Opnd) : Bool :=
  match o with
  | .lr => k.lrPend.isSome
  | .g _ | .o _ => k.pend.any (fun p => p.d = o)
  | _ => false

def Ctx.operandsReady (k : Ctx) (i : Instr) : Bool :=
  (fieldsOf i).all (fun p => !(k.pending p.1 && (readsField p.2 || p.1 ≠ .lr))) && (implicitOpnds i).all (fun o => !k.pending o)

/-- The results that an instruction awaits. -/
def Ctx.awaits (k : Ctx) (i : Instr) : List Nat :=
  ((((fieldsOf i).filter (fun p => readsField p.2 || p.1 ≠ .lr)).map Prod.fst) ++ implicitOpnds i).flatMap (fun o =>
    match o with
    | .lr => k.lrPend.toList
    | _ => (k.pend.filter (fun p => p.d = o)).map Pend.id)

/-- How often a queue is popped and pushed (R112). -/
def popsOf (i : Instr) (q : Nat) : Nat :=
  ((fieldsOf i).filter (fun p => readsField p.2 && match p.1 with | .q n => n.toNat = q | _ => false)).length
def pushesOf (i : Instr) (q : Nat) : Nat :=
  ((fieldsOf i).filter (fun p => writesField p.2 && match p.1 with | .q n => n.toNat = q | _ => false)).length

/-- The check of R112: none when it passes, else the queue and whether its write side fails it. -/
def Core.queueCheck (c : Core) (i : Instr) : Option (Nat × Bool) :=
  (List.range 8).findSome? (fun q =>
    let pops := popsOf i q
    let pushes := pushesOf i q
    if (c.q q).written < pops then some (q, false)
    else if (c.q q).count - pops + pushes > 8 then some (q, true)
    else none)

/-! ### Sources -/

/-- The type that a source is read by (R261). -/
inductive SrcTy
  | int | f32 | f64
deriving DecidableEq, Repr

def srcTyOf : ElTy → SrcTy
  | .f32 => .f32 | .f64 => .f64 | _ => .int

/-- The context is in an instruction that has issued and has not completed. -/
def Ctx.begun (k : Ctx) : Bool := k.doing.isSome

/-- The value of an immediate (R261). -/
def immValue (v : BitVec 5) : SrcTy → Word
  | .int => v.signExtend 64
  | .f32 => BitVec.ofNat 64 (finish .f32 .rne 0 false (numOfInt v.toInt, 0)).1
  | .f64 => BitVec.ofNat 64 (finish .f64 .rne 0 false (numOfInt v.toInt, 0)).1

/-- Src(f, T) (R288): a g read goes through the main file, a queue pops.  An instruction that has issued has read its operands. -/
def src (o : Opnd) (m : Mods) (t : SrcTy := .int) : Sem Word := fun s =>
  if s.my.begun then .ok (s.my.held.headD 0, s.setMy { s.my with held := s.my.held.tail })
  else match o with
  | .g n =>
    let a := gAddr s.my.wsp n.toNat
    .ok (s.me.gWord a, s.setMe (s.me.gTouch a))
  | .o n => .ok (s.my.o.get n.toFin, s)
  | .lr => .ok (s.my.lr, s)
  | .q n =>
    let q := s.me.q n.toNat
    match q.ents with
    | ⟨_, some v⟩ :: _ => .ok (v, s.setMe (s.me.setQ n.toNat (q.pop s.cur.2)))
    | _ => .error (.wait id)
  | .zr => .ok (0, s)
  | .lit => .ok (m.lit, s)
  | .imm v => .ok (immValue v t, s)

/-- The operands that an instruction reads as it issues, in the order A, B, C, D (R112). -/
def readOperands (i : Instr) (m : Mods) : Sem (List Word) := ((fieldsOf i).filter (fun p => readsField p.2)).mapM (fun p => src p.1 m)

/-! ### Destinations -/

/-- The queue that an instruction pushes its result to. -/
def destQueue (i : Instr) : Option Nat :=
  (fieldsOf i).findSome? (fun p => if writesField p.2 then (match p.1 with | .q n => some n.toNat | _ => none) else none)

/-- The running context reserves the tail entry of its result's queue (R112); none where there is no room. -/
def State.reserveTail (s : State) (i : Instr) : Option State :=
  match destQueue i with
  | none => some s
  | some q =>
    if s.my.tail.isSome then some s
    else if 8 ≤ (s.me.q q).count then none
    else
      let (id, s1) := s.newId
      let s2 := s1.setMe (s1.me.setQ q ((s1.me.q q).push s1.cur.2 id none))
      some (s2.setMy { s2.my with tail := some (q, id) })

/-- An entry reserved for a result that does not come is released (R210). -/
def State.dropTail (s : State) (n x : Nat) : State :=
  match (s.ctx n x).tail with
  | none => s
  | some (q, id) =>
    let s1 := s.setCore n ((s.core n).setQ q (((s.core n).q q).cancel id))
    s1.setCtx n x { s1.ctx n x with tail := none }

/-- A write of a register, without lr. -/
def State.writeReg (s : State) (n x : Nat) (o : Opnd) (v : Word) : State :=
  match o with
  | .g k => s.setCore n ((s.core n).gWrite (gAddr (s.ctx n x).wsp k.toNat) v)
  | .o k => s.setCtx n x { s.ctx n x with o := (s.ctx n x).o.set k.toNat v k.isLt }
  | .lr => s.setCtx n x { s.ctx n x with lr := v }
  | .q k => s.setCore n ((s.core n).setQ k.toNat (((s.core n).q k.toNat).push x 0 (some v)))
  | _ => s

/-- lr takes the most recent scalar result (R109). -/
def State.writeLr (s : State) (n x : Nat) (v : Word) : State :=
  s.setCtx n x { s.ctx n x with lr := v, lrPend := none }

/-- The queue entry reserved as the instruction issued (R112). -/
def Ctx.tailNow (k : Ctx) : Option (Nat × Nat) := if k.begun then k.tail else none

/-- Dst(f, v) (R288): a queue entry reserved as the instruction issued takes the value. -/
def dst (o : Opnd) (v : Word) : Sem Unit := modS (fun s =>
  let s1 := match s.my.tailNow with
    | some (q, id) => let s' := s.setMe (s.me.setQ q ((s.me.q q).fill id v)); s'.setMy { s'.my with tail := none }
    | none => s.writeReg s.cur.1 s.cur.2 o v
  s1.writeLr s.cur.1 s.cur.2 v)

/-- A destination whose value comes later under an id (R99, R112): a queue entry is reserved, and lr waits too. -/
def dstLater (o : Opnd) (id : Nat) : Sem Unit := modS (fun s =>
  let s1 := match o with
    | .q k => s.setMe (s.me.setQ k.toNat ((s.me.q k.toNat).push s.cur.2 id none))
    | _ => s
  s1.setMy { s1.my with pend := s1.my.pend ++ [⟨id, o⟩], lrPend := some id })

/-- The value of a pending destination arrives. -/
def State.deliver (s : State) (n x id : Nat) (v : Word) : State :=
  match (s.ctx n x).pend.find? (fun p => p.id = id) with
  | none => s
  | some p =>
    let s1 := match p.d with
      | .q k => s.setCore n ((s.core n).setQ k.toNat (((s.core n).q k.toNat).fill id v))
      | .lr => s
      | d => s.writeReg n x d v
    let k := s1.ctx n x
    s1.setCtx n x { k with
      pend := k.pend.filter (fun p => p.id ≠ id)
      lr := if k.lrPend = some id then v else k.lr
      lrPend := if k.lrPend = some id then none else k.lrPend }

/-! ### Widening (R266, R267) -/

/-- Extend(x, T) for an integer type, and a float's bits with zero above. -/
def extendTy (t : ElTy) (v : Nat) : Word := if t.isInt then BitVec.ofInt 64 (intOf t v) else BitVec.ofNat 64 (v % 2 ^ t.bits)

def Sz.ty : Sz → ElTy
  | .i8 => .i8 | .n8 => .n8 | .i16 => .i16 | .n16 => .n16 | .i32 => .i32 | .n32 => .n32 | .i64 => .i64

/-- Bytes(size) (R267). -/
def Sz.bytes (z : Sz) : Nat := (Sz.ty z).bits / 8

def widen (w : Widen) (v : Nat) : Word :=
  match w with
  | .size z => extendTy (Sz.ty z) v
  | .ty t => extendTy t v

/-- Retires an id: what waited for it no longer does (R166). -/
def State.retire (s : State) (id : Nat) : State :=
  let rm (l : List Nat) : List Nat := l.filter (· ≠ id)
  { s with
    flight := s.flight.map (fun a => { a with after := rm a.after })
    parts := s.parts.map (fun p => (p.1, { p.2 with svc := p.2.svc.map (fun r => { r with after := rm r.after }) }))
    noc := s.noc.map (fun i =>
      let l := rm i.after
      { i with after := l, due := if i.due.isNone && l.isEmpty then some (s.mesh + i.dist) else i.due })
    cores := s.cores.map (fun p => (p.1, { p.2 with
      vq := p.2.vq.map (fun v => { v with after := rm v.after })
      mq := p.2.mq.map (fun v => { v with after := rm v.after })
      ctxs := p.2.ctxs.map (fun k => if k.block.contains id then { k with block := rm k.block } else k)
      sendq := p.2.sendq.map (fun c => match c with
        | .msg d b h l a => .msg d b h l (rm a)
        | .fix h t r a l => .fix h t r a (rm l))
      chans := p.2.chans.map (fun q => (q.1, { q.2 with
        queue := q.2.queue.map (fun c => { c with after := rm c.after })
        running := q.2.running.map (fun c => { c with after := rm c.after }) })) })) }

/-- Puts a message on the mesh. -/
def State.post (s : State) (m : NocMsg) (after : List Nat) (dist : Nat) : State :=
  let (id, s1) := s.newId
  { s1 with noc := s1.noc ++ [{ id := id, m := m, after := after, dist := dist
                                due := if after = [] then some (s1.mesh + dist) else none }] }

end Sys2Proof.Machine
end

