-- ==== Sys2Proof/Machine/Ops.lean ====
section
/-! DEFINITION. The operations that all families share: trace and pilot events, halting a context (R198, R199), raising a cause
(R209, R211), returning from a handler (R212), issuing an instruction (R98, R264) and the wait instructions' frame (R204, R206). -/

namespace Sys2Proof.Machine

/-! ### Trace (R223, R224) and pilot events -/

/-- Trace records can be made: tracing is enabled, the ring is not full under STOPFULL, and no write that clears EN waits. -/
def State.traceable (s : State) (n : Nat) : Bool :=
  (s.reg (Pf.dbg n 0x188)).getLsbD 0 && !(s.core n).trFull && (s.core n).trOff.isNone

/-- Start source 0, which holds in every cycle (R224). -/
def State.startAlways (s : State) (n : Nat) : Bool := bitsOf (s.reg (Pf.dbg n 0x1C0)) 0 5 = 0

/-- Tracing is on, or its start source turns it on in this cycle. -/
def State.tracing (s : State) (n : Nat) : Bool :=
  s.traceable n && ((s.reg (Pf.dbg n 0x188)).getLsbD 4 || s.startAlways n)

/-- Start holds: tracing is on from this cycle (R224, step 1). -/
def State.traceHold (s : State) (n : Nat) : State :=
  if s.tracing n then s.setReg (Pf.dbg n 0x188) (s.reg (Pf.dbg n 0x188) ||| 0x10) else s

/-- The cycle of a record. -/
def recCycle (r : Word × Word) : Nat := bitsOf r.1 0 56

/-- A record takes its place in the buffer: after those of earlier cycles, and among its own cycle's in ascending context and kind
(R223). -/
def traceInsert (l : List (Word × Word)) (r : Word × Word) : List (Word × Word) :=
  let key (w : Word) : Nat := bitsOf w 56 4 * 16 + bitsOf w 60 4
  let stays (e : Word × Word) : Bool := recCycle e ≠ recCycle r || decide (key e.1 ≤ key r.1)
  l.takeWhile stays ++ r :: l.dropWhile stays

/-- A record is offered to the trace buffer; the last of those that do not fit is counted in LOST. -/
def State.traceAdd (s : State) (n : Nat) (r : Word × Word) : State :=
  let a := Pf.dbg n 0x188
  let c := s.core n
  let s1 := s.setCore n { c with trace := (traceInsert c.trace r).take 8 }
  if c.trace.length < 8 then s1 else s1.setRegF a 32 32 (min (s1.regF a 32 32 + 1) 0xFFFFFFFF)

/-- An event of a selected kind is recorded while tracing is on, or is on in its cycle (R224). -/
def State.traceRec (s : State) (n x kind : Nat) (d1 : Word) : State :=
  let t := s.reg (Pf.dbg n 0x188)
  let r : Word × Word := (BitVec.ofNat 64 (kind * 2 ^ 60 + x * 2 ^ 56 + s.cyc % 2 ^ 56), d1)
  let c := s.core n
  if !t.getLsbD (kind + 4) || !t.getLsbD 0 then s
  else if s.tracing n then s.traceAdd n r
  else s.setCore n { c with missed := c.missed.filter (fun e => recCycle e = s.cyc % 2 ^ 56) ++ [r] }

/-- A start source fires on a core: tracing turns on, and what the cycle has brought before is recorded. -/
def State.traceStart (s : State) (n : Nat) : State :=
  let u := s.setReg (Pf.dbg n 0x188) (s.reg (Pf.dbg n 0x188) ||| 0x10)
  let now := (u.core n).missed.filter (fun e => recCycle e = u.cyc % 2 ^ 56)
  if u.tracing n then now.foldl (fun u r => u.traceAdd n r) (u.setCore n { u.core n with missed := [] }) else u

/-- A stop source fires: tracing turns off once the cycle's events are recorded. -/
def State.traceStop (s : State) (n : Nat) : State := s.setCore n { s.core n with trStop := true }

/-- A source with one of the codes of R224 fires on a core. -/
def State.trigger (s : State) (n code : Nat) : State :=
  let t := s.reg (Pf.dbg n 0x1C0)
  let s1 := if bitsOf t 0 5 = code ∧ code ≠ 0 then s.traceStart n else s
  if bitsOf t 8 5 = code ∧ code ≠ 0 then s1.traceStop n else s1

/-! ### The SFU requests of a descheduled context (R120) -/

/-- Unstarted requests leave the octet's queue and are held in the core. -/
def State.withdraw (s : State) (n x : Nat) : State :=
  let o := s.octet (octetOf n)
  let mine (p : Nat × VCmd) : Bool := p.1 = n && p.2.ctx = x
  let s1 := s.setOctet (octetOf n) { o with sfuq := o.sfuq.filter (fun p => !mine p) }
  s1.setCtx n x { s1.ctx n x with heldSfu := (s1.ctx n x).heldSfu ++ (o.sfuq.filter mine).map Prod.snd }

/-- They rejoin at the tail before the context's next instruction. -/
def State.rejoin (s : State) (n x : Nat) : State :=
  let k := s.ctx n x
  if k.heldSfu = [] then s
  else
    let o := s.octet (octetOf n)
    (s.setOctet (octetOf n) { o with sfuq := o.sfuq ++ k.heldSfu.map (fun v => (n, v)) }).setCtx n x { k with heldSfu := [] }

/-! ### Halting (R198, R199, R106) -/

/-- The record's doublewords. -/
def haltRec (id x : Nat) (c : BitVec 8) (pc : Word) (u : Option Upstream) : HaltRec :=
  let arr := match u with | some v => if v.arrived then 1 else 0 | none => 0
  let d0 := id * 2 ^ 16 + x * 2 ^ 12 + arr * 2 ^ 10 + (if c = 0xA0 then 1 else 0) * 2 ^ 9 + 2 ^ 8 + c.toNat
  match u with
  | none => ⟨BitVec.ofNat 64 d0, pc, 0, 0⟩
  | some v =>
    ⟨BitVec.ofNat 64 d0, pc, BitVec.ofNat 64 (v.kind * 2 ^ 60 + v.obj % 2 ^ 60),
     match v.up with
     | some (n, y, h) => BitVec.ofNat 64 (h * 2 ^ 16 + y * 2 ^ 12 + coreY n * 2 ^ 5 + coreX n)
     | none => BitVec.ofNat 64 (2 ^ 10)⟩

/-- Where a context's record lies (R200). -/
def State.recAddr (s : State) (n x : Nat) : Nat :=
  bitsOf (s.reg (Pf.hltBase (partOf n))) 16 40 * 2 ^ 16 + (coreIdx n * 11 + x) * 32

/-- The record is kept in the core, and written to the table where that has a page (R410). -/
def State.storeRec (s : State) (n x : Nat) (r : HaltRec) : State :=
  let s1 := s.setCtx n x { s.ctx n x with hrec := r }
  s1.tableStore (partOf n) (Pf.hltBase (partOf n)) (s1.recAddr n x)
    (leBytes 8 r.d0.toNat ++ leBytes 8 r.d1.toNat ++ leBytes 8 r.d2.toNat ++ leBytes 8 r.d3.toNat)

/-- A waiting MRECVR that ends another way gives its reserved entries back (R210, R336). -/
def State.dropResv (s : State) (n x : Nat) : State :=
  match (s.ctx n x).resv with
  | none => s
  | some (q, id) =>
    let s1 := s.setCore n ((s.core n).setQ q ((((s.core n).q q).cancel id).cancel (id + 1)))
    s1.setCtx n x { s1.ctx n x with resv := none }

/-- A context that stops waiting for a chunk withdraws its request, and asks again if it goes on. -/
def State.dropAsk (s : State) (n x : Nat) : State :=
  let p := s.homePart n
  if (s.ctx n x).wait.any (fun w => w.on = .chart) then
    let s1 := s.setPart p { s.part p with reqs := (s.part p).reqs.filter (fun r => !(r.core = n && r.ctx = x && r.op = .card)) }
    s1.setCtx n x { s1.ctx n x with wait := none }
  else s

/-- A context loses its place in what it has waited for: queue entries, SFU requests that have not started, a request for a chunk. -/
def State.leaveWait (s : State) (n x : Nat) : State := (((s.withdraw n x).dropResv n x).dropTail n x).dropAsk n x

/-- A halt gets its id in the cycle in which it is taken, and counts from then on (R199, R201). -/
def State.haltCount (s : State) (n : Nat) : Nat × State :=
  let a := Pf.hltStat (partOf n)
  let id := s.regF a 0 48
  (id, s.setReg a (BitVec.ofNat 64 ((s.regF a 48 16 + 1) * 2 ^ 48 + (id + 1) % 2 ^ 48)))

/-- The halt is recorded, and the context is HALTED from then on (R198, R199). -/
def State.haltEnd (s : State) (n x id : Nat) (c : BitVec 8) (pc : Word) (u : Option Upstream) : State :=
  let s4 := s.storeRec n x (haltRec id x c pc u)
  let s6 := s4.setCtx n x { s4.ctx n x with st := .halted, halting := none, haltAs := none }
  let e := Pf.hltEvt (partOf n)
  let s7 := if c = 0xA0 then s6.setRegF e 32 32 (min (s6.regF e 32 32 + 1) 0xFFFFFFFF)
    else ((s6.setReg e (s6.reg e ||| 1)).pilotEvent 1 (BitVec.ofNat 64 (n * 16 + x)) (BitVec.ofNat 64 (id * 256 + c.toNat))).taskHalted n x c
  (s7.trigger n 18).traceRec n x 3 (BitVec.ofNat 64 (c.toNat * 2 ^ 48 + id))

/-- The halt is taken: registers are written back, and the record follows once the release of R170 is complete. -/
def State.halt (s : State) (n x : Nat) (c : BitVec 8) (pc : Word) (u : Option Upstream) : State :=
  let s1 := s.leaveWait n x
  let k := s1.ctx n x
  let w := if c = 0x96 then k.wait
    else if (u.map Upstream.arrived).getD false then k.wait.map (fun w => { w with elapsed := 0, expired := false }) else none
  let s2 := s1.setCtx n x { k with pc := pc, wait := w, walkFault := none, delayTo := 0, haltReq := false }
  let (ids, s3) := (s2.setCore n ((s2.core n).writeBackAll x)).releaseActs n x .sys
  let (id, s4) := s3.haltCount n
  if ids = [] then s4.haltEnd n x id c pc u
  else s4.setCtx n x { s4.ctx n x with halting := some (c, pc, u), haltAs := some id, block := (s4.ctx n x).block ++ ids }

/-! ### Raising a cause (R209, R211) -/

/-- The causes that go to the context's own handler. -/
def ownCause (c : BitVec 8) : Bool :=
  (0x30 ≤ c && c ≤ 0x3F) || c = 0x40 || 0xF0 ≤ c

/-- The cause is taken in the context's own handler. -/
def Ctx.takesTrap (k : Ctx) (c : BitVec 8) : Bool := ownCause c && k.tvec ≠ 0 && !k.cause.getLsbD 8

/-- Trap entry. -/
def Ctx.enterTrap (k : Ctx) (c : BitVec 8) (f a : Word) (len : Nat) : Ctx :=
  { k with
    epc := if 0xF0 ≤ c then a + BitVec.ofNat 64 (4 * len) else a
    cause := BitVec.ofNat 64 (len * 2 ^ 12 + 2 ^ 8 + c.toNat)
    faddr := f, pc := k.tvec, wait := none, walkFault := none, doing := none, held := [], pass := false }

/-- The PC that a halt with this cause saves (R198): the faulting instruction, or the one after TRAP or HALT. -/
def savedPc (c : BitVec 8) (a : Word) (len : Nat) : Word := if 0xF0 ≤ c || c = 0xA1 then a + BitVec.ofNat 64 (4 * len) else a

/-- A cause raised in context x of core n at the instruction at a, of len words. -/
def State.causeIn (s : State) (n x : Nat) (c : BitVec 8) (f a : Word) (len : Nat) : State :=
  let k := s.ctx n x
  if k.takesTrap c then (s.leaveWait n x).setCtx n x (((s.leaveWait n x).ctx n x).enterTrap c f a len)
  else
    let s1 := s.setCtx n x { k with cause := (k.cause &&& 0xFF00) ||| c.setWidth 64, faddr := f }
    s1.halt n x c (savedPc c a len) none

/-- An instruction takes the issue slot of the cycle (R97). -/
def State.takeSlot (s : State) (n x : Nat) : State := s.setCtx n x { s.ctx n x with lastIssue := some s.cyc }

/-- A cause raised by an instruction, which has the issue slot. -/
def State.raiseIn (s : State) (n x : Nat) (c : BitVec 8) (f a : Word) (len : Nat) : State :=
  (s.takeSlot n x).causeIn n x c f a len

/-- Return from the handler (R212). -/
def Ctx.eret (k : Ctx) : Ctx := { k with pc := k.epc, cause := k.cause &&& 0xFFFFFFFFFFFFFEFF#64 }

/-! ### Issuing (R97, R98, R264) -/

/-- The guard holds, or there is none (R263, R264). -/
def Ctx.guardOn (k : Ctx) (m : Mods) : Bool := !m.gen || (k.p.getLsbD m.gpred.toNat != m.gsense)

/-- NextPC (R288). -/
def nextPc (a : Word) (m : Mods) : Word := a + BitVec.ofNat 64 (4 * m.len.words)

/-- A context that does not issue waits; for a queue operand the wait is on the queue (R202). -/
def Ctx.waiting (k : Ctx) (w : WaitOn) : Ctx :=
  match k.wait with
  | some v => if v.on = w then k else { k with wait := some { on := w } }
  | none => { k with wait := some { on := w } }

/-- What happens as the context issues: held SFU requests rejoin, and the issue counts for R97. -/
def State.beginIssue (s : State) : State :=
  let s1 := s.rejoin s.cur.1 s.cur.2
  s1.setMy { s1.my with lastIssue := some s.cyc }

/-- The running instruction has completed its issue: it is in no wait. -/
def State.endIssue (s : State) : State :=
  s.setMy { s.my with wait := none, walkFault := none, pass := false, doing := none, held := [], tail := none }

/-- The running instruction issues and is blocked: its operands are read, `g` is what its wait leaves, and its result's queue entry is
reserved (R98, R112). -/
def State.beginWait (s : State) (i : Instr) (m : Mods) (g : State → State) : State :=
  match readOperands i m s.beginIssue with
  | .ok (vs, t) =>
    let t1 := g (t.setMy { t.my with doing := some i, held := vs })
    (t1.reserveTail i).getD t1
  | .error _ => s

/-- Cause 0x03 that an instruction raises whatever its operands are, and so also where its guard does not hold (R264, log entry 89). -/
def offCause (i : Instr) (k : Ctx) : Bool :=
  match i with
  | .swr .wsp _ _ | .swr .cyc _ _ | .swr .gang _ _ | .swr .tcbi _ _ => true
  | .eret _ => !k.cause.getLsbD 8
  | _ => false

/-- Halts of 0xA0 are off in the partition (R204, R217). -/
def State.noSpread (s : State) (n : Nat) : Bool := (s.reg (Pf.hltCtl (partOf n))).getLsbD 0

/-- A halt with cause 0xA0 (R204): CODE and FADDR are set as for every cause, and the PC saved is the wait's. -/
def State.haltWithheld (s : State) (n x : Nat) (u : Upstream) : State :=
  let k := s.ctx n x
  (s.setCtx n x { k with cause := (k.cause &&& 0xFF00) ||| 0xA0, faddr := 0 }).halt n x 0xA0 k.pc (some u)

/-! ### Withheld queues (R202) -/

/-- The halt id of a context that counts as halted: from the cycle in which its halt is taken (R201). -/
def State.haltId (s : State) (n x : Nat) : Option Nat :=
  if (s.ctx n x).st = .halted then some (bitsOf (s.ctx n x).hrec.d0 16 48) else (s.ctx n x).haltAs

/-- The record of a halt, as it stands or is still to be written. -/
def Ctx.record (k : Ctx) (x : Nat) : HaltRec :=
  match k.halting, k.haltAs with
  | some (c, pc, u), some id => haltRec id x c pc u
  | _, _ => k.hrec

/-- The halted one with the lowest halt id. -/
def State.lowestHalt (s : State) (cs : List (Nat × Nat)) : Option (Nat × Nat × Nat) :=
  cs.foldl (fun best c =>
    match s.haltId c.1 c.2, best with
    | some h, some (n, x, g) => if h < g then some (c.1, c.2, h) else some (n, x, g)
    | some h, none => some (c.1, c.2, h)
    | none, b => b) none

/-- A record names halt id of partition p as upstream. -/
def upstreamIs (p id : Nat) (r : HaltRec) : Bool :=
  bitsOf r.d2 60 4 ≠ 0 && !r.d3.getLsbD 10 && bitsOf r.d3 16 48 = id && partOf (coreAt (bitsOf r.d3 0 5) (bitsOf r.d3 5 5)) = p

/-- A halt whose release is under way: the halt it names as upstream has been released, and its own release follows in the next mesh
cycle (R207). -/
def State.freeing (s : State) (n x : Nat) : Bool :=
  s.parts.any (fun p => p.2.chain.any (fun e => upstreamIs p.1 e.1 ((s.ctx n x).record x)))

/-- The one that withholds an object of which every participant is awaited: a participant whose release is under way does not, as the
table of R208 shows for a barrier. -/
def State.withholder (s : State) (cs : List (Nat × Nat)) : Option (Nat × Nat × Nat) :=
  s.lowestHalt (cs.filter (fun c => !s.freeing c.1 c.2))

/-- The upstream where the list is not empty and all of it is halted. -/
def State.allHalted (s : State) (cs : List (Nat × Nat)) : Option (Nat × Nat × Nat) :=
  if cs ≠ [] ∧ cs.all (fun c => (s.haltId c.1 c.2).isSome) then s.lowestHalt cs else none

/-- The side of a queue register that a context waits on is withheld. -/
def State.queueWithheld (s : State) (n q : Nat) (full : Bool) : Option Upstream :=
  let r := (s.core n).q q
  if full then
    if r.count < 8 then none
    else (s.allHalted (r.poppers.map (fun x => (n, x)))).map (fun u => ⟨1, q + 8, false, some u⟩)
  else if r.written > 0 then none
  else (s.allHalted (r.pushers.map (fun x => (n, x)))).map (fun u => ⟨1, q, false, some u⟩)

/-- An instruction that stops as it issues has the cycle's slot; one that goes on after a wait took its slot when it issued (R97, R98). -/
def State.charged (s : State) : State := if s.my.begun then s else s.takeSlot s.cur.1 s.cur.2

/-- How the body of an instruction ends for the running context; `s` is what it leaves where it raises a cause, which it does only when the
results of earlier instructions are in (R210), and `wait` where it is blocked. -/
def finish1 (m : Mods) (s : State) (r : Except Stop (Unit × State)) (wait : (State → State) → State) : State :=
  let raise (t : State) : State := if s.my.pend ≠ [] then s else t
  match r with
  | .ok ((), t) => t.endIssue
  | .error (.wait g) => g s
  | .error (.block g) => wait g
  | .error (.raise c f) => raise (s.charged.causeIn s.cur.1 s.cur.2 c f s.my.pc m.len.words)
  | .error (.withheld u) => raise (s.charged.haltWithheld s.cur.1 s.cur.2 u)
  | .error (.raiseKeep c f g) => raise ((g s).charged.causeIn s.cur.1 s.cur.2 c f s.my.pc m.len.words)

/-- Issues an instruction for the running context: guard, interlocks, queue check, then its body, which finds the PC at
NextPC.  One that has issued before and was blocked goes on with its body alone. -/
def runInstr (i : Instr) (m : Mods) (s : State) (body : Word → Sem Unit) : Host.Outcome State Fault Refusal :=
  let k := s.my
  let a := k.pc
  if k.begun then
    match s.reserveTail i with
    | none => .next s
    | some s1 => .next (finish1 m s1 (body a (s1.setMy { s1.my with pc := nextPc a m })) (fun g => g s1))
  else if !k.guardOn m then
    if offCause i k then
      if k.pend ≠ [] then .next s else .next (s.raiseIn s.cur.1 s.cur.2 0x03 ((i.raw m).encFaddr) a m.len.words)
    else .next (s.beginIssue.setMy { s.beginIssue.my with pc := nextPc a m }).endIssue
  else if queueMisuse i then
    if k.pend ≠ [] then .next s
    else .next (s.raiseIn s.cur.1 s.cur.2 0x43 ((i.raw m).encFaddr) a m.len.words)
  else if !k.operandsReady i then .next (s.setMy (k.waiting .operands))
  else match s.me.queueCheck i with
    | some (q, full) =>
      match (if s.noSpread s.cur.1 || k.pend ≠ [] then none else s.queueWithheld s.cur.1 q full) with
      | some u => .next (s.haltWithheld s.cur.1 s.cur.2 u)
      | none => .next (s.setMy (k.waiting (if full then .pushQ q else .popQ q)))
    | none =>
      .next (finish1 m s (body a (s.beginIssue.setMy { s.beginIssue.my with pc := nextPc a m })) (fun g => s.beginWait i m g))

/-- A wait instruction whose condition does not hold: it halts if its object is withheld and halts spread, else it waits,
with its limit (R98, R204, R206). -/
def waitFor {α : Type} (on : WaitOn) (limit : Nat) (withheld : Option Upstream) : Sem α := fun s =>
  match (if s.noSpread s.cur.1 then none else withheld) with
  | some u => .error (.withheld u)
  | none => .error (.block (fun s =>
      let k := s.my.waiting on
      s.setMy { k with wait := k.wait.map (fun w => { w with limit := limit }) }))

/-- An instruction that cannot issue for want of room in a queue register, and so takes no slot: as for a queue operand (R98, R112,
R202). -/
def noRoom {α : Type} (on : WaitOn) (withheld : Option Upstream) : Sem α := fun s =>
  match (if s.noSpread s.cur.1 || s.my.pend ≠ [] then none else withheld) with
  | some u => .error (.wait (fun s => s.haltWithheld s.cur.1 s.cur.2 u))
  | none => .error (.wait (fun s => s.setMy (s.my.waiting on)))

/-- A release made before the instruction goes on: it starts once, and the instruction goes on when it is complete. -/
def releaseFirst (sc : Scope) : Sem Unit := fun s =>
  if s.my.wait.any (fun w => w.on = .release && w.arrived) then .ok ((), s)
  else match s.releaseActs s.cur.1 s.cur.2 sc with
    | ([], t) => .ok ((), t)
    | (_ :: _, _) => .error (.block (fun s =>
        let (ids, t) := s.releaseActs s.cur.1 s.cur.2 sc
        t.setMy { t.my with wait := some { on := .release, arrived := true }, block := t.my.block ++ ids }))

/-- FADDR of column E for an instruction. -/
def encOf (i : Instr) (m : Mods) : Word := (i.raw m).encFaddr

/-- An event of the opcode table: it happens to the state, or, where it is not enabled, leaves it unchanged (log entry 4). -/
def runEvent (s : State) (f : State → Option State) : Host.Outcome State Fault Refusal := .next ((f s).getD s)

/-- What pilot firmware does: nothing before the device is ready or while the pilot cores are held in reset (R58, R60, R61). -/
def runPilot (s : State) (f : State → Option State) : Host.Outcome State Fault Refusal :=
  runEvent s (fun s => if s.pilotRuns then f s else none)

end Sys2Proof.Machine
end

