-- ==== Sys2Proof/Machine/Flags.lean ====
section
/-! DEFINITION. Conditions and flags: the conditions of R293 and R298, the sticky flags of FPSR and the traps they take (R214,
R240), predicates. -/

namespace Sys2Proof.Machine

/-- The conditions of CMPP and SETC on N-bit values (R293). -/
def ccHolds (c : Cc) (n x y : Nat) : Bool :=
  match c with
  | .eq => x = y
  | .ne => x ≠ y
  | .lt => decide (toSigned x n < toSigned y n)
  | .le => decide (toSigned x n ≤ toSigned y n)
  | .ltn => decide (x < y)
  | .len => decide (x ≤ y)
  | .tst => x &&& y ≠ 0
  | .ntst => x &&& y = 0

/-- The conditions of FCMPP and its invalid flag (R244, R298). -/
def fccHolds (c : Fcc) (x y : FpNum) : Bool × BitVec 5 :=
  let nan := x.isNan || y.isNan
  let sig := anySig [x, y]
  match c with
  | .eq => (x.eqb y, sig)
  | .ne => (!x.eqb y, sig)
  | .lt => (x.ltb y, nvIf nan)
  | .le => (x.ltb y || x.eqb y, nvIf nan)
  | .unord => (nan, sig)
  | .ord => (!nan, sig)

/-- Flags join the sticky flags of FPSR (R240). -/
def Ctx.orFlags (k : Ctx) (fl : BitVec 5) : Ctx := { k with fpsr := k.fpsr ||| fl.setWidth 64 }

/-- The trap enables of FPSR. -/
def trapEnables (fpsr : Word) : BitVec 5 := fpsr.extractLsb' 8 5

/-- The code of the lowest enabled flag, in the order invalid, divide by zero, overflow, underflow, inexact (R214). -/
def lowestEnabled (fl : BitVec 5) : BitVec 8 :=
  if fl.getLsbD 0 then 0x30 else if fl.getLsbD 1 then 0x31 else if fl.getLsbD 2 then 0x32
  else if fl.getLsbD 3 then 0x33 else 0x34

/-- Sets the flags of a scalar floating-point instruction; an enabled one traps, and the flags stand (R214). -/
def raiseFlags (fl : BitVec 5) : Sem Unit := fun s =>
  let s' := s.setMy (s.my.orFlags fl)
  let hit := fl &&& trapEnables s.my.fpsr
  if hit = 0 then .ok ((), s') else .error (.raiseKeep (lowestEnabled hit) 0 (fun s => s.setMy (s.my.orFlags fl)))

/-- A predicate. -/
def Ctx.pred (k : Ctx) (n : BitVec 3) : Bool := k.p.getLsbD n.toNat
def Ctx.setPred (k : Ctx) (n : BitVec 3) (v : Bool) : Ctx :=
  let b : BitVec 8 := 1 <<< n.toNat
  { k with p := if v then k.p ||| b else k.p &&& ~~~b }

end Sys2Proof.Machine
end

