-- ==== Sys2Proof/Machine/Control.lean ====
section
/-! DEFINITION. Predicates, branches, calls, loops, frames, traps and halts (R299 to R303). -/

namespace Sys2Proof.Machine

/-! ### Predicates (R299) -/

/-- A member that combines two predicates. -/
def predBin (i : Instr) (d a b : BitVec 3) (m : Mods) (s : State) (op : Bool → Bool → Bool) : Host.Outcome State Fault Refusal :=
  runInstr i m s (fun _ => modMy (fun k => k.setPred d (op (k.pred a) (k.pred b))))

/-- PAND (R299). -/
def execPand (d a b : BitVec 3) (m : Mods) (s : State) : Host.Outcome State Fault Refusal :=
  predBin (.pand d a b m) d a b m s and

/-- POR (R299). -/
def execPor (d a b : BitVec 3) (m : Mods) (s : State) : Host.Outcome State Fault Refusal :=
  predBin (.por d a b m) d a b m s or

/-- PXOR (R299). -/
def execPxor (d a b : BitVec 3) (m : Mods) (s : State) : Host.Outcome State Fault Refusal :=
  predBin (.pxor d a b m) d a b m s xor

/-- PNOT (R299). -/
def execPnot (d a : BitVec 3) (m : Mods) (s : State) : Host.Outcome State Fault Refusal :=
  runInstr (.pnot d a m) m s (fun _ => modMy (fun k => k.setPred d (!k.pred a)))

/-- PPACK (R299). -/
def execPpack (d : Opnd) (m : Mods) (s : State) : Host.Outcome State Fault Refusal :=
  runInstr (.ppack d m) m s (fun _ => do dst d ((← getMy).p.setWidth 64))

/-- PUNPK (R299). -/
def execPunpk (a : Opnd) (m : Mods) (s : State) : Host.Outcome State Fault Refusal :=
  runInstr (.punpk a m) m s (fun _ => do
    let x ← src a m
    modMy (fun k => { k with p := x.setWidth 8 }))

/-! ### Branches, calls and loops (R300) -/

/-- Branch(t), a taken transfer, which the trace ring records (R223). -/
def branchTo (t : Word) : Sem Unit := fun s =>
  .ok ((), (s.setMy { s.my with pc := t }).traceRec s.cur.1 s.cur.2 1 t)

/-- The target of a word offset (R255). -/
def offTarget {w : Nat} (a : Word) (off : BitVec w) : Word := a + 4 * off.signExtend 64

/-- Writes a register and no lr. -/
def setReg (o : Opnd) (v : Word) : Sem Unit := modS (fun s => s.writeReg s.cur.1 s.cur.2 o v)

/-- BR (R300). -/
def execBr (off : BitVec 20) (neg : Bool) (p : BitVec 3) (m : Mods) (s : State) : Host.Outcome State Fault Refusal :=
  runInstr (.br off neg p m) m s (fun a => do
    let k ← getMy
    if k.pred p = !neg then branchTo (offTarget a off) else pure ())

/-- JMP (R300). -/
def execJmp (off : BitVec 24) (m : Mods) (s : State) : Host.Outcome State Fault Refusal :=
  runInstr (.jmp off m) m s (fun a => branchTo (offTarget a off))

/-- CALL (R300). -/
def execCall (off : BitVec 24) (m : Mods) (s : State) : Host.Outcome State Fault Refusal :=
  runInstr (.call off m) m s (fun a => do
    setReg lk (nextPc a m)
    branchTo (offTarget a off))

/-- A register target: its low bits are zero, or 0x05 with FADDR the target. -/
def checkTarget (t : Word) : Sem Unit := check (t.extractLsb' 0 2 = 0#2) 0x05 t

/-- JMPR (R300). -/
def execJmpr (x : Opnd) (m : Mods) (s : State) : Host.Outcome State Fault Refusal :=
  runInstr (.jmpr x m) m s (fun _ => do
    let t ← src x m
    checkTarget t
    branchTo t)

/-- CALLR (R300). -/
def execCallr (x : Opnd) (m : Mods) (s : State) : Host.Outcome State Fault Refusal :=
  runInstr (.callr x m) m s (fun a => do
    let t ← src x m
    checkTarget t
    setReg lk (nextPc a m)
    branchTo t)

/-- RET (R300). -/
def execRet (m : Mods) (s : State) : Host.Outcome State Fault Refusal :=
  runInstr (.ret m) m s (fun _ => do
    let t ← src lk m
    checkTarget t
    branchTo t)

/-- LOOP (R300). -/
def execLoop (off : BitVec 17) (d : Opnd) (m : Mods) (s : State) : Host.Outcome State Fault Refusal :=
  runInstr (.loop off d m) m s (fun a => do
    let n := (← src d m) - 1
    dst d n
    if n ≠ 0 then branchTo (offTarget a off) else pure ())

/-! ### Frames (R125, R301, R302) -/

/-- A plain 8-byte store whose failed check changes nothing, not even the first part of a split one (R301). -/
def wholeStore (ea : Word) (v : Word) (ap : Nat → Word → Sem Unit) : Sem Unit := fun s =>
  match storeTo ea 8 v.toNat none ap s with
  | .error (.raiseKeep c f _) => .error (.raise c f)
  | r => r

/-- The frame size that ENTER names (R301). -/
def enterSize (d : BitVec 7) (m : Mods) : Word := if m.len.ext then m.imm32.setWidth 64 else 16 * d.setWidth 64

/-- ENTER with the meaning of a copy-aperture store left to its caller (R125, R301). -/
def enterBody (d : BitVec 7) (m : Mods) (ap : Nat → Word → Sem Unit) : Sem Unit := do
  let p ← src sp m
  let link ← src lk m
  let frame ← src fp m
  let new := p - 16 - enterSize d m
  check (decide ((← getMy).slim.toNat ≤ new.toNat)) 0x40 new
  wholeStore (p - 8) link ap
  wholeStore (p - 16) frame ap
  setReg fp (p - 16)
  setReg sp new

/-- A register whose value a load brings, without lr. -/
def regLater (o : Opnd) (g : Got) : Sem Unit :=
  match g with
  | .val v => setReg o (BitVec.ofNat 64 v)
  | .later id => modMy (fun k => { k with pend := k.pend ++ [⟨id, o⟩] })

/-- LEAVE (R125, R302): both loads are checked before any register changes. -/
def execLeave (m : Mods) (s : State) : Host.Outcome State Fault Refusal :=
  runInstr (.leave m) m s (fun _ => do
    let f ← src fp m
    let oldFp ← load f 8 (.size .i64) none
    let oldLk ← load (f + 8) 8 (.size .i64) none
    setReg sp (f + 16)
    regLater lk oldLk
    regLater fp oldFp)

/-! ### NOP, HALT, TRAP, ERET (R303) -/

/-- NOP (R303). -/
def execNop (m : Mods) (s : State) : Host.Outcome State Fault Refusal := runInstr (.nop m) m s (fun _ => pure ())

/-- HALT (R303): cause 0xA1; the saved PC is NextPC. -/
def execHalt (m : Mods) (s : State) : Host.Outcome State Fault Refusal := runInstr (.halt m) m s (fun _ => raise 0xA1 0)

/-- TRAP #n (R303): cause 0xF0 + n. -/
def execTrap (n : BitVec 4) (m : Mods) (s : State) : Host.Outcome State Fault Refusal :=
  runInstr (.trap n m) m s (fun _ => raise (15#4 ++ n) 0)

/-- ERET (R212, R303). -/
def execEret (m : Mods) (s : State) : Host.Outcome State Fault Refusal :=
  runInstr (.eret m) m s (fun _ => do
    let k ← getMy
    check (k.cause.getLsbD 8) 0x03 (encOf (.eret m) m)
    modMy Ctx.eret
    let s ← getS
    putS (s.traceRec s.cur.1 s.cur.2 1 k.epc))

end Sys2Proof.Machine
end

