-- ==== Sys2Proof/Machine/Engine.lean ====
section
/-! DEFINITION. Accesses that engines make (R142, R146, R167): a copy, a matrix command or a network interface reads and writes
memory in aligned units of at most 8 bytes (R159), as its core does, and never waits for pilot firmware; base-die folds
(R17 to R19). -/

namespace Sys2Proof.Machine

/-! ### The L1 filled by a read (R133) -/

/-- A line at the L2 as a core sees it: its own writebacks that are on their way there have been made (R163, coherence). -/
def State.viewFor (s : State) (n b : Nat) (key : Option Nat) : Line :=
  s.flight.foldl (fun l a =>
    if a.core = n && !a.performed && a.locs.any (fun p => p.1.pa = b) then
      (match a.op with | .wb data mask => mergeLine l data mask | _ => l)
    else l) (s.lineView b key)

/-- The line is present in full, its dirty bytes kept.  A line that HBM cannot deliver is not brought in (R16). -/
def State.l1Fill (s : State) (n pa key : Nat) (kind : PageKind) (x : Bool) : State :=
  let b := lineBase pa
  if s.eccBad b 64 then s
  else if kind = .so then s.l2Fill b (some key)
  else if (l1Find (s.core n).l1 b).any (fun l => decide (l.valid = BitVec.allOnes 64)) then s
  else
    let s1 := s.l2Fill b (some key)
    let old := (l1Find (s1.core n).l1 b).getD ⟨0, b, key, 0, 0, 0, kind, x⟩
    let mem := s1.viewFor n b (some key)
    s1.l1Put n { old with data := mergeLine mem old.data old.dirty, valid := BitVec.allOnes 64 }

/-- n bytes of a line as a core sees them: the L1's valid bytes over the L2's. -/
def State.lineThrough (s : State) (n pa key : Nat) : Line :=
  match l1Find (s.core n).l1 (lineBase pa) with
  | some l => mergeLine (s.viewFor n l.pa (some key)) l.data l.valid
  | none => s.viewFor n (lineBase pa) (some key)

/-! ### Walks (R143, R144) -/

/-- The walk with an id, and its die. -/
def State.walkOf (s : State) (id : Nat) : Option (Nat × Walk) :=
  s.dies.findSome? (fun d => (d.2.walks.find? (fun w => w.id = id)).map (fun w => (d.1, w)))

/-- A walk replaced, or ended. -/
def State.setWalk (s : State) (d id : Nat) (w : Option Walk) : State :=
  let k := s.die d
  s.setDie d { k with walks := match w with
    | some v => k.walks.map (fun u => if u.id = id then v else u)
    | none => k.walks.filter (fun u => u.id ≠ id) }

/-- The contexts that wait for a walk learn that it failed, and with which cause. -/
def State.walkFails (s : State) (id page : Nat) (c : BitVec 8) : State :=
  { s with cores := s.cores.map (fun p => (p.1, { p.2 with
      ctxs := p.2.ctxs.map (fun k => if k.block.contains id then { k with walkFault := some (page, c) } else k) })) }

/-- The cores with a context that has joined a walk. -/
def State.walkJoiners (s : State) (id : Nat) : List Nat :=
  (s.cores.filter (fun p => ctxNums.any (fun x => (p.2.ctx x).block.contains id))).map Prod.fst

/-- A walk ends as the tables say: its page is zero-filled where Z is set, and installed for every core that takes its outcome; or those
that wait learn its cause, which is 0x14 where HBM cannot deliver an entry (log entry 106). -/
def State.endWalk (s0 : State) (d : Nat) (w : Walk) : State :=
  let s := s0.walkReads w.root w.va
  let ends (s : State) : State := (s.setWalk d w.id none).retire w.id
  match s.walk w.root w.va with
  | .page t entry z =>
    let s1 := if z then s.zeroFill t entry else s
    ends (((s1.walkJoiners w.id).foldl (fun s m => s.tlbInstall m t) s1).tlbInstall w.core t)
  | .absent => ends (s.walkFails w.id (w.va / 2 ^ 16) 0x10)
  | .bad l r e => ends ((s.recordBad w.root l r e).walkFails w.id (w.va / 2 ^ 16) 0x10)
  | .ecc _ => ends (s.walkFails w.id (w.va / 2 ^ 16) 0x14)

/-- The walk of a die that an address joins: the one under way for its page. -/
def State.walkFor (s : State) (d root va : Nat) : Option Walk :=
  let page := s.pageAt root va
  (s.die d).walks.find? (fun w => w.root = root && decide (page.1 ≤ w.va) && decide (w.va < page.1 + page.2))

/-- A translation that does not wait, for cache operations, engines and the machine's own accesses (R146): TLB or walk at once, with the
zero-fill of R144.  The walk under way for the page, which this one joins, ends first, and with 64 under way the oldest (R143, log entry
24). -/
def State.xlateNow (s : State) (n root va : Nat) : Except (BitVec 8) TlbEnt × State :=
  match s.tlbLook n root va with
  | some t => (.ok t, s)
  | none =>
    let d := dieOf n
    let s1 := (match s.walkFor d root va, (s.die d).walks with
      | some w, _ => s.endWalk d w
      | none, w :: rest => if 64 ≤ rest.length + 1 then s.endWalk d w else s
      | none, [] => s).walkReads root va
    match s1.walk root va with
    | .page t entry z => (.ok t, (if z then s1.zeroFill t entry else s1).tlbInstall n t)
    | .absent => (.error 0x10, s1)
    | .bad l r e => (.error 0x10, s1.recordBad root l r e)
    | .ecc _ => (.error 0x14, s1)

/-! ### One unit -/

/-- A read of a unit in one line takes bytes from beyond the core's L1. -/
def State.lineNeeds (s : State) (n pa sz : Nat) : Bool :=
  match l1Find (s.core n).l1 (lineBase pa) with
  | some l => let m := byteMask (pa % 64) sz; l.valid &&& m ≠ m
  | none => true

def Perm.reads : Perm → Bool
  | .w => false
  | _ => true

/-- Where a unit lies once it is checked. -/
inductive Unit1
  | scr (core off : Nat)
  | die (d off : Nat)
  | acc (off : Nat)
  | status (ch : Nat)
  | mem (pa key : Nat) (kind : PageKind) (x : Bool)
deriving DecidableEq, Repr

/-- The checks of R142 on a unit of an engine's access, the last but for what reads no data of HBM.  The copy aperture takes none of an
engine (R342), and of a context's block read, `ctx`, aligned doublewords (R129). -/
def State.engPlace (s : State) (n a sz : Nat) (p : Perm) (store : Bool) (fold : Bool := false) (ctx : Bool := false) :
    Except (BitVec 8) Unit1 × State :=
  match s.classify n a sz with
  | .error c => (.error c, s)
  | .ok (.own off) => (.ok (.scr n off), s)
  | .ok (.mesh m off) => (.ok (.scr m off), s)
  | .ok (.die d off) => (.ok (.die d off), s)
  | .ok (.acc off) => (.ok (.acc off), s)
  | .ok (.aperture off) =>
    if !ctx then (.error 0x11, s) else if sz = 8 ∧ off % 8 = 0 then (.ok (.status (off / 8)), s) else (.error 0x05, s)
  | .ok (.rose r off) =>
    match s.roseResolve n r off sz store with
    | .error c => (.error c, s)
    | .ok (hc, hr, k, o) => (.ok (.scr hc (((s.core hc).rose hr).slotOff k o)), s)
  | .ok (.global va) =>
    match s.xlateNow n (s.homePart n) va with
    | (.error c, s1) => (.error c, s1)
    | (.ok t, s1) =>
      match s1.pageCause t p va sz with
      | some c => (.error c, s1)
      | none =>
        if p.reads && !fold && (s1.lineNeeds n (t.phys va) sz) && s1.eccBad (t.phys va) sz then (.error 0x14, s1)
        else (.ok (.mem (t.phys va) ((s1.keyOf t).getD 0) t.kind t.x), s1)

/-- Reads a unit that lies in one line; in the core's own scratchpad through its own port, whatever the window (R108: DEDUCED, log entry
115). -/
def State.unitRead (s : State) (n sz : Nat) : Unit1 → Nat × State
  | .scr m off => ((s.core m).scrRead (m = n) off sz, s.setCore m ((s.core m).scrServe off sz))
  | .die d off => ((s.die d).scr.read off sz, s)
  | .acc off => ((s.core n).accRead off sz, s)
  | .status ch => (((s.core n).chan ch).status.toNat, s)
  | .mem pa key kind x =>
    ((s.lineThrough n pa key).toNat / 256 ^ (pa % 64) % 256 ^ sz, s.l1Fill n pa key kind x)

/-- Writes a unit that lies in one line. -/
def State.unitWrite (s : State) (n sz v : Nat) : Unit1 → State
  | .scr m off => s.setCore m ((s.core m).scrWrite off sz (v % 256 ^ sz))
  | .die d off => s.setDie d { s.die d with scr := (s.die d).scr.write off sz v }
  | .acc off => s.setCore n ((s.core n).accWrite off sz v)
  | .status _ => s
  | .mem pa key kind x =>
    if kind = .so then
      s.l2Write (lineBase pa) (some key) (BitVec.ofNat 512 (v % 256 ^ sz * 256 ^ (pa % 64))) (byteMask (pa % 64) sz)
    else s.l1Store n pa key kind x sz v

/-! ### Folds (R17 to R19, R342) -/

/-- One element added: the FP32 sum with RoundRNE, for bf16 rounded again; with the flags. -/
def foldElt (t : ElTy) (x y : Nat) : Nat × BitVec 5 :=
  if t = .bf16 then
    let a := convert .bf16 .f32 .rne 0 false x
    let b := convert .bf16 .f32 .rne 0 false y
    let z := addRne .f32 a.1 b.1
    let r := convert .f32 .bf16 .rne 0 false z.1
    (r.1, a.2 ||| b.2 ||| z.2 ||| r.2)
  else addRne .f32 x y

/-- Before a fold the base die writes back and drops an L2 copy of the line (R19, R135). -/
def State.l2Flush (s : State) (b : Nat) : State :=
  match l2Find (s.die (paDie b)).l2 b with
  | some l => let s1 := s.l2Evict l; s1.setDie (paDie b) { s1.die (paDie b) with l2 := l2Drop (s1.die (paDie b)).l2 b }
  | none => s

/-- The flags of a fold join the base die's fold statistics (R17). -/
def State.foldFlags (s : State) (stack : Nat) (fl : BitVec 5) : State :=
  if fl = 0 then s else { s with foldStats := AMap.set s.foldStats stack (AMap.getD s.foldStats stack 0 ||| fl) }

/-- An in-place update of n bytes at a physical address by the base die; none where the line holds an uncorrectable error
(R17). -/
def State.baseUpd (s : State) (pa key n : Nat) (f : Nat → Nat × BitVec 5) : Option State :=
  let b := lineBase pa
  let s1 := s.l2Flush b
  if s1.eccLine b then none
  else
    let line := s1.hbmLine b (some key)
    let r := f (line.toNat / 256 ^ (pa % 64) % 256 ^ n)
    let new := mergeLine line (BitVec.ofNat 512 (r.1 % 256 ^ n * 256 ^ (pa % 64))) (byteMask (pa % 64) n)
    some (((s1.countCorrected b).hbmPut b new (some (s1.material (stackOf b) key))).foldFlags (stackOf b) r.2)

/-- A fold of one element at a physical address (R17). -/
def State.baseFold (s : State) (pa key : Nat) (t : ElTy) (v : Nat) : Option State :=
  s.baseUpd pa key (t.bits / 8) (fun old => foldElt t old v)

/-- A fold that the base die does not apply: the L2 copy that it has written back and dropped is gone, so that later reads meet the error,
and the line is named in a pilot event (R17). -/
def State.foldRefused (s : State) (pa : Nat) : State := (s.l2Flush (lineBase pa)).eccEvent pa

/-- A base-die update by an engine of core n: what the core has stored to the line before stands there, and no copy is left in its L1 (R167,
R163). -/
def State.engUpd (s : State) (n pa key k : Nat) (f : Nat → Nat × BitVec 5) : Option State :=
  (((s.settleLine n (lineBase pa)).l1Stale n (lineBase pa) 64).baseUpd pa key k f)

/-- FoldAdd of one element by an engine; a line that the base die cannot read is named in a pilot event (R17). -/
def State.engFold (s : State) (n a : Nat) (t : ElTy) (v : Nat) : Except (BitVec 8) Unit × State :=
  let k := t.bits / 8
  match s.engPlace n a k .rw true true with
  | (.error c, s1) => (.error c, s1)
  | (.ok (.mem pa key _ _), s1) =>
    match s1.engUpd n pa key k (fun old => foldElt t old v) with
    | some s2 => (.ok (), s2)
    | none => (.error 0x14, s1.foldRefused pa)
  | (.ok u, s1) =>
    let (old, s2) := s1.unitRead n k u
    (.ok (), s2.unitWrite n k (foldElt t old v).1 u)

/-! ### Ranges -/

/-- The aligned units of at most 8 bytes of [a, a + n), as (address, bytes). -/
def units (a : Nat) : Nat → Nat → List (Nat × Nat)
  | 0, _ => []
  | fuel + 1, n =>
    if n = 0 then [] else
      let k := min n (8 - a % 8)
      (a, k) :: units (a + k) fuel (n - k)

/-- Addresses wrap modulo 2^64 (R320). -/
def wrap (a : Nat) : Nat := a % 2 ^ 64

/-- Reads a range unit by unit; stops at the first that faults. -/
def State.engRead (s : State) (n a cnt : Nat) (ctx : Bool := false) : (List Byte × Option (BitVec 8)) × State :=
  (units (wrap a) (cnt + 1) cnt).foldl (fun acc u =>
    match acc with
    | ((bs, some c), s) => ((bs, some c), s)
    | ((bs, none), s) =>
      match s.engPlace n (wrap u.1) u.2 .r false false ctx with
      | (.error c, s1) => ((bs, some c), s1)
      | (.ok p, s1) => let (v, s2) := s1.unitRead n u.2 p; ((bs ++ leBytes u.2 v, none), s2)) (([], none), s)

/-- Writes bytes unit by unit; stops at the first unit that faults, and says how many bytes were written. -/
def State.engWrite (s : State) (n a : Nat) (bs : List Byte) : (Nat × Option (BitVec 8)) × State :=
  (units (wrap a) (bs.length + 1) bs.length).foldl (fun acc u =>
    match acc with
    | ((k, some c), s) => ((k, some c), s)
    | ((k, none), s) =>
      match s.engPlace n (wrap u.1) u.2 .w true with
      | (.error c, s1) => ((k, some c), s1)
      | (.ok p, s1) => ((k + u.2, none), s1.unitWrite n u.2 (ofLeBytes ((bs.drop k).take u.2)) p)) ((0, none), s)

/-- An engine's fault raises a pilot event: kind 3, the core and what names the command, the cause (R146). -/
def State.engineEvent (s : State) (n what : Nat) (c : BitVec 8) : State :=
  s.pilotEvent 3 (BitVec.ofNat 64 (n * 256 + what)) (c.setWidth 64)

/-! ### Blocks read and written by a context at issue -/

/-- The accumulator rows that a range covers (R117, R129). -/
def accSpan (a sz : Nat) : BitVec 128 :=
  match winOf a with
  | some (5, o) => if sz = 0 then 0 else let hi := min 127 ((o + sz - 1) / 256); rowSet (o / 256) (hi + 1 - o / 256)
  | _ => 0

/-- A range holds a byte of [lo, hi); addresses wrap. -/
def rangeMeets (a cnt lo hi : Nat) : Bool := (decide (lo < a + cnt) && decide (a < hi)) || decide (lo + 2 ^ 64 < a + cnt)

/-- The part of window w that is i-th of `size` bytes each holds a byte of a range. -/
def partMeets (a cnt w size i : Nat) : Bool :=
  let b := (winSpans.getD w (0, 0)).1 + i * size
  rangeMeets a cnt b (b + size)

/-- A test of the homes, by core and region, of the views that a range goes through. -/
def State.viewsAll (s : State) (n a cnt : Nat) (f : Nat → Nat → Bool) : Bool :=
  (List.range 16).all (fun r => !partMeets a cnt 3 0x100000 r ||
    (let (hc, hr) := s.roseHome n r; hc = n || s.roseStale n r || f hc hr))

/-- The homes of the views that a range goes through have made the advances that the core has seen (R152). -/
def State.viewsReady (s : State) (n a cnt : Nat) : Bool :=
  cnt = 0 || s.viewsAll n a cnt (fun hc hr => s.roseReady hc hr (s.roseNeed n hc hr))

/-- No phase holds the links to the ports of other cores that a range needs (R179). -/
def State.linksFree (s : State) (n a cnt : Nat) : Bool :=
  let free (m : Nat) : Bool := !s.linkBusy n m
  cnt = 0 || s.heldRects.isEmpty ||
    ((List.range 8).all (fun i => !partMeets a cnt 1 0x80000 i || free (octetCore (octetOf n) i)) &&
     (List.range 1024).all (fun m => !partMeets a cnt 6 0x100000 m || free m) && s.viewsAll n a cnt (fun hc _ => free hc))

/-- An engine or a block read may reach a range now. -/
def State.rangeReady (s : State) (n a cnt : Nat) : Bool := s.linksFree n a cnt && s.viewsReady n a cnt

/-- No access of the core is still to be performed. -/
def State.quiet (s : State) (n : Nat) : Bool := s.flight.all (fun a => a.core ≠ n || a.performed)

/-- A block access of a context that raises takes no effect, but a bad entry that its translation met stays recorded (R142, R147). -/
def raiseWalked {α : Type} (c : BitVec 8) (f : Word) (t : State → State) : Sem α :=
  fun _ => .error (.raiseKeep c f (fun s => { s with regs := (t s).regs }))

/-- Reads cnt bytes, once the rows that they lie in are free (R117), in units of at most 8; a unit that fails a check raises its cause. -/
def ctxRead (a cnt : Nat) : Sem (List Byte) := fun s =>
  if !s.quiet s.cur.1 || !s.rangeReady s.cur.1 a cnt || s.me.rowsBusy (accSpan a cnt) 0 then .error (.wait id)
  else match s.engRead s.cur.1 a cnt true with
    | ((bs, none), t) => .ok (bs, t)
    | ((bs, some c), _) => raiseWalked c (BitVec.ofNat 64 (wrap (a + bs.length))) (fun s => (s.engRead s.cur.1 a cnt true).2) s

/-- Writes bytes in units of at most 8. -/
def ctxWrite (a : Nat) (bs : List Byte) : Sem Unit := fun s =>
  if !s.quiet s.cur.1 || !s.rangeReady s.cur.1 a bs.length then .error (.wait id)
  else match s.engWrite s.cur.1 a bs with
    | ((_, none), t) => .ok ((), t)
    | ((k, some c), _) => raiseWalked c (BitVec.ofNat 64 (wrap (a + k))) (fun s => (s.engWrite s.cur.1 a bs).2) s

/-- The doublewords of a byte list. -/
def words8 (bs : List Byte) (n : Nat) : List Word := (List.range n).map (fun i => BitVec.ofNat 64 (ofLeBytes ((bs.drop (8 * i)).take 8)))

/-- What an engine issue of a context is ordered after (R161, R167): its accesses that are under way, and what the core has stored, which
holds what the L1 has written back of the context's. -/
def State.ctxAccesses (s : State) (n x : Nat) : List Nat :=
  (s.flight.filter (fun a => a.core = n && (a.ctx = x || a.op.stores))).map Access.id ++ (s.core n).vmIds x

end Sys2Proof.Machine
end

