-- ==== Sys2Proof/Machine/Copy.lean ====
section
/-! DEFINITION. Copy templates, the start of a copy, XSTAT and XCAN (R339, R340, R343, R114). -/

namespace Sys2Proof.Machine

/-! ### Templates (R339) -/

/-- Doubleword i of a template. -/
def tplW (t : Line) (i : Nat) : Word := t.extractLsb' (64 * i) 64

def tplRows (t : Line) : Nat := bitsOf (tplW t 2) 32 32
def tplRowBytes (t : Line) : Nat := bitsOf (tplW t 2) 0 32
def tplDPitch (t : Line) : Nat := bitsOf (tplW t 3) 32 32
def tplSPitch (t : Line) : Nat := bitsOf (tplW t 3) 0 32
/-- VROWS or ROWS; VBYTES or ROWBYTES (R341). -/
def tplVRows (t : Line) : Nat := let v := bitsOf (tplW t 4) 32 32; if v = 0 then tplRows t else v
def tplVBytes (t : Line) : Nat := let v := bitsOf (tplW t 4) 0 32; if v = 0 then tplRowBytes t else v
def tplDstPart (t : Line) : Nat := bitsOf (tplW t 5) 29 3
def tplRemote (t : Line) : Bool := (tplW t 5).getLsbD 28
def tplRdev (t : Line) : Nat := bitsOf (tplW t 5) 16 12
def tplFlag (t : Line) : Bool := (tplW t 5).getLsbD 14
def tplFold (t : Line) : Bool := (tplW t 5).getLsbD 13
def tplDefer (t : Line) : Bool := (tplW t 5).getLsbD 12
def tplZclip (t : Line) : Bool := (tplW t 5).getLsbD 11
def tplRnd (t : Line) : BitVec 3 := (tplW t 5).extractLsb' 8 3
def tplDty (t : Line) : ElTy := ElTy.ofCode ((tplW t 5).extractLsb' 4 4)
def tplSty (t : Line) : ElTy := ElTy.ofCode ((tplW t 5).extractLsb' 0 4)

/-- Bytes of n elements (R339: an e2m1 element takes half a byte). -/
def elBytes (t : ElTy) (n : Nat) : Nat := n * t.bits / 8
/-- Elements in n bytes. -/
def elCount (t : ElTy) (n : Nat) : Nat := n * 8 / t.bits

/-- A template that XTPL accepts. -/
def tplOk (t : Line) : Bool :=
  let rb := tplRowBytes t
  let vb := bitsOf (tplW t 4) 0 32
  let whole (n : Nat) : Bool := decide (n * 8 % (tplSty t).bits = 0)
  let odd (n : Nat) : Bool := decide (elCount (tplSty t) n % 2 = 1)
  decide (bitsOf (tplW t 5) 32 32 = 0) && !(tplW t 5).getLsbD 15 && rb ≠ 0 && decide (vb ≤ rb) &&
  decide (bitsOf (tplW t 4) 32 32 ≤ tplRows t) && decide ((tplRnd t).toNat < 6) &&
  !(tplDty t = .d8 && decide (1 < (tplRnd t).toNat)) && (tplSty t = tplDty t || (whole rb && whole vb)) &&
  (!tplFold t || tplDty t = .f32 || tplDty t = .bf16) && !((tplFold t || tplRemote t) && tplDefer t) &&
  !(tplFlag t && bitsOf (tplW t 6) 0 3 ≠ 0) && !(tplDty t = .e2m1 && (odd rb || (vb ≠ 0 && odd vb)))

/-- XTPL (R339). -/
def execXtpl (d : BitVec 6) (a : Opnd) (m : Mods) (s : State) : Host.Outcome State Fault Refusal :=
  runInstr (.xtpl d a m) m s (fun _ => do
    let ea ← src a m
    check (ea.extractLsb' 0 3 = 0#3) 0x05 ea
    let bs ← ctxRead ea.toNat 64
    let t : Line := BitVec.ofNat 512 (ofLeBytes bs)
    check (tplOk t) 0x60 (d.setWidth 64)
    modMe (fun c => { c with tpls := AMap.set c.tpls d.toNat t }))

/-! ### Acceptance (R340, R152) -/

/-- Destination bytes of n source bytes. -/
def tplDst (t : Line) (n : Nat) : Nat := elBytes (tplDty t) (elCount (tplSty t) n)

/-- The bytes from the first row's first to the last row's last. -/
def spanBytes (rows pitch bytes : Nat) : Nat := if rows = 0 ∨ bytes = 0 then 0 else (rows - 1) * pitch + bytes

/-- A range in the rose window resolved as one access; none where it lies elsewhere or is empty. -/
def State.roseRange (s : State) (n a sz : Nat) (store : Bool) : Except (BitVec 8) (Option Word) :=
  match winOf a with
  | some (3, o) =>
    if sz = 0 then .ok none
    else match s.roseResolve n (o / 0x100000) (o % 0x100000) sz store with
      | .error c => .error c
      | .ok (hc, hr, k, off) =>
        .ok (some (BitVec.ofNat 64 (ownBase + 0x100000000 + octIdx hc * 0x80000 + ((s.core hc).rose hr).slotOff k off)))
  | _ => .ok none

/-- The signed offset of a start word added to SRC. -/
def copySrc (t : Line) (w : Word) : Word := tplW t 0 + (w.extractLsb' 16 48).signExtend 64

/-- The bytes of the whole source range, and of the whole destination range, zero-fill included (R152). -/
def tplSrcSpan (t : Line) : Nat := spanBytes (tplVRows t) (tplSPitch t) (tplVBytes t)
def tplDstSpan (t : Line) : Nat :=
  spanBytes (if tplZclip t then tplRows t else tplVRows t) (tplDPitch t)
    (if tplZclip t then tplDst t (tplRowBytes t) else tplDst t (tplVBytes t))

/-- The command that a start word makes of the slot's template.  It is deferred in a checkpointed convoy (R89). -/
def State.copyOf (s : State) (n x : Nat) (t : Line) (w : Word) (ch : Channel) : Copy :=
  let rs := s.roseRange n (copySrc t w).toNat (tplSrcSpan t) false
  let rd := if tplRemote t then .ok none else s.roseRange n (tplW t 1).toNat (tplDstSpan t) true
  let c : Copy := { tpl := t, word := w, ctx := x, wsp := (s.ctx n x).wsp, seq := ch.seq + 1, void := ch.status.getLsbD 2
                    after := s.ctxAccesses n x, defer := tplDefer t && s.checkpointed n }
  match rs, rd with
  | .ok a, .ok b => { c with roseSrc := a, roseDst := b }
  | .error e, _ => { c with fault := some e }
  | _, .error e => { c with fault := some e }

/-- The homes of the views that a copy goes through have made the advances that the core has seen, so that its acceptance reads no older
needle (R152). -/
def State.copyViews (s : State) (n : Nat) (t : Line) (w : Word) : Bool :=
  s.viewsReady n (copySrc t w).toNat (tplSrcSpan t) && (tplRemote t || s.viewsReady n (tplW t 1).toNat (tplDstSpan t))

/-- The rows that a copy reads and writes. -/
def copyRows (t : Line) (w : Word) : BitVec 128 × BitVec 128 :=
  (accSpan (copySrc t w).toNat (tplSrcSpan t), if tplRemote t then 0 else accSpan (tplW t 1).toNat (tplDstSpan t))

/-- Acceptance: the copy enters the queue, and unless FAULTED stands the status word is done 0 with the next sequence. -/
def Channel.accept (ch : Channel) (c : Copy) : Channel :=
  { ch with queue := ch.queue ++ [c], seq := c.seq
            status := if ch.status.getLsbD 2 then ch.status else BitVec.ofNat 64 (c.seq.toNat * 2 ^ 48) }

/-- A start that a checkpointed convoy may not make (R90): not deferred, with a byte of the destination at a translated address, on this
device or another.  The answer is the first such address. -/
def State.startBarred (s : State) (n : Nat) (t : Line) : Option Word :=
  let span := tplDstSpan t
  let a := (tplW t 1).toNat
  if !s.checkpointed n || tplDefer t || span = 0 then none
  else if tplRemote t || a < 2 ^ 56 then some (tplW t 1)
  else if a + span > 2 ^ 64 then some 0 else none

/-- XST, or an aligned store to the copy aperture (R129, R340); `enc` is the encoding of the instruction that starts the copy. -/
def startCopy (ch : Nat) (w enc : Word) : Sem Unit := do
  let s ← getS
  let n := s.cur.1
  let k := s.me.chan ch
  if k.queue.length ≥ 2 then notYet
  else do
    check (bitsOf w 13 3 = 0) 0x02 enc
    let slot := bitsOf w 0 6
    match AMap.get? s.me.tpls slot with
    | none => raise 0x60 (BitVec.ofNat 64 slot)
    | some t => do
      match s.startBarred n t with
      | some f => raise 0x11 f
      | none => pure ()
      if !s.copyViews n t w then notYet else pure ()
      let id ← freshId
      let rows := copyRows t w
      -- a flag is a release of what comes before the issue, the context's g words among it (R167, R170)
      modMe (fun c => if tplFlag t && !(c.ctx s.cur.2).noWs then c.gFlush (c.ctx s.cur.2).wsp else c)
      modMe (fun c => if rows = (0, 0) then c else c.claim id rows.1 rows.2)
      modMe (fun c => c.setChan ch (k.accept { s.copyOf n s.cur.2 t w k with claim := id }))

/-- XST (R340). -/
def execXst (d : BitVec 3) (a : Opnd) (m : Mods) (s : State) : Host.Outcome State Fault Refusal :=
  runInstr (.xst d a m) m s (fun _ => do
    let w ← src a m
    startCopy d.toNat w (encOf (.xst d a m) m))

/-! ### Status (R342, R343) -/

/-- XSTAT (R343). -/
def execXstat (d : Opnd) (a : BitVec 3) (m : Mods) (s : State) : Host.Outcome State Fault Refusal :=
  runInstr (.xstat d a m) m s (fun _ => do dst d ((← getMe).chan a.toNat).status)

/-- A channel withheld from a context (R202): its fault stands, and its issuer is halted by a halt taken after the fault. -/
def State.chanWithheld (s : State) (n x ch : Nat) : Option Upstream :=
  let k := (s.core n).chan ch
  match k.faultBy with
  | some (y, h) =>
    match s.haltId n y with
    | some i => if k.status.getLsbD 2 && y ≠ x && decide (h ≤ i) then some ⟨7, ch, false, some (n, y, i)⟩ else none
    | none => none
  | none => none

/-- XCAN (R343). -/
def execXcan (d : BitVec 3) (m : Mods) (s : State) : Host.Outcome State Fault Refusal :=
  runInstr (.xcan d m) m s (fun _ => do
    let s ← getS
    let k := s.me.chan d.toNat
    let held := s.chanWithheld s.cur.1 s.cur.2 d.toNat
    if held.isNone && k.queue = [] && k.running.isNone then
      modMe (fun c => c.setChan d.toNat { c.chan d.toNat with status := (c.chan d.toNat).status &&& 0xFFFF000000000000#64, faultBy := none })
    else waitFor (.channel d.toNat) 0 held)

end Sys2Proof.Machine
end

