-- ==== Sys2Proof/Machine/LoadStore.lean ====
section
/-! DEFINITION. Loads and stores of a context (R320 to R322), and ENTER, whose stores are two of them (R301). -/

namespace Sys2Proof.Machine

/-- A displacement: IMM32 unscaled in X and XL form, else the word's field times the access size (R258). -/
def dispOf {w : Nat} (i : BitVec w) (z : Sz) (m : Mods) : Word :=
  if m.len.ext then m.imm32.signExtend 64 else i.signExtend 64 * BitVec.ofNat 64 (Sz.bytes z)

/-- A loaded value reaches its destination, at once or when it returns (R99). -/
def loadDst (d : Opnd) (z : Sz) (g : Got) : Sem Unit :=
  match g with
  | .val v => dst d (widen (.size z) v)
  | .later id => dstLater d id

/-- A plain load (R322). -/
def loadAt (d : Opnd) (z : Sz) (ea : Word) : Sem Unit := do
  let g ← load ea (Sz.bytes z) (.size z) none
  loadDst d z g

/-- A store (R322); `enc` is the encoding, for a store that starts a copy. -/
def storeAt (ea : Word) (z : Sz) (v : Word) (rel : Option Scope) (enc : Word) : Sem Unit :=
  storeTo ea (Sz.bytes z) v.toNat rel (fun ch w => startCopy ch w enc)

/-- LD (R322). -/
def execLd (d a : Opnd) (z : Sz) (i : BitVec 7) (m : Mods) (s : State) : Host.Outcome State Fault Refusal :=
  runInstr (.ld d a z i m) m s (fun _ => do
    let b ← src a m
    loadAt d z (b + dispOf i z m))

/-- ST (R322). -/
def execSt (d a : Opnd) (z : Sz) (i : BitVec 7) (m : Mods) (s : State) : Host.Outcome State Fault Refusal :=
  runInstr (.st d a z i m) m s (fun _ => do
    let b ← src a m
    let v ← src d m
    storeAt (b + dispOf i z m) z v none (encOf (.st d a z i m) m))

/-- LDX (R322). -/
def execLdx (f : Sz) (d a b : Opnd) (m : Mods) (s : State) : Host.Outcome State Fault Refusal :=
  runInstr (.ldx f d a b m) m s (fun _ => do
    let x ← src a m
    let y ← src b m
    loadAt d f (x + y))

/-- STX (R322). -/
def execStx (f : Sz) (d a b : Opnd) (m : Mods) (s : State) : Host.Outcome State Fault Refusal :=
  runInstr (.stx f d a b m) m s (fun _ => do
    let x ← src a m
    let y ← src b m
    let v ← src d m
    storeAt (x + y) f v none (encOf (.stx f d a b m) m))

/-- LDA (R322): the destination is written after the acquire actions, and the context goes on after that. -/
def execLda (d a : Opnd) (z : Sz) (i : BitVec 3) (k : Scope) (m : Mods) (s : State) : Host.Outcome State Fault Refusal :=
  runInstr (.lda d a z i k m) m s (fun _ => do
    let b ← src a m
    let g ← load (b + dispOf i z m) (Sz.bytes z) (.size z) (some k)
    loadDst d z g
    match g with
    | .val _ => pure ()
    | .later id => blockOn [id])

/-- STL (R322): performed at its target after the release actions; the context does not wait. -/
def execStl (d a : Opnd) (z : Sz) (i : BitVec 3) (k : Scope) (m : Mods) (s : State) : Host.Outcome State Fault Refusal :=
  runInstr (.stl d a z i k m) m s (fun _ => do
    let b ← src a m
    let v ← src d m
    storeAt (b + dispOf i z m) z v (some k) (encOf (.stl d a z i k m) m))

/-- ENTER (R125, R301). -/
def execEnter (d : BitVec 7) (m : Mods) (s : State) : Host.Outcome State Fault Refusal :=
  runInstr (.enter d m) m s (fun _ => enterBody d m (fun ch w => startCopy ch w (encOf (.enter d m) m)))

end Sys2Proof.Machine
end

