-- ==== Sys2Proof/Machine/Cache.lean ====
section
/-! DEFINITION. Cache maintenance and fences (R136, R323 to R325). -/

namespace Sys2Proof.Machine

/-- The lines that hold a byte of [a, a + n), in ascending order. -/
def linesOf (a n : Nat) : List Nat :=
  if n = 0 then [] else (List.range ((a + n - 1) / 64 - a / 64 + 1)).map (fun k => wrap ((a / 64 + k) * 64))

/-- What a member does to one line: none where it does nothing more than the checks. -/
inductive LineOp
  | pref (l2 : Bool) | cwb | cinv | zero
deriving DecidableEq, Repr

/-- The permission that the checks of R142 ask for. -/
def LineOp.perm : LineOp → Perm
  | .zero => .w
  | _ => .r

/-- A translated line that passed its checks. -/
def State.lineAct (s : State) (n x : Nat) (op : LineOp) (t : TlbEnt) (pa : Nat) : State :=
  let key := (s.keyOf t).getD 0
  let loc : Loc := .hbm pa key t.kind t.x
  let so := if t.kind = .so then s.soIds n x else []
  let (id, s1) := s.newId
  match op with
  | .cwb => s.l1Clean n pa false
  | .cinv => s.l1Clean n pa true
  | .zero => (s1.l1Forget n pa).fly { id := id, core := n, ctx := x, op := .zero, locs := [(loc, 64)], after := so }
  | .pref true => s.l2Fill pa (some key)
  | .pref false =>
    if t.kind = .so || (l1Find (s.core n).l1 pa).isSome then s
    else s1.fly { id := id, core := n, ctx := x, op := .fill, locs := [(loc, 64)] }

/-- The zeros of CDISC and CZERO in a local window (R323). -/
def State.zeroLocal (s : State) (n x : Nat) (l : Loc) : State :=
  let (id, s1) := s.newId
  s1.fly { id := id, core := n, ctx := x, op := .zero, locs := [(l, 64)] }

/-- The same through a rose view, in the slot that the needle selects at the home's port (R152). -/
def State.zeroView (s : State) (n x : Nat) (r : RoseRef) : State :=
  let (id, s1) := s.newId
  s1.fly { id := id, core := n, ctx := x, op := .zero, locs := [], rose := some r }

/-- One line: the cause that stops the instruction, with the state that its translation leaves, or the state after it (R136, R323). -/
def State.lineOp (s : State) (n x : Nat) (op : LineOp) (l : Nat) : Except (BitVec 8) Unit × State :=
  let loc (k : Loc) : Except (BitVec 8) Unit × State := (.ok (), if op = .zero then s.zeroLocal n x k else s)
  match s.classify n l 64 with
  | .error c => (.error c, s)
  | .ok (.own off) => loc (.scr n off)
  | .ok (.mesh m off) => loc (.scr m off)
  | .ok (.die d off) => loc (.die d off)
  | .ok (.rose r off) =>
    match s.roseResolve n r off 64 true with
    | .error c => (.error c, s)
    | .ok (hc, hr, k, o) =>
      if hc = n then loc (.scr hc (((s.core hc).rose hr).slotOff k o))
      else (.ok (), if op = .zero then s.zeroView n x (roseInfo s n r hc hr k o 64) else s)
  | .ok (.aperture _) => (.error 0x11, s)
  | .ok (.acc _) => (.error 0x11, s)
  | .ok (.global va) =>
    if op = .zero && s.checkpointed n then (.error 0x11, s)
    else match s.xlateNow n (s.homePart n) va with
      | (.error c, s1) => (.error c, s1)
      | (.ok t, s1) =>
        match s1.pageCause t op.perm va 64 with
        | some c => (.error c, s1)
        | none => (.ok (), s1.lineAct n x op t (t.phys va))

/-- Lines in turn; the first that fails, with what the earlier ones left and its translation. -/
def State.lineOps (s : State) (n x : Nat) (op : LineOp) : List Nat → State × Option (BitVec 8 × Nat)
  | [] => (s, none)
  | l :: ls =>
    match s.lineOp n x op l with
    | (.ok (), s1) => lineOps s1 n x op ls
    | (.error c, s1) =>
      match op with
      | .pref _ => lineOps s1 n x op ls
      | _ => (s1, some (c, l))

/-- The five members: the count, then the lines; an earlier line keeps its effect when a later one fails (R210). -/
def cacheOp (i : Instr) (a c : Opnd) (m : Mods) (s : State) (op : LineOp) : Host.Outcome State Fault Refusal :=
  runInstr i m s (fun _ => do
    let ea ← src a m
    let cnt ← if m.len.ext then src c m else pure 1
    check (decide (cnt.toNat ≤ 0x1000000)) 0x02 (encOf i m)
    let s ← getS
    match s.lineOps s.cur.1 s.cur.2 op (linesOf ea.toNat cnt.toNat) with
    | (t, none) => putS t
    | (_, some (c, l)) => fun _ => .error (.raiseKeep c (BitVec.ofNat 64 l)
        (fun s => (s.lineOps s.cur.1 s.cur.2 op (linesOf ea.toNat cnt.toNat)).1)))

/-- PREF (R323); MOD[26] asks for the L2 only. -/
def execPref (a c : Opnd) (m : Mods) (s : State) : Host.Outcome State Fault Refusal :=
  cacheOp (.pref a c m) a c m s (.pref (m.mod.getLsbD 2))

/-- CWB (R323). -/
def execCwb (a c : Opnd) (m : Mods) (s : State) : Host.Outcome State Fault Refusal :=
  cacheOp (.cwb a c m) a c m s .cwb

/-- CINV (R323). -/
def execCinv (a c : Opnd) (m : Mods) (s : State) : Host.Outcome State Fault Refusal :=
  cacheOp (.cinv a c m) a c m s .cinv

/-- CDISC (R136, R323). -/
def execCdisc (a c : Opnd) (m : Mods) (s : State) : Host.Outcome State Fault Refusal :=
  cacheOp (.cdisc a c m) a c m s .zero

/-- CZERO (R136, R323). -/
def execCzero (a c : Opnd) (m : Mods) (s : State) : Host.Outcome State Fault Refusal :=
  cacheOp (.czero a c m) a c m s .zero

/-- IFENCE (R155, R324). -/
def execIfence (m : Mods) (s : State) : Host.Outcome State Fault Refusal :=
  runInstr (.ifence m) m s (fun _ => do
    modMe (fun c => c.l1Invalidate (fun l => l.x))
    modMy (fun k => { k with fbuf := none }))

/-- The scope of MOD[31:28], and .sys without an extension (R268). -/
def modScope (m : Mods) : Scope := if m.len.ext then Scope.ofCode (m.mod.extractLsb' 4 4) else .sys

/-- Waits until the context's earlier reads have returned their values. -/
def readsFirst : Sem Unit := fun s =>
  if s.readsUnderWay s.cur.1 s.cur.2 = [] && s.me.vmIds s.cur.2 = [] then .ok ((), s) else .error (.block id)

/-- The release half of a FENCE.full, made before the acquire half begins. -/
def fullFirst (sc : Scope) : Sem Unit := fun s =>
  if s.my.wait.any (fun w => w.on = .release && w.arrived) then .ok ((), s)
  else match s.fullActs s.cur.1 s.cur.2 sc with
    | ([], t) => .ok ((), t)
    | (_ :: _, _) => .error (.block (fun s =>
        let (ids, t) := s.fullActs s.cur.1 s.cur.2 sc
        t.setMy { t.my with wait := some { on := .release, arrived := true }, block := t.my.block ++ ids }))

/-- FENCE (R325): the actions of R166 for its kind and scope; the context goes on when they are complete. -/
def execFence (d : FenceKind) (m : Mods) (s : State) : Host.Outcome State Fault Refusal :=
  runInstr (.fence d m) m s (fun _ => do
    let sc := modScope m
    match d with
    | .rel => do
      let ids ← release sc
      blockOn ids
    | .acq => do
      if sc = .ctx then pure () else readsFirst
      modS (fun s => s.acquireActs s.cur.1 sc)
    | .full =>
      if sc = .ctx then pure ()
      else do
        fullFirst sc
        modS (fun s => (s.fullEnd s.cur.1 sc).acquireActs s.cur.1 sc))

end Sys2Proof.Machine
end

