-- ==== Sys2Proof/Machine/Atomic.lean ====
section
/-! DEFINITION. WAITA and the atomics (R326 to R328). -/

namespace Sys2Proof.Machine

/-! ### WAITA (R326) -/

/-- The limit operand of a wait: unsigned, at most 2^32 − 1, and none in a form without extension. -/
def limitOf (c : Opnd) (m : Mods) : Sem Nat :=
  if m.len.ext then do let v ← src c m; pure (min v.toNat (2 ^ 32 - 1)) else pure 0

/-- The wait of a WAITA whose word does not differ yet: `due` says that a poll is due. -/
def pollWait (lim : Nat) (due : Bool) : Sem Unit := fun _ => .error (.block (fun s =>
  let k := s.my.waiting .poll
  s.setMy { k with answer := none, wait := k.wait.map (fun w => { w with limit := lim, arrived := due }) }))

/-- A poll begins: a local word is read at once; another is read by an access whose value comes back as an answer.  What
the poll leaves in the state stays, though the instruction has not completed. -/
def startPoll (ea : Word) (z : Sz) (lim : Nat) (got : Nat → Sem Unit) : Sem Unit := fun s =>
  match load ea (Sz.bytes z) (.size z) (some .oct) true s with
  | .error e => .error e
  | .ok (.val v, t) => got v t
  | .ok (.later _, _) => .error (.block (fun s =>
      match load ea (Sz.bytes z) (.size z) (some .oct) true s with
      | .ok (.later i, t) =>
        let k := t.my.waiting .poll
        t.setMy { k with block := k.block ++ [i], wait := k.wait.map (fun w => { w with limit := lim, arrived := true }) }
      | _ => s))

/-- WAITA (R326). -/
def execWaita (f : Sz) (d a b c : Opnd) (m : Mods) (s : State) : Host.Outcome State Fault Refusal :=
  runInstr (.waita f d a b c m) m s (fun _ => do
    let ea ← src a m
    let cmp ← src b m
    let lim ← limitOf c m
    let n := 8 * Sz.bytes f
    let want := cmp.toNat % 2 ^ n
    let k ← getMy
    let got (v : Nat) : Sem Unit :=
      if v % 2 ^ n ≠ want then do
        modMy (fun k => { k with answer := none })
        dst d (widen (.size f) v)
        acquireNow (some (modScope m))
      else pollWait lim false
    match k.wait, k.answer with
    | some w, some (_, v) => if w.on = .poll then got v.toNat else startPoll ea f lim got
    | some w, none =>
      if w.on ≠ .poll then startPoll ea f lim got
      else if w.expired then dst d (widen (.size f) want)
      else if w.arrived then startPoll ea f lim got
      else pollWait lim false
    | none, _ => startPoll ea f lim got)

/-! ### Atomics (R327) -/

/-- The new value of a location, none where nothing is written; for ACAS c is the value to store. -/
def rmwNew (i : Instr) (old y c : Nat) : Option Nat :=
  match i with
  | .aadd _ _ _ m => some ((old + y) % 2 ^ m.ty.bits)
  | .aand _ _ _ m => some ((old &&& y) % 2 ^ m.ty.bits)
  | .aor _ _ _ m => some ((old ||| y) % 2 ^ m.ty.bits)
  | .axor _ _ _ m => some ((old ^^^ y) % 2 ^ m.ty.bits)
  | .amin _ _ _ m =>
    if m.ty = .f32 then some (minMaxNum .f32 false (old % 2 ^ 32) (y % 2 ^ 32)).1
    else some (lowBits m.ty.bits (min (intOf m.ty old) (intOf m.ty y)))
  | .amax _ _ _ m =>
    if m.ty = .f32 then some (minMaxNum .f32 true (old % 2 ^ 32) (y % 2 ^ 32)).1
    else some (lowBits m.ty.bits (max (intOf m.ty old) (intOf m.ty y)))
  | .aswp _ _ _ m => some (y % 2 ^ m.ty.bits)
  | .afadd _ _ _ _ => some (addRne .f32 (old % 2 ^ 32) (y % 2 ^ 32)).1
  | .acas _ _ _ _ m => if old % 2 ^ m.ty.bits = y % 2 ^ m.ty.bits then some (c % 2 ^ m.ty.bits) else none
  | _ => none

/-- A rmw at the own scratchpad (R328). -/
def ownRmw (i : Instr) (d : Opnd) (t : ElTy) (off y c : Nat) : Sem Unit := do
  ownReady off (t.bits / 8)
  let old ← ownRead off (t.bits / 8)
  match rmwNew i old y c with
  | some v => modMe (fun k => k.scrWrite off (t.bits / 8) v)
  | none => pure ()
  dst d (extendTy t old)

/-- A rmw elsewhere: performed where the location lies, in the order of the core's accesses to it (R328). -/
def farRmw (i : Instr) (d : Opnd) (t : ElTy) (y c : Word) (locs : List (Loc × Nat))
    (rose : Option RoseRef) (after : List Nat := []) : Sem Unit := do
  let id ← send (.rmw i y c) locs (.ty t) after none rose
  dstLater d id

/-- The L1 copies of the lines are written back where dirty, and dropped (R328). -/
def dropLines (pa sz : Nat) : Sem Unit := modS (fun s =>
  (splitLines pa (sz + 1) sz).foldl (fun s p => s.l1Clean s.cur.1 (lineBase p.1) true) s)

/-- An atomic at an address (R327, R328, R142). -/
def atomicAt (i : Instr) (d : Opnd) (t : ElTy) (ea y c : Word) : Sem Unit := do
  let s ← getS
  let n := s.cur.1
  let sz := t.bits / 8
  match s.classify n ea.toNat sz with
  | .error e => raise e ea
  | .ok (.own off) => ownRmw i d t off y.toNat c.toNat
  | .ok (.mesh k off) => farRmw i d t y c [(.scr k off, sz)] none
  | .ok (.die k off) => farRmw i d t y c [(.die k off, sz)] none
  | .ok (.rose r off) =>
    match s.roseResolve n r off sz true with
    | .error e => raise e ea
    | .ok (hc, hr, k, o) =>
      if hc = n then ownRmw i d t ((s.me.rose hr).slotOff k o) y.toNat c.toNat
      else farRmw i d t y c [] (some (roseInfo s n r hc hr k o sz))
  | .ok (.aperture _) => raise 0x11 ea
  | .ok (.acc _) => raise 0x11 ea
  | .ok (.global va) => do
    check (!s.checkpointed n) 0x11 ea
    let p ← xlate va sz .rw ea
    check (decide (va + sz ≤ p.va + p.size)) 0x13 ea
    let s ← getS
    check (!s.eccBad (p.phys va) sz) 0x14 ea
    let so ← soAfter p.kind
    dropLines (p.phys va) sz
    let s ← getS
    farRmw i d t y c (hbmLocs s p va sz) none so

/-- A member of the AMO group (R327). -/
def amo (i : Instr) (d a b : Opnd) (m : Mods) (s : State) : Host.Outcome State Fault Refusal :=
  runInstr i m s (fun _ => do
    let ea ← src a m
    let y ← src b m (srcTyOf m.ty)
    atomicAt i d m.ty ea y 0)

/-- AADD (R327). -/
def execAadd (d a b : Opnd) (m : Mods) (s : State) : Host.Outcome State Fault Refusal := amo (.aadd d a b m) d a b m s
/-- AAND (R327). -/
def execAand (d a b : Opnd) (m : Mods) (s : State) : Host.Outcome State Fault Refusal := amo (.aand d a b m) d a b m s
/-- AOR (R327). -/
def execAor (d a b : Opnd) (m : Mods) (s : State) : Host.Outcome State Fault Refusal := amo (.aor d a b m) d a b m s
/-- AXOR (R327). -/
def execAxor (d a b : Opnd) (m : Mods) (s : State) : Host.Outcome State Fault Refusal := amo (.axor d a b m) d a b m s
/-- AMIN (R327). -/
def execAmin (d a b : Opnd) (m : Mods) (s : State) : Host.Outcome State Fault Refusal := amo (.amin d a b m) d a b m s
/-- AMAX (R327). -/
def execAmax (d a b : Opnd) (m : Mods) (s : State) : Host.Outcome State Fault Refusal := amo (.amax d a b m) d a b m s
/-- ASWP (R327). -/
def execAswp (d a b : Opnd) (m : Mods) (s : State) : Host.Outcome State Fault Refusal := amo (.aswp d a b m) d a b m s
/-- AFADD (R327, R252). -/
def execAfadd (d a b : Opnd) (m : Mods) (s : State) : Host.Outcome State Fault Refusal := amo (.afadd d a b m) d a b m s

/-- ACAS (R327). -/
def execAcas (d a b c : Opnd) (m : Mods) (s : State) : Host.Outcome State Fault Refusal :=
  runInstr (.acas d a b c m) m s (fun _ => do
    let ea ← src a m
    let y ← src b m (srcTyOf m.ty)
    let z ← src c m (srcTyOf m.ty)
    atomicAt (.acas d a b c m) d m.ty ea y z)

end Sys2Proof.Machine
end

