-- ==== Sys2Proof/Machine/Barriers.lean ====
section
/-! DEFINITION. Barriers (R329 to R332) and rose regions (R148 to R154, R333). -/

namespace Sys2Proof.Machine

/-! ### Descriptors (R329) -/

def barRect (w : Word) : Rect := rectOfWord w
/-- The contexts of CMASK. -/
def barCtxs (w : Word) : List Nat := ctxNums.filter (fun x => w.getLsbD (16 + x))
/-- The participants. -/
def barParts (w : Word) : List (Nat × Nat) := (barRect w).cores.flatMap (fun n => (barCtxs w).map (fun x => (n, x)))
/-- The origin core. -/
def barOrigin (w : Word) : Nat := coreAt (barRect w).x0 (barRect w).y0
/-- A descriptor that passes the first check of R330. -/
def barOk (w : Word) : Bool := decide (bitsOf w 27 37 = 0) && bitsOf w 16 11 ≠ 0 && (barRect w).aligned

/-- The narrowest scope that contains all participants (R169). -/
def barScope (w : Word) : Scope :=
  match barParts w with
  | [_] => .ctx
  | (n, _) :: rest =>
    if rest.all (fun p => p.1 = n) then .core else if rest.all (fun p => octetOf p.1 = octetOf n) then .oct else .gang
  | [] => .ctx

/-! ### The origin (R330) -/

/-- An arrival reaches the origin: counted while bN is bound to its descriptor, else held. -/
def Barrier.arrive (b : Barrier) (w : Word) (n x : Nat) : Barrier :=
  if b.desc = some w then { b with counted := b.counted ++ [(n, x)] } else { b with held := b.held ++ [(w, n, x)] }

/-- Every participant has been counted. -/
def Barrier.full (b : Barrier) : Bool :=
  match b.desc with
  | some w => (barParts w).all (fun p => b.counted.contains p)
  | none => false

/-- A new binding: arrivals that carry its descriptor count, the others are held. -/
def Barrier.bind (b : Barrier) (w : Word) : Barrier :=
  let all := b.held ++ b.counted.map (fun p => (b.desc.getD 0, p.1, p.2))
  { b with desc := some w, counted := (all.filter (fun a => a.1 = w)).map Prod.snd, held := all.filter (fun a => a.1 ≠ w) }

/-- A release reaches a core: its waiting contexts go on, each with the descriptor of the instance that has released it. -/
def Barrier.release (b : Barrier) (w : Word) : Barrier :=
  { b with waiting := [], seen := b.seen + 1, rels := AMap.set b.rels w.toNat (AMap.getD b.rels w.toNat 0 + 1)
           freed := b.waiting.foldl (fun m x => AMap.set m x w) b.freed }

/-- The completion of an instance at its origin: the releases set out. -/
def State.barComplete (s : State) (o b : Nat) : State :=
  let k := (s.core o).bar b
  match k.desc with
  | some w =>
    if k.full then
      (barRect w).cores.foldl (fun s n => s.post (.barRelease b w n) [] (meshDist o n))
        (s.setCore o ((s.core o).setBar b { k with counted := [] }))
    else s
  | none => s

/-- BINIT (R330). -/
def execBinit (a : BitVec 7) (d : Opnd) (m : Mods) (s : State) : Host.Outcome State Fault Refusal :=
  runInstr (.binit a d m) m s (fun _ => do
    let w ← src d m
    let s ← getS
    let n := s.cur.1
    let b := a.toNat
    check (barOk w) 0x02 (encOf (.binit a d m) m)
    let inGang := match s.me.gang with | some g => (barRect w).within g.rect | none => false
    check (inGang && (barRect w).has n) 0x50 (BitVec.ofNat 64 b)
    check ((s.me.bar b).waiting = []) 0x50 (BitVec.ofNat 64 b)
    modMe (fun c => c.setBar b ((c.bar b).bind w))
    if barOrigin w = n then modS (fun s => s.barComplete n b) else pure ())

/-! ### Arrival and waiting (R331, R169) -/

/-- The checks for misuse: bound, in CMASK, no earlier arrival unreleased. -/
def Core.barUse (c : Core) (x b : Nat) : Bool :=
  match (c.bar b).desc with
  | some w => w.getLsbD (16 + x) && !(c.bar b).waiting.contains x
  | none => false

/-- An arrival: a release at the barrier's scope, sent after the context's earlier rose accesses have read the needle. -/
def State.barArrive (s : State) (n x b : Nat) : State :=
  let w := ((s.core n).bar b).desc.getD 0
  let (ids, s1) := s.releaseActs n x (barScope w)
  let roses := (s1.flight.filter (fun a => a.core = n && a.ctx = x && a.rose.isSome && !a.performed)).map Access.id
  let k := (s1.core n).bar b
  (s1.setCore n ((s1.core n).setBar b { k with waiting := k.waiting ++ [x] })).post (.barArrive b w n x) (ids ++ roses)
    (meshDist n (barOrigin w))

/-- A participant has arrived at the instance that its core takes part in. -/
def State.barHasArrived (s : State) (b : Nat) (w : Word) (p : Nat × Nat) : Bool :=
  let k := (s.core p.1).bar b
  k.desc = some w && k.waiting.contains p.2

/-- The instance's release is on its way to a core. -/
def State.barReleasing (s : State) (n b : Nat) : Bool :=
  s.noc.any (fun i => match i.m with | .barRelease c _ k => c = b && k = n | _ => false)

/-- The instance is withheld: a participant that has not arrived is halted (R202). -/
def State.barWithheld (s : State) (n b : Nat) (arrived : Bool) : Option Upstream :=
  match ((s.core n).bar b).desc with
  | some w =>
    if s.barReleasing n b && arrived then none
    else
      let late := (barParts w).filter (fun p => !s.barHasArrived b w p)
      (s.withholder late).map (fun u => ⟨3, b, arrived, some u⟩)
  | none => none

/-- BARR (R331). -/
def execBarr (a : BitVec 7) (m : Mods) (s : State) : Host.Outcome State Fault Refusal :=
  runInstr (.barr a m) m s (fun _ => do
    let s ← getS
    check (s.me.barUse s.cur.2 a.toNat) 0x50 (a.setWidth 64)
    putS (s.barArrive s.cur.1 s.cur.2 a.toNat))

/-- The return of a barrier wait is an acquire at the scope of the instance that has released the context (R169). -/
def barReturn (b : Nat) (d : Opnd) : Sem Unit := do
  let s ← getS
  let k := s.me.bar b
  acquireNow (some (barScope ((AMap.get? k.freed s.cur.2).getD (k.desc.getD 0))))
  dst d 0

/-- The waiting part of BWAIT and BARW. -/
def barWait (b : Nat) (d : Opnd) (lim : Nat) (arrived : Bool) : Sem Unit := do
  let s ← getS
  if !(s.me.bar b).waiting.contains s.cur.2 then barReturn b d
  else match s.my.wait with
    | some w => if w.expired && w.on = .barrier b then dst d 1 else waitFor (.barrier b) lim (s.barWithheld s.cur.1 b arrived)
    | none => waitFor (.barrier b) lim (s.barWithheld s.cur.1 b arrived)

/-- BWAIT (R331). -/
def execBwait (d : Opnd) (a : BitVec 7) (c : Opnd) (m : Mods) (s : State) : Host.Outcome State Fault Refusal :=
  runInstr (.bwait d a c m) m s (fun _ => do
    let lim ← limitOf c m
    barWait a.toNat d lim true)

/-- BARW (R331, R204): where the object is withheld at issue, it does not arrive. -/
def execBarw (d : Opnd) (a : BitVec 7) (c : Opnd) (m : Mods) (s : State) : Host.Outcome State Fault Refusal :=
  runInstr (.barw d a c m) m s (fun _ => do
    let lim ← limitOf c m
    let s ← getS
    let b := a.toNat
    if s.my.wait.any (fun w => w.on = .barrier b && w.arrived) then barWait b d lim true
    else do
      check (s.me.barUse s.cur.2 b) 0x50 (BitVec.ofNat 64 b)
      match (if s.noSpread s.cur.1 then none else s.barWithheld s.cur.1 b false) with
      | some u => fun _ => .error (.withheld u)
      | none => fun _ => .error (.block (fun s =>
          let t := s.barArrive s.cur.1 s.cur.2 b
          t.setMy { t.my with wait := some { on := .barrier b, limit := lim, arrived := true } })))

/-- The status word (R332). -/
def State.barStatus (s : State) (n x b : Nat) : Word :=
  let k := (s.core n).bar b
  let w := k.desc.getD 0
  let bound := k.desc.isSome
  BitVec.ofNat 64 ((if k.waiting.contains x then 2 ^ 50 else 0) + (if (s.barWithheld n b true).isSome then 2 ^ 49 else 0) +
    (if bound then 2 ^ 48 else 0) + k.seen % 2 ^ 16 * 2 ^ 32 + (if bound then (barParts w).length else 0) * 2 ^ 16 +
    (if bound && barOrigin w = n then k.counted.length else k.waiting.length))

/-- BSTAT (R332). -/
def execBstat (d : Opnd) (a : BitVec 7) (m : Mods) (s : State) : Host.Outcome State Fault Refusal :=
  runInstr (.bstat d a m) m s (fun _ => do
    let s ← getS
    dst d (s.barStatus s.cur.1 s.cur.2 a.toNat))

/-! ### Rose regions (R148, R149) -/

/-- Where BASE lies: core and scratchpad offset, in the own scratchpad or cluster window. -/
def roseBase (n : Nat) (base : Word) : Option (Nat × Nat) :=
  match winOf base.toNat with
  | some (0, o) => some (n, o)
  | some (1, o) => some (octetCore (octetOf n) (o / 0x80000), o % 0x80000)
  | _ => none

/-- The first check of R149 on a record; HREGION of a home is 0 (R148, log entry 83). -/
def roseOk (d0 d1 d2 d3 : Word) : Bool :=
  let view := d3.getLsbD 4
  let slots := bitsOf d1 32 5
  let bytes := bitsOf d1 0 32
  let lead := bitsOf d1 48 4
  decide (bitsOf d1 52 12 = 0) && !d1.getLsbD 47 && decide (bitsOf d1 37 3 = 0) && decide (bitsOf d2 32 32 = 0) &&
  decide (bitsOf d3 5 59 = 0) && decide (64 ≤ bytes) && decide (bytes ≤ 65536) && decide (bytes % 64 = 0) &&
  decide (2 ≤ slots) && decide (slots ≤ 16) && decide (d0.toNat % 64 = 0) &&
  (if view then decide (lead = 0) && decide (bitsOf d1 40 7 = 0) && decide (bitsOf d2 0 32 = 0)
   else decide (1 ≤ lead) && decide (lead < slots) && decide (bitsOf d3 0 4 = 0))

/-- The region bound by a record. -/
def Rose.ofRecord (old : Rose) (off hc hgen : Nat) (d1 d2 d3 : Word) : Rose :=
  { bound := true, base := BitVec.ofNat 64 off, lead := bitsOf d1 48 4, barrier := bitsOf d1 40 7, slots := bitsOf d1 32 5
    slotbytes := bitsOf d1 0 32, laps := bitsOf d2 0 32, view := d3.getLsbD 4, hregion := bitsOf d3 0 4
    hcore := hc, hgen := hgen, needle := 0, lap := 0, gen := old.gen + 1 }

/-- ROSEB (R149, R333). -/
def execRoseb (d : BitVec 4) (a : Opnd) (m : Mods) (s : State) : Host.Outcome State Fault Refusal :=
  runInstr (.roseb d a m) m s (fun _ => do
    let ea ← src a m
    let bs ← ctxRead ea.toNat 32
    let w (i : Nat) : Word := (words8 bs 4).getD i 0
    check (roseOk (w 0) (w 1) (w 2) (w 3)) 0x02 (encOf (.roseb d a m) m)
    let s ← getS
    let n := s.cur.1
    match roseBase n (w 0) with
    | none => raise 0x15 (w 0)
    | some (hc, off) => do
      check (decide (off + bitsOf (w 1) 32 5 * bitsOf (w 1) 0 32 ≤ (s.core hc).top)) 0x15 (w 0)
      let view := (w 3).getLsbD 4
      check (if view then hc ≠ n else hc = n) 0x02 (encOf (.roseb d a m) m)
      let h := (s.core hc).rose (bitsOf (w 3) 0 4)
      check (!view || (h.bound && !h.view && decide (h.base.toNat = off) && decide (h.slots = bitsOf (w 1) 32 5) &&
        decide (h.slotbytes = bitsOf (w 1) 0 32))) 0x53 (w 0)
      modMe (fun c => c.setRose d.toNat ((c.rose d.toNat).ofRecord off hc h.gen (w 1) (w 2) (w 3))))

/-- The region state word (R154, R333). -/
def State.roseWord (s : State) (n r : Nat) : Word :=
  let e := (s.core n).rose r
  if !e.bound then 0
  else if s.roseStale n r then BitVec.ofNat 64 (2 ^ 37)
  else
    let (hc, hr) := s.roseHome n r
    let h := (s.core hc).rose hr
    BitVec.ofNat 64 (h.lap.toNat + h.needle * 2 ^ 32 + 2 ^ 36 + (if e.view then 2 ^ 37 else 0))

/-- ROSEQ (R333): it never raises; through a view it waits for the advances that R152 asks for. -/
def execRoseq (d : Opnd) (a : BitVec 4) (m : Mods) (s : State) : Host.Outcome State Fault Refusal :=
  runInstr (.roseq d a m) m s (fun _ => do
    let s ← getS
    let n := s.cur.1
    let r := a.toNat
    let (hc, hr) := s.roseHome n r
    if (s.me.rose r).view && !s.roseStale n r && !s.roseReady hc hr (s.roseNeed n hc hr) then notYet
    else dst d (s.roseWord n r))

/-- The region left unbound, its bind generation kept. -/
def Rose.unbind (r : Rose) : Rose := { gen := r.gen }

/-- ROSEX (R333). -/
def execRosex (d : BitVec 4) (m : Mods) (s : State) : Host.Outcome State Fault Refusal :=
  runInstr (.rosex d m) m s (fun _ =>
    modMe (fun c => if (c.rose d.toNat).bound then c.setRose d.toNat (c.rose d.toNat).unbind else c))

/-- The advance of a home at a release of its barrier (R151). -/
def Rose.advance (r : Rose) : Rose :=
  if r.needle + 1 < r.slots then { r with needle := r.needle + 1 } else { r with needle := 0, lap := r.lap + 1 }

end Sys2Proof.Machine
end

