-- ==== Sys2Proof/Machine/Messages.lean ====
section
/-! DEFINITION. Messages (R173 to R178, R334 to R336) and wake digests (R225). -/

namespace Sys2Proof.Machine

/-! ### Formats (R178) -/

/-- Wide and narrow types of a format code. -/
def fmtTypes : Nat → Option (ElTy × ElTy)
  | 1 => some (.f32, .bf16) | 2 => some (.f32, .f16) | 3 => some (.f32, .e4m3) | 4 => some (.f32, .e5m2)
  | 5 => some (.i32, .i16) | 6 => some (.i32, .i8)
  | _ => none

/-- A 32-bit value narrowed with RoundRNE; integers saturate, and an E4M3 NaN keeps its sign. -/
def narrow32 (fmt v : Nat) : Nat :=
  match fmtTypes fmt with
  | none => v % 2 ^ 32
  | some (w, t) =>
    if t = .e4m3 && (numOf .f32 v).isNan then v / 2 ^ 31 % 2 * 128 + 0x7F
    else (convert w t .rne 0 (w = .i32) v).1

/-- A narrow value widened exactly. -/
def widen32 (fmt v : Nat) : Nat :=
  match fmtTypes fmt with
  | none => v % 2 ^ 32
  | some (w, t) => (convert t w .rne 0 false v).1 % 2 ^ 32

/-- The bytes that a narrow value takes on the link. -/
def narrowBytes (fmt : Nat) : Nat :=
  match fmtTypes fmt with
  | some (_, t) => t.bits / 8
  | none => 4

/-- Groups of k bytes. -/
def groups (k : Nat) : Nat → List Byte → List (List Byte)
  | 0, _ => []
  | fuel + 1, bs => if bs = [] then [] else bs.take k :: groups k fuel (bs.drop k)

/-- A payload as the link carries it, and as it is stored. -/
def narrowData (fmt : Nat) (bs : List Byte) : List Byte :=
  if fmt = 0 then bs else (groups 4 bs.length bs).flatMap (fun g => leBytes (narrowBytes fmt) (narrow32 fmt (ofLeBytes g)))
def widenData (fmt : Nat) (bs : List Byte) : List Byte :=
  if fmt = 0 then bs else (groups (narrowBytes fmt) bs.length bs).flatMap (fun g => leBytes 4 (widen32 fmt (ofLeBytes g)))

/-! ### Headers (R176) -/

def hdrFmt (h : Word) : Nat := bitsOf h 24 3
def hdrLen (h : Word) : Nat := bitsOf h 14 10
def Msg.wide (g : Msg) : List Byte := widenData (hdrFmt g.hdr) g.data

/-- The header that the network interface builds (R335). -/
def msgHdr (n x fmt len mbox : Nat) : Word :=
  BitVec.ofNat 64 (x * 2 ^ 27 + fmt * 2 ^ 24 + len * 2 ^ 14 + mbox * 2 ^ 10 + coreY n * 2 ^ 5 + coreX n)

/-- The narrowest scope that holds two cores' contexts (R169). -/
def msgScope (n k : Nat) : Scope := if n = k then .core else if octetOf n = octetOf k then .oct else .gang

/-! ### Binding words (R173) -/

def bindRect (w : Word) : Rect := ⟨bitsOf w 17 5, bitsOf w 22 5, bitsOf w 27 3, bitsOf w 30 3⟩
def bindAllow (w : Word) : Nat := bitsOf w 14 3
def bindSlot (w : Word) : Nat := 8 * bitsOf w 4 10
def bindMbox (w : Word) : Nat := bitsOf w 0 4
/-- C of R173. -/
def bindSlots (w : Word) : Nat := 512 / bindSlot w
/-- The first check of R174. -/
def bindOk (w : Word) : Bool :=
  decide (bitsOf w 33 31 = 0) && decide (1 ≤ bitsOf w 4 10) && decide (bitsOf w 4 10 ≤ 64) && decide (1 ≤ bindAllow w) &&
  decide (bindAllow w ≤ 4) && (bindRect w).aligned

/-- The mesh-window base of a core (R128, R215). -/
def meshBase (n : Nat) : Word := BitVec.ofNat 64 (ownBase + 0x1000000000 + n * 0x100000)

/-- A mailbox's key in a network interface's grants. -/
def mboxKey (n m : Nat) : Nat := n * 16 + m

/-- The grants of a binding are revoked at every producer (R174 step 1). -/
def State.revoke (s : State) (n m : Nat) : State :=
  { s with cores := s.cores.map (fun p => (p.1, { p.2 with grants := AMap.erase p.2.grants (mboxKey n m) })) }

/-- All mailboxes of a core are unbound (R173). -/
def State.revokeAll (s : State) (n : Nat) : State := (List.range 16).foldl (fun s m => s.revoke n m) s

/-- MBIND (R174, R334): after its checks the old grants are revoked; the context waits for the answer. -/
def execMbind (a : Opnd) (m : Mods) (s : State) : Host.Outcome State Fault Refusal :=
  runInstr (.mbind a m) m s (fun _ => do
    let w ← src a m
    let s ← getS
    let n := s.cur.1
    let b := bindMbox w
    match s.my.answer with
    | some (c, _) => do
      modMy (fun k => { k with answer := none })
      if c = 0 then pure ()
      else fun _ => .error (.raiseKeep c (BitVec.ofNat 64 b) (fun s => s.setMy { s.my with answer := none }))
    | none => do
      check (bindOk w) 0x02 (encOf (.mbind a m) m)
      match (bindRect w).cores.find? (fun k => !s.reach n (partOf k)) with
      | some k => raise 0x16 (meshBase k)
      | none => do
        check (decide ((bindRect w).cores.length * bindAllow w ≤ bindSlots w)) 0x81 (BitVec.ofNat 64 b)
        check ((s.me.mbox b).msgs = []) 0x81 (BitVec.ofNat 64 b)
        -- the binding under way ends first (log entry 110)
        if (s.me.mbox b).rebind.isSome then notYet
        else blocked (fun s =>
          let (id, s1) := s.newId
          let s2 := s1.revoke n b
          let c := s2.me
          let s3 := s2.setMe (c.setMbox b { c.mbox b with
            word := none, gen := (c.mbox b).gen + 1, rebind := some ⟨id, s.cur.2, w⟩ })
          s3.setMy { s3.my with block := s3.my.block ++ [id] }))

/-! ### Mailboxes read (R177, R202) -/

/-- The messages that MRECV sees (R227). -/
def Mailbox.seen (b : Mailbox) : List Msg := b.msgs.filter (fun g => !g.hidden)

/-- A message that a network interface has accepted for a mailbox and that is not stored. -/
def State.owed (s : State) (n m : Nat) : Bool :=
  s.cores.any (fun p => p.2.sendq.any (fun c => match c with | .msg d b _ _ _ => d = n && b = m | _ => false)) ||
  s.noc.any (fun i => match i.m with | .msg d b _ => d = n && b = m | _ => false)

/-- A mailbox is withheld (R202): its LIVE or HALTED producer contexts, of which there is one, are all halted. -/
def State.mboxWithheld (s : State) (n m : Nat) : Option Upstream :=
  let b := (s.core n).mbox m
  match b.word with
  | none => none
  | some w =>
    if b.seen ≠ [] || s.owed n m then none
    else
      let prods := ((bindRect w).cores.flatMap (fun k => ctxNums.map (fun x => (k, x)))).filter (fun p => (s.ctx p.1 p.2).st ≠ .free)
      (s.allHalted prods).map (fun u => ⟨2, m, false, some u⟩)

/-- The status word (R177). -/
def State.mboxWord (s : State) (n m : Nat) : Word :=
  let b := (s.core n).mbox m
  BitVec.ofNat 64 ((if (s.mboxWithheld n m).isSome then 2 ^ 17 else 0) +
    (match b.word with | some w => 2 ^ 16 + bindSlots w * 2 ^ 8 | none => 0) + b.seen.length)

/-- MSTAT (R177, R334). -/
def execMstat (d a : Opnd) (m : Mods) (s : State) : Host.Outcome State Fault Refusal :=
  runInstr (.mstat d a m) m s (fun _ => do
    let v ← src a m
    check (decide (v.toNat < 16)) 0x02 (encOf (.mstat d a m) m)
    let s ← getS
    dst d (s.mboxWord s.cur.1 v.toNat))

/-! ### Sending (R175, R335) -/

/-- The target word. -/
def tgtCore (w : Word) : Nat := coreAt (bitsOf w 0 5) (bitsOf w 5 5)
def tgtMbox (w : Word) : Nat := bitsOf w 10 4
def tgtLen (w : Word) : Nat := bitsOf w 14 10
def tgtFmt (w : Word) : Nat := bitsOf w 24 3

/-- The checks 1 to 5 of R335; the length rule of MSENDR is its own. -/
def sendChecks (w enc : Word) (regs : Bool) : Sem Unit := do
  let len := tgtLen w
  check (decide (bitsOf w 27 37 = 0) && tgtFmt w ≠ 7) 0x02 enc
  check (decide (len ≤ 512) && (tgtFmt w = 0 || decide (len % 4 = 0)) && (!regs || len = 8 || len = 16)) 0x82 (BitVec.ofNat 64 len)
  let s ← getS
  check (s.reach s.cur.1 (partOf (tgtCore w))) 0x16 (meshBase (tgtCore w))
  match AMap.get? s.me.grants (mboxKey (tgtCore w) (tgtMbox w)) with
  | none => raise 0x80 (BitVec.ofNat 64 (tgtMbox w))
  | some g => check (decide (len ≤ g.slotBytes)) 0x82 (BitVec.ofNat 64 len)

/-- The send queue has room (R114). -/
def sendRoom : Sem Unit := fun s => if s.me.sendq.length < 2 then .ok ((), s) else .error (.wait id)

/-- The message enters the send queue; its release is made before it leaves the core. -/
def sendMsg (w : Word) (bs : List Byte) : Sem Unit := do
  let s ← getS
  let n := s.cur.1
  let after ← release (msgScope n (tgtCore w))
  modMe (fun c => { c with sendq := c.sendq ++
    [.msg (tgtCore w) (tgtMbox w) (msgHdr n s.cur.2 (tgtFmt w) (tgtLen w) (tgtMbox w)) (narrowData (tgtFmt w) bs) after] })

/-- MSEND (R335). -/
def execMsend (a c : Opnd) (m : Mods) (s : State) : Host.Outcome State Fault Refusal :=
  runInstr (.msend a c m) m s (fun _ => do
    sendRoom
    let w ← src a m
    let at0 ← src c m
    sendChecks w (encOf (.msend a c m) m) false
    match winOf at0.toNat with
    | some (k, _) => check (decide (k ≤ 2)) 0x11 at0
    | none => raise 0x11 at0
    let s ← getS
    if tgtLen w = 0 then sendMsg w []
    else match s.classify s.cur.1 at0.toNat (tgtLen w) with
      | .error e => raise e at0
      | .ok _ => do
        let bs ← ctxRead at0.toNat (tgtLen w)
        sendMsg w bs)

/-- MSENDR (R335): C is read only when LEN is 16. -/
def execMsendr (d a c : Opnd) (m : Mods) (s : State) : Host.Outcome State Fault Refusal :=
  runInstr (.msendr d a c m) m s (fun _ => do
    sendRoom
    let w ← src a m
    sendChecks w (encOf (.msendr d a c m) m) true
    let x ← src d m
    if tgtLen w = 16 then do
      let y ← if m.len.ext then src c m else pure 0
      sendMsg w (leBytes 8 x.toNat ++ leBytes 8 y.toNat)
    else sendMsg w (leBytes 8 x.toNat))

/-! ### Receiving (R175, R336) -/

/-- The timeout result. -/
def recvTimeout : Word := 0x8000000000000000#64

/-- The message leaves its slot, and its allowance returns to the sender's core. -/
def State.takeMsg (s : State) (n m : Nat) (g : Msg) : State :=
  let b := (s.core n).mbox m
  (s.setCore n ((s.core n).setMbox m { b with msgs := b.msgs.erase g })).post (.allowance g.src n m g.gen) [] (meshDist n g.src)

/-- The part that both members share: what happens with the oldest message, and the wait for one. -/
def recv (d : Opnd) (b lim : Nat) (take : Msg → Sem Unit) (expire : Sem Unit) (reserve : State → State) : Sem Unit := do
  let s ← getS
  let n := s.cur.1
  let box := s.me.mbox b
  match box.seen with
  | g :: _ => do
    take g
    modS (fun s => s.takeMsg n b g)
    dst d g.hdr
    acquireNow (some (msgScope n g.src))
  | [] =>
    if s.my.wait.any (fun w => w.on = .mailbox b && w.expired) then do
      expire
      dst d recvTimeout
    else match (if s.noSpread n then none else s.mboxWithheld n b) with
      | some u => fun _ => .error (.withheld u)
      | none => blocked (fun s =>
          let t := reserve s
          let k := t.my.waiting (.mailbox b)
          t.setMy { k with wait := k.wait.map (fun w => { w with limit := lim }) })

/-- MRECV (R336). -/
def execMrecv (d a c : Opnd) (m : Mods) (s : State) : Host.Outcome State Fault Refusal :=
  runInstr (.mrecv d a c m) m s (fun _ => do
    let v ← src a m
    let lim ← limitOf c m
    let b := v.toNat % 16
    let dest : Word := v &&& 0xFFFFFFFFFFFFFFF0#64
    let s ← getS
    let box := s.me.mbox b
    check (box.word.isSome || box.seen ≠ []) 0x80 (BitVec.ofNat 64 b)
    match winOf dest.toNat with
    | some (k, _) => check (decide (k ≤ 2) || k = 6) 0x11 dest
    | none => raise 0x11 dest
    recv d b lim (fun g =>
        let len := hdrLen g.hdr
        if len = 0 then pure ()
        else match s.classify s.cur.1 dest.toNat len with
          | .error e => raise (if e = 0x11 then 0x15 else e) dest
          | .ok _ => ctxWrite dest.toNat g.wide)
      (pure ()) id)

/-- Two entries of a queue reserved for a waiting MRECVR. -/
def State.reserveTwo (s : State) (q : Nat) : State :=
  if s.my.resv.isSome then s
  else
    let id := s.nextId
    let s1 := { s with nextId := id + 2 }
    let r := ((s1.me.q q).push s1.cur.2 id none).push s1.cur.2 (id + 1) none
    let s2 := s1.setMe (s1.me.setQ q r)
    s2.setMy { s2.my with resv := some (q, id) }

/-- MRECVR (R336): it issues only with room for two entries, which are reserved while it waits. -/
def execMrecvr (d a c : Opnd) (m : Mods) (s : State) : Host.Outcome State Fault Refusal :=
  runInstr (.mrecvr d a c m) m s (fun _ => do
    let v ← src a m
    let lim ← limitOf c m
    check (decide (v.toNat < 128)) 0x02 (encOf (.mrecvr d a c m) m)
    let b := v.toNat % 16
    let q := v.toNat / 16
    let s ← getS
    if s.my.resv.isNone && decide (6 < (s.me.q q).count) then
      noRoom (.pushQ q) (s.queueWithheld s.cur.1 q true)
    else do
      check ((s.me.mbox b).word.isSome || (s.me.mbox b).seen ≠ []) 0x80 (BitVec.ofNat 64 b)
      recv d b lim (fun g => do
          let len := hdrLen g.hdr
          check (len = 8 || len = 16) 0x82 (BitVec.ofNat 64 len)
          modS (fun s => s.reserveTwo q)
          let s ← getS
          match s.my.resv with
          | some (_, id) =>
            let x : Word := BitVec.ofNat 64 (ofLeBytes (g.wide.take 8))
            let y : Word := BitVec.ofNat 64 (ofLeBytes (g.wide.drop 8))
            let r := (s.me.q q).fill id x
            putS ((s.setMe (s.me.setQ q (if len = 16 then r.fill (id + 1) y else r.cancel (id + 1)))).setMy
              { (s.setMe (s.me.setQ q (if len = 16 then r.fill (id + 1) y else r.cancel (id + 1)))).my with resv := none })
          | none => pure ())
        (modS (fun s => s.dropResv s.cur.1 s.cur.2)) (fun s => s.reserveTwo q))

/-! ### Wake digests (R225) -/

/-- Fold(D, x). -/
def foldDigest (d x : Word) : Word :=
  let t := (d ^^^ x) * 0x00000100000001B3#64
  t ^^^ (t >>> 29)

/-- CRC32C of bytes, bit by bit (reflected, polynomial 0x1EDC6F41). -/
def crcBit (c : Nat) : Nat → Nat
  | 0 => c
  | k + 1 => crcBit (if c % 2 = 1 then (c / 2) ^^^ 0x82F63B78 else c / 2) k
def crc32c (bs : List Byte) : BitVec 32 :=
  BitVec.ofNat 32 ((bs.foldl (fun c b => crcBit (c ^^^ b.toNat) 8) 0xFFFFFFFF) ^^^ 0xFFFFFFFF)

end Sys2Proof.Machine
end

