-- ==== Sys2Proof/Machine/Timetable.lean ====
section
/-! DEFINITION. Timetable phases (R179 to R181, R337). -/

namespace Sys2Proof.Machine

/-! ### Routes (R180) -/

/-- Mesh cycles that a link adds. -/
def hopCost (l : Nat × Nat) : Nat := if dieOf l.1 = dieOf l.2 then 1 else 6

/-- What a word holds: a port or a link. -/
inductive TtRes
  | inject (n : Nat) | link (a b : Nat) | eject (n : Nat)
deriving DecidableEq, Repr

/-- What a word from n to k injected at offset t holds, and in the cycle of which offset: the links of its way (R180), with the ways
around those that are fenced (R24). -/
def State.ttHolds (s : State) (n k t : Nat) : List (TtRes × Nat) :=
  let r := (s.pathOf n k).foldl (fun acc l => (acc.1 ++ [(TtRes.link l.1 l.2, acc.2)], acc.2 + hopCost l)) ([(TtRes.inject n, t)], t + 1)
  r.1 ++ [(TtRes.eject k, r.2)]

/-- The offset at which it is readable: 1 for each in-die link and 6 for each die-edge link that it crosses. -/
def State.ttReadable (s : State) (n k t : Nat) : Nat := t + 2 + ((s.pathOf n k).map hopCost).sum

/-! ### The phase of a core -/

/-- The mesh cycle of an offset (R179). -/
def Phase.cycle (p : Phase) (t : Nat) : Nat := p.release.getD 0 + 1 + t

/-- The offset reached. -/
def State.ttOffset (s : State) (p : Phase) : Nat := (s.mesh - (p.release.getD 0 + 1)) % 2 ^ 16

/-- The other words on their way in the phase of a rectangle. -/
def State.ttWords (s : State) (r : Rect) : List TtWord :=
  s.noc.filterMap (fun i => match i.m with | .ttWord w => if r.has w.src then some w else none | _ => none)

/-- Marks a word damaged. -/
def State.ttDamage (s : State) (id : Nat) : State :=
  { s with noc := s.noc.map (fun i => match i.m with
      | .ttWord w => if w.id = id then { i with m := .ttWord { w with damaged := true } } else i
      | _ => i) }

/-- A word is injected (R180, R181): it and every word that needs a resource in the same cycle are damaged. -/
def State.ttInject (s : State) (n k t : Nat) (v : Word) (p : Phase) : State :=
  let mine := s.ttHolds n k t
  let hit := (s.ttWords (rectOfWord p.rect)).filter (fun w => (s.ttHolds w.src w.dst w.off).any (fun h => mine.contains h))
  let s1 := hit.foldl (fun s w => s.ttDamage w.id) s
  let (id, s2) := s1.newId
  { s2 with noc := s2.noc ++ [{ id := id, m := .ttWord ⟨id, n, k, t, v, !hit.isEmpty⟩, dist := 0
                                due := some (p.cycle (s.ttReadable n k t - 1)) }] }

/-- What a TTRECV gets at an offset: 0, with the damage flag, for a damaged word or none. -/
def Phase.take (p : Phase) (t : Nat) : Word × Phase :=
  match p.arrived.find? (fun a => a.1 = t) with
  | some (_, v, bad) =>
    (if bad then 0 else v, { p with arrived := p.arrived.filter (fun a => a.1 ≠ t), damage := p.damage || bad })
  | none => (0, { p with damage := true })

/-! ### Withheld phases (R202) -/

/-- A participant that is halted: the context that joined, or, on a core where none has joined, the contexts there once all
of them are halted. -/
def State.phaseWithheld (s : State) (rect : Word) (off : Nat) (arrived : Bool) : Option Upstream :=
  let halted := (rectOfWord rect).cores.flatMap (fun n =>
    match (s.core n).phase with
    | some p => if p.rect = rect && (s.haltId n p.ctx).isSome then [(n, p.ctx)] else []
    | none =>
      let cs := (ctxNums.map (fun x => (n, x))).filter (fun p => (s.ctx p.1 p.2).st ≠ .free)
      if (s.allHalted cs).isSome then cs else [])
  (s.withholder halted).map (fun u => ⟨8, off, arrived, some u⟩)

/-! ### The instructions (R337) -/

/-- A rectangle word that TTGO accepts on a core. -/
def State.ttRectOk (s : State) (n : Nat) (w : Word) : Bool :=
  decide (bitsOf w 16 48 = 0) && (rectOfWord w).aligned && (rectOfWord w).has n &&
  (match (s.core n).gang with | some g => (rectOfWord w).within g.rect | none => false)

/-- TTGO (R179). -/
def execTtgo (a : Opnd) (m : Mods) (s : State) : Host.Outcome State Fault Refusal :=
  runInstr (.ttgo a m) m s (fun _ => do
    let w ← src a m
    let s ← getS
    let n := s.cur.1
    let waiting := s.my.wait.any (fun w => w.on = .phase && w.arrived)
    match s.me.phase with
    | some p =>
      if waiting && p.ctx = s.cur.2 then
        if p.release.isSome then pure () else waitFor .phase 0 (s.phaseWithheld p.rect 0 true)
      else do
        check (s.ttRectOk n w) 0x02 (encOf (.ttgo a m) m)
        raise 0x50 0
    | none => do
      check (s.ttRectOk n w) 0x02 (encOf (.ttgo a m) m)
      match (if s.noSpread n then none else s.phaseWithheld w 0 false) with
      | some u => fun _ => .error (.withheld u)
      | none => blocked (fun s =>
          let t := s.setMe { s.me with phase := some { rect := w, ctx := s.cur.2 } }
          t.setMy { t.my with wait := some { on := .phase, arrived := true } }))

/-- FMT of MOD[26:24], 0 in W form. -/
def ttFmt (m : Mods) : Nat := if m.len.ext then (m.mod.extractLsb' 0 3).toNat else 0

/-- Both halves of a doubleword, each in its half of the word on the link. -/
def ttNarrow (fmt : Nat) (v : Word) : Word := BitVec.ofNat 64 (narrow32 fmt (bitsOf v 0 32) + narrow32 fmt (bitsOf v 32 32) * 2 ^ 32)
def ttWiden (fmt : Nat) (v : Word) : Word := BitVec.ofNat 64 (widen32 fmt (bitsOf v 0 32) + widen32 fmt (bitsOf v 32 32) * 2 ^ 32)

/-- An operation whose offset has been reached while it waited. -/
def State.ttDone (s : State) : Bool := s.my.wait.any (fun w => (w.on = .phase || w.on = .inject) && w.expired)

/-- An early operation waits (R180): a TTRECV on the phase, a TTSEND on its own offset, which nothing withholds (R202). -/
def ttEarly (send : Bool) (k t : Nat) (v : Word) : Sem Unit := blocked (fun s =>
  let c := s.my.waiting (if send then .inject else .phase)
  s.setMy { c with tt := some (send, k, t, v) })

/-- TTSEND (R180). -/
def execTtsend (d a : Opnd) (m : Mods) (s : State) : Host.Outcome State Fault Refusal :=
  runInstr (.ttsend d a m) m s (fun _ => do
    let w ← src a m
    let v ← src d m
    let s ← getS
    let enc := encOf (.ttsend d a m) m
    let t := bitsOf w 0 16
    let k := coreAt (bitsOf w 16 5) (bitsOf w 21 5)
    if s.ttDone then modMy (fun c => { c with tt := none })
    else match s.me.inPhase with
      | none => raise 0x02 enc
      | some p => do
        check (decide (bitsOf w 26 38 = 0) && (rectOfWord p.rect).has k) 0x02 enc
        if s.mesh < p.cycle t then ttEarly true k t (ttNarrow (ttFmt m) v)
        else do
          check (decide (s.cyc ≤ 2 * p.cycle t)) 0x57 (BitVec.ofNat 64 t)
          modS (fun s => s.ttInject s.cur.1 k t (ttNarrow (ttFmt m) v) p))

/-- TTRECV (R180, R181). -/
def execTtrecv (d a : Opnd) (m : Mods) (s : State) : Host.Outcome State Fault Refusal :=
  runInstr (.ttrecv d a m) m s (fun _ => do
    let w ← src a m
    let s ← getS
    let enc := encOf (.ttrecv d a m) m
    let t := bitsOf w 0 16
    if s.ttDone then do
      let v := match s.my.answer with | some (_, v) => v | none => 0
      modMy (fun c => { c with tt := none, answer := none })
      dst d (ttWiden (ttFmt m) v)
    else match s.me.inPhase with
      | none => raise 0x02 enc
      | some p => do
        check (decide (bitsOf w 16 48 = 0)) 0x02 enc
        match (if s.noSpread s.cur.1 then none else s.phaseWithheld p.rect (s.ttOffset p) false) with
        | some u => fun _ => .error (.withheld u)
        | none =>
          if s.mesh < p.cycle t then ttEarly false s.cur.1 t 0
          else do
            check (decide (s.cyc ≤ 2 * p.cycle t)) 0x57 (BitVec.ofNat 64 t)
            modMe (fun c => { c with phase := some (p.take t).2 })
            dst d (ttWiden (ttFmt m) (p.take t).1))

/-- TTEND (R181): after the meeting it raises 0x56 where the damage flag is set, and the flag is cleared. -/
def execTtend (m : Mods) (s : State) : Host.Outcome State Fault Refusal :=
  runInstr (.ttend m) m s (fun _ => do
    let s ← getS
    match s.me.phase with
    | none => raise 0x02 (encOf (.ttend m) m)
    | some p =>
      if p.ended then
        if p.damage then fun _ => .error (.raiseKeep 0x56 0 (fun s => s.setMe { s.me with phase := some { p with damage := false } }))
        else modMe (fun c => { c with phase := none })
      else if p.release.isNone then raise 0x02 (encOf (.ttend m) m)
      else
        match (if s.noSpread s.cur.1 then none else s.phaseWithheld p.rect (s.ttOffset p) (p.ending)) with
        | some u => fun _ => .error (.withheld u)
        | none => blocked (fun s =>
            let t := s.setMe { s.me with phase := some { p with ending := true } }
            t.setMy (t.my.waiting .phase)))

/-- The phase status (R181). -/
def State.phaseWord (s : State) (n : Nat) : Word :=
  match (s.core n).inPhase with
  | some p => BitVec.ofNat 64 (s.ttOffset p + 2 ^ 16 + (if p.damage then 2 ^ 17 else 0))
  | none => 0

/-- TTQ (R181). -/
def execTtq (d : Opnd) (m : Mods) (s : State) : Host.Outcome State Fault Refusal :=
  runInstr (.ttq d m) m s (fun _ => do
    let s ← getS
    dst d (s.phaseWord s.cur.1))

end Sys2Proof.Machine
end

