-- ==== Sys2Proof/Machine/Fixes.lean ====
section
/-! DEFINITION. Fix objects (R182 to R196, R338). -/

namespace Sys2Proof.Machine

/-! ### The descriptor (R182) -/

def fxW (d : Line) (i : Nat) : Word := d.extractLsb' (64 * i) 64
def fxType (d : Line) : Nat := bitsOf (fxW d 0) 44 4
def fxTy (d : Line) : ElTy := if fxType d = 4 then .i32 else if fxType d = 8 then .f32 else .bf16
def fxOp (d : Line) : Nat := bitsOf (fxW d 0) 42 2
def fxAlgCode (d : Line) : Nat := bitsOf (fxW d 0) 39 3
/-- ORDER is ARRIVAL. -/
def fxArrival (d : Line) : Bool := (fxW d 0).getLsbD 38
def fxRule (d : Line) : Nat := bitsOf (fxW d 0) 36 2
def fxLag (d : Line) : Nat := bitsOf (fxW d 0) 32 4
def fxK (d : Line) : Nat := bitsOf (fxW d 0) 16 16
def fxN (d : Line) : Nat := bitsOf (fxW d 0) 0 16
def fxCount (d : Line) : Nat := (fxW d 1).toNat
def fxResult (d : Line) : Word := fxW d 2
def fxTabled (d : Line) : Bool := (fxW d 3).getLsbD 63
def fxRect (d : Line) : Rect := rectOfWord (fxW d 3)
def fxScope (d : Line) : Nat := bitsOf (fxW d 6) 0 4
/-- Wd of d4 and d5, for lateness 1 to 4. -/
def fxWeight (d : Line) (k : Nat) : BitVec 32 := BitVec.ofNat 32 (bitsOf (fxW d (4 + (k - 1) / 2)) (32 * ((k - 1) % 2)) 32)
/-- Element bytes E. -/
def fxE (d : Line) : Nat := (fxTy d).bits / 8

/-- The first check of R184: reserved bits and values, ranges, alignment. -/
def fxOk1 (d : Line) : Bool :=
  decide (bitsOf (fxW d 0) 48 16 = 0) && decide (fxAlgCode d < 5) && decide (1 ≤ fxN d) && decide (1 ≤ fxK d) && decide (fxK d ≤ fxN d) &&
  decide (fxLag d ≤ 7) && decide (1 ≤ fxCount d) && decide (fxCount d ≤ 1048576) && decide ((fxResult d).toNat % 64 = 0) &&
  (if fxTabled d then decide (bitsOf (fxW d 3) 56 7 = 0) else decide (bitsOf (fxW d 3) 16 47 = 0) && (fxRect d).aligned) &&
  decide (bitsOf (fxW d 6) 4 60 = 0) && decide (fxW d 7 = 0)

/-- Pairings that exist (check 5). -/
def fxOk5 (d : Line) : Bool :=
  !(fxOp d = 3 && (fxArrival d || decide (0 < fxLag d))) && !(fxArrival d && (fxOp d ≠ 0 || fxType d = 4)) &&
  !(decide (2 ≤ fxRule d) && fxType d = 4) && !(fxRule d = 3 && decide (4 < fxLag d)) &&
  !(fxAlgCode d = 4 && (fxArrival d || decide (3 < fxScope d) || fxTabled d || decide (fxK d < fxN d)))

/-- The instance of a scope in which a core lies, compared with another core's (R158). -/
def State.sameInstance (s : State) (scope n k : Nat) : Bool :=
  match scope with
  | 2 => octetOf n = octetOf k
  | 3 => match (s.core n).gang with | some g => g.rect.has k | none => n = k
  | 4 =>
    match (s.core n).gang, (s.core k).gang with
    | some g, some h => (g.part = h.part && g.num = h.num) || (decide (g.convoy < 1024) && g.part = h.part && g.convoy = h.convoy)
    | _, _ => n = k
  | 5 => dieOf n = dieOf k
  | 6 => partOf n = partOf k
  | _ => true

/-! ### Handles (R183) -/

def fxHome (h : BitVec 32) : Nat := coreAt (h.toNat % 32) (h.toNat / 32 % 32)
def fxSlot (h : BitVec 32) : Nat := h.toNat / 2 ^ 10 % 16
def fxGen (h : BitVec 32) : Nat := h.toNat / 2 ^ 14 % 16
def fxDev (h : BitVec 32) : Nat := h.toNat / 2 ^ 18 % 2 ^ 12
def State.handleOf (s : State) (n slot : Nat) (gen : BitVec 4) : BitVec 32 :=
  BitVec.ofNat 32 (coreX n + coreY n * 2 ^ 5 + slot * 2 ^ 10 + gen.toNat * 2 ^ 14 + s.regF Pf.fabSelf 0 12 * 2 ^ 18)

/-- The device's own fabric address (R43). -/
def State.selfDev (s : State) : Nat := s.regF Pf.fabSelf 0 12

/-- The fix that a handle names; none where it is stale.  One whose home is another device is known by what its members here have been told
of it (log entry 38). -/
def State.fix (s : State) (h : BitVec 32) : Option FixObj :=
  if h.toNat ≥ 2 ^ 30 then none
  else if fxDev h = s.selfDev then
    let f := (s.core (fxHome h)).fixObj (fxSlot h)
    if f.live && decide (f.gen.toNat = fxGen h) then some f else none
  else AMap.get? s.dev.farFixes h.toNat

def State.setFixObj (s : State) (h : BitVec 32) (f : FixObj) : State :=
  if fxDev h = s.selfDev then s.setCore (fxHome h) ((s.core (fxHome h)).setFix (fxSlot h) f)
  else { s with dev := { s.dev with farFixes := AMap.set s.dev.farFixes h.toNat f } }

/-- Where rank r is: the device's fabric address and the core. -/
def State.rankPlace (s : State) (f : FixObj) (r : Nat) : Nat × Nat :=
  if fxTabled f.desc then
    let e := f.table.getD r 0
    (bitsOf e 0 12, coreAt (bitsOf e 12 5) (bitsOf e 17 5))
  else
    let b := fxRect f.desc
    (s.regF Pf.fabSelf 0 12, coreAt (b.x0 + r % 2 ^ b.lw) (b.y0 + r / 2 ^ b.lw))

/-- The rank that a context holds. -/
def FixObj.rankOf (f : FixObj) (n x : Nat) : Option Nat := (f.joined.find? (fun j => j.2.1 = n && j.2.2 = x)).map Prod.fst

/-- Every member folds for itself (R186). -/
def FixObj.pushes (f : FixObj) : Bool := f.alg = .pushall || f.alg = .timetable

/-- The key of the folding agent that a rank reads. -/
def FixObj.agentOf (f : FixObj) (r : Nat) : Nat := if f.pushes then r else 0
def FixObj.fold (f : FixObj) (k : Nat) : Fold := AMap.getD f.folds k {}
def FixObj.setFold (f : FixObj) (k : Nat) (v : Fold) : FixObj := { f with folds := AMap.set f.folds k v }

/-! ### The result area (R188) -/

def align (a n : Nat) : Nat := (n + a - 1) / a * a
/-- V, the bytes of the values. -/
def fxV (d : Line) : Nat := (if fxOp d = 3 then fxN d else 1) * fxCount d * fxE d
def fxM (d : Line) : Nat := if fxN d ≤ 64 then 0 else 8 * ((fxN d + 63) / 64)
def fxBuf (d : Line) : Nat := align 64 (align 8 (fxV d) + 24 + fxM d)
/-- All items of the area. -/
def fxArea (d : Line) : Nat :=
  2 * fxBuf d + (if !fxArrival d && fxOp d ≠ 3 then (fxLag d + 2) * fxN d * align 8 (fxCount d * fxE d) else 0)

/-- AUTO and the other codes resolved (R185). -/
def State.fxResolve (s : State) (n : Nat) (d : Line) : Alg :=
  match fxAlgCode d with
  | 1 => .pushall | 2 => .combine | 3 => .fold | 4 => .timetable
  | _ =>
    if fxCount d * fxE d * fxN d ≤ s.regF (Pf.fxThresh (partOf n)) 0 32 then .pushall
    else if fxScope d ≤ 7 then .combine else .fold

/-- Pages of a translated result area, each checked as for a write (R142); a failure with the first byte at fault. -/
def State.pagesOk (s : State) (n : Nat) : List Nat → Except (BitVec 8 × Nat) State
  | [] => .ok s
  | a :: as =>
    match s.xlateNow n (s.homePart n) a with
    | (.error c, _) => .error (c, a)
    | (.ok t, s1) =>
      match s1.pageCause t .w a (65536 - a % 65536) with
      | some c => .error (c, a)
      | none => pagesOk s1 n as

/-- Check 6 of R184 (R188, R90), with the first byte at fault (R215). -/
def State.fxResultOk (s : State) (n : Nat) (d : Line) (alg : Alg) : Except (BitVec 8 × Nat) State :=
  let a := (fxResult d).toNat
  let global : Except (BitVec 8 × Nat) State :=
    if s.checkpointed n || a + fxArea d > 2 ^ 56 then .error (0x11, a)
    else s.pagesOk n ((List.range ((a + fxArea d - 1) / 65536 - a / 65536 + 1)).map (fun k => max a ((a / 65536 + k) * 65536)))
  if fxArrival d && alg ≠ .pushall then
    if a < 2 ^ 56 then global else .error (0x11, a)
  else if alg = .pushall || alg = .timetable then
    match winOf a with
    | some (0, o) => if o + fxArea d ≤ (s.core n).top then .ok s else .error (0x15, a)
    | _ => .error (0x11, a)
  else if a < 2 ^ 56 then global
  else match winOf a with
    | some (k, _) =>
      if k ≤ 2 || k = 6 then (match s.classify n a (fxArea d) with | .error c => .error (c, a) | .ok _ => .ok s) else .error (0x11, a)
    | none => .error (0x11, a)

/-! ### Values and folding (R192) -/

/-- The identity of OP for a type, as the 32 bits in which it is held. -/
def fxIdentity (op : Nat) (t : ElTy) : Nat :=
  match op with
  | 1 => if t = .i32 then 0x80000000 else if t = .f32 then 0xFF800000 else 0xFF80
  | 2 => if t = .i32 then 0x7FFFFFFF else if t = .f32 then 0x7F800000 else 0x7F80
  | _ => 0

/-- An element widened to FP32. -/
def toF32 (t : ElTy) (v : Nat) : Nat := if t = .bf16 then (convert .bf16 .f32 .rne 0 false v).1 else v % 2 ^ 32

/-- A NaN as results give it (R192). -/
def canonical (v : Nat) : Nat := if (numOf .f32 v).isNan then (fpFmt .f32).nan else v

/-- One term folded into a running value; `first` says that it is the sum's first. -/
def foldTerm (op : Nat) (t : ElTy) (first : Bool) (acc v : Nat) (weight : BitVec 32) : Nat :=
  if t = .i32 then
    match op with
    | 1 => lowBits 32 (max (toSigned acc 32) (toSigned v 32))
    | 2 => lowBits 32 (min (toSigned acc 32) (toSigned v 32))
    | _ => (acc + v) % 2 ^ 32
  else
    let x0 := toF32 t v
    let x := if op = 0 && weight ≠ 0x3F800000 then (mulRne .f32 x0 weight.toNat).1 else x0
    match op with
    | 1 => (minMaxNum .f32 true acc x).1
    | 2 => (minMaxNum .f32 false acc x).1
    | _ => if first then canonical x else (addRne .f32 acc x).1

/-- The running identity: in FP32 for floating-point types. -/
def foldIdentity (op : Nat) (t : ElTy) : Nat := toF32 t (fxIdentity op t)

/-- The value written for a running value. -/
def foldDone (t : ElTy) (acc : Nat) : Nat := if t = .bf16 then (convert .f32 .bf16 .rne 0 false acc).1 else acc % 2 ^ 32

/-- The terms of a round in fold order: the late ones by their original round, the oldest first. -/
def Fold.terms (f : Fold) : List Contrib :=
  let byRank (a b : Contrib) : Bool := decide (a.rank < b.rank)
  let back (c : Contrib) : Nat := (f.tag - c.tag).toNat
  let byRound (a b : Contrib) : Bool := decide (back b < back a) || (back a = back b && decide (a.rank < b.rank))
  sortBy byRank f.onTime ++ sortBy byRound f.late

/-- Element j of a round's values in RANK order. -/
def foldValue (d : Line) (ts : List Contrib) (j : Nat) : Nat :=
  let t := fxTy d
  foldDone t ((ts.foldl (fun acc c =>
    (foldTerm (fxOp d) t acc.2 acc.1 ((c.vals.getD j 0).toNat) c.weight, false)) (foldIdentity (fxOp d) t, true)).1)

/-- All values of a round in RANK order; a gather leaves the slots of absent ranks at zero. -/
def foldValues (d : Line) (f : Fold) : List Nat :=
  if fxOp d = 3 then
    (List.range (fxN d)).flatMap (fun r => match f.onTime.find? (fun c => c.rank = r) with
      | some c => (List.range (fxCount d)).map (fun j => (c.vals.getD j 0).toNat)
      | none => List.replicate (fxCount d) 0)
  else (List.range (fxCount d)).map (foldValue d f.terms)

def valBytes (d : Line) (vs : List Nat) : List Byte := vs.flatMap (leBytes (fxE d))

/-! ### The result record (R189) -/

/-- Ranks whose contribution is on time in full. -/
def Fold.onTimeRanks (f : Fold) : List Nat :=
  ((f.onTime.map Contrib.rank).eraseDups).filter (fun r =>
    f.onTime.all (fun c => c.rank ≠ r || decide ((f.onTime.filter (fun e => e.rank = r)).length = c.chunks)))

/-- The weights of the folded contributions added with RoundRNE. -/
def Fold.weightSum (f : Fold) : Nat := f.terms.foldl (fun acc c => (addRne .f32 acc c.weight.toNat).1) 0

def recordBytes (d : Line) (f : Fold) (buf : Nat) : List Byte :=
  let ranks := f.onTimeRanks
  let mask (k : Nat) : Nat := ((List.range 64).filter (fun i => ranks.contains (64 * k + i))).foldl (fun a i => a + 2 ^ i) 0
  let m := fxM d
  leBytes 4 f.tag.toNat ++ leBytes 2 ranks.length ++ leBytes 2 (if fxArrival d then f.lates else f.late.length) ++
  leBytes 4 (if fxArrival d then f.wsum.toNat else f.weightSum) ++ leBytes 4 (if f.folderr then 1 else 0) ++
  leBytes 8 (if m = 0 then mask 0 else (fxResult d).toNat + buf * fxBuf d + align 8 (fxV d) + 24) ++
  (if m = 0 then [] else (List.range (m / 8)).flatMap (fun k => leBytes 8 (mask k)))

/-! ### The agent's memory (R186, R188) -/

/-- A folding agent writes past the L1, so that its release needs no drain; a fault ends the write and raises a pilot event. -/
def State.agentWrite (s : State) (n a : Nat) (bs : List Byte) : State :=
  ((units a (bs.length + 1) bs.length).foldl (fun acc u =>
    if acc.1 then acc
    else match acc.2.2.engPlace n u.1 u.2 .w true with
      | (.error c, s1) => (true, acc.2.1, s1.engineEvent n 0x40 c)
      | (.ok (.mem pa key _ _), s1) =>
        (false, acc.2.1 + u.2, s1.l2Write (lineBase pa) (some key)
          (BitVec.ofNat 512 (ofLeBytes ((bs.drop acc.2.1).take u.2) * 256 ^ (pa % 64))) (byteMask (pa % 64) u.2))
      | (.ok p, s1) => (false, acc.2.1 + u.2, s1.unitWrite n u.2 (ofLeBytes ((bs.drop acc.2.1).take u.2)) p)) (false, 0, s)).2.2

/-- The core that an agent stands on. -/
def State.agentCore (s : State) (h : BitVec 32) (f : FixObj) (k : Nat) : Nat :=
  if f.pushes then (s.rankPlace f k).2 else fxHome h

/-- The address of a round's buffer. -/
def bufAddr (d : Line) (tag : BitVec 32) : Nat := (fxResult d).toNat + tag.toNat % 2 * fxBuf d

/-- The links to the result area of an agent are free: what it writes waits for a phase that holds them (R179). -/
def State.agentReady (s : State) (h : BitVec 32) (f : FixObj) (k : Nat) : Bool :=
  let d := f.desc
  s.linksFree (s.agentCore h f k) (fxResult d).toNat
    (2 * fxBuf d + if fxArrival d || fxOp d = 3 then 0 else (fxLag d + 2) * fxN d * align 8 (fxCount d * fxE d))

/-- The buffer of a round set to the identity as it opens (R188), after the close of the round before (R191); the table of R404 shows buffer 1
as it was before that (DEDUCED, log entry 113). -/
def State.openBuffer (s : State) (h : BitVec 32) (f : FixObj) (k : Nat) (tag : BitVec 32) : State :=
  let d := f.desc
  let v := if fxOp d = 3 then 0 else fxIdentity (fxOp d) (fxTy d)
  s.agentWrite (s.agentCore h f k) (bufAddr d tag) (valBytes d (List.replicate (fxV d / fxE d) v))

/-- The staging slot of a contribution (R188, R403). -/
def stageAddr (d : Line) (tag : BitVec 32) (rank : Nat) : Nat :=
  (fxResult d).toNat + 2 * fxBuf d + (tag.toNat % (fxLag d + 2) * fxN d + rank) * align 8 (fxCount d * fxE d)

/-- In RANK order an agent stores a contribution that it accepts, or holds, in its staging slot (R403); a gather has none (R188). -/
def State.stageContrib (s : State) (h : BitVec 32) (f : FixObj) (k : Nat) (c : Contrib) : State :=
  if fxArrival f.desc || fxOp f.desc = 3 then s
  else s.agentWrite (s.agentCore h f k) (stageAddr f.desc c.tag c.rank) (valBytes f.desc (c.vals.map BitVec.toNat))

/-! ### Rounds (R190, R191, R194) -/

/-- c, P and H of the open round. -/
def FixObj.cOf (f : FixObj) (k : Nat) : Nat := (f.fold k).onTimeRanks.length
def FixObj.pOf (f : FixObj) (k : Nat) : List Nat :=
  let done := (f.fold k).onTimeRanks
  (List.range (fxN f.desc)).filter (fun r => !done.contains r && !f.departed.contains r)
def State.hOf (s : State) (f : FixObj) (k : Nat) : List Nat :=
  (f.pOf k).filter (fun r => f.remoteHalted.contains r ||
    f.joined.any (fun j => j.1 = r && (s.haltId j.2.1 j.2.2).isSome))

/-- With the ranks that have departed, the round cannot reach its quorum (R191). -/
def FixObj.losesQuorum (f : FixObj) (k : Nat) : Bool := decide (f.cOf k + (f.pOf k).length < fxK f.desc)

/-- The states of R191. -/
inductive RoundSt
  | opened | withheld | quorumLost
deriving DecidableEq, Repr

def State.roundSt (s : State) (f : FixObj) (k : Nat) : RoundSt :=
  let c := f.cOf k
  let p := (f.pOf k).length
  if (f.fold k).stopped || (f.fold k).quorumLost then .quorumLost
  else if c + p - (s.hOf f k).length < fxK f.desc then .withheld else .opened

/-- The open round is withheld from its waiters: WITHHELD, or QUORUM_LOST while halted ranks are still to contribute.  The state is that
of a folding agent (R191): where there is none on this device, a waiter sees no round withheld. -/
def State.roundWithheld (s : State) (f : FixObj) (k : Nat) : Bool :=
  (f.folds.any (fun g => g.1 = k)) && (s.roundSt f k = .withheld || (s.roundSt f k = .quorumLost && !(f.fold k).stopped && s.hOf f k ≠ []))

/-- The open round closes: on the k-th on-time contribution, or with quorum lost when no rank is left to contribute. -/
def State.closes (s : State) (f : FixObj) (k : Nat) : Bool :=
  !(f.fold k).stopped &&
  (if s.roundSt f k = .quorumLost then f.pOf k = [] else decide (fxK f.desc ≤ f.cOf k))

/-- lateness of a tag against the open one, as a signed 32-bit difference. -/
def lateness (opened tag : BitVec 32) : Int := (opened - tag).toInt

/-- The weight of a late contribution (R190). -/
def lateWeight (d : Line) (k : Nat) : BitVec 32 :=
  match fxRule d with
  | 2 => BitVec.ofNat 32 ((127 - k) * 2 ^ 23)
  | 3 => fxWeight d k
  | _ => 0x3F800000

/-- FX_STAT counters: where each lies, saturating (R194). -/
def State.fxCount1 (s : State) (p lo : Nat) : State :=
  s.setRegF (Pf.fxStat p) lo 16 (min (s.regF (Pf.fxStat p) lo 16 + 1) 0xFFFF)

end Sys2Proof.Machine
end

