-- ==== Sys2Proof/Machine/Fabric.lean ====
section
/-! DEFINITION. Packets and flits as they leave (R28 to R33, R36 to R38): headers, tags, routes, flows and a port's sender. -/

namespace Sys2Proof.Machine

/-! ### Headers (R31) -/

def Packet.vl (p : Packet) : Nat := bitsOf p.h0 56 2
def Packet.type (p : Packet) : Nat := bitsOf p.h0 48 8
def Packet.srcDev (p : Packet) : Nat := bitsOf p.h0 32 16
def Packet.dstDev (p : Packet) : Nat := bitsOf p.h0 16 16
def Packet.tag (p : Packet) : Nat := bitsOf p.h0 0 16
def Packet.dstPart (p : Packet) : Nat := bitsOf p.h1 61 3
def Packet.srcPart (p : Packet) : Nat := bitsOf p.h1 58 3
def Packet.len (p : Packet) : Nat := bitsOf p.h1 32 16
def Packet.seq (p : Packet) : BitVec 32 := p.h1.setWidth 32
def Packet.handle (p : Packet) : BitVec 32 := p.h2.setWidth 32
def Packet.rank (p : Packet) : Nat := bitsOf p.h2 32 16
def Packet.chunk (p : Packet) : Nat := bitsOf p.h2 48 16
def Packet.round (p : Packet) : BitVec 32 := p.h3.setWidth 32

/-- What a sender gives a packet: type, virtual lane, source core, destination device and partition, TARGET, ROUND, payload. -/
structure Send where
  type : Nat
  vl : Nat
  core : Nat
  part : Nat
  dev : Nat
  dpart : Nat
  target : Word
  round : BitVec 32 := 0
  data : List Byte := []
  copy : Option (Nat × Nat × BitVec 16 × Nat) := none

/-- The header with a tag and an end-to-end sequence number; PCRC is 0 for no payload. -/
def mkPacket (x : Send) (self tag : Nat) (seq : BitVec 32) : Packet :=
  { h0 := BitVec.ofNat 64 (x.vl * 2 ^ 56 + x.type * 2 ^ 48 + self * 2 ^ 32 + x.dev % 2 ^ 16 * 2 ^ 16 + tag % 2 ^ 16)
    h1 := BitVec.ofNat 64 (x.dpart % 8 * 2 ^ 61 + x.part % 8 * 2 ^ 58 + coreY x.core * 2 ^ 53 + coreX x.core * 2 ^ 48 +
      x.data.length % 2 ^ 16 * 2 ^ 32 + seq.toNat)
    h2 := x.target
    h3 := BitVec.ofNat 64 ((if x.data = [] then 0 else (crc32c x.data).toNat) * 2 ^ 32 + x.round.toNat)
    data := x.data }

/-! ### Flits (R28) -/

/-- Header and payload in 56-byte pieces, the first holding the header and 24 bytes. -/
def Packet.pieces (p : Packet) : List (List Byte) :=
  let hdr := leBytes 8 p.h0.toNat ++ leBytes 8 p.h1.toNat ++ leBytes 8 p.h2.toNat ++ leBytes 8 p.h3.toNat
  (hdr ++ p.data.take 24) :: groups 56 p.data.length (p.data.drop 24)

/-- A flit of payload bytes with its trailer. -/
def mkFlit (bs : List Byte) (last : Bool) (vl kind : Nat) (ack seq : BitVec 12) : Flit :=
  let body := bs ++ List.replicate (56 - bs.length) 0
  let low := (if last then 2 ^ 30 else 0) + vl * 2 ^ 28 + kind * 2 ^ 24 + ack.toNat * 2 ^ 12 + seq.toNat
  let crc := crc32c (body ++ leBytes 4 low)
  BitVec.ofNat 512 (ofLeBytes (body ++ leBytes 4 low ++ leBytes 4 crc.toNat))

def flitTrailer (f : Flit) : Word := f.extractLsb' 448 64
def flitKind (f : Flit) : Nat := bitsOf (flitTrailer f) 24 4
def flitVl (f : Flit) : Nat := bitsOf (flitTrailer f) 28 2
def flitLast (f : Flit) : Bool := (flitTrailer f).getLsbD 30
def flitAck (f : Flit) : BitVec 12 := (flitTrailer f).extractLsb' 12 12
def flitSeq (f : Flit) : BitVec 12 := (flitTrailer f).setWidth 12
def flitBytes (f : Flit) : List Byte := leBytes 64 f.toNat
/-- The CRC over bytes 0 to 59 fits, the reserved bit is clear, and the kind is one of the four. -/
def flitGood (f : Flit) : Bool :=
  (crc32c ((flitBytes f).take 60)).toNat = bitsOf (flitTrailer f) 32 32 && !(flitTrailer f).getLsbD 31 && decide (flitKind f < 4)

/-! ### A port's sender -/

/-- The state of a port (R26). -/
def State.portSt (s : State) (p : Nat) : Nat := s.regF (Pf.port p 0x008) 0 3
def State.portUp (s : State) (p : Nat) : Bool := s.portSt p = 2 || s.portSt p = 3

/-- A control flit: NAK or idle, with the cumulative acknowledgement.  It has no number and is not kept (log entry 61). -/
def Port.control (k : Port) (bs : List Byte) (kind : Nat) (seq : BitVec 12) : Port :=
  { k with out := k.out ++ [mkFlit bs true 0 kind k.rxGood seq] }

/-- A data or credit flit takes the next number and is kept until it is acknowledged. -/
def Port.give (k : Port) (bs : List Byte) (last : Bool) (vl kind : Nat) : Port :=
  let f := mkFlit bs last vl kind k.rxGood k.txSeq
  { k with replay := k.replay ++ [(k.txSeq, f)], out := k.out ++ [f], txSeq := k.txSeq + 1 }

def Port.allowed (k : Port) (v : Nat) : Nat := k.allow.toList.getD v 0
def Port.setAllow (k : Port) (v n : Nat) : Port := { k with allow := if h : v < 4 then k.allow.set v n else k.allow }

/-- The packet of which the port sends the next flit, with the flits of it that have gone: on each lane one after the other, in their
order, and a lane without an allowance stalls only that lane (R32). -/
def Port.nextData (k : Port) : Option (Packet × Nat) :=
  match k.tx.find? (fun e => decide (0 < k.allowed e.1)) with
  | some e => some e.2
  | none => (k.queue.find? (fun q => decide (0 < k.allowed q.vl) && (AMap.get? k.tx q.vl).isNone)).map (fun q => (q, 0))

/-- The next data flit goes. -/
def Port.sendData (k : Port) (q : Packet) (i : Nat) : Port :=
  let last := decide (q.pieces.length ≤ i + 1)
  let k1 := (k.give (q.pieces.getD i []) last q.vl 1).setAllow q.vl (k.allowed q.vl - 1)
  { k1 with queue := if i = 0 then k.queue.erase q else k.queue
            tx := if last then AMap.erase k.tx q.vl else AMap.set k.tx q.vl (q, i + 1) }

/-- The allowances of a lane go back in a credit flit: their number in bytes 0 and 1, the lane in the trailer's VL (log entry 61). -/
def Port.sendCredit (k : Port) (v : Nat) : Port :=
  { k.give (leBytes 2 (k.owed.toList.getD v 0)) true v 3 with owed := if h : v < 4 then k.owed.set v 0 else k.owed }

/-- Allowances and packets go on the link while the replay buffer has room: with 512 flits in it none goes (R29). -/
def Port.pump : Nat → Port → Port
  | 0, k => k
  | fuel + 1, k =>
    if 512 ≤ k.replay.length then k
    else match (List.range 4).find? (fun v => k.owed.toList.getD v 0 ≠ 0) with
      | some v => pump fuel (k.sendCredit v)
      | none => match k.nextData with
        | some (q, i) => pump fuel (k.sendData q i)
        | none => k

/-- The flits that a port has still to send. -/
def Port.toSend (k : Port) : Nat :=
  (k.queue.map (fun q => q.pieces.length)).sum + (k.tx.map (fun e => e.2.1.pieces.length)).sum + 4

def State.pumpPort (s : State) (p : Nat) : State :=
  if s.portUp p then let k := s.port p; s.setPort p (k.pump (k.toSend + 1)) else s

/-- An up port with nothing on its way to the link sends an idle flit (R28). -/
def State.idleFlit (s : State) (p : Nat) : State :=
  if s.portUp p && (s.port p).out = [] then s.setPort p ((s.port p).control [] 0 0) else s

/-! ### Tags (R36, R37) -/

/-- Some entry of the port holds the tag with the partition's bit. -/
def State.tagPass (s : State) (p tag part : Nat) : Bool :=
  tag ≠ 0 && (List.range 8).any (fun i =>
    let e := s.reg (Pf.port p (0x080 + 8 * i))
    decide (bitsOf e 0 16 = tag) && e.getLsbD (16 + part))

/-- A counter of a port that saturates. -/
def State.portCount (s : State) (p off lo k : Nat) : State :=
  let a := Pf.port p off
  s.setRegF a lo 16 (min (s.regF a lo 16 + k) 0xFFFF)

/-- A bit of PORT_EVT set, with a pilot event on its rise (R44): kind 4, the port, the bit. -/
def State.portEvt (s : State) (p bit : Nat) : State :=
  let a := Pf.port p 0x028
  if (s.reg a).getLsbD bit then s
  else (s.setReg a (s.reg a ||| BitVec.ofNat 64 (2 ^ bit))).pilotEvent 4 (BitVec.ofNat 64 p) (BitVec.ofNat 64 bit)

/-- A packet that fails a tag check is dropped; the first is captured (R37). -/
def State.tagDrop (s : State) (p : Nat) (k : Packet) (egress : Bool) : State :=
  let s1 := s.portCount p 0x018 48 1
  if (s1.reg (Pf.port p 0x028)).getLsbD 0 then s1
  else
    let put (s : State) (off : Nat) (v : Word) : State := s.setReg (Pf.port p off) v
    (put (put (put (put (put s1 0x030 k.h0) 0x038 k.h1) 0x040 k.h2) 0x048 k.h3) 0x050 (if egress then 1 else 0)).portEvt p 0

/-! ### Flows (R33, R34, R43) -/

/-- The egress port of a hub for a device; none without a valid route. -/
def State.routePort (s : State) (hub dev : Nat) : Option Nat :=
  let b := bitsOf (s.reg (Pf.hub hub (0x1000 + dev / 8 * 8))) (8 * (dev % 8)) 8
  if b / 128 = 1 then some (b % 64) else none

/-- A kept packet is put on its way by the route in force; a port that is DISABLED or FAILED takes none, and the egress check of R36
applies. -/
def State.emit (s : State) (hub : Nat) (k : Packet) : State :=
  match s.routePort hub k.dstDev with
  | none => s
  | some p =>
    if s.portSt p = 0 || s.portSt p = 5 then s
    else if s.tagPass p k.tag k.srcPart then
      (s.setPort p { s.port p with queue := (s.port p).queue ++ [k] }).pumpPort p
    else s.tagDrop p k true

/-- PART_TAG of a partition at a hub (R38). -/
def State.partTag (s : State) (hub part : Nat) : Nat := s.regF (Pf.hub hub (0x40 + 8 * part)) 0 16

/-- A copy that loses packets (R34, R342). -/
def State.loseCopy (s : State) (c : Option (Nat × Nat × BitVec 16 × Nat)) : State :=
  match c with
  | some (n, ch, q, _) =>
    let k := (s.core n).chan ch
    s.setCore n ((s.core n).setChan ch { k with running := k.running.map (fun r => if r.seq = q then { r with lost := true } else r) })
  | none => s

/-- Packets leave a port's queue and its sender.  The flits that have gone stay gone: the far port takes the lane's next packet for the
rest of theirs, drops the whole as a header error, and its flow sends it again (DESIGN CHOICE, log entry 114). -/
def Port.without (k : Port) (f : Packet → Bool) : Port :=
  { k with queue := k.queue.filter (fun q => !f q), tx := k.tx.filter (fun e => !f e.2.1) }

/-- The packets that a port has still to send. -/
def Port.unsent (k : Port) : List Packet := k.queue ++ k.tx.map (fun e => e.2.1)

/-- Queued packets leave every port of the device. -/
def State.purge (s : State) (f : Packet → Bool) : State :=
  { s with ports := s.ports.map (fun p => (p.1, p.2.without f)) }

/-- A flow is lost: its packets are discarded, wherever they are queued, and counted, and pilot firmware is told the device (R34): kind
5. -/
def State.loseFlow (s : State) (dev vl p : Nat) : State :=
  let f := s.flow dev vl
  let s1 := (f.kept.foldl (fun s k => s.loseCopy k.copy) s).purge (fun k => k.dstDev = dev && k.vl = vl)
  ((s1.setFlow dev vl { f with kept := [], lost := true }).portCount p 0x020 0 f.kept.length).portEvt p 2
    |>.pilotEvent 5 (BitVec.ofNat 64 dev) (BitVec.ofNat 64 vl)

/-- Sends a packet from a core's hub: it takes the flow's next number and is kept until it is acknowledged.  On a lost flow it is
discarded and counted at the route's port, or the hub's first. -/
def State.sendPacket (s : State) (x : Send) : State :=
  let hub := dieOf x.core
  let f := s.flow x.dev x.vl
  let k := mkPacket x (s.regF Pf.fabSelf 0 12) (s.partTag hub x.part) f.next
  if f.lost then (s.portCount ((s.routePort hub x.dev).getD (hub * 16)) 0x020 0 1).loseCopy x.copy
  else (s.setFlow x.dev x.vl { f with next := f.next + 1, kept := f.kept ++ [⟨k, hub, s.cyc, 0, x.copy⟩] }).emit hub k

end Sys2Proof.Machine
end

