-- ==== Sys2Proof/Machine/Folding.lean ====
section
/-! DEFINITION. What a folding agent does with contributions (R186 to R194), departures (R196), and the fix instructions (R338). -/

namespace Sys2Proof.Machine

/-! ### ARRIVAL order (R39, R193) -/

/-- Elements in a 256-byte chunk. -/
def chunkLen (d : Line) : Nat := 256 / fxE d
def chunkCount (d : Line) : Nat := (fxCount d + chunkLen d - 1) / chunkLen d

/-- A value scaled by its weight (R186). -/
def scaled (d : Line) (c : Contrib) (v : Nat) : Nat :=
  let x := toF32 (fxTy d) v
  if c.weight = 0x3F800000 then x else (mulRne .f32 x c.weight.toNat).1

/-- Values added to running FP32 sums. -/
def addVals (d : Line) (acc : List (BitVec 32)) (c : Contrib) : List (BitVec 32) :=
  (List.range c.vals.length).map (fun j =>
    BitVec.ofNat 32 (addRne .f32 ((acc.getD j 0).toNat) (scaled d c ((c.vals.getD j 0).toNat))).1)

/-- A base-die fold of FP32 terms into a round's buffer on the home device; a line with an uncorrectable error is named in a pilot event and
sets FOLDERR (R17). -/
def State.foldInto (s : State) (h : BitVec 32) (k : Nat) (tag : BitVec 32) (first : Nat) (vs : List Nat) : State :=
  match s.fix h with
  | none => s
  | some f =>
    let d := f.desc
    let n := fxHome h
    let add (old v : Nat) : Nat × BitVec 5 :=
      let z := addRne .f32 (toF32 (fxTy d) old) v
      if fxTy d = .bf16 then let r := convert .f32 .bf16 .rne 0 false z.1; (r.1, z.2 ||| r.2) else z
    ((vs.foldl (fun acc v =>
      let (t, i, refused) := acc
      let a := bufAddr d tag + (first + i) * fxE d
      match t.engPlace n a (fxE d) .rw true true with
      | (.ok (.mem pa key _ _), s1) =>
        match s1.baseUpd pa key (fxE d) (fun old => add old v) with
        | some s2 => (s2, i + 1, refused)
        | none =>
          if refused = some (lineBase pa) then (s1, i + 1, refused)
          else
            let s2 := match s1.fix h with
              | some g => s1.setFixObj h (g.setFold k { g.fold k with folderr := true })
              | none => s1
            (s2.foldRefused pa, i + 1, some (lineBase pa))
      | (.error c, s1) => (s1.engineEvent n 0x41 c, i + 1, refused)
      | (_, s1) => (s1, i + 1, refused)) (s, 0, (none : Option Nat)))).1

/-- The entry of a chunk of a round in a hub. -/
def Hub.entry (u : Hub) (h tag : BitVec 32) (chunk : Nat) : Option CmbEntry :=
  u.cmb.find? (fun e => e.handle = h && e.tag = tag && e.chunk = chunk && e.leaves.isNone)

/-- A new entry for a partition: from its quota, else from the pool (R39). -/
def Hub.grant (u : Hub) (p : Nat) : Option Bool :=
  if u.draining.any (fun x => x.1 = p) then none
  else if (u.cmb.filter (fun e => e.part = p && !e.shared)).length < 448 then some false
  else if (u.cmb.filter (fun e => e.shared)).length < 512 then some true
  else none

/-- A chunk meets the combining table of the home die's hub; with no entry it bypasses to the base die.  `pool` says that the shared pool
may serve it now: a request for it waits for the others of the mesh cycle (R40). -/
def State.combine (s : State) (h : BitVec 32) (d : Line) (tag : BitVec 32) (c : Contrib) (pool : Bool) : State :=
  let hub := dieOf (fxHome h)
  let u := s.hub hub
  let enter (shared : Bool) : State := s.setHub hub { u with cmb := u.cmb ++ [{
    part := c.part, shared := shared, handle := h, tag := tag, chunk := c.chunk, vals := addVals d [] c }] }
  match u.entry h tag c.chunk with
  | some e => s.setHub hub { u with cmb := u.cmb.map (fun x => if x = e then { e with vals := addVals d e.vals c } else x) }
  | none =>
    match u.grant c.part with
    | some false => enter false
    | r =>
      if !pool then s.setHub hub { u with asks := u.asks ++ [(h, tag, c)] }
      else if r.isSome then enter true
      else
        let a := Pf.hub hub (0x100 + 8 * c.part)
        (s.setRegF a 32 32 (min (s.regF a 32 32 + 1) 0xFFFFFFFF)).post (.nearFold h { c with tag := tag }) [] 0

/-- Entries whose packet has left the hub are free again (R41). -/
def State.freeEntries (s : State) (hub : Nat) : State :=
  let u := s.hub hub
  s.setHub hub { u with cmb := u.cmb.filter (fun e => match e.leaves with | some m => decide (s.mesh ≤ m) | none => true) }

/-- A chunk accepted into a round under ARRIVAL order. -/
def State.addArrival (s : State) (h : BitVec 32) (f : FixObj) (k : Nat) (tag : BitVec 32) (c : Contrib) : State :=
  let d := f.desc
  match f.alg with
  | .combine => s.combine h d tag c false
  | .fold => s.post (.nearFold h { c with tag := tag }) [] 0
  | _ =>
    let fo := f.fold k
    let lo := c.chunk * chunkLen d
    let acc := if fo.acc = [] then List.replicate (fxCount d) 0 else fo.acc
    s.setFixObj h (f.setFold k { fo with
      acc := acc.take lo ++ addVals d ((acc.drop lo).take c.vals.length) c ++ acc.drop (lo + c.vals.length) })

/-! ### Contributions (R190) -/

/-- The effects on the fold of a chunk or contribution that is folded, on time or late. -/
def Fold.accept (fo : Fold) (arrival late : Bool) (c : Contrib) : Fold :=
  let kept := if arrival then { c with vals := [] } else c
  let whole (l : List Contrib) : Bool := decide ((l.filter (fun e => e.rank = c.rank && e.tag = c.tag)).length = c.chunks)
  let fo1 := { fo with seen := fo.seen ++ [(c.tag, c.rank, c.chunk)] }
  let fo2 := if late then { fo1 with late := fo1.late ++ [kept] }
    else { fo1 with onTime := fo1.onTime ++ [kept], lagging := fo1.lagging.filter (· ≠ c.rank) }
  if arrival && whole (if late then fo2.late else fo2.onTime) then
    { fo2 with wsum := BitVec.ofNat 32 (addRne .f32 fo2.wsum.toNat c.weight.toNat).1, lates := if late then fo2.lates + 1 else fo2.lates }
  else fo2

/-- One contribution judged at its folding agent, in the order of R190's rows. -/
def State.judge (s : State) (h : BitVec 32) (k : Nat) (c : Contrib) : State :=
  match s.fix h with
  | none => s
  | some f =>
    let fo := f.fold k
    let d := f.desc
    let p := partOf (s.agentCore h f k)
    let l := lateness fo.tag c.tag
    let keep (g : Fold) (s : State) : State := match s.fix h with | some f => s.setFixObj h (f.setFold k g) | none => s
    let lag : Fold := { fo with lagging := if fo.lagging.contains c.rank then fo.lagging else c.rank :: fo.lagging }
    if fo.stopped then s
    else if fo.seen.contains (c.tag, c.rank, c.chunk) then s.fxCount1 p 48
    else if l = 0 then
      let s1 := keep (fo.accept (fxArrival d) false c) (s.stageContrib h f k c)
      if fxArrival d then (match s1.fix h with | some f => s1.addArrival h f k fo.tag c | none => s1) else s1
    else if 1 ≤ l && l ≤ fxLag d then
      if fxRule d = 0 then keep { fo with seen := fo.seen ++ [(c.tag, c.rank, c.chunk)] } (s.fxCount1 p 0)
      else
        let c := { c with weight := lateWeight d l.toNat }
        let s1 := keep (fo.accept (fxArrival d) true c) (s.stageContrib h f k c)
        if fxArrival d then (match s1.fix h with | some f => s1.addArrival h f k fo.tag c | none => s1) else s1
    else if 0 < l then keep lag (s.fxCount1 p 32)
    else if l = -1 then keep { fo with early := fo.early ++ [c] } (s.stageContrib h f k c)
    else keep lag (s.fxCount1 p 16)

/-! ### Closing (R188, R189, R191) -/

/-- Base-die folds of a fix that are still under way are applied. -/
def State.flushFolds (s : State) (h : BitVec 32) (k : Nat) : State :=
  s.noc.foldl (fun s i => match i.m with
    | .nearFold g c =>
      if g = h then
        match s.fix h with
        | some f =>
          let s1 := { s with noc := s.noc.filter (fun j => j.id ≠ i.id) }
          s1.foldInto h k c.tag (c.chunk * chunkLen f.desc) (c.vals.map (fun v => scaled f.desc c v.toNat))
        | none => s
      else s
    | _ => s) s

/-- The hub fold-adds the entries of a round into the buffer; each is free in the mesh cycle after its packet has left (R41, R193). -/
def State.drainEntries (s : State) (h tag : BitVec 32) (k : Nat) : State :=
  let hub := dieOf (fxHome h)
  let mine (e : CmbEntry) : Bool := e.handle = h && e.tag = tag && e.leaves.isNone
  match s.fix h with
  | none => s
  | some f =>
    let s1 := ((s.hub hub).cmb.filter mine).foldl (fun s e =>
      s.foldInto h k tag (e.chunk * chunkLen f.desc) (e.vals.map BitVec.toNat)) s
    s1.setHub hub { s1.hub hub with cmb := (s1.hub hub).cmb.map (fun e => if mine e then { e with leaves := some s.mesh } else e) }

/-- The other devices of a rank table. -/
def State.otherDevs (s : State) (f : FixObj) : List Nat :=
  if fxTabled f.desc then
    ((f.table.map (fun e => bitsOf e 0 12)).eraseDups).filter (fun x => x ≠ s.regF Pf.fabSelf 0 12)
  else []

/-- The partition on another device that a packet of a fix names: that of its first rank there. -/
def FixObj.devPart (f : FixObj) (dv : Nat) : Nat :=
  match f.table.find? (fun e => bitsOf e 0 12 = dv) with
  | some e => partOf (coreAt (bitsOf e 12 5) (bitsOf e 17 5))
  | none => 0

/-- A round that closes with every rank departed has no contributors, and its values are the identity (R191). -/
def Fold.empty (fo : Fold) : Fold := { fo with onTime := [], late := [], acc := [], wsum := 0, lates := 0 }

/-- The values of the round at its close. -/
def State.writeValues (s : State) (h : BitVec 32) (f : FixObj) (k : Nat) : State :=
  let d := f.desc
  let fo := f.fold k
  let n := s.agentCore h f k
  if !fxArrival d then s.agentWrite n (bufAddr d fo.tag) (valBytes d (foldValues d fo))
  else if f.pushes then
    s.agentWrite n (bufAddr d fo.tag) (valBytes d ((List.range (fxCount d)).map (fun j => foldDone (fxTy d) ((fo.acc.getD j 0).toNat))))
  else (s.flushFolds h k).drainEntries h fo.tag k

/-- The open round closes: values, then the record, then a result packet to each other device; then the next round opens,
unless every rank has departed.  Answers the contributions held for the round that opens. -/
def State.closeRound (s : State) (h : BitVec 32) (k : Nat) : State × List Contrib :=
  match s.fix h with
  | none => (s, [])
  | some f0 =>
    let lost := s.roundSt f0 k = .quorumLost
    let all := decide (f0.departed.length ≥ fxN f0.desc)
    let f1 := if all then f0.setFold k (f0.fold k).empty else f0
    let s0 := s.writeValues h f1 k
    let s1 := if all then (s0.openBuffer h f1 k (f1.fold k).tag) else s0
    match s1.fix h with
    | none => (s1, [])
    | some f2 =>
      let f := if all then f2.setFold k (f2.fold k).empty else f2
      let d := f.desc
      let fo := f.fold k
      let n := s1.agentCore h f k
      let c := f.cOf k
      let rec0 := recordBytes d fo (fo.tag.toNat % 2)
      let s2 := s1.agentWrite n (bufAddr d fo.tag + align 8 (fxV d)) rec0
      let s3 := if k = 0 then (s2.otherDevs f).foldl (fun s dv => s.sendPacket
          { type := 2, vl := 0, core := fxHome h, part := partOf (fxHome h), dev := dv, dpart := f.devPart dv
            target := h.setWidth 64, round := fo.tag, data := rec0.take 24 }) s2 else s2
      let next : Fold := { tag := fo.tag + 1, lagging := fo.lagging, last := some (fo.tag, c, lost), stopped := all
                           parts := fo.parts
                           seen := fo.seen.filter (fun x => decide (lateness (fo.tag + 1) x.1 < fxLag d + 2)) }
      match s3.fix h with
      | none => (s3, [])
      | some g =>
        let g' := g.setFold k next
        let s4 := s3.setFixObj h (g'.setFold k { next with quorumLost := g'.losesQuorum k })
        if all then (s4, []) else (s4.openBuffer h g k (fo.tag + 1), fo.early)

/-- A chunk of a fix waits for an entry of the shared pool: it has not been added yet, so its round does not close (R193). -/
def State.asking (s : State) (h : BitVec 32) : Bool := (s.hub (dieOf (fxHome h))).asks.any (fun r => r.1 = h)

/-- Contributions are dealt with in turn, and rounds close as they are made. -/
def State.fixRun : Nat → State → BitVec 32 → Nat → List Contrib → State
  | 0, s, _, _, _ => s
  | fuel + 1, s, h, k, cs =>
    let s1 := match cs with | c :: _ => s.judge h k c | [] => s
    let go := match s1.fix h with | some f => s1.closes f k && !s1.asking h && s1.agentReady h f k | none => false
    if go then let r := s1.closeRound h k; fixRun fuel r.1 h k (r.2 ++ cs.drop 1)
    else match cs with
      | [] => s1
      | _ :: rest => fixRun fuel s1 h k rest

/-- A contribution reaches an agent. -/
def State.contribute (s : State) (h : BitVec 32) (k : Nat) (c : Contrib) : State :=
  match s.fix h with
  | some f => s.fixRun (2 * (f.fold k).early.length + 8) h k [c]
  | none => s

/-- The requests of a mesh cycle for entries of a hub's shared pool are granted in ascending order of port (R40). -/
def State.serveAsks (s : State) (hub : Nat) : State :=
  let u := s.hub hub
  (sortBy (fun a b => decide (a.2.2.port < b.2.2.port)) u.asks).foldl (fun s r =>
    match s.fix r.1 with
    | some f => s.combine r.1 f.desc r.2.1 r.2.2 true
    | none => s) (s.setHub hub { u with asks := [] })

/-- A fix's rounds are judged again. -/
def State.rejudge (s : State) (h : BitVec 32) : State :=
  match s.fix h with
  | some f => f.folds.foldl (fun s p => s.fixRun (2 * (f.fold p.1).early.length + 8) h p.1 []) s
  | none => s

/-- The other devices of a fix are told that a rank of this one has departed (R196). -/
def State.tellDeparted (s : State) (h : BitVec 32) (f : FixObj) (r : Nat) : State :=
  if (s.rankPlace f r).1 = s.selfDev then
    { s with dev := { s.dev with told := s.dev.told ++ (s.otherDevs f).map (fun d => (d, h, r)) } }
  else s

/-- A rank departs (R187, R196): every agent's round is judged again. -/
def State.depart (s : State) (h : BitVec 32) (r : Nat) : State :=
  match s.fix h with
  | none => s
  | some f =>
    if f.departed.contains r then s
    else
      let g := { f with departed := r :: f.departed, joined := f.joined.filter (fun j => j.1 ≠ r) }
      let g := { g with folds := g.folds.map (fun p => (p.1, { p.2 with quorumLost := p.2.quorumLost || g.losesQuorum p.1 })) }
      ((s.setFixObj h g).tellDeparted h g r).rejudge h

/-! ### TIMETABLE rounds (R186) -/

/-- The live fixes whose home is this device, and those of other devices that this one has been told of, with their handles. -/
def State.liveFixes (s : State) : List (BitVec 32 × FixObj) :=
  s.cores.flatMap (fun c => c.2.fixes.filterMap (fun g => if g.2.live then some (s.handleOf c.1 g.1 g.2.gen, g.2) else none)) ++
  s.dev.farFixes.map (fun g => (BitVec.ofNat 32 g.1, g.2))

/-- A held contribution may go: every rank that has not departed has one of its tag held, or its round has closed. -/
def FixObj.phaseReady (f : FixObj) (t : BitVec 32) : Bool :=
  f.folds.any (fun p => match p.2.last with | some (c, _, _) => decide (0 ≤ lateness c t) | none => false) ||
  (List.range (fxN f.desc)).all (fun r => f.departed.contains r || f.phase.any (fun c => c.rank = r && c.tag = t))

/-- The held contributions that may go: each with all those that its core sent before it (R401). -/
def FixObj.phaseGoing (f : FixObj) : List Contrib :=
  (f.phase.zipIdx.filter (fun c => (f.phase.take (c.2 + 1)).all (fun e => e.rank ≠ c.1.rank || f.phaseReady e.tag))).map Prod.fst

/-- A round's phase begins once the links of its rectangle are free: every contribution goes to every member, and until the last has arrived
the links inside the rectangle carry nothing else. -/
def State.phaseGo (s : State) (h : BitVec 32) : State :=
  match s.fix h with
  | none => s
  | some f =>
    let go := f.phaseGoing
    if go = [] || s.heldRects.any (fun r => r.cores.any (fxRect f.desc).has) then s
    else
      let s1 := s.setFixObj h { f with phase := f.phase.filter (fun c => !go.contains c) }
      go.foldl (fun s c => f.folds.foldl (fun s k =>
        let t := s.post (.fix h k.1 c) [] (meshDist (s.rankPlace f c.rank).2 (s.agentCore h f k.1))
        { t with noc := t.noc.dropLast ++ (t.noc.getLast?.toList.map (fun i => { i with phase := some (fxW f.desc 3) })) }) s) s1

/-- Rounds that waited for entries of the pool, or for the links to their result area, close. -/
def State.roundsGo (s : State) : State :=
  s.liveFixes.foldl (fun s g => if g.2.folds.any (fun k => s.closes g.2 k.1) then s.rejudge g.1 else s) s

/-- The phases that can begin. -/
def State.phasesGo (s : State) : State :=
  s.liveFixes.foldl (fun s g => if g.2.phase = [] then s else s.phaseGo g.1) s

/-- The fixes that a context holds ranks in. -/
def State.ranksOf (s : State) (n x : Nat) : List (BitVec 32 × Nat) :=
  s.liveFixes.filterMap (fun g => (g.2.rankOf n x).map (fun r => (g.1, r)))

/-- The round state that a member reads: its agent's, or, of a fix that another device folds, what the last result packet has told
(R189, log entry 38). -/
def State.foldSeen (s : State) (h : BitVec 32) (f : FixObj) (k : Nat) : Fold :=
  if fxDev h = s.selfDev || f.pushes then f.fold k
  else match AMap.get? s.dev.results h.toNat with
    | some (t, bs) =>
      let c := ofLeBytes ((bs.drop 4).take 2)
      { tag := t + 1, last := some (t, c, decide (c < fxK f.desc)) }
    | none => {}

/-! ### The instructions (R184, R187, R195, R338) -/

/-- Doublewords read from a table that no register names (R182, R410), up to the first that is not there: none then. -/
def State.readWords (s : State) (p a : Nat) : Nat → Option (List Word) × State
  | 0 => (some [], s)
  | n + 1 =>
    let s1 := s.tableRead p 0 a 8
    if s.partThere p a 8 then
      let r := readWords s1 p (a + 8) n
      (r.1.map (fun ws => BitVec.ofNat 64 (s.partRead p a 8) :: ws), r.2)
    else (none, s1)

/-- The rank table of a descriptor, and what its reading leaves. -/
def State.readTable (s : State) (n : Nat) (d : Line) : Option (List Word) × State :=
  s.readWords (s.homePart n) (bitsOf (fxW d 3) 0 56) (fxN d)

/-- The checks 3 and 4 of R184; the table that they read. -/
def State.fxMembers (s : State) (n : Nat) (d : Line) : Option (List Word) :=
  let inst := if fxTabled d then fxScope d = 8 else decide (2 ≤ fxScope d) && decide (fxScope d ≤ 7) &&
    (fxRect d).cores.all (fun k => s.sameInstance (fxScope d) n k)
  if !inst then none
  else if fxTabled d then
    match (s.readTable n d).1 with
    | some t => if decide (t.eraseDups.length = t.length) && t.all (fun e => decide (bitsOf e 22 42 = 0)) then some t else none
    | none => none
  else if fxN d = 2 ^ ((fxRect d).lw + (fxRect d).lh) then some [] else none

/-- What the checks leave: the reads of a table. -/
def State.fxReads (s : State) (n : Nat) (d : Line) : State := if fxTabled d && fxScope d = 8 then (s.readTable n d).2 else s

/-- The agents of a new fix object. -/
def State.fxAgents (s : State) (f : FixObj) : List Nat :=
  if f.pushes then (List.range (fxN f.desc)).filter (fun r => decide ((s.rankPlace f r).1 = s.regF Pf.fabSelf 0 12)) else [0]

/-- FXDEF (R182 to R185). -/
def execFxdef (d a : Opnd) (m : Mods) (s : State) : Host.Outcome State Fault Refusal :=
  runInstr (.fxdef d a m) m s (fun _ => do
    let ea ← src a m
    check (ea.extractLsb' 0 3 = 0#3) 0x05 ea
    let bs ← ctxRead ea.toNat 64
    let e : Line := BitVec.ofNat 512 (ofLeBytes bs)
    let enc := encOf (.fxdef d a m) m
    check (fxOk1 e) 0x02 enc
    check (fxType e = 4 || fxType e = 8 || fxType e = 9) 0x04 enc
    let s ← getS
    let n := s.cur.1
    match s.fxMembers n e with
    | none => fun _ => .error (.raiseKeep 0x02 enc (fun s => s.fxReads n e))
    | some t => do
      modS (fun s => s.fxReads n e)
      check (fxOk5 e) 0x02 enc
      let s ← getS
      let alg := s.fxResolve n e
      match s.fxResultOk n e alg with
      | .error (c, a) => raise c (BitVec.ofNat 64 a)
      | .ok s1 => do
        match (List.range 16).find? (fun i => !(s1.me.fixObj i).live) with
        | none => raise 0x55 0
        | some i => do
          let g := (s1.me.fixObj i).gen + 1
          let h := s1.handleOf n i g
          let f : FixObj := { live := true, gen := g, desc := e, alg := alg, table := t, root := s1.homePart n }
          let ks := s1.fxAgents f
          if !ks.all (s1.agentReady h f) then notYet
          else do
          let f' := { f with folds := ks.foldl (fun acc k => AMap.set acc k {}) [] }
          putS (ks.foldl (fun s k => s.openBuffer h f' k 0) (s1.setMe (s1.me.setFix i f')))
          dst d (h.setWidth 64))

/-- FXJOIN (R187). -/
def execFxjoin (a : Opnd) (m : Mods) (s : State) : Host.Outcome State Fault Refusal :=
  runInstr (.fxjoin a m) m s (fun _ => do
    let v ← src a m
    let enc := encOf (.fxjoin a m) m
    check (decide (bitsOf v 48 16 = 0)) 0x02 enc
    let h : BitVec 32 := v.setWidth 32
    let r := bitsOf v 32 16
    let s ← getS
    match s.fix h with
    | none => raise 0x54 (h.setWidth 64)
    | some f => do
      check (decide (r < fxN f.desc)) 0x02 enc
      check (s.rankPlace f r = (s.regF Pf.fabSelf 0 12, s.cur.1)) 0x02 enc
      check (!f.joined.any (fun j => j.1 = r) && !f.departed.contains r) 0x02 enc
      putS (s.setFixObj h { f with joined := f.joined ++ [(r, s.cur.1, s.cur.2)] }))

/-- The fix and rank of the running context under a handle, or cause 0x54 (R187). -/
def heldRank (h : BitVec 32) : Sem (FixObj × Nat) := fun s =>
  match s.fix h with
  | none => .error (.raise 0x54 (h.setWidth 64))
  | some f =>
    match f.rankOf s.cur.1 s.cur.2 with
    | none => .error (.raise 0x54 (h.setWidth 64))
    | some r => .ok ((f, r), s)

/-- The source range of a contribution, checked line by line under R142. -/
def State.checkRange (s : State) (n a sz : Nat) : Except (BitVec 8 × Nat) State :=
  ((splitLines a (sz + 1) sz).foldl (fun acc u =>
    match acc with
    | .error e => .error e
    | .ok s => match s.engPlace n (wrap u.1) u.2 .r false with
      | (.error c, _) => .error (c, wrap u.1)
      | (.ok _, s1) => .ok s1) (.ok s))

/-- FXC (R190): the contribution enters the send queue; its source is read after the drain of R167. -/
def execFxc (d a c : Opnd) (m : Mods) (s : State) : Host.Outcome State Fault Refusal :=
  runInstr (.fxc d a c m) m s (fun _ => do
    sendRoom
    let at0 ← src a m
    let t ← src c m
    let hv ← src d m
    let h : BitVec 32 := hv.setWidth 32
    let (f, r) ← heldRank h
    let s ← getS
    match s.checkRange s.cur.1 at0.toNat (fxCount f.desc * fxE f.desc) with
    | .error (e, x) => raise e (BitVec.ofNat 64 x)
    | .ok s1 => do
      putS s1
      let after ← release (Scope.ofCode (BitVec.ofNat 4 (fxScope f.desc)))
      modMe (fun k => { k with sendq := k.sendq ++ [.fix h (t.setWidth 32) r at0 (after ++ s1.ctxAccesses s1.cur.1 s1.cur.2)] }))

/-- The status word of FXW (R195). -/
def fxwWord (tag : BitVec 32) (c : Nat) (withheld lost lag timeout : Bool) : Word :=
  BitVec.ofNat 64 (tag.toNat + c % 2 ^ 16 * 2 ^ 32 + (if withheld then 2 ^ 48 else 0) + (if lost then 2 ^ 49 else 0) +
    (if lag then 2 ^ 50 else 0) + (if timeout then 2 ^ 51 else 0))

/-- The halted rank with the lowest halt id, or a rank of another device (R204, R205). -/
def State.fixUpstream (s : State) (h : BitVec 32) (f : FixObj) (k : Nat) : Upstream :=
  let hs := (s.hOf f k).filterMap (fun r => (f.joined.find? (fun j => j.1 = r)).map (fun j => (j.2.1, j.2.2)))
  ⟨5, h.toNat + (f.fold k).tag.toNat % 2 ^ 28 * 2 ^ 32, false, s.lowestHalt hs⟩

/-- FXW (R195). -/
def execFxw (d a c : Opnd) (m : Mods) (s : State) : Host.Outcome State Fault Refusal :=
  runInstr (.fxw d a c m) m s (fun _ => do
    let hv ← src a m
    let t ← if m.len.ext then src c m else pure 0
    let h : BitVec 32 := hv.setWidth 32
    let tag : BitVec 32 := t.setWidth 32
    let (f, r) ← heldRank h
    let s ← getS
    let k := f.agentOf r
    let fo := s.foldSeen h f k
    let lag := fo.lagging.contains r
    let done := match fo.last with | some (c, _, _) => decide (0 ≤ lateness c tag) | none => false
    let last := fo.last.getD (0, 0, false)
    let up : Option Upstream := if s.roundWithheld f k then some (s.fixUpstream h f k) else none
    if done then do
      acquireNow (some (Scope.ofCode (BitVec.ofNat 4 (fxScope f.desc))))
      dst d (fxwWord last.1 last.2.1 false last.2.2 lag false)
    else if s.roundWithheld f k && m.len.ext && m.mod.getLsbD 1 then dst d (fxwWord fo.tag (f.cOf k) true false lag false)
    else
      let on : WaitOn := if m.len.ext && m.mod.getLsbD 1 then .fixq h tag else .fix h tag
      if s.my.wait.any (fun w => w.on = on && w.expired) then dst d (fxwWord last.1 last.2.1 false last.2.2 lag true)
      else waitFor on (if m.len.ext then m.imm32.toNat else 0) up)

/-- The state word of FXQ (R195). -/
def State.fxqWord (s : State) (n : Nat) (h : BitVec 32) (f : FixObj) (k : Nat) : Word :=
  let fo := s.foldSeen h f k
  let st := match s.roundSt f k with | .opened => 0 | .withheld => 1 | .quorumLost => 2
  let alg := match f.alg with | .auto => 0 | .pushall => 1 | .combine => 2 | .fold => 3 | .timetable => 4
  let pending := (s.core n).sendq ≠ []
  BitVec.ofNat 64 (fo.tag.toNat + f.cOf k * 2 ^ 32 + st * 2 ^ 48 + alg * 2 ^ 50 + (if pending then 2 ^ 53 else 0))

/-- FXQ (R195): no rank is needed. -/
def execFxq (d a : Opnd) (m : Mods) (s : State) : Host.Outcome State Fault Refusal :=
  runInstr (.fxq d a m) m s (fun _ => do
    let hv ← src a m
    let h : BitVec 32 := hv.setWidth 32
    let s ← getS
    match s.fix h with
    | none => raise 0x54 (h.setWidth 64)
    | some f =>
      let k := match f.rankOf s.cur.1 s.cur.2 with
        | some r => f.agentOf r
        | none => (f.folds.head?.map Prod.fst).getD 0
      dst d (s.fxqWord s.cur.1 h f k))

/-- FXLV (R187, R196). -/
def execFxlv (a : Opnd) (m : Mods) (s : State) : Host.Outcome State Fault Refusal :=
  runInstr (.fxlv a m) m s (fun _ => do
    let hv ← src a m
    let h : BitVec 32 := hv.setWidth 32
    let (_, r) ← heldRank h
    modS (fun s => s.depart h r))

end Sys2Proof.Machine
end

