-- ==== Sys2Proof/Machine/ChartOps.lean ====
section
/-! DEFINITION. The Chartroom instructions (R344, R345) and CKSET (R319): a request reaches the Chartroom of the partition that
placed the core's gang, and the context waits for the answer. -/

namespace Sys2Proof.Machine

/-- A request is posted, and its context waits for the answer; `rel` makes it a release at .part first (R345). -/
def State.postChart (s : State) (op : ChartOp) (rel blocks : Bool) : State :=
  let s0 := if rel then (s.releaseActs s.cur.1 s.cur.2 .part).2 else s
  let (id, s1) := s0.newId
  let p := s1.homePart s1.cur.1
  let s2 := s1.setPart p { s1.part p with reqs := (s1.part p).reqs ++ [⟨id, s.cur.1, s.cur.2, op⟩] }
  s2.setMy { s2.my with wait := some { on := .chart, arrived := true }
                        block := if blocks then s2.my.block ++ [id] else s2.my.block }

/-- The context has a request at the Chartroom. -/
def Ctx.asked (k : Ctx) : Bool := k.wait.any (fun w => w.on = .chart && w.arrived)

/-- Asks the Chartroom and answers what it answers; FADDR of a refusal is the TCB index (R344). -/
def ask (op : ChartOp) (rel blocks : Bool) (faddr : Word) : Sem Word := do
  let k ← getMy
  if k.asked then
    match k.answer with
    | none => blocked
    | some (c, v) => do
      modMy (fun k => { k with answer := none })
      if c = 0 then pure v
      else fun _ => .error (.raiseKeep c faddr (fun s => s.setMy { s.my with answer := none }))
  else do
    if rel then releaseFirst .part else pure ()
    blocked (fun s => s.postChart op rel blocks)

/-- CHARM (R71, R344). -/
def execCharm (a : Opnd) (m : Mods) (s : State) : Host.Outcome State Fault Refusal :=
  runInstr (.charm a m) m s (fun _ => do
    let i ← src a m
    let _ ← ask (.arm i.toNat) true true i
    pure ())

/-- CHDEC (R73, R344). -/
def execChdec (a : Opnd) (m : Mods) (s : State) : Host.Outcome State Fault Refusal :=
  runInstr (.chdec a m) m s (fun _ => do
    let i ← src a m
    let _ ← ask (.dec i.toNat) true true i
    pure ())

/-- CHPATCH (R72, R344). -/
def execChpatch (d a : Opnd) (m : Mods) (s : State) : Host.Outcome State Fault Refusal :=
  runInstr (.chpatch d a m) m s (fun _ => do
    let t ← src a m
    let v ← src d m
    check (t &&& 0xFFFFFFFFFFF0E000#64 = 0) 0x02 (encOf (.chpatch d a m) m)
    let i := bitsOf t 0 13
    let _ ← ask (.patch i (bitsOf t 16 4) v) true true (BitVec.ofNat 64 i)
    pure ())

/-- The TCB of the running core's gang, 0 for none. -/
def State.myTcb (s : State) : Word := BitVec.ofNat 64 ((s.me.gang.map GangRef.tcb).getD 0)

/-- CHCARD (R75, R344): a wait instruction. -/
def execChcard (d : Opnd) (m : Mods) (s : State) : Host.Outcome State Fault Refusal :=
  runInstr (.chcard d m) m s (fun _ => do
    let s ← getS
    check s.me.gang.isSome 0x71 0
    let v ← ask .card false false s.myTcb
    dst d v
    modS (fun s => s.traceRec s.cur.1 s.cur.2 2 (BitVec.ofNat 64 (bitsOf v 0 32 * 2 ^ 32 + 2 ^ 16 + s.myTcb.toNat % 8192))))

/-- CHDONE (R76, R344). -/
def execChdone (a : Opnd) (m : Mods) (s : State) : Host.Outcome State Fault Refusal :=
  runInstr (.chdone a m) m s (fun _ => do
    let f ← src a m
    let s ← getS
    let _ ← ask (.done f.toNat) true true s.myTcb
    modS (fun s => s.traceRec s.cur.1 s.cur.2 2 (BitVec.ofNat 64 (f.toNat % 2 ^ 32 * 2 ^ 32 + 2 * 2 ^ 16 + s.myTcb.toNat % 8192))))

/-- The tasks of a partition that have not completed and name i as a successor. -/
def State.preds (s : State) (p i : Nat) : List Nat :=
  ((s.part p).tcbs.map Prod.fst).filter (fun j =>
    let st := s.tcbSt p j
    (st = tWaiting || st = tReady || st = tRunning || st = tDraining || st = tFaulted) && (s.succs p 17 j).contains i)

/-- A task is withheld (R202): it is FAULTED, or a predecessor is withheld. -/
def State.taskWithheld (s : State) (p : Nat) : Nat → Nat → Bool
  | 0, _ => false
  | fuel + 1, i => s.tcbSt p i = tFaulted || (s.preds p i).any (fun j => taskWithheld s p fuel j)

/-- The status word of CHQ. -/
def State.chqWord (s : State) (p i : Nat) : Word :=
  BitVec.ofNat 64 (s.tcbSt p i + s.tcbF p i 5 0 16 * 2 ^ 8 + (if s.taskWithheld p ((s.part p).tcbs.length + 1) i then 2 ^ 24 else 0) +
    s.acked p i * 2 ^ 32)

/-- CHQ (R344). -/
def execChq (d a : Opnd) (m : Mods) (s : State) : Host.Outcome State Fault Refusal :=
  runInstr (.chq d a m) m s (fun _ => do
    let i ← src a m
    let s ← getS
    let p := s.homePart s.cur.1
    if i.toNat ≥ 8192 then raise 0x72 i
    else if (s.tcb? p i.toNat).isNone then
      fun _ => .error (.raiseKeep 0x72 i (fun s => s.readTcb p i.toNat))
    else do
      modS (fun s => s.readTcb p i.toNat)
      dst d (s.chqWord p i.toNat))

/-- CKSET (R319). -/
def execCkset (d a : Opnd) (m : Mods) (s : State) : Host.Outcome State Fault Refusal :=
  runInstr (.ckset d a m) m s (fun _ => do
    let v ← src a m
    let s ← getS
    match s.me.gang with
    | some g =>
      if s.my.asked || (g.convoy < 1024 && s.cvyLaps g.part g.convoy ≠ 0) then dst d (← ask (.ckset g.convoy v) false true 0)
      else dst d 0
    | none => dst d 0)

end Sys2Proof.Machine
end

