-- ==== Sys2Proof/Machine/Lanes.lean ====
section
/-! DEFINITION. The lanes of a vector row and what each vector instruction computes on them (R116, R346 to R362). -/

namespace Sys2Proof.Machine

/-! ### Rows and lanes (R116, R232) -/

abbrev RowVal := BitVec 2048

/-- The lanes of a row of a type. -/
def laneCount (t : ElTy) : Nat := 2048 / t.bits

/-- Lane j of a row of w-bit lanes. -/
def laneOf (r : RowVal) (w j : Nat) : Nat := r.toNat / 2 ^ (w * j) % 2 ^ w

/-- The number whose w-bit digits, lane 0 first, are the values of a list. -/
def packLanes (w : Nat) : List Nat → Nat
  | [] => 0
  | v :: vs => v % 2 ^ w + 2 ^ w * packLanes w vs

/-- Lane j is active under a mask row (R347). -/
def laneActive (mask : Option RowVal) (j : Nat) : Bool :=
  match mask with
  | none => true
  | some r => r.getLsbD j

/-- The elementwise form of R348: each active lane takes a value and flags, the others keep their value or become 0. -/
def mapLanes (w n : Nat) (old : RowVal) (mask : Option RowVal) (zero : Bool) (f : Nat → Nat × BitVec 5) : RowVal × BitVec 5 :=
  let rs := (List.range n).map (fun j =>
    if laneActive mask j then f j else (if zero then 0 else laneOf old w j, 0))
  (BitVec.ofNat 2048 (packLanes w (rs.map Prod.fst)), rs.foldl (fun acc r => acc ||| r.2) 0)

/-! ### Flush to zero (R243) -/

/-- The types that FTZ bears on. -/
def ftzType : ElTy → Bool
  | .f32 | .bf16 | .f16 => true
  | _ => false

/-- A subnormal of a floating-point type. -/
def isSubnormal (t : ElTy) (v : Nat) : Bool :=
  let f := fpFmt t
  decide (v % 2 ^ (f.p - 1) ≠ 0) && decide (v % 2 ^ (f.w - 1) / 2 ^ (f.p - 1) = 0)

def signOnly (t : ElTy) (v : Nat) : Nat := v / 2 ^ (t.bits - 1) * 2 ^ (t.bits - 1)

/-- An input, and a result, under FTZ. -/
def ftzIn (on : Bool) (t : ElTy) (v : Nat) : Nat := if on && ftzType t && isSubnormal t v then signOnly t v else v
def ftzOut (on : Bool) (t : ElTy) (r : Nat × BitVec 5) : Nat × BitVec 5 :=
  if on && ftzType t && isSubnormal t r.1 then (signOnly t r.1, r.2 ||| fUF ||| fNX) else r

/-- How an instruction rounds: mode, seed, FTZ and SAT. -/
structure Rnd where
  mode : RndF
  seed : BitVec 32
  ftz : Bool
  sat : Bool
deriving DecidableEq, Repr

/-- An exact floating-point result of lane j, rounded. -/
def Rnd.out (r : Rnd) (t : ElTy) (j : Nat) (x : FpNum × BitVec 5) : Nat × BitVec 5 :=
  ftzOut r.ftz t (finish t r.mode (laneSeed r.seed j) r.sat x)

/-- A lane's value as a number, under FTZ. -/
def Rnd.num (r : Rnd) (t : ElTy) (v : Nat) : FpNum := numOf t (ftzIn r.ftz t v)

/-- An exact integer result (R249): modulo 2^N, or clamped. -/
def intOut (t : ElTy) (sat : Bool) (i : Int) : Nat × BitVec 5 :=
  (lowBits t.bits (if sat then clampInt (tyMin t) (tyMax t) i else i), 0)

/-! ### Arithmetic (R350 to R352) -/

/-- The members of VA but VFMA and VSACC. -/
inductive VaOp
  | add | sub | mul | mulz | min | max
deriving DecidableEq, Repr

/-- The smaller or larger of two integers; MOD[24] selects the unsigned comparison (R350). -/
def intMinMax (n : Nat) (uns wantMax : Bool) (x y : Nat) : Nat :=
  let lt := if uns then decide (x < y) else decide (toSigned x n < toSigned y n)
  if wantMax then (if lt then y else x) else (if lt then x else y)

/-- One lane. -/
def vaLane (op : VaOp) (t : ElTy) (r : Rnd) (uns : Bool) (j x y : Nat) : Nat × BitVec 5 :=
  if t.isInt then
    match op with
    | .add => intOut t r.sat (intOf t x + intOf t y)
    | .sub => intOut t r.sat (intOf t x - intOf t y)
    | .mul | .mulz => intOut t r.sat (intOf t x * intOf t y)
    | .min => (intMinMax t.bits uns false x y, 0)
    | .max => (intMinMax t.bits uns true x y, 0)
  else
    let a := r.num t x
    let b := r.num t y
    match op with
    | .add => r.out t j (exactAdd r.mode a b)
    | .sub => r.out t j (exactAdd r.mode a b.negate)
    | .mul => r.out t j (exactMul a b)
    | .mulz => r.out t j (exactMulZ a b (decide (x / 2 ^ (t.bits - 1) % 2 = 1)) (decide (y / 2 ^ (t.bits - 1) % 2 = 1)))
    | .min => minMaxNum t false (ftzIn r.ftz t x) (ftzIn r.ftz t y)
    | .max => minMaxNum t true (ftzIn r.ftz t x) (ftzIn r.ftz t y)

/-- VFMA. -/
def fmaLane (t : ElTy) (r : Rnd) (j x y z : Nat) : Nat × BitVec 5 :=
  r.out t j (exactFma r.mode (r.num t x) (r.num t y) (r.num t z))

/-- x × 2^k, exactly. -/
def FpNum.scale (x : FpNum) (k : Int) : FpNum :=
  match x with
  | .fin n m e => .fin n m (e + k)
  | x => x

/-- The scale rule of R253: the exact sum, with the flags that its operands set. -/
def scaleSum (mode : RndF) (d s : FpNum) (ea eb : Nat) : FpNum × BitVec 5 :=
  if ea = 0xFF || eb = 0xFF then (.nan false, fNV)
  else exactAdd mode d (s.scale ((ea : Int) + eb - 254))

/-- VSACC (R352). -/
def saccLane (t : ElTy) (r : Rnd) (j s ea eb d : Nat) : Nat × BitVec 5 :=
  r.out .f32 j (scaleSum r.mode (r.num .f32 d) (r.num t s) ea eb)

/-! ### Logic and shifts (R353, R354) -/

inductive VbOp
  | and | or | xor | shl | shr | sar
deriving DecidableEq, Repr

def vbLane (op : VbOp) (t : ElTy) (sat : Bool) (x y : Nat) : Nat × BitVec 5 :=
  let n := t.bits
  let c := y % 256
  match op with
  | .and => (x &&& y, 0)
  | .or => (x ||| y, 0)
  | .xor => (x ^^^ y, 0)
  | .shl => intOut t sat (intOf t x * (2 ^ c : Nat))
  | .shr => (if c ≥ n then 0 else x / 2 ^ c, 0)
  | .sar => (lowBits n (toSigned x n / ((2 ^ (min c n) : Nat) : Int)), 0)

def absLane (t : ElTy) (sat : Bool) (x : Nat) : Nat × BitVec 5 :=
  if t.isInt then intOut t sat (intOf t x).natAbs else (x % 2 ^ (t.bits - 1), 0)

def negLane (t : ElTy) (sat : Bool) (x : Nat) : Nat × BitVec 5 :=
  if t.isInt then intOut t sat (-(intOf t x)) else (x ^^^ 2 ^ (t.bits - 1), 0)

/-! ### Compare and convert (R355, R358) -/

def cmpLane (t : ElTy) (cond : BitVec 3) (r : Rnd) (x y : Nat) : Bool × BitVec 5 :=
  if t.isInt then (ccHolds (Cc.ofCode cond) t.bits x y, 0)
  else fccHolds ((Fcc.ofCode? cond).getD .ord) (r.num t x) (r.num t y)

/-- A widening conversion between floating-point types is exact and takes no FTZ. -/
def widening (s t : ElTy) : Bool := !s.isInt && !t.isInt && decide (s.bits < t.bits)

def cvtLane (s t : ElTy) (r : Rnd) (j x : Nat) : Nat × BitVec 5 :=
  if s = t then (x, 0)
  else
    let on := r.ftz && !widening s t
    ftzOut on t (convert s t r.mode (laneSeed r.seed j) r.sat (ftzIn on s x))

/-- VCVT of whole rows: part p of the wider count (R358). -/
def vcvtRow (s t : ElTy) (p : Nat) (r : Rnd) (a old : RowVal) (mask : Option RowVal) (zero : Bool) : RowVal × BitVec 5 :=
  if s.bits ≤ t.bits then
    let n := laneCount t
    mapLanes t.bits n old mask zero (fun j => cvtLane s t r j (laneOf a s.bits (p * n + j)))
  else
    let n := laneCount s
    mapLanes t.bits (laneCount t) old none false (fun e =>
      let j := e - p * n
      if p * n ≤ e ∧ j < n then
        (if laneActive mask j then cvtLane s t r j (laneOf a s.bits j) else (if zero then 0 else laneOf old t.bits e, 0))
      else (laneOf old t.bits e, 0))

/-! ### Reductions and scans (R251, R359) -/

inductive RedOp
  | sum | max | min
deriving DecidableEq, Repr

def redOpOf (x : BitVec 2) : RedOp := if x = 0 then .sum else if x = 1 then .max else .min

/-- One combining step. -/
def redStep (op : RedOp) (t : ElTy) (r : Rnd) (x y : Nat) : Nat × BitVec 5 :=
  if t.isInt then
    match op with
    | .sum => intOut t r.sat (intOf t x + intOf t y)
    | .max => (intMinMax t.bits (!tySigned t) true x y, 0)
    | .min => (intMinMax t.bits (!tySigned t) false x y, 0)
  else
    match op with
    | .sum => r.out t 0 (exactAdd r.mode (r.num t x) (r.num t y))
    | .max => minMaxNum t true (ftzIn r.ftz t x) (ftzIn r.ftz t y)
    | .min => minMaxNum t false (ftzIn r.ftz t x) (ftzIn r.ftz t y)

/-- The identity of an operation on a type. -/
def redIdentity (op : RedOp) (t : ElTy) : Nat :=
  match op with
  | .sum => 0
  | .max => if t.isInt then lowBits t.bits (tyMin t) else signBit (fpFmt t) true + (fpFmt t).infBits
  | .min => if t.isInt then lowBits t.bits (tyMax t) else (fpFmt t).infBits

/-- One level of the tree: neighbours in pairs, an absent one passing the other on. -/
def redLevel (op : RedOp) (t : ElTy) (r : Rnd) : List (Option Nat) → List (Option Nat) × BitVec 5
  | a :: b :: rest =>
    let (l, fl) := redLevel op t r rest
    match a, b with
    | some x, some y => let z := redStep op t r x y; (some z.1 :: l, z.2 ||| fl)
    | some x, none => (some x :: l, fl)
    | none, y => (y :: l, fl)
  | l => (l, 0)

/-- The levels up to the root. -/
def redTree (op : RedOp) (t : ElTy) (r : Rnd) : Nat → List (Option Nat) → Option Nat × BitVec 5
  | 0, l => (l.head?.join, 0)
  | k + 1, l => let (l', fl) := redLevel op t r l; let (v, gl) := redTree op t r k l'; (v, fl ||| gl)

/-- The active lanes of a row, flushed under FTZ. -/
def redInputs (t : ElTy) (r : Rnd) (a : RowVal) (mask : Option RowVal) : List (Option Nat) :=
  (List.range (laneCount t)).map (fun j => if laneActive mask j then some (ftzIn r.ftz t (laneOf a t.bits j)) else none)

def vredRow (op : RedOp) (t : ElTy) (r : Rnd) (a old : RowVal) (mask : Option RowVal) (zero : Bool) : RowVal × BitVec 5 :=
  let (v, fl) := redTree op t r 8 (redInputs t r a mask)
  let v0 := v.getD (redIdentity op t)
  let rest := (List.range (laneCount t - 1)).map (fun j => if zero then 0 else laneOf old t.bits (j + 1))
  (BitVec.ofNat 2048 (packLanes t.bits (v0 :: rest)), fl)

/-- The scan from lane to lane; `acc` is the last active result. -/
def scanFrom (op : RedOp) (t : ElTy) (r : Rnd) (zero : Bool) : Option Nat → List (Option Nat) → List Nat × BitVec 5
  | _, [] => ([], 0)
  | acc, none :: rest =>
    let (l, fl) := scanFrom op t r zero acc rest
    ((if zero then 0 else acc.getD (redIdentity op t)) :: l, fl)
  | acc, some x :: rest =>
    let z : Nat × BitVec 5 := match acc with | none => (x, 0) | some y => redStep op t r y x
    let (l, fl) := scanFrom op t r zero (some z.1) rest
    (z.1 :: l, z.2 ||| fl)

def vscanRow (op : RedOp) (t : ElTy) (r : Rnd) (a : RowVal) (mask : Option RowVal) (zero : Bool) : RowVal × BitVec 5 :=
  let (l, fl) := scanFrom op t r zero none (redInputs t r a mask)
  (BitVec.ofNat 2048 (packLanes t.bits l), fl)

/-! ### Masks (R362) -/

def low512 (r : RowVal) : Nat := r.toNat % 2 ^ 512

def vmkRow (op : BitVec 2) (a b : RowVal) : RowVal :=
  let x := low512 a
  let y := low512 b
  BitVec.ofNat 2048 (match op.toNat with
    | 0 => x &&& y
    | 1 => x ||| y
    | 2 => x ^^^ y
    | _ => 2 ^ 512 - 1 - x)

def vmpopWord (a : RowVal) : Word :=
  let on := (List.range 512).filter (fun j => a.getLsbD j)
  BitVec.ofNat 64 (on.length + on.headD 0xFFFF * 2 ^ 32)

end Sys2Proof.Machine
end

