-- ==== Sys2Proof/Machine/Special.lean ====
section
/-! DEFINITION. The special functions of the octet SFU (R361): the special inputs and the exact cases, the functions' real values, and the
error bounds within which the fixed result of every other input lies. -/

namespace Sys2Proof.Machine

/-! ### Real values, as integers in units of 2^−512

Each function below gives the real value with an error far below the bounds of R361 and the spacing of FP32. -/

def fxOne : Int := 2 ^ 512

def mulFx (a b : Int) : Int := a * b / fxOne
def divFx (a b : Int) : Int := a * fxOne / b

/-- The sum of z^(2k+1)/(2k+1) over k < n, with alternating signs where `alt` is set. -/
def oddSeries (alt : Bool) (n : Nat) (z : Int) : Int :=
  let z2 := mulFx z z
  mulFx z ((List.range n).foldl (fun acc k =>
    let t := fxOne / ((2 * (n - 1 - k) + 1 : Nat) : Int)
    if alt then t - mulFx z2 acc else t + mulFx z2 acc) 0)

/-- ln 2 = 2 artanh(1/3). -/
def ln2Fx : Int := 2 * oddSeries false 170 (fxOne / 3)

/-- π/2 = 8 arctan(1/5) − 2 arctan(1/239). -/
def halfPiFx : Int := 8 * oddSeries true 120 (fxOne / 5) - 2 * oddSeries true 40 (fxOne / 239)

/-- e^r for 0 ≤ r < 1. -/
def expFx (r : Int) : Int := (List.range 110).foldl (fun acc k => fxOne + mulFx r acc / ((110 - k : Nat) : Int)) fxOne

/-- sin r and cos r for 0 ≤ r < π/2. -/
def sinFx (r : Int) : Int :=
  let r2 := mulFx r r
  mulFx r ((List.range 64).foldl (fun acc k => let j := 64 - k; fxOne - mulFx r2 acc / ((2 * j * (2 * j + 1) : Nat) : Int)) fxOne)
def cosFx (r : Int) : Int :=
  let r2 := mulFx r r
  (List.range 64).foldl (fun acc k => let j := 64 - k; fxOne - mulFx r2 acc / ((2 * j * (2 * j - 1) : Nat) : Int)) fxOne

/-- The value ±m × 2^e of an FP32 number. -/
def fxOfNum : FpNum → Int
  | .fin n m e => let v : Int := ((m * 2 ^ (e + 512).toNat : Nat) : Int); if n then -v else v
  | _ => 0

/-- 2^x, for x in the range in which it is neither 0 nor infinite. -/
def exp2Fx (x : Int) : Int :=
  let k := x / fxOne
  let v := expFx (mulFx (x % fxOne) ln2Fx)
  if 0 ≤ k then v * 2 ^ k.toNat else v / 2 ^ (-k).toNat

/-- log2 of m × 2^e, m > 0. -/
def log2Fx (m : Nat) (e : Int) : Int :=
  let l := Nat.log2 m
  let f : Int := ((m * 2 ^ 512 / 2 ^ l : Nat) : Int)
  ((l : Int) + e) * fxOne + divFx (2 * oddSeries false 170 (divFx (f - fxOne) (f + fxOne))) ln2Fx

/-- tanh x, through e^(2|x|); from |x| = 64 it is 1 less than 2^−184. -/
def tanhFx (x : Int) : Int :=
  let y := 2 * min (x.natAbs : Int) (64 * fxOne)
  let k := y / ln2Fx
  let v := expFx (y - k * ln2Fx) * 2 ^ k.toNat
  let t := divFx (v - fxOne) (v + fxOne)
  if x < 0 then -t else t

/-- sin x or cos x, with the argument reduced exactly enough for every FP32 value. -/
def trigFx (cosine : Bool) (x : Int) : Int :=
  let a : Int := (x.natAbs : Int)
  let q := (a / halfPiFx + if cosine then 1 else 0) % 4
  let r := a % halfPiFx
  let v := if q % 2 = 0 then sinFx r else cosFx r
  let w := if q < 2 then v else -v
  if x < 0 && !cosine then -w else w

/-- The real value of a function at a finite input that is no special case. -/
def sfuReal (code : Nat) (x : FpNum) : Int :=
  let v := fxOfNum x
  match code with
  | 0 => exp2Fx v
  | 1 => (match x with | .fin _ m e => log2Fx m e | _ => 0)
  | 2 => if v < 0 then -(fxOne * fxOne / -v) else fxOne * fxOne / v
  | 3 => ((isqrt (fxOne * fxOne * fxOne / v).toNat 600 0 : Nat) : Int)
  | 4 => tanhFx v
  | 5 => trigFx false v
  | _ => trigFx true v

/-! ### The bounds of R361 -/

/-- One unit in the last place of FP32 at a real value. -/
def ulpFx (a : Int) : Int := 2 ^ (max 386 (Nat.log2 a.natAbs) - 23)

/-- The error bound of a function at a real value, with room of 2^−340 for the error of the real value itself. -/
def sfuBound (code : Nat) (a : Int) : Int :=
  (match code with
   | 0 | 2 | 3 => ulpFx a
   | 1 | 4 => 2 * ulpFx a
   | _ => max (2 * ulpFx a) (2 ^ 490)) + 2 ^ 172

/-- An FP32 pattern is a finite value within the bound; a zero has the real value's sign. -/
def sfuWithin (code : Nat) (a : Int) (y : Nat) : Bool :=
  match numOf .f32 y with
  | .fin n m e => decide ((fxOfNum (.fin n m e) - a).natAbs ≤ (sfuBound code a).natAbs) && (m ≠ 0 || n = decide (a < 0))
  | _ => false

/-- A real value rounded RNE to a type, with its flags. -/
def roundFx (t : ElTy) (a : Int) : Nat × BitVec 5 := finish t .rne 0 false (.fin (decide (a < 0)) a.natAbs (-512), 0)

/-- The fixed FP32 result at an input that R361 does not settle: a free value, within the bound (log entry 8). -/
def sfuFree (code : BitVec 3) (v : Nat) (a : Int) : Nat :=
  let y := (Config.sfu code (BitVec.ofNat 32 v)).toNat
  if sfuWithin code.toNat a y then y else (roundFx .f32 a).1

/-- The flags of a result that stands for a real value. -/
def sfuFlags (t : ElTy) (a : Int) (z : Nat) : BitVec 5 :=
  let y := numOf t z
  if y.isInf then fOF ||| fNX
  else if fxOfNum y = a then 0
  else fNX ||| ((roundFx t a).2 &&& fUF)

/-! ### The special inputs and the exact cases -/

/-- A finite value is an integer, and which. -/
def FpNum.asInt : FpNum → Option Int
  | .fin n m e =>
    let sh := (-e).toNat
    if m = 0 then some 0
    else if m % 2 ^ sh = 0 then
      let v : Int := ((m / 2 ^ sh * 2 ^ e.toNat : Nat) : Int)
      some (if n then -v else v)
    else none
  | _ => none

/-- k where a positive finite value is 2^k. -/
def FpNum.asPow2 : FpNum → Option Int
  | .fin false m e => if m ≠ 0 && 2 ^ Nat.log2 m = m then some ((Nat.log2 m : Nat) + e) else none
  | _ => none

/-- The FP32 result and the flags where R361 settles them. -/
def sfuSettled (code : BitVec 3) (v : Nat) : Option (Nat × BitVec 5) :=
  let x := numOf .f32 v
  let inf (n : Bool) : Nat := signBit (fpFmt .f32) n + (fpFmt .f32).infBits
  let zero (n : Bool) : Nat := signBit (fpFmt .f32) n
  let nan := (fpFmt .f32).nan
  let exact (y : FpNum) : Nat × BitVec 5 := finish .f32 .rne 0 false (y, 0)
  match x with
  | .nan s => some (nan, nvIf s)
  | .inf n =>
    some (match code.toNat with
    | 0 => (if n then zero false else inf false, 0)
    | 1 => if n then (nan, fNV) else (inf false, 0)
    | 2 => (zero n, 0)
    | 3 => if n then (nan, fNV) else (zero false, 0)
    | 4 => ((exact (.fin n 1 0)).1, 0)
    | _ => (nan, fNV))
  | .fin n m _ =>
    match code.toNat with
    | 0 =>
      match x.asInt with
      | some i =>
        if i ≥ 128 then some (inf false, fOF ||| fNX)
        else if i < -149 then some (zero false, fUF ||| fNX)
        else some (exact (.fin false 1 i))
      | none =>
        if (FpNum.fin false 128 0).ltb x then some (inf false, fOF ||| fNX)
        else if x.ltb (.fin true 149 0) then some (zero false, fUF ||| fNX) else none
    | 1 =>
      if m = 0 then some (inf true, fDZ) else if n then some (nan, fNV)
      else x.asPow2.map (fun k => exact (numOfInt k))
    | 2 =>
      if m = 0 then some (inf n, fDZ)
      else (if n then x.negate else x).asPow2.map (fun k => exact (.fin n 1 (-k)))
    | 3 => if m = 0 then some (inf n, fDZ) else if n then some (nan, fNV) else none
    | 4 => if m = 0 then some (zero n, 0) else none
    | 5 => if m = 0 then some (zero n, 0) else none
    | _ => if m = 0 then some (exact (.fin false 1 0)) else none

/-- One lane: computed in FP32 and rounded RNE to a narrower type. -/
def sfuLane (t : ElTy) (code : BitVec 3) (ftz : Bool) (v : Nat) : Nat × BitVec 5 :=
  let x := ftzIn ftz t v
  let w := if t = .f32 then x else (convert t .f32 .rne 0 false x).1
  let narrow (y : Nat) : Nat × BitVec 5 := if t = .f32 then (y, 0) else convert .f32 t .rne 0 false y
  ftzOut ftz t (match sfuSettled code w with
    | some y => let z := narrow y.1; (z.1, z.2 ||| y.2 ||| nvIf (numOf t x).isSig)
    | none =>
      let a := sfuReal code.toNat (numOf .f32 w)
      let z := (narrow (sfuFree code w a)).1
      (z, sfuFlags t a z))

end Sys2Proof.Machine
end

