-- ==== Sys2Proof/Machine/Vector.lean ====
section
/-! DEFINITION. The vector instructions (15_vector.md) but for loads and stores: what each does at issue, and what it computes
when the engine completes it. -/

namespace Sys2Proof.Machine

/-! ### Rows that an instruction reads and writes (R117) -/

def rowBit (r : Row) : BitVec 128 := BitVec.ofNat 128 (2 ^ r.toNat)
def maskBit (m : Mods) : BitVec 128 := if m.mask = 0 then 0 else BitVec.ofNat 128 (2 ^ (120 + m.mask.toNat))

/-- The rows read and written, without the mask row. -/
def vecRows : Instr → BitVec 128 × BitVec 128
  | .vadd d a b _ | .vsub d a b _ | .vmul d a b _ | .vmulz d a b _ | .vmin d a b _ | .vmax d a b _
  | .vand d a b _ | .vor d a b _ | .vxor d a b _ | .vshl d a b _ | .vshr d a b _ | .vsar d a b _
  | .vcmp d a b _ | .vsel d a b _ | .vperm d a b _ => (rowBit a ||| rowBit b, rowBit d)
  | .vmk d a b m => (if m.mod.extractLsb' 0 2 = 3#2 then rowBit a else rowBit a ||| rowBit b, rowBit d)   -- .not reads no vB (R362)
  | .vfma d a b c _ => (rowBit a ||| rowBit b ||| rowBit c, rowBit d)
  | .vsacc d a b _ _ => (rowBit a ||| rowBit b ||| rowBit d, rowBit d)
  | .vabs d a _ | .vneg d a _ | .vcvt d a _ | .vmov d a _ | .vred d a _ | .vscan d a _ | .vsf d a _ => (rowBit a, rowBit d)
  | .viota d _ _ | .vbcast d _ _ | .vins d _ _ _ | .vld d _ _ | .vlds d _ _ _ => (0, rowBit d)
  | .vextr _ a _ _ | .vmpop _ a _ => (rowBit a, 0)
  | .vst d _ _ | .vsts d _ _ _ => (rowBit d, 0)
  | .vgath d a _ _ => (rowBit a, rowBit d)
  | .vscat d a _ _ => (rowBit a ||| rowBit d, 0)
  | _ => (0, 0)

/-- The instruction rounds, so that SR steps SEED (R239, R350, R352, R358). -/
def vecRounds : Instr → Bool
  | .vadd _ _ _ m | .vsub _ _ _ m | .vmul _ _ _ m => !m.ty.isInt
  | .vmulz _ _ _ _ | .vfma _ _ _ _ _ | .vsacc _ _ _ _ _ => true
  | .vcvt _ _ m => m.modTy ≠ .d8
  | _ => false

/-! ### Issue (R114, R117, R348) -/

/-- The context waits for room in a vector or SFU queue (R121). -/
def notYetVector {α : Type} : Sem α := notYet (fun s => s.setMy (s.my.waiting .vector))

/-- The vector queue has room: without it a context is not ready, and makes no check (R98, R114). -/
def vectorRoom : Sem Unit := do
  let c ← getMe
  if c.vq.length ≥ 2 then notYetVector else pure ()

/-- The command that the running context's instruction makes, with its claim and the step of SEED. -/
def vecCmd (i : Instr) (m : Mods) (s0 s1 : Word) (lanes : List (Nat × List (Loc × Nat))) : Sem VCmd := do
  let id ← freshId
  let s ← getS
  let k := s.my
  let mode := modeOf m.rnd k.fpsr
  let (rd, wr) := vecRows i
  modMe (fun c => c.claim id (rd ||| maskBit m) wr)
  modMy (fun k => { k with seed := if vecRounds i && mode = .sr then xorshift k.seed else k.seed })
  pure { id := id, ctx := s.cur.2, instr := i, s0 := s0, s1 := s1, seed := k.seed, rm := mode, ftz := k.fpsr.getLsbD 20
         lanes := lanes, after := if lanes = [] then [] else s.ctxAccesses s.cur.1 s.cur.2 }

/-- The instruction enters the vector engine's queue of two. -/
def enterVector (i : Instr) (m : Mods) (s0 s1 : Word) (scalar : Option Opnd) (lanes : List (Nat × List (Loc × Nat)) := []) : Sem Unit := do
  let c ← getMe
  if c.vq.length ≥ 2 then notYetVector
  else do
    let v ← vecCmd i m s0 s1 lanes
    modMe (fun c => { c with vq := c.vq ++ [v] })
    match scalar with
    | some d => dstLater d v.id
    | none => pure ()

/-- An instruction that names only rows. -/
def rowInstr (i : Instr) (m : Mods) (s : State) : Host.Outcome State Fault Refusal :=
  runInstr i m s (fun _ => enterVector i m 0 0 none)

/-- VADD (R350). -/
def execVadd (d a b : Row) (m : Mods) (s : State) : Host.Outcome State Fault Refusal := rowInstr (.vadd d a b m) m s
/-- VSUB (R350). -/
def execVsub (d a b : Row) (m : Mods) (s : State) : Host.Outcome State Fault Refusal := rowInstr (.vsub d a b m) m s
/-- VMUL (R350). -/
def execVmul (d a b : Row) (m : Mods) (s : State) : Host.Outcome State Fault Refusal := rowInstr (.vmul d a b m) m s
/-- VMULZ (R246, R350). -/
def execVmulz (d a b : Row) (m : Mods) (s : State) : Host.Outcome State Fault Refusal := rowInstr (.vmulz d a b m) m s
/-- VFMA (R247, R350, R351). -/
def execVfma (d a b c : Row) (m : Mods) (s : State) : Host.Outcome State Fault Refusal := rowInstr (.vfma d a b c m) m s
/-- VMIN (R350). -/
def execVmin (d a b : Row) (m : Mods) (s : State) : Host.Outcome State Fault Refusal := rowInstr (.vmin d a b m) m s
/-- VMAX (R350). -/
def execVmax (d a b : Row) (m : Mods) (s : State) : Host.Outcome State Fault Refusal := rowInstr (.vmax d a b m) m s
/-- VSACC (R352): the shared scale is read at issue. -/
def execVsacc (d a b : Row) (c : Opnd) (m : Mods) (s : State) : Host.Outcome State Fault Refusal :=
  runInstr (.vsacc d a b c m) m s (fun _ => do
    let x ← src c m
    enterVector (.vsacc d a b c m) m x 0 none)
/-- VAND (R353). -/
def execVand (d a b : Row) (m : Mods) (s : State) : Host.Outcome State Fault Refusal := rowInstr (.vand d a b m) m s
/-- VOR (R353). -/
def execVor (d a b : Row) (m : Mods) (s : State) : Host.Outcome State Fault Refusal := rowInstr (.vor d a b m) m s
/-- VXOR (R353). -/
def execVxor (d a b : Row) (m : Mods) (s : State) : Host.Outcome State Fault Refusal := rowInstr (.vxor d a b m) m s
/-- VSHL (R353). -/
def execVshl (d a b : Row) (m : Mods) (s : State) : Host.Outcome State Fault Refusal := rowInstr (.vshl d a b m) m s
/-- VSHR (R353). -/
def execVshr (d a b : Row) (m : Mods) (s : State) : Host.Outcome State Fault Refusal := rowInstr (.vshr d a b m) m s
/-- VSAR (R353). -/
def execVsar (d a b : Row) (m : Mods) (s : State) : Host.Outcome State Fault Refusal := rowInstr (.vsar d a b m) m s
/-- VABS (R354). -/
def execVabs (d a : Row) (m : Mods) (s : State) : Host.Outcome State Fault Refusal := rowInstr (.vabs d a m) m s
/-- VNEG (R354). -/
def execVneg (d a : Row) (m : Mods) (s : State) : Host.Outcome State Fault Refusal := rowInstr (.vneg d a m) m s
/-- VCMP (R355). -/
def execVcmp (d a b : Row) (m : Mods) (s : State) : Host.Outcome State Fault Refusal := rowInstr (.vcmp d a b m) m s
/-- VSEL (R356). -/
def execVsel (d a b : Row) (m : Mods) (s : State) : Host.Outcome State Fault Refusal := rowInstr (.vsel d a b m) m s
/-- VCVT (R358). -/
def execVcvt (d a : Row) (m : Mods) (s : State) : Host.Outcome State Fault Refusal := rowInstr (.vcvt d a m) m s
/-- VMOV (R356). -/
def execVmov (d a : Row) (m : Mods) (s : State) : Host.Outcome State Fault Refusal := rowInstr (.vmov d a m) m s
/-- VIOTA (R356). -/
def execViota (d : Row) (c : Opnd) (m : Mods) (s : State) : Host.Outcome State Fault Refusal :=
  runInstr (.viota d c m) m s (fun _ => do
    let x ← src c m
    enterVector (.viota d c m) m x 0 none)
/-- VBCAST (R356): the source is read untyped. -/
def execVbcast (d : Row) (c : Opnd) (m : Mods) (s : State) : Host.Outcome State Fault Refusal :=
  runInstr (.vbcast d c m) m s (fun _ => do
    let x ← src c m
    enterVector (.vbcast d c m) m x 0 none)
/-- VEXTR (R357). -/
def execVextr (d : Opnd) (a : Row) (c : Opnd) (m : Mods) (s : State) : Host.Outcome State Fault Refusal :=
  runInstr (.vextr d a c m) m s (fun _ => do
    let x ← src c m
    vectorRoom
    check (decide (x.toNat < laneCount m.ty)) 0x02 (encOf (.vextr d a c m) m)
    enterVector (.vextr d a c m) m x 0 (some d))
/-- VINS (R357). -/
def execVins (d : Row) (a c : Opnd) (m : Mods) (s : State) : Host.Outcome State Fault Refusal :=
  runInstr (.vins d a c m) m s (fun _ => do
    let v ← src a m
    let x ← src c m
    vectorRoom
    check (decide (x.toNat < laneCount m.ty)) 0x02 (encOf (.vins d a c m) m)
    enterVector (.vins d a c m) m x v none)

/-- A reduction or scan of a floating-point type refuses SR through FPSR.RM, read at issue (R359). -/
def redIssue (i : Instr) (m : Mods) (s : State) : Host.Outcome State Fault Refusal :=
  runInstr i m s (fun _ => do
    vectorRoom
    let k ← getMy
    check (m.ty.isInt || modeOf m.rnd k.fpsr ≠ .sr) 0x02 (encOf i m)
    enterVector i m 0 0 none)

/-- VRED (R359). -/
def execVred (d a : Row) (m : Mods) (s : State) : Host.Outcome State Fault Refusal := redIssue (.vred d a m) m s
/-- VSCAN (R359). -/
def execVscan (d a : Row) (m : Mods) (s : State) : Host.Outcome State Fault Refusal := redIssue (.vscan d a m) m s
/-- VPERM (R360). -/
def execVperm (d a b : Row) (m : Mods) (s : State) : Host.Outcome State Fault Refusal := rowInstr (.vperm d a b m) m s

/-- VSF (R119, R361): the request joins the octet's queue; a context has at most two unstarted. -/
def execVsf (d a : Row) (m : Mods) (s : State) : Host.Outcome State Fault Refusal :=
  runInstr (.vsf d a m) m s (fun _ => do
    let s ← getS
    let o := s.octet (octetOf s.cur.1)
    if (o.sfuq.filter (fun p => p.1 = s.cur.1 && p.2.ctx = s.cur.2)).length ≥ 2 then notYetVector
    else do
      let v ← vecCmd (.vsf d a m) m 0 0 []
      modS (fun s =>
        let o := s.octet (octetOf s.cur.1)
        s.setOctet (octetOf s.cur.1) { o with sfuq := o.sfuq ++ [(s.cur.1, v)] }))

/-- VMK (R362). -/
def execVmk (d a b : Row) (m : Mods) (s : State) : Host.Outcome State Fault Refusal := rowInstr (.vmk d a b m) m s
/-- VMPOP (R362). -/
def execVmpop (d : Opnd) (a : Row) (m : Mods) (s : State) : Host.Outcome State Fault Refusal :=
  runInstr (.vmpop d a m) m s (fun _ => enterVector (.vmpop d a m) m 0 0 (some d))

/-- The vector and SFU instructions of a context that are not complete. -/
def State.vecIds (s : State) (n x : Nat) : List Nat :=
  let c := s.core n
  let o := s.octet (octetOf n)
  ((c.vq ++ c.vrun).filter (fun v => v.ctx = x)).map VCmd.id ++
  ((o.sfuq ++ o.sfuRun).filter (fun p => p.1 = n && p.2.ctx = x)).map (fun p => p.2.id) ++ (s.ctx n x).heldSfu.map VCmd.id

/-- VFENCE (R367). -/
def execVfence (m : Mods) (s : State) : Host.Outcome State Fault Refusal :=
  runInstr (.vfence m) m s (fun _ => do
    let s ← getS
    blockOn (s.vecIds s.cur.1 s.cur.2))

/-! ### What an instruction computes (R348) -/

/-- The result of an instruction: the rows it writes, the flags of its active lanes, and a scalar. -/
structure VecRes where
  rows : List (Row × RowVal) := []
  flags : BitVec 5 := 0
  scalar : Option Word := none

/-- The mask row that an instruction names. -/
def Core.maskRow (c : Core) (m : Mods) : Option RowVal := if m.mask = 0 then none else some (c.row (120 + m.mask.toNat))

/-- A row from its lanes. -/
def Core.lanewise (c : Core) (d : Row) (m : Mods) (t : ElTy) (f : Nat → Nat × BitVec 5) : VecRes :=
  let r := mapLanes t.bits (laneCount t) (c.row d.toNat) (c.maskRow m) m.zero f
  { rows := [(d, r.1)], flags := r.2 }

def VCmd.rnd (v : VCmd) (m : Mods) : Rnd := ⟨v.rm, v.seed, v.ftz, m.sat⟩

/-- A member of VA on two rows. -/
def Core.va (c : Core) (v : VCmd) (d a b : Row) (m : Mods) (op : VaOp) : VecRes :=
  let w := m.ty.bits
  c.lanewise d m m.ty (fun j => vaLane op m.ty (v.rnd m) (m.mod.getLsbD 0) j (laneOf (c.row a.toNat) w j) (laneOf (c.row b.toNat) w j))

/-- A member of VB on two rows. -/
def Core.vb (c : Core) (d a b : Row) (m : Mods) (op : VbOp) : VecRes :=
  let w := m.ty.bits
  c.lanewise d m m.ty (fun j => vbLane op m.ty m.sat (laneOf (c.row a.toNat) w j) (laneOf (c.row b.toNat) w j))

/-- One lane of a row replaced. -/
def setLane (r : RowVal) (w j v : Nat) : RowVal :=
  BitVec.ofNat 2048 (r.toNat - laneOf r w j * 2 ^ (w * j) + v % 2 ^ w * 2 ^ (w * j))

/-- VCMP (R355): bits of the outcome, the bytes past them 0. -/
def Core.vcmpRes (c : Core) (v : VCmd) (d a b : Row) (m : Mods) : VecRes :=
  let t := m.ty
  let mask := c.maskRow m
  let rs := (List.range (laneCount t)).map (fun j =>
    if laneActive mask j then
      let r := cmpLane t (m.mod.extractLsb' 0 3) (v.rnd m) (laneOf (c.row a.toNat) t.bits j) (laneOf (c.row b.toNat) t.bits j)
      (if r.1 then 1 else 0, r.2)
    else (if m.zero then 0 else laneOf (c.row d.toNat) 1 j, (0 : BitVec 5)))
  { rows := [(d, BitVec.ofNat 2048 (packLanes 1 (rs.map Prod.fst)))], flags := rs.foldl (fun acc r => acc ||| r.2) 0 }

/-- What a command of the vector engine or the SFU computes on the rows as they are. -/
def Core.vecRun (c : Core) (v : VCmd) : VecRes :=
  match v.instr with
  | .vadd d a b m => c.va v d a b m .add
  | .vsub d a b m => c.va v d a b m .sub
  | .vmul d a b m => c.va v d a b m .mul
  | .vmulz d a b m => c.va v d a b m .mulz
  | .vmin d a b m => c.va v d a b m .min
  | .vmax d a b m => c.va v d a b m .max
  | .vfma d a b x m =>
    let l (r : Row) (j : Nat) : Nat := laneOf (c.row r.toNat) m.ty.bits j
    c.lanewise d m m.ty (fun j => fmaLane m.ty (v.rnd m) j (l a j) (l b j) (l x j))
  | .vsacc d a b _ m =>
    c.lanewise d m .f32 (fun j => saccLane m.ty (v.rnd m) j (laneOf (c.row a.toNat) 32 j) (laneOf (c.row b.toNat) 8 j)
      (v.s0.toNat % 256) (laneOf (c.row d.toNat) 32 j))
  | .vand d a b m => c.vb d a b m .and
  | .vor d a b m => c.vb d a b m .or
  | .vxor d a b m => c.vb d a b m .xor
  | .vshl d a b m => c.vb d a b m .shl
  | .vshr d a b m => c.vb d a b m .shr
  | .vsar d a b m => c.vb d a b m .sar
  | .vabs d a m => c.lanewise d m m.ty (fun j => absLane m.ty m.sat (laneOf (c.row a.toNat) m.ty.bits j))
  | .vneg d a m => c.lanewise d m m.ty (fun j => negLane m.ty m.sat (laneOf (c.row a.toNat) m.ty.bits j))
  | .vcmp d a b m => c.vcmpRes v d a b m
  | .vsel d a b m =>
    let mask := c.maskRow m
    let r := mapLanes m.ty.bits (laneCount m.ty) 0 none false
      (fun j => (laneOf (c.row (if laneActive mask j then a else b).toNat) m.ty.bits j, 0))
    { rows := [(d, r.1)] }
  | .vcvt d a m =>
    let r := vcvtRow m.ty m.modTy (m.mod.extractLsb' 4 4).toNat (v.rnd m) (c.row a.toNat) (c.row d.toNat) (c.maskRow m) m.zero
    { rows := [(d, r.1)], flags := r.2 }
  | .vmov d a m => c.lanewise d m m.ty (fun j => (laneOf (c.row a.toNat) m.ty.bits j, 0))
  | .viota d _ m => c.lanewise d m m.ty (fun j => ((v.s0.toNat + j) % 2 ^ m.ty.bits, 0))
  | .vbcast d _ m => c.lanewise d m m.ty (fun _ => (v.s0.toNat % 2 ^ m.ty.bits, 0))
  | .vextr _ a _ m => { scalar := some (extendTy m.ty (laneOf (c.row a.toNat) m.ty.bits v.s0.toNat)) }
  | .vins d _ _ m => { rows := [(d, setLane (c.row d.toNat) m.ty.bits v.s0.toNat v.s1.toNat)] }
  | .vred d a m =>
    let r := vredRow (redOpOf (m.mod.extractLsb' 1 2)) m.ty (v.rnd m) (c.row a.toNat) (c.row d.toNat) (c.maskRow m) m.zero
    { rows := [(d, r.1)], flags := r.2 }
  | .vscan d a m =>
    let r := vscanRow (redOpOf (m.mod.extractLsb' 1 2)) m.ty (v.rnd m) (c.row a.toNat) (c.maskRow m) m.zero
    { rows := [(d, r.1)], flags := r.2 }
  | .vperm d a b m =>
    c.lanewise d m m.ty (fun j =>
      let k := laneOf (c.row b.toNat) m.ty.bits j
      (if k < laneCount m.ty then laneOf (c.row a.toNat) m.ty.bits k else 0, 0))
  | .vsf d a m => c.lanewise d m m.ty (fun j => sfuLane m.ty (m.mod.extractLsb' 0 3) v.ftz (laneOf (c.row a.toNat) m.ty.bits j))
  | .vmk d a b m => { rows := [(d, vmkRow (m.mod.extractLsb' 0 2) (c.row a.toNat) (c.row b.toNat))] }
  | .vmpop _ a _ => { scalar := some (vmpopWord (c.row a.toNat)) }
  | _ => {}

end Sys2Proof.Machine
end

