-- ==== Sys2Proof/Machine/VectorMem.lean ====
section
/-! DEFINITION. Vector loads and stores (R363 to R366), and the events of the vector engine and of the octet SFU (R119, R348,
R349). -/

namespace Sys2Proof.Machine

/-! ### Issue (R363) -/

/-- The bytes of one lane's access, checked; a failure names the lane's address.  A view's needle is read at issue, as R363 has it of vector
accesses, and not at the home's port, as R152 has it of views; the access waits for the home's advance first (DEDUCED, log entry 109). -/
def lanePlace (ea : Word) (sz : Nat) (store : Bool) : Sem (List (Loc × Nat)) := do
  let s ← getS
  let n := s.cur.1
  match s.classify n ea.toNat sz with
  | .error c => raise c ea
  | .ok (.own off) => pure [(.scr n off, sz)]
  | .ok (.mesh k off) => pure [(.scr k off, sz)]
  | .ok (.die d off) => pure [(.die d off, sz)]
  | .ok (.rose r off) =>
    match s.roseResolve n r off sz store with
    | .error c => raise c ea
    | .ok (hc, hr, k, o) =>
      if hc = n || s.roseReady hc hr (s.roseNeed n hc hr) then pure [(.scr hc (((s.core hc).rose hr).slotOff k o), sz)] else notYet
  | .ok (.aperture _) => raise 0x11 ea
  | .ok (.acc _) => raise 0x11 ea
  | .ok (.global va) => do
    check (!(store && s.checkpointed n)) 0x11 ea
    let pg ← pages va sz (if store then .w else .r)
    let s ← getS
    match pg with
    | .one t => pure (hbmLocs s t va sz)
    | .two t u n0 => pure (hbmLocs s t va n0 ++ hbmLocs s u (va + n0) (sz - n0))
    | .cut _ _ c => raise c ea   -- FADDR is the lane's address (R363)

/-- The lanes that make an access, with the bytes of each, in ascending order. -/
def vmLanes (t : ElTy) (mask : Option RowVal) (addr : Nat → Word) (store : Bool) : Sem (List (Nat × List (Loc × Nat))) :=
  ((List.range (laneCount t)).filter (laneActive mask)).mapM (fun j => do
    let l ← lanePlace (addr j) (max 1 (t.bits / 8)) store
    pure (j, l))

/-- A vector load or store issues: the mask and offset rows are read now, and every lane passes its checks. -/
def vmIssue (i : Instr) (m : Mods) (rows : BitVec 128) (addr : Core → Nat → Word) (store : Bool) : Sem Unit := do
  vectorRoom
  let c ← getMe
  if c.rowsBusy (rows ||| maskBit m) 0 then notYetVector
  else do
    let lanes ← vmLanes m.ty (c.maskRow m) (addr c) store
    enterVector i m 0 0 none lanes

/-- Base (R363) and the address of lane j of a contiguous form (R364): a 4-bit lane is a nibble of a byte. -/
def vmBase (c : Word) (m : Mods) : Word := c + m.imm32.signExtend 64
def laneAt (t : ElTy) (base : Word) (j : Nat) : Word := base + BitVec.ofNat 64 (j * t.bits / 8)

/-- VLD (R364). -/
def execVld (d : Row) (c : Opnd) (m : Mods) (s : State) : Host.Outcome State Fault Refusal :=
  runInstr (.vld d c m) m s (fun _ => do
    let b ← src c m
    vmIssue (.vld d c m) m 0 (fun _ => laneAt m.ty (vmBase b m)) false)

/-- VST (R364). -/
def execVst (d : Row) (c : Opnd) (m : Mods) (s : State) : Host.Outcome State Fault Refusal :=
  runInstr (.vst d c m) m s (fun _ => do
    let b ← src c m
    vmIssue (.vst d c m) m 0 (fun _ => laneAt m.ty (vmBase b m)) true)

/-- VLDS (R364): lane j lies j strides from the base. -/
def execVlds (d : Row) (a c : Opnd) (m : Mods) (s : State) : Host.Outcome State Fault Refusal :=
  runInstr (.vlds d a c m) m s (fun _ => do
    let st ← src a m
    let b ← src c m
    vmIssue (.vlds d a c m) m 0 (fun _ j => vmBase b m + BitVec.ofNat 64 j * st) false)

/-- VSTS (R364). -/
def execVsts (d : Row) (a c : Opnd) (m : Mods) (s : State) : Host.Outcome State Fault Refusal :=
  runInstr (.vsts d a c m) m s (fun _ => do
    let st ← src a m
    let b ← src c m
    vmIssue (.vsts d a c m) m 0 (fun _ j => vmBase b m + BitVec.ofNat 64 j * st) true)

/-- The address of lane j of a gather or scatter (R365). -/
def gatherAt (t : ElTy) (base : Word) (offs : RowVal) (j : Nat) : Word :=
  base + BitVec.ofInt 64 (toSigned (laneOf offs t.bits j) t.bits * (t.bits / 8 : Nat))

/-- VGATH (R365). -/
def execVgath (d a : Row) (c : Opnd) (m : Mods) (s : State) : Host.Outcome State Fault Refusal :=
  runInstr (.vgath d a c m) m s (fun _ => do
    let b ← src c m
    vmIssue (.vgath d a c m) m (rowBit a) (fun k => gatherAt m.ty (vmBase b m) (k.row a.toNat)) false)

/-- VSCAT (R365). -/
def execVscat (d a : Row) (c : Opnd) (m : Mods) (s : State) : Host.Outcome State Fault Refusal :=
  runInstr (.vscat d a c m) m s (fun _ => do
    let b ← src c m
    vmIssue (.vscat d a c m) m (rowBit a) (fun k => gatherAt m.ty (vmBase b m) (k.row a.toNat)) true)

/-! ### Performing the lanes (R159, R163, R363) -/

/-- Bytes of a scratchpad that an access of core n from a port reads: zeros past the present top (R132); in its own the cached words,
whatever the window (R108: DEDUCED, log entry 115). -/
def State.portRead (s : State) (n m off k : Nat) : Nat :=
  (s.core m).scrRead (m = n) off k % 256 ^ (min k ((s.core m).top - off))

/-- A write through a port; bytes past the top are dropped (R132). -/
def State.portWrite (s : State) (m off k v : Nat) : State :=
  let k' := min k ((s.core m).top - off)
  if k' = 0 then s else s.setCore m ((s.core m).scrWrite off k' (v % 256 ^ k'))

/-- One piece read at its target by an access of core n: the core whose port serves it writes dirty words of unbound workspaces back
(R108).  A core's read of its own scratchpad is one through its own port in every window (DEDUCED, log entry 115). -/
def State.pieceRead (s : State) (n : Nat) (p : Loc × Nat) : Nat × State :=
  match p.1 with
  | .scr m off => (s.portRead n m off p.2, s.setCore m ((s.core m).scrServe off p.2))
  | .die d off => ((s.die d).scr.read off p.2, s)
  | .hbm pa key kind x => s.unitRead n p.2 (.mem pa key kind x)
  | .acc m off => ((s.core m).accRead off p.2, s)

/-- A piece that HBM cannot deliver (R16). -/
def State.pieceBad (s : State) (n : Nat) (p : Loc × Nat) : Bool :=
  match p.1 with
  | .hbm pa _ _ _ => s.lineNeeds n pa p.2 && s.eccBad pa p.2
  | _ => false

/-- One piece of a lane of context x: of bytes that HBM cannot deliver a pilot event names core, context and address (R16, R363). -/
def State.laneRead (s : State) (n x : Nat) (p : Loc × Nat) : Nat × State :=
  match p.1 with
  | .hbm pa _ _ _ =>
    if s.pieceBad n p then (0, s.report 2 (BitVec.ofNat 64 pa) (BitVec.ofNat 64 (n * 16 + x))) else s.pieceRead n p
  | _ => s.pieceRead n p

/-- One piece written, at its target. -/
def State.pieceWrite (s : State) (p : Loc × Nat) (v : Nat) : State :=
  match p.1 with
  | .scr m off => s.portWrite m off p.2 v
  | .die d off => s.setDie d { s.die d with scr := (s.die d).scr.write off p.2 (v % 256 ^ p.2) }
  | .acc m off => s.setCore m ((s.core m).accWrite off p.2 v)
  | .hbm pa key _ _ =>
    s.l2Write (lineBase pa) (some key) (BitVec.ofNat 512 (v % 256 ^ p.2 * 256 ^ (pa % 64))) (byteMask (pa % 64) p.2)

def readPieces (n x : Nat) : State → List (Loc × Nat) → Nat × State
  | s, [] => (0, s)
  | s, p :: ps => let (v, s1) := s.laneRead n x p; let (w, s2) := readPieces n x s1 ps; (v + 256 ^ p.2 * w, s2)

/-- Pieces written at their targets: those of HBM after what the core has stored to the line before, with no older byte left in its L1
(R161, R366). -/
def writePieces (n : Nat) : State → List (Loc × Nat) → Nat → State
  | s, [], _ => s
  | s, p :: ps, v =>
    let w := v % 256 ^ p.2
    let s1 := match p.1 with
      | .hbm pa _ _ _ => ((s.settleLine n (lineBase pa)).pieceWrite p w).l1Stale n pa p.2
      | _ => s.pieceWrite p w
    writePieces n s1 ps (v / 256 ^ p.2)

/-- The lanes of a load, in ascending order; a lane that an uncorrectable error affects is 0 (R363). -/
def vmLoadLanes (n x : Nat) (t : ElTy) : State → List (Nat × List (Loc × Nat)) → List (Nat × Nat) × State
  | s, [] => ([], s)
  | s, (j, ps) :: rest =>
    let (v, s1) := readPieces n x s ps
    let v' := if ps.any (s.pieceBad n) then 0 else if t.bits = 4 then v / 16 ^ (j % 2) % 16 else v
    let (l, s2) := vmLoadLanes n x t s1 rest
    ((j, v') :: l, s2)

/-- The lanes of a store; a nibble leaves the other half of its byte. -/
def vmStoreLanes (n x : Nat) (t : ElTy) (r : RowVal) : State → List (Nat × List (Loc × Nat)) → State
  | s, [] => s
  | s, (j, ps) :: rest =>
    let v := laneOf r t.bits j
    if t.bits = 4 then
      let (old, s1) := readPieces n x s ps
      let b := old - old / 16 ^ (j % 2) % 16 * 16 ^ (j % 2) + v * 16 ^ (j % 2)
      vmStoreLanes n x t r (writePieces n s1 ps b) rest
    else vmStoreLanes n x t r (writePieces n s ps v) rest

/-! ### The engine (R349) -/

/-- Results of a command: rows, flags, scalar, and the scoreboard. -/
def State.finishVec (s : State) (n : Nat) (v : VCmd) (r : VecRes) : State :=
  let c := (s.core n).unclaim v.id
  let s1 := s.setCore n (r.rows.foldl (fun c p => c.setRow p.1.toNat p.2) c)
  let s2 := if r.flags = 0 then s1 else s1.setCtx n v.ctx ((s1.ctx n v.ctx).orFlags r.flags)
  let s3 := match r.scalar with | some w => s2.deliver n v.ctx v.id w | none => s2
  s3.retire v.id

/-- What a load or store does when its lanes are performed. -/
def State.runVm (s : State) (n : Nat) (v : VCmd) : VecRes × State :=
  let c := s.core n
  let ld (d : Row) (m : Mods) : VecRes × State :=
    let (l, s1) := vmLoadLanes n v.issuer m.ty s v.lanes
    let r := mapLanes m.ty.bits (laneCount m.ty) (c.row d.toNat) (c.maskRow m) m.zero
      (fun j => (((l.find? (fun p => p.1 = j)).map Prod.snd).getD 0, 0))
    ({ rows := [(d, r.1)] }, s1)
  let st (d : Row) (m : Mods) : VecRes × State := ({}, vmStoreLanes n v.issuer m.ty (c.row d.toNat) s v.lanes)
  match v.instr with
  | .vld d _ m => ld d m
  | .vlds d _ _ m => ld d m
  | .vgath d _ _ m => ld d m
  | .vst d _ m => st d m
  | .vsts d _ _ m => st d m
  | .vscat d _ _ m => st d m
  | _ => ({}, s)

/-- VECTOR_ENGINE_START (R349): the next instruction of the queue, once its rows are free and what is ordered before its
accesses has retired. -/
def execVectorEngineStart (n : Nat) (s : State) : Host.Outcome State Fault Refusal :=
  runEvent s (fun s =>
    let c := s.core n
    match c.vq with
    | v :: rest => if c.rowsFree v.id && v.after.isEmpty then some (s.setCore n { c with vq := rest, vrun := c.vrun ++ [v] }) else none
    | [] => none)

/-- VECTOR_ENGINE_COMPLETE (R348): the oldest started instruction completes. -/
def execVectorEngineComplete (n : Nat) (s : State) : Host.Outcome State Fault Refusal :=
  runEvent s (fun s =>
    let c := s.core n
    match c.vrun with
    | v :: rest =>
      let s1 := s.setCore n { c with vrun := rest }
      let (r, s2) := if v.isMem then s1.runVm n v else (c.vecRun v, s1)
      some (s2.finishVec n v r)
    | [] => none)

/-- The oldest request of an octet that may start: its rows are free, and no earlier request of its core waits (R119). -/
def sfuNext (s : State) : List Nat → List (Nat × VCmd) → Option (Nat × VCmd)
  | _, [] => none
  | seen, (n, v) :: rest =>
    if !seen.contains n && (s.core n).rowsFree v.id then some (n, v) else sfuNext s (n :: seen) rest

/-- SFU_REQUEST_START (R119). -/
def execSfuRequestStart (o : Nat) (s : State) : Host.Outcome State Fault Refusal :=
  runEvent s (fun s =>
    let u := s.octet o
    match sfuNext s [] u.sfuq with
    | some (n, v) => some (s.setOctet o { u with sfuq := u.sfuq.filter (fun p => p.2.id ≠ v.id), sfuRun := u.sfuRun ++ [(n, v)] })
    | none => none)

/-- SFU_RESULT (R119): the oldest started request's result reaches its row. -/
def execSfuResult (o : Nat) (s : State) : Host.Outcome State Fault Refusal :=
  runEvent s (fun s =>
    let u := s.octet o
    match u.sfuRun with
    | (n, v) :: rest => some ((s.setOctet o { u with sfuRun := rest }).finishVec n v ((s.core n).vecRun v))
    | [] => none)

end Sys2Proof.Machine
end

