-- ==== Sys2Proof/Machine/Arrivals.lean ====
section
/-! DEFINITION. Accesses that have left their core reach their target and their responses return (R132, R137, R152, R163, R166);
the main file's writebacks (R105); page walks and zero-fills (R143, R144). -/

namespace Sys2Proof.Machine

/-! ### Where an access is performed, and when -/

/-- The bytes of an access: of one through a rose view, the slot that the needle selects as it arrives, by the record that its issue
found (R150, R152). -/
def State.accLocs (s : State) (a : Access) : Option (List (Loc × Nat)) :=
  match a.rose with
  | none => some a.locs
  | some r =>
    if s.roseReady r.hcore r.hregion r.need then
      some [(.scr r.hcore (slotAt r.base r.slots r.slotbytes ((s.core r.hcore).rose r.hregion).needle r.k r.off), r.bytes)]
    else none

/-- An earlier access of the core through a view to the same home is still to be performed. -/
def State.roseAhead (s : State) (n id hc : Nat) : Bool :=
  s.flight.any (fun a => a.core = n && decide (a.id < id) && !a.performed &&
    match a.rose with | some r => r.hcore = hc | none => false)

/-- The port of a core takes an access: no boundary moves there (R132), no phase holds the links to it (R179), and no
earlier access through a view is on its way to it; the accumulator takes one whose rows are free (R117). -/
def State.portTakes (s : State) (a : Access) (l : Loc) : Bool :=
  match l with
  | .scr m _ => !(s.core m).moving && !(m ≠ a.core && s.linkBusy a.core m) && !s.roseAhead a.core a.id m
  | .acc m _ => (s.core m).rowsFree a.id
  | _ => true

/-- An access may be performed at these bytes now. -/
def State.canPerform (s : State) (a : Access) (ls : List (Loc × Nat)) : Bool :=
  a.after = [] && !a.performed && !s.blockedBy a.core a.id ls && ls.all (fun p => s.portTakes a p.1)

/-! ### Its effect -/

/-- A piece read at its target for a core: the core's own dirty bytes over the L2's, and the line enters its L1. -/
def State.pieceLoad (s : State) (n : Nat) (p : Loc × Nat) : Nat × State :=
  match p.1 with
  | .hbm pa key kind x =>
    let mem := s.viewFor n (lineBase pa) (some key)
    let own := match l1Find (s.core n).l1 (lineBase pa) with
      | some l => mergeLine mem l.data l.dirty
      | none => mem
    (own.toNat / 256 ^ (pa % 64) % 256 ^ p.2, (s.l2Fill (lineBase pa) (some key)).l1Fill n pa key kind x)
  | _ => s.pieceRead n p

def loadPieces (n : Nat) : State → List (Loc × Nat) → Nat × State
  | s, [] => (0, s)
  | s, p :: ps => let (v, s1) := s.pieceLoad n p; let (w, s2) := loadPieces n s1 ps; (v + 256 ^ p.2 * w, s2)

/-- A piece as its target holds it. -/
def State.pieceAt (s : State) (n : Nat) (p : Loc × Nat) : Nat × State :=
  match p.1 with
  | .hbm pa key _ _ => ((s.lineView (lineBase pa) (some key)).toNat / 256 ^ (pa % 64) % 256 ^ p.2, s.l2Fill (lineBase pa) (some key))
  | _ => s.pieceRead n p

def piecesAt (n : Nat) : State → List (Loc × Nat) → Nat × State
  | s, [] => (0, s)
  | s, p :: ps => let (v, s1) := s.pieceAt n p; let (w, s2) := piecesAt n s1 ps; (v + 256 ^ p.2 * w, s2)

/-- A value written at its target, piece by piece. -/
def storePieces (n : Nat) : State → List (Loc × Nat) → Nat → State
  | s, [], _ => s
  | s, p :: ps, v =>
    let s1 := s.pieceWrite p (v % 256 ^ p.2)
    let s2 := match p.1 with | .hbm pa _ _ _ => s1.l1Stale n pa p.2 | _ => s1
    storePieces n s2 ps (v / 256 ^ p.2)

/-- What an access does there, and the value that its response carries. -/
def State.effectOf (s : State) (n : Nat) (op : MemOp) (ls : List (Loc × Nat)) : Nat × State :=
  match op with
  | .read => loadPieces n s ls
  | .write v => (0, storePieces n s ls v.toNat)
  | .rmw i y c =>
    let (old, s1) := piecesAt n s ls
    (old, match rmwNew i old y.toNat c.toNat with | some v => storePieces n s1 ls v | none => s1)
  | .zero =>
    (0, ls.foldl (fun s p => match p.1 with
      | .hbm pa key _ _ => (s.l2Zero (lineBase pa) key).l1Stale n (lineBase pa) 64
      | _ => s.pieceWrite p 0) s)
  | .fill => (0, ls.foldl (fun s p => match p.1 with | .hbm pa key kind x => s.l1Fill n pa key kind x | _ => s) s)
  | .wb data mask => (0, ls.foldl (fun s p => match p.1 with | .hbm pa key _ _ => s.l2Write pa (some key) data mask | _ => s) s)

/-- An access is performed; one of the accumulator gives its rows free. -/
def State.perform (s : State) (a : Access) (ls : List (Loc × Nat)) : State :=
  let (v, s1) := s.effectOf a.core a.op ls
  let s2 := s1.setCore a.core ((s1.core a.core).unclaim a.id)
  { s2 with flight := s2.flight.map (fun b =>
      if b.id = a.id then { b with performed := true, result := BitVec.ofNat 64 v, locs := ls } else b) }

/-- An access whose target is a core's array port, or not, arrives. -/
def State.arrive (s : State) (id : Nat) (port : Bool) : Option State :=
  match s.flight.find? (fun a => a.id = id) with
  | none => none
  | some a =>
    match s.accLocs a with
    | none => none
    | some ls =>
      if (ls.any (fun p => match p.1 with | .scr _ _ => true | _ => false)) ≠ port then none
      else if s.canPerform a ls then some (s.perform a ls) else none

/-- MESH_ACCESS_ARRIVAL (R132, R152). -/
def execMeshAccessArrival (id : Nat) (s : State) : Host.Outcome State Fault Refusal := runEvent s (fun s => s.arrive id true)

/-- MEMORY_ACCESS_ARRIVAL (R137). -/
def execMemoryAccessArrival (id : Nat) (s : State) : Host.Outcome State Fault Refusal := runEvent s (fun s => s.arrive id false)

/-- ACCESS_RESPONSE_RETURN (R166): the acquire actions come before the value is seen. -/
def execAccessResponseReturn (id : Nat) (s : State) : Host.Outcome State Fault Refusal :=
  runEvent s (fun s =>
    match s.flight.find? (fun a => a.id = id && a.performed) with
    | none => none
    | some a =>
      let s1 := { s with flight := s.flight.filter (fun b => b.id ≠ id) }
      let s2 := match a.acquire with | some sc => s1.acquireActs a.core sc | none => s1
      let k := s2.ctx a.core a.ctx
      let s3 :=
        if a.poll then
          (if k.block.contains id && k.wait.any (fun w => w.on = .poll) then
            s2.setCtx a.core a.ctx { k with answer := some (0, a.result) } else s2)
        else s2.deliver a.core a.ctx id (widen a.widen a.result.toNat)
      some (s3.retire id))

/-! ### The main file (R105) -/

/-- MAIN_FILE_WRITEBACK (R105): one dirty entry of an unbound workspace, the least recently used. -/
def execMainFileWriteback (n : Nat) (s : State) : Host.Outcome State Fault Refusal :=
  runEvent s (fun s =>
    let c := s.core n
    match (c.mf.filter (fun e => e.dirty && !c.gBound e.addr)).getLast? with
    | none => none
    | some e =>
      let c1 := c.mfBack e
      some (s.setCore n { c1 with mf := c1.mf.map (fun d => if d.addr = e.addr then { d with dirty := false } else d) }))

/-! ### Walks (R143, R144, R146) -/

/-- PAGE_WALK_COMPLETE (R143): a page with Z set is first zero-filled, once, while other walks of the entry wait (R144). -/
def execPageWalkComplete (id : Nat) (s : State) : Host.Outcome State Fault Refusal :=
  runEvent s (fun s =>
    match s.walkOf id with
    | none => none
    | some (d, w) =>
      if w.zeroing.isSome then none
      else match s.walk w.root w.va with
        | .page _ entry z =>
          if s.dies.any (fun e => e.2.walks.any (fun u => u.zeroing = some entry)) then none
          else if z then some (s.setWalk d id (some { w with zeroing := some entry }))
          else some (s.endWalk d w)
        | _ => some (s.endWalk d w))

/-- ZERO_ON_FIRST_TOUCH (R144): the fill of a walk's page ends. -/
def execZeroOnFirstTouch (id : Nat) (s : State) : Host.Outcome State Fault Refusal :=
  runEvent s (fun s =>
    match s.walkOf id with
    | none => none
    | some (d, w) =>
      match w.zeroing with
      | none => none
      | some entry =>
        let s1 := s.setWalk d id (some { w with zeroing := none })
        match s1.walk w.root w.va with
        | .page t e z => some (if z && e = entry then s1.zeroFill t entry else s1)
        | _ => some s1)

end Sys2Proof.Machine
end

