-- ==== Sys2Proof/Machine/Context.lean ====
section
/-! DEFINITION. Contexts and helpers, workspace exchange, identity and system registers, queues, TLBI, BKPT, PROG, TRACE, SYSC (R304 to
R318). -/

namespace Sys2Proof.Machine

/-- A SYSC of core n may enter its partition's queue: no core above it has posted in this mesh cycle (R304). -/
def State.svcTurn (s : State) (n : Nat) : Bool :=
  let l := (s.part (partOf n)).svcLast
  !(decide (l.1 = s.mesh) && decide (n < l.2))

/-- SYSC (R304): the request carries what its release waits for. -/
def execSysc (d a b : Opnd) (m : Mods) (s : State) : Host.Outcome State Fault Refusal :=
  runInstr (.sysc d a b m) m s (fun _ => do
    let code ← src a m
    let arg ← src b m
    let s ← getS
    if !s.svcTurn s.cur.1 then notYet
    else do
      let after ← release .sys
      let s ← getS
      let n := s.cur.1
      let p := s.part (partOf n)
      if p.svc.length < 64 then do
        putS (s.setPart (partOf n) { p with
          svc := p.svc ++ [⟨p.svcSeq, n, s.cur.2, code.setWidth 16, arg, after⟩], svcSeq := (p.svcSeq + 1) % 2 ^ 48
          svcLast := (s.mesh, n) })
        dst d (BitVec.ofNat 64 p.svcSeq)
      else dst d 0x8000000000000000#64)

/-- The FREE helper with the lowest index (R101). -/
def Core.freeHelper (c : Core) : Option Nat := (List.range 11).find? (fun x => x ≠ 0 && (c.ctx x).st = .free)

/-- A helper starts: latches from its workspace but for PC, CAUSE, FADDR and EPC (R101).  It counts as one that has never issued, whatever
it did in an earlier run (DESIGN CHOICE, log entry 90). -/
def Core.startHelper (c : Core) (x : Nat) (entry wsp : Word) (cyc : Nat) : Core :=
  let k := c.latchLoad { hrec := (c.ctx x).hrec } wsp
  c.setCtx x { k with st := .live, pc := entry, cause := 0, faddr := 0, epc := 0, liveAt := cyc + 1, lastWs := some wsp }

/-- HSTART (R101, R305). -/
def execHstart (d a b : Opnd) (m : Mods) (s : State) : Host.Outcome State Fault Refusal :=
  runInstr (.hstart d a b m) m s (fun _ => do
    let entry ← src a m
    let wsp ← src b m
    let c ← getMe
    check (c.legalWs wsp && !c.boundElsewhere wsp 11) 0x41 wsp
    check (entry.extractLsb' 0 2 = 0#2) 0x05 entry
    match c.freeHelper with
    | none => raise 0x42 0
    | some h => do
      modS (fun s => s.setMe (s.me.startHelper h entry wsp s.cyc))
      dst d (BitVec.ofNat 64 h))

/-- The g0 word of the workspace that a helper last held; 0 if it has not run (R102). -/
def Core.joined (c : Core) (h : Nat) : Word :=
  match (c.ctx h).lastWs with
  | some w => BitVec.ofNat 64 (c.scrRead true (wsOff w) 8)
  | none => 0

/-- HJOIN (R102, R306). -/
def execHjoin (d a : Opnd) (m : Mods) (s : State) : Host.Outcome State Fault Refusal :=
  runInstr (.hjoin d a m) m s (fun _ => do
    let h := (← src a m).toNat
    let s ← getS
    check (decide (1 ≤ h) && decide (h ≤ 10) && h ≠ s.cur.2) 0x42 0
    let k := s.ctx s.cur.1 h
    if k.st = .free then dst d (s.me.joined h)
    else waitFor (.helper h) 0 ((s.haltId s.cur.1 h).map (fun i => ⟨6, h, false, some (s.cur.1, h, i)⟩)))

/-- Commands of a context that ends are its engines' alone. -/
def State.orphan (s : State) (n x : Nat) : State :=
  let own (v : VCmd) : VCmd := if v.ctx = x then { v with ctx := 11 } else v
  let c := s.core n
  let s1 := s.setCore n { c with vq := c.vq.map own, vrun := c.vrun.map own }
  let o := s1.octet (octetOf n)
  let both (p : Nat × VCmd) : Nat × VCmd := if p.1 = n then (n, own p.2) else p
  s1.setOctet (octetOf n) { o with sfuq := o.sfuq.map both, sfuRun := o.sfuRun.map both }

/-- A context that leaves its workspace for good (R102): latches written back, unbound, FREE. -/
def State.exitCtx (s : State) (n x : Nat) : State :=
  let c := (s.core n).writeBackAll x
  (s.setCore n (c.setCtx x { lastWs := some (c.ctx x).wsp, lastIssue := (c.ctx x).lastIssue, hrec := (c.ctx x).hrec })).orphan n x

/-- HEXIT (R102, R307), a release at core scope (R170). -/
def execHexit (m : Mods) (s : State) : Host.Outcome State Fault Refusal :=
  runInstr (.hexit m) m s (fun _ => do
    let s ← getS
    if s.my.pend ≠ [] then notYet
    else if s.cur.2 = 0 && (List.range 11).any (fun x => x ≠ 0 && (s.me.ctx x).st ≠ .free) then waitFor .helpers 0 none
    else do
      releaseFirst .core
      modS (fun s => s.exitCtx s.cur.1 s.cur.2)
      if s.cur.2 = 0 then
        modS (fun s => (s.controlExit s.cur.1).traceRec s.cur.1 0 2
          (BitVec.ofNat 64 (3 * 2 ^ 16 + ((s.core s.cur.1).gang.map GangRef.tcb).getD 0)))
      else pure ())

/-- The identity word (R310). -/
def State.cidWord (s : State) (n x : Nat) : Word :=
  BitVec.ofNat 64 (s.regF Pf.fabSelf 0 12 * 2 ^ 27 + partOf n * 2 ^ 24 + octetOf n * 2 ^ 17 + octIdx n * 2 ^ 14 + x * 2 ^ 10 +
    coreY n * 2 ^ 5 + coreX n)

/-- CID (R310). -/
def execCid (d : Opnd) (m : Mods) (s : State) : Host.Outcome State Fault Refusal :=
  runInstr (.cid d m) m s (fun _ => do
    let s ← getS
    dst d (s.cidWord s.cur.1 s.cur.2))

/-- The configuration words (R311). -/
def State.mcWord (s : State) (n i : Nat) : Word :=
  let c := s.core n
  match i with
  | 0 => 0x0960
  | 1 => BitVec.ofNat 64 s.dev.clock
  | 2 => BitVec.ofNat 64 (c.scratch + c.stack * 2 ^ 16)
  | 3 => match c.gang with
    | some g => BitVec.ofNat 64 (g.convoy + g.member * 2 ^ 16)
    | none => 0xFFFF
  | 4 => BitVec.ofNat 64 ((List.range 16).foldl (fun acc j => if s.dev.fenced.contains (partOctet (partOf n) j) then acc + 2 ^ j else acc) 0)
  | 5 => BitVec.ofNat 64 ((List.range 11).foldl (fun acc x => if (c.ctx x).st ≠ .free then acc + 2 ^ x else acc) 0)
  | _ => 0

/-- MCRD (R311). -/
def execMcrd (d a : Opnd) (m : Mods) (s : State) : Host.Outcome State Fault Refusal :=
  runInstr (.mcrd d a m) m s (fun _ => do
    let i ← src a m
    let s ← getS
    dst d (s.mcWord s.cur.1 i.toNat))

/-- YIELD (R308): not ready for the next Min(Uint(Src(A)), 65,535) cycles. -/
def execYield (a : Opnd) (m : Mods) (s : State) : Host.Outcome State Fault Refusal :=
  runInstr (.yield a m) m s (fun _ => do
    let v ← src a m
    modS (fun s => s.setMy { s.my with delayTo := s.cyc + 1 + min v.toNat 65535 }))

/-- GANG and TCBI (R313). -/
def gangWord : Option GangRef → Word
  | some g => BitVec.ofNat 64 (g.lh * 2 ^ 14 + g.lw * 2 ^ 10 + g.y0 * 2 ^ 5 + g.x0)
  | none => 0
def tcbiWord : Option GangRef → Word
  | some g => BitVec.ofNat 64 g.tcb
  | none => 0

/-- What SRD reads (R312). -/
def State.readSr (s : State) (n x : Nat) (r : Sr) : Word :=
  let k := s.ctx n x
  match r with
  | .wsp => k.wsp | .slim => k.slim | .tvec => k.tvec | .epc => k.epc | .cause => k.cause | .faddr => k.faddr
  | .fpsr => k.fpsr | .seed => k.seed.setWidth 64 | .cyc => BitVec.ofNat 64 s.cyc
  | .gang => gangWord (s.core n).gang | .tcbi => tcbiWord (s.core n).gang

/-- Vector and SFU instructions of a context that are not complete (R241). -/
def State.vecBusy (s : State) (n x : Nat) : Bool :=
  let c := s.core n
  let o := s.octet (octetOf n)
  (c.vq ++ c.vrun).any (fun v => v.ctx = x) || (o.sfuq ++ o.sfuRun).any (fun p => p.1 = n && p.2.ctx = x) ||
  (c.ctx x).heldSfu ≠ []

/-- An SRD or SWR of FPSR waits for them; held requests rejoin the octet's queue first (R241, R314). -/
def fpsrReady (r : Sr) : Sem Unit := fun s =>
  if r = .fpsr && s.vecBusy s.cur.1 s.cur.2 then .error (.wait (fun s => s.rejoin s.cur.1 s.cur.2)) else .ok ((), s)

/-- SRD (R312, R314). -/
def execSrd (d : Opnd) (a : Sr) (m : Mods) (s : State) : Host.Outcome State Fault Refusal :=
  runInstr (.srd d a m) m s (fun _ => do
    fpsrReady a
    let s ← getS
    dst d (s.readSr s.cur.1 s.cur.2 a))

/-- A value that SWR of FPSR accepts (R240). -/
def fpsrOk (v : Word) : Bool := v &&& ~~~fpsrMask = 0 && decide (bitsOf v 16 3 < 6)

/-- SEED never holds 0 by a write (R239). -/
def seedOf (v : Word) : BitVec 32 := if v.setWidth 32 = 0#32 then 0x2545F491 else v.setWidth 32

/-- SWR (R312, R314): the privileged writes raise 0x03. -/
def execSwr (d : Sr) (a : Opnd) (m : Mods) (s : State) : Host.Outcome State Fault Refusal :=
  runInstr (.swr d a m) m s (fun _ => do
    fpsrReady d
    let v ← src a m
    let e := encOf (.swr d a m) m
    match d with
    | .wsp | .cyc | .gang | .tcbi => raise 0x03 e
    | .slim => do
      check (decide (v.toNat ≤ (← getMy).slim.toNat)) 0x03 e
      modMy (fun k => { k with slim := v })
    | .tvec => do
      check (v.extractLsb' 0 2 = 0#2) 0x05 v
      modMy (fun k => { k with tvec := v })
    | .epc => modMy (fun k => { k with epc := v })
    | .cause => modMy (fun k => { k with cause := (k.cause &&& 0xFFFFFFFFFFFFFF00#64) ||| (v &&& 0xFF) })
    | .faddr => modMy (fun k => { k with faddr := v })
    | .fpsr => do
      check (fpsrOk v) 0x02 e
      modMy (fun k => { k with fpsr := v })
    | .seed => modMy (fun k => { k with seed := seedOf v }))

/-- WSPX (R107, R309), a release at core scope (R170). -/
def execWspx (d a : Opnd) (m : Mods) (s : State) : Host.Outcome State Fault Refusal :=
  runInstr (.wspx d a m) m s (fun _ => do
    let new ← src a m
    let s ← getS
    let x := s.cur.2
    check (s.me.legalWs new && !s.me.boundElsewhere new x) 0x41 new
    if s.my.pend ≠ [] then notYet
    else do
      let old := s.my.wsp
      let ids ← release .core
      modMe (fun c => let c' := c.latchBack x; c'.setCtx x { c'.latchLoad (c'.ctx x) new with lastWs := some new })
      dst d old
      blockOn ids)

/-- The state word of a queue (R315). -/
def State.queueWord (s : State) (n q : Nat) : Word :=
  let r := (s.core n).q q
  BitVec.ofNat 64 (r.count + r.written * 16 + (if (s.queueWithheld n q false).isSome then 256 else 0))

/-- QSTAT (R315). -/
def execQstat (d : Opnd) (q : BitVec 3) (m : Mods) (s : State) : Host.Outcome State Fault Refusal :=
  runInstr (.qstat d q m) m s (fun _ => do
    let s ← getS
    dst d (s.queueWord s.cur.1 q.toNat))

/-- QFLUSH (R113, R315). -/
def execQflush (q : BitVec 3) (m : Mods) (s : State) : Host.Outcome State Fault Refusal :=
  runInstr (.qflush q m) m s (fun _ => modMe (fun c => c.setQ q.toNat ((c.q q.toNat).flush)))

/-- TLBI (R316): waits for the octet's walks for the page, then removes the entries that hold the address. -/
def execTlbi (a : Opnd) (m : Mods) (s : State) : Host.Outcome State Fault Refusal :=
  runInstr (.tlbi a m) m s (fun _ => do
    let va := (← src a m).toNat
    let s ← getS
    let n := s.cur.1
    let root := s.homePart n
    let out (t : TlbEnt) : Bool := !t.hit root va
    if va ≥ 2 ^ 56 then pure ()
    else
      let ws := (s.die (dieOf n)).walks.filter (fun w => octetOf w.core = octetOf n && w.root = root &&
        decide ((s.pageAt root va).1 ≤ w.va) && decide (w.va < (s.pageAt root va).1 + (s.pageAt root va).2))
      if ws ≠ [] then notYet (fun s => s.setMy { s.my with block := s.my.block ++ ws.map Walk.id })
      else do
        putS (s.setOctet (octetOf n) { s.octet (octetOf n) with tlb := (s.octet (octetOf n)).tlb.filter out })
        modMe (fun c => { c with tlb := c.tlb.filter out }))

/-- BKPT (R317): after its release it lets one issue pass. -/
def execBkpt (m : Mods) (s : State) : Host.Outcome State Fault Refusal :=
  runInstr (.bkpt m) m s (fun _ => do
    if (← getMy).pass then pure () else raise 0x90 0xFF)

/-- A running trial counts a PROG (R228): the partition whose rectangle holds the core. -/
def State.progCount (s : State) (n : Nat) (id : Nat) : State :=
  (List.range 8).foldl (fun s p =>
    let c := s.reg (Pf.snd p 0)
    let r : Rect := ⟨bitsOf c 10 5, bitsOf c 15 5, bitsOf c 20 3, bitsOf c 23 3⟩
    if c.getLsbD 63 && r.has n then
      (List.range 8).foldl (fun s i =>
        let a := Pf.snd p (0x40 + 8 * i)
        if s.regF a 48 16 = id then s.setRegF a 0 48 (s.regF a 0 48 + 1) else s) s
    else s) s

/-- The triggers with code 17 whose id a PROG names (R224). -/
def State.progTrigger (s : State) (n id : Nat) : State :=
  let t := s.reg (Pf.dbg n 0x1C0)
  let s1 := if bitsOf t 0 5 = 17 ∧ bitsOf t 32 16 = id then s.traceStart n else s
  if bitsOf t 8 5 = 17 ∧ bitsOf t 48 16 = id then s1.traceStop n else s1

/-- PROG (R318). -/
def execProg (a : Opnd) (m : Mods) (s : State) : Host.Outcome State Fault Refusal :=
  runInstr (.prog a m) m s (fun _ => do
    let v ← src a m
    let id := v.toNat % 2 ^ 16
    modS (fun s => ((s.progCount s.cur.1 id).progTrigger s.cur.1 id).traceRec s.cur.1 s.cur.2 5 (BitVec.ofNat 64 id)))

/-- TRACE (R318). -/
def execTrace (a : Opnd) (m : Mods) (s : State) : Host.Outcome State Fault Refusal :=
  runInstr (.trace a m) m s (fun _ => do
    let v ← src a m
    modS (fun s => s.traceRec s.cur.1 s.cur.2 6 v))

end Sys2Proof.Machine
end

