-- ==== Sys2Proof/WellFormed.lean ====
section
/-! DEFINITION. Which instructions the machine has: those that some word sequence encodes (12_encoding.md). -/

namespace Sys2Proof

/-- An instruction is well formed when its own encoding raises no cause (R273) and what its form does not carry stands at
its canonical value.  An event, which has no encoding, is well formed. -/
def Instr.wf (i : Instr) : Bool :=
  match i.mods?, i.desc? with
  | some m, some x => (i.encodingCause x (i.raw m)).isNone && m.canonical x.dty && i.cCanonical x m
  | _, _ => true

/-- The same as a proposition. -/
abbrev WellFormed (i : Instr) : Prop := i.wf = true

end Sys2Proof
end

