-- ==== Sys2Proof/Decode.lean ====
section
/-! DEFINITION. The decoder, which answers an instruction or the cause that R273 gives, for any words, and after it the
encoder. -/

namespace Sys2Proof

/-- The C operand field: zr in a form that has no extension. -/
def Raw.opC (r : Raw) : Opnd := if r.form.ext then Opnd.ofBitsD r.eC else .zr

/-! ### The opcode map of R271, one definition for each major -/

namespace Map

/-- Major 0x01, IA (R271). -/
def major01 (r : Raw) : Option Instr :=
  match r.f.toNat with
  | 0 => some (.add (Opnd.ofBitsD r.d) (Opnd.ofBitsD r.a) (Opnd.ofBitsD r.b) (r.mods .i64))
  | 1 => some (.sub (Opnd.ofBitsD r.d) (Opnd.ofBitsD r.a) (Opnd.ofBitsD r.b) (r.mods .i64))
  | 2 => some (.and (Opnd.ofBitsD r.d) (Opnd.ofBitsD r.a) (Opnd.ofBitsD r.b) (r.mods .i64))
  | 3 => some (.or (Opnd.ofBitsD r.d) (Opnd.ofBitsD r.a) (Opnd.ofBitsD r.b) (r.mods .i64))
  | 4 => some (.xor (Opnd.ofBitsD r.d) (Opnd.ofBitsD r.a) (Opnd.ofBitsD r.b) (r.mods .i64))
  | 5 => some (.andn (Opnd.ofBitsD r.d) (Opnd.ofBitsD r.a) (Opnd.ofBitsD r.b) (r.mods .i64))
  | 6 => some (.shl (Opnd.ofBitsD r.d) (Opnd.ofBitsD r.a) (Opnd.ofBitsD r.b) (r.mods .i64))
  | 7 => some (.shr (Opnd.ofBitsD r.d) (Opnd.ofBitsD r.a) (Opnd.ofBitsD r.b) (r.mods .i64))
  | _ => none

/-- Major 0x02, IB (R271). -/
def major02 (r : Raw) : Option Instr :=
  match r.f.toNat with
  | 0 => some (.sar (Opnd.ofBitsD r.d) (Opnd.ofBitsD r.a) (Opnd.ofBitsD r.b) (r.mods .i64))
  | 1 => some (.ror (Opnd.ofBitsD r.d) (Opnd.ofBitsD r.a) (Opnd.ofBitsD r.b) (r.mods .i64))
  | 2 => some (.min (Opnd.ofBitsD r.d) (Opnd.ofBitsD r.a) (Opnd.ofBitsD r.b) (r.mods .i64))
  | 3 => some (.max (Opnd.ofBitsD r.d) (Opnd.ofBitsD r.a) (Opnd.ofBitsD r.b) (r.mods .i64))
  | 4 => some (.mul (Opnd.ofBitsD r.d) (Opnd.ofBitsD r.a) (Opnd.ofBitsD r.b) (r.mods .i64))
  | 5 => some (.mulh (Opnd.ofBitsD r.d) (Opnd.ofBitsD r.a) (Opnd.ofBitsD r.b) (r.mods .i64))
  | 6 => some (.div (Opnd.ofBitsD r.d) (Opnd.ofBitsD r.a) (Opnd.ofBitsD r.b) (r.mods .i64))
  | 7 => some (.rem (Opnd.ofBitsD r.d) (Opnd.ofBitsD r.a) (Opnd.ofBitsD r.b) (r.mods .i64))
  | _ => none

/-- Major 0x03, IC (R271). -/
def major03 (r : Raw) : Option Instr :=
  match r.f.toNat with
  | 0 => some (.clz (Opnd.ofBitsD r.d) (Opnd.ofBitsD r.a) (r.mods .i64))
  | 1 => some (.ctz (Opnd.ofBitsD r.d) (Opnd.ofBitsD r.a) (r.mods .i64))
  | 2 => some (.popc (Opnd.ofBitsD r.d) (Opnd.ofBitsD r.a) (r.mods .i64))
  | 3 => some (.brev (Opnd.ofBitsD r.d) (Opnd.ofBitsD r.a) (r.mods .i64))
  | 4 => some (.ext (Opnd.ofBitsD r.d) (Opnd.ofBitsD r.a) (Opnd.ofBitsD r.b) (r.mods .i64))
  | 5 => some (.ins (Opnd.ofBitsD r.d) (Opnd.ofBitsD r.a) (Opnd.ofBitsD r.b) (r.mods .i64))
  | 6 => some (.lea (Opnd.ofBitsD r.d) (Opnd.ofBitsD r.a) (Opnd.ofBitsD r.b) (r.mods .i64))
  | 7 => some (.mov (Opnd.ofBitsD r.d) (Opnd.ofBitsD r.a) (r.mods .i64))
  | _ => none

/-- Major 0x04, ADDI (R271). -/
def major04 (r : Raw) : Option Instr :=
  some (.addi (Opnd.ofBitsD r.d) (Opnd.ofBitsD r.a) r.imm10 (r.mods .i64))

/-- Major 0x05, CMPP (R271). -/
def major05 (r : Raw) : Option Instr :=
  some (.cmpp (Cc.ofCode r.f) (r.d.extractLsb' 0 3) (Opnd.ofBitsD r.a) (Opnd.ofBitsD r.b) (r.mods .i64))

/-- Major 0x06, SETC (R271). -/
def major06 (r : Raw) : Option Instr :=
  some (.setc (Cc.ofCode r.f) (Opnd.ofBitsD r.d) (Opnd.ofBitsD r.a) (Opnd.ofBitsD r.b) (r.mods .i64))

/-- Major 0x07, SEL (R271). -/
def major07 (r : Raw) : Option Instr :=
  some (.sel r.f (Opnd.ofBitsD r.d) (Opnd.ofBitsD r.a) (Opnd.ofBitsD r.b) (r.mods .i64))

/-- Major 0x08, FA (R271). -/
def major08 (r : Raw) : Option Instr :=
  match r.f.toNat with
  | 0 => some (.fadd (Opnd.ofBitsD r.d) (Opnd.ofBitsD r.a) (Opnd.ofBitsD r.b) (r.mods .f32))
  | 1 => some (.fsub (Opnd.ofBitsD r.d) (Opnd.ofBitsD r.a) (Opnd.ofBitsD r.b) (r.mods .f32))
  | 2 => some (.fmul (Opnd.ofBitsD r.d) (Opnd.ofBitsD r.a) (Opnd.ofBitsD r.b) (r.mods .f32))
  | 3 => some (.fmulz (Opnd.ofBitsD r.d) (Opnd.ofBitsD r.a) (Opnd.ofBitsD r.b) (r.mods .f32))
  | 4 => some (.fdiv (Opnd.ofBitsD r.d) (Opnd.ofBitsD r.a) (Opnd.ofBitsD r.b) (r.mods .f32))
  | 5 => some (.fmin (Opnd.ofBitsD r.d) (Opnd.ofBitsD r.a) (Opnd.ofBitsD r.b) (r.mods .f32))
  | 6 => some (.fmax (Opnd.ofBitsD r.d) (Opnd.ofBitsD r.a) (Opnd.ofBitsD r.b) (r.mods .f32))
  | 7 => some (.fma (Opnd.ofBitsD r.d) (Opnd.ofBitsD r.a) (Opnd.ofBitsD r.b) r.opC (r.mods .f32))
  | _ => none

/-- Major 0x09, FB (R271). -/
def major09 (r : Raw) : Option Instr :=
  match r.f.toNat with
  | 0 => some (.fsqrt (Opnd.ofBitsD r.d) (Opnd.ofBitsD r.a) (r.mods .f32))
  | 1 => some (.fneg (Opnd.ofBitsD r.d) (Opnd.ofBitsD r.a) (r.mods .f32))
  | 2 => some (.fabs (Opnd.ofBitsD r.d) (Opnd.ofBitsD r.a) (r.mods .f32))
  | 3 => some (.fclass (Opnd.ofBitsD r.d) (Opnd.ofBitsD r.a) (r.mods .f32))
  | 4 => some (.fcvt (Opnd.ofBitsD r.d) (Opnd.ofBitsD r.a) (r.mods .f32))
  | _ => none

/-- Major 0x0A, FCMPP (R271). -/
def major0A (r : Raw) : Option Instr :=
  (Fcc.ofCode? r.f).map (fun k => .fcmpp k (r.d.extractLsb' 0 3) (Opnd.ofBitsD r.a) (Opnd.ofBitsD r.b) (r.mods .f32))

/-- Major 0x0B, PRED (R271). -/
def major0B (r : Raw) : Option Instr :=
  match r.f.toNat with
  | 0 => some (.pand (r.d.extractLsb' 0 3) (r.a.extractLsb' 0 3) (r.b.extractLsb' 0 3) (r.mods .i8))
  | 1 => some (.por (r.d.extractLsb' 0 3) (r.a.extractLsb' 0 3) (r.b.extractLsb' 0 3) (r.mods .i8))
  | 2 => some (.pxor (r.d.extractLsb' 0 3) (r.a.extractLsb' 0 3) (r.b.extractLsb' 0 3) (r.mods .i8))
  | 3 => some (.pnot (r.d.extractLsb' 0 3) (r.a.extractLsb' 0 3) (r.mods .i8))
  | 4 => some (.ppack (Opnd.ofBitsD r.d) (r.mods .i8))
  | 5 => some (.punpk (Opnd.ofBitsD r.a) (r.mods .i8))
  | _ => none

/-- Major 0x0C, BR (R271). -/
def major0C (r : Raw) : Option Instr :=
  some (.br r.off20 (r.sense = 1#1) r.pred (r.mods .i8))

/-- Major 0x0D, JMP (R271). -/
def major0D (r : Raw) : Option Instr :=
  some (.jmp r.off24 (r.mods .i8))

/-- Major 0x0E, CALL (R271). -/
def major0E (r : Raw) : Option Instr :=
  some (.call r.off24 (r.mods .i8))

/-- Major 0x0F, CTL (R271). -/
def major0F (r : Raw) : Option Instr :=
  match r.fn.toNat with
  | 0 => some (.jmpr (Opnd.ofBitsD r.a) (r.mods .i8))
  | 1 => some (.callr (Opnd.ofBitsD r.a) (r.mods .i8))
  | 2 => some (.ret (r.mods .i8))
  | 3 => some (.enter r.d (r.mods .i8))
  | 4 => some (.leave (r.mods .i8))
  | 5 => some (.nop (r.mods .i8))
  | 6 => some (.halt (r.mods .i8))
  | 7 => some (.trap (r.d.extractLsb' 0 4) (r.mods .i8))
  | 8 => some (.sysc (Opnd.ofBitsD r.d) (Opnd.ofBitsD r.a) (.g 0) (r.mods .i8))
  | 9 => some (.eret (r.mods .i8))
  | _ => if r.f = 4#3 && r.b ≠ 0 then some (.sysc (Opnd.ofBitsD r.d) (Opnd.ofBitsD r.a) (Opnd.ofBitsD r.b) (r.mods .i8)) else none

/-- Major 0x10, LOOP (R271). -/
def major10 (r : Raw) : Option Instr :=
  some (.loop r.off17 (Opnd.ofBitsD r.d) (r.mods .i8))

/-- Major 0x11, CTX (R271). -/
def major11 (r : Raw) : Option Instr :=
  match r.fn.toNat with
  | 0 => some (.hstart (Opnd.ofBitsD r.d) (Opnd.ofBitsD r.a) (.g 0) (r.mods .i8))
  | 1 => some (.hjoin (Opnd.ofBitsD r.d) (Opnd.ofBitsD r.a) (r.mods .i8))
  | 2 => some (.hexit (r.mods .i8))
  | 3 => some (.cid (Opnd.ofBitsD r.d) (r.mods .i8))
  | 4 => some (.mcrd (Opnd.ofBitsD r.d) (Opnd.ofBitsD r.a) (r.mods .i8))
  | 5 => some (.yield (Opnd.ofBitsD r.a) (r.mods .i8))
  | 6 => some (.srd (Opnd.ofBitsD r.d) (Sr.ofCode r.a) (r.mods .i8))
  | 7 => some (.swr (Sr.ofCode r.d) (Opnd.ofBitsD r.a) (r.mods .i8))
  | 8 => some (.wspx (Opnd.ofBitsD r.d) (Opnd.ofBitsD r.a) (r.mods .i8))
  | 9 => some (.qstat (Opnd.ofBitsD r.d) (r.a.extractLsb' 0 3) (r.mods .i8))
  | 10 => some (.qflush (r.a.extractLsb' 0 3) (r.mods .i8))
  | 11 => some (.tlbi (Opnd.ofBitsD r.a) (r.mods .i8))
  | 12 => some (.bkpt (r.mods .i8))
  | 13 => some (.prog (Opnd.ofBitsD r.a) (r.mods .i8))
  | 14 => some (.trace (Opnd.ofBitsD r.a) (r.mods .i8))
  | 15 => some (.ckset (Opnd.ofBitsD r.d) (Opnd.ofBitsD r.a) (r.mods .i8))
  | _ => if r.f = 4#3 && r.b ≠ 0 then some (.hstart (Opnd.ofBitsD r.d) (Opnd.ofBitsD r.a) (Opnd.ofBitsD r.b) (r.mods .i8)) else none

/-- Major 0x12, LD (R271). -/
def major12 (r : Raw) : Option Instr :=
  some (.ld (Opnd.ofBitsD r.d) (Opnd.ofBitsD r.a) (Sz.ofCode r.size) r.disp7 (r.mods .i8))

/-- Major 0x13, ST (R271). -/
def major13 (r : Raw) : Option Instr :=
  some (.st (Opnd.ofBitsD r.d) (Opnd.ofBitsD r.a) (Sz.ofCode r.size) r.disp7 (r.mods .i8))

/-- Major 0x14, LDX (R271). -/
def major14 (r : Raw) : Option Instr :=
  some (.ldx (Sz.ofCode r.f) (Opnd.ofBitsD r.d) (Opnd.ofBitsD r.a) (Opnd.ofBitsD r.b) (r.mods .i8))

/-- Major 0x15, STX (R271). -/
def major15 (r : Raw) : Option Instr :=
  some (.stx (Sz.ofCode r.f) (Opnd.ofBitsD r.d) (Opnd.ofBitsD r.a) (Opnd.ofBitsD r.b) (r.mods .i8))

/-- Major 0x16, LDA (R271). -/
def major16 (r : Raw) : Option Instr :=
  some (.lda (Opnd.ofBitsD r.d) (Opnd.ofBitsD r.a) (Sz.ofCode r.size) r.disp3 (Scope.ofCode r.scope) (r.mods .i8))

/-- Major 0x17, STL (R271). -/
def major17 (r : Raw) : Option Instr :=
  some (.stl (Opnd.ofBitsD r.d) (Opnd.ofBitsD r.a) (Sz.ofCode r.size) r.disp3 (Scope.ofCode r.scope) (r.mods .i8))

/-- Major 0x18, CACHE (R271). -/
def major18 (r : Raw) : Option Instr :=
  match r.fn.toNat with
  | 0 => some (.pref (Opnd.ofBitsD r.a) r.opC (r.mods .i8))
  | 1 => some (.cwb (Opnd.ofBitsD r.a) r.opC (r.mods .i8))
  | 2 => some (.cinv (Opnd.ofBitsD r.a) r.opC (r.mods .i8))
  | 3 => some (.cdisc (Opnd.ofBitsD r.a) r.opC (r.mods .i8))
  | 4 => some (.czero (Opnd.ofBitsD r.a) r.opC (r.mods .i8))
  | 5 => some (.ifence (r.mods .i8))
  | 6 => some (.fence (FenceKind.ofCode r.d) (r.mods .i8))
  | _ => none

/-- Major 0x19, WAITA (R271). -/
def major19 (r : Raw) : Option Instr :=
  some (.waita (Sz.ofCode r.f) (Opnd.ofBitsD r.d) (Opnd.ofBitsD r.a) (Opnd.ofBitsD r.b) r.opC (r.mods .i8))

/-- Major 0x1A, AMO (R271). -/
def major1A (r : Raw) : Option Instr :=
  match r.f.toNat with
  | 0 => some (.aadd (Opnd.ofBitsD r.d) (Opnd.ofBitsD r.a) (Opnd.ofBitsD r.b) (r.mods .i64))
  | 1 => some (.aand (Opnd.ofBitsD r.d) (Opnd.ofBitsD r.a) (Opnd.ofBitsD r.b) (r.mods .i64))
  | 2 => some (.aor (Opnd.ofBitsD r.d) (Opnd.ofBitsD r.a) (Opnd.ofBitsD r.b) (r.mods .i64))
  | 3 => some (.axor (Opnd.ofBitsD r.d) (Opnd.ofBitsD r.a) (Opnd.ofBitsD r.b) (r.mods .i64))
  | 4 => some (.amin (Opnd.ofBitsD r.d) (Opnd.ofBitsD r.a) (Opnd.ofBitsD r.b) (r.mods .i64))
  | 5 => some (.amax (Opnd.ofBitsD r.d) (Opnd.ofBitsD r.a) (Opnd.ofBitsD r.b) (r.mods .i64))
  | 6 => some (.aswp (Opnd.ofBitsD r.d) (Opnd.ofBitsD r.a) (Opnd.ofBitsD r.b) (r.mods .i64))
  | 7 => some (.afadd (Opnd.ofBitsD r.d) (Opnd.ofBitsD r.a) (Opnd.ofBitsD r.b) (r.mods .i64))
  | _ => none

/-- Major 0x1B, ACAS (R271). -/
def major1B (r : Raw) : Option Instr :=
  match r.f.toNat with
  | 0 => some (.acas (Opnd.ofBitsD r.d) (Opnd.ofBitsD r.a) (Opnd.ofBitsD r.b) r.opC (r.mods .i64))
  | _ => none

/-- Major 0x1C, SYNC (R271). -/
def major1C (r : Raw) : Option Instr :=
  match r.fn.toNat with
  | 0 => some (.binit r.a (Opnd.ofBitsD r.d) (r.mods .i8))
  | 1 => some (.barr r.a (r.mods .i8))
  | 2 => some (.bwait (Opnd.ofBitsD r.d) r.a r.opC (r.mods .i8))
  | 3 => some (.barw (Opnd.ofBitsD r.d) r.a r.opC (r.mods .i8))
  | 4 => some (.bstat (Opnd.ofBitsD r.d) r.a (r.mods .i8))
  | 5 => some (.roseb (r.d.extractLsb' 0 4) (Opnd.ofBitsD r.a) (r.mods .i8))
  | 6 => some (.roseq (Opnd.ofBitsD r.d) (r.a.extractLsb' 0 4) (r.mods .i8))
  | 7 => some (.rosex (r.d.extractLsb' 0 4) (r.mods .i8))
  | _ => none

/-- Major 0x1D, MSG (R271). -/
def major1D (r : Raw) : Option Instr :=
  match r.fn.toNat with
  | 0 => some (.msend (Opnd.ofBitsD r.a) r.opC (r.mods .i8))
  | 1 => some (.msendr (Opnd.ofBitsD r.d) (Opnd.ofBitsD r.a) r.opC (r.mods .i8))
  | 2 => some (.mrecv (Opnd.ofBitsD r.d) (Opnd.ofBitsD r.a) r.opC (r.mods .i8))
  | 3 => some (.mrecvr (Opnd.ofBitsD r.d) (Opnd.ofBitsD r.a) r.opC (r.mods .i8))
  | 4 => some (.mbind (Opnd.ofBitsD r.a) (r.mods .i8))
  | 5 => some (.mstat (Opnd.ofBitsD r.d) (Opnd.ofBitsD r.a) (r.mods .i8))
  | _ => none

/-- Major 0x1E, TT (R271). -/
def major1E (r : Raw) : Option Instr :=
  match r.fn.toNat with
  | 0 => some (.ttgo (Opnd.ofBitsD r.a) (r.mods .i8))
  | 1 => some (.ttsend (Opnd.ofBitsD r.d) (Opnd.ofBitsD r.a) (r.mods .i8))
  | 2 => some (.ttrecv (Opnd.ofBitsD r.d) (Opnd.ofBitsD r.a) (r.mods .i8))
  | 3 => some (.ttend (r.mods .i8))
  | 4 => some (.ttq (Opnd.ofBitsD r.d) (r.mods .i8))
  | _ => none

/-- Major 0x1F, FIX (R271). -/
def major1F (r : Raw) : Option Instr :=
  match r.fn.toNat with
  | 0 => some (.fxdef (Opnd.ofBitsD r.d) (Opnd.ofBitsD r.a) (r.mods .i8))
  | 1 => some (.fxjoin (Opnd.ofBitsD r.a) (r.mods .i8))
  | 2 => some (.fxc (Opnd.ofBitsD r.d) (Opnd.ofBitsD r.a) r.opC (r.mods .i8))
  | 3 => some (.fxw (Opnd.ofBitsD r.d) (Opnd.ofBitsD r.a) r.opC (r.mods .i8))
  | 4 => some (.fxq (Opnd.ofBitsD r.d) (Opnd.ofBitsD r.a) (r.mods .i8))
  | 5 => some (.fxlv (Opnd.ofBitsD r.a) (r.mods .i8))
  | _ => none

/-- Major 0x20, XFR (R271). -/
def major20 (r : Raw) : Option Instr :=
  match r.fn.toNat with
  | 0 => some (.xtpl (r.d.extractLsb' 0 6) (Opnd.ofBitsD r.a) (r.mods .i8))
  | 1 => some (.xst (r.d.extractLsb' 0 3) (Opnd.ofBitsD r.a) (r.mods .i8))
  | 2 => some (.xcan (r.d.extractLsb' 0 3) (r.mods .i8))
  | 3 => some (.xstat (Opnd.ofBitsD r.d) (r.a.extractLsb' 0 3) (r.mods .i8))
  | _ => none

/-- Major 0x21, CHT (R271). -/
def major21 (r : Raw) : Option Instr :=
  match r.fn.toNat with
  | 0 => some (.charm (Opnd.ofBitsD r.a) (r.mods .i8))
  | 1 => some (.chdec (Opnd.ofBitsD r.a) (r.mods .i8))
  | 2 => some (.chpatch (Opnd.ofBitsD r.d) (Opnd.ofBitsD r.a) (r.mods .i8))
  | 3 => some (.chcard (Opnd.ofBitsD r.d) (r.mods .i8))
  | 4 => some (.chdone (Opnd.ofBitsD r.a) (r.mods .i8))
  | 5 => some (.chq (Opnd.ofBitsD r.d) (Opnd.ofBitsD r.a) (r.mods .i8))
  | _ => none

/-- Major 0x22, VA (R271). -/
def major22 (r : Raw) : Option Instr :=
  match r.f.toNat with
  | 0 => some (.vadd r.d r.a r.b (r.mods .i8))
  | 1 => some (.vsub r.d r.a r.b (r.mods .i8))
  | 2 => some (.vmul r.d r.a r.b (r.mods .i8))
  | 3 => some (.vmulz r.d r.a r.b (r.mods .i8))
  | 4 => some (.vfma r.d r.a r.b r.eC (r.mods .i8))
  | 5 => some (.vmin r.d r.a r.b (r.mods .i8))
  | 6 => some (.vmax r.d r.a r.b (r.mods .i8))
  | 7 => some (.vsacc r.d r.a r.b r.opC (r.mods .i8))
  | _ => none

/-- Major 0x23, VB (R271). -/
def major23 (r : Raw) : Option Instr :=
  match r.f.toNat with
  | 0 => some (.vand r.d r.a r.b (r.mods .i8))
  | 1 => some (.vor r.d r.a r.b (r.mods .i8))
  | 2 => some (.vxor r.d r.a r.b (r.mods .i8))
  | 3 => some (.vshl r.d r.a r.b (r.mods .i8))
  | 4 => some (.vshr r.d r.a r.b (r.mods .i8))
  | 5 => some (.vsar r.d r.a r.b (r.mods .i8))
  | 6 => some (.vabs r.d r.a (r.mods .i8))
  | 7 => some (.vneg r.d r.a (r.mods .i8))
  | _ => none

/-- Major 0x24, VC (R271). -/
def major24 (r : Raw) : Option Instr :=
  match r.f.toNat with
  | 0 => some (.vcmp r.d r.a r.b (r.mods .i8))
  | 1 => some (.vsel r.d r.a r.b (r.mods .i8))
  | 2 => some (.vcvt r.d r.a (r.mods .i8))
  | 3 => some (.vmov r.d r.a (r.mods .i8))
  | 4 => some (.viota r.d r.opC (r.mods .i8))
  | 5 => some (.vbcast r.d r.opC (r.mods .i8))
  | 6 => some (.vextr (Opnd.ofBitsD r.d) r.a r.opC (r.mods .i8))
  | 7 => some (.vins r.d (Opnd.ofBitsD r.a) r.opC (r.mods .i8))
  | _ => none

/-- Major 0x25, VD (R271). -/
def major25 (r : Raw) : Option Instr :=
  match r.f.toNat with
  | 0 => some (.vred r.d r.a (r.mods .i8))
  | 1 => some (.vscan r.d r.a (r.mods .i8))
  | 2 => some (.vperm r.d r.a r.b (r.mods .i8))
  | 3 => some (.vsf r.d r.a (r.mods .i8))
  | 4 => some (.vmk r.d r.a r.b (r.mods .i8))
  | 5 => some (.vmpop (Opnd.ofBitsD r.d) r.a (r.mods .i8))
  | 6 => some (.vfence (r.mods .i8))
  | _ => none

/-- Major 0x26, VM (R271). -/
def major26 (r : Raw) : Option Instr :=
  match r.f.toNat with
  | 0 => some (.vld r.d r.opC (r.mods .i8))
  | 1 => some (.vst r.d r.opC (r.mods .i8))
  | 2 => some (.vlds r.d (Opnd.ofBitsD r.a) r.opC (r.mods .i8))
  | 3 => some (.vsts r.d (Opnd.ofBitsD r.a) r.opC (r.mods .i8))
  | 4 => some (.vgath r.d r.a r.opC (r.mods .i8))
  | 5 => some (.vscat r.d r.a r.opC (r.mods .i8))
  | _ => none

/-- Major 0x30, MX (R271). -/
def major30 (r : Raw) : Option Instr :=
  match r.fn.toNat with
  | 0 => some (.mwld (Opnd.ofBitsD r.d) (Opnd.ofBitsD r.a) (r.mods .i8))
  | 1 => some (.mma (Opnd.ofBitsD r.d) (Opnd.ofBitsD r.a) (r.mods .i8))
  | 2 => some (.mmag (Opnd.ofBitsD r.d) (Opnd.ofBitsD r.a) r.opC (r.mods .i8))
  | 3 => some (.mmap (Opnd.ofBitsD r.d) (Opnd.ofBitsD r.a) (r.mods .i8))
  | 4 => some (.mupl (Opnd.ofBitsD r.d) (r.mods .i8))
  | 5 => some (.mzero (Opnd.ofBitsD r.d) (r.mods .i8))
  | 6 => some (.mtr (Opnd.ofBitsD r.d) (r.mods .i8))
  | 7 => some (.mst (Opnd.ofBitsD r.d) (Opnd.ofBitsD r.a) (r.mods .i8))
  | 8 => some (.mld (Opnd.ofBitsD r.d) (Opnd.ofBitsD r.a) (r.mods .i8))
  | 9 => some (.msacc (Opnd.ofBitsD r.d) (r.mods .i8))
  | 10 => some (.mfence (r.mods .i8))
  | 11 => some (.mstatMatrix (Opnd.ofBitsD r.d) (r.mods .i8))
  | _ => none

end Map

/-- The member of the opcode map (R271), none for a reserved major, F or fn10. -/
def Raw.member (r : Raw) : Option Instr :=
  match r.major.toNat with
  | 0x01 => Map.major01 r
  | 0x02 => Map.major02 r
  | 0x03 => Map.major03 r
  | 0x04 => Map.major04 r
  | 0x05 => Map.major05 r
  | 0x06 => Map.major06 r
  | 0x07 => Map.major07 r
  | 0x08 => Map.major08 r
  | 0x09 => Map.major09 r
  | 0x0A => Map.major0A r
  | 0x0B => Map.major0B r
  | 0x0C => Map.major0C r
  | 0x0D => Map.major0D r
  | 0x0E => Map.major0E r
  | 0x0F => Map.major0F r
  | 0x10 => Map.major10 r
  | 0x11 => Map.major11 r
  | 0x12 => Map.major12 r
  | 0x13 => Map.major13 r
  | 0x14 => Map.major14 r
  | 0x15 => Map.major15 r
  | 0x16 => Map.major16 r
  | 0x17 => Map.major17 r
  | 0x18 => Map.major18 r
  | 0x19 => Map.major19 r
  | 0x1A => Map.major1A r
  | 0x1B => Map.major1B r
  | 0x1C => Map.major1C r
  | 0x1D => Map.major1D r
  | 0x1E => Map.major1E r
  | 0x1F => Map.major1F r
  | 0x20 => Map.major20 r
  | 0x21 => Map.major21 r
  | 0x22 => Map.major22 r
  | 0x23 => Map.major23 r
  | 0x24 => Map.major24 r
  | 0x25 => Map.major25 r
  | 0x26 => Map.major26 r
  | 0x30 => Map.major30 r
  | _ => none

/-- What a word sequence is: an instruction, or an encoding that raises a cause (R273). -/
inductive Decoded
  | instr (i : Instr)
  | illegal (cause : BitVec 8)
deriving DecidableEq, Repr

/-- R273: the instruction that the parts encode, or the cause they raise. -/
def Raw.decode (r : Raw) : Decoded :=
  match r.member with
  | none => .illegal 0x01
  | some i =>
    match i.desc? with
    | none => .illegal 0x01
    | some x =>
      match i.encodingCause x r with
      | some c => .illegal c
      | none => .instr i

/-! ### Words and bytes -/

/-- The first word's length in words (R254). -/
def lengthOf (w0 : BitVec 32) : Nat := (Len.ofBits (w0.extractLsb' 0 2)).words

/-- The parts, from the first word and the words after it (R254: low word first).  A word that is missing counts
as 0; `decodeWords` refuses such a sequence. -/
def Raw.ofWords (w0 : BitVec 32) (ws : List (BitVec 32)) : Raw :=
  let n (k : Nat) : BitVec 32 := ws.getD k 0
  let len := w0.extractLsb' 0 2
  let form := Len.ofBits len
  { len := len, major := w0.extractLsb' 2 6, hi := w0.extractLsb' 8 24
    ext := if form.ext then n 1 ++ n 0 else 0
    lit := if form.hasLit then (if form.ext then n 3 ++ n 2 else n 1 ++ n 0) else 0 }

/-- The words of the parts (R254). -/
def Raw.words (r : Raw) : List (BitVec 32) :=
  let two (x : Word) : List (BitVec 32) := [x.extractLsb' 0 32, x.extractLsb' 32 32]
  r.word :: ((if r.form.ext then two r.ext else []) ++ (if r.form.hasLit then two r.lit else []))

/-- Why bytes or words give no instruction. -/
inductive DecodeError
  | tooShort
  | encoding (cause : BitVec 8)
deriving DecidableEq, Repr

/-- The instruction at the head of a word list, with the rest. -/
def decodeWords : List (BitVec 32) → Except DecodeError (Instr × List (BitVec 32))
  | [] => .error .tooShort
  | w :: ws =>
    if ws.length + 1 < lengthOf w then .error .tooShort
    else match (Raw.ofWords w ws).decode with
      | .instr i => .ok (i, ws.drop (lengthOf w - 1))
      | .illegal c => .error (.encoding c)

/-- Little-endian words of a byte list (R3); a last part of fewer than four bytes is dropped. -/
def wordsOfBytes : List Byte → List (BitVec 32)
  | a :: b :: c :: d :: rest => (d ++ (c ++ (b ++ a))) :: wordsOfBytes rest
  | _ => []

/-- The bytes of a word, low byte first (R3). -/
def bytesOfWord (w : BitVec 32) : List Byte :=
  [w.extractLsb' 0 8, w.extractLsb' 8 8, w.extractLsb' 16 8, w.extractLsb' 24 8]

/-- The instruction at the head of a byte list, with the words left over. -/
def decodeBytes (bs : List Byte) : Except DecodeError (Instr × List (BitVec 32)) := decodeWords (wordsOfBytes bs)

/-- The five words, the longest instruction (R254), of a number in the opcode table's bit numbering: a later word's
bits count on from the first word's. -/
def tableWords (nbits w : Nat) : List (BitVec 32) :=
  let v := w % 2 ^ nbits
  [BitVec.ofNat 32 v, BitVec.ofNat 32 (v / 2 ^ 32), BitVec.ofNat 32 (v / 2 ^ 64), BitVec.ofNat 32 (v / 2 ^ 96),
   BitVec.ofNat 32 (v / 2 ^ 128)]

/-- The instruction that the decoder reads from the table's number, through the bytes as memory holds them. -/
def decodeTableWord (nbits w : Nat) : Option Instr :=
  match decodeBytes ((tableWords nbits w).flatMap bytesOfWord) with
  | .ok (i, _) => some i
  | .error _ => none

/-! ### The encoder -/

/-- The words of an instruction (R254, R257, R263); none for an event, which has no encoding. -/
def encode (i : Instr) : List (BitVec 32) :=
  match i.mods? with
  | some m => (i.raw m).words
  | none => []

end Sys2Proof
end

