-- ==== Sys2Proof/Machine/Tile.lean ====
section
/-! DEFINITION. What the matrix unit computes (R250, R253, R371 to R382): descriptors, the sums of MMA, the recurrence of MMAP, the
row commands, conversion of rows. -/

namespace Sys2Proof.Machine

/-! ### The tile descriptor (R371) -/

def tileSp (w : Word) : Bool := w.getLsbD 43
def tileCz (w : Word) : Bool := w.getLsbD 42
def tileWoff (w : Word) : Nat := bitsOf w 31 11
def tileK (w : Word) : Nat := bitsOf w 18 13
def tileN (w : Word) : Nat := 16 * (bitsOf w 16 2 + 1)
def tileM (w : Word) : Nat := 16 * (bitsOf w 14 2 + 1)
def tileC (w : Word) : Nat := bitsOf w 7 7
def tileD (w : Word) : Nat := bitsOf w 0 7

/-- The granule of an input format (R250, R372). -/
def granule : ElTy → Nat
  | .bf16 | .f16 => 16
  | .f32 => 8
  | .e2m1 | .d8 => 64
  | _ => 32

/-- Bytes of n elements packed. -/
def packBytes (t : ElTy) (n : Nat) : Nat := (n * t.bits + 7) / 8

/-- Bytes of the values of a sparse B, (K/2) × N × e (R373, R374). -/
def sparseBytes (w : Word) (t : ElTy) : Nat := tileK w * tileN w * t.bits / 16

/-- Bytes of B in the weight slice (R373). -/
def bBytes (w : Word) (t : ElTy) : Nat :=
  if tileSp w then sparseBytes w t + tileK w * tileN w / 8 else packBytes t (tileK w * tileN w)

/-- Bytes of B that the unit reads: a sparse B has a nibble for each group that K begins and each column (R374).  Where K is no multiple
of 4 those are more than the check of R373 counts (DESIGN CHOICE, log entry 117). -/
def bFetch (w : Word) (t : ElTy) : Nat :=
  if tileSp w then sparseBytes w t + (tileK w + 3) / 4 * tileN w / 2 else bBytes w t

/-- Element idx of packed elements of t. -/
def elemAt (bs : List Byte) (t : ElTy) (idx : Nat) : Nat :=
  let b := idx * t.bits / 8
  ofLeBytes ((bs.drop b).take (max 1 (t.bits / 8))) / 2 ^ (idx * t.bits % 8) % 2 ^ t.bits

/-- The value of zero in a format (R374). -/
def zeroOf (t : ElTy) : Nat := if t = .d8 then 0x77 else 0

/-- Element (k, j) of B, the 2:4 sparse form expanded (R374). -/
def bElem (bs : List Byte) (t : ElTy) (w : Word) (k j : Nat) : Nat :=
  let n := tileN w
  if tileSp w then
    let g := k / 4
    let plane := bs.drop (sparseBytes w t)
    let nib := elemAt plane .e2m1 (g * n + j)
    if k % 4 = nib / 4 then elemAt bs t ((2 * g + 1) * n + j)
    else if k % 4 = nib % 4 then elemAt bs t (2 * g * n + j)
    else zeroOf t
  else elemAt bs t (k * n + j)

/-! ### MMA (R250) -/

/-- The exact sum of a granule's products; the sign of a zero sum is plus. -/
def granuleSum (ps : List (FpNum × FpNum)) : FpNum :=
  ps.foldl (fun s p => (exactAdd .rne s (exactMul p.1 p.2).1).1) (.fin false 0 0)

/-- One floating-point element: the accumulator bits, and the flags of every rounding. -/
def mmaFloat (g : Nat) (acc : Nat) (ps : List (FpNum × FpNum)) : Nat × BitVec 5 :=
  ((List.range (ps.length / g)).map (fun i => (ps.drop (i * g)).take g)).foldl (fun a p =>
    let s := finish .f32 .rne 0 false (granuleSum p, 0)
    let r := finish .f32 .rne 0 false (exactAdd .rne (numOf .f32 a.1) (numOf .f32 s.1))
    (r.1, a.2 ||| s.2 ||| (r.2 &&& ~~~fNV))) (acc, 0)

/-- One element of a tile with its flags; a NaN that no input holds sets invalid (R388). -/
def mmaElem (ta tb : ElTy) (c : Nat) (as bs : List Nat) : Nat × BitVec 5 :=
  if ta = .i8 || ta = .n8 then
    (lowBits 32 ((as.zip bs).foldl (fun s p => s + intOf ta p.1 * intOf tb p.2) (toSigned c 32)), 0)
  else
    let ps := (as.map (numOf ta)).zip (bs.map (numOf tb))
    let r := mmaFloat (granule ta) c ps
    let nanIn := (numOf .f32 c).isNan || ps.any (fun p => p.1.isNan || p.2.isNan)
    (r.1, r.2 ||| nvIf ((numOf .f32 r.1).isNan && !nanIn))

/-! ### MMAP (R379, R380) -/

/-- A slot of a microprogram word. -/
def mupSlot (w : Word) (i : Nat) : Nat := bitsOf w (16 * i) 16
def slotV (x : Nat) : Bool := decide (x / 2048 % 2 = 1)

/-- The rules of R379. -/
def mupOk (w : Word) : Bool :=
  let ss := (List.range 4).map (mupSlot w)
  let one (x : Nat) : Bool :=
    if slotV x then
      decide (x / 4096 = 0) && decide (x % 8 < 6) && (decide (x / 8 % 4 = 0) || decide (x / 8 % 4 = 3)) &&
      (decide (x % 8 = 5) || decide (x / 512 % 4 = 0))
    else decide (x = 0)
  slotV (mupSlot w 0) && ss.all one && (List.range 3).all (fun i => slotV (mupSlot w i) || !slotV (mupSlot w (i + 1)))

/-- The values that a slot's operands name: s, a, b, t. -/
structure MupEnv where
  s : Nat
  a : Nat
  b : Nat
  t : Nat
  flags : BitVec 5 := 0

def MupEnv.get (e : MupEnv) (i : Nat) : Nat :=
  match i with
  | 0 => e.s | 1 => e.a | 2 => e.b | _ => e.t

/-- One operation; only the rounding flags are kept. -/
def MupEnv.run (e : MupEnv) (x : Nat) : MupEnv :=
  let p := e.get (x / 32 % 4)
  let q := e.get (x / 128 % 4)
  let r : Nat × BitVec 5 := match x % 8 with
    | 0 => addRne .f32 p q
    | 1 => subRne .f32 p q
    | 2 => mulRne .f32 p q
    | 3 => minMaxNum .f32 false p q
    | 4 => minMaxNum .f32 true p q
    | _ => (if (numOf .f32 q).ltb (numOf .f32 p) then e.get (x / 512 % 4) else e.get (x / 8 % 4), 0)
  let v := if (numOf .f32 r.1).isNan then (fpFmt .f32).nan else r.1
  let e' := { e with flags := e.flags ||| (r.2 &&& ~~~fNV) }
  if x / 8 % 4 = 0 then { e' with s := v } else { e' with t := v }

/-- One element of MMAP. -/
def mmapElem (prog : Word) (ta tb : ElTy) (c : Nat) (as bs : List Nat) : Nat × BitVec 5 :=
  let slots := ((List.range 4).map (mupSlot prog)).filter slotV
  let wide (t : ElTy) (v : Nat) : Nat := (convert t .f32 .rne 0 false v).1
  let e := (as.zip bs).foldl (fun e p =>
    slots.foldl MupEnv.run { e with a := wide ta p.1, b := wide tb p.2, t := 0 }) { s := c, a := 0, b := 0, t := 0 }
  let nanIn := (numOf .f32 c).isNan || as.any (fun v => (numOf ta v).isNan) || bs.any (fun v => (numOf tb v).isNan)
  (e.s, e.flags ||| nvIf ((numOf .f32 e.s).isNan && !nanIn))

/-! ### Whole tiles (R376) -/

/-- Rows in order with their new values. -/
abbrev RowList := List (Nat × RowVal)

/-- The new D rows of a tile: `elem` gives element (i, j) from its C value. -/
def tileRows (row : Nat → RowVal) (w : Word) (elem : Nat → Nat → Nat → Nat × BitVec 5) : RowList × BitVec 5 :=
  let n := tileN w
  (List.range (tileM w)).foldl (fun acc i =>
    let c : Nat → Nat := fun j => if tileCz w then 0 else laneOf (row (tileC w + i)) 32 j
    let rs := (List.range n).map (fun j => elem i j (c j))
    let old := row (tileD w + i)
    let rest := (List.range (64 - n)).map (fun j => laneOf old 32 (n + j))
    (acc.1 ++ [(tileD w + i, BitVec.ofNat 2048 (packLanes 32 (rs.map Prod.fst ++ rest)))],
     rs.foldl (fun f r => f ||| r.2) acc.2)) ([], 0)

/-- D of MMA, MMAG or MMAP from the bytes of A (rows packed one after another) and of B. -/
def tileResult (row : Nat → RowVal) (w : Word) (ta tb : ElTy) (a b : List Byte) (elem : Nat → List Nat → List Nat → Nat × BitVec 5) :
    RowList × BitVec 5 :=
  let k := tileK w
  let rb := packBytes ta k
  let cols := (List.range (tileN w)).map (fun j => (List.range k).map (fun q => bElem b tb w q j))
  let rows := (List.range (tileM w)).map (fun i => (List.range k).map (fun q => elemAt (a.drop (i * rb)) ta q))
  tileRows row w (fun i j c => elem c (rows.getD i []) (cols.getD j []))

/-! ### Row commands (R381) -/

/-- MTR: the transposed block. -/
def mtrRows (row : Nat → RowVal) (w : Word) : RowList :=
  let n := 16 * (bitsOf w 14 2 + 1)
  (List.range n).map (fun j =>
    let old := row (bitsOf w 7 7 + j)
    let ls := (List.range 64).map (fun i => if i < n then laneOf (row (bitsOf w 0 7 + i)) 32 j else laneOf old 32 i)
    (bitsOf w 7 7 + j, BitVec.ofNat 2048 (packLanes 32 ls)))

/-- MSACC: the scale rule of R253 on a tile. -/
def msaccRows (row : Nat → RowVal) (w : Word) : RowList :=
  let m := 16 * (bitsOf w 21 2 + 1)
  let n := 16 * (bitsOf w 23 2 + 1)
  let x := row (bitsOf w 14 7)
  let t : ElTy := if w.getLsbD 25 then .i32 else .f32
  (List.range m).map (fun i =>
    let d := row (bitsOf w 0 7 + i)
    let s := row (bitsOf w 7 7 + i)
    let ls := (List.range 64).map (fun j =>
      if j < n then
        (finish .f32 .rne 0 false (scaleSum .rne (numOf .f32 (laneOf d 32 j)) (numOf t (laneOf s 32 j)) (laneOf x 8 i) (laneOf x 8 (64 + j)))).1
      else laneOf d 32 j)
    (bitsOf w 0 7 + i, BitVec.ofNat 2048 (packLanes 32 ls)))

/-! ### Moved rows (R382) -/

def moveRow (w : Word) : Nat := bitsOf w 0 7
def moveRows (w : Word) : Nat := bitsOf w 8 8
def moveCols (w : Word) : Nat := bitsOf w 16 7

/-- A row's elements converted for memory, packed, with the flags. -/
def storeRow (rt mt : ElTy) (rm : RndF) (seed : BitVec 32) (sat : Bool) (cols : Nat) (r : RowVal) : List Byte × BitVec 5 :=
  let rs := (List.range cols).map (fun j => convert rt mt rm (laneSeed seed j) sat (laneOf r 32 j))
  (leBytes (packBytes mt cols) (packLanes mt.bits (rs.map Prod.fst)), rs.foldl (fun f r => f ||| r.2) 0)

/-- A row with its first elements loaded from packed bytes. -/
def loadRow (mt rt : ElTy) (rm : RndF) (seed : BitVec 32) (sat : Bool) (cols : Nat) (bs : List Byte) (old : RowVal) : RowVal × BitVec 5 :=
  let rs := (List.range cols).map (fun j => convert mt rt rm (laneSeed seed j) sat (elemAt bs mt j))
  let rest := (List.range (64 - cols)).map (fun j => laneOf old 32 (cols + j))
  (BitVec.ofNat 2048 (packLanes 32 (rs.map Prod.fst ++ rest)), rs.foldl (fun f r => f ||| r.2) 0)

end Sys2Proof.Machine
end

