-- ==== Sys2Proof/Machine/Matrix.lean ====
section
/-! DEFINITION. The matrix instructions (16_matrix.md) and the events of the octet's matrix unit: the checks at issue, the port's
queue, the meeting of MMAG, the grant of R85, completion, the status word. -/

namespace Sys2Proof.Machine

/-! ### The port (R368 to R370, R386, R387) -/

/-- The command enters the queue with its claim on rows; it is ordered after the context's accesses (R161, R167). -/
def State.enterPort (s : State) (n : Nat) (cmd : MCmd) (rd wr : BitVec 128) : State :=
  let c := s.core n
  let st := c.mstat
  let cmd' := { cmd with seq := st.accepted + 1, after := cmd.after ++ s.ctxAccesses n cmd.ctx }
  s.setCore n ({ c with mq := c.mq ++ [cmd'], mstat := { st with accepted := st.accepted + 1 } }.claim cmd.id rd wr)

/-- The port has room: without it a context is not ready, and makes no check (R98, R114, R369). -/
def matrixRoom : Sem Unit := fun s => if s.me.mq.length ≥ 2 then .error (.wait id) else .ok ((), s)

/-- Issue of a command that names rows rd and wr. -/
def enterMatrix (mk : Nat → MCmd) (rd wr : BitVec 128) : Sem Nat := do
  let id ← freshId
  modS (fun s => s.enterPort s.cur.1 (mk id) rd wr)
  pure id

/-- The matrix status word (R387). -/
def Core.mstatWord (c : Core) : Word :=
  let t := c.mstat
  let busy := !c.mq.isEmpty || c.mrun.isSome
  BitVec.ofNat 64 (t.fseq.toNat * 2 ^ 48 + t.done.toNat * 2 ^ 32 + t.flags.toNat * 2 ^ 16 + t.cause.toNat * 2 ^ 8 +
    (if t.faulted then 4 else 0) + (if busy then 1 else 0))

/-! ### Checks (R373, R375, R383) -/

/-- A descriptor of MMA, MMAG or MMAP: check 1. -/
def tileOk (w : Word) (ta : ElTy) (granules : Bool) : Bool :=
  let k := tileK w
  decide (bitsOf w 44 20 = 0) && decide (1 ≤ k) && decide (k ≤ 4096) && (!granules || decide (k % granule ta = 0)) &&
  decide (tileD w + tileM w ≤ 128) && (if tileCz w then decide (tileC w = 0) else decide (tileC w + tileM w ≤ 128))

/-- The pitch that IMM32 gives, 0 standing for packed rows. -/
def pitchOf (m : Mods) (packed : Nat) : Nat := if m.imm32 = 0 then packed else m.imm32.toNat

/-- Whether a range lies in its local window's extent, or the cause where it does not. -/
def State.localRange (s : State) (n a sz : Nat) : Option (BitVec 8) :=
  if a < 2 ^ 56 then none
  else match s.classify n a sz with
    | .ok _ => none
    | .error c => if (winOf a).isSome && c = 0x11 then some 0x15 else some c

/-- Checks 1 to 6 of R373: the address of A as the unit reads it, and its pitch. -/
def tileChecks (i : Instr) (m : Mods) (w a : Word) (granules : Bool) : Sem (Word × Nat) := do
  let s ← getS
  let n := s.cur.1
  let e := encOf i m
  let need := packBytes m.ty (tileK w)
  let p := pitchOf m need
  check (tileOk w m.ty granules) 0x62 e
  check (granules || s.me.mupIssued) 0x63 e
  check (decide (tileWoff w * 64 + bBytes w m.bTy ≤ 131072)) 0x64 (BitVec.ofNat 64 (tileWoff w * 64))
  let win := (winOf a.toNat).map Prod.fst
  check (win = some 0 || win = some 1 || win = some 3) 0x11 a
  check (decide (need ≤ p)) 0x62 e
  let sz := (tileM w - 1) * p + need
  if win = some 3 then
    if !s.rangeReady n a.toNat sz then notYet
    else match s.roseRange n a.toNat sz false with
    | .error c => raise c a
    | .ok r => pure (r.getD a, p)
  else
    match s.localRange n a.toNat sz with
    | some c => raise c a
    | none => pure (a, p)

/-- The rows that a tile reads and writes. -/
def tileClaim (w : Word) : BitVec 128 × BitVec 128 :=
  (if tileCz w then 0 else rowSet (tileC w) (tileM w), rowSet (tileD w) (tileM w))

/-- MMA and MMAP at issue. -/
def tileIssue (i : Instr) (d a : Opnd) (m : Mods) (s : State) (granules : Bool) : Host.Outcome State Fault Refusal :=
  runInstr i m s (fun _ => do
    matrixRoom
    let x ← src a m
    let w ← src d m
    let (ad, p) ← tileChecks i m w x granules
    let s ← getS
    let (rd, wr) := tileClaim w
    let _ ← enterMatrix (fun id => { id := id, ctx := s.cur.2, instr := i, word := w, addr := ad, pitch := p
                                     aFrom := (s.cur.1, ad, p), bFrom := (s.cur.1, w) }) rd wr
    pure ())

/-- MMA (R376). -/
def execMma (d a : Opnd) (m : Mods) (s : State) : Host.Outcome State Fault Refusal := tileIssue (.mma d a m) d a m s true

/-- MMAP (R380). -/
def execMmap (d a : Opnd) (m : Mods) (s : State) : Host.Outcome State Fault Refusal := tileIssue (.mmap d a m) d a m s false

/-- MWLD (R375). -/
def execMwld (d a : Opnd) (m : Mods) (s : State) : Host.Outcome State Fault Refusal :=
  runInstr (.mwld d a m) m s (fun _ => do
    matrixRoom
    let x ← src a m
    let w ← src d m
    let s ← getS
    let cnt := bitsOf w 11 12
    check (decide (bitsOf w 23 41 = 0) && decide (1 ≤ cnt)) 0x62 (encOf (.mwld d a m) m)
    check (decide (bitsOf w 0 11 + cnt ≤ 2048)) 0x64 (BitVec.ofNat 64 (bitsOf w 0 11 * 64))
    let win := (winOf x.toNat).map Prod.fst
    check (!(win = some 3 || win = some 4 || win = some 5)) 0x11 x
    match s.localRange s.cur.1 x.toNat (cnt * 64) with
    | some c => raise c x
    | none => do
      let _ ← enterMatrix (fun id => { id := id, ctx := s.cur.2, instr := .mwld d a m, word := w, addr := x }) 0 0
      pure ())

/-- MUPL (R379). -/
def execMupl (d : Opnd) (m : Mods) (s : State) : Host.Outcome State Fault Refusal :=
  runInstr (.mupl d m) m s (fun _ => do
    matrixRoom
    let w ← src d m
    check (mupOk w) 0x63 (encOf (.mupl d m) m)
    let s ← getS
    let _ ← enterMatrix (fun id => { id := id, ctx := s.cur.2, instr := .mupl d m, word := w }) 0 0
    modMe (fun c => { c with mupIssued := true }))

/-- MZERO (R381). -/
def execMzero (d : Opnd) (m : Mods) (s : State) : Host.Outcome State Fault Refusal :=
  runInstr (.mzero d m) m s (fun _ => do
    matrixRoom
    let w ← src d m
    let r := bitsOf w 0 7
    let k := bitsOf w 8 8
    check (decide (bitsOf w 7 1 = 0) && decide (bitsOf w 16 48 = 0) && decide (1 ≤ k) && decide (k ≤ 128) && decide (r + k ≤ 128))
      0x62 (encOf (.mzero d m) m)
    let s ← getS
    let _ ← enterMatrix (fun id => { id := id, ctx := s.cur.2, instr := .mzero d m, word := w }) 0 (rowSet r k)
    pure ())

/-- MTR (R381). -/
def execMtr (d : Opnd) (m : Mods) (s : State) : Host.Outcome State Fault Refusal :=
  runInstr (.mtr d m) m s (fun _ => do
    matrixRoom
    let w ← src d m
    let k := 16 * (bitsOf w 14 2 + 1)
    check (decide (bitsOf w 16 48 = 0) && decide (bitsOf w 0 7 + k ≤ 128) && decide (bitsOf w 7 7 + k ≤ 128)) 0x62 (encOf (.mtr d m) m)
    let s ← getS
    let _ ← enterMatrix (fun id => { id := id, ctx := s.cur.2, instr := .mtr d m, word := w })
      (rowSet (bitsOf w 0 7) k) (rowSet (bitsOf w 7 7) k)
    pure ())

/-- MSACC (R253, R381). -/
def execMsacc (d : Opnd) (m : Mods) (s : State) : Host.Outcome State Fault Refusal :=
  runInstr (.msacc d m) m s (fun _ => do
    matrixRoom
    let w ← src d m
    let k := 16 * (bitsOf w 21 2 + 1)
    check (decide (bitsOf w 26 38 = 0) && decide (bitsOf w 0 7 + k ≤ 128) && decide (bitsOf w 7 7 + k ≤ 128)) 0x62 (encOf (.msacc d m) m)
    let s ← getS
    let _ ← enterMatrix (fun id => { id := id, ctx := s.cur.2, instr := .msacc d m, word := w })
      (rowSet (bitsOf w 7 7) k ||| rowSet (bitsOf w 14 7) 1 ||| rowSet (bitsOf w 0 7) k) (rowSet (bitsOf w 0 7) k)
    pure ())

/-- MST and MLD at issue (R382, R383). -/
def moveIssue (i : Instr) (d a : Opnd) (m : Mods) (s : State) (mt : ElTy) (store : Bool) : Host.Outcome State Fault Refusal :=
  runInstr i m s (fun _ => do
    matrixRoom
    let x ← src a m
    let w ← src d m
    let s ← getS
    let e := encOf i m
    let cols := moveCols w
    let rows := moveRows w
    let need := packBytes mt cols
    let p := pitchOf m need
    check (decide (bitsOf w 23 41 = 0) && decide (bitsOf w 7 1 = 0) && decide (1 ≤ rows) && decide (rows ≤ 128) && decide (1 ≤ cols) &&
      decide (cols ≤ 64) && decide (moveRow w + rows ≤ 128) && !(mt = .e2m1 && cols % 2 = 1) && decide (need ≤ p)) 0x62 e
    let win := (winOf x.toNat).map Prod.fst
    check (!(win = some 3 || win = some 4 || win = some 5)) 0x11 x
    match s.localRange s.cur.1 x.toNat ((rows - 1) * p + need) with
    | some c => raise c x
    | none => do
      check (!(store && decide (x.toNat < 2 ^ 56) && s.checkpointed s.cur.1)) 0x11 x
      let k ← getMy
      let mode := modeOf m.rnd k.fpsr
      let set := rowSet (moveRow w) rows
      let _ ← enterMatrix (fun id => { id := id, ctx := s.cur.2, instr := i, word := w, addr := x, pitch := p, rm := mode, seed := k.seed })
        (if store then set else 0) (if store then 0 else set)
      modMy (fun k => { k with seed := if mode = .sr && m.modTy ≠ .d8 then xorshift k.seed else k.seed }))

/-- MST (R382). -/
def execMst (d a : Opnd) (m : Mods) (s : State) : Host.Outcome State Fault Refusal := moveIssue (.mst d a m) d a m s m.modTy true

/-- MLD (R382). -/
def execMld (d a : Opnd) (m : Mods) (s : State) : Host.Outcome State Fault Refusal := moveIssue (.mld d a m) d a m s m.ty false

/-- MFENCE (R384): the context is not ready until it completes. -/
def execMfence (m : Mods) (s : State) : Host.Outcome State Fault Refusal :=
  runInstr (.mfence m) m s (fun _ => do
    matrixRoom
    let s ← getS
    let id ← enterMatrix (fun id => { id := id, ctx := s.cur.2, instr := .mfence m, after := s.unacked s.cur.1 }) 0 0
    blockOn [id])

/-- MSTAT (R385). -/
def execMstatMatrix (d : Opnd) (m : Mods) (s : State) : Host.Outcome State Fault Refusal :=
  runInstr (.mstatMatrix d m) m s (fun _ => do
    let c ← getMe
    modMe (fun c => { c with mstat := { c.mstat with faulted := false, cause := 0, fseq := 0, flags := 0 } })
    dst d c.mstatWord)

/-! ### MMAG (R377, R378) -/

/-- A control context that waits in an MMAG over the rectangle. -/
def Ctx.atMeeting (k : Ctx) (rect : Word) : Bool :=
  k.wait.any (fun v => v.on = .meeting && v.arrived) && k.meet.any (fun c => c.rect = rect)

/-- The rectangle's control contexts that are halted and have not reached their MMAG: the meeting is withheld from those that wait. -/
def State.meetWithheld (s : State) (rect : Word) (arrived : Bool) : Option Upstream :=
  (s.withholder (((rectOfWord rect).cores.filter (fun k => !(s.ctx k 0).atMeeting rect)).map (fun k => (k, 0)))).map
    (fun u => ⟨10, rect.toNat % 2 ^ 16, arrived, some u⟩)

/-- MMAG (R377). -/
def execMmag (d a c : Opnd) (m : Mods) (s : State) : Host.Outcome State Fault Refusal :=
  runInstr (.mmag d a c m) m s (fun _ => do
    let x ← src a m
    let rw ← src c m
    let w ← src d m
    let s ← getS
    let n := s.cur.1
    let e := encOf (.mmag d a c m) m
    if s.my.atMeeting rw then
      if s.my.answer.isSome then modMy (fun k => { k with answer := none, meet := none })
      else waitFor .meeting 0 (s.meetWithheld rw true)
    else do
      check (decide (s.cur.2 = 0)) 0x62 e
      let (ad, p) ← tileChecks (.mmag d a c m) m w x true
      let r := rectOfWord rw
      check (r.aligned && decide (bitsOf rw 16 48 = 0) && (match s.me.gang with | some g => r.within g.rect | none => false) && r.has n &&
        decide (r.lw ≤ 3) && decide (r.lh ≤ 3)) 0x62 e
      match (if s.noSpread n then none else s.meetWithheld rw false) with
      | some u => fun _ => .error (.withheld u)
      | none => blocked (fun s => s.setMy { s.my with
          wait := some { on := .meeting, arrived := true }, answer := none
          meet := some { id := 0, ctx := 0, instr := .mmag d a c m, word := w, addr := ad, pitch := p, rect := rw } }))

/-- TYPE and MOD of a participant's command. -/
def MCmd.types (c : MCmd) : ElTy × BitVec 8 := match c.instr.mods? with | some m => (m.ty, m.mod) | none => (.f32, 0)

/-- What the participants of a meeting must have in common (R378). -/
def MCmd.shape (c : MCmd) : Nat × Nat × Nat × Bool × ElTy × BitVec 8 :=
  (tileM c.word, tileN c.word, tileK c.word, tileSp c.word, c.types.1, c.types.2)

/-- The command that waits in the control context of a core for a meeting over a rectangle. -/
def State.meetCmd (s : State) (rect : Word) (n : Nat) : Option MCmd :=
  let k := s.ctx n 0
  match k.meet with
  | some c => if k.st = .live && !k.paused && k.answer.isNone && k.wait.any (fun v => v.on = .meeting && v.arrived) && c.rect = rect &&
      decide ((s.core n).mq.length < 2) then some c else none
  | none => none

/-- MMAG_MEETING (R377): every core of the rectangle waits with room, and every command enters its queue. -/
def execMmagMeeting (n : Nat) (s : State) : Host.Outcome State Fault Refusal :=
  runEvent s (fun s =>
    match (s.ctx n 0).meet with
    | none => none
    | some mine =>
      let r := rectOfWord mine.rect
      let cmds := r.cores.map (fun k => (k, s.meetCmd mine.rect k))
      if cmds.any (fun p => p.2.isNone) then none
      else
        let get (k : Nat) : MCmd := ((cmds.find? (fun p => p.1 = k)).bind Prod.snd).getD mine
        let bad := cmds.any (fun p => (get p.1).shape ≠ mine.shape)
        let (meet, s1) := s.newId
        some (r.cores.foldl (fun s k =>
          let (id, s') := s.newId
          let aCore := coreAt r.x0 (coreY k)
          let bCore := coreAt (coreX k) r.y0
          let c := get k
          let (rd, wr) := tileClaim c.word
          let cmd := { c with id := id, meet := meet, bad := bad, aFrom := (aCore, (get aCore).addr, (get aCore).pitch)
                              bFrom := (bCore, (get bCore).word) }
          let s2 := s'.enterPort k cmd rd wr
          s2.setCtx k 0 { s2.ctx k 0 with answer := some (0, 0) }) s1))

/-! ### The unit (R85, R118, R370, R378) -/

/-- No command that entered a port before the one of a meeting is unfinished. -/
def Core.portClear (c : Core) (meet : Nat) : Bool :=
  let l := c.mrun.toList ++ c.mq
  !l.any (fun k => k.meet = meet) || (l.head?.map MCmd.meet = some meet)

/-- The bytes that a command reads or writes in another core's window can be reached now (R179). -/
def State.mReach (s : State) (n : Nat) (k : MCmd) : Bool :=
  let rows (m : Nat) (a : Word) (cnt pitch need : Nat) : Bool := s.rangeReady m a.toNat ((cnt - 1) * pitch + need)
  match k.instr with
  | .mma _ _ m | .mmap _ _ m => rows n k.addr (tileM k.word) k.pitch (packBytes m.ty (tileK k.word))
  | .mmag _ _ _ m =>
    rows k.aFrom.1 k.aFrom.2.1 (tileM k.word) k.aFrom.2.2 (packBytes m.ty (tileK k.word)) &&
    !s.linkBusy k.aFrom.1 n && !s.linkBusy k.bFrom.1 n
  | .mwld _ _ _ => rows n k.addr 1 0 (bitsOf k.word 11 12 * 64)
  | .mst _ _ m => rows n k.addr (moveRows k.word) k.pitch (packBytes m.modTy (moveCols k.word))
  | .mld _ _ m => rows n k.addr (moveRows k.word) k.pitch (packBytes m.ty (moveCols k.word))
  | _ => true

/-- The head command of a core may start. -/
def State.mStartable (s : State) (n : Nat) : Bool :=
  let c := s.core n
  match c.mq with
  | k :: _ =>
    c.gang.isSome && c.mrun.isNone && c.rowsFree k.id && k.after.isEmpty && s.mReach n k &&
    (k.meet = 0 || ((s.core k.aFrom.1).portClear k.meet && (s.core k.bFrom.1).portClear k.meet))
  | [] => false

/-- The arbiter weight of a core (R85).  The CHR_WCAP that caps a core of a spanning gang is its own partition's, whose arbiter grants it
(log entry 92). -/
def State.mWeight (s : State) (n : Nat) : Nat :=
  match (s.core n).gang with
  | none => 1
  | some g =>
    let mxw := s.tcbF g.part g.tcb 0 22 4
    let cap := s.regF (Pf.chr (partOf n) 0x20) 0 4
    min (if mxw = 0 then 4 else mxw) (max 1 cap)

/-- The core that the rotation grants next: position and grants used, at most a turn and one more step. -/
def State.mRotate (s : State) (o : Nat) : Nat → Nat → Nat → Option (Nat × Nat)
  | 0, _, _ => none
  | fuel + 1, pos, used =>
    let n := octetCore o pos
    if s.mStartable n && decide (used < s.mWeight n) then some (pos, used)
    else mRotate s o fuel ((pos + 1) % 8) 0

/-- Rows of bytes read one after another; stops at the first that faults. -/
def State.readRows (s : State) (n a pitch need : Nat) : Nat → (List Byte × Option (BitVec 8)) × State
  | 0 => (([], none), s)
  | k + 1 =>
    match readRows s n a pitch need k with
    | ((bs, some c), t) => ((bs, some c), t)
    | ((bs, none), t) =>
      match t.engRead n (a + k * pitch) need with
      | ((b, c), t') => ((bs ++ b, c), t')

/-- What a command reads from memory and from the weight slices as it starts (R390). -/
def State.mFetch (s : State) (n : Nat) (k : MCmd) : MCmd × State :=
  let tile (m : Mods) : MCmd × State :=
    let ((a, c), s1) := s.readRows k.aFrom.1 k.aFrom.2.1.toNat k.aFrom.2.2 (packBytes m.ty (tileK k.word)) (tileM k.word)
    let b := (s.core k.bFrom.1).wts.bytes (tileWoff k.bFrom.2 * 64) (bFetch k.bFrom.2 m.bTy)
    ({ k with data := a, bdata := b, fault := c }, s1)
  match k.instr with
  | .mma _ _ m => tile m
  | .mmag _ _ _ m => if k.bad then ({ k with fault := some 0x62 }, s) else tile m
  | .mmap _ _ m => tile m
  | .mwld _ _ _ =>
    let ((a, c), s1) := s.engRead n k.addr.toNat (bitsOf k.word 11 12 * 64)
    ({ k with data := a, fault := c }, s1)
  | .mld _ _ m =>
    let ((a, c), s1) := s.readRows n k.addr.toNat k.pitch (packBytes m.ty (moveCols k.word)) (moveRows k.word)
    ({ k with data := a, fault := c }, s1)
  | _ => (k, s)

/-- MATRIX_GRANT (R85, R118): the unit takes the next command by the weighted rotation and starts it. -/
def execMatrixGrant (o : Nat) (s : State) : Host.Outcome State Fault Refusal :=
  runEvent s (fun s =>
    let u := s.octet o
    if u.matrix.isSome then none
    else match s.mRotate o 9 u.arb u.used with
      | none => none
      | some (pos, used) =>
        let n := octetCore o pos
        let s1 := s.setOctet o { u with arb := pos, used := used + 1, matrix := some n }
        match (s1.core n).mq with
        | k :: rest =>
          let (k', s2) := s1.mFetch n k
          some (s2.setCore n { s2.core n with mq := rest, mrun := some k' })
        | [] => none)

/-- What a command leaves: its rows, its flags, its fault, and the state (weight slice, microprogram, memory). -/
structure MRes where
  rows : RowList := []
  flags : BitVec 5 := 0
  fault : Option (BitVec 8) := none
  s : State

/-- Rows stored one after another; stops at the first that faults. -/
def State.storeRows (s : State) (n a pitch : Nat) (rows : List (List Byte)) : Option (BitVec 8) × State :=
  (rows.zipIdx.foldl (fun acc p =>
    match acc with
    | (some c, t) => (some c, t)
    | (none, t) => match t.engWrite n (a + p.2 * pitch) p.1 with | ((_, c), t') => (c, t')) (none, s))

/-- A command's effect. -/
def State.mRun (s : State) (n : Nat) (k : MCmd) : MRes :=
  let c := s.core n
  let w := k.word
  let tile (m : Mods) (elem : Nat → List Nat → List Nat → Nat × BitVec 5) : MRes :=
    match k.fault with
    | some f => { s := s, fault := some f }
    | none =>
      let r := tileResult c.row w m.ty m.bTy k.data k.bdata elem
      { s := s, rows := r.1, flags := r.2 }
  match k.instr with
  | .mma _ _ m => tile m (mmaElem m.ty m.bTy)
  | .mmag _ _ _ m => tile m (mmaElem m.ty m.bTy)
  | .mmap _ _ m => tile m (mmapElem c.mup m.ty m.bTy)
  | .mwld _ _ _ =>
    let bs := k.data.take (k.data.length / 64 * 64)
    { s := s.setCore n { c with wts := c.wts.setBytes (bitsOf w 0 11 * 64) bs }, fault := k.fault }
  | .mupl _ _ => { s := s.setCore n { c with mup := w } }
  | .mzero _ _ => { s := s, rows := (List.range (bitsOf w 8 8)).map (fun i => (bitsOf w 0 7 + i, 0)) }
  | .mtr _ _ => { s := s, rows := mtrRows c.row w }
  | .msacc _ _ => { s := s, rows := msaccRows c.row w }
  | .mst _ _ m =>
    let rs := (List.range (moveRows w)).map (fun r => storeRow m.ty m.modTy k.rm k.seed m.sat (moveCols w) (c.row (moveRow w + r)))
    let (f, t) := s.storeRows n k.addr.toNat k.pitch (rs.map Prod.fst)
    let t' := (t.drain n).drainUo n
    let ids := t'.unacked n
    { s := t'.setCore n { t'.core n with mq := (t'.core n).mq.map (fun q => match q.instr with
        | .mfence _ => { q with after := q.after ++ ids } | _ => q) }
      fault := f, flags := rs.foldl (fun f r => f ||| r.2) 0 }
  | .mld _ _ m =>
    match k.fault with
    | some f => { s := s, fault := some f }
    | none =>
      let rb := packBytes m.ty (moveCols w)
      let rs := (List.range (moveRows w)).map (fun r =>
        (moveRow w + r, loadRow m.ty m.modTy k.rm k.seed m.sat (moveCols w) ((k.data.drop (r * rb)).take rb) (c.row (moveRow w + r))))
      { s := s, rows := rs.map (fun p => (p.1, p.2.1)), flags := rs.foldl (fun f r => f ||| r.2.2) 0 }
  | _ => { s := s }

/-- The unit is free: a core with no command that can start loses the rest of its w, and the arbiter moves on (R85). -/
def State.unitFree (s : State) (o : Nat) : State :=
  let u := s.octet o
  if s.mStartable (octetCore o u.arb) then s.setOctet o { u with matrix := none }
  else s.setOctet o { u with matrix := none, arb := (u.arb + 1) % 8, used := 0 }

/-- MATRIX_COMMAND_COMPLETE (R370): rows, flags and status; with FAULTED standing a command only releases its rows. -/
def execMatrixCommandComplete (n : Nat) (s : State) : Host.Outcome State Fault Refusal :=
  runEvent s (fun s =>
    match (s.core n).mrun with
    | none => none
    | some k =>
      let r : MRes := if (s.core n).mstat.faulted then { s := s } else s.mRun n k
      let c := (r.s.core n).unclaim k.id
      let c1 := r.rows.foldl (fun c p => c.setRow p.1 p.2) c
      let t := c1.mstat
      let t1 := { t with done := t.done + 1, flags := t.flags ||| r.flags }
      let t2 := match r.fault with
        | some f => { t1 with faulted := true, cause := f, fseq := k.seq }
        | none => t1
      let o := octetOf n
      let s1 := r.s.setCore n { c1 with mrun := none, mstat := t2 }
      let s2 := if (s1.octet o).matrix = some n then s1.unitFree o else s1
      let s3 := match r.fault with | some f => s2.engineEvent n 0x80 f | none => s2
      some (s3.retire k.id))

end Sys2Proof.Machine
end

