-- ==== Sys2Proof/Machine/Fetch.lean ====
section
/-! DEFINITION. Fetching an instruction's bytes: the buffer of one 64-byte block (R155) and where instructions may lie (R156). -/

namespace Sys2Proof.Machine

/-- A line that has been fetched from is of an X page. -/
def Core.l1SetX (c : Core) (b : Nat) : Core := { c with l1 := c.l1.map (fun l => if l.pa = b then { l with x := true } else l) }

/-- The line of translated memory that holds an address, through the L1 but for a page of kind SO (R133, R155); none where HBM is to
deliver it and cannot (R142, check 7). -/
def State.fetchLine (s : State) (n : Nat) (t : TlbEnt) (va : Nat) : Option (Line × State) :=
  let b := lineBase (t.phys va)
  let key := (s.keyOf t).getD 0
  if t.kind = .so then (if s.eccBad b 64 then none else some (s.viewFor n b (s.keyOf t), s.l2Fill b (s.keyOf t)))
  else match l1Find (s.core n).l1 b with
    | some l =>
      if l.valid = BitVec.allOnes 64 then some (l.data, s.setCore n (((s.core n).l1Touch b).l1SetX b))
      else if s.eccBad b 64 then none
      else some (s.lineThrough n b key, s.l1Fill n b key t.kind true)
    | none => if s.eccBad b 64 then none else some (s.lineThrough n b key, s.l1Fill n b key t.kind true)

/-- A refill is a read of its block, and comes after what the context has stored there (R171; R163, coherence). -/
def refillAfter (l : Loc) : Sem Unit := fun s =>
  if s.flight.any (fun a => a.core = s.cur.1 && a.ctx = s.cur.2 && a.op.stores && !a.performed && a.locs.any (fun p => locsMeet p (l, 64))) then
    .error (.wait id)
  else .ok ((), s)

/-- The aligned 64-byte block that holds the word at an address. -/
def fetchBlock (a : Word) : Sem Line := do
  let s ← getS
  match s.classify s.cur.1 a.toNat 4 with
  | .error c => raise c a
  | .ok (.own off) => do
    refillAfter (.scr s.cur.1 (lineBase off))
    pure (BitVec.ofNat 512 (← ownRead (lineBase off) 64))
  | .ok (.die d off) => do
    refillAfter (.die d (lineBase off))
    pure ((s.die d).scr.line off)
  | .ok (.global va) => do
    let t ← xlate va 4 .x a
    refillAfter (.hbm (lineBase (t.phys va)) 0 t.kind t.x)
    fun s => match s.fetchLine s.cur.1 t va with
      | some r => .ok r
      | none => .error (.raise 0x14 a)
  | .ok _ => raise 0x11 a

/-- The buffer, refilled when the PC has left its block. -/
def fetchHead (a : Word) : Sem Line := do
  let k ← getMy
  match k.fbuf with
  | some (b, l) => if b = a.toNat / 64 then pure l else do
      let l ← fetchBlock a
      modMy (fun k => { k with fbuf := some (a.toNat / 64, l) })
      pure l
  | none => do
    let l ← fetchBlock a
    modMy (fun k => { k with fbuf := some (a.toNat / 64, l) })
    pure l

/-- The word at an address of a block. -/
def wordIn (l : Line) (a : Word) : BitVec 32 := l.extractLsb' (8 * (a.toNat % 64)) 32

/-- The words that follow the first: those of its own block come from the buffer. -/
def fetchRest (l : Line) (first : Word) (a : Word) : Nat → Sem (List (BitVec 32))
  | 0 => pure []
  | k + 1 => do
    let w ← if a.toNat / 64 = first.toNat / 64 then pure (wordIn l a) else do pure (wordIn (← fetchBlock a) a)
    pure (w :: (← fetchRest l first (a + 4) k))

/-- The words of the instruction at the running context's PC.  An instruction lies at a multiple of 4. -/
def fetch : Sem (List (BitVec 32)) := do
  let a := (← getMy).pc
  check (a.extractLsb' 0 2 = 0#2) 0x05 a
  let l ← fetchHead a
  let w := wordIn l a
  pure (w :: (← fetchRest l a (a + 4) (lengthOf w - 1)))

/-- The instruction that a context has before it, with the state after the fetch; a word sequence that is none is the illegal
encoding with its cause and the FADDR of column E (R273, R215). -/
def fetchInstr : Sem Instr := do
  let ws ← fetch
  match decodeWords ws with
  | .ok (i, _) => pure i
  | .error (.encoding c) => pure (.illegalEncoding c (Raw.ofWords (ws.headD 0) ws.tail).encFaddr)
  | .error .tooShort => notYet

/-- ILLEGAL_ENCODING (R273): its cause is raised whatever the guard says (R264). -/
def execIllegalEncoding (cause : BitVec 8) (enc : BitVec 64) (s : State) : Host.Outcome State Fault Refusal :=
  if s.my.pend ≠ [] then .next s else .next (s.raiseIn s.cur.1 s.cur.2 cause enc s.my.pc 1)

end Sys2Proof.Machine
end

