-- ==== Sys2Proof/Machine/Debug.lean ====
section
/-! DEFINITION. The comparators of a core (R218 to R221): what an instruction touches, which breakpoints and watchpoints match, and
what a match does. -/

namespace Sys2Proof.Machine

/-! ### What an instruction touches (R220) -/

/-- An access by address. -/
structure Touch where
  addr : Nat
  bytes : Nat
  rd : Bool
  wr : Bool
deriving DecidableEq, Repr

/-- The value of a source operand of the running context's instruction, before it runs or as it was read when it issued. -/
def State.peek (s : State) (o : Opnd) (m : Mods) : Word :=
  match s.my.doing with
  | some i => ((((fieldsOf i).filter (fun p => readsField p.2)).zip s.my.held).find? (fun p => p.1.1 = o)).elim 0 Prod.snd
  | none =>
    match src o m .int s with
    | .ok (v, _) => v
    | .error _ => 0

def rdAt (a : Word) (n : Nat) : Touch := ⟨a.toNat, n, true, false⟩
def wrAt (a : Word) (n : Nat) : Touch := ⟨a.toNat, n, false, true⟩
def rwAt (a : Word) (n : Nat) : Touch := ⟨a.toNat, n, true, true⟩

/-- The lanes of a vector load or store. -/
def State.laneTouches (s : State) (m : Mods) (addr : Nat → Word) (store : Bool) : List Touch :=
  ((List.range (laneCount m.ty)).filter (laneActive (s.me.maskRow m))).map (fun j =>
    ⟨(addr j).toNat, max 1 (m.ty.bits / 8), !store, store⟩)

/-- The lines of a cache operation; CZERO and CDISC count as writes, and the others are taken as reads. -/
def State.lineTouches (s : State) (a c : Opnd) (m : Mods) (wr : Bool) : List Touch :=
  let n := if m.len.ext then (s.peek c m).toNat else 1
  (linesOf (s.peek a m).toNat n).map (fun l => ⟨l, 64, !wr, wr⟩)

/-- The memory accesses of the running context's instruction, by address. -/
def State.touches (s : State) : Instr → List Touch
  | .ld _ a z i m => [rdAt (s.peek a m + dispOf i z m) (Sz.bytes z)]
  | .lda _ a z i _ m => [rdAt (s.peek a m + dispOf i z m) (Sz.bytes z)]
  | .st _ a z i m => [wrAt (s.peek a m + dispOf i z m) (Sz.bytes z)]
  | .stl _ a z i _ m => [wrAt (s.peek a m + dispOf i z m) (Sz.bytes z)]
  | .ldx f _ a b m => [rdAt (s.peek a m + s.peek b m) (Sz.bytes f)]
  | .stx f _ a b m => [wrAt (s.peek a m + s.peek b m) (Sz.bytes f)]
  | .enter _ m => [wrAt (s.peek sp m - 8) 8, wrAt (s.peek sp m - 16) 8]
  | .leave m => [rdAt (s.peek fp m) 8, rdAt (s.peek fp m + 8) 8]
  | .waita f _ a _ _ m => [rdAt (s.peek a m) (Sz.bytes f)]
  | .aadd _ a _ m | .aand _ a _ m | .aor _ a _ m | .axor _ a _ m | .amin _ a _ m | .amax _ a _ m | .aswp _ a _ m
  | .afadd _ a _ m | .acas _ a _ _ m => [rwAt (s.peek a m) (m.ty.bits / 8)]
  | .pref a c m | .cwb a c m | .cinv a c m => s.lineTouches a c m false
  | .cdisc a c m | .czero a c m => s.lineTouches a c m true
  | .vld _ c m => s.laneTouches m (laneAt m.ty (vmBase (s.peek c m) m)) false
  | .vst _ c m => s.laneTouches m (laneAt m.ty (vmBase (s.peek c m) m)) true
  | .vlds _ a c m => s.laneTouches m (fun j => vmBase (s.peek c m) m + BitVec.ofNat 64 j * s.peek a m) false
  | .vsts _ a c m => s.laneTouches m (fun j => vmBase (s.peek c m) m + BitVec.ofNat 64 j * s.peek a m) true
  | .vgath _ a c m => s.laneTouches m (gatherAt m.ty (vmBase (s.peek c m) m) (s.me.row a.toNat)) false
  | .vscat _ a c m => s.laneTouches m (gatherAt m.ty (vmBase (s.peek c m) m) (s.me.row a.toNat)) true
  | _ => []

/-- The base of the accumulator window (R128). -/
def accBase : Nat := ownBase + 0x500000000

/-- The bytes of a row that lanes of w bits take. -/
def laneBytes (r : Row) (w : Nat) (lanes : List Nat) (rd wr : Bool) : List Touch :=
  lanes.map (fun j => ⟨accBase + 256 * r.toNat + j * w / 8, max 1 (w / 8), rd, wr⟩)

/-- A whole row. -/
def wholeRow (r : Nat) (rd wr : Bool) : Touch := ⟨accBase + 256 * r, 256, rd, wr⟩

/-- What a vector instruction touches of the accumulator, as accesses to the accumulator window (R220): of its rows the bytes of the lanes
that it reads and writes, whole rows where it writes every byte, and the bits of its mask row (log entry 93). -/
def State.rowTouches (s : State) (i : Instr) : List Touch :=
  let c := s.me
  let act (m : Mods) (n : Nat) : List Nat := (List.range n).filter (laneActive (c.maskRow m))
  let lanes (m : Mods) : List Nat := act m (laneCount m.ty)
  let mask (m : Mods) (n : Nat) : List Touch := if m.mask = 0 then [] else [⟨accBase + 256 * (120 + m.mask.toNat), (n + 7) / 8, true, false⟩]
  let reads (r : Row) (w : Nat) (js : List Nat) : List Touch := laneBytes r w js true false
  let writes (d : Row) (w : Nat) (js : List Nat) (m : Mods) : List Touch :=
    if m.zero then [wholeRow d.toNat false true] else laneBytes d w js false true
  let lanewise (d : Row) (srcs : List Row) (m : Mods) : List Touch :=
    srcs.flatMap (fun r => reads r m.ty.bits (lanes m)) ++ writes d m.ty.bits (lanes m) m ++ mask m (laneCount m.ty)
  let half (r : Row) : Touch := ⟨accBase + 256 * r.toNat, 64, true, false⟩
  match i with
  | .vadd d a b m | .vsub d a b m | .vmul d a b m | .vmulz d a b m | .vmin d a b m | .vmax d a b m
  | .vand d a b m | .vor d a b m | .vxor d a b m | .vshl d a b m | .vshr d a b m | .vsar d a b m => lanewise d [a, b] m
  | .vfma d a b x m => lanewise d [a, b, x] m
  | .vsacc d a b _ m =>
    let js := act m (laneCount .f32)
    reads a 32 js ++ reads b 8 js ++ reads d 32 js ++ writes d 32 js m ++ mask m (laneCount .f32)
  | .vabs d a m | .vneg d a m | .vmov d a m | .vsf d a m => lanewise d [a] m
  | .viota d _ m | .vbcast d _ m | .vld d _ m | .vlds d _ _ m => lanewise d [] m
  | .vgath d a _ m => lanewise d [a] m
  | .vst d _ m | .vsts d _ _ m => reads d m.ty.bits (lanes m) ++ mask m (laneCount m.ty)
  | .vscat d a _ m => [d, a].flatMap (fun r => reads r m.ty.bits (lanes m)) ++ mask m (laneCount m.ty)
  | .vcmp d a b m => [a, b].flatMap (fun r => reads r m.ty.bits (lanes m)) ++ [wholeRow d.toNat false true] ++ mask m (laneCount m.ty)
  | .vsel d a b m =>
    reads a m.ty.bits (lanes m) ++ reads b m.ty.bits ((List.range (laneCount m.ty)).filter (fun j => !(lanes m).contains j)) ++
    [wholeRow d.toNat false true] ++ mask m (laneCount m.ty)
  | .vcvt d a m =>
    let n := min (laneCount m.ty) (laneCount m.modTy)
    let part (j : Nat) : Nat := (m.mod.extractLsb' 4 4).toNat * n + j
    let wide := decide (m.ty.bits ≤ m.modTy.bits)
    reads a m.ty.bits (if wide then (act m n).map part else act m n) ++
    (if wide then writes d m.modTy.bits (act m n) m
     else laneBytes d m.modTy.bits ((if m.zero then List.range n else act m n).map part) false true) ++ mask m n
  | .vred d a m => reads a m.ty.bits (lanes m) ++ writes d m.ty.bits [0] m ++ mask m (laneCount m.ty)
  | .vscan d a m => reads a m.ty.bits (lanes m) ++ [wholeRow d.toNat false true] ++ mask m (laneCount m.ty)
  | .vperm d a b m =>
    let ks := (lanes m).map (fun j => laneOf (c.row b.toNat) m.ty.bits j)
    reads a m.ty.bits (ks.filter (fun k => decide (k < laneCount m.ty))) ++ lanewise d [b] m
  | .vmk d a b m => half a :: (if m.mod.extractLsb' 0 2 = 3#2 then [] else [half b]) ++ [wholeRow d.toNat false true]
  | .vmpop _ a _ => [half a]
  | .vins d _ x m => laneBytes d m.ty.bits [(s.peek x m).toNat] false true
  | .vextr _ a x m => laneBytes a m.ty.bits [(s.peek x m).toNat] true false
  | _ => []

/-- The rows that say which lanes a vector instruction touches: its mask row, and the indices of VPERM. -/
def laneRows (i : Instr) : BitVec 128 :=
  (match i.mods? with | some m => maskBit m | none => 0) ||| (match i with | .vperm _ _ b _ => rowBit b | _ => 0)

/-- An accumulator watchpoint of the context cannot tell yet which lanes the instruction touches: a row that says so awaits an earlier
instruction's result, and the instruction issues after it (log entry 93). -/
def State.lanesUnknown (s : State) (n x : Nat) (i : Instr) : Bool :=
  (List.range 8).any (fun j =>
    let w := s.reg (Pf.dbg n (0x090 + 32 * j))
    w.getLsbD (21 + x) && bitsOf w 4 2 ≠ 0 && bitsOf w 6 2 = 2) && (s.core n).rowsBusy (laneRows i) 0

/-- The registers that an instruction writes as destinations: file (0 g, 1 o, 2 p, 3 lr) and index. -/
def regWrites (i : Instr) : List (Nat × Nat) :=
  let ds := (fieldsOf i).filter (fun p => writesField p.2)
  let scalar := ds.filterMap (fun p => match p.1 with
    | .g n => some (0, n.toNat) | .o n => some (1, n.toNat) | _ => none)
  let preds : List (Nat × Nat) := match i with
    | .cmpp _ d _ _ _ | .fcmpp _ d _ _ _ | .pand d _ _ _ | .por d _ _ _ | .pxor d _ _ _ | .pnot d _ _ => [(2, d.toNat)]
    | .punpk _ _ => (List.range 8).map (fun k => (2, k))
    | _ => []
  scalar ++ preds ++ (if ds = [] then [] else [(3, 0)])

/-! ### Matching -/

/-- The first byte of an access that lies in [lo, hi). -/
def Touch.first (t : Touch) (lo hi : Nat) : Option Nat :=
  let a := max t.addr lo
  if a < t.addr + t.bytes && a < hi then some a else none

def Touch.dir (t : Touch) (access : Nat) : Bool := (t.rd && access % 2 = 1) || (t.wr && access / 2 = 1)

/-- The window of an address, by its place in `winSpans`. -/
def winNo (a : Nat) : Option Nat := (winOf a).map Prod.fst

/-- The first byte of an access in rows [r0, r1] and bytes [b0, b1] of the accumulator, all inclusive. -/
def Touch.inRows (t : Touch) (r0 r1 b0 b1 : Nat) : Option Nat :=
  if winNo t.addr ≠ some 5 then none
  else (List.range 128).findSome? (fun r =>
    if r0 ≤ r ∧ r ≤ r1 then t.first (accBase + 256 * r + b0) (accBase + 256 * r + b1 + 1) else none)

/-- The CTL register of breakpoint or watchpoint c: 0 to 7 breakpoints, 8 to 15 watchpoints (R229). -/
def cmpCtl (n c : Nat) : Nat := if c < 8 then Pf.dbg n (0x008 + 16 * c) else Pf.dbg n (0x090 + 32 * (c - 8))

/-- ACTION of a comparator that looks at context x; 0 where it does not. -/
def State.cmpAction (s : State) (n x c : Nat) : Nat :=
  let w := s.reg (cmpCtl n c)
  if c < 8 then (if w.getLsbD (5 + x) then bitsOf w 3 2 else 0)
  else if w.getLsbD (21 + x) then bitsOf w 4 2 else 0

/-- Breakpoint i matches the instruction at a (R219). -/
def State.bpMatch (s : State) (n x i : Nat) (a : Word) : Bool :=
  s.cmpAction n x i ≠ 0 && bitsOf (s.reg (Pf.dbg n (16 * i))) 2 62 = bitsOf a 2 62

/-- What watchpoint i matches of the running context's instruction (R220): its cause and FADDR. -/
def State.wpMatch (s : State) (n x i : Nat) (ins : Instr) : Option (BitVec 8 × Nat) :=
  let w := s.reg (cmpCtl n (8 + i))
  let lo := (s.reg (Pf.dbg n (0x080 + 32 * i))).toNat
  let hi := (s.reg (Pf.dbg n (0x088 + 32 * i))).toNat
  let ts := (s.touches ins).filter (Touch.dir · (bitsOf w 19 2))
  if s.cmpAction n x (8 + i) = 0 then none
  else match bitsOf w 6 2 with
    | 0 => ((ts.filter (fun t => decide (t.addr < 2 ^ 56))).findSome? (fun t => t.first lo hi)).map (fun a => (0x91, a))
    | 1 => ((ts.filter (fun t => match winNo t.addr with | some w => w < 3 || w = 6 | none => false)).findSome?
        (fun t => t.first lo hi)).map (fun a => (0x92, a))
    | 2 => (((ts ++ (s.rowTouches ins).filter (Touch.dir · (bitsOf w 19 2))).findSome? (fun t =>
        t.inRows (lo % 128) (lo / 2 ^ 8 % 128) (lo / 2 ^ 16 % 256) (lo / 2 ^ 24 % 256)))).map (fun a => (0x93, a))
    | _ =>
      let f := bitsOf w 14 2
      let k := bitsOf w 8 5
      if bitsOf w 19 2 / 2 = 1 && (regWrites ins).any (fun p => p.1 = f && (f = 3 || p.2 = k)) then some (0x94, k) else none

/-- A match of comparator c: its count or trace action, and the triggers of its code (R218, R224). -/
def State.cmpHit (s : State) (n x c : Nat) (what : Nat) : State :=
  let s1 := s.trigger n (c + 1)
  match s1.cmpAction n x c with
  | 2 => s1.setRegF (cmpCtl n c) 32 32 (min (s1.regF (cmpCtl n c) 32 32 + 1) 0xFFFFFFFF)
  | 3 => s1.traceRec n x 7 (BitVec.ofNat 64 (c * 2 ^ 60 + what % 2 ^ 56))
  | _ => s1

/-- The breakpoints that match the instruction at a. -/
def State.bpHits (s : State) (n x : Nat) (a : Word) : List Nat := (List.range 8).filter (fun i => s.bpMatch n x i a)

/-- Every matching breakpoint's count and trace action (R221). -/
def State.bpApply (s : State) (n x : Nat) (a : Word) : State :=
  (s.bpHits n x a).foldl (fun s i => s.cmpHit n x i a.toNat) s

/-- The breakpoint that halts context x before the instruction at a, the lowest-numbered. -/
def State.bpHalt (s : State) (n x : Nat) (a : Word) : Option Nat := (s.bpHits n x a).find? (fun i => s.cmpAction n x i = 1)

/-- The context has matched breakpoint i at its PC and halts (R219). -/
def State.breakAt (s : State) (n x i : Nat) : State :=
  let a := (s.ctx n x).pc
  (s.bpApply n x a).causeIn n x 0x90 (BitVec.ofNat 64 i) a 1

/-- The context may go on in this cycle, as far as its next instruction has no say in it. -/
def State.mayGo (s : State) (n x : Nat) : Bool :=
  let k := s.ctx n x
  k.st = .live && !(s.core n).moving && !k.paused && k.block = [] && decide (k.liveAt ≤ s.cyc) && decide (k.delayTo ≤ s.cyc)

/-- No context of the core has issued in this cycle (R97). -/
def State.slotFree (s : State) (n : Nat) : Bool := (List.range 11).all (fun y => (s.ctx n y).lastIssue ≠ some s.cyc)

/-- The context may issue in this cycle. -/
def State.mayIssue (s : State) (n x : Nat) : Bool := s.mayGo n x && s.slotFree n

/-- Nothing else comes before the context's next instruction: no stop, halt, kill or delay, and no result that it awaits. -/
def Ctx.plain (k : Ctx) : Bool :=
  !k.begun && k.stopBy.isNone && k.halting.isNone && !k.haltReq && !k.killReq && !k.noWs && k.sounding = 0 && k.pend = []

/-- The context is about to issue the instruction at its PC: it may issue, the instruction is there, and no queue register holds it up. -/
def State.aboutToIssue (s : State) (n x : Nat) : Bool :=
  let k := s.ctx n x
  s.mayIssue n x && k.plain && (match fetchInstr { s with cur := (n, x) } with
    | .ok (i, _) => (match i.mods? with | some m => !k.guardOn m || ((s.core n).queueCheck i).isNone | none => true)
    | .error _ => false)

/-- BREAKPOINT_HALT (R219): context x of core n, about to issue the instruction at its PC, matches breakpoint i, whose action is to
halt.  The one issue after a release is let pass (R207). -/
def execBreakpointHalt (n x i : Nat) (s : State) : Host.Outcome State Fault Refusal :=
  runEvent s (fun s =>
    let k := s.ctx n x
    if s.aboutToIssue n x && !k.pass && s.bpHalt n x k.pc = some i then some (s.breakAt n x i) else none)

/-- The watchpoints that match, with what each matches. -/
def State.wpHits (s : State) (n x : Nat) (ins : Instr) : List (Nat × BitVec 8 × Nat) :=
  (List.range 8).filterMap (fun i => (s.wpMatch n x i ins).map (fun p => (i, p)))

/-- The halt that watchpoints ask for: the lowest-numbered one's (R221). -/
def State.wpHalt (s : State) (n x : Nat) (hits : List (Nat × BitVec 8 × Nat)) : Option (BitVec 8 × Word) :=
  (hits.find? (fun h => s.cmpAction n x (8 + h.1) = 1)).map (fun h => (h.2.1, BitVec.ofNat 64 h.2.2))

/-- The instruction has raised a cause, between the states before and after it. -/
def raisedIn (s0 t : State) (n x : Nat) (ins : Instr) : Bool :=
  (t.ctx n x).st = .halted || (t.ctx n x).halting.isSome ||
  (!(s0.ctx n x).cause.getLsbD 8 && (t.ctx n x).cause.getLsbD 8 && (t.ctx n x).pc = (s0.ctx n x).tvec &&
    (match ins with | .swr _ _ _ => false | _ => true))

/-- What the matches of an issued instruction do: counts and records at once, and a halt once the access has taken effect; a
step halts where no watchpoint does, of a wait instruction as it returns (R221, R222).  `first` says that the instruction has not begun in
an earlier cycle. -/
def State.afterIssue (s0 t : State) (n x : Nat) (ins : Instr) (first : Bool) : State :=
  let done := !(t.ctx n x).begun
  let off := match ins.mods? with | some m => !(s0.ctx n x).begun && !(s0.ctx n x).guardOn m | none => false
  let hits := if off || !done || raisedIn s0 t n x ins then [] else s0.wpHits n x ins
  let t0 := if first then t.bpApply n x (s0.ctx n x).pc else t
  let t1 := hits.foldl (fun t h => t.cmpHit n x (8 + h.1) h.2.2) t0
  let step := done && (t1.reg (Pf.dbg n 0x180)).getLsbD x
  let stop := match s0.wpHalt n x hits with
    | some h => some h
    | none => if step then some (0x95, 0) else none
  match stop with
  | some h => if (t1.ctx n x).st = .live && (t1.ctx n x).halting.isNone then t1.setCtx n x { t1.ctx n x with stopBy := some h } else t1
  | none => t1

/-- Everything that context x has issued has taken the effect that R221 and R222 wait for: its registers are written, its
vector instructions have written their rows, and its accesses outside the L1 are performed. -/
def State.settled (s : State) (n x : Nat) : Bool :=
  (s.ctx n x).pend = [] && !s.vecBusy n x && s.flight.all (fun a => a.core ≠ n || a.ctx ≠ x || a.performed)

/-- A pending watchpoint or step halt is taken. -/
def State.takeStop (s : State) (n x : Nat) : Option State :=
  match (s.ctx n x).stopBy with
  | none => none
  | some (c, f) =>
    if (c = 0x95 && (s.ctx n x).pend = []) || s.settled n x then
      some ((s.setCtx n x { s.ctx n x with stopBy := none }).causeIn n x c f (s.ctx n x).pc 1)
    else some s

end Sys2Proof.Machine
end

