-- ==== Sys2Proof/Machine/Halts.lean ====
section
/-! DEFINITION. Halts from outside the issuing instruction: objects that become withheld during a wait (R202 to R204), wait limits
(R206), halt requests (R217), releases and their chains (R207), kills and stops (R208, R87). -/

namespace Sys2Proof.Machine

/-! ### Rows held by withdrawn SFU requests (R121) -/

/-- The lowest row of a set. -/
def lowRow (rows : BitVec 128) : Nat := ((List.range 128).find? (fun r => rows.getLsbD r)).getD 0

/-- What the vector and SFU commands of a core wait for behind requests that halted contexts hold, in issue order: by command, the holding
contexts, each with the row in question.  A command waits for an earlier conflicting claim (R117), behind earlier commands of the vector
queue, and behind earlier unstarted requests of its core (R119). -/
def State.behindHeld (s : State) (n : Nat) : List (Nat × List (Nat × Nat)) :=
  let c := s.core n
  let vq := c.vq.map VCmd.id
  let sq := ((s.octet (octetOf n)).sfuq.filter (fun p => p.1 = n)).map (fun p => p.2.id)
  let holder (id : Nat) : Option Nat := ctxNums.find? (fun y => (c.ctx y).st = .halted && (c.ctx y).heldSfu.any (fun v => v.id = id))
  (c.claims.foldl (fun (acc : List Claim × List (Nat × List (Nat × Nat))) k =>
    let of (id : Nat) : List (Nat × Nat) := AMap.getD acc.2 id []
    let rows (j : Claim) : BitVec 128 := (j.wr &&& (k.rd ||| k.wr)) ||| (j.rd &&& k.wr)
    let claims := (acc.1.filter (fun j => rows j ≠ 0)).flatMap (fun j => match holder j.id with
      | some y => [(y, lowRow (rows j))]
      | none => of j.id)
    let before (q : List Nat) : List (Nat × Nat) := if q.contains k.id then (q.takeWhile (· ≠ k.id)).flatMap of else []
    (acc.1 ++ [k], acc.2 ++ [(k.id, (claims ++ before vq ++ before sq).eraseDups)])) ([], [])).2

/-- The commands of a context, accepted and not started, that wait behind such a request, each with the holder and the row. -/
def State.vectorHeld (s : State) (n x : Nat) : List (Nat × Nat × Nat) :=
  let mine := ((s.core n).vq.filter (fun v => v.ctx = x)).map VCmd.id ++
    ((s.octet (octetOf n)).sfuq.filter (fun p => p.1 = n && p.2.ctx = x)).map (fun p => p.2.id)
  ((s.behindHeld n).filter (fun e => mine.contains e.1)).flatMap (fun e => e.2.map (fun h => (e.1, h.2, h.1)))

/-- What a context that cannot issue stands behind: the results that its next instruction consumes, or its own instructions in the queue
that is full before it; another wait of a vector instruction is for no queue (R121). -/
def State.standsBehind (s : State) (n x : Nat) (scalar : Bool) : List Nat :=
  match fetchInstr { s with cur := (n, x) } with
  | .error _ => []
  | .ok (i, _) =>
    if scalar then (s.ctx n x).awaits i
    else match i with
      | .vsf _ _ _ => ((s.octet (octetOf n)).sfuq.filter (fun p => p.1 = n && p.2.ctx = x)).map (fun p => p.2.id)
      | _ => if 2 ≤ (s.core n).vq.length then ((s.core n).vq.filter (fun v => v.ctx = x)).map VCmd.id else []

/-- The upstream of a context that cannot issue because of one of them: the holder with the lowest halt id. -/
def State.rowWithheld (s : State) (n x : Nat) (scalar : Bool) : Option Upstream :=
  let held := (s.vectorHeld n x).filter (fun h => (s.standsBehind n x scalar).contains h.1)
  (s.lowestHalt (held.map (fun h => (n, h.2.2)))).map (fun u =>
    ⟨9, ((held.find? (fun h => h.2.2 = u.2.1)).map (fun h => h.2.1)).getD 0, false, some u⟩)

/-! ### What a waiting context awaits (R202) -/

def State.waitWithheld (s : State) (n x : Nat) (w : Wait) : Option Upstream :=
  match w.on with
  | .popQ q => s.queueWithheld n q false
  | .pushQ q => s.queueWithheld n q true
  | .mailbox m => s.mboxWithheld n m
  | .barrier b => s.barWithheld n b (((s.core n).bar b).waiting.contains x)
  | .fix h _ | .fixq h _ =>
    match s.fix h with
    | some f => match f.rankOf n x with
      | some r => if s.roundWithheld f (f.agentOf r) then some (s.fixUpstream h f (f.agentOf r)) else none
      | none => none
    | none => none
  | .helper h => (s.haltId n h).map (fun i => ⟨6, h, false, some (n, h, i)⟩)
  | .channel ch => s.chanWithheld n x ch
  | .phase => match (s.core n).phase with
    | some p => if p.ended then none
      else if p.release.isNone then s.phaseWithheld p.rect 0 true else s.phaseWithheld p.rect (s.ttOffset p) p.ending
    | none => none
  | .meeting => match (s.ctx n x).meet with
    | some c => s.meetWithheld c.rect true
    | none => none
  | .vector => s.rowWithheld n x false
  | .operands => s.rowWithheld n x true
  | _ => none

/-- HALT_ON_WITHHELD (R204): the object of a context that waits has become withheld. -/
def execHaltOnWithheld (n x : Nat) (s : State) : Host.Outcome State Fault Refusal :=
  runEvent s (fun s =>
    let k := s.ctx n x
    match k.wait with
    | none => none
    | some w =>
      let quiet := k.pend = [] || w.on = .vector || w.on = .operands
      let back := match w.on with | .fixq _ _ => true | _ => false
      if k.st ≠ .live || k.halting.isSome || k.paused || k.block ≠ [] || s.noSpread n || back || !quiet then none
      else (s.waitWithheld n x w).map (fun u => s.haltWithheld n x u))

/-- WAIT_LIMIT_EXPIRY (R206): the cycles counted have reached the limit, and the wait returns its timeout result as the context issues
next. -/
def execWaitLimitExpiry (n x : Nat) (s : State) : Host.Outcome State Fault Refusal :=
  runEvent s (fun s =>
    let k := s.ctx n x
    match k.wait with
    | some w =>
      if k.st = .live && w.limit ≠ 0 && decide (w.limit ≤ w.elapsed) && !w.expired then
        some (s.setCtx n x { k with wait := some { w with expired := true } })
      else none
    | none => none)

/-- A wait counts this cycle towards its limit (R206); a WAITA's counts on though a request has halted its context. -/
def State.waitCounts (s : State) (n x : Nat) (w : Wait) : Bool :=
  let k := s.ctx n x
  k.st ≠ .free && ((s.haltId n x).isNone || w.on = .poll) && !k.paused && w.limit ≠ 0 && !w.expired &&
  (w.on = .poll || (s.waitWithheld n x w).isNone)

/-- WAITA_POLL (R326): an idle WAITA is due to poll again. -/
def execWaitaPoll (n x : Nat) (s : State) : Host.Outcome State Fault Refusal :=
  runEvent s (fun s =>
    let k := s.ctx n x
    match k.wait with
    | some w =>
      if k.st = .live && w.on = .poll && !w.arrived && !w.expired && k.answer.isNone && k.block = [] then
        some (s.setCtx n x { k with wait := some { w with arrived := true } })
      else none
    | none => none)

/-! ### Kills and stops (R208, R87, R93) -/

/-- Held SFU requests are discarded, and their rows are freed. -/
def State.dropHeld (s : State) (n x : Nat) : State :=
  let held := (s.ctx n x).heldSfu
  let s1 := held.foldl (fun s v => (s.setCore n ((s.core n).unclaim v.id)).retire v.id) s
  s1.setCtx n x { s1.ctx n x with heldSfu := [] }

/-- A context no longer counts as halted, and its record is no longer valid (R199, R201, R217). -/
def State.clearRec (s : State) (n x : Nat) : State :=
  let k := s.ctx n x
  if (s.haltId n x).isNone then s
  else
    let r := k.hrec
    let s1 := if k.st = .halted then s.storeRec n x { r with d0 := r.d0 &&& 0xFFFFFFFFFFFFFEFF#64 }
      else s.setCtx n x { k with halting := none, haltAs := none }
    s1.setRegF (Pf.hltStat (partOf n)) 48 16 (s1.regF (Pf.hltStat (partOf n)) 48 16 - 1)

/-- A context ends: its registers are written back, its workspace is unbound, and it is FREE; its halt record is kept. -/
def State.unbind (s : State) (n x : Nat) : State :=
  let s1 := ((((s.dropResv n x).dropTail n x).dropAsk n x).clearRec n x)
  let k := s1.ctx n x
  let s2 := s1.setCore n ((s1.core n).writeBackAll x)
  (s2.setCore n ((s2.core n).setCtx x
    { lastWs := if k.noWs then k.lastWs else some k.wsp, lastIssue := k.lastIssue, hrec := k.hrec })).orphan n x

/-- A context is stopped without a halt record; its unstarted SFU requests go with it (R87, R120, log entry 53). -/
def State.stopCtx (s : State) (n x : Nat) : State :=
  if (s.ctx n x).st = .free then s else ((s.withdraw n x).dropHeld n x).unbind n x

/-- A killed context also departs the ranks it holds, and its halt's dependents are released in the next mesh cycle.  The SFU requests
that it holds are discarded and their rows freed; what an engine has accepted completes (R208, R115). -/
def State.killCtx (s : State) (n x : Nat) : State :=
  let p := partOf n
  let s1 := match s.haltId n x with
    | some h => s.setPart p { s.part p with chain := (s.part p).chain ++ [(h, s.mesh + 1)] }
    | none => s
  let s2 := if (s.ctx n x).st = .free then s1 else (s1.dropHeld n x).unbind n x
  let s3 := s2.setCore n { s2.core n with qs := (s2.core n).qs.map (fun q => q.forget x) }
  (s.ranksOf n x).foldl (fun s g => s.depart g.1 g.2) s3

/-- A kill of a halted context; a LIVE one is killed at its next instruction boundary. -/
def State.killSoon (s : State) (n x : Nat) : State :=
  match (s.ctx n x).st with
  | .halted => s.killCtx n x
  | .live => s.setCtx n x { s.ctx n x with killReq := true }
  | .free => s

/-- A kill takes effect: the control context takes its helpers with it, and the last of a gang starts its drain. -/
def State.kill (s : State) (n x : Nat) : State :=
  let s1 := if x = 0 then (List.range 11).foldl (fun s y => if y = 0 then s else s.killSoon n y) s else s
  let s2 := s1.killCtx n x
  match s2.gangOf n with
  | some (p, g) => s2.gangCheck p g
  | none => s2

/-- A context at an instruction boundary, or blocked in a wait. -/
def Ctx.atBoundary (k : Ctx) : Bool := k.pend = [] && k.block = []

/-! ### Halt requests (R217) -/

/-- The contexts that HLT_REQ names: none where it names what cannot be halted. -/
def State.reqNames (s : State) (p : Nat) (v : Word) : List (Nat × Nat) :=
  let n := coreAt (bitsOf v 0 5) (bitsOf v 5 5)
  let x := bitsOf v 12 4
  let all (cs : List Nat) : List (Nat × Nat) := cs.flatMap (fun c => ctxNums.map (fun y => (c, y)))
  match bitsOf v 61 2 with
  | 0 => if partOf n = p then [(n, x)] else []
  | 1 => if partOf n = p then all [n] else []
  | 2 => if partOf n = p then (match (s.core n).gang with | some g => all g.rect.cores | none => []) else []
  | _ => all ((List.range 128).map (partCore p))

/-- HALT_REQUEST (R217): a write of HLT_REQ with GO. -/
def execHaltRequest (p : Nat) (v : BitVec 64) (s : State) : Host.Outcome State Fault Refusal :=
  runPilot s (fun s =>
    let names := (s.reqNames p v).filter (fun c => (s.ctx c.1 c.2).st = .live && (s.haltId c.1 c.2).isNone)
    let keep := v &&& 0x600000000000F3FF#64
    if !v.getLsbD 63 then some (s.setReg (Pf.hltReq p) (keep ||| (s.reg (Pf.hltReq p) &&& 0x8000000000000000#64)))
    else
      let s1 := names.foldl (fun s c => s.setCtx c.1 c.2 { s.ctx c.1 c.2 with haltReq := true }) s
      some (s1.setReg (Pf.hltReq p) (if names = [] then keep else keep ||| 0x8000000000000000#64)))

/-- GO of HLT_REQ reads 1 until every named context has halted. -/
def State.reqDone (s : State) (p : Nat) : State :=
  let v := s.reg (Pf.hltReq p)
  let mine (n : Nat) : Bool := partOf n = p || (s.reqNames p v).any (fun c => c.1 = n)
  if v.getLsbD 63 && s.cores.all (fun c => !mine c.1 || ctxNums.all (fun x => !(c.2.ctx x).haltReq)) then
    s.setReg (Pf.hltReq p) (v &&& 0x7FFFFFFFFFFFFFFF#64)
  else s

/-- The object that a waiting context awaits, by kind and number (R199). -/
def State.waitObject (s : State) (n x : Nat) : Option Upstream :=
  match (s.ctx n x).wait with
  | none => none
  | some w =>
    let at0 (kind obj : Nat) (arrived : Bool) : Option Upstream := some ⟨kind, obj, arrived, some (0, 0, 0)⟩
    match w.on with
    | .popQ q => at0 1 q false
    | .pushQ q => at0 1 (q + 8) false
    | .mailbox m => at0 2 m false
    | .barrier b => at0 3 b (((s.core n).bar b).waiting.contains x)
    | .fix h _ | .fixq h _ =>
      match s.fix h with
      | some f => (f.rankOf n x).map (fun r => ⟨5, h.toNat + (s.foldSeen h f (f.agentOf r)).tag.toNat % 2 ^ 28 * 2 ^ 32, false, some (0, 0, 0)⟩)
      | none => none
    | .helper h => at0 6 h false
    | .channel ch => at0 7 ch false
    | .phase => (s.core n).phase.bind (fun p => at0 8 (if p.release.isSome then s.ttOffset p else 0) (p.release.isNone || p.ending))
    | .meeting => (s.ctx n x).meet.bind (fun c => at0 10 (c.rect.toNat % 2 ^ 16) true)
    | _ => none

/-- A halt request is taken: the record names what the context waits for, with no upstream (R199, R217). -/
def State.haltNow (s : State) (n x : Nat) : State :=
  let k := s.ctx n x
  (s.setCtx n x { k with cause := (k.cause &&& 0xFF00) ||| 0x96, faddr := 0 }).halt n x 0x96 k.pc (s.waitObject n x)

/-! ### Releases (R207) -/

/-- The halted context of a partition whose record has an id. -/
def State.findHalt (s : State) (p id : Nat) : Option (Nat × Nat) :=
  (s.cores.filter (fun c => partOf c.1 = p)).findSome? (fun c =>
    (ctxNums.find? (fun x => (c.2.ctx x).st = .halted && bitsOf (c.2.ctx x).hrec.d0 16 48 = id)).map (fun x => (c.1, x)))

/-- The fault of a task that a context's halt recorded is resolved by its release (R93, resume). -/
def State.resumeTask (s : State) (n x : Nat) : State :=
  match s.gangOf n with
  | none => s
  | some (p, g) =>
    let i := g.tcb
    if s.tcbSt p i = tFaulted && s.tcbF p i 9 8 8 = coreX n && s.tcbF p i 9 16 8 = coreY n && s.tcbF p i 9 24 4 = x &&
        s.tcbF p i 9 0 8 = bitsOf (s.ctx n x).hrec.d0 0 8 then
      s.setTcbSt p i (if s.acked p i = s.recCount p i && s.recCount p i ≠ 0 then tDraining else tRunning)
    else s

/-- A context's halt is released (R207).  The SFU requests of one that a checkpoint pause holds rejoin at once, since they complete before
the image (R88, log entry 112). -/
def State.releaseCtx (s0 : State) (n x : Nat) : State :=
  let s := if (s0.ctx n x).paused then s0.rejoin n x else s0
  let k := s.ctx n x
  let p := partOf n
  let id := (s.haltId n x).getD 0
  let c := bitsOf (k.record x).d0 0 8
  let s1 := (s.resumeTask n x).clearRec n x
  let k1 := s1.ctx n x
  let s2 := s1.setCtx n x { k1 with st := .live, pass := c = 0x90 || (c = 0xA0 && k1.pass), liveAt := if k1.noWs then k1.liveAt else s1.cyc }
  s2.setPart p { s2.part p with chain := (s2.part p).chain ++ [(id, s2.mesh + 1)] }

/-- A bit of HLT_EVT rises (R217): kind 2 of the model's pilot events is an ECC line, 8 is REL_BAD. -/
def State.relBad (s : State) (p id : Nat) : State :=
  let e := Pf.hltEvt p
  if (s.reg e).getLsbD 1 then s
  else (s.setReg e (s.reg e ||| 2)).pilotEvent 8 (BitVec.ofNat 64 p) (BitVec.ofNat 64 id)

/-- What a write of HLT_REL leaves in the register: GO is taken at once. -/
def State.relReg (s : State) (p id : Nat) (kill : Bool) : State :=
  s.setReg (Pf.hltRel p) (BitVec.ofNat 64 ((if kill then 2 ^ 62 else 0) + id % 2 ^ 48))

/-- HALT_RELEASE (R207): HLT_REL with GO and without KILL. -/
def execHaltRelease (p id : Nat) (s : State) : Host.Outcome State Fault Refusal :=
  runPilot s (fun s =>
    let s := s.relReg p id false
    match s.findHalt p id with
    | some (n, x) => some (s.releaseCtx n x)
    | none => some (s.relBad p id))

/-- HALT_KILL (R208): HLT_REL with GO and KILL. -/
def execHaltKill (p id : Nat) (s : State) : Host.Outcome State Fault Refusal :=
  runPilot s (fun s =>
    let s := s.relReg p id true
    match s.findHalt p id with
    | some (n, x) => some (s.kill n x)
    | none => some (s.relBad p id))

/-- The halted contexts that a test on their record selects. -/
def State.haltedWith (s : State) (f : HaltRec → Bool) : List (Nat × Nat) :=
  s.cores.flatMap (fun c => (ctxNums.filter (fun x => (c.2.ctx x).st = .halted && f (c.2.ctx x).hrec)).map (fun x => (c.1, x)))

/-- CHAINED_RELEASE (R207): in the mesh cycle after a release, the halts that name it as upstream are released; id 0 stands for the
waiters of a round whose remote rank has been released. -/
def execChainedRelease (p id : Nat) (s : State) : Host.Outcome State Fault Refusal :=
  runEvent s (fun s =>
    let q := s.part p
    if id = 0 then
      match q.remote.find? (fun e => decide (e.2 ≤ s.mesh)) with
      | none => none
      | some e =>
        let s1 := s.setPart p { q with remote := q.remote.erase e }
        some ((s1.haltedWith (fun r => r.d3.getLsbD 10 && r.d2 = e.1)).foldl (fun s c => s.releaseCtx c.1 c.2) s1)
    else
      match q.chain.find? (fun e => e.1 = id && decide (e.2 ≤ s.mesh)) with
      | none => none
      | some e =>
        let s1 := s.setPart p { q with chain := q.chain.erase e }
        some ((s1.haltedWith (upstreamIs p id)).foldl (fun s c => s.releaseCtx c.1 c.2) s1))

end Sys2Proof.Machine
end

