-- ==== Sys2Proof/Machine/Tasks.lean ====
section
/-! DEFINITION. The Chartroom's dispatcher and what ends a gang: the ready pool (R78), placement (R79, R80, R83, R84, R132), entry
(R122, R123), retirement (R86), pre-emption (R87, R91), the task watchdog (R60), and the resolution of faults (R93). -/

namespace Sys2Proof.Machine

/-! ### The ready pool (R78, R83) -/

/-- An entry of the pool: a task, or a convoy by 8,192 plus its id; its members in order. -/
structure PoolEntry where
  key : Nat
  prio : Nat
  seq : Nat
  tcbs : List Nat
deriving DecidableEq, Repr

def State.prioOf (s : State) (p i : Nat) : Nat := s.tcbF p i 0 8 2
def State.seqOf (s : State) (p i : Nat) : Nat := s.tcbF p i 8 0 48

/-- A record is left to deal (R75). -/
def State.recordsLeft (s : State) (p i : Nat) : Bool :=
  decide (s.cursor p i < s.recCount p i) || AMap.getD (s.part p).redeal i [] ≠ []

/-- A task that is no member and can still be placed.  A member that is RUNNING with records left and without a gang enters the pool with
its convoy alone, since no convoy is placed in part (R84 over R78: DESIGN CHOICE, log entry 111). -/
def State.placeable (s : State) (p i : Nat) : Bool :=
  s.tcbConvoy p i = 0xFFFF &&
  (s.tcbSt p i = tReady ||
   (s.tcbSt p i = tRunning && s.recordsLeft p i && decide (s.liveGangs p i < 2 ^ s.tcbF p i 0 18 4) &&
    (AMap.get? (s.part p).grace i).isNone && !(s.part p).preempts.contains i))

/-- The convoys all of whose members are READY, by the members that are.  A member that was pre-empted as it was DRAINING stays so
(R69, R91, log entry 94), and a convoy whose record cannot be read is not placed (R410). -/
def State.waitingConvoys (s : State) (p : Nat) : List Nat :=
  ((((s.part p).tcbs.map Prod.fst).filter (fun i => s.tcbConvoy p i < 1024 && s.tcbSt p i = tReady)).map (s.tcbConvoy p)).eraseDups
def State.readyConvoys (s : State) (p : Nat) : List Nat :=
  (s.waitingConvoys p).filter
    (fun c => s.cvyThere p c && (s.cvyMembers p c).all (fun i => s.tcbSt p i = tReady ||
      (s.tcbSt p i = tDraining && !(s.part p).gangs.any (fun g => g.convoy = c))))

def PoolEntry.before (a b : PoolEntry) : Bool := decide (b.prio < a.prio) || (a.prio = b.prio && decide (a.seq < b.seq))

/-- The pool in its order. -/
def State.pool (s : State) (p : Nat) : List PoolEntry :=
  let tasks := (((s.part p).tcbs.map Prod.fst).filter (s.placeable p)).map (fun i => ⟨i, s.prioOf p i, s.seqOf p i, [i]⟩)
  let cvys := (s.readyConvoys p).map (fun c =>
    let ms := s.cvyMembers p c
    ⟨8192 + c, (ms.map (s.prioOf p)).foldl max 0, (ms.map (s.seqOf p)).foldl max 0, ms⟩)
  sortBy PoolEntry.before (tasks ++ cvys)

/-- CHR_STAT as a read shows it (R95): the stored underflow count, the anchored entry that comes first in the pool (R79), the live and
draining gangs and the entries of the pool. -/
def State.chartStat (s : State) (p : Nat) : Word :=
  let pool := s.pool p
  let anchored := (pool.find? (fun e => decide (64 ≤ AMap.getD (s.part p).passed e.key 0))).map (fun e => e.tcbs.headD 0xFFFF)
  BitVec.ofNat 64 (s.regF (Pf.chr p 0x40) 48 16 * 2 ^ 48 + anchored.getD 0xFFFF * 2 ^ 32 + (s.part p).gangs.length * 2 ^ 16 + pool.length)

/-! ### A core that is placed (R132, R122) -/

/-- The L1 lines of the ways that pass to the scratchpad are written back where dirty, and dropped (R132). -/
def State.shrinkL1 (s : State) (n ways : Nat) : State :=
  (((s.core n).l1.filter (fun l => decide (ways ≤ l.way))).map L1Line.pa).foldl (fun s b => s.l1Clean n b true) s

/-- What a placement or a retirement leaves of a core: its L1, its TLB, its debug units, the halt records of its contexts, the bind
generations of its mailboxes and roses, and the fix slots with their generations. -/
def Core.emptied (c : Core) : Core :=
  { ctxs := c.ctxs.map (fun k => { hrec := k.hrec })
    l1 := c.l1, fifo := c.fifo, tlb := c.tlb, trace := c.trace, missed := c.missed, rplPos := c.rplPos
    trStop := c.trStop, trFull := c.trFull, trOff := c.trOff
    mboxes := c.mboxes.map (fun b => (b.1, { gen := b.2.gen + 1 })), roses := c.roses.map (fun r => (r.1, r.2.unbind)), fixes := c.fixes }

/-- The workspace at the scratchpad's base in the entry state (R122). -/
def entryScr (n i : Nat) (entry arg user : Word) (scratch stack : Nat) : Mem :=
  let base := ownBase
  let top := base + scratch * 1024
  let put (m : Mem) (off v : Nat) : Mem := m.write off 8 (v % 2 ^ 64)
  let m1 := put (put (put (put (put [] 0 arg.toNat) 8 i) 16 user.toNat) (8 * 28) arg.toNat) (8 * 30) top
  put (put (put m1 0x150 entry.toNat) 0x160 (max (top - stack * 1024) (base + 512))) 0x188
    ((0x2545F491#32 ^^^ BitVec.ofNat 32 n).toNat)

/-- The control context as it waits to start.  With SCRATCH 0 there is no workspace: its latches are those of R122, and its g values stand
nowhere (R123). -/
def firstCtx (k : Ctx) (n : Nat) (entry : Word) (none : Bool) : Ctx :=
  let k1 : Ctx := { hrec := k.hrec, pc := entry, seed := 0x2545F491#32 ^^^ BitVec.ofNat 32 n, noWs := none }
  if none then { k1 with wsp := BitVec.ofNat 64 ownBase, slim := BitVec.ofNat 64 (ownBase + 512) } else k1

/-- A core of a gang is placed: the boundary moves, and the entry state is written at the base.  With SCRATCH 0 there is none. -/
def State.placeCore (s : State) (n : Nat) (g : GangRef) : State :=
  let f := s.tcbF g.part g.tcb
  let scratch := f 0 32 16
  let s1 := s.shrinkL1 n (20 - scratch / 16)
  let c := (s1.core n).emptied
  let entry := s.tcbW g.part g.tcb 1
  let c1 := { c with
    scratch := scratch, stack := f 0 48 8, gang := some g, moving := true
    scr := if scratch = 0 then [] else entryScr n g.tcb entry (s.tcbW g.part g.tcb 2) (s.tcbW g.part g.tcb 15) scratch (f 0 48 8)
    ctxs := c.ctxs.set 0 (firstCtx (c.ctx 0) n entry (scratch = 0)) }
  -- what other cores held as grants for its mailboxes ends with the binding
  let s2 := (s1.setCore n c1).revokeAll n
  ((s2.traceRec n 0 2 (BitVec.ofNat 64 g.tcb)).trigger n 19).acquireActs n .part

/-- What a stop under R88 or R91 ends of a context: a YIELD's delay (R308), and an MMAG that waits for its meeting, which is executed again
(R377). -/
def Ctx.afterPause (k : Ctx) : Ctx :=
  let k1 := { k with delayTo := 0 }
  if k.meet.isSome then { k1 with meet := none, wait := none, doing := none, held := [] } else k1

/-- A core of a convoy that resumes from its image (R89, R91): it holds what the image holds, and its contexts resume.  One that stood
halted resumes too, since its record is no longer valid (log entry 94). -/
def State.restoreCore (s : State) (n : Nat) (g : GangRef) (old : Core) : State :=
  let s1 := s.shrinkL1 n (20 - old.scratch / 16)
  let c := (s1.core n).emptied
  -- a CHCARD that was held asks again, as every wait is re-executed
  let again (k : Ctx) : Ctx := if k.answer.isNone && k.wait.any (fun w => w.on = .chart) then { k with wait := none } else k.afterPause
  let back (x : Nat) : Ctx :=
    let k := again (old.ctx x)
    { k with hrec := (c.ctx x).hrec, st := if k.st = .halted then .live else k.st, halting := none, haltAs := none }
  (s1.setCore n { c with
    ctxs := Vector.ofFn (fun (x : Fin 11) => back x.val), qs := old.qs, bars := old.bars, roses := old.roses, mboxes := old.mboxes
    grants := old.grants, chans := old.chans, scr := old.scr, rows := old.rows, wts := old.wts, scratch := old.scratch, stack := old.stack
    gang := some g, moving := true }).acquireActs n .part

/-- A gang of a task is placed at an origin. -/
def State.placeGang (s : State) (p i x0 y0 : Nat) (cvy member : Nat) (image : List (Nat × Core)) : State :=
  let lw := s.lwOf p i
  let lh := s.lhOf p i
  let q := s.part p
  let num := q.gangNum
  let g : Gang := { num := num, tcb := i, x0 := x0, y0 := y0, lw := lw, lh := lh, convoy := cvy, member := member
                    chunks := AMap.getD q.kept i [] }
  let s1 := s.setPart p { q with gangs := q.gangs ++ [g], gangNum := num + 1, kept := AMap.erase q.kept i }
  let r : GangRef := { part := p, tcb := i, num := num, x0 := x0, y0 := y0, lw := lw, lh := lh, convoy := cvy, member := member }
  let s2 := (rectCores x0 y0 lw lh).zipIdx.foldl (fun s e =>
    match image.find? (fun c => c.1 = e.2) with
    | some (_, c) => s.restoreCore e.1 r c
    | none => s.placeCore e.1 r) s1
  if s2.tcbSt p i = tReady then (s2.setTcbSt p i tRunning).progress p i else s2

/-! ### An attempt (R79, R84) -/

/-- The attempt of this mesh cycle has been made.  A pre-emption goes before the placement of its mesh cycle (R70): one that finds it made
is of the next. -/
def State.attempted (s : State) (p : Nat) : Bool := (s.part p).lastTry = s.mesh + 1

/-- The reservation, where its holder is still in the pool. -/
def State.holder (s : State) (p : Nat) : Option (Nat × List (Nat × Nat)) :=
  match (s.part p).resv with
  | some (k, os) => if (s.pool p).any (fun e => e.key = k) then some (k, os) else none
  | none => none

/-- The cores that the reservations keep from an entry of the pool: those of every partition's holder but the entry itself (R84). -/
def State.reserved (s : State) (p key : Nat) : List Nat :=
  partNums.flatMap (fun q => match s.holder q with
    | some (k, os) => if q = p && k = key then [] else
        ((s.cvyMembers q (k - 8192)).zip os).flatMap (fun e => rectCores e.2.1 e.2.2 (s.lwOf q e.1) (s.lhOf q e.1))
    | none => [])

/-- The members with the origin that a restored convoy must have. -/
def State.wanted (s : State) (p : Nat) (e : PoolEntry) : List (Nat × Option (Nat × Nat)) :=
  match AMap.get? (s.part p).origins (e.key - 8192) with
  | some os => if 8192 ≤ e.key then (e.tcbs.zip os).map (fun m => (m.1, some m.2)) else e.tcbs.map (fun i => (i, none))
  | none => e.tcbs.map (fun i => (i, none))

/-- The cores of a member in the current image, by their place in the gang (R89, R91). -/
def State.imageOf (s : State) (p cvy member : Nat) : List (Nat × Core) :=
  if (AMap.get? (s.part p).origins cvy).isNone then []
  else
    let cur := if (s.cvyWord p cvy 13).getLsbD 0 then 1 else 0
    ((AMap.getD (s.part p).images (2 * cvy + cur) []).filter (fun m => m.1 = member)).map (fun m => m.2)

/-- A core that a partition of lower number has claimed in this mesh cycle: a Chartroom of the same cycle still finds it free (R80). -/
def State.claimedNow (s : State) (p n : Nat) : Bool :=
  match (s.core n).gang with
  | some g => decide (g.part < p) && (s.part g.part).lastPlace = some s.mesh && decide ((s.part g.part).lastNum ≤ g.num)
  | none => false

/-- The free set as a partition's dispatcher finds it. -/
def State.seenFree (s : State) (p n : Nat) : Bool := s.coreFree n || (s.claimedNow p n && !s.dev.fenced.contains (octetOf n))

/-- The cores of an entry's rectangles. -/
def State.placeCores (s : State) (p : Nat) (tcbs : List Nat) (os : List (Nat × Nat)) : List Nat :=
  (tcbs.zip os).flatMap (fun m => rectCores m.2.1 m.2.2 (s.lwOf p m.1) (s.lhOf p m.1))

/-- Place(e, avail): the origins, where every member has one. -/
def State.spots (s : State) (p : Nat) (e : PoolEntry) : Option (List (Nat × Nat)) :=
  let res := s.reserved p e.key
  s.fitAll p (fun n => s.seenFree p n && !res.contains n) (s.wanted p e) []

/-- The gangs of an entry are placed. -/
def State.place (s : State) (p : Nat) (e : PoolEntry) (os : List (Nat × Nat)) : State :=
  let cvy := if 8192 ≤ e.key then e.key - 8192 else 0xFFFF
  let first := (s.part p).gangNum
  let t := (e.tcbs.zip os).zipIdx.foldl (fun t m =>
    t.placeGang p m.1.1 m.1.2.1 m.1.2.2 cvy m.2 (if cvy = 0xFFFF then [] else s.imageOf p cvy m.2)) s
  let q := t.part p
  t.setPart p { q with
    lastPlace := some s.mesh, lastNum := first, failed := q.failed.filter (· ≠ e.key), origins := AMap.erase q.origins cvy
    resv := match q.resv with | some (k, os) => if k = e.key then none else some (k, os) | none => none }

/-- The passed counts after a placement, and the event of an entry that became anchored (R79, R95). -/
def State.passedOver (s : State) (p : Nat) (before : List PoolEntry) (e : PoolEntry) : State :=
  let q := s.part p
  let up := before.foldl (fun m b => AMap.set m b.key (AMap.getD m b.key 0 + 1)) q.passed
  let newly := before.any (fun b => AMap.getD up b.key 0 = 64)
  let s1 := s.setPart p { q with passed := AMap.erase up e.key }
  if newly then s1.chrEvt p 3 else s1

/-- A failed convoy that is the oldest waiting one takes the reservation, if no convoy holds it. -/
def State.reserve (s : State) (p : Nat) (pool : List PoolEntry) (e : PoolEntry) : State :=
  let failed := pool.filter (fun b => (s.part p).failed.contains b.key)
  if e.key < 8192 || (s.holder p).isSome || !failed.all (fun b => decide (e.seq ≤ b.seq)) then s
  else match s.fitAll p (fun _ => true) (s.wanted p e) [] with
    | some os => s.setPart p { s.part p with resv := some (e.key, os) }
    | none => s

/-- One attempt over the first entries. -/
def State.tryEntries (s : State) (p : Nat) (pool : List PoolEntry) (before : List PoolEntry) : List PoolEntry → State
  | [] => s
  | e :: rest =>
    match s.spots p e with
    -- a claim that another Chartroom has been granted in this mesh cycle ends the attempt (R80)
    | some os => if (s.placeCores p e.tcbs os).all s.coreFree then (s.place p e os).passedOver p before e else s
    | none =>
      let q := s.part p
      let s1 := if 8192 ≤ e.key ∧ ¬ q.failed.contains e.key then s.setPart p { q with failed := q.failed ++ [e.key] } else s
      if 64 ≤ AMap.getD q.passed e.key 0 then s1
      else tryEntries (s1.reserve p pool e) p pool (before ++ [e]) rest

/-- A task has completed in this mesh cycle and its successors' counters wait for the next: placement, which follows the decrements (R70),
waits for it. -/
def Part.completing (q : Part) : Bool := q.reqs.any (fun r => match r.op with | .completed _ fresh _ _ => fresh | _ => false)

/-- A partition has something to place, and has made no attempt in this mesh cycle. -/
def State.mayTry (s : State) (p : Nat) : Bool :=
  (s.pool p ≠ [] || s.waitingConvoys p ≠ []) && !(s.part p).completing && !s.attempted p

/-- An attempt reads the records of the convoys that wait (R410). -/
def State.readConvoys (s : State) (p : Nat) : State := (s.waitingConvoys p).foldl (fun s c => s.readCvy p c) s

/-- PLACEMENT_ATTEMPT (R79): once in a mesh cycle, after the partitions of lower number (R80). -/
def execPlacementAttempt (p : Nat) (s : State) : Host.Outcome State Fault Refusal :=
  runEvent s (fun s =>
    let pool := s.pool p
    let q := s.part p
    if !s.mayTry p || (List.range p).any s.mayTry then none
    else
      let s1 := (s.setPart p { q with lastTry := s.mesh + 1 }).readConvoys p
      match q.lastPlace with
      | some m => if s.mesh < m + s.regF (Pf.chr p 0x18) 0 16 then some s1 else some (s1.tryEntries p pool [] (pool.take 8))
      | none => some (s1.tryEntries p pool [] (pool.take 8)))

/-- The boundary of a core has moved: the accesses that waited at its port are performed against the new layout (R132). -/
def State.portOpens (s : State) (n : Nat) : State :=
  let t := s.setCore n { s.core n with moving := false }
  let here (a : Access) : Bool := match t.accLocs a with
    | some ls => ls.any (fun p => match p.1 with | .scr m _ => m = n | _ => false)
    | none => false
  (s.flight.filter here).foldl (fun s a => (s.arrive a.id true).getD s) t

/-- KERNEL_ENTRY (R122, R132): once the accesses that waited have been performed the control context starts; a restored core goes on where
its image stopped (R91). -/
def execKernelEntry (n : Nat) (s : State) : Host.Outcome State Fault Refusal :=
  runEvent s (fun s =>
    if !(s.core n).moving then none
    else
      let s := s.portOpens n
      let c := s.core n
      if ctxNums.any (fun x => (c.ctx x).st ≠ .free) then some (s.setCore n { c with ctxs := c.ctxs.map (fun k => { k with paused := false }) })
      else
        let k := c.ctx 0
        let k1 := if k.noWs then k else c.latchLoad k (BitVec.ofNat 64 ownBase)
        some (s.setCtx n 0 { k1 with st := .live, liveAt := s.cyc, lastWs := if k.noWs then none else some (BitVec.ofNat 64 ownBase) }))

/-! ### Retirement (R86) -/

/-- The packet carries a fix contribution of a core to another device, which has not acknowledged it. -/
def TxPkt.foldOf (k : TxPkt) (n : Nat) : Bool :=
  k.pkt.type = 1 && bitsOf k.pkt.h1 48 5 = coreX n && bitsOf k.pkt.h1 53 5 = coreY n

/-- The engines of a core hold no work of its gang. -/
def State.engineIdle (s : State) (n : Nat) : Bool :=
  let c := s.core n
  let o := s.octet (octetOf n)
  c.vq = [] && c.vrun = [] && c.mq = [] && c.mrun.isNone && c.sendq = [] &&
  c.chans.all (fun k => k.2.queue = [] && k.2.running.isNone) &&
  (o.sfuq ++ o.sfuRun).all (fun v => v.1 ≠ n) &&
  s.dev.flows.all (fun f => f.2.kept.all (fun k => !k.foldOf n)) &&
  s.liveFixes.all (fun f => f.2.phase.all (fun k => (s.rankPlace f.2 k.rank).2 ≠ n)) &&
  s.noc.all (fun i => match i.m with
    | .msg _ _ m => m.src ≠ n
    | .fix h _ k | .nearFold h k => (match s.fix h with | some f => (s.rankPlace f k.rank).2 ≠ n | none => true)
    | _ => true)

/-- Every dirty line of a core's L1 leaves for the L2. -/
def State.cleanAll (s : State) (n : Nat) : State :=
  ((s.core n).l1.filter (fun l => l.dirty ≠ 0)).foldl (fun s l => s.l1Clean n l.pa false) (s.drain n)

/-- A core returns to the free set (R86): its mailboxes, barriers and rose descriptors are cleared and its engines are empty.  Its rows, its
weights and its status words stand until it is placed again, and so do the workspace words, which are all written back (R105). -/
def State.freeCore (s : State) (n : Nat) : State :=
  let c := s.core n
  let kept := c.mf.foldl Core.mfBack c
  s.setCore n { c.emptied with
    fixes := c.fixes.map (fun f => (f.1, { gen := f.2.gen })), scratch := c.scratch, stack := c.stack, scr := kept.scr
    rows := c.rows, wts := c.wts, mstat := c.mstat, tpls := c.tpls
    chans := c.chans.map (fun k => (k.1, { k.2 with queue := [], running := none })) }

/-- What the last gang's retirement means to a task (R69, R87): DRAINING becomes DONE, and a task whose grace period ran becomes
READY with its remaining records. -/
def State.taskRetired (s : State) (p i : Nat) : State :=
  if (s.part p).gangs.any (fun g => g.tcb = i) then s
  else if s.tcbSt p i = tDraining then
    let s1 := s.taskDone p i
    s1.setPart p { s1.part p with grace := AMap.erase (s1.part p).grace i }
  else if (AMap.get? (s.part p).grace i).isSome && s.tcbSt p i = tRunning then
    let s1 := s.setTcbSt p i tReady
    s1.setPart p { s1.part p with grace := AMap.erase (s1.part p).grace i, wdog := AMap.erase (s1.part p).wdog i }
  else s

/-- GANG_RETIRE (R86): first the dirty lines of its cores are written back, and when that is acknowledged the cores are free. -/
def execGangRetire (p num : Nat) (s : State) : Host.Outcome State Fault Refusal :=
  runEvent s (fun s =>
    match (s.part p).gangs.find? (fun g => g.num = num) with
    | none => none
    | some g =>
      if !g.draining || !s.gangEmpty g || !g.cores.all s.engineIdle then none
      else if g.cores.any (fun n => (s.core n).l1.any (fun l => l.dirty ≠ 0)) then some (g.cores.foldl State.cleanAll s)
      else if s.flight.any (fun a => g.cores.contains a.core) then none
      else
        let s1 := g.cores.foldl State.freeCore s
        let q := s1.part p
        let s2 := s1.setPart p { q with
          gangs := q.gangs.filter (fun h => h.num ≠ num)
          lost := if g.chunks = [] then q.lost else AMap.set q.lost g.tcb (AMap.getD q.lost g.tcb [] ++ [g]) }
        if g.convoy ≥ 1024 then some (s2.taskRetired p g.tcb)
        else if (s2.part p).gangs.any (fun h => h.convoy = g.convoy) then some s2
        else
          let s3 := (s2.cvyMembers p g.convoy).foldl (fun s i =>
            if g.leave = .restart && s.tcbSt p i = tDraining then s else s.taskRetired p i) s2
          -- what copies have logged as the convoy drained is not committed (R91)
          some (if g.leave = .restart then s3.setPart p { s3.part p with log := AMap.erase (s3.part p).log g.convoy } else s3))

/-! ### Gangs that are stopped (R87, R91, R93) -/

/-- Chunks join the re-deal list in ascending first record. -/
def State.redealChunks (s : State) (p i : Nat) (cs : List Chunk) : State :=
  if cs = [] then s
  else
    let q := s.part p
    s.setPart p { q with redeal := AMap.set q.redeal i (sortBy (fun a b => decide (a.first < b.first)) (AMap.getD q.redeal i [] ++ cs)) }

/-- So do the chunks that gangs have retired with (R93). -/
def State.redealLost (s : State) (p i : Nat) : State :=
  let q := s.part p
  (s.setPart p { q with lost := AMap.erase q.lost i }).redealChunks p i ((AMap.getD q.lost i []).flatMap Gang.chunks)

/-- All contexts of a gang end, and it drains. -/
def State.stopGang (s : State) (p : Nat) (g : Gang) (why : Leave) : State :=
  let s1 := g.cores.foldl (fun s n =>
    let s1 := (List.range 11).foldl (fun s x => s.stopCtx n x) s
    s1.setCore n { s1.core n with moving := false }) s
  s1.setGang p { g with draining := true, leave := why, chunks := [] }

/-- The gangs of a task that still run. -/
def State.gangsOf (s : State) (p i : Nat) : List Gang := (s.part p).gangs.filter (fun g => g.tcb = i)

/-- Its gangs are stopped, and every unacknowledged chunk is dealt again. -/
def State.stopTask (s : State) (p i : Nat) (why : Leave) (again : Bool) : State :=
  let gs := s.gangsOf p i
  let s1 := if again then (s.redealLost p i).redealChunks p i (gs.flatMap Gang.chunks) else s
  gs.foldl (fun s g => s.stopGang p g why) s1

/-- A pre-emption of a RUNNING task that is no convoy member (R87). -/
def State.preemptTask (s : State) (p i : Nat) : State :=
  if s.tcbSt p i ≠ tRunning then s
  else if s.tcbF p i 5 21 1 = 1 then
    let s1 := (s.stopTask p i .restart true).setTcbSt p i tReady
    s1.setPart p { s1.part p with wdog := AMap.erase (s1.part p).wdog i }
  else if (AMap.get? (s.part p).grace i).isSome then s
  else (s.setPart p { s.part p with grace := AMap.set (s.part p).grace i s.cyc }).taskRetired p i

/-- The origins of a placed convoy's gangs in member order. -/
def State.cvyOrigins (s : State) (p c : Nat) : List (Nat × Nat) :=
  (List.range (s.cvyMembers p c).length).map (fun j => match s.cvyGang p c j with | some g => (g.x0, g.y0) | none => (0, 0))

/-- A pre-emption of a placed convoy (R91). -/
def State.preemptConvoy (s : State) (p c : Nat) : State :=
  let ms := s.cvyMembers p c
  if !ms.any (fun i => s.tcbSt p i = tRunning) then s
  else if s.cvyLaps p c ≠ 0 then
    let valid := (s.cvyWord p c 13).getLsbD 1
    let q := s.part p
    let s1 := s.setPart p { q with
      log := AMap.erase q.log c, stage := AMap.erase q.stage c, pause := AMap.erase q.pause c
      origins := if valid then AMap.set q.origins c (s.cvyOrigins p c) else q.origins
      kept := if valid then ms.foldl (fun m i => AMap.set m i ((s.gangsOf p i).flatMap Gang.chunks)) q.kept else q.kept }
    ms.foldl (fun s i =>
      let t := s.stopTask p i .restart (!valid)
      if t.tcbSt p i = tRunning then t.setTcbSt p i tReady else t) s1
  else ms.foldl (fun s i =>
    if (AMap.get? (s.part p).grace i).isSome then s else s.setPart p { s.part p with grace := AMap.set (s.part p).grace i s.cyc }) s

/-- A pre-emption request for one task or convoy: it waits for the resolution of a fault, or for step 6 of a checkpoint (R87, R88).  One
of a convoy without a RUNNING member changes nothing (R95). -/
def State.preempt (s : State) (p i : Nat) : State :=
  let c := s.tcbConvoy p i
  let hold (k : Nat) : State := if (s.part p).preempts.contains k then s else s.setPart p { s.part p with preempts := (s.part p).preempts ++ [k] }
  if c ≥ 1024 then (if s.tcbSt p i = tFaulted then hold i else s.preemptTask p i)
  else if !(s.cvyMembers p c).any (fun j => s.tcbSt p j = tRunning) then s
  else if (AMap.get? (s.part p).pause c).isSome || (s.cvyMembers p c).any (fun j => s.tcbSt p j = tFaulted) then hold (8192 + c)
  else s.preemptConvoy p c

/-- The Chartroom takes the request of CHR_PREEMPT (R95). -/
def State.takePreempt (s : State) (p : Nat) (v : Word) : State :=
  let s1 := s.setReg (Pf.chr p 0x30) (v &&& 0x11FFF)
  if v.getLsbD 16 then
    (((s1.part p).tcbs.map Prod.fst).filter (fun i => s1.tcbSt p i = tRunning)).foldl (fun s i => s.preempt p i) s1
  else s1.preempt p (bitsOf v 0 13)

/-- The request of the mesh cycle before that has had to wait. -/
def State.latePreempt (s : State) (p : Nat) : State :=
  let v := s.reg (Pf.chr p 0x30)
  if v.getLsbD 17 then s.takePreempt p v else s

/-- CHR_PREEMPT (R87, R95): a write of CHR_PREEMPT. -/
def execChrPreempt (p : Nat) (v : BitVec 64) (s : State) : Host.Outcome State Fault Refusal :=
  runPilot s (fun s =>
    let a := Pf.chr p 0x30
    if !v.getLsbD 17 then some (s.setReg a ((v &&& 0x11FFF) ||| (s.reg a &&& 0x20000)))
    else if s.attempted p then some (s.setReg a (v &&& 0x31FFF))
    else some (s.takePreempt p v))

/-- Arithmetic cycles of a number of microseconds. -/
def State.micros (s : State) (us : Nat) : Nat := us * s.dev.clock

/-- A task becomes DISCARDED (R69), with its completion record. -/
def State.discard (s : State) (p i cause x y : Nat) : State :=
  let s1 := s.setTcbSt p i tDiscarded
  let q := s1.part p
  (s1.setPart p { q with grace := AMap.erase q.grace i, wdog := AMap.erase q.wdog i, redeal := AMap.erase q.redeal i, lost := AMap.erase q.lost i
                         preempts := q.preempts.filter (· ≠ i) }).complete p i tDiscarded cause x y

/-- What the end of a grace period is to a task, or to a member of a convoy that shares it: one that is RUNNING is stopped and DISCARDED;
the gangs of one that is DRAINING are stopped, and it becomes DONE as they retire; nothing else leaves its state by it (R69). -/
def State.graceEnd (s : State) (p j : Nat) : State :=
  if s.tcbSt p j = tRunning then (s.stopTask p j .discard false).discard p j 0 0 0
  else if s.tcbSt p j = tDraining then s.stopTask p j .discard false
  else s

/-- GRACE_EXPIRY (R87, R91). -/
def execGraceExpiry (p i : Nat) (s : State) : Host.Outcome State Fault Refusal :=
  runEvent s (fun s =>
    match AMap.get? (s.part p).grace i with
    | none => none
    | some t =>
      if s.cyc < t + s.micros (s.regF (Pf.chr p 0x10) 0 32) || s.gangsOf p i = [] || s.tcbSt p i ≠ tRunning then none
      else
        let all := if s.tcbConvoy p i < 1024 then s.cvyMembers p (s.tcbConvoy p i) else [i]
        some ((all.foldl (fun s j => s.graceEnd p j) s).chrEvt p 2))

/-- TASK_WATCHDOG_EXPIRY (R60). -/
def execTaskWatchdogExpiry (p i : Nat) (s : State) : Host.Outcome State Fault Refusal :=
  runEvent s (fun s =>
    let lim := s.regF (Pf.chr p 0x50) 0 32
    match AMap.get? (s.part p).wdog i with
    | none => none
    | some t =>
      if lim = 0 || s.tcbSt p i ≠ tRunning || s.cyc < t + s.micros lim then none
      else some (((s.setRegF (Pf.chr p 0x50) 48 13 i).chrEvt p 5).progress p i))

/-! ### Faults resolved (R93) -/

/-- A pre-emption that waited for a fault's resolution takes effect. -/
def State.waitingPreempt (s : State) (p i : Nat) : State :=
  let c := s.tcbConvoy p i
  let k := if c < 1024 then 8192 + c else i
  if (s.part p).preempts.contains k && (AMap.get? (s.part p).pause c).isNone then
    (s.setPart p { s.part p with preempts := (s.part p).preempts.filter (· ≠ k) }).preempt p i
  else s

/-- The state that a task whose fault is resolved goes back to (R93): DRAINING where every record is acknowledged, or where the gang of a
single launch has exited, else RUNNING (log entry 30). -/
def State.backTo (s : State) (p i : Nat) : Nat :=
  if s.recCount p i = 0 then (if s.liveGangs p i = 0 then tDraining else tRunning)
  else if s.acked p i = s.recCount p i then tDraining else tRunning

/-- The task goes back to it; one whose gangs have all retired in the meantime is DONE, a convoy's member once the convoy's have (R69,
R76, R83). -/
def State.backFrom (s : State) (p i : Nat) : State :=
  let t := s.setTcbSt p i (s.backTo p i)
  let c := t.tcbConvoy p i
  if t.tcbSt p i = tDraining && !(c < 1024 && (t.part p).gangs.any (fun g => g.convoy = c)) then t.taskRetired p i else t

/-- The pre-emptions that have waited for a fault that is resolved now, however it was (R87, R93). -/
def State.heldPreempts (s : State) (p : Nat) : State :=
  (s.part p).preempts.foldl (fun s k =>
    let ms := if k < 8192 then [k] else s.cvyMembers p (k - 8192)
    if ms.any (fun i => s.tcbSt p i = tFaulted) || (8192 ≤ k && (AMap.get? (s.part p).pause (k - 8192)).isSome) then s
    else
      let t := s.setPart p { s.part p with preempts := (s.part p).preempts.filter (· ≠ k) }
      if k < 8192 then t.preemptTask p k else t.preemptConvoy p (k - 8192)) s

/-- FAULT_RESOLUTION (R93). -/
def execFaultResolution (p i : Nat) (how : Resolution) (s : State) : Host.Outcome State Fault Refusal :=
  runPilot s (fun s =>
    if s.tcbSt p i ≠ tFaulted then none
    else
      let n := coreAt (s.tcbF p i 9 8 8) (s.tcbF p i 9 16 8)
      let x := s.tcbF p i 9 24 4
      match how with
      | .resume =>
        let s1 := s.backFrom p i
        let s2 := if (s1.ctx n x).st = .halted && bitsOf (s1.ctx n x).hrec.d0 0 8 = s.tcbF p i 9 0 8 then s1.releaseCtx n x else s1
        some (s2.waitingPreempt p i)
      | .restart =>
        match (s.gangsOf p i).find? (fun g => g.cores.contains n) with
        | none =>
          let s1 := s.redealLost p i
          some ((if s1.gangsOf p i = [] then (s1.setTcbSt p i tReady).seqOne p i else s1.setTcbSt p i tRunning).waitingPreempt p i)
        | some g =>
          let s1 := ((s.redealLost p i).redealChunks p i g.chunks).stopGang p g .restart
          let s2 := if (s1.gangsOf p i).any (fun h => !h.draining) then s1.setTcbSt p i tRunning else (s1.setTcbSt p i tReady).seqOne p i
          some (s2.waitingPreempt p i)
      | .kill =>
        let s1 := (s.gangsOf p i).foldl (fun s g =>
          let s1 := s.setGang p { g with leave := .kill, chunks := [] }
          let s2 := g.cores.foldl (fun s m =>
            let s1 := (List.range 11).foldl (fun s y => s.killSoon m y) s
            s1.setCore m { s1.core m with moving := false }) s1
          s2.gangCheck p { g with leave := .kill, chunks := [] }) s
        some (s1.discard p i (s.tcbF p i 9 0 8) (s.tcbF p i 9 8 8) (s.tcbF p i 9 16 8)))

end Sys2Proof.Machine
end

