-- ==== Sys2Proof/Machine/Cycle.lean ====
section
/-! DEFINITION. The end of an arithmetic cycle (R4): what counts cycles, and what the machine does once in each mesh cycle. -/

namespace Sys2Proof.Machine

/-- The contexts of the cores that the state lists. -/
def State.allCtxs (s : State) : List (Nat × Nat) := s.cores.flatMap (fun c => ctxNums.map (fun x => (c.1, x)))

/-- The cycle counts towards the limits of the waits in progress (R206). -/
def State.countWaits (s : State) : State :=
  s.allCtxs.foldl (fun t c =>
    let k := t.ctx c.1 c.2
    match k.wait with
    | some w => if s.waitCounts c.1 c.2 w then t.setCtx c.1 c.2 { k with wait := some { w with elapsed := w.elapsed + 1 } } else t
    | none => t) s

/-- A stop trigger of the cycle turns tracing off, after the cycle's records; start source 0 turns it on again in the next cycle (R224). -/
def State.traceStops (s : State) : State :=
  s.cores.foldl (fun t c =>
    if c.2.trStop then
      let a := Pf.dbg c.1 0x188
      ((t.setReg a (t.reg a &&& 0xFFFFFFFFFFFFFFEF#64)).setCore c.1 { t.core c.1 with trStop := false }).traceHold c.1
    else t) s

/-- SND_CYC of a running trial (R228). -/
def State.soundingCycle (s : State) : State :=
  (List.range 8).foldl (fun t p =>
    if (t.reg (Pf.snd p 0)).getLsbD 63 then t.setReg (Pf.snd p 0x20) (t.reg (Pf.snd p 0x20) + 1) else t) s

/-- A timetable word whose offset has passed untaken is discarded, and the damage flag is set (R181). -/
def State.ttDiscard (s : State) : State :=
  s.cores.foldl (fun t c =>
    match c.2.phase with
    | some p =>
      let old := p.arrived.filter (fun a => decide (p.cycle a.1 < s.mesh))
      if old = [] then t
      else t.setCore c.1 { t.core c.1 with
        phase := some { p with arrived := p.arrived.filter (fun a => decide (s.mesh ≤ p.cycle a.1)), damage := true } }
    | none => t) s

/-- Withheld and released notices of the ranks of fabric-scope fixes (R35), to each other device in the rank table, whether the fix's home
is this device or another. -/
def State.notices (s : State) : State :=
  (s.liveFixes.filter (fun g => fxTabled g.2.desc)).foldl (fun t g =>
    let h := g.1
    let tell (t : State) (r n ty : Nat) : State :=
      (t.otherDevs g.2).foldl (fun t d =>
        t.sendPacket { type := ty, vl := 2, core := n, part := partOf n, dev := d, dpart := g.2.devPart d
                       target := BitVec.ofNat 64 (h.toNat + r * 2 ^ 32) }) t
    g.2.joined.foldl (fun t j =>
      let (r, n, x) := j
      match t.fix h with
      | some f =>
        let halted := (t.haltId n x).isSome
        if halted && !f.noticed.contains r then tell (t.setFixObj h { f with noticed := r :: f.noticed }) r n 6
        else if !halted && f.noticed.contains r then tell (t.setFixObj h { f with noticed := f.noticed.filter (· ≠ r) }) r n 7
        else t
      | none => t) t) s

/-- A mesh cycle's requests to the hubs are granted, and the entries whose packets left in the cycle before are free (R40, R41). -/
def State.hubCycle (s : State) : State := s.hubs.foldl (fun s h => (s.serveAsks h.1).freeEntries h.1) s

/-- An up port that has sent everything sends an idle flit (R28). -/
def State.idleFlits (s : State) : State := s.ports.foldl (fun s k => s.idleFlit k.1) s

/-- What happens as a mesh cycle begins: the Chartrooms serve the requests of the cycle before and pre-emptions after them (R70), and the
fix logic sees halts. -/
def State.meshCycle (s : State) : State :=
  let s1 := partNums.foldl (fun s p => (((s.chartCycle p).latePreempt p).heldPreempts p).reqDone p) s
  s1.notices.hubCycle.roundsGo.phasesGo.ttDiscard.idleFlits

/-- An arithmetic cycle ends. -/
def State.tick (s : State) : State :=
  let s1 := s.countWaits.traceStops.soundingCycle
  let s2 := { s1 with cyc := s1.cyc + 1 }
  if s2.cyc % 2 = 0 then s2.meshCycle else s2

/-! ### Soundings (R228) -/

/-- The rectangle and period of a partition's trial. -/
def State.sndRect (s : State) (p : Nat) : Rect :=
  let c := s.reg (Pf.snd p 0)
  ⟨bitsOf c 10 5, bitsOf c 15 5, bitsOf c 20 3, bitsOf c 23 3⟩
def State.sndPeriod (s : State) (p : Nat) : Nat := s.regF (Pf.snd p 0x18) 32 32

/-- An address lies in the range of a trial. -/
def State.sndRange (s : State) (p : Nat) (a : Word) : Bool :=
  decide ((s.reg (Pf.snd p 0x08)).toNat ≤ a.toNat) && decide (a.toNat < (s.reg (Pf.snd p 0x10)).toNat)

/-- A context of core n has issued the instruction at a: A of each trial over the core grows. -/
def State.sndIssue (s : State) (n : Nat) (a : Word) : State :=
  partNums.foldl (fun s p =>
    if (s.reg (Pf.snd p 0)).getLsbD 63 && (s.sndRect p).has n && s.sndRange p a then
      s.setPart p { s.part p with snd := (s.part p).snd + 1 }
    else s) s

/-- SOUNDING_PAUSE (R228): A has reached P. -/
def execSoundingPause (p : Nat) (s : State) : Host.Outcome State Fault Refusal :=
  runEvent s (fun s =>
    let q := s.part p
    if (s.reg (Pf.snd p 0)).getLsbD 63 && s.sndPeriod p ≠ 0 && decide (s.sndPeriod p ≤ q.snd) then
      let s1 := (s.setPart p { q with snd := q.snd - s.sndPeriod p }).setReg (Pf.snd p 0x28) (s.reg (Pf.snd p 0x28) + 1)
      let d := s.regF (Pf.snd p 0x18) 0 32
      some ((s1.allCtxs.filter (fun c => (s.sndRect p).has c.1)).foldl (fun t c =>
        let k := t.ctx c.1 c.2
        if k.st = .live && !t.sndRange p k.pc then t.setCtx c.1 c.2 { k with sounding := k.sounding + d } else t) s1)
    else none)

/-- What a write of SND_CTL leaves of its fields: the RW fields as written, ERR unless a one clears it (R230). -/
def State.sndFields (s : State) (p : Nat) (v : Word) : Word :=
  (v &&& 0x3FFFC00#64) ||| (if v.getLsbD 61 then 0 else s.reg (Pf.snd p 0) &&& 0x2000000000000000#64)

/-- SOUNDING_GO (R228): a write of SND_CTL with GO.  The rectangle is aligned and lies in the partition, and P is not 0. -/
def execSoundingGo (p : Nat) (v : BitVec 64) (s : State) : Host.Outcome State Fault Refusal :=
  runPilot s (fun s =>
    let a := Pf.snd p 0
    let s1 := s.setReg a (s.sndFields p v ||| (s.reg a &&& 0x8000000000000000#64))
    let r := s1.sndRect p
    if r.aligned && r.cores.all (fun n => partOf n = p) && s1.sndPeriod p ≠ 0 then
      let s2 := partNums.foldl (fun s i => s.setRegF (Pf.snd p (0x40 + 8 * i)) 0 48 0) s1
      let s3 := (s2.setReg (Pf.snd p 0x20) 0).setReg (Pf.snd p 0x28) 0
      some ((s3.setPart p { s3.part p with snd := 0 }).setReg a (s3.reg a ||| 0x8000000000000000#64))
    else some (s1.setReg a (s1.reg a ||| 0x2000000000000000#64)))

/-- SOUNDING_STOP (R228): a write of SND_CTL with STOP; the counters stay. -/
def execSoundingStop (w : SndWrite) (s : State) : Host.Outcome State Fault Refusal :=
  runPilot s (fun s => some (s.setReg (Pf.snd w.part 0) (s.sndFields w.part w.v)))

end Sys2Proof.Machine
end

