-- ==== Sys2Proof/Machine/Checkpoint.lean ====
section
/-! DEFINITION. Checkpoints of a convoy (R88, R89): the pause, the image, its commit with the deferred log. -/

namespace Sys2Proof.Machine

/-- The cores of a placed convoy: member, place in the member's gang, core. -/
def State.cvyCores (s : State) (p c : Nat) : List (Nat × Nat × Nat) :=
  ((s.part p).gangs.filter (fun g => g.convoy = c && !g.draining)).flatMap (fun g => g.cores.zipIdx.map (fun e => (g.member, e.2, e.1)))

/-- Steps 1 and 2: every context stops at its next instruction boundary, and has its registers written back (R103, R106).  Its SFU
requests are not withdrawn: they complete in step 3, held ones too (R88 over R120: DEDUCED, log entry 112).  A halted one that is released
in the meantime stays stopped. -/
def State.pauseConvoy (s : State) (p c : Nat) : State :=
  let s1 := s.setPart p { s.part p with pause := AMap.set (s.part p).pause c 1 }
  (s1.cvyCores p c).foldl (fun s e =>
    let n := e.2.2
    ctxNums.foldl (fun s x =>
      if (s.ctx n x).st = .free then s
      else
        let t := if (s.ctx n x).st = .live then s.rejoin n x else s
        let u := t.setCore n ((t.core n).writeBackAll x)
        u.setCtx n x { (u.ctx n x).afterPause with paused := true }) s) s1

/-- The pause of a convoy whose pacing region has come to a non-zero multiple of N laps (R88). -/
def State.paceCheck (s : State) (n r : Nat) : State :=
  match (s.core n).gang with
  | none => s
  | some g =>
    let e := (s.core n).rose r
    if g.convoy < 1024 && s.pacer g.part g.convoy = some (n, r) && e.bound && !e.view && e.laps ≠ 0 && e.needle = 0 &&
        e.lap ≠ 0 && e.lap.toNat % e.laps = 0 && (AMap.get? (s.part g.part).pause g.convoy).isNone then
      s.pauseConvoy g.part g.convoy
    else s

/-- Step 3 is over: nothing of the convoy is under way. -/
def State.cvyQuiet (s : State) (cores : List Nat) : Bool :=
  cores.all (fun n =>
    s.engineIdle n && ctxNums.all (fun x => (s.ctx n x).st ≠ .live || (s.ctx n x).atBoundary)) &&
  s.flight.all (fun a => !cores.contains a.core) &&
  s.noc.all (fun i => match i.m with
    | .msg d _ _ | .barRelease _ _ d | .allowance d _ _ _ | .grant d _ _ _ => !cores.contains d
    | .barArrive _ _ n _ => !cores.contains n
    | .ttWord w => !cores.contains w.dst
    | _ => true)

/-- Writes bytes at a partition address line by line. -/
def State.partFill (s : State) (p a : Nat) (bs : List Byte) : Nat → State
  | 0 => s
  | fuel + 1 =>
    if bs = [] then s
    else
      let k := 64 - a % 64
      partFill (s.partWrite p a (bs.take k)) p (a + k) (bs.drop k) fuel

/-- The half of the area that is not current, 0 or 1. -/
def State.otherHalf (s : State) (p c : Nat) : Nat := if (s.cvyWord p c 13).getLsbD 0 then 0 else 1

/-- The address of a half. -/
def State.halfAddr (s : State) (p c h : Nat) : Nat := bitsOf (s.cvyWord p c 2) 0 48 + h * bitsOf (s.cvyWord p c 3) 0 32

/-- The declared ranges of a member: scratchpad offset and bytes (R82). -/
def State.savedRanges (s : State) (p c member : Nat) : List (Nat × Nat) :=
  (List.range 8).filterMap (fun r =>
    let w := s.cvyWord p c (4 + r)
    if bitsOf w 62 2 = member && bitsOf w 32 30 ≠ 0 then some (bitsOf w 0 32, bitsOf w 32 30) else none)

/-- What an image holds of a core (R89): the workspaces of its contexts, rose descriptors, queue registers, mailboxes, copy status words,
barriers and the declared ranges, and rows and weights where the record asks for them. -/
def Core.imaged (c : Core) (acc wb : Bool) (ranges : List (Nat × Nat)) : Core :=
  let spaces := (ctxNums.filter (fun x => (c.ctx x).st ≠ .free && !(c.ctx x).noWs)).map (fun x => (wsOff (c.ctx x).wsp, 512))
  let saved (a : Nat) : Bool := (spaces ++ ranges).any (fun r => decide (r.1 ≤ a) && decide (a < r.1 + r.2))
  { ctxs := c.ctxs, qs := c.qs, bars := c.bars, roses := c.roses, mboxes := c.mboxes, grants := c.grants, chans := c.chans
    scr := c.scr.filter (fun b => saved b.1), rows := if acc then c.rows else [], wts := if wb then c.wts else []
    scratch := c.scratch, stack := c.stack }

/-- CHECKPOINT_IMAGE_WRITE (R88, step 4): registers are written back and the image is written to the other half, but for its header. -/
def execCheckpointImageWrite (p c : Nat) (s : State) : Host.Outcome State Fault Refusal :=
  runEvent s (fun s =>
    let es := s.cvyCores p c
    if AMap.get? (s.part p).pause c ≠ some 1 || !s.cvyQuiet (es.map (fun e => e.2.2)) then none
    else
      let s1 := es.foldl (fun s e => s.setCore e.2.2 (ctxNums.foldl (fun k x =>
        if k.holds x then k.writeBackAll x else k) (s.core e.2.2))) s
      let h := s1.otherHalf p c
      let d0 := s1.cvyWord p c 0
      let img := es.map (fun e => (e.1, e.2.1, (s1.core e.2.2).imaged (d0.getLsbD 2) (d0.getLsbD 3) (s1.savedRanges p c e.1)))
      let n := s1.imageBound p c - 64
      let s2 := s1.partFill p (s1.halfAddr p c h + 64) ((List.range n).map (fun i => Config.imageByte s1.fresh i)) (n + 1)
      let q := s2.part p
      some { s2.setPart p { q with images := AMap.set q.images (2 * c + h) img, pause := AMap.set q.pause c 5 } with fresh := s1.fresh + 1 })

/-- Step 6: the deferred log in issue order, then USER (R319). -/
def State.commitLog (s : State) (p c : Nat) : State :=
  let s1 := (sortBy (fun a b => decide (a.ord < b.ord)) (AMap.getD (s.part p).log c [])).foldl (fun s e => (s.engWrite e.core e.addr.toNat e.data).2) s
  let st := AMap.getD (s1.part p).stage c (none, none)
  let s2 := match st.1 with | some v => s1.setCvyWord p c 15 v | none => s1
  s2.setPart p { s2.part p with log := AMap.erase (s2.part p).log c, stage := AMap.set (s2.part p).stage c (st.2, none) }

/-- Steps 5 and 6: the header is written last and makes the image current; the log is committed as a release at .dev (R168): what it has
left dirty in the L1s leaves. -/
def State.commitImage (s : State) (p c : Nat) : State :=
  let h := s.otherHalf p c
  let s1 := s.partFill p (s.halfAddr p c h) ((List.range 64).map (fun i => Config.imageByte s.fresh (i + 2 ^ 64))) 65
  let lap := match s.pacer p c with | some (n, r) => ((s.core n).rose r).lap.toNat | none => 0
  let d12 := BitVec.ofNat 64 (lap * 2 ^ 32 + (bitsOf (s.cvyWord p c 12) 0 32 + 1) % 2 ^ 32)
  let s2 := ((s1.setCvyWord p c 13 (BitVec.ofNat 64 (2 + h))).setCvyWord p c 12 d12).commitLog p c
  let s3 := { (s2.setPart p { s2.part p with pause := AMap.set (s2.part p).pause c 6 }).chrEvt p 4 with fresh := s.fresh + 1 }
  (s3.cvyCores p c).foldl (fun s e => (s.drain e.2.2).drainUo e.2.2) s3

/-- Step 7: a pre-emption that waited takes effect, unless a member's fault still holds it (R87), or the contexts resume, and read no older
value than the commit's: no core of the convoy keeps a clean line (R168). -/
def State.endPause (s0 : State) (p c : Nat) : State :=
  let s := (s0.cvyCores p c).foldl (fun s e => s.invalidateAll e.2.2) s0
  let s1 := s.setPart p { s.part p with pause := AMap.erase (s.part p).pause c }
  if (s1.part p).preempts.contains (8192 + c) && !(s1.cvyMembers p c).any (fun i => s1.tcbSt p i = tFaulted) then
    (s1.setPart p { s1.part p with preempts := (s1.part p).preempts.filter (· ≠ 8192 + c) }).preemptConvoy p c
  else
    (s1.cvyCores p c).foldl (fun s e =>
      s.setCore e.2.2 { s.core e.2.2 with ctxs := (s.core e.2.2).ctxs.map (fun k => { k with paused := false }) }) s1

/-- CHECKPOINT_COMMIT (R88, steps 5 to 7): first the image and the log, then, once every store of the commit is acknowledged, the end. -/
def execCheckpointCommit (p c : Nat) (s : State) : Host.Outcome State Fault Refusal :=
  runEvent s (fun s =>
    match AMap.get? (s.part p).pause c with
    | some 5 => some (s.commitImage p c)
    | some 6 => if (s.cvyCores p c).all (fun e => s.unacked e.2.2 = []) then some (s.endPause p c) else none
    | _ => none)

end Sys2Proof.Machine
end

