-- ==== Sys2Proof/Machine/Deliveries.lean ====
section
/-! DEFINITION. What the machine's own traffic on the mesh does as it leaves and arrives: messages (R174, R175, R225 to R227), barriers
(R330, R151), timetable phases (R179 to R181), fix contributions (R190) and base-die folds (R17). -/

namespace Sys2Proof.Machine

/-- The core that a message of the mesh comes from, and the core that it goes to, where other traffic can hold it: what a hub or a base die
takes crosses no core's links, and a barrier's signals take their times whatever else the mesh carries (R330). -/
def State.nocRoute (s : State) (m : NocMsg) : Option (Nat × Nat) :=
  match m with
  | .msg dst _ g => some (g.src, dst)
  | .allowance dest dst _ _ => some (dst, dest)
  | .grant dest dst _ _ => some (dst, dest)
  | .fix h k c => if c.port = 64 then (s.fix h).map (fun f => ((s.rankPlace f c.rank).2, s.agentCore h f k)) else none
  | .barArrive _ _ _ _ | .barRelease _ _ _ | .ttWord _ | .nearFold _ _ => none

/-- Ordinary traffic whose way lies over a link of a running phase waits (R179). -/
def State.nocHeld (s : State) (i : NocItem) : Bool :=
  i.phase.isNone && (match s.nocRoute i.m with | some (n, k) => s.linkBusy n k | none => false)

/-- A mesh message that has reached its target leaves the mesh. -/
def State.takeNoc (s : State) (id : Nat) : Option (NocMsg × State) :=
  match s.noc.find? (fun i => i.id = id) with
  | some i =>
    match i.due with
    | some u =>
      if i.after = [] && decide (u ≤ s.mesh) && !s.nocHeld i then some (i.m, { s with noc := s.noc.filter (fun j => j.id ≠ id) }) else none
    | none => none
  | none => none

/-! ### Sending (R175, R190) -/

/-- A message leaves with an allowance of its grant; one that finds none stays. -/
def State.sendHead (s : State) (n dst mbox : Nat) (hdr : Word) (data : List Byte) (rest : List SendCmd) : Option State :=
  match AMap.get? (s.core n).grants (mboxKey dst mbox) with
  | none => none
  | some g =>
    if g.free = 0 || s.linkBusy n dst then none
    else
      let s1 := s.setCore n { s.core n with sendq := rest, grants := AMap.set (s.core n).grants (mboxKey dst mbox) { g with free := g.free - 1 } }
      let s2 := s1.post (.msg dst mbox { hdr := hdr, data := data, src := n, gen := g.gen }) [] (meshDist n dst)
      some (s2.traceRec n (bitsOf hdr 27 4) 4 (hdr ||| 0x8000000000000000#64))

/-- The elements of a contribution. -/
def fxValues (d : Line) (bs : List Byte) : List (BitVec 32) := ((groups (fxE d) bs.length bs).take (fxCount d)).map (fun g => BitVec.ofNat 32 (ofLeBytes g))

/-- The 256-byte chunks of a contribution, and how many there are (R186, R193). -/
def chunksOf (d : Line) (c : Contrib) : List Contrib :=
  (List.range (chunkCount d)).map (fun i =>
    { c with vals := (c.vals.drop (i * chunkLen d)).take (chunkLen d), chunk := i, chunks := chunkCount d })

/-- A contribution leaves (R186, R31): to the agents of this device, under TIMETABLE in its round's phase; in packets to the agents of other
devices, or to the home's. -/
def State.spread (s : State) (h : BitVec 32) (f : FixObj) (n : Nat) (c0 : Contrib) : State :=
  let d := f.desc
  let c := { c0 with part := partOf n }
  if f.alg = .timetable then s.setFixObj h { f with phase := f.phase ++ [c] }
  else
    let parts := if fxArrival d then chunksOf d c else [c]
    let s1 := f.folds.foldl (fun s k => parts.foldl (fun s e => s.post (.fix h k.1 e) [] (meshDist n (s.agentCore h f k.1))) s) s
    let devs := if f.pushes then s1.otherDevs f else if fxDev h = s1.selfDev then [] else [fxDev h]
    devs.foldl (fun s dv => (chunksOf d c).foldl (fun s e =>
      s.sendPacket { type := 1, vl := 0, core := n, part := partOf n, dev := dv
                     dpart := if f.pushes then f.devPart dv else partOf (fxHome h)
                     target := BitVec.ofNat 64 (h.toNat + c.rank * 2 ^ 32 + e.chunk * 2 ^ 48), round := c.tag
                     data := e.vals.flatMap (fun v => leBytes (fxE d) v.toNat) }) s) s1

/-- The contribution at the head: its source is read now, and an uncorrectable line sends nothing (R338). -/
def State.sendFix (s : State) (n : Nat) (h tag : BitVec 32) (rank : Nat) (src : Word) (rest : List SendCmd) : State :=
  let s1 := s.setCore n { s.core n with sendq := rest }
  match s1.fix h with
  | none => s1
  | some f =>
    match s1.engRead n src.toNat (fxCount f.desc * fxE f.desc) with
    | ((_, some c), s2) => s2.engineEvent n 0x42 c
    | ((bs, none), s2) => s2.spread h f n { rank := rank, tag := tag, vals := fxValues f.desc bs }

/-- MESSAGE_SEND (R175): the command at the head of the send queue, once what it follows is complete. -/
def execMessageSend (n : Nat) (s : State) : Host.Outcome State Fault Refusal :=
  runEvent s (fun s =>
    match (s.core n).sendq with
    | .msg dst mbox hdr data after :: rest => if after = [] then s.sendHead n dst mbox hdr data rest else none
    | .fix h tag rank src after :: rest => if after = [] then some (s.sendFix n h tag rank src rest) else none
    | [] => none)

/-! ### Delivery, digests and replay (R225 to R227) -/

/-- A message is delivered: the digest takes its two words, and at the compare point the digests are compared (R226).  Under replay that is
the order of the list (R227, log entry 91). -/
def State.digest (s : State) (n : Nat) (g : Msg) : State :=
  let w := foldDigest (foldDigest (s.reg (Pf.dbg n 0x198)) g.hdr) ((crc32c g.wide).setWidth 64)
  let cnt := (s.regF (Pf.dbg n 0x1A0) 0 32 + 1) % 2 ^ 32
  let s1 := (s.setReg (Pf.dbg n 0x198) w).setRegF (Pf.dbg n 0x1A0) 0 32 cnt
  let at0 := s.regF (Pf.dbg n 0x1B0) 0 32
  let s2 := if at0 ≠ 0 && cnt = at0 && w ≠ s.reg (Pf.dbg n 0x1A8) then
      (s1.setReg (Pf.dbg n 0x1C8) (s1.reg (Pf.dbg n 0x1C8) ||| 2)).pilotEvent 9 (BitVec.ofNat 64 n) 0
    else s1
  s2.traceRec n 15 4 g.hdr

/-- Replay is on (R227). -/
def State.replaying (s : State) (n : Nat) : Bool := (s.reg (Pf.dbg n 0x1B8)).getLsbD 63

/-- The entry of the list that comes next. -/
def State.replayEntry (s : State) (n : Nat) : Nat :=
  let p := partOf n
  (s.die (partDie p)).scr.read (p % 2 * 0x1000000 + s.regF (Pf.dbg n 0x1B8) 16 24 + 2 * (s.core n).rplPos) 2

/-- A hidden message becomes the newest visible one of its mailbox, and is delivered. -/
def State.unhide (s : State) (n m : Nat) (g : Msg) : State :=
  let b := (s.core n).mbox m
  (s.setCore n ((s.core n).setMbox m { b with msgs := b.msgs.erase g ++ [{ g with hidden := false }] })).digest n g

/-- The hidden messages of a core, as (mailbox, message), in the order of their arrival. -/
def Core.hiddenMsgs (c : Core) : List (Nat × Msg) :=
  sortBy (fun a b => decide (a.2.seq < b.2.seq)) (c.mboxes.flatMap (fun b => (b.2.msgs.filter Msg.hidden).map (fun g => (b.1, g))))

/-- What is hidden is delivered, in the order of its arrival: replay has ended (R227). -/
def State.unhideAll (s : State) (n : Nat) : State := (s.core n).hiddenMsgs.foldl (fun s p => s.unhide n p.1 p.2) s

/-- The list is used up: EN clears, RPL_DONE is set, and what is hidden is delivered. -/
def State.replayEnd (s : State) (n : Nat) : State :=
  ((s.setReg (Pf.dbg n 0x1B8) (s.reg (Pf.dbg n 0x1B8) &&& 0x7FFFFFFFFFFFFFFF#64)).setReg (Pf.dbg n 0x1C8)
    (s.reg (Pf.dbg n 0x1C8) ||| 1)).unhideAll n

/-- Messages are delivered as long as the list names one that is there. -/
def State.replay (s : State) (n : Nat) : Nat → State
  | 0 => s
  | fuel + 1 =>
    if (s.core n).rplPos ≥ s.regF (Pf.dbg n 0x1B8) 0 16 then s.replayEnd n
    else
      let e := s.replayEntry n
      let src := coreAt (e % 32) (e / 32 % 32)
      let m := e / 2 ^ 10 % 16
      match ((s.core n).mbox m).msgs.find? (fun g => g.hidden && g.src = src) with
      | none => s
      | some g =>
        let s1 := s.unhide n m g
        replay (s1.setCore n { s1.core n with rplPos := (s1.core n).rplPos + 1 }) n fuel

/-- A message is stored in its mailbox; an unbound mailbox that nothing rebinds takes none. -/
def State.store (s : State) (n m : Nat) (g : Msg) : State :=
  let b := (s.core n).mbox m
  if b.word.isNone && b.rebind.isNone then s
  else if s.replaying n then
    let (id, s0) := s.newId
    let s1 := s0.setCore n ((s0.core n).setMbox m { b with msgs := b.msgs ++ [{ g with hidden := true, seq := id }] })
    s1.replay n (s1.regF (Pf.dbg n 0x1B8) 0 16 + 1)
  else (s.setCore n ((s.core n).setMbox m { b with msgs := b.msgs ++ [g] })).digest n g

/-- An earlier message from the same core to the same mailbox is still on its way (R175). -/
def State.msgAhead (s : State) (id : Nat) (dst mbox : Nat) (g : Msg) : Bool :=
  s.noc.any (fun i => decide (i.id < id) && match i.m with | .msg d b e => d = dst && b = mbox && e.src = g.src | _ => false)

/-- MESSAGE_ARRIVAL (R175). -/
def execMessageArrival (id : Nat) (s : State) : Host.Outcome State Fault Refusal :=
  runEvent s (fun s =>
    match s.takeNoc id with
    | some (.msg dst mbox g, s1) => if s.msgAhead id dst mbox g then none else some (s1.store dst mbox g)
    | _ => none)

/-- ALLOWANCE_RETURN (R175): an allowance of an earlier grant is no longer one. -/
def execAllowanceReturn (id : Nat) (s : State) : Host.Outcome State Fault Refusal :=
  runEvent s (fun s =>
    match s.takeNoc id with
    | some (.allowance dest dst mbox gen, s1) =>
      match AMap.get? (s1.core dest).grants (mboxKey dst mbox) with
      | some g =>
        if g.gen = gen then
          some (s1.setCore dest { s1.core dest with grants := AMap.set (s1.core dest).grants (mboxKey dst mbox) { g with free := g.free + 1 } })
        else some s1
      | none => some s1
    | _ => none)

/-! ### Binding a mailbox (R174) -/

/-- The MBIND of a mailbox ends with an answer to its context. -/
def State.endBind (s : State) (n m : Nat) (r : Rebind) (c : BitVec 8) : State :=
  let s1 := s.setCore n ((s.core n).setMbox m { (s.core n).mbox m with rebind := none })
  let k := s1.ctx n r.ctx
  (if k.block.contains r.id then s1.setCtx n r.ctx { k with answer := some (c, 0) } else s1).retire r.id

/-- Messages are on their way to a mailbox. -/
def State.msgsFor (s : State) (n m : Nat) : Bool := s.noc.any (fun i => match i.m with | .msg d b _ => d = n && b = m | _ => false)

/-- MBIND_COMPLETE (R174, steps 2 and 3). -/
def execMbindComplete (n : Nat) (s : State) : Host.Outcome State Fault Refusal :=
  runEvent s (fun s =>
    match (s.core n).mboxes.find? (fun b => b.2.rebind.isSome && b.2.word.isNone && !s.msgsFor n b.1) with
    | none => none
    | some (m, b) =>
      match b.rebind with
      | none => none
      | some r =>
        if b.msgs ≠ [] then some (s.endBind n m r 0x81)
        else
          let s1 := s.setCore n ((s.core n).setMbox m { b with word := some r.word })
          let g : Grant := { gen := b.gen, slotBytes := bindSlot r.word, free := bindAllow r.word }
          some ((bindRect r.word).cores.foldl (fun s k => s.post (.grant k n m g) [] (meshDist n k)) s1))

/-- MAILBOX_GRANT (R174, step 4): a grant that has been revoked on its way is not recorded; the last one that is completes the MBIND. -/
def execMailboxGrant (id : Nat) (s : State) : Host.Outcome State Fault Refusal :=
  runEvent s (fun s =>
    match s.takeNoc id with
    | some (.grant dest dst mbox g, s1) =>
      let live := g.gen = ((s1.core dst).mbox mbox).gen
      let s2 := if live then s1.setCore dest { s1.core dest with grants := AMap.set (s1.core dest).grants (mboxKey dst mbox) g } else s1
      if s2.noc.any (fun i => match i.m with | .grant _ d b _ => d = dst && b = mbox | _ => false) then some s2
      else match ((s2.core dst).mbox mbox).rebind with
        | some r => some (s2.endBind dst mbox r 0)
        | none => some s2
    | _ => none)

/-! ### Barriers (R330, R151) -/

/-- BARRIER_ARRIVAL (R330). -/
def execBarrierArrival (id : Nat) (s : State) : Host.Outcome State Fault Refusal :=
  runEvent s (fun s =>
    match s.takeNoc id with
    | some (.barArrive b w n x, s1) =>
      let o := barOrigin w
      some ((s1.setCore o ((s1.core o).setBar b (((s1.core o).bar b).arrive w n x))).barComplete o b)
    | _ => none)

/-- The homes that a barrier of a core advances, and the pause of a convoy that one of them paces (R88). -/
def State.advanceHomes (s : State) (n b : Nat) : State :=
  (s.core n).roses.foldl (fun s r =>
    if r.2.bound && !r.2.view && r.2.barrier = b then
      (s.setCore n ((s.core n).setRose r.1 ((s.core n).rose r.1).advance)).paceCheck n r.1
    else s) s

/-- BARRIER_RELEASE (R330). -/
def execBarrierRelease (id : Nat) (s : State) : Host.Outcome State Fault Refusal :=
  runEvent s (fun s =>
    match s.takeNoc id with
    | some (.barRelease b w n, s1) =>
      let k := (s1.core n).bar b
      if k.desc = some w then
        some ((s1.setCore n ((s1.core n).setBar b (k.release w))).advanceHomes n b)
      else some s1
    | _ => none)

/-! ### Timetable phases (R179 to R181) -/

/-- Every core of the rectangle takes part in the same phase, and it passes a test. -/
def State.phaseAll (s : State) (rect : Word) (f : Phase → Bool) : Bool :=
  (rectOfWord rect).cores.all (fun n => match (s.core n).phase with | some p => p.rect = rect && f p | none => false)

/-- A change of the phase on every core of its rectangle. -/
def State.phaseMap (s : State) (rect : Word) (f : Phase → Phase) : State :=
  (rectOfWord rect).cores.foldl (fun s n => s.setCore n { s.core n with phase := (s.core n).phase.map f }) s

/-- TIMETABLE_RELEASE (R179): all participants have joined.  The release comes with a mesh cycle, so that what a core issues after its
TTGO is not late for offset 0 (R180). -/
def execTimetableRelease (n : Nat) (s : State) : Host.Outcome State Fault Refusal :=
  runEvent s (fun s =>
    match (s.core n).phase with
    | some p =>
      let crossing := s.noc.any (fun i => i.phase.any (fun r => (rectOfWord r).cores.any (rectOfWord p.rect).has))
      if s.cyc % 2 = 0 && s.phaseAll p.rect (fun q => q.release.isNone) && !crossing then some (s.phaseMap p.rect (fun q => { q with release := some s.mesh })) else none
    | none => none)

/-- TIMETABLE_WORD_ARRIVAL (R181): a damaged word brings 0. -/
def execTimetableWordArrival (id : Nat) (s : State) : Host.Outcome State Fault Refusal :=
  runEvent s (fun s =>
    match s.takeNoc id with
    | some (.ttWord w, s1) =>
      match (s1.core w.dst).inPhase with
      | some p => some (s1.setCore w.dst { s1.core w.dst with
          phase := some { p with arrived := p.arrived ++ [(s.ttReadable w.src w.dst w.off, if w.damaged then 0 else w.val, w.damaged)] } })
      | none => some s1
    | _ => none)

/-- TIMETABLE_END (R181). -/
def execTimetableEnd (n : Nat) (s : State) : Host.Outcome State Fault Refusal :=
  runEvent s (fun s =>
    match (s.core n).inPhase with
    | some p => if s.phaseAll p.rect (fun q => q.running && q.ending) then some (s.phaseMap p.rect (fun q => { q with ended := true })) else none
    | none => none)

/-- TIMETABLE_OFFSET_REACHED (R180): an early operation acts. -/
def execTimetableOffsetReached (n x : Nat) (s : State) : Host.Outcome State Fault Refusal :=
  runEvent s (fun s =>
    let k := s.ctx n x
    match k.tt, (s.core n).inPhase, k.wait with
    | some (send, dst, t, v), some p, some w =>
      if k.st ≠ .live || (w.on ≠ .phase && w.on ≠ .inject) || w.expired || s.mesh < p.cycle t then none
      else
        let k1 := { k with wait := some { w with expired := true } }
        if send then some ((s.setCtx n x k1).ttInject n dst t v p)
        else
          let (u, q) := p.take t
          let s1 := s.setCtx n x { k1 with answer := some (0, u) }
          some (s1.setCore n { s1.core n with phase := some q })
    | _, _, _ => none)

/-! ### Fixes (R190, R17, R193) -/

/-- A contribution that the same core sent earlier to the same agent of a fix has not arrived (R401). -/
def State.fixAhead (s : State) (id : Nat) (h : BitVec 32) (k : Nat) (c : Contrib) : Bool :=
  match s.fix h with
  | none => false
  | some f => s.noc.any (fun i => decide (i.id < id) &&
      (match i.m with
       | .fix g l e => g = h && l = k && s.rankPlace f e.rank = s.rankPlace f c.rank
       | _ => false))

/-- FIX_CONTRIBUTION_ARRIVAL (R190): what one core sends arrives in the order sent (R401), and it waits for the links that its agent needs
(R179). -/
def execFixContributionArrival (id : Nat) (s : State) : Host.Outcome State Fault Refusal :=
  runEvent s (fun s =>
    match s.takeNoc id with
    | some (.fix h k c, s1) =>
      if s1.fixAhead id h k c || (match s1.fix h with | some f => !s1.agentReady h f k | none => false) then none
      else some (s1.contribute h k c)
    | _ => none)

/-- NEAR_MEMORY_FOLD (R17, R193): a chunk is folded into its round's buffer. -/
def execNearMemoryFold (id : Nat) (s : State) : Host.Outcome State Fault Refusal :=
  runEvent s (fun s =>
    match s.takeNoc id with
    | some (.nearFold h c, s1) =>
      match s1.fix h with
      | some f => some (s1.foldInto h 0 c.tag (c.chunk * chunkLen f.desc) (c.vals.map (fun v => scaled f.desc c v.toNat)))
      | none => some s1
    | _ => none)

end Sys2Proof.Machine
end

