-- ==== Sys2Proof/Machine/Links.lean ====
section
/-! DEFINITION. The link of a port (R25 to R32): states and training, flits received, link-level replay, send allowances. -/

namespace Sys2Proof.Machine

/-! ### Port state (R26, R44) -/

def State.setPortSt (s : State) (p st : Nat) : State := s.setRegF (Pf.port p 0x008) 0 3 st

/-- LANE0_OK and LANE1_OK. -/
def State.setLanes (s : State) (p : Nat) (l0 l1 : Bool) : State :=
  s.setRegF (Pf.port p 0x008) 4 2 ((if l0 then 1 else 0) + if l1 then 2 else 0)

/-- LINK_RETRAIN reads 0 again. -/
def State.endRetrain (s : State) (p : Nat) : State := s.setRegF (Pf.port p 0x000) 3 1 0

/-- A port that enters DISABLED or FAILED discards the flits of its replay buffer and its queues (R27). -/
def State.portDown (s : State) (p st : Nat) : State :=
  let k := s.port p
  (((s.setPort p { k with queue := [], tx := [], owed := #v[0, 0, 0, 0], replay := [], asm := [], rxq := [], out := [], dropping := false, resent := [], attempts := 0 }).setPortSt
    p st).setLanes p false false).endRetrain p

/-- The port is in TRAINING or RETRAIN. -/
def State.portTrains (s : State) (p : Nat) : Bool := s.portSt p = 1 || s.portSt p = 4

/-- An attempt begins. -/
def State.train (s : State) (p st : Nat) : State :=
  ((s.setPort p { s.port p with trainAt := s.mesh, attempts := 0 }).setPortSt p st).setLanes p false false

/-- LINK_EN (R26): a port of a fenced hub is out of service (R24). -/
def execLinkEn (p : Nat) (on : Bool) (s : State) : Host.Outcome State Fault Refusal :=
  runEvent s (fun s =>
    if p ≥ 64 || !s.ready then none
    else if on then
      let s1 := s.setRegF (Pf.port p 0x000) 0 1 1
      some (if s.portSt p = 0 && !s.dev.fencedHubs.contains (p / 16) then s1.train p 1 else s1)
    else some ((s.setRegF (Pf.port p 0x000) 0 1 0).portDown p 0))

/-- LINK_RETRAIN (R26): it starts RETRAIN from UP2 or UP1 alone. -/
def State.retrain (s : State) (p : Nat) : State :=
  (s.setRegF (Pf.port p 0x008) 24 8 (min 255 (s.regF (Pf.port p 0x008) 24 8 + 1))).train p 4

def execLinkRetrain (p : Nat) (s : State) : Host.Outcome State Fault Refusal :=
  runPilot s (fun s => if s.portUp p then some ((s.setRegF (Pf.port p 0x000) 3 1 1).retrain p) else none)

/-- A failed attempt: a new one, or FAILED after the third. -/
def State.failAttempt (s : State) (p : Nat) : State :=
  let k := s.port p
  if k.attempts + 1 ≥ 3 then s.portDown p 5 else s.setPort p { k with attempts := k.attempts + 1, trainAt := s.mesh }

/-- Every unacknowledged flit is sent again, in order (R29, R30). -/
def Port.resend (k : Port) : Port := { k with out := k.out ++ k.replay.map Prod.snd }

/-- REPLAYS counts the flits that a NAK has resent (R29, R44); those of a lane drop and of the end of a RETRAIN it leaves out. -/
def State.resend (s : State) (p : Nat) (counted : Bool) : State :=
  let t := s.setPort p (s.port p).resend
  if counted then t.portCount p 0x018 16 (s.port p).replay.length else t

/-- TRAINING_ATTEMPT_END (R27): lanes that report different peers fail; after TRAINING the link starts afresh, after RETRAIN it resends. -/
def execTrainingAttemptEnd (p : Nat) (pass0 pass1 : Bool) (peer0 peer1 : BitVec 62) (s : State) : Host.Outcome State Fault Refusal :=
  runEvent s (fun s =>
    if !s.portTrains p then none
    else
      let ctl := s.reg (Pf.port p 0x000)
      let differ := pass0 && ctl.getLsbD 1 && pass1 && ctl.getLsbD 2 && peer0 ≠ peer1
      let l0 := pass0 && ctl.getLsbD 1 && !differ
      let l1 := pass1 && ctl.getLsbD 2 && !differ
      if !l0 && !l1 then some (s.failAttempt p)
      else
        let peer := (if l0 then peer0 else peer1).toNat
        let k := s.port p
        let k1 : Port := if s.portSt p = 1 then { queue := k.queue } else { k with attempts := 0, resent := [] }
        let s1 := (((s.setPort p k1).setPortSt p (if l0 && l1 then 2 else 3)).setLanes p l0 l1).endRetrain p
        let s2 := s1.setReg (Pf.port p 0x010) (BitVec.ofNat 64 (peer / 64 * 256 + peer % 64))
        some ((s2.resend p false).pumpPort p))

/-- TRAINING_TIMEOUT (R26): no lane has passed within 10 ms. -/
def execTrainingTimeout (p : Nat) (s : State) : Host.Outcome State Fault Refusal :=
  runEvent s (fun s =>
    if s.portTrains p && decide (s.micros 10000 ≤ 2 * (s.mesh - (s.port p).trainAt)) then some (s.failAttempt p) else none)

/-- LANE_FAIL (R29, R30): after eight resends in a row of one flit the port drops to its other lane, or retrains; it is told to pilot
firmware and logged for the host (R23). -/
def execLaneFail (p lane : Nat) (s : State) : Host.Outcome State Fault Refusal :=
  runEvent s (fun s =>
    let st := s.reg (Pf.port p 0x008)
    if !s.portUp p || (s.port p).resent.all (fun e => decide (e.2 < 8)) || lane ≥ 2 || !st.getLsbD (4 + lane) then none
    else
      let s1 := ((s.setPort p { s.port p with resent := [] }).portEvt p 1).report 26 (BitVec.ofNat 64 p) (BitVec.ofNat 64 lane)
      if s.portSt p = 2 then some (((s1.setPortSt p 3).setLanes p (lane = 1) (lane = 0)).resend p false)
      else some (s1.retrain p))

/-! ### Flits received (R28, R29) -/

/-- A cumulative acknowledgement frees the flits up to it, and their counts of resends. -/
def Port.acked (k : Port) (a : BitVec 12) : Port :=
  if k.replay.any (fun e => e.1 = a) then
    let left := (k.replay.dropWhile (fun e => e.1 ≠ a)).drop 1
    { k with replay := left, resent := k.resent.filter (fun e => left.any (fun f => f.1.toNat = e.1)) }
  else k

/-- A NAK resends every unacknowledged flit: each counts one more resend in a row (R29). -/
def Port.naked (k : Port) : Port :=
  { k with resent := k.replay.map (fun e => (e.1.toNat, AMap.getD k.resent e.1.toNat 0 + 1)) }

/-- A flit that fails its CRC, its reserved bit or its KIND: counted, and the last good sequence is named in a NAK. -/
def State.badFlit (s : State) (p : Nat) : State :=
  let s1 := s.portCount p 0x018 0 1
  s1.setPort p { (s1.port p).control [] 2 0 with dropping := true }

/-- What is ready goes on the link; where that is nothing, an idle flit with the acknowledgement (R28). -/
def State.settle (s : State) (p : Nat) (before : Nat) : State :=
  let t := s.pumpPort p
  if (t.port p).out.length = before then t.setPort p ((t.port p).control [] 0 0) else t

/-- The flit that follows the last good one is taken as the last good one. -/
def Port.took (k : Port) (f : Flit) : Port := { k with rxGood := flitSeq f, dropping := false }

/-- A flit of one of the kinds reaches an up port.  After a bad flit everything is dropped until the numbered flit that follows the last
good one arrives (R29).  Else its acknowledgement is taken; a numbered flit out of its turn does no more, and the others do what their
kind says. -/
def State.rxFlit (s : State) (p kind : Nat) (f : Flit) (act : State → State) : Option State :=
  let k := s.port p
  let numbered := kind = 1 ∨ kind = 3
  let turn := flitSeq f = k.rxGood + 1
  if !s.portUp p then none
  else if !flitGood f then some (s.badFlit p)
  else if flitKind f ≠ kind then none
  else if k.dropping ∧ ¬(numbered ∧ turn) then some (s.settle p k.out.length)
  else
    let a := k.acked (flitAck f)
    let t := if numbered then (if turn then act (s.setPort p (a.took f)) else s.setPort p a) else act (s.setPort p a)
    some (t.settle p k.out.length)

/-- The bytes of flits' payloads. -/
def flitPayload (fs : List Flit) : List Byte := fs.flatMap (fun f => (flitBytes f).take 56)

/-- A packet of whole flits. -/
def packetOf (fs : List Flit) : Packet :=
  let bs := flitPayload fs
  let w (i : Nat) : Word := BitVec.ofNat 64 (ofLeBytes ((bs.drop (8 * i)).take 8))
  { h0 := w 0, h1 := w 1, h2 := w 2, h3 := w 3, data := (bs.drop 32).take (bitsOf (w 1) 32 16) }

/-- The virtual lane on which a type travels (R32). -/
def laneOfType (ty : Nat) : Nat := if ty ≤ 2 then 0 else if ty ≤ 4 then 1 else if ty = 5 then 3 else 2

/-- A packet that the ingress takes (R31).  That a LEN which does not fit the number of flits, and h2[63:60] non-zero in types 3 and 4,
are header errors, and that ROUND is not looked at in the types other than 1 and 2, is the model's (DESIGN CHOICE, log entry 108). -/
def Packet.headerOk (k : Packet) (flits : Nat) : Bool :=
  decide (1 ≤ k.type) && decide (k.type ≤ 7) && decide (bitsOf k.h0 58 6 = 0) && decide (k.len ≤ 512) && decide (k.data.length = k.len) &&
  decide (k.pieces.length = flits) && decide (k.srcDev ≤ 4095) && decide (k.dstDev ≤ 4095) && decide (k.vl = laneOfType k.type) &&
  (!(k.type = 3 || k.type = 4) || decide (bitsOf k.h2 60 4 = 0)) &&
  decide (bitsOf k.h3 32 32 = if k.data = [] then 0 else (crc32c k.data).toNat)

/-- Send allowances for flits of a lane are to go back (R32), in a credit flit whose layout is the model's (DESIGN CHOICE, log entry 61). -/
def State.giveBack (s : State) (p vl flits : Nat) : State :=
  let k := s.port p
  s.setPort p { k with owed := if h : vl < 4 then k.owed.set vl (k.owed[vl] + flits) else k.owed }

/-- The last flit of a packet makes it whole: a bad header drops it and is counted. -/
def State.assemble (s : State) (p vl : Nat) (fs : List Flit) : State :=
  let k := packetOf fs
  if k.headerOk fs.length then s.setPort p { s.port p with rxq := (s.port p).rxq ++ [k] }
  else (s.portCount p 0x020 16 1).giveBack p vl fs.length

/-- RX_DATA_FLIT (R29): a flit in its turn joins its lane's packet. -/
def execRxDataFlit (p : Nat) (f : BitVec 512) (s : State) : Host.Outcome State Fault Refusal :=
  runEvent s (fun s => s.rxFlit p 1 f (fun s =>
    let k := s.port p
    let vl := flitVl f
    let fs := AMap.getD k.asm vl [] ++ [f]
    let s1 := s.setPort p { k with asm := AMap.set k.asm vl (if flitLast f then [] else fs) }
    if flitLast f then s1.assemble p vl fs else s1))

/-- RX_NAK_FLIT (R29): the sender resends from the next flit. -/
def execRxNakFlit (p : Nat) (f : BitVec 512) (s : State) : Host.Outcome State Fault Refusal :=
  runEvent s (fun s => s.rxFlit p 2 f (fun s =>
    (s.setPort p (s.port p).naked).resend p true))

/-- Flits that a receive buffer holds, by virtual lane (R32). -/
def laneFlits (vl : Nat) : Nat := if vl = 0 then 128 else if vl = 1 then 256 else 16

/-- RX_CREDIT_FLIT (R32). -/
def execRxCreditFlit (p : Nat) (f : BitVec 512) (s : State) : Host.Outcome State Fault Refusal :=
  runEvent s (fun s => s.rxFlit p 3 f (fun s =>
    let k := s.port p
    let v := flitVl f
    s.setPort p (k.setAllow v (min (laneFlits v) (k.allowed v + ofLeBytes ((flitBytes f).take 2))))))

/-- RX_IDLE_FLIT (R28). -/
def execRxIdleFlit (p : Nat) (f : BitVec 512) (s : State) : Host.Outcome State Fault Refusal :=
  runEvent s (fun s => s.rxFlit p 0 f id)

end Sys2Proof.Machine
end

