-- ==== Sys2Proof/Machine/Packets.lean ====
section
/-! DEFINITION. Packets as a port hands them on (R31, R33, R35 to R37, R42), the flows' timers, losses and restarts (R33, R34), and a
hub's drain and scrub (R41). -/

namespace Sys2Proof.Machine

/-! ### Acceptance (R33, R36, R42) -/

/-- The cumulative acknowledgement of a flow's accepted packets: E2ESEQ names the last of them and TARGET the lane (log entry 42).  It
goes under that packet's tag with its partitions exchanged (R38); where none has been accepted yet, under those of the duplicate that asks
for it.  No core sends it, and SRCX and SRCY are 0 (DESIGN CHOICE, log entry 42). -/
def State.ackFlow (s : State) (p dev vl : Nat) (k : Packet) : State :=
  let f := s.flow dev vl
  let l := if f.lastRx.h0 = 0 then k else f.lastRx
  s.emit (p / 16) (mkPacket { type := 5, vl := 3, core := 0, part := l.dstPart, dev := dev, dpart := l.srcPart, target := BitVec.ofNat 64 vl }
    (s.regF Pf.fabSelf 0 12) l.tag (f.expect - 1))

/-- PORT_WAKE takes the four header doublewords of an accepted packet. -/
def State.portWake (s : State) (p : Nat) (k : Packet) : State :=
  let a := Pf.port p 0x0C0
  s.setReg a (foldDigest (foldDigest (foldDigest (foldDigest (s.reg a) k.h0) k.h1) k.h2) k.h3)

/-- The checks on an arriving packet in their order: the tag, the device, of which another is a header error (log entry 63), and on the
numbered lanes the end-to-end sequence.  Answers whether it is accepted.  Every sixteenth accepted packet and every duplicate is
acknowledged. -/
def State.acceptPkt (s : State) (p : Nat) (k : Packet) : Bool × State :=
  if !s.tagPass p k.tag k.dstPart then (false, s.tagDrop p k false)
  else if k.dstDev ≠ s.regF Pf.fabSelf 0 12 then (false, s.portCount p 0x020 16 1)
  else if k.vl = 3 then (true, s)
  else
    let f := s.flow k.srcDev k.vl
    let behind := (f.expect - k.seq).toNat
    if behind = 0 then
      let n := (f.since + 1) % 16
      let s1 := (s.setFlow k.srcDev k.vl { f with expect := f.expect + 1, since := n, lastRx := k }).portWake p k
      (true, if n = 0 then s1.ackFlow p k.srcDev k.vl k else s1)
    else if behind ≤ 2 ^ 31 then (false, (s.portCount p 0x018 32 1).ackFlow p k.srcDev k.vl k)
    else (false, s)

/-- The packet at the head of a port's receive queue, if it is of a type: its buffer space goes back, it is checked, and what it says is
done if it is accepted. -/
def State.rxPacket (s : State) (p ty : Nat) (act : Packet → State → State) : Option State :=
  match (s.port p).rxq with
  | [] => none
  | k :: rest =>
    if !s.portUp p || k.type ≠ ty then none
    else
      let s1 := (s.setPort p { s.port p with rxq := rest }).giveBack p k.vl k.pieces.length
      let (ok, s2) := s1.acceptPkt p k
      some ((if ok then act k s2 else s2).pumpPort p)

/-! ### Fixes (R31, R190, R189) -/

/-- A contribution's chunk: under RANK order the chunks are put together before it is judged. -/
def State.rxContribution (s : State) (p : Nat) (k : Packet) : State :=
  let h := k.handle
  match s.fix h with
  | none => s
  | some f =>
    let d := f.desc
    let c : Contrib := {
      rank := k.rank, tag := k.round, vals := fxValues d k.data, chunk := k.chunk, chunks := chunkCount d, port := p, part := k.dstPart }
    if k.rank ≥ fxN d || k.chunk ≥ chunkCount d then s
    else if fxArrival d then f.folds.foldl (fun s e => s.post (.fix h e.1 c) [] 0) s
    else
      let key := (f.folds.head?.map Prod.fst).getD 0
      let mine (e : Contrib) : Bool := e.rank = c.rank && e.tag = c.tag
      let fo := f.fold key
      let parts := fo.parts ++ [c]
      if (parts.filter mine).length < chunkCount d then s.setFixObj h (f.setFold key { fo with parts := parts })
      else
        let whole := (List.range (chunkCount d)).flatMap (fun i => match parts.find? (fun e => mine e && e.chunk = i) with
          | some e => e.vals
          | none => [])
        let s1 := s.setFixObj h (f.setFold key { fo with parts := parts.filter (fun e => !mine e) })
        f.folds.foldl (fun s e => s.post (.fix h e.1 { c with vals := whole, chunk := 0, chunks := 1 }) [] 0) s1

/-- PKT_FIX_CONTRIBUTION (R31). -/
def execPktFixContribution (p : Nat) (s : State) : Host.Outcome State Fault Refusal :=
  runEvent s (fun s => s.rxPacket p 1 (fun k s => s.rxContribution p k))

/-- PKT_FIX_RESULT (R31): the last result of a fix of another device. -/
def execPktFixResult (p : Nat) (s : State) : Host.Outcome State Fault Refusal :=
  runEvent s (fun s => s.rxPacket p 2 (fun k s =>
    { s with dev := { s.dev with results := AMap.set s.dev.results k.handle.toNat (k.round, k.data) } }))

/-- PKT_WITHHELD (R35). -/
def execPktWithheld (p : Nat) (s : State) : Host.Outcome State Fault Refusal :=
  runEvent s (fun s => s.rxPacket p 6 (fun k s =>
    match s.fix k.handle with
    | some f => if f.remoteHalted.contains k.rank then s else s.setFixObj k.handle { f with remoteHalted := k.rank :: f.remoteHalted }
    | none => s))

/-- PKT_RELEASED (R35, R207): the rank counts as running again, and the round's waiters are released one mesh cycle later. -/
def execPktReleased (p : Nat) (s : State) : Host.Outcome State Fault Refusal :=
  runEvent s (fun s => s.rxPacket p 7 (fun k s =>
    match s.fix k.handle with
    | some f =>
      let s1 := s.setFixObj k.handle { f with remoteHalted := f.remoteHalted.filter (· ≠ k.rank) }
      let d2s := ((f.folds.map (fun e => e.2.tag)).eraseDups).map (fun t =>
        BitVec.ofNat 64 (5 * 2 ^ 60 + k.handle.toNat + t.toNat % 2 ^ 28 * 2 ^ 32))
      partNums.foldl (fun s q => s.setPart q { s.part q with remote := (s.part q).remote ++ d2s.map (fun d => (d, s.mesh + 1)) }) s1
    | none => s))

/-! ### Remote writes and folds (R31, R342) -/

/-- A translation with a partition's root for a packet, with the checks 2 to 5 of R142. -/
def State.partXlate (s : State) (part va sz : Nat) (p : Perm) : Except (BitVec 8) TlbEnt × State :=
  let s := s.walkReads part va
  match s.walk part va with
  | .absent => (.error 0x10, s)
  | .bad l r e => (.error 0x10, s.recordBad part l r e)
  | .ecc _ => (.error 0x14, s)
  | .page t entry z =>
    let s1 := if z then s.zeroFill t entry else s
    match s1.pageCause t p va sz with
    | some c => (.error c, s1)
    | none => (.ok t, s1)

/-- A packet's operation that faults ends, and pilot firmware is told the partition, the address and the cause (R146). -/
def State.remoteFault (s : State) (part a : Nat) (c : BitVec 8) : State :=
  s.pilotEvent 10 (BitVec.ofNat 64 (part * 2 ^ 56 + a % 2 ^ 56)) (c.setWidth 64)

/-- The units of a remote write in ascending order, up to the first that faults. -/
def State.remoteWrite (s : State) (part : Nat) : List (Nat × Nat) → List Byte → State
  | [], _ => s
  | (a, k) :: us, bs =>
    match s.partXlate part a k .w with
    | (.error c, s1) => s1.remoteFault part a c
    | (.ok t, s1) => remoteWrite (s1.paWrite (s1.keyOf t) (t.phys a) (bs.take k)) part us (bs.drop k)

/-- The elements of a remote fold; a line with an uncorrectable error, `refused` the last of them, is reported here once, and the rest goes
on (R17). -/
def State.remoteFold (s : State) (part : Nat) (ty : ElTy) (refused : Option Nat) : Nat → List Nat → State
  | _, [] => s
  | a, v :: vs =>
    match s.partXlate part a (ty.bits / 8) .rw with
    | (.error c, s1) => s1.remoteFault part a c
    | (.ok t, s1) =>
      let l := lineBase (t.phys a)
      match s1.baseFold (t.phys a) ((s1.keyOf t).getD 0) ty v with
      | some s2 => remoteFold s2 part ty refused (a + ty.bits / 8) vs
      | none => remoteFold (if refused = some l then s1 else s1.foldRefused l) part ty (some l) (a + ty.bits / 8) vs

/-- PKT_REMOTE_WRITE (R31). -/
def execPktRemoteWrite (p : Nat) (s : State) : Host.Outcome State Fault Refusal :=
  runEvent s (fun s => s.rxPacket p 3 (fun k s =>
    let a := bitsOf k.h2 0 56
    s.remoteWrite k.dstPart (units a (k.data.length + 1) k.data.length) k.data))

/-- PKT_REMOTE_FOLD (R31). -/
def execPktRemoteFold (p : Nat) (s : State) : Host.Outcome State Fault Refusal :=
  runEvent s (fun s => s.rxPacket p 4 (fun k s =>
    let ty := ElTy.ofCode (k.h2.extractLsb' 56 4)
    let a := bitsOf k.h2 0 56
    if ty = .f32 || ty = .bf16 then
      s.remoteFold k.dstPart ty none a ((groups (ty.bits / 8) k.data.length k.data).map ofLeBytes)
    else s.remoteFault k.dstPart a 0x04))

/-! ### Acknowledgements, timers and losses (R33, R34) -/

/-- An acknowledged packet of a REMOTE copy counts its bytes. -/
def State.copyAcked (s : State) (c : Option (Nat × Nat × BitVec 16 × Nat)) : State :=
  match c with
  | some (n, ch, q, b) =>
    let k := (s.core n).chan ch
    s.setCore n ((s.core n).setChan ch { k with running := k.running.map (fun r => if r.seq = q then { r with bytes := r.bytes + b } else r) })
  | none => s

/-- PKT_E2E_ACK (R33): every packet up to the one named is freed. -/
def execPktE2eAck (p : Nat) (s : State) : Host.Outcome State Fault Refusal :=
  runEvent s (fun s => s.rxPacket p 5 (fun k s =>
    let vl := bitsOf k.h2 0 2
    let f := s.flow k.srcDev vl
    let upTo (t : TxPkt) : Bool := decide ((k.seq - t.pkt.seq).toNat < 2 ^ 31)
    (f.kept.filter upTo).foldl (fun s t => s.copyAcked t.copy) (s.setFlow k.srcDev vl { f with kept := f.kept.filter (fun t => !upTo t) })))

/-- PORT_E2E of the port by which a hub reaches a device: the time and the count, 0 acting as 1. -/
def State.e2eTime (s : State) (p : Nat) : Nat := s.micros (max 1 (s.regF (Pf.port p 0x0C8) 0 8))
def State.e2eLimit (s : State) (p : Nat) : Nat := max 1 (s.regF (Pf.port p 0x0C8) 8 8)

/-- The oldest kept packet has waited its time. -/
def State.e2eDue (s : State) (p : Nat) (t : TxPkt) : Bool := decide (t.sentAt + s.e2eTime p ≤ s.cyc)

/-- E2E_TIMEOUT (R33): every unacknowledged packet is sent again, in order, by the route in force. -/
def execE2eTimeout (dev vl : Nat) (s : State) : Host.Outcome State Fault Refusal :=
  runEvent s (fun s =>
    let f := s.flow dev vl
    match f.kept with
    | [] => none
    | t :: _ =>
      match s.routePort t.hub dev with
      | none => none
      | some p =>
        if !s.e2eDue p t || t.resends ≥ s.e2eLimit p then none
        else
          let s1 := s.setFlow dev vl { f with kept := f.kept.map (fun t => { t with sentAt := s.cyc, resends := t.resends + 1 }) }
          some (f.kept.foldl (fun s t => s.emit t.hub t.pkt) s1))

/-- Pilot firmware departs the ranks that a lost device holds in fixes of fabric scope (R34). -/
def State.departDev (s : State) (dev : Nat) : State :=
  (s.liveFixes.filter (fun g => fxTabled g.2.desc)).foldl (fun s g =>
    ((List.range (fxN g.2.desc)).filter (fun r => (s.rankPlace g.2 r).1 = dev)).foldl (fun s r => s.depart g.1 r) s) s

/-- FLOW_LOST (R34): the resends are used up, or the device has no valid route (R43). -/
def execFlowLost (dev vl : Nat) (s : State) : Host.Outcome State Fault Refusal :=
  runEvent s (fun s =>
    let f := s.flow dev vl
    match f.kept with
    | [] => none
    | t :: _ =>
      match s.routePort t.hub dev with
      | none => some ((s.loseFlow dev vl (t.hub * 16)).departDev dev)
      | some p => if s.e2eDue p t && decide (s.e2eLimit p ≤ t.resends) then some ((s.loseFlow dev vl p).departDev dev) else none)

/-- FLOW_RESET (R34): the flows to a device restart at 0 and what they hold is discarded; those from it are expected at 0. -/
def execFlowReset (dev : Nat) (s : State) : Host.Outcome State Fault Refusal :=
  runPilot s (fun s =>
    let s1 := [0, 1, 2].foldl (fun s vl => ((s.flow dev vl).kept.foldl (fun s t => s.loseCopy t.copy) s).setFlow dev vl {}) s
    some (s1.purge (fun k => k.dstDev = dev && decide (k.vl < 3))))

/-! ### A hub's drain and scrub (R41) -/

/-- Packets of a partition in the queues of a port, those partly sent among them. -/
def Port.holds (k : Port) (part : Nat) : Bool := k.unsent.any (fun q => q.srcPart = part) || k.rxq.any (fun q => q.dstPart = part)

def hubPorts (d : Nat) : List Nat := (List.range 16).map (fun i => 16 * d + i)

/-- A partition's drain begins at a hub.  Its bit of HUB_SCRUB, of which R41 says only when it is cleared, is set now (DESIGN CHOICE, log
entry 107). -/
def State.hubReset (s : State) (d part : Nat) : State :=
  let u := s.hub d
  (s.setHub d { u with draining := u.draining.filter (fun e => e.1 ≠ part) ++ [(part, s.mesh)] }).setReg (Pf.hub d 8)
    (s.reg (Pf.hub d 8) ||| BitVec.ofNat 64 (2 ^ part))

/-- HUB_DRAIN_TIMEOUT (R41): what remains after 100 µs is dropped and counted. -/
def execHubDrainTimeout (d part : Nat) (s : State) : Host.Outcome State Fault Refusal :=
  runEvent s (fun s =>
    match (s.hub d).draining.find? (fun e => e.1 = part) with
    | none => none
    | some e =>
      if s.micros 100 ≤ 2 * (s.mesh - e.2) && (hubPorts d).any (fun p => (s.port p).holds part) then
        some ((hubPorts d).foldl (fun s p =>
          let k := s.port p
          let gone := k.rxq.filter (fun q => q.dstPart = part)
          let out := (k.unsent.filter (fun q => q.srcPart = part)).length + gone.length
          if out = 0 then s
          else
            let s1 := (s.setPort p { k.without (fun q => q.srcPart = part) with
              rxq := k.rxq.filter (fun q => q.dstPart ≠ part) }).portCount p 0x020 16 out
            -- their buffer space is free again
            (gone.foldl (fun s q => s.giveBack p q.vl q.pieces.length) s1).pumpPort p) s)
      else none)

/-- HUB_SCRUB (R41): with the queues drained, the partition's entries are zeroed and freed. -/
def execHubScrub (d part : Nat) (s : State) : Host.Outcome State Fault Refusal :=
  runEvent s (fun s =>
    let u := s.hub d
    if u.draining.any (fun e => e.1 = part) && (hubPorts d).all (fun p => !(s.port p).holds part) then
      some ((s.setHub d { u with cmb := u.cmb.filter (fun e => e.part ≠ part), draining := u.draining.filter (fun e => e.1 ≠ part) }).setReg
        (Pf.hub d 8) (s.reg (Pf.hub d 8) &&& ~~~(BitVec.ofNat 64 (2 ^ part))))
    else none)

end Sys2Proof.Machine
end

