-- ==== Sys2Proof/Machine/HostVf.lean ====
section
/-! DEFINITION. The virtual functions: their enabling, the TDISP states and a partition's reset (R47, R48, R51, R63). -/

namespace Sys2Proof.Machine

/-! ### Responses (R48 to R50) -/

/-- The bytes of numbers, eight each. -/
def numBytes (ns : List Nat) : List Byte := ns.flatMap (leBytes 8)

/-- The bytes of an algorithm and of a capability in a response. -/
def Algorithm.num : Algorithm → Nat
  | .ecdsaP521 => 0 | .sha512 => 1 | .ecdheSecp521r1 => 2 | .aes256Gcm => 3
def Capability.num : Capability → Nat
  | .cert => 0 | .chal => 1 | .measSig => 2 | .keyEx => 3 | .mac => 4 | .encrypt => 5 | .hbeat => 6 | .measFresh => 7

/-- A block's bytes. -/
def Block.bytes (b : Block) : List Byte :=
  numBytes [b.index] ++ leBytes 64 b.digest.toNat ++ b.cert.getD [] ++ (b.sig.map (fun g => leBytes 132 g.toNat)).getD [] ++ numBytes b.gens

/-- What the I/O die signs of a response: all that it says, in the model's own order, since the message formats are those of the SPDM
specification (log entry 67). -/
def Answer.bytes : Answer → List Byte
  | .versionMismatch fn => numBytes [0, fn]
  | .sessionLimit fn => numBytes [1, fn]
  | .unsupported fn c => numBytes [2, fn, c.toNat]
  | .reply fn c => numBytes [3, fn, c.toNat]
  | .capabilities fn cs => numBytes ([4, fn] ++ cs.map Capability.num)
  | .algorithms fn a b c d => numBytes ([5, fn] ++ [a, b, c, d].map Algorithm.num)
  | .digests fn ds => numBytes [6, fn] ++ ds.flatMap (fun d => numBytes [d.1] ++ leBytes 64 d.2.toNat)
  | .certificate fn k c => numBytes [7, fn, k] ++ c.getD []
  | .challenge fn k c => numBytes [8, fn, k] ++ (c.map (fun d => leBytes 64 d.toNat)).getD []
  | .measurements fn nonce bs => numBytes [9, fn] ++ leBytes 32 nonce.toNat ++ bs.flatMap Block.bytes
  | .report v n t => numBytes [10, v, n, t]
  | .locked v => numBytes [11, v]
  | .started v => numBytes [12, v]
  | .stopped v => numBytes [13, v]
  | .stateError v => numBytes [14, v]
  | .tdispVersion v n => numBytes [15, v, n.toNat]
  | .tdispCapabilities v => numBytes [16, v]
  | .interfaceState v st => numBytes [17, v, st]

namespace State

def vf (s : State) (v : Nat) : Vf := AMap.getD s.dev.vfs v {}
def setVf (s : State) (v : Nat) (f : Vf) : State := { s with dev := { s.dev with vfs := AMap.set s.dev.vfs v f } }

/-- The TDISP state in VF_STAT (R54): 0 CONFIG_UNLOCKED, 1 CONFIG_LOCKED, 2 RUN, 3 ERROR. -/
def tdisp (s : State) (v : Nat) : Nat := s.regF (Pf.vf v 0x10) 0 2
def setTdisp (s : State) (v n : Nat) : State := s.setRegF (Pf.vf v 0x10) 0 2 n

/-- VFs 1 to n that have a tenant are enabled, in CONFIG_UNLOCKED (R47, R48).  One whose disabling reset still runs stays enabled when it
ends: the spec does not say what becomes of the disabling (log entry 97). -/
def enableVfs (s : State) (n : Nat) : State :=
  ((List.range 8).map (· + 1)).foldl (fun s v =>
    let f := s.vf v
    if v ≤ n ∧ f.assigned then (if f.enabled then s.setVf v { f with disable := false } else (s.setVf v { f with enabled := true }).setTdisp v 0)
    else s) s

/-- The VF answers its registers: it is enabled, and no reset of its partition runs (R47, R63). -/
def vfUp (s : State) (v : Nat) : Bool := s.ready && decide (1 ≤ v) && decide (v ≤ 8) && (s.vf v).enabled && !(s.vf v).resetting

/-- A response is sent, signed by the I/O die (R49). -/
def answer (s : State) (a : Answer) : State :=
  { s with dev := { s.dev with answers := s.dev.answers ++ [(a, Config.dieSign 12 (Config.sha512 a.bytes))] } }

end State

/-! ### The start of a partition reset (R63, steps 1 to 5) -/

/-- The cores of a partition. -/
def partCores (p : Nat) : List Nat := (List.range 128).map (partCore p)

/-- Step 2: every TCB that is not FREE becomes DISCARDED, without a record. -/
def State.discardAll (s : State) (p : Nat) : State :=
  ((List.range 8192).filter (fun i => (s.tcb? p i).isSome && s.tcbSt p i ≠ tFree)).foldl (fun s i => s.setTcbSt p i tDiscarded) s

/-- Step 2: dealing stops, and with it all that the Chartroom has under way. -/
def State.stopChart (s : State) (p : Nat) : State :=
  let q := s.part p
  s.setPart p { q with
    reqs := [], patching := [], passed := [], redeal := [], lost := [], grace := [], preempts := [], resv := none, failed := [], origins := []
    pause := [], log := [], images := [], wdog := [], recs := [], stage := [], kept := [] }

/-- Step 3: the ranks that contexts of a core hold depart, as FXLV does. -/
def State.departCore (s : State) (n : Nat) : State :=
  (ctxNums.flatMap (fun x => s.ranksOf n x)).foldl (fun s g => s.depart g.1 g.2) s

/-- Step 4: commands of a core that no engine or port has accepted are dropped; what waited for them goes on. -/
def State.dropQueued (s : State) (n : Nat) : State :=
  let c := s.core n
  let o := s.octet (octetOf n)
  let ids := c.vq.map VCmd.id ++ c.mq.map MCmd.id ++ ((o.sfuq.filter (fun r => r.1 = n)).map (fun r => r.2.id))
  let s1 := s.setCore n { c with vq := [], mq := [], sendq := [] }
  let s2 := s1.setOctet (octetOf n) { o with sfuq := o.sfuq.filter (fun r => r.1 ≠ n) }
  ids.foldl (fun s i => (s.setCore n ((s.core n).unclaim i)).retire i) s2

/-- The contexts of a core are stopped without halt records. -/
def State.stopCore (s : State) (n : Nat) : State :=
  let s1 := (ctxNums.foldl (fun s x => s.stopCtx n x) s)
  s1.setCore n { s1.core n with moving := false }

/-- Steps 1 to 5. -/
def State.resetSteps (s : State) (v : Nat) : State :=
  let p := v - 1
  let s1 := (s.setRegF (Pf.vf v 0x10) 2 1 0).setRegF (Pf.vf v 0x98) 8 1 0
  let s2 := (s1.discardAll p).stopChart p
  let cores := ((s2.part p).gangs.flatMap Gang.cores ++ partCores p).eraseDups
  let s3 := cores.foldl State.departCore s2
  let s4 := (s3.part p).gangs.foldl (fun s g => s.stopGang p g .discard) s3
  let s5 := cores.foldl (fun s n => (s.stopCore n).dropQueued n) s4
  (List.range 4).foldl (fun s d => s.hubReset d p) s5

/-- A partition reset starts; one that runs already goes on, and ends as both ask (R48, R63). -/
def State.startReset (s : State) (v : Nat) (unlock disable : Bool) : State :=
  let f := s.vf v
  let s1 := s.setVf v { f with resetting := true, unlock := f.unlock || unlock, disable := f.disable || disable, load := none }
  if f.resetting then s1 else s1.resetSteps v

/-! ### NumVFs (R47, R61) -/

/-- NumVFs takes a value: VFs are enabled, or disabled after a reset of their partitions. -/
def State.setNumVfs (s : State) (n : Nat) : State :=
  let s1 := { s with dev := { s.dev with numVfs := n } }.enableVfs n
  ((List.range 8).map (· + 1)).foldl (fun s v => if n < v ∧ (s.vf v).enabled then s.startReset v true true else s) s1

/-- NUMVFS_WRITE (R47, R61): a value above the eight VFs is no value that the function takes. -/
def execNumvfsWrite (n : Nat) (s : State) : Host.Outcome State Fault Refusal :=
  runEvent s (fun s =>
    if 8 < n then none
    else if s.ready then some (s.setNumVfs n)
    else some { s with dev := { s.dev with heldVfs := some n } })

/-! ### TDISP (R48) -/

/-- The lock-time configuration: the locked items that are registers or configuration space; BAR0 has 64 KiB. -/
def State.lockedItems (s : State) (v : Nat) : List Word :=
  let f := s.vf v
  [s.reg (Pf.vf v 0x40), s.reg (Pf.vf v 0x48), f.bar0, 0x10000, if f.memEn then 1 else 0] ++ f.msixTable

/-- A TDISP request of an enabled VF: pilot firmware answers it, with an error where the state does not take it. -/
def State.tdispRequest (s : State) (v : Nat) (takes : Bool) (done : State → State) : Option State :=
  if !(s.pilotRuns && (s.vf v).enabled) then none else if takes then some (done s) else some (s.answer (.stateError v))

/-- LOCK_INTERFACE_REQUEST (R48). -/
def execLockInterfaceRequest (vf : Nat) (s : State) : Host.Outcome State Fault Refusal :=
  runEvent s (fun s => s.tdispRequest vf (s.vfUp vf && s.tdisp vf = 0) (fun s =>
    ((s.setVf vf { s.vf vf with lockCfg := s.lockedItems vf }).setTdisp vf 1).answer (.locked vf)))

/-- START_INTERFACE_REQUEST (R48). -/
def execStartInterfaceRequest (vf : Nat) (s : State) : Host.Outcome State Fault Refusal :=
  runEvent s (fun s => s.tdispRequest vf (s.vfUp vf && s.tdisp vf = 1) (fun s => (s.setTdisp vf 2).answer (.started vf)))

/-- The reset that a STOP_INTERFACE_REQUEST runs or waits for; it is answered as that ends. -/
def State.stopVf (s : State) (v : Nat) : State := (s.setVf v { s.vf v with stopping := true }).startReset v true false

/-- STOP_INTERFACE_REQUEST (R48), which every state takes: from CONFIG_LOCKED and RUN by a reset; from ERROR at once, or as the reset that
the breach started ends; in CONFIG_UNLOCKED there is nothing to stop (log entry 103). -/
def execStopInterfaceRequest (vf : Nat) (s : State) : Host.Outcome State Fault Refusal :=
  runEvent s (fun s => s.tdispRequest vf true (fun s =>
    if (s.tdisp vf = 0 || s.tdisp vf = 3) && !(s.vf vf).resetting then (s.setTdisp vf 0).answer (.stopped vf) else s.stopVf vf))

/-- GET_DEVICE_INTERFACE_REPORT (R48): the whole VF BAR0, TEE-private from offset 0x080 on; of a locked interface (log entry 103). -/
def execGetDeviceInterfaceReport (vf : Nat) (s : State) : Host.Outcome State Fault Refusal :=
  runEvent s (fun s => s.tdispRequest vf (s.tdisp vf = 1 || s.tdisp vf = 2) (fun s => s.answer (.report vf 0x10000 0x080)))

/-- The TDISP requests that have no row of the opcode table: what the responder speaks and takes, and the state of the interface, in every
state (R48, log entry 103). -/
def State.tdispQuery (s : State) (v : Nat) (q : TdispQuery) : State :=
  (s.tdispRequest v true (fun s => s.answer (match q with
    | .version => .tdispVersion v 0x10
    | .capabilities => .tdispCapabilities v
    | .state => .interfaceState v (s.tdisp v)))).getD s

/-- A breach (R48): in CONFIG_LOCKED and RUN the state becomes ERROR, and the partition is reset at once. -/
def State.breach (s : State) (v : Nat) : Option State :=
  if (s.vf v).enabled && (s.tdisp v = 1 || s.tdisp v = 2) then some ((s.setTdisp v 3).startReset v false false) else none

/-- LOCKED_ITEM_WRITE (R48). -/
def execLockedItemWrite (vf : Nat) (s : State) : Host.Outcome State Fault Refusal := runEvent s (fun s => s.breach vf)

/-- IDE_INTEGRITY_FAILURE (R48). -/
def execIdeIntegrityFailure (vf : Nat) (s : State) : Host.Outcome State Fault Refusal := runEvent s (fun s => s.breach vf)

/-- FUNCTION_LEVEL_RESET (R48, R63): a breach where the VF is locked, and a partition reset in every state. -/
def execFunctionLevelReset (vf : Nat) (s : State) : Host.Outcome State Fault Refusal :=
  runEvent s (fun s =>
    match s.breach vf with
    | some t => some t
    | none => if (s.vf vf).enabled then some (s.startReset vf false false) else none)

/-! ### The end of a partition reset (R63, steps 6 to 8) -/

/-- A message on its way to a core of the partition, or to a fix of one, whose objects there are cleared. -/
def NocMsg.into (m : NocMsg) (p self : Nat) : Bool :=
  match m with
  | .barArrive _ d _ _ => partOf (coreAt (rectOfWord d).x0 (rectOfWord d).y0) = p
  | .barRelease _ _ n => partOf n = p
  | .msg d _ _ => partOf d = p
  | .allowance t _ _ _ => partOf t = p
  | .grant t _ _ _ => partOf t = p
  | .ttWord w => partOf w.dst = p
  | .fix h _ _ => fxDev h = self && partOf (fxHome h) = p
  | .nearFold h _ => fxDev h = self && partOf (fxHome h) = p

/-- A core whose arrays, queues and objects are cleared; the generations of its mailboxes and regions stay, so that nothing bound before
names what is bound after, and those of its fix slots are 0 (R402). -/
def Core.cleared (c : Core) : Core :=
  { mboxes := c.mboxes.map (fun b => (b.1, { gen := b.2.gen + 1 })), roses := c.roses.map (fun r => (r.1, r.2.unbind)) }

/-- Registers that a reset of partition p returns to their reset values (R54, R95, R147, R194, R217, R229, R230). -/
def resetsWith (p a : Nat) : Bool :=
  (decide (Pf.chr p 0x10 ≤ a) && decide (a < Pf.chr p 0x100)) ||
  (decide (Pf.mmuRoot p ≤ a) && decide (a < Pf.mmuRoot p + 0x100)) ||
  (decide (Pf.fxThresh p ≤ a) && decide (a < Pf.fxThresh p + 0x100)) ||
  (decide (Pf.hltBase p ≤ a) && decide (a < Pf.hltBase p + 0x100)) ||
  (decide (0x700000 + p * 0x10000 ≤ a) && decide (a < 0x700000 + (p + 1) * 0x10000)) ||
  (decide (Pf.snd p 0 ≤ a) && decide (a < Pf.snd p 0 + 0x100)) ||
  (decide (Pf.vf (p + 1) 0 ≤ a) && decide (a < Pf.vf (p + 1) 0 + 0x10000))

/-- Step 6: cores, L2 lines, the die-scratchpad share, translations. -/
def State.clearPart (s : State) (p : Nat) : State :=
  let mine (t : TlbEnt) : Bool := t.root = p
  let s1 := (partCores p).foldl (fun s n => if (AMap.get? s.cores n).isSome then s.setCore n (s.core n).cleared else s) s
  let clean (c : Nat × Core) : Nat × Core := (c.1, { c.2 with tlb := c.2.tlb.filter (fun t => !mine t) })
  let oct (o : Nat × Octet) : Nat × Octet := (o.1, { o.2 with tlb := o.2.tlb.filter (fun t => !mine t) })
  let die (d : Nat × Die) : Nat × Die := (d.1, { d.2 with
    l2 := d.2.l2.filter (fun l => stackOf l.pa ≠ p), tlb := d.2.tlb.map (fun e => (e.1, e.2.filter (fun t => !mine t)))
    scr := if d.1 = partDie p then d.2.scr.zero (p % 2 * 0x1000000) 0x1000000 else d.2.scr })
  { s1 with cores := s1.cores.map clean, octets := s1.octets.map oct, dies := s1.dies.map die
            noc := s1.noc.filter (fun i => !i.m.into p s.selfDev) }

/-- Step 7 (R51): slots 1 to 15 are unloaded, slot 0 is loaded with a fresh key, and the stack is zero-filled. -/
def State.clearStack (s : State) (p : Nat) : State :=
  let g := (AMap.getD s.keyGen (p * 16) 0 + 1) % 2 ^ 32
  let out (a : Nat) : Bool := stackOf a ≠ p
  let s1 := s.setReg (Pf.keyStat p) (BitVec.ofNat 64 (g * 2 ^ 32 + 1))
  let key := Config.freshKey s1.fresh
  { s1 with
    keyGen := AMap.set s1.keyGen (p * 16) g
    keys := AMap.set (s1.keys.filter (fun k => k.1 / 16 ≠ p)) (p * 16) key, fresh := s1.fresh + 1
    hbm := s1.hbm.zero (p * 2 ^ 36) (2 ^ 36), lineKey := s1.lineKey.filter (fun l => out l.1), ecc := s1.ecc.filter (fun e => out e.1)
    fills := (p * 2 ^ 36, 2 ^ 36, key) :: s1.fills.filter (fun f => out f.1) }

/-- Step 8: the page tables that pilot firmware has built are written to the partition's stack. -/
def State.writeTables (s : State) (p : Nat) (t : Mem) : State :=
  { s with hbm := t.foldl (fun m b => if stackOf b.1 = p then m.set b.1 b.2 else m) s.hbm }

/-- Step 8: what is left of the VF.  Its configuration space and the secure sessions of its function stay: the spec names them nowhere among
what a reset clears (log entry 98). -/
def State.endReset (s : State) (v : Nat) : State :=
  let f := s.vf v
  let st := if s.tdisp v = 3 ∧ ¬ f.unlock then 3 else 0
  let t := ({ s with regs := s.regs.filter (fun r => !resetsWith (v - 1) r.1) }.setTdisp v st).setVf v
    { assigned := f.assigned, enabled := f.enabled && !f.disable, bar0 := f.bar0, memEn := f.memEn, msixTable := f.msixTable }
  if f.stopping then t.answer (.stopped v) else t

/-- Nothing of the partition is under way: hubs are scrubbed, accepted commands and accesses have completed. -/
def State.resetQuiet (s : State) (p : Nat) : Bool :=
  let cores := ((s.part p).gangs.flatMap Gang.cores ++ partCores p).eraseDups
  (List.range 4).all (fun d => (s.hub d).draining.all (fun e => e.1 ≠ p)) &&
  cores.all (fun n => s.engineIdle n) && s.flight.all (fun a => !cores.contains a.core) &&
  s.dies.all (fun d => d.2.walks.all (fun w => w.root ≠ p))

/-- PARTITION_RESET_COMPLETE (R63). -/
def execPartitionResetComplete (part : Nat) (setup : ResetSetup) (s : State) : Host.Outcome State Fault Refusal :=
  runEvent s (fun s =>
    let v := part + 1
    if !(s.vf v).resetting || !s.resetQuiet part || s.dev.pilotHeld then none
    else
      let s1 := ((s.part part).gangs.flatMap Gang.cores).foldl State.freeCore s
      let s2 := ((s1.setPart part {}).clearPart part).clearStack part
      let s3 := (s2.endReset v).writeTables part setup.tables
      some ((s3.setReg (Pf.mmuRoot part) (setup.root &&& 0x00FFFFFFFFFFFF80#64)).setReg (Pf.hltBase part)
        (setup.hltBase &&& 0x00FFFFFFFFFF0000#64)))

/-! ### Keys (R51) -/

/-- KEY_LOAD (R51): refused unless the VF is in CONFIG_UNLOCKED; it comes over a secure session. -/
def execKeyLoad (vf slot : Nat) (key : BitVec 512) (s : State) : Host.Outcome State Fault Refusal :=
  runPilot s (fun s =>
    if !s.vfUp vf || s.tdisp vf ≠ 0 || 16 ≤ slot || AMap.getD s.dev.sessions vf 0 = 0 then none
    else
      let k := (vf - 1) * 16 + slot
      let g := (AMap.getD s.keyGen k 0 + 1) % 2 ^ 32
      let a := Pf.keyStat (vf - 1)
      let loaded := bitsOf (s.reg a ||| BitVec.ofNat 64 (2 ^ slot)) 0 16
      some ({ s with keyGen := AMap.set s.keyGen k g, keys := AMap.set s.keys k key }.setReg a (BitVec.ofNat 64 (g * 2 ^ 32 + loaded))))

end Sys2Proof.Machine
end

