-- ==== Sys2Proof/Machine/Bringup.lean ====
section
/-! DEFINITION. Bring-up, the boot ROM, the watchdog of the pilot cores, the power clamp and the thermal limits (R22, R24, R56, R58 to
R61). -/

namespace Sys2Proof.Machine

namespace State

/-- DEVSTAT (R58) and its fields. -/
def stage (s : State) : Nat := s.regF 0 24 8
def recovery (s : State) : Bool := (s.reg 0).getLsbD 2
def fwFail (s : State) : Bool := (s.reg 0).getLsbD 3
def setStage (s : State) (n : Nat) : State := s.setRegF 0 24 8 n

/-- A bit of DEVSTAT rises: PF vector 0 (R59). -/
def devBit (s : State) (bit : Nat) : State :=
  if (s.reg 0).getLsbD bit then s else (s.setReg 0 (s.reg 0 ||| BitVec.ofNat 64 (2 ^ bit))).msi 0 0

/-- A bring-up step fails: FAILSTEP, then FW_FAIL. -/
def failStep (s : State) (n : Nat) : State := (s.setRegF 0 4 4 n).devBit 3

/-- Bring-up waits for the end of the step after `n`. -/
def atStage (s : State) (n : Nat) : Bool := s.dev.powered && decide (s.stage = n) && !s.fwFail && !s.recovery

end State

/-! ### Package reset and the steps of R61 -/

/-- What stands in the flash, the fuses and the standby domain, and in the host, outlives a package reset; so do the model's own
fields. -/
def State.afterReset (s : State) : State :=
  let r := State.reset
  { r with
    regs := if s.regF 0 8 2 = 0 then [] else [(0, BitVec.ofNat 64 (s.regF 0 8 2 * 2 ^ 8))]
    dev := { r.dev with
      flash := s.dev.flash, fused := s.dev.fused, msix := s.dev.msix, answers := s.dev.answers, hostLog := s.dev.hostLog
      hostReads := s.dev.hostReads }
    hostMem := s.hostMem, nextId := s.nextId, fresh := s.fresh, agenda := s.agenda }

/-- PACKAGE_RESET (R61). -/
def execPackageReset (s : State) : Host.Outcome State Fault Refusal := runEvent s (fun s => some s.afterReset)

/-- POWER_GOOD (R61): step 1 ends. -/
def execPowerGood (s : State) : Host.Outcome State Fault Refusal :=
  runEvent s (fun s => if s.atStage 0 then some (s.setStage 1) else none)

/-- RAIL_TIMEOUT (R61): the rails are not good within 50 ms. -/
def execRailTimeout (s : State) : Host.Outcome State Fault Refusal :=
  runEvent s (fun s => if s.atStage 0 && decide (s.micros 50000 ≤ s.cyc) then some (s.failStep 1) else none)

/-! ### Fencing (R23, R24): each event is reported to pilot firmware and logged for the host -/

/-- A port hub is fenced: its 16 ports are out of service. -/
def State.fenceHub (s : State) (d : Nat) : State :=
  if s.dev.fencedHubs.contains d then s
  else
    let t := { s with dev := { s.dev with fencedHubs := s.dev.fencedHubs ++ [d] } }.report 20 (BitVec.ofNat 64 d) 0
    (List.range 16).foldl (fun t i => if t.portSt (16 * d + i) = 0 then t else t.portDown (16 * d + i) 0) t

/-- The PHY of a stack is fenced. -/
def State.fenceStack (s : State) (k : Nat) : State :=
  if s.dev.fencedStacks.contains k then s
  else { s with dev := { s.dev with fencedStacks := s.dev.fencedStacks ++ [k] } }.report 21 (BitVec.ofNat 64 k) 0

/-- A task that waits for its first placement and whose gang, or whose convoy's gangs together, no longer fit anywhere is reported with
cause 0x73. -/
def State.reportHomeless (s t : State) (p : Nat) : State :=
  (((s.part p).tcbs.map Prod.fst).filter (fun i =>
    (s.tcbSt p i = tWaiting || s.tcbSt p i = tReady) && (s.placeCause p i).isNone && (t.placeCause p i).isSome)).foldl (fun t i =>
      t.report 27 (BitVec.ofNat 64 (p * 8192 + i)) 0x73) t

/-- An octet is fenced: it leaves its partition's free set, and its cores are never placed (R24). -/
def State.fenceOctet (s : State) (o : Nat) : State :=
  if s.dev.fenced.contains o then s
  else
    let t := { s with dev := { s.dev with fenced := s.dev.fenced ++ [o] } }.report 22 (BitVec.ofNat 64 o) 0
    partNums.foldl (fun t p => s.reportHomeless t p) t

/-- SELF_CALIBRATION_DONE (R61): PHYs out of range that are local to a port hub or a stack are fenced (R24). -/
def execSelfCalibrationDone (ok : Bool) (bad : BadPhys) (s : State) : Host.Outcome State Fault Refusal :=
  runEvent s (fun s =>
    if !s.atStage 1 then none
    else if !ok then some (s.failStep 2)
    else some ((bad.badStacks.foldl State.fenceStack ((bad.badPorts.map (fun p => p / 16)).foldl State.fenceHub s)).setStage 2))

/-- HBM_INIT_DONE (R61): every stack is zero-filled with good check codes, under what its slot 0 holds (log entry 9). -/
def execHbmInitDone (ok : Bool) (s : State) : Host.Outcome State Fault Refusal :=
  runEvent s (fun s =>
    if !s.atStage 2 then none
    else if !ok then some (s.failStep 3)
    else
      let noLines (d : Nat × Die) : Nat × Die := (d.1, { d.2 with l2 := [] })
      some ({ s with
        hbm := [], lineKey := [], ecc := [], dies := s.dies.map noLines
        fills := (List.range 8).map (fun k => (k * 2 ^ 36, 2 ^ 36, s.material k 0)) }.setStage 3))

/-- The image that the boot ROM accepts (R56). -/
def State.bootImage (s : State) : Option FwImage :=
  match s.dev.flash with
  | some i => if i.signed && i.lengthOk && decide (s.dev.fused ≤ i.version) then some i else none
  | none => none

/-- No valid image (R58). -/
def State.enterRecovery (s : State) : State :=
  let s1 := (s.setNumVfs 0)
  let s2 := { s1 with dev := { s1.dev with heldVfs := none, running := none, pilotHeld := true, kickAt := none } }
  (s2.setReg 0 (s2.reg 0 &&& 0xFFFFFFFFFFFFFFFE#64)).devBit 2

/-- BOOT_ROM_LOAD (R56, R58, R60, R61): step 4 of bring-up with the self-tests, after which READY is set; or the reload of pilot
firmware alone, after the pilot watchdog. -/
def execBootRomLoad (failing : List Nat) (s : State) : Host.Outcome State Fault Refusal :=
  runEvent s (fun s =>
    let again := s.dev.pilotHeld && s.ready
    if !again && !s.atStage 3 then none
    else match s.bootImage with
      | none => some s.enterRecovery
      | some i =>
        let s1 := { s with dev := { s.dev with fused := if s.dev.fused ≤ i.version then i.version else s.dev.fused, running := some i, pilotHeld := false, kickAt := some s.cyc } }
        if again then some s1
        else
          let s2 := ((failing.foldl State.fenceOctet s1).setStage 5).devBit 0
          match s2.dev.heldVfs with
          | some n => some ({ s2 with dev := { s2.dev with heldVfs := none } }.setNumVfs n)
          | none => some s2)

/-! ### The pilot watchdog (R60) -/

/-- PILOT_WD_KICK (R60): only the pilot cores write it. -/
def execPilotWdKick (s : State) : Host.Outcome State Fault Refusal :=
  runEvent s (fun s =>
    if s.dev.kickAt.isSome then some { s with dev := { s.dev with kickAt := some s.cyc } } else none)

/-- PILOT_WATCHDOG_EXPIRY (R60): a PERIOD of 0 acts as 1.  Secure sessions, and a code load, an update or a dump under way, survive the
restart (DESIGN CHOICE, log entry 98). -/
def execPilotWatchdogExpiry (s : State) : Host.Outcome State Fault Refusal :=
  runEvent s (fun s =>
    match s.dev.kickAt with
    | some t =>
      if s.cyc < t + s.micros (1000 * max 1 (s.regF 0x60 0 16)) then none
      else some ({ s with dev := { s.dev with pilotHeld := true, kickAt := none } }.devBit 1)
    | none => none)

/-! ### Power and temperature (R22) -/

/-- The clock step changes: PF vector 3 (R59). -/
def State.setClock (s : State) (mhz : Nat) : State :=
  if mhz = s.dev.clock then s else { s with dev := { s.dev with clock := mhz } }.msi 0 3

/-- POWER_CLAMP_SAMPLE (R22): the average over the last 100 µs, and whether it has stayed below 3,040 W for 1 ms. -/
def execPowerClampSample (avgWatts : Nat) (below1ms : Bool) (s : State) : Host.Outcome State Fault Refusal :=
  runEvent s (fun s =>
    if 3200 < avgWatts then some (s.setClock (max 1000 (s.dev.clock - 250)))
    else if below1ms && !s.dev.hot && decide (avgWatts < 3040) then some (s.setClock (min 4000 (s.dev.clock + 250)))
    else none)

/-- THERMAL_LIMIT (R22): a junction has passed 105 °C, or all have fallen below 95 °C. -/
def execThermalLimit (hot : Bool) (s : State) : Host.Outcome State Fault Refusal :=
  runEvent s (fun s =>
    if hot = s.dev.hot then none
    else if hot then some ({ s with dev := { s.dev with hot := true, clock := 1000 } }.msi 0 3)
    else some { s with dev := { s.dev with hot := false } })

/-- THERMAL_TRIP (R22): the I/O die removes the package's power and records it in TRIP. -/
def execThermalTrip (s : State) : Host.Outcome State Fault Refusal :=
  runEvent s (fun s => some { s.setRegF 0 8 2 1 with dev := { s.dev with powered := false } })

end Sys2Proof.Machine
end

