-- ==== Sys2Proof/Machine/CodeLoad.lean ====
section
/-! DEFINITION. Loading a Mboum container (R62, R280 to R286). -/

namespace Sys2Proof.Machine

/-! ### The container (R280 to R284) -/

/-- A little-endian field of n bytes of the container. -/
def fieldAt (bs : List Byte) (off n : Nat) : Nat := ofLeBytes ((bs.drop off).take n)

/-- The header (R280): the counts and offsets of the section, relocation, entry and TCB tables. -/
structure Header where
  native : Bool
  nsect : Nat
  nreloc : Nat
  nentry : Nat
  ntcb : Nat
  sectOff : Nat
  relOff : Nat
  entOff : Nat
  tcbOff : Nat
deriving DecidableEq, Repr

def headerOf (bs : List Byte) : Header :=
  { native := fieldAt bs 6 2 % 2 = 1
    nsect := fieldAt bs 0x10 4, nreloc := fieldAt bs 0x14 4, nentry := fieldAt bs 0x18 4, ntcb := fieldAt bs 0x1C 4
    sectOff := fieldAt bs 0x20 8, relOff := fieldAt bs 0x28 8, entOff := fieldAt bs 0x30 8, tcbOff := fieldAt bs 0x38 8 }

/-- A table of count entries of some size lies within the container, at a multiple of 8. -/
def tableIn (len off count size : Nat) : Bool := decide (off % 8 = 0) && decide (off + count * size ≤ len)

/-- MAGIC, VERSION, FLAGS, LENGTH, counts and offsets. -/
def headerOk (bs : List Byte) : Bool :=
  let h := headerOf bs
  let len := bs.length
  decide (64 ≤ len) && decide (fieldAt bs 0 4 = 0x4D424F4D) && decide (fieldAt bs 4 2 = 1) && decide (fieldAt bs 6 2 < 2) &&
  decide (fieldAt bs 8 8 = len) && decide (1 ≤ h.nsect) && decide (h.nsect ≤ 64) && (!h.native || decide (h.nreloc = 0)) &&
  decide (h.nentry ≤ 256) && decide (h.ntcb ≤ 8192) && tableIn len h.sectOff h.nsect 32 && tableIn len h.relOff h.nreloc 16 &&
  tableIn len h.entOff h.nentry 16 && tableIn len h.tcbOff h.ntcb 136

/-- A section (R281). -/
structure Section where
  foff : Nat
  fbytes : Nat
  kind : Nat
  ioff : Nat
  ibytes : Nat
deriving DecidableEq, Repr

def sections (bs : List Byte) : List Section :=
  (List.range (headerOf bs).nsect).map (fun i =>
    let a := (headerOf bs).sectOff + 32 * i
    ⟨fieldAt bs a 8, fieldAt bs (a + 8) 4, fieldAt bs (a + 12) 4, fieldAt bs (a + 16) 8, fieldAt bs (a + 24) 8⟩)

/-- What a section holds in the container. -/
def Section.contents (x : Section) (bs : List Byte) : List Byte := (bs.drop x.foff).take x.fbytes

def Section.ok (x : Section) (len : Nat) : Bool :=
  decide (x.kind ≤ 2) && (decide (x.kind ≠ 2) || decide (x.fbytes = 0)) && decide (x.foff + x.fbytes ≤ len) &&
  decide (x.fbytes ≤ x.ibytes) && (decide (x.kind ≠ 0) || decide (x.ioff % 4 = 0))

/-- Two sections share no byte of the image. -/
def Section.apart (x y : Section) : Bool :=
  decide (x.ibytes = 0) || decide (y.ibytes = 0) || decide (x.ioff + x.ibytes ≤ y.ioff) || decide (y.ioff + y.ibytes ≤ x.ioff)

def sectionsApart : List Section → Bool
  | [] => true
  | x :: xs => xs.all x.apart && sectionsApart xs

/-- A relocation (R282). -/
structure Reloc where
  w : Word
  addend : Nat
deriving DecidableEq, Repr

def relocs (bs : List Byte) : List Reloc :=
  (List.range (headerOf bs).nreloc).map (fun i =>
    let a := (headerOf bs).relOff + 16 * i
    ⟨BitVec.ofNat 64 (fieldAt bs a 8), fieldAt bs (a + 8) 8⟩)

def Reloc.ioff (r : Reloc) : Nat := bitsOf r.w 0 40
def Reloc.kind (r : Reloc) : Nat := bitsOf r.w 40 4
def Reloc.win (r : Reloc) : Nat := bitsOf r.w 44 4

/-- The offsets of the literals of a code section's instructions (R254), and whether every one is a legal encoding by R273, the last
ending at the last byte. -/
def codeWalk (legal : BitVec 32 → List (BitVec 32) → Bool) : Nat → Nat → List (BitVec 32) → List Nat × Bool
  | _, _, [] => ([], true)
  | 0, _, _ :: _ => ([], false)
  | fuel + 1, off, w :: ws =>
    let n := lengthOf w
    let f := Len.ofBits (w.extractLsb' 0 2)
    let here := if f.hasLit then [off + 4 * (n - 2)] else []
    if ws.length + 1 < n then (here, false)
    else
      let (ls, ok) := codeWalk legal fuel (off + 4 * n) (ws.drop (n - 1))
      (here ++ ls, legal w ws && ok)

/-- The fields whose values an entry refuses and R273 does not list: the register number of SRD and SWR, the queue of QSTAT and QFLUSH,
the kind of FENCE (R287, R325). -/
def listedUses (x : Desc) : Desc :=
  let f (u : Use) : Use := match u with | .sr | .queue | .fkind => .raw 7 | _ => u
  { x with a := f x.a, b := f x.b, c := f x.c, d := f x.d }

/-- R273 raises nothing for a word sequence (R285). -/
def legalWords (w : BitVec 32) (ws : List (BitVec 32)) : Bool :=
  let r := Raw.ofWords w ws
  match r.member with
  | none => false
  | some i =>
    match i.desc? with
    | none => false
    | some x =>
      match i.encodingCause x r with
      | none => true
      | some c => c = 0x02 && (i.encodingCause (listedUses x) r).isNone

/-- The walk over a code section. -/
def Section.walk (x : Section) (bs : List Byte) : List Nat × Bool :=
  let c := x.contents bs
  let r := codeWalk legalWords (c.length + 1) x.ioff (wordsOfBytes c)
  (r.1, r.2 && decide (x.fbytes % 4 = 0))

/-- The doubleword lies in one section, and in a code section it is a literal. -/
def Reloc.placed (r : Reloc) (xs : List Section) (bs : List Byte) : Bool :=
  xs.any (fun x => decide (x.ioff ≤ r.ioff) && decide (r.ioff + 8 ≤ x.ioff + x.ibytes) &&
    (decide (x.kind ≠ 0) || (x.walk bs).1.contains r.ioff))

def Reloc.ok (r : Reloc) (xs : List Section) (bs : List Byte) : Bool :=
  decide (bitsOf r.w 48 16 = 0) && decide (r.kind ≤ 1) && (decide (r.kind = 0) || decide (r.win ≤ 6)) && r.placed xs bs

/-- A TCB record (R284). -/
structure TcbRec where
  flags : Word
  dws : List Word
deriving DecidableEq, Repr

def tcbRecs (bs : List Byte) : List TcbRec :=
  (List.range (headerOf bs).ntcb).map (fun i =>
    let a := (headerOf bs).tcbOff + 136 * i
    ⟨BitVec.ofNat 64 (fieldAt bs a 8), (List.range 16).map (fun j => BitVec.ofNat 64 (fieldAt bs (a + 8 + 8 * j) 8))⟩)

def TcbRec.index (r : TcbRec) : Nat := bitsOf r.flags 0 13

/-- Flags, STATE and RO fields. -/
def TcbRec.ok (r : TcbRec) : Bool :=
  let st := bitsOf (r.dws.getD 0 0) 0 8
  decide (bitsOf r.flags 13 3 = 0) && decide (bitsOf r.flags 22 42 = 0) && (decide (st = 0) || decide (st = 9)) &&
  (List.range 16).all (fun j => (if j = 0 then r.dws.getD 0 0 >>> 8 <<< 8 else r.dws.getD j 0) &&& ~~~(tcbRw j) = 0)

/-- The record's doublewords with the load address added to its flagged fields. -/
def TcbRec.at_ (r : TcbRec) (dst : Nat) : List Word :=
  (List.range 16).map (fun j =>
    let v := r.dws.getD j 0
    let whole := (j = 1 && r.flags.getLsbD 16) || (j = 2 && r.flags.getLsbD 17)
    let oper := decide (11 ≤ j) && decide (j ≤ 14) && r.flags.getLsbD (18 + (j - 11))
    if whole then v + BitVec.ofNat 64 dst
    else if oper then putBits v 0 48 (bitsOf v 0 48 + dst)
    else v)

/-! ### The checks (R285) -/

/-- The first byte after the image. -/
def imageEnd (xs : List Section) : Nat := xs.foldl (fun m x => max m (x.ioff + x.ibytes)) 0

/-- Every 64 KiB of the image range has its leaf; the pool entries of the records are free. -/
def State.mapped (s : State) (p dst len : Nat) : Bool :=
  (List.range ((len + 65535) / 65536)).all (fun i => match s.walk p (dst + 65536 * i) with | .page _ _ _ => true | _ => false)

def State.recsFree (s : State) (p : Nat) (rs : List TcbRec) : Bool :=
  rs.all (fun r => (s.tcb? p r.index).isSome &&
    (s.tcbSt p r.index = tFree || s.tcbSt p r.index = tDone || s.tcbSt p r.index = tDiscarded))

/-- The STATUS of the first check that fails, none where the container passes. -/
def State.loadCause (s : State) (p dst : Nat) (bs : List Byte) : Option Nat :=
  let xs := sections bs
  let rs := relocs bs
  let ts := tcbRecs bs
  if !headerOk bs || !xs.all (fun x => x.ok bs.length) || !sectionsApart xs || !rs.all (fun r => r.ok xs bs) || !ts.all TcbRec.ok then some 4
  else if rs.any (fun r => r.kind = 1 && decide ((winSpans.getD r.win (0, 0)).2 ≤ r.addend)) then some 5
  else if !(xs.filter (fun x => x.kind = 0)).all (fun x => (x.walk bs).2) then some 6
  else if !s.mapped p dst (imageEnd xs) || !s.recsFree p ts then some 7
  else none

/-! ### The load -/

/-- Writes bytes through the physical frames, page by page, whatever the leaves grant; a Z page is filled first (R144, R285). -/
def State.frameWrite (s : State) (p : Nat) : Nat → Nat → List Byte → State
  | 0, _, _ => s
  | fuel + 1, va, bs =>
    if bs = [] then s
    else
      let k := 65536 - va % 65536
      let s1 := match s.walk p va with
        | .page t entry z =>
          let s2 := if z then s.zeroFill t entry else s
          s2.paWrite (s2.keyOf t) (t.phys va) (bs.take k)
        | _ => s
      frameWrite s1 p fuel (va + k) (bs.drop k)

def State.frames (s : State) (p va : Nat) (bs : List Byte) : State := s.frameWrite p (bs.length / 65536 + 2) va bs

/-- The sections in their order: the contents, then zeros. -/
def State.writeImage (s : State) (p dst : Nat) (bs : List Byte) : State :=
  (sections bs).foldl (fun s x => s.frames p (dst + x.ioff) (x.contents bs ++ List.replicate (x.ibytes - x.fbytes) 0)) s

/-- A relocation is applied. -/
def State.relocate (s : State) (p dst : Nat) (r : Reloc) : State :=
  let v := if r.kind = 0 then dst + r.addend else (winSpans.getD r.win (0, 0)).1 + r.addend
  s.frames p (dst + r.ioff) (leBytes 8 (v % 2 ^ 64))

/-- A record's TCB is written. -/
def State.writeTcb (s : State) (p dst : Nat) (r : TcbRec) : State :=
  (r.at_ dst).zipIdx.foldl (fun s e => s.setTcbW p r.index e.2 e.1) s

/-- The cache after a container's use, the last used first (R62). -/
def cacheUse (c : List (List Byte)) (bs : List Byte) : List (List Byte) := (bs :: c.filter (· ≠ bs)).take 256

/-- STATUS, with LOADBUSY and GO cleared. -/
def State.loadEnd (s : State) (v status : Nat) : State :=
  ((s.setVf v { s.vf v with load := none }).setRegF (Pf.vf v 0x10) 2 1 0).setRegF (Pf.vf v 0x98) 0 9 status

/-- VF_LOAD_GO (R62): GO of VF_LOAD_CMD, which reads 1 while the load runs (R5). -/
def execVfLoadGo (vf : Nat) (tee : Bool) (s : State) : Host.Outcome State Fault Refusal :=
  runEvent s (fun s =>
    let st := s.tdisp vf
    if !s.vfUp vf || (st = 2 && !tee) then none
    else if (s.vf vf).load.isSome then some (s.vfEvt vf 2)
    else if st = 1 || st = 3 then some (s.setRegF (Pf.vf vf 0x98) 0 8 9)
    else
      let l : Load := ⟨(s.reg (Pf.vf vf 0x80)).toNat, s.regF (Pf.vf vf 0x88) 0 27, (s.reg (Pf.vf vf 0x90)).toNat⟩
      some (((s.setVf vf { s.vf vf with load := some l }).setRegF (Pf.vf vf 0x10) 2 1 1).setRegF (Pf.vf vf 0x98) 0 9 0x101))

/-- CODE_LOAD_COMPLETE (R62, R285, R286): pilot firmware has read the container.  It keeps the operand fields as they are when it
finalises one (log entry 18).  A length of 0 or above 64 MiB is no container's: a bad header (log entry 99). -/
def execCodeLoadComplete (vf : Nat) (hostReadOk : Bool) (s : State) : Host.Outcome State Fault Refusal :=
  runEvent s (fun s =>
    match (s.vf vf).load with
    | none => none
    | some l =>
      if !s.pilotRuns || (s.vf vf).resetting then none
      else if !hostReadOk then some (s.loadEnd vf 8)
      else
        let p := vf - 1
        let bs := s.hostMem.bytes l.src l.len
        match (if l.len = 0 || 0x4000000 < l.len then some 4 else s.loadCause p l.dst bs) with
        | some c => some (s.loadEnd vf c)
        | none =>
          let native := (headerOf bs).native
          let hit := (s.vf vf).cache.contains bs
          let s1 := (relocs bs).foldl (fun s r => s.relocate p l.dst r) (s.writeImage p l.dst bs)
          let s2 := (tcbRecs bs).foldl (fun s r => s.writeTcb p l.dst r) s1
          let s3 := s2.setVf vf { s2.vf vf with
            loaded := true, cache := if native then (s2.vf vf).cache else cacheUse (s2.vf vf).cache bs }
          some (s3.loadEnd vf (if native then 10 else if hit then 2 else 3)))

end Sys2Proof.Machine
end

