-- ==== Sys2Proof/Machine/CopyRun.lean ====
section
/-! DEFINITION. Copies as their channel runs them (R341, R342, R89, R167). -/

namespace Sys2Proof.Machine

/-! ### Elements (R341, R248) -/

/-- The mode of a template's RND. -/
def tplMode (t : Line) : RndF :=
  match (tplRnd t).toNat with
  | 2 => .rtz | 3 => .rdn | 4 => .rup | 5 => .rna | _ => .rne

/-- Elements of a byte list, low element first. -/
def elemsOf (ty : ElTy) (bs : List Byte) : List Nat :=
  if ty.bits = 4 then bs.flatMap (fun b => [b.toNat % 16, b.toNat / 16])
  else (groups (ty.bits / 8) bs.length bs).map ofLeBytes

/-- Elements packed into bytes. -/
def packElems (ty : ElTy) (es : List Nat) : List Byte :=
  leBytes (es.length * ty.bits / 8) ((es.zipIdx).foldl (fun acc e => acc + e.1 % 2 ^ ty.bits * 2 ^ (ty.bits * e.2)) 0)

/-- A row converted; equal types copy the bits. -/
def convRow (t : Line) (bs : List Byte) : List Byte :=
  if tplSty t = tplDty t then bs
  else packElems (tplDty t) ((elemsOf (tplSty t) bs).map (fun e => (convert (tplSty t) (tplDty t) (tplMode t) 0 false e).1))

/-! ### Writing -/

/-- What a copy has done: the state, the bytes delivered, the cause that ended it, and what it has logged. -/
structure CopySt where
  s : State
  bytes : Nat := 0
  cause : Option (BitVec 8) := none
  log : List LogEnt := []

/-- The copy is deferred (R89): it was accepted so, or its convoy has become checkpointed since. -/
def State.deferred (s : State) (n : Nat) (c : Copy) : Bool := c.defer || (tplDefer c.tpl && s.checkpointed n)

/-- A destination that a checkpointed convoy may not write without deferring (R90). -/
def State.barred (s : State) (n : Nat) (c : Copy) (a : Nat) : Bool :=
  s.checkpointed n && !s.deferred n c && decide (a % 2 ^ 64 < 2 ^ 56)

/-- Elements added at the destination, up to the first that faults. -/
def State.foldRow (s : State) (n : Nat) (ty : ElTy) (a : Nat) (es : List Nat) : Nat × Option (BitVec 8) × State :=
  es.foldl (fun acc e =>
    match acc with
    | (k, some c, s) => (k, some c, s)
    | (k, none, s) =>
      match s.engFold n (wrap (a + k)) ty e with
      | (.ok (), s1) => (k + ty.bits / 8, none, s1)
      | (.error c, s1) => (k, some c, s1)) (0, none, s)

/-- A payload cut into packets of at most 512 bytes. -/
def packetsOf (a : Nat) (bs : List Byte) : List (Nat × List Byte) :=
  ((groups 512 bs.length bs).zipIdx).map (fun g => (a + 512 * g.2, g.1))

/-- Bytes of a REMOTE copy leave as packets (R31, R342); what is zero-fill counts nothing. -/
def State.sendRow (s : State) (n ch : Nat) (c : Copy) (a : Nat) (bs : List Byte) (fold counted : Bool) : State :=
  (packetsOf a bs).foldl (fun s g => s.sendPacket
    { type := if fold then 4 else 3, vl := 1, core := n, part := partOf n, dev := tplRdev c.tpl, dpart := tplDstPart c.tpl
      target := BitVec.ofNat 64 (g.1 % 2 ^ 56 + (tplDty c.tpl).code.toNat * 2 ^ 56), data := g.2
      copy := some (n, ch, c.seq, if counted then g.2.length else 0) }) s

/-- Bytes delivered at a destination address; zero-fill is not counted. -/
def CopySt.put (k : CopySt) (n ch : Nat) (c : Copy) (a : Nat) (bs : List Byte) (counted : Bool) : CopySt :=
  let t := c.tpl
  if k.cause.isSome || bs = [] then k
  else if tplRemote t then
    if k.s.checkpointed n || a % 2 ^ 64 + bs.length > 2 ^ 56 then { k with cause := some 0x11 }
    else { k with s := k.s.sendRow n ch c a bs (tplFold t && counted) counted }
  else if k.s.barred n c a then { k with cause := some 0x11 }
  else if k.s.deferred n c then
    { k with log := k.log ++ [⟨c.claim, n, BitVec.ofNat 64 a, bs⟩], bytes := k.bytes + if counted then bs.length else 0 }
  else if tplFold t && counted then
    let (b, e, s1) := k.s.foldRow n (tplDty t) a (elemsOf (tplDty t) bs)
    { k with s := s1, bytes := k.bytes + b, cause := e }
  else
    let ((b, e), s1) := k.s.engWrite n a bs
    { k with s := s1, bytes := k.bytes + (if counted then b else 0), cause := e }

/-- The elements of a row before the unit that a read could not deliver, as far as they make whole bytes of the destination. -/
def rowPart (t : Line) (bs : List Byte) : List Byte :=
  let k := elCount (tplSty t) bs.length
  let k := if tplDty t = .e2m1 then k / 2 * 2 else k
  convRow t (bs.take (elBytes (tplSty t) k))

/-- Row r: read in full, then written; of one whose read faults, the bytes before the faulting unit are delivered (R342). -/
def CopySt.row (k : CopySt) (n ch : Nat) (c : Copy) (r : Nat) : CopySt :=
  let t := c.tpl
  let sb := (c.roseSrc.getD (copySrc t c.word)).toNat
  let dr := (c.roseDst.getD (tplW t 1)).toNat + r * tplDPitch t
  if k.cause.isSome then k
  else if r < tplVRows t then
    match k.s.engRead n (sb + r * tplSPitch t) (tplVBytes t) with
    | ((bs, some e), s1) =>
      let k1 := CopySt.put { k with s := s1 } n ch c dr (rowPart t bs) true
      { k1 with cause := some e }
    | ((bs, none), s1) =>
      let o := convRow t bs
      let k1 := CopySt.put { k with s := s1 } n ch c dr o true
      if tplVBytes t < tplRowBytes t && tplZclip t then
        k1.put n ch c (dr + o.length) (List.replicate (tplDst t (tplRowBytes t) - o.length) 0) false
      else k1
  else if tplZclip t then k.put n ch c dr (List.replicate (tplDst t (tplRowBytes t)) 0) false
  else k

/-- Rows in ascending order. -/
def CopySt.rows (n ch : Nat) (c : Copy) : Nat → CopySt → CopySt
  | 0, k => k
  | m + 1, k => CopySt.row (CopySt.rows n ch c m k) n ch c m

/-- Bytes that log entries take of LOGBYTES: the payload and, for each, its destination. -/
def logBytes (l : List LogEnt) : Nat := (l.map (fun e => e.data.length + 8)).sum

/-- An entry of the log as it lies in memory: the destination, then the payload (log entry 95). -/
def LogEnt.bytes (e : LogEnt) : List Byte := leBytes 8 e.addr.toNat ++ e.data

/-- The deferred log takes the copy's entries in one piece, behind the halves of the checkpoint area (R82), or the copy faults (R89). -/
def CopySt.commit (k : CopySt) (n : Nat) : CopySt :=
  if k.log = [] then k
  else match (k.s.core n).gang with
    | none => k
    | some g =>
      let q := k.s.part g.part
      let old := AMap.getD q.log g.convoy []
      if logBytes old + logBytes k.log > bitsOf (k.s.cvyWord g.part g.convoy 3) 32 32 then
        { k with cause := some 0x60, bytes := 0 }
      else
        let bs := k.log.flatMap LogEnt.bytes
        let s1 := k.s.partFill g.part (k.s.halfAddr g.part g.convoy 2 + logBytes old) bs (bs.length + 1)
        { k with s := s1.setPart g.part { s1.part g.part with log := AMap.set q.log g.convoy (old ++ k.log) } }

/-- The copy writes a flag when it ends. -/
def Copy.flags (c : Copy) : Bool := tplFlag c.tpl && c.word.getLsbD 12

/-- The ports that a copy goes through let it pass (R179). -/
def State.copyReady (s : State) (n : Nat) (c : Copy) : Bool :=
  let t := c.tpl
  s.linksFree n (copySrc t c.word).toNat (tplSrcSpan t) && (tplRemote t || s.linksFree n (tplW t 1).toNat (tplDstSpan t))

/-- COPY_START (R341): the channel's next copy runs, once the accesses that it follows and its accumulator rows are free.  A copy that was
accepted while FAULTED stood ends without running (R342).  Before a flag the core's FIFO is drained (R167). -/
def execCopyStart (n ch : Nat) (s : State) : Host.Outcome State Fault Refusal :=
  runEvent s (fun s =>
    let k := (s.core n).chan ch
    match k.queue with
    | [] => none
    | c :: rest =>
      if k.running.isSome then none
      else if c.void then
        some (s.setCore n (((s.core n).unclaim c.claim).setChan ch { k with queue := rest }))
      else if c.after ≠ [] || !(s.core n).rowsFree c.claim || !s.copyReady n c then none
      else
        let s1 := s.setCore n ((s.core n).setChan ch { k with queue := rest, running := some c })
        let r := if c.fault.isSome then { s := s1, cause := c.fault } else (CopySt.rows n ch c (tplRows c.tpl) { s := s1 }).commit n
        let s2 := if c.flags && r.cause.isNone then r.s.drain n else r.s
        let after := if c.flags && r.cause.isNone then s2.unacked n else []
        some (s2.setCore n ((s2.core n).setChan ch { (s2.core n).chan ch with
          running := ((s2.core n).chan ch).running.map (fun d => { d with fault := r.cause, bytes := d.bytes + r.bytes, after := after }) })))

/-! ### The end (R342, R167) -/

/-- Packets of a copy are kept for an acknowledgement. -/
def State.copyKept (s : State) (n ch : Nat) (c : Copy) : Bool :=
  (s.flow (tplRdev c.tpl) 1).kept.any (fun k => match k.copy with
    | some (m, h, q, _) => m = n && h = ch && q = c.seq
    | none => false)

/-- The flag is written at its memory, past the L1, as a release is (R166, R167), after what the core has stored there before. -/
def State.flagWrite (s : State) (n a : Nat) (v : Word) : Option (BitVec 8) × State :=
  match s.engPlace n a 8 .w true with
  | (.error c, s1) => (some c, s1)
  | (.ok (.mem pa key _ _), s1) =>
    (none, ((s1.settleLine n (lineBase pa)).l2Write (lineBase pa) (some key) (BitVec.ofNat 512 (v.toNat * 256 ^ (pa % 64)))
      (byteMask (pa % 64) 8)).l1Stale n pa 8)
  | (.ok p, s1) => (none, s1.unitWrite n 8 v.toNat p)

/-- Status word of an ended copy. -/
def copyWord (c : Copy) (cause : Option (BitVec 8)) : Word :=
  let clipped := decide (tplVRows c.tpl < tplRows c.tpl) || decide (tplVBytes c.tpl < tplRowBytes c.tpl)
  BitVec.ofNat 64 (c.seq.toNat * 2 ^ 48 + c.bytes % 2 ^ 32 * 2 ^ 16 + (match cause with | some e => e.toNat * 2 ^ 8 + 4 | none => 0) +
    (if clipped then 2 else 0) + 1)

/-- COPY_COMPLETE (R342): flag, status word, and the status register where SEN asks for it.  A flag waits for the links that a phase holds
(R179); one of a checkpointed convoy at a translated address is not written, and the copy ends with 0x11 (R90, log entry 33). -/
def execCopyComplete (n ch : Nat) (s : State) : Host.Outcome State Fault Refusal :=
  runEvent s (fun s =>
    match ((s.core n).chan ch).running with
    | none => none
    | some c =>
      let early := if c.lost then some 0x61 else c.fault
      let flags := c.flags && early.isNone
      if c.after ≠ [] || (s.copyKept n ch c && !c.lost) || (flags && !s.linksFree n (tplW c.tpl 6).toNat 8) then none
      else
        let (cause, s1) :=
          if !flags then (early, s)
          else if (c.defer || s.checkpointed n) && decide ((tplW c.tpl 6).toNat < 2 ^ 56) then (some 0x11, s)
          else s.flagWrite n (tplW c.tpl 6).toNat (tplW c.tpl 7)
        let s2 := if cause.isSome then s1.engineEvent n ch (cause.getD 0) else s1
        let k := (s2.core n).chan ch
        let word := copyWord c cause
        let stands := k.status.getLsbD 2
        let k1 := { k with
          running := none
          status := if !stands && (cause.isSome || c.seq = k.seq) then word else k.status
          faultBy := if !stands && cause.isSome then some (c.ctx, s2.regF (Pf.hltStat (partOf n)) 0 48) else k.faultBy }
        let c1 := ((s2.core n).unclaim c.claim).setChan ch k1
        some (s2.setCore n (if c.word.getLsbD 6 then c1.scrWrite (wsOff c.wsp + 8 * bitsOf c.word 7 5) 8 word.toNat else c1)))

end Sys2Proof.Machine
end

