-- ==== Sys2Proof/Machine/Dump.lean ====
section
/-! DEFINITION. Core dumps (R64, R65). -/

namespace Sys2Proof.Machine

/-! ### A core's record -/

/-- Doublewords as bytes. -/
def dwBytes (ws : List Nat) : List Byte := ws.flatMap (leBytes 8)

/-- The record's first 64 bytes: a doubleword for each of x, y, gang origin and size, live-context mask, TCB index (log entry 16). -/
def State.dumpHead (s : State) (n : Nat) : List Byte :=
  let live := (ctxNums.map (fun x => if (s.ctx n x).st = .live then 2 ^ x else 0)).foldl (· + ·) 0
  let g := (s.core n).gang
  let f (k : GangRef → Nat) : Nat := (g.map k).getD 0
  dwBytes [coreX n, coreY n, f GangRef.x0, f GangRef.y0, f (fun g => 2 ^ g.lw), f (fun g => 2 ^ g.lh), live, f GangRef.tcb]

def HaltRec.bytes (r : HaltRec) : List Byte := dwBytes [r.d0.toNat, r.d1.toNat, r.d2.toNat, r.d3.toNat]

/-- The workspace of a context, whose cached words have been written back; zeros for a context that has held none. -/
def Core.dumpWs (c : Core) (x : Nat) : List Byte :=
  let k := c.ctx x
  let w := if c.holds x then some k.wsp else k.lastWs
  match w with
  | some w => leBytes 512 (c.scrRead true (wsOff w) 512)
  | none => List.replicate 512 0

/-- A dump writes the latches and the cached words of every context of a core back (R106). -/
def State.dumpFlush (s : State) (n : Nat) : State :=
  (ctxNums.filter (fun x => (s.core n).holds x)).foldl (fun s x => s.setCore n ((s.core n).writeBackAll x)) s

/-- A queue register: its eight entries, and the count. -/
def QReg.dump (q : QReg) : List Byte :=
  dwBytes ((List.range 8).map (fun i => match q.ents[i]? with | some e => (e.val.getD 0).toNat | none => 0) ++ [q.count])

/-- A region as its binding record (R148). -/
def Rose.dump (r : Rose) : List Byte :=
  if !r.bound then List.replicate 32 0
  else
    let base := if r.view then ownBase + 0x100000000 + octIdx r.hcore * 0x80000 + r.base.toNat else ownBase + r.base.toNat
    dwBytes [base,
      r.lead * 2 ^ 48 + r.barrier * 2 ^ 40 + r.slots * 2 ^ 32 + r.slotbytes, r.laps, (if r.view then 16 else 0) + r.hregion]

/-- The barrier arrival bits. -/
def Core.barBits (c : Core) : Nat := ((List.range 128).map (fun i => if (c.bar i).waiting = [] then 0 else 2 ^ i)).foldl (· + ·) 0

/-- The 8,192 bytes of a core. -/
def State.dumpRecord (s : State) (n : Nat) : List Byte :=
  let c := s.core n
  let zeros (k : Nat) : List Byte := List.replicate k 0
  s.dumpHead n ++ ctxNums.flatMap (fun x => (c.ctx x).hrec.bytes) ++ zeros 96 ++ ctxNums.flatMap c.dumpWs ++
  (List.range 8).flatMap (fun i => (c.q i).dump) ++ (List.range 16).flatMap (fun i => (c.rose i).dump) ++
  (List.range 16).flatMap (fun i => dwBytes [(c.rose i).needle + (c.rose i).lap.toNat * 2 ^ 32]) ++
  dwBytes ((List.range 8).map (fun i => (c.chan i).status.toNat)) ++
  dwBytes ((List.range 16).map (fun i => (s.mboxWord n i).toNat)) ++ leBytes 16 c.barBits ++ dwBytes [c.mstatWord.toNat] ++ zeros 616

/-! ### The engine -/

/-- DUMP_CTL. -/
def dumpCtl : Nat := 0x210

/-- Bytes of a whole dump. -/
def dumpNeeded : Nat := 64 + 128 * 8192

/-- The read-backs of a write of `len` bytes at an offset: the last doubleword written in each 4 KiB block, ascending. -/
def readBacks (off len : Nat) : List Nat :=
  (List.range (len / 4096 + 2)).filterMap (fun i =>
    let b := off / 4096 + i
    if b * 4096 < off + len then some (min ((b + 1) * 4096) (off + len) - 8) else none)

/-- The header. -/
def Dump.headBytes (d : Dump) : List Byte :=
  leBytes 4 0x5A47444D ++ leBytes 2 1 ++ leBytes 1 d.part ++ leBytes 1 d.cause.toNat ++ leBytes 8 dumpNeeded ++
  leBytes 8 (64 + d.recs * 8192) ++ leBytes 4 d.recs ++ leBytes 4 d.flags ++ leBytes 8 d.faultOff ++ leBytes 8 d.haltId ++
  List.replicate 16 0

/-- The dump ends: DUMP_PART and DUMP_OUT, then ARM is cleared and PF vector 1 is sent (R59, R65). -/
def State.dumpEnd (s : State) (part out : Nat) : State :=
  let s1 := (s.setRegF 0 16 4 part).setRegF 0 20 4 out
  { s1.setReg dumpCtl 0 with dev := { s1.dev with dump := none } }.msi 0 1

/-- The header is written, last. -/
def State.dumpHeader (s : State) (d : Dump) : State :=
  { s with hostMem := s.hostMem.setBytes d.base d.headBytes
           dev := { s.dev with dump := some { d with header := true, reads := readBacks 0 64 } } }

/-- The next record, or the header. -/
def State.dumpNext (s : State) (d : Dump) : State :=
  let off := 64 + d.recs * 8192
  if d.recs = 128 then s.dumpHeader d
  else if d.size < off + 8192 then s.dumpHeader { d with flags := d.flags + 1 }
  else
    let t := s.dumpFlush (partCore d.part d.recs)
    { t with hostMem := t.hostMem.setBytes (d.base + off) (t.dumpRecord (partCore d.part d.recs))
             dev := { t.dev with dump := some { d with reads := readBacks off 8192 } } }

/-- A dump of a partition starts; a buffer below 64 bytes receives nothing. -/
def State.dumpStart (s : State) (part : Nat) (cause : BitVec 8) (haltId : Nat) : State :=
  let size := s.regF 0x208 0 32
  if size < 64 then s.dumpEnd part 3
  else s.dumpNext { part := part, cause := cause, haltId := haltId, base := (s.reg 0x200).toNat, size := size }

/-- CORE_DUMP_START (R64): a partition that faults while a dump runs waits until ARM is set again. -/
def execCoreDumpStart (part : Nat) (cause : BitVec 8) (haltId : Nat) (s : State) : Host.Outcome State Fault Refusal :=
  runPilot s (fun s =>
    if s.dev.dump.isSome then some { s with dev := { s.dev with dumpQueue := s.dev.dumpQueue ++ [(part, cause, haltId)] } }
    else if (s.reg dumpCtl).getLsbD 0 then some (s.dumpStart part cause haltId)
    else none)

/-- ARM is set: a dump that waits starts. -/
def State.dumpArm (s : State) : State :=
  let s1 := s.setReg dumpCtl 1
  match s1.dev.dump, s1.dev.dumpQueue with
  | none, (p, c, h) :: rest => ({ s1 with dev := { s1.dev with dumpQueue := rest } }).dumpStart p c h
  | _, _ => s1

/-- A read-back has failed: of the header, which ends the dump; of a record, after which the header follows. -/
def State.dumpFault (s : State) (d : Dump) (off : Nat) : State :=
  if d.header then s.dumpEnd d.part 3 else s.dumpHeader { d with flags := d.flags + 2, faultOff := off }

/-- DUMP_RECORD_READBACK (R65): the read-backs have completed, or the one at an offset has returned an error. -/
def execDumpRecordReadback (fault : Option Nat) (s : State) : Host.Outcome State Fault Refusal :=
  runEvent s (fun s =>
    match s.dev.dump, fault with
    | none, _ => none
    | some d, some off => if d.reads.contains off then some (s.dumpFault d off) else none
    | some d, none =>
      if d.header then some (s.dumpEnd d.part (if d.flags = 0 then 1 else 2)) else some (s.dumpNext { d with recs := d.recs + 1 }))

/-- DUMP_READBACK_TIMEOUT (R65): the read-back at an offset has not completed in 50 ms. -/
def execDumpReadbackTimeout (off : Nat) (s : State) : Host.Outcome State Fault Refusal :=
  runEvent s (fun s =>
    match s.dev.dump with
    | some d => if d.reads.contains off then some (s.dumpFault d off) else none
    | none => none)

end Sys2Proof.Machine
end

