-- ==== Sys2Proof/Machine/Firmware.lean ====
section
/-! DEFINITION. The update of pilot firmware's image (R56 to R58). -/

namespace Sys2Proof.Machine

/-- FW_CMD and FW_STAT. -/
def fwCmd : Nat := 0x50
def fwStat : Nat := 0x58

/-- FW_UPDATE_GO (R57): a write of FW_CMD with GO; one that comes while an update runs starts nothing. -/
def execFwUpdateGo (v : BitVec 64) (s : State) : Host.Outcome State Fault Refusal :=
  runEvent s (fun s =>
    if v.getLsbD 0 && !(s.reg fwCmd).getLsbD 0 then some ((s.setReg fwCmd 1).setReg fwStat 1) else none)

/-- The CODE that an update ends with; where several checks fail, the first of length, signature, version and flash (log entry 99). -/
def State.fwCode (s : State) (i : FwImage) (flashOk : Bool) : Nat :=
  if !i.lengthOk || decide (0x8000000 < s.regF 0x48 0 28) then 5
  else if !i.signed then 3
  else if i.version < s.dev.fused then 4
  else if !flashOk then 6
  else 2

/-- The image in host memory, at FW_STAGE_BASE and of FW_STAGE_LEN bytes, with what its checks give. -/
def State.fetched (s : State) (i : FwImage) : FwImage := { i with data := s.hostMem.bytes (s.reg 0x40).toNat (s.regF 0x48 0 28) }

/-- FW_UPDATE_COMPLETE (R57, R58): a flash write that fails leaves no valid image; in recovery the ROM resets the package once the image
is written. -/
def execFwUpdateComplete (image : FwImage) (flashOk : Bool) (s : State) : Host.Outcome State Fault Refusal :=
  runEvent s (fun s =>
    if !(s.reg fwCmd).getLsbD 0 || !(s.recovery || (s.ready && !s.dev.pilotHeld)) then none
    else
      let c := s.fwCode image flashOk
      let flash := if c = 2 then some (s.fetched image) else if c = 6 then none else s.dev.flash
      let s1 := (({ s with dev := { s.dev with flash := flash } }.setReg fwCmd 0).setReg fwStat (BitVec.ofNat 64 c)).msi 0 0
      some (if s.recovery && c = 2 then s1.afterReset else s1))

end Sys2Proof.Machine
end

