-- ==== Sys2Proof/Machine/FloatArith.lean ====
section
/-! DEFINITION. Scalar floating point (R295 to R298). -/

namespace Sys2Proof.Machine

/-- One member that rounds or not: the exact result with its flags, encoded once (R295).  SEED steps where the mode is SR,
unless the instruction traps. -/
def fpOp (i : Instr) (d : Opnd) (m : Mods) (s : State) (xs : List Opnd) (op : RndF → List FpNum → FpNum × BitVec 5) :
    Host.Outcome State Fault Refusal :=
  runInstr i m s (fun _ => do
    let vs ← xs.mapM (fun o => src o m (srcTyOf m.ty))
    let k ← getMy
    let mode := modeOf m.rnd k.fpsr
    let r := finish m.ty mode k.seed m.sat (op mode (vs.map (fun v => numOf m.ty v.toNat)))
    raiseFlags r.2
    modMy (fun k => { k with seed := if mode = .sr then xorshift k.seed else k.seed })
    dst d (BitVec.ofNat 64 r.1))

/-- The two operands of a binary member. -/
def two (f : FpNum → FpNum → FpNum × BitVec 5) : List FpNum → FpNum × BitVec 5
  | [x, y] => f x y
  | _ => (.nan false, 0)

/-- FADD (R295). -/
def execFadd (d a b : Opnd) (m : Mods) (s : State) : Host.Outcome State Fault Refusal :=
  fpOp (.fadd d a b m) d m s [a, b] (fun r => two (exactAdd r))

/-- FSUB (R295). -/
def execFsub (d a b : Opnd) (m : Mods) (s : State) : Host.Outcome State Fault Refusal :=
  fpOp (.fsub d a b m) d m s [a, b] (fun r => two (fun x y => exactAdd r x y.negate))

/-- FMUL (R295). -/
def execFmul (d a b : Opnd) (m : Mods) (s : State) : Host.Outcome State Fault Refusal :=
  fpOp (.fmul d a b m) d m s [a, b] (fun _ => two exactMul)

/-- The sign bit of a value of f32 or f64, also of a NaN (R246). -/
def signOf (t : ElTy) (v : Nat) : Bool := decide (v / 2 ^ (t.bits - 1) % 2 = 1)

/-- FMULZ (R246, R295). -/
def execFmulz (d a b : Opnd) (m : Mods) (s : State) : Host.Outcome State Fault Refusal :=
  runInstr (.fmulz d a b m) m s (fun _ => do
    let x ← src a m (srcTyOf m.ty)
    let y ← src b m (srcTyOf m.ty)
    let k ← getMy
    let mode := modeOf m.rnd k.fpsr
    let r := finish m.ty mode k.seed m.sat
      (exactMulZ (numOf m.ty x.toNat) (numOf m.ty y.toNat) (signOf m.ty x.toNat) (signOf m.ty y.toNat))
    raiseFlags r.2
    modMy (fun k => { k with seed := if mode = .sr then xorshift k.seed else k.seed })
    dst d (BitVec.ofNat 64 r.1))

/-- FDIV (R295). -/
def execFdiv (d a b : Opnd) (m : Mods) (s : State) : Host.Outcome State Fault Refusal :=
  fpOp (.fdiv d a b m) d m s [a, b] (fun _ => two exactDiv)

/-- FSQRT (R295). -/
def execFsqrt (d a : Opnd) (m : Mods) (s : State) : Host.Outcome State Fault Refusal :=
  fpOp (.fsqrt d a m) d m s [a] (fun _ xs => exactSqrt (xs.getD 0 (.nan false)))

/-- FMA (R247, R295). -/
def execFma (d a b c : Opnd) (m : Mods) (s : State) : Host.Outcome State Fault Refusal :=
  fpOp (.fma d a b c m) d m s [a, b, c] (fun r xs =>
    exactFma r (xs.getD 0 (.nan false)) (xs.getD 1 (.nan false)) (xs.getD 2 (.nan false)))

/-- FMIN and FMAX (R245). -/
def fpMinMax (i : Instr) (d a b : Opnd) (m : Mods) (s : State) (wantMax : Bool) : Host.Outcome State Fault Refusal :=
  runInstr i m s (fun _ => do
    let x ← src a m (srcTyOf m.ty)
    let y ← src b m (srcTyOf m.ty)
    let r := minMaxNum m.ty wantMax (x.toNat % 2 ^ m.ty.bits) (y.toNat % 2 ^ m.ty.bits)
    raiseFlags r.2
    dst d (BitVec.ofNat 64 r.1))

/-- FMIN (R245, R295). -/
def execFmin (d a b : Opnd) (m : Mods) (s : State) : Host.Outcome State Fault Refusal :=
  fpMinMax (.fmin d a b m) d a b m s false

/-- FMAX (R245, R295). -/
def execFmax (d a b : Opnd) (m : Mods) (s : State) : Host.Outcome State Fault Refusal :=
  fpMinMax (.fmax d a b m) d a b m s true

/-- A member that acts on the bits and sets no flag (R244). -/
def fpBits (i : Instr) (d a : Opnd) (m : Mods) (s : State) (op : Nat → Nat → Nat) : Host.Outcome State Fault Refusal :=
  runInstr i m s (fun _ => do
    let x ← src a m (srcTyOf m.ty)
    dst d (BitVec.ofNat 64 (op m.ty.bits (x.toNat % 2 ^ m.ty.bits))))

/-- FNEG (R244, R295). -/
def execFneg (d a : Opnd) (m : Mods) (s : State) : Host.Outcome State Fault Refusal :=
  fpBits (.fneg d a m) d a m s (fun n x => x ^^^ 2 ^ (n - 1))

/-- FABS (R244, R295). -/
def execFabs (d a : Opnd) (m : Mods) (s : State) : Host.Outcome State Fault Refusal :=
  fpBits (.fabs d a m) d a m s (fun n x => x % 2 ^ (n - 1))

/-- The class mask (R296). -/
def classMask (t : ElTy) (v : Nat) : Nat :=
  match numOf t v with
  | .nan sig => if sig then 2 ^ 8 else 2 ^ 9
  | .inf n => if n then 1 else 2 ^ 7
  | .fin n m e =>
    if m = 0 then (if n then 2 ^ 3 else 2 ^ 4)
    else if (Nat.log2 m : Nat) + e < (fpFmt t).emin then (if n then 2 ^ 2 else 2 ^ 5)
    else if n then 2 ^ 1 else 2 ^ 6

/-- FCLASS (R296). -/
def execFclass (d a : Opnd) (m : Mods) (s : State) : Host.Outcome State Fault Refusal :=
  fpBits (.fclass d a m) d a m s (fun _ x => classMask m.ty x)

/-- An instruction that converts rounds with SR: by its field or through FPSR.RM, unless its destination is D8 (R235, R239). -/
def convSr (mode : RndF) (dstTy : ElTy) : Bool := mode = .sr && dstTy ≠ .d8

/-- FCVT (R297). -/
def execFcvt (d a : Opnd) (m : Mods) (s : State) : Host.Outcome State Fault Refusal :=
  runInstr (.fcvt d a m) m s (fun _ => do
    let x ← src a m (srcTyOf m.ty)
    let k ← getMy
    let mode := modeOf m.rnd k.fpsr
    let t := m.modTy
    let r := convert m.ty t mode k.seed m.sat x.toNat
    raiseFlags r.2
    modMy (fun k => { k with seed := if convSr mode t then xorshift k.seed else k.seed })
    dst d (extendTy t r.1))

/-- FCMPP (R298). -/
def execFcmpp (f : Fcc) (d : BitVec 3) (a b : Opnd) (m : Mods) (s : State) : Host.Outcome State Fault Refusal :=
  runInstr (.fcmpp f d a b m) m s (fun _ => do
    let x ← src a m (srcTyOf m.ty)
    let y ← src b m (srcTyOf m.ty)
    let r := fccHolds f (numOf m.ty x.toNat) (numOf m.ty y.toNat)
    raiseFlags r.2
    modMy (fun k => k.setPred d r.1))

end Sys2Proof.Machine
end

