-- ==== Sys2Proof/Machine/IntArith.lean ====
section
/-! DEFINITION. Integer arithmetic, comparison and selection (R290 to R294). -/

namespace Sys2Proof.Machine

/-- A member of IA or IB: N-bit operands, an N-bit result, widened by the type (R290). -/
def intBin (i : Instr) (d a b : Opnd) (m : Mods) (s : State) (op : Nat → Nat → Nat → Nat) : Host.Outcome State Fault Refusal :=
  runInstr i m s (fun _ => do
    let x ← src a m
    let y ← src b m
    let n := m.ty.bits
    dst d (extendTy m.ty (op n (x.toNat % 2 ^ n) (y.toNat % 2 ^ n))))

/-- A unary member of IC (R290). -/
def intUn (i : Instr) (d a : Opnd) (m : Mods) (s : State) (op : Nat → Nat → Nat) : Host.Outcome State Fault Refusal :=
  runInstr i m s (fun _ => do
    let x ← src a m
    let n := m.ty.bits
    dst d (extendTy m.ty (op n (x.toNat % 2 ^ n))))

/-! ### The operations Op(x, y, s) of R290 on N-bit patterns; edge results by R249 -/

def opAdd (n x y : Nat) : Nat := (x + y) % 2 ^ n
def opSub (n x y : Nat) : Nat := (x + 2 ^ n - y) % 2 ^ n
def opAnd (_ x y : Nat) : Nat := x &&& y
def opOr (_ x y : Nat) : Nat := x ||| y
def opXor (_ x y : Nat) : Nat := x ^^^ y
def opAndn (n x y : Nat) : Nat := x &&& (2 ^ n - 1 - y)
/-- The shift count, y[7:0]. -/
def shiftCount (y : Nat) : Nat := y % 256
def opShl (n x y : Nat) : Nat := if shiftCount y ≥ n then 0 else x * 2 ^ shiftCount y % 2 ^ n
def opShr (n x y : Nat) : Nat := if shiftCount y ≥ n then 0 else x / 2 ^ shiftCount y
def opSar (n x y : Nat) : Nat := lowBits n (toSigned x n / (2 ^ min (shiftCount y) n : Nat))
def opRor (n x y : Nat) : Nat := let r := shiftCount y % n; (x / 2 ^ r + x * 2 ^ (n - r)) % 2 ^ n
def opMin (u : Bool) (n x y : Nat) : Nat :=
  if u then (if y < x then y else x) else if toSigned y n < toSigned x n then y else x
def opMax (u : Bool) (n x y : Nat) : Nat :=
  if u then (if x < y then y else x) else if toSigned x n < toSigned y n then y else x
def opMul (n x y : Nat) : Nat := x * y % 2 ^ n
def opMulh (u : Bool) (n x y : Nat) : Nat :=
  if u then x * y / 2 ^ n % 2 ^ n else lowBits n (toSigned x n * toSigned y n / (2 ^ n : Nat))
/-- Truncated division; by 0 all ones; INT_MIN by −1 wraps to INT_MIN. -/
def opDiv (u : Bool) (n x y : Nat) : Nat :=
  if y = 0 then 2 ^ n - 1 else if u then x / y else lowBits n (Int.tdiv (toSigned x n) (toSigned y n))
def opRem (u : Bool) (n x y : Nat) : Nat :=
  if y = 0 then x else if u then x % y else lowBits n (Int.tmod (toSigned x n) (toSigned y n))
def opClz (n x : Nat) : Nat := if x = 0 then n else n - 1 - Nat.log2 x
def opCtz (n x : Nat) : Nat := ((List.range n).findIdx? (fun k => x.testBit k)).getD n
def opPopc (n x : Nat) : Nat := ((List.range n).filter (fun k => x.testBit k)).length
def opBrev (n x : Nat) : Nat := (List.range n).foldl (fun acc k => if x.testBit (n - 1 - k) then acc + 2 ^ k else acc) 0

/-- MOD[24], the unsigned form (R269). -/
def Mods.isU (m : Mods) : Bool := m.mod.getLsbD 0

/-- ADD (R290). -/
def execAdd (d a b : Opnd) (m : Mods) (s : State) : Host.Outcome State Fault Refusal :=
  intBin (.add d a b m) d a b m s opAdd

/-- SUB (R290). -/
def execSub (d a b : Opnd) (m : Mods) (s : State) : Host.Outcome State Fault Refusal :=
  intBin (.sub d a b m) d a b m s opSub

/-- AND (R290). -/
def execAnd (d a b : Opnd) (m : Mods) (s : State) : Host.Outcome State Fault Refusal :=
  intBin (.and d a b m) d a b m s opAnd

/-- OR (R290). -/
def execOr (d a b : Opnd) (m : Mods) (s : State) : Host.Outcome State Fault Refusal :=
  intBin (.or d a b m) d a b m s opOr

/-- XOR (R290). -/
def execXor (d a b : Opnd) (m : Mods) (s : State) : Host.Outcome State Fault Refusal :=
  intBin (.xor d a b m) d a b m s opXor

/-- ANDN (R290). -/
def execAndn (d a b : Opnd) (m : Mods) (s : State) : Host.Outcome State Fault Refusal :=
  intBin (.andn d a b m) d a b m s opAndn

/-- SHL (R290). -/
def execShl (d a b : Opnd) (m : Mods) (s : State) : Host.Outcome State Fault Refusal :=
  intBin (.shl d a b m) d a b m s opShl

/-- SHR (R290). -/
def execShr (d a b : Opnd) (m : Mods) (s : State) : Host.Outcome State Fault Refusal :=
  intBin (.shr d a b m) d a b m s opShr

/-- SAR (R290). -/
def execSar (d a b : Opnd) (m : Mods) (s : State) : Host.Outcome State Fault Refusal :=
  intBin (.sar d a b m) d a b m s opSar

/-- ROR (R290). -/
def execRor (d a b : Opnd) (m : Mods) (s : State) : Host.Outcome State Fault Refusal :=
  intBin (.ror d a b m) d a b m s opRor

/-- MUL (R290). -/
def execMul (d a b : Opnd) (m : Mods) (s : State) : Host.Outcome State Fault Refusal :=
  intBin (.mul d a b m) d a b m s opMul

/-- MIN (R290). -/
def execMin (d a b : Opnd) (m : Mods) (s : State) : Host.Outcome State Fault Refusal :=
  intBin (.min d a b m) d a b m s (opMin (Mods.isU m))

/-- MAX (R290). -/
def execMax (d a b : Opnd) (m : Mods) (s : State) : Host.Outcome State Fault Refusal :=
  intBin (.max d a b m) d a b m s (opMax (Mods.isU m))

/-- MULH (R290). -/
def execMulh (d a b : Opnd) (m : Mods) (s : State) : Host.Outcome State Fault Refusal :=
  intBin (.mulh d a b m) d a b m s (opMulh (Mods.isU m))

/-- DIV (R290). -/
def execDiv (d a b : Opnd) (m : Mods) (s : State) : Host.Outcome State Fault Refusal :=
  intBin (.div d a b m) d a b m s (opDiv (Mods.isU m))

/-- REM (R290). -/
def execRem (d a b : Opnd) (m : Mods) (s : State) : Host.Outcome State Fault Refusal :=
  intBin (.rem d a b m) d a b m s (opRem (Mods.isU m))

/-- CLZ (R290). -/
def execClz (d a : Opnd) (m : Mods) (s : State) : Host.Outcome State Fault Refusal :=
  intUn (.clz d a m) d a m s opClz

/-- CTZ (R290). -/
def execCtz (d a : Opnd) (m : Mods) (s : State) : Host.Outcome State Fault Refusal :=
  intUn (.ctz d a m) d a m s opCtz

/-- POPC (R290). -/
def execPopc (d a : Opnd) (m : Mods) (s : State) : Host.Outcome State Fault Refusal :=
  intUn (.popc d a m) d a m s opPopc

/-- BREV (R290). -/
def execBrev (d a : Opnd) (m : Mods) (s : State) : Host.Outcome State Fault Refusal :=
  intUn (.brev d a m) d a m s opBrev

/-- MOV (R290). -/
def execMov (d a : Opnd) (m : Mods) (s : State) : Host.Outcome State Fault Refusal :=
  intUn (.mov d a m) d a m s (fun _ x => x)

/-- The immediate of an I-format instruction (R258). -/
def iImm (i : BitVec 10) (m : Mods) : Word := if m.len.ext then m.imm32.signExtend 64 else i.signExtend 64

/-- ADDI (R290). -/
def execAddi (d a : Opnd) (i : BitVec 10) (m : Mods) (s : State) : Host.Outcome State Fault Refusal :=
  runInstr (.addi d a i m) m s (fun _ => do
    let x ← src a m
    let n := m.ty.bits
    dst d (extendTy m.ty (opAdd n (x.toNat % 2 ^ n) ((iImm i m).toNat % 2 ^ n))))

/-- The control word of EXT and INS (R291): position, length, sign bit. -/
def ctlPos (c : Word) : Nat := bitsOf c 0 6
def ctlLen (c : Word) : Nat := min (bitsOf c 8 7) (64 - ctlPos c)

/-- EXT's result (R291). -/
def extBits (a ctl : Word) : Word :=
  let l := ctlLen ctl
  let f := bitsOf a (ctlPos ctl) l
  if l = 0 then 0 else if ctl.getLsbD 16 then BitVec.ofInt 64 (toSigned f l) else BitVec.ofNat 64 f

/-- INS's result (R291). -/
def insBits (old a ctl : Word) : Word :=
  let l := ctlLen ctl
  let p := ctlPos ctl
  BitVec.ofNat 64 (old.toNat - bitsOf old p l * 2 ^ p + bitsOf a 0 l * 2 ^ p)

/-- EXT (R291). -/
def execExt (d a b : Opnd) (m : Mods) (s : State) : Host.Outcome State Fault Refusal :=
  runInstr (.ext d a b m) m s (fun _ => do
    let x ← src a m
    let c ← src b m
    dst d (extBits x c))

/-- INS (R291). -/
def execIns (d a b : Opnd) (m : Mods) (s : State) : Host.Outcome State Fault Refusal :=
  runInstr (.ins d a b m) m s (fun _ => do
    let x ← src a m
    let c ← src b m
    let old ← src d m
    dst d (insBits old x c))

/-- LEA (R292). -/
def execLea (d a b : Opnd) (m : Mods) (s : State) : Host.Outcome State Fault Refusal :=
  runInstr (.lea d a b m) m s (fun _ => do
    let x ← src a m
    let y ← src b m
    dst d (x + y * BitVec.ofNat 64 (m.ty.bits / 8) + m.imm32.signExtend 64))

/-- CMPP (R293). -/
def execCmpp (f : Cc) (d : BitVec 3) (a b : Opnd) (m : Mods) (s : State) : Host.Outcome State Fault Refusal :=
  runInstr (.cmpp f d a b m) m s (fun _ => do
    let x ← src a m
    let y ← src b m
    let n := m.ty.bits
    modMy (fun k => k.setPred d (ccHolds f n (x.toNat % 2 ^ n) (y.toNat % 2 ^ n))))

/-- SETC (R293). -/
def execSetc (f : Cc) (d a b : Opnd) (m : Mods) (s : State) : Host.Outcome State Fault Refusal :=
  runInstr (.setc f d a b m) m s (fun _ => do
    let x ← src a m
    let y ← src b m
    let n := m.ty.bits
    dst d (if ccHolds f n (x.toNat % 2 ^ n) (y.toNat % 2 ^ n) then 1 else 0))

/-- SEL (R294). -/
def execSel (f : BitVec 3) (d a b : Opnd) (m : Mods) (s : State) : Host.Outcome State Fault Refusal :=
  runInstr (.sel f d a b m) m s (fun _ => do
    let x ← src a m
    let y ← src b m
    let k ← getMy
    dst d (extendTy m.ty (if k.pred f then x else y).toNat))

end Sys2Proof.Machine
end

