-- ==== Sys2Proof/Machine/Probes.lean ====
section
/-! DEFINITION. What pilot firmware and the host driver write to the translation and debug registers that have effects of their own:
MMU_INV (R145), TR_CTL with the ring that it names (R223), WAKE (R226). -/

namespace Sys2Proof.Machine

/-! ### Invalidation (R145, R147) -/

/-- The size that MMU_INV.SIZE names. -/
def invSize (n : Nat) : Nat := if n = 0 then 0x10000 else if n = 1 then 0x200000 else if n = 2 then 0x2000000 else 0x40000000

/-- An entry of the partition's root that the request names. -/
def invHit (p : Nat) (v : Word) (t : TlbEnt) : Bool :=
  let size := invSize (bitsOf v 56 2)
  let va := bitsOf v 16 40 * 0x10000 / size * size
  t.root = p && (v.getLsbD 62 || (decide (t.va < va + size) && decide (va < t.va + t.size)))

/-- Matching entries leave every TLB. -/
def State.invalidate (s : State) (p : Nat) (v : Word) : State :=
  let keep (ts : List TlbEnt) : List TlbEnt := ts.filter (fun t => !invHit p v t)
  { s with
    cores := s.cores.map (fun c => (c.1, { c.2 with tlb := keep c.2.tlb }))
    octets := s.octets.map (fun o => (o.1, { o.2 with tlb := keep o.2.tlb }))
    dies := s.dies.map (fun d => (d.1, { d.2 with tlb := d.2.tlb.map (fun e => (e.1, keep e.2)) })) }

/-- The walks under way with the partition's root. -/
def State.rootWalks (s : State) (p : Nat) : List Nat :=
  s.dies.flatMap (fun d => (d.2.walks.filter (fun w => w.root = p)).map Walk.id)

/-- MMU_INV (R145): a write of MMU_INV. -/
def execMmuInv (part : Nat) (v : BitVec 64) (s : State) : Host.Outcome State Fault Refusal :=
  runPilot s (fun s =>
    let a := Pf.mmuInv part
    let kept := v &&& 0x43FFFFFFFFFF0000#64
    let go := s.reg a &&& 0x8000000000000000#64
    if v.getLsbD 63 then
      let s1 := (s.setReg a (kept ||| 0x8000000000000000#64)).invalidate part v
      some (s1.setPart part { s1.part part with inv := some (s1.rootWalks part) })
    else some (s.setReg a (kept ||| go)))

/-- MMU_INV_COMPLETE (R145): the walks begun before it have ended; what they have installed is removed, and GO reads 0. -/
def execMmuInvComplete (part : Nat) (s : State) : Host.Outcome State Fault Refusal :=
  runEvent s (fun s =>
    match (s.part part).inv with
    | none => none
    | some ws =>
      if (s.rootWalks part).any ws.contains then none
      else
        let v := s.reg (Pf.mmuInv part)
        let s1 := (s.invalidate part v).setReg (Pf.mmuInv part) (v &&& 0x7FFFFFFFFFFFFFFF#64)
        some (s1.setPart part { s1.part part with inv := none }))

/-! ### Trace (R223) -/

/-- The bits of TR_CTL that a write changes but for EN and ON. -/
def trRw : Word := 0xFFFFFFFF00FFCFE8

/-- A write of TR_CTL that clears EN completes: the buffer has drained. -/
def State.traceOff (s : State) (n : Nat) (v : Word) : State :=
  (s.setReg (Pf.dbg n 0x188) (v &&& trRw)).setCore n { s.core n with trOff := none, trFull := false }

/-- Under STOPFULL the last record of the ring turns tracing off; records that wait are dropped and counted in LOST (log entry 17). -/
def State.traceFull (s : State) (n : Nat) : State :=
  let a := Pf.dbg n 0x188
  let c := s.core n
  let s1 := s.setRegF a 32 32 (min (s.regF a 32 32 + c.trace.length) 0xFFFFFFFF)
  (s1.setReg a (s1.reg a &&& 0xFFFFFFFFFFFFFFEF#64)).setCore n { c with trace := [], trFull := true }

/-- NEXT and WRAPS after a record. -/
def State.traceStep (s : State) (n : Nat) : State :=
  let p := Pf.dbg n 0x190
  let next := s.regF p 0 10
  if next < 1023 then s.setRegF p 0 10 (next + 1)
  else if (s.reg (Pf.dbg n 0x188)).getLsbD 3 then s.traceFull n
  else (s.setRegF p 0 10 0).setRegF p 32 32 (s.regF p 32 32 + 1)

/-- TRACE_RECORD_WRITE (R223): the oldest buffered record goes to the ring in the partition's half of the die scratchpad, once the cycle
that made it is over and its place among that cycle's records is settled. -/
def execTraceRecordWrite (core : Nat) (s : State) : Host.Outcome State Fault Refusal :=
  runEvent s (fun s =>
    let c := s.core core
    match c.trace with
    | [] => none
    | (d0, d1) :: rest =>
      if recCycle (d0, d1) = s.cyc % 2 ^ 56 then none
      else
        let d := dieOf core
        let at_ := partOf core % 2 * 0x1000000 + s.regF (Pf.dbg core 0x188) 14 10 * 0x4000 + s.regF (Pf.dbg core 0x190) 0 10 * 16
        let s1 := s.setDie d { s.die d with scr := (s.die d).scr.setBytes at_ (leBytes 8 d0.toNat ++ leBytes 8 d1.toNat) }
        let s2 := (s1.setCore core { c with trace := rest }).traceStep core
        some (match (s2.core core).trOff with
          | some v => if (s2.core core).trace = [] then s2.traceOff core v else s2
          | none => s2))

/-- TR_CTL (R223, R229): a write that clears EN completes when the buffer has drained, and changes nothing before that. -/
def execTrCtl (core : Nat) (v : BitVec 64) (s : State) : Host.Outcome State Fault Refusal :=
  runPilot s (fun s =>
    let a := Pf.dbg core 0x188
    let c := s.core core
    if v.getLsbD 0 then
      some (((s.setReg a ((v &&& trRw) ||| (s.reg a &&& 0x10) ||| 1)).setCore core { c with trOff := none, trFull := false }).traceHold core)
    else if (s.reg a).getLsbD 0 && c.trace ≠ [] then some (s.setCore core { c with trOff := some v })
    else some (s.traceOff core v))

/-! ### Wake digests (R226) -/

/-- WAKE (R226). -/
def execWake (core : Nat) (v : BitVec 64) (s : State) : Host.Outcome State Fault Refusal :=
  runPilot s (fun s =>
    let s1 := s.setReg (Pf.dbg core 0x198) v
    some (if v = 0 then s1.setReg (Pf.dbg core 0x1A0) 0 else s1))

end Sys2Proof.Machine
end

