-- ==== Sys2Proof/Machine/Registers.lean ====
section
/-! DEFINITION. Writes of registers over the links, by the access codes of their fields (R5, R6, R43 to R45, R54, R58, R95, R147, R194,
R217, R229, R230).  A register, or the part of one, that has a row of its own in the opcode table is written by that row alone. -/

namespace Sys2Proof.Machine

/-- The RW bits and the W1C bits of a register; reserved bits, RO fields and what a row of its own writes are in neither. -/
structure Bits where
  rw : Word := 0
  w1c : Word := 0
deriving DecidableEq, Repr

def onesW : Word := 0xFFFFFFFFFFFFFFFF

/-- Port registers (R44). -/
def portBits (off : Nat) : Bits :=
  if off = 0 then ⟨0x6, 0⟩
  else if off = 0x18 then ⟨onesW, 0⟩
  else if off = 0x20 then ⟨0xFFFFFFFF, 0⟩
  else if off = 0x28 then ⟨0, 7⟩
  else if 0x80 ≤ off ∧ off < 0xC0 ∧ off % 8 = 0 then ⟨0xFFFFFF, 0⟩
  else if off = 0xC0 then ⟨onesW, 0⟩
  else if off = 0xC8 then ⟨0xFFFF, 0⟩
  else {}

/-- Hub registers (R43, R45); a route entry's bit 6 is zero. -/
def hubBits (off : Nat) : Bits :=
  if off = 0x10 then ⟨0xFFF, 0⟩
  else if 0x40 ≤ off ∧ off < 0x80 ∧ off % 8 = 0 then ⟨0xFFFF, 0⟩
  else if 0x100 ≤ off ∧ off < 0x140 ∧ off % 8 = 0 then ⟨0xFFFFFFFF00000000, 0⟩
  else if 0x1000 ≤ off ∧ off < 0x2000 ∧ off % 8 = 0 then ⟨0xBFBFBFBFBFBFBFBF, 0⟩
  else {}

/-- Chartroom registers (R95). -/
def chrBits (off : Nat) : Bits :=
  if off = 0x00 then ⟨0x00FFFFFFFFF00000, 0⟩
  else if off = 0x08 then ⟨0x00FFFFFFFFFE0000, 0⟩
  else if off = 0x10 then ⟨0xFFFFFFFF, 0⟩
  else if off = 0x18 then ⟨0xFFFF, 0⟩
  else if off = 0x20 then ⟨0xF, 0⟩
  else if off = 0x28 then ⟨0xFF, 0⟩
  else if off = 0x40 then ⟨0xFFFF000000000000, 0⟩
  else if off = 0x48 then ⟨0, 0x3F⟩
  else if off = 0x50 then ⟨0xFFFFFFFF, 0⟩
  else {}

/-- Translation registers (R147). -/
def mmuBits (off : Nat) : Bits :=
  if off = 0x00 then ⟨0x00FFFFFFFFFFFF80, 0⟩
  else if off = 0x08 then ⟨0xFF, 0⟩
  else if off = 0x18 then ⟨0, 0x8000000000000000⟩
  else {}

/-- Fix registers (R194). -/
def fxBits (off : Nat) : Bits := if off = 0 then ⟨0xFFFFFFFF, 0⟩ else if off = 8 then ⟨onesW, 0⟩ else {}

/-- Halt registers (R217). -/
def hltBits (off : Nat) : Bits :=
  if off = 0x00 then ⟨0x00FFFFFFFFFF0000, 0⟩
  else if off = 0x08 then ⟨1, 0⟩
  else if off = 0x18 then ⟨0x4000FFFFFFFFFFFF, 0⟩
  else if off = 0x28 then ⟨0xFFFFFFFF00000000, 3⟩
  else {}

/-- A core's debug block (R229). -/
def dbgBits (off : Nat) : Bits :=
  if off < 0x80 then
    (if off % 16 = 0 then ⟨0xFFFFFFFFFFFFFFFC, 0⟩ else if off % 16 = 8 then ⟨0xFFFFFFFF0000FFF8, 0⟩ else {})
  else if off < 0x180 then
    (if off % 32 = 0 ∨ off % 32 = 8 then ⟨onesW, 0⟩ else if off % 32 = 16 then ⟨0xFFFFFFFFFFF8DFF0, 0⟩ else {})
  else if off = 0x180 then ⟨0x7FF, 0⟩
  else if off = 0x190 then ⟨0xFFFFFFFF000003FF, 0⟩
  else if off = 0x1A0 then ⟨0xFFFFFFFF, 0⟩
  else if off = 0x1A8 then ⟨onesW, 0⟩
  else if off = 0x1B0 then ⟨0xFFFFFFFF, 0⟩
  else if off = 0x1B8 then ⟨0x800000FFFFFFFFFF, 0⟩
  else if off = 0x1C0 then ⟨0xFFFFFFFF00001F1F, 0⟩
  else if off = 0x1C8 then ⟨0, 3⟩
  else {}

/-- Sounding registers (R230). -/
def sndBits (off : Nat) : Bits :=
  if off = 0x00 then ⟨0x3FFFC00, 0x2000000000000000⟩
  else if off = 0x08 ∨ off = 0x10 ∨ off = 0x18 then ⟨onesW, 0⟩
  else if 0x40 ≤ off ∧ off < 0x80 ∧ off % 8 = 0 then ⟨0xFFFF000000000000, 0⟩
  else {}

/-- VF registers (R54). -/
def vfBits (off : Nat) : Bits :=
  if off = 0x08 then ⟨0xFFFFFFFF00000000, 0x80000000⟩
  else if off = 0x18 then ⟨0xFFFFFFFF00000000, 7⟩
  else if off = 0x40 then ⟨0xFFFFFFFFFFFFF000, 0⟩
  else if off = 0x80 then ⟨onesW, 0⟩
  else if off = 0x88 then ⟨0x7FFFFFF, 0⟩
  else if off = 0x90 then ⟨0x00FFFFFFFFFF0000, 0⟩
  else {}

/-- Device registers (R58). -/
def devBits (a : Nat) : Bits :=
  if a = 0 then ⟨0, 0x302⟩
  else if a = 0x40 then ⟨onesW, 0⟩
  else if a = 0x48 then ⟨0xFFFFFFF, 0⟩
  else if a = 0x60 then ⟨0xFFFF, 0⟩
  else if a = 0x200 then ⟨onesW, 0⟩
  else if a = 0x208 then ⟨0xFFFFFFFF, 0⟩
  else {}

/-- The bits of the register at an address: PF space, and above it the VFs'. -/
def regBits (a : Nat) : Bits :=
  if a < 0x100000 then devBits a
  else if a < 0x110000 then portBits (a % 0x400)
  else if a < 0x200000 then {}
  else if a < 0x208000 then hubBits (a % 0x2000)
  else if a < 0x300000 then {}
  else if a < 0x300800 then chrBits (a % 0x100)
  else if a < 0x400000 then {}
  else if a < 0x400800 then mmuBits (a % 0x100)
  else if a < 0x500000 then {}
  else if a < 0x500800 then fxBits (a % 0x100)
  else if a < 0x600000 then {}
  else if a < 0x600800 then hltBits (a % 0x100)
  else if a < 0x700000 then {}
  else if a < 0x780000 then dbgBits (a % 0x200)
  else if a < 0x800000 then {}
  else if a < 0x800800 then sndBits (a % 0x100)
  else if a < 0x1010000 then {}
  else if a < 0x1090000 then vfBits (a % 0x10000)
  else {}

/-- The value after a write (R5): RW bits take what is written, W1C bits are cleared by a one, the others stay. -/
def Bits.put (b : Bits) (old v : Word) : Word := ((old &&& ~~~b.rw) ||| (v &&& b.rw)) &&& ~~~(v &&& b.w1c)

/-- The reserved trigger codes of R224 read back 0. -/
def trigCode (v : Word) : Word :=
  let fix (lo : Nat) (v : Word) : Word := if 20 ≤ bitsOf v lo 5 then putBits v lo 5 0 else v
  fix 0 (fix 8 v)

/-- The register that an address names: the four hubs show one FAB_SELF (R43). -/
def regHome (a : Nat) : Nat := if 0x200000 ≤ a ∧ a < 0x208000 ∧ a % 0x2000 = 0x10 then Pf.fabSelf else a

/-- The core whose debug block holds an address. -/
def dbgCore (a : Nat) : Nat := partCore ((a - 0x700000) / 0x10000) (a % 0x10000 / 0x200)

/-- A write by access codes, with the effects that writing has beside the stored value.  GO of HLT_REL, and GO and STOP of SND_CTL, have
rows of their own. -/
def State.linkWrite (s : State) (a : Nat) (v : Word) : State :=
  let a := regHome a
  let old := s.reg a
  let new := (regBits a).put old v
  if a = dumpCtl then (if v.getLsbD 0 then s.dumpArm else s)
  else if 0x700000 ≤ a ∧ a < 0x780000 ∧ a % 0x200 = 0x1C0 then
    ((s.traceHold (dbgCore a)).setReg a (trigCode new)).traceHold (dbgCore a)
  else if 0x700000 ≤ a ∧ a < 0x780000 ∧ a % 0x200 = 0x1B8 then
    let n := dbgCore a
    let s1 := s.setReg a new
    if new.getLsbD 63 && !old.getLsbD 63 then s1.setCore n { s1.core n with rplPos := 0 }
    else if old.getLsbD 63 && !new.getLsbD 63 then s1.unhideAll n
    else s1
  else if 0x600000 ≤ a ∧ a < 0x600800 ∧ a % 0x100 = 0x18 ∧ v.getLsbD 63 then s
  else if 0x800000 ≤ a ∧ a < 0x800800 ∧ a % 0x100 = 0 ∧ (v.getLsbD 63 ∨ v.getLsbD 62) then s
  else if (regBits a).rw = 0 ∧ (regBits a).w1c = 0 then s
  else s.setReg a new

/-- A host write of a VF register (R48, R54, R63): none where the VF does not answer or the write is discarded. -/
def State.hostVfWrite (s : State) (tee : Bool) (a : Nat) (v : Word) : Option State :=
  let f := (a - 0x1000000) / 0x10000
  let off := a % 0x10000
  if !s.vfUp f then none
  else if 0x80 ≤ off && s.tdisp f = 2 && !tee then none
  else if off = 0x40 && s.tdisp f ≠ 0 then s.breach f
  else some (s.linkWrite a v)

/-- What the host may write before READY (R58, R61). -/
def early (a : Nat) : Bool := a = 0 || a = 0x40 || a = 0x48

/-- REGISTER_WRITE (R5). -/
def execRegisterWrite (src : RegWriter) (addr : Nat) (v : BitVec 64) (s : State) : Host.Outcome State Fault Refusal :=
  runEvent s (fun s =>
    match src with
    | .pilot => if s.pilotRuns then some (s.linkWrite addr v) else none
    | .host tee =>
      if 0x1000000 ≤ addr then s.hostVfWrite tee addr v
      else if s.ready || early addr then some (s.linkWrite addr v)
      else none)

/-! ### Reads -/

/-- A register as a read shows it: the stored value, with the fields that follow other state (R43, R45, R95, R229). -/
def State.regRead (s : State) (a : Nat) : Word :=
  let a := regHome a
  let v := s.reg a
  let u := s.hub ((a - 0x200000) / 0x2000)
  if 0x200000 ≤ a ∧ a < 0x208000 ∧ a % 0x2000 = 0 then
    BitVec.ofNat 64 (512 - (u.cmb.filter CmbEntry.shared).length)
  else if 0x200000 ≤ a ∧ a < 0x208000 ∧ 0x100 ≤ a % 0x2000 ∧ a % 0x2000 < 0x140 ∧ a % 8 = 0 then
    let mine := u.cmb.filter (fun e => e.part = (a % 0x2000 - 0x100) / 8)
    BitVec.ofNat 64 (bitsOf v 32 32 * 2 ^ 32 + (mine.filter CmbEntry.shared).length * 2 ^ 16 + (mine.filter (fun e => !e.shared)).length)
  else if 0x300000 ≤ a ∧ a < 0x300800 ∧ a % 0x100 = 0x40 then s.chartStat ((a - 0x300000) / 0x100)
  else if 0x700000 ≤ a ∧ a < 0x780000 ∧ a % 0x200 = 0x188 then putBits v 4 1 (if s.tracing (dbgCore a) then 1 else 0)
  else v

/-- The registers that answer before READY and in recovery: DEVSTAT and FW_* (R58, R61). -/
def answersEarly (a : Nat) : Bool := early a || a = fwCmd || a = fwStat

/-- What a read by the host returns: 0 before READY and in recovery but for DEVSTAT and FW_* (R58, R61), where a VF does not answer (R47,
R63), and for a TEE-private register in RUN without the TEE bit (R54). -/
def State.hostRead (s : State) (tee : Bool) (a : Nat) : Word :=
  let f := (a - 0x1000000) / 0x10000
  if a < 0x1000000 then (if s.ready || answersEarly a then s.regRead a else 0)
  else if !s.vfUp f || (decide (0x80 ≤ a % 0x10000) && s.tdisp f = 2 && !tee) then 0
  else s.regRead a

end Sys2Proof.Machine
end

