-- ==== Sys2Proof/Machine/Rings.lean ====
section
/-! DEFINITION. Arming by the host and its completion ring (R52 to R54). -/

namespace Sys2Proof.Machine

/-- VF_ARM (R52): the refusals of the register and of the VF's state are made here; the Chartroom makes the others in its turn. -/
def execVfArm (vf : Nat) (v : BitVec 64) (s : State) : Host.Outcome State Fault Refusal :=
  runEvent s (fun s =>
    if !s.vfUp vf then none
    else
      let p := vf - 1
      let i := bitsOf v 0 13
      if bitsOf v 13 51 ≠ 0 then some (s.armRefused p i 0x72)
      else if s.tdisp vf = 1 || s.tdisp vf = 3 then some (s.armRefused p i 0x71)
      else
        let (id, s1) := s.newId
        some (s1.setPart p { s1.part p with reqs := (s1.part p).reqs ++ [⟨id, 0, 0, .hostArm i⟩] }))

/-- VF_CMPL_TAIL (R53). -/
def execVfCmplTail (vf : Nat) (v : BitVec 64) (s : State) : Host.Outcome State Fault Refusal :=
  runEvent s (fun s => if s.vfUp vf then some (s.setReg (Pf.vf vf 0x58) (v &&& 0xFFFFFFFF)) else none)

/-- VF_CMPL_CTL (R54): a locked item (R48); a LOG2N outside 4 to 16 clears EN. -/
def execVfCmplCtl (vf : Nat) (v : BitVec 64) (s : State) : Host.Outcome State Fault Refusal :=
  runEvent s (fun s =>
    if !s.vfUp vf then none
    else if s.tdisp vf ≠ 0 then s.breach vf
    else
      let n := bitsOf v 0 5
      if n < 4 || 16 < n then some ((s.setReg (Pf.vf vf 0x48) (v &&& 0x1F)).vfEvt vf 1)
      else some (s.setReg (Pf.vf vf 0x48) (v &&& 0x3F)))

/-- The record's first doubleword with PHASE: 1 on the first pass through the ring, inverted on each wrap. -/
def withPhase (c0 : Word) (head log2n : Nat) : Word := if head / 2 ^ log2n % 2 = 0 then c0 ||| 0x8000000000000000#64 else c0

/-- COMPLETION_RECORD_WRITE (R53): the record, then MSI-X vector 0. -/
def execCompletionRecordWrite (vf : Nat) (s : State) : Host.Outcome State Fault Refusal :=
  runEvent s (fun s =>
    let p := vf - 1
    match (s.part p).recs with
    | [] => none
    | r :: rest =>
      if s.ringRoom vf = 0 || (s.vf vf).resetting then none
      else
        let n := s.regF (Pf.vf vf 0x48) 0 5
        let head := s.regF (Pf.vf vf 0x50) 0 32
        let a := (s.reg (Pf.vf vf 0x40)).toNat + head % 2 ^ n * 32
        let bs := leBytes 8 (withPhase r[0] head n).toNat ++ leBytes 8 r[1].toNat ++ leBytes 8 r[2].toNat ++ leBytes 8 r[3].toNat
        let s1 := { s with hostMem := s.hostMem.setBytes a bs }
        some (((s1.setPart p { s1.part p with recs := rest }).setReg (Pf.vf vf 0x50) (BitVec.ofNat 64 ((head + 1) % 2 ^ 32))).msi vf 0))

end Sys2Proof.Machine
end

