-- ==== Sys2Proof/Machine/Secure.lean ====
section
/-! DEFINITION. The SPDM responders (R49, R50).  A response is what the responder sends; the message formats are the SPDM specification's
and not this manual's. -/

namespace Sys2Proof.Machine

/-- A function that has a responder now: the PF, or an enabled VF. -/
def State.responds (s : State) (fn : Nat) : Bool := s.ready && !s.dev.pilotHeld && (fn = 0 || (s.vf fn).enabled)

/-- SPDM version 1.3. -/
def spdm13 : BitVec 8 := 0x13

/-- KEY_EXCHANGE (R49): up to four secure sessions for each function. -/
def execKeyExchange (fn : Nat) (version : BitVec 8) (s : State) : Host.Outcome State Fault Refusal :=
  runEvent s (fun s =>
    let n := AMap.getD s.dev.sessions fn 0
    if !s.responds fn then none
    else if version ≠ spdm13 then some (s.answer (.versionMismatch fn))
    else if 4 ≤ n then some (s.answer (.sessionLimit fn))
    else some ({ s with dev := { s.dev with sessions := AMap.set s.dev.sessions fn (n + 1) } }.answer (.reply fn 0xE4)))

/-- The responder's capabilities. -/
def capabilities : List Capability := [.cert, .chal, .measSig, .keyEx, .mac, .encrypt, .hbeat, .measFresh]

/-- The chain in a certificate slot: the I/O die's in slot 0, none in 1 to 7. -/
def certChain (slot : Nat) : Option (List Byte) := if slot = 0 then some (Config.dieCert 12) else none

/-- What answers a request by its code; an unknown code is not supported.  The codes are the SPDM specification's (log entry 67). -/
def spdmAnswer (fn : Nat) (code param : BitVec 8) : Answer :=
  let slot := param.toNat % 8
  if code = 0xE1 then .capabilities fn capabilities
  else if code = 0xE3 then .algorithms fn .ecdsaP521 .sha512 .ecdheSecp521r1 .aes256Gcm
  else if code = 0x81 then .digests fn [(0, Config.sha512 (Config.dieCert 12))]
  else if code = 0x82 then .certificate fn slot (certChain slot)
  else if code = 0x83 then .challenge fn slot ((certChain slot).map Config.sha512)
  else if code = 0x84 || code = 0xE5 || code = 0xE8 || code = 0xE9 || code = 0xEC || code = 0xFE then .reply fn code
  else .unsupported fn code

/-- SPDM_REQUEST (R49): a request other than KEY_EXCHANGE and GET_MEASUREMENTS, with its first parameter.  END_SESSION ends one of the
function's sessions. -/
def execSpdmRequest (fn : Nat) (version : BitVec 8) (h : SpdmHead) (s : State) : Host.Outcome State Fault Refusal :=
  runEvent s (fun s =>
    let n := AMap.getD s.dev.sessions fn 0
    if !s.responds fn then none
    else if version ≠ spdm13 then some (s.answer (.versionMismatch fn))
    else
      let s1 := if h.code = 0xEC then { s with dev := { s.dev with sessions := AMap.set s.dev.sessions fn (n - 1) } } else s
      some (s1.answer (spdmAnswer fn h.code h.param)))

/-! ### Measurements (R50) -/

/-- A die's evidence: its certificate, its digest, and its signature over the hash of the requester's nonce and the digest. -/
def dieBlock (index die : Nat) (nonce : BitVec 256) : Block :=
  let d := Config.romDigest die 0
  { index := index, digest := d, cert := some (Config.dieCert die), sig := some (Config.dieSign die (Config.sha512 (leBytes 32 nonce.toNat ++ leBytes 64 d.toNat))) }

/-- The generations of a partition's key slots. -/
def State.keyGens (s : State) (p : Nat) : List Nat := (List.range 16).map (fun i => AMap.getD s.keyGen (p * 16 + i) 0)

/-- Device configuration: partition-to-VF map, fenced octets, fabric address. -/
def State.configBytes (s : State) : List Byte :=
  numBytes ((List.range 8).map (fun p => if (s.vf (p + 1)).assigned then p + 1 else 0)) ++ numBytes s.dev.fenced ++
  numBytes [s.regF Pf.fabSelf 0 12]

/-- The blocks that a function's responder returns. -/
def State.blocks (s : State) (fn : Nat) (nonce : BitVec 256) : List Block :=
  [{ index := 1, digest := Config.romDigest 12 0 },
   { index := 2, digest := Config.sha512 ((s.dev.running.map FwImage.data).getD []) },
   { index := 3, digest := Config.romDigest 13 s.dev.fused.toNat },
   { index := 4, digest := Config.sha512 s.configBytes }] ++
  (List.range 12).map (fun d => dieBlock (5 + d) d nonce) ++
  (if fn = 0 then []
   else [{ index := 17, digest := Config.sha512 (numBytes ((s.vf fn).lockCfg.map BitVec.toNat)), gens := s.keyGens (fn - 1) }])

/-- GET_MEASUREMENTS (R50). -/
def execGetMeasurements (fn : Nat) (nonce : BitVec 256) (s : State) : Host.Outcome State Fault Refusal :=
  runEvent s (fun s => if s.responds fn then some (s.answer (.measurements fn nonce (s.blocks fn nonce))) else none)

/-- A response whose evidence of a die has an empty signature. -/
def Answer.blank (die : Nat) : Answer → Answer
  | .measurements fn nonce bs => .measurements fn nonce (bs.map (fun b => if b.index = 5 + die then { b with sig := none } else b))
  | a => a

/-- DIE_EVIDENCE_TIMEOUT (R50): the block of a die that has not answered within 10 ms stands in the response without a signature. -/
def execDieEvidenceTimeout (die : Nat) (s : State) : Host.Outcome State Fault Refusal :=
  runEvent s (fun s =>
    match s.dev.answers.getLast? with
    | some (.measurements fn nonce bs, _) =>
      if die < 12 then some ({ s with dev := { s.dev with answers := s.dev.answers.dropLast } }.answer ((Answer.measurements fn nonce bs).blank die))
      else none
    | _ => none)

end Sys2Proof.Machine
end

