-- ==== Sys2Proof/Machine/Dispatch.lean ====
section
/-! DEFINITION. What an instruction or event does: one arm per constructor, each a direct call of its meaning. -/

namespace Sys2Proof.Machine

def exec (i : Instr) (s : State) : Host.Outcome State Fault Refusal :=
  match i with
  | .add d a b m => Sys2Proof.Machine.execAdd d a b m s
  | .sub d a b m => Sys2Proof.Machine.execSub d a b m s
  | .and d a b m => Sys2Proof.Machine.execAnd d a b m s
  | .or d a b m => Sys2Proof.Machine.execOr d a b m s
  | .xor d a b m => Sys2Proof.Machine.execXor d a b m s
  | .andn d a b m => Sys2Proof.Machine.execAndn d a b m s
  | .shl d a b m => Sys2Proof.Machine.execShl d a b m s
  | .shr d a b m => Sys2Proof.Machine.execShr d a b m s
  | .sar d a b m => Sys2Proof.Machine.execSar d a b m s
  | .ror d a b m => Sys2Proof.Machine.execRor d a b m s
  | .min d a b m => Sys2Proof.Machine.execMin d a b m s
  | .max d a b m => Sys2Proof.Machine.execMax d a b m s
  | .mul d a b m => Sys2Proof.Machine.execMul d a b m s
  | .mulh d a b m => Sys2Proof.Machine.execMulh d a b m s
  | .div d a b m => Sys2Proof.Machine.execDiv d a b m s
  | .rem d a b m => Sys2Proof.Machine.execRem d a b m s
  | .clz d a m => Sys2Proof.Machine.execClz d a m s
  | .ctz d a m => Sys2Proof.Machine.execCtz d a m s
  | .popc d a m => Sys2Proof.Machine.execPopc d a m s
  | .brev d a m => Sys2Proof.Machine.execBrev d a m s
  | .ext d a b m => Sys2Proof.Machine.execExt d a b m s
  | .ins d a b m => Sys2Proof.Machine.execIns d a b m s
  | .lea d a b m => Sys2Proof.Machine.execLea d a b m s
  | .mov d a m => Sys2Proof.Machine.execMov d a m s
  | .addi d a imm m => Sys2Proof.Machine.execAddi d a imm m s
  | .cmpp f d a b m => Sys2Proof.Machine.execCmpp f d a b m s
  | .setc f d a b m => Sys2Proof.Machine.execSetc f d a b m s
  | .sel f d a b m => Sys2Proof.Machine.execSel f d a b m s
  | .fadd d a b m => Sys2Proof.Machine.execFadd d a b m s
  | .fsub d a b m => Sys2Proof.Machine.execFsub d a b m s
  | .fmul d a b m => Sys2Proof.Machine.execFmul d a b m s
  | .fmulz d a b m => Sys2Proof.Machine.execFmulz d a b m s
  | .fdiv d a b m => Sys2Proof.Machine.execFdiv d a b m s
  | .fmin d a b m => Sys2Proof.Machine.execFmin d a b m s
  | .fmax d a b m => Sys2Proof.Machine.execFmax d a b m s
  | .fma d a b c m => Sys2Proof.Machine.execFma d a b c m s
  | .fsqrt d a m => Sys2Proof.Machine.execFsqrt d a m s
  | .fneg d a m => Sys2Proof.Machine.execFneg d a m s
  | .fabs d a m => Sys2Proof.Machine.execFabs d a m s
  | .fclass d a m => Sys2Proof.Machine.execFclass d a m s
  | .fcvt d a m => Sys2Proof.Machine.execFcvt d a m s
  | .fcmpp f d a b m => Sys2Proof.Machine.execFcmpp f d a b m s
  | .pand d a b m => Sys2Proof.Machine.execPand d a b m s
  | .por d a b m => Sys2Proof.Machine.execPor d a b m s
  | .pxor d a b m => Sys2Proof.Machine.execPxor d a b m s
  | .pnot d a m => Sys2Proof.Machine.execPnot d a m s
  | .ppack d m => Sys2Proof.Machine.execPpack d m s
  | .punpk a m => Sys2Proof.Machine.execPunpk a m s
  | .br off neg p m => Sys2Proof.Machine.execBr off neg p m s
  | .jmp off m => Sys2Proof.Machine.execJmp off m s
  | .call off m => Sys2Proof.Machine.execCall off m s
  | .jmpr a m => Sys2Proof.Machine.execJmpr a m s
  | .callr a m => Sys2Proof.Machine.execCallr a m s
  | .ret m => Sys2Proof.Machine.execRet m s
  | .enter d m => Sys2Proof.Machine.execEnter d m s
  | .leave m => Sys2Proof.Machine.execLeave m s
  | .nop m => Sys2Proof.Machine.execNop m s
  | .halt m => Sys2Proof.Machine.execHalt m s
  | .trap d m => Sys2Proof.Machine.execTrap d m s
  | .sysc d a b m => Sys2Proof.Machine.execSysc d a b m s
  | .eret m => Sys2Proof.Machine.execEret m s
  | .loop off d m => Sys2Proof.Machine.execLoop off d m s
  | .hstart d a b m => Sys2Proof.Machine.execHstart d a b m s
  | .hjoin d a m => Sys2Proof.Machine.execHjoin d a m s
  | .hexit m => Sys2Proof.Machine.execHexit m s
  | .cid d m => Sys2Proof.Machine.execCid d m s
  | .mcrd d a m => Sys2Proof.Machine.execMcrd d a m s
  | .yield a m => Sys2Proof.Machine.execYield a m s
  | .srd d a m => Sys2Proof.Machine.execSrd d a m s
  | .swr d a m => Sys2Proof.Machine.execSwr d a m s
  | .wspx d a m => Sys2Proof.Machine.execWspx d a m s
  | .qstat d a m => Sys2Proof.Machine.execQstat d a m s
  | .qflush a m => Sys2Proof.Machine.execQflush a m s
  | .tlbi a m => Sys2Proof.Machine.execTlbi a m s
  | .bkpt m => Sys2Proof.Machine.execBkpt m s
  | .prog a m => Sys2Proof.Machine.execProg a m s
  | .trace a m => Sys2Proof.Machine.execTrace a m s
  | .ckset d a m => Sys2Proof.Machine.execCkset d a m s
  | .ld d a z imm m => Sys2Proof.Machine.execLd d a z imm m s
  | .st d a z imm m => Sys2Proof.Machine.execSt d a z imm m s
  | .ldx f d a b m => Sys2Proof.Machine.execLdx f d a b m s
  | .stx f d a b m => Sys2Proof.Machine.execStx f d a b m s
  | .lda d a z imm k m => Sys2Proof.Machine.execLda d a z imm k m s
  | .stl d a z imm k m => Sys2Proof.Machine.execStl d a z imm k m s
  | .pref a c m => Sys2Proof.Machine.execPref a c m s
  | .cwb a c m => Sys2Proof.Machine.execCwb a c m s
  | .cinv a c m => Sys2Proof.Machine.execCinv a c m s
  | .cdisc a c m => Sys2Proof.Machine.execCdisc a c m s
  | .czero a c m => Sys2Proof.Machine.execCzero a c m s
  | .ifence m => Sys2Proof.Machine.execIfence m s
  | .fence d m => Sys2Proof.Machine.execFence d m s
  | .waita f d a b c m => Sys2Proof.Machine.execWaita f d a b c m s
  | .aadd d a b m => Sys2Proof.Machine.execAadd d a b m s
  | .aand d a b m => Sys2Proof.Machine.execAand d a b m s
  | .aor d a b m => Sys2Proof.Machine.execAor d a b m s
  | .axor d a b m => Sys2Proof.Machine.execAxor d a b m s
  | .amin d a b m => Sys2Proof.Machine.execAmin d a b m s
  | .amax d a b m => Sys2Proof.Machine.execAmax d a b m s
  | .aswp d a b m => Sys2Proof.Machine.execAswp d a b m s
  | .afadd d a b m => Sys2Proof.Machine.execAfadd d a b m s
  | .acas d a b c m => Sys2Proof.Machine.execAcas d a b c m s
  | .binit a d m => Sys2Proof.Machine.execBinit a d m s
  | .barr a m => Sys2Proof.Machine.execBarr a m s
  | .bwait d a c m => Sys2Proof.Machine.execBwait d a c m s
  | .barw d a c m => Sys2Proof.Machine.execBarw d a c m s
  | .bstat d a m => Sys2Proof.Machine.execBstat d a m s
  | .roseb d a m => Sys2Proof.Machine.execRoseb d a m s
  | .roseq d a m => Sys2Proof.Machine.execRoseq d a m s
  | .rosex d m => Sys2Proof.Machine.execRosex d m s
  | .msend a c m => Sys2Proof.Machine.execMsend a c m s
  | .msendr d a c m => Sys2Proof.Machine.execMsendr d a c m s
  | .mrecv d a c m => Sys2Proof.Machine.execMrecv d a c m s
  | .mrecvr d a c m => Sys2Proof.Machine.execMrecvr d a c m s
  | .mbind a m => Sys2Proof.Machine.execMbind a m s
  | .mstat d a m => Sys2Proof.Machine.execMstat d a m s
  | .ttgo a m => Sys2Proof.Machine.execTtgo a m s
  | .ttsend d a m => Sys2Proof.Machine.execTtsend d a m s
  | .ttrecv d a m => Sys2Proof.Machine.execTtrecv d a m s
  | .ttend m => Sys2Proof.Machine.execTtend m s
  | .ttq d m => Sys2Proof.Machine.execTtq d m s
  | .fxdef d a m => Sys2Proof.Machine.execFxdef d a m s
  | .fxjoin a m => Sys2Proof.Machine.execFxjoin a m s
  | .fxc d a c m => Sys2Proof.Machine.execFxc d a c m s
  | .fxw d a c m => Sys2Proof.Machine.execFxw d a c m s
  | .fxq d a m => Sys2Proof.Machine.execFxq d a m s
  | .fxlv a m => Sys2Proof.Machine.execFxlv a m s
  | .xtpl d a m => Sys2Proof.Machine.execXtpl d a m s
  | .xst d a m => Sys2Proof.Machine.execXst d a m s
  | .xcan d m => Sys2Proof.Machine.execXcan d m s
  | .xstat d a m => Sys2Proof.Machine.execXstat d a m s
  | .charm a m => Sys2Proof.Machine.execCharm a m s
  | .chdec a m => Sys2Proof.Machine.execChdec a m s
  | .chpatch d a m => Sys2Proof.Machine.execChpatch d a m s
  | .chcard d m => Sys2Proof.Machine.execChcard d m s
  | .chdone a m => Sys2Proof.Machine.execChdone a m s
  | .chq d a m => Sys2Proof.Machine.execChq d a m s
  | .vadd d a b m => Sys2Proof.Machine.execVadd d a b m s
  | .vsub d a b m => Sys2Proof.Machine.execVsub d a b m s
  | .vmul d a b m => Sys2Proof.Machine.execVmul d a b m s
  | .vmulz d a b m => Sys2Proof.Machine.execVmulz d a b m s
  | .vfma d a b c m => Sys2Proof.Machine.execVfma d a b c m s
  | .vmin d a b m => Sys2Proof.Machine.execVmin d a b m s
  | .vmax d a b m => Sys2Proof.Machine.execVmax d a b m s
  | .vsacc d a b c m => Sys2Proof.Machine.execVsacc d a b c m s
  | .vand d a b m => Sys2Proof.Machine.execVand d a b m s
  | .vor d a b m => Sys2Proof.Machine.execVor d a b m s
  | .vxor d a b m => Sys2Proof.Machine.execVxor d a b m s
  | .vshl d a b m => Sys2Proof.Machine.execVshl d a b m s
  | .vshr d a b m => Sys2Proof.Machine.execVshr d a b m s
  | .vsar d a b m => Sys2Proof.Machine.execVsar d a b m s
  | .vabs d a m => Sys2Proof.Machine.execVabs d a m s
  | .vneg d a m => Sys2Proof.Machine.execVneg d a m s
  | .vcmp d a b m => Sys2Proof.Machine.execVcmp d a b m s
  | .vsel d a b m => Sys2Proof.Machine.execVsel d a b m s
  | .vcvt d a m => Sys2Proof.Machine.execVcvt d a m s
  | .vmov d a m => Sys2Proof.Machine.execVmov d a m s
  | .viota d c m => Sys2Proof.Machine.execViota d c m s
  | .vbcast d c m => Sys2Proof.Machine.execVbcast d c m s
  | .vextr d a c m => Sys2Proof.Machine.execVextr d a c m s
  | .vins d a c m => Sys2Proof.Machine.execVins d a c m s
  | .vred d a m => Sys2Proof.Machine.execVred d a m s
  | .vscan d a m => Sys2Proof.Machine.execVscan d a m s
  | .vperm d a b m => Sys2Proof.Machine.execVperm d a b m s
  | .vsf d a m => Sys2Proof.Machine.execVsf d a m s
  | .vmk d a b m => Sys2Proof.Machine.execVmk d a b m s
  | .vmpop d a m => Sys2Proof.Machine.execVmpop d a m s
  | .vfence m => Sys2Proof.Machine.execVfence m s
  | .vld d c m => Sys2Proof.Machine.execVld d c m s
  | .vst d c m => Sys2Proof.Machine.execVst d c m s
  | .vlds d a c m => Sys2Proof.Machine.execVlds d a c m s
  | .vsts d a c m => Sys2Proof.Machine.execVsts d a c m s
  | .vgath d a c m => Sys2Proof.Machine.execVgath d a c m s
  | .vscat d a c m => Sys2Proof.Machine.execVscat d a c m s
  | .mwld d a m => Sys2Proof.Machine.execMwld d a m s
  | .mma d a m => Sys2Proof.Machine.execMma d a m s
  | .mmag d a c m => Sys2Proof.Machine.execMmag d a c m s
  | .mmap d a m => Sys2Proof.Machine.execMmap d a m s
  | .mupl d m => Sys2Proof.Machine.execMupl d m s
  | .mzero d m => Sys2Proof.Machine.execMzero d m s
  | .mtr d m => Sys2Proof.Machine.execMtr d m s
  | .mst d a m => Sys2Proof.Machine.execMst d a m s
  | .mld d a m => Sys2Proof.Machine.execMld d a m s
  | .msacc d m => Sys2Proof.Machine.execMsacc d m s
  | .mfence m => Sys2Proof.Machine.execMfence m s
  | .mstatMatrix d m => Sys2Proof.Machine.execMstatMatrix d m s
  | .illegalEncoding cause enc => Sys2Proof.Machine.execIllegalEncoding cause enc s
  | .haltOnWithheld core ctx => Sys2Proof.Machine.execHaltOnWithheld core ctx s
  | .waitLimitExpiry core ctx => Sys2Proof.Machine.execWaitLimitExpiry core ctx s
  | .waitaPoll core ctx => Sys2Proof.Machine.execWaitaPoll core ctx s
  | .placementAttempt part => Sys2Proof.Machine.execPlacementAttempt part s
  | .kernelEntry core => Sys2Proof.Machine.execKernelEntry core s
  | .gangRetire part gang => Sys2Proof.Machine.execGangRetire part gang s
  | .graceExpiry part tcb => Sys2Proof.Machine.execGraceExpiry part tcb s
  | .taskWatchdogExpiry part tcb => Sys2Proof.Machine.execTaskWatchdogExpiry part tcb s
  | .checkpointImageWrite part cvy => Sys2Proof.Machine.execCheckpointImageWrite part cvy s
  | .checkpointCommit part cvy => Sys2Proof.Machine.execCheckpointCommit part cvy s
  | .matrixGrant octet => Sys2Proof.Machine.execMatrixGrant octet s
  | .matrixCommandComplete core => Sys2Proof.Machine.execMatrixCommandComplete core s
  | .mmagMeeting core => Sys2Proof.Machine.execMmagMeeting core s
  | .vectorEngineStart core => Sys2Proof.Machine.execVectorEngineStart core s
  | .vectorEngineComplete core => Sys2Proof.Machine.execVectorEngineComplete core s
  | .sfuRequestStart octet => Sys2Proof.Machine.execSfuRequestStart octet s
  | .sfuResult octet => Sys2Proof.Machine.execSfuResult octet s
  | .copyStart core ch => Sys2Proof.Machine.execCopyStart core ch s
  | .copyComplete core ch => Sys2Proof.Machine.execCopyComplete core ch s
  | .mainFileWriteback core => Sys2Proof.Machine.execMainFileWriteback core s
  | .meshAccessArrival id => Sys2Proof.Machine.execMeshAccessArrival id s
  | .pageWalkComplete id => Sys2Proof.Machine.execPageWalkComplete id s
  | .zeroOnFirstTouch id => Sys2Proof.Machine.execZeroOnFirstTouch id s
  | .messageSend core => Sys2Proof.Machine.execMessageSend core s
  | .messageArrival id => Sys2Proof.Machine.execMessageArrival id s
  | .allowanceReturn id => Sys2Proof.Machine.execAllowanceReturn id s
  | .mailboxGrant id => Sys2Proof.Machine.execMailboxGrant id s
  | .mbindComplete core => Sys2Proof.Machine.execMbindComplete core s
  | .barrierArrival id => Sys2Proof.Machine.execBarrierArrival id s
  | .barrierRelease id => Sys2Proof.Machine.execBarrierRelease id s
  | .timetableRelease core => Sys2Proof.Machine.execTimetableRelease core s
  | .timetableWordArrival id => Sys2Proof.Machine.execTimetableWordArrival id s
  | .timetableEnd core => Sys2Proof.Machine.execTimetableEnd core s
  | .fixContributionArrival id => Sys2Proof.Machine.execFixContributionArrival id s
  | .nearMemoryFold id => Sys2Proof.Machine.execNearMemoryFold id s
  | .pktFixContribution port => Sys2Proof.Machine.execPktFixContribution port s
  | .pktFixResult port => Sys2Proof.Machine.execPktFixResult port s
  | .pktRemoteWrite port => Sys2Proof.Machine.execPktRemoteWrite port s
  | .pktRemoteFold port => Sys2Proof.Machine.execPktRemoteFold port s
  | .pktE2eAck port => Sys2Proof.Machine.execPktE2eAck port s
  | .pktWithheld port => Sys2Proof.Machine.execPktWithheld port s
  | .pktReleased port => Sys2Proof.Machine.execPktReleased port s
  | .e2eTimeout dev vl => Sys2Proof.Machine.execE2eTimeout dev vl s
  | .flowLost dev vl => Sys2Proof.Machine.execFlowLost dev vl s
  | .hubDrainTimeout die part => Sys2Proof.Machine.execHubDrainTimeout die part s
  | .hubScrub die part => Sys2Proof.Machine.execHubScrub die part s
  | .completionRecordWrite vf => Sys2Proof.Machine.execCompletionRecordWrite vf s
  | .mmuInvComplete part => Sys2Proof.Machine.execMmuInvComplete part s
  | .chainedRelease part id => Sys2Proof.Machine.execChainedRelease part id s
  | .traceRecordWrite core => Sys2Proof.Machine.execTraceRecordWrite core s
  | .soundingPause part => Sys2Proof.Machine.execSoundingPause part s
  | .timetableOffsetReached core ctx => Sys2Proof.Machine.execTimetableOffsetReached core ctx s
  | .memoryAccessArrival id => Sys2Proof.Machine.execMemoryAccessArrival id s
  | .accessResponseReturn id => Sys2Proof.Machine.execAccessResponseReturn id s
  | .breakpointHalt core ctx imm => Sys2Proof.Machine.execBreakpointHalt core ctx imm s
  | .chrPreempt part v => Sys2Proof.Machine.execChrPreempt part v s
  | .faultResolution part tcb how => Sys2Proof.Machine.execFaultResolution part tcb how s
  | .rxDataFlit port flit => Sys2Proof.Machine.execRxDataFlit port flit s
  | .rxNakFlit port flit => Sys2Proof.Machine.execRxNakFlit port flit s
  | .rxCreditFlit port flit => Sys2Proof.Machine.execRxCreditFlit port flit s
  | .rxIdleFlit port flit => Sys2Proof.Machine.execRxIdleFlit port flit s
  | .laneFail port lane => Sys2Proof.Machine.execLaneFail port lane s
  | .trainingAttemptEnd port pass0 pass1 peer0 peer1 => Sys2Proof.Machine.execTrainingAttemptEnd port pass0 pass1 peer0 peer1 s
  | .trainingTimeout port => Sys2Proof.Machine.execTrainingTimeout port s
  | .flowReset dev => Sys2Proof.Machine.execFlowReset dev s
  | .linkEn port on => Sys2Proof.Machine.execLinkEn port on s
  | .linkRetrain port => Sys2Proof.Machine.execLinkRetrain port s
  | .packageReset => Sys2Proof.Machine.execPackageReset s
  | .powerGood => Sys2Proof.Machine.execPowerGood s
  | .railTimeout => Sys2Proof.Machine.execRailTimeout s
  | .selfCalibrationDone ok bad => Sys2Proof.Machine.execSelfCalibrationDone ok bad s
  | .hbmInitDone ok => Sys2Proof.Machine.execHbmInitDone ok s
  | .bootRomLoad failing => Sys2Proof.Machine.execBootRomLoad failing s
  | .powerClampSample avgWatts below1ms => Sys2Proof.Machine.execPowerClampSample avgWatts below1ms s
  | .thermalLimit hot => Sys2Proof.Machine.execThermalLimit hot s
  | .thermalTrip => Sys2Proof.Machine.execThermalTrip s
  | .pilotWdKick => Sys2Proof.Machine.execPilotWdKick s
  | .pilotWatchdogExpiry => Sys2Proof.Machine.execPilotWatchdogExpiry s
  | .numvfsWrite n => Sys2Proof.Machine.execNumvfsWrite n s
  | .lockInterfaceRequest vf => Sys2Proof.Machine.execLockInterfaceRequest vf s
  | .startInterfaceRequest vf => Sys2Proof.Machine.execStartInterfaceRequest vf s
  | .stopInterfaceRequest vf => Sys2Proof.Machine.execStopInterfaceRequest vf s
  | .getDeviceInterfaceReport vf => Sys2Proof.Machine.execGetDeviceInterfaceReport vf s
  | .lockedItemWrite vf => Sys2Proof.Machine.execLockedItemWrite vf s
  | .ideIntegrityFailure vf => Sys2Proof.Machine.execIdeIntegrityFailure vf s
  | .functionLevelReset vf => Sys2Proof.Machine.execFunctionLevelReset vf s
  | .partitionResetComplete part setup => Sys2Proof.Machine.execPartitionResetComplete part setup s
  | .getMeasurements fn nonce => Sys2Proof.Machine.execGetMeasurements fn nonce s
  | .dieEvidenceTimeout die => Sys2Proof.Machine.execDieEvidenceTimeout die s
  | .keyExchange fn version => Sys2Proof.Machine.execKeyExchange fn version s
  | .keyLoad vf slot key => Sys2Proof.Machine.execKeyLoad vf slot key s
  | .vfArm vf v => Sys2Proof.Machine.execVfArm vf v s
  | .vfCmplTail vf v => Sys2Proof.Machine.execVfCmplTail vf v s
  | .vfCmplCtl vf v => Sys2Proof.Machine.execVfCmplCtl vf v s
  | .vfLoadGo vf tee => Sys2Proof.Machine.execVfLoadGo vf tee s
  | .codeLoadComplete vf hostReadOk => Sys2Proof.Machine.execCodeLoadComplete vf hostReadOk s
  | .fwUpdateGo v => Sys2Proof.Machine.execFwUpdateGo v s
  | .fwUpdateComplete image flashOk => Sys2Proof.Machine.execFwUpdateComplete image flashOk s
  | .coreDumpStart part cause haltId => Sys2Proof.Machine.execCoreDumpStart part cause haltId s
  | .dumpRecordReadback fault => Sys2Proof.Machine.execDumpRecordReadback fault s
  | .dumpReadbackTimeout off => Sys2Proof.Machine.execDumpReadbackTimeout off s
  | .mmuInv part v => Sys2Proof.Machine.execMmuInv part v s
  | .haltRequest part v => Sys2Proof.Machine.execHaltRequest part v s
  | .haltRelease part id => Sys2Proof.Machine.execHaltRelease part id s
  | .haltKill part id => Sys2Proof.Machine.execHaltKill part id s
  | .trCtl core v => Sys2Proof.Machine.execTrCtl core v s
  | .wake core v => Sys2Proof.Machine.execWake core v s
  | .soundingGo part v => Sys2Proof.Machine.execSoundingGo part v s
  | .soundingStop w => Sys2Proof.Machine.execSoundingStop w s
  | .registerWrite src addr v => Sys2Proof.Machine.execRegisterWrite src addr v s
  | .spdmRequest fn version h => Sys2Proof.Machine.execSpdmRequest fn version h s

end Sys2Proof.Machine
end

