-- ==== Sys2Proof/Machine/Issue.lean ====
section
/-! DEFINITION. The issue of one context (R97, R98): halts and kills at an instruction boundary, fetching, breakpoints before the
issue and watchpoints after it, and the order in which a core's contexts are offered the issue slot. -/

namespace Sys2Proof.Machine

/-- The context is in a wait instruction that it has begun. -/
def Ctx.inWait (k : Ctx) : Bool := k.begun

/-- The instruction of context x has issued between two states of one cycle. -/
def State.issuedNow (t : State) (n x : Nat) : Bool := (t.ctx n x).lastIssue = some t.cyc

/-- The context serves a cycle of its pending delay (R228). -/
def State.serveDelay (s : State) (n x : Nat) : State :=
  let k := s.ctx n x
  s.setCtx n x { k with sounding := k.sounding - 1, delayTo := s.cyc + 1 }

/-- What stands around the meaning of an instruction: where it would issue, a watchpoint may still have to wait for its lanes; a pending
delay comes first, then a breakpoint that halts; what the other comparators, a step and the soundings do comes after it. -/
def State.around (s t : State) (n x : Nat) (i : Instr) : State :=
  let k := s.ctx n x
  if k.inWait then (if (t.ctx n x).begun then t else s.afterIssue t n x i false)
  else if !t.issuedNow n x then t
  else if s.lanesUnknown n x i then s
  else if k.sounding > 0 then s.serveDelay n x
  else match (if k.pass then none else s.bpHalt n x k.pc) with
    | some j => if k.pend ≠ [] then s else s.breakAt n x j
    | none => (s.afterIssue t n x i true).sndIssue n k.pc

/-- The instruction that a context has before it, with the state after its fetch; one that it is in needs none. -/
def nextInstr : Sem Instr := fun s =>
  match s.my.doing with
  | some i => .ok (i, s)
  | none => fetchInstr s

/-- The instruction that context x has before it runs. -/
def State.runNext (s : State) (n x : Nat) : Host.Outcome State Fault Refusal :=
  let k := s.ctx n x
  let fails (c : BitVec 8) (f : Word) : State :=
    if k.pend ≠ [] then s else if k.sounding > 0 then s.serveDelay n x else s.raiseIn n x c f k.pc 1
  match nextInstr s with
  | .ok (i, s1) =>
    match exec i s1 with
    | .next t => .next (s1.around t n x i)
    | r => r
  | .error (.wait g) => .next (g s)
  | .error (.block g) => .next (g s)
  | .error (.raise c f) => .next (fails c f)
  | .error (.raiseKeep c f _) => .next (fails c f)
  | .error (.withheld _) => .next s

/-- A context that would issue and finds the slot taken serves its pending delay all the same (R228). -/
def State.loseSlot (s : State) (n x : Nat) : State :=
  if (s.ctx n x).sounding = 0 then s
  else match nextInstr s with
    | .ok (i, s1) =>
      match exec i s1 with
      | .next t => if t.issuedNow n x then s.serveDelay n x else s
      | _ => s
    | .error _ => s

/-- What a halt of cause 0xA0 names is still halted (R204). -/
def State.stillUp (s : State) (u : Upstream) : Bool :=
  match u.up with
  | some (m, y, h) => s.haltId m y = some h
  | none => match s.fix (BitVec.ofNat 32 u.obj) with
    | some f => f.remoteHalted ≠ []
    | none => false

/-- The record of a halt is written once the release of R170 is complete; a halt of cause 0xA0 whose upstream has been released in the
meantime is released at once. -/
def State.finishHalt (s : State) (n x : Nat) (c : BitVec 8) (pc : Word) (u : Option Upstream) : State :=
  if c = 0xA0 && !(u.map s.stillUp).getD true then s.releaseCtx n x
  else s.haltEnd n x (((s.ctx n x).haltAs).getD 0) c pc u

/-- Context x of core n is offered the issue slot. -/
def State.issue (s0 : State) (n x : Nat) : Host.Outcome State Fault Refusal :=
  let s := { s0 with cur := (n, x) }
  let k := s.ctx n x
  if k.st = .free then .next s
  else if k.killReq && (k.st = .halted || k.atBoundary) then .next (s.kill n x)
  else if k.st = .halted then .next s
  else match k.halting with
    | some (c, pc, u) => .next (if k.block = [] then s.finishHalt n x c pc u else s)
    | none =>
      match s.takeStop n x with
      | some t => .next t
      | none =>
        if k.haltReq && k.atBoundary && k.answer.isNone then .next (s.haltNow n x)
        else if !s.mayGo n x then .next s
        else if k.noWs then .next (if s.slotFree n then s.raiseIn n x 0x41 (BitVec.ofNat 64 ownBase) k.pc 1 else s)
        else if s.slotFree n || k.begun then s.runNext n x
        else .next (s.loseSlot n x)

/-- Context y comes before x in the order of R97: its last issue lies further back, a context that has never issued counting from the
cycle in which it became live, and the lower index on a tie. -/
def Core.earlier (c : Core) (y x : Nat) : Bool :=
  let a := (c.ctx y).lastIssue.getD (c.ctx y).liveAt
  let b := (c.ctx x).lastIssue.getD (c.ctx x).liveAt
  decide (a < b) || (a = b && decide (y < x))

/-- The contexts of a core in the order in which they are offered the slot. -/
def Core.issueOrder (c : Core) : List Nat := sortBy c.earlier ctxNums

end Sys2Proof.Machine
end

