-- ==== Sys2Proof/Machine/Outside.lean ====
section
/-! DEFINITION. What comes from outside the package, and what pilot firmware does at its own policy, without a row in the opcode table: bad
symbols and page retirement (R15, R16), fencing (R23, R24), operator notices (R59), tenancy (R47), configuration space (R48), reads by the
host (R54, R58), page tables (R141), fixes of other devices (R183). -/

namespace Sys2Proof.Machine

/-! ### HBM errors (R15, R16) -/

/-- A symbol of a 32-byte sector goes bad; not while an access to its line is under way, so that a read finds the errors that it was checked
for (log entry 86). -/
def State.badSymbol (s : State) (sector sym : Nat) : State :=
  if sector % 32 ≠ 0 || s.flight.any (fun a => a.names (lineBase sector)) then s
  else { s with ecc := AMap.set s.ecc sector ((AMap.getD s.ecc sector []).filter (· ≠ sym) ++ [sym]) }

/-- A granule that pilot firmware retires: an uncorrectable error in it, or a fourth corrected one. -/
def State.retirable (s : State) (g : Nat) : Bool :=
  (List.range 1024).any (fun i => s.eccLine (g + 64 * i)) || decide (4 ≤ AMap.getD s.granuleErrs g 0)

/-- A 64 KiB or 32 MiB leaf that keeps the KIND, KEY, Z and permissions of another. -/
def leafTo (e : Word) (frame : Nat) : Word := (e &&& 0xFF00000000000F7F#64) ||| BitVec.ofNat 64 frame

/-- Table entries from an address on. -/
def State.putEntries (s : State) (at_ : Nat) (es : List Word) : State := s.paWrite none at_ (es.flatMap (fun e => leBytes 8 e.toNat))

/-- The page that holds an address is split into leaves of 64 KiB, a 1 GiB page into 32 MiB pages first; the address of the leaf that the
address then has.  A new table takes the frame `table`. -/
def State.splitPage (s : State) (t : TlbEnt) (entry va table : Nat) : State × Nat :=
  let e : Word := BitVec.ofNat 64 (s.paRead none entry 8)
  let group := entry / 256 * 256
  if t.size = 2 ^ 16 then (s, entry)
  else if t.size = 2 ^ 21 then (s.putEntries group ((List.range 32).map (fun i => leafTo e (t.pa + i * 2 ^ 16))), entry)
  else
    let s1 := if t.size = 2 ^ 30 then s.putEntries group ((List.range 32).map (fun i => leafTo e (t.pa + i * 2 ^ 25))) else s
    let base := t.pa + (va - t.va) / 2 ^ 25 * 2 ^ 25
    let s2 := s1.putEntries table ((List.range 512).map (fun i => leafTo e (base + i * 2 ^ 16)))
    (s2.putEntries entry [BitVec.ofNat 64 (table + 1)], table + va / 2 ^ 16 % 512 * 8)

/-- The lines of a granule that can be read are copied to another frame. -/
def State.copyOut (s : State) (g frame : Nat) (key : Option Nat) : State :=
  (List.range 1024).foldl (fun s i =>
    if s.eccBad (g + 64 * i) 64 then s
    else s.l2Write (frame + 64 * i) key (s.lineView (g + 64 * i) key) (BitVec.allOnes 64)) s

/-- MMU_INV's SIZE of a page. -/
def sizeCode (size : Nat) : Nat := if size = 2 ^ 16 then 0 else if size = 2 ^ 21 then 1 else if size = 2 ^ 25 then 2 else 3

/-- Pilot firmware retires the granule that holds a virtual address: the mapping is split, the old page invalidated, what can be read copied
to the spare frame, and the granule remapped to it; without a spare the page is not present.  The host is told (R16). -/
def State.retirePage (s : State) (p va table : Nat) (spare : Option Nat) : State :=
  match s.walk p va with
  | .page t entry z =>
    let g := t.phys va / 65536 * 65536
    let own (f : Nat) : Bool := decide (stackOf f = stackOf g)
    if !s.retirable g || !own table || table % 4096 ≠ 0 || !(spare.map (fun f => own f && f % 65536 = 0)).getD true then s
    else
      let (s1, leaf) := s.splitPage t entry va table
      let s2 := s1.invalidate p (BitVec.ofNat 64 (sizeCode t.size * 2 ^ 56 + va / 65536 * 65536))
      let e : Word := BitVec.ofNat 64 (s2.paRead none leaf 8)
      let s3 := match spare with
        | some f => (if z then s2 else s2.copyOut g f (s2.keyOf t)).putEntries leaf [leafTo e f]
        | none => s2.putEntries leaf [e &&& 0xFFFFFFFFFFFFFFFE#64]
      s3.report 23 (BitVec.ofNat 64 g) (BitVec.ofNat 64 (va / 65536 * 65536 * 8 + p))
  | _ => s

/-! ### Fencing and notices (R24, R59) -/

/-- A mesh link between neighbours of one die is fenced. -/
def State.fenceLink (s : State) (a b : Nat) : State :=
  if dieOf a ≠ dieOf b || absDiff (coreX a) (coreX b) + absDiff (coreY a) (coreY b) ≠ 1 || s.dev.fencedLinks.contains (a, b) then s
  else { s with dev := { s.dev with fencedLinks := s.dev.fencedLinks ++ [(a, b)] } }.report 24 (BitVec.ofNat 64 a) (BitVec.ofNat 64 b)

/-- Pilot firmware logs an event that it has been told of for the host, and posts an operator notice: PF vector 2. -/
def State.notice (s : State) (e : Nat × Word × Word) : State :=
  if s.dev.pilot.contains e then { s with dev := { s.dev with hostLog := s.dev.hostLog ++ [e] } }.msi 0 2 else s

/-! ### Tenancy and configuration space (R47, R48) -/

/-- Pilot firmware assigns a partition to a tenant, which enables a VF that NumVFs covers; or takes it back, which disables the VF after a
reset, as a NumVFs write does (log entry 97). -/
def State.assign (s : State) (p : Nat) (on : Bool) : State :=
  let v := p + 1
  let s1 := s.setVf v { s.vf v with assigned := on }
  if 8 ≤ p then s
  else if on then s1.enableVfs s1.dev.numVfs
  else if (s1.vf v).enabled then s1.startReset v true true else s1

/-- The host writes a VF's configuration space: a breach where it is locked. -/
def State.vfConfig (s : State) (v : Nat) (bar0 : Word) (memEn : Bool) (table : List Word) : State :=
  if s.tdisp v ≠ 0 then (s.breach v).getD s
  else s.setVf v { s.vf v with bar0 := bar0, memEn := memEn, msixTable := table }

/-! ### Memory that pilot firmware writes (R66, R141) -/

/-- A partition address of pilot firmware's, through the physical frames.  The pool is its own between a reset and the next code load, and
what it writes there is what the Chartroom finds. -/
def State.pilotWrite (s : State) (p va : Nat) (bs : List Byte) : State :=
  if s.inPool p va bs.length && (s.vf (p + 1)).loaded then s
  else
    let t := s.frames p va bs
    let q := t.part p
    t.setPart p { q with tcbs := q.tcbs.filter (fun e => decide (t.tcbAddr p e.1 + 128 ≤ va) || decide (va + bs.length ≤ t.tcbAddr p e.1)) }

/-! ### Fixes of other devices (R183, R186) -/

/-- A handle without its generation: the slot of a device that it names. -/
def fxPlace (h : Nat) : Nat := h % 2 ^ 14 + h / 2 ^ 18 * 2 ^ 18

/-- What another device's fix was is forgotten. -/
def State.forgetFix (s : State) (f : Nat → Bool) : State :=
  { s with dev := { s.dev with farFixes := s.dev.farFixes.filter (fun g => !f g.1) } }

/-- A fix that another device has defined becomes known here, and the handles of its slot's older generations are stale: the folding
agents that stand on this device open their first rounds. -/
def State.remoteFix (s : State) (h : BitVec 32) (d : Line) (table : List Word) (alg : Alg) (p : Nat) : State :=
  if fxDev h = s.selfDev || decide (2 ^ 30 ≤ h.toNat) || (s.fix h).isSome then s
  else
    let s := s.forgetFix (fun g => fxPlace g = fxPlace h.toNat)
    let f : FixObj := { live := true, gen := BitVec.ofNat 4 (fxGen h), desc := d, alg := alg, table := table, root := p }
    let ks := if f.pushes then s.fxAgents f else []
    let g := { f with folds := ks.foldl (fun acc k => AMap.set acc k {}) [] }
    ks.foldl (fun s k => s.openBuffer h g k 0) (s.setFixObj h g)

/-- A rank of another device has departed. -/
def State.remoteDepart (s : State) (h : BitVec 32) (r : Nat) : State :=
  match s.fix h with
  | some f => if (s.rankPlace f r).1 = s.selfDev then s else s.depart h r
  | none => s

/-! ### The whole -/

/-- What pilot firmware does needs it to run (R60). -/
def State.byPilot (s : State) (f : State → State) : State := if s.pilotRuns then f s else s

/-- What comes from outside happens. -/
def State.outside (s : State) (o : Outside) : State :=
  match o with
  | .symbol sector sym => s.badSymbol sector sym
  | .retire p va table spare => s.byPilot (fun s => s.retirePage p va table spare)
  | .fenceOctet o => s.byPilot (fun s => s.fenceOctet o)
  | .fenceHub d => s.byPilot (fun s => s.fenceHub d)
  | .fenceStack k => s.byPilot (fun s => s.fenceStack k)
  | .fenceLink a b => s.byPilot (fun s => s.fenceLink a b)
  | .notice e => s.byPilot (fun s => s.notice e)
  | .assign p on => s.byPilot (fun s => s.assign p on)
  | .vfConfig v bar0 memEn table => if (s.vf v).enabled then s.vfConfig v bar0 memEn table else s
  | .tdisp v q => s.tdispQuery v q
  | .takeService p => s.byPilot (fun s => s.setPart p { s.part p with svc := (s.part p).svc.drop 1 })
  | .hostRead tee a => { s with dev := { s.dev with hostReads := s.dev.hostReads ++ [(a, s.hostRead tee a)] } }
  | .pilotWrite p va bs => s.byPilot (fun s => s.pilotWrite p va bs)
  | .tableWrite pa bs => s.byPilot (fun s => s.paWrite none pa bs)
  | .flitGone p => s.setPort p { s.port p with out := (s.port p).out.drop 1 }
  | .remoteFix h d table alg p => s.remoteFix h d table alg p
  | .remoteFree h => if fxDev h = s.selfDev then s else s.forgetFix (fun g => g = h.toNat)
  | .remoteDepart h r => s.remoteDepart h r

end Sys2Proof.Machine
end

