-- ==== Sys2Proof/Machine/Agenda.lean ====
section
/-! DEFINITION. Which moves the agents of the package are offered in one arithmetic cycle.  The agenda of a state is plain data: a claim
about every state is a claim about every order of the agents and every input from outside.  This file is the order that a run takes when
nothing has been put into its agenda: every context in the order of R97, then every agent once, then the end of the cycle (log entry 4). -/

namespace Sys2Proof.Machine

/-- What a mesh message does when it arrives. -/
def NocItem.move (i : NocItem) : Move :=
  .event (match i.m with
    | .barArrive _ _ _ _ => .barrierArrival i.id
    | .barRelease _ _ _ => .barrierRelease i.id
    | .msg _ _ _ => .messageArrival i.id
    | .allowance _ _ _ _ => .allowanceReturn i.id
    | .grant _ _ _ _ => .mailboxGrant i.id
    | .ttWord _ => .timetableWordArrival i.id
    | .fix _ _ _ => .fixContributionArrival i.id
    | .nearFold _ _ => .nearMemoryFold i.id)

/-- An access arrives, then its response returns. -/
def Access.moves (a : Access) : List Move :=
  let scr := a.rose.isSome || a.locs.any (fun p => match p.1 with | .scr _ _ => true | _ => false)
  [.event (if scr then .meshAccessArrival a.id else .memoryAccessArrival a.id), .event (.accessResponseReturn a.id)]

/-- The contexts of a core. -/
def ctxMoves (n : Nat) (c : Core) : List Move :=
  (c.issueOrder.filter (fun x => (c.ctx x).st = .live || (c.ctx x).killReq)).map (fun x => .issue n x)

/-- Waits of a core that end from outside. -/
def waitMoves (n : Nat) (c : Core) : List Move :=
  (ctxNums.filter (fun x => (c.ctx x).st = .live && (c.ctx x).wait.isSome)).flatMap (fun x =>
    [.event (.timetableOffsetReached n x), .event (.haltOnWithheld n x), .event (.waitLimitExpiry n x), .event (.waitaPoll n x)])

/-- The engines of a core. -/
def engineMoves (n : Nat) (c : Core) : List Move :=
  [.event (.vectorEngineStart n), .event (.vectorEngineComplete n), .event (.matrixCommandComplete n), .event (.mmagMeeting n),
   .event (.messageSend n), .event (.mbindComplete n), .event (.timetableRelease n), .event (.timetableEnd n),
   .event (.mainFileWriteback n), .event (.traceRecordWrite n)] ++
  c.chans.flatMap (fun k => [.event (.copyStart n k.1), .event (.copyComplete n k.1)]) ++
  (if c.moving then [.event (.kernelEntry n)] else [])

/-- The octets of the listed cores. -/
def State.octetNums (s : State) : List Nat := ((s.cores.map (fun c => octetOf c.1)) ++ s.octets.map Prod.fst).eraseDups

def octetMoves (o : Nat) : List Move := [.event (.matrixGrant o), .event (.sfuRequestStart o), .event (.sfuResult o)]

def walkMoves (w : Walk) : List Move := [.event (.zeroOnFirstTouch w.id), .event (.pageWalkComplete w.id)]

/-- A partition's Chartroom, its halts, its trial and its records. -/
def partMoves (p : Nat) (q : Part) : List Move :=
  (q.gangs.filter Gang.draining).map (fun g => .event (.gangRetire p g.num)) ++
  q.grace.map (fun g => .event (.graceExpiry p g.1)) ++
  q.wdog.map (fun g => .event (.taskWatchdogExpiry p g.1)) ++
  q.pause.flatMap (fun c => [.event (.checkpointImageWrite p c.1), .event (.checkpointCommit p c.1)]) ++
  q.chain.map (fun c => .event (.chainedRelease p c.1)) ++ q.remote.map (fun _ => .event (.chainedRelease p 0)) ++
  (if q.recs = [] then [] else [.event (.completionRecordWrite (p + 1))]) ++
  [.event (.placementAttempt p), .event (.soundingPause p), .event (.mmuInvComplete p)]

/-- A port hands on the packet at the head of its receive queue. -/
def portMoves (p : Nat) (k : Port) : List Move :=
  match k.rxq with
  | [] => []
  | d :: _ =>
    [.event (match d.type with
      | 1 => .pktFixContribution p
      | 2 => .pktFixResult p
      | 3 => .pktRemoteWrite p
      | 4 => .pktRemoteFold p
      | 5 => .pktE2eAck p
      | 6 => .pktWithheld p
      | _ => .pktReleased p)]

def flowMoves (k : Nat × Flow) : List Move :=
  if k.2.kept = [] then [] else [.event (.flowLost (k.1 / 4) (k.1 % 4)), .event (.e2eTimeout (k.1 / 4) (k.1 % 4))]

def hubMoves (d : Nat) (h : Hub) : List Move :=
  h.draining.flatMap (fun e => [.event (.hubDrainTimeout d e.1), .event (.hubScrub d e.1)])

/-- The moves of one arithmetic cycle. -/
def State.moves (s : State) : List Move :=
  s.cores.flatMap (fun c => ctxMoves c.1 c.2) ++
  s.cores.flatMap (fun c => waitMoves c.1 c.2) ++
  s.flight.flatMap Access.moves ++
  s.dies.flatMap (fun d => d.2.walks.flatMap walkMoves) ++
  (s.noc.filter (fun i => match i.due with | some u => decide (u ≤ s.mesh) | none => false)).map NocItem.move ++
  s.cores.flatMap (fun c => engineMoves c.1 c.2) ++
  s.octetNums.flatMap octetMoves ++
  s.ports.flatMap (fun k => portMoves k.1 k.2) ++
  s.dev.flows.flatMap flowMoves ++
  s.hubs.flatMap (fun h => hubMoves h.1 h.2) ++
  s.parts.flatMap (fun p => partMoves p.1 p.2) ++
  [.tick]

/-- An illegal encoding comes from a fetch alone, never from the agenda. -/
def illegal : Instr → Bool
  | .illegalEncoding _ _ => true
  | _ => false

/-- A package reset, which brings power back. -/
def Move.isReset : Move → Bool
  | .event i => match i with | .packageReset => true | _ => false
  | _ => false

/-- A move is made.  Without power nothing acts until a package reset (R22, R61). -/
def State.make (s : State) (m : Move) : Host.Outcome State Fault Refusal :=
  if !s.dev.powered && !m.isReset then .next s
  else match m with
    | .issue n x => s.issue n x
    | .event i => if i.mods?.isNone && !illegal i then exec i s else .next s
    | .outside o => .next (s.outside o)
    | .tick => .next s.tick

end Sys2Proof.Machine
end

