-- ==== Sys2Proof/Machine/Step.lean ====
section
/-! DEFINITION. One step of the package: the first move of the agenda, or a new agenda where it is empty. -/

namespace Sys2Proof.Machine

/-- One step.  A package whose power has been removed has no move of its own (R22). -/
def step (s : State) : Host.Outcome State Fault Refusal :=
  match s.agenda with
  | [] => if s.dev.powered then .next { s with agenda := s.moves } else .fault .powerRemoved
  | m :: rest => ({ s with agenda := rest }).make m

/-- The instruction with the table's bits stored where the next step fetches: the own scratchpad of core 0, at offset 0x200, with
its control context live on the workspace at the scratchpad's base, and that context's issue first in the agenda (log entry 13). -/
def State.withFetchWord (s : State) (nbits w : Nat) : State :=
  let c := s.core 0
  let bytes := (tableWords nbits w).flatMap bytesOfWord
  let c1 : Core := { c with
    scratch := max 16 c.scratch, moving := false, ctxs := c.ctxs.map (fun k => { k with lastIssue := none }) }
  let c2 := c1.scrWrite 0x200 20 (ofLeBytes bytes)
  let c3 := c2.setCtx 0 { st := .live, wsp := BitVec.ofNat 64 ownBase, pc := BitVec.ofNat 64 (ownBase + 0x200) }
  { s.setCore 0 c3 with agenda := .issue 0 0 :: s.agenda }

end Sys2Proof.Machine
end

