-- ==== Sys2Proof/Safety.lean ====
section
/-! DEFINITION. What counts as a safe run, and the words in which claims are stated: the memories' canonical form, the secure boot
rule, what an instruction finds when it issues, what a scalar result writes, and what a context's registers show. -/

namespace Sys2Proof.Machine

/-! ### Invariants -/

/-- A core's own byte memories are in canonical form. -/
def Core.memWf (c : Core) : Bool := c.scr.wf && c.wts.wf

/-- Every byte memory of the state is in canonical form: HBM, host memory, the scratchpads and weight slices of the cores and of the
checkpoint images that hold a core, the scratchpads of the dies. -/
def State.memWf (s : State) : Prop :=
  s.hbm.wf = true ∧ s.hostMem.wf = true ∧ (∀ c ∈ s.cores, c.2.memWf = true) ∧ (∀ d ∈ s.dies, d.2.scr.wf = true) ∧
  (∀ p ∈ s.parts, ∀ h ∈ p.2.images, ∀ k ∈ h.2, k.2.2.memWf = true)

/-- The firmware that runs passed the checks of R56, and the fuses do not stand above its security version. -/
def State.bootedWell (s : State) : Prop :=
  ∀ i, s.dev.running = some i → i.signed = true ∧ i.lengthOk = true ∧ i.version ≤ s.dev.fused

/-- The main file of a core agrees with its scratchpad: one entry a word, at addresses that hold g registers, and an entry that is
not dirty holds what the array holds (R105). -/
def Core.mfOk (c : Core) : Prop :=
  (c.mf.map MfEntry.addr).Nodup ∧ c.mf.length ≤ mfSize ∧
  ∀ e ∈ c.mf, e.addr % 8 = 0 ∧ e.addr % 512 < 256 ∧ (e.dirty = false → e.val = BitVec.ofNat 64 (c.scr.read e.addr 8))

/-! ### Issuing -/

/-- The machine as the body of an instruction finds it: the issue has begun, and the PC stands at NextPC. -/
def State.started (s : State) (m : Mods) : State :=
  s.beginIssue.setMy { s.beginIssue.my with pc := nextPc s.my.pc m }

/-- The instruction issues: the context is not in one that has issued already, its guard holds, it names no queue where none may stand, its
operands are ready, and the queue check passes (R98, R112, R113, R264). -/
abbrev State.Issues (s : State) (i : Instr) (m : Mods) : Prop :=
  s.my.begun = false ∧ s.my.guardOn m = true ∧ queueMisuse i = false ∧ s.my.operandsReady i = true ∧ s.me.queueCheck i = none

/-- The context goes on in an instruction that has issued and was blocked, with the operands it read as it issued; its result's queue entry,
if it has one, is reserved or can be (R98, R112). -/
abbrev State.GoesOn (s : State) (i : Instr) (vs : List Word) : Prop :=
  s.my.doing = some i ∧ s.my.held = vs ∧ (s.reserveTail i).isSome = true

/-- The answer of a computation that completes. -/
def Sem.run? {α : Type} (f : Sem α) (s : State) : Option (α × State) :=
  match f s with
  | .ok r => some r
  | .error _ => none

/-- The values that the sources of an issuing instruction supply, read in their order, and the machine after those reads. -/
def State.reads (s : State) (m : Mods) (t : SrcTy) (os : List Opnd) : Option (List Word × State) :=
  Sem.run? (os.mapM (fun o => src o m t)) (s.started m)

/-- A scalar result: the destination, lr, and the end of the issue (R109, R288). -/
def State.wrote (s : State) (d : Opnd) (v : Word) : State :=
  ((s.writeReg s.cur.1 s.cur.2 d v).writeLr s.cur.1 s.cur.2 v).endIssue

/-- The running context after an instruction that changes its latches alone. -/
def State.latched (s : State) (f : Ctx → Ctx) : State := (s.setMy (f s.my)).endIssue

/-- A taken transfer, which a trace that is on records (R223, R288). -/
def State.jumped (s : State) (t : Word) : State := (s.setMy { s.my with pc := t }).traceRec s.cur.1 s.cur.2 1 t

/-- The flags of a floating-point instruction join FPSR, and SEED steps where the rounding is stochastic (R239, R240). -/
def State.flagged (s : State) (fl : BitVec 5) (sr : Bool) : State :=
  let s1 := s.setMy { s.my with fpsr := s.my.fpsr ||| fl.setWidth 64 }
  s1.setMy { s1.my with seed := if sr then xorshift s1.my.seed else s1.my.seed }

/-- An N-bit result widened to 64 bits: an i type sign-extends and an n type zero-extends (R288). -/
def widened {n : Nat} (t : ElTy) (r : BitVec n) : Word := if tySigned t then r.signExtend 64 else r.setWidth 64

/-! ### What a context's registers show -/

/-- The value of a g, o or lr register of a context. -/
def State.regVal (s : State) (n x : Nat) : Opnd → Word
  | .g k => (s.core n).gWord (gAddr (s.ctx n x).wsp k.toNat)
  | .o k => (s.ctx n x).o.get k.toFin
  | .lr => (s.ctx n x).lr
  | _ => 0

/-- Between s and t the instruction that the context was in has completed and has given v: to its destination, or to the queue entry
reserved for it, and to lr (R109, R288). -/
def State.gave (s t : State) (m : Mods) (d : Opnd) (v : Word) : Prop :=
  t.my.lr = v ∧ t.my.pc = nextPc s.my.pc m ∧ t.my.doing = none ∧ t.my.wait = none ∧
  (s.my.tail = none → (∃ k, d = .g k) ∨ (∃ k, d = .o k) → t.regVal s.cur.1 s.cur.2 d = v) ∧
  (∀ q id, s.my.tail = some (q, id) → q < 8 → (t.me.q q).ents = ((s.me.q q).fill id v).ents)

/-- The same flags, special registers and exception registers. -/
def Ctx.sameSpecial (k l : Ctx) : Prop :=
  k.p = l.p ∧ k.fpsr = l.fpsr ∧ k.slim = l.slim ∧ k.tvec = l.tvec ∧ k.cause = l.cause ∧ k.faddr = l.faddr ∧ k.epc = l.epc ∧
  k.seed = l.seed ∧ k.wsp = l.wsp ∧ k.st = l.st

/-- The byte of the core's own scratchpad that a load of the core reads. -/
def State.ownByte (s : State) (n off : Nat) : Nat := (s.core n).scrRead true off 1

end Sys2Proof.Machine
end

