-- ==== Sys2Proof/Certificates/Slice0/Obligations.lean ====
section
/-! DEFINITION. The statements about this model, for the provers. -/

open Sys2Proof Sys2Proof.Machine

/-- The agenda's first move offers context x of core n the issue slot, the package has power, and the context is live, asked neither to
die nor to halt, in no halt or debug stop under way, bound to a workspace and free to issue. Where it is in no instruction and the
words at its PC decode to an instruction i, the step is exec of i in the machine after the fetch, with what stands around every
issue (breakpoints, watchpoints, single steps and soundings: State.around); where no breakpoint matches, it has no sounding delay,
no accumulator watchpoint waits for a mask row still being written and the instruction has issued, it is exec of i followed by the
post-issue comparators and the sounding's count. Where such a watchpoint waits, the step is the fetch alone (the model's choice, log
entry 93). Where it is in an instruction i that has issued and not completed, the step is exec of that i, without a fetch. Rules:
R97, R98, R255. -/
def Obligations.StepRunsTheDecodedInstruction : Prop :=
  ∀ (s u t : State) (n x : Nat) (rest : List Move) (ws left : List (BitVec 32)) (i : Instr),
    s.agenda = .issue n x :: rest → s.dev.powered = true →
    let v : State := { s with agenda := rest, cur := (n, x) }
    (v.ctx n x).st = .live → (v.ctx n x).killReq = false → (v.ctx n x).halting = none → v.takeStop n x = none →
    (v.ctx n x).haltReq = false → v.mayIssue n x = true → (v.ctx n x).noWs = false →
    ((v.ctx n x).doing = some i → exec i v = .next t → step s = .next (v.around t n x i)) ∧
    ((v.ctx n x).doing = none → fetch v = .ok (ws, u) → decodeWords ws = .ok (i, left) → exec i u = .next t →
    step s = .next (u.around t n x i) ∧
    ((u.ctx n x).inWait = false → t.issuedNow n x = true →
      (u.lanesUnknown n x i = true → step s = .next u) ∧
      (u.lanesUnknown n x i = false → (u.ctx n x).sounding = 0 → u.bpHalt n x (u.ctx n x).pc = none →
        step s = .next ((u.afterIssue t n x i true).sndIssue n (u.ctx n x).pc))))

/-- IFENCE empties the context's fetch buffer and drops the core's clean L1 lines of executable pages. FENCE.rel writes the workspace's
dirty g words back and, at octet scope or wider, drains the writeback FIFO; the context then waits for what it is to wait for.
FENCE.acq, once the context's reads have returned, at octet scope or wider drops the core's clean RC lines. FENCE.full also cleans
and, once that is acknowledged, drops UO lines. Of a dirty line only the dirty bytes stay valid (log entry 88). At .ctx a fence
changes nothing. In W form the scope is .sys. A context whose fetch buffer is empty, whose stores are all performed and whose PC is
a multiple of 4 in its core's own scratchpad fetches the words that stand there: as many as the first word's length says, each the
four bytes at its address that a load of the core would read, where the whole instruction lies in one aligned 64-byte block of the
scratchpad. The buffer then holds that block, and dirty words of unbound workspaces in it have been written back. Rules: R155, R166,
R324, R325, R156, R254. -/
def Obligations.FencesAndFetches : Prop :=
  (∀ (m : Mods) (s : State), s.cur.2 < 11 → s.my.noWs = false →
    let v := s.started m
    let n := s.cur.1
    let sc : Scope := if m.len.ext then Scope.ofCode (m.mod.extractLsb' 4 4) else .sys
    let wide := 2 ≤ sc.code.toNat
    let drops (c : Core) (sel : L1Line → Bool) : List L1Line :=
      (c.l1.filter (fun l => l.dirty ≠ 0 || !sel l)).map (fun l => if sel l then { l with valid := l.dirty } else l)
    let quiet := v.flight = [] ∧ v.me.vmIds s.cur.2 = [] ∧ v.me.fifo = [] ∧ s.my.wait = none ∧ (v.me.l1.map L1Line.pa).Nodup
    (s.Issues (.ifence m) m → ∃ t, exec (.ifence m) s = .next t ∧ t.my.fbuf = none ∧ t.me.l1 = drops v.me (fun l => l.x)) ∧
    (sc = .ctx → ∀ k, s.Issues (.fence k m) m → exec (.fence k m) s = .next v.endIssue) ∧
    (sc ≠ .ctx → s.Issues (.fence .rel m) m → ∃ t, exec (.fence .rel m) s = .next t ∧
      (∀ e ∈ t.me.mf, e.addr / 512 * 512 = wsOff s.my.wsp → e.dirty = false) ∧
      (wide → (∀ i ∈ t.unacked n, i ∈ t.my.block)) ∧ (∀ i ∈ t.me.vmIds s.cur.2, i ∈ t.my.block) ∧
      (∀ i ∈ t.readsUnderWay n s.cur.2, i ∈ t.my.block)) ∧
    (sc ≠ .ctx → s.Issues (.fence .acq m) m → v.readsUnderWay n s.cur.2 = [] → v.me.vmIds s.cur.2 = [] →
      ∃ t, exec (.fence .acq m) s = .next t ∧ (wide → t.me.l1 = drops v.me (fun l => l.kind = .rc))) ∧
    (sc ≠ .ctx → s.Issues (.fence .full m) m → quiet → (∀ l ∈ v.me.l1, l.kind = .uo → l.dirty = 0) →
      ∃ t, exec (.fence .full m) s = .next t ∧ (wide → ∀ l ∈ t.me.l1, l.kind = .so ∨ (l.kind = .rc ∧ l.dirty ≠ 0)) ∧
        (∀ e ∈ t.me.mf, e.addr / 512 * 512 = wsOff s.my.wsp → e.dirty = false)) ∧
    (wide → s.Issues (.fence .full m) m → quiet → (∃ l ∈ v.me.l1, l.kind = .uo ∧ l.dirty ≠ 0) →
      ∃ t, exec (.fence .full m) s = .next t ∧ t.my.doing = some (.fence .full m) ∧ (∀ l ∈ t.me.l1, l.kind = .uo → l.dirty = 0) ∧
        t.unacked n ≠ [] ∧ ∀ i ∈ t.unacked n, i ∈ t.my.block) ∧
    (wide → s.my.doing = some (.fence .full m) → (∃ w, s.my.wait = some w ∧ w.on = .release ∧ w.arrived = true) →
      ∃ t, exec (.fence .full m) s = .next t ∧ t.my.doing = none ∧ t.my.pc = nextPc s.my.pc m ∧
        ∀ l ∈ t.me.l1, l.kind = .so ∨ l.dirty ≠ 0)) ∧
  (∀ (s : State) (off : Nat),
    s.my.pc = BitVec.ofNat 64 (ownBase + off) → off % 4 = 0 → off / 64 * 64 + 64 ≤ s.me.top → s.me.scratch ≤ 256 →
    s.my.fbuf = none → (∀ a ∈ s.flight, a.core = s.cur.1 → a.ctx = s.cur.2 → a.op.stores = true → a.performed = true) →
    let word (k : Nat) : BitVec 32 := BitVec.ofNat 32 (s.me.scrRead true (off + 4 * k) 4)
    off % 64 + 4 * lengthOf (word 0) ≤ 64 →
    ∃ l : Line, fetch s = .ok ((List.range (lengthOf (word 0))).map word,
      let v := s.setMe (s.me.scrServe (off / 64 * 64) 64)
      v.setMy { v.my with fbuf := some ((ownBase + off) / 64, l) }) ∧ l = BitVec.ofNat 512 (s.me.scrRead true (off / 64 * 64) 64))

/-- The five encodings that R273 works out (an LD, an ADD with three register operands, an ADD with a literal, a guarded FMA and a BR)
decode to those instructions with those operands; its word with a reserved operand index raises 0x02, the WL form in which no field
reads the literal 0x07, FMA in W form 0x06, and the all-zero word 0x01. Rules: R254, R257, R259, R263, R273. -/
def Obligations.SpecWordsDecode : Prop :=
  decodeWords [0x050F0448] = .ok (.ld (.g 4) (.g 30) .i32 2 ⟨.w, 0, 0, false, .fpsr, false, 0, .i8, false, false, 0, 0⟩, []) ∧
  decodeWords [0x08808304] = .ok (.add (.g 3) (.g 1) (.o 2) ⟨.w, 0, 0, false, .fpsr, false, 0, .i64, false, false, 0, 0⟩, []) ∧
  decodeWords [0x17C28505, 0x00010000, 0x00000000] =
    .ok (.add (.g 5) (.g 5) .lit ⟨.wl, 0, 0, false, .fpsr, false, 0, .i64, false, false, 0, 0x10000⟩, []) ∧
  decodeWords [0xE8438622, 0x000C011A, 0x00000000] =
    .ok (.fma (.g 6) (.g 7) (.o 1) (.g 6) ⟨.x, 0, 0, false, .fpsr, false, 0, .f32, true, true, 2, 0⟩, []) ∧
  decodeWords [0xFFFF8130] = .ok (.br 0xFFFF8 false 1 ⟨.w, 0, 0, false, .fpsr, false, 0, .i8, false, false, 0, 0⟩, []) ∧
  decodeWords [0x0A408304] = .error (.encoding 0x02) ∧
  decodeWords [0x08808305, 0, 0] = .error (.encoding 0x07) ∧
  decodeWords [0xE8438620] = .error (.encoding 0x06) ∧
  decodeWords [0x00000000] = .error (.encoding 0x01)

/-- For every well-formed instruction that has an encoding, all 185 of them, in every form and with every operand and field at every
value that the encoding admits: the decoder reads the words that the encoder writes, followed by anything, as that instruction and
leaves what follows. Whenever the decoder answers an instruction, that instruction is well formed, and the words read are exactly
those that the encoder gives for it: each word sequence has one meaning and no bit of it is ignored. Rules: R254, R257, R258, R259,
R263, R271, R272, R273, R265. -/
def Obligations.EncodingsDecodeToTheirInstruction : Prop :=
  (∀ (i : Instr) (rest : List (BitVec 32)), WellFormed i → i.mods?.isSome = true →
    decodeWords (encode i ++ rest) = .ok (i, rest)) ∧
  (∀ (ws rest : List (BitVec 32)) (i : Instr), decodeWords ws = .ok (i, rest) → WellFormed i ∧ ws = encode i ++ rest)

/-- As a source a g register supplies the cached or stored word of the workspace, an o register and lr their latch, zr 0, the literal
all 64 bits of the literal, an integer immediate its 5 bits sign-extended, an f32 or f64 immediate the integer converted to that
format, and a queue register its head entry, which it pops. Only the main file's order and content and that queue may change. An
instruction that has issued and goes on takes, in their order, the operands it read as it issued. Where ADD issues, both sources
supply a value, whatever they name: two reads of one queue pop two entries, which the check of R112 has found written. The same
holds for an LD's base and for the three sources of FMA. Rules: R104, R112, R259, R260, R261, R288, R98. -/
def Obligations.SourcesSupplyTheirValues : Prop :=
  (∀ (m : Mods) (t : SrcTy) (s : State),
    (s.my.begun = true → ∀ o v vs, s.my.held = v :: vs → src o m t s = .ok (v, s.setMy { s.my with held := vs })) ∧
    (s.my.begun = false →
    (∀ n, src (.g n) m t s = .ok (s.regVal s.cur.1 s.cur.2 (.g n), s.setMe (s.me.gTouch (gAddr s.my.wsp n.toNat)))) ∧
    (∀ n, src (.o n) m t s = .ok (s.regVal s.cur.1 s.cur.2 (.o n), s)) ∧
    src .lr m t s = .ok (s.my.lr, s) ∧
    src .zr m t s = .ok (0, s) ∧
    src .lit m t s = .ok (m.lit, s) ∧
    (∀ v, src (.imm v) m .int s = .ok (v.signExtend 64, s)) ∧
    src (.imm 3) m .f32 s = .ok (0x40400000, s) ∧ src (.imm 0x1F) m .f64 s = .ok (0xBFF0000000000000, s) ∧
    (∀ n v id rest, (s.me.q n.toNat).ents = ⟨id, some v⟩ :: rest →
      ∃ q, src (.q n) m t s = .ok (v, s.setMe (s.me.setQ n.toNat q)) ∧ q.ents = rest))) ∧
  ((∀ (d a b : Opnd) (m : Mods) (s : State) (t : SrcTy), s.Issues (.add d a b m) m → (s.reads m t [a, b]).isSome = true) ∧
  (∀ (d a : Opnd) (z : Sz) (i : BitVec 7) (m : Mods) (s : State), s.Issues (.ld d a z i m) m →
    (s.reads m .int [a]).isSome = true) ∧
  (∀ (d a b c : Opnd) (m : Mods) (s : State) (t : SrcTy), m.len.ext = true → s.Issues (.fma d a b c m) m →
    (s.reads m t [a, b, c]).isSome = true))

/-- Dst writes the value where the destination field says: a later read of that g, o or lr register gives it; a queue gets it as its
last entry; zr discards it; and lr takes the value in every case. Every other g register of the workspace, every other o register,
the flags and the special registers of the context stay as they were, and so do all other contexts of the core. The premise is the
main file's invariant, with the context live on a legal workspace and in no instruction that has issued earlier; the result of such
a one fills the queue entry it has reserved. The main file is invisible to the core's own loads: reading a g register through an
operand leaves every byte that a load of the core reads, and writing one changes only the eight bytes of that word, which then read
as the value. A read and a write keep the main file's invariant. Rules: R104, R109, R112, R288, R105, R108. -/
def Obligations.ResultsReachTheirDestination : Prop :=
  ((∀ (d : Opnd) (v : Word) (s : State) (q id : Nat), s.my.begun = true → s.my.tail = some (q, id) →
    ∃ t, dst d v s = .ok ((), t) ∧ (q < 8 → (t.me.q q).ents = ((s.me.q q).fill id v).ents) ∧
      (∀ k, k ≠ q → t.me.q k = s.me.q k) ∧ (s.cur.2 < 11 → t.my.lr = v ∧ t.my.tail = none ∧ t.my.o = s.my.o ∧ t.my.sameSpecial s.my)) ∧
  ∀ (d : Opnd) (v : Word) (s : State), s.me.mfOk → s.me.scr.wf = true → s.me.legalWs s.my.wsp = true → s.cur.2 < 11 →
    s.my.begun = false →
    let t := (s.writeReg s.cur.1 s.cur.2 d v).writeLr s.cur.1 s.cur.2 v
    dst d v s = .ok ((), t) ∧ t.my.lr = v ∧
    ((∃ n, d = .g n) ∨ (∃ n, d = .o n) → t.regVal s.cur.1 s.cur.2 d = v) ∧
    (∀ n, .g n ≠ d → t.regVal s.cur.1 s.cur.2 (.g n) = s.regVal s.cur.1 s.cur.2 (.g n)) ∧
    (∀ n, .o n ≠ d → t.regVal s.cur.1 s.cur.2 (.o n) = s.regVal s.cur.1 s.cur.2 (.o n)) ∧
    t.my.sameSpecial s.my ∧ t.my.pc = s.my.pc ∧
    (∀ q : Nat, q < 8 → (t.me.q q).ents.map QEntry.val =
      (s.me.q q).ents.map QEntry.val ++ (if d = .q (BitVec.ofNat 3 q) then [some v] else [])) ∧
    (∀ y, y ≠ s.cur.2 → t.ctx s.cur.1 y = s.ctx s.cur.1 y) ∧
    (∀ n, n ≠ s.cur.1 → t.core n = s.core n) ∧ t.hbm = s.hbm ∧ t.dies = s.dies ∧ t.regs = s.regs) ∧
  (∀ (c : Core) (a : Nat) (v : Word), c.mfOk → c.scr.wf = true → a % 8 = 0 → a % 512 < 256 →
    (c.gTouch a).mfOk ∧ (c.gWrite a v).mfOk ∧ (c.gTouch a).scr.wf = true ∧ (c.gWrite a v).scr.wf = true ∧
    (c.gTouch a).gWord a = c.gWord a ∧ (c.gWrite a v).gWord a = v ∧
    (∀ off, (c.gTouch a).scrRead true off 1 = c.scrRead true off 1) ∧
    (∀ off, off < a ∨ a + 8 ≤ off → (c.gWrite a v).scrRead true off 1 = c.scrRead true off 1) ∧
    (c.gWrite a v).scrRead true a 8 = v.toNat)

/-- Where the guard of an encoded instruction does not hold, exec answers the machine with the context's PC at NextPC and its issue
counted, and nothing else: no register, lr, flag, memory, queue, engine, wait or SEED effect. Said for one instruction of every
shape: arithmetic, floating point, load, store, atomic, branch, call, barrier wait, message, engine command, exception. The model's
choice (log entry 89): a write of WSP, which no operand can make legal, raises 0x03 whatever the guard is. Rules: R264. -/
def Obligations.GuardedOffInstructionsDoNothing : Prop :=
  ∀ (d a b c : Opnd) (r1 r2 r3 : Row) (m : Mods) (s : State), s.my.begun = false → s.my.guardOn m = false →
    let off : Host.Outcome State Fault Refusal := .next (s.started m).endIssue
    exec (.add d a b m) s = off ∧ exec (.fdiv d a b m) s = off ∧ exec (.ld d a .n32 5 m) s = off ∧
    exec (.st d a .n32 5 m) s = off ∧ exec (.aadd d a b m) s = off ∧ exec (.br 7 false 1 m) s = off ∧ exec (.call 7 m) s = off ∧
    exec (.barw d 3 c m) s = off ∧ exec (.msend a c m) s = off ∧ exec (.vadd r1 r2 r3 m) s = off ∧ exec (.mma d a m) s = off ∧
    exec (.trap 1 m) s = off ∧ exec (.ttsend d a m) s = off ∧ exec (.fxc d a c m) s = off ∧ exec (.xst 0 a m) s = off ∧
    exec (.charm a m) s = off ∧
    (s.my.pend = [] → exec (.swr .wsp a m) s =
      .next (s.raiseIn s.cur.1 s.cur.2 0x03 (((Instr.swr .wsp a m).raw m).encFaddr) s.my.pc m.len.words))

/-- The two sources, cut to the width of the type, combine as R290 and R249 say: sum, difference, logic, shifts by y[7:0] (a shift of
the width or more gives zeros or sign copies, a rotation is by the count modulo the width), minimum and maximum, the low and high
half of the product, truncated quotient and remainder with their results for a divisor of 0 and for INT_MIN by −1; MIN, MAX, MULH,
DIV and REM are unsigned with MOD[24]. The result is widened by the type and written to the destination and lr, and nothing else but
the reads has an effect. On the source cut to the width of the type: the number of leading and of trailing zero bits (the width for
0), the number of ones, the bits in reverse order, the value itself, and the sum with the immediate, which is imm10, or IMM32 in a
form with extension, sign-extended. The result is widened by the type and written to the destination and lr. With pos = ctl[5:0] and
len = Min(ctl[14:8], 64 − pos), EXT gives bits pos and up of its source, len of them, extended with zeros or, where ctl[16] is 1,
with the field's top bit; INS replaces those bits of its destination by the low len bits of its source and keeps the others. With
len 0 EXT gives 0 and INS the old value. Rules: R249, R288, R290, R258, R291. -/
def Obligations.IntegerResults : Prop :=
  (∀ (d a b : Opnd) (m : Mods) (s u : State) (x y : Word), m.ty.isInt = true → s.reads m .int [a, b] = some ([x, y], u) →
    let n := m.ty.bits
    let p : BitVec n := x.setWidth n
    let q : BitVec n := y.setWidth n
    let k := y.toNat % 256
    let uns := m.mod.getLsbD 0
    let gives (r : BitVec n) : Host.Outcome State Fault Refusal := .next (u.wrote d (widened m.ty r))
    (s.Issues (.add d a b m) m → exec (.add d a b m) s = gives (p + q)) ∧
    (s.Issues (.sub d a b m) m → exec (.sub d a b m) s = gives (p - q)) ∧
    (s.Issues (.and d a b m) m → exec (.and d a b m) s = gives (p &&& q)) ∧
    (s.Issues (.or d a b m) m → exec (.or d a b m) s = gives (p ||| q)) ∧
    (s.Issues (.xor d a b m) m → exec (.xor d a b m) s = gives (p ^^^ q)) ∧
    (s.Issues (.andn d a b m) m → exec (.andn d a b m) s = gives (p &&& ~~~q)) ∧
    (s.Issues (.shl d a b m) m → exec (.shl d a b m) s = gives (p <<< k)) ∧
    (s.Issues (.shr d a b m) m → exec (.shr d a b m) s = gives (p >>> k)) ∧
    (s.Issues (.sar d a b m) m → exec (.sar d a b m) s = gives (p.sshiftRight k)) ∧
    (s.Issues (.ror d a b m) m → exec (.ror d a b m) s = gives (p.rotateRight (k % n))) ∧
    (s.Issues (.min d a b m) m → exec (.min d a b m) s = gives (if (if uns then q.ult p else q.slt p) then q else p)) ∧
    (s.Issues (.max d a b m) m → exec (.max d a b m) s = gives (if (if uns then p.ult q else p.slt q) then q else p)) ∧
    (s.Issues (.mul d a b m) m → exec (.mul d a b m) s = gives (p * q)) ∧
    (s.Issues (.mulh d a b m) m → exec (.mulh d a b m) s = gives (if uns
      then (p.setWidth (2 * n) * q.setWidth (2 * n)).extractLsb' n n
      else (p.signExtend (2 * n) * q.signExtend (2 * n)).extractLsb' n n)) ∧
    (s.Issues (.div d a b m) m → exec (.div d a b m) s = gives (if q = 0 then BitVec.allOnes n else if uns then p.udiv q else p.sdiv q)) ∧
    (s.Issues (.rem d a b m) m → exec (.rem d a b m) s = gives (if q = 0 then p else if uns then p.umod q else p.srem q))) ∧
  (∀ (d a : Opnd) (i : BitVec 10) (m : Mods) (s u : State) (x : Word), m.ty.isInt = true → s.reads m .int [a] = some ([x], u) →
    let n := m.ty.bits
    let p : BitVec n := x.setWidth n
    let gives (r : BitVec n) : Host.Outcome State Fault Refusal := .next (u.wrote d (widened m.ty r))
    (s.Issues (.clz d a m) m → exec (.clz d a m) s = gives p.clz) ∧
    (s.Issues (.ctz d a m) m → exec (.ctz d a m) s = gives p.ctz) ∧
    (s.Issues (.popc d a m) m → exec (.popc d a m) s = gives p.cpop) ∧
    (s.Issues (.brev d a m) m → exec (.brev d a m) s = gives p.reverse) ∧
    (s.Issues (.mov d a m) m → exec (.mov d a m) s = gives p) ∧
    (s.Issues (.addi d a i m) m →
      exec (.addi d a i m) s = gives (p + (if m.len.ext then m.imm32.signExtend 64 else i.signExtend 64 : Word).setWidth n))) ∧
  (∀ (d a b : Opnd) (m : Mods) (s u : State),
    (∀ x c, s.reads m .int [a, b] = some ([x, c], u) → s.Issues (.ext d a b m) m →
      let pos := (c.extractLsb' 0 6).toNat
      let len := min (c.extractLsb' 8 7).toNat (64 - pos)
      exec (.ext d a b m) s = .next (u.wrote d (if c.getLsbD 16 then (x.extractLsb' pos len).signExtend 64
        else (x.extractLsb' pos len).setWidth 64))) ∧
    (∀ x c old, s.reads m .int [a, b, d] = some ([x, c, old], u) → s.Issues (.ins d a b m) m →
      let pos := (c.extractLsb' 0 6).toNat
      let len := min (c.extractLsb' 8 7).toNat (64 - pos)
      ∃ v : Word, exec (.ins d a b m) s = .next (u.wrote d v) ∧
        ∀ j : Nat, j < 64 → v.getLsbD j = if pos ≤ j ∧ j < pos + len then x.getLsbD (j - pos) else old.getLsbD j))

/-- LEA is major 0x03 with F = 6; it writes to the destination, and lr, the sum of the first source, the second times the byte size of
the type (1, 2, 4 or 8, 8 for the default i64) and IMM32, which is 0 in W and WL form, all in 64 bits. Rules: R292. -/
def Obligations.LeaAddsTheScaledIndex : Prop :=
  ∀ (d a b : Opnd) (m : Mods) (s u : State) (x y : Word), WellFormed (.lea d a b m) → s.reads m .int [a, b] = some ([x, y], u) →
    let z : Word := match m.ty with
      | .i8 | .n8 => 1
      | .i16 | .n16 => 2
      | .i32 | .n32 => 4
      | _ => 8
    (m.len.ext = false → m.ty = .i64) ∧
    ((encode (.lea d a b m)).headD 0).extractLsb' 2 6 = 0x03#6 ∧ ((encode (.lea d a b m)).headD 0).extractLsb' 29 3 = 6#3 ∧
    (s.Issues (.lea d a b m) m →
      exec (.lea d a b m) s = .next (u.wrote d (x + y * z + (if m.len.ext then m.imm32.signExtend 64 else 0))))

/-- On the sources cut to the width of the type each of the eight conditions holds as R293 says, signed or unsigned as the condition
itself carries. CMPP writes the outcome to its predicate alone, and no lr; SETC writes 1 or 0 to its destination and lr; SEL writes
the first source where its predicate is set, else the second, widened by the type, and both sources are read. PAND, POR, PXOR and
PNOT write the AND, OR, exclusive OR or complement of their predicates to the predicate they name and no other; PPACK writes the
eight predicates, zero-extended, to its destination and lr; PUNPK writes all eight predicates from bits 7 to 0 of its source,
ignoring the others, and no lr. The members are those of major 0x0B with F 0 to 5; a field that a member does not name is 0 in its
words. Rules: R109, R293, R294, R287, R299. -/
def Obligations.ComparesAndPredicates : Prop :=
  (∀ (f : Cc) (g pd : BitVec 3) (d a b : Opnd) (m : Mods) (s u : State) (x y : Word), m.ty.isInt = true →
    s.reads m .int [a, b] = some ([x, y], u) →
    let n := m.ty.bits
    let p : BitVec n := x.setWidth n
    let q : BitVec n := y.setWidth n
    let holds : Bool := match f with
      | .eq => p == q
      | .ne => p != q
      | .lt => p.slt q
      | .le => p.sle q
      | .ltn => p.ult q
      | .len => p.ule q
      | .tst => p &&& q != 0
      | .ntst => p &&& q == 0
    (s.Issues (.cmpp f pd a b m) m → ∃ v : BitVec 8, exec (.cmpp f pd a b m) s = .next (u.latched (fun k => { k with p := v })) ∧
      ∀ j : Nat, j < 8 → v.getLsbD j = if j = pd.toNat then holds else u.my.p.getLsbD j) ∧
    (s.Issues (.setc f d a b m) m → exec (.setc f d a b m) s = .next (u.wrote d (if holds then 1 else 0))) ∧
    (s.Issues (.sel g d a b m) m →
      exec (.sel g d a b m) s = .next (u.wrote d (widened m.ty (if u.my.p.getLsbD g.toNat then p else q))))) ∧
  (∀ (d a b : BitVec 3) (D A : Opnd) (m : Mods) (s u : State) (x : Word),
    let v := s.started m
    let sets (i : Instr) (r : Bool) : Prop := s.Issues i m →
      ∃ p : BitVec 8, exec i s = .next (v.latched (fun k => { k with p := p })) ∧
        ∀ j : Nat, j < 8 → p.getLsbD j = if j = d.toNat then r else v.my.p.getLsbD j
    let P := v.my.p.getLsbD a.toNat
    let Q := v.my.p.getLsbD b.toNat
    let word (i : Instr) : BitVec 32 := (encode i).headD 0
    sets (.pand d a b m) (P && Q) ∧ sets (.por d a b m) (P || Q) ∧ sets (.pxor d a b m) (P != Q) ∧ sets (.pnot d a m) (!P) ∧
    (s.Issues (.ppack D m) m → exec (.ppack D m) s = .next (v.wrote D (v.my.p.setWidth 64))) ∧
    (s.reads m .int [A] = some ([x], u) → s.Issues (.punpk A m) m →
      exec (.punpk A m) s = .next (u.latched (fun k => { k with p := x.extractLsb' 0 8 }))) ∧
    (m.len = .w →
    word (.pand d a b m) = 0#3 ++ (0#4 ++ b) ++ (0#4 ++ a) ++ (0#4 ++ d) ++ 0x2C#8 ∧
    word (.por d a b m) = 1#3 ++ (0#4 ++ b) ++ (0#4 ++ a) ++ (0#4 ++ d) ++ 0x2C#8 ∧
    word (.pxor d a b m) = 2#3 ++ (0#4 ++ b) ++ (0#4 ++ a) ++ (0#4 ++ d) ++ 0x2C#8 ∧
    word (.pnot d a m) = 3#3 ++ 0#7 ++ (0#4 ++ a) ++ (0#4 ++ d) ++ 0x2C#8 ∧
    word (.ppack D m) = 4#3 ++ 0#7 ++ 0#7 ++ D.bits ++ 0x2C#8 ∧
    word (.punpk A m) = 5#3 ++ 0#7 ++ A.bits ++ 0#7 ++ 0x2C#8))

/-- For f64, f32, f16, bf16, e5m2, e4m3 and e2m1, in every rounding mode, with and without saturation and whatever the stochastic state:
encoding the exact value of a bit pattern that is no NaN gives that pattern back, the sign of zero included, and sets no flag.
Rules: R231, R237, R238, R240. -/
def Obligations.ExactValuesRoundToThemselves : Prop :=
  ∀ (t : ElTy) (mode : RndF) (seed : BitVec 32) (sat : Bool) (v : Nat),
    t ∈ [.f64, .f32, .f16, .bf16, .e5m2, .e4m3, .e2m1] → v < 2 ^ t.bits → (numOf t v).isNan = false →
    finish t mode seed sat (numOf t v, 0) = (v, 0)

/-- The exact result of the operands' values (sum, difference, product, product with the zero rule, quotient, fused product and sum,
root; the smaller or greater; a conversion to the type of MOD) is encoded once in the type, with the rounding that RND and FPSR
give; its flags join FPSR, SEED steps where the rounding is stochastic, and the value goes to the destination and lr. FCMPP writes
its predicate and no lr. On f32 and f64: FNEG inverts the sign bit and FABS clears it, and both keep every other bit of the type,
NaNs included, with zeros above; they set no flag and write the destination and lr. Rules: R239, R240, R244, R245, R246, R247, R295,
R297, R298. -/
def Obligations.FloatResults : Prop :=
  (∀ (d a b c : Opnd) (f : Fcc) (pd : BitVec 3) (m : Mods) (s u : State) (x y z : Word),
    let mode := modeOf m.rnd u.my.fpsr
    let X := numOf m.ty x.toNat
    let Y := numOf m.ty y.toNat
    let Z := numOf m.ty z.toNat
    let enc (r : FpNum × BitVec 5) : Nat × BitVec 5 := finish m.ty mode u.my.seed m.sat r
    let quiet (r : Nat × BitVec 5) : Prop := r.2 &&& (u.my.fpsr.extractLsb' 8 5) = 0
    let gives (r : Nat × BitVec 5) (sr : Bool) : Host.Outcome State Fault Refusal :=
      .next ((u.flagged r.2 sr).wrote d (BitVec.ofNat 64 r.1))
    let st := srcTyOf m.ty
    let sr := decide (mode = .sr)
    (s.reads m st [a, b] = some ([x, y], u) →
      (s.Issues (.fadd d a b m) m → quiet (enc (exactAdd mode X Y)) → exec (.fadd d a b m) s = gives (enc (exactAdd mode X Y)) sr) ∧
      (s.Issues (.fsub d a b m) m → quiet (enc (exactAdd mode X Y.negate)) →
        exec (.fsub d a b m) s = gives (enc (exactAdd mode X Y.negate)) sr) ∧
      (s.Issues (.fmul d a b m) m → quiet (enc (exactMul X Y)) → exec (.fmul d a b m) s = gives (enc (exactMul X Y)) sr) ∧
      (s.Issues (.fmulz d a b m) m →
        let r := enc (exactMulZ X Y (signOf m.ty x.toNat) (signOf m.ty y.toNat))
        quiet r → exec (.fmulz d a b m) s = gives r sr) ∧
      (s.Issues (.fdiv d a b m) m → quiet (enc (exactDiv X Y)) → exec (.fdiv d a b m) s = gives (enc (exactDiv X Y)) sr) ∧
      (s.Issues (.fmin d a b m) m →
        let r := minMaxNum m.ty false (x.toNat % 2 ^ m.ty.bits) (y.toNat % 2 ^ m.ty.bits)
        quiet r → exec (.fmin d a b m) s = gives r false) ∧
      (s.Issues (.fmax d a b m) m →
        let r := minMaxNum m.ty true (x.toNat % 2 ^ m.ty.bits) (y.toNat % 2 ^ m.ty.bits)
        quiet r → exec (.fmax d a b m) s = gives r false) ∧
      (s.Issues (.fcmpp f pd a b m) m → quiet (0, (fccHolds f X Y).2) →
        ∃ v : BitVec 8, exec (.fcmpp f pd a b m) s = .next ((u.flagged (fccHolds f X Y).2 false).latched (fun k => { k with p := v })) ∧
          ∀ j : Nat, j < 8 → v.getLsbD j = if j = pd.toNat then (fccHolds f X Y).1 else u.my.p.getLsbD j)) ∧
    (s.reads m st [a, b, c] = some ([x, y, z], u) → s.Issues (.fma d a b c m) m → quiet (enc (exactFma mode X Y Z)) →
      exec (.fma d a b c m) s = gives (enc (exactFma mode X Y Z)) sr) ∧
    (s.reads m st [a] = some ([x], u) →
      (s.Issues (.fsqrt d a m) m → quiet (enc (exactSqrt X)) → exec (.fsqrt d a m) s = gives (enc (exactSqrt X)) sr) ∧
      (s.Issues (.fcvt d a m) m →
        let r := convert m.ty m.modTy mode u.my.seed m.sat x.toNat
        quiet r → exec (.fcvt d a m) s =
          .next ((u.flagged r.2 (sr && decide (m.modTy ≠ .d8))).wrote d (extendTy m.modTy r.1))))) ∧
  (∀ (d a : Opnd) (m : Mods) (s u : State) (x : Word), m.ty = .f32 ∨ m.ty = .f64 →
    s.reads m (srcTyOf m.ty) [a] = some ([x], u) →
    let n := m.ty.bits
    (s.Issues (.fneg d a m) m → ∃ v : Word, exec (.fneg d a m) s = .next (u.wrote d v) ∧
      ∀ j : Nat, j < 64 → v.getLsbD j = if j = n - 1 then !x.getLsbD j else decide (j < n) && x.getLsbD j) ∧
    (s.Issues (.fabs d a m) m → ∃ v : Word, exec (.fabs d a m) s = .next (u.wrote d v) ∧
      ∀ j : Nat, j < 64 → v.getLsbD j = (decide (j < n - 1) && x.getLsbD j)))

/-- For f32 and f64 FCLASS writes to its destination, and lr, the value in which only the bit of the operand's class is set: 0 for −∞, 1
negative normal, 2 negative subnormal, 3 for −0, 4 for +0, 5 positive subnormal, 6 positive normal, 7 for +∞, 8 signalling NaN, 9
quiet NaN, read off the sign, the exponent and the fraction. Rules: R296. -/
def Obligations.FclassGivesTheClass : Prop :=
  ∀ (d a : Opnd) (m : Mods) (s u : State) (x : Word), m.ty = .f32 ∨ m.ty = .f64 →
    s.reads m (srcTyOf m.ty) [a] = some ([x], u) → s.Issues (.fclass d a m) m →
    let n := m.ty.bits
    let frac := if m.ty = .f32 then 23 else 52
    let neg := x.getLsbD (n - 1)
    let ex := x.extractLsb' frac (n - 1 - frac)
    let fr := x.extractLsb' 0 frac
    let bit : Nat :=
      if ex = BitVec.allOnes _ then (if fr = 0 then (if neg then 0 else 7) else if fr.getLsbD (frac - 1) then 9 else 8)
      else if ex = 0 then (if fr = 0 then (if neg then 3 else 4) else if neg then 2 else 5)
      else if neg then 1 else 6
    exec (.fclass d a m) s = .next (u.wrote d (BitVec.ofNat 64 (2 ^ bit)))

/-- FADD, FDIV and FMUL whose flags meet an enabled trap, in a context that has no result outstanding, a handler, and is not in it: the
context enters its handler with EPC the instruction's address, ILEN its length, INH set, FADDR 0 and the lowest enabled code among
0x30 to 0x34; FPSR holds the flags, and lr, the o registers, the predicates, SLIM, TVEC and SEED are as before. Rules: R211, R214,
R240. -/
def Obligations.FloatTrapsKeepTheDestination : Prop :=
  ∀ (d a b : Opnd) (m : Mods) (s u : State) (x y : Word), s.cur.2 < 11 →
    s.reads m (srcTyOf m.ty) [a, b] = some ([x, y], u) →
    let mode := modeOf m.rnd u.my.fpsr
    let X := numOf m.ty x.toNat
    let Y := numOf m.ty y.toNat
    let traps (i : Instr) (r : FpNum × BitVec 5) : Prop :=
      let fl := (finish m.ty mode u.my.seed m.sat r).2
      let hit := fl &&& (s.my.fpsr.extractLsb' 8 5)
      s.Issues i m → s.my.pend = [] → s.my.tvec ≠ 0 → s.my.cause.getLsbD 8 = false →
      ∀ j : Nat, j < 5 → hit.getLsbD j = true → (∀ k : Nat, k < j → hit.getLsbD k = false) →
      ∃ t, exec i s = .next t ∧ t.my.pc = s.my.tvec ∧ t.my.epc = s.my.pc ∧ t.my.faddr = 0 ∧
        t.my.cause = BitVec.ofNat 64 (m.len.words * 4096 + 0x100 + 0x30 + j) ∧
        t.my.fpsr = s.my.fpsr ||| fl.setWidth 64 ∧ t.my.lr = s.my.lr ∧ t.my.o = s.my.o ∧ t.my.p = s.my.p ∧
        t.my.slim = s.my.slim ∧ t.my.tvec = s.my.tvec ∧ t.my.seed = s.my.seed ∧ t.my.st = s.my.st
    traps (.fadd d a b m) (exactAdd mode X Y) ∧ traps (.fdiv d a b m) (exactDiv X Y) ∧ traps (.fmul d a b m) (exactMul X Y)

/-- BR goes to ia + 4 × off20 where its predicate equals the complement of its sense, else on to NextPC; JMP and CALL go to ia + 4 ×
off24; JMPR and CALLR go to their source and RET to lk (g31), whose low bits are zero; CALL and CALLR write lk := NextPC and no lr,
CALLR after it has read its target; LOOP writes its counter less 1 to the counter and lr, and branches to ia + 4 × off17 unless that
is 0. A taken transfer is recorded where the trace is on; nothing else changes. Rules: R255, R288, R300. -/
def Obligations.TransfersMoveThePc : Prop :=
  ∀ (o20 : BitVec 20) (o24 : BitVec 24) (o17 : BitVec 17) (neg : Bool) (p : BitVec 3) (a d : Opnd) (m : Mods) (s u : State) (x : Word),
    let v := s.started m
    let next := s.my.pc + BitVec.ofNat 64 (4 * m.len.words)
    let link (w : State) : State := w.writeReg w.cur.1 w.cur.2 (.g 31) next
    (s.Issues (.br o20 neg p m) m → exec (.br o20 neg p m) s =
      .next (if v.my.p.getLsbD p.toNat = !neg then v.jumped (s.my.pc + 4 * o20.signExtend 64) else v).endIssue) ∧
    (s.Issues (.jmp o24 m) m → exec (.jmp o24 m) s = .next (v.jumped (s.my.pc + 4 * o24.signExtend 64)).endIssue) ∧
    (s.Issues (.call o24 m) m → exec (.call o24 m) s = .next ((link v).jumped (s.my.pc + 4 * o24.signExtend 64)).endIssue) ∧
    (s.reads m .int [a] = some ([x], u) → x.extractLsb' 0 2 = 0#2 →
      (s.Issues (.jmpr a m) m → exec (.jmpr a m) s = .next (u.jumped x).endIssue) ∧
      (s.Issues (.callr a m) m → exec (.callr a m) s = .next ((link u).jumped x).endIssue)) ∧
    (s.reads m .int [.g 31] = some ([x], u) → x.extractLsb' 0 2 = 0#2 → v.my.pending (.g 31) = false →
      s.Issues (.ret m) m → exec (.ret m) s = .next (u.jumped x).endIssue) ∧
    (s.reads m .int [d] = some ([x], u) → s.Issues (.loop o17 d m) m →
      let w := (u.writeReg u.cur.1 u.cur.2 d (x - 1)).writeLr u.cur.1 u.cur.2 (x - 1)
      exec (.loop o17 d m) s = .next (if x = 1 then w else w.jumped (s.my.pc + 4 * o17.signExtend 64)).endIssue)

/-- With the stack in the core's own scratchpad and no access under way, ENTER #n stores lk at sp − 8 and fp at sp − 16, sets fp to sp −
16 and sp to sp − 16 − n, and writes no lr; LEAVE sets sp to fp + 16, lk to the doubleword at fp + 8 and fp to that at fp, and
writes no lr; its reads write back dirty words of unbound workspaces. An ENTER whose new sp lies below SLIM changes nothing and
raises 0x40 with FADDR the new sp. Rules: R125, R142, R301, R302. -/
def Obligations.FramesAreBuiltAndRestored : Prop :=
  ∀ (n7 : BitVec 7) (m : Mods) (s u : State) (p l f : Word),
    let v := s.started m
    let size : Word := if m.len.ext then m.imm32.setWidth 64 else 16 * n7.setWidth 64
    let put (w : State) (k : BitVec 5) (x : Word) : State := w.writeReg w.cur.1 w.cur.2 (.g k) x
    u.flight = [] → u.me.scratch ≤ 256 → v.my.pending (.g 29) = false → v.my.pending (.g 30) = false → v.my.pending (.g 31) = false →
    (s.reads m .int [.g 30, .g 31, .g 29] = some ([p, l, f], u) → s.Issues (.enter n7 m) m →
      ownBase + 16 ≤ p.toNat → p.toNat ≤ ownBase + u.me.top →
      let new := p - 16 - size
      let off := p.toNat - 16 - ownBase
      (u.my.slim.toNat ≤ new.toNat →
        let w := u.setMe ((u.me.scrWrite (off + 8) 8 l.toNat).scrWrite off 8 f.toNat)
        exec (.enter n7 m) s = .next (put (put w 29 (p - 16)) 30 new).endIssue) ∧
      (new.toNat < u.my.slim.toNat → s.my.pend = [] →
        exec (.enter n7 m) s = .next (s.raiseIn s.cur.1 s.cur.2 0x40 new s.my.pc m.len.words))) ∧
    (s.reads m .int [.g 29, .g 30, .g 31] = some ([f, p, l], u) → s.Issues (.leave m) m →
      ownBase ≤ f.toNat → f.toNat + 16 ≤ ownBase + u.me.top →
      let off := f.toNat - ownBase
      let c := u.me.scrServe off 8
      let w := u.setMe (c.scrServe (off + 8) 8)
      exec (.leave m) s = .next (put (put (put w 30 (f + 16)) 31 (BitVec.ofNat 64 (c.scrRead true (off + 8) 8))) 29
        (BitVec.ofNat 64 (u.me.scrRead true off 8))).endIssue)

/-- TRAP #n in a context with a handler that it is not in sets EPC to NextPC, CAUSE to its length, INH and 0xF0 + n, FADDR to 0 and PC
to TVEC, and keeps every other register of the context. ERET with INH set moves PC to EPC and clears INH, and leaves every other
register as it is; with INH clear it raises 0x03. NOP moves the PC to NextPC. HALT halts with cause 0xA1 and the resume address
NextPC; BKPT not just released halts with 0x90 at its own address, FADDR 0xFF; a word sequence that is no instruction halts with its
cause at its own address and the FADDR of its encoding; TRAP #n without a handler halts with 0xF0 + n at NextPC. In each case the
context is HALTED, CAUSE.CODE and FADDR are set with the other bits of CAUSE kept, EPC is unchanged, and the record kept in the core
holds the next halt id of the partition, the context, VALID, the cause and the resume address, with no object and no upstream. Where
the release at .sys that the record's write is has something to wait for, the context has those latches and counts as halted with
its id, which NEXTID has passed, waits for the release and is recorded as HALTED then. BKPT that was just released does nothing.
Rules: R209, R211, R303, R198, R199, R317. -/
def Obligations.CausesAreTaken : Prop :=
  (∀ (n : BitVec 4) (m : Mods) (s : State), s.cur.2 < 11 →
    (s.Issues (.trap n m) m → s.my.pend = [] → s.my.tvec ≠ 0 → s.my.cause.getLsbD 8 = false →
      ∃ t, exec (.trap n m) s = .next t ∧ t.my.pc = s.my.tvec ∧ t.my.epc = s.my.pc + BitVec.ofNat 64 (4 * m.len.words) ∧
        t.my.cause = BitVec.ofNat 64 (m.len.words * 4096 + 0x1F0 + n.toNat) ∧ t.my.faddr = 0 ∧ t.my.lr = s.my.lr ∧ t.my.o = s.my.o ∧
        t.my.p = s.my.p ∧ t.my.fpsr = s.my.fpsr ∧ t.my.slim = s.my.slim ∧ t.my.tvec = s.my.tvec ∧ t.my.wsp = s.my.wsp ∧
        t.my.st = s.my.st ∧ t.me.mf = s.me.mf ∧ t.me.scr = s.me.scr ∧ t.hbm = s.hbm) ∧
    (s.Issues (.eret m) m → s.my.cause.getLsbD 8 = true →
      ∃ t, exec (.eret m) s = .next t ∧ t.my.pc = s.my.epc ∧
        (∀ j : Nat, j < 64 → t.my.cause.getLsbD j = (decide (j ≠ 8) && s.my.cause.getLsbD j)) ∧ t.my.epc = s.my.epc ∧
        t.my.faddr = s.my.faddr ∧ t.my.fpsr = s.my.fpsr ∧ t.my.lr = s.my.lr ∧ t.my.o = s.my.o ∧ t.my.p = s.my.p ∧
        t.my.slim = s.my.slim ∧ t.my.tvec = s.my.tvec ∧ t.my.seed = s.my.seed ∧ t.my.wsp = s.my.wsp ∧ t.me.mf = s.me.mf ∧
        t.me.scr = s.me.scr) ∧
    (s.Issues (.eret m) m → s.my.cause.getLsbD 8 = false → s.my.pend = [] →
      exec (.eret m) s = .next (s.raiseIn s.cur.1 s.cur.2 0x03 (encOf (.eret m) m) s.my.pc m.len.words)) ∧
    (s.Issues (.nop m) m → exec (.nop m) s = .next (s.started m).endIssue)) ∧
  ((∀ (n : BitVec 4) (c : BitVec 8) (f : Word) (m : Mods) (s : State), s.cur.2 < 11 → s.my.pend = [] →
    let next := s.my.pc + BitVec.ofNat 64 (4 * m.len.words)
    let id := s.regF (Pf.hltStat (partOf s.cur.1)) 0 48
    let halts (i : Instr) (code : BitVec 8) (faddr pc : Word) : Prop :=
      ∃ t, exec i s = .next t ∧ t.my.pc = pc ∧ t.my.faddr = faddr ∧ t.my.epc = s.my.epc ∧
        t.my.cause = (s.my.cause &&& 0xFF00) ||| code.setWidth 64 ∧
        ((s.releaseActs s.cur.1 s.cur.2 .sys).1 = [] → t.my.st = .halted ∧
          t.my.hrec = ⟨BitVec.ofNat 64 (id * 65536 + s.cur.2 * 4096 + 256 + code.toNat), pc, 0, 0⟩ ∧
          t.regF (Pf.hltStat (partOf s.cur.1)) 0 48 = (id + 1) % 2 ^ 48) ∧
        ((s.releaseActs s.cur.1 s.cur.2 .sys).1 ≠ [] → t.my.halting = some (code, pc, none) ∧ t.my.haltAs = some id ∧
          t.regF (Pf.hltStat (partOf s.cur.1)) 0 48 = (id + 1) % 2 ^ 48 ∧ t.haltId s.cur.1 s.cur.2 = some id ∧
          ∀ j ∈ (s.releaseActs s.cur.1 s.cur.2 .sys).1, j ∈ t.my.block)
    (s.Issues (.halt m) m → halts (.halt m) 0xA1 0 next) ∧
    (s.Issues (.bkpt m) m → s.my.pass = false → halts (.bkpt m) 0x90 0xFF s.my.pc) ∧
    (c.toNat < 0x30 → halts (.illegalEncoding c f) c f s.my.pc) ∧
    (s.Issues (.trap n m) m → s.my.tvec = 0 → halts (.trap n m) (15#4 ++ n) 0 next) ∧
    (s.Issues (.bkpt m) m → s.my.pass = true → exec (.bkpt m) s = .next (s.started m).endIssue)) ∧
  (∀ (s : State) (n x id : Nat) (rest : List Move) (code : BitVec 8) (pc : Word), s.agenda = .issue n x :: rest → s.dev.powered = true →
    x < 11 → (s.ctx n x).st = .live → (s.ctx n x).killReq = false → (s.ctx n x).halting = some (code, pc, none) →
    (s.ctx n x).haltAs = some id → (s.ctx n x).block = [] → code ≠ 0xA0 → ∃ t, step s = .next t ∧ (t.ctx n x).st = .halted ∧
      (t.ctx n x).hrec = ⟨BitVec.ofNat 64 (id * 65536 + x * 4096 + 256 + code.toNat), pc, 0, 0⟩))

/-- HSTART on a legal workspace that no context of the core has bound and an aligned entry starts the FREE helper of lowest index: live,
on that workspace, at the entry, with o, lr, p, SLIM, TVEC and SEED from the workspace's latch words and CAUSE, FADDR and EPC 0, and
gives its index. The failing checks raise 0x41, 0x05 and 0x42 in that order. HJOIN of a FREE helper that has run returns the g0 word
of the workspace it last held, and 0 if it has never run. HEXIT of a helper with no result outstanding is a release at core scope:
with nothing to wait for it writes its registers back and leaves the helper FREE, its workspace unbound and remembered, and until
then it waits; the control context with every helper FREE becomes FREE too. SYSC posts a request with the code (the low 16 bits of
its first source), the argument, the core and the context at the tail of its partition's service queue, after the actions of a
release at .sys, and returns the request's sequence number; with 64 requests queued it posts nothing and returns 2^63. It waits
where a higher core has posted in the mesh cycle: the model's choice for the order of entries that R304 gives (log entry 105). YIELD
makes the context not ready for the next min(source, 65,535) cycles after its issue. With tracing off and no trial counting, PROG
and TRACE change nothing that a program sees and write no lr: at most they keep a record for a trace that starts later in the cycle.
Rules: R101, R102, R106, R305, R306, R307, R97, R304, R308, R318. -/
def Obligations.HelpersRequestsAndPauses : Prop :=
  (∀ (d a b : Opnd) (m : Mods) (s u : State) (entry wsp : Word) (h : Nat), s.cur.2 < 11 →
    (s.reads m .int [a, b] = some ([entry, wsp], u) → s.Issues (.hstart d a b m) m →
      let fits := u.me.legalWs wsp = true ∧ ∀ y : Nat, y < 11 → u.me.holds y = true → (u.me.ctx y).wsp ≠ wsp
      let raised (c : BitVec 8) (f : Word) : Prop := s.my.pend = [] →
        exec (.hstart d a b m) s = .next (s.raiseIn s.cur.1 s.cur.2 c f s.my.pc m.len.words)
      (¬ fits → raised 0x41 wsp) ∧
      (fits → entry.extractLsb' 0 2 ≠ 0#2 → raised 0x05 entry) ∧
      (fits → entry.extractLsb' 0 2 = 0#2 → (∀ x : Nat, 1 ≤ x → x < 11 → (u.me.ctx x).st ≠ .free) → raised 0x42 0) ∧
      (fits → entry.extractLsb' 0 2 = 0#2 → 1 ≤ h → h < 11 → (u.me.ctx h).st = .free →
        (∀ x : Nat, 1 ≤ x → x < h → (u.me.ctx x).st ≠ .free) →
        ∃ k : Ctx, exec (.hstart d a b m) s = .next ((u.setMe (u.me.setCtx h k)).wrote d (BitVec.ofNat 64 h)) ∧
          k.st = .live ∧ k.wsp = wsp ∧ k.pc = entry ∧ k.cause = 0 ∧ k.faddr = 0 ∧ k.epc = 0 ∧ u.cyc < k.liveAt ∧
          k.lr = BitVec.ofNat 64 (u.me.scr.read (wsOff wsp + 0x140) 8) ∧
          k.slim = BitVec.ofNat 64 (u.me.scr.read (wsOff wsp + 0x160) 8) ∧
          k.tvec = BitVec.ofNat 64 (u.me.scr.read (wsOff wsp + 0x168) 8) ∧
          (∀ j : Fin 8, k.o[j] = BitVec.ofNat 64 (u.me.scr.read (wsOff wsp + 0x100 + 8 * j.val) 8)))) ∧
    (s.reads m .int [a] = some ([BitVec.ofNat 64 h], u) → s.Issues (.hjoin d a m) m → 1 ≤ h → h ≤ 10 → h ≠ s.cur.2 →
      (u.ctx s.cur.1 h).st = .free →
      exec (.hjoin d a m) s = .next (u.wrote d (match (u.ctx s.cur.1 h).lastWs with
        | some w => BitVec.ofNat 64 (u.me.scrRead true (wsOff w) 8)
        | none => 0))) ∧
    (s.Issues (.hexit m) m → s.my.pend = [] → s.cur.2 ≠ 0 → (s.releaseActs s.cur.1 s.cur.2 .core).1 = [] →
      ∃ t, exec (.hexit m) s = .next t ∧ t.my.st = .free ∧ t.my.lastWs = some s.my.wsp ∧
        t.me.scr = ((s.started m).me.writeBackAll s.cur.2).scr ∧ (∀ y, y ≠ s.cur.2 → t.ctx s.cur.1 y = s.ctx s.cur.1 y)) ∧
    (s.Issues (.hexit m) m → s.my.pend = [] → s.cur.2 ≠ 0 → (s.releaseActs s.cur.1 s.cur.2 .core).1 ≠ [] → s.my.wait = none →
      ∃ t, exec (.hexit m) s = .next t ∧ t.my.st = s.my.st ∧ t.my.doing = some (.hexit m) ∧
        ∀ j ∈ (s.releaseActs s.cur.1 s.cur.2 .core).1, j ∈ t.my.block) ∧
    (s.Issues (.hexit m) m → s.my.pend = [] → (s.releaseActs s.cur.1 s.cur.2 .core).1 = [] → s.cur.2 = 0 → (∀ x : Nat, 1 ≤ x → x < 11 → (s.me.ctx x).st = .free) →
      ∃ t, exec (.hexit m) s = .next t ∧ t.my.st = .free)) ∧
  (∀ (d a b : Opnd) (m : Mods) (s u r : State) (x y : Word) (after : List Nat),
    let n := s.cur.1
    let unseen (o : Host.Outcome State Fault Refusal) : Prop := o = .next u.endIssue ∨
      ∃ l, o = .next (u.setCore n { u.core n with missed := l }).endIssue
    (s.reads m .int [a, b] = some ([x, y], u) → u.releaseActs n s.cur.2 .sys = (after, r) → s.Issues (.sysc d a b m) m →
      ((u.part (partOf n)).svcLast.1 = u.mesh → (u.part (partOf n)).svcLast.2 ≤ n) →
      ((r.part (partOf n)).svc.length < 64 →
        ∃ p : Part, exec (.sysc d a b m) s = .next ((r.setPart (partOf n) p).wrote d (BitVec.ofNat 64 (r.part (partOf n)).svcSeq)) ∧
          p.svc = (r.part (partOf n)).svc ++ [⟨(r.part (partOf n)).svcSeq, n, s.cur.2, x.extractLsb' 0 16, y, after⟩] ∧
          p.svcSeq = ((r.part (partOf n)).svcSeq + 1) % 2 ^ 48) ∧
      (64 ≤ (r.part (partOf n)).svc.length → exec (.sysc d a b m) s = .next (r.wrote d 0x8000000000000000))) ∧
    (s.reads m .int [a, b] = some ([x, y], u) → s.Issues (.sysc d a b m) m →
      (u.part (partOf n)).svcLast.1 = u.mesh → n < (u.part (partOf n)).svcLast.2 →
      ∃ t, exec (.sysc d a b m) s = .next t ∧ (t.part (partOf n)).svc = (s.part (partOf n)).svc ∧ t.my.pc = s.my.pc) ∧
    (s.cur.2 < 11 → s.reads m .int [a] = some ([x], u) → s.Issues (.yield a m) m →
      ∃ t, exec (.yield a m) s = .next t ∧ t.my.delayTo = s.cyc + 1 + min x.toNat 65535 ∧ t.my.lr = u.my.lr ∧
        t.my.pc = nextPc s.my.pc m ∧ ∀ c, c < t.my.delayTo → ({ t with cyc := c } : State).mayIssue n s.cur.2 = false) ∧
    (s.reads m .int [a] = some ([x], u) → s.Issues (.prog a m) m → u.tracing n = false →
      (∀ p : Nat, p < 8 → (u.reg (Pf.snd p 0)).getLsbD 63 = false) → (u.reg (Pf.dbg n 0x1C0)).extractLsb' 0 5 ≠ 17#5 →
      (u.reg (Pf.dbg n 0x1C0)).extractLsb' 8 5 ≠ 17#5 → unseen (exec (.prog a m) s)) ∧
    (s.reads m .int [a] = some ([x], u) → s.Issues (.trace a m) m → u.tracing n = false → unseen (exec (.trace a m) s)))

/-- CID gives the device's fabric address, the core's partition, octet and index in its octet, the context, and the core's coordinates
in the fields of R310. MCRD gives the part code for index 0, the arithmetic clock for 1, SCRATCH and STACK for 2, the convoy, or
0xFFFF, and the member for 3, the fenced octets of the partition for 4, the LIVE or HALTED contexts for 5, and 0 for an index not
listed. SRD gives the named register of the context, the cycle count, or the gang's rectangle and TCB. SWR writes TVEC (low bits
zero, else 0x05), EPC, FADDR, the CODE field of CAUSE alone, FPSR (a reserved bit or mode raises 0x02), SEED (0 is stored as
0x2545F491), and SLIM at or below its value; a higher SLIM, and WSP, CYC, GANG and TCBI always, raise 0x03. Neither waits unless a
vector or SFU instruction of the context is outstanding and FPSR is named. No lr is written by SWR. Rules: R10, R11, R12, R310,
R311, R211, R239, R240, R312, R313, R314. -/
def Obligations.SystemRegisters : Prop :=
  (∀ (d a : Opnd) (m : Mods) (s u : State) (i : Word), s.cur.1 < 1024 → s.cur.2 < 11 →
    let v := s.started m
    let x := s.cur.1 % 32
    let y := s.cur.1 / 32
    let die := y / 16 * 2 + x / 16
    (s.Issues (.cid d m) m → exec (.cid d m) s = .next (v.wrote d
      (0#25 ++ (v.reg Pf.fabSelf).extractLsb' 0 12 ++ BitVec.ofNat 3 (die * 2 + y / 8 % 2) ++ BitVec.ofNat 7 (y / 2 * 8 + x / 4) ++
        BitVec.ofNat 3 (x % 4 + 4 * (y % 2)) ++ BitVec.ofNat 4 s.cur.2 ++ BitVec.ofNat 5 y ++ BitVec.ofNat 5 x))) ∧
    (s.reads m .int [a] = some ([i], u) → s.Issues (.mcrd d a m) m →
      (i = 0 → exec (.mcrd d a m) s = .next (u.wrote d 0x0960)) ∧
      (i = 1 → exec (.mcrd d a m) s = .next (u.wrote d (BitVec.ofNat 64 u.dev.clock))) ∧
      (i = 2 → exec (.mcrd d a m) s = .next (u.wrote d (BitVec.ofNat 64 (u.me.scratch + u.me.stack * 65536)))) ∧
      (i = 3 → exec (.mcrd d a m) s = .next (u.wrote d (match u.me.gang with
        | some g => BitVec.ofNat 64 (g.convoy + g.member * 65536)
        | none => 0xFFFF))) ∧
      (i = 4 → ∃ w : Word, exec (.mcrd d a m) s = .next (u.wrote d w) ∧
        ∀ j : Nat, w.getLsbD j = (decide (j < 16) && u.dev.fenced.contains (partOctet (partOf s.cur.1) j))) ∧
      (i = 5 → ∃ w : Word, exec (.mcrd d a m) s = .next (u.wrote d w) ∧
        ∀ j : Nat, w.getLsbD j = (decide (j < 11) && decide ((u.me.ctx j).st ≠ .free))) ∧
      (5 < i.toNat → exec (.mcrd d a m) s = .next (u.wrote d 0)))) ∧
  (∀ (d a : Opnd) (m : Mods) (s u : State) (x : Word),
    let v := s.started m
    let k := v.my
    let reads (r : Sr) (w : Word) : Prop := (r = .fpsr → v.vecBusy s.cur.1 s.cur.2 = false) →
      s.Issues (.srd d r m) m → exec (.srd d r m) s = .next (v.wrote d w)
    let writes (r : Sr) (f : Ctx → Ctx) : Prop := s.Issues (.swr r a m) m → exec (.swr r a m) s = .next (u.latched f)
    let traps (r : Sr) (c : BitVec 8) (f : Word) : Prop := s.Issues (.swr r a m) m → s.my.pend = [] →
      exec (.swr r a m) s = .next (s.raiseIn s.cur.1 s.cur.2 c f s.my.pc m.len.words)
    let enc (r : Sr) : Word := encOf (.swr r a m) m
    reads .wsp k.wsp ∧ reads .slim k.slim ∧ reads .tvec k.tvec ∧ reads .epc k.epc ∧ reads .cause k.cause ∧ reads .faddr k.faddr ∧
    reads .fpsr k.fpsr ∧ reads .seed (k.seed.setWidth 64) ∧ reads .cyc (BitVec.ofNat 64 s.cyc) ∧
    reads .gang (match s.me.gang with
      | some g => BitVec.ofNat 64 (g.x0 + g.y0 * 32 + g.lw * 1024 + g.lh * 16384)
      | none => 0) ∧
    reads .tcbi (match s.me.gang with
      | some g => BitVec.ofNat 64 g.tcb
      | none => 0) ∧
    (s.reads m .int [a] = some ([x], u) →
      traps .wsp 0x03 (enc .wsp) ∧ traps .cyc 0x03 (enc .cyc) ∧ traps .gang 0x03 (enc .gang) ∧ traps .tcbi 0x03 (enc .tcbi) ∧
      (x.toNat ≤ u.my.slim.toNat → writes .slim (fun k => { k with slim := x })) ∧
      (u.my.slim.toNat < x.toNat → traps .slim 0x03 (enc .slim)) ∧
      (x.extractLsb' 0 2 = 0#2 → writes .tvec (fun k => { k with tvec := x })) ∧
      (x.extractLsb' 0 2 ≠ 0#2 → traps .tvec 0x05 x) ∧
      writes .epc (fun k => { k with epc := x }) ∧ writes .faddr (fun k => { k with faddr := x }) ∧
      writes .cause (fun k => { k with cause := k.cause.extractLsb' 8 56 ++ x.extractLsb' 0 8 }) ∧
      writes .seed (fun k => { k with seed := if x.extractLsb' 0 32 = 0#32 then 0x2545F491 else x.extractLsb' 0 32 }) ∧
      (v.vecBusy s.cur.1 s.cur.2 = false → x &&& 0xFFFFFFFFFFE8E0E0#64 = 0 → (x.extractLsb' 16 3).toNat < 6 →
        writes .fpsr (fun k => { k with fpsr := x })) ∧
      (v.vecBusy s.cur.1 s.cur.2 = false → x &&& 0xFFFFFFFFFFE8E0E0#64 ≠ 0 ∨ 6 ≤ (x.extractLsb' 16 3).toNat →
        traps .fpsr 0x02 (enc .fpsr))))

/-- With no result outstanding and a legal pointer that no other context has bound, WSPX makes a release at core scope, writes the old
workspace's latches back, its PC being NextPC, loads the latches of the new workspace, goes on at the PC loaded once the release is
complete, and writes the old pointer to its destination and lr in the new workspace. Any other pointer raises 0x41 with FADDR the
pointer. QSTAT gives Count in bits 3 to 0, Written in 7 to 4 and the read side's withheld state in bit 8, and pops nothing. QFLUSH
leaves the queue empty, and entries still reserved are discarded when their values arrive. TLBI of a global address, with no walk
for its page under way from the octet, removes from the core's and the octet's TLB every entry that translates the address, whatever
its size, and nothing else; an address that is not global removes nothing. Rules: R104, R106, R107, R109, R309, R113, R202, R315,
R316. -/
def Obligations.WorkspacesQueuesAndTlbs : Prop :=
  (∀ (d a : Opnd) (m : Mods) (s u r : State) (w : Word) (after : List Nat), s.cur.2 < 11 → s.reads m .int [a] = some ([w], u) →
    s.Issues (.wspx d a m) m → s.my.pend = [] → u.releaseActs s.cur.1 s.cur.2 .core = (after, r) →
    let fits := u.me.legalWs w = true ∧ ∀ y : Nat, y < 11 → y ≠ s.cur.2 → u.me.holds y = true → (u.me.ctx y).wsp ≠ w
    (¬ fits → exec (.wspx d a m) s = .next (s.raiseIn s.cur.1 s.cur.2 0x41 w s.my.pc m.len.words)) ∧
    (fits →
      let c := r.me.latchBack s.cur.2
      let word (off : Nat) : Word := BitVec.ofNat 64 (c.scr.read (wsOff w + off) 8)
      let word' : Word := BitVec.ofNat 64 (c.scr.read (wsOff s.my.wsp + 0x150) 8)
      let wrote (v : State) : State := (v.writeReg v.cur.1 v.cur.2 d s.my.wsp).writeLr v.cur.1 v.cur.2 s.my.wsp
      ∃ k : Ctx, exec (.wspx d a m) s = .next
          (let t := wrote (r.setMe (c.setCtx s.cur.2 k)); t.setMy { t.my with block := t.my.block ++ after }).endIssue ∧
        (u.me.scr.wf = true → word' = nextPc s.my.pc m) ∧
        k.wsp = w ∧ k.pc = word 0x150 ∧ k.lr = word 0x140 ∧ k.slim = word 0x160 ∧ k.tvec = word 0x168 ∧ k.faddr = word 0x178 ∧
        k.epc = word 0x180 ∧ k.st = u.my.st ∧ (∀ j : Fin 8, k.o[j] = word (0x100 + 8 * j.val)))) ∧
  (∀ (d a : Opnd) (q : BitVec 3) (m : Mods) (s u : State) (x : Word),
    let v := s.started m
    let n := s.cur.1
    (s.Issues (.qstat d q m) m → exec (.qstat d q m) s = .next (v.wrote d (BitVec.ofNat 64
      ((v.me.q q.toNat).ents.length + 16 * ((v.me.q q.toNat).ents.takeWhile (fun e => e.val.isSome)).length +
        256 * (v.queueWithheld n q.toNat false).toList.length)))) ∧
    (s.Issues (.qflush q m) m → ∃ e : QReg, exec (.qflush q m) s = .next (v.setMe (v.me.setQ q.toNat e)).endIssue ∧ e.ents = [] ∧
      e.discard = (v.me.q q.toNat).discard ++ ((v.me.q q.toNat).ents.filter (fun e => e.val = none)).map QEntry.id) ∧
    (s.reads m .int [a] = some ([x], u) → s.Issues (.tlbi a m) m →
      (2 ^ 56 ≤ x.toNat → exec (.tlbi a m) s = .next u.endIssue) ∧
      (x.toNat < 2 ^ 56 →
        (∀ w ∈ (u.die (dieOf n)).walks, octetOf w.core = octetOf n → w.root = u.homePart n →
          let page := u.pageAt (u.homePart n) x.toNat
          w.va < page.1 ∨ page.1 + page.2 ≤ w.va) →
        let out (t : TlbEnt) : Bool := decide (t.root ≠ u.homePart n ∨ x.toNat < t.va ∨ t.va + t.size ≤ x.toNat)
        let u1 := u.setOctet (octetOf n) { u.octet (octetOf n) with tlb := (u.octet (octetOf n)).tlb.filter out }
        exec (.tlbi a m) s = .next (u1.setMe { u1.me with tlb := u1.me.tlb.filter out }).endIssue)))

/-- With no access under way, a load of the core's own scratchpad completes at once: the address is the base plus the displacement (the
field times the access size, or IMM32 unscaled) or the sum of base and index, the bytes are those that the scratchpad shows to the
core's own port, extended by the size code, and they go to the destination and lr; LDA makes its acquire first. The port writes
dirty words of unbound workspaces among the bytes back. No load needs natural alignment. A load that runs past the scratchpad's end
raises 0x15 with FADDR the address it begins at, which for one that begins inside is the model's choice (log entry 19). With no
access under way, a store to the core's own scratchpad writes the low bytes of its source at the base plus displacement, or base
plus index; STL first takes its release actions; where they have something to wait for, the store leaves as an access that follows
it. It writes no lr and no register, and the context's special registers, every other context and core, HBM, the die scratchpads and
the device registers are as before. Rules: R128, R142, R166, R258, R260, R267, R321, R322. -/
def Obligations.OwnScratchpadAccesses : Prop :=
  (∀ (d a b : Opnd) (z : Sz) (i7 : BitVec 7) (i3 : BitVec 3) (sc : Scope) (m : Mods) (s u : State) (x y ea : Word),
    u.flight = [] → u.me.scratch ≤ 256 → ownBase ≤ ea.toNat → ea.toNat < ownBase + 262144 →
    let n := Sz.bytes z
    let off := ea.toNat - ownBase
    let val (w : State) : Word := widened (Sz.ty z) (BitVec.ofNat (8 * n) (w.me.scrRead true off n))
    let disp {w : Nat} (i : BitVec w) : Word := if m.len.ext then m.imm32.signExtend 64 else i.signExtend 64 * BitVec.ofNat 64 n
    let served (w : State) : State := w.setMe (w.me.scrServe off n)
    (off + n ≤ u.me.top →
      (s.reads m .int [a] = some ([x], u) → ea = x + disp i7 → s.Issues (.ld d a z i7 m) m →
        exec (.ld d a z i7 m) s = .next ((served u).wrote d (val u))) ∧
      (s.reads m .int [a, b] = some ([x, y], u) → ea = x + y → s.Issues (.ldx z d a b m) m →
        exec (.ldx z d a b m) s = .next ((served u).wrote d (val u))) ∧
      (s.reads m .int [a] = some ([x], u) → ea = x + disp i3 → s.Issues (.lda d a z i3 sc m) m →
        exec (.lda d a z i3 sc m) s = .next ((served (u.acquireActs s.cur.1 sc)).wrote d (val u)))) ∧
    (u.me.top < off + n → off + n ≤ 262144 → s.my.pend = [] → s.reads m .int [a] = some ([x], u) → ea = x + disp i7 →
      s.Issues (.ld d a z i7 m) m →
      exec (.ld d a z i7 m) s = .next (s.raiseIn s.cur.1 s.cur.2 0x15 ea s.my.pc m.len.words))) ∧
  (∀ (d a b : Opnd) (z : Sz) (i7 : BitVec 7) (i3 : BitVec 3) (sc : Scope) (m : Mods) (s u : State) (x y v ea : Word),
    u.flight = [] → u.me.scratch ≤ 256 → ownBase ≤ ea.toNat →
    let n := Sz.bytes z
    let off := ea.toNat - ownBase
    off + n ≤ u.me.top →
    let stored (w : State) : Host.Outcome State Fault Refusal :=
      .next (w.setMe (w.me.scrWrite off n (v.toNat % 256 ^ n))).endIssue
    let disp {w : Nat} (i : BitVec w) : Word := if m.len.ext then m.imm32.signExtend 64 else i.signExtend 64 * BitVec.ofNat 64 n
    (s.reads m .int [a, d] = some ([x, v], u) → ea = x + disp i7 → s.Issues (.st d a z i7 m) m →
      exec (.st d a z i7 m) s = stored u) ∧
    (s.reads m .int [a, b, d] = some ([x, y, v], u) → ea = x + y → s.Issues (.stx z d a b m) m →
      exec (.stx z d a b m) s = stored u) ∧
    (s.reads m .int [a, d] = some ([x, v], u) → ea = x + disp i3 → s.Issues (.stl d a z i3 sc m) m →
      let r := u.releaseActs s.cur.1 s.cur.2 sc
      (r.1 = [] → exec (.stl d a z i3 sc m) s = stored r.2) ∧
      (r.1 ≠ [] → ∃ t e, exec (.stl d a z i3 sc m) s = .next t ∧ t.flight = r.2.flight ++ [e] ∧ e.core = s.cur.1 ∧ e.ctx = s.cur.2 ∧
        e.op = .write (BitVec.ofNat 64 (v.toNat % 256 ^ n)) ∧ e.locs = [(.scr s.cur.1 off, n)] ∧ e.after = r.1)) ∧
    ∀ t, stored u = .next t → t.my.sameSpecial u.my ∧ t.my.lr = u.my.lr ∧ t.my.o = u.my.o ∧
      (∀ w, w ≠ s.cur.2 → t.ctx u.cur.1 w = u.ctx u.cur.1 w) ∧ (∀ w, w ≠ u.cur.1 → t.core w = u.core w) ∧ t.hbm = u.hbm ∧
      t.dies = u.dies ∧ t.regs = u.regs ∧ t.parts = u.parts ∧ t.hostMem = u.hostMem)

/-- After a write of n bytes at an offset, every byte outside reads as before and the bytes inside read as written, through the core's
port; a g register whose word lies outside keeps its value, one whose word lies inside takes the new bytes, whether or not the main
file caches it. The main file's invariant is kept. ADD, SUB, MUL, DIV, SHL, EXT, LEA, SETC and SEL, where they issue: every g and o
register but the destination, every flag and special register, every byte of the scratchpad outside the destination's own g word,
every other context and core, the rows, HBM, the die scratchpads, host memory, the device registers and the accesses under way are
as before; lr takes the result. The premise is the main file's invariant, on a legal workspace. Rules: R105, R108, R132, R109, R288,
R290, R291, R292, R293, R294. -/
def Obligations.Frames : Prop :=
  (∀ (c : Core) (off n v : Nat), c.mfOk → c.scr.wf = true →
    (c.scrWrite off n v).mfOk ∧ (c.scrWrite off n v).scr.wf = true ∧
    (c.scrWrite off n v).scrRead true off n = v % 256 ^ n ∧
    (∀ a, a < off ∨ off + n ≤ a → (c.scrWrite off n v).scrRead true a 1 = c.scrRead true a 1) ∧
    (∀ a, a % 8 = 0 → a % 512 < 256 → (c.scrWrite off n v).gWord a = BitVec.ofNat 64 ((c.scrWrite off n v).scrRead true a 8))) ∧
  (∀ (d a b : Opnd) (f : Cc) (g : BitVec 3) (m : Mods) (s t : State) (i : Instr),
    i ∈ [Instr.add d a b m, .sub d a b m, .mul d a b m, .div d a b m, .shl d a b m, .ext d a b m, .lea d a b m, .setc f d a b m,
      .sel g d a b m] →
    s.Issues i m → s.me.mfOk → s.me.scr.wf = true → s.me.legalWs s.my.wsp = true → s.cur.2 < 11 → exec i s = .next t →
    (∀ k, .g k ≠ d → t.regVal s.cur.1 s.cur.2 (.g k) = s.regVal s.cur.1 s.cur.2 (.g k)) ∧
    (∀ k, .o k ≠ d → t.regVal s.cur.1 s.cur.2 (.o k) = s.regVal s.cur.1 s.cur.2 (.o k)) ∧
    ((∃ k, d = .g k) ∨ (∃ k, d = .o k) → t.my.lr = t.regVal s.cur.1 s.cur.2 d) ∧
    t.my.sameSpecial s.my ∧ t.my.pc = nextPc s.my.pc m ∧
    (∀ off, (∀ k, d = .g k → off < gAddr s.my.wsp k.toNat ∨ gAddr s.my.wsp k.toNat + 8 ≤ off) →
      t.ownByte s.cur.1 off = s.ownByte s.cur.1 off) ∧
    (∀ x, x ≠ s.cur.2 → t.ctx s.cur.1 x = s.ctx s.cur.1 x) ∧ (∀ n, n ≠ s.cur.1 → t.core n = s.core n) ∧
    t.me.rows = s.me.rows ∧ t.me.wts = s.me.wts ∧ t.me.l1 = s.me.l1 ∧ t.hbm = s.hbm ∧ t.hostMem = s.hostMem ∧ t.dies = s.dies ∧
    t.regs = s.regs ∧ t.parts = s.parts ∧ t.flight = s.flight ∧ t.noc = s.noc)

/-- A load from a core that is not the issuing one leaves its core, and the context goes on with the destination pending; as the access
arrives at the other core's port it reads that port's bytes, and as its response returns the value, extended by the size, is in the
destination and in lr, no destination is pending, no access is left, and the other core has done no more than write dirty words of
unbound workspaces among the bytes back. Said for a quiet machine, with the target's boundary at rest and no timetable phase on the
way. A plain store that the address classes place in a die scratchpad leaves its core as one access; as it arrives there, the die
scratchpad holds the low bytes of the source at that offset, every other byte of it is as before, and the response that then returns
leaves no access under way. Rules: R99, R108, R128, R132, R152, R166, R322, R137. -/
def Obligations.AccessesBeyondTheCore : Prop :=
  (∀ (d a : Opnd) (z : Sz) (i : BitVec 7) (m : Mods) (s u : State) (x : Word) (k off : Nat), s.cur.2 < 11 → k ≠ s.cur.1 →
    s.reads m .int [a] = some ([x], u) → s.Issues (.ld d a z i m) m → u.flight = [] → s.my.pend = [] →
    (∃ j, d = .g j) ∨ (∃ j, d = .o j) → (s.core k).moving = false → u.linkBusy s.cur.1 k = false →
    u.classify s.cur.1 (x + dispOf i z m).toNat (Sz.bytes z) = .ok (.mesh k off) →
    let v := widened (Sz.ty z) (BitVec.ofNat (8 * Sz.bytes z) (u.portRead s.cur.1 k off (Sz.bytes z)))
    ∃ t1 t2 t3, exec (.ld d a z i m) s = .next t1 ∧ exec (.meshAccessArrival u.nextId) t1 = .next t2 ∧
      exec (.accessResponseReturn u.nextId) t2 = .next t3 ∧ t1.my.pending d = true ∧ t1.my.pc = nextPc s.my.pc m ∧
      t3.regVal s.cur.1 s.cur.2 d = v ∧ (t3.ctx s.cur.1 s.cur.2).lr = v ∧ (t3.ctx s.cur.1 s.cur.2).pend = [] ∧
      (t3.ctx s.cur.1 s.cur.2).lrPend = none ∧ t3.flight = [] ∧ 
      (t3.core k).scr = ((s.core k).scrServe off (Sz.bytes z)).scr ∧ (t3.core k).mf = ((s.core k).scrServe off (Sz.bytes z)).mf) ∧
  (∀ (d a : Opnd) (z : Sz) (i : BitVec 7) (m : Mods) (s u : State) (x v : Word) (k off : Nat), s.cur.2 < 11 →
    s.reads m .int [a, d] = some ([x, v], u) → s.Issues (.st d a z i m) m → u.flight = [] → (u.die k).scr.wf = true →
    u.classify s.cur.1 (x + dispOf i z m).toNat (Sz.bytes z) = .ok (.die k off) →
    ∃ t1 t2 t3, exec (.st d a z i m) s = .next t1 ∧ exec (.memoryAccessArrival u.nextId) t1 = .next t2 ∧
      exec (.accessResponseReturn u.nextId) t2 = .next t3 ∧
      (t2.die k).scr.read off (Sz.bytes z) = v.toNat % 256 ^ Sz.bytes z ∧
      (∀ j, j < off ∨ off + Sz.bytes z ≤ j → (t2.die k).scr.get j = (u.die k).scr.get j) ∧ t1.die k = u.die k ∧ t3.flight = [])

/-- On a page of ordering kind RC that the TLBs hold, with permission, reach and key, a plain store inside one line enters the core's L1
as dirty bytes and is complete for the context; a load of the same bytes then returns them at once. Said for a core with no access
under way and fewer than 60 lines in its writeback FIFO, outside a checkpointed convoy. On the line that holds the address, on a
page that the TLBs hold with the permission asked for, outside the partition's task pool: CWB sends the dirty bytes of the L1 copy
on their way and leaves the copy clean; CINV does so and drops the copy; CDISC and CZERO drop the copy, dirty or not, without a
writeback, and send the zeroing of the line; PREF of a line that the L1 holds does nothing. None writes a register. A count of 0
names no line. Rules: R133, R142, R163, R165, R322, R136, R166, R323. -/
def Obligations.CachesAndTranslatedStores : Prop :=
  (∀ (d a : Opnd) (z : Sz) (i : BitVec 7) (m : Mods) (s u : State) (x v : Word) (t : TlbEnt), s.cur.2 < 11 →
    let n := Sz.bytes z
    let va := (x + dispOf i z m).toNat
    s.reads m .int [a, d] = some ([x, v], u) → s.Issues (.st d a z i m) m → u.flight = [] → u.me.fifo.length < 60 →
    u.me.scratch ≤ 256 → va % 64 + n ≤ 64 → va < 2 ^ 56 → t.pa % 64 = 0 → t.va % 64 = 0 → (∀ l ∈ u.me.l1, l.pa % 64 = 0) →
    tlbFind u.me.tlb (u.homePart s.cur.1) va = some t → t.kind = .rc → u.pageCause t .w va n = none → u.pageCause t .r va n = none →
    u.ecc = [] → u.checkpointed s.cur.1 = false → va + n ≤ t.va + t.size →
    ∃ w, exec (.st d a z i m) s = .next w ∧ w.my.pc = nextPc s.my.pc m ∧ w.hbm = u.hbm ∧
      ∃ w', load (x + dispOf i z m) n (.size z) none false w = .ok (.val (v.toNat % 256 ^ n), w')) ∧
  (∀ (a c : Opnd) (m : Mods) (s u : State) (x : Word) (t : TlbEnt) (l : L1Line), m.len = .w → m.mod = 0 →
    let n := s.cur.1
    let b := x.toNat / 64 * 64
    s.reads m .int [a] = some ([x], u) → x.toNat < 2 ^ 56 → u.tlbLook n (u.homePart n) b = some t → t.kind ≠ .so →
    t.allows .rw = true → (u.reg (Pf.mmuReach t.root)).getLsbD (stackOf t.pa) = true → u.keyLoaded (stackOf t.pa) t.key = true →
    u.checkpointed n = false → u.inPool t.root b 64 = false → l1Find u.me.l1 (t.phys b) = some l →
    (s.Issues (.pref a c m) m → exec (.pref a c m) s = .next u.endIssue) ∧
    (s.Issues (.cwb a c m) m → l.dirty ≠ 0 → ∃ w, exec (.cwb a c m) s = .next w ∧
      w.flight = u.flight ++ [{ id := u.nextId, core := n, ctx := 11, op := .wb l.data l.dirty, locs := [(.hbm l.pa l.key l.kind l.x, 64)] }] ∧
      (l1Find w.me.l1 (t.phys b)).map L1Line.dirty = some 0 ∧ t.phys b ∉ w.me.fifo) ∧
    (s.Issues (.cinv a c m) m → l.dirty ≠ 0 → ∃ w, exec (.cinv a c m) s = .next w ∧
      w.flight = u.flight ++ [{ id := u.nextId, core := n, ctx := 11, op := .wb l.data l.dirty, locs := [(.hbm l.pa l.key l.kind l.x, 64)] }] ∧
      l1Find w.me.l1 (t.phys b) = none) ∧
    (∀ i ∈ [Instr.cdisc a c m, .czero a c m], s.Issues i m → ∃ w, exec i s = .next w ∧
      (∃ key, w.flight = u.flight ++ [{ id := u.nextId, core := n, ctx := s.cur.2, op := .zero, locs := [(.hbm (t.phys b) key t.kind t.x, 64)] }]) ∧
      l1Find w.me.l1 (t.phys b) = none))

/-- On a word of the core's own scratchpad with no access under way, an atomic reads the word, writes the sum, AND, OR, exclusive OR,
smaller, greater, second operand, or for AFADD the f32 sum rounded to nearest even, and returns the old word, extended by its type,
to the destination and lr. ACAS stores its third operand only where the old word equals its second. Integer types: 32 bits signed or
not, and 64 bits; On an f32 word of the core's own scratchpad with no access under way, AFADD writes the sum of the old word and its
operand rounded to nearest even, whatever FPSR and RND say, AMIN and AMAX write their MinimumNumber and MaximumNumber, and each
returns the old 32 bits with zeros above to the destination and lr; FPSR and SEED are as before. Rules: R252, R327, R328, R251. -/
def Obligations.AtomicsOnTheOwnScratchpad : Prop :=
  (∀ (d a b c : Opnd) (m : Mods) (s u : State) (x y w : Word), m.ty = .i32 ∨ m.ty = .n32 ∨ m.ty = .i64 →
    u.flight = [] → u.me.scratch ≤ 256 → ownBase ≤ x.toNat →
    let n := m.ty.bits
    let off := x.toNat - ownBase
    off + n / 8 ≤ u.me.top →
    let old : BitVec n := BitVec.ofNat n (u.me.scrRead true off (n / 8))
    let p : BitVec n := y.setWidth n
    let less (a b : BitVec n) : Bool := if m.ty = .n32 then a.ult b else a.slt b
    let gives (new : BitVec n) : Host.Outcome State Fault Refusal :=
      .next ((u.setMe ((u.me.scrServe off (n / 8)).scrWrite off (n / 8) new.toNat)).wrote d (widened m.ty old))
    (s.reads m .int [a, b] = some ([x, y], u) →
      (s.Issues (.aadd d a b m) m → exec (.aadd d a b m) s = gives (old + p)) ∧
      (s.Issues (.aand d a b m) m → exec (.aand d a b m) s = gives (old &&& p)) ∧
      (s.Issues (.aor d a b m) m → exec (.aor d a b m) s = gives (old ||| p)) ∧
      (s.Issues (.axor d a b m) m → exec (.axor d a b m) s = gives (old ^^^ p)) ∧
      (s.Issues (.amin d a b m) m → exec (.amin d a b m) s = gives (if less p old then p else old)) ∧
      (s.Issues (.amax d a b m) m → exec (.amax d a b m) s = gives (if less old p then p else old)) ∧
      (s.Issues (.aswp d a b m) m → exec (.aswp d a b m) s = gives p)) ∧
    (s.reads m .int [a, b, c] = some ([x, y, w], u) → s.Issues (.acas d a b c m) m →
      exec (.acas d a b c m) s = if old = p then gives (w.setWidth n) else .next ((u.setMe (u.me.scrServe off (n / 8))).wrote d (widened m.ty old)))) ∧
  (∀ (d a b : Opnd) (m : Mods) (s u : State) (x y : Word), m.ty = .f32 → s.cur.2 < 11 → u.flight = [] → u.me.scratch ≤ 256 →
    ownBase ≤ x.toNat → x.toNat + 4 ≤ ownBase + u.me.top →
    let xy : Sem (Word × Word) := do
      let x ← src a m .int
      let y ← src b m .f32
      pure (x, y)
    Sem.run? xy (s.started m) = some ((x, y), u) →
    let off := x.toNat - ownBase
    let old := u.me.scrRead true off 4 % 2 ^ 32
    let z := y.toNat % 2 ^ 32
    let gives (i : Instr) (v : Nat) : Prop := s.Issues i m →
      exec i s = .next ((u.setMe ((u.me.scrServe off 4).scrWrite off 4 v)).wrote d (BitVec.ofNat 64 old)) ∧
      ∀ t, exec i s = .next t → t.my.fpsr = s.my.fpsr ∧ t.my.seed = s.my.seed
    gives (.afadd d a b m) (finish .f32 .rne 0 false (exactAdd .rne (numOf .f32 old) (numOf .f32 z))).1 ∧
    gives (.amin d a b m) (minMaxNum .f32 false old z).1 ∧ gives (.amax d a b m) (minMaxNum .f32 true old z).1)

/-- Where the word at its address differs in its low bytes from the comparand, WAITA returns the word, extended by the size, to its
destination and lr; the core's clean L1 lines of kind RC are gone, since each poll acquires at octet scope. Where it does not, the
instruction has issued and the context waits with its limit: nothing is written and the PC stays. A poll that was sent to another
memory and has come back with a value that differs ends the wait in the same way, with the acquire actions of the instruction's
scope. A wait whose limit has run out returns the comparand's low bytes, which equal the value last read. The copy aperture raises
0x11. Every form, with and without extension. Rules: R203, R206, R268, R326. -/
def Obligations.WaitaReturnsTheFirstDifferentValue : Prop :=
  ∀ (f : Sz) (d a b c : Opnd) (m : Mods) (s u : State) (x y : Word) (lim : List Word), s.cur.2 < 11 →
    s.reads m .int (a :: b :: if m.len.ext then [c] else []) = some (x :: y :: lim, u) → s.Issues (.waita f d a b c m) m → u.flight = [] → u.me.scratch ≤ 256 →
    let n := Sz.bytes f
    let w : BitVec (8 * n) := BitVec.ofNat (8 * n) (u.me.scrRead true (x.toNat - ownBase) n)
    (ownBase ≤ x.toNat → x.toNat + n ≤ ownBase + u.me.top → s.my.wait = none →
      (w ≠ y.setWidth (8 * n) → ∃ t, exec (.waita f d a b c m) s = .next t ∧ t.my.lr = widened (Sz.ty f) w ∧
        t.my.pc = nextPc s.my.pc m ∧ t.my.wait = none ∧
        ((∃ k, d = .g k) ∨ (∃ k, d = .o k) → t.regVal s.cur.1 s.cur.2 d = widened (Sz.ty f) w) ∧
        (∀ q, d = .q q → (t.me.q q.toNat).ents.map QEntry.val =
          (u.me.q q.toNat).ents.map QEntry.val ++ [some (widened (Sz.ty f) w)]) ∧
        t.me.l1 = (u.me.l1Invalidate (fun l => l.kind = .rc)).l1) ∧
      (w = y.setWidth (8 * n) → ∃ t, exec (.waita f d a b c m) s = .next t ∧ t.my.pc = s.my.pc ∧ t.my.lr = s.my.lr ∧
        t.my.wait.map Wait.on = some .poll ∧
        t.my.wait.map Wait.limit = some (match lim with
          | z :: _ => min z.toNat (2 ^ 32 - 1)
          | [] => 0) ∧ t.my.doing = some (.waita f d a b c m))) ∧
    (x = 0xFF00000400000000 → n = 8 → s.my.wait = none → s.my.pend = [] →
      exec (.waita f d a b c m) s = .next (s.raiseIn s.cur.1 s.cur.2 0x11 x s.my.pc m.len.words)) ∧
    (∀ (v : State) (k : BitVec 8) (r : Word), v.cur.2 < 11 → v.GoesOn (.waita f d a b c m) (x :: y :: lim) →
      v.my.wait.map Wait.on = some .poll → v.my.answer = some (k, r) → r.setWidth (8 * n) ≠ y.setWidth (8 * n) →
      let sc : Scope := if m.len.ext then Scope.ofCode (m.mod.extractLsb' 4 4) else .sys
      ∃ t, exec (.waita f d a b c m) v = .next t ∧ v.gave t m d (widened (Sz.ty f) (r.setWidth (8 * n))) ∧
        t.me.l1 = (if 2 ≤ sc.code.toNat then v.me.l1Invalidate (fun l => l.kind = .rc) else v.me).l1) ∧
    (∀ v : State, v.cur.2 < 11 → v.GoesOn (.waita f d a b c m) (x :: y :: lim) → v.my.wait.map Wait.on = some .poll →
      (∃ w, v.my.wait = some w ∧ w.expired = true) → v.my.answer = none →
      ∃ t, exec (.waita f d a b c m) v = .next t ∧ v.gave t m d (widened (Sz.ty f) (y.setWidth (8 * n))))

/-- BINIT of a descriptor with no reserved bit, a CMASK, and an aligned rectangle inside the core's gang that holds the core binds the
barrier to it, unless a context of the core has an arrival there whose release is still to come. BARR of a participant without such
an arrival records its arrival and sends it to the origin with the distance of the mesh, and so does BARW, which has then issued and
waits. A BWAIT, or a BARW that has arrived, whose release has reached the core returns 0; while it has not, the context waits and
nothing is written; on its limit it returns 1. BSTAT gives the word of R332. Misuse raises 0x50 with FADDR the barrier's number. An
arrival that reaches the origin, is counted where the barrier there is bound to its descriptor, and held where it is not; with the
last participant counted the instance completes: the count starts afresh and a release sets out to every core of the rectangle, due
after the mesh distance. A release that reaches a core bound to its descriptor ends every wait there, counts as seen, and moves each
home region bound to that barrier on by one slot, with one more lap where the needle comes round. Rules: R166, R169, R206, R329,
R330, R331, R332, R151. -/
def Obligations.Barriers : Prop :=
  (∀ (d : Opnd) (b : BitVec 7) (c : Opnd) (m : Mods) (s u : State) (w : Word), s.cur.2 < 11 →
    let v := s.started m
    let n := s.cur.1
    let x := s.cur.2
    let B := b.toNat
    let bar (t : State) : Barrier := (t.core n).bar B
    let misuse (i : Instr) : Prop := s.Issues i m → s.my.pend = [] → s.my.wait = none →
      ((bar s).desc = none ∨ (∃ w, (bar s).desc = some w ∧ w.getLsbD (16 + x) = false) ∨ x ∈ (bar s).waiting) →
      exec i s = .next (s.raiseIn n x 0x50 (b.setWidth 64) s.my.pc m.len.words)
    (s.reads m .int [d] = some ([w], u) → s.Issues (.binit b d m) m → w.extractLsb' 27 37 = 0#37 → w.extractLsb' 16 11 ≠ 0#11 →
      (barRect w).aligned = true → (barRect w).has n = true → (∃ g, s.me.gang = some g ∧ (barRect w).within g.rect = true) →
      (bar s).waiting = [] → ∃ t, exec (.binit b d m) s = .next t ∧ (bar t).desc = some w ∧ (bar t).waiting = []) ∧
    (s.Issues (.barr b m) m → (bar s).desc = some w → w.getLsbD (16 + x) = true → x ∉ (bar s).waiting →
      ∃ t, exec (.barr b m) s = .next t ∧ (bar t).waiting = (bar s).waiting ++ [x] ∧ (bar t).desc = some w ∧
        ∃ i ∈ t.noc, i.m = .barArrive B w n x ∧ i.dist = meshDist n (barOrigin w)) ∧
    misuse (.barr b m) ∧ (m.len = .w → misuse (.barw d b c m)) ∧
    (m.len = .w → s.Issues (.bwait d b c m) m →
      (x ∉ (bar s).waiting → ∃ t, exec (.bwait d b c m) s = .next t ∧ t.my.lr = 0 ∧ t.my.pc = nextPc s.my.pc m) ∧
      (x ∈ (bar s).waiting → s.my.wait = none → v.barWithheld n B true = none →
        ∃ t, exec (.bwait d b c m) s = .next t ∧ t.my.pc = s.my.pc ∧ t.my.lr = s.my.lr ∧
          t.my.wait.map Wait.on = some (.barrier B) ∧ t.my.doing = some (.bwait d b c m))) ∧
    (m.len = .w → s.Issues (.barw d b c m) m → s.my.wait = none → (bar s).desc = some w → w.getLsbD (16 + x) = true →
      x ∉ (bar s).waiting → v.barWithheld n B false = none →
      ∃ t, exec (.barw d b c m) s = .next t ∧ (bar t).waiting = (bar s).waiting ++ [x] ∧ t.my.pc = s.my.pc ∧ t.my.lr = s.my.lr ∧
        t.my.doing = some (.barw d b c m) ∧ (∃ k, t.my.wait = some k ∧ k.on = .barrier B ∧ k.arrived = true) ∧
        ∃ i ∈ t.noc, i.m = .barArrive B w n x) ∧
    (m.len = .w → ∀ i ∈ [Instr.bwait d b c m, .barw d b c m], s.GoesOn i [] →
      (∃ k, s.my.wait = some k ∧ k.on = .barrier B ∧ k.arrived = true) →
      (x ∉ (bar s).waiting → ∃ t, exec i s = .next t ∧ s.gave t m d 0) ∧
      (x ∈ (bar s).waiting → (∃ k, s.my.wait = some k ∧ k.expired = true) → ∃ t, exec i s = .next t ∧ s.gave t m d 1)) ∧
    (s.Issues (.bstat d b m) m → ∃ r : Word, exec (.bstat d b m) s = .next (v.wrote d r) ∧
      ((bar s).desc = none → (bar s).waiting = [] → r = BitVec.ofNat 64 ((bar s).seen % 65536 * 2 ^ 32)) ∧
      ((bar s).desc = some w → (barRect w).aligned = true → (bar s).counted.length < 65536 → (bar s).waiting.length < 65536 →
        r.extractLsb' 48 1 = 1#1 ∧ (r.getLsbD 50 = decide (x ∈ (bar s).waiting)) ∧
        r.extractLsb' 32 16 = BitVec.ofNat 16 (bar s).seen ∧ (r.getLsbD 49 = (v.barWithheld n B true).isSome)))) ∧
  (∀ (s : State) (id b n x due dist : Nat) (w : Word), due ≤ s.mesh →
    let o := barOrigin w
    let B := (s.core o).bar b
    (s.noc = [⟨id, .barArrive b w n x, [], dist, some due, none⟩] →
      (B.desc = some w → (∃ p ∈ barParts w, p ∉ B.counted ++ [(n, x)]) →
        ∃ t, exec (.barrierArrival id) s = .next t ∧ ((t.core o).bar b).counted = B.counted ++ [(n, x)] ∧ t.noc = []) ∧
      (B.desc = some w → (∀ p ∈ barParts w, p ∈ B.counted ++ [(n, x)]) →
        ∃ t, exec (.barrierArrival id) s = .next t ∧ ((t.core o).bar b).counted = [] ∧
          t.noc.map NocItem.m = (barRect w).cores.map (fun k => .barRelease b w k) ∧
          ∀ k ∈ (barRect w).cores, ∃ i ∈ t.noc, i.m = .barRelease b w k ∧ i.due = some (s.mesh + meshDist o k)) ∧
      (B.desc ≠ some w → (B.desc = none ∨ ∃ k, B.desc = some k ∧ ∃ p ∈ barParts k, p ∉ B.counted) →
        ∃ t, exec (.barrierArrival id) s = .next t ∧ ((t.core o).bar b).held = B.held ++ [(w, n, x)] ∧
          ((t.core o).bar b).counted = B.counted)) ∧
    (s.noc = [⟨id, .barRelease b w n, [], dist, some due, none⟩] → ((s.core n).bar b).desc = some w →
      ((s.core n).roses.map Prod.fst).Nodup →
      ∃ t, exec (.barrierRelease id) s = .next t ∧ ((t.core n).bar b).waiting = [] ∧
        (∀ y ∈ ((s.core n).bar b).waiting, AMap.get? ((t.core n).bar b).freed y = some w) ∧
        ((t.core n).bar b).seen = ((s.core n).bar b).seen + 1 ∧
        ∀ r R, AMap.get? (s.core n).roses r = some R →
          (R.bound = true → R.view = false → R.barrier = b →
            ((t.core n).rose r).needle = (if R.needle + 1 < R.slots then R.needle + 1 else 0) ∧
            ((t.core n).rose r).lap = (if R.needle + 1 < R.slots then R.lap else R.lap + 1)) ∧
          (R.bound = false ∨ R.view = true ∨ R.barrier ≠ b → (t.core n).rose r = R)))

/-- ROSEB of a record that passes the checks binds a home with the record's fields, needle and lap 0 and a new generation, or a view of
a bound home of the same place, slots and slot bytes. ROSEQ of an unbound region gives 0 and of a home the lap, the needle and
BOUND. ROSEX leaves the region unbound. A load at offset a of a home's window reads slot (needle + a div SLOTBYTES) mod SLOTS at a
mod SLOTBYTES; past the last slot or across a slot's end it raises 0x52, from an unbound region 0x53, and a store more than LEAD
slots ahead raises 0x51. Rules: R148, R149, R150, R154, R333. -/
def Obligations.RoseRegions : Prop :=
  ∀ (r : BitVec 4) (d a : Opnd) (z : Sz) (m : Mods) (s u v : State) (x : Word) (bs : List Byte), s.cur.2 < 11 →
    let n := s.cur.1
    let R := r.toNat
    let W (i : Nat) : Word := BitVec.ofNat 64 (ofLeBytes ((bs.drop (8 * i)).take 8))
    let w := s.started m
    (s.reads m .int [a] = some ([x], u) → s.Issues (.roseb r a m) m → ctxRead x.toNat 32 u = .ok (bs, v) →
      roseOk (W 0) (W 1) (W 2) (W 3) = true → ∀ hc off, roseBase n (W 0) = some (hc, off) →
      off + (W 1 >>> 32).toNat % 32 * ((W 1).extractLsb' 0 32).toNat ≤ (v.core hc).top →
      ((W 3).getLsbD 4 = false → hc = n → ∃ t, exec (.roseb r a m) s = .next t ∧
        let e := t.me.rose R
        e.bound = true ∧ e.view = false ∧ e.base = BitVec.ofNat 64 off ∧ e.slots = ((W 1).extractLsb' 32 5).toNat ∧
        e.slotbytes = ((W 1).extractLsb' 0 32).toNat ∧ e.lead = ((W 1).extractLsb' 48 4).toNat ∧
        e.barrier = ((W 1).extractLsb' 40 7).toNat ∧ e.needle = 0 ∧ e.lap = 0 ∧ e.gen = (v.me.rose R).gen + 1) ∧
      ((W 3).getLsbD 4 = true → hc ≠ n →
        let h := (v.core hc).rose ((W 3).extractLsb' 0 4).toNat
        h.bound = true → h.view = false → h.base.toNat = off → h.slots = ((W 1).extractLsb' 32 5).toNat →
        h.slotbytes = ((W 1).extractLsb' 0 32).toNat → ∃ t, exec (.roseb r a m) s = .next t ∧
          let e := t.me.rose R
          e.bound = true ∧ e.view = true ∧ e.hcore = hc ∧ e.hregion = ((W 3).extractLsb' 0 4).toNat ∧ e.hgen = h.gen)) ∧
    (s.Issues (.roseq d r m) m → (w.me.rose R).view = false →
      exec (.roseq d r m) s = .next (w.wrote d (if (w.me.rose R).bound then BitVec.ofNat 64
        ((w.me.rose R).lap.toNat + (w.me.rose R).needle * 2 ^ 32 + 2 ^ 36) else 0))) ∧
    (s.Issues (.rosex r m) m → ∃ t, exec (.rosex r m) s = .next t ∧ (t.me.rose R).bound = false) ∧
    (s.reads m .int [a] = some ([x], u) → s.Issues (.ld d a z 0 m) m → m.len = .w → u.flight = [] → s.my.pend = [] →
      ∀ off, u.classify n x.toNat (Sz.bytes z) = .ok (.rose R off) →
      let e := u.me.rose R
      let at0 := e.base.toNat + (e.needle + off / e.slotbytes) % e.slots * e.slotbytes + off % e.slotbytes
      (e.bound = false → e.view = false → exec (.ld d a z 0 m) s = .next (s.raiseIn n s.cur.2 0x53 x s.my.pc m.len.words)) ∧
      (e.bound = true → e.view = false →
        (e.slots ≤ off / e.slotbytes ∨ e.slotbytes < off % e.slotbytes + Sz.bytes z →
          exec (.ld d a z 0 m) s = .next (s.raiseIn n s.cur.2 0x52 x s.my.pc m.len.words)) ∧
        (off / e.slotbytes < e.slots → off % e.slotbytes + Sz.bytes z ≤ e.slotbytes →
          exec (.ld d a z 0 m) s = .next ((u.setMe (u.me.scrServe at0 (Sz.bytes z))).wrote d
            (widened (Sz.ty z) (BitVec.ofNat (8 * Sz.bytes z) (u.me.scrRead true at0 (Sz.bytes z)))))))) ∧
    (∀ y off, s.reads m .int [a, d] = some ([x, y], u) → s.Issues (.st d a z 0 m) m → m.len = .w → s.my.pend = [] →
      u.classify n x.toNat (Sz.bytes z) = .ok (.rose R off) → (u.me.rose R).bound = true → (u.me.rose R).view = false →
      off / (u.me.rose R).slotbytes < (u.me.rose R).slots → off % (u.me.rose R).slotbytes + Sz.bytes z ≤ (u.me.rose R).slotbytes →
      (u.me.rose R).lead < off / (u.me.rose R).slotbytes →
      exec (.st d a z 0 m) s = .next (s.raiseIn n s.cur.2 0x51 x s.my.pc m.len.words))

/-- With room in the send queue, no reserved bit, a format and a length that the grant's slot holds, and a target that the core reaches,
MSENDR with LEN 8 and MSEND enter a message with the header of R176 (context, format, length, mailbox, sender), its payload narrowed
by the format, after the release at the scope of both cores. Without a grant they raise 0x80. The network interface sends the head
of the queue with one of the grant's free allowances; it arrives whole at the mailbox, is stored last, and is folded into the wake
digest. The network interface sends the message at the head of the send queue, once what it follows is complete, with a free
allowance of its grant. Where no running phase holds a link on the way, as it arrives at a bound mailbox outside replay it is stored
last, and the core's wake digest takes the header and then the CRC32C of the payload. An allowance that returns to a grant of the
same generation is free again. MBIND_COMPLETE with no message stored or on its way binds the mailbox and sends each producer core a
grant with ALLOW allowances of SLOT bytes; a grant that arrives is recorded unless its generation is over, and the last one gives
the waiting MBIND its answer. Rules: R114, R169, R174, R175, R176, R335, R177, R225. -/
def Obligations.MessagesAreSentAndTravel : Prop :=
  (∀ (d a c : Opnd) (m : Mods) (s u v r : State) (w x : Word) (bs : List Byte) (after : List Nat), s.cur.2 < 11 →
    let n := s.cur.1
    let k := coreAt (w.extractLsb' 0 5).toNat (w.extractLsb' 5 5).toNat
    let mb := (w.extractLsb' 10 4).toNat
    let len := (w.extractLsb' 14 10).toNat
    let fmt := (w.extractLsb' 24 3).toNat
    let key := k * 16 + mb
    let hdr : Word := 0#33 ++ BitVec.ofNat 4 s.cur.2 ++ BitVec.ofNat 3 fmt ++ BitVec.ofNat 10 len ++ BitVec.ofNat 4 mb ++
      BitVec.ofNat 5 (n / 32) ++ BitVec.ofNat 5 n
    let ok := n < 1024 ∧ s.me.sendq.length < 2 ∧ w.extractLsb' 27 37 = 0#37 ∧ fmt ≠ 7 ∧ len ≤ 512 ∧ (fmt = 0 ∨ len % 4 = 0) ∧
      u.reach n (partOf k) = true
    let fits := ∃ g, AMap.get? u.me.grants key = some g ∧ len ≤ g.slotBytes
    let queued (i : Instr) (data : List Byte) : Prop := ∃ t, exec i s = .next t ∧ t.my.pc = nextPc s.my.pc m ∧
      t.me.sendq = s.me.sendq ++ [.msg k mb hdr (narrowData fmt data) after]
    (s.reads m .int [a, d] = some ([w, x], u) → s.Issues (.msendr d a c m) m → ok → len = 8 → fits →
      u.releaseActs n s.cur.2 (msgScope n k) = (after, r) → queued (.msendr d a c m) (leBytes 8 x.toNat)) ∧
    (s.reads m .int [a, d] = some ([w, x], u) → s.Issues (.msendr d a c m) m → ok → len = 8 → s.my.pend = [] →
      AMap.get? u.me.grants key = none →
      exec (.msendr d a c m) s = .next (s.raiseIn n s.cur.2 0x80 (BitVec.ofNat 64 mb) s.my.pc m.len.words)) ∧
    (s.reads m .int [a, c] = some ([w, x], u) → s.Issues (.msend a c m) m → ok → fits →
      (∃ win off, winOf x.toNat = some (win, off) ∧ win ≤ 2) →
      (len = 0 → u.releaseActs n s.cur.2 (msgScope n k) = (after, r) → queued (.msend a c m) []) ∧
      (len ≠ 0 → (u.classify n x.toNat len).toOption.isSome = true → ctxRead x.toNat len u = .ok (bs, v) → v.me.sendq = s.me.sendq →
        v.releaseActs n s.cur.2 (msgScope n k) = (after, r) → queued (.msend a c m) bs))) ∧
  (∀ (s : State) (id n k mb due dist : Nat) (hdr : Word) (data : List Byte) (rest : List SendCmd) (g : Grant) (msg : Msg), due ≤ s.mesh →
    let key := k * 16 + mb
    ((s.core n).sendq = .msg k mb hdr data [] :: rest → AMap.get? (s.core n).grants key = some g → 0 < g.free →
      s.linkBusy n k = false → ∃ t, exec (.messageSend n) s = .next t ∧ (t.core n).sendq = rest ∧
        AMap.get? (t.core n).grants key = some { g with free := g.free - 1 } ∧
        ∃ i ∈ t.noc, i.m = .msg k mb { hdr := hdr, data := data, src := n, gen := g.gen } ∧ i.due = some (s.mesh + meshDist n k)) ∧
    (s.linkBusy msg.src k = false → s.noc = [⟨id, .msg k mb msg, [], dist, some due, none⟩] → ((s.core k).mbox mb).word ≠ none → s.replaying k = false →
      ∃ t, exec (.messageArrival id) s = .next t ∧ ((t.core k).mbox mb).msgs = ((s.core k).mbox mb).msgs ++ [msg] ∧ t.noc = [] ∧
        t.reg (Pf.dbg k 0x198) = foldDigest (foldDigest (s.reg (Pf.dbg k 0x198)) msg.hdr) ((crc32c msg.wide).setWidth 64)) ∧
    (s.linkBusy k n = false → s.noc = [⟨id, .allowance n k mb g.gen, [], dist, some due, none⟩] → AMap.get? (s.core n).grants key = some g →
      ∃ t, exec (.allowanceReturn id) s = .next t ∧ AMap.get? (t.core n).grants key = some { g with free := g.free + 1 } ∧ t.noc = []) ∧
    (∀ w r, (s.core k).mboxes = [(mb, { word := none, msgs := [], gen := g.gen, rebind := some r })] → r.word = w → s.noc = [] →
      ∃ t, exec (.mbindComplete k) s = .next t ∧ ((t.core k).mbox mb).word = some w ∧
        t.noc.map NocItem.m = (bindRect w).cores.map (fun j => .grant j k mb
          ⟨g.gen, 8 * (w.extractLsb' 4 10).toNat, (w.extractLsb' 14 3).toNat⟩)) ∧
    (s.linkBusy k n = false → s.noc = [⟨id, .grant n k mb g, [], dist, some due, none⟩] →
      g.gen ≠ ((s.core k).mbox mb).gen → ((s.core k).mbox mb).rebind = none →
      ∃ t, exec (.mailboxGrant id) s = .next t ∧ AMap.get? (t.core n).grants key = AMap.get? (s.core n).grants key ∧ t.noc = []) ∧
    (∀ r, s.linkBusy k n = false → s.noc = [⟨id, .grant n k mb g, [], dist, some due, none⟩] →
      g.gen = ((s.core k).mbox mb).gen → ((s.core k).mbox mb).rebind = some r → r.ctx < 11 →
      r.id ∈ (s.ctx k r.ctx).block →
      ∃ t, exec (.mailboxGrant id) s = .next t ∧ AMap.get? (t.core n).grants key = some g ∧ (t.ctx k r.ctx).answer = some (0, 0) ∧
        r.id ∉ (t.ctx k r.ctx).block ∧ ((t.core k).mbox mb).rebind = none))

/-- MRECV takes the oldest visible message: its payload, widened, is written at the destination, the header goes to the destination
register and lr, the message leaves the mailbox and its allowance sets out to the sender. An empty, unbound mailbox raises 0x80;
with a bound mailbox that holds nothing and is not withheld the instruction has issued and waits, and a wait whose limit has run out
returns 2^63. MBIND with its checks passed revokes the old grants, leaves the mailbox unbound in a new generation, and waits; while
another binding of the mailbox is under way it does not issue (the model's choice, log entry 110). Where they issue, or go on: MRECV
with a visible message of LEN 0, or of a payload for the own scratchpad with no access of the core to be performed, completes, with
the payload there; MRECVR with a visible message of LEN 8 or 16 and two free entries pushes the first and, for LEN 16, the second
doubleword to its queue and completes. Both write the header to their destination and lr, take the message out and send its
allowance back. MSTAT of a mailbox number gives WITHHELD, BOUND, SLOTS and HELD. An MBIND that has the answer 0 completes; with the
answer 0x81 it raises that cause. Rules: R173, R174, R175, R176, R177, R336, R227, R108. -/
def Obligations.MessagesAreReceived : Prop :=
  (∀ (d a c : Opnd) (m : Mods) (s u v : State) (x : Word) (g : Msg) (rest : List Msg), s.cur.2 < 11 →
    let n := s.cur.1
    let mb := (x.extractLsb' 0 4).toNat
    let box (t : State) : Mailbox := t.me.mbox mb
    let dest : Word := x &&& 0xFFFFFFFFFFFFFFF0#64
    let len := (g.hdr.extractLsb' 14 10).toNat
    let window := ∃ k off, winOf dest.toNat = some (k, off) ∧ (k ≤ 2 ∨ k = 6)
    (m.len = .w → s.reads m .int [a] = some ([x], u) → s.Issues (.mrecv d a c m) m →
      ((box u).word = none → (box u).msgs = [] → s.my.pend = [] →
        exec (.mrecv d a c m) s = .next (s.raiseIn n s.cur.2 0x80 (BitVec.ofNat 64 mb) s.my.pc m.len.words)) ∧
      (window → (box u).msgs = g :: rest → g.hidden = false → (len = 0 → v = u) →
        (len ≠ 0 → (u.classify n dest.toNat len).toOption.isSome = true ∧ ctxWrite dest.toNat g.wide u = .ok ((), v) ∧ box v = box u ∧ v.my = u.my ∧ v.cur = u.cur) →
        ∃ t, exec (.mrecv d a c m) s = .next t ∧ t.my.lr = g.hdr ∧ t.my.pc = nextPc s.my.pc m ∧ (box t).msgs = rest ∧
          ∃ i ∈ t.noc, i.m = .allowance g.src n mb g.gen ∧ i.dist = meshDist n g.src) ∧
      (window → (box u).seen = [] → (box u).word ≠ none → s.my.wait = none → u.mboxWithheld n mb = none →
        ∃ t, exec (.mrecv d a c m) s = .next t ∧ t.my.pc = s.my.pc ∧ t.my.lr = s.my.lr ∧ t.my.doing = some (.mrecv d a c m) ∧
          t.my.wait.map Wait.on = some (.mailbox mb))) ∧
    (m.len = .w → s.GoesOn (.mrecv d a c m) [x] → window → (box s).seen = [] → (box s).word ≠ none →
      (∃ k, s.my.wait = some k ∧ k.on = .mailbox mb ∧ k.expired = true) →
      ∃ t, exec (.mrecv d a c m) s = .next t ∧ s.gave t m d 0x8000000000000000) ∧
    (s.reads m .int [a] = some ([x], u) → s.Issues (.mbind a m) m → s.my.answer = none → bindOk x = true →
      (∀ k ∈ (bindRect x).cores, u.reach n (partOf k) = true) →
      (bindRect x).cores.length * (x.extractLsb' 14 3).toNat ≤ 512 / (8 * (x.extractLsb' 4 10).toNat) → (box u).msgs = [] →
      ((box u).rebind ≠ none → exec (.mbind a m) s = .next s) ∧ ((box u).rebind = none →
      ∃ t, exec (.mbind a m) s = .next t ∧ t.my.pc = s.my.pc ∧ t.my.block ≠ [] ∧ (box t).word = none ∧ t.my.doing = some (.mbind a m) ∧
        (box t).gen = (box s).gen + 1 ∧ (∃ r, (box t).rebind = some r ∧ r.word = x ∧ r.ctx = s.cur.2 ∧ r.id ∈ t.my.block) ∧
        ∀ k ∈ s.cores, AMap.get? (t.core k.1).grants (n * 16 + mb) = none))) ∧
  (∀ (d a c : Opnd) (m : Mods) (s u : State) (x : Word) (g : Msg) (rest : List Msg), s.cur.2 < 11 →
    let n := s.cur.1
    let mb := (x.extractLsb' 0 4).toNat
    let box (t : State) : Mailbox := t.me.mbox mb
    let dest : Word := x &&& 0xFFFFFFFFFFFFFFF0#64
    let len := (g.hdr.extractLsb' 14 10).toNat
    let off := dest.toNat - ownBase
    let took (t : State) : Prop := (box t).msgs = rest ∧ ∃ i ∈ t.noc, i.m = .allowance g.src n mb g.gen ∧ i.dist = meshDist n g.src
    let got (t : State) : Prop := t.my.lr = g.hdr ∧ t.my.pc = nextPc s.my.pc m ∧ t.my.doing = none ∧ took t
    let own (w : State) : Prop := (w.flight.all (fun e => e.core ≠ n || e.performed)) = true ∧ w.me.scratch ≤ 256 ∧ ownBase ≤ dest.toNat ∧
      off + len ≤ w.me.top ∧ g.wide.length = len
    let q := x.toNat / 16
    (m.len = .w → s.reads m .int [a] = some ([x], u) → s.Issues (.mrecv d a c m) m → (box u).msgs = g :: rest → g.hidden = false →
      (len = 0 → (∃ k o, winOf dest.toNat = some (k, o) ∧ k ≤ 2) → ∃ t, exec (.mrecv d a c m) s = .next t ∧ got t) ∧
      (len ≠ 0 → own u → ∃ t, exec (.mrecv d a c m) s = .next t ∧ got t ∧
        ((∀ k, d = .g k → off + len ≤ gAddr s.my.wsp k.toNat ∨ gAddr s.my.wsp k.toNat + 8 ≤ off) → u.me.scr.wf = true →
          ∀ j, j < len → t.ownByte n (off + j) = (g.wide.getD j 0).toNat))) ∧
    (m.len = .w → s.GoesOn (.mrecv d a c m) [x] → (box s).msgs = g :: rest → g.hidden = false → len ≠ 0 → own s →
      ∃ t, exec (.mrecv d a c m) s = .next t ∧ s.gave t m d g.hdr ∧ took t) ∧
    (m.len = .w → s.reads m .int [a] = some ([x], u) → s.Issues (.mrecvr d a c m) m → x.toNat < 128 → u.my.resv = none →
      (u.me.q q).ents.length ≤ 6 → (∀ e ∈ (u.me.q q).ents, e.id < u.nextId) → (box u).msgs = g :: rest → g.hidden = false →
      len = 8 ∨ len = 16 → ∃ t, exec (.mrecvr d a c m) s = .next t ∧ got t ∧ ((∀ k : BitVec 3, d = .q k → k.toNat ≠ q) →
        (t.me.q q).ents.map QEntry.val = (u.me.q q).ents.map QEntry.val ++
          (some (BitVec.ofNat 64 (ofLeBytes (g.wide.take 8))) ::
            if len = 16 then [some (BitVec.ofNat 64 (ofLeBytes (g.wide.drop 8)))] else []))) ∧
    (s.reads m .int [a] = some ([x], u) → s.Issues (.mstat d a m) m → x.toNat < 16 →
      exec (.mstat d a m) s = .next (u.wrote d (BitVec.ofNat 64 ((if (u.mboxWithheld n mb).isSome then 131072 else 0) +
        (match (box u).word with
          | some w => 65536 + 512 / (8 * (w.extractLsb' 4 10).toNat) * 256
          | none => 0) + (box u).seen.length)))) ∧
    (∀ y, s.GoesOn (.mbind a m) [x] → s.my.answer = some (0, y) → ∃ t, exec (.mbind a m) s = .next t ∧ t.my.pc = nextPc s.my.pc m ∧
      t.my.doing = none ∧ t.my.answer = none ∧ t.my.lr = s.my.lr) ∧
    (∀ y, s.GoesOn (.mbind a m) [x] → s.my.answer = some (0x81, y) → s.my.pend = [] →
      exec (.mbind a m) s = .next ((s.setMy { s.my with answer := none }).causeIn n s.cur.2 0x81 (BitVec.ofNat 64 mb) s.my.pc m.len.words)))

/-- The phase releases, as a mesh cycle begins, on every core of its rectangle once all of them wait in TTGO and no round of a fix uses
the links, and then TTGO completes. A TTSEND whose offset's cycle has come injects its word, readable at the destination 2 mesh
cycles and the cycles of its links later, which is the distance where no link is fenced; one that comes after that cycle raises 0x57
with FADDR the offset. A TTRECV gets the word that is readable at its offset, and 0 with the damage flag where there is none. The
TTEND meeting ends the phase on all of its cores together; TTEND then completes, or raises 0x56 where the damage flag is set. An
early TTSEND or TTRECV completes once its offset has been reached. TTQ gives the offset, RUNNING and the damage flag, and 0 outside
a phase. Rules: R179, R180, R181, R337. -/
def Obligations.TimetablePhases : Prop :=
  ∀ (d a : Opnd) (m : Mods) (s u : State) (w x : Word) (p : Phase), s.cur.2 < 11 →
    let n := s.cur.1
    let off := (w.extractLsb' 0 16).toNat
    let k := coreAt (w.extractLsb' 16 5).toNat (w.extractLsb' 21 5).toNat
    let due := p.release.getD 0 + 1 + off
    let running := p.release ≠ none ∧ p.ended = false
    s.me.phase = some p →
    (s.GoesOn (.ttgo a m) [w] → p.ctx = s.cur.2 → p.release ≠ none → (∃ q, s.my.wait = some q ∧ q.on = .phase ∧ q.arrived = true) →
      ∃ t, exec (.ttgo a m) s = .next t ∧ t.my.pc = nextPc s.my.pc m ∧ t.my.doing = none ∧ t.my.wait = none ∧ t.my.lr = s.my.lr) ∧
    (∀ i ∈ [Instr.ttsend d a m, .ttrecv d a m], (∃ q, s.my.wait = some q ∧ q.on = (if i = .ttsend d a m then .inject else .phase) ∧
      q.expired = true) → m.len = .w →
      (i = .ttsend d a m → s.GoesOn i [w, x] → ∃ t, exec i s = .next t ∧ t.my.pc = nextPc s.my.pc m ∧ t.my.doing = none ∧ t.my.lr = s.my.lr) ∧
      (∀ c y, i = .ttrecv d a m → s.GoesOn i [w] → s.my.answer = some (c, y) → ∃ t, exec i s = .next t ∧ s.gave t m d y)) ∧
    (s.reads m .int [a, d] = some ([w, x], u) → s.Issues (.ttsend d a m) m → running → m.len = .w → s.my.wait = none →
      w.extractLsb' 26 38 = 0#38 → (rectOfWord p.rect).has k = true →
      (due ≤ s.mesh → s.cyc ≤ 2 * due → s.noc = [] →
        ∃ t i, exec (.ttsend d a m) s = .next t ∧ t.my.pc = nextPc s.my.pc m ∧ t.noc = [i] ∧
          i.due = some (p.release.getD 0 + s.ttReadable n k off) ∧ ∃ e, i.m = .ttWord ⟨e, n, k, off, x, false⟩) ∧
      (2 * due < s.cyc → s.my.pend = [] →
        exec (.ttsend d a m) s = .next (s.raiseIn n s.cur.2 0x57 (BitVec.ofNat 64 off) s.my.pc m.len.words))) ∧
    (s.reads m .int [a] = some ([w], u) → s.Issues (.ttrecv d a m) m → running → m.len = .w → s.my.wait = none →
      w.extractLsb' 16 48 = 0#48 → u.phaseWithheld p.rect (u.ttOffset p) false = none → due ≤ s.mesh → s.cyc ≤ 2 * due →
      (∀ v bad rest, p.arrived = (off, v, bad) :: rest →
        ∃ t, exec (.ttrecv d a m) s = .next t ∧ t.my.lr = (if bad then 0 else v) ∧ t.my.pc = nextPc s.my.pc m ∧
          t.me.phase.map Phase.damage = some (p.damage || bad)) ∧
      (p.arrived = [] → ∃ t, exec (.ttrecv d a m) s = .next t ∧ t.my.lr = 0 ∧ t.me.phase.map Phase.damage = some true)) ∧
    (s.Issues (.ttend m) m → p.ended = true →
      (p.damage = false → ∃ t, exec (.ttend m) s = .next t ∧ t.me.phase = none ∧ t.my.pc = nextPc s.my.pc m) ∧
      (p.damage = true → s.my.pend = [] → ∃ t, exec (.ttend m) s = .next t ∧ t.my.cause.extractLsb' 0 8 = 0x56#8 ∧
        t.me.phase.map Phase.damage = some false ∧ ((s.releaseActs n s.cur.2 .sys).1 = [] → t.my.st = .halted) ∧
        ((s.releaseActs n s.cur.2 .sys).1 ≠ [] → t.my.halting = some (0x56, s.my.pc, none)))) ∧
    (s.GoesOn (.ttend m) [] → p.ended = true → p.damage = false →
      ∃ t, exec (.ttend m) s = .next t ∧ t.me.phase = none ∧ t.my.pc = nextPc s.my.pc m ∧ t.my.doing = none) ∧
    (s.Issues (.ttq d m) m → exec (.ttq d m) s = .next ((s.started m).wrote d (match p.release with
      | some r => if p.ended then 0 else BitVec.ofNat 64 ((s.mesh - (r + 1)) % 65536 + 65536 + (if p.damage then 131072 else 0))
      | none => 0))) ∧
    (∀ c c' t, s.dev.fencedLinks = [] → c < 1024 → c' < 1024 → s.ttReadable c c' t = t + 2 + meshDist c c') ∧
    (s.cyc % 2 = 0 → (∀ i ∈ s.noc, i.phase = none) →
      (∀ c ∈ (rectOfWord p.rect).cores, ∃ q, (s.core c).phase = some q ∧ q.rect = p.rect ∧ q.release = none) →
      ∃ t, exec (.timetableRelease n) s = .next t ∧
        ∀ c ∈ (rectOfWord p.rect).cores, (t.core c).phase.map Phase.release = some (some s.mesh)) ∧
    (running → (∀ c ∈ (rectOfWord p.rect).cores, ∃ q, (s.core c).phase = some q ∧ q.rect = p.rect ∧ q.release ≠ none ∧
        q.ended = false ∧ q.ending = true) →
      ∃ t, exec (.timetableEnd n) s = .next t ∧ ∀ c ∈ (rectOfWord p.rect).cores, (t.core c).phase.map Phase.ended = some true) ∧
    (∀ id e src v bad dist at0, running → s.noc = [⟨id, .ttWord ⟨e, src, n, off, v, bad⟩, [], dist, some at0, none⟩] → at0 ≤ s.mesh →
      ∃ t, exec (.timetableWordArrival id) s = .next t ∧ t.noc = [] ∧ t.me.phase.map Phase.arrived =
        some (p.arrived ++ [(s.ttReadable src n off, if bad then 0 else v, bad)])) ∧
    (∀ q, running → s.my.st = .live → s.my.wait = some q → q.on = .phase → q.expired = false →
      s.my.tt = some (false, k, off, x) → due ≤ s.mesh → p.arrived = [] →
      ∃ t, exec (.timetableOffsetReached n s.cur.2) s = .next t ∧ t.my.answer = some (0, 0) ∧
        t.my.wait.map Wait.expired = some true ∧ t.me.phase.map Phase.damage = some true)

/-- FXDEF checks its descriptor in R184's order (0x02, 0x04, 0x02, 0x02, the result area's cause, 0x55), makes the lowest free slot of
its core a live fix of the next generation with an empty fold for each agent, opens the agents' buffers and gives the handle. FXJOIN
records the caller under its rank. FXC enters the contribution in the send queue after the release at the fix's scope. FXW gives the
status word of the last completed round where that is not before its tag, after the acquire; with bit 25 set it gives a withheld
open round at once; on its limit it sets TIMEOUT, with CONTRIB and QLOST of the last completed round, or 0 where there is none: the
model's choice (log entry 39); else it waits. FXQ gives the state word. FXLV departs, and the other devices of the fix are to be
told of it. A stale handle raises 0x54 with FADDR the handle. Rules: R182, R183, R184, R187, R190, R195, R338. -/
def Obligations.FixInstructions : Prop :=
  ∀ (d a c : Opnd) (m : Mods) (s u v s1 w : State) (ea x y z : Word) (bs : List Byte) (t : List Word) (i r : Nat) (f : FixObj)
    (after : List Nat), s.cur.2 < 11 →
    let n := s.cur.1
    let h : BitVec 32 := x.setWidth 32
    let raised (j : Instr) (c : BitVec 8) (g : Word) : Prop := s.my.pend = [] →
      exec j s = .next (s.raiseIn n s.cur.2 c g s.my.pc m.len.words)
    let scope : Scope := Scope.ofCode (BitVec.ofNat 4 (fxScope f.desc))
    (s.reads m .int [a] = some ([ea], u) → s.Issues (.fxdef d a m) m → ea.extractLsb' 0 3 = 0#3 →
      ctxRead ea.toNat 64 u = .ok (bs, v) → v.cur = s.cur →
      let e : Line := BitVec.ofNat 512 (ofLeBytes bs)
      let bad := raised (.fxdef d a m)
      let enc := encOf (.fxdef d a m) m
      let known := fxType e = 4 ∨ fxType e = 8 ∨ fxType e = 9
      (fxOk1 e = false → bad 0x02 enc) ∧
      (fxOk1 e = true → ¬ known → bad 0x04 enc) ∧
      (fxOk1 e = true → known → v.fxMembers n e = none → (s.fxReads n e).cur = s.cur → (s.fxReads n e).my = s.my → s.my.pend = [] →
        exec (.fxdef d a m) s = .next ((s.fxReads n e).raiseIn n s.cur.2 0x02 enc s.my.pc m.len.words)) ∧
      (fxOk1 e = true → known → v.fxMembers n e = some t → fxOk5 e = false → bad 0x02 enc) ∧
      let v' := v.fxReads n e
      v'.cur = s.cur →
      (fxOk1 e = true → known → v.fxMembers n e = some t → fxOk5 e = true → ∀ k, v'.fxResultOk n e (v'.fxResolve n e) = .error k →
        bad k.1 (BitVec.ofNat 64 k.2)) ∧
      (fxOk1 e = true → known → v.fxMembers n e = some t → fxOk5 e = true → v'.fxResultOk n e (v'.fxResolve n e) = .ok s1 →
        s1.cur = s.cur →
        ((∀ j : Nat, j < 16 → (s1.me.fixObj j).live = true) → bad 0x55 0) ∧
        (i < 16 → (s1.me.fixObj i).live = false → (∀ j : Nat, j < i → (s1.me.fixObj j).live = true) →
          (let g : FixObj := { gen := (s1.me.fixObj i).gen + 1, desc := e, alg := v'.fxResolve n e, table := t }
           ∀ k ∈ s1.fxAgents g, s1.agentReady (s1.handleOf n i g.gen) g k = true) →
          ∃ g : FixObj, g.live = true ∧ g.gen = (s1.me.fixObj i).gen + 1 ∧ g.desc = e ∧ g.alg = v'.fxResolve n e ∧ g.table = t ∧
            g.joined = [] ∧ g.departed = [] ∧ (∀ k, g.fold k = {}) ∧
            let hd := s1.handleOf n i g.gen
            exec (.fxdef d a m) s = .next (((s1.fxAgents g).foldl (fun q k => q.openBuffer hd g k 0)
              (s1.setMe (s1.me.setFix i g))).wrote d (hd.setWidth 64))))) ∧
    (s.reads m .int [a] = some ([x], u) → s.Issues (.fxjoin a m) m → x.extractLsb' 48 16 = 0#16 →
      (u.fix h = none → raised (.fxjoin a m) 0x54 (h.setWidth 64)) ∧
      (u.fix h = some f → (x.extractLsb' 32 16).toNat = r → r < fxN f.desc → u.rankPlace f r = (u.regF Pf.fabSelf 0 12, n) →
        (∀ j ∈ f.joined, j.1 ≠ r) → r ∉ f.departed →
        exec (.fxjoin a m) s = .next (u.setFixObj h { f with joined := f.joined ++ [(r, n, s.cur.2)] }).endIssue)) ∧
    (s.reads m .int [a, c, d] = some ([y, z, x], u) → s.Issues (.fxc d a c m) m → s.me.sendq.length < 2 →
      (u.fix h = none → raised (.fxc d a c m) 0x54 (h.setWidth 64)) ∧
      (u.fix h = some f → f.rankOf n s.cur.2 = none → raised (.fxc d a c m) 0x54 (h.setWidth 64)) ∧
      (∀ e p, u.fix h = some f → f.rankOf n s.cur.2 = some r → u.checkRange n y.toNat (fxCount f.desc * fxE f.desc) = .error (e, p) →
        raised (.fxc d a c m) e (BitVec.ofNat 64 p)) ∧
      (u.fix h = some f → f.rankOf n s.cur.2 = some r → u.checkRange n y.toNat (fxCount f.desc * fxE f.desc) = .ok s1 → s1.cur = s.cur →
        s1.releaseActs n s.cur.2 scope = (after, w) →
        exec (.fxc d a c m) s = .next (w.setMe { w.me with sendq := w.me.sendq ++
          [.fix h (z.setWidth 32) r y (after ++ s1.ctxAccesses n s.cur.2)] }).endIssue)) ∧
    (f.rankOf n s.cur.2 = some r → (m.len.ext = false → z = 0) →
      let k := f.agentOf r
      let ask := m.len.ext && m.mod.getLsbD 1
      let word (tag : BitVec 32) (cnt : Nat) (held lost lag late : Bool) : Word := 0#12 ++ BitVec.ofBool late ++ BitVec.ofBool lag ++
        BitVec.ofBool lost ++ BitVec.ofBool held ++ BitVec.ofNat 16 cnt ++ tag
      let tag : BitVec 32 := z.setWidth 32
      let on : WaitOn := if ask then .fixq h tag else .fix h tag
      let vs : List Word := if m.len.ext then [x, z] else [x]
      let fo (q : State) : Fold := q.foldSeen h f k
      let lag (q : State) : Bool := (fo q).lagging.contains r
      let done (q : State) : Prop := ∃ l, (fo q).last = some l ∧ 0 ≤ (l.1 - tag).toInt
      let last (q : State) (late : Bool) : Word :=
        let l := (fo q).last.getD (0, 0, false)
        word l.1 l.2.1 false l.2.2 (lag q) late
      (s.reads m .int (if m.len.ext then [a, c] else [a]) = some (vs, u) → s.Issues (.fxw d a c m) m → u.fix h = some f → s.my.wait = none →
        (done u → exec (.fxw d a c m) s = .next ((u.acquireActs n scope).wrote d (last u false))) ∧
        (¬ done u → u.roundWithheld f k = true → ask = true →
          exec (.fxw d a c m) s = .next (u.wrote d (word (fo u).tag (f.cOf k) true false (lag u) false))) ∧
        (¬ done u → u.roundWithheld f k = false → ∃ t, exec (.fxw d a c m) s = .next t ∧ t.my.pc = s.my.pc ∧ t.my.lr = s.my.lr ∧
          t.my.doing = some (.fxw d a c m) ∧ t.my.held = vs ∧
          ∃ w, t.my.wait = some w ∧ w.on = on ∧ w.limit = (if m.len.ext then m.imm32.toNat else 0) ∧ w.expired = false) ∧
        (¬ done u → u.roundWithheld f k = true → ask = false → s.my.pend = [] → u.noSpread n = false →
          exec (.fxw d a c m) s = .next ((s.takeSlot n s.cur.2).haltWithheld n s.cur.2 (u.fixUpstream h f k)))) ∧
      (s.GoesOn (.fxw d a c m) vs → s.fix h = some f →
        (done s → ∃ t, exec (.fxw d a c m) s = .next t ∧ s.gave t m d (last s false)) ∧
        (¬ done s → s.roundWithheld f k = true → ask = true →
          ∃ t, exec (.fxw d a c m) s = .next t ∧ s.gave t m d (word (fo s).tag (f.cOf k) true false (lag s) false)) ∧
        (¬ done s → s.roundWithheld f k = false → (∃ w, s.my.wait = some w ∧ w.on = on ∧ w.expired = true) →
          ∃ t, exec (.fxw d a c m) s = .next t ∧ s.gave t m d (last s true)))) ∧
    (s.reads m .int [a] = some ([x], u) → s.Issues (.fxq d a m) m → u.fix h = some f → f.rankOf n s.cur.2 = some r →
      exec (.fxq d a m) s = .next (u.wrote d (u.fxqWord n h f (f.agentOf r)))) ∧
    (s.reads m .int [a] = some ([x], u) → s.Issues (.fxq d a m) m → u.fix h = some f → f.rankOf n s.cur.2 = none →
      exec (.fxq d a m) s = .next (u.wrote d (u.fxqWord n h f ((f.folds.head?.map Prod.fst).getD 0)))) ∧
    (s.reads m .int [a] = some ([x], u) → s.Issues (.fxlv a m) m → u.fix h = some f → f.rankOf n s.cur.2 = some r → r ∉ f.departed →
      let g0 : FixObj := { f with departed := r :: f.departed, joined := f.joined.filter (fun j => j.1 ≠ r) }
      let g : FixObj := { g0 with folds := g0.folds.map (fun p => (p.1, { p.2 with quorumLost := p.2.quorumLost || g0.losesQuorum p.1 })) }
      exec (.fxlv a m) s = .next (u.depart h r).endIssue ∧
      let t := (u.setFixObj h g).tellDeparted h g r
      ((∀ p ∈ f.folds, t.closes g p.1 = false) → exec (.fxlv a m) s = .next t.endIssue) ∧
      t.dev.told = (u.setFixObj h g).dev.told ++
        if ((u.setFixObj h g).rankPlace g r).1 = u.selfDev then ((u.setFixObj h g).otherDevs g).map (fun v => (v, h, r)) else [])

/-- Under RANK order, a contribution that is a copy of one received adds nothing and counts in DUPS; one for the open round is kept on
time and the rank's lagging mark is cleared; one that is 1 to L rounds late is kept with its weight, or under DROP discarded and
counted in LATE_DROPPED, and recorded as received; one later than that, or two or more rounds early, is rejected, counted in
REJ_LATE or REJ_AHEAD, and marks its rank; one exactly one round early is held. One that is kept or held is also stored, but for a
gather, in the staging slot of its tag and rank. Said where no round closes by it and no timetable phase holds the links to the
result area; the k-th on-time contribution closes the round and opens the next. A base-die fold adds its term to the word of the
round's buffer; where the line has an uncorrectable error it sets FOLDERR instead. Rules: R186, R190, R191, R193, R194, R17, R403. -/
def Obligations.ContributionsAreJudged : Prop :=
  ∀ (s : State) (id k dist due : Nat) (h : BitVec 32) (c : Contrib) (f : FixObj), due ≤ s.mesh →
    let q : State := { s with noc := [] }
    let fo := f.fold k
    let l : Int := (fo.tag - c.tag).toInt
    let stat (lo : Nat) : State := q.setRegF (Pf.fxStat (partOf (q.agentCore h f k))) lo 16
      (min (q.regF (Pf.fxStat (partOf (q.agentCore h f k))) lo 16 + 1) 0xFFFF)
    let seen : List (BitVec 32 × Nat × Nat) := fo.seen ++ [(c.tag, c.rank, c.chunk)]
    let marked : Fold := { fo with lagging := if c.rank ∈ fo.lagging then fo.lagging else c.rank :: fo.lagging }
    let becomes (t : State) (g : Fold) : Prop := t.closes (f.setFold k g) k = false →
      exec (.fixContributionArrival id) s = .next (t.setFixObj h (f.setFold k g))
    let staged : State := q.stageContrib h f k c
    (s.noc = [⟨id, .fix h k c, [], dist, some due, none⟩] → q.fix h = some f →
      (c.port = 64 → s.linkBusy (s.rankPlace f c.rank).2 (s.agentCore h f k) = false) → q.agentReady h f k = true → fxArrival f.desc = false → fo.stopped = false →
      (fxOp f.desc ≠ 3 → staged = q.agentWrite (q.agentCore h f k) ((fxResult f.desc).toNat + 2 * fxBuf f.desc +
        (c.tag.toNat % (fxLag f.desc + 2) * fxN f.desc + c.rank) * align 8 (fxCount f.desc * fxE f.desc))
        (valBytes f.desc (c.vals.map BitVec.toNat))) ∧ (fxOp f.desc = 3 → staged = q) ∧
      ((c.tag, c.rank, c.chunk) ∈ fo.seen → (stat 48).closes f k = false → exec (.fixContributionArrival id) s = .next (stat 48)) ∧
      ((c.tag, c.rank, c.chunk) ∉ fo.seen →
        (l = 0 → becomes staged { fo with onTime := fo.onTime ++ [c], seen := seen, lagging := fo.lagging.filter (· ≠ c.rank) }) ∧
        (1 ≤ l → l ≤ fxLag f.desc → fxRule f.desc = 0 → becomes (stat 0) { fo with seen := seen }) ∧
        (1 ≤ l → l ≤ fxLag f.desc → fxRule f.desc ≠ 0 →
          becomes staged { fo with seen := seen, late := fo.late ++ [{ c with weight := lateWeight f.desc l.toNat }] }) ∧
        ((fxLag f.desc : Int) < l → becomes (stat 32) marked) ∧
        (l = -1 → becomes staged { fo with early := fo.early ++ [c] }) ∧
        (l ≤ -2 → becomes (stat 16) marked) ∧
        (l = 0 → fo.early = [] → f.departed = [] → fo.quorumLost = false → 1 ≤ fxK f.desc → fxK f.desc ≤ fxN f.desc → f.pushes = false → k = 0 → fxTabled f.desc = false →
          let g : Fold := { fo with onTime := fo.onTime ++ [c], seen := seen, lagging := fo.lagging.filter (· ≠ c.rank) }
          let st := staged.setFixObj h (f.setFold k g)
          st.closes (f.setFold k g) k = true → st.asking h = false → st.agentReady h (f.setFold k g) k = true →
          ∃ t w, exec (.fixContributionArrival id) s = .next t ∧ t.fix h = some w ∧ (w.fold 0).tag = fo.tag + 1 ∧ (w.fold 0).onTime = [] ∧
            (w.fold 0).last = some (fo.tag, (f.setFold 0 g).cOf 0, false)))) ∧
    (∀ pa key kd x q1 v, s.noc = [⟨id, .nearFold h c, [], dist, some due, none⟩] → q.fix h = some f → c.vals = [v] → c.weight = 0x3F800000 →
      q.engPlace (fxHome h) (bufAddr f.desc c.tag + c.chunk * chunkLen f.desc * fxE f.desc) (fxE f.desc) .rw true true =
        (.ok (.mem pa key kd x), q1) →
      let sum (old : Nat) : Nat × BitVec 5 :=
        let z := addRne .f32 (toF32 (fxTy f.desc) old) (toF32 (fxTy f.desc) v.toNat)
        if fxTy f.desc = .bf16 then let r := convert .f32 .bf16 .rne 0 false z.1; (r.1, z.2 ||| r.2) else z
      (∀ q2, q1.baseUpd pa key (fxE f.desc) sum = some q2 → exec (.nearMemoryFold id) s = .next q2) ∧
      (q1.baseUpd pa key (fxE f.desc) sum = none →
        ∃ t w, exec (.nearMemoryFold id) s = .next t ∧ t.fix h = some w ∧ (w.fold 0).folderr = true))

/-- Two folds of one round that hold the same contributions on time, each rank once, and the same late ones, each pair of round and rank
once, in whatever order they arrived, give the same values for every element, for a sum, a maximum, a minimum and a gather, and the
same weight sum. Rules: R192, R193. -/
def Obligations.FixResultsDoNotDependOnArrival : Prop :=
  ∀ (d : Line) (f g : Fold), f.tag = g.tag → f.onTime.Perm g.onTime → f.late.Perm g.late → (f.onTime.map Contrib.rank).Nodup →
    (f.late.map (fun c => (c.tag, c.rank))).Nodup → foldValues d f = foldValues d g ∧ f.weightSum = g.weightSum

/-- XTPL puts the 64 bytes that it reads, if R339 accepts them, into the core's slot, else raises 0x60 with FADDR the slot. XST, or an
aligned 8-byte store to the copy aperture, with room in the channel's queue of two, enters a copy with its own copy of the slot's
template, the start word, the context and its workspace and the next channel sequence; the status word then shows that sequence and
done 0, unless FAULTED stands there, when it is kept. A reserved bit raises 0x02, an empty slot 0x60, a start that R90 bars 0x11
with FADDR the first barred address (the model's choice, log entry 33); a full queue, or a view whose home has still to advance,
keeps the instruction from issuing. XSTAT gives the status word. XCAN on a channel that has ended its copies leaves only CHSEQ of
it, and waits otherwise. A channel starts the copy at the head of its queue. A one-row copy without FOLD, REMOTE, DEFER or a flag
reads its source in full, writes it converted at its destination, counts those bytes, and with ZCLIP writes zeros over the clipped
rest, which are not counted; a read that faults leaves the cause after the bytes before the faulting unit. A copy accepted while
FAULTED stood ends without running. The end leaves the sequence, the bytes, the cause with FAULTED, CLIPPED and DONE in the status
word, and with SEN in the workspace word of SREG; a fault raises one pilot event (its kind and words are log entry 76's); a flag is
written first, but ends a copy of a checkpointed convoy at a translated address with 0x11 (log entry 33). Rules: R114, R129, R339,
R340, R342, R343, R90, R167, R341. -/
def Obligations.Copies : Prop :=
  (∀ (d a : Opnd) (k6 : BitVec 6) (k3 : BitVec 3) (i7 : BitVec 7) (m : Mods) (s u v : State) (x y : Word) (bs : List Byte) (t : Line),
    s.cur.2 < 11 →
    let n := s.cur.1
    let ch := k3.toNat
    let raised (j : Instr) (c : BitVec 8) (g : Word) : Prop := s.my.pend = [] →
      exec j s = .next (s.raiseIn n s.cur.2 c g s.my.pc m.len.words)
    let k (w : State) : Channel := w.me.chan ch
    let accepted (j : Instr) (w : Word) : Prop := ∃ r c, exec j s = .next r ∧ r.my.pc = nextPc s.my.pc m ∧
      (k r).queue = (k u).queue ++ [c] ∧ (k r).seq = (k u).seq + 1 ∧
      c.tpl = t ∧ c.word = w ∧ c.ctx = s.cur.2 ∧ c.wsp = s.my.wsp ∧ c.seq = (k u).seq + 1 ∧ c.void = (k u).status.getLsbD 2 ∧
      (k r).status = if (k u).status.getLsbD 2 then (k u).status else ((k u).seq + 1) ++ 0#48
    let slot (w : Word) : Option Line := AMap.get? u.me.tpls (w.extractLsb' 0 6).toNat
    (s.reads m .int [a] = some ([x], u) → s.Issues (.xtpl k6 a m) m → x.extractLsb' 0 3 = 0#3 → ctxRead x.toNat 64 u = .ok (bs, v) →
      let e : Line := BitVec.ofNat 512 (ofLeBytes bs)
      (tplOk e = true → exec (.xtpl k6 a m) s = .next (v.setMe { v.me with tpls := AMap.set v.me.tpls k6.toNat e }).endIssue) ∧
      (tplOk e = false → raised (.xtpl k6 a m) 0x60 (k6.setWidth 64))) ∧
    (s.reads m .int [a] = some ([x], u) → s.Issues (.xst k3 a m) m →
      (∀ t, (k u).queue.length < 2 → x.extractLsb' 13 3 = 0#3 → slot x = some t → u.startBarred n t = none → u.copyViews n t x = false →
        exec (.xst k3 a m) s = .next s) ∧
      (2 ≤ (k u).queue.length → exec (.xst k3 a m) s = .next s) ∧
      ((k u).queue.length < 2 →
        (x.extractLsb' 13 3 ≠ 0#3 → raised (.xst k3 a m) 0x02 (encOf (.xst k3 a m) m)) ∧
        (x.extractLsb' 13 3 = 0#3 → slot x = none → raised (.xst k3 a m) 0x60 (x &&& 0x3F)) ∧
        (∀ f, x.extractLsb' 13 3 = 0#3 → slot x = some t → u.startBarred n t = some f → raised (.xst k3 a m) 0x11 f) ∧
        (x.extractLsb' 13 3 = 0#3 → slot x = some t → u.startBarred n t = none → u.copyViews n t x = true → accepted (.xst k3 a m) x))) ∧
    (s.reads m .int [a, d] = some ([x, y], u) → s.Issues (.st d a .i64 i7 m) m →
      u.classify n (x + dispOf i7 .i64 m).toNat 8 = .ok (.aperture (8 * ch)) → (k u).queue.length < 2 →
      (y.extractLsb' 13 3 ≠ 0#3 → raised (.st d a .i64 i7 m) 0x02 (encOf (.st d a .i64 i7 m) m)) ∧
      (y.extractLsb' 13 3 = 0#3 → slot y = some t → u.startBarred n t = none → u.copyViews n t y = true → accepted (.st d a .i64 i7 m) y)) ∧
    (s.Issues (.xstat d k3 m) m → exec (.xstat d k3 m) s = .next ((s.started m).wrote d (k s).status)) ∧
    (s.Issues (.xcan k3 m) m → s.chanWithheld n s.cur.2 ch = none →
      ((k s).queue = [] → (k s).running = none → ∃ r, exec (.xcan k3 m) s = .next r ∧ r.my.pc = nextPc s.my.pc m ∧
        (k r).status = (k s).status &&& 0xFFFF000000000000#64 ∧ (k r).seq = (k s).seq) ∧
      ((k s).queue ≠ [] ∨ (k s).running ≠ none → s.my.wait = none → ∃ r, exec (.xcan k3 m) s = .next r ∧ r.my.pc = s.my.pc ∧
        r.my.doing = some (.xcan k3 m) ∧ r.my.wait.map Wait.on = some (.channel ch) ∧ k r = k s)) ∧
    (s.GoesOn (.xcan k3 m) [] → s.chanWithheld n s.cur.2 ch = none → (k s).queue = [] → (k s).running = none →
      ∃ r, exec (.xcan k3 m) s = .next r ∧ r.my.pc = nextPc s.my.pc m ∧ r.my.doing = none ∧
        (k r).status = (k s).status &&& 0xFFFF000000000000#64)) ∧
  (∀ (s : State) (n ch : Nat) (c : Copy) (rest : List Copy),
    let k := (s.core n).chan ch
    let q := s.setCore n ((s.core n).setChan ch { k with queue := rest, running := some c })
    let src := (copySrc c.tpl c.word).toNat
    let dst := (tplW c.tpl 1).toNat
    let ended (w : State) (cause : Option (BitVec 8)) (b : Nat) : State := w.setCore n ((w.core n).setChan ch { (w.core n).chan ch with
      running := ((w.core n).chan ch).running.map (fun e => { e with fault := cause, bytes := e.bytes + b, after := [] }) })
    (k.queue = c :: rest → k.running = none →
      (c.void = true → ∃ t, exec (.copyStart n ch) s = .next t ∧ ((t.core n).chan ch).queue = rest ∧ ((t.core n).chan ch).running = none ∧
        ((t.core n).chan ch).status = k.status ∧ t.hbm = s.hbm ∧ (∀ j, (t.core j).scr = (s.core j).scr) ∧ t.dies = s.dies) ∧
      (c.void = false → c.after = [] → (s.core n).rowsFree c.claim = true → s.copyReady n c = true → c.fault = none → c.flags = false → tplRows c.tpl = 1 →
        tplVRows c.tpl = 1 → tplRemote c.tpl = false → tplDefer c.tpl = false → tplFold c.tpl = false → c.roseSrc = none → c.roseDst = none →
        c.defer = false → s.checkpointed n = false →
        (∀ bs e q1, q.engRead n src (tplVBytes c.tpl) = ((bs, some e), q1) → q1.checkpointed n = false →
          (rowPart c.tpl bs = [] → exec (.copyStart n ch) s = .next (ended q1 (some e) 0)) ∧
          (∀ r q2, rowPart c.tpl bs ≠ [] → q1.engWrite n dst (rowPart c.tpl bs) = (r, q2) →
            exec (.copyStart n ch) s = .next (ended q2 (some e) r.1))) ∧
        (∀ bs b q1 q2, q.engRead n src (tplVBytes c.tpl) = ((bs, none), q1) → q1.checkpointed n = false → convRow c.tpl bs ≠ [] →
          q1.engWrite n dst (convRow c.tpl bs) = ((b, none), q2) →
          (tplVBytes c.tpl = tplRowBytes c.tpl ∨ tplZclip c.tpl = false → exec (.copyStart n ch) s = .next (ended q2 none b)) ∧
          (tplVBytes c.tpl < tplRowBytes c.tpl → tplZclip c.tpl = true → q2.checkpointed n = false →
            (convRow c.tpl bs).length < tplDst c.tpl (tplRowBytes c.tpl) →
            ∀ b0 q3, q2.engWrite n (dst + (convRow c.tpl bs).length)
              (List.replicate (tplDst c.tpl (tplRowBytes c.tpl) - (convRow c.tpl bs).length) 0) = ((b0, none), q3) →
            exec (.copyStart n ch) s = .next (ended q3 none b))))) ∧
    (k.running = some c → c.after = [] → c.lost = false → s.copyKept n ch c = false → k.status.getLsbD 2 = false → c.seq = k.seq →
      let word (f : Option (BitVec 8)) : Word := c.seq ++ BitVec.ofNat 32 c.bytes ++ f.getD 0 ++ 0#5 ++ BitVec.ofBool f.isSome ++
        BitVec.ofBool (decide (tplVRows c.tpl < tplRows c.tpl) || decide (tplVBytes c.tpl < tplRowBytes c.tpl)) ++ 1#1
      let sreg := wsOff c.wsp + 8 * (c.word.extractLsb' 7 5).toNat
      let ends (w t : State) (f : Option (BitVec 8)) : Prop := exec (.copyComplete n ch) s = .next t ∧ ((t.core n).chan ch).running = none ∧
        ((t.core n).chan ch).status = word f ∧ (c.word.getLsbD 6 = false → (t.core n).scr = (w.core n).scr ∧ (t.core n).mf = (w.core n).mf) ∧
        (c.word.getLsbD 6 = true → (t.core n).scr = ((w.core n).scrWrite sreg 8 (word f).toNat).scr ∧
          (t.core n).mf = ((w.core n).scrWrite sreg 8 (word f).toNat).mf) ∧ t.hbm = w.hbm ∧ t.dies = w.dies
      (c.fault = none → c.flags = false → ∃ t, ends s t none ∧ t.dev = s.dev) ∧
      (∀ e, c.fault = some e → ∃ t, ends s t (some e) ∧
        t.dev.pilot = s.dev.pilot ++ [(3, BitVec.ofNat 64 (n * 256 + ch), e.setWidth 64)]) ∧
      (c.fault = none → c.flags = true → s.linksFree n (tplW c.tpl 6).toNat 8 = true → c.defer = true ∨ s.checkpointed n = true →
        (tplW c.tpl 6).toNat < 2 ^ 56 → ∃ t, ends s t (some 0x11)) ∧
      (∀ w, c.fault = none → c.flags = true → s.linksFree n (tplW c.tpl 6).toNat 8 = true → c.defer = false → s.checkpointed n = false →
        s.flagWrite n (tplW c.tpl 6).toNat (tplW c.tpl 7) = (none, w) → (w.core n).chans = (s.core n).chans → ∃ t, ends w t none)))

/-- With nothing to wait for in its release, CHARM, CHDEC, CHPATCH and CHDONE, and CHCARD and CKSET without one, issue: they post one
request with their operand to the Chartroom that placed the gang, and the PC stays; one that had a release to make posts its request
after it. A context whose request has been answered with cause 0 completes: CHARM, CHDEC, CHPATCH and CHDONE write no register,
CHCARD and CKSET write the answer. An answer with a cause raises it with FADDR the TCB index. CHCARD outside a gang raises 0x71. CHQ
gives state, counter, withheld and acknowledged records, and raises 0x72 for an index of 8,192 or more and for a TCB whose page is
not there. CKSET outside a checkpointed convoy gives 0. A reserved bit of CHPATCH raises 0x02. Rules: R70, R210, R319, R344, R345. -/
def Obligations.ChartroomInstructions : Prop :=
  ∀ (d a : Opnd) (m : Mods) (s u : State) (x y w : Word) (c : BitVec 8), s.cur.2 < 11 →
    let n := s.cur.1
    let p := s.homePart n
    let answered (c : BitVec 8) (w : Word) : Prop := s.my.asked = true ∧ s.my.answer = some (c, w)
    let done (i : Instr) (vs : List Word) : Prop := s.GoesOn i vs → answered 0 w → ∃ t, exec i s = .next t ∧
      t.my.pc = nextPc s.my.pc m ∧ t.my.answer = none ∧ t.my.wait = none ∧ t.my.doing = none ∧ t.my.lr = s.my.lr
    let gives (i : Instr) (vs : List Word) : Prop := s.GoesOn i vs → answered 0 w →
      ∃ t, exec i s = .next t ∧ t.my.answer = none ∧ s.gave t m d w
    let fails (i : Instr) (vs : List Word) (f : Word) : Prop := ∀ r, c ≠ 0 → s.GoesOn i vs → s.reserveTail i = some r → answered c w →
      s.my.pend = [] → exec i s = .next ((r.setMy { r.my with answer := none }).causeIn n s.cur.2 c f s.my.pc m.len.words)
    let posts (i : Instr) (op : ChartOp) : Prop := ∃ t id, exec i s = .next t ∧ (t.part p).reqs = (s.part p).reqs ++ [⟨id, n, s.cur.2, op⟩] ∧
      t.my.asked = true ∧ t.my.pc = s.my.pc ∧ t.my.doing = some i
    let asks (i : Instr) (vs : List Word) (op : ChartOp) : Prop :=
      (s.Issues i m → s.my.wait = none → (u.releaseActs n s.cur.2 .part).1 = [] → posts i op) ∧
      (s.GoesOn i vs → (∃ q, s.my.wait = some q ∧ q.on = .release ∧ q.arrived = true) → posts i op)
    let all (i : Instr) (vs : List Word) (f : Word) (op : ChartOp) : Prop := done i vs ∧ fails i vs f ∧ asks i vs op
    let ix (k : Nat) : Word := BitVec.ofNat 64 k
    (s.reads m .int [a] = some ([x], u) →
      all (.charm a m) [x] x (.arm x.toNat) ∧ all (.chdec a m) [x] x (.dec x.toNat) ∧
      (∀ g, s.me.gang = some g → all (.chdone a m) [x] (ix g.tcb) (.done x.toNat)) ∧
      (s.Issues (.chq d a m) m →
        (x.toNat < 8192 → (u.tcb? p x.toNat).isSome = true → exec (.chq d a m) s = .next ((u.readTcb p x.toNat).wrote d
          ((u.tcbW p x.toNat 4).extractLsb' 32 32 ++ 0#7 ++ BitVec.ofBool (u.taskWithheld p ((u.part p).tcbs.length + 1) x.toNat) ++
            (u.tcbW p x.toNat 5).extractLsb' 0 16 ++ (u.tcbW p x.toNat 0).extractLsb' 0 8))) ∧
        (x.toNat < 8192 → (u.tcb? p x.toNat).isSome = false → (s.readTcb p x.toNat).my = s.my → (s.readTcb p x.toNat).cur = s.cur →
          s.my.pend = [] → exec (.chq d a m) s = .next ((s.readTcb p x.toNat).raiseIn n s.cur.2 0x72 x s.my.pc m.len.words)) ∧
        (8192 ≤ x.toNat → s.my.pend = [] → exec (.chq d a m) s = .next (s.raiseIn n s.cur.2 0x72 x s.my.pc m.len.words))) ∧
      (s.Issues (.ckset d a m) m → s.my.wait = none →
        (s.me.gang = none → exec (.ckset d a m) s = .next (u.wrote d 0)) ∧
        (∀ g, s.me.gang = some g →
          (1024 ≤ g.convoy ∨ u.cvyLaps g.part g.convoy = 0 → exec (.ckset d a m) s = .next (u.wrote d 0)) ∧
          (g.convoy < 1024 → u.cvyLaps g.part g.convoy ≠ 0 → posts (.ckset d a m) (.ckset g.convoy x)))) ∧
      (∀ g, s.me.gang = some g → gives (.ckset d a m) [x])) ∧
    (s.reads m .int [a, d] = some ([x, y], u) →
      (x &&& 0xFFFFFFFFFFF0E000#64 ≠ 0 → s.Issues (.chpatch d a m) m → s.my.pend = [] →
        exec (.chpatch d a m) s = .next (s.raiseIn n s.cur.2 0x02 (encOf (.chpatch d a m) m) s.my.pc m.len.words)) ∧
      (x &&& 0xFFFFFFFFFFF0E000#64 = 0 →
        all (.chpatch d a m) [x, y] (x &&& 0x1FFF) (.patch (x.extractLsb' 0 13).toNat (x.extractLsb' 16 4).toNat y))) ∧
    (s.me.gang = none → s.Issues (.chcard d m) m → s.my.pend = [] →
      exec (.chcard d m) s = .next (s.raiseIn n s.cur.2 0x71 0 s.my.pc m.len.words)) ∧
    (∀ g, s.me.gang = some g → gives (.chcard d m) [] ∧ fails (.chcard d m) [] (ix g.tcb) ∧
      (s.Issues (.chcard d m) m → s.my.wait = none → posts (.chcard d m) .card))

/-- With no other request and no patch under way, for a task whose TCB the Chartroom holds: a decrement of a FREE or WAITING task with a
counter that is not 0 takes one off, and of a WAITING one at 1 makes it READY with the next READYSEQ; with 0, or in another state,
it answers 0x70. An arm that passes its checks clears cursor, fault and acknowledged words and makes the task WAITING, or READY with
a counter of 0; the first check that fails answers its cause. A deal takes the first chunk of the re-deal list, else records from
CURSOR, as many as R75's formula says, and nothing from a gang with two chunks. An acknowledgement of a chunk adds its count, and of
the last makes the task DRAINING. Rules: R70, R71, R72, R73, R75, R76, R77. -/
def Obligations.RequestsAreServed : Prop :=
  ∀ (s : State) (p id n x i : Nat), x < 11 →
    let t := s.chartCycle p
    let only (op : ChartOp) : Prop := (s.part p).patching = [] ∧ (s.part p).reqs = [⟨id, n, x, op⟩]
    let answers (c : BitVec 8) (v : Word) : Prop := (t.ctx n x).answer = some (c, v) ∧ id ∉ (t.ctx n x).block
    let st := s.tcbSt p i
    let deps := s.tcbF p i 5 0 16
    let next := s.regF (Pf.chr p 0x38) 0 48
    (AMap.get? (s.part p).tcbs i).isSome = true →
    (only (.dec i) → i < 8192 →
      (st = tFree ∨ st = tWaiting → deps ≠ 0 → answers 0 0 ∧ t.tcbF p i 5 0 16 = deps - 1 ∧
        t.tcbSt p i = (if st = tWaiting ∧ deps = 1 then tReady else st) ∧
        (st = tWaiting → deps = 1 → t.tcbF p i 8 0 48 = next ∧ t.regF (Pf.chr p 0x38) 0 48 = (next + 1) % 2 ^ 48)) ∧
      (st ≠ tFree → st ≠ tWaiting → answers 0x70 0) ∧ (deps = 0 → answers 0x70 0)) ∧
    (only (.arm i) → (∀ c, s.armCause p i = some c → answers c 0) ∧
      (s.armCause p i = none → answers 0 0 ∧ t.tcbSt p i = (if deps = 0 then tReady else tWaiting) ∧ t.cursor p i = 0 ∧ t.acked p i = 0)) ∧
    (∀ w v t1, only (.patch i w v) → s.patch p i w v = .ok t1 → w < 16 → w ≠ 0 →
      answers 0 0 ∧ t.tcbSt p i = tPatching ∧ t.tcbW p i w = (s.tcbW p i w &&& ~~~(tcbRw w)) ||| v) ∧
    (∀ g h, only .card → (s.core n).gang = some g → g.part = p → (s.part p).gangs = [h] → h.num = g.num → h.tcb = i → st ≠ tFaulted →
      AMap.get? (s.part p).grace i = none →
      let rem := s.recCount p i - s.cursor p i
      let k := 2 * 2 ^ s.tcbF p i 0 18 4
      let cnt := min rem (max (max 1 (s.tcbF p i 3 48 16)) ((rem + k - 1) / k))
      (h.chunks.length < 2 → AMap.getD (s.part p).redeal i [] = [] → rem ≠ 0 →
        answers 0 (BitVec.ofNat 64 (cnt * 2 ^ 32 + s.cursor p i)) ∧ t.cursor p i = s.cursor p i + cnt ∧
        (t.part p).gangs = [{ h with chunks := h.chunks ++ [⟨s.cursor p i, cnt, n, x⟩] }]) ∧
      (h.chunks.length < 2 → AMap.getD (s.part p).redeal i [] = [] → rem = 0 → answers 0 (BitVec.ofNat 64 (s.cursor p i))) ∧
      (∀ c r, h.chunks.length < 2 → AMap.getD (s.part p).redeal i [] = c :: r →
        answers 0 (BitVec.ofNat 64 (c.count * 2 ^ 32 + c.first)) ∧ t.cursor p i = s.cursor p i ∧ (r ≠ [] → AMap.getD (t.part p).redeal i [] = r)) ∧
      (2 ≤ h.chunks.length → (t.part p).reqs = (s.part p).reqs)) ∧
    (∀ g h c, only (.done c.first) → (s.core n).gang = some g → g.part = p → (s.part p).gangs = [h] → h.num = g.num → h.tcb = i →
      h.chunks = [c] → st = tRunning → s.acked p i + c.count < 2 ^ 32 →
      answers 0 0 ∧ t.acked p i = s.acked p i + c.count ∧ (t.part p).gangs = [{ h with chunks := [] }] ∧
      t.tcbSt p i = (if s.acked p i + c.count = s.recCount p i then tDraining else tRunning))

/-- With one task in the pool, no convoy waiting, no completion of this mesh cycle to be served first, no reservation and a free
rectangle, an attempt places one gang of it at the first origin that fits, the task becomes RUNNING, and every core of the rectangle
holds the gang, its SCRATCH and STACK, an empty control context at the task's entry, and moves its boundary. Kernel entry first
performs an access that has waited at the moving boundary, and makes the control context of such a core LIVE on the workspace at the
base, with the latches that stand there. A drained gang whose cores hold no context, no work and no dirty line is retired: its cores
are free, and a DRAINING task with no other gang is DONE. The oldest completion record is written to the ring with its phase, the
head moves on, and MSI-X vector 0 is sent. Rules: R69, R78, R79, R86, R122, R132. -/
def Obligations.GangsArePlacedAndRetired : Prop :=
  (∀ (s : State) (p i pr sq x0 y0 : Nat) (tb : Vector Word 16), i < 8192 → s.pool p = [⟨i, pr, sq, [i]⟩] → s.mesh + 1 ≠ (s.part p).lastTry →
    (∀ k : Nat, k < p → s.mayTry k = false) → s.waitingConvoys p = [] → (s.part p).completing = false → (s.part p).lastPlace = none → (∀ k : Nat, k < 8 → (s.part k).resv = none) → (s.part p).passed = [] →
    AMap.get? (s.part p).tcbs i = some tb → s.fit p i (s.seenFree p) none = some (x0, y0) →
    (∀ n ∈ rectCores x0 y0 (s.lwOf p i) (s.lhOf p i), s.coreFree n = true) → s.tcbSt p i = tReady →
    ∃ t g, exec (.placementAttempt p) s = .next t ∧ (t.part p).gangs = (s.part p).gangs ++ [g] ∧ g.tcb = i ∧ g.x0 = x0 ∧ g.y0 = y0 ∧
      g.lw = s.lwOf p i ∧ g.lh = s.lhOf p i ∧ g.convoy = 0xFFFF ∧ t.tcbSt p i = tRunning ∧
      (t.part p).lastPlace = some s.mesh ∧ (t.part p).lastTry = s.mesh + 1 ∧
      ∀ n ∈ rectCores x0 y0 (s.lwOf p i) (s.lhOf p i), (t.core n).moving = true ∧ (t.core n).gang.map GangRef.num = some g.num ∧
        (t.core n).scratch = s.tcbF p i 0 32 16 ∧ (t.core n).stack = s.tcbF p i 0 48 8 ∧ (t.ctx n 0).pc = s.tcbW p i 1 ∧
        (∀ x : Nat, x < 11 → (t.ctx n x).st = .free)) ∧
  (∀ (s : State) (n : Nat) (a : Access) (off sz : Nat) (v : Word), (s.core n).moving = true → (∀ x : Nat, x < 11 → (s.ctx n x).st = .free) →
    s.flight = [a] → a.locs = [(.scr n off, sz)] → a.op = .write v → a.rose = none → a.after = [] → a.performed = false → a.core ≠ n →
    s.linkBusy a.core n = false →
    ∃ t, exec (.kernelEntry n) s = .next t ∧ (t.core n).moving = false ∧ (t.ctx n 0).st = .live ∧ t.flight.map Access.performed = [true]) ∧
  (∀ (s : State) (n : Nat), (s.core n).moving = true → (∀ x : Nat, x < 11 → (s.ctx n x).st = .free) → s.flight = [] →
    ∃ t, exec (.kernelEntry n) s = .next t ∧ (t.core n).moving = false ∧ (t.ctx n 0).st = .live ∧ (t.ctx n 0).liveAt = s.cyc ∧
      (∀ x : Nat, 0 < x → x < 11 → (t.ctx n x).st = .free) ∧ (t.core n).scr = (s.core n).scr ∧
      ((s.ctx n 0).noWs = true → (t.ctx n 0).pc = (s.ctx n 0).pc) ∧
      ((s.ctx n 0).noWs = false → (t.ctx n 0).wsp = BitVec.ofNat 64 ownBase ∧
        (t.ctx n 0).pc = BitVec.ofNat 64 ((s.core n).scr.read 0x150 8) ∧ (t.ctx n 0).slim = BitVec.ofNat 64 ((s.core n).scr.read 0x160 8) ∧
        (t.ctx n 0).seed = BitVec.ofNat 32 ((s.core n).scr.read 0x188 8))) ∧
  (∀ (s : State) (p : Nat) (g : Gang), (s.part p).gangs.find? (fun h => h.num = g.num) = some g → g.draining = true → s.gangEmpty g = true →
    g.cores.all s.engineIdle = true → (∀ n ∈ g.cores, ∀ l ∈ (s.core n).l1, l.dirty = 0) → (∀ a ∈ s.flight, a.core ∉ g.cores) →
    ∃ t, exec (.gangRetire p g.num) s = .next t ∧ (∀ h ∈ (t.part p).gangs, h.num ≠ g.num) ∧ (∀ n ∈ g.cores, (t.core n).gang = none) ∧
      (1024 ≤ g.convoy → s.tcbSt p g.tcb = tDraining → (∀ h ∈ (s.part p).gangs, h.num ≠ g.num → h.tcb ≠ g.tcb) → t.tcbSt p g.tcb = tDone)) ∧
  (∀ (s : State) (v : Nat) (r : Vector Word 4) (rest : List (Vector Word 4)), (s.part (v - 1)).recs = r :: rest → s.ringRoom v ≠ 0 →
    (s.vf v).resetting = false →
    let n := s.regF (Pf.vf v 0x48) 0 5
    let head := s.regF (Pf.vf v 0x50) 0 32
    let first := if head / 2 ^ n % 2 = 0 then r[0] ||| 0x8000000000000000#64 else r[0]
    ∃ t, exec (.completionRecordWrite v) s = .next t ∧ (t.part (v - 1)).recs = rest ∧
      t.hostMem = s.hostMem.setBytes ((s.reg (Pf.vf v 0x40)).toNat + head % 2 ^ n * 32)
        (leBytes 8 first.toNat ++ leBytes 8 r[1].toNat ++ leBytes 8 r[2].toNat ++ leBytes 8 r[3].toNat) ∧
      t.regF (Pf.vf v 0x50) 0 32 = (head + 1) % 2 ^ 32 ∧ t.dev.msix = s.dev.msix ++ [(v, 0)])

/-- While pilot firmware runs: CHR_PREEMPT with GO of a RUNNING task outside a convoy, before the placement attempt of its mesh cycle: a
restartable one becomes READY and its gangs drain; another starts its grace period, at whose end it becomes DISCARDED with bit 2 of
CHR_EVT set (which changes no task that is neither RUNNING nor DRAINING), and without a gang becomes READY at once. After the
attempt the request waits with GO set. A RUNNING task without progress for the watchdog's limit is named in CHR_WDOG and sets bit 5.
A FAULTED task resumes as RUNNING, or DRAINING with every record acknowledged; with RECCOUNT 0 it is DRAINING where no gang of it is
live (the model's choice, log entry 30); one that drains and has no gang is DONE. It restarts with no gang left as READY with the
next READYSEQ, and a kill makes it DISCARDED. A checkpoint writes its image once the convoy is quiet, then commits and sets bit 4;
once every store of the commit is acknowledged and with no pre-emption waiting the contexts go on. Rules: R60, R87, R88, R91, R92,
R93, R95. -/
def Obligations.TasksAreStopped : Prop :=
  ∀ (s : State) (p i : Nat), i < 8192 →
    let st := s.tcbSt p i
    let alone := 1024 ≤ s.tcbConvoy p i ∧ (s.part p).preempts = []
    (∀ v : Word, s.pilotRuns = true → v.getLsbD 17 = true → v.getLsbD 16 = false → (v.extractLsb' 0 13).toNat = i → alone → st = tRunning →
      (s.attempted p = true → exec (.chrPreempt p v) s = .next (s.setReg (Pf.chr p 0x30) (v &&& 0x31FFF))) ∧
      (s.attempted p = false → ∃ t, exec (.chrPreempt p v) s = .next t ∧ t.reg (Pf.chr p 0x30) = v &&& 0x11FFF ∧
        (s.tcbF p i 5 21 1 = 1 → t.tcbSt p i = tReady ∧ ∀ g ∈ (t.part p).gangs, g.tcb = i → g.draining = true) ∧
        (s.tcbF p i 5 21 1 = 0 → AMap.get? (s.part p).grace i = none →
          (s.gangsOf p i ≠ [] → t.tcbSt p i = tRunning ∧ AMap.get? (t.part p).grace i = some s.cyc ∧ (t.part p).gangs = (s.part p).gangs) ∧
          (s.gangsOf p i = [] → t.tcbSt p i = tReady ∧ AMap.get? (t.part p).grace i = none)))) ∧
    (∀ v : Word, s.pilotRuns = true → v.getLsbD 17 = false →
      exec (.chrPreempt p v) s = .next (s.setReg (Pf.chr p 0x30) ((v &&& 0x11FFF) ||| (s.reg (Pf.chr p 0x30) &&& 0x20000)))) ∧
    (∀ v r, s.pilotRuns = false → exec (.chrPreempt p v) s = .next s ∧ exec (.faultResolution p i r) s = .next s) ∧
    (∀ t0, AMap.get? (s.part p).grace i = some t0 → t0 + s.regF (Pf.chr p 0x10) 0 32 * s.dev.clock ≤ s.cyc → s.gangsOf p i ≠ [] →
      st = tRunning → alone → ∃ t, exec (.graceExpiry p i) s = .next t ∧ t.tcbSt p i = tDiscarded ∧ (t.reg (Pf.chr p 0x48)).getLsbD 2 = true ∧
        (∀ g ∈ (t.part p).gangs, g.tcb = i → g.draining = true)) ∧
    (∀ j, s.tcbSt p j ≠ tRunning → s.tcbSt p j ≠ tDraining → s.graceEnd p j = s) ∧
    (∀ t0, AMap.get? (s.part p).wdog i = some t0 → s.regF (Pf.chr p 0x50) 0 32 ≠ 0 →
      t0 + s.regF (Pf.chr p 0x50) 0 32 * s.dev.clock ≤ s.cyc → st = tRunning →
      ∃ t, exec (.taskWatchdogExpiry p i) s = .next t ∧ t.regF (Pf.chr p 0x50) 48 13 = i ∧ (t.reg (Pf.chr p 0x48)).getLsbD 5 = true ∧
        AMap.get? (t.part p).wdog i = some s.cyc) ∧
    (s.pilotRuns = true → st = tFaulted → alone →
      (∃ t, exec (.faultResolution p i .resume) s = .next t ∧
        let back := if (if s.recCount p i = 0 then s.liveGangs p i = 0 else s.acked p i = s.recCount p i) then tDraining else tRunning
        t.tcbSt p i = (if back = tDraining ∧ s.gangsOf p i = [] then tDone else back)) ∧
      (s.gangsOf p i = [] → ∃ t, exec (.faultResolution p i .restart) s = .next t ∧ t.tcbSt p i = tReady ∧
        t.tcbF p i 8 0 48 = s.regF (Pf.chr p 0x38) 0 48 ∧ t.regF (Pf.chr p 0x38) 0 48 = (s.regF (Pf.chr p 0x38) 0 48 + 1) % 2 ^ 48) ∧
      (s.gangsOf p i = [] → ∃ t, exec (.faultResolution p i .kill) s = .next t ∧ t.tcbSt p i = tDiscarded)) ∧
    (∀ c : Nat, AMap.get? (s.part p).pause c = some 1 → s.cvyQuiet ((s.cvyCores p c).map (fun e => e.2.2)) = true →
      ∃ t, exec (.checkpointImageWrite p c) s = .next t ∧ AMap.get? (t.part p).pause c = some 5 ∧
        (AMap.getD (t.part p).images (2 * c + s.otherHalf p c) []).map (fun e => (e.1, e.2.1)) =
          (s.cvyCores p c).map (fun e => (e.1, e.2.1))) ∧
    (∀ (c : Nat) (l : List LogEnt), AMap.get? (s.part p).pause c = some 5 → (s.part p).log = [(c, l)] →
      ∃ t, exec (.checkpointCommit p c) s = .next t ∧ AMap.get? (t.part p).pause c = some 6 ∧ (t.reg (Pf.chr p 0x48)).getLsbD 4 = true ∧
        (t.part p).log = []) ∧
    (∀ c : Nat, (s.part p).pause = [(c, 6)] → (8192 + c) ∉ (s.part p).preempts → (∀ e ∈ s.cvyCores p c, s.unacked e.2.2 = []) →
      ∃ t, exec (.checkpointCommit p c) s = .next t ∧ (t.part p).pause = [] ∧
        ∀ e ∈ t.cvyCores p c, ∀ x : Nat, x < 11 → (t.ctx e.2.2 x).paused = false)

/-- With room in the vector engine's queue of two, each vector instruction enters it with its operands from the scalar side, the
rounding mode resolved, the FTZ bit and the seed, and goes on; one that rounds under SR steps SEED, and VEXTR and VMPOP leave their
destination and lr pending. A load or store enters with the bytes of each active lane, once every one has passed its checks. VSF
enters the octet's queue. A full queue keeps it waiting. An index past the lanes, or SR for a floating reduction, raises 0x02. A
full queue comes before every other check. VFENCE blocks until the context's vector and SFU instructions have completed. Rules: R99,
R114, R117, R119, R121, R348, R363, R364, R365, R367. -/
def Obligations.VectorInstructionsEnter : Prop :=
  ∀ (d a b c : Row) (o e : Opnd) (m : Mods) (s u w : State) (x y : Word) (ls : List (Nat × List (Loc × Nat))), s.cur.2 < 11 →
    let n := s.cur.1
    let mode := modeOf m.rnd s.my.fpsr
    let bad (i : Instr) : Prop := s.my.pend = [] → s.me.vq.length < 2 →
      exec i s = .next (s.raiseIn n s.cur.2 0x02 (encOf i m) s.my.pc m.len.words)
    let cmd (i : Instr) (p q : Word) (l : List (Nat × List (Loc × Nat))) (v : VCmd) : Prop := v.instr = i ∧ v.ctx = s.cur.2 ∧ v.s0 = p ∧
      v.s1 = q ∧ v.seed = s.my.seed ∧ v.rm = mode ∧ v.ftz = s.my.fpsr.getLsbD 20 ∧ v.lanes = l
    let enters (i : Instr) (z : State) (p q : Word) (l : List (Nat × List (Loc × Nat))) : Prop := ∃ t v, exec i s = .next t ∧
      t.me.vq = z.me.vq ++ [v] ∧ cmd i p q l v ∧ t.my.pc = nextPc s.my.pc m ∧ t.me.rows = z.me.rows ∧ t.my.fpsr = s.my.fpsr ∧
      t.my.seed = (if vecRounds i && decide (mode = .sr) then xorshift s.my.seed else s.my.seed)
    let waits (i : Instr) : Prop := s.my.wait = none → ∃ t, exec i s = .next t ∧ t.my.pc = s.my.pc ∧ t.my.wait.map Wait.on = some .vector ∧
      t.me.vq = s.me.vq
    let room := s.me.vq.length < 2
    (∀ i ∈ [Instr.vadd d a b m, .vsub d a b m, .vmul d a b m, .vmulz d a b m, .vfma d a b c m, .vmin d a b m, .vmax d a b m, .vand d a b m,
        .vor d a b m, .vxor d a b m, .vshl d a b m, .vshr d a b m, .vsar d a b m, .vabs d a m, .vneg d a m, .vcmp d a b m, .vsel d a b m,
        .vcvt d a m, .vmov d a m, .vperm d a b m, .vmk d a b m], s.Issues i m →
      (room → enters i s 0 0 []) ∧ (¬ room → waits i)) ∧
    (∀ i ∈ [Instr.vred d a m, .vscan d a m], s.Issues i m →
      (m.ty.isInt = true ∨ mode ≠ .sr → room → enters i s 0 0 []) ∧ (m.ty.isInt = false → mode = .sr → bad i) ∧ (¬ room → waits i)) ∧
    (s.reads m .int [e] = some ([x], u) →
      (∀ i ∈ [Instr.vsacc d a b e m, .viota d e m, .vbcast d e m], s.Issues i m → room → enters i u x 0 []) ∧
      (s.Issues (.vextr o a e m) m → (2048 / m.ty.bits ≤ x.toNat → bad (.vextr o a e m)) ∧ (¬ room → waits (.vextr o a e m)) ∧
        (x.toNat < 2048 / m.ty.bits → room → enters (.vextr o a e m) u x 0 [] ∧
          ∀ t, exec (.vextr o a e m) s = .next t → ∃ id, t.my.pend = s.my.pend ++ [⟨id, o⟩] ∧ t.my.lrPend = some id)) ∧
      (∀ store addr (i : Instr), (i, store, addr) ∈ [(Instr.vld d e m, false, fun (_ : Core) (j : Nat) => x + m.imm32.signExtend 64 + BitVec.ofNat 64 (j * m.ty.bits / 8)),
          (.vst d e m, true, fun _ j => x + m.imm32.signExtend 64 + BitVec.ofNat 64 (j * m.ty.bits / 8)),
          (.vgath d a e m, false, fun k j => gatherAt m.ty (x + m.imm32.signExtend 64) (k.row a.toNat) j),
          (.vscat d a e m, true, fun k j => gatherAt m.ty (x + m.imm32.signExtend 64) (k.row a.toNat) j)] → s.Issues i m →
        u.me.rowsBusy ((if i = .vgath d a e m ∨ i = .vscat d a e m then rowBit a else 0) ||| maskBit m) 0 = false →
        vmLanes m.ty (u.me.maskRow m) (addr u.me) store u = .ok (ls, w) → room → w.me.vq.length < 2 → w.cur = s.cur → w.my = u.my →
        enters i w 0 0 ls)) ∧
    (s.reads m .int [o, e] = some ([y, x], u) →
      (s.Issues (.vins d o e m) m → (2048 / m.ty.bits ≤ x.toNat → bad (.vins d o e m)) ∧ (¬ room → waits (.vins d o e m)) ∧
        (x.toNat < 2048 / m.ty.bits → room → enters (.vins d o e m) u x y [])) ∧
      (∀ store (i : Instr), (i, store) ∈ [(Instr.vlds d o e m, false), (.vsts d o e m, true)] → s.Issues i m →
        u.me.rowsBusy (maskBit m) 0 = false →
        vmLanes m.ty (u.me.maskRow m) (fun j => x + m.imm32.signExtend 64 + BitVec.ofNat 64 j * y) store u = .ok (ls, w) →
        room → w.me.vq.length < 2 → w.cur = s.cur → w.my = u.my → enters i w 0 0 ls)) ∧
    (s.Issues (.vmpop o a m) m → room → enters (.vmpop o a m) s 0 0 []) ∧
    (s.Issues (.vsf d a m) m → ((s.started m).octet (octetOf n)).sfuq = [] → ∃ t v, exec (.vsf d a m) s = .next t ∧
      (t.octet (octetOf n)).sfuq = [(n, v)] ∧ cmd (.vsf d a m) 0 0 [] v ∧ t.my.pc = nextPc s.my.pc m) ∧
    (s.Issues (.vfence m) m → ∃ t, exec (.vfence m) s = .next t ∧ t.my.pc = nextPc s.my.pc m ∧
      t.my.block = s.my.block ++ (s.started m).vecIds n s.cur.2)

/-- As the engine completes its oldest instruction, each active lane of the destination row takes the exact result of its lanes, rounded
by the command's mode, seed and FTZ bit for a floating-point type, and wrapped or saturated for an integer one; inactive lanes keep
their value or become 0; every other row stays; and the flags of the active lanes join the context's FPSR. Members: VADD, VSUB,
VMUL, VMULZ, VMIN, VMAX, VFMA, VSACC, VAND, VOR, VXOR, VSHL, VSHR, VSAR, VABS, VNEG. Rules: R239, R243, R246, R249, R253, R347,
R348, R350, R351, R352, R353, R354. -/
def Obligations.VectorResults : Prop :=
  ∀ (d a b c : Row) (o : Opnd) (m : Mods) (s : State) (n : Nat) (v : VCmd) (rest : List VCmd), (s.core n).vrun = v :: rest → v.ctx < 11 →
    let row (r : Row) : RowVal := (s.core n).row r.toNat
    let on (j : Nat) : Bool := decide (m.mask = 0) || ((s.core n).row (120 + m.mask.toNat)).getLsbD j
    let gives (i : Instr) (t : ElTy) (f : Nat → Nat × BitVec 5) : Prop := v.instr = i →
      ∃ q, exec (.vectorEngineComplete n) s = .next q ∧ (q.core n).vrun.length = rest.length ∧
        (∀ j : Nat, j < 2048 / t.bits → laneOf ((q.core n).row d.toNat) t.bits j =
          if on j then (f j).1 % 2 ^ t.bits else if m.zero then 0 else laneOf (row d) t.bits j) ∧
        (∀ r : Nat, r ≠ d.toNat → (q.core n).row r = (s.core n).row r) ∧
        (∀ k : Nat, k < 5 → (q.ctx n v.ctx).fpsr.getLsbD k = true ↔
          ((s.ctx n v.ctx).fpsr.getLsbD k = true ∨ ∃ j : Nat, j < 2048 / t.bits ∧ on j = true ∧ (f j).2.getLsbD k = true))
    let t := m.ty
    let w := t.bits
    let x (j : Nat) : Nat := laneOf (row a) w j
    let y (j : Nat) : Nat := laneOf (row b) w j
    let int (e : Int) : Nat × BitVec 5 := (lowBits w (if m.sat then clampInt (tyMin t) (tyMax t) e else e), 0)
    let num (t : ElTy) (e : Nat) : FpNum := numOf t (ftzIn v.ftz t e)
    let fp (t : ElTy) (j : Nat) (e : FpNum × BitVec 5) : Nat × BitVec 5 := ftzOut v.ftz t (finish t v.rm (laneSeed v.seed j) m.sat e)
    let less (p q : Nat) : Bool := if m.mod.getLsbD 0 then decide (p < q) else decide (toSigned p w < toSigned q w)
    (t.isInt = true →
      gives (.vadd d a b m) t (fun j => int (intOf t (x j) + intOf t (y j))) ∧
      gives (.vsub d a b m) t (fun j => int (intOf t (x j) - intOf t (y j))) ∧
      gives (.vmul d a b m) t (fun j => int (intOf t (x j) * intOf t (y j))) ∧
      gives (.vmin d a b m) t (fun j => (if less (x j) (y j) then x j else y j, 0)) ∧
      gives (.vmax d a b m) t (fun j => (if less (x j) (y j) then y j else x j, 0)) ∧
      gives (.vabs d a m) t (fun j => int (intOf t (x j)).natAbs) ∧
      gives (.vneg d a m) t (fun j => int (-(intOf t (x j))))) ∧
    (t.isInt = false →
      gives (.vadd d a b m) t (fun j => fp t j (exactAdd v.rm (num t (x j)) (num t (y j)))) ∧
      gives (.vsub d a b m) t (fun j => fp t j (exactAdd v.rm (num t (x j)) (num t (y j)).negate)) ∧
      gives (.vmul d a b m) t (fun j => fp t j (exactMul (num t (x j)) (num t (y j)))) ∧
      gives (.vmulz d a b m) t (fun j => fp t j (exactMulZ (num t (x j)) (num t (y j)) (decide (x j / 2 ^ (w - 1) % 2 = 1))
        (decide (y j / 2 ^ (w - 1) % 2 = 1)))) ∧
      gives (.vmin d a b m) t (fun j => minMaxNum t false (ftzIn v.ftz t (x j)) (ftzIn v.ftz t (y j))) ∧
      gives (.vmax d a b m) t (fun j => minMaxNum t true (ftzIn v.ftz t (x j)) (ftzIn v.ftz t (y j))) ∧
      gives (.vabs d a m) t (fun j => (x j % 2 ^ (w - 1), 0)) ∧
      gives (.vneg d a m) t (fun j => (x j ^^^ 2 ^ (w - 1), 0))) ∧
    gives (.vfma d a b c m) t (fun j => fp t j (exactFma v.rm (num t (x j)) (num t (y j)) (num t (laneOf (row c) w j)))) ∧
    gives (.vsacc d a b o m) .f32 (fun j =>
      let sum : FpNum × BitVec 5 := if laneOf (row b) 8 j = 0xFF ∨ v.s0.toNat % 256 = 0xFF then (.nan false, fNV)
        else exactAdd v.rm (num .f32 (laneOf (row d) 32 j))
          ((num t (laneOf (row a) 32 j)).scale ((laneOf (row b) 8 j : Int) + (v.s0.toNat % 256 : Nat) - 254))
      fp .f32 j sum) ∧
    gives (.vand d a b m) t (fun j => (x j &&& y j, 0)) ∧ gives (.vor d a b m) t (fun j => (x j ||| y j, 0)) ∧
    gives (.vxor d a b m) t (fun j => (x j ^^^ y j, 0)) ∧
    gives (.vshl d a b m) t (fun j => int (intOf t (x j) * (2 ^ (y j % 256) : Nat))) ∧
    gives (.vshr d a b m) t (fun j => (if w ≤ y j % 256 then 0 else x j / 2 ^ (y j % 256), 0)) ∧
    gives (.vsar d a b m) t (fun j => (lowBits w (toSigned (x j) w / ((2 ^ (min (y j % 256) w) : Nat) : Int)), 0))

/-- As each completes: VCMP sets the bit of each active lane by its condition and clears what lies past them; VSEL takes the lane of
either row; VCVT converts; VMOV, VIOTA, VBCAST and VPERM give their lanes, 0 for an index past them; VINS replaces one lane; VMK
combines the low 512 bits; VRED combines the active lanes in the tree of R251 and VSCAN from lane to lane, each step rounded or
wrapped, with the identity where there is none, so that an integer sum without SAT is the sum; VEXTR and VMPOP deliver their value
to the pending destination. A load, strided load or gather from the own scratchpad brings the bytes of each active lane, or its
nibble, and a store, strided store or scatter puts them there and nothing else. The engine and the SFU start the oldest instruction
whose rows are free. Rules: R119, R251, R347, R348, R349, R355, R356, R357, R358, R359, R360, R362. -/
def Obligations.VectorMovesAndReductions : Prop :=
  ∀ (d a b : Row) (o e : Opnd) (m : Mods) (s : State) (n : Nat) (v : VCmd) (rest : List VCmd), v.ctx < 11 →
    let row (r : Row) : RowVal := (s.core n).row r.toNat
    let on (j : Nat) : Bool := decide (m.mask = 0) || ((s.core n).row (120 + m.mask.toNat)).getLsbD j
    let t := m.ty
    let w := t.bits
    let cnt := 2048 / w
    let x (j : Nat) : Nat := laneOf (row a) w j
    let runs (i : Instr) (q : State) : Prop := v.instr = i ∧ exec (.vectorEngineComplete n) s = .next q
    let lanes (i : Instr) (f : Nat → Nat) : Prop := v.instr = i → ∃ q, runs i q ∧ (∀ r : Nat, r ≠ d.toNat → (q.core n).row r = (s.core n).row r) ∧
      ∀ j : Nat, j < cnt → laneOf ((q.core n).row d.toNat) w j = if on j then f j % 2 ^ w else if m.zero then 0 else laneOf (row d) w j
    let sz := max 1 (w / 8)
    let op := redOpOf (m.mod.extractLsb' 1 2)
    let step (y z : Nat) : Nat × BitVec 5 := redStep op t ⟨v.rm, v.seed, v.ftz, m.sat⟩ y z
    let inp (j : Nat) : Option Nat := if j < cnt ∧ on j then some (ftzIn v.ftz t (x j)) else none
    let ident := redIdentity op t
    let sum (k : Nat) : Nat := (((List.range k).filter on).map x).sum % 2 ^ w
    let num (j : Nat) (r : Row) : FpNum := numOf t (ftzIn v.ftz t (laneOf (row r) w j))
    let scalar (i : Instr) (val : Word) : Prop := v.instr = i → (s.ctx n v.ctx).pend = [⟨v.id, o⟩] → (s.ctx n v.ctx).lrPend = some v.id →
      (∃ k, o = .o k) → ∃ q, runs i q ∧ q.regVal n v.ctx o = val ∧ (q.ctx n v.ctx).lr = val ∧ (q.ctx n v.ctx).pend = []
    ((s.core n).vrun = v :: rest →
      (v.instr = .vcmp d a b m → ∃ q, runs (.vcmp d a b m) q ∧ ∀ j : Nat, j < 2048 → ((q.core n).row d.toNat).getLsbD j =
        (decide (j < cnt) && if on j then (if t.isInt then ccHolds (Cc.ofCode (m.mod.extractLsb' 0 3)) w (x j) (laneOf (row b) w j)
          else (fccHolds ((Fcc.ofCode? (m.mod.extractLsb' 0 3)).getD .ord) (num j a) (num j b)).1)
        else !m.zero && (row d).getLsbD j)) ∧
      (v.instr = .vsel d a b m → ∃ q, runs (.vsel d a b m) q ∧ ∀ j : Nat, j < cnt →
        laneOf ((q.core n).row d.toNat) w j = if on j then x j else laneOf (row b) w j) ∧
      (w ≤ m.modTy.bits → v.instr = .vcvt d a m → ∃ q, runs (.vcvt d a m) q ∧ ∀ j : Nat, j < 2048 / m.modTy.bits →
        laneOf ((q.core n).row d.toNat) m.modTy.bits j = if on j
          then (cvtLane t m.modTy ⟨v.rm, v.seed, v.ftz, m.sat⟩ j (laneOf (row a) w ((m.mod.extractLsb' 4 4).toNat * (2048 / m.modTy.bits) + j))).1 %
            2 ^ m.modTy.bits
          else if m.zero then 0 else laneOf (row d) m.modTy.bits j) ∧
      (m.modTy.bits < w → v.instr = .vcvt d a m → ∃ q, runs (.vcvt d a m) q ∧ ∀ k : Nat, k < 2048 / m.modTy.bits →
        let first := (m.mod.extractLsb' 4 4).toNat * cnt
        laneOf ((q.core n).row d.toNat) m.modTy.bits k = if first ≤ k ∧ k < first + cnt then
            (if on (k - first) then (cvtLane t m.modTy ⟨v.rm, v.seed, v.ftz, m.sat⟩ (k - first) (x (k - first))).1 % 2 ^ m.modTy.bits
             else if m.zero then 0 else laneOf (row d) m.modTy.bits k)
          else laneOf (row d) m.modTy.bits k) ∧
      lanes (.vmov d a m) x ∧ lanes (.viota d e m) (fun j => v.s0.toNat + j) ∧ lanes (.vbcast d e m) (fun _ => v.s0.toNat) ∧
      lanes (.vperm d a b m) (fun j => if laneOf (row b) w j < cnt then x (laneOf (row b) w j) else 0) ∧
      (v.instr = .vins d o e m → v.s0.toNat < cnt → ∃ q, runs (.vins d o e m) q ∧ ∀ j : Nat, j < cnt →
        laneOf ((q.core n).row d.toNat) w j = if j = v.s0.toNat then v.s1.toNat % 2 ^ w else laneOf (row d) w j) ∧
      (v.instr = .vmk d a b m → ∃ q, runs (.vmk d a b m) q ∧ ∀ j : Nat, j < 2048 → ((q.core n).row d.toNat).getLsbD j = (decide (j < 512) &&
        (match (m.mod.extractLsb' 0 2).toNat with
          | 0 => (row a).getLsbD j && (row b).getLsbD j
          | 1 => (row a).getLsbD j || (row b).getLsbD j
          | 2 => (row a).getLsbD j != (row b).getLsbD j
          | _ => !(row a).getLsbD j))) ∧
      (t.isInt = true → m.sat = false → m.mod.extractLsb' 1 2 = 0#2 →
        (v.instr = .vred d a m → ∃ q, runs (.vred d a m) q ∧ laneOf ((q.core n).row d.toNat) w 0 = sum cnt ∧
          ∀ j : Nat, 0 < j → j < cnt → laneOf ((q.core n).row d.toNat) w j = if m.zero then 0 else laneOf (row d) w j) ∧
        (v.instr = .vscan d a m → ∃ q, runs (.vscan d a m) q ∧ ∀ j : Nat, j < cnt →
          laneOf ((q.core n).row d.toNat) w j = if on j || !m.zero then sum (j + 1) else 0)) ∧
      (∀ node : Nat → Nat → Option Nat, (∀ j, node 0 j = inp j) →
        (∀ l j, node (l + 1) j = match node l (2 * j), node l (2 * j + 1) with
          | some y, some z => some (step y z).1 | some y, none => some y | none, z => z) →
        v.instr = .vred d a m → ∃ q, runs (.vred d a m) q ∧ laneOf ((q.core n).row d.toNat) w 0 = (node 8 0).getD ident % 2 ^ w ∧
          ∀ j : Nat, 0 < j → j < cnt → laneOf ((q.core n).row d.toNat) w j = if m.zero then 0 else laneOf (row d) w j) ∧
      (∀ acc : Nat → Option Nat, acc 0 = none →
        (∀ j, acc (j + 1) = match acc j, inp j with
          | some y, some z => some (step y z).1 | some y, none => some y | none, z => z) →
        v.instr = .vscan d a m → ∃ q, runs (.vscan d a m) q ∧ ∀ j : Nat, j < cnt →
          laneOf ((q.core n).row d.toNat) w j = if on j || !m.zero then (acc (j + 1)).getD ident % 2 ^ w else 0) ∧
      scalar (.vextr o a e m) (extendTy t (x v.s0.toNat)) ∧
      scalar (.vmpop o a m) (BitVec.ofNat 64 (((List.range 512).filter (fun j => (row a).getLsbD j)).length +
        (((List.range 512).filter (fun j => (row a).getLsbD j)).headD 0xFFFF) * 2 ^ 32)) ∧
      (∀ (off : Nat → Nat), (∀ j, off j + sz ≤ (s.core n).top) →
        v.lanes = ((List.range cnt).filter on).map (fun j => (j, [(Loc.scr n (off j), sz)])) →
        let lane (u : State) (j : Nat) : Nat :=
          let b := (u.core n).scrRead true (off j) sz
          if w = 4 then b / 16 ^ (j % 2) % 16 else b
        let others (q : State) : Prop := ∀ z : Nat, (∀ j : Nat, j < cnt → on j = true → z < off j ∨ off j + sz ≤ z) → q.ownByte n z = s.ownByte n z
        ((s.core n).mfOk → (s.core n).scr.wf = true → lanes (.vld d e m) (lane s) ∧ lanes (.vlds d o e m) (lane s) ∧ lanes (.vgath d a e m) (lane s)) ∧
        (∀ i ∈ [Instr.vst d e m, .vsts d o e m, .vscat d a e m], v.instr = i → (s.core n).scr.wf = true →
          ((w ≠ 4 ∧ ∀ i j : Nat, i < cnt → j < cnt → i ≠ j → on i = true → on j = true → off i + sz ≤ off j ∨ off j + sz ≤ off i) ∨
            (w = 4 ∧ ∃ z, ∀ j, off j = z + j / 2)) →
          ∃ q, runs i q ∧ (∀ j : Nat, j < cnt → on j = true → lane q j = laneOf (row d) w j) ∧
            (w = 4 → ∀ j : Nat, j < cnt → on j = false → lane q j = lane s j) ∧ others q))) ∧
    ((s.core n).vq = v :: rest → (s.core n).rowsFree v.id = true → v.after = [] →
      exec (.vectorEngineStart n) s = .next (s.setCore n { s.core n with vq := rest, vrun := (s.core n).vrun ++ [v] })) ∧
    (∀ k, (s.octet k).sfuq = [(n, v)] → (s.core n).rowsFree v.id = true →
      exec (.sfuRequestStart k) s = .next (s.setOctet k { s.octet k with sfuq := [], sfuRun := (s.octet k).sfuRun ++ [(n, v)] })) ∧
    (∀ k r, (s.octet k).sfuRun = (n, v) :: r → v.instr = .vsf d a m → ∃ q, exec (.sfuResult k) s = .next q ∧ (q.octet k).sfuRun = r ∧
      ∀ j : Nat, j < cnt → laneOf ((q.core n).row d.toNat) w j =
        if on j then (sfuLane t (m.mod.extractLsb' 0 3) v.ftz (x j)).1 % 2 ^ w else if m.zero then 0 else laneOf (row d) w j)

/-- A full port queue of two leaves the context as it is, with no check made. With room and its checks passed, MWLD, MMA, MMAP, MUPL,
MZERO, MTR, MSACC, MST, MLD and MFENCE enter it with control word, address, pitch and the next sequence, and the context goes on;
MFENCE's context waits for it. The failing checks raise 0x62, 0x63 and 0x64 with the FADDR of R373, and 0x11 for a window the unit
cannot read. An MMAG of a control context waits in its meeting, and completes once the meeting has entered its command. MSTAT gives
the status word and clears its fault and flags. Rules: R368, R370, R371, R373, R375, R377, R379, R381, R383, R384, R385, R386. -/
def Obligations.MatrixInstructionsEnter : Prop :=
  ∀ (d a c : Opnd) (m : Mods) (s u : State) (x w r : Word), s.cur.2 < 11 →
    let n := s.cur.1
    let raised (i : Instr) (k : BitVec 8) (f : Word) : Prop := s.my.pend = [] → s.me.mq.length < 2 →
      exec i s = .next (s.raiseIn n s.cur.2 k f s.my.pc m.len.words)
    let enc (i : Instr) : Word := encOf i m
    let enters (i : Instr) (word addr : Word) (p : Nat) : Prop := s.me.mq.length < 2 → ∃ t k, exec i s = .next t ∧
      t.me.mq = s.me.mq ++ [k] ∧ k.instr = i ∧ k.ctx = s.cur.2 ∧ k.word = word ∧ k.addr = addr ∧ k.pitch = p ∧
      k.seq = s.me.mstat.accepted + 1 ∧ t.me.mstat.accepted = s.me.mstat.accepted + 1 ∧ t.my.pc = nextPc s.my.pc m ∧ t.me.rows = s.me.rows
    let K := (w.extractLsb' 18 13).toNat
    let need := packBytes m.ty K
    let p := if m.imm32 = 0 then need else m.imm32.toNat
    let woff := 64 * (w.extractLsb' 31 11).toNat
    let tile (i : Instr) (gran pre : Bool) : Prop :=
      (tileOk w m.ty gran = false → raised i 0x62 (enc i)) ∧
      (tileOk w m.ty gran = true → pre = false → raised i 0x63 (enc i)) ∧
      (tileOk w m.ty gran = true → pre = true → 131072 < woff + bBytes w m.bTy → raised i 0x64 (BitVec.ofNat 64 woff)) ∧
      (tileOk w m.ty gran = true → pre = true → woff + bBytes w m.bTy ≤ 131072 →
        (x.toNat < 2 ^ 56 → raised i 0x11 x) ∧
        (∀ off, winOf x.toNat = some (0, off) → (p < need → raised i 0x62 (enc i)) ∧
          (need ≤ p → u.localRange n x.toNat ((tileM w - 1) * p + need) = none → enters i w x p)))
    (s.reads m .int [a, d] = some ([x, w], u) →
      (s.Issues (.mma d a m) m → tile (.mma d a m) true true) ∧
      (s.Issues (.mmap d a m) m → tile (.mmap d a m) false u.me.mupIssued) ∧
      (s.Issues (.mwld d a m) m →
        let cnt := (w.extractLsb' 11 12).toNat
        let at0 := (w.extractLsb' 0 11).toNat
        (w.extractLsb' 23 41 ≠ 0#41 ∨ cnt = 0 → raised (.mwld d a m) 0x62 (enc (.mwld d a m))) ∧
        (w.extractLsb' 23 41 = 0#41 → cnt ≠ 0 → 2048 < at0 + cnt → raised (.mwld d a m) 0x64 (BitVec.ofNat 64 (64 * at0))) ∧
        (w.extractLsb' 23 41 = 0#41 → cnt ≠ 0 → at0 + cnt ≤ 2048 → x.toNat < 2 ^ 56 → enters (.mwld d a m) w x 0)) ∧
      (∀ store (i : Instr) (mt : ElTy), (i, store, mt) ∈ [(Instr.mst d a m, true, m.modTy), (.mld d a m, false, m.ty)] → s.Issues i m →
        let cols := (w.extractLsb' 16 7).toNat
        let rows := (w.extractLsb' 8 8).toNat
        let row := (w.extractLsb' 0 7).toNat
        let ok := w.extractLsb' 23 41 = 0#41 ∧ w.getLsbD 7 = false ∧ 1 ≤ rows ∧ rows ≤ 128 ∧ 1 ≤ cols ∧ cols ≤ 64 ∧ row + rows ≤ 128 ∧
          (mt = .e2m1 → cols % 2 = 0) ∧ (m.imm32 ≠ 0 → packBytes mt cols ≤ m.imm32.toNat)
        (¬ ok → raised i 0x62 (enc i)) ∧
        (ok → x.toNat < 2 ^ 56 → u.checkpointed n = false →
          enters i w x (if m.imm32 = 0 then packBytes mt cols else m.imm32.toNat)))) ∧
    (s.reads m .int [d] = some ([w], u) →
      (s.Issues (.mupl d m) m → (mupOk w = true → enters (.mupl d m) w 0 0) ∧ (mupOk w = false → raised (.mupl d m) 0x63 (enc (.mupl d m)))) ∧
      (s.Issues (.mzero d m) m →
        let ok := w.getLsbD 7 = false ∧ w.extractLsb' 16 48 = 0#48 ∧ 1 ≤ (w.extractLsb' 8 8).toNat ∧
          (w.extractLsb' 0 7).toNat + (w.extractLsb' 8 8).toNat ≤ 128
        (ok → enters (.mzero d m) w 0 0) ∧ (¬ ok → raised (.mzero d m) 0x62 (enc (.mzero d m)))) ∧
      (s.Issues (.mtr d m) m →
        let k := 16 * ((w.extractLsb' 14 2).toNat + 1)
        let ok := w.extractLsb' 16 48 = 0#48 ∧ (w.extractLsb' 0 7).toNat + k ≤ 128 ∧ (w.extractLsb' 7 7).toNat + k ≤ 128
        (ok → enters (.mtr d m) w 0 0) ∧ (¬ ok → raised (.mtr d m) 0x62 (enc (.mtr d m)))) ∧
      (s.Issues (.msacc d m) m →
        let k := 16 * ((w.extractLsb' 21 2).toNat + 1)
        let ok := w.extractLsb' 26 38 = 0#38 ∧ (w.extractLsb' 0 7).toNat + k ≤ 128 ∧ (w.extractLsb' 7 7).toNat + k ≤ 128
        (ok → enters (.msacc d m) w 0 0) ∧ (¬ ok → raised (.msacc d m) 0x62 (enc (.msacc d m))))) ∧
    (∀ i ∈ [Instr.mma d a m, .mmap d a m, .mwld d a m, .mupl d m, .mzero d m, .mtr d m, .msacc d m, .mst d a m, .mld d a m, .mfence m],
      s.Issues i m → 2 ≤ s.me.mq.length → exec i s = .next s) ∧
    (s.Issues (.mfence m) m → enters (.mfence m) 0 0 0 ∧
      (s.me.mq.length < 2 → ∀ t, exec (.mfence m) s = .next t → ∃ id, t.my.block = s.my.block ++ [id])) ∧
    (s.Issues (.mstatMatrix d m) m → ∃ t, exec (.mstatMatrix d m) s = .next t ∧ t.my.lr = s.me.mstat.fseq ++ s.me.mstat.done ++
        ((0#11 ++ s.me.mstat.flags) ++ s.me.mstat.cause ++ 0#5 ++ BitVec.ofBool s.me.mstat.faulted ++ 0#1 ++
          BitVec.ofBool (!s.me.mq.isEmpty || s.me.mrun.isSome)) ∧
      t.me.mstat = { s.me.mstat with faulted := false, cause := 0, fseq := 0, flags := 0 }) ∧
    (∀ k, s.GoesOn (.mmag d a c m) [x, r, w] → s.my.atMeeting r = true → s.my.answer = some k →
      ∃ t, exec (.mmag d a c m) s = .next t ∧ t.my.pc = nextPc s.my.pc m ∧ t.my.meet = none ∧ t.my.answer = none ∧ t.my.doing = none) ∧
    (s.reads m .int [a, c, d] = some ([x, r, w], u) → s.Issues (.mmag d a c m) m →
      (∀ g off, s.my.wait = none → s.cur.2 = 0 → tileOk w m.ty true = true → woff + bBytes w m.bTy ≤ 131072 →
        winOf x.toNat = some (0, off) → need ≤ p → u.localRange n x.toNat ((tileM w - 1) * p + need) = none →
        s.me.gang = some g → (rectOfWord r).aligned = true → r.extractLsb' 16 48 = 0#48 → (rectOfWord r).within g.rect = true →
        (rectOfWord r).has n = true → (rectOfWord r).lw ≤ 3 → (rectOfWord r).lh ≤ 3 → u.meetWithheld r false = none →
        ∃ t, exec (.mmag d a c m) s = .next t ∧ t.my.pc = s.my.pc ∧ t.my.atMeeting r = true ∧ t.my.doing = some (.mmag d a c m) ∧
          t.my.meet.map MCmd.word = some w))

/-- A meeting whose every core waits with room enters each command in its port with the suppliers of its row of A and its column of B.
The unit grants the core that its rotation picks, and the head command leaves the queue, with the bytes that it reads. On completion
MMA of 8-bit integers leaves C plus the sum of the products, wrapped, in lanes 0 to N − 1 of the D rows; of a float format the
granule sums of R250; MZERO zeros; MTR the transposed block; MSACC the scale rule; MMAP runs the microprogram of R380 for each
element; MLD gives the first elements of its rows the converted ones it read, and MST writes its converted elements to memory, here
the own scratchpad, and no other byte; MWLD the bytes in the weight slice; MUPL the microprogram; all other rows stay. The count of
done commands grows, flags join, and a fault sets FAULTED, its cause and sequence and raises a pilot event, whose form is the
model's choice (log entry 76); while FAULTED stands a command only ends. Rules: R85, R250, R253, R370, R377, R378, R379, R380, R381,
R382, R386, R387. -/
def Obligations.MatrixCommandsComplete : Prop :=
  ∀ (d a c : Opnd) (m : Mods) (s : State) (n o : Nat) (k : MCmd),
    let row (r : Nat) : RowVal := (s.core n).row r
    let st := (s.core n).mstat
    let w := k.word
    let f (lo len : Nat) : Nat := bitsOf w lo len
    let ends (t : State) (fl : BitVec 5) : Prop := exec (.matrixCommandComplete n) s = .next t ∧ (t.core n).mrun = none ∧
      (t.core n).mstat = { st with done := st.done + 1, flags := st.flags ||| fl } ∧ (t.octet (octetOf n)).matrix = none
    let rows (i : Instr) (own : Nat → Bool) (g : Nat → Nat → Nat) : Prop := k.instr = i → ∃ t fl, ends t fl ∧
      ∀ r : Nat, (own r = false → (t.core n).row r = row r) ∧
        (own r = true → ∀ j : Nat, j < 64 → laneOf ((t.core n).row r) 32 j = g r j)
    ((s.core n).mrun = some k → st.faulted = false → (s.octet (octetOf n)).matrix = some n → k.fault = none →
      (let N := 16 * (f 16 2 + 1)
       let M := 16 * (f 14 2 + 1)
       let D := f 0 7
       let A (r q : Nat) : Nat := elemAt (k.data.drop ((r - D) * packBytes m.ty (tileK w))) m.ty q
       let B (q j : Nat) : Nat := bElem k.bdata m.bTy w q j
       let C (r j : Nat) : Nat := if w.getLsbD 42 then 0 else laneOf (row (f 7 7 + (r - D))) 32 j
       let own (r : Nat) : Bool := decide (D ≤ r) && decide (r < D + M)
       (m.ty = .i8 ∨ m.ty = .n8 → ∀ i ∈ [Instr.mma d a m, .mmag d a c m], k.bad = false → rows i own (fun r j =>
         if j < N then lowBits 32 ((List.range (tileK w)).foldl (fun e q => e + intOf m.ty (A r q) * intOf m.bTy (B q j)) (toSigned (C r j) 32))
         else laneOf (row r) 32 j)) ∧
       (m.ty ≠ .i8 → m.ty ≠ .n8 → rows (.mma d a m) own (fun r j =>
         if j < N then (mmaFloat (granule m.ty) (C r j)
           ((List.range (tileK w)).map (fun q => (numOf m.ty (A r q), numOf m.bTy (B q j))))).1 % 2 ^ 32 else laneOf (row r) 32 j))) ∧
      (let N := 16 * (f 16 2 + 1)
       let M := 16 * (f 14 2 + 1)
       let D := f 0 7
       let wide (t : ElTy) (v : Nat) : Nat := (convert t .f32 .rne 0 false v).1
       let A (r q : Nat) : Nat := wide m.ty (elemAt (k.data.drop ((r - D) * packBytes m.ty (tileK w))) m.ty q)
       let B (q j : Nat) : Nat := wide m.bTy (bElem k.bdata m.bTy w q j)
       let C (r j : Nat) : Nat := if w.getLsbD 42 then 0 else laneOf (row (f 7 7 + (r - D))) 32 j
       let slots := (List.range 4).filterMap (fun i =>
         let x := (s.core n).mup.extractLsb' (16 * i) 16
         if x.getLsbD 11 then some x else none)
       let pick (e : Nat × Nat × Nat × Nat) (c : BitVec 2) : Nat :=
         if c = 0 then e.1 else if c = 1 then e.2.1 else if c = 2 then e.2.2.1 else e.2.2.2
       let op (e : Nat × Nat × Nat × Nat) (x : BitVec 16) : Nat × Nat × Nat × Nat :=
         let p := pick e (x.extractLsb' 5 2)
         let q := pick e (x.extractLsb' 7 2)
         let v := match (x.extractLsb' 0 3).toNat with
           | 0 => (addRne .f32 p q).1 | 1 => (subRne .f32 p q).1 | 2 => (mulRne .f32 p q).1
           | 3 => (minMaxNum .f32 false p q).1 | 4 => (minMaxNum .f32 true p q).1
           | _ => if (numOf .f32 q).ltb (numOf .f32 p) then pick e (x.extractLsb' 9 2) else pick e (x.extractLsb' 3 2)
         let v' := if (numOf .f32 v).isNan then (fpFmt .f32).nan else v
         if x.extractLsb' 3 2 = 0 then (v', e.2) else (e.1, e.2.1, e.2.2.1, v')
       rows (.mmap d a m) (fun r => decide (D ≤ r) && decide (r < D + M)) (fun r j =>
         if j < N then ((List.range (tileK w)).foldl (fun c q => (slots.foldl op (c, A r q, B q j, 0)).1) (C r j)) % 2 ^ 32
         else laneOf (row r) 32 j)) ∧
      rows (.mld d a m) (fun r => decide (f 0 7 ≤ r) && decide (r < f 0 7 + f 8 8)) (fun r j =>
        let need := packBytes m.ty (f 16 7)
        if j < f 16 7 then (convert m.ty m.modTy k.rm (laneSeed k.seed j) m.sat
          (elemAt ((k.data.drop ((r - f 0 7) * need)).take need) m.ty j)).1 % 2 ^ 32
        else laneOf (row r) 32 j) ∧
      (∀ off : Nat, let cols := f 16 7
        let R := f 8 8
        let need := packBytes m.modTy cols
        k.instr = .mst d a m → winOf k.addr.toNat = some (0, off) → 1 ≤ cols → 1 ≤ R → need ≤ k.pitch → (s.core n).scr.wf = true →
        (s.core n).top ≤ 524288 → off + (R - 1) * k.pitch + need ≤ (s.core n).top →
        ∃ t fl, ends t fl ∧ (t.core n).rows = (s.core n).rows ∧
          (∀ r j : Nat, r < R → j < cols →
            elemAt ((List.range need).map (fun b => BitVec.ofNat 8 (t.ownByte n (off + r * k.pitch + b)))) m.modTy j =
              (convert m.ty m.modTy k.rm (laneSeed k.seed j) m.sat (laneOf (row (f 0 7 + r)) 32 j)).1 % 2 ^ m.modTy.bits) ∧
          ∀ z : Nat, (∀ r : Nat, r < R → z < off + r * k.pitch ∨ off + r * k.pitch + need ≤ z) → t.ownByte n z = s.ownByte n z) ∧
      rows (.mzero d m) (fun r => decide (f 0 7 ≤ r) && decide (r < f 0 7 + f 8 8)) (fun _ _ => 0) ∧
      (let S := 16 * (f 14 2 + 1)
       rows (.mtr d m) (fun r => decide (f 7 7 ≤ r) && decide (r < f 7 7 + S)) (fun r j =>
         if j < S then laneOf (row (f 0 7 + j)) 32 (r - f 7 7) else laneOf (row r) 32 j)) ∧
      (let M := 16 * (f 21 2 + 1)
       let N := 16 * (f 23 2 + 1)
       let t : ElTy := if w.getLsbD 25 then .i32 else .f32
       rows (.msacc d m) (fun r => decide (f 0 7 ≤ r) && decide (r < f 0 7 + M)) (fun r j =>
         let i := r - f 0 7
         if j < N then (finish .f32 .rne 0 false (scaleSum .rne (numOf .f32 (laneOf (row r) 32 j)) (numOf t (laneOf (row (f 7 7 + i)) 32 j))
           (laneOf (row (f 14 7)) 8 i) (laneOf (row (f 14 7)) 8 (64 + j)))).1 % 2 ^ 32
         else laneOf (row r) 32 j)) ∧
      (k.instr = .mwld d a m → ∃ t, ends t 0 ∧ (t.core n).wts = (s.core n).wts.setBytes (f 0 11 * 64) (k.data.take (k.data.length / 64 * 64)) ∧
        (t.core n).rows = (s.core n).rows) ∧
      (k.instr = .mupl d m → ∃ t, ends t 0 ∧ (t.core n).mup = w ∧ (t.core n).rows = (s.core n).rows)) ∧
    (∀ e, (s.core n).mrun = some k → st.faulted = false → k.fault = some e → k.instr = .mma d a m →
      ∃ t, exec (.matrixCommandComplete n) s = .next t ∧ (t.core n).mstat = { st with done := st.done + 1, faulted := true, cause := e, fseq := k.seq } ∧
        (t.core n).rows = (s.core n).rows ∧ t.dev.pilot = s.dev.pilot ++ [(3, BitVec.ofNat 64 (n * 256 + 0x80), e.setWidth 64)]) ∧
    ((s.core n).mrun = some k → st.faulted = true → ∃ t, exec (.matrixCommandComplete n) s = .next t ∧
      (t.core n).mstat = { st with done := st.done + 1 } ∧ (t.core n).rows = (s.core n).rows ∧ (t.core n).wts = (s.core n).wts) ∧
    (∀ pos used rest, (s.octet o).matrix = none → s.mRotate o 9 (s.octet o).arb (s.octet o).used = some (pos, used) →
      (s.core (octetCore o pos)).mq = k :: rest →
      ∃ t k', exec (.matrixGrant o) s = .next t ∧ (t.octet o).matrix = some (octetCore o pos) ∧ (t.octet o).arb = pos ∧
        (t.octet o).used = used + 1 ∧ (t.core (octetCore o pos)).mrun = some k' ∧ k'.instr = k.instr ∧ k'.word = k.word ∧ k'.seq = k.seq ∧
        ∀ (i : Instr) (cnt pitch need off : Nat), (i, cnt, pitch, need) ∈ [(Instr.mma d a m, tileM k.word, k.pitch, packBytes m.ty (tileK k.word)),
            (.mmap d a m, tileM k.word, k.pitch, packBytes m.ty (tileK k.word)), (.mwld d a m, 1, 0, bitsOf k.word 11 12 * 64),
            (.mld d a m, bitsOf k.word 8 8, k.pitch, packBytes m.ty (bitsOf k.word 16 7))] →
          let q := octetCore o pos
          k.instr = i → (i ∈ [Instr.mma d a m, .mmap d a m] → k.aFrom = (q, k.addr, k.pitch)) → winOf k.addr.toNat = some (0, off) → 1 ≤ cnt → 1 ≤ need → (s.core q).mfOk → (s.core q).scr.wf = true →
          (s.core q).top ≤ 524288 → off + (cnt - 1) * pitch + need ≤ (s.core q).top →
          k'.fault = none ∧ k'.data = (List.range cnt).flatMap (fun r => (List.range need).map (fun b =>
            BitVec.ofNat 8 (s.ownByte q (off + r * pitch + b))))) ∧
    (∀ mine, (s.ctx n 0).meet = some mine →
      let r := rectOfWord mine.rect
      s.nextId ≠ 0 → r.cores.Nodup → (∀ j ∈ r.cores, ∃ q, s.meetCmd mine.rect j = some q ∧ q.shape = mine.shape) →
      ∃ t, exec (.mmagMeeting n) s = .next t ∧ ∀ j ∈ r.cores, (t.ctx j 0).answer = some (0, 0) ∧
        ∃ q e, s.meetCmd mine.rect j = some q ∧ (t.core j).mq = (s.core j).mq ++ [e] ∧ e.instr = q.instr ∧ e.word = q.word ∧
          e.bad = false ∧ e.meet ≠ 0 ∧ e.aFrom.1 = coreAt r.x0 (coreY j) ∧ e.bFrom.1 = coreAt (coreX j) r.y0)

/-- Package reset leaves every register at its reset value but TRIP, memory and cores empty, and flash, fuses and host memory as they
are: what it keeps and clears, and the values of registers that the spec gives none, are the model's choice (log entries 70 and 2).
Power good, self-calibration and memory initialisation lead from stage to stage, and a failure or the rail limit leaves its FAILSTEP
and FW_FAIL. PHYs out of range fence their hub or stack. The boot ROM runs an image that is signed, of the right length and not
below the fuses, raises the fuses to its version, fences the octets that fail, and sets READY; with no such image it enters
recovery. A kick restarts the pilot watchdog and its expiry holds the pilot cores and sets PILOT_RESTART. The clamp moves the clock
by 250 MHz between 1,000 and 4,000, heat sets 1,000, and the trip removes power and is recorded. Rules: R22, R24, R56, R58, R59,
R60, R61. -/
def Obligations.BringUpAndPower : Prop :=
  ∀ (s : State),
    let at0 (n : Nat) : Prop := s.dev.powered = true ∧ s.regF 0 24 8 = n ∧ (s.reg 0).getLsbD 3 = false ∧ (s.reg 0).getLsbD 2 = false
    let next (i : Instr) (n : Nat) (f : State → Prop) : Prop := ∃ t, exec i s = .next t ∧ t.regF 0 24 8 = n ∧
      (∀ j : Nat, j < 24 → (t.reg 0).getLsbD j = (s.reg 0).getLsbD j) ∧ t.dev.msix = s.dev.msix ∧ f t
    let fails (i : Instr) (step : Nat) : Prop := ∃ t, exec i s = .next t ∧ t.regF 0 4 4 = step ∧ (t.reg 0).getLsbD 3 = true ∧
      t.regF 0 24 8 = s.regF 0 24 8 ∧ t.dev.msix = s.dev.msix ++ [(0, 0)]
    (∃ t, exec .packageReset s = .next t ∧ t.regF 0 8 2 = s.regF 0 8 2 ∧ (∀ a : Nat, a ≠ 0 → t.reg a = Pf.resetValue a) ∧
      t.regF 0 24 8 = 0 ∧ t.hbm = [] ∧ t.fills = [] ∧ t.ecc = [] ∧ t.cores = [] ∧ t.parts = [] ∧ t.dies = [] ∧ t.dev.flash = s.dev.flash ∧ t.dev.fused = s.dev.fused ∧
      t.hostMem = s.hostMem) ∧
    (at0 0 → next .powerGood 1 (fun _ => True)) ∧
    (at0 0 → 50000 * s.dev.clock ≤ s.cyc → fails .railTimeout 1) ∧
    (∀ ps ks : List Nat, at0 1 → next (.selfCalibrationDone true ⟨ps, ks⟩) 2 (fun t =>
        (∀ h : Nat, h ∈ t.dev.fencedHubs ↔ h ∈ s.dev.fencedHubs ∨ ∃ p ∈ ps, p / 16 = h) ∧
        ∀ k : Nat, k ∈ t.dev.fencedStacks ↔ k ∈ s.dev.fencedStacks ∨ k ∈ ks) ∧
      fails (.selfCalibrationDone false ⟨ps, ks⟩) 2) ∧
    (at0 2 → next (.hbmInitDone true) 3 (fun t => t.hbm = [] ∧ t.ecc = [] ∧ t.lineKey = [] ∧ (∀ d : Nat, (t.die d).l2 = []) ∧
        ∀ k : Nat, k < 8 → (k * 2 ^ 36, 2 ^ 36, s.material k 0) ∈ t.fills) ∧
      fails (.hbmInitDone false) 3) ∧
    (∀ (l : List Nat) (i : FwImage), at0 3 → s.dev.pilotHeld = false → s.dev.flash = some i →
      (i.signed = true → i.lengthOk = true → s.dev.fused ≤ i.version → s.dev.heldVfs = none → ∃ t, exec (.bootRomLoad l) s = .next t ∧
        (t.reg 0).getLsbD 0 = true ∧ t.regF 0 24 8 = 5 ∧ t.dev.running = some i ∧ t.dev.fused = i.version ∧ (∀ o : Nat, o ∈ t.dev.fenced ↔ o ∈ s.dev.fenced ∨ o ∈ l) ∧
        t.dev.kickAt = some s.cyc) ∧
      (i.signed = false ∨ i.lengthOk = false ∨ i.version < s.dev.fused → ∃ t, exec (.bootRomLoad l) s = .next t ∧
        (t.reg 0).getLsbD 2 = true ∧ (t.reg 0).getLsbD 0 = false ∧ t.dev.running = none ∧ t.dev.pilotHeld = true)) ∧
    (∀ t0, s.dev.kickAt = some t0 →
      exec .pilotWdKick s = .next { s with dev := { s.dev with kickAt := some s.cyc } } ∧
      (t0 + 1000 * max 1 (s.regF 0x60 0 16) * s.dev.clock ≤ s.cyc → ∃ t, exec .pilotWatchdogExpiry s = .next t ∧ t.dev.pilotHeld = true ∧
        t.dev.kickAt = none ∧ (t.reg 0).getLsbD 1 = true)) ∧
    (∀ w : Nat, ∀ b : Bool, (3200 < w → ∃ t, exec (.powerClampSample w b) s = .next t ∧ t.dev.clock = max 1000 (s.dev.clock - 250)) ∧
      (w < 3040 → s.dev.hot = false → ∃ t, exec (.powerClampSample w true) s = .next t ∧ t.dev.clock = min 4000 (s.dev.clock + 250))) ∧
    (s.dev.hot = false → ∃ t, exec (.thermalLimit true) s = .next t ∧ t.dev.clock = 1000 ∧ t.dev.hot = true ∧
      t.dev.msix = s.dev.msix ++ [(0, 3)]) ∧
    (s.dev.hot = true → ∃ t, exec (.thermalLimit false) s = .next t ∧ t.dev.clock = s.dev.clock ∧ t.dev.hot = false) ∧
    (∃ t, exec .thermalTrip s = .next t ∧ t.dev.powered = false ∧ t.regF 0 8 2 = 1)

/-- FW_CMD with GO starts an update; it ends with CODE 5 for a length, 3 for a signature, 4 for a version below the fuses, 6 for a flash
write that fails, which leaves no valid image, in this order, which is the model's choice (log entry 99), else 2 with the image of
host memory in flash, and with PF vector 0; in recovery a good image resets the package. A responder signs each response; it refuses
another version, opens at most four sessions, ends one on END_SESSION, tells its algorithms, returns the I/O die's chain for slot 0
and none for the others, and answers measurements with its blocks; a die's evidence that is late loses its signature. A key over a
session loads its slot in CONFIG_UNLOCKED, with the next generation; held pilot cores load none. The request codes and the signed
bytes are the model's (log entry 67). Rules: R49, R50, R51, R56, R57, R58. -/
def Obligations.FirmwareUpdatesAndSessions : Prop :=
  ∀ (s : State) (fn : Nat) (i : FwImage) (nonce : BitVec 256),
    let resp := (s.reg 0).getLsbD 0 = true ∧ s.dev.pilotHeld = false ∧ (fn = 0 ∨ (s.vf fn).enabled = true)
    let n := AMap.getD s.dev.sessions fn 0
    let replies (j : Instr) (a : Answer) : Prop := ∃ t, exec j s = .next t ∧ t.dev.answers = s.dev.answers ++ [(a, Config.dieSign 12 (Config.sha512 a.bytes))] ∧ t.regs = s.regs
    let got : FwImage := { i with data := s.hostMem.bytes (s.reg 0x40).toNat (s.regF 0x48 0 28) }
    (∀ v : Word, v.getLsbD 0 = true → (s.reg 0x50).getLsbD 0 = false →
      exec (.fwUpdateGo v) s = .next ((s.setReg 0x50 1).setReg 0x58 1)) ∧
    (∀ ok : Bool, (s.reg 0x50).getLsbD 0 = true → (s.reg 0).getLsbD 2 = false → (s.reg 0).getLsbD 0 = true → s.dev.pilotHeld = false →
      let code : Nat := if i.lengthOk = false ∨ 0x8000000 < s.regF 0x48 0 28 then 5 else if i.signed = false then 3
        else if i.version < s.dev.fused then 4 else if ok then 2 else 6
      ∃ t, exec (.fwUpdateComplete i ok) s = .next t ∧ t.reg 0x58 = BitVec.ofNat 64 code ∧ t.reg 0x50 = 0 ∧
        t.dev.msix = s.dev.msix ++ [(0, 0)] ∧ t.dev.flash = (if code = 2 then some got else if code = 6 then none else s.dev.flash) ∧
        t.dev.fused = s.dev.fused) ∧
    ((s.reg 0x50).getLsbD 0 = true → (s.reg 0).getLsbD 2 = true → i.lengthOk = true → s.regF 0x48 0 28 ≤ 0x8000000 → i.signed = true →
      s.dev.fused ≤ i.version → ∃ t, exec (.fwUpdateComplete i true) s = .next t ∧ t.dev.flash = some got ∧ t.regF 0 24 8 = 0 ∧ t.cores = []) ∧
    (resp →
      (∀ v : BitVec 8, v ≠ 0x13 → replies (.keyExchange fn v) (.versionMismatch fn) ∧ ∀ c q, replies (.spdmRequest fn v ⟨c, q⟩) (.versionMismatch fn)) ∧
      (4 ≤ n → replies (.keyExchange fn 0x13) (.sessionLimit fn)) ∧
      (n < 4 → ∃ t, exec (.keyExchange fn 0x13) s = .next t ∧ AMap.getD t.dev.sessions fn 0 = n + 1 ∧
        t.dev.answers.map Prod.fst = s.dev.answers.map Prod.fst ++ [.reply fn 0xE4]) ∧
      (∀ q, ∃ t, exec (.spdmRequest fn 0x13 ⟨0xEC, q⟩) s = .next t ∧ AMap.getD t.dev.sessions fn 0 = n - 1) ∧
      (∀ q, replies (.spdmRequest fn 0x13 ⟨0xE3, q⟩) (.algorithms fn .ecdsaP521 .sha512 .ecdheSecp521r1 .aes256Gcm) ∧
        replies (.spdmRequest fn 0x13 ⟨0x82, q⟩) (.certificate fn (q.toNat % 8) (if q.toNat % 8 = 0 then some (Config.dieCert 12) else none)) ∧
        ∀ c, c ≠ 0xEC → replies (.spdmRequest fn 0x13 ⟨c, q⟩) (spdmAnswer fn c q)) ∧
      replies (.getMeasurements fn nonce) (.measurements fn nonce (s.blocks fn nonce)) ∧
      (s.blocks fn nonce).map Block.index = (List.range (if fn = 0 then 16 else 17)).map (· + 1)) ∧
    (∀ (rest : List (Answer × BitVec 1056)) (bs : List Block) (g : BitVec 1056) (d : Nat), d < 12 →
      s.dev.answers = rest ++ [(.measurements fn nonce bs, g)] →
      let late : Answer := .measurements fn nonce (bs.map (fun b => if b.index = 5 + d then { b with sig := none } else b))
      ∃ t, exec (.dieEvidenceTimeout d) s = .next t ∧ t.dev.answers = rest ++ [(late, Config.dieSign 12 (Config.sha512 late.bytes))]) ∧
    (∀ (slot : Nat) (key : BitVec 512), (s.dev.pilotHeld = true → exec (.keyLoad fn slot key) s = .next s) ∧
      (s.dev.pilotHeld = false → s.vfUp fn = true → s.tdisp fn = 0 → slot < 16 → n ≠ 0 →
      let g := (AMap.getD s.keyGen ((fn - 1) * 16 + slot) 0 + 1) % 2 ^ 32
      ∃ t, exec (.keyLoad fn slot key) s = .next t ∧ AMap.get? t.keys ((fn - 1) * 16 + slot) = some key ∧
        t.regF (Pf.keyStat (fn - 1)) 32 32 = g ∧ (t.reg (Pf.keyStat (fn - 1))).getLsbD slot = true ∧
        (∀ j : Nat, j < 16 → j ≠ slot → (t.reg (Pf.keyStat (fn - 1))).getLsbD j = (s.reg (Pf.keyStat (fn - 1))).getLsbD j)))

/-- NumVFs written before READY is held; with READY it enables the VFs up to it that have a tenant. LOCK leads from CONFIG_UNLOCKED to
CONFIG_LOCKED and keeps the locked items for the measurement, START to RUN, STOP to CONFIG_UNLOCKED, from CONFIG_LOCKED, RUN or a
running reset by a reset; the report is given of a locked interface; what the responder speaks and the state of the interface it
tells in every state; pilot firmware answers each, and with an error where the state does not take it. Which states take which
request, where R48 leaves it to TDISP, is presumed (log entry 103). A breach in CONFIG_LOCKED or RUN makes the state ERROR and
starts a reset; a function-level reset resets in every state. A reset that is quiet ends: the VF answers again, unlocked unless an
ERROR stays, slot 0 holds a fresh key and slots 1 to 15 none, the stack reads zero, and the page-table root and the halt table are
those that pilot firmware set. That configuration space outlives the reset is the model's choice (log entry 98). Rules: R47, R48,
R51, R63. -/
def Obligations.VirtualFunctions : Prop :=
  ∀ (s : State) (v : Nat), 1 ≤ v → v ≤ 8 →
    let up := s.vfUp v = true
    let st := s.tdisp v
    (∀ n : Nat, n ≤ 8 →
      ((s.reg 0).getLsbD 0 = false → exec (.numvfsWrite n) s = .next { s with dev := { s.dev with heldVfs := some n } }) ∧
      ((s.reg 0).getLsbD 0 = true → (∀ w : Nat, (s.vf w).enabled = false) → ∃ t, exec (.numvfsWrite n) s = .next t ∧ t.dev.numVfs = n ∧
        ((t.vf v).enabled = true ↔ v ≤ n ∧ (s.vf v).assigned = true) ∧ (v ≤ n → (s.vf v).assigned = true → t.tdisp v = 0))) ∧
    ((s.reg 0).getLsbD 0 = true → s.dev.pilotHeld = false → (s.vf v).enabled = true →
      let answers (i : Instr) (a : Answer) (f : State → Prop) : Prop := ∃ t, exec i s = .next t ∧
        t.dev.answers = s.dev.answers ++ [(a, Config.dieSign 12 (Config.sha512 a.bytes))] ∧ f t
      let refused (i : Instr) : Prop := answers i (.stateError v) (fun t => t.regs = s.regs ∧ t.dev.vfs = s.dev.vfs)
      (up → st = 0 → answers (.lockInterfaceRequest v) (.locked v) (fun t => t.tdisp v = 1 ∧ (t.vf v).lockCfg = [s.reg (Pf.vf v 0x40),
        s.reg (Pf.vf v 0x48), (s.vf v).bar0, 0x10000, if (s.vf v).memEn then 1 else 0] ++ (s.vf v).msixTable)) ∧
      (st ≠ 0 → refused (.lockInterfaceRequest v)) ∧ (st ≠ 1 → refused (.startInterfaceRequest v)) ∧
      (up → st = 1 → answers (.startInterfaceRequest v) (.started v) (fun t => t.tdisp v = 2)) ∧
      (st = 0 ∨ st = 3 → (s.vf v).resetting = false → answers (.stopInterfaceRequest v) (.stopped v) (fun t => t.tdisp v = 0 ∧ t.dev.vfs = s.dev.vfs)) ∧
      (st = 1 ∨ st = 2 ∨ (s.vf v).resetting = true →
        exec (.stopInterfaceRequest v) s = .next ((s.setVf v { s.vf v with stopping := true }).startReset v true false)) ∧
      (st = 1 ∨ st = 2 → answers (.getDeviceInterfaceReport v) (.report v 0x10000 0x080) (fun t => t.regs = s.regs)) ∧
      (st = 0 ∨ st = 3 → refused (.getDeviceInterfaceReport v)) ∧
      (∀ (q : TdispQuery) (a : Answer), (q, a) ∈ [(.version, .tdispVersion v 0x10), (.capabilities, .tdispCapabilities v), (.state, .interfaceState v st)] →
        (s.tdispQuery v q).dev.answers = s.dev.answers ++ [(a, Config.dieSign 12 (Config.sha512 a.bytes))] ∧ (s.tdispQuery v q).regs = s.regs)) ∧
    ((s.vf v).enabled = true →
      (st = 1 ∨ st = 2 → ∀ i ∈ [Instr.lockedItemWrite v, .ideIntegrityFailure v, .functionLevelReset v],
        exec i s = .next ((s.setTdisp v 3).startReset v false false)) ∧
      (st = 0 ∨ st = 3 → exec (.functionLevelReset v) s = .next (s.startReset v false false))) ∧
    (∀ u d : Bool, (s.vf v).resetting = true → s.startReset v u d = s.setVf v { s.vf v with
      unlock := (s.vf v).unlock || u, disable := (s.vf v).disable || d, load := none }) ∧
    (∀ x : ResetSetup, (s.vf v).resetting = true → s.resetQuiet (v - 1) = true → s.dev.pilotHeld = false → s.hbm.wf = true → x.tables = [] →
      ∃ t, exec (.partitionResetComplete (v - 1) x) s = .next t ∧ (t.vf v).resetting = false ∧ (t.vf v).load = none ∧
        (t.vf v).enabled = ((s.vf v).enabled && !(s.vf v).disable) ∧
        (t.vf v).bar0 = (s.vf v).bar0 ∧ (t.vf v).memEn = (s.vf v).memEn ∧ (t.vf v).msixTable = (s.vf v).msixTable ∧
        t.dev.answers.map Prod.fst = s.dev.answers.map Prod.fst ++ (if (s.vf v).stopping then [.stopped v] else []) ∧ t.tdisp v = (if st = 3 ∧ (s.vf v).unlock = false then 3 else 0) ∧
        AMap.get? t.keys ((v - 1) * 16) = some (Config.freshKey s.fresh) ∧
        (∀ j : Nat, 1 ≤ j → j < 16 → AMap.get? t.keys ((v - 1) * 16 + j) = none) ∧ t.regF (Pf.keyStat (v - 1)) 0 16 = 1 ∧
        (∀ a : Nat, a / 2 ^ 36 = v - 1 → t.hbm.get a = 0) ∧ (∀ a : Nat, a / 2 ^ 36 ≠ v - 1 → t.hbm.get a = s.hbm.get a) ∧
        t.reg (Pf.mmuRoot (v - 1)) = x.root &&& 0x00FFFFFFFFFFFF80#64 ∧ t.reg (Pf.hltBase (v - 1)) = x.hltBase &&& 0x00FFFFFFFFFF0000#64 ∧
        (t.part (v - 1)).gangs = [])

/-- VF_ARM of a VF that is not locked posts a host arm for the Chartroom; a reserved bit, or a VF in CONFIG_LOCKED or ERROR, is refused
in VF_ARMERR with 0x72 or 0x71 and MSI-X vector 1. VF_CMPL_TAIL takes its 32 bits. VF_CMPL_CTL takes LOG2N from 4 to 16 with EN, and
with another clears EN and sets bit 1 of VF_EVT; in CONFIG_LOCKED and RUN a write is a breach, and in ERROR, where the item is
locked too, it changes nothing more. VF_LOAD_GO starts a load with the registers' source, length and destination, in RUN only from
the TEE; GO reads 1 until it ends; one that runs sets bit 2 of VF_EVT; in CONFIG_LOCKED and ERROR the status is 9. The load ends
with 8 where the host cannot be read, with the status of the first check that fails, with 10 for a native container, else 2 or 3 by
the cache, which then holds it first. That a load under way leaves a second one without effect in every state, that a failed host
read is judged first, and that LEN 0 or above 64 MiB gives 4 are the model's choices (log entries 71, 72 and 99). Rules: R52, R53,
R54, R62, R285, R286. -/
def Obligations.HostRequests : Prop :=
  ∀ (s : State) (v : Nat), s.vfUp v = true →
    let p := v - 1
    let st := s.tdisp v
    let stat (t : State) (c : Nat) : Prop := t.regF (Pf.vf v 0x98) 0 8 = c
    (∀ x : Word,
      (x.extractLsb' 13 51 = 0#51 → st = 0 ∨ st = 2 → ∃ t, exec (.vfArm v x) s = .next t ∧
        (t.part p).reqs = (s.part p).reqs ++ [⟨s.nextId, 0, 0, .hostArm x.toNat⟩] ∧ t.regs = s.regs) ∧
      ((s.reg (Pf.vf v 0x08)).getLsbD 31 = false →
        let refused (c : Nat) : Prop := ∃ t, exec (.vfArm v x) s = .next t ∧ t.parts = s.parts ∧
          (t.reg (Pf.vf v 0x08)).getLsbD 31 = true ∧ t.regF (Pf.vf v 0x08) 16 8 = c ∧ t.regF (Pf.vf v 0x08) 0 13 = (x.extractLsb' 0 13).toNat ∧
          t.dev.msix = s.dev.msix ++ [(v, 1)]
        (x.extractLsb' 13 51 ≠ 0#51 → refused 0x72) ∧ (x.extractLsb' 13 51 = 0#51 → st = 1 ∨ st = 3 → refused 0x71)) ∧
      exec (.vfCmplTail v x) s = .next (s.setReg (Pf.vf v 0x58) (x &&& 0xFFFFFFFF)) ∧
      (st = 0 → 4 ≤ (x.extractLsb' 0 5).toNat → (x.extractLsb' 0 5).toNat ≤ 16 →
        exec (.vfCmplCtl v x) s = .next (s.setReg (Pf.vf v 0x48) (x &&& 0x3F))) ∧
      (st = 0 → (x.extractLsb' 0 5).toNat < 4 ∨ 16 < (x.extractLsb' 0 5).toNat → ∃ t, exec (.vfCmplCtl v x) s = .next t ∧
        (t.reg (Pf.vf v 0x48)).getLsbD 5 = false ∧ (t.reg (Pf.vf v 0x18)).getLsbD 1 = true) ∧
      (st = 1 ∨ st = 2 → exec (.vfCmplCtl v x) s = .next ((s.setTdisp v 3).startReset v false false)) ∧
      (st = 3 → exec (.vfCmplCtl v x) s = .next s)) ∧
    (∀ tee : Bool, st = 2 → tee = true ∨ st ≠ 2 → (s.vf v).load = none → ∃ t, exec (.vfLoadGo v tee) s = .next t ∧ stat t 1 ∧
      (t.reg (Pf.vf v 0x98)).getLsbD 8 = true ∧
      (t.vf v).load = some ⟨(s.reg (Pf.vf v 0x80)).toNat, s.regF (Pf.vf v 0x88) 0 27, (s.reg (Pf.vf v 0x90)).toNat⟩ ∧
      (t.reg (Pf.vf v 0x10)).getLsbD 2 = true) ∧
    (st = 0 → (s.vf v).load = none → ∃ t, exec (.vfLoadGo v false) s = .next t ∧ stat t 1 ∧ (t.vf v).load ≠ none) ∧
    (st = 1 ∨ st = 3 → (s.vf v).load = none → ∃ t, exec (.vfLoadGo v false) s = .next t ∧ stat t 9 ∧ (t.vf v).load = none) ∧
    (st ≠ 2 → (s.vf v).load ≠ none → ∃ t, exec (.vfLoadGo v false) s = .next t ∧ (t.reg (Pf.vf v 0x18)).getLsbD 2 = true ∧ t.vf v = s.vf v) ∧
    (∀ l, (s.vf v).load = some l → s.dev.pilotHeld = false →
      let bs := s.hostMem.bytes l.src l.len
      let ends (ok : Bool) (c : Nat) : Prop := ∃ t, exec (.codeLoadComplete v ok) s = .next t ∧ stat t c ∧ (t.vf v).load = none ∧
        (t.reg (Pf.vf v 0x10)).getLsbD 2 = false ∧ (t.reg (Pf.vf v 0x98)).getLsbD 8 = false
      ends false 8 ∧
      (l.len = 0 ∨ 0x4000000 < l.len → ends true 4) ∧
      (l.len ≠ 0 → l.len ≤ 0x4000000 →
        (∀ c, s.loadCause p l.dst bs = some c → c < 256 → ends true c) ∧
        (s.loadCause p l.dst bs = none →
          ((headerOf bs).native = true → ends true 10) ∧
          ((headerOf bs).native = false → ends true (if bs ∈ (s.vf v).cache then 2 else 3) ∧
            ∀ t, exec (.codeLoadComplete v true) s = .next t → (t.vf v).cache.head? = some bs))))

/-- A write of HLT_REQ without GO takes its fields and leaves GO; with GO every LIVE context that it names and whose halt is not under
way is asked to halt, the others stay as they are, and GO reads 1 if there is one. HLT_REL with the id of a halted context makes
that context LIVE at its saved PC, with its record no longer valid and one halt less in HLT_STAT, and the halts behind it follow in
the next mesh cycle; an issue after a breakpoint's halt is let pass. With KILL the context becomes FREE instead. An id that no
halted context has sets REL_BAD. A chained release makes LIVE every halted context whose record names the released id as upstream,
or, for id 0, the round. While pilot firmware does not run none of these is written. A LIVE context that waits on an object that has
become withheld halts with 0xA0: its PC is the waiting instruction's, CODE is 0xA0, FADDR 0, its record holds the next halt id, the
PC and what it waits for, and HLT_STAT names the id after it; where the record's release at .sys has something to wait for, the
context has its halt id, waits for it and is recorded then. A wait whose cycles have reached its limit expires. An idle WAITA polls
again. A context about to issue an instruction that a breakpoint of action halt matches halts with 0x90, the breakpoint's number in
FADDR, and its PC at that instruction. Rules: R207, R208, R217, R198, R199, R202, R204, R206, R219, R326. -/
def Obligations.HaltsFromOutside : Prop :=
  (∀ (s : State) (p id n x : Nat) (v : Word),
    let named := s.reqNames p v
    let rel := Pf.hltRel p
    (s.pilotRuns = false → exec (.haltRequest p v) s = .next s ∧ exec (.haltRelease p id) s = .next s ∧ exec (.haltKill p id) s = .next s) ∧
    (s.pilotRuns = true →
    (v.getLsbD 63 = false → exec (.haltRequest p v) s = .next (s.setReg (Pf.hltReq p)
      ((v &&& 0x600000000000F3FF) ||| (s.reg (Pf.hltReq p) &&& 0x8000000000000000)))) ∧
    (v.getLsbD 63 = true → ∃ t, exec (.haltRequest p v) s = .next t ∧
      (∀ c : Nat × Nat, c ∈ named → (s.ctx c.1 c.2).st = .live → s.haltId c.1 c.2 = none → t.ctx c.1 c.2 = { s.ctx c.1 c.2 with haltReq := true }) ∧
      (∀ c : Nat × Nat, c ∉ named ∨ (s.ctx c.1 c.2).st ≠ .live ∨ s.haltId c.1 c.2 ≠ none → t.ctx c.1 c.2 = s.ctx c.1 c.2) ∧
      ((t.reg (Pf.hltReq p)).getLsbD 63 = true ↔ ∃ c ∈ named, (s.ctx c.1 c.2).st = .live ∧ s.haltId c.1 c.2 = none)) ∧
    (s.findHalt p id = none →
      (∃ t, exec (.haltRelease p id) s = .next t ∧ t.cores = s.cores ∧ (t.reg (Pf.hltEvt p)).getLsbD 1 = true ∧ t.regF rel 0 48 = id % 2 ^ 48) ∧
      (∃ t, exec (.haltKill p id) s = .next t ∧ t.cores = s.cores ∧ (t.reg (Pf.hltEvt p)).getLsbD 1 = true ∧ (t.reg rel).getLsbD 62 = true)) ∧
    (s.findHalt p id = some (n, x) → s.haltId n x = some id → (s.ctx n x).halting = none →
      (∃ t, exec (.haltRelease p id) s = .next t ∧ (t.ctx n x).st = .live ∧ (t.ctx n x).pc = (s.ctx n x).pc ∧
        (t.ctx n x).hrec.d0.getLsbD 8 = false ∧ t.regF (Pf.hltStat p) 48 16 = s.regF (Pf.hltStat p) 48 16 - 1 ∧
        (id, s.mesh + 1) ∈ (t.part p).chain ∧ (bitsOf (s.ctx n x).hrec.d0 0 8 = 0x90 → (t.ctx n x).pass = true)) ∧
      (∃ t, exec (.haltKill p id) s = .next t ∧ (t.ctx n x).st = .free ∧ (id, s.mesh + 1) ∈ (t.part p).chain))) ∧
    (∀ due : Nat, due ≤ s.mesh →
      (∀ d2 : Word, (s.part p).remote = [(d2, due)] → ∃ t, exec (.chainedRelease p 0) s = .next t ∧
        ∀ c ∈ s.haltedWith (fun r => r.d3.getLsbD 10 && r.d2 = d2), (t.ctx c.1 c.2).st = .live) ∧
      (id ≠ 0 → (s.part p).chain = [(id, due)] → ∃ t, exec (.chainedRelease p id) s = .next t ∧
        (∀ c ∈ s.haltedWith (upstreamIs p id), (t.ctx c.1 c.2).st = .live) ∧
        ∀ c : Nat × Nat, c ∉ s.haltedWith (upstreamIs p id) → (t.ctx c.1 c.2).st = (s.ctx c.1 c.2).st))) ∧
  (∀ (s : State) (n x : Nat),
    let k := s.ctx n x
    let p := partOf n
    let id := s.regF (Pf.hltStat p) 0 48
    let awaited := (s.releaseActs n x .sys).1
    let halts (t : State) (c : Nat) (f : Nat) (u : Option Upstream) : Prop := (t.ctx n x).pc = k.pc ∧
      bitsOf (t.ctx n x).cause 0 8 = c ∧ (t.ctx n x).faddr = BitVec.ofNat 64 f ∧
      (awaited = [] → (t.ctx n x).st = .halted ∧ (t.ctx n x).hrec = haltRec id x (BitVec.ofNat 8 c) k.pc u ∧
        t.regF (Pf.hltStat p) 0 48 = (id + 1) % 2 ^ 48) ∧
      (awaited ≠ [] → (t.ctx n x).halting = some (BitVec.ofNat 8 c, k.pc, u) ∧ (t.ctx n x).haltAs = some id ∧
        t.regF (Pf.hltStat p) 0 48 = (id + 1) % 2 ^ 48 ∧ ∀ j ∈ awaited, j ∈ (t.ctx n x).block)
    k.st = .live → k.block = [] → k.halting = none →
    (∀ (w : Wait) (u : Upstream), k.wait = some w → k.pend = [] → k.paused = false → s.noSpread n = false → (∀ h r, w.on ≠ .fixq h r) →
      s.waitWithheld n x w = some u → ∃ t, exec (.haltOnWithheld n x) s = .next t ∧ halts t 0xA0 0 (some u)) ∧
    (∀ w, k.wait = some w → w.limit ≠ 0 → w.limit ≤ w.elapsed → w.expired = false →
      exec (.waitLimitExpiry n x) s = .next (s.setCtx n x { k with wait := some { w with expired := true } })) ∧
    (∀ w, k.wait = some w → w.on = .poll → w.arrived = false → w.expired = false → k.answer = none →
      exec (.waitaPoll n x) s = .next (s.setCtx n x { k with wait := some { w with arrived := true } })) ∧
    (∀ i : Nat, s.aboutToIssue n x = true → k.pend = [] → k.pass = false → i < 8 → s.bpMatch n x i k.pc = true → s.cmpAction n x i = 1 →
      (∀ j : Nat, j < i → s.bpMatch n x j k.pc = true → s.cmpAction n x j ≠ 1) →
      ∃ t, exec (.breakpointHalt n x i) s = .next t ∧ halts t 0x90 i none))

/-- With ARM set, a dump of a partition starts with the record of its first core at offset 64 and the read-backs of its three 4 KiB
blocks; a buffer of 64 to 8,255 bytes receives the header alone, with flag 1 and no record, and one below 64 bytes ends it with
DUMP_OUT 3; while a dump runs another one waits; while pilot firmware does not run none starts. Before its record is taken a core's
latches and cached words are written back. When the read-backs of a record complete, the next record is written, or after the 128th
the header; where the next does not fit, the header follows with flag 1. A read-back that fails or is late is followed by the header
with flag 2 and its offset. The header's read-back ends the dump, with 1, or 2 where a flag is set, or 3 where it fails: DUMP_PART
and DUMP_OUT are set, ARM is cleared, and PF vector 1 is sent. Rules: R64, R65, R59, R58. -/
def Obligations.CoreDumps : Prop :=
  ∀ (s : State) (part : Nat) (cause : BitVec 8) (h : Nat), part < 8 →
    let size := s.regF 0x208 0 32
    let base := (s.reg 0x200).toNat
    let ends (t : State) (pt out : Nat) : Prop := t.regF 0 16 4 = pt ∧ t.regF 0 20 4 = out ∧ t.reg 0x210 = 0 ∧ t.dev.dump = none ∧
      t.dev.msix = s.dev.msix ++ [(0, 1)] ∧ t.hostMem = s.hostMem
    let header (t : State) (d : Dump) (extra off : Nat) : Prop :=
      let e : Dump := { d with flags := d.flags + extra, faultOff := off }
      t.hostMem = s.hostMem.setBytes d.base e.headBytes ∧ t.dev.dump = some { e with header := true, reads := [56] } ∧ t.regs = s.regs
    (s.pilotRuns = false → exec (.coreDumpStart part cause h) s = .next s) ∧
    (s.pilotRuns = true → s.dev.dump = none → (s.reg 0x210).getLsbD 0 = true →
      (64 + 8192 ≤ size → ∃ t, exec (.coreDumpStart part cause h) s = .next t ∧
        t.hostMem = s.hostMem.setBytes (base + 64) ((s.dumpFlush (partCore part 0)).dumpRecord (partCore part 0)) ∧
        t.cores = (s.dumpFlush (partCore part 0)).cores ∧
        t.dev.dump = some { part := part, cause := cause, haltId := h, base := base, size := size, reads := [4088, 8184, 8248] }) ∧
      (64 ≤ size → size < 64 + 8192 → ∃ t, exec (.coreDumpStart part cause h) s = .next t ∧
        header t { part := part, cause := cause, haltId := h, base := base, size := size } 1 0 ∧ t.cores = s.cores) ∧
      (size < 64 → ∃ t, exec (.coreDumpStart part cause h) s = .next t ∧ ends t part 3)) ∧
    (s.pilotRuns = true → s.dev.dump ≠ none → ∃ t, exec (.coreDumpStart part cause h) s = .next t ∧ t.dev.dumpQueue = s.dev.dumpQueue ++ [(part, cause, h)] ∧
      t.dev.dump = s.dev.dump) ∧
    (∀ d : Dump, s.dev.dump = some d → d.part = part →
      (d.header = false →
        (d.recs < 127 → 64 + (d.recs + 2) * 8192 ≤ d.size → ∃ t, exec (.dumpRecordReadback none) s = .next t ∧
          let n := partCore d.part (d.recs + 1)
          t.hostMem = s.hostMem.setBytes (d.base + 64 + (d.recs + 1) * 8192) ((s.dumpFlush n).dumpRecord n) ∧ t.cores = (s.dumpFlush n).cores) ∧
        (d.recs < 127 → d.size < 64 + (d.recs + 2) * 8192 → ∃ t, exec (.dumpRecordReadback none) s = .next t ∧
          header t { d with recs := d.recs + 1 } 1 d.faultOff) ∧
        (d.recs = 127 → ∃ t, exec (.dumpRecordReadback none) s = .next t ∧ header t { d with recs := 128 } 0 d.faultOff) ∧
        ∀ off ∈ d.reads, (∃ t, exec (.dumpRecordReadback (some off)) s = .next t ∧ header t d 2 off) ∧
          ∃ t, exec (.dumpReadbackTimeout off) s = .next t ∧ header t d 2 off) ∧
      (d.header = true →
        (∃ t, exec (.dumpRecordReadback none) s = .next t ∧ ends t part (if d.flags = 0 then 1 else 2)) ∧
        ∀ off ∈ d.reads, (∃ t, exec (.dumpRecordReadback (some off)) s = .next t ∧ ends t part 3) ∧
          ∃ t, exec (.dumpReadbackTimeout off) s = .next t ∧ ends t part 3))

/-- A walk that finds a page, its own reads made, installs it in the TLBs of the core, the octet and the die and of every core that has
joined it, and ends; a page with Z is filled first, and the filled page reads zero in HBM, under its KEY; a walk that finds none
ends, and the contexts that it blocks learn the page and cause 0x10, or 0x14 where HBM cannot deliver an entry (log entry 106).
MMU_INV with GO takes its fields, removes the entries of the partition's root that it names from every TLB, keeps GO at 1, and notes
the walks under way; once those have ended it removes the entries again and GO reads 0. A main-file writeback writes the value of
the chosen entry to the array and makes the entry clean, and every g word reads as before. Rules: R105, R143, R144, R145, R146,
R147. -/
def Obligations.TranslationsAreWalkedAndInvalidated : Prop :=
  ∀ (s : State) (id : Nat),
    (∀ (d : Nat) (w : Walk), s.walkOf id = some (d, w) →
      let ended (t : State) : Prop := ∀ u ∈ (t.die d).walks, u.id ≠ id
      let finds (o : WalkRes) : Prop := s.walk w.root w.va = o ∧ (s.walkReads w.root w.va).walk w.root w.va = o
      (w.zeroing = none →
        (∀ e l r (o : WalkRes) (c : BitVec 8), (o, c) ∈ [(WalkRes.absent, 0x10), (.bad l r e, 0x10), (.ecc e, 0x14)] → finds o →
          ∃ t, exec (.pageWalkComplete id) s = .next t ∧ ended t ∧
            ∀ n x, x < 11 → (s.ctx n x).block.contains id = true → (t.ctx n x).walkFault = some (w.va / 2 ^ 16, c)) ∧
        (∀ pg e, (∀ m ∈ s.dies, ∀ u ∈ m.2.walks, u.zeroing ≠ some e) →
          (finds (.page pg e false) → ∃ t, exec (.pageWalkComplete id) s = .next t ∧ ended t ∧
            (∀ m x, x < 11 → (s.ctx m x).block.contains id = true → (t.core m).tlb.head? = some pg) ∧ (t.core w.core).tlb.head? = some pg ∧ (t.octet (octetOf w.core)).tlb.head? = some pg ∧
            ((t.die (dieOf w.core)).tlbOf (partOf w.core)).head? = some pg) ∧
          (s.walk w.root w.va = .page pg e true →
            exec (.pageWalkComplete id) s = .next (s.setWalk d id (some { w with zeroing := some e }))))) ∧
      (∀ pg e, w.zeroing = some e → s.walk w.root w.va = .page pg e true → s.hbm.wf = true →
        (∀ l ∈ (s.die (paDie e)).l2, l.pa % 64 = 0) → ∃ t, exec (.zeroOnFirstTouch id) s = .next t ∧
          t.fills.head? = some (pg.pa, pg.size, s.material (stackOf pg.pa) pg.key) ∧ ∀ a : Nat, pg.pa ≤ a → a < pg.pa + pg.size → t.hbm.get a = 0)) ∧
    (∀ (p : Nat) (v : Word),
      let a := Pf.mmuInv p
      let kept := v &&& 0x43FFFFFFFFFF0000
      let gone (t : State) (v : Word) : Prop := ∀ n, (t.core n).tlb = (s.core n).tlb.filter (fun e => !invHit p v e) ∧
        (t.octet n).tlb = (s.octet n).tlb.filter (fun e => !invHit p v e) ∧
        ∀ q, (t.die n).tlbOf q = ((s.die n).tlbOf q).filter (fun e => !invHit p v e)
      (s.pilotRuns = false → exec (.mmuInv p v) s = .next s) ∧
      (s.pilotRuns = true → v.getLsbD 63 = false → exec (.mmuInv p v) s = .next (s.setReg a (kept ||| (s.reg a &&& 0x8000000000000000)))) ∧
      (s.pilotRuns = true → v.getLsbD 63 = true → ∃ t, exec (.mmuInv p v) s = .next t ∧ t.reg a = (kept ||| 0x8000000000000000) ∧ gone t v ∧
        (t.part p).inv = some (s.rootWalks p)) ∧
      (∀ ws, (s.part p).inv = some ws → (∀ w ∈ s.rootWalks p, w ∉ ws) → ∃ t, exec (.mmuInvComplete p) s = .next t ∧ gone t (s.reg a) ∧
        t.reg a = (s.reg a &&& 0x7FFFFFFFFFFFFFFF) ∧ (t.part p).inv = none)) ∧
    (∀ (n : Nat) (e : MfEntry), (s.core n).scr.wf = true → (s.core n).mfOk →
      ((s.core n).mf.filter (fun f => f.dirty && !(s.core n).gBound f.addr)).getLast? = some e →
      ∃ t, exec (.mainFileWriteback n) s = .next t ∧ (t.core n).scr = (s.core n).scr.write e.addr 8 e.val.toNat ∧
        (∀ f ∈ (t.core n).mf, f.addr = e.addr → f.dirty = false) ∧ ∀ k : Nat, k % 8 = 0 → (t.core n).gWord k = (s.core n).gWord k)

/-- The oldest buffered record, once its cycle is over, goes to the core's ring in the die scratchpad at NEXT, which then grows, or
after the last entry returns to 0 with WRAPS one more, or, under STOPFULL, stays, what waits is dropped, NEXT stays 1,023, and ON is
cleared: R223 says only that tracing turns off, and the rest is the model's choice (log entry 17). A write of TR_CTL with EN takes
its fields, with ON set where start source 0 holds; one that clears EN takes them at once with an empty buffer, and else leaves the
register as it is until the buffer has drained. A write of WAKE sets it, and a zero clears its count. SND_CTL with GO starts a trial
with counters at 0 for an aligned rectangle in the partition and a period, else sets ERR; STOP ends it and takes the fields too, and
a one clears ERR; while pilot firmware does not run none is written. At a pause the count falls by P, PAUSES grows, and every LIVE
context in the rectangle whose PC lies outside the range owes D cycles more. Rules: R223, R226, R228, R229. -/
def Obligations.TracesDigestsAndSoundings : Prop :=
  ∀ (s : State) (n p : Nat) (v : Word),
    let ctl := Pf.dbg n 0x188
    let ptr := Pf.dbg n 0x190
    let old := s.reg ctl
    let snd (off : Nat) : Word := s.reg (Pf.snd p off)
    (∀ d0 d1 rest, (s.core n).trace = (d0, d1) :: rest → d0.extractLsb' 0 56 ≠ BitVec.ofNat 56 s.cyc → (s.die (dieOf n)).scr.wf = true → ∃ t, exec (.traceRecordWrite n) s = .next t ∧
      (let a := partOf n % 2 * 0x1000000 + s.regF ctl 14 10 * 0x4000 + s.regF ptr 0 10 * 16
       (t.die (dieOf n)).scr.read a 8 = d0.toNat ∧ (t.die (dieOf n)).scr.read (a + 8) 8 = d1.toNat) ∧
      (s.regF ptr 0 10 < 1023 → (t.core n).trace = rest ∧ t.regF ptr 0 10 = s.regF ptr 0 10 + 1) ∧
      (s.regF ptr 0 10 = 1023 → old.getLsbD 3 = false → (t.core n).trace = rest ∧ t.regF ptr 0 10 = 0 ∧
        t.regF ptr 32 32 = (s.regF ptr 32 32 + 1) % 2 ^ 32) ∧
      (s.regF ptr 0 10 = 1023 → old.getLsbD 3 = true → (t.core n).trace = [] ∧ t.regF ptr 0 10 = 1023 ∧
        (t.reg ctl).getLsbD 4 = false) ∧
      (∀ w, (s.core n).trOff = some w → rest = [] → t.reg ctl = w &&& 0xFFFFFFFF00FFCFE8 ∧ (t.core n).trOff = none)) ∧
    (s.pilotRuns = false → ∀ i ∈ [Instr.trCtl n v, .wake n v, .soundingGo p v, .soundingStop ⟨p, v⟩], exec i s = .next s) ∧
    (s.pilotRuns = true →
    (let rw := v &&& 0xFFFFFFFF00FFCFE8
     (v.getLsbD 0 = true → ∃ t, exec (.trCtl n v) s = .next t ∧ (t.core n).trOff = none ∧
       t.reg ctl = (rw ||| (if s.startAlways n then 0x10 else old &&& 0x10) ||| 1)) ∧
     (v.getLsbD 0 = false → (s.core n).trace = [] → ∃ t, exec (.trCtl n v) s = .next t ∧ t.reg ctl = rw) ∧
     (v.getLsbD 0 = false → old.getLsbD 0 = true → (s.core n).trace ≠ [] → ∃ t, exec (.trCtl n v) s = .next t ∧
       t.regs = s.regs ∧ (t.core n).trOff = some v ∧ (t.core n).trace = (s.core n).trace)) ∧
    (v ≠ 0 → exec (.wake n v) s = .next (s.setReg (Pf.dbg n 0x198) v)) ∧
    (exec (.wake n 0) s = .next ((s.setReg (Pf.dbg n 0x198) 0).setReg (Pf.dbg n 0x1A0) 0)) ∧
    (let r : Rect := ⟨bitsOf v 10 5, bitsOf v 15 5, bitsOf v 20 3, bitsOf v 23 3⟩
     (r.aligned = true ∧ (∀ c ∈ r.cores, partOf c = p) ∧ s.sndPeriod p ≠ 0 → ∃ t, exec (.soundingGo p v) s = .next t ∧
       (t.reg (Pf.snd p 0)).getLsbD 63 = true ∧ t.sndRect p = r ∧ t.reg (Pf.snd p 0x20) = 0 ∧ t.reg (Pf.snd p 0x28) = 0 ∧ (t.part p).snd = 0) ∧
     (¬ (r.aligned = true ∧ (∀ c ∈ r.cores, partOf c = p) ∧ s.sndPeriod p ≠ 0) → ∃ t, exec (.soundingGo p v) s = .next t ∧
       (t.reg (Pf.snd p 0)).getLsbD 61 = true ∧ ((t.reg (Pf.snd p 0)).getLsbD 63 = (snd 0).getLsbD 63))) ∧
    (exec (.soundingStop ⟨p, v⟩) s = .next (s.setReg (Pf.snd p 0)
      ((v &&& 0x3FFFC00) ||| (if v.getLsbD 61 then 0 else snd 0 &&& 0x2000000000000000))))) ∧
    ((snd 0).getLsbD 63 = true → s.sndPeriod p ≠ 0 → s.sndPeriod p ≤ (s.part p).snd → (s.cores.map Prod.fst).Nodup →
      ∃ t, exec (.soundingPause p) s = .next t ∧ (t.part p).snd = (s.part p).snd - s.sndPeriod p ∧ t.reg (Pf.snd p 0x28) = snd 0x28 + 1 ∧
        ∀ m x, x < 11 → t.ctx m x = (if (s.sndRect p).has m ∧ (s.ctx m x).st = .live ∧ ¬ s.sndRange p (s.ctx m x).pc then
          { s.ctx m x with sounding := (s.ctx m x).sounding + s.regF (Pf.snd p 0x18) 0 32 } else s.ctx m x))

/-- A write by pilot firmware of a register below 0x500000, other than DUMP_CTL and FAB_SELF's copies, changes the RW bits to what is
written, clears the W1C bits written as one, and leaves the others, and a register with neither is unchanged; while the pilot cores
are held nothing is written. A host write of PF space has the same effect once READY is set, and before it only on DEVSTAT and the
two image registers; a VF that does not answer discards writes, and in RUN so does an offset from 0x80 on without the TEE bit. A
read by the host returns 0 in those cases, and before READY on PF space but for DEVSTAT and the firmware registers. Rules: R5, R54,
R58, R61, R63. -/
def Obligations.RegisterWritesFollowTheirAccess : Prop :=
  ∀ (s : State) (a : Nat) (v : Word),
    let b := regBits a
    let w (x : RegWriter) (f : State → Prop) : Prop := ∃ t, exec (.registerWrite x a v) s = .next t ∧ f t
    let written (t : State) : Prop := (∀ c : Nat, c ≠ a → t.reg c = s.reg c) ∧ t.cores = s.cores ∧ t.dev = s.dev ∧ ∀ i : Nat, i < 64 →
      (b.rw.getLsbD i = true → b.w1c.getLsbD i = false → (t.reg a).getLsbD i = v.getLsbD i) ∧
      (b.rw.getLsbD i = false → b.w1c.getLsbD i = true → (t.reg a).getLsbD i = ((s.reg a).getLsbD i && !v.getLsbD i)) ∧
      (b.rw.getLsbD i = false → b.w1c.getLsbD i = false → (t.reg a).getLsbD i = (s.reg a).getLsbD i)
    let kept (t : State) : Prop := t = s
    (a < 0x500000 → a ≠ dumpCtl → regHome a = a →
      (s.pilotRuns = true → w .pilot written) ∧
      (∀ tee, (s.reg 0).getLsbD 0 = true ∨ a ∈ [0, 0x40, 0x48] → w (.host tee) written) ∧
      (b.rw = 0 → b.w1c = 0 → s.pilotRuns = true → w .pilot kept)) ∧
    (s.pilotRuns = false → w .pilot kept) ∧
    (∀ tee, a < 0x1000000 → (s.reg 0).getLsbD 0 = false → a ∉ [0, 0x40, 0x48, 0x50, 0x58] → s.hostRead tee a = 0) ∧
    (∀ tee, a < 0x1000000 → (s.reg 0).getLsbD 0 = false → a ∉ [0, 0x40, 0x48] → w (.host tee) kept) ∧
    (∀ tee (f off : Nat), 1 ≤ f → f ≤ 8 → off < 0x10000 → a = Pf.vf f off →
      (s.vfUp f = false → w (.host tee) kept ∧ s.hostRead tee a = 0) ∧
      (s.vfUp f = true → 0x80 ≤ off → s.tdisp f = 2 → w (.host false) kept ∧ s.hostRead false a = 0))

/-- Setting LINK_EN starts training of a DISABLED port whose hub is in service; clearing it leaves the port DISABLED and its buffers
empty. LINK_RETRAIN takes an up port to RETRAIN and counts it. An attempt in which both enabled lanes pass with one peer ends in
UP2, one in which one does in UP1, with the peer's address in PORT_PEER; after TRAINING the port's link state starts afresh, after
RETRAIN it stays and what is unacknowledged goes again. An attempt with no lane, or with two peers, and a timeout of 10 ms fail: a
new attempt, or FAILED after the third. A lane that fails once one flit has been resent eight times in a row takes UP2 to UP1 on the
other lane, which resends what is unacknowledged, and UP1 to RETRAIN, with bit 1 of PORT_EVT, an event to pilot firmware and a line
in the host's log. That only NAKs count in REPLAYS (log entry 61), that TRAINING ends with an empty port record, fresh sequences and
allowances (log entry 62), and the event's form (log entry 76) are the model's choice. Rules: R23, R24, R26, R27, R29, R30, R44. -/
def Obligations.LinksTrainAndFail : Prop :=
  ∀ (s : State) (p : Nat), p < 64 →
    let st := s.portSt p
    let k := s.port p
    let ctl := s.reg (Pf.port p 0)
    let lanes (t : State) : Nat := t.regF (Pf.port p 8) 4 2
    let told (t : State) (lane : Nat) : Prop := (26, BitVec.ofNat 64 p, BitVec.ofNat 64 lane) ∈ t.dev.pilot ∧
      (26, BitVec.ofNat 64 p, BitVec.ofNat 64 lane) ∈ t.dev.hostLog
    let down (t : State) (n : Nat) : Prop := t.portSt p = n ∧ lanes t = 0 ∧ (t.port p).queue = [] ∧ (t.port p).tx = [] ∧ (t.port p).replay = [] ∧ (t.port p).rxq = []
    let fails (i : Instr) : Prop :=
      (k.attempts < 2 → exec i s = .next (s.setPort p { k with attempts := k.attempts + 1, trainAt := s.mesh })) ∧
      (2 ≤ k.attempts → ∃ t, exec i s = .next t ∧ down t 5)
    ((s.reg 0).getLsbD 0 = false → ∀ b, exec (.linkEn p b) s = .next s) ∧ (s.pilotRuns = false → exec (.linkRetrain p) s = .next s) ∧
    ((s.reg 0).getLsbD 0 = true →
    (st = 0 → p / 16 ∉ s.dev.fencedHubs → ∃ t, exec (.linkEn p true) s = .next t ∧ t.portSt p = 1 ∧ lanes t = 0 ∧
      (t.port p).trainAt = s.mesh ∧ (t.port p).attempts = 0 ∧ (t.reg (Pf.port p 0)).getLsbD 0 = true) ∧
    (st ≠ 0 ∨ p / 16 ∈ s.dev.fencedHubs → exec (.linkEn p true) s = .next (s.setRegF (Pf.port p 0) 0 1 1)) ∧
    (∃ t, exec (.linkEn p false) s = .next t ∧ down t 0 ∧ (t.reg (Pf.port p 0)).getLsbD 0 = false)) ∧
    (s.pilotRuns = true → st = 2 ∨ st = 3 → ∃ t, exec (.linkRetrain p) s = .next t ∧ t.portSt p = 4 ∧ (t.reg (Pf.port p 0)).getLsbD 3 = true ∧
      t.regF (Pf.port p 8) 24 8 = min 255 (s.regF (Pf.port p 8) 24 8 + 1)) ∧
    (st = 1 ∨ st = 4 →
      (∀ (a b : Bool) (x y : BitVec 62),
        let l0 := a && ctl.getLsbD 1
        let l1 := b && ctl.getLsbD 2
        let i := Instr.trainingAttemptEnd p a b x y
        let up (n ok : Nat) (peer : BitVec 62) : Prop := ∃ t, exec i s = .next t ∧ t.portSt p = n ∧ lanes t = ok ∧
          t.reg (Pf.port p 0x010) = BitVec.ofNat 64 (peer.toNat / 64 * 256 + peer.toNat % 64) ∧ (t.reg (Pf.port p 0)).getLsbD 3 = false ∧
          (st = 4 → k.out ++ k.replay.map Prod.snd <+: (t.port p).out) ∧
          (k.queue = [] → (st = 1 → t.port p = {}) ∧ (st = 4 → k.tx = [] → k.owed = #v[0, 0, 0, 0] →
            t.port p = { k with attempts := 0, resent := [], out := k.out ++ k.replay.map Prod.snd }))
        (l0 = true → l1 = true → x = y → up 2 3 x) ∧ (l0 = true → l1 = false → up 3 1 x) ∧ (l0 = false → l1 = true → up 3 2 y) ∧
        (l0 = false ∧ l1 = false ∨ l0 = true ∧ l1 = true ∧ x ≠ y → fails i)) ∧
      (10000 * s.dev.clock ≤ 2 * (s.mesh - k.trainAt) → fails (.trainingTimeout p))) ∧
    (∀ lane : Nat, lane < 2 → (∃ e ∈ k.resent, 8 ≤ e.2) → (s.reg (Pf.port p 8)).getLsbD (4 + lane) = true →
      (st = 2 → ∃ t, exec (.laneFail p lane) s = .next t ∧ t.portSt p = 3 ∧ lanes t = 2 - lane ∧ told t lane ∧ (t.port p).resent = [] ∧ (t.reg (Pf.port p 0x028)).getLsbD 1 = true ∧
        (t.port p).out = k.out ++ k.replay.map Prod.snd ∧ (t.port p).replay = k.replay ∧ t.reg (Pf.port p 0x018) = s.reg (Pf.port p 0x018)) ∧
      (st = 3 → ∃ t, exec (.laneFail p lane) s = .next t ∧ t.portSt p = 4 ∧ told t lane ∧ (t.port p).resent = [] ∧ (t.reg (Pf.port p 0x028)).getLsbD 1 = true))

/-- At an up port with nothing to send: a flit that fails its CRC, its reserved bit or its KIND is counted and answered by a NAK with
the last good sequence, which stays, and until the numbered flit after that arrives every other flit is dropped. A good flit's ACK
frees the replay buffer up to the flit it names, and with each flit its count of resends. A numbered flit that follows the last good
one becomes the last good one; another is dropped. A data flit joins its lane's packet; the last of a packet puts it whole in the
receive queue if its header is right, else the packet is dropped and counted and its allowances go back. A NAK has every
unacknowledged flit sent again, in order, each with one resend more, and counted. A credit flit adds its allowances, up to the
lane's buffer. Where nothing else goes out, an idle flit with the acknowledgement does, and at a port with nothing on its way to the
link one goes of itself. Which flits are numbered, and a credit flit's layout, are the model's (log entry 61). Rules: R28, R29, R30,
R31, R32. -/
def Obligations.FlitsAreReceived : Prop :=
  ∀ (s : State) (p : Nat) (f : Flit), s.portUp p = true → (s.port p).queue = [] → (s.port p).tx = [] → (s.port p).owed = #v[0, 0, 0, 0] →
    let k := s.port p
    let a := k.acked (flitAck f)
    let v := flitVl f
    let idle (q : BitVec 12) : Flit := mkFlit [] true 0 0 q 0
    let cnt (t : State) (off lo n : Nat) : Prop := t.regF (Pf.port p off) lo 16 = min (s.regF (Pf.port p off) lo 16 + n) 0xFFFF
    let is (n : Nat) : Prop := flitGood f = true ∧ flitKind f = n
    let of (n : Nat) : Instr := [Instr.rxIdleFlit p f, .rxDataFlit p f, .rxNakFlit p f, .rxCreditFlit p f].getD n (.rxIdleFlit p f)
    let turn := flitSeq f = k.rxGood + 1
    (∀ pre post e, k.replay = pre ++ (flitAck f, e) :: post → (∀ q ∈ pre, q.1 ≠ flitAck f) → a = { k with
      replay := post, resent := k.resent.filter (fun e => post.any (fun f => f.1.toNat = e.1)) }) ∧
    ((∀ q ∈ k.replay, q.1 ≠ flitAck f) → a = k) ∧
    (flitGood f = false → ∀ n < 4, ∃ t, exec (of n) s = .next t ∧
      cnt t 0x018 0 1 ∧ t.port p = { k with out := k.out ++ [mkFlit [] true 0 2 k.rxGood 0], dropping := true }) ∧
    (k.dropping = true → ∀ n < 4, is n → ¬ ((n = 1 ∨ n = 3) ∧ turn) → ∃ t, exec (of n) s = .next t ∧
      t.port p = { k with out := k.out ++ [idle k.rxGood] } ∧ t.regs = s.regs) ∧
    (k.dropping = false → ∀ n, n = 1 ∨ n = 3 → is n → ¬ turn → ∃ t, exec (of n) s = .next t ∧
      t.port p = { a with out := k.out ++ [idle k.rxGood] } ∧ t.regs = s.regs) ∧
    (is 1 → turn →
      let fs := AMap.getD k.asm v [] ++ [f]
      ∃ t, exec (.rxDataFlit p f) s = .next t ∧ (t.port p).rxGood = flitSeq f ∧ (t.port p).dropping = false ∧
        (∀ w : Nat, w ≠ v → AMap.getD (t.port p).asm w [] = AMap.getD k.asm w []) ∧
        (let quiet : Prop := (t.port p).replay = a.replay ∧ (t.port p).out = k.out ++ [idle (flitSeq f)]
         (flitLast f = false → AMap.getD (t.port p).asm v [] = fs ∧ (t.port p).rxq = k.rxq ∧ quiet) ∧
         (flitLast f = true → AMap.getD (t.port p).asm v [] = [] ∧
           ((packetOf fs).headerOk fs.length = true → (t.port p).rxq = k.rxq ++ [packetOf fs] ∧ quiet) ∧
           ((packetOf fs).headerOk fs.length = false → (t.port p).rxq = k.rxq ∧ cnt t 0x020 16 1 ∧
             (a.replay.length < 512 → (t.port p).out = k.out ++ [mkFlit (leBytes 2 fs.length) true v 3 (flitSeq f) k.txSeq]))))) ∧
    (k.dropping = false → is 2 → ∀ e rest, a.replay = e :: rest → ∃ t, exec (.rxNakFlit p f) s = .next t ∧ cnt t 0x018 16 a.replay.length ∧
      t.port p = { a with
        resent := a.replay.map (fun f => (f.1.toNat, AMap.getD a.resent f.1.toNat 0 + 1)), out := k.out ++ a.replay.map Prod.snd }) ∧
    (k.dropping = false → is 2 → a.replay = [] → ∃ t, exec (.rxNakFlit p f) s = .next t ∧
      t.port p = { a with resent := [], out := k.out ++ [idle k.rxGood] } ∧ ∀ c : Nat, t.reg c = s.reg c) ∧
    (k.out = [] → (s.idleFlit p).port p = { k with out := [idle k.rxGood] }) ∧
    (is 3 → turn → ∃ t, exec (.rxCreditFlit p f) s = .next t ∧ t.regs = s.regs ∧ (t.port p).replay = a.replay ∧
      (t.port p).rxGood = flitSeq f ∧ (t.port p).out = k.out ++ [idle (flitSeq f)] ∧ ∀ w : Fin 4,
      (t.port p).allow.get w = (if w.val = v then min (laneFlits v) (k.allow.get w + ofLeBytes ((flitBytes f).take 2)) else k.allow.get w)) ∧
    (k.dropping = false → is 0 → ∃ t, exec (.rxIdleFlit p f) s = .next t ∧ t.regs = s.regs ∧
      t.port p = { a with out := k.out ++ [idle k.rxGood] })

/-- A packet whose tag no entry lets pass for its partition is dropped and counted, and one for another device is a header error. One on
a numbered lane that a flow has already taken is dropped and counted, one that is in sequence is accepted: the flow expects the
next. An accepted contribution with ARRIVAL order, or one of a single chunk, is posted to the agent of the chunk; a result is kept
as the fix's last; a remote write within a doubleword of a page that may be written changes, after the walk's own reads, its bytes
under the page's key, and one that may not tells pilot firmware; so does a fold of a type that is not f32 or bf16, and a fold of one
element adds it. An acknowledgement frees its flow's packets up to its number; a withheld notice marks the rank halted, and a
released notice unmarks it and has each round's waiters released in the next mesh cycle. The model's choices: HDR_ERRS for another
device (log entry 63), 0x04 for the fold's type (64), the lane that an acknowledgement names in TARGET (42), and the event's form
(76). Rules: R31, R33, R35, R36, R37, R42. -/
def Obligations.PacketsAreAccepted : Prop :=
  ∀ (s : State) (p : Nat) (k : Packet) (rest : List Packet), p < 64 → s.portUp p = true → (s.port p).rxq = k :: rest →
    let f := s.flow k.srcDev k.vl
    let part := k.dstPart
    let h := k.handle
    let of (ty : Nat) : Option Instr := [none, some (Instr.pktFixContribution p), some (.pktFixResult p), some (.pktRemoteWrite p),
      some (.pktRemoteFold p), some (.pktE2eAck p), some (.pktWithheld p), some (.pktReleased p)].getD ty none
    let cnt (t : State) (lo : Nat) : Prop := t.regF (Pf.port p 0x018) lo 16 = min (s.regF (Pf.port p 0x018) lo 16 + 1) 0xFFFF
    let pass := s.tagPass p k.tag part = true ∧ k.dstDev = s.regF Pf.fabSelf 0 12
    (∀ i, of k.type = some i → s.tagPass p k.tag part = false → ∃ t, exec i s = .next t ∧ cnt t 48 ∧ (t.port p).rxq = rest ∧
      t.dev.flows = s.dev.flows ∧ t.cores = s.cores) ∧
    (∀ i, of k.type = some i → s.tagPass p k.tag part = true → k.dstDev ≠ s.regF Pf.fabSelf 0 12 → ∃ t, exec i s = .next t ∧
      t.regF (Pf.port p 0x020) 16 16 = min (s.regF (Pf.port p 0x020) 16 16 + 1) 0xFFFF ∧ (t.port p).rxq = rest ∧
      t.dev.flows = s.dev.flows ∧ t.cores = s.cores) ∧
    (pass → k.vl < 3 →
      (∀ i, of k.type = some i → f.expect ≠ k.seq → (f.expect - k.seq).toNat ≤ 2 ^ 31 → ∃ t, exec i s = .next t ∧
        cnt t 32 ∧ t.dev.flows = s.dev.flows ∧ t.cores = s.cores ∧ (t.port p).rxq = rest) ∧
      (f.expect = k.seq → f.since < 15 →
        let runs (i : Instr) (g : State → Prop) : Prop := ∃ t, exec i s = .next t ∧ (t.port p).rxq = rest ∧
          t.flow k.srcDev k.vl = { f with expect := f.expect + 1, since := f.since + 1, lastRx := k } ∧ g t
        (k.type = 1 → ∀ o key fo, s.fix h = some o → o.folds = [(key, fo)] → k.rank < fxN o.desc → k.chunk < chunkCount o.desc →
          let c : Contrib := { rank := k.rank, tag := k.round, vals := fxValues o.desc k.data, port := p, part := part }
          let posted (c : Contrib) : Prop := runs (.pktFixContribution p) (fun t =>
            t.noc = s.noc ++ [{ id := s.nextId, m := .fix h key c, after := [], dist := 0, due := some s.mesh }])
          (fxArrival o.desc = true → posted { c with chunk := k.chunk, chunks := chunkCount o.desc }) ∧
          (fxArrival o.desc = false → chunkCount o.desc = 1 → fo.parts = [] → posted c)) ∧
        (k.type = 2 → runs (.pktFixResult p) (fun t => AMap.get? t.dev.results h.toNat = some (k.round, k.data))) ∧
        (let a := bitsOf k.h2 0 56
         let r := s.walkReads part a
         ∀ pg e, r.walk part a = .page pg e false →
          (k.type = 3 → 1 ≤ k.data.length → k.data.length ≤ 8 - a % 8 →
            (r.pageCause pg .w a k.data.length = none → runs (.pktRemoteWrite p) (fun t =>
              let u := r.paWrite (r.keyOf pg) (pg.phys a) k.data
              t.dies = u.dies ∧ t.hbm = u.hbm ∧ t.lineKey = u.lineKey)) ∧
            (∀ c, r.pageCause pg .w a k.data.length = some c → runs (.pktRemoteWrite p) (fun t => t.dies = r.dies ∧ t.hbm = r.hbm ∧
              t.dev.pilot = r.dev.pilot ++ [(10, BitVec.ofNat 64 (part * 2 ^ 56 + a % 2 ^ 56), c.setWidth 64)]))) ∧
          (k.type = 4 → ∀ ty : ElTy, ElTy.ofCode (k.h2.extractLsb' 56 4) = ty →
            (ty ≠ .f32 → ty ≠ .bf16 → runs (.pktRemoteFold p) (fun t => t.dies = s.dies ∧ t.hbm = s.hbm ∧
              t.dev.pilot = s.dev.pilot ++ [(10, BitVec.ofNat 64 (part * 2 ^ 56 + a % 2 ^ 56), 4)])) ∧
            (ty = .f32 ∨ ty = .bf16 → r.pageCause pg .rw a (ty.bits / 8) = none → k.data.length = ty.bits / 8 →
              ∀ u, r.baseFold (pg.phys a) ((r.keyOf pg).getD 0) ty (ofLeBytes k.data) = some u →
                runs (.pktRemoteFold p) (fun t => t.dies = u.dies ∧ t.hbm = u.hbm)))) ∧
        (k.type = 6 → ∀ o, s.fix h = some o → runs (.pktWithheld p) (fun t => ∃ g, t.fix h = some g ∧ k.rank ∈ g.remoteHalted)) ∧
        (k.type = 7 → ∀ o, s.fix h = some o → runs (.pktReleased p) (fun t => (∃ g, t.fix h = some g ∧ k.rank ∉ g.remoteHalted) ∧
          ∀ q < 8, ∀ e ∈ o.folds, (BitVec.ofNat 64 (5 * 2 ^ 60 + h.toNat + e.2.tag.toNat % 2 ^ 28 * 2 ^ 32), s.mesh + 1) ∈ (t.part q).remote)))) ∧
    (pass → k.vl = 3 → k.type = 5 → ∃ t, exec (.pktE2eAck p) s = .next t ∧ (t.port p).rxq = rest ∧
      (let g := s.flow k.srcDev (bitsOf k.h2 0 2)
       t.flow k.srcDev (bitsOf k.h2 0 2) = { g with kept := g.kept.filter (fun u => !decide ((k.seq - u.pkt.seq).toNat < 2 ^ 31)) }))

/-- When the oldest kept packet of a flow has waited its time every kept packet counts one resend more and is queued again at the port
of the route in force, from where it goes as the link takes it; when its resends are used up, or no route leads to the device, the
flow is lost and keeps nothing, and its packets leave every port, those partly sent among them. FLOW_RESET returns both directions
of a device's three flows to their reset state and takes their packets from every port. A drain that lasts 100 us drops and counts
what the hub's ports still hold of the partition; with nothing left its combining entries are freed and its bit of HUB_SCRUB is
cleared. Rules: R33, R34, R36, R38, R41, R43. -/
def Obligations.FlowsAreLostAndHubsDrained : Prop :=
  ∀ (s : State) (dev vl d part : Nat),
    let f := s.flow dev vl
    let ports := (List.range 16).map (fun i => 16 * d + i)
    let unsent (t : State) (q : Nat) : List Packet := (t.port q).queue ++ (t.port q).tx.map (fun e => e.2.1)
    let holds (t : State) (q : Nat) : Prop := (∃ k ∈ unsent t q, k.srcPart = part) ∨ ∃ k ∈ (t.port q).rxq, k.dstPart = part
    (∀ u rest, f.kept = u :: rest →
      (∀ q, s.routePort u.hub dev = some q → u.sentAt + max 1 (s.regF (Pf.port q 0x0C8) 0 8) * s.dev.clock ≤ s.cyc →
        (u.resends < max 1 (s.regF (Pf.port q 0x0C8) 8 8) → ∃ t, exec (.e2eTimeout dev vl) s = .next t ∧
          t.flow dev vl = { f with kept := f.kept.map (fun k => { k with sentAt := s.cyc, resends := k.resends + 1 }) } ∧
          ((∀ k ∈ f.kept, k.hub = u.hub ∧ k.pkt.dstDev = dev ∧ s.tagPass q k.pkt.tag k.pkt.srcPart = true) →
            (s.portSt q = 1 ∨ s.portSt q = 4 ∨ s.portUp q = true ∧ 512 ≤ (s.port q).replay.length →
              t.port q = { s.port q with queue := (s.port q).queue ++ f.kept.map TxPkt.pkt }) ∧
            (s.portUp q = true → rest = [] → u.pkt.pieces.length = 1 → u.pkt.vl < 3 → (s.port q).queue = [] → (s.port q).tx = [] →
              (s.port q).owed = #v[0, 0, 0, 0] → (s.port q).replay.length < 512 → (s.port q).allow.toList.getD u.pkt.vl 0 ≠ 0 →
              (t.port q).queue = [] ∧ (t.port q).out = (s.port q).out ++
                [mkFlit (u.pkt.pieces.getD 0 []) true u.pkt.vl 1 (s.port q).rxGood (s.port q).txSeq]))) ∧
        (max 1 (s.regF (Pf.port q 0x0C8) 8 8) ≤ u.resends → ∃ t, exec (.flowLost dev vl) s = .next t ∧ (t.flow dev vl).lost = true ∧
          (t.flow dev vl).kept = [] ∧ (t.reg (Pf.port q 0x028)).getLsbD 2 = true)) ∧
      (s.routePort u.hub dev = none → ∃ t, exec (.flowLost dev vl) s = .next t ∧ (t.flow dev vl).lost = true ∧ (t.flow dev vl).kept = [])) ∧
    (∀ p q, ((s.loseFlow dev vl p).port q).queue = (s.port q).queue.filter (fun k => !(k.dstDev = dev && k.vl = vl)) ∧
      ((s.loseFlow dev vl p).port q).tx = (s.port q).tx.filter (fun e => !(e.2.1.dstDev = dev && e.2.1.vl = vl))) ∧
    (s.pilotRuns = false → exec (.flowReset dev) s = .next s) ∧
    (s.pilotRuns = true → ∃ t, exec (.flowReset dev) s = .next t ∧ (∀ v < 3, t.flow dev v = {}) ∧ t.regs = s.regs ∧
      ∀ q, (t.port q).queue = (s.port q).queue.filter (fun k => !(k.dstDev = dev && k.vl < 3)) ∧
        (t.port q).tx = (s.port q).tx.filter (fun e => !(e.2.1.dstDev = dev && decide (e.2.1.vl < 3)))) ∧
    (d < 4 → part < 8 → ∀ b, (s.hub d).draining.find? (fun e => e.1 = part) = some (part, b) →
      (100 * s.dev.clock ≤ 2 * (s.mesh - b) → (∃ q ∈ ports, holds s q) → ∃ t, exec (.hubDrainTimeout d part) s = .next t ∧
        (∀ q ∈ ports, ¬ holds t q ∧ t.regF (Pf.port q 0x020) 16 16 = min (s.regF (Pf.port q 0x020) 16 16 +
          ((unsent s q).filter (fun k => k.srcPart = part)).length + ((s.port q).rxq.filter (fun k => k.dstPart = part)).length) 0xFFFF) ∧
        t.hubs = s.hubs ∧ ∀ q, q ∉ ports → t.port q = s.port q) ∧
      ((∀ q ∈ ports, ¬ holds s q) → ∃ t, exec (.hubScrub d part) s = .next t ∧
        (t.hub d).cmb = (s.hub d).cmb.filter (fun e => e.part ≠ part) ∧ (∀ e ∈ (t.hub d).draining, e.1 ≠ part) ∧
        (t.reg (Pf.hub d 8)).getLsbD part = false))

/-- After reset every byte memory is in canonical form, no firmware runs and no update, load or dump is under way, and the package is
powered and waits for the first step of bring-up. That an unlisted byte reads 0 is the model's choice (log entry 3). Rules: R3, R56,
R61. -/
def Obligations.ResetMeetsTheInvariants : Prop :=
  State.reset.memWf ∧ State.reset.bootedWell ∧ State.reset.dev.running = none ∧ State.reset.dev.dump = none ∧
    State.reset.dev.powered = true ∧ State.reset.regF 0 24 8 = 0 ∧ ∀ a, State.reset.hbm.get a = 0

/-- In every state, reached or not, whose byte memories are in canonical form (addresses rising, no byte listed that reads as an
unlisted one), every step that answers a next state answers one whose byte memories are: HBM, host memory, the scratchpads and
weight slices of the cores and of the checkpoint images, the scratchpads of the dies. Rules: R3, R9, R128, R134. -/
def Obligations.MemoriesKeepTheirForm : Prop :=
  ∀ s t : State, s.memWf → step s = .next t → t.memWf

/-- In every state in which the firmware that runs, if any, has a valid signature and length and a security version not above the fuses,
every step that answers a next state answers such a state; and the version in the fuses never falls, whatever the instruction or
event, a package reset among them. Rules: R56, R57, R58, R61. -/
def Obligations.FirmwareStaysChecked : Prop :=
  ∀ s t : State, step s = .next t → s.dev.fused ≤ t.dev.fused ∧ (s.bootedWell → t.bootedWell)
end

