-- ==== Sys2Proof/Laws/Store.lean ====
section
/-! SUPPORT. The laws of the two sparse stores: a read after a write, and the canonical form that every memory operation keeps. -/

namespace Sys2Proof

/-! ### Stores by number -/

theorem AMap.get?_set {α : Type} (m : AMap α) (k j : Nat) (v : α) :
    AMap.get? (AMap.set m k v) j = if j = k then some v else AMap.get? m j := by
  induction m with
  | nil =>
    by_cases h : j = k
    · simp [AMap.set, AMap.get?, h]
    · simp [AMap.set, AMap.get?, h, Ne.symm h]
  | cons p m ih =>
    obtain ⟨i, w⟩ := p
    simp only [AMap.set]
    split
    · by_cases h : j = k
      · simp [AMap.get?, h]
      · rw [AMap.get?, if_neg (Ne.symm h), if_neg h]
    · split
      · rename_i _ hk
        by_cases h : j = k
        · simp [AMap.get?, h]
        · rw [AMap.get?, if_neg (Ne.symm h), if_neg h, AMap.get?, if_neg (hk ▸ Ne.symm h)]
      · rename_i _ hk
        by_cases h : i = j
        · subst h
          simp [AMap.get?, Ne.symm hk]
        · simp [AMap.get?, h, ih]

@[simp] theorem AMap.get?_set_same {α : Type} (m : AMap α) (k : Nat) (v : α) : AMap.get? (AMap.set m k v) k = some v := by
  simp [AMap.get?_set]

theorem AMap.get?_set_other {α : Type} (m : AMap α) {k j : Nat} (v : α) (h : j ≠ k) :
    AMap.get? (AMap.set m k v) j = AMap.get? m j := by simp [AMap.get?_set, h]

@[simp] theorem AMap.getD_set_same {α : Type} (m : AMap α) (k : Nat) (v d : α) : AMap.getD (AMap.set m k v) k d = v := by
  simp [AMap.getD]

theorem AMap.getD_set_other {α : Type} (m : AMap α) {k j : Nat} (v d : α) (h : j ≠ k) :
    AMap.getD (AMap.set m k v) j d = AMap.getD m j d := by simp [AMap.getD, AMap.get?_set, h]

/-- What is listed after a write was listed before it, or is what was written. -/
theorem AMap.mem_set {α : Type} {m : AMap α} {k : Nat} {v : α} {p : Nat × α} (h : p ∈ AMap.set m k v) : p ∈ m ∨ p = (k, v) := by
  induction m with
  | nil => exact .inr (by simpa [AMap.set] using h)
  | cons q m ih =>
    simp only [AMap.set] at h
    split at h
    · rcases List.mem_cons.1 h with h | h
      · exact .inr h
      · exact .inl h
    · split at h
      · rcases List.mem_cons.1 h with h | h
        · exact .inr h
        · exact .inl (.tail _ h)
      · rcases List.mem_cons.1 h with h | h
        · exact .inl (h ▸ .head _)
        · rcases ih h with h | h
          · exact .inl (.tail _ h)
          · exact .inr h

/-- What a store answers is listed in it. -/
theorem AMap.get?_mem {α : Type} {m : AMap α} {k : Nat} {v : α} (h : AMap.get? m k = some v) : (k, v) ∈ m := by
  induction m with
  | nil => simp [AMap.get?] at h
  | cons q m ih =>
    simp only [AMap.get?] at h
    split at h
    · cases h; subst_vars; exact .head _
    · exact .tail _ (ih h)

/-! ### Byte memories -/

theorem Mem.get_set (m : Mem) (a x : Nat) (b : Byte) (h : m.wf = true) :
    (m.set a b).get x = if x = a then b else m.get x := by
  suffices ∀ lo, Mem.wfFrom lo m = true → (m.set a b).get x = if x = a then b else m.get x from this 0 h
  clear h
  induction m with
  | nil =>
    intro lo _
    simp only [Mem.set]
    split
    · by_cases h : x = a <;> simp_all [Mem.get]
    · by_cases h : x = a
      · simp [Mem.get, h]
      · simp [Mem.get, h, Ne.symm h]
  | cons p m ih =>
    obtain ⟨j, c⟩ := p
    intro lo hw
    simp only [Mem.wfFrom, Bool.and_eq_true, decide_eq_true_eq] at hw
    have low : ∀ (n : Nat) (l : Mem), Mem.wfFrom n l = true → ∀ y, y < n → l.get y = Mem.unlisted := by
      intro n l
      induction l generalizing n with
      | nil => intros; rfl
      | cons q l ihl =>
        intro hq y hy
        simp only [Mem.wfFrom, Bool.and_eq_true, decide_eq_true_eq] at hq
        simp only [Mem.get]
        rw [if_neg (by omega)]
        exact ihl _ hq.2 y (by omega)
    simp only [Mem.set]
    split
    · rename_i hlt
      split
      · rename_i hb
        by_cases hx : x = a
        · subst hx
          simp only [Mem.get, if_true]
          rw [if_neg (by omega), low _ _ hw.2 x (by omega), hb]
        · simp [hx]
      · by_cases hx : x = a
        · simp [Mem.get, hx]
        · simp [Mem.get, hx, Ne.symm hx]
    · split
      · rename_i hge heq
        subst heq
        split
        · rename_i hb
          by_cases hx : x = a
          · subst hx
            simp [low _ _ hw.2 x (by omega), hb]
          · simp [Mem.get, hx, Ne.symm hx]
        · by_cases hx : x = a
          · simp [Mem.get, hx]
          · simp [Mem.get, hx, Ne.symm hx]
      · rename_i hge hne
        by_cases hj : j = x
        · subst hj
          simp [Mem.get, Ne.symm hne]
        · simp only [Mem.get, if_neg hj]
          exact ih _ hw.2

theorem Mem.wfFrom_set (m : Mem) (a : Nat) (b : Byte) (lo : Nat) (ha : lo ≤ a) (h : Mem.wfFrom lo m = true) :
    Mem.wfFrom lo (m.set a b) = true := by
  induction m generalizing lo with
  | nil =>
    simp only [Mem.set]
    split
    · rfl
    · simp_all [Mem.wfFrom]
  | cons p m ih =>
    obtain ⟨j, c⟩ := p
    have h0 := h
    simp only [Mem.wfFrom, Bool.and_eq_true, decide_eq_true_eq] at h
    obtain ⟨⟨h1, h2⟩, h3⟩ := h
    have weaken : ∀ (n k : Nat) (l : Mem), n ≤ k → Mem.wfFrom k l = true → Mem.wfFrom n l = true := by
      intro n k l hnk hl
      cases l with
      | nil => rfl
      | cons q l =>
        simp only [Mem.wfFrom, Bool.and_eq_true, decide_eq_true_eq] at hl ⊢
        exact ⟨⟨by omega, hl.1.2⟩, hl.2⟩
    simp only [Mem.set]
    split
    · split
      · exact h0
      · rename_i hlt hb
        simp only [Mem.wfFrom, Bool.and_eq_true, decide_eq_true_eq]
        exact ⟨⟨ha, by simpa using hb⟩, ⟨by omega, h2⟩, h3⟩
    · split
      · split
        · exact weaken _ _ _ (by omega) h3
        · rename_i hge heq hb
          simp only [Mem.wfFrom, Bool.and_eq_true, decide_eq_true_eq]
          subst heq
          exact ⟨⟨ha, by simpa using hb⟩, h3⟩
      · simp only [Mem.wfFrom, Bool.and_eq_true, decide_eq_true_eq]
        exact ⟨⟨h1, h2⟩, ih (j + 1) (by omega) h3⟩

/-- A write of one byte keeps the canonical form. -/
theorem Mem.wf_set (m : Mem) (a : Nat) (b : Byte) (h : m.wf = true) : (m.set a b).wf = true :=
  Mem.wfFrom_set m a b 0 (Nat.zero_le a) h

theorem Mem.wf_write (n : Nat) : ∀ (m : Mem) (a v : Nat), m.wf = true → (m.write a n v).wf = true := by
  induction n with
  | zero => intro m _ _ h; exact h
  | succ n ih => intro m a v h; exact ih _ _ _ (Mem.wf_set m a _ h)

theorem Mem.wf_setBytes (bs : List Byte) : ∀ (m : Mem) (a : Nat), m.wf = true → (m.setBytes a bs).wf = true := by
  induction bs with
  | nil => intro m _ h; exact h
  | cons b bs ih => intro m a h; exact ih _ _ (Mem.wf_set m a b h)

theorem Mem.wf_filter (m : Mem) (f : Nat × Byte → Bool) (h : m.wf = true) : Mem.wf (m.filter f) = true := by
  suffices ∀ lo, Mem.wfFrom lo m = true → Mem.wfFrom lo (m.filter f) = true from this 0 h
  clear h
  have weaken : ∀ (n k : Nat) (l : Mem), n ≤ k → Mem.wfFrom k l = true → Mem.wfFrom n l = true := by
    intro n k l hnk hl
    cases l with
    | nil => rfl
    | cons q l =>
      simp only [Mem.wfFrom, Bool.and_eq_true, decide_eq_true_eq] at hl ⊢
      exact ⟨⟨by omega, hl.1.2⟩, hl.2⟩
  induction m with
  | nil => intro lo _; rfl
  | cons p m ih =>
    intro lo hw
    simp only [Mem.wfFrom, Bool.and_eq_true, decide_eq_true_eq] at hw
    rw [List.filter_cons]
    split
    · simp only [Mem.wfFrom, Bool.and_eq_true, decide_eq_true_eq]
      exact ⟨hw.1, ih _ hw.2⟩
    · exact weaken _ _ _ (by omega) (ih _ hw.2)

/-- A fill with zeros keeps the canonical form. -/
theorem Mem.wf_zero (m : Mem) (a n : Nat) (h : m.wf = true) : (m.zero a n).wf = true := Mem.wf_filter m _ h

/-- A write of n bytes leaves every other byte alone. -/
theorem Mem.get_write_other (n : Nat) : ∀ (m : Mem) (a v x : Nat), m.wf = true → (x < a ∨ a + n ≤ x) →
    (m.write a n v).get x = m.get x := by
  induction n with
  | zero => intros; rfl
  | succ n ih =>
    intro m a v x h hx
    rw [Mem.write, ih _ _ _ _ (Mem.wf_set _ _ _ h) (by omega), Mem.get_set _ _ _ _ h, if_neg (by omega)]

/-- A read after a write of the same bytes gives the value written. -/
theorem Mem.read_write (n : Nat) : ∀ (m : Mem) (a v : Nat), m.wf = true → (m.write a n v).read a n = v % 256 ^ n := by
  induction n with
  | zero => intro m a v _; simp [Mem.read, Nat.mod_one]
  | succ n ih =>
    intro m a v h
    simp only [Mem.write, Mem.read]
    rw [Mem.get_write_other n _ _ _ _ (Mem.wf_set _ _ _ h) (by omega), Mem.get_set _ _ _ _ h, if_pos rfl, ih _ _ _ (Mem.wf_set _ _ _ h)]
    have := Nat.mod_mul (x := v) (a := 256) (b := 256 ^ n)
    rw [pow_succ, mul_comm (256 ^ n), this]
    simp

/-- A read of bytes that a write left alone. -/
theorem Mem.read_write_other (k : Nat) : ∀ (m : Mem) (n a v x : Nat), m.wf = true → (x + k ≤ a ∨ a + n ≤ x) →
    (m.write a n v).read x k = m.read x k := by
  induction k with
  | zero => intros; rfl
  | succ k ih =>
    intro m n a v x h hx
    simp only [Mem.read]
    rw [Mem.get_write_other n m a v x h (by omega), ih m n a v (x + 1) h (by omega)]

end Sys2Proof
end

