-- ==== Sys2Proof/Laws/State.lean ====
section
/-! SUPPORT. One lemma for each field of a state, or of a core, under each of the named updates, and the reads after them. -/

namespace Sys2Proof.Machine

/-! ### The state's fields -/

@[simp] theorem State.setCore_octets (s : State) (n : Nat) (c : Core) : (s.setCore n c).octets = s.octets := rfl
@[simp] theorem State.setCore_dies (s : State) (n : Nat) (c : Core) : (s.setCore n c).dies = s.dies := rfl
@[simp] theorem State.setCore_parts (s : State) (n : Nat) (c : Core) : (s.setCore n c).parts = s.parts := rfl
@[simp] theorem State.setCore_ports (s : State) (n : Nat) (c : Core) : (s.setCore n c).ports = s.ports := rfl
@[simp] theorem State.setCore_hubs (s : State) (n : Nat) (c : Core) : (s.setCore n c).hubs = s.hubs := rfl
@[simp] theorem State.setCore_dev (s : State) (n : Nat) (c : Core) : (s.setCore n c).dev = s.dev := rfl
@[simp] theorem State.setCore_regs (s : State) (n : Nat) (c : Core) : (s.setCore n c).regs = s.regs := rfl
@[simp] theorem State.setCore_hbm (s : State) (n : Nat) (c : Core) : (s.setCore n c).hbm = s.hbm := rfl
@[simp] theorem State.setCore_keyGen (s : State) (n : Nat) (c : Core) : (s.setCore n c).keyGen = s.keyGen := rfl
@[simp] theorem State.setCore_keys (s : State) (n : Nat) (c : Core) : (s.setCore n c).keys = s.keys := rfl
@[simp] theorem State.setCore_lineKey (s : State) (n : Nat) (c : Core) : (s.setCore n c).lineKey = s.lineKey := rfl
@[simp] theorem State.setCore_fills (s : State) (n : Nat) (c : Core) : (s.setCore n c).fills = s.fills := rfl
@[simp] theorem State.setCore_ecc (s : State) (n : Nat) (c : Core) : (s.setCore n c).ecc = s.ecc := rfl
@[simp] theorem State.setCore_corrected (s : State) (n : Nat) (c : Core) : (s.setCore n c).corrected = s.corrected := rfl
@[simp] theorem State.setCore_granuleErrs (s : State) (n : Nat) (c : Core) : (s.setCore n c).granuleErrs = s.granuleErrs := rfl
@[simp] theorem State.setCore_foldStats (s : State) (n : Nat) (c : Core) : (s.setCore n c).foldStats = s.foldStats := rfl
@[simp] theorem State.setCore_hostMem (s : State) (n : Nat) (c : Core) : (s.setCore n c).hostMem = s.hostMem := rfl
@[simp] theorem State.setCore_flight (s : State) (n : Nat) (c : Core) : (s.setCore n c).flight = s.flight := rfl
@[simp] theorem State.setCore_noc (s : State) (n : Nat) (c : Core) : (s.setCore n c).noc = s.noc := rfl
@[simp] theorem State.setCore_cyc (s : State) (n : Nat) (c : Core) : (s.setCore n c).cyc = s.cyc := rfl
@[simp] theorem State.setCore_nextId (s : State) (n : Nat) (c : Core) : (s.setCore n c).nextId = s.nextId := rfl
@[simp] theorem State.setCore_fresh (s : State) (n : Nat) (c : Core) : (s.setCore n c).fresh = s.fresh := rfl
@[simp] theorem State.setCore_cur (s : State) (n : Nat) (c : Core) : (s.setCore n c).cur = s.cur := rfl
@[simp] theorem State.setCore_agenda (s : State) (n : Nat) (c : Core) : (s.setCore n c).agenda = s.agenda := rfl

@[simp] theorem State.setOctet_cores (s : State) (n : Nat) (o : Octet) : (s.setOctet n o).cores = s.cores := rfl
@[simp] theorem State.setOctet_dies (s : State) (n : Nat) (o : Octet) : (s.setOctet n o).dies = s.dies := rfl
@[simp] theorem State.setOctet_parts (s : State) (n : Nat) (o : Octet) : (s.setOctet n o).parts = s.parts := rfl
@[simp] theorem State.setOctet_ports (s : State) (n : Nat) (o : Octet) : (s.setOctet n o).ports = s.ports := rfl
@[simp] theorem State.setOctet_hubs (s : State) (n : Nat) (o : Octet) : (s.setOctet n o).hubs = s.hubs := rfl
@[simp] theorem State.setOctet_dev (s : State) (n : Nat) (o : Octet) : (s.setOctet n o).dev = s.dev := rfl
@[simp] theorem State.setOctet_regs (s : State) (n : Nat) (o : Octet) : (s.setOctet n o).regs = s.regs := rfl
@[simp] theorem State.setOctet_hbm (s : State) (n : Nat) (o : Octet) : (s.setOctet n o).hbm = s.hbm := rfl
@[simp] theorem State.setOctet_keyGen (s : State) (n : Nat) (o : Octet) : (s.setOctet n o).keyGen = s.keyGen := rfl
@[simp] theorem State.setOctet_keys (s : State) (n : Nat) (o : Octet) : (s.setOctet n o).keys = s.keys := rfl
@[simp] theorem State.setOctet_lineKey (s : State) (n : Nat) (o : Octet) : (s.setOctet n o).lineKey = s.lineKey := rfl
@[simp] theorem State.setOctet_fills (s : State) (n : Nat) (o : Octet) : (s.setOctet n o).fills = s.fills := rfl
@[simp] theorem State.setOctet_ecc (s : State) (n : Nat) (o : Octet) : (s.setOctet n o).ecc = s.ecc := rfl
@[simp] theorem State.setOctet_corrected (s : State) (n : Nat) (o : Octet) : (s.setOctet n o).corrected = s.corrected := rfl
@[simp] theorem State.setOctet_granuleErrs (s : State) (n : Nat) (o : Octet) : (s.setOctet n o).granuleErrs = s.granuleErrs := rfl
@[simp] theorem State.setOctet_foldStats (s : State) (n : Nat) (o : Octet) : (s.setOctet n o).foldStats = s.foldStats := rfl
@[simp] theorem State.setOctet_hostMem (s : State) (n : Nat) (o : Octet) : (s.setOctet n o).hostMem = s.hostMem := rfl
@[simp] theorem State.setOctet_flight (s : State) (n : Nat) (o : Octet) : (s.setOctet n o).flight = s.flight := rfl
@[simp] theorem State.setOctet_noc (s : State) (n : Nat) (o : Octet) : (s.setOctet n o).noc = s.noc := rfl
@[simp] theorem State.setOctet_cyc (s : State) (n : Nat) (o : Octet) : (s.setOctet n o).cyc = s.cyc := rfl
@[simp] theorem State.setOctet_nextId (s : State) (n : Nat) (o : Octet) : (s.setOctet n o).nextId = s.nextId := rfl
@[simp] theorem State.setOctet_fresh (s : State) (n : Nat) (o : Octet) : (s.setOctet n o).fresh = s.fresh := rfl
@[simp] theorem State.setOctet_cur (s : State) (n : Nat) (o : Octet) : (s.setOctet n o).cur = s.cur := rfl
@[simp] theorem State.setOctet_agenda (s : State) (n : Nat) (o : Octet) : (s.setOctet n o).agenda = s.agenda := rfl

@[simp] theorem State.setDie_cores (s : State) (n : Nat) (d : Die) : (s.setDie n d).cores = s.cores := rfl
@[simp] theorem State.setDie_octets (s : State) (n : Nat) (d : Die) : (s.setDie n d).octets = s.octets := rfl
@[simp] theorem State.setDie_parts (s : State) (n : Nat) (d : Die) : (s.setDie n d).parts = s.parts := rfl
@[simp] theorem State.setDie_ports (s : State) (n : Nat) (d : Die) : (s.setDie n d).ports = s.ports := rfl
@[simp] theorem State.setDie_hubs (s : State) (n : Nat) (d : Die) : (s.setDie n d).hubs = s.hubs := rfl
@[simp] theorem State.setDie_dev (s : State) (n : Nat) (d : Die) : (s.setDie n d).dev = s.dev := rfl
@[simp] theorem State.setDie_regs (s : State) (n : Nat) (d : Die) : (s.setDie n d).regs = s.regs := rfl
@[simp] theorem State.setDie_hbm (s : State) (n : Nat) (d : Die) : (s.setDie n d).hbm = s.hbm := rfl
@[simp] theorem State.setDie_keyGen (s : State) (n : Nat) (d : Die) : (s.setDie n d).keyGen = s.keyGen := rfl
@[simp] theorem State.setDie_keys (s : State) (n : Nat) (d : Die) : (s.setDie n d).keys = s.keys := rfl
@[simp] theorem State.setDie_lineKey (s : State) (n : Nat) (d : Die) : (s.setDie n d).lineKey = s.lineKey := rfl
@[simp] theorem State.setDie_fills (s : State) (n : Nat) (d : Die) : (s.setDie n d).fills = s.fills := rfl
@[simp] theorem State.setDie_ecc (s : State) (n : Nat) (d : Die) : (s.setDie n d).ecc = s.ecc := rfl
@[simp] theorem State.setDie_corrected (s : State) (n : Nat) (d : Die) : (s.setDie n d).corrected = s.corrected := rfl
@[simp] theorem State.setDie_granuleErrs (s : State) (n : Nat) (d : Die) : (s.setDie n d).granuleErrs = s.granuleErrs := rfl
@[simp] theorem State.setDie_foldStats (s : State) (n : Nat) (d : Die) : (s.setDie n d).foldStats = s.foldStats := rfl
@[simp] theorem State.setDie_hostMem (s : State) (n : Nat) (d : Die) : (s.setDie n d).hostMem = s.hostMem := rfl
@[simp] theorem State.setDie_flight (s : State) (n : Nat) (d : Die) : (s.setDie n d).flight = s.flight := rfl
@[simp] theorem State.setDie_noc (s : State) (n : Nat) (d : Die) : (s.setDie n d).noc = s.noc := rfl
@[simp] theorem State.setDie_cyc (s : State) (n : Nat) (d : Die) : (s.setDie n d).cyc = s.cyc := rfl
@[simp] theorem State.setDie_nextId (s : State) (n : Nat) (d : Die) : (s.setDie n d).nextId = s.nextId := rfl
@[simp] theorem State.setDie_fresh (s : State) (n : Nat) (d : Die) : (s.setDie n d).fresh = s.fresh := rfl
@[simp] theorem State.setDie_cur (s : State) (n : Nat) (d : Die) : (s.setDie n d).cur = s.cur := rfl
@[simp] theorem State.setDie_agenda (s : State) (n : Nat) (d : Die) : (s.setDie n d).agenda = s.agenda := rfl

@[simp] theorem State.setPart_cores (s : State) (n : Nat) (p : Part) : (s.setPart n p).cores = s.cores := rfl
@[simp] theorem State.setPart_octets (s : State) (n : Nat) (p : Part) : (s.setPart n p).octets = s.octets := rfl
@[simp] theorem State.setPart_dies (s : State) (n : Nat) (p : Part) : (s.setPart n p).dies = s.dies := rfl
@[simp] theorem State.setPart_ports (s : State) (n : Nat) (p : Part) : (s.setPart n p).ports = s.ports := rfl
@[simp] theorem State.setPart_hubs (s : State) (n : Nat) (p : Part) : (s.setPart n p).hubs = s.hubs := rfl
@[simp] theorem State.setPart_dev (s : State) (n : Nat) (p : Part) : (s.setPart n p).dev = s.dev := rfl
@[simp] theorem State.setPart_regs (s : State) (n : Nat) (p : Part) : (s.setPart n p).regs = s.regs := rfl
@[simp] theorem State.setPart_hbm (s : State) (n : Nat) (p : Part) : (s.setPart n p).hbm = s.hbm := rfl
@[simp] theorem State.setPart_keyGen (s : State) (n : Nat) (p : Part) : (s.setPart n p).keyGen = s.keyGen := rfl
@[simp] theorem State.setPart_keys (s : State) (n : Nat) (p : Part) : (s.setPart n p).keys = s.keys := rfl
@[simp] theorem State.setPart_lineKey (s : State) (n : Nat) (p : Part) : (s.setPart n p).lineKey = s.lineKey := rfl
@[simp] theorem State.setPart_fills (s : State) (n : Nat) (p : Part) : (s.setPart n p).fills = s.fills := rfl
@[simp] theorem State.setPart_ecc (s : State) (n : Nat) (p : Part) : (s.setPart n p).ecc = s.ecc := rfl
@[simp] theorem State.setPart_corrected (s : State) (n : Nat) (p : Part) : (s.setPart n p).corrected = s.corrected := rfl
@[simp] theorem State.setPart_granuleErrs (s : State) (n : Nat) (p : Part) : (s.setPart n p).granuleErrs = s.granuleErrs := rfl
@[simp] theorem State.setPart_foldStats (s : State) (n : Nat) (p : Part) : (s.setPart n p).foldStats = s.foldStats := rfl
@[simp] theorem State.setPart_hostMem (s : State) (n : Nat) (p : Part) : (s.setPart n p).hostMem = s.hostMem := rfl
@[simp] theorem State.setPart_flight (s : State) (n : Nat) (p : Part) : (s.setPart n p).flight = s.flight := rfl
@[simp] theorem State.setPart_noc (s : State) (n : Nat) (p : Part) : (s.setPart n p).noc = s.noc := rfl
@[simp] theorem State.setPart_cyc (s : State) (n : Nat) (p : Part) : (s.setPart n p).cyc = s.cyc := rfl
@[simp] theorem State.setPart_nextId (s : State) (n : Nat) (p : Part) : (s.setPart n p).nextId = s.nextId := rfl
@[simp] theorem State.setPart_fresh (s : State) (n : Nat) (p : Part) : (s.setPart n p).fresh = s.fresh := rfl
@[simp] theorem State.setPart_cur (s : State) (n : Nat) (p : Part) : (s.setPart n p).cur = s.cur := rfl
@[simp] theorem State.setPart_agenda (s : State) (n : Nat) (p : Part) : (s.setPart n p).agenda = s.agenda := rfl

@[simp] theorem State.setPort_cores (s : State) (n : Nat) (p : Port) : (s.setPort n p).cores = s.cores := rfl
@[simp] theorem State.setPort_octets (s : State) (n : Nat) (p : Port) : (s.setPort n p).octets = s.octets := rfl
@[simp] theorem State.setPort_dies (s : State) (n : Nat) (p : Port) : (s.setPort n p).dies = s.dies := rfl
@[simp] theorem State.setPort_parts (s : State) (n : Nat) (p : Port) : (s.setPort n p).parts = s.parts := rfl
@[simp] theorem State.setPort_hubs (s : State) (n : Nat) (p : Port) : (s.setPort n p).hubs = s.hubs := rfl
@[simp] theorem State.setPort_dev (s : State) (n : Nat) (p : Port) : (s.setPort n p).dev = s.dev := rfl
@[simp] theorem State.setPort_regs (s : State) (n : Nat) (p : Port) : (s.setPort n p).regs = s.regs := rfl
@[simp] theorem State.setPort_hbm (s : State) (n : Nat) (p : Port) : (s.setPort n p).hbm = s.hbm := rfl
@[simp] theorem State.setPort_keyGen (s : State) (n : Nat) (p : Port) : (s.setPort n p).keyGen = s.keyGen := rfl
@[simp] theorem State.setPort_keys (s : State) (n : Nat) (p : Port) : (s.setPort n p).keys = s.keys := rfl
@[simp] theorem State.setPort_lineKey (s : State) (n : Nat) (p : Port) : (s.setPort n p).lineKey = s.lineKey := rfl
@[simp] theorem State.setPort_fills (s : State) (n : Nat) (p : Port) : (s.setPort n p).fills = s.fills := rfl
@[simp] theorem State.setPort_ecc (s : State) (n : Nat) (p : Port) : (s.setPort n p).ecc = s.ecc := rfl
@[simp] theorem State.setPort_corrected (s : State) (n : Nat) (p : Port) : (s.setPort n p).corrected = s.corrected := rfl
@[simp] theorem State.setPort_granuleErrs (s : State) (n : Nat) (p : Port) : (s.setPort n p).granuleErrs = s.granuleErrs := rfl
@[simp] theorem State.setPort_foldStats (s : State) (n : Nat) (p : Port) : (s.setPort n p).foldStats = s.foldStats := rfl
@[simp] theorem State.setPort_hostMem (s : State) (n : Nat) (p : Port) : (s.setPort n p).hostMem = s.hostMem := rfl
@[simp] theorem State.setPort_flight (s : State) (n : Nat) (p : Port) : (s.setPort n p).flight = s.flight := rfl
@[simp] theorem State.setPort_noc (s : State) (n : Nat) (p : Port) : (s.setPort n p).noc = s.noc := rfl
@[simp] theorem State.setPort_cyc (s : State) (n : Nat) (p : Port) : (s.setPort n p).cyc = s.cyc := rfl
@[simp] theorem State.setPort_nextId (s : State) (n : Nat) (p : Port) : (s.setPort n p).nextId = s.nextId := rfl
@[simp] theorem State.setPort_fresh (s : State) (n : Nat) (p : Port) : (s.setPort n p).fresh = s.fresh := rfl
@[simp] theorem State.setPort_cur (s : State) (n : Nat) (p : Port) : (s.setPort n p).cur = s.cur := rfl
@[simp] theorem State.setPort_agenda (s : State) (n : Nat) (p : Port) : (s.setPort n p).agenda = s.agenda := rfl

@[simp] theorem State.setHub_cores (s : State) (n : Nat) (h : Hub) : (s.setHub n h).cores = s.cores := rfl
@[simp] theorem State.setHub_octets (s : State) (n : Nat) (h : Hub) : (s.setHub n h).octets = s.octets := rfl
@[simp] theorem State.setHub_dies (s : State) (n : Nat) (h : Hub) : (s.setHub n h).dies = s.dies := rfl
@[simp] theorem State.setHub_parts (s : State) (n : Nat) (h : Hub) : (s.setHub n h).parts = s.parts := rfl
@[simp] theorem State.setHub_ports (s : State) (n : Nat) (h : Hub) : (s.setHub n h).ports = s.ports := rfl
@[simp] theorem State.setHub_dev (s : State) (n : Nat) (h : Hub) : (s.setHub n h).dev = s.dev := rfl
@[simp] theorem State.setHub_regs (s : State) (n : Nat) (h : Hub) : (s.setHub n h).regs = s.regs := rfl
@[simp] theorem State.setHub_hbm (s : State) (n : Nat) (h : Hub) : (s.setHub n h).hbm = s.hbm := rfl
@[simp] theorem State.setHub_keyGen (s : State) (n : Nat) (h : Hub) : (s.setHub n h).keyGen = s.keyGen := rfl
@[simp] theorem State.setHub_keys (s : State) (n : Nat) (h : Hub) : (s.setHub n h).keys = s.keys := rfl
@[simp] theorem State.setHub_lineKey (s : State) (n : Nat) (h : Hub) : (s.setHub n h).lineKey = s.lineKey := rfl
@[simp] theorem State.setHub_fills (s : State) (n : Nat) (h : Hub) : (s.setHub n h).fills = s.fills := rfl
@[simp] theorem State.setHub_ecc (s : State) (n : Nat) (h : Hub) : (s.setHub n h).ecc = s.ecc := rfl
@[simp] theorem State.setHub_corrected (s : State) (n : Nat) (h : Hub) : (s.setHub n h).corrected = s.corrected := rfl
@[simp] theorem State.setHub_granuleErrs (s : State) (n : Nat) (h : Hub) : (s.setHub n h).granuleErrs = s.granuleErrs := rfl
@[simp] theorem State.setHub_foldStats (s : State) (n : Nat) (h : Hub) : (s.setHub n h).foldStats = s.foldStats := rfl
@[simp] theorem State.setHub_hostMem (s : State) (n : Nat) (h : Hub) : (s.setHub n h).hostMem = s.hostMem := rfl
@[simp] theorem State.setHub_flight (s : State) (n : Nat) (h : Hub) : (s.setHub n h).flight = s.flight := rfl
@[simp] theorem State.setHub_noc (s : State) (n : Nat) (h : Hub) : (s.setHub n h).noc = s.noc := rfl
@[simp] theorem State.setHub_cyc (s : State) (n : Nat) (h : Hub) : (s.setHub n h).cyc = s.cyc := rfl
@[simp] theorem State.setHub_nextId (s : State) (n : Nat) (h : Hub) : (s.setHub n h).nextId = s.nextId := rfl
@[simp] theorem State.setHub_fresh (s : State) (n : Nat) (h : Hub) : (s.setHub n h).fresh = s.fresh := rfl
@[simp] theorem State.setHub_cur (s : State) (n : Nat) (h : Hub) : (s.setHub n h).cur = s.cur := rfl
@[simp] theorem State.setHub_agenda (s : State) (n : Nat) (h : Hub) : (s.setHub n h).agenda = s.agenda := rfl

@[simp] theorem State.setReg_cores (s : State) (a : Nat) (v : Word) : (s.setReg a v).cores = s.cores := rfl
@[simp] theorem State.setReg_octets (s : State) (a : Nat) (v : Word) : (s.setReg a v).octets = s.octets := rfl
@[simp] theorem State.setReg_dies (s : State) (a : Nat) (v : Word) : (s.setReg a v).dies = s.dies := rfl
@[simp] theorem State.setReg_parts (s : State) (a : Nat) (v : Word) : (s.setReg a v).parts = s.parts := rfl
@[simp] theorem State.setReg_ports (s : State) (a : Nat) (v : Word) : (s.setReg a v).ports = s.ports := rfl
@[simp] theorem State.setReg_hubs (s : State) (a : Nat) (v : Word) : (s.setReg a v).hubs = s.hubs := rfl
@[simp] theorem State.setReg_dev (s : State) (a : Nat) (v : Word) : (s.setReg a v).dev = s.dev := rfl
@[simp] theorem State.setReg_hbm (s : State) (a : Nat) (v : Word) : (s.setReg a v).hbm = s.hbm := rfl
@[simp] theorem State.setReg_keyGen (s : State) (a : Nat) (v : Word) : (s.setReg a v).keyGen = s.keyGen := rfl
@[simp] theorem State.setReg_keys (s : State) (a : Nat) (v : Word) : (s.setReg a v).keys = s.keys := rfl
@[simp] theorem State.setReg_lineKey (s : State) (a : Nat) (v : Word) : (s.setReg a v).lineKey = s.lineKey := rfl
@[simp] theorem State.setReg_fills (s : State) (a : Nat) (v : Word) : (s.setReg a v).fills = s.fills := rfl
@[simp] theorem State.setReg_ecc (s : State) (a : Nat) (v : Word) : (s.setReg a v).ecc = s.ecc := rfl
@[simp] theorem State.setReg_corrected (s : State) (a : Nat) (v : Word) : (s.setReg a v).corrected = s.corrected := rfl
@[simp] theorem State.setReg_granuleErrs (s : State) (a : Nat) (v : Word) : (s.setReg a v).granuleErrs = s.granuleErrs := rfl
@[simp] theorem State.setReg_foldStats (s : State) (a : Nat) (v : Word) : (s.setReg a v).foldStats = s.foldStats := rfl
@[simp] theorem State.setReg_hostMem (s : State) (a : Nat) (v : Word) : (s.setReg a v).hostMem = s.hostMem := rfl
@[simp] theorem State.setReg_flight (s : State) (a : Nat) (v : Word) : (s.setReg a v).flight = s.flight := rfl
@[simp] theorem State.setReg_noc (s : State) (a : Nat) (v : Word) : (s.setReg a v).noc = s.noc := rfl
@[simp] theorem State.setReg_cyc (s : State) (a : Nat) (v : Word) : (s.setReg a v).cyc = s.cyc := rfl
@[simp] theorem State.setReg_nextId (s : State) (a : Nat) (v : Word) : (s.setReg a v).nextId = s.nextId := rfl
@[simp] theorem State.setReg_fresh (s : State) (a : Nat) (v : Word) : (s.setReg a v).fresh = s.fresh := rfl
@[simp] theorem State.setReg_cur (s : State) (a : Nat) (v : Word) : (s.setReg a v).cur = s.cur := rfl
@[simp] theorem State.setReg_agenda (s : State) (a : Nat) (v : Word) : (s.setReg a v).agenda = s.agenda := rfl

/-! ### What is read back -/

@[simp] theorem State.setCore_core_same (s : State) (n : Nat) (c : Core) : (s.setCore n c).core n = c := AMap.getD_set_same _ _ _ _
theorem State.setCore_core_other (s : State) (n : Nat) (c : Core) {m : Nat} (h : m ≠ n) : (s.setCore n c).core m = s.core m := AMap.getD_set_other _ _ _ h
@[simp] theorem State.setOctet_octet_same (s : State) (n : Nat) (c : Octet) : (s.setOctet n c).octet n = c := AMap.getD_set_same _ _ _ _
theorem State.setOctet_octet_other (s : State) (n : Nat) (c : Octet) {m : Nat} (h : m ≠ n) : (s.setOctet n c).octet m = s.octet m := AMap.getD_set_other _ _ _ h
@[simp] theorem State.setDie_die_same (s : State) (n : Nat) (c : Die) : (s.setDie n c).die n = c := AMap.getD_set_same _ _ _ _
theorem State.setDie_die_other (s : State) (n : Nat) (c : Die) {m : Nat} (h : m ≠ n) : (s.setDie n c).die m = s.die m := AMap.getD_set_other _ _ _ h
@[simp] theorem State.setPart_part_same (s : State) (n : Nat) (c : Part) : (s.setPart n c).part n = c := AMap.getD_set_same _ _ _ _
theorem State.setPart_part_other (s : State) (n : Nat) (c : Part) {m : Nat} (h : m ≠ n) : (s.setPart n c).part m = s.part m := AMap.getD_set_other _ _ _ h
@[simp] theorem State.setPort_port_same (s : State) (n : Nat) (c : Port) : (s.setPort n c).port n = c := AMap.getD_set_same _ _ _ _
theorem State.setPort_port_other (s : State) (n : Nat) (c : Port) {m : Nat} (h : m ≠ n) : (s.setPort n c).port m = s.port m := AMap.getD_set_other _ _ _ h
@[simp] theorem State.setHub_hub_same (s : State) (n : Nat) (c : Hub) : (s.setHub n c).hub n = c := AMap.getD_set_same _ _ _ _
theorem State.setHub_hub_other (s : State) (n : Nat) (c : Hub) {m : Nat} (h : m ≠ n) : (s.setHub n c).hub m = s.hub m := AMap.getD_set_other _ _ _ h
@[simp] theorem State.setReg_reg_same (s : State) (n : Nat) (c : Word) : (s.setReg n c).reg n = c := AMap.getD_set_same _ _ _ _
theorem State.setReg_reg_other (s : State) (n : Nat) (c : Word) {m : Nat} (h : m ≠ n) : (s.setReg n c).reg m = s.reg m := AMap.getD_set_other _ _ _ h

@[simp] theorem State.setCore_octet (s : State) (n : Nat) (c : Core) (k : Nat) : (s.setCore n c).octet k = s.octet k := rfl
@[simp] theorem State.setCore_die (s : State) (n : Nat) (c : Core) (k : Nat) : (s.setCore n c).die k = s.die k := rfl
@[simp] theorem State.setCore_part (s : State) (n : Nat) (c : Core) (k : Nat) : (s.setCore n c).part k = s.part k := rfl
@[simp] theorem State.setCore_port (s : State) (n : Nat) (c : Core) (k : Nat) : (s.setCore n c).port k = s.port k := rfl
@[simp] theorem State.setCore_hub (s : State) (n : Nat) (c : Core) (k : Nat) : (s.setCore n c).hub k = s.hub k := rfl
@[simp] theorem State.setCore_reg (s : State) (n : Nat) (c : Core) (k : Nat) : (s.setCore n c).reg k = s.reg k := rfl
@[simp] theorem State.setCore_mesh (s : State) (n : Nat) (c : Core) : (s.setCore n c).mesh = s.mesh := rfl
@[simp] theorem State.setOctet_core (s : State) (n : Nat) (o : Octet) (k : Nat) : (s.setOctet n o).core k = s.core k := rfl
@[simp] theorem State.setOctet_die (s : State) (n : Nat) (o : Octet) (k : Nat) : (s.setOctet n o).die k = s.die k := rfl
@[simp] theorem State.setOctet_part (s : State) (n : Nat) (o : Octet) (k : Nat) : (s.setOctet n o).part k = s.part k := rfl
@[simp] theorem State.setOctet_port (s : State) (n : Nat) (o : Octet) (k : Nat) : (s.setOctet n o).port k = s.port k := rfl
@[simp] theorem State.setOctet_hub (s : State) (n : Nat) (o : Octet) (k : Nat) : (s.setOctet n o).hub k = s.hub k := rfl
@[simp] theorem State.setOctet_reg (s : State) (n : Nat) (o : Octet) (k : Nat) : (s.setOctet n o).reg k = s.reg k := rfl
@[simp] theorem State.setOctet_mesh (s : State) (n : Nat) (o : Octet) : (s.setOctet n o).mesh = s.mesh := rfl
@[simp] theorem State.setDie_core (s : State) (n : Nat) (d : Die) (k : Nat) : (s.setDie n d).core k = s.core k := rfl
@[simp] theorem State.setDie_octet (s : State) (n : Nat) (d : Die) (k : Nat) : (s.setDie n d).octet k = s.octet k := rfl
@[simp] theorem State.setDie_part (s : State) (n : Nat) (d : Die) (k : Nat) : (s.setDie n d).part k = s.part k := rfl
@[simp] theorem State.setDie_port (s : State) (n : Nat) (d : Die) (k : Nat) : (s.setDie n d).port k = s.port k := rfl
@[simp] theorem State.setDie_hub (s : State) (n : Nat) (d : Die) (k : Nat) : (s.setDie n d).hub k = s.hub k := rfl
@[simp] theorem State.setDie_reg (s : State) (n : Nat) (d : Die) (k : Nat) : (s.setDie n d).reg k = s.reg k := rfl
@[simp] theorem State.setDie_mesh (s : State) (n : Nat) (d : Die) : (s.setDie n d).mesh = s.mesh := rfl
@[simp] theorem State.setPart_core (s : State) (n : Nat) (p : Part) (k : Nat) : (s.setPart n p).core k = s.core k := rfl
@[simp] theorem State.setPart_octet (s : State) (n : Nat) (p : Part) (k : Nat) : (s.setPart n p).octet k = s.octet k := rfl
@[simp] theorem State.setPart_die (s : State) (n : Nat) (p : Part) (k : Nat) : (s.setPart n p).die k = s.die k := rfl
@[simp] theorem State.setPart_port (s : State) (n : Nat) (p : Part) (k : Nat) : (s.setPart n p).port k = s.port k := rfl
@[simp] theorem State.setPart_hub (s : State) (n : Nat) (p : Part) (k : Nat) : (s.setPart n p).hub k = s.hub k := rfl
@[simp] theorem State.setPart_reg (s : State) (n : Nat) (p : Part) (k : Nat) : (s.setPart n p).reg k = s.reg k := rfl
@[simp] theorem State.setPart_mesh (s : State) (n : Nat) (p : Part) : (s.setPart n p).mesh = s.mesh := rfl
@[simp] theorem State.setPort_core (s : State) (n : Nat) (p : Port) (k : Nat) : (s.setPort n p).core k = s.core k := rfl
@[simp] theorem State.setPort_octet (s : State) (n : Nat) (p : Port) (k : Nat) : (s.setPort n p).octet k = s.octet k := rfl
@[simp] theorem State.setPort_die (s : State) (n : Nat) (p : Port) (k : Nat) : (s.setPort n p).die k = s.die k := rfl
@[simp] theorem State.setPort_part (s : State) (n : Nat) (p : Port) (k : Nat) : (s.setPort n p).part k = s.part k := rfl
@[simp] theorem State.setPort_hub (s : State) (n : Nat) (p : Port) (k : Nat) : (s.setPort n p).hub k = s.hub k := rfl
@[simp] theorem State.setPort_reg (s : State) (n : Nat) (p : Port) (k : Nat) : (s.setPort n p).reg k = s.reg k := rfl
@[simp] theorem State.setPort_mesh (s : State) (n : Nat) (p : Port) : (s.setPort n p).mesh = s.mesh := rfl
@[simp] theorem State.setHub_core (s : State) (n : Nat) (h : Hub) (k : Nat) : (s.setHub n h).core k = s.core k := rfl
@[simp] theorem State.setHub_octet (s : State) (n : Nat) (h : Hub) (k : Nat) : (s.setHub n h).octet k = s.octet k := rfl
@[simp] theorem State.setHub_die (s : State) (n : Nat) (h : Hub) (k : Nat) : (s.setHub n h).die k = s.die k := rfl
@[simp] theorem State.setHub_part (s : State) (n : Nat) (h : Hub) (k : Nat) : (s.setHub n h).part k = s.part k := rfl
@[simp] theorem State.setHub_port (s : State) (n : Nat) (h : Hub) (k : Nat) : (s.setHub n h).port k = s.port k := rfl
@[simp] theorem State.setHub_reg (s : State) (n : Nat) (h : Hub) (k : Nat) : (s.setHub n h).reg k = s.reg k := rfl
@[simp] theorem State.setHub_mesh (s : State) (n : Nat) (h : Hub) : (s.setHub n h).mesh = s.mesh := rfl
@[simp] theorem State.setReg_core (s : State) (a : Nat) (v : Word) (k : Nat) : (s.setReg a v).core k = s.core k := rfl
@[simp] theorem State.setReg_octet (s : State) (a : Nat) (v : Word) (k : Nat) : (s.setReg a v).octet k = s.octet k := rfl
@[simp] theorem State.setReg_die (s : State) (a : Nat) (v : Word) (k : Nat) : (s.setReg a v).die k = s.die k := rfl
@[simp] theorem State.setReg_part (s : State) (a : Nat) (v : Word) (k : Nat) : (s.setReg a v).part k = s.part k := rfl
@[simp] theorem State.setReg_port (s : State) (a : Nat) (v : Word) (k : Nat) : (s.setReg a v).port k = s.port k := rfl
@[simp] theorem State.setReg_hub (s : State) (a : Nat) (v : Word) (k : Nat) : (s.setReg a v).hub k = s.hub k := rfl
@[simp] theorem State.setReg_mesh (s : State) (a : Nat) (v : Word) : (s.setReg a v).mesh = s.mesh := rfl

/-! ### The fields of a core -/

@[simp] theorem Core.setRow_ctxs (c : Core) (k : Nat) (v : BitVec 2048) : (c.setRow k v).ctxs = c.ctxs := rfl
@[simp] theorem Core.setRow_mf (c : Core) (k : Nat) (v : BitVec 2048) : (c.setRow k v).mf = c.mf := rfl
@[simp] theorem Core.setRow_qs (c : Core) (k : Nat) (v : BitVec 2048) : (c.setRow k v).qs = c.qs := rfl
@[simp] theorem Core.setRow_bars (c : Core) (k : Nat) (v : BitVec 2048) : (c.setRow k v).bars = c.bars := rfl
@[simp] theorem Core.setRow_roses (c : Core) (k : Nat) (v : BitVec 2048) : (c.setRow k v).roses = c.roses := rfl
@[simp] theorem Core.setRow_mboxes (c : Core) (k : Nat) (v : BitVec 2048) : (c.setRow k v).mboxes = c.mboxes := rfl
@[simp] theorem Core.setRow_grants (c : Core) (k : Nat) (v : BitVec 2048) : (c.setRow k v).grants = c.grants := rfl
@[simp] theorem Core.setRow_sendq (c : Core) (k : Nat) (v : BitVec 2048) : (c.setRow k v).sendq = c.sendq := rfl
@[simp] theorem Core.setRow_tpls (c : Core) (k : Nat) (v : BitVec 2048) : (c.setRow k v).tpls = c.tpls := rfl
@[simp] theorem Core.setRow_chans (c : Core) (k : Nat) (v : BitVec 2048) : (c.setRow k v).chans = c.chans := rfl
@[simp] theorem Core.setRow_vq (c : Core) (k : Nat) (v : BitVec 2048) : (c.setRow k v).vq = c.vq := rfl
@[simp] theorem Core.setRow_vrun (c : Core) (k : Nat) (v : BitVec 2048) : (c.setRow k v).vrun = c.vrun := rfl
@[simp] theorem Core.setRow_mq (c : Core) (k : Nat) (v : BitVec 2048) : (c.setRow k v).mq = c.mq := rfl
@[simp] theorem Core.setRow_mrun (c : Core) (k : Nat) (v : BitVec 2048) : (c.setRow k v).mrun = c.mrun := rfl
@[simp] theorem Core.setRow_mstat (c : Core) (k : Nat) (v : BitVec 2048) : (c.setRow k v).mstat = c.mstat := rfl
@[simp] theorem Core.setRow_mup (c : Core) (k : Nat) (v : BitVec 2048) : (c.setRow k v).mup = c.mup := rfl
@[simp] theorem Core.setRow_mupIssued (c : Core) (k : Nat) (v : BitVec 2048) : (c.setRow k v).mupIssued = c.mupIssued := rfl
@[simp] theorem Core.setRow_wts (c : Core) (k : Nat) (v : BitVec 2048) : (c.setRow k v).wts = c.wts := rfl
@[simp] theorem Core.setRow_claims (c : Core) (k : Nat) (v : BitVec 2048) : (c.setRow k v).claims = c.claims := rfl
@[simp] theorem Core.setRow_scr (c : Core) (k : Nat) (v : BitVec 2048) : (c.setRow k v).scr = c.scr := rfl
@[simp] theorem Core.setRow_scratch (c : Core) (k : Nat) (v : BitVec 2048) : (c.setRow k v).scratch = c.scratch := rfl
@[simp] theorem Core.setRow_stack (c : Core) (k : Nat) (v : BitVec 2048) : (c.setRow k v).stack = c.stack := rfl
@[simp] theorem Core.setRow_l1 (c : Core) (k : Nat) (v : BitVec 2048) : (c.setRow k v).l1 = c.l1 := rfl
@[simp] theorem Core.setRow_fifo (c : Core) (k : Nat) (v : BitVec 2048) : (c.setRow k v).fifo = c.fifo := rfl
@[simp] theorem Core.setRow_tlb (c : Core) (k : Nat) (v : BitVec 2048) : (c.setRow k v).tlb = c.tlb := rfl
@[simp] theorem Core.setRow_gang (c : Core) (k : Nat) (v : BitVec 2048) : (c.setRow k v).gang = c.gang := rfl
@[simp] theorem Core.setRow_phase (c : Core) (k : Nat) (v : BitVec 2048) : (c.setRow k v).phase = c.phase := rfl
@[simp] theorem Core.setRow_fixes (c : Core) (k : Nat) (v : BitVec 2048) : (c.setRow k v).fixes = c.fixes := rfl
@[simp] theorem Core.setRow_trace (c : Core) (k : Nat) (v : BitVec 2048) : (c.setRow k v).trace = c.trace := rfl
@[simp] theorem Core.setRow_missed (c : Core) (k : Nat) (v : BitVec 2048) : (c.setRow k v).missed = c.missed := rfl
@[simp] theorem Core.setRow_rplPos (c : Core) (k : Nat) (v : BitVec 2048) : (c.setRow k v).rplPos = c.rplPos := rfl
@[simp] theorem Core.setRow_trStop (c : Core) (k : Nat) (v : BitVec 2048) : (c.setRow k v).trStop = c.trStop := rfl
@[simp] theorem Core.setRow_trFull (c : Core) (k : Nat) (v : BitVec 2048) : (c.setRow k v).trFull = c.trFull := rfl
@[simp] theorem Core.setRow_trOff (c : Core) (k : Nat) (v : BitVec 2048) : (c.setRow k v).trOff = c.trOff := rfl
@[simp] theorem Core.setRow_moving (c : Core) (k : Nat) (v : BitVec 2048) : (c.setRow k v).moving = c.moving := rfl
@[simp] theorem Core.setRow_row_same (c : Core) (k : Nat) (v : BitVec 2048) : (c.setRow k v).row k = v := AMap.getD_set_same _ _ _ _
theorem Core.setRow_row_other (c : Core) (k : Nat) (v : BitVec 2048) {j : Nat} (h : j ≠ k) : (c.setRow k v).row j = c.row j := AMap.getD_set_other _ _ _ h

@[simp] theorem Core.setBar_ctxs (c : Core) (k : Nat) (v : Barrier) : (c.setBar k v).ctxs = c.ctxs := rfl
@[simp] theorem Core.setBar_mf (c : Core) (k : Nat) (v : Barrier) : (c.setBar k v).mf = c.mf := rfl
@[simp] theorem Core.setBar_qs (c : Core) (k : Nat) (v : Barrier) : (c.setBar k v).qs = c.qs := rfl
@[simp] theorem Core.setBar_roses (c : Core) (k : Nat) (v : Barrier) : (c.setBar k v).roses = c.roses := rfl
@[simp] theorem Core.setBar_mboxes (c : Core) (k : Nat) (v : Barrier) : (c.setBar k v).mboxes = c.mboxes := rfl
@[simp] theorem Core.setBar_grants (c : Core) (k : Nat) (v : Barrier) : (c.setBar k v).grants = c.grants := rfl
@[simp] theorem Core.setBar_sendq (c : Core) (k : Nat) (v : Barrier) : (c.setBar k v).sendq = c.sendq := rfl
@[simp] theorem Core.setBar_tpls (c : Core) (k : Nat) (v : Barrier) : (c.setBar k v).tpls = c.tpls := rfl
@[simp] theorem Core.setBar_chans (c : Core) (k : Nat) (v : Barrier) : (c.setBar k v).chans = c.chans := rfl
@[simp] theorem Core.setBar_vq (c : Core) (k : Nat) (v : Barrier) : (c.setBar k v).vq = c.vq := rfl
@[simp] theorem Core.setBar_vrun (c : Core) (k : Nat) (v : Barrier) : (c.setBar k v).vrun = c.vrun := rfl
@[simp] theorem Core.setBar_mq (c : Core) (k : Nat) (v : Barrier) : (c.setBar k v).mq = c.mq := rfl
@[simp] theorem Core.setBar_mrun (c : Core) (k : Nat) (v : Barrier) : (c.setBar k v).mrun = c.mrun := rfl
@[simp] theorem Core.setBar_mstat (c : Core) (k : Nat) (v : Barrier) : (c.setBar k v).mstat = c.mstat := rfl
@[simp] theorem Core.setBar_mup (c : Core) (k : Nat) (v : Barrier) : (c.setBar k v).mup = c.mup := rfl
@[simp] theorem Core.setBar_mupIssued (c : Core) (k : Nat) (v : Barrier) : (c.setBar k v).mupIssued = c.mupIssued := rfl
@[simp] theorem Core.setBar_rows (c : Core) (k : Nat) (v : Barrier) : (c.setBar k v).rows = c.rows := rfl
@[simp] theorem Core.setBar_wts (c : Core) (k : Nat) (v : Barrier) : (c.setBar k v).wts = c.wts := rfl
@[simp] theorem Core.setBar_claims (c : Core) (k : Nat) (v : Barrier) : (c.setBar k v).claims = c.claims := rfl
@[simp] theorem Core.setBar_scr (c : Core) (k : Nat) (v : Barrier) : (c.setBar k v).scr = c.scr := rfl
@[simp] theorem Core.setBar_scratch (c : Core) (k : Nat) (v : Barrier) : (c.setBar k v).scratch = c.scratch := rfl
@[simp] theorem Core.setBar_stack (c : Core) (k : Nat) (v : Barrier) : (c.setBar k v).stack = c.stack := rfl
@[simp] theorem Core.setBar_l1 (c : Core) (k : Nat) (v : Barrier) : (c.setBar k v).l1 = c.l1 := rfl
@[simp] theorem Core.setBar_fifo (c : Core) (k : Nat) (v : Barrier) : (c.setBar k v).fifo = c.fifo := rfl
@[simp] theorem Core.setBar_tlb (c : Core) (k : Nat) (v : Barrier) : (c.setBar k v).tlb = c.tlb := rfl
@[simp] theorem Core.setBar_gang (c : Core) (k : Nat) (v : Barrier) : (c.setBar k v).gang = c.gang := rfl
@[simp] theorem Core.setBar_phase (c : Core) (k : Nat) (v : Barrier) : (c.setBar k v).phase = c.phase := rfl
@[simp] theorem Core.setBar_fixes (c : Core) (k : Nat) (v : Barrier) : (c.setBar k v).fixes = c.fixes := rfl
@[simp] theorem Core.setBar_trace (c : Core) (k : Nat) (v : Barrier) : (c.setBar k v).trace = c.trace := rfl
@[simp] theorem Core.setBar_missed (c : Core) (k : Nat) (v : Barrier) : (c.setBar k v).missed = c.missed := rfl
@[simp] theorem Core.setBar_rplPos (c : Core) (k : Nat) (v : Barrier) : (c.setBar k v).rplPos = c.rplPos := rfl
@[simp] theorem Core.setBar_trStop (c : Core) (k : Nat) (v : Barrier) : (c.setBar k v).trStop = c.trStop := rfl
@[simp] theorem Core.setBar_trFull (c : Core) (k : Nat) (v : Barrier) : (c.setBar k v).trFull = c.trFull := rfl
@[simp] theorem Core.setBar_trOff (c : Core) (k : Nat) (v : Barrier) : (c.setBar k v).trOff = c.trOff := rfl
@[simp] theorem Core.setBar_moving (c : Core) (k : Nat) (v : Barrier) : (c.setBar k v).moving = c.moving := rfl
@[simp] theorem Core.setBar_bar_same (c : Core) (k : Nat) (v : Barrier) : (c.setBar k v).bar k = v := AMap.getD_set_same _ _ _ _
theorem Core.setBar_bar_other (c : Core) (k : Nat) (v : Barrier) {j : Nat} (h : j ≠ k) : (c.setBar k v).bar j = c.bar j := AMap.getD_set_other _ _ _ h

@[simp] theorem Core.setRose_ctxs (c : Core) (k : Nat) (v : Rose) : (c.setRose k v).ctxs = c.ctxs := rfl
@[simp] theorem Core.setRose_mf (c : Core) (k : Nat) (v : Rose) : (c.setRose k v).mf = c.mf := rfl
@[simp] theorem Core.setRose_qs (c : Core) (k : Nat) (v : Rose) : (c.setRose k v).qs = c.qs := rfl
@[simp] theorem Core.setRose_bars (c : Core) (k : Nat) (v : Rose) : (c.setRose k v).bars = c.bars := rfl
@[simp] theorem Core.setRose_mboxes (c : Core) (k : Nat) (v : Rose) : (c.setRose k v).mboxes = c.mboxes := rfl
@[simp] theorem Core.setRose_grants (c : Core) (k : Nat) (v : Rose) : (c.setRose k v).grants = c.grants := rfl
@[simp] theorem Core.setRose_sendq (c : Core) (k : Nat) (v : Rose) : (c.setRose k v).sendq = c.sendq := rfl
@[simp] theorem Core.setRose_tpls (c : Core) (k : Nat) (v : Rose) : (c.setRose k v).tpls = c.tpls := rfl
@[simp] theorem Core.setRose_chans (c : Core) (k : Nat) (v : Rose) : (c.setRose k v).chans = c.chans := rfl
@[simp] theorem Core.setRose_vq (c : Core) (k : Nat) (v : Rose) : (c.setRose k v).vq = c.vq := rfl
@[simp] theorem Core.setRose_vrun (c : Core) (k : Nat) (v : Rose) : (c.setRose k v).vrun = c.vrun := rfl
@[simp] theorem Core.setRose_mq (c : Core) (k : Nat) (v : Rose) : (c.setRose k v).mq = c.mq := rfl
@[simp] theorem Core.setRose_mrun (c : Core) (k : Nat) (v : Rose) : (c.setRose k v).mrun = c.mrun := rfl
@[simp] theorem Core.setRose_mstat (c : Core) (k : Nat) (v : Rose) : (c.setRose k v).mstat = c.mstat := rfl
@[simp] theorem Core.setRose_mup (c : Core) (k : Nat) (v : Rose) : (c.setRose k v).mup = c.mup := rfl
@[simp] theorem Core.setRose_mupIssued (c : Core) (k : Nat) (v : Rose) : (c.setRose k v).mupIssued = c.mupIssued := rfl
@[simp] theorem Core.setRose_rows (c : Core) (k : Nat) (v : Rose) : (c.setRose k v).rows = c.rows := rfl
@[simp] theorem Core.setRose_wts (c : Core) (k : Nat) (v : Rose) : (c.setRose k v).wts = c.wts := rfl
@[simp] theorem Core.setRose_claims (c : Core) (k : Nat) (v : Rose) : (c.setRose k v).claims = c.claims := rfl
@[simp] theorem Core.setRose_scr (c : Core) (k : Nat) (v : Rose) : (c.setRose k v).scr = c.scr := rfl
@[simp] theorem Core.setRose_scratch (c : Core) (k : Nat) (v : Rose) : (c.setRose k v).scratch = c.scratch := rfl
@[simp] theorem Core.setRose_stack (c : Core) (k : Nat) (v : Rose) : (c.setRose k v).stack = c.stack := rfl
@[simp] theorem Core.setRose_l1 (c : Core) (k : Nat) (v : Rose) : (c.setRose k v).l1 = c.l1 := rfl
@[simp] theorem Core.setRose_fifo (c : Core) (k : Nat) (v : Rose) : (c.setRose k v).fifo = c.fifo := rfl
@[simp] theorem Core.setRose_tlb (c : Core) (k : Nat) (v : Rose) : (c.setRose k v).tlb = c.tlb := rfl
@[simp] theorem Core.setRose_gang (c : Core) (k : Nat) (v : Rose) : (c.setRose k v).gang = c.gang := rfl
@[simp] theorem Core.setRose_phase (c : Core) (k : Nat) (v : Rose) : (c.setRose k v).phase = c.phase := rfl
@[simp] theorem Core.setRose_fixes (c : Core) (k : Nat) (v : Rose) : (c.setRose k v).fixes = c.fixes := rfl
@[simp] theorem Core.setRose_trace (c : Core) (k : Nat) (v : Rose) : (c.setRose k v).trace = c.trace := rfl
@[simp] theorem Core.setRose_missed (c : Core) (k : Nat) (v : Rose) : (c.setRose k v).missed = c.missed := rfl
@[simp] theorem Core.setRose_rplPos (c : Core) (k : Nat) (v : Rose) : (c.setRose k v).rplPos = c.rplPos := rfl
@[simp] theorem Core.setRose_trStop (c : Core) (k : Nat) (v : Rose) : (c.setRose k v).trStop = c.trStop := rfl
@[simp] theorem Core.setRose_trFull (c : Core) (k : Nat) (v : Rose) : (c.setRose k v).trFull = c.trFull := rfl
@[simp] theorem Core.setRose_trOff (c : Core) (k : Nat) (v : Rose) : (c.setRose k v).trOff = c.trOff := rfl
@[simp] theorem Core.setRose_moving (c : Core) (k : Nat) (v : Rose) : (c.setRose k v).moving = c.moving := rfl
@[simp] theorem Core.setRose_rose_same (c : Core) (k : Nat) (v : Rose) : (c.setRose k v).rose k = v := AMap.getD_set_same _ _ _ _
theorem Core.setRose_rose_other (c : Core) (k : Nat) (v : Rose) {j : Nat} (h : j ≠ k) : (c.setRose k v).rose j = c.rose j := AMap.getD_set_other _ _ _ h

@[simp] theorem Core.setMbox_ctxs (c : Core) (k : Nat) (v : Mailbox) : (c.setMbox k v).ctxs = c.ctxs := rfl
@[simp] theorem Core.setMbox_mf (c : Core) (k : Nat) (v : Mailbox) : (c.setMbox k v).mf = c.mf := rfl
@[simp] theorem Core.setMbox_qs (c : Core) (k : Nat) (v : Mailbox) : (c.setMbox k v).qs = c.qs := rfl
@[simp] theorem Core.setMbox_bars (c : Core) (k : Nat) (v : Mailbox) : (c.setMbox k v).bars = c.bars := rfl
@[simp] theorem Core.setMbox_roses (c : Core) (k : Nat) (v : Mailbox) : (c.setMbox k v).roses = c.roses := rfl
@[simp] theorem Core.setMbox_grants (c : Core) (k : Nat) (v : Mailbox) : (c.setMbox k v).grants = c.grants := rfl
@[simp] theorem Core.setMbox_sendq (c : Core) (k : Nat) (v : Mailbox) : (c.setMbox k v).sendq = c.sendq := rfl
@[simp] theorem Core.setMbox_tpls (c : Core) (k : Nat) (v : Mailbox) : (c.setMbox k v).tpls = c.tpls := rfl
@[simp] theorem Core.setMbox_chans (c : Core) (k : Nat) (v : Mailbox) : (c.setMbox k v).chans = c.chans := rfl
@[simp] theorem Core.setMbox_vq (c : Core) (k : Nat) (v : Mailbox) : (c.setMbox k v).vq = c.vq := rfl
@[simp] theorem Core.setMbox_vrun (c : Core) (k : Nat) (v : Mailbox) : (c.setMbox k v).vrun = c.vrun := rfl
@[simp] theorem Core.setMbox_mq (c : Core) (k : Nat) (v : Mailbox) : (c.setMbox k v).mq = c.mq := rfl
@[simp] theorem Core.setMbox_mrun (c : Core) (k : Nat) (v : Mailbox) : (c.setMbox k v).mrun = c.mrun := rfl
@[simp] theorem Core.setMbox_mstat (c : Core) (k : Nat) (v : Mailbox) : (c.setMbox k v).mstat = c.mstat := rfl
@[simp] theorem Core.setMbox_mup (c : Core) (k : Nat) (v : Mailbox) : (c.setMbox k v).mup = c.mup := rfl
@[simp] theorem Core.setMbox_mupIssued (c : Core) (k : Nat) (v : Mailbox) : (c.setMbox k v).mupIssued = c.mupIssued := rfl
@[simp] theorem Core.setMbox_rows (c : Core) (k : Nat) (v : Mailbox) : (c.setMbox k v).rows = c.rows := rfl
@[simp] theorem Core.setMbox_wts (c : Core) (k : Nat) (v : Mailbox) : (c.setMbox k v).wts = c.wts := rfl
@[simp] theorem Core.setMbox_claims (c : Core) (k : Nat) (v : Mailbox) : (c.setMbox k v).claims = c.claims := rfl
@[simp] theorem Core.setMbox_scr (c : Core) (k : Nat) (v : Mailbox) : (c.setMbox k v).scr = c.scr := rfl
@[simp] theorem Core.setMbox_scratch (c : Core) (k : Nat) (v : Mailbox) : (c.setMbox k v).scratch = c.scratch := rfl
@[simp] theorem Core.setMbox_stack (c : Core) (k : Nat) (v : Mailbox) : (c.setMbox k v).stack = c.stack := rfl
@[simp] theorem Core.setMbox_l1 (c : Core) (k : Nat) (v : Mailbox) : (c.setMbox k v).l1 = c.l1 := rfl
@[simp] theorem Core.setMbox_fifo (c : Core) (k : Nat) (v : Mailbox) : (c.setMbox k v).fifo = c.fifo := rfl
@[simp] theorem Core.setMbox_tlb (c : Core) (k : Nat) (v : Mailbox) : (c.setMbox k v).tlb = c.tlb := rfl
@[simp] theorem Core.setMbox_gang (c : Core) (k : Nat) (v : Mailbox) : (c.setMbox k v).gang = c.gang := rfl
@[simp] theorem Core.setMbox_phase (c : Core) (k : Nat) (v : Mailbox) : (c.setMbox k v).phase = c.phase := rfl
@[simp] theorem Core.setMbox_fixes (c : Core) (k : Nat) (v : Mailbox) : (c.setMbox k v).fixes = c.fixes := rfl
@[simp] theorem Core.setMbox_trace (c : Core) (k : Nat) (v : Mailbox) : (c.setMbox k v).trace = c.trace := rfl
@[simp] theorem Core.setMbox_missed (c : Core) (k : Nat) (v : Mailbox) : (c.setMbox k v).missed = c.missed := rfl
@[simp] theorem Core.setMbox_rplPos (c : Core) (k : Nat) (v : Mailbox) : (c.setMbox k v).rplPos = c.rplPos := rfl
@[simp] theorem Core.setMbox_trStop (c : Core) (k : Nat) (v : Mailbox) : (c.setMbox k v).trStop = c.trStop := rfl
@[simp] theorem Core.setMbox_trFull (c : Core) (k : Nat) (v : Mailbox) : (c.setMbox k v).trFull = c.trFull := rfl
@[simp] theorem Core.setMbox_trOff (c : Core) (k : Nat) (v : Mailbox) : (c.setMbox k v).trOff = c.trOff := rfl
@[simp] theorem Core.setMbox_moving (c : Core) (k : Nat) (v : Mailbox) : (c.setMbox k v).moving = c.moving := rfl
@[simp] theorem Core.setMbox_mbox_same (c : Core) (k : Nat) (v : Mailbox) : (c.setMbox k v).mbox k = v := AMap.getD_set_same _ _ _ _
theorem Core.setMbox_mbox_other (c : Core) (k : Nat) (v : Mailbox) {j : Nat} (h : j ≠ k) : (c.setMbox k v).mbox j = c.mbox j := AMap.getD_set_other _ _ _ h

@[simp] theorem Core.setChan_ctxs (c : Core) (k : Nat) (v : Channel) : (c.setChan k v).ctxs = c.ctxs := rfl
@[simp] theorem Core.setChan_mf (c : Core) (k : Nat) (v : Channel) : (c.setChan k v).mf = c.mf := rfl
@[simp] theorem Core.setChan_qs (c : Core) (k : Nat) (v : Channel) : (c.setChan k v).qs = c.qs := rfl
@[simp] theorem Core.setChan_bars (c : Core) (k : Nat) (v : Channel) : (c.setChan k v).bars = c.bars := rfl
@[simp] theorem Core.setChan_roses (c : Core) (k : Nat) (v : Channel) : (c.setChan k v).roses = c.roses := rfl
@[simp] theorem Core.setChan_mboxes (c : Core) (k : Nat) (v : Channel) : (c.setChan k v).mboxes = c.mboxes := rfl
@[simp] theorem Core.setChan_grants (c : Core) (k : Nat) (v : Channel) : (c.setChan k v).grants = c.grants := rfl
@[simp] theorem Core.setChan_sendq (c : Core) (k : Nat) (v : Channel) : (c.setChan k v).sendq = c.sendq := rfl
@[simp] theorem Core.setChan_tpls (c : Core) (k : Nat) (v : Channel) : (c.setChan k v).tpls = c.tpls := rfl
@[simp] theorem Core.setChan_vq (c : Core) (k : Nat) (v : Channel) : (c.setChan k v).vq = c.vq := rfl
@[simp] theorem Core.setChan_vrun (c : Core) (k : Nat) (v : Channel) : (c.setChan k v).vrun = c.vrun := rfl
@[simp] theorem Core.setChan_mq (c : Core) (k : Nat) (v : Channel) : (c.setChan k v).mq = c.mq := rfl
@[simp] theorem Core.setChan_mrun (c : Core) (k : Nat) (v : Channel) : (c.setChan k v).mrun = c.mrun := rfl
@[simp] theorem Core.setChan_mstat (c : Core) (k : Nat) (v : Channel) : (c.setChan k v).mstat = c.mstat := rfl
@[simp] theorem Core.setChan_mup (c : Core) (k : Nat) (v : Channel) : (c.setChan k v).mup = c.mup := rfl
@[simp] theorem Core.setChan_mupIssued (c : Core) (k : Nat) (v : Channel) : (c.setChan k v).mupIssued = c.mupIssued := rfl
@[simp] theorem Core.setChan_rows (c : Core) (k : Nat) (v : Channel) : (c.setChan k v).rows = c.rows := rfl
@[simp] theorem Core.setChan_wts (c : Core) (k : Nat) (v : Channel) : (c.setChan k v).wts = c.wts := rfl
@[simp] theorem Core.setChan_claims (c : Core) (k : Nat) (v : Channel) : (c.setChan k v).claims = c.claims := rfl
@[simp] theorem Core.setChan_scr (c : Core) (k : Nat) (v : Channel) : (c.setChan k v).scr = c.scr := rfl
@[simp] theorem Core.setChan_scratch (c : Core) (k : Nat) (v : Channel) : (c.setChan k v).scratch = c.scratch := rfl
@[simp] theorem Core.setChan_stack (c : Core) (k : Nat) (v : Channel) : (c.setChan k v).stack = c.stack := rfl
@[simp] theorem Core.setChan_l1 (c : Core) (k : Nat) (v : Channel) : (c.setChan k v).l1 = c.l1 := rfl
@[simp] theorem Core.setChan_fifo (c : Core) (k : Nat) (v : Channel) : (c.setChan k v).fifo = c.fifo := rfl
@[simp] theorem Core.setChan_tlb (c : Core) (k : Nat) (v : Channel) : (c.setChan k v).tlb = c.tlb := rfl
@[simp] theorem Core.setChan_gang (c : Core) (k : Nat) (v : Channel) : (c.setChan k v).gang = c.gang := rfl
@[simp] theorem Core.setChan_phase (c : Core) (k : Nat) (v : Channel) : (c.setChan k v).phase = c.phase := rfl
@[simp] theorem Core.setChan_fixes (c : Core) (k : Nat) (v : Channel) : (c.setChan k v).fixes = c.fixes := rfl
@[simp] theorem Core.setChan_trace (c : Core) (k : Nat) (v : Channel) : (c.setChan k v).trace = c.trace := rfl
@[simp] theorem Core.setChan_missed (c : Core) (k : Nat) (v : Channel) : (c.setChan k v).missed = c.missed := rfl
@[simp] theorem Core.setChan_rplPos (c : Core) (k : Nat) (v : Channel) : (c.setChan k v).rplPos = c.rplPos := rfl
@[simp] theorem Core.setChan_trStop (c : Core) (k : Nat) (v : Channel) : (c.setChan k v).trStop = c.trStop := rfl
@[simp] theorem Core.setChan_trFull (c : Core) (k : Nat) (v : Channel) : (c.setChan k v).trFull = c.trFull := rfl
@[simp] theorem Core.setChan_trOff (c : Core) (k : Nat) (v : Channel) : (c.setChan k v).trOff = c.trOff := rfl
@[simp] theorem Core.setChan_moving (c : Core) (k : Nat) (v : Channel) : (c.setChan k v).moving = c.moving := rfl
@[simp] theorem Core.setChan_chan_same (c : Core) (k : Nat) (v : Channel) : (c.setChan k v).chan k = v := AMap.getD_set_same _ _ _ _
theorem Core.setChan_chan_other (c : Core) (k : Nat) (v : Channel) {j : Nat} (h : j ≠ k) : (c.setChan k v).chan j = c.chan j := AMap.getD_set_other _ _ _ h

@[simp] theorem Core.setFix_ctxs (c : Core) (k : Nat) (v : FixObj) : (c.setFix k v).ctxs = c.ctxs := rfl
@[simp] theorem Core.setFix_mf (c : Core) (k : Nat) (v : FixObj) : (c.setFix k v).mf = c.mf := rfl
@[simp] theorem Core.setFix_qs (c : Core) (k : Nat) (v : FixObj) : (c.setFix k v).qs = c.qs := rfl
@[simp] theorem Core.setFix_bars (c : Core) (k : Nat) (v : FixObj) : (c.setFix k v).bars = c.bars := rfl
@[simp] theorem Core.setFix_roses (c : Core) (k : Nat) (v : FixObj) : (c.setFix k v).roses = c.roses := rfl
@[simp] theorem Core.setFix_mboxes (c : Core) (k : Nat) (v : FixObj) : (c.setFix k v).mboxes = c.mboxes := rfl
@[simp] theorem Core.setFix_grants (c : Core) (k : Nat) (v : FixObj) : (c.setFix k v).grants = c.grants := rfl
@[simp] theorem Core.setFix_sendq (c : Core) (k : Nat) (v : FixObj) : (c.setFix k v).sendq = c.sendq := rfl
@[simp] theorem Core.setFix_tpls (c : Core) (k : Nat) (v : FixObj) : (c.setFix k v).tpls = c.tpls := rfl
@[simp] theorem Core.setFix_chans (c : Core) (k : Nat) (v : FixObj) : (c.setFix k v).chans = c.chans := rfl
@[simp] theorem Core.setFix_vq (c : Core) (k : Nat) (v : FixObj) : (c.setFix k v).vq = c.vq := rfl
@[simp] theorem Core.setFix_vrun (c : Core) (k : Nat) (v : FixObj) : (c.setFix k v).vrun = c.vrun := rfl
@[simp] theorem Core.setFix_mq (c : Core) (k : Nat) (v : FixObj) : (c.setFix k v).mq = c.mq := rfl
@[simp] theorem Core.setFix_mrun (c : Core) (k : Nat) (v : FixObj) : (c.setFix k v).mrun = c.mrun := rfl
@[simp] theorem Core.setFix_mstat (c : Core) (k : Nat) (v : FixObj) : (c.setFix k v).mstat = c.mstat := rfl
@[simp] theorem Core.setFix_mup (c : Core) (k : Nat) (v : FixObj) : (c.setFix k v).mup = c.mup := rfl
@[simp] theorem Core.setFix_mupIssued (c : Core) (k : Nat) (v : FixObj) : (c.setFix k v).mupIssued = c.mupIssued := rfl
@[simp] theorem Core.setFix_rows (c : Core) (k : Nat) (v : FixObj) : (c.setFix k v).rows = c.rows := rfl
@[simp] theorem Core.setFix_wts (c : Core) (k : Nat) (v : FixObj) : (c.setFix k v).wts = c.wts := rfl
@[simp] theorem Core.setFix_claims (c : Core) (k : Nat) (v : FixObj) : (c.setFix k v).claims = c.claims := rfl
@[simp] theorem Core.setFix_scr (c : Core) (k : Nat) (v : FixObj) : (c.setFix k v).scr = c.scr := rfl
@[simp] theorem Core.setFix_scratch (c : Core) (k : Nat) (v : FixObj) : (c.setFix k v).scratch = c.scratch := rfl
@[simp] theorem Core.setFix_stack (c : Core) (k : Nat) (v : FixObj) : (c.setFix k v).stack = c.stack := rfl
@[simp] theorem Core.setFix_l1 (c : Core) (k : Nat) (v : FixObj) : (c.setFix k v).l1 = c.l1 := rfl
@[simp] theorem Core.setFix_fifo (c : Core) (k : Nat) (v : FixObj) : (c.setFix k v).fifo = c.fifo := rfl
@[simp] theorem Core.setFix_tlb (c : Core) (k : Nat) (v : FixObj) : (c.setFix k v).tlb = c.tlb := rfl
@[simp] theorem Core.setFix_gang (c : Core) (k : Nat) (v : FixObj) : (c.setFix k v).gang = c.gang := rfl
@[simp] theorem Core.setFix_phase (c : Core) (k : Nat) (v : FixObj) : (c.setFix k v).phase = c.phase := rfl
@[simp] theorem Core.setFix_trace (c : Core) (k : Nat) (v : FixObj) : (c.setFix k v).trace = c.trace := rfl
@[simp] theorem Core.setFix_missed (c : Core) (k : Nat) (v : FixObj) : (c.setFix k v).missed = c.missed := rfl
@[simp] theorem Core.setFix_rplPos (c : Core) (k : Nat) (v : FixObj) : (c.setFix k v).rplPos = c.rplPos := rfl
@[simp] theorem Core.setFix_trStop (c : Core) (k : Nat) (v : FixObj) : (c.setFix k v).trStop = c.trStop := rfl
@[simp] theorem Core.setFix_trFull (c : Core) (k : Nat) (v : FixObj) : (c.setFix k v).trFull = c.trFull := rfl
@[simp] theorem Core.setFix_trOff (c : Core) (k : Nat) (v : FixObj) : (c.setFix k v).trOff = c.trOff := rfl
@[simp] theorem Core.setFix_moving (c : Core) (k : Nat) (v : FixObj) : (c.setFix k v).moving = c.moving := rfl
@[simp] theorem Core.setFix_fixObj_same (c : Core) (k : Nat) (v : FixObj) : (c.setFix k v).fixObj k = v := AMap.getD_set_same _ _ _ _
theorem Core.setFix_fixObj_other (c : Core) (k : Nat) (v : FixObj) {j : Nat} (h : j ≠ k) : (c.setFix k v).fixObj j = c.fixObj j := AMap.getD_set_other _ _ _ h

@[simp] theorem Core.setCtx_mf (c : Core) (k : Nat) (v : Ctx) : (c.setCtx k v).mf = c.mf := by unfold Core.setCtx; split <;> rfl
@[simp] theorem Core.setCtx_qs (c : Core) (k : Nat) (v : Ctx) : (c.setCtx k v).qs = c.qs := by unfold Core.setCtx; split <;> rfl
@[simp] theorem Core.setCtx_bars (c : Core) (k : Nat) (v : Ctx) : (c.setCtx k v).bars = c.bars := by unfold Core.setCtx; split <;> rfl
@[simp] theorem Core.setCtx_roses (c : Core) (k : Nat) (v : Ctx) : (c.setCtx k v).roses = c.roses := by unfold Core.setCtx; split <;> rfl
@[simp] theorem Core.setCtx_mboxes (c : Core) (k : Nat) (v : Ctx) : (c.setCtx k v).mboxes = c.mboxes := by unfold Core.setCtx; split <;> rfl
@[simp] theorem Core.setCtx_grants (c : Core) (k : Nat) (v : Ctx) : (c.setCtx k v).grants = c.grants := by unfold Core.setCtx; split <;> rfl
@[simp] theorem Core.setCtx_sendq (c : Core) (k : Nat) (v : Ctx) : (c.setCtx k v).sendq = c.sendq := by unfold Core.setCtx; split <;> rfl
@[simp] theorem Core.setCtx_tpls (c : Core) (k : Nat) (v : Ctx) : (c.setCtx k v).tpls = c.tpls := by unfold Core.setCtx; split <;> rfl
@[simp] theorem Core.setCtx_chans (c : Core) (k : Nat) (v : Ctx) : (c.setCtx k v).chans = c.chans := by unfold Core.setCtx; split <;> rfl
@[simp] theorem Core.setCtx_vq (c : Core) (k : Nat) (v : Ctx) : (c.setCtx k v).vq = c.vq := by unfold Core.setCtx; split <;> rfl
@[simp] theorem Core.setCtx_vrun (c : Core) (k : Nat) (v : Ctx) : (c.setCtx k v).vrun = c.vrun := by unfold Core.setCtx; split <;> rfl
@[simp] theorem Core.setCtx_mq (c : Core) (k : Nat) (v : Ctx) : (c.setCtx k v).mq = c.mq := by unfold Core.setCtx; split <;> rfl
@[simp] theorem Core.setCtx_mrun (c : Core) (k : Nat) (v : Ctx) : (c.setCtx k v).mrun = c.mrun := by unfold Core.setCtx; split <;> rfl
@[simp] theorem Core.setCtx_mstat (c : Core) (k : Nat) (v : Ctx) : (c.setCtx k v).mstat = c.mstat := by unfold Core.setCtx; split <;> rfl
@[simp] theorem Core.setCtx_mup (c : Core) (k : Nat) (v : Ctx) : (c.setCtx k v).mup = c.mup := by unfold Core.setCtx; split <;> rfl
@[simp] theorem Core.setCtx_mupIssued (c : Core) (k : Nat) (v : Ctx) : (c.setCtx k v).mupIssued = c.mupIssued := by unfold Core.setCtx; split <;> rfl
@[simp] theorem Core.setCtx_rows (c : Core) (k : Nat) (v : Ctx) : (c.setCtx k v).rows = c.rows := by unfold Core.setCtx; split <;> rfl
@[simp] theorem Core.setCtx_wts (c : Core) (k : Nat) (v : Ctx) : (c.setCtx k v).wts = c.wts := by unfold Core.setCtx; split <;> rfl
@[simp] theorem Core.setCtx_claims (c : Core) (k : Nat) (v : Ctx) : (c.setCtx k v).claims = c.claims := by unfold Core.setCtx; split <;> rfl
@[simp] theorem Core.setCtx_scr (c : Core) (k : Nat) (v : Ctx) : (c.setCtx k v).scr = c.scr := by unfold Core.setCtx; split <;> rfl
@[simp] theorem Core.setCtx_scratch (c : Core) (k : Nat) (v : Ctx) : (c.setCtx k v).scratch = c.scratch := by unfold Core.setCtx; split <;> rfl
@[simp] theorem Core.setCtx_stack (c : Core) (k : Nat) (v : Ctx) : (c.setCtx k v).stack = c.stack := by unfold Core.setCtx; split <;> rfl
@[simp] theorem Core.setCtx_l1 (c : Core) (k : Nat) (v : Ctx) : (c.setCtx k v).l1 = c.l1 := by unfold Core.setCtx; split <;> rfl
@[simp] theorem Core.setCtx_fifo (c : Core) (k : Nat) (v : Ctx) : (c.setCtx k v).fifo = c.fifo := by unfold Core.setCtx; split <;> rfl
@[simp] theorem Core.setCtx_tlb (c : Core) (k : Nat) (v : Ctx) : (c.setCtx k v).tlb = c.tlb := by unfold Core.setCtx; split <;> rfl
@[simp] theorem Core.setCtx_gang (c : Core) (k : Nat) (v : Ctx) : (c.setCtx k v).gang = c.gang := by unfold Core.setCtx; split <;> rfl
@[simp] theorem Core.setCtx_phase (c : Core) (k : Nat) (v : Ctx) : (c.setCtx k v).phase = c.phase := by unfold Core.setCtx; split <;> rfl
@[simp] theorem Core.setCtx_fixes (c : Core) (k : Nat) (v : Ctx) : (c.setCtx k v).fixes = c.fixes := by unfold Core.setCtx; split <;> rfl
@[simp] theorem Core.setCtx_trace (c : Core) (k : Nat) (v : Ctx) : (c.setCtx k v).trace = c.trace := by unfold Core.setCtx; split <;> rfl
@[simp] theorem Core.setCtx_missed (c : Core) (k : Nat) (v : Ctx) : (c.setCtx k v).missed = c.missed := by unfold Core.setCtx; split <;> rfl
@[simp] theorem Core.setCtx_rplPos (c : Core) (k : Nat) (v : Ctx) : (c.setCtx k v).rplPos = c.rplPos := by unfold Core.setCtx; split <;> rfl
@[simp] theorem Core.setCtx_trStop (c : Core) (k : Nat) (v : Ctx) : (c.setCtx k v).trStop = c.trStop := by unfold Core.setCtx; split <;> rfl
@[simp] theorem Core.setCtx_trFull (c : Core) (k : Nat) (v : Ctx) : (c.setCtx k v).trFull = c.trFull := by unfold Core.setCtx; split <;> rfl
@[simp] theorem Core.setCtx_trOff (c : Core) (k : Nat) (v : Ctx) : (c.setCtx k v).trOff = c.trOff := by unfold Core.setCtx; split <;> rfl
@[simp] theorem Core.setCtx_moving (c : Core) (k : Nat) (v : Ctx) : (c.setCtx k v).moving = c.moving := by unfold Core.setCtx; split <;> rfl
@[simp] theorem Core.setQ_ctxs (c : Core) (k : Nat) (v : QReg) : (c.setQ k v).ctxs = c.ctxs := by unfold Core.setQ; split <;> rfl
@[simp] theorem Core.setQ_mf (c : Core) (k : Nat) (v : QReg) : (c.setQ k v).mf = c.mf := by unfold Core.setQ; split <;> rfl
@[simp] theorem Core.setQ_bars (c : Core) (k : Nat) (v : QReg) : (c.setQ k v).bars = c.bars := by unfold Core.setQ; split <;> rfl
@[simp] theorem Core.setQ_roses (c : Core) (k : Nat) (v : QReg) : (c.setQ k v).roses = c.roses := by unfold Core.setQ; split <;> rfl
@[simp] theorem Core.setQ_mboxes (c : Core) (k : Nat) (v : QReg) : (c.setQ k v).mboxes = c.mboxes := by unfold Core.setQ; split <;> rfl
@[simp] theorem Core.setQ_grants (c : Core) (k : Nat) (v : QReg) : (c.setQ k v).grants = c.grants := by unfold Core.setQ; split <;> rfl
@[simp] theorem Core.setQ_sendq (c : Core) (k : Nat) (v : QReg) : (c.setQ k v).sendq = c.sendq := by unfold Core.setQ; split <;> rfl
@[simp] theorem Core.setQ_tpls (c : Core) (k : Nat) (v : QReg) : (c.setQ k v).tpls = c.tpls := by unfold Core.setQ; split <;> rfl
@[simp] theorem Core.setQ_chans (c : Core) (k : Nat) (v : QReg) : (c.setQ k v).chans = c.chans := by unfold Core.setQ; split <;> rfl
@[simp] theorem Core.setQ_vq (c : Core) (k : Nat) (v : QReg) : (c.setQ k v).vq = c.vq := by unfold Core.setQ; split <;> rfl
@[simp] theorem Core.setQ_vrun (c : Core) (k : Nat) (v : QReg) : (c.setQ k v).vrun = c.vrun := by unfold Core.setQ; split <;> rfl
@[simp] theorem Core.setQ_mq (c : Core) (k : Nat) (v : QReg) : (c.setQ k v).mq = c.mq := by unfold Core.setQ; split <;> rfl
@[simp] theorem Core.setQ_mrun (c : Core) (k : Nat) (v : QReg) : (c.setQ k v).mrun = c.mrun := by unfold Core.setQ; split <;> rfl
@[simp] theorem Core.setQ_mstat (c : Core) (k : Nat) (v : QReg) : (c.setQ k v).mstat = c.mstat := by unfold Core.setQ; split <;> rfl
@[simp] theorem Core.setQ_mup (c : Core) (k : Nat) (v : QReg) : (c.setQ k v).mup = c.mup := by unfold Core.setQ; split <;> rfl
@[simp] theorem Core.setQ_mupIssued (c : Core) (k : Nat) (v : QReg) : (c.setQ k v).mupIssued = c.mupIssued := by unfold Core.setQ; split <;> rfl
@[simp] theorem Core.setQ_rows (c : Core) (k : Nat) (v : QReg) : (c.setQ k v).rows = c.rows := by unfold Core.setQ; split <;> rfl
@[simp] theorem Core.setQ_wts (c : Core) (k : Nat) (v : QReg) : (c.setQ k v).wts = c.wts := by unfold Core.setQ; split <;> rfl
@[simp] theorem Core.setQ_claims (c : Core) (k : Nat) (v : QReg) : (c.setQ k v).claims = c.claims := by unfold Core.setQ; split <;> rfl
@[simp] theorem Core.setQ_scr (c : Core) (k : Nat) (v : QReg) : (c.setQ k v).scr = c.scr := by unfold Core.setQ; split <;> rfl
@[simp] theorem Core.setQ_scratch (c : Core) (k : Nat) (v : QReg) : (c.setQ k v).scratch = c.scratch := by unfold Core.setQ; split <;> rfl
@[simp] theorem Core.setQ_stack (c : Core) (k : Nat) (v : QReg) : (c.setQ k v).stack = c.stack := by unfold Core.setQ; split <;> rfl
@[simp] theorem Core.setQ_l1 (c : Core) (k : Nat) (v : QReg) : (c.setQ k v).l1 = c.l1 := by unfold Core.setQ; split <;> rfl
@[simp] theorem Core.setQ_fifo (c : Core) (k : Nat) (v : QReg) : (c.setQ k v).fifo = c.fifo := by unfold Core.setQ; split <;> rfl
@[simp] theorem Core.setQ_tlb (c : Core) (k : Nat) (v : QReg) : (c.setQ k v).tlb = c.tlb := by unfold Core.setQ; split <;> rfl
@[simp] theorem Core.setQ_gang (c : Core) (k : Nat) (v : QReg) : (c.setQ k v).gang = c.gang := by unfold Core.setQ; split <;> rfl
@[simp] theorem Core.setQ_phase (c : Core) (k : Nat) (v : QReg) : (c.setQ k v).phase = c.phase := by unfold Core.setQ; split <;> rfl
@[simp] theorem Core.setQ_fixes (c : Core) (k : Nat) (v : QReg) : (c.setQ k v).fixes = c.fixes := by unfold Core.setQ; split <;> rfl
@[simp] theorem Core.setQ_trace (c : Core) (k : Nat) (v : QReg) : (c.setQ k v).trace = c.trace := by unfold Core.setQ; split <;> rfl
@[simp] theorem Core.setQ_missed (c : Core) (k : Nat) (v : QReg) : (c.setQ k v).missed = c.missed := by unfold Core.setQ; split <;> rfl
@[simp] theorem Core.setQ_rplPos (c : Core) (k : Nat) (v : QReg) : (c.setQ k v).rplPos = c.rplPos := by unfold Core.setQ; split <;> rfl
@[simp] theorem Core.setQ_trStop (c : Core) (k : Nat) (v : QReg) : (c.setQ k v).trStop = c.trStop := by unfold Core.setQ; split <;> rfl
@[simp] theorem Core.setQ_trFull (c : Core) (k : Nat) (v : QReg) : (c.setQ k v).trFull = c.trFull := by unfold Core.setQ; split <;> rfl
@[simp] theorem Core.setQ_trOff (c : Core) (k : Nat) (v : QReg) : (c.setQ k v).trOff = c.trOff := by unfold Core.setQ; split <;> rfl
@[simp] theorem Core.setQ_moving (c : Core) (k : Nat) (v : QReg) : (c.setQ k v).moving = c.moving := by unfold Core.setQ; split <;> rfl

@[simp] theorem Core.setCtx_ctx_same (c : Core) {x : Nat} (k : Ctx) (h : x < 11) : (c.setCtx x k).ctx x = k := by
  simp [Core.setCtx, Core.ctx, h]

theorem Core.setCtx_ctx_other (c : Core) {x y : Nat} (k : Ctx) (h : y ≠ x) : (c.setCtx x k).ctx y = c.ctx y := by
  unfold Core.setCtx Core.ctx
  by_cases hx : x < 11
  · rw [dif_pos hx]
    by_cases hy : y < 11
    · rw [dif_pos hy, dif_pos hy]
      exact Vector.getElem_set_ne (by assumption) _ (Ne.symm h)
    · rw [dif_neg hy, dif_neg hy]
  · rw [dif_neg hx]

@[simp] theorem Core.setQ_q_same (c : Core) {k : Nat} (v : QReg) (h : k < 8) : (c.setQ k v).q k = v := by
  simp [Core.setQ, Core.q, h]

theorem Core.setQ_q_other (c : Core) {k j : Nat} (v : QReg) (h : j ≠ k) : (c.setQ k v).q j = c.q j := by
  unfold Core.setQ Core.q
  by_cases hk : k < 8
  · rw [dif_pos hk]
    by_cases hj : j < 8
    · rw [dif_pos hj, dif_pos hj]
      exact Vector.getElem_set_ne (by assumption) _ (Ne.symm h)
    · rw [dif_neg hj, dif_neg hj]
  · rw [dif_neg hk]

@[simp] theorem Core.setCtx_q (c : Core) (x : Nat) (k : Ctx) (j : Nat) : (c.setCtx x k).q j = c.q j := by simp [Core.q]
@[simp] theorem Core.setQ_ctx (c : Core) (k : Nat) (v : QReg) (x : Nat) : (c.setQ k v).ctx x = c.ctx x := by simp [Core.ctx]

/-! ### A context of the state -/

@[simp] theorem State.setCtx_octets (s : State) (n x : Nat) (k : Ctx) : (s.setCtx n x k).octets = s.octets := rfl
@[simp] theorem State.setMy_octets (s : State) (k : Ctx) : (s.setMy k).octets = s.octets := rfl
@[simp] theorem State.setMe_octets (s : State) (c : Core) : (s.setMe c).octets = s.octets := rfl
@[simp] theorem State.setCtx_dies (s : State) (n x : Nat) (k : Ctx) : (s.setCtx n x k).dies = s.dies := rfl
@[simp] theorem State.setMy_dies (s : State) (k : Ctx) : (s.setMy k).dies = s.dies := rfl
@[simp] theorem State.setMe_dies (s : State) (c : Core) : (s.setMe c).dies = s.dies := rfl
@[simp] theorem State.setCtx_parts (s : State) (n x : Nat) (k : Ctx) : (s.setCtx n x k).parts = s.parts := rfl
@[simp] theorem State.setMy_parts (s : State) (k : Ctx) : (s.setMy k).parts = s.parts := rfl
@[simp] theorem State.setMe_parts (s : State) (c : Core) : (s.setMe c).parts = s.parts := rfl
@[simp] theorem State.setCtx_ports (s : State) (n x : Nat) (k : Ctx) : (s.setCtx n x k).ports = s.ports := rfl
@[simp] theorem State.setMy_ports (s : State) (k : Ctx) : (s.setMy k).ports = s.ports := rfl
@[simp] theorem State.setMe_ports (s : State) (c : Core) : (s.setMe c).ports = s.ports := rfl
@[simp] theorem State.setCtx_hubs (s : State) (n x : Nat) (k : Ctx) : (s.setCtx n x k).hubs = s.hubs := rfl
@[simp] theorem State.setMy_hubs (s : State) (k : Ctx) : (s.setMy k).hubs = s.hubs := rfl
@[simp] theorem State.setMe_hubs (s : State) (c : Core) : (s.setMe c).hubs = s.hubs := rfl
@[simp] theorem State.setCtx_dev (s : State) (n x : Nat) (k : Ctx) : (s.setCtx n x k).dev = s.dev := rfl
@[simp] theorem State.setMy_dev (s : State) (k : Ctx) : (s.setMy k).dev = s.dev := rfl
@[simp] theorem State.setMe_dev (s : State) (c : Core) : (s.setMe c).dev = s.dev := rfl
@[simp] theorem State.setCtx_regs (s : State) (n x : Nat) (k : Ctx) : (s.setCtx n x k).regs = s.regs := rfl
@[simp] theorem State.setMy_regs (s : State) (k : Ctx) : (s.setMy k).regs = s.regs := rfl
@[simp] theorem State.setMe_regs (s : State) (c : Core) : (s.setMe c).regs = s.regs := rfl
@[simp] theorem State.setCtx_hbm (s : State) (n x : Nat) (k : Ctx) : (s.setCtx n x k).hbm = s.hbm := rfl
@[simp] theorem State.setMy_hbm (s : State) (k : Ctx) : (s.setMy k).hbm = s.hbm := rfl
@[simp] theorem State.setMe_hbm (s : State) (c : Core) : (s.setMe c).hbm = s.hbm := rfl
@[simp] theorem State.setCtx_keyGen (s : State) (n x : Nat) (k : Ctx) : (s.setCtx n x k).keyGen = s.keyGen := rfl
@[simp] theorem State.setMy_keyGen (s : State) (k : Ctx) : (s.setMy k).keyGen = s.keyGen := rfl
@[simp] theorem State.setMe_keyGen (s : State) (c : Core) : (s.setMe c).keyGen = s.keyGen := rfl
@[simp] theorem State.setCtx_keys (s : State) (n x : Nat) (k : Ctx) : (s.setCtx n x k).keys = s.keys := rfl
@[simp] theorem State.setMy_keys (s : State) (k : Ctx) : (s.setMy k).keys = s.keys := rfl
@[simp] theorem State.setMe_keys (s : State) (c : Core) : (s.setMe c).keys = s.keys := rfl
@[simp] theorem State.setCtx_lineKey (s : State) (n x : Nat) (k : Ctx) : (s.setCtx n x k).lineKey = s.lineKey := rfl
@[simp] theorem State.setMy_lineKey (s : State) (k : Ctx) : (s.setMy k).lineKey = s.lineKey := rfl
@[simp] theorem State.setMe_lineKey (s : State) (c : Core) : (s.setMe c).lineKey = s.lineKey := rfl
@[simp] theorem State.setCtx_fills (s : State) (n x : Nat) (k : Ctx) : (s.setCtx n x k).fills = s.fills := rfl
@[simp] theorem State.setMy_fills (s : State) (k : Ctx) : (s.setMy k).fills = s.fills := rfl
@[simp] theorem State.setMe_fills (s : State) (c : Core) : (s.setMe c).fills = s.fills := rfl
@[simp] theorem State.setCtx_ecc (s : State) (n x : Nat) (k : Ctx) : (s.setCtx n x k).ecc = s.ecc := rfl
@[simp] theorem State.setMy_ecc (s : State) (k : Ctx) : (s.setMy k).ecc = s.ecc := rfl
@[simp] theorem State.setMe_ecc (s : State) (c : Core) : (s.setMe c).ecc = s.ecc := rfl
@[simp] theorem State.setCtx_corrected (s : State) (n x : Nat) (k : Ctx) : (s.setCtx n x k).corrected = s.corrected := rfl
@[simp] theorem State.setMy_corrected (s : State) (k : Ctx) : (s.setMy k).corrected = s.corrected := rfl
@[simp] theorem State.setMe_corrected (s : State) (c : Core) : (s.setMe c).corrected = s.corrected := rfl
@[simp] theorem State.setCtx_granuleErrs (s : State) (n x : Nat) (k : Ctx) : (s.setCtx n x k).granuleErrs = s.granuleErrs := rfl
@[simp] theorem State.setMy_granuleErrs (s : State) (k : Ctx) : (s.setMy k).granuleErrs = s.granuleErrs := rfl
@[simp] theorem State.setMe_granuleErrs (s : State) (c : Core) : (s.setMe c).granuleErrs = s.granuleErrs := rfl
@[simp] theorem State.setCtx_foldStats (s : State) (n x : Nat) (k : Ctx) : (s.setCtx n x k).foldStats = s.foldStats := rfl
@[simp] theorem State.setMy_foldStats (s : State) (k : Ctx) : (s.setMy k).foldStats = s.foldStats := rfl
@[simp] theorem State.setMe_foldStats (s : State) (c : Core) : (s.setMe c).foldStats = s.foldStats := rfl
@[simp] theorem State.setCtx_hostMem (s : State) (n x : Nat) (k : Ctx) : (s.setCtx n x k).hostMem = s.hostMem := rfl
@[simp] theorem State.setMy_hostMem (s : State) (k : Ctx) : (s.setMy k).hostMem = s.hostMem := rfl
@[simp] theorem State.setMe_hostMem (s : State) (c : Core) : (s.setMe c).hostMem = s.hostMem := rfl
@[simp] theorem State.setCtx_flight (s : State) (n x : Nat) (k : Ctx) : (s.setCtx n x k).flight = s.flight := rfl
@[simp] theorem State.setMy_flight (s : State) (k : Ctx) : (s.setMy k).flight = s.flight := rfl
@[simp] theorem State.setMe_flight (s : State) (c : Core) : (s.setMe c).flight = s.flight := rfl
@[simp] theorem State.setCtx_noc (s : State) (n x : Nat) (k : Ctx) : (s.setCtx n x k).noc = s.noc := rfl
@[simp] theorem State.setMy_noc (s : State) (k : Ctx) : (s.setMy k).noc = s.noc := rfl
@[simp] theorem State.setMe_noc (s : State) (c : Core) : (s.setMe c).noc = s.noc := rfl
@[simp] theorem State.setCtx_cyc (s : State) (n x : Nat) (k : Ctx) : (s.setCtx n x k).cyc = s.cyc := rfl
@[simp] theorem State.setMy_cyc (s : State) (k : Ctx) : (s.setMy k).cyc = s.cyc := rfl
@[simp] theorem State.setMe_cyc (s : State) (c : Core) : (s.setMe c).cyc = s.cyc := rfl
@[simp] theorem State.setCtx_nextId (s : State) (n x : Nat) (k : Ctx) : (s.setCtx n x k).nextId = s.nextId := rfl
@[simp] theorem State.setMy_nextId (s : State) (k : Ctx) : (s.setMy k).nextId = s.nextId := rfl
@[simp] theorem State.setMe_nextId (s : State) (c : Core) : (s.setMe c).nextId = s.nextId := rfl
@[simp] theorem State.setCtx_fresh (s : State) (n x : Nat) (k : Ctx) : (s.setCtx n x k).fresh = s.fresh := rfl
@[simp] theorem State.setMy_fresh (s : State) (k : Ctx) : (s.setMy k).fresh = s.fresh := rfl
@[simp] theorem State.setMe_fresh (s : State) (c : Core) : (s.setMe c).fresh = s.fresh := rfl
@[simp] theorem State.setCtx_cur (s : State) (n x : Nat) (k : Ctx) : (s.setCtx n x k).cur = s.cur := rfl
@[simp] theorem State.setMy_cur (s : State) (k : Ctx) : (s.setMy k).cur = s.cur := rfl
@[simp] theorem State.setMe_cur (s : State) (c : Core) : (s.setMe c).cur = s.cur := rfl
@[simp] theorem State.setCtx_agenda (s : State) (n x : Nat) (k : Ctx) : (s.setCtx n x k).agenda = s.agenda := rfl
@[simp] theorem State.setMy_agenda (s : State) (k : Ctx) : (s.setMy k).agenda = s.agenda := rfl
@[simp] theorem State.setMe_agenda (s : State) (c : Core) : (s.setMe c).agenda = s.agenda := rfl

@[simp] theorem State.setCtx_ctx_same (s : State) (n : Nat) {x : Nat} (k : Ctx) (h : x < 11) : (s.setCtx n x k).ctx n x = k := by
  simp [State.setCtx, State.ctx, h]

theorem State.setCtx_ctx_core (s : State) {n m : Nat} (x y : Nat) (k : Ctx) (h : m ≠ n) : (s.setCtx n x k).ctx m y = s.ctx m y := by
  simp [State.setCtx, State.ctx, State.setCore_core_other _ _ _ h]

theorem State.setCtx_ctx_other (s : State) (n : Nat) {x y : Nat} (k : Ctx) (h : y ≠ x) : (s.setCtx n x k).ctx n y = s.ctx n y := by
  simp [State.setCtx, State.ctx, Core.setCtx_ctx_other _ _ h]

@[simp] theorem State.setMe_me (s : State) (c : Core) : (s.setMe c).me = c := by simp [State.setMe, State.me]

@[simp] theorem State.setMy_my (s : State) (k : Ctx) (h : s.cur.2 < 11) : (s.setMy k).my = k := by
  simp only [State.setMy, State.my, State.setCtx_cur]
  exact State.setCtx_ctx_same s _ k h

end Sys2Proof.Machine
end

