-- ==== Sys2Proof/Laws/Issue.lean ====
section
/-! SUPPORT. The laws of issuing: how computations compose, and, for the shared frame of all instructions, one lemma for each way in
which an instruction can end (R97, R98, R112, R113, R204, R210, R264). -/

namespace Sys2Proof.Machine

/-! ### Computations -/

theorem Sem.bind_ok {α β : Type} {f : Sem α} {g : α → Sem β} {s t : State} {a : α} (h : f s = .ok (a, t)) :
    (f >>= g) s = g a t := by
  change (f s >>= fun p => g p.1 p.2) = _
  rw [h]; rfl

theorem Sem.bind_error {α β : Type} {f : Sem α} {g : α → Sem β} {s : State} {e : Stop} (h : f s = .error e) :
    (f >>= g) s = .error e := by
  change (f s >>= fun p => g p.1 p.2) = _
  rw [h]; rfl

/-- A composed computation that completes: both parts complete. -/
theorem Sem.bind_inv {α β : Type} {f : Sem α} {g : α → Sem β} {s : State} {r : β × State} (h : (f >>= g) s = .ok r) :
    ∃ a t, f s = .ok (a, t) ∧ g a t = .ok r := by
  change (f s >>= fun p => g p.1 p.2) = _ at h
  cases hf : f s with
  | error e => rw [hf] at h; cases h
  | ok p => rw [hf] at h; exact ⟨p.1, p.2, rfl, h⟩

/-- A composed computation that stops: the first part stops so, or it completes and the second one does. -/
theorem Sem.bind_stop {α β : Type} {f : Sem α} {g : α → Sem β} {s : State} {e : Stop} (h : (f >>= g) s = .error e) :
    f s = .error e ∨ ∃ a t, f s = .ok (a, t) ∧ g a t = .error e := by
  change (f s >>= fun p => g p.1 p.2) = _ at h
  cases hf : f s with
  | error e' => rw [hf] at h; cases h; exact .inl rfl
  | ok p => rw [hf] at h; exact .inr ⟨p.1, p.2, rfl, h⟩

@[simp] theorem Sem.pure_run {α : Type} (a : α) (s : State) : (pure a : Sem α) s = .ok (a, s) := rfl
@[simp] theorem getS_run (s : State) : getS s = .ok (s, s) := rfl
@[simp] theorem putS_run (s t : State) : putS t s = .ok ((), t) := rfl
@[simp] theorem modS_run (f : State → State) (s : State) : modS f s = .ok ((), f s) := rfl
@[simp] theorem getMy_run (s : State) : getMy s = .ok (s.my, s) := rfl
@[simp] theorem modMy_run (f : Ctx → Ctx) (s : State) : modMy f s = .ok ((), s.setMy (f s.my)) := rfl
@[simp] theorem getMe_run (s : State) : getMe s = .ok (s.me, s) := rfl
@[simp] theorem modMe_run (f : Core → Core) (s : State) : modMe f s = .ok ((), s.setMe (f s.me)) := rfl
@[simp] theorem freshId_run (s : State) : freshId s = .ok (s.nextId, { s with nextId := s.nextId + 1 }) := rfl
@[simp] theorem raise_run {α : Type} (c : BitVec 8) (f : Word) (s : State) : (raise c f : Sem α) s = .error (.raise c f) := rfl
@[simp] theorem notYet_run {α : Type} (g : State → State) (s : State) : (notYet g : Sem α) s = .error (.wait g) := rfl
@[simp] theorem check_true (c : BitVec 8) (f : Word) (s : State) : check true c f s = .ok ((), s) := rfl
@[simp] theorem check_false (c : BitVec 8) (f : Word) (s : State) : check false c f s = .error (.raise c f) := rfl

@[simp] theorem blocked_run {α : Type} (g : State → State) (s : State) : (blocked g : Sem α) s = .error (.block g) := rfl

theorem check_ok {b : Bool} {c : BitVec 8} {f : Word} {s : State} {r : Unit × State} (h : check b c f s = .ok r) :
    b = true ∧ r = ((), s) := by
  cases b
  · cases h
  · cases h; exact ⟨rfl, rfl⟩

/-! ### The frame of an instruction -/

variable {i : Instr} {m : Mods} {s t : State} {body : Word → Sem Unit}

/-- A guard that does not hold: the instruction is passed over (R264). -/
theorem runInstr_guardedOff (hn : s.my.begun = false) (h : s.my.guardOn m = false) (hc : offCause i s.my = false) :
    runInstr i m s body = .next (s.started m).endIssue := by
  simp [runInstr, hn, h, hc, State.started]

/-- One whose cause no operand decides raises it all the same (R264). -/
theorem runInstr_offCause (hn : s.my.begun = false) (h : s.my.guardOn m = false) (hc : offCause i s.my = true) (hp : s.my.pend = []) :
    runInstr i m s body = .next (s.raiseIn s.cur.1 s.cur.2 0x03 ((i.raw m).encFaddr) s.my.pc m.len.words) := by
  simp [runInstr, hn, h, hc, hp]

/-- A queue where none may stand raises 0x43 (R113). -/
theorem runInstr_queueMisuse (hn : s.my.begun = false) (hg : s.my.guardOn m = true) (hq : queueMisuse i = true) (hp : s.my.pend = []) :
    runInstr i m s body = .next (s.raiseIn s.cur.1 s.cur.2 0x43 ((i.raw m).encFaddr) s.my.pc m.len.words) := by
  simp [runInstr, hn, hg, hq, hp]

/-- An operand whose value has not been produced keeps the instruction from issuing (R99). -/
theorem runInstr_operands (hn : s.my.begun = false) (hg : s.my.guardOn m = true) (hq : queueMisuse i = false)
    (ho : s.my.operandsReady i = false) : runInstr i m s body = .next (s.setMy (s.my.waiting .operands)) := by
  simp [runInstr, hn, hg, hq, ho]

/-- A queue without the entries or the room keeps it from issuing (R112). -/
theorem runInstr_queue {q : Nat} {full : Bool} (hn : s.my.begun = false) (hg : s.my.guardOn m = true) (hq : queueMisuse i = false)
    (ho : s.my.operandsReady i = true) (hc : s.me.queueCheck i = some (q, full))
    (hw : s.noSpread s.cur.1 = true ∨ s.my.pend ≠ [] ∨ s.queueWithheld s.cur.1 q full = none) :
    runInstr i m s body = .next (s.setMy (s.my.waiting (if full then .pushQ q else .popQ q))) := by
  have : (if s.noSpread s.cur.1 || s.my.pend ≠ [] then none else s.queueWithheld s.cur.1 q full) = none := by
    rcases hw with h | h | h <;> simp [h]
  simp only [runInstr, hn, hg, hq, ho, hc, Bool.not_true, Bool.false_eq_true, if_false]
  rw [this]

/-- An instruction that stops as it issues has the slot of the cycle; one that goes on after a wait took its slot before (R97). -/
theorem State.charged_issues (hn : s.my.begun = false) : s.charged = s.takeSlot s.cur.1 s.cur.2 := by simp [State.charged, hn]
theorem State.charged_goesOn (hn : s.my.begun = true) : s.charged = s := by simp [State.charged, hn]

/-- An instruction that issues is its body, from the state as the body finds it. -/
theorem runInstr_issues (h : s.Issues i m) :
    runInstr i m s body = .next (finish1 m s (body s.my.pc (s.started m)) (fun g => s.beginWait i m g)) := by
  obtain ⟨hn, hg, hq, ho, hc⟩ := h
  simp only [runInstr, hn, hg, hq, ho, hc, Bool.not_true, Bool.false_eq_true, if_false]
  rfl

/-- One that has issued before goes on with its body, once its result's queue entry is reserved. -/
theorem runInstr_goesOn {u : State} (hn : s.my.begun = true) (hr : s.reserveTail i = some u) :
    runInstr i m s body = .next (finish1 m u (body s.my.pc (u.setMy { u.my with pc := nextPc s.my.pc m })) (fun g => g u)) := by
  simp [runInstr, hn, hr]

theorem runInstr_ok (h : s.Issues i m) (hb : body s.my.pc (s.started m) = .ok ((), t)) :
    runInstr i m s body = .next t.endIssue := by rw [runInstr_issues h, hb]; rfl

/-- A cause is raised when the results of earlier instructions are in, and no effect stands (R210). -/
theorem runInstr_raise {c : BitVec 8} {f : Word} (h : s.Issues i m) (hp : s.my.pend = [])
    (hb : body s.my.pc (s.started m) = .error (.raise c f)) :
    runInstr i m s body = .next (s.raiseIn s.cur.1 s.cur.2 c f s.my.pc m.len.words) := by
  rw [runInstr_issues h, hb]; simp [finish1, hp, State.raiseIn, State.charged_issues h.1]

/-- Until then it waits. -/
theorem runInstr_raise_pending {c : BitVec 8} {f : Word} (h : s.Issues i m) (hp : s.my.pend ≠ [])
    (hb : body s.my.pc (s.started m) = .error (.raise c f)) : runInstr i m s body = .next s := by
  rw [runInstr_issues h, hb]; simp [finish1, hp]

/-- It does not issue. -/
theorem runInstr_wait {g : State → State} (h : s.Issues i m) (hb : body s.my.pc (s.started m) = .error (.wait g)) :
    runInstr i m s body = .next (g s) := by rw [runInstr_issues h, hb]; rfl

/-- It issues and is blocked (R98). -/
theorem runInstr_block {g : State → State} (h : s.Issues i m) (hb : body s.my.pc (s.started m) = .error (.block g)) :
    runInstr i m s body = .next (s.beginWait i m g) := by rw [runInstr_issues h, hb]; rfl

theorem runInstr_withheld {u : Upstream} (h : s.Issues i m) (hp : s.my.pend = [])
    (hb : body s.my.pc (s.started m) = .error (.withheld u)) :
    runInstr i m s body = .next ((s.takeSlot s.cur.1 s.cur.2).haltWithheld s.cur.1 s.cur.2 u) := by
  rw [runInstr_issues h, hb]; simp [finish1, hp, State.charged_issues h.1]

/-- Everything the body's end can do to the state it leaves. -/
theorem finish1_cases (m : Mods) (s : State) (r : Except Stop (Unit × State)) (wait : (State → State) → State) :
    (∃ u, r = .ok ((), u) ∧ finish1 m s r wait = u.endIssue) ∨ (∃ g, r = .error (.wait g) ∧ finish1 m s r wait = g s) ∨
    (∃ g, r = .error (.block g) ∧ finish1 m s r wait = wait g) ∨ finish1 m s r wait = s ∨
    (∃ c f, r = .error (.raise c f) ∧ finish1 m s r wait = s.charged.causeIn s.cur.1 s.cur.2 c f s.my.pc m.len.words) ∨
    (∃ c f g, r = .error (.raiseKeep c f g) ∧ finish1 m s r wait = (g s).charged.causeIn s.cur.1 s.cur.2 c f s.my.pc m.len.words) ∨
    ∃ u, r = .error (.withheld u) ∧ finish1 m s r wait = s.charged.haltWithheld s.cur.1 s.cur.2 u := by
  by_cases hp : s.my.pend = []
  · cases r with
    | ok p => exact .inl ⟨p.2, rfl, rfl⟩
    | error e => cases e <;> simp [finish1, hp]
  · cases r with
    | ok p => exact .inl ⟨p.2, rfl, rfl⟩
    | error e => cases e <;> simp [finish1, hp]

/-- The frame always answers a next state. -/
theorem runInstr_next (i : Instr) (m : Mods) (s : State) (body : Word → Sem Unit) : ∃ t, runInstr i m s body = .next t := by
  unfold runInstr
  dsimp only
  repeat' split
  all_goals exact ⟨_, rfl⟩

/-- An event happens, or it is not enabled and nothing changes. -/
theorem runEvent_cases (s : State) (f : State → Option State) : ∃ t, runEvent s f = .next t ∧ (f s = some t ∨ (f s = none ∧ t = s)) := by
  cases h : f s with
  | none => exact ⟨s, by simp [runEvent, h], .inr ⟨rfl, rfl⟩⟩
  | some t => exact ⟨t, by simp [runEvent, h], .inl rfl⟩

/-- A wait instruction whose object is not withheld, or while halts do not spread, waits on it with its limit. -/
theorem waitFor_waits {α : Type} (on : WaitOn) (limit : Nat) (w : Option Upstream) (s : State)
    (h : s.noSpread s.cur.1 = true ∨ w = none) : ∃ g, (waitFor on limit w : Sem α) s = .error (.block g) ∧
      ∀ v : State, g v = v.setMy { (v.my.waiting on) with wait := (v.my.waiting on).wait.map (fun w => { w with limit := limit }) } := by
  have : (if s.noSpread s.cur.1 then none else w) = none := by rcases h with h | h <;> simp [h]
  refine ⟨_, ?_, fun _ => rfl⟩
  unfold waitFor
  rw [this]

/-- A withheld object halts the context where halts spread (R204). -/
theorem waitFor_withheld {α : Type} (on : WaitOn) (limit : Nat) (u : Upstream) (s : State) (h : s.noSpread s.cur.1 = false) :
    (waitFor on limit (some u) : Sem α) s = .error (.withheld u) := by simp [waitFor, h]

end Sys2Proof.Machine
end

