-- ==== Sys2Proof/Laws/Operands.lean ====
section
/-! SUPPORT. The laws of operands, results, trap entry and return: what each shared operation can do, said once (R105, R109, R209 to
R212, R261, R288). -/

namespace Sys2Proof

theorem AMap.set_set {α : Type} (m : AMap α) (k : Nat) (v w : α) : AMap.set (AMap.set m k v) k w = AMap.set m k w := by
  induction m with
  | nil => simp [AMap.set]
  | cons p m ih =>
    obtain ⟨j, u⟩ := p
    simp only [AMap.set]
    split
    · simp [AMap.set]
    · split
      · simp [AMap.set]
      · rename_i h1 h2
        simp [AMap.set, h1, h2, ih]

namespace Machine

@[simp] theorem State.setCore_setCore (s : State) (n : Nat) (c d : Core) : (s.setCore n c).setCore n d = s.setCore n d := by
  simp [State.setCore, AMap.set_set]

@[simp] theorem State.setMe_setMe (s : State) (c d : Core) : (s.setMe c).setMe d = s.setMe d := by simp [State.setMe]

/-! ### The main file (R105) -/

@[simp] theorem Core.mfBack_mf (c : Core) (e : MfEntry) : (c.mfBack e).mf = c.mf := by unfold Core.mfBack; split <;> rfl
@[simp] theorem Core.mfBack_ctxs (c : Core) (e : MfEntry) : (c.mfBack e).ctxs = c.ctxs := by unfold Core.mfBack; split <;> rfl
@[simp] theorem Core.mfBack_qs (c : Core) (e : MfEntry) : (c.mfBack e).qs = c.qs := by unfold Core.mfBack; split <;> rfl
@[simp] theorem Core.mfBack_rows (c : Core) (e : MfEntry) : (c.mfBack e).rows = c.rows := by unfold Core.mfBack; split <;> rfl
@[simp] theorem Core.mfBack_wts (c : Core) (e : MfEntry) : (c.mfBack e).wts = c.wts := by unfold Core.mfBack; split <;> rfl

/-- Putting an entry first changes the file, and the array only by writing back the entry that gives way. -/
theorem Core.mfPut_cases (c : Core) (e : MfEntry) :
    (c.mfPut e = { c with mf := e :: mfDrop c.mf e.addr }) ∨
    (∃ v, c.mfVictim = some v ∧ c.mfPut e = { c.mfBack v with mf := e :: mfDrop (mfDrop c.mf e.addr) v.addr }) := by
  unfold Core.mfPut
  dsimp only
  split
  · exact .inl rfl
  · split
    · rename_i v hv
      exact .inr ⟨v, hv, rfl⟩
    · exact .inl rfl

@[simp] theorem Core.mfPut_ctxs (c : Core) (e : MfEntry) : (c.mfPut e).ctxs = c.ctxs := by
  rcases c.mfPut_cases e with h | ⟨v, -, h⟩ <;> simp [h]
@[simp] theorem Core.mfPut_qs (c : Core) (e : MfEntry) : (c.mfPut e).qs = c.qs := by
  rcases c.mfPut_cases e with h | ⟨v, -, h⟩ <;> simp [h]
@[simp] theorem Core.mfPut_rows (c : Core) (e : MfEntry) : (c.mfPut e).rows = c.rows := by
  rcases c.mfPut_cases e with h | ⟨v, -, h⟩ <;> simp [h]
@[simp] theorem Core.mfPut_wts (c : Core) (e : MfEntry) : (c.mfPut e).wts = c.wts := by
  rcases c.mfPut_cases e with h | ⟨v, -, h⟩ <;> simp [h]

/-- The entry stands first. -/
theorem Core.mfPut_head (c : Core) (e : MfEntry) : ∃ l, (c.mfPut e).mf = e :: l := by
  rcases c.mfPut_cases e with h | ⟨v, -, h⟩ <;> exact ⟨_, by rw [h]⟩

/-- A register word reads as it was last written. -/
@[simp] theorem Core.gWord_gWrite (c : Core) (a : Nat) (v : Word) : (c.gWrite a v).gWord a = v := by
  obtain ⟨l, h⟩ := c.mfPut_head ⟨a, v, true⟩
  simp [Core.gWord, Core.gWrite, h, mfFind]

/-- A read of a register word leaves its value. -/
@[simp] theorem Core.gWord_gTouch (c : Core) (a : Nat) : (c.gTouch a).gWord a = c.gWord a := by
  unfold Core.gTouch
  have found : ∀ (l : List MfEntry) (e : MfEntry), mfFind l a = some e → e.addr = a := by
    intro l
    induction l with
    | nil => intro e h; cases h
    | cons d l ih =>
      intro e h
      simp only [mfFind] at h
      split at h
      · cases h; assumption
      · exact ih e h
  split
  · rename_i e he
    have ha := found _ _ he
    simp [Core.gWord, mfFind, ha, he]
  · rename_i he
    obtain ⟨l, h⟩ := c.mfPut_head ⟨a, BitVec.ofNat 64 (c.scr.read a 8), false⟩
    simp [Core.gWord, h, mfFind, he]

/-! ### Sources (R261, R288) -/

section
variable (m : Mods) (t : SrcTy) (s : State)

theorem src_g (h : s.my.begun = false) (n : BitVec 5) : src (.g n) m t s =
    .ok (s.me.gWord (gAddr s.my.wsp n.toNat), s.setMe (s.me.gTouch (gAddr s.my.wsp n.toNat))) := by simp [src, h]
theorem src_o (h : s.my.begun = false) (n : BitVec 3) : src (.o n) m t s = .ok (s.my.o.get n.toFin, s) := by simp [src, h]
theorem src_lr (h : s.my.begun = false) : src .lr m t s = .ok (s.my.lr, s) := by simp [src, h]
theorem src_zr (h : s.my.begun = false) : src .zr m t s = .ok (0, s) := by simp [src, h]
theorem src_lit (h : s.my.begun = false) : src .lit m t s = .ok (m.lit, s) := by simp [src, h]
theorem src_imm (h : s.my.begun = false) (v : BitVec 5) : src (.imm v) m t s = .ok (immValue v t, s) := by simp [src, h]

/-- An instruction that has issued has read its operands, and takes them in their order. -/
theorem src_held (h : s.my.begun = true) (o : Opnd) :
    src o m t s = .ok (s.my.held.headD 0, s.setMy { s.my with held := s.my.held.tail }) := by simp [src, h]

/-- A queue whose head is written supplies it and is popped. -/
theorem src_q (hb : s.my.begun = false) {n : BitVec 3} {e : Nat} {v : Word} {es : List QEntry}
    (h : (s.me.q n.toNat).ents = ⟨e, some v⟩ :: es) :
    src (.q n) m t s = .ok (v, s.setMe (s.me.setQ n.toNat ((s.me.q n.toNat).pop s.cur.2))) := by
  simp [src, hb, h]

/-- Everything a read can do. -/
theorem src_cases {o : Opnd} {v : Word} {u : State} (h : src o m t s = .ok (v, u)) :
    u = s ∨ u = s.setMy { s.my with held := s.my.held.tail } ∨
    (∃ n, o = .g n ∧ u = s.setMe (s.me.gTouch (gAddr s.my.wsp n.toNat))) ∨
    (∃ n, o = .q n ∧ u = s.setMe (s.me.setQ n.toNat ((s.me.q n.toNat).pop s.cur.2))) := by
  unfold src at h
  split at h
  · cases h; exact .inr (.inl rfl)
  · cases o with
    | g n => cases h; exact .inr (.inr (.inl ⟨n, rfl, rfl⟩))
    | q n =>
      dsimp only at h
      split at h
      · cases h; exact .inr (.inr (.inr ⟨n, rfl, rfl⟩))
      · cases h
    | _ => cases h; exact .inl rfl

/-- A read fails only on a queue without a written head, and then it waits. -/
theorem src_stop {o : Opnd} {e : Stop} (h : src o m t s = .error e) : (∃ n, o = .q n) ∧ ∃ g, e = .wait g ∧ ∀ u, g u = u := by
  unfold src at h
  split at h
  · cases h
  · cases o with
    | q n =>
      dsimp only at h
      split at h
      · cases h
      · cases h; exact ⟨⟨n, rfl⟩, _, rfl, fun _ => rfl⟩
    | _ => cases h

end

/-! ### Results (R109, R288) -/

theorem dst_run (o : Opnd) (v : Word) (s : State) (h : s.my.begun = false) :
    dst o v s = .ok ((), (s.writeReg s.cur.1 s.cur.2 o v).writeLr s.cur.1 s.cur.2 v) := by simp [dst, Ctx.tailNow, h]

/-- The result of an instruction that has issued goes to the queue entry it has reserved. -/
theorem dst_reserved (o : Opnd) (v : Word) (s : State) {q id : Nat} (h : s.my.begun = true) (ht : s.my.tail = some (q, id)) :
    ∃ t, dst o v s = .ok ((), t) ∧ t = (let u := s.setMe (s.me.setQ q ((s.me.q q).fill id v));
      (u.setMy { u.my with tail := none }).writeLr s.cur.1 s.cur.2 v) := by
  exact ⟨_, rfl, by simp [Ctx.tailNow, h, ht]⟩

/-- A register write changes one core, if anything. -/
theorem State.writeReg_cases (s : State) (n x : Nat) (o : Opnd) (v : Word) :
    s.writeReg n x o v = s ∨ ∃ c, s.writeReg n x o v = s.setCore n c := by
  cases o with
  | g k => exact .inr ⟨_, rfl⟩
  | o k => exact .inr ⟨_, rfl⟩
  | lr => exact .inr ⟨_, rfl⟩
  | q k => exact .inr ⟨_, rfl⟩
  | zr => exact .inl rfl
  | lit => exact .inl rfl
  | imm k => exact .inl rfl

@[simp] theorem State.writeReg_zr (s : State) (n x : Nat) (v : Word) : s.writeReg n x .zr v = s := rfl

theorem State.writeReg_keeps (s : State) (n x : Nat) (o : Opnd) (v : Word) :
    let t := s.writeReg n x o v
    t.octets = s.octets ∧ t.dies = s.dies ∧ t.parts = s.parts ∧ t.ports = s.ports ∧ t.hubs = s.hubs ∧ t.dev = s.dev ∧ t.regs = s.regs ∧
    t.hbm = s.hbm ∧ t.hostMem = s.hostMem ∧ t.flight = s.flight ∧ t.noc = s.noc ∧ t.cyc = s.cyc ∧ t.nextId = s.nextId ∧
    t.fresh = s.fresh ∧ t.cur = s.cur ∧ t.agenda = s.agenda ∧ ∀ j, j ≠ n → t.core j = s.core j := by
  rcases s.writeReg_cases n x o v with h | ⟨c, h⟩
  · simp [h]
  · simp only [h]
    exact ⟨rfl, rfl, rfl, rfl, rfl, rfl, rfl, rfl, rfl, rfl, rfl, rfl, rfl, rfl, rfl, rfl, fun j hj => AMap.getD_set_other _ _ _ hj⟩

/-- lr after a scalar result. -/
theorem State.writeLr_lr (s : State) (n x : Nat) (v : Word) (h : x < 11) : ((s.writeLr n x v).ctx n x).lr = v := by
  simp [State.writeLr, h]

@[simp] theorem State.writeLr_core_other (s : State) (n x j : Nat) (v : Word) (h : j ≠ n) : (s.writeLr n x v).core j = s.core j :=
  AMap.getD_set_other _ _ _ h

/-- The end of an issue changes the running context's wait alone. -/
theorem State.endIssue_my (s : State) (h : s.cur.2 < 11) :
    s.endIssue.my = { s.my with wait := none, walkFault := none, pass := false, doing := none, held := [], tail := none } := by
  simp [State.endIssue, h]

/-! ### Raising a cause and returning (R209, R211, R212) -/

/-- A cause that the own handler takes. -/
theorem State.causeIn_trap (s : State) (n x : Nat) (c : BitVec 8) (f a : Word) (len : Nat) (h : (s.ctx n x).takesTrap c = true) :
    s.causeIn n x c f a len = (s.leaveWait n x).setCtx n x (((s.leaveWait n x).ctx n x).enterTrap c f a len) := by
  simp [State.causeIn, h]

/-- Any other halts the context, with the cause and its FADDR latched. -/
theorem State.causeIn_halt (s : State) (n x : Nat) (c : BitVec 8) (f a : Word) (len : Nat) (h : (s.ctx n x).takesTrap c = false) :
    s.causeIn n x c f a len =
      (s.setCtx n x { s.ctx n x with cause := ((s.ctx n x).cause &&& 0xFF00) ||| c.setWidth 64, faddr := f }).halt n x c
        (savedPc c a len) none := by
  simp [State.causeIn, h]

section
variable (k : Ctx) (c : BitVec 8) (f a : Word) (len : Nat)

@[simp] theorem Ctx.enterTrap_pc : (k.enterTrap c f a len).pc = k.tvec := rfl
@[simp] theorem Ctx.enterTrap_faddr : (k.enterTrap c f a len).faddr = f := rfl
@[simp] theorem Ctx.enterTrap_cause : (k.enterTrap c f a len).cause = BitVec.ofNat 64 (len * 2 ^ 12 + 2 ^ 8 + c.toNat) := rfl
theorem Ctx.enterTrap_epc : (k.enterTrap c f a len).epc = if 0xF0 ≤ c then a + BitVec.ofNat 64 (4 * len) else a := rfl
@[simp] theorem Ctx.enterTrap_o : (k.enterTrap c f a len).o = k.o := rfl
@[simp] theorem Ctx.enterTrap_lr : (k.enterTrap c f a len).lr = k.lr := rfl
@[simp] theorem Ctx.enterTrap_p : (k.enterTrap c f a len).p = k.p := rfl
@[simp] theorem Ctx.enterTrap_fpsr : (k.enterTrap c f a len).fpsr = k.fpsr := rfl
@[simp] theorem Ctx.enterTrap_wsp : (k.enterTrap c f a len).wsp = k.wsp := rfl
@[simp] theorem Ctx.enterTrap_st : (k.enterTrap c f a len).st = k.st := rfl
@[simp] theorem Ctx.eret_pc : k.eret.pc = k.epc := rfl
@[simp] theorem Ctx.eret_lr : k.eret.lr = k.lr := rfl
@[simp] theorem Ctx.eret_o : k.eret.o = k.o := rfl

end

/-- A trap nests in nothing: once entered, no further cause is taken in the handler until ERET (R209). -/
theorem Ctx.takesTrap_enterTrap (k : Ctx) (c d : BitVec 8) (f a : Word) (len : Nat) :
    (k.enterTrap c f a len).takesTrap d = false := by
  have hc := c.isLt
  have : (BitVec.ofNat 64 (len * 2 ^ 12 + 2 ^ 8 + c.toNat)).getLsbD 8 = true := by
    rw [BitVec.getLsbD_ofNat]
    simp only [Nat.testBit_eq_decide_div_mod_eq, Bool.and_eq_true, decide_eq_true_eq]
    omega
  simp only [Ctx.takesTrap, Ctx.enterTrap_cause, this, Bool.not_true, Bool.and_false]

end Machine
end Sys2Proof
end

