-- ==== Sys2Proof/Laws/Form.lean ====
section
/-! SUPPORT. Every operation that writes bytes keeps the canonical form of the memory it writes, and the named updates of a state keep
the form of all its memories (R3, R105, R106, R108). -/

namespace Sys2Proof.Machine

/-! ### A core's memories -/

@[simp] theorem Core.setCtx_memWf (c : Core) (x : Nat) (k : Ctx) : (c.setCtx x k).memWf = c.memWf := by
  unfold Core.setCtx; split <;> rfl
@[simp] theorem Core.setQ_memWf (c : Core) (n : Nat) (q : QReg) : (c.setQ n q).memWf = c.memWf := by
  unfold Core.setQ; split <;> rfl
@[simp] theorem Core.setRow_memWf (c : Core) (n : Nat) (v : BitVec 2048) : (c.setRow n v).memWf = c.memWf := rfl
@[simp] theorem Core.setBar_memWf (c : Core) (n : Nat) (b : Barrier) : (c.setBar n b).memWf = c.memWf := rfl
@[simp] theorem Core.setRose_memWf (c : Core) (n : Nat) (r : Rose) : (c.setRose n r).memWf = c.memWf := rfl
@[simp] theorem Core.setMbox_memWf (c : Core) (n : Nat) (m : Mailbox) : (c.setMbox n m).memWf = c.memWf := rfl
@[simp] theorem Core.setChan_memWf (c : Core) (n : Nat) (k : Channel) : (c.setChan n k).memWf = c.memWf := rfl
@[simp] theorem Core.setFix_memWf (c : Core) (n : Nat) (f : FixObj) : (c.setFix n f).memWf = c.memWf := rfl
@[simp] theorem Core.mf_memWf (c : Core) (l : List MfEntry) : ({ c with mf := l } : Core).memWf = c.memWf := rfl

theorem Core.memWf_empty : ({} : Core).memWf = true := by decide

theorem Core.mfBack_memWf {c : Core} (e : MfEntry) (h : c.memWf = true) : (c.mfBack e).memWf = true := by
  unfold Core.mfBack
  split
  · simp only [Core.memWf, Bool.and_eq_true] at h ⊢
    exact ⟨Mem.wf_write _ _ _ _ h.1, h.2⟩
  · exact h

theorem Core.mfPut_memWf {c : Core} (e : MfEntry) (h : c.memWf = true) : (c.mfPut e).memWf = true := by
  rcases c.mfPut_cases e with hp | ⟨v, -, hp⟩
  · simpa [hp] using h
  · rw [hp]; exact Core.mfBack_memWf v h

theorem Core.gWrite_memWf {c : Core} (a : Nat) (v : Word) (h : c.memWf = true) : (c.gWrite a v).memWf = true :=
  Core.mfPut_memWf _ h

theorem Core.gTouch_memWf {c : Core} (a : Nat) (h : c.memWf = true) : (c.gTouch a).memWf = true := by
  unfold Core.gTouch
  split
  · exact h
  · exact Core.mfPut_memWf _ h

theorem Core.mfBacks_memWf (l : List MfEntry) : ∀ {c : Core}, c.memWf = true → (l.foldl Core.mfBack c).memWf = true := by
  induction l with
  | nil => intro c h; exact h
  | cons e l ih => intro c h; exact ih (Core.mfBack_memWf e h)

theorem Core.gFlush_memWf {c : Core} (w : Word) (h : c.memWf = true) : (c.gFlush w).memWf = true := Core.mfBacks_memWf _ h

theorem Core.scrWrite_memWf {c : Core} (off n v : Nat) (h : c.memWf = true) : (c.scrWrite off n v).memWf = true := by
  simp only [Core.scrWrite, Core.memWf, Bool.and_eq_true] at h ⊢
  exact ⟨Mem.wf_write _ _ _ _ h.1, h.2⟩

theorem Core.latchBack_memWf {c : Core} (x : Nat) (h : c.memWf = true) : (c.latchBack x).memWf = true := by
  have put : ∀ (l : List Word) (p : Mem × Nat), p.1.wf = true →
      (l.foldl (fun p w => (p.1.write p.2 8 w.toNat, p.2 + 8)) p).1.wf = true := by
    intro l
    induction l with
    | nil => intro p hp; exact hp
    | cons w l ih => intro p hp; exact ih _ (Mem.wf_write _ _ _ _ hp)
  simp only [Core.memWf, Bool.and_eq_true] at h
  simp only [Core.latchBack, Core.memWf, Bool.and_eq_true]
  exact ⟨Mem.wf_zero _ _ _ (put _ _ h.1), h.2⟩

theorem Core.writeBackAll_memWf {c : Core} (x : Nat) (h : c.memWf = true) : (c.writeBackAll x).memWf = true := by
  unfold Core.writeBackAll
  split
  · exact h
  · exact Core.latchBack_memWf x (Core.gFlush_memWf _ h)

/-! ### The state's memories -/

theorem State.memWf_core {s : State} (h : s.memWf) (n : Nat) : (s.core n).memWf = true := by
  unfold State.core AMap.getD
  cases hg : AMap.get? s.cores n with
  | none => exact Core.memWf_empty
  | some c => exact h.2.2.1 _ (AMap.get?_mem hg)

theorem State.memWf_setCore {s : State} (n : Nat) {c : Core} (h : s.memWf) (hc : c.memWf = true) : (s.setCore n c).memWf := by
  refine ⟨h.1, h.2.1, fun p hp => ?_, h.2.2.2⟩
  rcases AMap.mem_set hp with hp | rfl
  · exact h.2.2.1 p hp
  · exact hc

theorem State.memWf_setCtx {s : State} (n x : Nat) (k : Ctx) (h : s.memWf) : (s.setCtx n x k).memWf :=
  State.memWf_setCore n h (by rw [Core.setCtx_memWf]; exact State.memWf_core h n)

theorem State.memWf_setMy {s : State} (k : Ctx) (h : s.memWf) : (s.setMy k).memWf := State.memWf_setCtx _ _ k h
theorem State.memWf_setMe {s : State} {c : Core} (h : s.memWf) (hc : c.memWf = true) : (s.setMe c).memWf := State.memWf_setCore _ h hc
theorem State.memWf_setOctet {s : State} (n : Nat) (o : Octet) (h : s.memWf) : (s.setOctet n o).memWf := h
theorem State.memWf_setPort {s : State} (n : Nat) (o : Port) (h : s.memWf) : (s.setPort n o).memWf := h
theorem State.memWf_setHub {s : State} (n : Nat) (o : Hub) (h : s.memWf) : (s.setHub n o).memWf := h
theorem State.memWf_setReg {s : State} (a : Nat) (v : Word) (h : s.memWf) : (s.setReg a v).memWf := h
theorem State.memWf_setRegF {s : State} (a lo n v : Nat) (h : s.memWf) : (s.setRegF a lo n v).memWf := h
theorem State.memWf_pilotEvent {s : State} (k : Nat) (a b : Word) (h : s.memWf) : (s.pilotEvent k a b).memWf := h

theorem State.memWf_setDie {s : State} (n : Nat) {d : Die} (h : s.memWf) (hd : d.scr.wf = true) : (s.setDie n d).memWf := by
  refine ⟨h.1, h.2.1, h.2.2.1, fun p hp => ?_, h.2.2.2.2⟩
  rcases AMap.mem_set hp with hp | rfl
  · exact h.2.2.2.1 p hp
  · exact hd

theorem State.memWf_part {s : State} (h : s.memWf) (n : Nat) : ∀ e ∈ (s.part n).images, ∀ k ∈ e.2, k.2.2.memWf = true := by
  unfold State.part AMap.getD
  cases hg : AMap.get? s.parts n with
  | none => intro e he; cases he
  | some p => exact h.2.2.2.2 _ (AMap.get?_mem hg)

/-- A partition's update that leaves its checkpoint images. -/
theorem State.memWf_setPart {s : State} (n : Nat) {p : Part} (h : s.memWf) (hp : ∀ e ∈ p.images, ∀ k ∈ e.2, k.2.2.memWf = true) :
    (s.setPart n p).memWf := by
  refine ⟨h.1, h.2.1, h.2.2.1, h.2.2.2.1, fun q hq => ?_⟩
  rcases AMap.mem_set hq with hq | rfl
  · exact h.2.2.2.2 q hq
  · exact hp

theorem State.memWf_die {s : State} (h : s.memWf) (n : Nat) : (s.die n).scr.wf = true := by
  unfold State.die AMap.getD
  cases hg : AMap.get? s.dies n with
  | none => rfl
  | some d => exact h.2.2.2.1 _ (AMap.get?_mem hg)

/-! ### The shared operations -/

theorem State.memWf_writeReg {s : State} (n x : Nat) (o : Opnd) (v : Word) (h : s.memWf) : (s.writeReg n x o v).memWf := by
  have hc := State.memWf_core h n
  cases o with
  | g k => exact State.memWf_setCore _ h (Core.gWrite_memWf _ _ hc)
  | o k => exact State.memWf_setCtx _ _ _ h
  | lr => exact State.memWf_setCtx _ _ _ h
  | q k => exact State.memWf_setCore _ h (by rw [Core.setQ_memWf]; exact hc)
  | zr => exact h
  | lit => exact h
  | imm k => exact h

theorem State.memWf_writeLr {s : State} (n x : Nat) (v : Word) (h : s.memWf) : (s.writeLr n x v).memWf := State.memWf_setCtx _ _ _ h
theorem State.memWf_endIssue {s : State} (h : s.memWf) : s.endIssue.memWf := State.memWf_setMy _ h

theorem State.memWf_rejoin {s : State} (n x : Nat) (h : s.memWf) : (s.rejoin n x).memWf := by
  unfold State.rejoin
  dsimp only
  split
  · exact h
  · exact State.memWf_setCtx _ _ _ (State.memWf_setOctet _ _ h)

theorem State.memWf_beginIssue {s : State} (h : s.memWf) : s.beginIssue.memWf := State.memWf_setMy _ (State.memWf_rejoin _ _ h)
theorem State.memWf_started {s : State} (m : Mods) (h : s.memWf) : (s.started m).memWf := State.memWf_setMy _ (State.memWf_beginIssue h)

/-- A read of a source. -/
theorem State.memWf_src {s u : State} {o : Opnd} {m : Mods} {t : SrcTy} {v : Word} (h : s.memWf) (hs : src o m t s = .ok (v, u)) :
    u.memWf := by
  rcases src_cases m t s hs with rfl | rfl | ⟨n, -, rfl⟩ | ⟨n, -, rfl⟩
  · exact h
  · exact State.memWf_setMy _ h
  · exact State.memWf_setMe h (Core.gTouch_memWf _ (State.memWf_core h _))
  · exact State.memWf_setMe h (by rw [Core.setQ_memWf]; exact State.memWf_core h _)

theorem State.memWf_traceAdd {s : State} (n : Nat) (r : Word × Word) (h : s.memWf) : (s.traceAdd n r).memWf := by
  have h1 := State.memWf_setCore (c := { s.core n with trace := (traceInsert (s.core n).trace r).take 8 }) n h (State.memWf_core h n)
  unfold State.traceAdd
  dsimp only
  split
  · exact h1
  · exact State.memWf_setRegF _ _ _ _ h1

theorem State.memWf_traceAdds {n : Nat} (l : List (Word × Word)) :
    ∀ {s : State}, s.memWf → (l.foldl (fun u r => u.traceAdd n r) s).memWf := by
  induction l with
  | nil => intro s h; exact h
  | cons r l ih => intro s h; exact ih (State.memWf_traceAdd n r h)

theorem State.memWf_traceRec {s : State} (n x kind : Nat) (w : Word) (h : s.memWf) : (s.traceRec n x kind w).memWf := by
  unfold State.traceRec
  dsimp only
  split
  · exact h
  · split
    · exact State.memWf_traceAdd _ _ h
    · exact State.memWf_setCore _ h (State.memWf_core h n)

theorem State.memWf_traceStart {s : State} (n : Nat) (h : s.memWf) : (s.traceStart n).memWf := by
  have h1 := State.memWf_setReg (Pf.dbg n 0x188) (s.reg (Pf.dbg n 0x188) ||| 0x10) h
  unfold State.traceStart
  dsimp only
  split
  · exact State.memWf_traceAdds _ (State.memWf_setCore _ h1 (State.memWf_core h1 n))
  · exact h1

theorem State.memWf_traceStop {s : State} (n : Nat) (h : s.memWf) : (s.traceStop n).memWf :=
  State.memWf_setCore _ h (State.memWf_core h n)

theorem State.memWf_trigger {s : State} (n c : Nat) (h : s.memWf) : (s.trigger n c).memWf := by
  unfold State.trigger
  dsimp only
  split
  · split
    · exact State.memWf_traceStop _ (State.memWf_traceStart _ h)
    · exact State.memWf_traceStop _ h
  · split
    · exact State.memWf_traceStart _ h
    · exact h

end Sys2Proof.Machine
end

