-- ==== Sys2Proof/Tests/Slice0.lean ====
section
/-! SUPPORT. Tests: ill-formed terms that the checks refuse, words of the spec that decode to their instructions, and for each
statement a machine and operands that meet its hypotheses, with the outcome worked out from the spec by hand. -/

namespace Sys2Proof.Tests

open Sys2Proof Sys2Proof.Machine

set_option Elab.async false

/-! ### Helpers -/

/-- W form with a type, and X form. -/
def mW (t : ElTy := .i64) : Mods := ⟨.w, 0, 0, false, .fpsr, false, 0, t, false, false, 0, 0⟩
def mX (t : ElTy := .i64) : Mods := ⟨.x, 0, 0, false, .fpsr, false, 0, t, false, false, 0, 0⟩

/-- A control context that is live on the workspace at the scratchpad's base, at PC 0x200. -/
def ctx0 : Ctx := { st := .live, wsp := BitVec.ofNat 64 ownBase, pc := BitVec.ofNat 64 (ownBase + 0x200) }

/-- Core 0 with that context and 64 KiB of scratchpad. -/
def core0 : Core := { scratch := 64, stack := 16, ctxs := (Vector.replicate 11 {}).set 0 ctx0 }

/-- A package in which that core runs. -/
def s0 : State := { cores := [(0, core0)] }

/-- The running context changed. -/
def at_ (f : Ctx → Ctx) (s : State := s0) : State := s.setMy (f s.my)

/-- Registers g1, g2, ... of the running context. -/
def withG (vs : List Word) (s : State := s0) : State :=
  (vs.zipIdx 1).foldl (fun s e => s.setMe (s.me.gWrite (8 * e.2) e.1)) s

/-- The instruction answers a next state, of which something holds. -/
def after (i : Instr) (s : State) (f : State → Bool) : Bool :=
  match exec i s with
  | .next t => f t
  | _ => false

/-- A computation completes, with a value and a state of which something holds. -/
def okWith {α : Type} (f : Sem α) (s : State) (p : α → State → Bool) : Bool :=
  match f s with
  | .ok (v, t) => p v t
  | .error _ => false

/-- It issues, and then something holds. -/
def runs (i : Instr) (m : Mods) (s : State) (f : State → Bool) : Bool := decide (s.Issues i m) && after i s f

/-- The context goes on in it with the operands it has read, and then something holds. -/
def goesOn (i : Instr) (vs : List Word) (s : State) (f : State → Bool) : Bool :=
  let v := at_ (fun k => { k with doing := some i, held := vs }) s
  decide (v.GoesOn i vs) && after i v (fun t => f t && t.my.doing.isNone)

/-- g3 of the running context, where tests put results. -/
def g3 (t : State) : Word := t.regVal 0 0 (.g 3)

/-- Its two sources g1 and g2 are read and it writes v to g3 and lr. -/
def gives (i : Instr) (m : Mods) (x y v : Word) : Bool :=
  let s := withG [x, y]
  decide ((s.reads m .int [.g 1, .g 2]).map Prod.fst = some [x, y]) && runs i m s (fun t => g3 t == v && t.my.lr == v)

/-- A 64 KiB page and a 2 MiB page of root 0. -/
def tlbA : TlbEnt := ⟨0x10000, 0x10000, 0x20000, 0, 0, .rc, true, true, false⟩
def tlbB : TlbEnt := ⟨0x200000, 0x200000, 0x400000, 0, 0, .rc, true, true, true⟩

/-- Core 0 in a gang of its own. -/
def ganged (s : State) : State := s.setMe { s.me with gang := some ⟨0, 0, 0, 0, 0, 0, 0, 0xFFFF, 0⟩ }

def setField (a lo n v : Nat) (s : State) : State := s.setRegF a lo n v
/-- READY, with VF 1 enabled in a TDISP state. -/
def upVf (st : Nat) (s : State := {}) : State := setField (Pf.vf 1 0x10) 0 2 st ((s.setReg 0 1).setVf 1 { enabled := true })

/-- Tables of one path: the L4 entry 1 maps 0x10000 to 0x20000, readable and writable, RC. -/
def pathMem (leaf : Word) : Mem :=
  [(0, 0x1001), (0x1000, 0x2001), (0x2000, 0x3001), (0x3000, 0x4001), (0x4008, leaf.toNat)].foldl (fun m (e : Nat × Nat) => m.write e.1 8 e.2) []
def leafW : Word := 0x0100000000020059

/-- The descriptor of the example at R195, folding at home in the own scratchpad: n 4, k 3, L 1, HALVE, RANK, sum, f32, COUNT 1,
COMBINE, over the gang's four cores. -/
def fxWords : List Word := [0x8_1_21_0003_0004, 1, BitVec.ofNat 64 (ownBase + 0x1000), 0x2400, 0, 0, 3, 0]
def fxDesc (ws : List Word) : Line := BitVec.ofNat 512 (ofLeBytes (ws.flatMap (fun w => leBytes 8 w.toNat)))
def fxState (ws : List Word) (s : State) : State :=
  let c := s.me.scrWrite 0x800 64 (fxDesc ws).toNat
  s.setMe { c with gang := some ⟨0, 0, 0, 0, 0, 1, 1, 0xFFFF, 0⟩ }
/-- The four cores of the gang. -/
def fxBase (s : State) : State := [1, 32, 33].foldl (fun s n => s.setCore n { gang := some ⟨0, 0, 0, 0, 0, 1, 1, 0xFFFF, 0⟩ }) s
def fxObj (fo : Fold) : FixObj :=
  { live := true, gen := 1, desc := fxDesc fxWords, alg := .combine, joined := [(0, 0, 0)], folds := [(0, fo)] }
/-- Its handle: core (0, 0), slot 0, generation 1. -/
def fxH : BitVec 32 := 0x4000
def fxOn (fo : Fold) (s : State) : State := (s.setMe { s.me with gang := some ⟨0, 0, 0, 0, 0, 1, 1, 0xFFFF, 0⟩ }).setFixObj fxH (fxObj fo)
/-! ### Well-formedness: each check refuses an ill-formed term -/

/- Two of the encodings that R273 works out: an ADD with a literal, and an ADD with three registers followed by another word. -/
theorem witness_EncodingsDecodeToTheirInstruction :
    WellFormed (.add (.g 5) (.g 5) .lit { mW with len := .wl, lit := 0x10000 }) ∧
    encode (.add (.g 5) (.g 5) .lit { mW with len := .wl, lit := 0x10000 }) = [0x17C28505, 0x00010000, 0x00000000] ∧
    (Instr.add (.g 5) (.g 5) .lit { mW with len := .wl, lit := 0x10000 }).mods?.isSome = true ∧
    (match decodeWords [0x08808304, 7] with
     | .ok (i, r) => decide (i = .add (.g 3) (.g 1) (.o 2) mW) && decide (r = [7])
     | .error _ => false) = true := by decide +kernel

/-- A good ADD, and then one with: a literal that no form holds; a literal field in W form; a type that is no integer type; in W form a type other
than i64; a value in the extension of a W form; a gated guard without a guard. -/
theorem test_wellFormed_refuses :
    WellFormed (.add (.g 3) (.g 1) (.g 2) (mW)) ∧
    ¬ WellFormed (.add (.g 3) (.g 1) (.g 2) { mW with lit := 1 }) ∧
    ¬ WellFormed (.add (.g 3) (.g 1) .lit mW) ∧
    ¬ WellFormed (.add (.g 3) (.g 1) (.g 2) (mX .f32)) ∧
    ¬ WellFormed (.add (.g 3) (.g 1) (.g 2) (mW .i32)) ∧
    ¬ WellFormed (.add (.g 3) (.g 1) (.g 2) { mW with imm32 := 1 }) ∧
    ¬ WellFormed (.add .zr .lit (.g 2) { mW with len := .wl, gen := true }) ∧
    ¬ WellFormed (.add (.imm 3) (.g 1) (.g 2) mW) ∧
    ¬ WellFormed (.fma (.g 1) (.g 2) (.g 3) (.g 4) (mW .f32)) ∧
    ¬ WellFormed (.enter 0 { mX with imm32 := 8 }) := by decide +kernel

/-! ### The machine's first step after a fetch -/

/-- The hypotheses of StepRunsTheDecodedInstruction hold of a state, and its conclusion does. -/
def stepOk (s : State) : Bool :=
  match s.agenda with
  | .issue n x :: rest =>
    let v : State := { s with agenda := rest, cur := (n, x) }
    decide (s.dev.powered = true) && decide ((v.ctx n x).st = .live) && !(v.ctx n x).killReq && (v.takeStop n x).isNone &&
    !(v.ctx n x).haltReq && v.mayIssue n x && !(v.ctx n x).noWs &&
    (match fetch v with
     | .ok (ws, u) =>
       (match decodeWords ws with
        | .ok (i, _) =>
          after i u (fun t => !(u.ctx n x).inWait && (u.ctx n x).sounding = 0 && (u.bpHalt n x (u.ctx n x).pc).isNone && t.issuedNow n x &&
            (match step s with
             | .next r => decide (r = u.around t n x i) && decide (r = (u.afterIssue t n x i true).sndIssue n (u.ctx n x).pc)
             | _ => false))
        | _ => false)
     | _ => false)
  | _ => false

/-- ADD g3, g1, o2 (R273) runs as the first instruction. -/
theorem witness_StepRunsTheDecodedInstruction : stepOk (State.reset.withFetchWord 32 0x08808304) = true := by decide +kernel

/-- A fetch at offset 0x200 of the own scratchpad reads the two words of an XL-free X instruction there, low byte first. -/
theorem witness_FetchReadsTheOwnScratchpad :
    let s := (s0.setMe (s0.me.scrWrite 0x200 12 0x0000000000010000_17C28505))
    s.my.pc = BitVec.ofNat 64 (ownBase + 0x200) ∧ 0x200 / 64 * 64 + 64 ≤ s.me.top ∧ s.me.scratch ≤ 256 ∧ s.my.fbuf = none ∧
    lengthOf 0x17C28505 = 3 ∧
    okWith fetch s (fun ws _ => ws == [0x17C28505, 0x00010000, 0]) = true := by decide +kernel

/-! ### Fences (R324, R325) -/

/-- A clean executable line and a dirty one. -/
def lineA : L1Line := ⟨0, 0x1000, 0, 0, BitVec.allOnes 64, 0, .rc, true⟩
def lineB : L1Line := ⟨0, 0x1040, 0, 0, BitVec.allOnes 64, 1, .rc, true⟩

theorem witness_FencesAndFetches :
    let s := s0.setMe { s0.me with l1 := [lineA, lineB] }
    let m := { mX with mod := 0x00 }
    let kept := [{ lineB with valid := 1 }]
    let uo := s0.setMe { s0.me with l1 := [{ lineB with kind := .uo }, { lineA with kind := .uo }] }
    runs (.ifence mW) mW (at_ (fun k => { k with fbuf := some (0, 0) }) s) (fun t => t.my.fbuf.isNone && t.me.l1 == kept) = true ∧
    (.ctx = Scope.ofCode (m.mod.extractLsb' 4 4) ∧ runs (.fence .full m) m s (fun t => t.me.l1 == [lineA, lineB]) = true) ∧
    runs (.fence .acq mW) mW s (fun t => t.me.l1 == kept) = true ∧ (s.started mW).readsUnderWay 0 0 = [] ∧
    runs (.fence .rel mW) mW (withG [7]) (fun t => t.me.mf.all (fun e => !e.dirty)) = true ∧
    runs (.fence .full mW) mW (withG [7] s) (fun t => t.me.l1 == kept && t.me.mf.all (fun e => !e.dirty) && t.my.doing.isNone) = true ∧
    ((s.started mW).flight = [] ∧ (s.started mW).me.vmIds 0 = [] ∧ (s.started mW).me.fifo = [] ∧ (s.me.l1.map L1Line.pa).Nodup ∧
      s.my.wait = none ∧ s.my.noWs = false) ∧
    -- a dirty UO line goes out, and what is left of UO is dropped once that is acknowledged
    runs (.fence .full mW) mW uo (fun t => t.my.doing == some (.fence .full mW) && t.my.block == t.unacked 0 && t.my.block.length == 1 &&
      t.me.l1.all (fun l => l.dirty == 0) &&
      after (.fence .full mW) t (fun u => u.me.l1 == [] && u.my.doing.isNone)) = true := by decide +kernel

/-! ### Integer arithmetic (R249, R290): results worked out from the table of R290 -/

theorem witness_IntegerResults_binary :
    let i32 := mX .i32
    let u := { mX with mod := 1 }
    gives (.add (.g 3) (.g 1) (.g 2) i32) i32 0x7FFFFFFF 1 0xFFFFFFFF80000000 = true ∧
    gives (.sub (.g 3) (.g 1) (.g 2) mW) mW 0 1 0xFFFFFFFFFFFFFFFF = true ∧
    gives (.and (.g 3) (.g 1) (.g 2) mW) mW 0xC 0xA 8 = true ∧ gives (.or (.g 3) (.g 1) (.g 2) mW) mW 0xC 0xA 0xE = true ∧
    gives (.xor (.g 3) (.g 1) (.g 2) mW) mW 0xC 0xA 6 = true ∧ gives (.andn (.g 3) (.g 1) (.g 2) mW) mW 0xC 0xA 4 = true ∧
    gives (.shl (.g 3) (.g 1) (.g 2) mW) mW 1 64 0 = true ∧ gives (.shr (.g 3) (.g 1) (.g 2) mW) mW 0x8000000000000000 63 1 = true ∧
    gives (.sar (.g 3) (.g 1) (.g 2) mW) mW 0x8000000000000000 200 0xFFFFFFFFFFFFFFFF = true ∧
    gives (.ror (.g 3) (.g 1) (.g 2) mW) mW 1 65 0x8000000000000000 = true ∧
    gives (.min (.g 3) (.g 1) (.g 2) mW) mW 0xFFFFFFFFFFFFFFFF 1 0xFFFFFFFFFFFFFFFF = true ∧
    gives (.min (.g 3) (.g 1) (.g 2) u) u 0xFFFFFFFFFFFFFFFF 1 1 = true ∧
    gives (.max (.g 3) (.g 1) (.g 2) mW) mW 0xFFFFFFFFFFFFFFFF 1 1 = true ∧
    gives (.mul (.g 3) (.g 1) (.g 2) mW) mW 0x100000000 0x100000000 0 = true ∧
    gives (.mulh (.g 3) (.g 1) (.g 2) mW) mW 0xFFFFFFFFFFFFFFFF 2 0xFFFFFFFFFFFFFFFF = true ∧
    gives (.mulh (.g 3) (.g 1) (.g 2) u) u 0xFFFFFFFFFFFFFFFF 2 1 = true ∧
    gives (.div (.g 3) (.g 1) (.g 2) mW) mW 5 0 0xFFFFFFFFFFFFFFFF = true ∧
    gives (.div (.g 3) (.g 1) (.g 2) mW) mW 0x8000000000000000 0xFFFFFFFFFFFFFFFF 0x8000000000000000 = true ∧
    gives (.rem (.g 3) (.g 1) (.g 2) mW) mW 0xFFFFFFFFFFFFFFF9 2 0xFFFFFFFFFFFFFFFF = true ∧
    gives (.rem (.g 3) (.g 1) (.g 2) mW) mW 5 0 5 = true := by decide +kernel

theorem witness_IntegerResults_unary :
    let i16 := mX .i16
    gives (.clz (.g 3) (.g 1) mW) mW 1 0 63 = true ∧ gives (.clz (.g 3) (.g 1) i16) i16 0x10000 0 16 = true ∧
    gives (.ctz (.g 3) (.g 1) mW) mW 8 0 3 = true ∧ gives (.popc (.g 3) (.g 1) mW) mW 0xF0F 0 8 = true ∧
    gives (.brev (.g 3) (.g 1) mW) mW 1 0 0x8000000000000000 = true ∧ gives (.mov (.g 3) (.g 1) i16) i16 0x8000 0 0xFFFFFFFFFFFF8000 = true ∧
    gives (.addi (.g 3) (.g 1) (-1) mW) mW 0 0 0xFFFFFFFFFFFFFFFF = true ∧
    gives (.addi (.g 3) (.g 1) 0 { mX with imm32 := 0x80000000 }) { mX with imm32 := 0x80000000 } 0 0 0xFFFFFFFF80000000 = true := by
  decide +kernel

/-- EXT of bits 8 to 15 of 0xFF80_80 signed, and INS of them (R291). -/
theorem witness_IntegerResults_bitField :
    gives (.ext (.g 3) (.g 1) (.g 2) mW) mW 0x8080 0x0808 0x80 = true ∧ gives (.ext (.g 3) (.g 1) (.g 2) mW) mW 0x8080 0x10808 0xFFFFFFFFFFFFFF80 = true ∧
    gives (.ext (.g 3) (.g 1) (.g 2) mW) mW 0xFF 0 0 = true ∧
    runs (.ins (.g 3) (.g 1) (.g 2) mW) mW (withG [0xAB, 0x0808, 0xFFFFFFFF]) (fun t => g3 t == 0xFFFFABFF) = true ∧
    ((withG [0xAB, 0x0808, 7]).reads mW .int [.g 1, .g 2, .g 3]).map Prod.fst = some [0xAB, 0x0808, 7] := by decide +kernel

/-- LEA with i32: 100 + 3 × 4 + (−4) (R292). -/
theorem witness_LeaAddsTheScaledIndex :
    let m := { mX .i32 with imm32 := 0xFFFFFFFC }
    WellFormed (.lea (.g 3) (.g 1) (.g 2) m) ∧ gives (.lea (.g 3) (.g 1) (.g 2) m) m 100 3 108 = true ∧
    WellFormed (.lea (.g 3) (.g 1) (.g 2) mW) ∧ gives (.lea (.g 3) (.g 1) (.g 2) mW) mW 100 3 124 = true := by decide +kernel

/-! ### Compares and predicates (R293, R294, R299) -/

theorem witness_ComparesAndPredicates :
    let k (f : Cc) (x y : Word) : Bool := runs (.cmpp f 5 (.g 1) (.g 2) mW) mW (withG [x, y]) (fun t => t.my.p == 0x20 && t.my.lr == 0)
    k .eq 3 3 ∧ k .ne 3 4 ∧ k .lt 0xFFFFFFFFFFFFFFFF 0 ∧ k .le 2 2 ∧ k .ltn 0 0xFFFFFFFFFFFFFFFF ∧ k .len 0 0 ∧ k .tst 6 2 ∧ k .ntst 5 2 ∧
    gives (.setc .lt (.g 3) (.g 1) (.g 2) mW) mW 1 0 0 = true ∧ gives (.setc .ltn (.g 3) (.g 1) (.g 2) mW) mW 0 1 1 = true ∧
    gives (.sel 0 (.g 3) (.g 1) (.g 2) mW) mW 7 9 9 = true ∧
    runs (.sel 1 (.g 3) (.g 1) (.g 2) mW) mW (at_ (fun c => { c with p := 2 }) (withG [7, 9])) (fun t => g3 t == 7) = true := by
  decide +kernel

theorem witness_ComparesAndPredicates_predicates :
    let s := at_ (fun c => { c with p := 0x05 }) (withG [0x1F0])
    let p (i : Instr) (v : BitVec 8) : Bool := runs i mW s (fun t => t.my.p == v && t.my.lr == 0)
    p (.pand 7 0 2 mW) 0x85 ∧ p (.por 7 0 1 mW) 0x85 ∧ p (.pxor 2 0 2 mW) 0x01 ∧ p (.pnot 1 1 mW) 0x07 ∧ p (.punpk (.g 1) mW) 0xF0 ∧
    runs (.ppack (.g 3) mW) mW s (fun t => g3 t == 5 && t.my.lr == 5) = true := by decide +kernel

/-! ### Operands (R259 to R261) and destinations (R109, R288) -/

theorem witness_SourcesSupplyTheirValues :
    let e (v : Word) (id : Nat) : QEntry := ⟨id, some v⟩
    let s := s0.setMe (s0.me.setQ 2 { ents := [e 11 1, e 12 2] })
    (s.me.q 2).ents = e 11 1 :: [e 12 2] ∧
    runs (.add (.g 3) (.q 2) (.q 2) mW) mW s (fun t => g3 t == 23 && (t.me.q 2).ents == []) = true ∧
    (s.reads mW .int [.q 2, .q 2]).map Prod.fst = some [11, 12] ∧
    s0.Issues (.ld (.g 3) (.g 1) .n32 0 mW) mW ∧ (mX .f32).len.ext = true ∧ s0.Issues (.fma (.g 3) (.g 1) (.imm 3) (.o 1) (mX .f32)) (mX .f32) := by
  decide +kernel

theorem witness_ResultsReachTheirDestination :
    let s := withG [1, 2, 3]
    (s.me.mf.map MfEntry.addr).Nodup ∧ s.me.mf.length ≤ mfSize ∧ (∀ e ∈ s.me.mf, e.addr % 8 = 0 ∧ e.addr % 512 < 256) ∧
    (∀ e ∈ s.me.mf, e.dirty = true) ∧ s.me.scr.wf = true ∧ s.me.legalWs s.my.wsp = true ∧
    okWith (dst (.o 4) 9) s (fun _ t => decide (t.my.o.get 4 = 9 ∧ t.my.lr = 9 ∧ t.regVal 0 0 (.g 2) = 2)) = true ∧
    okWith (dst (.q 4) 9) s (fun _ t => decide ((t.me.q 4).ents.map QEntry.val = [some 9])) = true ∧
    okWith (dst .zr 9) s (fun _ t => decide (t.my.lr = 9)) = true := by decide +kernel

/-- Under a guard on p1, which is 0, ADD only moves the PC on (R264). -/
theorem witness_GuardedOffInstructionsDoNothing :
    let m := { mX with gen := true, gsense := false, gpred := 1 }
    let s := withG [1, 2, 3]
    s.my.guardOn m = false ∧
    after (.add (.g 3) (.g 1) (.g 2) m) s (fun t => g3 t == 3 && t.my.lr == 0 && t.my.pc == s.my.pc + 12) = true := by decide +kernel


/-! ### An instruction that has issued and was blocked goes on -/

/-- A context in HJOIN goes on in it without a fetch; its operand is the one it read, and its result fills the entry reserved for it. -/
theorem witness_StepRunsTheDecodedInstruction_goesOn :
    let i := Instr.hjoin (.q 3) (.g 1) mW
    let s := at_ (fun k => { k with doing := some i, held := [5] }) (s0.setMe (s0.me.setQ 3 { ents := [⟨1, some 5⟩] }))
    let t := { s with agenda := [.issue 0 0] }
    (s.takeStop 0 0 = none ∧ s.mayIssue 0 0 = true ∧ s.my.halting = none ∧ s.my.begun = true) ∧
    after i s (fun u => (u.me.q 3).ents.map QEntry.val == [some 5, some 0] && u.my.doing.isNone &&
      (match step t with | .next r => decide (r = s.around u 0 0 i) | _ => false)) = true ∧
    okWith (src (.g 1) mW .int) s (fun v u => v == 5 && u.my.held == []) = true ∧
    okWith (dst (.q 3) 9) (at_ (fun k => { k with tail := some (3, 1) }) (s.setMe (s.me.setQ 3 { ents := [⟨1, none⟩] })))
      (fun _ u => (u.me.q 3).ents.map QEntry.val == [some 9] && u.my.tail.isNone && u.my.lr == 9) = true := by decide +kernel
/-! ### Floating point (R231 to R248, R295 to R298) -/

/-- Two f32 sources, the result in g3 and lr, and the flags. -/
def fgives (i : Instr) (m : Mods) (x y v : Word) (fl : Word) : Bool :=
  let s := withG [x, y]
  decide ((s.reads m (srcTyOf m.ty) [.g 1, .g 2]).map Prod.fst = some [x, y]) &&
  runs i m s (fun t => g3 t == v && t.my.lr == v && t.my.fpsr == fl)

/-- 1 + 2 = 3; 1 − 2 = −1; 1.5 × 2 = 3; 1 / 3 rounds to 0x3EAAAAAB and is inexact (bit 4 of FPSR). -/
theorem witness_FloatResults :
    let f := mX .f32
    fgives (.fadd (.g 3) (.g 1) (.g 2) f) f 0x3F800000 0x40000000 0x40400000 0 = true ∧
    fgives (.fsub (.g 3) (.g 1) (.g 2) f) f 0x3F800000 0x40000000 0xBF800000 0 = true ∧
    fgives (.fmul (.g 3) (.g 1) (.g 2) f) f 0x3FC00000 0x40000000 0x40400000 0 = true ∧
    fgives (.fmulz (.g 3) (.g 1) (.g 2) f) f 0 0x7F800000 0 0 = true ∧
    fgives (.fdiv (.g 3) (.g 1) (.g 2) f) f 0x3F800000 0x40400000 0x3EAAAAAB 0x10 = true ∧
    fgives (.fdiv (.g 3) (.g 1) (.g 2) f) f 0x3F800000 0 0x7F800000 0x2 = true ∧
    fgives (.fmin (.g 3) (.g 1) (.g 2) f) f 0x3F800000 0xC0000000 0xC0000000 0 = true ∧
    fgives (.fmax (.g 3) (.g 1) (.g 2) f) f 0x3F800000 0xC0000000 0x3F800000 0 = true ∧
    fgives (.fsqrt (.g 3) (.g 1) f) f 0x40800000 0 0x40000000 0 = true ∧
    fgives (.fcvt (.g 3) (.g 1) { f with mod := 0x9 }) { f with mod := 0x9 } 0x3F800000 0 0x3F80 0 = true ∧
    runs (.fma (.g 3) (.g 1) (.g 2) (.g 1) f) f (withG [0x40000000, 0x40400000]) (fun t => g3 t == 0x41000000) = true ∧
    runs (.fcmpp .lt 1 (.g 1) (.g 2) f) f (withG [0x3F800000, 0x40000000]) (fun t => t.my.p == 2 && t.my.lr == 0) = true := by
  decide +kernel

/-- The sign bit alone, and the zeros above an f32. -/
theorem witness_FloatResults_sign :
    let f := mX .f32
    fgives (.fneg (.g 3) (.g 1) f) f 0xFFFFFFFF7F800001 0 0xFF800001 0 = true ∧ fgives (.fabs (.g 3) (.g 1) f) f 0xFF800001 0 0x7F800001 0 = true ∧
    fgives (.fneg (.g 3) (.g 1) (mX .f64)) (mX .f64) 0 0 0x8000000000000000 0 = true := by decide +kernel

/-- Every bf16 of exponent 127 that is no NaN: 1.5 and 1.9921875, and minus zero. -/
theorem witness_ExactValuesRoundToThemselves :
    ElTy.bf16 ∈ [ElTy.f64, .f32, .f16, .bf16, .e5m2, .e4m3, .e2m1] ∧ (numOf .bf16 0x3FC0).isNan = false ∧ 0x3FC0 < 2 ^ ElTy.bf16.bits ∧
    finish .bf16 .sr 7 true (numOf .bf16 0x3FC0, 0) = (0x3FC0, 0) ∧ finish .e4m3 .rup 0 false (numOf .e4m3 0x80, 0) = (0x80, 0) ∧
    finish .e2m1 .rne 0 false (numOf .e2m1 7, 0) = (7, 0) := by decide +kernel

theorem witness_FclassGivesTheClass :
    let f := mX .f32
    let c (x : Word) (n : Nat) : Bool := fgives (.fclass (.g 3) (.g 1) f) f x 0 (BitVec.ofNat 64 (2 ^ n)) 0
    c 0xFF800000 0 ∧ c 0xBF800000 1 ∧ c 0x80000001 2 ∧ c 0x80000000 3 ∧ c 0 4 ∧ c 1 5 ∧ c 0x3F800000 6 ∧ c 0x7F800000 7 ∧ c 0x7F800001 8 ∧
    c 0x7FC00000 9 ∧ fgives (.fclass (.g 3) (.g 1) (mX .f64)) (mX .f64) 0xFFF0000000000000 0 1 0 = true := by decide +kernel

/-- 1 / 0 with the divide-by-zero trap enabled (bit 9 of FPSR): cause 0x31, three words. -/
theorem witness_FloatTrapsKeepTheDestination :
    let f := mX .f32
    let s := at_ (fun k => { k with fpsr := 0x200, tvec := 0x1000, lr := 5 }) (withG [0x3F800000, 0])
    ((s.reads f .f32 [.g 1, .g 2]).map Prod.fst = some [0x3F800000, 0]) ∧ s.my.pend = [] ∧ s.my.tvec ≠ 0 ∧ s.my.cause.getLsbD 8 = false ∧
    (finish .f32 .rne 0 false (exactDiv (numOf .f32 0x3F800000) (numOf .f32 0))).2 &&& (s.my.fpsr.extractLsb' 8 5) = 2 ∧
    runs (.fdiv (.g 3) (.g 1) (.g 2) f) f s (fun t => t.my.pc == 0x1000 && t.my.epc == s.my.pc && t.my.cause == 0x3131 && t.my.lr == 5 &&
      t.my.fpsr == 0x202 && g3 t == 0) = true := by decide +kernel

/-! ### Control flow (R300 to R303), frames (R301, R302), causes (R209, R211, R198) -/

/-- The PC after an instruction. -/
def goes (i : Instr) (s : State) (pc : Nat) : Bool := runs i mW s (fun t => t.my.pc == BitVec.ofNat 64 (ownBase + pc))

theorem witness_TransfersMoveThePc :
    let target := BitVec.ofNat 64 (ownBase + 0x400)
    let s := withG [target, 2, 1]
    goes (.br 0xFFFF8 true 1 mW) s 0x1E0 ∧ goes (.br 0xFFFF8 false 1 mW) s 0x204 ∧ goes (.jmp 4 mW) s 0x210 ∧
    runs (.call 4 mW) mW s (fun t => t.my.pc == BitVec.ofNat 64 (ownBase + 0x210) && t.regVal 0 0 (.g 31) == BitVec.ofNat 64 (ownBase + 0x204)) ∧
    (s.reads mW .int [.g 1]).map Prod.fst = some [target] ∧ target.extractLsb' 0 2 = 0#2 ∧ goes (.jmpr (.g 1) mW) s 0x400 ∧
    runs (.callr (.g 1) mW) mW s (fun t => t.my.pc == target && t.regVal 0 0 (.g 31) == BitVec.ofNat 64 (ownBase + 0x204)) ∧
    (s.started mW).my.pending (.g 31) = false ∧
    runs (.ret mW) mW (s.setMe (s.me.gWrite (8 * 31) target)) (fun t => t.my.pc == target) ∧
    runs (.loop 0x1FFFF (.g 2) mW) mW s (fun t => t.regVal 0 0 (.g 2) == 1 && t.my.pc == BitVec.ofNat 64 (ownBase + 0x1FC)) ∧
    runs (.loop 0x1FFFF (.g 3) mW) mW s (fun t => g3 t == 0 && t.my.pc == BitVec.ofNat 64 (ownBase + 0x204)) := by decide +kernel

/-- ENTER #32 with sp at 0x1000 of the scratchpad stores lk at 0xFF8 and fp at 0xFF0. -/
theorem witness_FramesAreBuiltAndRestored :
    let top := BitVec.ofNat 64 (ownBase + 0x1000)
    let regs (s : State) : State := s.setMe (((s.me.gWrite (8 * 30) top).gWrite (8 * 31) 0x77).gWrite (8 * 29) 0x66)
    let s := regs s0
    let e := Instr.enter 2 mW
    ((s.reads mW .int [.g 30, .g 31, .g 29]).map Prod.fst = some [top, 0x77, 0x66]) ∧ s.flight = [] ∧
    runs e mW s (fun t => t.me.scr.read 0xFF8 8 == 0x77 && t.me.scr.read 0xFF0 8 == 0x66 && t.regVal 0 0 (.g 29) == top - 16 &&
      t.regVal 0 0 (.g 30) == top - 48 && t.my.lr == 0) = true ∧
    runs e mW (at_ (fun k => { k with slim := top }) s) (fun t => t.my.st == .halted && t.my.cause == 0x40 && t.my.faddr == top - 48) = true ∧
    runs (.leave mW) mW ((regs s0).setMe (((regs s0).me.gWrite (8 * 29) (top - 16)).scrWrite 0xFF0 16 (0x66 + 0x77 * 2 ^ 64)))
      (fun t => t.regVal 0 0 (.g 30) == top && t.regVal 0 0 (.g 31) == 0x77 && t.regVal 0 0 (.g 29) == 0x66) = true := by decide +kernel

theorem witness_CausesAreTaken :
    let s := at_ (fun k => { k with tvec := 0x1000, lr := 5, epc := 0x40 })
    let inh := at_ (fun k => { k with cause := 0x13F3 }) s
    runs (.trap 3 mW) mW s (fun t => t.my.pc == 0x1000 && t.my.epc == s.my.pc + 4 && t.my.cause == 0x11F3 && t.my.lr == 5) = true ∧
    runs (.eret mW) mW inh (fun t => t.my.pc == 0x40 && t.my.cause == 0x12F3) = true ∧
    runs (.eret mW) mW s (fun t => t.my.cause.extractLsb' 0 8 == 3#8 && t.my.st == .halted && t.my.epc == 0x40) = true ∧
    runs (.nop mW) mW s (fun t => t.my.pc == s.my.pc + 4) = true := by decide +kernel

theorem witness_CausesAreTaken_halts :
    let s := at_ (fun k => { k with cause := 0x1200, epc := 0x40 })
    let rec_ (c : Nat) (pc : Word) : HaltRec := ⟨BitVec.ofNat 64 (0x10000 + 0x100 + c), pc, 0, 0⟩
    s.my.pend = [] ∧ s.regF (Pf.hltStat 0) 0 48 = 1 ∧
    runs (.halt mW) mW s (fun t => t.my.hrec == rec_ 0xA1 (s.my.pc + 4) && t.my.st == .halted && t.my.cause == 0x12A1) = true ∧
    runs (.bkpt mW) mW s (fun t => t.my.hrec == rec_ 0x90 s.my.pc && t.my.faddr == 0xFF) = true ∧
    after (.illegalEncoding 0x01 0) s (fun t => t.my.hrec == rec_ 1 s.my.pc && t.my.pc == s.my.pc) = true ∧
    (s.my.tvec = 0 ∧ runs (.trap 3 mW) mW s (fun t => t.my.hrec == rec_ 0xF3 (s.my.pc + 4)) = true) ∧
    runs (.bkpt mW) mW (at_ (fun k => { k with pass := true })) (fun t => t.my.st == .live && t.my.pc == s.my.pc + 4) = true := by
  decide +kernel

/-! ### Helpers, requests, pauses, system registers (R304 to R316) -/

/-- A second workspace at 0x400 whose latch words hold a PC and lr. -/
def withWs : State := s0.setMe ((s0.me.scrWrite 0x550 8 (ownBase + 0x800)).scrWrite 0x540 8 0x99)

theorem witness_HelpersRequestsAndPauses :
    let ws := BitVec.ofNat 64 (ownBase + 0x400)
    let entry := BitVec.ofNat 64 (ownBase + 0x300)
    let s := withG [entry, ws] withWs
    let i := Instr.hstart (.g 3) (.g 1) (.g 2) mW
    s.me.legalWs ws = true ∧ (∀ y < 11, s.me.holds y = true → (s.me.ctx y).wsp ≠ ws) ∧ (s.me.ctx 1).st = .free ∧
    runs i mW s (fun t => g3 t == 1 && (t.ctx 0 1).st == .live && (t.ctx 0 1).pc == entry && (t.ctx 0 1).lr == 0x99) = true ∧
    runs i mW (withG [entry, s.my.wsp]) (fun t => t.my.cause == 0x41) = true ∧
    runs i mW (withG [entry + 1, ws]) (fun t => t.my.cause == 0x05 && t.my.faddr == entry + 1) = true ∧
    runs i mW ((List.range 10).foldl (fun t x => t.setCtx 0 (x + 1) { st := .live, wsp := s.my.wsp }) s) (fun t => t.my.cause == 0x42) = true ∧
    runs (.hjoin (.g 3) (.g 1) mW) mW (withG [5]) (fun t => g3 t == 0) = true ∧
    runs (.hjoin (.g 3) (.g 1) mW) mW ((withG [5]).setCtx 0 5 { lastWs := some (withG [5]).my.wsp }) (fun t => g3 t == 0) = true ∧
    after (.hexit mW) { s0.setCtx 0 2 { ctx0 with wsp := ws } with cur := (0, 2) } (fun t => (t.ctx 0 2).st == .free && (t.ctx 0 2).lastWs == some ws &&
      t.ctx 0 0 == ctx0) = true ∧
    runs (.hexit mW) mW s0 (fun t => t.my.st == .free) = true := by decide +kernel

theorem witness_HelpersRequestsAndPauses_requests :
    let s := withG [0x10007, 9]
    let full := s.setPart 0 { svc := List.replicate 64 ⟨1, 0, 0, 0, 0, []⟩, svcSeq := 70 }
    runs (.sysc (.g 3) (.g 1) (.g 2) mW) mW s (fun t => g3 t == 1 && ((t.part 0).svc.map (fun r => (r.code, r.arg))) == [(7, 9)] &&
      (t.part 0).svcSeq == 2) = true ∧
    runs (.sysc (.g 3) (.g 1) (.g 2) mW) mW full (fun t => g3 t == 0x8000000000000000 && t.parts == full.parts) = true ∧
    runs (.sysc (.g 3) (.g 1) (.g 2) mW) mW (s.setPart 0 { svcLast := (0, 5) }) (fun t => (t.part 0).svc == [] && t.my.pc == s.my.pc) = true ∧
    runs (.yield (.g 1) mW) mW s (fun t => t.my.delayTo == 65536 && !({ t with cyc := 65535 } : State).mayIssue 0 0) = true ∧
    s.tracing 0 = false ∧ (∀ p < 8, (s.reg (Pf.snd p 0)).getLsbD 63 = false) ∧
    runs (.prog (.g 1) mW) mW s (fun t => t.my.pc == s.my.pc + 4 && t.my.lr == 0) = true ∧
    runs (.trace (.g 1) mW) mW s (fun t => t.my.pc == s.my.pc + 4 && (t.core 0).trace == []) = true := by decide +kernel

theorem witness_SystemRegisters_identity :
    let s := withG [0, 1, 2, 3, 4, 5, 6]
    let r (i : Nat) (v : Word) : Bool := runs (.mcrd (.g 3) (.g (BitVec.ofNat 5 (i + 1))) mW) mW s (fun t => g3 t == v)
    let far : State := { s0 with cores := [(1023, core0)], cur := (1023, 0) }
    runs (.cid (.g 3) mW) mW far (fun t => t.regVal 1023 0 (.g 3) == 0x7FFC3FF) = true ∧
    r 0 0x960 ∧ r 1 4000 ∧ r 2 0x100040 ∧ r 3 0xFFFF ∧ r 4 0 ∧ r 5 1 ∧ r 6 0 := by decide +kernel

theorem witness_SystemRegisters :
    let s := at_ (fun k => { k with slim := 0x50, tvec := 0x1000, epc := 3, cause := 0x1105, faddr := 4, fpsr := 1 }) (withG [0x40, 0x51, 0x1001, 0x20])
    let rd (r : Sr) (v : Word) : Bool := runs (.srd (.g 3) r mW) mW s (fun t => g3 t == v)
    let wr (r : Sr) (n : BitVec 5) (f : Ctx → Bool) : Bool := runs (.swr r (.g n) mW) mW s (fun t => f t.my && t.my.lr == 0)
    let traps (r : Sr) (n : BitVec 5) (c : Word) : Bool := runs (.swr r (.g n) mW) mW s (fun t => t.my.st == .halted && (t.my.cause &&& 0xFF) == c)
    rd .wsp s.my.wsp ∧ rd .slim 0x50 ∧ rd .tvec 0x1000 ∧ rd .epc 3 ∧ rd .cause 0x1105 ∧ rd .faddr 4 ∧ rd .fpsr 1 ∧ rd .seed 0x2545F491 ∧ rd .cyc 0 ∧
    rd .gang 0 ∧ rd .tcbi 0 ∧ s.vecBusy 0 0 = false ∧
    wr .slim 1 (fun k => k.slim == 0x40) ∧ wr .tvec 1 (fun k => k.tvec == 0x40) ∧ wr .epc 3 (fun k => k.epc == 0x1001) ∧ wr .faddr 1 (fun k => k.faddr == 0x40) ∧
    wr .cause 4 (fun k => k.cause == 0x1120) ∧ wr .seed 5 (fun k => k.seed == 0x2545F491) ∧
    wr .fpsr 5 (fun k => k.fpsr == 0) ∧
    traps .wsp 1 3 ∧ traps .cyc 1 3 ∧ traps .gang 1 3 ∧ traps .tcbi 1 3 ∧ traps .slim 2 3 ∧ traps .tvec 3 5 ∧ traps .fpsr 4 2 := by decide +kernel

/-- The coroutine of R309: the new workspace's PC and lr are taken, and the old pointer is its result. -/
theorem witness_WorkspacesQueuesAndTlbs :
    let ws := BitVec.ofNat 64 (ownBase + 0x400)
    let s := withG [ws, 0x123] withWs
    s.me.legalWs ws = true ∧
    runs (.wspx (.o 2) (.g 1) mW) mW s (fun t => t.my.wsp == ws && t.my.pc == BitVec.ofNat 64 (ownBase + 0x800) && t.my.lr == s.my.wsp &&
      t.my.o.get 2 == s.my.wsp && t.me.scr.read 0x150 8 == ownBase + 0x204) = true ∧
    runs (.wspx (.o 2) (.g 2) mW) mW s (fun t => t.my.cause == 0x41 && t.my.faddr == 0x123 && t.my.st == .halted) = true := by decide +kernel

theorem witness_WorkspacesQueuesAndTlbs_rest :
    let s := (withG [0x1FFFF, ownBase + 8]).setMe { (withG [0x1FFFF, ownBase + 8]).me.setQ 3 { ents := [⟨1, some 5⟩, ⟨9, none⟩] } with tlb := [tlbA, tlbB] }
    runs (.qstat (.g 3) 3 mW) mW s (fun t => g3 t == 0x12 && (t.me.q 3).count == 2) = true ∧
    runs (.qflush 3 mW) mW s (fun t => (t.me.q 3).ents == [] && (t.me.q 3).discard == [9]) = true ∧
    runs (.tlbi (.g 1) mW) mW s (fun t => t.me.tlb == [tlbB]) = true ∧ (s.die 0).walks = [] ∧
    runs (.tlbi (.g 2) mW) mW s (fun t => t.me.tlb == [tlbA, tlbB]) = true := by decide +kernel


/-- A store under way that no target has acknowledged. -/
def storing (s : State) : State := { s with flight := [{ id := 7, core := 0, ctx := 0, op := .write 0, locs := [(.die 0 0, 8)] }] }

/-- HALT waits for the release that its record is, and is recorded at the context's next turn after that; HEXIT of a helper waits for its reads; a
guarded-off write of WSP raises 0x03. -/
theorem witness_CausesAreTaken_awaits :
    let s := { storing s0 with agenda := [.issue 0 0] }
    let done (t : State) : State := { t.setMy { t.my with block := [] } with flight := [] }
    runs (.halt mW) mW s (fun t => t.my.st == .live && t.my.halting == some (0xA1, s.my.pc + 4, none) && t.my.block == [7] && t.my.cause == 0xA1 &&
      (match step (done t) with
       | .next u => u.my.st == .halted && u.my.hrec == ⟨0x101A1, s.my.pc + 4, 0, 0⟩
       | _ => false)) = true ∧
    (let h : State := { s0.setCtx 0 2 { ctx0 with wsp := BitVec.ofNat 64 (ownBase + 0x400) } with cur := (0, 2) }
     let r : State := { h with flight := [{ id := 7, core := 0, ctx := 2, op := .read, locs := [(.die 0 0, 8)] }] }
     runs (.hexit mW) mW r (fun t => t.my.st == .live && t.my.doing == some (.hexit mW) && t.my.block == [7]) = true) ∧
    (let m := { mX with gen := true, gpred := 1, gsense := false }
     s0.my.guardOn m = false ∧
     after (.swr .wsp (.g 1) m) s0 (fun t => t.my.st == .halted && t.my.cause == 0x03) = true) := by decide +kernel
/-! ### Loads, stores and atomics of the own scratchpad (R128, R322, R327) -/

/-- g1 holds the address of offset 0x800, g2 a value, and the scratchpad there 0x8000_0001_FFFF_FF85. -/
def mem (v : Word := 0) : State := withG [BitVec.ofNat 64 (ownBase + 0x800), v] (s0.setMe (s0.me.scrWrite 0x800 8 0x80000001FFFFFF85))

theorem witness_OwnScratchpadAccesses_loads :
    let s := mem 4
    let ld (z : Sz) (i : BitVec 7) (v : Word) : Bool := runs (.ld (.g 3) (.g 1) z i mW) mW s (fun t => g3 t == v && t.my.lr == v && t.flight == [])
    s.flight = [] ∧ s.me.scratch ≤ 256 ∧ 0x800 + 8 ≤ s.me.top ∧ (s.reads mW .int [.g 1]).map Prod.fst = some [BitVec.ofNat 64 (ownBase + 0x800)] ∧
    ld .i8 0 0xFFFFFFFFFFFFFF85 ∧ ld .n8 0 0x85 ∧ ld .i16 1 0xFFFFFFFFFFFFFFFF ∧ ld .n32 1 0x80000001 ∧ ld .i64 0 0x80000001FFFFFF85 ∧ ld .n8 0x7F 0 ∧
    runs (.ldx .n32 (.g 3) (.g 1) (.g 2) mW) mW s (fun t => g3 t == 0x80000001) = true ∧
    runs (.lda (.g 3) (.g 1) .i32 1 .dev mW) mW s (fun t => g3 t == 0xFFFFFFFF80000001) = true ∧
    runs (.ld (.g 3) (.g 1) .n32 0 { mX with imm32 := 0xF7FD }) { mX with imm32 := 0xF7FD } s (fun t => t.my.cause == 0x15 && t.my.st == .halted &&
      t.my.faddr == BitVec.ofNat 64 (ownBase + 0xFFFD)) = true := by decide +kernel

theorem witness_OwnScratchpadAccesses_stores :
    let s := withG [BitVec.ofNat 64 (ownBase + 0x800), 4, 0x1122334455667788]
    let a (t : State) (off n : Nat) : Nat := t.me.scrRead true off n
    runs (.st (.g 3) (.g 1) .i32 1 mW) mW s (fun t => a t 0x804 4 == 0x55667788 && a t 0x808 4 == 0 && t.my.lr == 0) = true ∧
    runs (.stx .n16 (.g 3) (.g 1) (.g 2) mW) mW s (fun t => a t 0x804 4 == 0x7788) = true ∧
    s.me.vmIds 0 = [] ∧ runs (.stl (.g 3) (.g 1) .i64 0 .ctx mW) mW s (fun t => a t 0x800 8 == 0x1122334455667788) = true ∧
    runs (.stl (.g 3) (.g 1) .n8 0 .core mW) mW s (fun t => a t 0x800 8 == 0x88 && t.my.lr == 0) = true := by decide +kernel

/-- STL to the own scratchpad behind a store that is not acknowledged leaves as an access that follows it. -/
theorem witness_OwnScratchpadAccesses_awaits :
    let s : State := { (withG [BitVec.ofNat 64 (ownBase + 0x800), 4, 0x55]) with
      flight := [{ id := 7, core := 0, ctx := 0, op := .write 0, locs := [(.die 0 0, 8)] }] }
    runs (.stl (.g 3) (.g 1) .n8 0 .dev mW) mW s (fun t =>
      t.flight.map (fun a => (a.op, a.locs, a.after)) == [(.write 0, [(.die 0 0, 8)], []), (.write 0x55, [(.scr 0 0x800, 1)], [7])] &&
      t.me.scrRead true 0x800 1 == 0) = true := by decide +kernel

/-- A store of two bytes over a cached g word and one that is not, and what an ADD leaves. -/
theorem witness_Frames :
    let c := (withG [0x1111111111111111]).me
    let d := c.scrWrite 14 4 0xAABBCCDD
    c.scr.wf = true ∧ (c.mf.map MfEntry.addr).Nodup ∧ d.scrRead true 14 4 = 0xAABBCCDD ∧ d.gWord 8 = 0xCCDD111111111111 ∧ d.gWord 16 = 0xAABB ∧
    d.scrRead true 13 1 = 0x11 ∧
    (let s := withG [1, 2, 3]
     s.me.scr.wf = true ∧ s.me.legalWs s.my.wsp = true ∧
     runs (.add (.g 3) (.g 1) (.g 2) mW) mW s (fun t => t.regVal 0 0 (.g 1) == 1 && t.regVal 0 0 (.g 2) == 2 && t.my.lr == 3 && t.hbm == s.hbm) = true) := by
  decide +kernel

theorem witness_AtomicsOnTheOwnScratchpad :
    let s := withG [BitVec.ofNat 64 (ownBase + 0x800), 5, 0, 9] (s0.setMe (s0.me.scrWrite 0x800 8 0xFFFFFFFE))
    let i := mX .i32
    let n := mX .n32
    let at0 (t : State) : Nat := t.me.scrRead true 0x800 8
    let k (ins : Instr) (m : Mods) (old : Word) (new : Nat) : Bool := runs ins m s (fun t => g3 t == old && t.my.lr == old && at0 t == new)
    s.flight = [] ∧ 0x800 + 8 ≤ s.me.top ∧
    k (.aadd (.g 3) (.g 1) (.g 2) i) i 0xFFFFFFFFFFFFFFFE 3 ∧ k (.aand (.g 3) (.g 1) (.g 2) i) i 0xFFFFFFFFFFFFFFFE 4 ∧
    k (.aor (.g 3) (.g 1) (.g 2) n) n 0xFFFFFFFE 0xFFFFFFFF ∧ k (.axor (.g 3) (.g 1) (.g 2) n) n 0xFFFFFFFE 0xFFFFFFFB ∧
    k (.amin (.g 3) (.g 1) (.g 2) i) i 0xFFFFFFFFFFFFFFFE 0xFFFFFFFE ∧ k (.amin (.g 3) (.g 1) (.g 2) n) n 0xFFFFFFFE 5 ∧
    k (.amax (.g 3) (.g 1) (.g 2) i) i 0xFFFFFFFFFFFFFFFE 5 ∧ k (.aswp (.g 3) (.g 1) (.g 2) n) n 0xFFFFFFFE 5 ∧
    k (.acas (.g 3) (.g 1) (.g 2) (.g 4) n) n 0xFFFFFFFE 0xFFFFFFFE ∧ k (.acas (.g 3) (.g 1) (.imm 0x1E) (.g 4) i) i 0xFFFFFFFFFFFFFFFE 9 := by
  decide +kernel

/-- 1.5 + 2.0 in f32, and the old word comes back. -/
theorem witness_AtomicsOnTheOwnScratchpad_float :
    let f := mX .f32
    let s := withG [BitVec.ofNat 64 (ownBase + 0x800), 0x40000000] (s0.setMe (s0.me.scrWrite 0x800 4 0x3FC00000))
    s.flight = [] ∧ runs (.afadd (.g 3) (.g 1) (.g 2) f) f s (fun t => g3 t == 0x3FC00000 && t.me.scrRead true 0x800 4 == 0x40600000) = true := by
  decide +kernel

theorem witness_WaitaReturnsTheFirstDifferentValue :
    let i := Instr.waita .i32 (.g 3) (.g 1) (.g 2) .zr mW
    let poll (k : Ctx) : Ctx := { k with wait := some { on := .poll, limit := 5, elapsed := 5, expired := true } }
    let s := mem 0xFFFFFF85
    s.flight = [] ∧ runs i mW (mem 7) (fun t => g3 t == 0xFFFFFFFFFFFFFF85 && t.my.wait.isNone) = true ∧
    runs i mW s (fun t => t.my.wait.map Wait.on == some .poll && t.my.pc == s.my.pc) = true ∧
    (let v := at_ (fun k => { poll k with doing := some i, held := [BitVec.ofNat 64 (ownBase + 0x800), 0xFFFFFF85] }) s
     v.GoesOn i [BitVec.ofNat 64 (ownBase + 0x800), 0xFFFFFF85] ∧
     after i v (fun t => g3 t == 0xFFFFFFFFFFFFFF85 && t.my.lr == 0xFFFFFFFFFFFFFF85 && t.my.doing.isNone && t.my.pc == v.my.pc + 4) = true) ∧
    runs (.waita .i64 (.g 3) (.g 1) (.g 2) .zr mW) mW (withG [0xFF00000400000000, 0]) (fun t => t.my.cause == 0x11) = true := by decide +kernel

/-! ### Accesses that leave the core (R132, R137, R139), the L1 and the TLB (R133, R143, R323) -/

/-- The states after three steps. -/
def three (i j k : Instr) (s : State) (f : State → State → State → Bool) : Bool :=
  after i s (fun a => after j a (fun b => after k b (fun c => f a b c)))

/-- Core 1 stands in the same octet, and its scratchpad holds 0x1234 at offset 0x40: its mesh address is the window's base + 1 MiB + 0x40. -/
theorem witness_AccessesBeyondTheCore_load :
    let far : Core := { scratch := 64, scr := Mem.write [] 0x40 8 0x1234 }
    let s : State := (withG [0xFF00001000100040]).setCore 1 far
    let i := Instr.ld (.g 3) (.g 1) .n32 0 mW
    s.Issues i mW ∧ s.flight = [] ∧ s.my.pend = [] ∧ (s.core 1).moving = false ∧ s.linkBusy 0 1 = false ∧
    decide (s.classify 0 0xFF00001000100040 4 matches .ok (.mesh 1 0x40)) = true ∧
    three i (.meshAccessArrival s.nextId) (.accessResponseReturn s.nextId) s (fun a _ c => a.my.pending (.g 3) && g3 c == 0x1234 && c.my.lr == 0x1234 &&
      c.my.pend == [] && c.flight == []) = true := by decide +kernel

theorem witness_AccessesBeyondTheCore_store :
    let s : State := withG [0xFF00000200000100, 0, 0xAABBCCDD]
    let i := Instr.st (.g 3) (.g 1) .n32 0 mW
    s.Issues i mW ∧ s.flight = [] ∧ (s.die 0).scr.wf = true ∧ decide (s.classify 0 0xFF00000200000100 4 matches .ok (.die 0 0x100)) = true ∧
    three i (.memoryAccessArrival s.nextId) (.accessResponseReturn s.nextId) s (fun a b c => (a.die 0).scr == [] && (b.die 0).scr.read 0x100 8 == 0xAABBCCDD &&
      c.flight == []) = true := by decide +kernel

/-- A machine whose TLB holds an RC page with every permission, reach to stack 0 (the reset value), key 0 loaded, and the task pool elsewhere. -/
def paged (vs : List Word) : State :=
  let s := (withG vs).setReg (Pf.chr 0 0) 0x10000000
  s.setMe { s.me with tlb := [tlbA] }

theorem witness_CachesAndTranslatedStores_store :
    let s := paged [0x10010, 0, 0x55]
    let i := Instr.st (.g 3) (.g 1) .n32 1 mW
    s.Issues i mW ∧ s.flight = [] ∧ s.me.fifo.length < 60 ∧ tlbFind s.me.tlb (s.homePart 0) 0x10014 = some tlbA ∧ s.pageCause tlbA .w 0x10014 4 = none ∧
    s.pageCause tlbA .r 0x10014 4 = none ∧ s.ecc = [] ∧ s.checkpointed 0 = false ∧
    after i s (fun t => t.me.l1.map (fun l => (l.pa, l.dirty)) == [(0x20000, 0xF00000)] && t.hbm == [] &&
      okWith (load 0x10014 4 (.size .n32) none false) t (fun v _ => match v with | .val x => x == 0x55 | _ => false)) = true := by decide +kernel

theorem witness_CachesAndTranslatedStores_maintenance :
    let l : L1Line := ⟨0, 0x20000, 0, 7, BitVec.allOnes 64, 1, .rc, false⟩
    let s := (paged [0x10010]).setMe { (paged [0x10010]).me with l1 := [l], fifo := [0x20000] }
    let k (i : Instr) (f : State → Bool) : Bool := runs i mW s (fun t => f t && t.my.lr == 0)
    s.tlbLook 0 (s.homePart 0) 0x10000 = some tlbA ∧ tlbA.allows .rw = true ∧ s.keyLoaded 0 0 = true ∧ l1Find s.me.l1 0x20000 = some l ∧ s.inPool 0 0x10000 64 = false ∧
    k (.pref (.g 1) .zr mW) (fun t => t.flight == []) ∧
    k (.cwb (.g 1) .zr mW) (fun t => t.flight.map Access.op == [.wb 7 1] && t.me.l1.map L1Line.dirty == [0] && t.me.fifo == []) ∧
    k (.cinv (.g 1) .zr mW) (fun t => t.flight.map Access.op == [.wb 7 1] && t.me.l1 == []) ∧
    k (.cdisc (.g 1) .zr mW) (fun t => t.flight.map Access.op == [.zero] && t.me.l1 == []) ∧
    k (.czero (.g 1) .zr mW) (fun t => t.flight.map Access.op == [.zero] && t.me.l1 == []) := by decide +kernel

/-! ### Barriers (R329 to R332) -/

/-- A barrier word: contexts 0 and 2 of core 0. -/
def bar02 : Word := 0x50000

theorem witness_Barriers :
    let s := ganged (withG [bar02])
    let bound (b : Barrier) : State := s0.setMe (s0.me.setBar 5 b)
    let b0 : Barrier := { desc := some bar02 }
    let waits (f : Wait → Wait) (s : State) : State := at_ (fun k => { k with wait := some (f { on := .barrier 5, limit := 9 }) }) s
    let i := Instr.bwait (.g 3) 5 .zr mW
    (barRect bar02).aligned = true ∧ (barRect bar02).has 0 = true ∧ bar02.extractLsb' 27 37 = 0#37 ∧
    runs (.binit 5 (.g 1) mW) mW s (fun t => (t.me.bar 5).desc == some bar02) = true ∧
    runs (.barr 5 mW) mW (bound b0) (fun t => (t.me.bar 5).waiting == [0] && t.noc.map NocItem.m == [.barArrive 5 bar02 0 0]) = true ∧
    runs (.barr 5 mW) mW s0 (fun t => t.my.cause == 0x50 && t.my.faddr == 5) = true ∧
    runs (.barw (.g 3) 5 .zr mW) mW (bound { b0 with desc := some 0x40000 }) (fun t => t.my.cause == 0x50) = true ∧
    runs (.barr 5 mW) mW (bound { b0 with waiting := [0] }) (fun t => t.my.cause == 0x50) = true ∧
    runs i mW (bound b0) (fun t => g3 t == 0 && t.my.pc == s0.my.pc + 4) = true ∧
    runs i mW (bound { b0 with waiting := [0] }) (fun t => t.my.wait.map Wait.on == some (.barrier 5) && t.my.pc == s0.my.pc) = true ∧
    runs (.barw (.g 3) 5 .zr mW) mW (bound b0) (fun t => (t.me.bar 5).waiting == [0] && t.noc.map NocItem.m == [.barArrive 5 bar02 0 0] &&
      t.my.wait.map Wait.arrived == some true && t.my.doing.isSome) = true ∧
    goesOn i [] (waits (fun w => { w with arrived := true, expired := true }) (bound { b0 with waiting := [0] })) (fun t => g3 t == 1) = true ∧
    goesOn (.barw (.g 3) 5 .zr mW) [] (waits (fun w => { w with arrived := true }) (bound b0)) (fun t => g3 t == 0 && t.my.wait.isNone) = true ∧
    runs (.bstat (.g 3) 5 mW) mW (bound { seen := 3 }) (fun t => g3 t == 0x300000000) = true ∧
    runs (.bstat (.g 3) 5 mW) mW (bound { b0 with waiting := [0], seen := 2, counted := [(0, 0)] }) (fun t => (g3 t).extractLsb' 32 19 == 0x50002) = true := by
  decide +kernel

theorem witness_Barriers_complete :
    let s (c : List (Nat × Nat)) (m : NocMsg) (r : AMap Rose) : State :=
      { s0.setMe { s0.me.setBar 5 { desc := some bar02, waiting := [0], counted := c } with roses := r } with noc := [⟨7, m, [], 0, some 3, none⟩], cyc := 6 }
    let home : Rose := { bound := true, slots := 4, barrier := 5, needle := 3 }
    3 ≤ (s [] (.barArrive 5 bar02 0 0) []).mesh ∧
    after (.barrierArrival 7) (s [] (.barArrive 5 bar02 0 0) []) (fun t => (t.me.bar 5).counted == [(0, 0)] && t.noc == []) = true ∧
    after (.barrierArrival 7) (s [(0, 0)] (.barArrive 5 bar02 0 2) []) (fun t => (t.me.bar 5).counted == [] &&
      t.noc.map NocItem.m == [.barRelease 5 bar02 0]) = true ∧
    after (.barrierArrival 7) (s [] (.barArrive 5 0x10000 0 0) []) (fun t => (t.me.bar 5).held == [(0x10000, 0, 0)]) = true ∧
    after (.barrierRelease 7) (s [] (.barRelease 5 bar02 0) [(1, home), (2, { home with barrier := 6 })]) (fun t => (t.me.bar 5).waiting == [] &&
      (t.me.bar 5).seen == 1 && (t.me.rose 1).needle == 0 && (t.me.rose 1).lap == 1 && (t.me.rose 2).needle == 3) = true := by decide +kernel

/-! ### Rose regions (R148 to R154) -/

/-- A record at offset 0x800: LEAD 1, barrier 5, 4 slots of 64 bytes, and d3. -/
def roseRec (base d3 : Nat) (lead : Nat := 1) : State :=
  withG [BitVec.ofNat 64 (ownBase + 0x800)] (s0.setMe (s0.me.scrWrite 0x800 32
    (base + (lead * 2 ^ 48 + (if lead = 0 then 0 else 5 * 2 ^ 40) + 4 * 2 ^ 32 + 64) * 2 ^ 64 + d3 * 2 ^ 192)))

theorem witness_RoseRegions :
    let s := roseRec (ownBase + 0x2000) 0
    let home : Rose := { bound := true, base := 0x2000, slots := 4, slotbytes := 64, lead := 1, needle := 3, lap := 5, gen := 9 }
    let v := (roseRec 0xFF00000100082000 0x12 0).setCore 1 { scratch := 64, roses := [(2, { home with slots := 4 })] }
    let w (off : Nat) : Word := BitVec.ofNat 64 (0xFF00000300100000 + off)
    let on (off : Nat) (r : Rose) : State := withG [w off, 0, 0x77] (s0.setMe ((s0.me.setRose 1 r).scrWrite 0x2044 4 0xABCD))
    let ld := Instr.ld (.g 3) (.g 1) .n32 0 mW
    okWith (ctxRead (ownBase + 0x800) 32) s (fun bs _ => bs.length == 32) = true ∧
    runs (.roseb 1 (.g 1) mW) mW s (fun t => (t.me.rose 1) == { bound := true, base := 0x2000, lead := 1, barrier := 5, slots := 4, slotbytes := 64, gen := 1 }) = true ∧
    runs (.roseb 1 (.g 1) mW) mW v (fun t => (t.me.rose 1).view && (t.me.rose 1).hcore == 1 && (t.me.rose 1).hregion == 2 && (t.me.rose 1).hgen == 9) = true ∧
    runs (.roseq (.g 3) 1 mW) mW (on 0 home) (fun t => g3 t == 0x1300000005) = true ∧ runs (.roseq (.g 3) 1 mW) mW s0 (fun t => g3 t == 0) = true ∧
    runs (.rosex 1 mW) mW (on 0 home) (fun t => !(t.me.rose 1).bound) = true ∧
    decide ((on 0x84 home).classify 0 (w 0x84).toNat 4 matches .ok (.rose 1 0x84)) = true ∧
    runs ld mW (on 0x84 home) (fun t => g3 t == 0xABCD) = true ∧ runs ld mW (on 0x100 home) (fun t => t.my.cause == 0x52) = true ∧
    runs ld mW (on 0x7E home) (fun t => t.my.cause == 0x52) = true ∧ runs ld mW (on 0 {}) (fun t => t.my.cause == 0x53) = true ∧
    runs (.st (.g 3) (.g 1) .n32 0 mW) mW (on 0x80 home) (fun t => t.my.cause == 0x51) = true := by decide +kernel

/-! ### Messages (R173 to R178, R334 to R336) -/

/-- MSEND word: core 1, mailbox 3, LEN 8, format 0; and a grant of 2 allowances of 64 bytes. -/
def msgWord : Word := 0x20C01
def granted (s : State) : State := s.setMe { s.me with grants := [(19, ⟨4, 64, 2⟩)] }

theorem witness_MessagesAreSentAndTravel :
    let s := granted (withG [msgWord, BitVec.ofNat 64 (ownBase + 0x800), 0x1122334455667788])
    let hdr : Word := 8 * 2 ^ 14 + 3 * 2 ^ 10
    let pay : List Byte := [0x88, 0x77, 0x66, 0x55, 0x44, 0x33, 0x22, 0x11]
    let sent (data : List Byte) (t : State) : Bool := t.me.sendq == [.msg 1 3 hdr data []] && t.my.lr == 0
    s.reach 0 (partOf 1) = true ∧ AMap.get? s.me.grants 19 = some ⟨4, 64, 2⟩ ∧ winOf (ownBase + 0x800) = some (0, 0x800) ∧
    runs (.msendr (.g 3) (.g 1) .zr mW) mW s (sent pay) = true ∧
    runs (.msendr (.g 3) (.g 1) .zr mW) mW (withG [msgWord, 0, 0]) (fun t => t.my.cause == 0x80 && t.my.faddr == 3) = true ∧
    runs (.msend (.g 1) (.g 2) mW) mW (s.setMe (s.me.scrWrite 0x800 8 0x1122334455667788)) (sent pay) = true ∧
    runs (.msend (.g 4) (.g 2) mW) mW (s.setMe (s.me.gWrite 32 0xC01)) (fun t => t.me.sendq == [.msg 1 3 (3 * 2 ^ 10) [] []]) = true := by decide +kernel

theorem witness_MessagesAreSentAndTravel_travel :
    let g : Grant := ⟨4, 64, 2⟩
    let msg : Msg := { hdr := 0x20C00, data := [1, 2, 3, 4, 5, 6, 7, 8], src := 0, gen := 4 }
    let s (m : NocMsg) : State := { granted s0 with noc := [⟨7, m, [], 0, some 3, none⟩], cyc := 6 }
    let q := (granted s0).setMe { (granted s0).me with sendq := [.msg 1 3 0x20C00 [1] []] }
    let boxed (b : Mailbox) (s : State) : State := s.setCore 1 { ctxs := (Vector.replicate 11 {}).set 0 { st := .live, block := [77] }, mboxes := [(3, b)] }
    q.linkBusy 0 1 = false ∧
    after (.messageSend 0) q (fun t => t.me.sendq == [] && (AMap.get? t.me.grants 19) == some { g with free := 1 } &&
      t.noc.map NocItem.due == [some 1]) = true ∧
    after (.messageArrival 7) (boxed { word := some 0 } (s (.msg 1 3 msg))) (fun t => ((t.core 1).mbox 3).msgs == [msg] && t.noc == [] &&
      t.reg (Pf.dbg 1 0x198) == foldDigest (foldDigest 0 0x20C00) ((crc32c msg.data).setWidth 64)) = true ∧
    after (.allowanceReturn 7) (s (.allowance 0 1 3 4)) (fun t => (AMap.get? t.me.grants 19) == some { g with free := 3 }) = true ∧
    after (.mbindComplete 1) (boxed { gen := 5, rebind := some ⟨77, 0, 0x4083⟩ } s0) (fun t => ((t.core 1).mbox 3).word == some 0x4083 &&
      t.noc.map NocItem.m == [.grant 0 1 3 ⟨5, 64, 1⟩]) = true ∧
    after (.mailboxGrant 7) (boxed { rebind := some ⟨77, 0, 0x4083⟩ } (s (.grant 0 1 3 g))) (fun t => (AMap.get? t.me.grants 19) == some g &&
      (t.ctx 1 0).answer == some (0, 0) && (t.ctx 1 0).block == []) = true := by decide +kernel

theorem witness_MessagesAreReceived :
    let msg : Msg := { hdr := 0x40C00, data := [1, 0, 0, 0, 0, 0, 0, 0, 2, 0, 0, 0, 0, 0, 0, 0], src := 1, gen := 4 }
    let dest := BitVec.ofNat 64 (ownBase + 0x803)
    let box (b : Mailbox) (v : Word := dest) : State := withG [v] (s0.setMe (s0.me.setMbox 3 b))
    let full : Mailbox := { word := some 0x4083, msgs := [msg], gen := 4 }
    let i := Instr.mrecv (.g 3) (.g 1) .zr mW
    let gone (t : State) : Bool := g3 t == 0x40C00 && t.my.lr == 0x40C00 && (t.me.mbox 3).msgs == [] && t.noc.map NocItem.m == [.allowance 1 0 3 4]
    runs i mW (box full) (fun t => gone t && t.me.scrRead true 0x800 16 == 1 + 2 * 2 ^ 64) = true ∧
    runs i mW (box {}) (fun t => t.my.cause == 0x80 && t.my.faddr == 3) = true ∧
    runs i mW (box { full with msgs := [] }) (fun t => t.my.wait.map Wait.on == some (.mailbox 3) && t.my.doing == some i && t.my.held == [dest]) = true ∧
    goesOn i [dest] (at_ (fun k => { k with wait := some { on := .mailbox 3, expired := true } }) (box { full with msgs := [] })) (fun t =>
      g3 t == 0x8000000000000000) = true ∧
    goesOn i [dest] (box full) (fun t => gone t && t.me.scrRead true 0x800 16 == 1 + 2 * 2 ^ 64) = true ∧
    runs i mW (box { full with msgs := [{ msg with hdr := 0xC00, data := [] }] }) (fun t => g3 t == 0xC00 && (t.me.mbox 3).msgs == []) = true ∧
    runs (.mrecvr (.g 3) (.g 1) .zr mW) mW (box full 0x23) (fun t => gone t && (t.me.q 2).ents.map QEntry.val == [some 1, some 2]) = true ∧
    runs (.mstat (.g 3) (.g 1) mW) mW (box {} 3) (fun t => g3 t == 0) = true ∧
    runs (.mstat (.g 3) (.g 1) mW) mW (box full 3) (fun t => g3 t == 0x10801) = true ∧
    runs (.mbind (.g 1) mW) mW (box {} 0x4083) (fun t => t.my.pc == s0.my.pc && t.my.block != [] && (t.me.mbox 3).gen == 1) = true ∧
    bindOk 0x4083 = true ∧
    goesOn (.mbind (.g 1) mW) [0x4083] (at_ (fun k => { k with answer := some (0, 0) }) (box {} 0x4083)) (fun t => t.my.pc == s0.my.pc + 4) = true ∧
    after (.mbind (.g 1) mW) (at_ (fun k => { k with doing := some (.mbind (.g 1) mW), held := [0x4083], answer := some (0x81, 0) }) (box {} 0x4083))
      (fun t => t.my.cause == 0x81 && t.my.faddr == 3) = true := by decide +kernel

/-! ### Timetables (R179 to R181, R337) -/

theorem witness_TimetablePhases :
    let p : Phase := { rect := 0, ctx := 0, release := some 10 }
    let s (p : Phase) (cyc : Nat) : State := { (withG [5, 0, 0x77]).setMe { (withG [5, 0, 0x77]).me with phase := some p } with cyc := cyc }
    let w (a : Bool) (s : State) : State := at_ (fun k => { k with wait := some { on := .phase, arrived := a }, tt := some (false, 0, 5, 0) }) s
    let i := Instr.ttrecv (.g 3) (.g 1) mW
    goesOn (.ttgo (.g 2) mW) [0] (w true (s p 22)) (fun t => t.my.pc == s0.my.pc + 4) = true ∧
    runs (.ttsend (.g 3) (.g 1) mW) mW (s p 32) (fun t => t.noc.map NocItem.due == [some 17] && t.my.lr == 0) = true ∧
    runs (.ttsend (.g 3) (.g 1) mW) mW (s p 33) (fun t => t.my.cause == 0x57 && t.my.faddr == 5) = true ∧
    runs i mW (s { p with arrived := [(5, 9, false)] } 32) (fun t => g3 t == 9) = true ∧
    runs i mW (s p 32) (fun t => g3 t == 0 && t.my.lr == 0 && t.me.phase.map Phase.damage == some true) = true ∧
    goesOn (.ttsend (.g 3) (.g 1) mW) [5, 0] (at_ (fun k => { k with wait := some { on := .inject, expired := true } }) (s p 40))
      (fun t => t.my.pc == s0.my.pc + 4 && t.my.lr == 0) = true ∧
    goesOn i [5] (at_ (fun k => { k with wait := some { on := .phase, expired := true }, answer := some (0, 9) }) (s p 40)) (fun t => g3 t == 9) = true ∧
    goesOn (.ttend mW) [] (s { p with ended := true } 40) (fun t => t.me.phase.isNone) = true ∧
    runs (.ttend mW) mW (s { p with ended := true } 40) (fun t => t.me.phase.isNone) = true ∧
    runs (.ttend mW) mW (s { p with ended := true, damage := true } 40) (fun t => t.my.cause == 0x56) = true ∧
    runs (.ttq (.g 3) mW) mW (s p 32) (fun t => g3 t == 0x10005) = true ∧
    after (.timetableRelease 0) (w true (s { p with release := none } 20)) (fun t => t.me.phase.map Phase.release == some (some 10)) = true ∧
    after (.timetableEnd 0) (s { p with ending := true } 40) (fun t => t.me.phase.map Phase.ended == some true) = true ∧
    after (.timetableWordArrival 7) { s p 40 with noc := [⟨7, .ttWord ⟨1, 0, 0, 5, 0x55, false⟩, [], 0, some 19, none⟩] } (fun t =>
      t.me.phase.map Phase.arrived == some [(7, 0x55, false)]) = true ∧
    after (.timetableOffsetReached 0 0) (w false (s p 32)) (fun t => t.my.answer == some (0, 0) && t.me.phase.map Phase.damage == some true) = true := by
  decide +kernel


/- R208, mesh cycle v: context A, halted with upstream id 13 of core (1, 0), withholds the barrier until id 13 has been released. -/
theorem test_released_upstream_withholds_nothing :
    let a : State := s0.setCtx 0 0 { st := .halted, hrec := haltRec 15 0 0xA0 0 (some ⟨3, 3, false, some (1, 0, 13)⟩) }
    a.withholder [(0, 0)] = some (0, 0, 15) ∧ (a.setPart 0 { chain := [(13, 7)] }).withholder [(0, 0)] = none := by decide +kernel

/-! ### Fix objects (R182 to R196, R338) -/

theorem witness_FixInstructions :
    let s (ws : List Word) : State := fxState ws (fxBase (withG [BitVec.ofNat 64 (ownBase + 0x800)]))
    let bad (c : BitVec 8) (ws : List Word) : Bool := runs (.fxdef (.g 3) (.g 1) mW) mW (s ws) (fun t => t.my.cause == c.setWidth 64)
    let put (i : Nat) (w : Word) : List Word := fxWords.set i w
    okWith (ctxRead (ownBase + 0x800) 64) (s fxWords) (fun bs _ => BitVec.ofNat 512 (ofLeBytes bs) == fxDesc fxWords) = true ∧
    runs (.fxdef (.g 3) (.g 1) mW) mW (s fxWords) (fun t => g3 t == 0x4000 && t.me.fixObj 0 == { fxObj {} with joined := [] }) = true ∧
    bad 0x02 (put 7 1) = true ∧ bad 0x04 (put 0 0x1_1_21_0003_0004) = true ∧ bad 0x02 (put 3 0x0400) = true ∧ bad 0x02 (put 0 0x8_D_21_0003_0004) = true ∧
    runs (.fxdef (.g 3) (.g 1) mW) mW (s (put 2 (BitVec.ofNat 64 (ownBase + 0xFFC0)))) (fun t => t.my.cause == 0x15 &&
      t.my.faddr == BitVec.ofNat 64 (ownBase + 0xFFC0)) = true ∧
    runs (.fxdef (.g 3) (.g 1) mW) mW ((s fxWords).setMe { (s fxWords).me with fixes := (List.range 16).map (fun i => (i, { live := true })) })
      (fun t => t.my.cause == 0x55) = true := by decide +kernel

theorem witness_FixInstructions_members :
    let z : Fold := {}
    let fin : Fold := { tag := 3, last := some (2, 3, false), lagging := [0] }
    let lone (f : FixObj) : State := fxBase ((fxOn z (withG [0x4000, 0])).setFixObj fxH f)
    let joins := runs (.fxjoin (.g 1) mW) mW (lone { fxObj z with joined := [] }) (fun t => (t.fix fxH).map FixObj.joined == some [(0, 0, 0)])
    let w : Instr := .fxw (.g 3) (.g 1) .zr mW
    /- Two ranks have departed and one of the two pending ones is halted: c + P - H is 1, below k. -/
    let wh : State := (lone { fxObj z with departed := [3], joined := [(0, 0, 0), (1, 1, 0)] }).setCtx 1 0 { st := .halted }
    joins = true ∧
    runs (.fxjoin (.g 1) mW) mW (withG [0x4001]) (fun t => t.my.cause == 0x54 && t.my.faddr == 0x4001) = true ∧
    runs (.fxc (.g 1) (.g 2) (.imm 0) mX) mX (withG [0x4000, BitVec.ofNat 64 (ownBase + 0x800)] (lone (fxObj z))) (fun t =>
      t.me.sendq == [.fix fxH 0 0 (BitVec.ofNat 64 (ownBase + 0x800)) []]) = true ∧
    runs (.fxc (.g 2) (.g 1) (.imm 0) mX) mX (lone (fxObj z)) (fun t => t.my.cause == 0x54) = true ∧
    runs w mW (fxOn fin (withG [0x4000])) (fun t => g3 t == 0x0004000300000002) = true ∧
    runs w mW (lone (fxObj z)) (fun t => t.my.pc == s0.my.pc && t.my.wait.map Wait.on == some (.fix fxH 0)) = true ∧
    wh.roundWithheld (wh.fix fxH |>.getD {}) 0 = true ∧
    runs (.fxw (.g 3) (.g 1) .zr { mX with mod := 2 }) { mX with mod := 2 } wh (fun t => g3 t == 0x0001000000000000) = true ∧
    runs w mW wh (fun t => t.my.cause == 0xA0 && t.my.st == .halted) = true ∧
    goesOn w [0x4000] (at_ (fun k => { k with wait := some { on := .fix fxH 0, expired := true } }) (lone (fxObj z))) (fun t => g3 t == 0x0008000000000000) = true ∧
    goesOn w [0x4000] (at_ (fun k => { k with wait := some { on := .fix fxH 0 } }) (fxOn fin s0)) (fun t => g3 t == 0x0004000300000002) = true ∧
    goesOn (.fxw (.g 3) (.g 1) .zr { mX with mod := 2 }) [0x4000, 0] wh (fun t => g3 t == 0x0001000000000000) = true ∧
    runs (.fxq (.g 3) (.g 1) mW) mW (lone (fxObj z)) (fun t => g3 t == 0x0008000000000000) = true ∧
    runs (.fxlv (.g 1) mW) mW (lone (fxObj z)) (fun t => (t.fix fxH).map FixObj.departed == some [0]) = true := by decide +kernel

/- The arrivals of the example at R195, one by one. -/
theorem witness_ContributionsAreJudged :
    let c (r : Nat) (tag v : BitVec 32) : Contrib := { rank := r, tag := tag, vals := [v] }
    let at0 (fo : Fold) (e : Contrib) (f : State → Bool) : Bool :=
      after (.fixContributionArrival 7) { fxOn fo s0 with noc := [⟨7, .fix fxH 0 e, [], 0, some 3, none⟩], cyc := 6 } f
    let fold (t : State) : Fold := ((t.fix fxH).getD {}).fold 0
    let stat (t : State) (lo : Nat) : Nat := t.regF (Pf.fxStat 0) lo 16
    let val (t : State) (off : Nat) : Nat := t.me.scrRead true (0x1000 + off) 4
    let r0 : Fold := { onTime := [c 3 0 0x3F800000, c 0 0 0x3F800000], seen := [(0, 3, 0), (0, 0, 0)] }
    let late : Contrib := { c 2 0 0x41000000 with weight := 0x3F000000 }
    let r1 : Fold := { tag := 1, seen := [(0, 2, 0), (1, 0, 0), (1, 3, 0)], onTime := [c 0 1 0x40000000, c 3 1 0x3FC00000], late := [late], last := some (0, 3, false) }
    at0 {} (c 3 0 0x3F800000) (fun t => (fold t).onTime == [c 3 0 0x3F800000] && val t 0x98 == 0x3F800000) = true ∧
    at0 r0 (c 1 0 0x4B800000) (fun t => val t 0 == 0x4B800000 && (fold t).tag == 1 && (fold t).last == some (0, 3, false)) = true ∧
    at0 { tag := 1 } (c 2 0 0x41000000) (fun t => (fold t).late == [late]) = true ∧
    at0 { tag := 1, seen := [(0, 3, 0)] } (c 3 0 0x3F800000) (fun t => stat t 48 == 1) = true ∧
    at0 r1 (c 1 1 0x40400000) (fun t => val t 64 == 0x41280000 && (fold t).tag == 2 && t.me.scrRead true (0x1000 + 64 + 8 + 8) 4 == 0x40600000 &&
      t.me.scrRead true (0x1000 + 64 + 8 + 16) 8 == 0xB) = true ∧
    at0 { tag := 3 } (c 2 1 0x40800000) (fun t => stat t 32 == 1 && (fold t).lagging == [2]) = true ∧
    at0 {} (c 2 1 0x40800000) (fun t => (fold t).early == [c 2 1 0x40800000]) = true ∧
    at0 {} (c 2 2 0x40800000) (fun t => stat t 16 == 1 && (fold t).lagging == [2]) = true ∧
    foldValues (fxDesc fxWords) { r0 with onTime := c 1 0 0x4B800000 :: r0.onTime } = [0x4B800000] := by decide +kernel

/- A base-die fold of 2.0 into the word 1.0 of round 0's buffer in HBM, and into one whose line has two bad symbols. -/
theorem witness_ContributionsAreJudged_near :
    let d := fxDesc [0x8_1_21_0003_0004, 1, 0x10000, 0x2400, 0, 0, 3, 0]
    let f : FixObj := { fxObj {} with desc := d }
    let s (bad : AMap (List Nat)) : State :=
      { ((fxBase (paged [])).setFixObj fxH f) with
        noc := [⟨7, .nearFold fxH { rank := 1, tag := 0, vals := [0x40000000] }, [], 0, some 3, none⟩], cyc := 6, ecc := bad
        hbm := Mem.write [] 0x20000 4 0x3F800000 }
    (match ({ s [] with noc := [] }.engPlace (fxHome fxH) (bufAddr d 0) 4 .rw true true).1 with
     | .ok (.mem a k .rc false) => a == 0x20000 && k == 0
     | _ => false) = true ∧
    after (.nearMemoryFold 7) (s []) (fun t => t.hbm.read 0x20000 4 == 0x40400000 && t.noc == []) = true ∧
    after (.nearMemoryFold 7) (s [(0x20000, [3, 5])]) (fun t => ((t.fix fxH).getD {}).folds.map (fun e => e.2.folderr) == [true]) = true := by decide +kernel

/-! ### Copies (R339 to R343) -/

/-- The template of the example at R343, from offset 0x800 to 0x1000, and a one-row one. -/
def tplT (rows vrows flags : Nat) : Line := fxDesc [BitVec.ofNat 64 (ownBase + 0x800), BitVec.ofNat 64 (ownBase + 0x1000),
  BitVec.ofNat 64 (rows * 2 ^ 32 + 64), 0x4000000040, BitVec.ofNat 64 (vrows * 2 ^ 32 + 40), BitVec.ofNat 64 (flags * 2 ^ 11),
  BitVec.ofNat 64 (ownBase + 0x1800), 0x99]

theorem witness_Copies :
    let k (f : Channel → Channel) (s : State) : State := s.setMe (s.me.setChan 2 (f (s.me.chan 2)))
    let slot (s : State) : State := s.setMe { s.me with tpls := [(5, tplT 4 3 9)] }
    let q (t : State) : Channel := t.me.chan 2
    let took (t : State) : Bool := (q t).queue.map Copy.word == [5] && (q t).status == 0x0001000000000000 && t.my.pc == s0.my.pc + 4
    let x := Instr.xst 2 (.g 1) mW
    tplOk (tplT 4 3 9) = true ∧ tplOk (tplT 2 3 9) = false ∧
    runs (.xtpl 5 (.g 1) mW) mW (withG [BitVec.ofNat 64 (ownBase + 0x800)] (s0.setMe (s0.me.scrWrite 0x800 64 (tplT 4 3 9).toNat)))
      (fun t => t.me.tpls == [(5, tplT 4 3 9)]) = true ∧
    runs (.xtpl 5 (.g 1) mW) mW (withG [BitVec.ofNat 64 (ownBase + 0x800)]) (fun t => t.my.cause == 0x60 && t.my.faddr == 5) = true ∧
    runs x mW (slot (withG [5])) took = true ∧
    runs x mW (slot (withG [0x2005])) (fun t => t.my.cause == 0x02) = true ∧
    runs x mW (withG [5]) (fun t => t.my.cause == 0x60 && t.my.faddr == 5) = true ∧
    runs x mW (k (fun c => { c with queue := [⟨0, 0, 0, 0, 0, false, none, none, none, [], 0, false, false, 0⟩, ⟨0, 0, 0, 0, 0, false, none, none, none, [], 0, false, false, 0⟩] }) (slot (withG [5])))
      (fun t => t.my.pc == s0.my.pc) = true ∧
    runs (.st (.g 1) (.g 2) .i64 0 mW) mW (slot (withG [5, 0xFF00000400000010])) took = true ∧
    runs (.xstat (.g 3) 2 mW) mW (k (fun c => { c with status := 0x77 }) s0) (fun t => g3 t == 0x77) = true ∧
    goesOn (.xcan 2 mW) [] (k (fun c => { c with status := 0x0005000000780003, seq := 5 }) s0) (fun t => (q t).status == 0x0005000000000000) = true ∧
    runs (.xcan 2 mW) mW (k (fun c => { c with status := 0x0005000000780003, seq := 5 }) s0) (fun t => (q t).status == 0x0005000000000000) = true := by
  decide +kernel

theorem witness_Copies_run :
    let c (t : Line) (w : Word := 5) : Copy := { tpl := t, word := w, ctx := 0, wsp := BitVec.ofNat 64 ownBase, seq := 5 }
    let s (c : Copy) : State :=
      let a := s0.me.scrWrite 0x800 64 ((2 ^ 512 - 1) / 255 * 0x7C)
      s0.setMe ((a.scrWrite 0x1000 64 (2 ^ 512 - 1)).setChan 2 { queue := [c], seq := 5 })
    let on (c : Copy) : State := s0.setMe (s0.me.setChan 2 { running := some c, seq := 5 })
    let row (t : State) (r : Nat) : Nat := t.me.scrRead true (0x1000 + 64 * r) 64
    let half := (2 ^ 320 - 1) / 255 * 0x7C
    let ran (t : State) (b : Nat) (e : Option (BitVec 8)) : Bool := (t.me.chan 2).running.map (fun c => (c.bytes, c.fault)) == some (b, e)
    after (.copyStart 0 2) (s (c (tplT 1 1 1))) (fun t => ran t 40 none && row t 0 == half) = true ∧
    after (.copyStart 0 2) (s (c (tplT 1 1 0))) (fun t => ran t 40 none && row t 0 == 2 ^ 512 - 2 ^ 320 + half) = true ∧
    after (.copyStart 0 2) (s (c (tplT 1 1 0) 0x7FFFFFFFFFFF0005)) (fun t => ran t 0 (some 0x12) || ran t 0 (some 0x11) || ran t 0 (some 0x15)) = true ∧
    after (.copyStart 0 2) (s (c (tplT 4 3 9))) (fun t => ran t 120 none && row t 3 == 0) = true ∧
    after (.copyStart 0 2) (s { c (tplT 4 3 9) with void := true }) (fun t => (t.me.chan 2).running.isNone && row t 0 == 2 ^ 512 - 1) = true ∧
    after (.copyComplete 0 2) (on { c (tplT 4 3 9) 0x1145 with bytes := 120 }) (fun t => (t.me.chan 2).status == 0x0005000000780003 &&
      t.me.scrRead true 0x1800 8 == 0x99 && t.regVal 0 0 (.g 2) == 0x0005000000780003) = true ∧
    after (.copyComplete 0 2) (on { c (tplT 1 1 0) with fault := some 0x12 }) (fun t => (t.me.chan 2).status == 0x0005000000001207 &&
      t.dev.pilot == [(3, 2, 0x12)]) = true := by decide +kernel

/- Round 0 of the example at R195, with the contributions of ranks 3, 0, 1 in two orders of arrival, and two late ones of two rounds. -/
theorem witness_FixResultsDoNotDependOnArrival :
    let c (r : Nat) (tag v : BitVec 32) : Contrib := { rank := r, tag := tag, vals := [v] }
    let f : Fold := { tag := 1, onTime := [c 3 1 0x3F800000, c 0 1 0x3F800000, c 1 1 0x4B800000], late := [c 2 0 0x3F800000, c 0 0xFFFFFFFF 0x3F800000] }
    let g : Fold := { tag := 1, onTime := [c 1 1 0x4B800000, c 0 1 0x3F800000, c 3 1 0x3F800000], late := [c 0 0xFFFFFFFF 0x3F800000, c 2 0 0x3F800000] }
    f.tag = g.tag ∧ f.onTime.Perm g.onTime ∧ f.late.Perm g.late ∧ (f.onTime.map Contrib.rank).Nodup ∧
      (f.late.map (fun c => (c.tag, c.rank))).Nodup ∧ f.onTime ≠ g.onTime ∧
      f.terms.map Contrib.rank = [0, 1, 3, 0, 2] ∧ g.terms.map Contrib.rank = [0, 1, 3, 0, 2] := by decide +kernel

/-! ### The Chartroom (R66 to R95, R344) -/

/-- A TCB: the doublewords given, the rest zero, no successors, no convoy. -/
def tcbOf (l : List (Nat × Word)) : Vector Word 16 :=
  Vector.ofFn (fun (i : Fin 16) => (AMap.getD (AMap.set (AMap.set l 5 (AMap.getD l 5 0 ||| 0xFFFFFFFF00000000)) 8
    (AMap.getD l 8 0xFFFF000000000000)) i.val 0))
def task (i : Nat) (l : List (Nat × Word)) (s : State) : State := s.setPart 0 { s.part 0 with tcbs := AMap.set (s.part 0).tcbs i (tcbOf l) }
/-- A gang of task i of one core, core 0, in the Chartroom and at the core. -/
def inGang (i : Nat) (g : Gang) (s : State) : State :=
  (s.setMe { s.me with gang := some ⟨0, i, 0, 0, 0, 0, 0, g.convoy, 0⟩ }).setPart 0 { s.part 0 with gangs := [g] }
def gang0 (i : Nat) (cs : List Chunk := []) : Gang := { num := 0, tcb := i, x0 := 0, y0 := 0, lw := 0, lh := 0, chunks := cs }
/-- The Chartroom has answered. -/
def told (c : BitVec 8) (v : Word) (s : State) : State :=
  at_ (fun k => { k with wait := some { on := .chart, arrived := true }, answer := some (c, v) }) s

theorem witness_ChartroomInstructions :
    let s := withG [5, 0x77, 0]
    let step (t : State) : Bool := t.my.pc == s0.my.pc + 4 && t.my.answer == none && t.my.wait.isNone
    let posts (i : Instr) (op : ChartOp) (s : State) : Bool := runs i mW s (fun t => (t.part 0).reqs.map ChartReq.op == [op] && t.my.asked && t.my.pc == s0.my.pc)
    let fails (i : Instr) (vs : List Word) (s : State) : Bool :=
      let v := at_ (fun k => { k with doing := some i, held := vs }) (told 0x70 0 s)
      decide (v.GoesOn i vs) && after i v (fun t => t.my.cause == 0x70 && t.my.faddr == 5 && t.my.answer == none)
    let released (i : Instr) (vs : List Word) (op : ChartOp) (s : State) : Bool :=
      let v := at_ (fun k => { k with doing := some i, held := vs, wait := some { on := .release, arrived := true } }) s
      decide (v.GoesOn i vs) && after i v (fun t => (t.part 0).reqs.map ChartReq.op == [op] && t.my.asked && t.my.pc == s0.my.pc)
    let g := inGang 5 (gang0 5) s
    let cv := inGang 5 { gang0 5 with convoy := 3 } s
    let charm := Instr.charm (.g 1) mW
    let chdec := Instr.chdec (.g 1) mW
    let chpatch := Instr.chpatch (.g 2) (.g 1) mW
    let chdone := Instr.chdone (.g 1) mW
    let chcard := Instr.chcard (.g 3) mW
    [charm, chdec].all (fun i => goesOn i [5] (told 0 0 s) step) = true ∧
    goesOn chpatch [5, 0x77] (told 0 0 s) step = true ∧ goesOn chdone [5] (told 0 0 g) step = true ∧
    goesOn chcard [] (told 0 0x300000002 g) (fun t => step t && g3 t == 0x300000002) = true ∧
    goesOn (.ckset (.g 3) (.g 1) mW) [5] (told 0 9 cv) (fun t => g3 t == 9) = true ∧
    fails charm [5] s = true ∧ fails chdec [5] s = true ∧ fails chpatch [5, 0x77] s = true ∧ fails chdone [5] g = true ∧
    fails chcard [] g = true ∧ released charm [5] (.arm 5) s = true ∧ released chpatch [5, 0x77] (.patch 5 0 0x77) s = true ∧
    posts charm (.arm 5) s = true ∧ posts chdec (.dec 5) s = true ∧ posts chpatch (.patch 5 0 0x77) s = true ∧ posts chdone (.done 5) g = true ∧
    posts chcard .card g = true ∧
    runs chpatch mW (withG [0x2000, 0]) (fun t => t.my.cause == 0x02) = true ∧
    runs (.chq (.g 3) (.g 1) mW) mW (task 5 [(0, 2), (4, 0x900000000), (5, 0x3)] s) (fun t => g3 t == 0x900000302) = true ∧
    runs (.chq (.g 3) (.g 1) mW) mW (task 5 [(0, 7)] s) (fun t => g3 t == 0x1000007) = true ∧
    runs (.chq (.g 3) (.g 1) mW) mW (withG [0x2000]) (fun t => t.my.cause == 0x72 && t.my.faddr == 0x2000) = true ∧
    runs (.ckset (.g 3) (.g 1) mW) mW g (fun t => g3 t == 0) = true := by decide +kernel

theorem witness_RequestsAreServed :
    let req (op : ChartOp) (s : State) : State := (s.setCtx 0 1 { st := .live, block := [9] }).setPart 0 { s.part 0 with reqs := [⟨9, 0, 1, op⟩] }
    let serve (op : ChartOp) (s : State) (c : BitVec 8) (v : Word) (f : State → Bool) : Bool :=
      let t := (req op s).chartCycle 0
      (t.ctx 0 1).answer == some (c, v) && !(t.ctx 0 1).block.contains 9 && f t
    let st (i : Nat) (t : State) : Nat := t.tcbSt 0 i
    let run (d3 : Word) (cs : List Chunk) : State := inGang 5 (gang0 5 cs) (task 5 [(0, 0x40004), (3, d3), (4, 10)] s0)
    let chunks (t : State) : List (List Chunk) := (t.part 0).gangs.map Gang.chunks
    serve (.dec 5) (task 5 [(0, 2), (5, 2)] s0) 0 0 (fun t => st 5 t == 2 && t.tcbF 0 5 5 0 16 == 1) = true ∧
    serve (.dec 5) (task 5 [(0, 2), (5, 1)] s0) 0 0 (fun t => st 5 t == 3 && t.tcbF 0 5 8 0 48 == 0 && t.regF (Pf.chr 0 0x38) 0 48 == 1) = true ∧
    serve (.dec 5) (task 5 [(0, 0), (5, 1)] s0) 0 0 (fun t => st 5 t == 0) = true ∧
    serve (.dec 5) (task 5 [(0, 4), (5, 1)] s0) 0x70 0 (fun _ => true) = true ∧ serve (.dec 5) (task 5 [(0, 2)] s0) 0x70 0 (fun _ => true) = true ∧
    (task 5 [(4, 3)] s0).armCause 0 5 = none ∧
    serve (.arm 5) (task 5 [(4, 3)] s0) 0 0 (fun t => st 5 t == 3 && t.cursor 0 5 == 0) = true ∧
    serve (.arm 5) (task 5 [(5, 1)] s0) 0 0 (fun t => st 5 t == 2) = true ∧
    serve (.arm 5) (task 5 [(0, 3)] s0) 0x71 0 (fun _ => true) = true ∧ serve (.arm 8192) s0 0x72 0 (fun _ => true) = true ∧
    serve (.patch 5 2 0x55) (task 5 [(0, 2)] s0) 0 0 (fun t => st 5 t == 1 && t.tcbW 0 5 2 == 0x55) = true ∧
    serve .card (run 0x640001 []) 0 0x170000000A (fun t => t.cursor 0 5 == 33 && chunks t == [[⟨10, 23, 0, 1⟩]]) = true ∧
    serve .card (run 0xA0001 []) 0 10 (fun _ => true) = true ∧
    (let s := run 0x640001 []
     serve .card (s.setPart 0 { s.part 0 with redeal := [(5, [⟨2, 3, 0, 0⟩])] }) 0 0x300000002 (fun t => t.cursor 0 5 == 10)) = true ∧
    ((req .card (run 0x640001 [⟨0, 5, 0, 0⟩, ⟨5, 5, 0, 0⟩])).chartCycle 0 |>.part 0).reqs.length = 1 ∧
    serve (.done 10) (run 0xA0001 [⟨10, 10, 0, 1⟩]) 0 0 (fun t => chunks t == [[]] && st 5 t == 5) = true ∧
    serve (.done 10) (run 0x640001 [⟨10, 10, 0, 1⟩]) 0 0 (fun t => t.acked 0 5 == 10 && st 5 t == 4) = true := by
  decide +kernel

theorem witness_GangsArePlacedAndRetired :
    /- A task of one core, SCRATCH 64 and STACK 16, entry 0x1000, argument base 0x2000, user word 7. -/
    let t0 := task 5 [(0, 0x10004000000003), (1, 0x1000), (2, 0x2000), (15, 7)] {}
    let g : Gang := { gang0 5 with draining := true }
    let old (st : Word) : State := inGang 5 g (task 5 [(0, st)] (s0.setMe { s0.me with ctxs := Vector.replicate 11 {} }))
    let ring : State := ((({ } : State).setPart 0 { recs := [#v[1, 2, 3, 4], #v[5, 6, 7, 8]] }).setReg (Pf.vf 1 0x48) 0x24).setReg (Pf.vf 1 0x40) 0x1000
    t0.fit 0 5 (t0.seenFree 0) none = some (0, 0) ∧ t0.pool 0 = [⟨5, 0, 0, [5]⟩] ∧
    after (.placementAttempt 0) t0 (fun t => (t.part 0).gangs == [gang0 5] && t.tcbSt 0 5 == 4 && (t.core 0).moving && (t.core 0).scratch == 64 &&
      (t.core 0).stack == 16 && (t.ctx 0 0).pc == 0x1000 && (t.ctx 0 0).st == .free) = true ∧
    after (.kernelEntry 0) (t0.placeCore 0 ⟨0, 5, 0, 0, 0, 0, 0, 0xFFFF, 0⟩) (fun t => !(t.core 0).moving && (t.ctx 0 0).st == .live &&
      (t.ctx 0 0).wsp == BitVec.ofNat 64 ownBase && (t.ctx 0 0).pc == 0x1000 && t.regVal 0 0 (.g 0) == 0x2000 && t.regVal 0 0 (.g 1) == 5 &&
      t.regVal 0 0 (.g 2) == 7 && (t.ctx 0 0).slim == BitVec.ofNat 64 (ownBase + 0xC000)) = true ∧
    after (.kernelEntry 0) ({ cores := [(0, { moving := true, ctxs := (Vector.replicate 11 {}).set 0 { pc := 0x1000, noWs := true } })] })
      (fun t => (t.ctx 0 0).st == .live && (t.ctx 0 0).pc == 0x1000) = true ∧
    (old 5).gangEmpty g = true ∧
    after (.gangRetire 0 0) (old 5) (fun t => (t.part 0).gangs == [] && (t.core 0).gang.isNone && t.tcbSt 0 5 == 6) = true ∧
    ring.ringRoom 1 = 16 ∧
    after (.completionRecordWrite 1) ring (fun t => (t.part 0).recs == [#v[5, 6, 7, 8]] && t.hostMem.read 0x1000 8 == 0x8000000000000001 &&
      t.hostMem.read 0x1018 8 == 4 && t.regF (Pf.vf 1 0x50) 0 32 == 1 && t.dev.msix == [(1, 0)]) = true := by decide +kernel

theorem witness_TasksAreStopped :
    let run (d5 : Word) (st : Word := 4) : State := inGang 5 (gang0 5) (task 5 [(0, st), (5, d5), (3, 0xA0001)] s0)
    let graced : State := { (run 0).setPart 0 { (run 0).part 0 with grace := [(5, 10)] } with cyc := 4010 }
    let limit (a lo v : Nat) (s : State) : State := s.setRegF (Pf.chr 0 a) lo 32 v
    let evt (t : State) (b : Nat) : Bool := (t.reg (Pf.chr 0 0x48)).getLsbD b
    let gone (t : State) : Bool := (t.part 0).gangs.all Gang.draining
    let lone (st : Word) (d4 : Word := 0) : State := task 5 [(0, st), (3, 0xA0001), (4, d4)] s0
    let dogged : State := limit 0x50 0 1 { (run 0).setPart 0 { (run 0).part 0 with wdog := [(5, 10)] } with cyc := 4010 }
    let quiet : State := s0.setCore 0 { core0 with ctxs := Vector.replicate 11 {} }
    let pausing (k : Nat) : State := quiet.setPart 0 { pause := [(3, k)], log := [(3, [])] }
    let ready (s : State) : State := s.setReg 0 1
    let tried (s : State) : State := s.setPart 0 { s.part 0 with lastTry := s.mesh + 1 }
    let go (t : State) (v : Word) : Bool := t.reg (Pf.chr 0 0x30) == v
    after (.chrPreempt 0 0x20005) (ready (run 0x200000)) (fun t => t.tcbSt 0 5 == 3 && gone t && go t 5) = true ∧
    after (.chrPreempt 0 0x20005) (ready (run 0)) (fun t => t.tcbSt 0 5 == 4 && !gone t && (AMap.get? (t.part 0).grace 5).isSome) = true ∧
    after (.chrPreempt 0 0x20005) (ready (lone 4)) (fun t => t.tcbSt 0 5 == 3 && (AMap.get? (t.part 0).grace 5).isNone) = true ∧
    after (.chrPreempt 0 0x20005) (tried (ready (run 0x200000))) (fun t => t.tcbSt 0 5 == 4 && go t 0x20005) = true ∧
    after (.chrPreempt 0 0x10005) (ready s0) (go · 0x10005) = true ∧
    after (.chrPreempt 0 0x10005) ((ready s0).setReg (Pf.chr 0 0x30) 0x20007) (go · 0x30005) = true ∧
    after (.chrPreempt 0 0x20005) (run 0x200000) (fun t => t.tcbSt 0 5 == 4 && go t 0) = true ∧
    after (.faultResolution 0 5 .kill) (lone 7) (fun t => t.tcbSt 0 5 == 7) = true ∧
    after (.graceExpiry 0 5) (limit 0x10 0 1 graced) (fun t => t.tcbSt 0 5 == 8 && gone t && evt t 2) = true ∧
    after (.taskWatchdogExpiry 0 5) dogged (fun t => t.regF (Pf.chr 0 0x50) 48 13 == 5 && evt t 5) = true ∧
    after (.faultResolution 0 5 .resume) (ready (lone 7)) (fun t => t.tcbSt 0 5 == 4) = true ∧
    after (.faultResolution 0 5 .resume) (ready (lone 7 0xA00000000)) (fun t => t.tcbSt 0 5 == 6) = true ∧
    after (.faultResolution 0 5 .resume) (ready (inGang 5 (gang0 5) (task 5 [(0, 7), (3, 0xA0001), (4, 0xA00000000)] s0)))
      (fun t => t.tcbSt 0 5 == 5) = true ∧
    after (.faultResolution 0 5 .restart) (setField (Pf.chr 0 0x38) 0 48 6 (ready (lone 7)))
      (fun t => t.tcbSt 0 5 == 3 && t.tcbF 0 5 8 0 48 == 6 && t.regF (Pf.chr 0 0x38) 0 48 == 7) = true ∧
    after (.faultResolution 0 5 .kill) (ready (lone 7)) (fun t => t.tcbSt 0 5 == 8) = true ∧
    after (.checkpointImageWrite 0 3) (pausing 1) (fun t => AMap.get? (t.part 0).pause 3 == some 5) = true ∧
    after (.checkpointCommit 0 3) (pausing 5) (fun t => AMap.get? (t.part 0).pause 3 == some 6 && evt t 4 && (t.part 0).log == []) = true ∧
    after (.checkpointCommit 0 3) (quiet.setPart 0 { pause := [(3, 6)] }) (fun t => (t.part 0).pause == []) = true := by decide +kernel

/-- An empty chart: no gang, no entry, ANCHORED 0xFFFF (R95). -/
theorem test_chartStat_empty : State.reset.regRead 0x300040 = 0x0000FFFF00000000 := by decide +kernel

/-- A home's HREGION is 0 (R148). -/
theorem test_rose_home_hregion : roseOk 0 0x0001000200000040 0 0 = true ∧ roseOk 0 0x0001000200000040 0 1 = false := by decide +kernel

/-- The push that ends an emptiness starts the set of those who push (R202). -/
theorem test_queue_pushers :
    (((({} : QReg).push 3 1 (some 5)).pop 4).push 5 2 (some 6)).pushers = [5] := by decide +kernel

/-! ### The vector engine (R347 to R367) -/

/-- A row of w-bit lanes; rows 1, 2, ... of core 0; a command that the engine runs. -/
def lanesOf (w : Nat) (l : List Nat) : RowVal := BitVec.ofNat 2048 (packLanes w l)
def withRows (vs : List RowVal) (s : State := s0) : State := (vs.zipIdx 1).foldl (fun s e => s.setMe (s.me.setRow e.2 e.1)) s
def vrun (i : Instr) (s : State) (s0w : Word := 0) (rm : RndF := .rne) (lanes : List (Nat × List (Loc × Nat)) := []) (s1w : Word := 0) : State :=
  s.setMe { s.me with vrun := [{ id := 9, ctx := 0, instr := i, s0 := s0w, s1 := s1w, rm := rm, lanes := lanes, seed := 0x2545F491 }] }
/-- The first lanes of row 5 after the engine completes the command. -/
def vgives (i : Instr) (w : Nat) (vs : List RowVal) (want : List Nat) (s0w : Word := 0) (s1w : Word := 0) : Bool :=
  after (.vectorEngineComplete 0) (vrun i (withRows vs) s0w .rne [] s1w) (fun t =>
    (List.range want.length).map (laneOf (t.me.row 5) w) == want && t.me.vrun == [] && t.me.row 1 == vs.headD 0)

theorem witness_VectorInstructionsEnter :
    let s := withG [BitVec.ofNat 64 (ownBase + 0x800), 4]
    let a := Instr.vadd 5 1 2 (mW .i32)
    let enters (i : Instr) (m : Mods) (s : State) (p q : Word) : Bool := runs i m s (fun t =>
      t.me.vq.map (fun v => (v.instr, v.s0, v.s1)) == [(i, p, q)] && t.my.pc == s0.my.pc + BitVec.ofNat 64 (4 * m.len.words))
    let fullq : State := s.setMe { s.me with vq := [{ id := 1, ctx := 0, instr := a }, { id := 2, ctx := 0, instr := a }] }
    let sr : Mods := { mX .f32 with rnd := .sr }
    let narrow : Mods := { mX .f64 with mask := 1 }
    let ms (i : Instr) (m : Mods) : Bool := runs i m (withRows [] (s.setMe (s.me.setRow 121 0x80000001))) (fun t =>
      t.me.vq.map (fun v => (v.instr, v.lanes.map Prod.fst)) == [(i, [0, 31])])
    enters a (mW .i32) s 0 0 = true ∧ runs a (mW .i32) fullq (fun t => t.my.wait.map Wait.on == some .vector && t.my.pc == s0.my.pc) = true ∧
    runs (.vadd 5 1 2 sr) sr s (fun t => t.my.seed == xorshift 0x2545F491 && t.me.vq.map VCmd.rm == [.sr]) = true ∧
    enters (.vred 5 1 (mW .i32)) (mW .i32) s 0 0 = true ∧ runs (.vred 5 1 sr) sr s (fun t => t.my.cause == 0x02) = true ∧
    enters (.vbcast 5 (.g 2) (mW .i32)) (mW .i32) s 4 0 = true ∧
    runs (.vextr (.g 3) 1 (.g 2) (mW .i32)) (mW .i32) s (fun t => t.my.pend.map Pend.d == [.g 3] && t.my.lrPend.isSome) = true ∧
    runs (.vextr (.g 3) 1 (.g 2) (mW .i32)) (mW .i32) (withG [0, 64]) (fun t => t.my.cause == 0x02) = true ∧
    enters (.vins 5 (.g 1) (.g 2) (mW .i32)) (mW .i32) s 4 (BitVec.ofNat 64 (ownBase + 0x800)) = true ∧
    runs (.vins 5 (.g 1) (.g 2) (mW .i32)) (mW .i32) (withG [0, 64]) (fun t => t.my.cause == 0x02) = true ∧
    ms (.vld 5 (.g 1) narrow) narrow = true ∧ ms (.vsts 5 (.g 2) (.g 1) narrow) narrow = true ∧
    enters (.vmpop (.g 3) 1 (mW .i32)) (mW .i32) s 0 0 = true ∧
    runs (.vsf 5 1 (mX .f32)) (mX .f32) s (fun t => (t.octet 0).sfuq.map (fun e => e.2.instr) == [.vsf 5 1 (mX .f32)]) = true ∧
    runs (.vfence mW) mW fullq (fun t => t.my.block == [1, 2]) = true := by decide +kernel

/- Lanes worked out by hand: wraps, saturation, floats 1.5, 2.0, 3.0, 3.5 and shifts past the width. -/
theorem witness_VectorResults :
    let i32 := mW .i32
    let i8s : Mods := { mX .i8 with sat := true }
    let f := mW .f32
    let p := lanesOf 32 [0x3FC00000, 0x40000000]
    let q := lanesOf 32 [0x40000000, 0x40400000]
    vgives (.vadd 5 1 2 i32) 32 [lanesOf 32 [0xFFFFFFFF, 3], lanesOf 32 [1, 4]] [0, 7] = true ∧
    vgives (.vadd 5 1 2 i8s) 8 [lanesOf 8 [0x7F, 0x80], lanesOf 8 [1, 0xFF]] [0x7F, 0x80] = true ∧
    vgives (.vsub 5 1 2 i32) 32 [lanesOf 32 [3], lanesOf 32 [4]] [0xFFFFFFFF] = true ∧
    vgives (.vmin 5 1 2 i32) 32 [lanesOf 32 [0xFFFFFFFF], lanesOf 32 [1]] [0xFFFFFFFF] = true ∧
    vgives (.vadd 5 1 2 f) 32 [p, q] [0x40600000, 0x40A00000] = true ∧ vgives (.vmul 5 1 2 f) 32 [p, q] [0x40400000, 0x40C00000] = true ∧
    vgives (.vneg 5 1 f) 32 [p] [0xBFC00000] = true ∧ vgives (.vfma 5 1 2 2 (mX .f32)) 32 [p, q] [0x40A00000, 0x41100000] = true ∧
    vgives (.vmulz 5 1 2 f) 32 [lanesOf 32 [0x7F800000], 0] [0] = true ∧
    vgives (.vsacc 5 1 2 (.g 1) { mX .f32 with ty := .f32 }) 32 [p, lanesOf 8 [128, 127]] [0x40400000, 0x40000000] 127 = true ∧
    vgives (.vshl 5 1 2 i32) 32 [lanesOf 32 [3, 3], lanesOf 32 [31, 32]] [0x80000000, 0] = true ∧
    vgives (.vsar 5 1 2 i32) 32 [lanesOf 32 [0x80000000], lanesOf 32 [40]] [0xFFFFFFFF] = true ∧
    vgives (.vxor 5 1 2 i32) 32 [lanesOf 32 [6], lanesOf 32 [5]] [3] = true ∧
    after (.vectorEngineComplete 0) (vrun (.vmul 5 1 2 f) (withRows [lanesOf 32 [0x7F800000], 0])) (fun t => t.my.fpsr.getLsbD 0) = true := by
  decide +kernel

theorem witness_VectorMovesAndReductions :
    let i32 := mW .i32
    let a := lanesOf 32 [7, 5, 9]
    let scal (i : Instr) (v : Word) (s1 : Word) : Bool :=
      after (.vectorEngineComplete 0) (at_ (fun k => { k with pend := [⟨9, .o 1⟩], lrPend := some 9 }) (vrun i (withRows [a]) s1))
        (fun t => t.my.lr == v && t.regVal 0 0 (.o 1) == v && t.my.pend == [])
    let ls : List (Nat × List (Loc × Nat)) := (List.range 64).map (fun j => (j, [(Loc.scr 0 (0x800 + 4 * j), 4)]))
    vgives (.vcmp 5 1 2 i32) 1 [a, lanesOf 32 [7, 6, 9]] [1, 0, 1, 1] = true ∧ vgives (.vmov 5 1 i32) 32 [a] [7, 5, 9] = true ∧
    vgives (.vsel 5 1 2 { mX .i32 with mask := 1 }) 32 [a, lanesOf 32 [1, 2]] [1, 2] = true ∧
    vgives (.vcvt 5 1 { mX .i32 with mod := 8 }) 32 [a] [0x40E00000, 0x40A00000] = true ∧
    vgives (.viota 5 (.g 1) i32) 32 [a] [3, 4, 5] 3 = true ∧ vgives (.vbcast 5 (.g 1) i32) 32 [a] [3, 3] 3 = true ∧
    vgives (.vperm 5 1 2 i32) 32 [a, lanesOf 32 [2, 64, 1]] [9, 0, 5] = true ∧ vgives (.vins 5 (.g 1) (.g 2) i32) 32 [a] [0, 8, 0] 1 8 = true ∧
    vgives (.vmk 5 1 2 i32) 32 [lanesOf 32 [6], lanesOf 32 [3]] [2] = true ∧ vgives (.vred 5 1 i32) 32 [a] [21] = true ∧
    vgives (.vscan 5 1 i32) 32 [a] [7, 12, 21, 21] = true ∧
    scal (.vextr (.o 1) 1 (.g 1) i32) 5 1 = true ∧ scal (.vmpop (.o 1) 1 i32) 7 0 = true ∧
    after (.vectorEngineComplete 0) (vrun (.vld 5 (.g 1) i32) (s0.setMe (s0.me.scrWrite 0x804 4 0x1234)) 0 .rne ls)
      (fun t => laneOf (t.me.row 5) 32 1 == 0x1234) = true ∧
    after (.vectorEngineComplete 0) (vrun (.vst 1 (.g 1) i32) (withRows [a]) 0 .rne ls) (fun t => t.me.scrRead true 0x800 12 == 7 + 5 * 2 ^ 32 + 9 * 2 ^ 64) = true ∧
    after (.vectorEngineStart 0) (s0.setMe { s0.me with vq := [{ id := 9, ctx := 0, instr := .vmov 5 1 i32 }] }) (fun t => t.me.vq == [] && t.me.vrun.length == 1) = true ∧
    after (.sfuRequestStart 0) (s0.setOctet 0 { sfuq := [(0, { id := 9, ctx := 0, instr := .vsf 5 1 (mX .f32) })] }) (fun t => (t.octet 0).sfuRun.length == 1) = true ∧
    after (.sfuResult 0) ((withRows [lanesOf 32 [0x40800000]]).setOctet 0 { sfuRun := [(0, { id := 9, ctx := 0, instr := .vsf 5 1 (mX .f32) })] })
      (fun t => (t.octet 0).sfuRun == [] && laneOf (t.me.row 5) 32 0 == (sfuLane .f32 0 false 0x40800000).1) = true := by decide +kernel

/- The worked example of R359: 2^24 and three ones under m1; then VCVT.f32.e2m1 #7 of R358, of which the nibbles from 448 on are written;
then nibbles loaded and stored under a mask. -/
theorem witness_VectorMovesAndReductions_trees :
    let f : Mods := { mX .f32 with mask := 1 }
    let s : State := (withRows [lanesOf 32 [0x4B800000, 0x3F800000, 0x3F800000, 0x3F800000]]).setMe
      ((withRows [lanesOf 32 [0x4B800000, 0x3F800000, 0x3F800000, 0x3F800000]]).me.setRow 121 0x0F)
    let e : Mods := { mX .f32 with mod := 0x7D }
    let n : Mods := { mX .e2m1 with mask := 1 }
    let ls : List (Nat × List (Loc × Nat)) := (List.range 4).map (fun j => (j, [(Loc.scr 0 (0x800 + j / 2), 1)]))
    let m : State := (s.setMe (s.me.scrWrite 0x800 2 0xBABA)).setMe ((s.setMe (s.me.scrWrite 0x800 2 0xBABA)).me.setRow 5 (lanesOf 4 [1, 2, 3, 4]))
    after (.vectorEngineComplete 0) (vrun (.vred 5 1 f) s) (fun t => laneOf (t.me.row 5) 32 0 == 0x4B800001 && laneOf (t.me.row 5) 32 1 == 0 &&
      t.my.fpsr == 0x10) = true ∧
    after (.vectorEngineComplete 0) (vrun (.vscan 5 1 f) s) (fun t => (List.range 64).all (fun j => laneOf (t.me.row 5) 32 j == 0x4B800000)) = true ∧
    ElTy.ofCode 0xD = .e2m1 ∧
    after (.vectorEngineComplete 0) (vrun (.vcvt 5 1 e) s) (fun t => laneOf (t.me.row 5) 4 447 == 0 && laneOf (t.me.row 5) 4 448 == 7 &&
      laneOf (t.me.row 5) 4 449 == 2) = true ∧
    after (.vectorEngineComplete 0) (vrun (.vld 5 (.g 1) n) m 0 .rne ls) (fun t => (List.range 4).map (laneOf (t.me.row 5) 4) == [0xA, 0xB, 0xA, 0xB]) = true ∧
    after (.vectorEngineComplete 0) (vrun (.vst 5 (.g 1) n) m 0 .rne (ls.take 3)) (fun t => t.me.scrRead true 0x800 2 == 0xB321) = true := by
  decide +kernel

/-! ### The matrix port (R368 to R387) -/

/-- A control word of 16 by 16 by K; D 3 and C 20. -/
def tileWord (k : Nat) : Word := BitVec.ofNat 64 (k * 2 ^ 18 + 20 * 2 ^ 7 + 3)

theorem witness_MatrixInstructionsEnter :
    let x8 := mX .i8
    let s (w : Word) : State := withG [BitVec.ofNat 64 (ownBase + 0x800), w]
    let g (w : Word) : State := withG [w]
    let q (i : Instr) (m : Mods) (s : State) (p : Nat) : Bool := runs i m s (fun t => t.me.mq.map (fun k => (k.instr, k.pitch)) == [(i, p)] &&
      t.me.mstat.accepted == 1 && t.my.pc == s0.my.pc + BitVec.ofNat 64 (4 * m.len.words))
    let bad (i : Instr) (m : Mods) (s : State) (c f : Word) : Bool := runs i m s (fun t => t.my.cause == c && (f == 0 || t.my.faddr == f))
    let mma := Instr.mma (.g 2) (.g 1) x8
    let mmap := Instr.mmap (.g 2) (.g 1) x8
    let mwld := Instr.mwld (.g 2) (.g 1) mW
    let mst := Instr.mst (.g 2) (.g 1) x8
    let mmag := Instr.mmag (.g 2) (.g 1) (.g 3) x8
    let met (s : State) : State := ganged (s.setMe (s.me.gWrite 24 0))
    q mma x8 (s (tileWord 32)) 32 = true ∧ bad mma x8 (s (tileWord 33)) 0x62 0 = true ∧
    bad mma x8 (s (tileWord 32 ||| 0x3FF80000000)) 0x64 0x1FFC0 = true ∧ bad mma x8 (withG [0x1000, tileWord 32]) 0x11 0x1000 = true ∧
    bad mmap x8 (s (tileWord 5)) 0x63 0 = true ∧
    q mmap x8 ((s (tileWord 5)).setMe { (s (tileWord 5)).me with mupIssued := true }) 5 = true ∧
    q mwld mW (withG [0x1000, 0x1000]) 0 = true ∧ bad mwld mW (withG [0x1000, 0]) 0x62 0 = true ∧
    bad mwld mW (withG [0x1000, 0x4007FF]) 0x64 0x1FFC0 = true ∧
    q mst x8 (withG [0x1000, 0x010100]) 1 = true ∧ bad mst x8 (withG [0x1000, 0x010080]) 0x62 0 = true ∧
    q (.mzero (.g 1) mW) mW (g 0x8000) 0 = true ∧ bad (.mzero (.g 1) mW) mW (g 0x8001) 0x62 0 = true ∧
    q (.mtr (.g 1) mW) mW (g 0) 0 = true ∧ bad (.mtr (.g 1) mW) mW (g 127) 0x62 0 = true ∧
    q (.msacc (.g 1) mW) mW (g 0) 0 = true ∧ bad (.msacc (.g 1) mW) mW (g 0x4000000) 0x62 0 = true ∧
    bad (.mupl (.g 1) mW) mW (g 0) 0x63 0 = true ∧ q (.mfence mW) mW s0 0 = true ∧ runs (.mfence mW) mW s0 (fun t => t.my.block.length == 1) = true ∧
    runs (.mstatMatrix (.g 3) mW) mW (s0.setMe { s0.me with mstat := ⟨7, 9, 3, 0x11, true, 9⟩ }) (fun t => g3 t == 0x0007000900031104 &&
      t.me.mstat == ⟨0, 9, 0, 0, false, 9⟩) = true ∧
    runs mmag x8 (met (s (tileWord 32))) (fun t => t.my.wait.map Wait.on == some .meeting && t.my.meet.map MCmd.word == some (tileWord 32)) = true ∧
    (let v := at_ (fun k => { k with wait := some { on := .meeting, arrived := true }, answer := some (0, 0), meet := some { id := 0, ctx := 0, instr := mmag } }) (met (s (tileWord 32)))
     v.my.atMeeting 0 = true ∧ goesOn mmag [BitVec.ofNat 64 (ownBase + 0x800), 0, tileWord 32] v
       (fun t => t.my.pc == s0.my.pc + 12 && t.my.answer == none && t.my.meet.isNone) = true) := by decide +kernel

/- MMA: A of ones and twos times B of threes added to C; the sparse example of R374; the other commands. -/
theorem witness_MatrixCommandsComplete :
    let on (k : MCmd) (s : State) : State := (s.setMe { s.me with mrun := some k }).setOctet 0 { matrix := some 0 }
    let cmd (i : Instr) (w : Word) : MCmd := { id := 5, ctx := 0, instr := i, word := w, seq := 4 }
    let mma := Instr.mma (.g 2) (.g 1) (mX .i8)
    let c20 : State := s0.setMe (s0.me.setRow 20 (lanesOf 32 (List.replicate 64 100)))
    let k := { cmd mma (tileWord 32) with data := List.replicate 512 2, bdata := List.replicate 512 3 }
    let bf := { cmd (.mma (.g 2) (.g 1) { mX .bf16 with mod := 9 }) (tileWord 16 ||| 0x40000000000) with
      data := (List.replicate 256 [0x80, 0x3F]).flatten, bdata := (List.replicate 256 [0xC0, 0x3F]).flatten }
    let done (t : State) : Bool := t.me.mrun.isNone && t.me.mstat.done == 1 && (t.octet 0).matrix.isNone
    after (.matrixCommandComplete 0) (on k c20) (fun t => done t && laneOf (t.me.row 3) 32 15 == 292 && laneOf (t.me.row 3) 32 16 == 0 &&
      laneOf (t.me.row 18) 32 0 == 192) = true ∧
    after (.matrixCommandComplete 0) (on bf s0) (fun t => laneOf (t.me.row 3) 32 0 == 0x41C00000) = true ∧
    (let w : Word := BitVec.ofNat 64 (4 * 2 ^ 18 + 2 ^ 43)
     let bs := (List.replicate 16 [0xC0, 0x3F]).flatten ++ (List.replicate 16 [0x00, 0xC0]).flatten ++ List.replicate 8 0xCC
     (List.range 4).map (fun q => bElem bs .bf16 w q 0) = [0x3FC0, 0, 0, 0xC000]) ∧
    after (.matrixCommandComplete 0) (on (cmd (.mzero (.g 1) mW) 0x114) c20) (fun t => done t && t.me.row 20 == 0) = true ∧
    after (.matrixCommandComplete 0) (on (cmd (.mtr (.g 1) mW) 20) c20) (fun t => laneOf (t.me.row 0) 32 0 == 100 && laneOf (t.me.row 0) 32 1 == 0) = true ∧
    after (.matrixCommandComplete 0) (on { cmd (.mwld (.g 2) (.g 1) mW) 0x800 with data := List.replicate 64 7 } s0) (fun t =>
      t.me.wts.read 0 8 == 0x0707070707070707) = true ∧
    after (.matrixCommandComplete 0) (on (cmd (.mupl (.g 1) mW) 9) s0) (fun t => t.me.mup == 9) = true ∧
    after (.matrixCommandComplete 0) (on { k with fault := some 0x12 } c20) (fun t => t.me.mstat.faulted && t.me.mstat.cause == 0x12 &&
      t.me.mstat.fseq == 4 && t.dev.pilot == [(3, 0x80, 0x12)] && t.me.row 3 == 0) = true ∧
    after (.matrixCommandComplete 0) (on k (c20.setMe { c20.me with mstat := ⟨0, 0, 0, 0, true, 0⟩ })) (fun t => t.me.mstat.done == 1 && t.me.row 3 == 0) = true ∧
    after (.matrixGrant 0) (s0.setMe { (ganged s0).me with mq := [cmd (.mzero (.g 1) mW) 0x114] }) (fun t => (t.octet 0).matrix == some 0 && t.me.mq == [] && t.me.mrun.isSome) = true ∧
    after (.mmagMeeting 0) (ganged (at_ (fun q => { q with wait := some { on := .meeting, arrived := true }, meet := some (cmd (.mmag (.g 2) (.g 1) (.g 3) (mX .i8)) (tileWord 32)) })))
      (fun t => t.my.answer == some (0, 0) && t.me.mq.map MCmd.word == [tileWord 32]) = true := by decide +kernel

/- 2^(1/2) = 1.41421356... lies between 0x3FB504F3 and 0x3FB504F4, so 0x3FB504F5 is more than 1 ulp away (R361). -/
theorem test_sfu_bound :
    let a := sfuReal 0 (numOf .f32 0x3F000000)
    (roundFx .f32 a).1 = 0x3FB504F3 ∧ sfuWithin 0 a 0x3FB504F4 = true ∧ sfuWithin 0 a 0x3FB504F5 = false := by decide +kernel

/- sin 1 = 0.84147098..., tanh 0.5 = 0.46211716..., log2 3 = 1.58496250... -/
theorem test_sfu_values :
    [(5, 0x3F800000), (4, 0x3F000000), (1, 0x40400000)].map (fun p => (roundFx .f32 (sfuReal p.1 (numOf .f32 p.2))).1) =
      [0x3F576AA4, 0x3EEC9A9F, 0x3FCAE00D] := by decide +kernel

/-! ### The device and its host (R22 to R65) -/

theorem witness_BringUpAndPower :
    let at0 (n : Nat) (s : State := {}) : State := setField 0 24 8 n s
    let stage (n : Nat) (t : State) : Bool := t.regF 0 24 8 == n
    let bad (n : Nat) (t : State) : Bool := t.regF 0 4 4 == n && (t.reg 0).getLsbD 3 && t.dev.msix == [(0, 0)]
    let img (i : FwImage) (fused : Nat) : State := at0 3 { dev := { flash := some i, fused := fused } }
    let kicked : State := { dev := { kickAt := some 0 }, cyc := 400000000 }
    let ev (i : Instr) (s : State) (f : State → Bool) : Bool := after i s f
    ev .packageReset (setField 0 8 2 1 s0) (fun t => t.regF 0 8 2 == 1 && stage 0 t && t.cores == [] && t.reg 0x60 == 100) = true ∧
    ev .powerGood (at0 0) (stage 1) = true ∧ ev .railTimeout (at0 0 { cyc := 200000000 }) (bad 1) = true ∧
    ev (.selfCalibrationDone true ⟨[17], [3]⟩) (at0 1) (fun t => stage 2 t && t.dev.fencedHubs == [1] && t.dev.fencedStacks == [3]) = true ∧
    ev (.selfCalibrationDone false ⟨[], []⟩) (at0 1) (bad 2) = true ∧ ev (.hbmInitDone true) (at0 2) (fun t => stage 3 t && t.fills.length == 8 && t.ecc == []) = true ∧
    ev (.hbmInitDone false) (at0 2) (bad 3) = true ∧
    ev (.bootRomLoad [3]) (img ⟨true, 2, true, []⟩ 1) (fun t => stage 5 t && (t.reg 0).getLsbD 0 && t.dev.fused == 2 && t.dev.fenced == [3]) = true ∧
    ev (.bootRomLoad []) (img ⟨true, 1, true, []⟩ 2) (fun t => (t.reg 0).getLsbD 2 && t.dev.running.isNone && t.dev.pilotHeld) = true ∧
    ev .pilotWdKick kicked (fun t => t.dev.kickAt == some 400000000) = true ∧
    ev .pilotWatchdogExpiry kicked (fun t => t.dev.pilotHeld && (t.reg 0).getLsbD 1) = true ∧
    ev (.powerClampSample 3201 false) {} (fun t => t.dev.clock == 3750) = true ∧
    ev (.powerClampSample 3039 true) { dev := { clock := 3900 } } (fun t => t.dev.clock == 4000) = true ∧
    ev (.powerClampSample 3201 false) { dev := { clock := 1000 } } (fun t => t.dev.clock == 1000) = true ∧
    ev (.thermalLimit true) {} (fun t => t.dev.clock == 1000 && t.dev.msix == [(0, 3)]) = true ∧
    ev (.thermalLimit false) { dev := { hot := true, clock := 1000 } } (fun t => t.dev.clock == 1000 && !t.dev.hot) = true ∧
    ev .thermalTrip {} (fun t => !t.dev.powered && t.regF 0 8 2 == 1) = true := by decide +kernel

theorem witness_FirmwareUpdatesAndSessions :
    let ready : State := ({ dev := { fused := 3, sessions := [(0, 1)] } } : State).setReg 0 1
    let busy (s : State) : State := s.setReg 0x50 1
    let code (i : FwImage) (ok : Bool) (c : Word) : Bool := after (.fwUpdateComplete i ok) (busy ready) (fun t => t.reg 0x58 == c &&
      t.dev.flash == (if c = 2 then some i else if c = 6 then none else ready.dev.flash))
    let replies (i : Instr) (a : Answer) : Bool := after i ready (fun t => t.dev.answers.map Prod.fst == [a])
    after (.fwUpdateGo 1) ready (fun t => t.reg 0x50 == 1 && t.reg 0x58 == 1) = true ∧
    code ⟨true, 3, false, []⟩ true 5 = true ∧ code ⟨false, 3, true, []⟩ true 3 = true ∧ code ⟨true, 2, true, []⟩ true 4 = true ∧ code ⟨true, 3, true, []⟩ true 2 = true ∧
    code ⟨true, 3, true, []⟩ false 6 = true ∧
    after (.fwUpdateComplete ⟨true, 3, true, []⟩ true) (busy (ready.setReg 0 5)) (fun t => t.regF 0 24 8 == 0 && t.dev.flash == some ⟨true, 3, true, []⟩) = true ∧
    replies (.keyExchange 0 0x12) (.versionMismatch 0) = true ∧ replies (.spdmRequest 0 0x12 ⟨5, 0⟩) (.versionMismatch 0) = true ∧
    after (.keyExchange 0 0x13) { ready with dev := { ready.dev with sessions := [(0, 4)] } } (fun t => t.dev.answers.map Prod.fst == [.sessionLimit 0]) = true ∧
    after (.keyExchange 0 0x13) ready (fun t => t.dev.sessions == [(0, 2)]) = true ∧
    after (.spdmRequest 0 0x13 ⟨0xEC, 0⟩) ready (fun t => AMap.getD t.dev.sessions 0 0 == 0) = true ∧ replies (.spdmRequest 0 0x13 ⟨0xE3, 0⟩) (.algorithms 0 .ecdsaP521 .sha512 .ecdheSecp521r1 .aes256Gcm) = true ∧
    replies (.spdmRequest 0 0x13 ⟨0x82, 1⟩) (.certificate 0 1 none) = true ∧
    after (.dieEvidenceTimeout 0) { ready with dev := { ready.dev with answers := [(.measurements 0 7 [{ index := 5, digest := 1, sig := some 2 }], 0)] } }
      (fun t => t.dev.answers.map Prod.fst == [.measurements 0 7 [{ index := 5, digest := 1 }]]) = true ∧
    (upVf 0).vfUp 1 = true ∧
    after (.keyLoad 1 2 0xAB) { upVf 0 with dev := { (upVf 0).dev with sessions := [(1, 1)] } } (fun t => AMap.get? t.keys 2 == some 0xAB &&
      t.reg (Pf.keyStat 0) == 0x100000005) = true := by decide +kernel

theorem witness_GetMeasurements :
    after (.getMeasurements 0 7) (({ } : State).setReg 0 1) (fun t => t.dev.answers.length == 1) = true := by decide +kernel

theorem witness_VirtualFunctions :
    let st (n : Nat) (t : State) : Bool := t.tdisp 1 == n
    let rst : State := (upVf 3).setVf 1 { enabled := true, resetting := true }
    after (.numvfsWrite 2) {} (fun t => t.dev.heldVfs == some 2) = true ∧
    after (.numvfsWrite 2) (({ } : State).setReg 0 1) (fun t => t.dev.numVfs == 2 && (t.vf 2).enabled && !(t.vf 3).enabled) = true ∧
    let tells (a : Answer) (t : State) : Bool := t.dev.answers.map Prod.fst == [a]
    let no (i : Instr) (n : Nat) : Bool := after i (upVf n) (fun t => st n t && tells (.stateError 1) t)
    after (.lockInterfaceRequest 1) (upVf 0) (fun t => st 1 t && tells (.locked 1) t) = true ∧ no (.lockInterfaceRequest 1) 1 = true ∧
    after (.startInterfaceRequest 1) (upVf 1) (fun t => st 2 t && tells (.started 1) t) = true ∧ no (.startInterfaceRequest 1) 0 = true ∧
    after (.stopInterfaceRequest 1) (upVf 3) (fun t => st 0 t && tells (.stopped 1) t) = true ∧
    after (.getDeviceInterfaceReport 1) (upVf 2) (tells (.report 1 0x10000 0x080)) = true ∧
    after (.functionLevelReset 1) rst (fun t => (t.vf 1).resetting) = true ∧
    rst.resetQuiet 0 = true ∧
    after (.partitionResetComplete 0 ⟨0x1080, 0x20000, []⟩) { rst with hbm := Mem.write [] 0x100 8 0x55 } (fun t => !(t.vf 1).resetting && st 3 t && t.hbm == [] &&
      t.reg (Pf.mmuRoot 0) == 0x1080 && t.reg (Pf.hltBase 0) == 0x20000 && t.reg (Pf.keyStat 0) == 0x100000001) = true ∧
    ((upVf 2).tdisp 1 = 2 ∧ ((upVf 2).reg 0).getLsbD 0 = true ∧ ((upVf 2).vf 1).enabled = true) ∧
    (upVf 1).breach 1 = some (((upVf 1).setTdisp 1 3).startReset 1 false false) := by
  refine ⟨?_, ?_, ?_, ?_, ?_, ?_, ?_, ?_, ?_, ?_, ?_, ?_, rfl⟩ <;> decide +kernel

theorem witness_VirtualFunctions_stops :
    after (.stopInterfaceRequest 1) (upVf 0) (fun t => t.tdisp 1 == 0 && t.dev.answers.map Prod.fst == [.stopped 1]) = true ∧
    after (.getDeviceInterfaceReport 1) (upVf 0) (fun t => t.dev.answers.map Prod.fst == [.stateError 1]) = true := by decide +kernel

theorem witness_VirtualFunctions_queries :
    ((upVf 2).tdispQuery 1 .state).dev.answers.map Prod.fst = [.interfaceState 1 2] ∧
    ((upVf 0).tdispQuery 1 .version).dev.answers.map Prod.fst = [.tdispVersion 1 0x10] ∧
    ((upVf 3).tdispQuery 1 .capabilities).dev.answers.map Prod.fst = [.tdispCapabilities 1] := by decide +kernel

theorem witness_HostRequests :
    let u := upVf 0
    let loading (s : State) : State := s.setVf 1 { enabled := true, load := some ⟨0x1000, 64, 0x2000⟩ }
    let stat (c : Nat) (t : State) : Bool := t.regF (Pf.vf 1 0x98) 0 8 == c
    let err (t : State) : Word := t.reg (Pf.vf 1 0x08)
    after (.vfArm 1 5) u (fun t => (t.part 0).reqs.map ChartReq.op == [.hostArm 5]) = true ∧
    after (.vfArm 1 0x2005) u (fun t => err t == 0x180720005 && t.dev.msix == [(1, 1)]) = true ∧
    after (.vfArm 1 5) (upVf 1) (fun t => err t == 0x180710005) = true ∧
    after (.vfCmplTail 1 0x1_0000_0007) u (fun t => t.reg (Pf.vf 1 0x58) == 7) = true ∧
    after (.vfCmplCtl 1 0x64) u (fun t => t.reg (Pf.vf 1 0x48) == 0x24) = true ∧
    after (.vfCmplCtl 1 0x23) u (fun t => !(t.reg (Pf.vf 1 0x48)).getLsbD 5 && (t.reg (Pf.vf 1 0x18)).getLsbD 1) = true ∧
    after (.vfCmplCtl 1 0x31) u (fun t => (t.reg (Pf.vf 1 0x18)).getLsbD 1) = true ∧
    after (.vfLoadGo 1 true) (upVf 2) (fun t => stat 1 t && (t.reg (Pf.vf 1 0x98)).getLsbD 8 && (t.vf 1).load == some ⟨0, 0, 0⟩) = true ∧
    after (.vfLoadGo 1 false) (upVf 1) (fun t => stat 9 t && (t.vf 1).load.isNone) = true ∧
    after (.vfLoadGo 1 false) (loading u) (fun t => (t.reg (Pf.vf 1 0x18)).getLsbD 2) = true ∧
    after (.codeLoadComplete 1 false) (loading u) (stat 8) = true ∧
    after (.codeLoadComplete 1 true) (u.setVf 1 { enabled := true, load := some ⟨0x1000, 0, 0x2000⟩ }) (stat 4) = true ∧
    (loading u).loadCause 0 0x2000 ((loading u).hostMem.bytes 0x1000 64) ≠ none ∧
    after (.codeLoadComplete 1 true) (loading u) (stat 4) = true := by decide +kernel

/-! ### Halts, dumps, walks, tracing (R64, R65, R143 to R147, R198 to R230) -/

theorem witness_HaltsFromOutside :
    let r (s : State) : State := s.setReg 0 1
    let h := at_ (fun k => { k with st := .halted, hrec := haltRec 4 0 0x90 k.pc none })
    let s1 := setField (Pf.hltStat 0) 48 16 1 h
    let wt (w : Wait) : State := at_ (fun k => { k with wait := some w })
    let st (t : State) : CtxSt := t.my.st
    let helper : State := (wt { on := .helper 2 }).setCtx 0 2 { st := .halted, hrec := haltRec 3 2 0x11 0 none }
    s1.findHalt 0 4 = some (0, 0) ∧ s1.haltId 0 0 = some 4 ∧ s0.findHalt 0 4 = none ∧
    (s0.reqNames 0 0x8000000000000000).contains (0, 0) = true ∧
    after (.haltRequest 0 0x8000000000000000) (r s0) (fun t => t.my.haltReq && (t.reg (Pf.hltReq 0)).getLsbD 63) = true ∧
    after (.haltRequest 0 0x1) (r (s0.setReg (Pf.hltReq 0) 0x8000000000000000)) (fun t => t.reg (Pf.hltReq 0) == 0x8000000000000001) = true ∧
    after (.haltRequest 0 0x1) s0 (fun t => t.reg (Pf.hltReq 0) == 0) = true ∧
    after (.haltRelease 0 4) (r s1) (fun t => st t == .live && t.my.pc == s0.my.pc && !t.my.hrec.d0.getLsbD 8 && t.my.pass &&
      t.regF (Pf.hltStat 0) 48 16 == 0 && (t.part 0).chain == [(4, 1)]) = true ∧
    after (.haltKill 0 4) (r s1) (fun t => st t == .free && (t.part 0).chain == [(4, 1)]) = true ∧
    after (.haltRelease 0 5) (r s1) (fun t => (t.reg (Pf.hltEvt 0)).getLsbD 1 && st t == .halted) = true ∧
    after (.chainedRelease 0 9) ((at_ (fun k => { k with st := .halted, hrec := haltRec 4 0 0xA0 0 (some ⟨6, 2, false, some (0, 2, 9)⟩) })).setPart 0 { chain := [(9, 0)] })
      (fun t => st t == .live) = true ∧
    helper.waitWithheld 0 0 { on := .helper 2 } = some ⟨6, 2, false, some (0, 2, 3)⟩ ∧
    after (.haltOnWithheld 0 0) helper (fun t => st t == .halted && t.my.cause == 0xA0 && t.my.pc == s0.my.pc && t.regF (Pf.hltStat 0) 0 48 == 2) = true ∧
    after (.waitLimitExpiry 0 0) (wt { on := .helper 2, limit := 5, elapsed := 5 }) (fun t => t.my.wait.map Wait.expired == some true) = true ∧
    after (.waitaPoll 0 0) (wt { on := .poll }) (fun t => t.my.wait.map Wait.arrived == some true) = true := by decide +kernel

/- Read-backs of a record at R65's places, and the header's byte counts. -/
theorem witness_CoreDumps :
    let armed (size : Word) : State := (((({ } : State).setReg 0 1).setReg 0x200 0x10000).setReg 0x208 size).setReg 0x210 1
    let d : Dump := { part := 2, cause := 0x11, haltId := 5, base := 0x10000, size := 0x101000, recs := 7, reads := readBacks (64 + 7 * 8192) 8192 }
    let on (d : Dump) : State := { dev := { dump := some d } }
    let out (t : State) : Nat × Nat := (t.regF 0 16 4, t.regF 0 20 4)
    let h : Dump := { d with header := true, reads := [56] }
    d.reads = [61432, 65528, 65592] ∧
    after (.coreDumpStart 2 0x11 5) (armed 0x101000) (fun t => t.dev.dump.map Dump.reads == some [4088, 8184, 8248]) = true ∧
    after (.coreDumpStart 2 0x11 5) (armed 63) (fun t => out t == (2, 3) && t.dev.dump.isNone && t.dev.msix == [(0, 1)]) = true ∧
    after (.coreDumpStart 3 0x11 6) ((on d).setReg 0 1) (fun t => t.dev.dumpQueue == [(3, 0x11, 6)]) = true ∧
    after (.coreDumpStart 3 0x11 6) (on d) (fun t => t.dev.dumpQueue == []) = true ∧
    after (.dumpRecordReadback none) (on d) (fun t => t.dev.dump.map (fun d => (d.recs, d.header)) == some (8, false)) = true ∧
    after (.dumpRecordReadback none) (on { d with size := 64 + 8 * 8192 }) (fun t => t.dev.dump.map (fun d => (d.recs, d.header, d.flags)) == some (8, true, 1) &&
      t.hostMem.read 0x10000 4 == 0x5A47444D && t.hostMem.read 0x10018 4 == 8 && t.hostMem.read 0x10010 8 == 64 + 8 * 8192) = true ∧
    after (.dumpRecordReadback none) (on { d with recs := 127 }) (fun t => t.dev.dump.map (fun d => (d.recs, d.header, d.flags)) == some (128, true, 0)) = true ∧
    after (.dumpReadbackTimeout 65528) (on d) (fun t => t.dev.dump.map (fun d => (d.flags, d.faultOff, d.header)) == some (2, 65528, true)) = true ∧
    after (.dumpRecordReadback none) (on h) (fun t => out t == (2, 1)) = true ∧ after (.dumpRecordReadback none) (on { h with flags := 1 }) (fun t => out t == (2, 2)) = true ∧
    after (.dumpRecordReadback (some 56)) (on h) (fun t => out t == (2, 3)) = true := by decide +kernel

theorem witness_TranslationsAreWalkedAndInvalidated :
    let w : Walk := { id := 7, core := 0, root := 0, va := 0x12345 }
    let s (leaf : Word) (w : Walk) : State := { s0 with hbm := pathMem leaf, dies := [(0, { walks := [w] })] }
    let z : Word := leafW ||| 0x4000000000000000
    let cached : State := (s0.setMe { s0.me with tlb := [tlbA, { tlbB with root := 1 }] })
    (s leafW w).walk 0 0x12345 = .page tlbA 0x4008 false ∧ (s z w).walk 0 0x12345 = .page tlbA 0x4008 true ∧ s0.walk 0 0x12345 = .absent ∧
    after (.pageWalkComplete 7) (s leafW w) (fun t => t.me.tlb == [tlbA] && (t.octet 0).tlb == [tlbA] && (t.die 0).walks == []) = true ∧
    after (.pageWalkComplete 7) (s z w) (fun t => (t.die 0).walks.map Walk.zeroing == [some 0x4008]) = true ∧
    after (.pageWalkComplete 7) (at_ (fun k => { k with block := [7] }) { s0 with dies := [(0, { walks := [w] })] }) (fun t => t.my.walkFault == some (1, 0x10)) = true ∧
    after (.zeroOnFirstTouch 7) ({ s z { w with zeroing := some 0x4008 } with hbm := (pathMem z).write 0x20000 8 0x77 }) (fun t => t.hbm.get 0x20000 == 0 && (t.fills.head?.map (fun f => (f.1, f.2.1))) == some (0x20000, 0x10000)) = true ∧
    after (.mmuInv 0 0x1_0000) (s0.setReg 0 1) (fun t => t.reg (Pf.mmuInv 0) == 0x10000) = true ∧
    after (.mmuInv 0 0x8000000000010000) (cached.setReg 0 1) (fun t => t.reg (Pf.mmuInv 0) == 0x8000000000010000 && t.me.tlb == [{ tlbB with root := 1 }]) = true ∧
    after (.mmuInvComplete 0) ((s0.setReg (Pf.mmuInv 0) 0x8000000000010000).setPart 0 { inv := some [] }) (fun t => t.reg (Pf.mmuInv 0) == 0x10000) = true ∧
    after (.mainFileWriteback 0) (s0.setMe { s0.me with mf := [⟨0x1000, 0x55, true⟩] }) (fun t => t.me.scr.read 0x1000 8 == 0x55 &&
      t.me.mf == [⟨0x1000, 0x55, false⟩]) = true := by decide +kernel

theorem witness_TracesDigestsAndSoundings :
    let r (s : State) : State := s.setReg 0 1
    let ctl := Pf.dbg 0 0x188
    let rec1 (s : State) : State := s.setMe { s.me with trace := [(0x11, 0x22), (0x33, 0x44)] }
    let at0 (c next : Word) : State := ((rec1 s0).setReg ctl c).setReg (Pf.dbg 0 0x190) next
    let per (d : Word) (s : State) : State := s.setReg (Pf.snd 0 0x18) (0x400000000 + d)
    let go : State := (per 9 s0).setReg (Pf.snd 0 0) 0x8000000000000000
    after (.traceRecordWrite 0) (at0 0x1 5) (fun t => t.me.trace == [(0x33, 0x44)] && (t.die 0).scr.read 80 8 == 0x11 && (t.die 0).scr.read 88 8 == 0x22 &&
      t.regF (Pf.dbg 0 0x190) 0 10 == 6) = true ∧
    after (.traceRecordWrite 0) (at0 0x1 1023) (fun t => t.reg (Pf.dbg 0 0x190) == 0x100000000) = true ∧
    after (.traceRecordWrite 0) (at0 0x19 1023) (fun t => t.me.trace == [] && t.regF ctl 0 32 == 9 && t.regF ctl 32 32 == 1) = true ∧
    after (.trCtl 0 0x4001) (r s0) (fun t => t.reg ctl == 0x4011) = true ∧ after (.trCtl 0 0) (r (at0 0x11 0)) (fun t => t.reg ctl == 0x11 && t.me.trOff == some 0) = true ∧
    after (.trCtl 0 0) (r (s0.setReg ctl 0x11)) (fun t => t.reg ctl == 0) = true ∧
    after (.wake 0 0) (r (s0.setReg (Pf.dbg 0 0x1A0) 7)) (fun t => t.reg (Pf.dbg 0 0x1A0) == 0) = true ∧
    after (.soundingGo 0 0x8000000000000000) (r s0) (fun t => (t.reg (Pf.snd 0 0)).getLsbD 61) = true ∧
    after (.soundingGo 0 0) (r (per 9 s0)) (fun t => (t.reg (Pf.snd 0 0)).getLsbD 63) = true ∧
    after (.soundingStop ⟨0, 0x4000000000000400⟩) (r go) (fun t => t.reg (Pf.snd 0 0) == 0x400) = true ∧
    after (.soundingStop ⟨0, 0x4000000000000000⟩) go (fun t => t.reg (Pf.snd 0 0) == 0x8000000000000000) = true ∧
    after (.soundingPause 0) (go.setPart 0 { snd := 5 }) (fun t => (t.part 0).snd == 1 && t.reg (Pf.snd 0 0x28) == 1 && t.my.sounding == 9) = true := by
  decide +kernel

/-! ### Registers, ports and packets (R5, R26 to R42, R54) -/

theorem witness_RegisterWritesFollowTheirAccess :
    let on (s : State := {}) : State := s.setReg 0 1
    let held : State := { dev := { pilotHeld := true } }
    let w (x : RegWriter) (a : Nat) (v : Word) (s : State) (f : State → Bool) : Bool := after (.registerWrite x a v) s f
    (regBits 0x60).rw.getLsbD 0 = true ∧ regHome 0x60 = 0x60 ∧
    w .pilot 0x60 7 (on) (fun t => t.reg 0x60 == 7) = true ∧ w .pilot 0x60 7 held (fun t => t.reg 0x60 == 100) = true ∧
    w (.host false) 0x60 7 {} (fun t => t.reg 0x60 == 100) = true ∧ w (.host false) 0x60 7 (on) (fun t => t.reg 0x60 == 7) = true ∧
    w (.host false) (Pf.vf 1 0x80) 0x1000 (upVf 2) (fun t => t.reg (Pf.vf 1 0x80) == 0) = true ∧
    w (.host true) (Pf.vf 1 0x80) 0x1000 (upVf 2) (fun t => t.reg (Pf.vf 1 0x80) == 0x1000) = true ∧
    w (.host true) (Pf.vf 2 0x80) 0x1000 (upVf 0) (fun t => t.reg (Pf.vf 2 0x80) == 0) = true ∧
    (({ } : State).hostRead false 0x60 = 0 ∧ (upVf 0).hostRead true (Pf.vf 2 0x50) = 0 ∧ (upVf 2).hostRead false (Pf.vf 1 0x80) = 0) := by decide +kernel

/-- Port 3 in a state, its lanes OK. -/
def portIn (st : Nat) (k : Port := {}) (lanes : Nat := 0) (s : State := {}) : State :=
  setField (Pf.port 3 8) 4 2 lanes (setField (Pf.port 3 8) 0 3 st (s.setPort 3 k))

theorem witness_LinksTrainAndFail :
    let st (n lanes : Nat) (t : State) : Bool := t.portSt 3 == n && t.regF (Pf.port 3 8) 4 2 == lanes
    let stFail (k : Nat) : State := portIn 1 { attempts := k }
    let slow : State := { portIn 1 with cyc := 40000000 }
    let r (s : State) : State := s.setReg 0 1
    let acked : State := portIn 2 { replay := [(3, 7), (4, 8)], resent := [(3, 8), (4, 2)] } 3
    after (.linkEn 3 true) {} (fun t => st 0 0 t && t.reg (Pf.port 3 0) == ({ } : State).reg (Pf.port 3 0)) = true ∧
    after (.linkEn 3 true) (r {}) (st 1 0) = true ∧ after (.linkEn 3 true) (r { dev := { fencedHubs := [0] } }) (st 0 0) = true ∧
    after (.linkEn 3 false) (r (portIn 2 { queue := [{}] } 3)) (fun t => st 0 0 t && (t.port 3).queue == []) = true ∧
    after (.linkRetrain 3) (portIn 2 {} 3) (st 2 3) = true ∧ after (.linkRetrain 3) (r (portIn 2 {} 3)) (fun t => st 4 0 t && t.regF (Pf.port 3 8) 24 8 == 1) = true ∧
    after (.trainingAttemptEnd 3 true true 0x45 0x45) (portIn 1) (fun t => st 2 3 t && t.reg (Pf.port 3 0x10) == 0x105) = true ∧
    after (.trainingAttemptEnd 3 true false 0x45 0) (portIn 4 { txSeq := 9, replay := [(8, 5)] }) (fun t => st 3 1 t && (t.port 3).txSeq == 9 && (t.port 3).out == [5]) = true ∧
    after (.trainingAttemptEnd 3 false true 0 0x45) (portIn 1) (st 3 2) = true ∧
    after (.trainingAttemptEnd 3 true true 0x45 0x46) (portIn 1) (fun t => st 1 0 t && (t.port 3).attempts == 1) = true ∧
    after (.trainingAttemptEnd 3 false false 0 0) (stFail 2) (st 5 0) = true ∧
    after (.trainingTimeout 3) slow (fun t => (t.port 3).attempts == 1) = true ∧
    after (.laneFail 3 0) acked (fun t => st 3 2 t && (t.port 3).out == [7, 8] && t.reg (Pf.port 3 0x18) == 0 && (t.reg (Pf.port 3 0x28)).getLsbD 1 &&
      t.dev.hostLog.contains (26, 3, 0)) = true ∧
    after (.laneFail 3 1) (portIn 3 { resent := [(5, 8)] } 2) (fun t => st 4 0 t && (t.reg (Pf.port 3 0x28)).getLsbD 1) = true := by decide +kernel

/-- A packet of the wire: a remote write of 8 bytes from device 7 to device 0, with the CRC of its payload. -/
def wire : Packet := { h0 := 0x0103000700000009, h1 := 0x0000000800000000, h2 := 0x10000, h3 := (crc32c [1, 2, 3, 4, 5, 6, 7, 8]).setWidth 64 <<< 32,
                       data := [1, 2, 3, 4, 5, 6, 7, 8] }

theorem witness_FlitsAreReceived :
    let s (k : Port) : State := portIn 2 k 3
    let bs := (wire.pieces.headD [])
    let good : Flit := mkFlit bs true 1 1 4 6
    let k : Port := { rxGood := 5, replay := [(3, 7), (4, 8), (5, 9)] }
    let err (t : State) (lo : Nat) : Nat := t.regF (Pf.port 3 0x18) lo 16
    let idle (q : BitVec 12) : Flit := mkFlit [] true 0 0 q 0
    let out (t : State) (l : List Flit) : Bool := (t.port 3).out == l
    let got (t : State) (n : BitVec 12) (r : List (BitVec 12 × Flit)) : Bool := (t.port 3).rxGood == n && (t.port 3).replay == r
    let headless : Flit := mkFlit (leBytes 8 0x0203000700000009 ++ bs.drop 8) true 1 1 4 6
    crc32c [0x31, 0x32, 0x33, 0x34, 0x35, 0x36, 0x37, 0x38, 0x39] = 0xE3069283 ∧ flitGood good = true ∧ wire.headerOk 1 = true ∧
    after (.rxDataFlit 3 good) (s k) (fun t => got t 6 [(5, 9)] && (t.port 3).rxq == [wire] && out t [idle 6]) = true ∧
    after (.rxDataFlit 3 (mkFlit bs false 1 1 4 6)) (s k) (fun t => ((t.port 3).asm.map Prod.fst) == [1] && (t.port 3).rxq == []) = true ∧
    after (.rxDataFlit 3 (mkFlit bs true 1 1 4 7)) (s k) (fun t => got t 5 [(5, 9)] && out t [idle 5]) = true ∧
    after (.rxDataFlit 3 (good ^^^ 1)) (s k) (fun t => got t 5 k.replay && (t.port 3).dropping && err t 0 == 1 && out t [mkFlit [] true 0 2 5 0]) = true ∧
    after (.rxDataFlit 3 (mkFlit bs true 1 1 4 7)) (s { k with dropping := true }) (fun t => got t 5 k.replay && (t.port 3).dropping && out t [idle 5]) = true ∧
    after (.rxDataFlit 3 good) (s { k with dropping := true }) (fun t => got t 6 [(5, 9)] && !(t.port 3).dropping) = true ∧
    after (.rxDataFlit 3 headless) (s k) (fun t => (t.port 3).rxq == [] && t.regF (Pf.port 3 0x20) 16 16 == 1 && out t [mkFlit [1, 0] true 1 3 6 0]) = true ∧
    after (.rxNakFlit 3 (mkFlit [] true 0 2 3 0)) (s k) (fun t => err t 16 == 2 && (t.port 3).resent == [(4, 1), (5, 1)] && out t [8, 9]) = true ∧
    after (.rxNakFlit 3 (mkFlit [] true 0 2 5 0)) (s k) (fun t => err t 16 == 0 && out t [idle 5]) = true ∧
    after (.rxCreditFlit 3 (mkFlit [9, 0] true 1 3 5 6)) (s { k with allow := #v[1, 2, 3, 4] }) (fun t => (t.port 3).allow == #v[1, 11, 3, 4] && got t 6 []) = true ∧
    after (.rxIdleFlit 3 (mkFlit [] true 0 0 5 0)) (s k) (fun t => got t 5 [] && out t [idle 5]) = true := by decide +kernel

theorem witness_PacketsAreAccepted :
    let pass (s : State) : State := s.setReg (Pf.port 3 0x80) 0x10009
    let tables : State := ({ hbm := pathMem leafW } : State).setReg (Pf.chr 0 0) 0x10000000
    let s (k : Packet) (u : State) : State := pass (portIn 2 { rxq := [k] } 3 u)
    let typed (n vl : Nat) : Packet := { wire with h0 := BitVec.ofNat 64 (0x700000009 + n * 2 ^ 48 + vl * 2 ^ 56) }
    let fixP (n : Nat) : Packet := { typed n 0 with h2 := 0x0000000200004000, h3 := 0 }
    let err (t : State) (lo : Nat) : Nat := t.regF (Pf.port 3 0x18) lo 16
    let far : State := (fxBase (fxOn {} s0))
    let kept : Flow := { kept := [⟨{ h1 := 4 }, 0, 0, 0, none⟩, ⟨{ h1 := 5 }, 0, 0, 0, none⟩] }
    tables.walk 0 0x10000 = .page tlbA 0x4008 false ∧ (s wire {}).tagPass 3 9 0 = true ∧
    after (.pktRemoteWrite 3) (s { wire with h0 := 0x0103000700010009 } {}) (fun t => err t 48 == 0 && (t.port 3).rxq == [] && t.regF (Pf.port 3 0x20) 16 16 == 1) = true ∧
    after (.pktRemoteWrite 3) (s { wire with h0 := 0x0103000700000008 } {}) (fun t => err t 48 == 1 && (t.port 3).rxq == []) = true ∧
    after (.pktRemoteWrite 3) (s { wire with h1 := 0x00000008FFFFFFFF } {}) (fun t => err t 32 == 1) = true ∧
    after (.pktRemoteWrite 3) (s wire tables) (fun t => t.paRead none 0x20000 8 == 0x0807060504030201 && (t.flow 7 1).expect == 1) = true ∧
    after (.pktRemoteWrite 3) (s wire { tables with hbm := pathMem 0x0100000000020049 }) (fun t => t.dev.pilot.map (fun e => e.1) == [10]) = true ∧
    after (.pktRemoteFold 3) (s { typed 4 1 with h2 := 0x0700000000010000, data := [0, 0, 0x80, 0x3F] } tables) (fun t => t.dev.pilot == [(10, 0x10000, 4)]) = true ∧
    after (.pktRemoteFold 3) (s { typed 4 1 with h2 := 0x0800000000010000, data := [0, 0, 0x80, 0x3F] } tables) (fun t => t.paRead none 0x20000 4 == 0x3F800000) = true ∧
    after (.pktFixContribution 3) (s { fixP 1 with data := [0, 0, 0x80, 0x3F] } far) (fun t => t.noc.map NocItem.m == [.fix fxH 0 { rank := 2, tag := 0, vals := [0x3F800000], port := 3 }]) = true ∧
    after (.pktFixResult 3) (s (fixP 2) {}) (fun t => (AMap.get? t.dev.results 0x4000).isSome) = true ∧
    after (.pktWithheld 3) (s (fixP 6 |> fun k => { k with h0 := 0x0206000700000009 }) far) (fun t => (t.fix fxH).map FixObj.remoteHalted == some [2]) = true ∧
    after (.pktReleased 3) (s (fixP 7 |> fun k => { k with h0 := 0x0207000700000009 }) (far.setFixObj fxH { fxObj {} with remoteHalted := [2] })) (fun t =>
      (t.fix fxH).map FixObj.remoteHalted == some [] && (t.part 0).remote == [(0x5000000000004000, 1)]) = true ∧
    after (.pktE2eAck 3) (s { h0 := 0x0305000700000009, h1 := 4, h2 := 1 } (({} : State).setFlow 7 1 kept)) (fun t => (t.flow 7 1).kept.map (fun u => u.pkt.h1) == [5]) = true := by
  decide +kernel

theorem witness_FlowsAreLostAndHubsDrained :
    let k (n : Nat) : TxPkt := ⟨{ h0 := 0x0103000000070009, h1 := 4 }, 0, 0, n, none⟩
    let routed : State := ({ cyc := 200000 } : State).setReg (Pf.hub 0 0x1000) 0x8300000000000000
    let s (n : Nat) : State := routed.setFlow 7 1 { kept := [k n], next := 5 }
    let held : Packet := { h0 := 0x0103000000070009, h1 := 0 }
    let d : State := (portIn 2 { queue := [held] } 3 { cyc := 800000 }).setHub 0 { draining := [(0, 0)], cmb := [⟨0, false, 1, 0, 0, [], none⟩, ⟨1, false, 1, 0, 0, [], none⟩] }
    let gone : State := d.setPort 3 {}
    routed.routePort 0 7 = some 3 ∧
    after (.e2eTimeout 7 1) (s 0) (fun t => (t.flow 7 1).kept.map (fun u => (u.sentAt, u.resends)) == [(200000, 1)]) = true ∧
    after (.flowLost 7 1) (s 8) (fun t => (t.flow 7 1).lost && (t.flow 7 1).kept == [] && (t.reg (Pf.port 3 0x28)).getLsbD 2) = true ∧
    after (.flowLost 7 1) (({ } : State).setFlow 7 1 { kept := [k 0] }) (fun t => (t.flow 7 1).lost) = true ∧
    after (.flowReset 7) (s 0) (fun t => (t.flow 7 1).next == 5) = true ∧
    after (.flowReset 7) (((s 0).setPort 3 { queue := [held] }).setReg 0 1) (fun t => t.flow 7 1 == {} && (t.port 3).queue == []) = true ∧
    after (.hubDrainTimeout 0 0) d (fun t => (t.port 3).queue == [] && t.hubs == d.hubs) = true ∧
    after (.hubScrub 0 0) gone (fun t => (t.hub 0).cmb.map CmbEntry.part == [1] && (t.hub 0).draining == []) = true := by decide +kernel

/-! ### Invariants -/

theorem witness_MemoriesKeepTheirForm : State.reset.memWf ∧ (match step State.reset with | .next _ => true | _ => false) = true := by
  refine ⟨?_, by decide +kernel⟩
  simp [State.memWf, State.reset, Mem.wf, Mem.wfFrom]

theorem witness_FirmwareStaysChecked : State.reset.bootedWell ∧ (match step State.reset with | .next _ => true | _ => false) = true :=
  ⟨by simp [State.bootedWell, State.reset], by decide +kernel⟩

/-! ### Further clauses of the statements -/

theorem witness_LinksTrainAndFail_rest :
    let part : Port := { tx := [(1, wire, 0)], queue := [wire] }
    after (.linkEn 3 false) ((portIn 2 part 3).setReg 0 1) (fun t => t.portSt 3 == 0 && (t.port 3).tx == [] && (t.port 3).queue == []) = true ∧
    after (.trainingAttemptEnd 3 true true 0x45 0x45) (portIn 4 { part with queue := [], replay := [(8, 5)], attempts := 1 }) (fun t =>
      t.portSt 3 == 2 && (t.port 3).attempts == 0 && (t.port 3).out.take 1 == [5]) = true ∧
    after (.trainingTimeout 3) { portIn 4 { attempts := 2 } with cyc := 40000000 } (fun t => t.portSt 3 == 5) = true := by decide +kernel

theorem witness_FlitsAreReceived_rest :
    let s (k : Port) : State := portIn 2 k 3
    let k : Port := { rxGood := 5, replay := [(3, 7), (4, 8), (5, 9)], resent := [(3, 2), (5, 6)] }
    ((s { rxGood := 5 }).idleFlit 3).port 3 = { rxGood := 5, out := [mkFlit [] true 0 0 5 0] } ∧
    (k.acked 4).replay = [(5, 9)] ∧ (k.acked 4).resent = [(5, 6)] ∧ k.acked 9 = k ∧
    after (.rxNakFlit 3 (mkFlit [] true 0 2 3 0)) (s k) (fun t => (t.port 3).resent == [(4, 1), (5, 7)]) = true := by decide +kernel

theorem witness_FlowsAreLostAndHubsDrained_ports :
    let p : Packet := { h0 := 0x0103000000070009, h1 := 4 }
    let k (n : Nat) : TxPkt := ⟨p, 0, 0, n, none⟩
    let s (st : Nat) (q : Port) : State :=
      (((portIn st q 3 { cyc := 200000 }).setReg (Pf.hub 0 0x1000) 0x8300000000000000).setReg (Pf.port 3 0x80) 0x10009).setFlow 7 1
        { kept := [k 0], next := 5 }
    let full : Port := { replay := (List.range 512).map (fun i => (BitVec.ofNat 12 i, 0)) }
    let part : Port := { tx := [(1, p, 1)], queue := [p] }
    (s 1 {}).tagPass 3 9 0 = true ∧
    after (.e2eTimeout 7 1) (s 1 {}) (fun t => (t.port 3).queue == [p]) = true ∧
    after (.e2eTimeout 7 1) (s 2 full) (fun t => (t.port 3).queue == [p] && (t.port 3).out == []) = true ∧
    after (.e2eTimeout 7 1) (s 2 {}) (fun t => (t.port 3).queue == [] &&
      (t.port 3).out == [mkFlit (p.pieces.getD 0 []) true 1 1 0xFFF 0]) = true ∧
    ((s 2 part).loseFlow 7 1 0).port 3 = {} ∧ ((s 2 part).loseFlow 7 0 0).port 3 = part ∧
    after (.flowReset 7) ((s 2 part).setReg 0 1) (fun t => (t.port 3).tx == []) = true := by decide +kernel

theorem witness_FlowsAreLostAndHubsDrained_drain :
    let p : Packet := { h0 := 0x0103000000070009, h1 := 4 }
    let d (n : Nat) : State := (portIn 2 { tx := [(1, p, 1)], queue := [p] } 3 { cyc := n }).setHub 0 { draining := [(0, 0)] }
    after (.hubDrainTimeout 0 0) (d 800000) (fun t => (t.port 3).tx == [] && (t.port 3).queue == [] && t.regF (Pf.port 3 0x20) 16 16 == 2) = true ∧
    after (.hubScrub 0 0) ((d 9).setPort 3 {}) (fun t => !(t.reg (Pf.hub 0 8)).getLsbD 0) = true := by decide +kernel

theorem witness_CoreDumps_header :
    let d (size : Word) : State := (((s0.setReg 0 1).setReg 0x208 size).setReg 0x200 0x4000).setReg 0x210 1
    (d 64).pilotRuns = true ∧
    after (.coreDumpStart 0 1 3) (d 64) (fun t => (t.dev.dump.map (fun e => (e.flags, e.header, e.reads, e.recs))) == some (1, true, [56], 0)) = true ∧
    after (.coreDumpStart 0 1 3) (d 8255) (fun t => (t.dev.dump.map Dump.header) == some true && t.hostMem.read 0x4000 8 != 0) = true ∧
    after (.coreDumpStart 0 1 3) (d 8256) (fun t => (t.dev.dump.map Dump.header) == some false) = true := by decide +kernel

theorem witness_MessagesTravel_grants :
    let g : Grant := ⟨4, 64, 2⟩
    let s (b : Mailbox) : State := { s0.setCore 1 { ctxs := (Vector.replicate 11 {}).set 0 { st := .live, block := [77] }, mboxes := [(3, b)] } with
      noc := [⟨7, .grant 0 1 3 g, [], 0, some 3, none⟩], cyc := 6 }
    after (.mailboxGrant 7) (s { gen := 5 }) (fun t => (AMap.get? t.me.grants 19).isNone && t.noc == []) = true ∧
    after (.mailboxGrant 7) (s { gen := 4, rebind := some ⟨77, 0, 0x4083⟩ }) (fun t => AMap.get? t.me.grants 19 == some g &&
      (t.ctx 1 0).answer == some (0, 0) && (t.ctx 1 0).block == [] && ((t.core 1).mbox 3).rebind.isNone) = true := by decide +kernel

theorem witness_MessagesAreReceived_rebind :
    let s := withG [0x4083] (s0.setMe (s0.me.setMbox 3 { gen := 4, rebind := some ⟨77, 1, 0x4083⟩ }))
    runs (.mbind (.g 1) mW) mW s (fun t => decide (t = s)) = true := by decide +kernel

/- A release frees the contexts that wait at its core, each with the descriptor of its instance. -/
theorem witness_BarriersComplete_freed :
    let b : Barrier := { desc := some bar02, waiting := [0, 2] }
    let s : State := { s0.setMe (s0.me.setBar 5 b) with noc := [⟨7, .barRelease 5 bar02 0, [], 0, some 3, none⟩], cyc := 6 }
    after (.barrierRelease 7) s (fun t => let c := t.me.bar 5; c.waiting == [] && AMap.get? c.freed 0 == some bar02 &&
      AMap.get? c.freed 2 == some bar02 && c.seen == 1) = true := by decide +kernel

/- A word for core (1, 1) is readable 2 mesh cycles and two links after its offset. -/
theorem witness_TimetablePhases_readable : s0.dev.fencedLinks = [] ∧ s0.ttReadable 0 33 5 = 9 := by decide +kernel

/- The first member departs from a table of three ranks, two of them on devices 6 and 9, and those are told; a table that is not there
raises 0x02. -/
theorem witness_FixInstructions_departs :
    let d := fxDesc [0x8_1_21_0001_0003, 1, BitVec.ofNat 64 (ownBase + 0x1000), 0x8000000000010000, 0, 0, 8, 0]
    let f : FixObj := { fxObj {} with desc := d, table := [0, 6, 9] }
    let s := fxBase ((fxOn {} (withG [0x4000])).setFixObj fxH f)
    let i := Instr.fxdef (.g 3) (.g 1) mW
    let lost := (withG [BitVec.ofNat 64 (ownBase + 0x800)] (s0.setMe (s0.me.scrWrite 0x800 64 d.toNat)))
    f.rankOf 0 0 = some 0 ∧
    runs (.fxlv (.g 1) mW) mW s (fun t => t.dev.told == [(6, fxH, 0), (9, fxH, 0)] && (t.fix fxH).map FixObj.departed == some [0]) = true ∧
    lost.fxMembers 0 d = none ∧ fxOk1 d = true ∧
    runs i mW lost (fun t => t.my.cause == 0x02) = true := by decide +kernel

/- CHQ of a task whose TCB's page is not mapped, in a partition that does not cache it. -/
theorem witness_ChartroomInstructions_missing :
    let s := (withG [5]).setReg (Pf.chr 0 0) 0x10000000
    s.tcb? 0 5 = none ∧ runs (.chq (.g 3) (.g 1) mW) mW s (fun t => t.my.cause == 0x72 && t.my.faddr == 5 && t.my.st == .halted) = true := by
  decide +kernel

/- An access that waits at a moving boundary is performed before the control context starts. -/
theorem witness_GangsArePlacedAndRetired_entry :
    let s : State := { cores := [(0, { moving := true, scratch := 64, ctxs := (Vector.replicate 11 {}).set 0 { pc := 0x1000, noWs := true } })]
                       flight := [{ id := 7, core := 1, ctx := 0, op := .write 0x55, locs := [(.scr 0 0x800, 8)] }] }
    s.linkBusy 1 0 = false ∧
    after (.kernelEntry 0) s (fun t => !(t.core 0).moving && (t.ctx 0 0).st == .live && t.flight.map Access.performed == [true] &&
      (t.core 0).scr.read 0x800 8 == 0x55) = true := by decide +kernel

/- The end of a grace period leaves a FAULTED and a READY task as they are; the gangs of a DRAINING one are stopped. -/
theorem witness_TasksAreStopped_grace :
    let s (st : Word) : State := inGang 5 (gang0 5) (task 5 [(0, st), (3, 0xA0001)] s0)
    (s 7).graceEnd 0 5 = s 7 ∧ (s 3).graceEnd 0 5 = s 3 ∧ ((s 5).graceEnd 0 5).tcbSt 0 5 = 5 ∧
    (((s 5).graceEnd 0 5).part 0).gangs.all Gang.draining = true ∧ ((s 4).graceEnd 0 5).tcbSt 0 5 = 8 := by decide +kernel

/- f32 minimum and maximum of 1.5 and 2.0 in the own scratchpad. -/
theorem witness_FloatAtomicAdds_minMax :
    let f := mW .f32
    let s := withG [BitVec.ofNat 64 (ownBase + 0x800), 0x40000000] (s0.setMe (s0.me.scrWrite 0x800 4 0x3FC00000))
    let gets (i : Instr) (v : Nat) : Bool := runs i f s (fun t => g3 t == 0x3FC00000 && t.me.scrRead true 0x800 4 == v && t.my.fpsr == s.my.fpsr)
    gets (.amin (.g 3) (.g 1) (.g 2) f) 0x3FC00000 = true ∧ gets (.amax (.g 3) (.g 1) (.g 2) f) 0x40000000 = true := by decide +kernel

/- WAITA with a limit and a scope, and a poll that comes back with another value. -/
theorem witness_WaitaReturnsTheFirstDifferentValue_polled :
    let m : Mods := { mX with mod := 0x40 }
    let a := BitVec.ofNat 64 (ownBase + 0x800)
    let i := Instr.waita .i32 (.g 3) (.g 1) (.g 2) (.g 4) m
    let s := withG [a, 0xFFFFFF85, 0, 9] (s0.setMe (s0.me.scrWrite 0x800 4 0xFFFFFF85))
    let c (l : L1Line) : State := s.setMe { s.me with l1 := [l] }
    runs i m s (fun t => t.my.wait.map Wait.limit == some 9 && t.my.wait.map Wait.on == some .poll) = true ∧
    goesOn i [a, 0xFFFFFF85, 9] (at_ (fun k => { k with wait := some { on := .poll, arrived := true }, answer := some (0, 7) }) (c lineA))
      (fun t => g3 t == 7 && t.me.l1 == [] && t.my.wait.isNone) = true := by decide +kernel

/- A copy through a view whose home has not made the advance that this core has seen is not accepted; a read that faults leaves its row's
whole elements. -/
theorem witness_Copies_views :
    let home : Rose := { bound := true, base := 0x2000, slots := 4, slotbytes := 64, barrier := 5, gen := 9 }
    let t := fxDesc [0xFF00000300100000, BitVec.ofNat 64 (ownBase + 0x1000), BitVec.ofNat 64 (2 ^ 32 + 64), 0x4000000040,
      BitVec.ofNat 64 (2 ^ 32 + 40), 0, 0, 0]
    let s (seen : AMap Nat) : State :=
      let u := withG [5]
      let c := (u.me.setBar 5 { desc := some bar02, rels := [(bar02.toNat, 1)] }).setRose 1 { home with view := true, hcore := 1, hregion := 2, hgen := 9 }
      (u.setMe { c with tpls := [(5, t)] }).setCore 1 { scratch := 64, roses := [(2, home)], bars := [(5, { desc := some bar02, rels := seen })] }
    (s []).copyViews 0 t 5 = false ∧ (s [(bar02.toNat, 1)]).copyViews 0 t 5 = true ∧
    runs (.xst 2 (.g 1) mW) mW (s []) (fun u => decide (u = s [])) = true ∧
    runs (.xst 2 (.g 1) mW) mW (s [(bar02.toNat, 1)]) (fun u => (u.me.chan 2).queue.length == 1) = true := by decide +kernel

/- The flag of a deferred copy at a translated address. -/
theorem witness_CopiesRunAndEnd_flag :
    let t := fxDesc [BitVec.ofNat 64 (ownBase + 0x800), BitVec.ofNat 64 (ownBase + 0x1000), BitVec.ofNat 64 (2 ^ 32 + 64), 0x4000000040,
      BitVec.ofNat 64 (2 ^ 32 + 40), 0x4000, 0x10000, 0x99]
    let c : Copy := { tpl := t, word := 0x1005, ctx := 0, wsp := BitVec.ofNat 64 ownBase, seq := 5, defer := true }
    let s := s0.setMe (s0.me.setChan 2 { running := some c, seq := 5 })
    c.flags = true ∧ s.linksFree 0 0x10000 8 = true ∧
    after (.copyComplete 0 2) s (fun u => (u.me.chan 2).running.isNone && ((u.me.chan 2).status.extractLsb' 8 8) == 0x11#8 &&
      (u.me.chan 2).status.getLsbD 2) = true := by decide +kernel

theorem witness_VectorInstructionsEnter_full :
    let s := withG [0, 4]
    let a := Instr.vadd 5 1 2 (mW .i32)
    let fullq : State := s.setMe { s.me with vq := [{ id := 1, ctx := 0, instr := a }, { id := 2, ctx := 0, instr := a }] }
    [Instr.vred 5 1 (mW .i32), .vextr (.g 3) 1 (.g 2) (mW .i32), .vins 5 (.g 1) (.g 2) (mW .i32)].all (fun i =>
      runs i (mW .i32) fullq (fun t => t.my.wait.map Wait.on == some .vector && t.my.pc == s0.my.pc && t.me.vq.length == 2)) = true := by
  decide +kernel

theorem witness_MatrixInstructionsEnter_full :
    let k : MCmd := { id := 5, ctx := 0, instr := .mfence mW }
    let s := (withG [BitVec.ofNat 64 (ownBase + 0x800), 0]).setMe { (withG [BitVec.ofNat 64 (ownBase + 0x800), 0]).me with mq := [k, k] }
    [Instr.mfence mW, .mupl (.g 2) mW, .mzero (.g 2) mW, .mwld (.g 2) (.g 1) mW].all (fun i => runs i mW s (fun t => decide (t = s))) = true := by
  decide +kernel

/- A microprogram of R380: T := A x B, then C := C + T, over K = 4 pairs of 1.0 and 2.0 with C = 1.0. -/
theorem witness_MatrixCommandsComplete_map :
    let m : Mods := { mX .f32 with mod := 8 }
    let c20 : State := s0.setMe { (s0.me.setRow 20 (lanesOf 32 (List.replicate 64 0x3F800000))) with mup := 0x0980093A }
    let k : MCmd := { id := 5, ctx := 0, instr := .mmap (.g 2) (.g 1) m, word := tileWord 4, seq := 4,
                      data := (List.replicate 64 [0, 0, 0x80, 0x3F]).flatten, bdata := (List.replicate 64 [0, 0, 0, 0x40]).flatten }
    after (.matrixCommandComplete 0) ((c20.setMe { c20.me with mrun := some k }).setOctet 0 { matrix := some 0 })
      (fun t => laneOf (t.me.row 3) 32 15 == 0x41100000 && laneOf (t.me.row 3) 32 16 == 0 && laneOf (t.me.row 18) 32 0 == 0x41000000 && t.me.mrun.isNone) = true := by
  decide +kernel

/- MLD and MST of two rows of three f32, and what a granted command reads. -/
theorem witness_MatrixCommandsComplete_moves :
    let m : Mods := { mX .f32 with mod := 8 }
    let a := BitVec.ofNat 64 (ownBase + 0x800)
    let on (k : MCmd) (s : State) : State := (s.setMe { s.me with mrun := some k }).setOctet 0 { matrix := some 0 }
    let cmd (i : Instr) (w : Word) : MCmd := { id := 5, ctx := 0, instr := i, word := w, addr := a, pitch := 16, seq := 4 }
    let w : Word := 0x30205
    let five : State := s0.setMe ((s0.me.setRow 5 (lanesOf 32 [1, 2, 3, 4])).setRow 6 (lanesOf 32 [7, 8, 9]))
    let bytes : List Byte := [1, 2, 3, 4].flatMap (fun v => [v, 0, 0, 0])
    after (.matrixCommandComplete 0) (on { cmd (.mld (.g 2) (.g 1) m) w with data := bytes ++ [5, 0, 0, 0, 6, 0, 0, 0] } s0) (fun t =>
      (List.range 4).map (laneOf (t.me.row 5) 32) == [1, 2, 3, 0] && (List.range 4).map (laneOf (t.me.row 6) 32) == [4, 5, 6, 0]) = true ∧
    after (.matrixCommandComplete 0) (on (cmd (.mst (.g 2) (.g 1) m) w) five) (fun t =>
      t.me.scrRead true 0x800 16 == 1 + 2 * 2 ^ 32 + 3 * 2 ^ 64 && t.me.scrRead true 0x810 16 == 7 + 8 * 2 ^ 32 + 9 * 2 ^ 64 && t.me.rows == five.me.rows) = true ∧
    after (.matrixGrant 0) ((ganged (s0.setMe (s0.me.scrWrite 0x800 64 0xABCD))).setMe
        { (ganged (s0.setMe (s0.me.scrWrite 0x800 64 0xABCD))).me with mq := [cmd (.mwld (.g 2) (.g 1) mW) 0x800] })
      (fun t => (t.me.mrun.map (fun k => (k.data, k.fault))) == some ([0xCD, 0xAB] ++ List.replicate 62 0, none)) = true := by decide +kernel

/- A halt whose release has a store to wait for takes its id at once. -/
theorem witness_WaitsEndByHaltsAndLimits_awaits :
    let s := storing ((at_ (fun k => { k with wait := some { on := .helper 2 } })).setCtx 0 2 { st := .halted, hrec := haltRec 3 2 0x11 0 none })
    after (.haltOnWithheld 0 0) s (fun t => t.my.st == .live && t.my.haltAs == some 1 && t.my.block == [7] && t.regF (Pf.hltStat 0) 0 48 == 2 &&
      t.my.halting == some (0xA0, s0.my.pc, some ⟨6, 2, false, some (0, 2, 3)⟩)) = true := by decide +kernel

/- A walk whose entry has an uncorrectable error, a core that has joined a walk, and the end of a drained trace. -/
theorem witness_TranslationsAreWalkedAndInvalidated_rest :
    let w : Walk := { id := 7, core := 0, root := 0, va := 0x12345 }
    let s : State := { s0 with hbm := pathMem leafW, dies := [(0, { walks := [w] })] }
    let blocked (s : State) : State := at_ (fun k => { k with block := [7] }) s
    let far : State := s.setCore 1 { ctxs := (Vector.replicate 11 {}).set 3 { block := [7] } }
    let tr : State := (s0.setMe { s0.me with trace := [(0x11, 0x22)], trOff := some 0x4000 }).setReg (Pf.dbg 0 0x188) 0x11
    after (.pageWalkComplete 7) (blocked { s with ecc := [(0x4000, [3, 5])] }) (fun t => t.my.walkFault == some (1, 0x14) && (t.die 0).walks == []) = true ∧
    after (.pageWalkComplete 7) far (fun t => (t.core 1).tlb.head? == some tlbA && t.me.tlb == [tlbA] && (t.die 0).walks == []) = true ∧
    after (.traceRecordWrite 0) { tr with cyc := 0x99 } (fun t => t.reg (Pf.dbg 0 0x188) == 0x4000 && t.me.trOff.isNone && t.me.trace == []) = true := by
  decide +kernel

/- A masked VADD under an accumulator watchpoint while its mask row is still to be written: the step is the fetch alone. -/
theorem witness_StepRunsTheDecodedInstruction_lanes :
    let m : Mods := { mX .i32 with mask := 1 }
    let i := Instr.vadd 5 1 2 m
    let code (s : State) : State := (encode i).zipIdx.foldl (fun s e => s.setMe (s.me.scrWrite (0x200 + 4 * e.2) 4 e.1.toNat)) s
    let s := (code s0).setReg (Pf.dbg 0 0x90) (BitVec.ofNat 64 (2 ^ 21 + 3 * 2 ^ 4 + 2 * 2 ^ 6))
    let t (s : State) : State := { s.setMe { s.me with claims := [⟨5, 0, BitVec.ofNat 128 (2 ^ 121)⟩] } with agenda := [.issue 0 0] }
    (t s).lanesUnknown 0 0 i = true ∧
    (match fetch { t s with agenda := [] }, step (t s) with
     | .ok (ws, u), .next r => decide (decodeWords ws matches .ok (_, [])) && u.my.fbuf.isSome && decide (r = u)
     | _, _ => false) = true := by decide +kernel
/-! ### Words of every major form, from the map of R271 and the formats of R257, R259 and R263 -/

/-- The words decode to the instruction, with nothing left. -/
def dec (ws : List (BitVec 32)) (i : Instr) : Bool :=
  match decodeWords ws with
  | .ok (j, []) => decide (j = i)
  | _ => false

theorem test_decodes_integer :
    [dec [0x07908304] (.add (.g 3) (.o 1) (.g 30) (mW .i64)),
     dec [0x27908304] (.sub (.g 3) (.o 1) (.g 30) (mW .i64)),
     dec [0x47908304] (.and (.g 3) (.o 1) (.g 30) (mW .i64)),
     dec [0x67908304] (.or (.g 3) (.o 1) (.g 30) (mW .i64)),
     dec [0x87908304] (.xor (.g 3) (.o 1) (.g 30) (mW .i64)),
     dec [0xA7908304] (.andn (.g 3) (.o 1) (.g 30) (mW .i64)),
     dec [0xC7908304] (.shl (.g 3) (.o 1) (.g 30) (mW .i64)),
     dec [0xE7908304] (.shr (.g 3) (.o 1) (.g 30) (mW .i64)),
     dec [0x07908308] (.sar (.g 3) (.o 1) (.g 30) (mW .i64)),
     dec [0x27908308] (.ror (.g 3) (.o 1) (.g 30) (mW .i64)),
     dec [0x47908308] (.min (.g 3) (.o 1) (.g 30) (mW .i64)),
     dec [0x67908308] (.max (.g 3) (.o 1) (.g 30) (mW .i64)),
     dec [0x87908308] (.mul (.g 3) (.o 1) (.g 30) (mW .i64)),
     dec [0xA7908308] (.mulh (.g 3) (.o 1) (.g 30) (mW .i64)),
     dec [0xC7908308] (.div (.g 3) (.o 1) (.g 30) (mW .i64)),
     dec [0xE7908308] (.rem (.g 3) (.o 1) (.g 30) (mW .i64)),
     dec [0x0010830C] (.clz (.g 3) (.o 1) (mW .i64)),
     dec [0x2010830C] (.ctz (.g 3) (.o 1) (mW .i64)),
     dec [0x4010830C] (.popc (.g 3) (.o 1) (mW .i64)),
     dec [0x6010830C] (.brev (.g 3) (.o 1) (mW .i64)),
     dec [0x8790830C] (.ext (.g 3) (.o 1) (.g 30) (mW .i64)),
     dec [0xA790830C] (.ins (.g 3) (.o 1) (.g 30) (mW .i64)),
     dec [0xC790830C] (.lea (.g 3) (.o 1) (.g 30) (mW .i64)),
     dec [0xE010830C] (.mov (.g 3) (.o 1) (mW .i64)),
     dec [0xFF908310] (.addi (.g 3) (.o 1) 0x3FE (mW .i64)),
     dec [0xA7908514] (.cmpp .len 5 (.o 1) (.g 30) (mW .i64)),
     dec [0xA7908318] (.setc .len (.g 3) (.o 1) (.g 30) (mW .i64)),
     dec [0xC790831C] (.sel 6 (.g 3) (.o 1) (.g 30) (mW .i64))].all id = true := by decide +kernel

theorem test_decodes_float :
    [dec [0x07908320] (.fadd (.g 3) (.o 1) (.g 30) (mW .f32)),
     dec [0x27908320] (.fsub (.g 3) (.o 1) (.g 30) (mW .f32)),
     dec [0x47908320] (.fmul (.g 3) (.o 1) (.g 30) (mW .f32)),
     dec [0x67908320] (.fmulz (.g 3) (.o 1) (.g 30) (mW .f32)),
     dec [0x87908320] (.fdiv (.g 3) (.o 1) (.g 30) (mW .f32)),
     dec [0xA7908320] (.fmin (.g 3) (.o 1) (.g 30) (mW .f32)),
     dec [0xC7908320] (.fmax (.g 3) (.o 1) (.g 30) (mW .f32)),
     dec [0xE7908322, 0x00FE0100, 0] (.fma (.g 3) (.o 1) (.g 30) (.imm 31) (mX .f32)),
     dec [0x00108324] (.fsqrt (.g 3) (.o 1) (mW .f32)),
     dec [0x20108324] (.fneg (.g 3) (.o 1) (mW .f32)),
     dec [0x40108324] (.fabs (.g 3) (.o 1) (mW .f32)),
     dec [0x60108324] (.fclass (.g 3) (.o 1) (mW .f32)),
     dec [0x80108326, 0x080000C0, 0] (.fcvt (.g 3) (.o 1) { mX .i64 with mod := 0x8 }),
     dec [0xA7908528] (.fcmpp .ord 5 (.o 1) (.g 30) (mW .f32)),
     dec [0x0142852C] (.pand 5 5 5 (mW .i8)),
     dec [0x2142852C] (.por 5 5 5 (mW .i8)),
     dec [0x4142852C] (.pxor 5 5 5 (mW .i8)),
     dec [0x6002852C] (.pnot 5 5 (mW .i8)),
     dec [0x8000032C] (.ppack (.g 3) (mW .i8)),
     dec [0xA010802C] (.punpk (.o 1) (mW .i8))].all id = true := by decide +kernel

theorem test_decodes_control :
    [dec [0xFFFFBD30] (.br 0xFFFFB true 5 (mW .i8)),
     dec [0xFFFFFB34] (.jmp 0xFFFFFB (mW .i8)),
     dec [0xFFFFFB38] (.call 0xFFFFFB (mW .i8)),
     dec [0x0010803C] (.jmpr (.o 1) (mW .i8)),
     dec [0x0050803C] (.callr (.o 1) (mW .i8)),
     dec [0x0080003C] (.ret (mW .i8)),
     dec [0x00C0053C] (.enter 5 (mW .i8)),
     dec [0x0100003C] (.leave (mW .i8)),
     dec [0x0140003C] (.nop (mW .i8)),
     dec [0x0180003C] (.halt (mW .i8)),
     dec [0x01C0053C] (.trap 5 (mW .i8)),
     dec [0x8790833C] (.sysc (.g 3) (.o 1) (.g 30) (mW .i8)),
     dec [0x0240003C] (.eret (mW .i8)),
     dec [0xFFFD8340] (.loop 0x1FFFB (.g 3) (mW .i8))].all id = true := by decide +kernel

theorem test_decodes_context :
    [dec [0x87908344] (.hstart (.g 3) (.o 1) (.g 30) (mW .i8)),
     dec [0x00508344] (.hjoin (.g 3) (.o 1) (mW .i8)),
     dec [0x00800044] (.hexit (mW .i8)),
     dec [0x00C00344] (.cid (.g 3) (mW .i8)),
     dec [0x01108344] (.mcrd (.g 3) (.o 1) (mW .i8)),
     dec [0x01508044] (.yield (.o 1) (mW .i8)),
     dec [0x01810344] (.srd (.g 3) .tvec (mW .i8)),
     dec [0x01D08244] (.swr .tvec (.o 1) (mW .i8)),
     dec [0x02108344] (.wspx (.g 3) (.o 1) (mW .i8)),
     dec [0x02668344] (.qstat (.g 3) 5 (mW .i8)),
     dec [0x02A68044] (.qflush 5 (mW .i8)),
     dec [0x02D08044] (.tlbi (.o 1) (mW .i8)),
     dec [0x03000044] (.bkpt (mW .i8)),
     dec [0x03508044] (.prog (.o 1) (mW .i8)),
     dec [0x03908044] (.trace (.o 1) (mW .i8)),
     dec [0x03D08344] (.ckset (.g 3) (.o 1) (mW .i8))].all id = true := by decide +kernel

theorem test_decodes_memory :
    [dec [0xFAD08348] (.ld (.g 3) (.o 1) .n16 0x7D (mW .i8)),
     dec [0xFAD0834C] (.st (.g 3) (.o 1) .n16 0x7D (mW .i8)),
     dec [0x67908350] (.ldx .n16 (.g 3) (.o 1) (.g 30) (mW .i8)),
     dec [0x67908354] (.stx .n16 (.g 3) (.o 1) (.g 30) (mW .i8)),
     dec [0x5AD08358] (.lda (.g 3) (.o 1) .n16 0x5 .die (mW .i8)),
     dec [0x5AD0835C] (.stl (.g 3) (.o 1) .n16 0x5 .die (mW .i8)),
     dec [0x00108060] (.pref (.o 1) .zr (mW .i8)),
     dec [0x00508060] (.cwb (.o 1) .zr (mW .i8)),
     dec [0x00908060] (.cinv (.o 1) .zr (mW .i8)),
     dec [0x00D08060] (.cdisc (.o 1) .zr (mW .i8)),
     dec [0x01108060] (.czero (.o 1) .zr (mW .i8)),
     dec [0x01400060] (.ifence (mW .i8)),
     dec [0x01800360] (.fence .full (mW .i8)),
     dec [0x67908364] (.waita .n16 (.g 3) (.o 1) (.g 30) .zr (mW .i8))].all id = true := by decide +kernel

theorem test_decodes_atomic :
    [dec [0x07908368] (.aadd (.g 3) (.o 1) (.g 30) (mW .i64)),
     dec [0x27908368] (.aand (.g 3) (.o 1) (.g 30) (mW .i64)),
     dec [0x47908368] (.aor (.g 3) (.o 1) (.g 30) (mW .i64)),
     dec [0x67908368] (.axor (.g 3) (.o 1) (.g 30) (mW .i64)),
     dec [0x87908368] (.amin (.g 3) (.o 1) (.g 30) (mW .i64)),
     dec [0xA7908368] (.amax (.g 3) (.o 1) (.g 30) (mW .i64)),
     dec [0xC7908368] (.aswp (.g 3) (.o 1) (.g 30) (mW .i64)),
     dec [0xE790836A, 0x00000100, 0] (.afadd (.g 3) (.o 1) (.g 30) (mX .f32)),
     dec [0x0790836E, 0x00FE00C0, 0] (.acas (.g 3) (.o 1) (.g 30) (.imm 31) (mX .i64))].all id = true := by decide +kernel

theorem test_decodes_sync :
    [dec [0x00028370] (.binit 5 (.g 3) (mW .i8)),
     dec [0x00428070] (.barr 5 (mW .i8)),
     dec [0x00828370] (.bwait (.g 3) 5 .zr (mW .i8)),
     dec [0x00C28370] (.barw (.g 3) 5 .zr (mW .i8)),
     dec [0x01028370] (.bstat (.g 3) 5 (mW .i8)),
     dec [0x01508570] (.roseb 5 (.o 1) (mW .i8)),
     dec [0x01828370] (.roseq (.g 3) 5 (mW .i8)),
     dec [0x01C00570] (.rosex 5 (mW .i8)),
     dec [0x00108076, 0x00FE0000, 0] (.msend (.o 1) (.imm 31) (mX .i8)),
     dec [0x00508374] (.msendr (.g 3) (.o 1) .zr (mW .i8)),
     dec [0x00908374] (.mrecv (.g 3) (.o 1) .zr (mW .i8)),
     dec [0x00D08374] (.mrecvr (.g 3) (.o 1) .zr (mW .i8)),
     dec [0x01108074] (.mbind (.o 1) (mW .i8)),
     dec [0x01508374] (.mstat (.g 3) (.o 1) (mW .i8)),
     dec [0x00108078] (.ttgo (.o 1) (mW .i8)),
     dec [0x00508378] (.ttsend (.g 3) (.o 1) (mW .i8)),
     dec [0x00908378] (.ttrecv (.g 3) (.o 1) (mW .i8)),
     dec [0x00C00078] (.ttend (mW .i8)),
     dec [0x01000378] (.ttq (.g 3) (mW .i8))].all id = true := by decide +kernel

theorem test_decodes_engines :
    [dec [0x0010837C] (.fxdef (.g 3) (.o 1) (mW .i8)),
     dec [0x0050807C] (.fxjoin (.o 1) (mW .i8)),
     dec [0x0090837E, 0x00FE0000, 0] (.fxc (.g 3) (.o 1) (.imm 31) (mX .i8)),
     dec [0x00D0837C] (.fxw (.g 3) (.o 1) .zr (mW .i8)),
     dec [0x0110837C] (.fxq (.g 3) (.o 1) (mW .i8)),
     dec [0x0150807C] (.fxlv (.o 1) (mW .i8)),
     dec [0x00108580] (.xtpl 5 (.o 1) (mW .i8)),
     dec [0x00508580] (.xst 5 (.o 1) (mW .i8)),
     dec [0x00800580] (.xcan 5 (mW .i8)),
     dec [0x00C28380] (.xstat (.g 3) 5 (mW .i8)),
     dec [0x00108084] (.charm (.o 1) (mW .i8)),
     dec [0x00508084] (.chdec (.o 1) (mW .i8)),
     dec [0x00908384] (.chpatch (.g 3) (.o 1) (mW .i8)),
     dec [0x00C00384] (.chcard (.g 3) (mW .i8)),
     dec [0x01108084] (.chdone (.o 1) (mW .i8)),
     dec [0x01508384] (.chq (.g 3) (.o 1) (mW .i8))].all id = true := by decide +kernel

theorem test_decodes_vector :
    [dec [0x0080858A, 0x00000080, 0] (.vadd 5 1 2 (mX .i32)),
     dec [0x2080858A, 0x00000080, 0] (.vsub 5 1 2 (mX .i32)),
     dec [0x4080858A, 0x00000080, 0] (.vmul 5 1 2 (mX .i32)),
     dec [0x6080858A, 0x00000100, 0] (.vmulz 5 1 2 (mX .f32)),
     dec [0x8080858A, 0x00060120, 0] (.vfma 5 1 2 3 (mX .bf16)),
     dec [0xA080858A, 0x00000080, 0] (.vmin 5 1 2 (mX .i32)),
     dec [0xC080858A, 0x00000080, 0] (.vmax 5 1 2 (mX .i32)),
     dec [0xE080858A, 0x00FE0080, 0] (.vsacc 5 1 2 (.imm 31) (mX .i32)),
     dec [0x0080858E, 0x00000080, 0] (.vand 5 1 2 (mX .i32)),
     dec [0x2080858E, 0x00000080, 0] (.vor 5 1 2 (mX .i32)),
     dec [0x4080858E, 0x00000080, 0] (.vxor 5 1 2 (mX .i32)),
     dec [0x6080858E, 0x00000080, 0] (.vshl 5 1 2 (mX .i32)),
     dec [0x8080858E, 0x00000080, 0] (.vshr 5 1 2 (mX .i32)),
     dec [0xA080858E, 0x00000080, 0] (.vsar 5 1 2 (mX .i32)),
     dec [0xC000858E, 0x00000080, 0] (.vabs 5 1 (mX .i32)),
     dec [0xE000858E, 0x00000080, 0] (.vneg 5 1 (mX .i32)),
     dec [0x00808592, 0x00000080, 0] (.vcmp 5 1 2 (mX .i32)),
     dec [0x20808592, 0x00000080, 0] (.vsel 5 1 2 (mX .i32)),
     dec [0x40008592, 0x19000100, 0] (.vcvt 5 1 { mX .f32 with mod := 0x19 }),
     dec [0x60008592, 0x00000080, 0] (.vmov 5 1 (mX .i32)),
     dec [0x80000592, 0x00FE0080, 0] (.viota 5 (.imm 31) (mX .i32)),
     dec [0xA0000592, 0x00FE0080, 0] (.vbcast 5 (.imm 31) (mX .i32)),
     dec [0xC0008392, 0x00FE0080, 0] (.vextr (.g 3) 1 (.imm 31) (mX .i32)),
     dec [0xE0108592, 0x00FE0080, 0] (.vins 5 (.o 1) (.imm 31) (mX .i32))].all id = true := by decide +kernel

theorem test_decodes_vector2 :
    [dec [0x00008596, 0x00000080, 0] (.vred 5 1 (mX .i32)),
     dec [0x20008596, 0x00000080, 0] (.vscan 5 1 (mX .i32)),
     dec [0x40808596, 0x00000080, 0] (.vperm 5 1 2 (mX .i32)),
     dec [0x60008596, 0x00000100, 0] (.vsf 5 1 (mX .f32)),
     dec [0x80808596, 0x00000000, 0] (.vmk 5 1 2 (mX .i8)),
     dec [0xA0008396, 0x00000000, 0] (.vmpop (.g 3) 1 (mX .i8)),
     dec [0xC0000096, 0x00000000, 0] (.vfence (mX .i8)),
     dec [0x0000059A, 0x00FE0080, 0] (.vld 5 (.imm 31) (mX .i32)),
     dec [0x2000059A, 0x00FE0080, 0] (.vst 5 (.imm 31) (mX .i32)),
     dec [0x4010859A, 0x00FE0080, 0] (.vlds 5 (.o 1) (.imm 31) (mX .i32)),
     dec [0x6010859A, 0x00FE0080, 0] (.vsts 5 (.o 1) (.imm 31) (mX .i32)),
     dec [0x8000859A, 0x00FE0080, 0] (.vgath 5 1 (.imm 31) (mX .i32)),
     dec [0xA000859A, 0x00FE0080, 0] (.vscat 5 1 (.imm 31) (mX .i32))].all id = true := by decide +kernel

theorem test_decodes_matrix :
    [dec [0x001083C0] (.mwld (.g 3) (.o 1) (mW .i8)),
     dec [0x005083C2, 0x09000120, 0] (.mma (.g 3) (.o 1) { mX .bf16 with mod := 0x9 }),
     dec [0x009083C2, 0x01FE0000, 0] (.mmag (.g 3) (.o 1) (.imm 31) { mX .i8 with mod := 0x1 }),
     dec [0x00D083C2, 0x0A000140, 0] (.mmap (.g 3) (.o 1) { mX .f16 with mod := 0xA }),
     dec [0x010003C0] (.mupl (.g 3) (mW .i8)),
     dec [0x014003C0] (.mzero (.g 3) (mW .i8)),
     dec [0x018003C0] (.mtr (.g 3) (mW .i8)),
     dec [0x01D083C2, 0x04000100, 0] (.mst (.g 3) (.o 1) { mX .f32 with mod := 0x4 }),
     dec [0x021083C2, 0x08000100, 0] (.mld (.g 3) (.o 1) { mX .f32 with mod := 0x8 }),
     dec [0x024003C0] (.msacc (.g 3) (mW .i8)),
     dec [0x028000C0] (.mfence (mW .i8)),
     dec [0x02C003C0] (.mstatMatrix (.g 3) (mW .i8))].all id = true := by decide +kernel


end Sys2Proof.Tests
end

section
/-! PROOFS of the family 00_scope: writes of registers over the links (R5, R54, R58, R61, R63). -/

namespace Sys2Proof.Machine

/-! ### Register writes (R5, R54, R58) -/

/-- Below the fix, halt, debug and sounding registers a write has no effect beside the stored value. -/
theorem State.linkWrite_plain (s : State) {a : Nat} (v : Word) (hlow : a < 0x500000) (hd : a ≠ dumpCtl) (hh : regHome a = a) :
    s.linkWrite a v =
      if (regBits a).rw = 0 ∧ (regBits a).w1c = 0 then s else s.setReg a ((regBits a).put (s.reg a) v) := by
  unfold State.linkWrite
  rw [hh]
  dsimp only
  rw [if_neg hd, if_neg (by omega), if_neg (by omega), if_neg (by omega), if_neg (by omega)]

/-- Each bit of a written register, by the access codes of R5. -/
theorem Bits.getLsbD_put (b : Bits) (old v : Word) {i : Nat} (hi : i < 64) :
    (b.put old v).getLsbD i =
      ((old.getLsbD i && !b.rw.getLsbD i || v.getLsbD i && b.rw.getLsbD i) && !(v.getLsbD i && b.w1c.getLsbD i)) := by
  simp [Bits.put, hi]

/-- A write leaves every register but the one written, the cores and the device, and changes that one by the access codes of its
bits. -/
def State.WrittenBy (s t : State) (a : Nat) (v : Word) : Prop :=
  (∀ c : Nat, c ≠ a → t.reg c = s.reg c) ∧ t.cores = s.cores ∧ t.dev = s.dev ∧ ∀ i : Nat, i < 64 →
    ((regBits a).rw.getLsbD i = true → (regBits a).w1c.getLsbD i = false → (t.reg a).getLsbD i = v.getLsbD i) ∧
    ((regBits a).rw.getLsbD i = false → (regBits a).w1c.getLsbD i = true →
      (t.reg a).getLsbD i = ((s.reg a).getLsbD i && !v.getLsbD i)) ∧
    ((regBits a).rw.getLsbD i = false → (regBits a).w1c.getLsbD i = false → (t.reg a).getLsbD i = (s.reg a).getLsbD i)

theorem State.writtenBy_setReg (s : State) (a : Nat) (v : Word) :
    s.WrittenBy (s.setReg a ((regBits a).put (s.reg a) v)) a v := by
  refine ⟨fun c hc => AMap.getD_set_other _ _ _ hc, rfl, rfl, fun i hi => ?_⟩
  have hreg : (s.setReg a ((regBits a).put (s.reg a) v)).reg a = (regBits a).put (s.reg a) v := AMap.getD_set_same _ _ _ _
  rw [hreg, Bits.getLsbD_put _ _ _ hi]
  refine ⟨fun hrw hw1c => ?_, fun hrw hw1c => ?_, fun hrw hw1c => ?_⟩ <;> simp [hrw, hw1c]

theorem State.writtenBy_linkWrite (s : State) {a : Nat} (v : Word) (hlow : a < 0x500000) (hd : a ≠ dumpCtl) (hh : regHome a = a) :
    s.WrittenBy (s.linkWrite a v) a v := by
  rw [State.linkWrite_plain s v hlow hd hh]
  split
  next hnone =>
    obtain ⟨hrw, hw1c⟩ := hnone
    exact ⟨fun _ _ => rfl, rfl, rfl, fun i _ => ⟨by simp [hrw], by simp [hw1c], fun _ _ => rfl⟩⟩
  next => exact State.writtenBy_setReg s a v

theorem exec_registerWrite (src : RegWriter) (a : Nat) (v : Word) (s : State) :
    exec (.registerWrite src a v) s = execRegisterWrite src a v s := rfl

theorem execRegisterWrite_pilot (s : State) (a : Nat) (v : Word) :
    exec (.registerWrite .pilot a v) s = .next (if s.pilotRuns then s.linkWrite a v else s) := by
  rw [exec_registerWrite, execRegisterWrite]
  cases h : s.pilotRuns <;> simp [runEvent, h]

theorem execRegisterWrite_host (s : State) (tee : Bool) {a : Nat} (v : Word) (ha : a < 0x1000000) :
    exec (.registerWrite (.host tee) a v) s = .next (if s.ready || early a then s.linkWrite a v else s) := by
  rw [exec_registerWrite, execRegisterWrite]
  cases h : (s.ready || early a) <;> simp [runEvent, h, Nat.not_le.2 ha]

theorem execRegisterWrite_vf (s : State) (tee : Bool) {a : Nat} (v : Word) (ha : 0x1000000 ≤ a) :
    exec (.registerWrite (.host tee) a v) s = .next ((s.hostVfWrite tee a v).getD s) := by
  rw [exec_registerWrite, execRegisterWrite]
  simp [runEvent, ha]

/-! ### Addresses of VF registers (R54) -/

theorem vf_function {f off : Nat} (hoff : off < 0x10000) : (Pf.vf f off - 0x1000000) / 0x10000 = f := by
  unfold Pf.vf; omega

theorem vf_offset {f off : Nat} (hoff : off < 0x10000) : Pf.vf f off % 0x10000 = off := by
  unfold Pf.vf; omega

theorem le_vf (f off : Nat) : 0x1000000 ≤ Pf.vf f off := by
  unfold Pf.vf; omega

/-- A VF that does not answer discards writes and reads as 0. -/
theorem State.vfDown (s : State) (tee : Bool) {f off : Nat} (v : Word) (hoff : off < 0x10000) (h : s.vfUp f = false) :
    s.hostVfWrite tee (Pf.vf f off) v = none ∧ s.hostRead tee (Pf.vf f off) = 0 := by
  have := le_vf f off
  constructor
  · simp [State.hostVfWrite, vf_function hoff, h]
  · simp [State.hostRead, vf_function hoff, h, Nat.not_lt.2 this]

/-- In RUN the TEE-private registers discard writes without the TEE bit, and read as 0. -/
theorem State.vfPrivate (s : State) {f off : Nat} (v : Word) (hoff : off < 0x10000) (hp : 0x80 ≤ off) (hrun : s.tdisp f = 2) :
    s.hostVfWrite false (Pf.vf f off) v = none ∧ s.hostRead false (Pf.vf f off) = 0 := by
  have := le_vf f off
  constructor
  · simp [State.hostVfWrite, vf_function hoff, vf_offset hoff, hrun, hp]
  · simp [State.hostRead, vf_function hoff, vf_offset hoff, hrun, hp, Nat.not_lt.2 this]

theorem early_iff (a : Nat) : early a = true ↔ a ∈ [0, 0x40, 0x48] := by
  simp [early, or_assoc]

theorem answersEarly_iff (a : Nat) : answersEarly a = true ↔ a ∈ [0, 0x40, 0x48, 0x50, 0x58] := by
  simp only [answersEarly, Bool.or_eq_true, decide_eq_true_eq, early_iff]
  simp [fwCmd, fwStat, or_assoc]

/-- Settles O53: each write of the three kinds is reduced to `linkWrite` or to nothing, and `linkWrite` below 0x500000 to the access
codes of the register's bits. -/
theorem registerWritesFollowTheirAccess : Obligations.RegisterWritesFollowTheirAccess := by
  unfold Obligations.RegisterWritesFollowTheirAccess
  intro s a v
  refine ⟨fun hlow hd hh => ⟨fun hp => ?_, fun tee hopen => ?_, fun hrw hw1c hp => ?_⟩, fun hheld => ?_, fun tee hlow hr ha => ?_,
    fun tee hlow hr ha => ?_, fun tee f off _ _ hoff ha => ?_⟩
  · exact ⟨_, by rw [execRegisterWrite_pilot, if_pos hp], State.writtenBy_linkWrite s v hlow hd hh⟩
  · have hearly : (s.ready || early a) = true := by
      rw [Bool.or_eq_true, early_iff]
      exact hopen
    exact ⟨_, by rw [execRegisterWrite_host s tee v (by omega), if_pos hearly], State.writtenBy_linkWrite s v hlow hd hh⟩
  · exact ⟨_, by rw [execRegisterWrite_pilot, if_pos hp, State.linkWrite_plain s v hlow hd hh, if_pos ⟨hrw, hw1c⟩], rfl⟩
  · exact ⟨_, by rw [execRegisterWrite_pilot, hheld]; rfl, rfl⟩
  · have hclosed : (s.ready || answersEarly a) = false := by
      rw [Bool.or_eq_false_iff]
      exact ⟨hr, Bool.eq_false_iff.2 fun h => ha ((answersEarly_iff a).1 h)⟩
    simp [State.hostRead, hlow, hclosed]
  · have hclosed : (s.ready || early a) = false := by
      rw [Bool.or_eq_false_iff]
      exact ⟨hr, Bool.eq_false_iff.2 fun h => ha ((early_iff a).1 h)⟩
    exact ⟨_, by rw [execRegisterWrite_host s tee v hlow, hclosed]; rfl, rfl⟩
  · subst ha
    have hw (tee : Bool) (h : s.hostVfWrite tee (Pf.vf f off) v = none) :
        exec (.registerWrite (.host tee) (Pf.vf f off) v) s = .next s := by
      rw [execRegisterWrite_vf s tee v (le_vf f off), h]; rfl
    refine ⟨fun hdown => ?_, fun _ hpriv hrun => ?_⟩
    · obtain ⟨hwrite, hread⟩ := State.vfDown s tee v hoff hdown
      exact ⟨⟨_, hw tee hwrite, rfl⟩, hread⟩
    · obtain ⟨hwrite, hread⟩ := State.vfPrivate s v hoff hpriv hrun
      exact ⟨⟨_, hw false hwrite, rfl⟩, hread⟩

end Sys2Proof.Machine
end

section
/-! PROOFS of the family 00_scope, O59. The form of the byte memories (R3, R9, R128, R134): what it means for an answer, a stop and a
computation to keep it, and the rules of choices, lists of updates and computations.

The model writes bytes by Mem.set, write, setBytes and zero only, drops them by a filter, or starts a memory empty, and each of these
gives the canonical form. Every operation is a composition of these and of updates that leave the memories alone: the sections below
follow the files of the model, with one lemma per operation, up to the step. -/

namespace Sys2Proof.Machine

/-! ### What is answered -/

/-- What is answered, if anything is, satisfies P. -/
def Gives {α : Type} (P : α → Prop) : Option α → Prop
  | some a => P a
  | none => True

/-- What a computation that succeeds answers satisfies P. -/
def GivesOk {ε α : Type} (P : α → Prop) : Except ε α → Prop
  | .ok a => P a
  | .error _ => True

/-- What a stop leaves of a state, or makes stand in it, has the form that the state has. -/
def Stop.Keeps : Stop → Prop
  | .raiseKeep _ _ g => ∀ s : State, s.memWf → (g s).memWf
  | .wait g => ∀ s : State, s.memWf → (g s).memWf
  | .block g => ∀ s : State, s.memWf → (g s).memWf
  | .raise _ _ => True
  | .withheld _ => True

/-- A computation has ended in a state whose memories have their form, or in a stop that keeps it. -/
def Ends {α : Type} : Except Stop (α × State) → Prop
  | .ok p => p.2.memWf
  | .error e => e.Keeps

/-- A computation keeps the form of the memories. -/
def Sem.Keeps {α : Type} (f : Sem α) : Prop := ∀ s : State, s.memWf → Ends (f s)

/-- The next state, if one is answered, has memories in their form. -/
def NextWf : Host.Outcome State Fault Refusal → Prop
  | .next t => t.memWf
  | _ => True

/-- The cores of a partition's checkpoint images have memories in their form. -/
def Part.memWf (p : Part) : Prop := ∀ e ∈ p.images, ∀ k ∈ e.2, k.2.2.memWf = true

/-! ### Choices -/

theorem State.memWf_ite {c : Prop} [Decidable c] {s t : State} (hs : s.memWf) (ht : t.memWf) : (if c then s else t).memWf := by
  split
  · exact hs
  · exact ht

theorem Core.ite_memWf {p : Prop} [Decidable p] {c d : Core} (hc : c.memWf = true) (hd : d.memWf = true) :
    (if p then c else d).memWf = true := by
  split
  · exact hc
  · exact hd

theorem Gives.ite {α : Type} {P : α → Prop} {c : Prop} [Decidable c] {o q : Option α} (ho : Gives P o) (hq : Gives P q) :
    Gives P (if c then o else q) := by
  split
  · exact ho
  · exact hq

theorem GivesOk.ite {ε α : Type} {P : α → Prop} {c : Prop} [Decidable c] {o q : Except ε α} (ho : GivesOk P o) (hq : GivesOk P q) :
    GivesOk P (if c then o else q) := by
  split
  · exact ho
  · exact hq

theorem Ends.ite {α : Type} {c : Prop} [Decidable c] {o q : Except Stop (α × State)} (ho : Ends o) (hq : Ends q) :
    Ends (if c then o else q) := by
  split
  · exact ho
  · exact hq

theorem NextWf.ite {c : Prop} [Decidable c] {o q : Host.Outcome State Fault Refusal} (ho : NextWf o) (hq : NextWf q) :
    NextWf (if c then o else q) := by
  split
  · exact ho
  · exact hq

theorem Option.getD_memWf {o : Option State} {s : State} (ho : Gives State.memWf o) (hs : s.memWf) : (o.getD s).memWf := by
  cases o with
  | none => exact hs
  | some t => exact ho

theorem Gives.map_all {α β : Type} {Q : β → Prop} {f : α → β} {o : Option α} (hf : ∀ a, Q (f a)) : Gives Q (o.map f) :=
  match o with
  | none => trivial
  | some a => hf a

/-! ### What a case of an answer knows -/

theorem Gives.of_eq {α : Type} {P : α → Prop} {o q : Option α} (e : o = q) (h : Gives P o) : Gives P q := e ▸ h
theorem Gives.snd_of_eq {α : Type} {o : Option (α × State)} {a : α} {s : State} (e : o = some (a, s))
    (h : Gives (fun p => p.2.memWf) o) : s.memWf := by
  subst e; exact h
theorem GivesOk.of_eq {ε α : Type} {P : α → Prop} {o q : Except ε α} (e : o = q) (h : GivesOk P o) : GivesOk P q := e ▸ h
theorem Ends.ok_of_eq {α : Type} {o : Except Stop (α × State)} {a : α} {s : State} (e : o = .ok (a, s)) (h : Ends o) : s.memWf :=
  (e ▸ h : Ends (.ok (a, s)))
theorem Ends.error_of_eq {α : Type} {o : Except Stop (α × State)} {r : Stop} (e : o = .error r) (h : Ends o) : r.Keeps :=
  (e ▸ h : Ends (.error r))

theorem NextWf.of_eq {r : Host.Outcome State Fault Refusal} {t : State} (e : r = .next t) (h : NextWf r) : t.memWf :=
  (e ▸ h : NextWf (.next t))

theorem memWf_of_fst {α : Type} {p : State × α} {s : State} {a : α} (e : p = (s, a)) (h : p.1.memWf) : s.memWf := by
  subst e; exact h
theorem memWf_of_snd {α : Type} {p : α × State} {s : State} {a : α} (e : p = (a, s)) (h : p.2.memWf) : s.memWf := by
  subst e; exact h
theorem memWf_of_snd_snd {α β : Type} {p : α × β × State} {s : State} {a : α} {b : β} (e : p = (a, b, s)) (h : p.2.2.memWf) :
    s.memWf := by
  subst e; exact h

/-! ### Lists of updates -/

theorem foldl_memWf {α : Type} {f : State → α → State} {l : List α} {s : State} (hf : ∀ s a, s.memWf → (f s a).memWf) (h : s.memWf) :
    (l.foldl f s).memWf := by
  induction l generalizing s with
  | nil => exact h
  | cons a l ih => exact ih (hf s a h)

/-- An update of a state with something beside it. -/
theorem foldl_fst_memWf {α β : Type} {f : State × β → α → State × β} {l : List α} {p : State × β}
    (hf : ∀ p a, p.1.memWf → (f p a).1.memWf) (h : p.1.memWf) : (l.foldl f p).1.memWf := by
  induction l generalizing p with
  | nil => exact h
  | cons a l ih => exact ih (hf p a h)

theorem foldl_snd_memWf {α β : Type} {f : β × State → α → β × State} {l : List α} {p : β × State}
    (hf : ∀ p a, p.2.memWf → (f p a).2.memWf) (h : p.2.memWf) : (l.foldl f p).2.memWf := by
  induction l generalizing p with
  | nil => exact h
  | cons a l ih => exact ih (hf p a h)

theorem foldl_snd_snd_memWf {α β γ : Type} {f : β × γ × State → α → β × γ × State} {l : List α} {p : β × γ × State}
    (hf : ∀ p a, p.2.2.memWf → (f p a).2.2.memWf) (h : p.2.2.memWf) : (l.foldl f p).2.2.memWf := by
  induction l generalizing p with
  | nil => exact h
  | cons a l ih => exact ih (hf p a h)

/-- An update that can be refused. -/
theorem GivesOk.foldl {ε α β : Type} {P : β → Prop} {f : Except ε β → α → Except ε β} {l : List α} {r : Except ε β}
    (hf : ∀ r a, GivesOk P r → GivesOk P (f r a)) (h : GivesOk P r) : GivesOk P (l.foldl f r) := by
  induction l generalizing r with
  | nil => exact h
  | cons a l ih => exact ih (hf r a h)

theorem Core.foldl_memWf {α : Type} {f : Core → α → Core} {l : List α} {c : Core} (hf : ∀ c a, c.memWf = true → (f c a).memWf = true)
    (h : c.memWf = true) : (l.foldl f c).memWf = true := by
  induction l generalizing c with
  | nil => exact h
  | cons a l ih => exact ih (hf c a h)

/-! ### Parts of a state -/

/-- No field but the memories counts. -/
theorem State.memWf_with {s : State}
    {octets : AMap Octet} {ports : AMap Port} {hubs : AMap Hub} {dev : Dev} {regs : AMap Word} {keyGen : AMap Nat}
    {keys lineKey : AMap (BitVec 512)} {fills : List (Nat × Nat × BitVec 512)} {ecc : AMap (List Nat)}
    {corrected granuleErrs : AMap Nat} {foldStats : AMap (BitVec 5)} {flight : List Access} {noc : List NocItem}
    {cyc nextId fresh : Nat} {cur : Nat × Nat} {agenda : List Move}
    (h : s.memWf) :
    ({ s with
        octets := octets, ports := ports, hubs := hubs, dev := dev, regs := regs, keyGen := keyGen, keys := keys, lineKey := lineKey,
        fills := fills, ecc := ecc, corrected := corrected, granuleErrs := granuleErrs, foldStats := foldStats, flight := flight,
        noc := noc, cyc := cyc, nextId := nextId, fresh := fresh, cur := cur, agenda := agenda } : State).memWf := h

/-- No field of a core but its memories counts. -/
theorem Core.memWf_with {c : Core}
    {ctxs : Vector Ctx 11} {mf : List MfEntry} {qs : Vector QReg 8} {bars : AMap Barrier} {roses : AMap Rose} {mboxes : AMap Mailbox}
    {grants : AMap Grant} {sendq : List SendCmd} {tpls : AMap Line} {chans : AMap Channel} {vq vrun : List VCmd} {mq : List MCmd}
    {mrun : Option MCmd} {mstat : MStat} {mup : Word} {mupIssued : Bool} {rows : AMap (BitVec 2048)} {claims : List Claim}
    {scratch stack : Nat} {l1 : List L1Line} {fifo : List Nat} {tlb : List TlbEnt} {gang : Option GangRef} {phase : Option Phase}
    {fixes : AMap FixObj} {trace missed : List (Word × Word)} {rplPos : Nat} {trStop trFull : Bool} {trOff : Option Word}
    {moving : Bool}
    (h : c.memWf = true) :
    ({ c with
        ctxs := ctxs, mf := mf, qs := qs, bars := bars, roses := roses, mboxes := mboxes, grants := grants, sendq := sendq,
        tpls := tpls, chans := chans, vq := vq, vrun := vrun, mq := mq, mrun := mrun, mstat := mstat, mup := mup,
        mupIssued := mupIssued, rows := rows, claims := claims, scratch := scratch, stack := stack, l1 := l1, fifo := fifo, tlb := tlb,
        gang := gang, phase := phase, fixes := fixes, trace := trace, missed := missed, rplPos := rplPos, trStop := trStop,
        trFull := trFull, trOff := trOff, moving := moving } : Core).memWf = true := h

/-- No field of a partition but its images counts. -/
theorem Part.memWf_with {p : Part}
    {svc : List Svc} {svcSeq : Nat} {svcLast : Nat × Nat} {tcbs : AMap (Vector Word 16)} {patching : List (Nat × Nat)}
    {reqs : List ChartReq} {gangs : List Gang} {gangNum : Nat} {passed : AMap Nat} {redeal : AMap (List Chunk)}
    {lost : AMap (List Gang)} {faulty grace : AMap Nat} {preempts : List Nat} {lastPlace : Option Nat} {lastNum : Nat}
    {resv : Option (Nat × List (Nat × Nat))} {failed : List Nat} {origins : AMap (List (Nat × Nat))} {pause : AMap Nat}
    {log : AMap (List LogEnt)} {wdog : AMap Nat} {lastTry : Nat} {recs : List (Vector Word 4)}
    {stage : AMap (Option Word × Option Word)} {kept : AMap (List Chunk)} {snd : Nat} {inv : Option (List Nat)}
    {chain : List (Nat × Nat)} {remote : List (Word × Nat)}
    (h : p.memWf) :
    ({ p with
        svc := svc, svcSeq := svcSeq, svcLast := svcLast, tcbs := tcbs, patching := patching, reqs := reqs, gangs := gangs,
        gangNum := gangNum, passed := passed, redeal := redeal, lost := lost, faulty := faulty, grace := grace, preempts := preempts,
        lastPlace := lastPlace, lastNum := lastNum, resv := resv, failed := failed, origins := origins, pause := pause, log := log,
        wdog := wdog, lastTry := lastTry, recs := recs, stage := stage, kept := kept, snd := snd, inv := inv, chain := chain,
        remote := remote } : Part).memWf := h

/-- The memories of a core are its scratchpad and its weight slice. -/
theorem Core.memWf_iff {c : Core} : c.memWf = true ↔ c.scr.wf = true ∧ c.wts.wf = true := by
  simp only [Core.memWf, Bool.and_eq_true]

theorem State.memWf_me {s : State} (h : s.memWf) : s.me.memWf = true := State.memWf_core h _

theorem Core.memWf_setCtx {c : Core} {x : Nat} {k : Ctx} (h : c.memWf = true) : (c.setCtx x k).memWf = true :=
  (Core.setCtx_memWf c x k).trans h
theorem Core.memWf_setQ {c : Core} {n : Nat} {q : QReg} (h : c.memWf = true) : (c.setQ n q).memWf = true :=
  (Core.setQ_memWf c n q).trans h
theorem Core.memWf_setRow {c : Core} {n : Nat} {v : BitVec 2048} (h : c.memWf = true) : (c.setRow n v).memWf = true := h
theorem Core.memWf_setBar {c : Core} {n : Nat} {b : Barrier} (h : c.memWf = true) : (c.setBar n b).memWf = true := h
theorem Core.memWf_setRose {c : Core} {n : Nat} {r : Rose} (h : c.memWf = true) : (c.setRose n r).memWf = true := h
theorem Core.memWf_setMbox {c : Core} {n : Nat} {m : Mailbox} (h : c.memWf = true) : (c.setMbox n m).memWf = true := h
theorem Core.memWf_setChan {c : Core} {n : Nat} {k : Channel} (h : c.memWf = true) : (c.setChan n k).memWf = true := h
theorem Core.memWf_setFix {c : Core} {n : Nat} {f : FixObj} (h : c.memWf = true) : (c.setFix n f).memWf = true := h

/-- A read that first writes entries back (R108). -/
theorem Core.scrServe_memWf {c : Core} {off n : Nat} (h : c.memWf = true) : (c.scrServe off n).memWf = true := by
  unfold Core.scrServe
  exact Core.ite_memWf (Core.memWf_with (Core.mfBacks_memWf _ h)) h

theorem Die.setTlb_scr_wf {d : Die} {p : Nat} {ts : List TlbEnt} (h : d.scr.wf = true) : (d.setTlb p ts).scr.wf = true := h

theorem State.memWf_setFlow {s : State} {dev vl : Nat} {f : Flow} (h : s.memWf) : (s.setFlow dev vl f).memWf := h

theorem State.memWf_getPart {s : State} (h : s.memWf) (p : Nat) : (s.part p).memWf := State.memWf_part h p

theorem State.memWf_putPart {s : State} {n : Nat} {p : Part} (h : s.memWf) (hp : p.memWf) : (s.setPart n p).memWf :=
  State.memWf_setPart n h hp

theorem State.memWf_setHostMem {s : State} {m : Mem} (h : s.memWf) (hm : m.wf = true) : ({ s with hostMem := m } : State).memWf := by
  obtain ⟨hhbm, _, hcores, hdies, hparts⟩ := h
  exact ⟨hhbm, hm, hcores, hdies, hparts⟩

/-- An update of every core that keeps each one's memories. -/
theorem State.memWf_mapCores {s : State} {f : Nat × Core → Nat × Core} (h : s.memWf)
    (hf : ∀ p, p.2.memWf = true → (f p).2.memWf = true) : ({ s with cores := s.cores.map f } : State).memWf := by
  obtain ⟨hhbm, hhost, hcores, hdies, hparts⟩ := h
  refine ⟨hhbm, hhost, fun c hc => ?_, hdies, hparts⟩
  obtain ⟨p, hp, rfl⟩ := List.mem_map.1 hc
  exact hf p (hcores p hp)

/-! ### Computations -/

namespace Sem.Keeps

variable {α β : Type}

theorem pure {a : α} : Sem.Keeps (Pure.pure a : Sem α) := fun _ h => h

theorem bind {f : Sem α} {g : α → Sem β} (hf : Sem.Keeps f) (hg : ∀ a, Sem.Keeps (g a)) : Sem.Keeps (f >>= g) := by
  intro s h
  have h1 := hf s h
  cases hr : f s with
  | error e => rw [Sem.bind_error hr]; exact (hr ▸ h1 : Ends (.error e))
  | ok p => rw [Sem.bind_ok hr]; exact hg p.1 p.2 (hr ▸ h1 : Ends (.ok p))

theorem getS_bind {g : State → Sem β} (hg : ∀ s : State, s.memWf → Sem.Keeps (g s)) : Sem.Keeps (getS >>= g) :=
  fun s h => hg s h s h

theorem getMe_bind {g : Core → Sem β} (hg : ∀ c : Core, c.memWf = true → Sem.Keeps (g c)) : Sem.Keeps (getMe >>= g) :=
  fun s h => hg s.me (State.memWf_me h) s h

theorem getMy : Sem.Keeps getMy := fun _ h => h
theorem freshId : Sem.Keeps freshId := fun _ h => h
theorem putS {t : State} (h : t.memWf) : Sem.Keeps (putS t) := fun _ _ => h
theorem modS {f : State → State} (hf : ∀ s, s.memWf → (f s).memWf) : Sem.Keeps (modS f) := fun s h => hf s h
theorem modMy {f : Ctx → Ctx} : Sem.Keeps (modMy f) := fun _ h => State.memWf_setMy _ h
theorem modMe {f : Core → Core} (hf : ∀ c, c.memWf = true → (f c).memWf = true) : Sem.Keeps (modMe f) :=
  fun s h => State.memWf_setMe h (hf s.me (State.memWf_me h))

theorem raise {c : BitVec 8} {f : Word} : Sem.Keeps (raise c f : Sem α) := fun _ _ => trivial
theorem notYet {g : State → State} (hg : ∀ s, s.memWf → (g s).memWf) : Sem.Keeps (notYet g : Sem α) := fun _ _ => hg
theorem raise_bind {c : BitVec 8} {f : Word} {g : α → Sem β} : Sem.Keeps ((Machine.raise c f : Sem α) >>= g) := fun _ _ => trivial
theorem notYet_bind {k : State → State} {g : α → Sem β} (hk : ∀ s, s.memWf → (k s).memWf) : Sem.Keeps ((Machine.notYet k : Sem α) >>= g) :=
  fun _ _ => hk
theorem blocked {g : State → State} (hg : ∀ s, s.memWf → (g s).memWf) : Sem.Keeps (blocked g : Sem α) := fun _ _ => hg

theorem check {b : Bool} {c : BitVec 8} {f : Word} : Sem.Keeps (check b c f) := by
  intro s h
  cases b with
  | false => trivial
  | true => exact h

theorem ite {c : Prop} [Decidable c] {f g : Sem α} (hf : Sem.Keeps f) (hg : Sem.Keeps g) : Sem.Keeps (if c then f else g) := by
  split
  · exact hf
  · exact hg

theorem mapM {f : α → Sem β} {l : List α} (hf : ∀ a, Sem.Keeps (f a)) : Sem.Keeps (l.mapM f) := by
  induction l with
  | nil => rw [List.mapM_nil]; exact pure
  | cons a l ih => rw [List.mapM_cons]; exact bind (hf a) fun _ => bind ih fun _ => pure

end Sem.Keeps

/-- Everything that reading a source can do keeps the form. -/
theorem src_keeps {o : Opnd} {m : Mods} {t : SrcTy} : Sem.Keeps (src o m t) := by
  intro s h
  cases hr : src o m t s with
  | ok p => exact State.memWf_src h hr
  | error e =>
    obtain ⟨-, g, rfl, hg⟩ := src_stop m t s hr
    intro u hu
    rw [hg u]
    exact hu

/-! ### Events -/

theorem runEvent_memWf {s : State} {f : State → Option State} (h : s.memWf) (hf : ∀ s, s.memWf → Gives State.memWf (f s)) :
    NextWf (runEvent s f) := Option.getD_memWf (hf s h) h

theorem runPilot_memWf {s : State} {f : State → Option State} (h : s.memWf) (hf : ∀ s, s.memWf → Gives State.memWf (f s)) :
    NextWf (runPilot s f) := runEvent_memWf h fun s hs => Gives.ite (hf s hs) trivial

end Sys2Proof.Machine
end

section
/-! PROOFS of the family 00_scope, O59 (Machine/Translate.lean): HBM behind the L2, page walks and TLBs. -/

namespace Sys2Proof.Machine

theorem State.memWf_report {s : State} {kind : Nat} {a b : Word} (h : s.memWf) : (s.report kind a b).memWf := h

theorem State.memWf_newId {s : State} (h : s.memWf) : s.newId.2.memWf := h

theorem State.memWf_countCorrected {s : State} {l : Nat} (h : s.memWf) : (s.countCorrected l).memWf := by
  unfold State.countCorrected
  exact State.memWf_ite h (State.memWf_report h)

theorem State.memWf_eccEvent {s : State} {pa : Nat} (h : s.memWf) : (s.eccEvent pa).memWf := State.memWf_report h

/-- The write of a line to HBM. -/
theorem State.memWf_hbmPut {s : State} {pa : Nat} {v : Line} {under : Option (BitVec 512)} (h : s.memWf) :
    (s.hbmPut pa v under).memWf := by
  obtain ⟨hhbm, hrest⟩ := h
  dsimp only [State.hbmPut, State.memWf]
  exact ⟨Mem.wf_write _ _ _ _ hhbm, hrest⟩

theorem State.memWf_l2Evict {s : State} {l : L2Line} (h : s.memWf) : (s.l2Evict l).memWf := by
  unfold State.l2Evict
  exact State.memWf_ite (State.memWf_hbmPut h) h

theorem State.memWf_l2Put {s : State} {l : L2Line} (h : s.memWf) : (s.l2Put l).memWf := by
  unfold State.l2Put
  extract_lets _ _ _ _ _
  split
  · exact State.memWf_setDie _ h (State.memWf_die h _)
  · extract_lets s1
    have hs1 : s1.memWf := State.memWf_l2Evict h
    exact State.memWf_setDie _ hs1 (State.memWf_die h _)

theorem State.memWf_l2Fill {s : State} {pa : Nat} {key : Option Nat} (h : s.memWf) : (s.l2Fill pa key).memWf := by
  unfold State.l2Fill
  exact State.memWf_ite h (State.memWf_l2Put (State.memWf_countCorrected h))

/-- A write that reaches the L2 or, where the line is not held, HBM (R134). -/
theorem State.memWf_l2Write {s : State} {pa : Nat} {key : Option Nat} {data : Line} {mask : BitVec 64} (h : s.memWf) :
    (s.l2Write pa key data mask).memWf := by
  unfold State.l2Write
  dsimp only
  split
  · obtain ⟨hhbm, hrest⟩ := h
    dsimp only [State.memWf]
    exact ⟨Mem.wf_write _ _ _ _ hhbm, hrest⟩
  · exact State.memWf_l2Put (State.memWf_ite (State.memWf_countCorrected h) h)

theorem State.memWf_paWrite {s : State} {key : Option Nat} {pa : Nat} {bs : List Byte} (h : s.memWf) : (s.paWrite key pa bs).memWf := by
  induction bs generalizing s pa with
  | nil => exact h
  | cons b bs ih => exact ih (State.memWf_l2Write h)

theorem State.memWf_l2Zero {s : State} {pa key : Nat} (h : s.memWf) : (s.l2Zero pa key).memWf := by
  unfold State.l2Zero
  exact State.memWf_l2Put h

theorem State.memWf_l2Reads {s : State} {key : Option Nat} {ls : List Nat} (h : s.memWf) : (s.l2Reads key ls).memWf := by
  unfold State.l2Reads
  exact foldl_memWf (fun _ _ => State.memWf_l2Fill) h

theorem State.memWf_walkReads {s : State} {part va : Nat} (h : s.memWf) : (s.walkReads part va).memWf := by
  unfold State.walkReads
  exact State.memWf_l2Reads h

/-- A page zero-filled on first touch. -/
theorem State.memWf_zeroFill {s : State} {t : TlbEnt} {entry : Nat} (h : s.memWf) : (s.zeroFill t entry).memWf := by
  unfold State.zeroFill
  extract_lets d out s1 s2 e
  have hs1 : s1.memWf := State.memWf_setDie _ h (State.memWf_die h _)
  have hs2 : s2.memWf := by
    obtain ⟨hhbm, hrest⟩ := hs1
    dsimp only [s2, State.memWf]
    exact ⟨Mem.wf_zero _ _ _ hhbm, hrest⟩
  exact State.memWf_paWrite hs2

theorem State.memWf_recordBad {s : State} {part level reason entry : Nat} (h : s.memWf) :
    (s.recordBad part level reason entry).memWf := by
  unfold State.recordBad
  exact State.memWf_ite h (State.memWf_setReg _ _ h)

theorem State.memWf_tlbInstall {s : State} {n : Nat} {t : TlbEnt} (h : s.memWf) : (s.tlbInstall n t).memWf := by
  unfold State.tlbInstall
  extract_lets _ s1 _ s2 old
  have hs1 : s1.memWf := State.memWf_setDie _ h (Die.setTlb_scr_wf (State.memWf_die h _))
  have hs2 : s2.memWf := State.memWf_setOctet _ _ hs1
  have hold : old.memWf = true := State.memWf_core hs2 _
  exact State.memWf_setCore _ hs2 (Core.memWf_with hold)

theorem State.memWf_partWrite {s : State} {part va : Nat} {bs : List Byte} (h : s.memWf) : (s.partWrite part va bs).memWf := by
  unfold State.partWrite
  split
  · exact State.memWf_paWrite (State.memWf_ite (State.memWf_zeroFill h) h)
  · exact h

theorem State.memWf_unmapped {s : State} {reg addr : Nat} (h : s.memWf) : (s.unmapped reg addr).memWf := by
  unfold State.unmapped
  exact State.memWf_pilotEvent _ _ _ h

theorem State.memWf_tableRead {s : State} {part reg va n : Nat} (h : s.memWf) : (s.tableRead part reg va n).memWf := by
  unfold State.tableRead
  extract_lets s1
  have hs1 : s1.memWf := State.memWf_walkReads h
  split
  · extract_lets s2
    have hs2 : s2.memWf := State.memWf_ite (State.memWf_zeroFill hs1) hs1
    split
    · exact State.memWf_eccEvent hs2
    · exact State.memWf_l2Reads hs2
  · exact State.memWf_eccEvent hs1
  · exact State.memWf_unmapped hs1

theorem State.memWf_tableStore {s : State} {part reg va : Nat} {bs : List Byte} (h : s.memWf) : (s.tableStore part reg va bs).memWf := by
  unfold State.tableStore
  exact State.memWf_ite (State.memWf_unmapped h) (State.memWf_partWrite h)

end Sys2Proof.Machine
end

section
/-! PROOFS of the family 00_scope, O59 (Machine/Convoy.lean): the records of convoys. -/

namespace Sys2Proof.Machine

theorem State.memWf_setCvyWord {s : State} {p id i : Nat} {v : Word} (h : s.memWf) : (s.setCvyWord p id i v).memWf := by
  unfold State.setCvyWord
  exact State.memWf_tableStore h

theorem State.memWf_readCvy {s : State} {p id : Nat} (h : s.memWf) : (s.readCvy p id).memWf := by
  unfold State.readCvy
  exact State.memWf_tableRead h

end Sys2Proof.Machine
end

section
/-! PROOFS of the family 00_scope, O59 (Machine/Chart.lean): the Chartroom's state machine. -/

namespace Sys2Proof.Machine

theorem State.memWf_readTcb {s : State} {p i : Nat} (h : s.memWf) : (s.readTcb p i).memWf := by
  unfold State.readTcb
  exact State.memWf_ite h (State.memWf_tableRead h)

theorem State.memWf_readTcbs {s : State} {p : Nat} {is : List Nat} (h : s.memWf) : (s.readTcbs p is).memWf := by
  unfold State.readTcbs
  exact foldl_memWf (fun _ _ => State.memWf_readTcb) h

theorem State.memWf_setTcbW {s : State} {p i j : Nat} {v : Word} (h : s.memWf) : (s.setTcbW p i j v).memWf := by
  unfold State.setTcbW
  extract_lets _ _ old s1
  have hold : old.memWf := State.memWf_getPart h _
  have hs1 : s1.memWf := State.memWf_putPart h (Part.memWf_with hold)
  exact State.memWf_tableStore hs1

theorem State.memWf_setTcbF {s : State} {p i j lo n v : Nat} (h : s.memWf) : (s.setTcbF p i j lo n v).memWf := by
  unfold State.setTcbF
  exact State.memWf_setTcbW h

theorem State.memWf_setTcbSt {s : State} {p i v : Nat} (h : s.memWf) : (s.setTcbSt p i v).memWf := by
  unfold State.setTcbSt
  exact State.memWf_setTcbF h

theorem State.memWf_chrEvt {s : State} {p bit : Nat} (h : s.memWf) : (s.chrEvt p bit).memWf := by
  unfold State.chrEvt
  extract_lets _
  exact State.memWf_ite h (State.memWf_pilotEvent _ _ _ (State.memWf_setReg _ _ h))

theorem State.memWf_msi {s : State} {fn vec : Nat} (h : s.memWf) :
    (s.msi fn vec).memWf := h

theorem State.memWf_vfEvt {s : State} {v bit : Nat} (h : s.memWf) : (s.vfEvt v bit).memWf := by
  unfold State.vfEvt
  extract_lets _
  exact State.memWf_ite h (State.memWf_msi (State.memWf_setReg _ _ h))

theorem State.memWf_queueRec {s : State} {p : Nat} {r : Option (Vector Word 4)} (h : s.memWf) : (s.queueRec p r).memWf := by
  unfold State.queueRec
  split
  · exact h
  · extract_lets _ _ old
    have hold : old.memWf := State.memWf_getPart h _
    split
    · exact State.memWf_vfEvt (State.memWf_setRegF _ _ _ _ h)
    · exact State.memWf_putPart h (Part.memWf_with hold)

theorem State.memWf_complete {s : State} {p i st cause x y : Nat} (h : s.memWf) : (s.complete p i st cause x y).memWf := by
  unfold State.complete
  exact State.memWf_queueRec h

theorem State.memWf_armReads {s : State} {p i : Nat} (h : s.memWf) : (s.armReads p i).memWf := by
  unfold State.armReads
  extract_lets _ _
  exact foldl_memWf (fun _ _ => State.memWf_tableRead) h

theorem State.memWf_armTask {s : State} {p i : Nat} (h : s.memWf) : (s.armTask p i).memWf := by
  unfold State.armTask
  extract_lets s1 q s2
  have hs1 : s1.memWf := State.memWf_setTcbW (State.memWf_setTcbW (State.memWf_setTcbW h))
  have hq : q.memWf := State.memWf_getPart hs1 _
  have hs2 : s2.memWf := State.memWf_putPart hs1 (Part.memWf_with hq)
  exact State.memWf_setTcbSt hs2

theorem State.memWf_patch {s : State} {p i w : Nat} {v : Word} (h : s.memWf) : GivesOk State.memWf (s.patch p i w v) := by
  unfold State.patch
  extract_lets _ _ s1 _ s2 old
  have hs1 : s1.memWf := State.memWf_setTcbW h
  have hs2 : s2.memWf := State.memWf_setTcbSt hs1
  have hold : old.memWf := State.memWf_getPart hs2 _
  exact GivesOk.ite trivial (GivesOk.ite trivial (State.memWf_putPart hs2 (Part.memWf_with hold)))

theorem State.memWf_endPatching {s : State} {p : Nat} (h : s.memWf) : (s.endPatching p).memWf := by
  unfold State.endPatching
  extract_lets _ s1 old
  have hs1 : s1.memWf := foldl_memWf (fun _ _ h1 => State.memWf_ite (State.memWf_setTcbSt h1) h1) h
  have hold : old.memWf := State.memWf_getPart hs1 _
  exact State.memWf_ite h (State.memWf_putPart hs1 (Part.memWf_with hold))

theorem State.memWf_decrement {s : State} {p i : Nat} (h : s.memWf) : GivesOk (fun p => p.2.memWf) (s.decrement p i) := by
  unfold State.decrement
  extract_lets _ _ s1
  have hs1 : s1.memWf := State.memWf_setTcbF h
  exact GivesOk.ite trivial (GivesOk.ite trivial (GivesOk.ite (State.memWf_setTcbSt hs1) hs1))

theorem State.memWf_underflow {s : State} {p : Nat} (h : s.memWf) : (s.underflow p).memWf := by
  unfold State.underflow
  extract_lets _
  exact State.memWf_chrEvt (State.memWf_setRegF _ _ _ _ h)

theorem State.memWf_prefetch {s : State} {p a : Nat} (h : s.memWf) : (s.prefetch p a).memWf := by
  unfold State.prefetch
  split
  · exact State.memWf_ite h (State.memWf_l2Fill h)
  · exact h

theorem State.memWf_seqOne {s : State} {p i : Nat} (h : s.memWf) : (s.seqOne p i).memWf := by
  unfold State.seqOne
  extract_lets _ s1
  have hs1 : s1.memWf := State.memWf_setReg _ _ (State.memWf_setTcbF h)
  exact foldl_memWf (fun _ _ => State.memWf_prefetch) hs1

theorem State.memWf_seqAll {s : State} {p : Nat} {new : List Newly} (h : s.memWf) : (s.seqAll p new).memWf := by
  unfold State.seqAll
  exact foldl_memWf (fun _ _ => State.memWf_seqOne) h

theorem State.memWf_setGang {s : State} {p : Nat} {g : Gang} (h : s.memWf) : (s.setGang p g).memWf := by
  unfold State.setGang
  exact State.memWf_putPart h (Part.memWf_with (State.memWf_getPart h _))

theorem State.memWf_progress {s : State} {p i : Nat} (h : s.memWf) : (s.progress p i).memWf := by
  unfold State.progress
  exact State.memWf_putPart h (Part.memWf_with (State.memWf_getPart h _))

theorem State.memWf_quietUpdate {s : State} {p i : Nat} (h : s.memWf) : (s.quietUpdate p i).memWf := by
  unfold State.quietUpdate
  exact State.memWf_ite h (State.memWf_ite (State.memWf_setTcbF h) h)

theorem State.memWf_deal {s : State} {n x : Nat} (h : s.memWf) : Gives (fun p => p.2.memWf) (s.deal n x) := by
  unfold State.deal
  split
  · exact h
  · extract_lets _ q _ _ _ _ _
    have hq : q.memWf := State.memWf_getPart h _
    split
    · trivial
    · split
      · exact State.memWf_progress h
      · split
        · trivial
        · split
          · extract_lets s1
            have hs1 : s1.memWf := State.memWf_putPart h (Part.memWf_with hq)
            exact State.memWf_progress (State.memWf_setGang hs1)
          · split
            · exact State.memWf_progress h
            · exact State.memWf_progress (State.memWf_setGang (State.memWf_setTcbF h))

theorem State.memWf_ack {s : State} {n first : Nat} (h : s.memWf) : GivesOk State.memWf (s.ack n first) := by
  unfold State.ack
  split
  · trivial
  · split
    · trivial
    · extract_lets _ _ s1 s2
      have hs1 : s1.memWf := State.memWf_setTcbF (State.memWf_setGang h)
      have hs2 : s2.memWf := State.memWf_ite (State.memWf_setTcbSt hs1) hs1
      exact State.memWf_progress (State.memWf_quietUpdate hs2)

theorem State.memWf_answerReq {s : State} {r : ChartReq} {c : BitVec 8} {v : Word} (h : s.memWf) : (s.answerReq r c v).memWf := by
  unfold State.answerReq
  extract_lets _
  exact State.memWf_setCtx _ _ _ h

theorem State.memWf_armRefused {s : State} {p i : Nat} {c : BitVec 8} (h : s.memWf) : (s.armRefused p i c).memWf := by
  unfold State.armRefused
  extract_lets _ _
  split
  · exact State.memWf_setRegF _ _ _ _ h
  · exact State.memWf_msi (State.memWf_setReg _ _ h)

theorem State.memWf_release1 {s : State} {p i : Nat} {new : List Newly} {id : Nat} {left : List Nat} (h : s.memWf) :
    (s.release1 p i new id left).1.memWf := by
  unfold State.release1
  refine foldl_fst_memWf (fun _ _ h1 => ?_) h
  split
  · extract_lets s1
    have hs1 : s1.memWf := State.memWf_readTcb h1
    split
    · exact hs1
    · split
      next heq2 => exact GivesOk.of_eq heq2 (State.memWf_decrement hs1)
      next heq2 => exact GivesOk.of_eq heq2 (State.memWf_decrement hs1)
      · exact State.memWf_ite hs1 (State.memWf_underflow hs1)

theorem Batch.apply_memWf {p : Nat} {b : Batch} {r : ChartReq} (hb : b.s.memWf) : (Batch.apply p b r).s.memWf := by
  unfold Batch.apply
  extract_lets s
  have hs : s.memWf := hb
  split
  · extract_lets s1
    have hs1 : s1.memWf := State.memWf_readTcb hb
    split
    next heq1 => exact State.memWf_answerReq (GivesOk.of_eq heq1 (State.memWf_patch hs1))
    · exact State.memWf_answerReq hs1
  · split
    next heq1 =>
      split
      · exact State.memWf_queueRec (memWf_of_fst heq1 (State.memWf_release1 hb))
      · exact memWf_of_fst heq1 (State.memWf_release1 hb)
  · split
    · exact hb
    · extract_lets s1
      have hs1 : s1.memWf := State.memWf_readTcb hb
      split
      next heq2 => exact State.memWf_answerReq (GivesOk.of_eq heq2 (State.memWf_decrement hs1))
      · exact State.memWf_answerReq hs1
  · split
    · exact hb
    · split
      · exact State.memWf_answerReq (State.memWf_armReads hb)
      · extract_lets t
        have ht : t.memWf := State.memWf_armTask (State.memWf_armReads hb)
        exact State.memWf_answerReq ht
  · split
    · exact hb
    · split
      · exact State.memWf_armRefused (State.memWf_armReads hb)
      · extract_lets t
        have ht : t.memWf := State.memWf_armTask (State.memWf_armReads hb)
        exact ht
  · split
    next heq1 => exact State.memWf_answerReq (GivesOk.of_eq heq1 (State.memWf_ack hb))
    · exact State.memWf_answerReq hb
  · split
    next heq1 => exact State.memWf_answerReq (Gives.snd_of_eq heq1 (State.memWf_deal hb))
    · exact hb
  · extract_lets _ s1 _ _ _ old t
    have hs1 : s1.memWf := State.memWf_readCvy hb
    have hold : old.memWf := State.memWf_getPart hs1 _
    have ht : t.memWf := State.memWf_putPart hs1 (Part.memWf_with hold)
    split
    · exact State.memWf_answerReq ht
    · exact State.memWf_answerReq hs1

theorem Batch.memWf_foldl {p : Nat} {l : List ChartReq} {b : Batch} (h : b.s.memWf) : (l.foldl (Batch.apply p) b).s.memWf := by
  induction l generalizing b with
  | nil => exact h
  | cons r l ih => exact ih (Batch.apply_memWf h)

theorem State.memWf_chartCycle {s : State} {p : Nat} (h : s.memWf) : (s.chartCycle p).memWf := by
  unfold State.chartCycle
  extract_lets s1 reqs old b t old1
  have hs1 : s1.memWf := State.memWf_endPatching h
  have hb : b.s.memWf := Batch.memWf_foldl (State.memWf_putPart hs1 (Part.memWf_with (State.memWf_getPart hs1 p)))
  have ht : t.memWf := State.memWf_seqAll hb
  exact State.memWf_ite h (State.memWf_putPart ht (Part.memWf_with (State.memWf_getPart ht p)))

theorem State.memWf_taskDone {s : State} {p i : Nat} (h : s.memWf) : (s.taskDone p i).memWf := by
  unfold State.taskDone
  extract_lets s1
  have hs1 : s1.memWf := State.memWf_readTcbs (State.memWf_setTcbSt h)
  split
  next heq =>
    exact State.memWf_putPart (memWf_of_snd heq (State.memWf_newId hs1)) (Part.memWf_with (State.memWf_getPart (memWf_of_snd heq
      (State.memWf_newId hs1)) _))

theorem State.memWf_taskFault {s : State} {p i num n x : Nat} {c : BitVec 8} {chunks : List Chunk} (h : s.memWf) :
    (s.taskFault p i num n x c chunks).memWf := by
  unfold State.taskFault
  extract_lets _
  split
  · exact h
  · split
    · extract_lets s1 s2 old s3
      have hs1 : s1.memWf := State.memWf_setTcbW h
      have hs2 : s2.memWf := State.memWf_setTcbSt (State.memWf_setTcbW hs1)
      have hold : old.memWf := State.memWf_getPart hs2 _
      have hs3 : s3.memWf := State.memWf_putPart hs2 (Part.memWf_with hold)
      exact State.memWf_complete (State.memWf_quietUpdate (State.memWf_chrEvt hs3))

theorem State.memWf_taskHalted {s : State} {n x : Nat} {c : BitVec 8} (h : s.memWf) : (s.taskHalted n x c).memWf := by
  unfold State.taskHalted
  split
  · exact h
  · split
    · exact h
    · exact State.memWf_taskFault h

theorem State.memWf_drainGang {s : State} {p : Nat} {g : Gang} (h : s.memWf) : (s.drainGang p g).memWf := by
  unfold State.drainGang
  extract_lets _ s1
  have hs1 : s1.memWf := State.memWf_setGang h
  split
  · exact hs1
  · split
    · exact State.memWf_taskFault hs1
    · exact State.memWf_ite (State.memWf_setTcbSt hs1) hs1

theorem State.memWf_gangCheck {s : State} {p : Nat} {g : Gang} (h : s.memWf) : (s.gangCheck p g).memWf := by
  unfold State.gangCheck
  split
  · exact h
  · split
    · exact State.memWf_drainGang h
    · extract_lets _
      exact State.memWf_ite (foldl_memWf (fun _ _ => State.memWf_drainGang) h) h

theorem State.memWf_controlExit {s : State} {n : Nat} (h : s.memWf) : (s.controlExit n).memWf := by
  unfold State.controlExit
  split
  · exact h
  · exact State.memWf_gangCheck (State.memWf_progress h)

end Sys2Proof.Machine
end

section
/-! PROOFS of the family 00_scope, O59 (Machine/Memory.lean): the issue side of a memory access. -/

namespace Sys2Proof.Machine

theorem State.memWf_fly {s : State} {a : Access} (h : s.memWf) :
    (s.fly a).memWf := h

theorem State.memWf_l1Back {s : State} {n : Nat} {l : L1Line} (h : s.memWf) : (s.l1Back n l).memWf := by
  unfold State.l1Back
  split
  · exact h
  · split
    next heq1 =>
      extract_lets c s21
      have hc : c.memWf = true := State.memWf_core (memWf_of_snd heq1 (State.memWf_newId h)) _
      have hs21 : s21.memWf := State.memWf_setCore _ (memWf_of_snd heq1 (State.memWf_newId h)) (Core.memWf_with hc)
      exact State.memWf_fly hs21

theorem State.memWf_l1Put {s : State} {n : Nat} {l : L1Line} (h : s.memWf) : (s.l1Put n l).memWf := by
  unfold State.l1Put
  extract_lets _ s1 old
  have hs1 : s1.memWf := by
    unfold s1
    split
    · extract_lets s2 old1
      have hs2 : s2.memWf := State.memWf_l1Back h
      have hold1 : old1.memWf = true := State.memWf_core hs2 _
      exact State.memWf_setCore _ hs2 (Core.memWf_with hold1)
    · exact h
  have hold : old.memWf = true := State.memWf_core hs1 _
  exact State.memWf_setCore _ hs1 (Core.memWf_with hold)

theorem Core.l1Touch_memWf {c : Core} {b : Nat} (h : c.memWf = true) : (c.l1Touch b).memWf = true := by
  unfold Core.l1Touch
  split
  · exact h
  · exact h

theorem State.memWf_l1Store {s : State} {n pa key : Nat} {kind : PageKind} {x : Bool} {sz v : Nat} (h : s.memWf) :
    (s.l1Store n pa key kind x sz v).memWf := by
  unfold State.l1Store
  extract_lets _ _ _ _ _ s1 old1 s2 old2
  have hs1 : s1.memWf := State.memWf_l1Put h
  have hold1 : old1.memWf = true := State.memWf_core hs1 _
  have hs2 : s2.memWf := by
    unfold s2
    split
    · split
      · exact hs1
      · split
        · exact State.memWf_l1Back hs1
        · exact State.memWf_setCore _ hs1 (Core.memWf_with hold1)
    · exact hs1
  have hold2 : old2.memWf = true := State.memWf_core hs2 _
  exact State.memWf_ite (State.memWf_setCore _ hs2 (Core.memWf_with hold2)) hs1

theorem State.memWf_l1Clean {s : State} {n b : Nat} {drop : Bool} (h : s.memWf) : (s.l1Clean n b drop).memWf := by
  unfold State.l1Clean
  split
  · extract_lets s1 old
    have hs1 : s1.memWf := State.memWf_l1Back h
    have hold : old.memWf = true := State.memWf_core hs1 _
    exact State.memWf_ite (State.memWf_setCore _ hs1 (Core.memWf_with hold)) hs1
  · exact h

theorem State.memWf_l1Forget {s : State} {n b : Nat} (h : s.memWf) : (s.l1Forget n b).memWf := by
  unfold State.l1Forget
  exact State.memWf_setCore _ h (Core.memWf_with (State.memWf_core h _))

theorem State.memWf_drain {s : State} {n : Nat} (h : s.memWf) : (s.drain n).memWf := by
  unfold State.drain
  exact foldl_memWf (fun _ _ => State.memWf_l1Clean) h

theorem Core.l1Invalidate_memWf {c : Core} {sel : L1Line → Bool} (h : c.memWf = true) :
    (c.l1Invalidate sel).memWf = true := h

theorem Access.lands_memWf {a : Access} {s : State} (h : s.memWf) : (a.lands s).memWf := by
  unfold Access.lands
  split
  · refine foldl_memWf (fun _ _ h1 => ?_) h
    split
    · exact State.memWf_l2Write h1
    · exact h1
  · exact h

theorem State.memWf_settleFlight {s : State} {n b fuel : Nat} (h : s.memWf) : (s.settleFlight n b fuel).1.memWf := by
  induction fuel generalizing s with
  | zero => exact h
  | succ fuel ih =>
    unfold State.settleFlight
    split
    · exact h
    · split
      · exact ih (State.memWf_with (Access.lands_memWf h))
      · exact h

theorem State.memWf_settleLine {s : State} {n b : Nat} (h : s.memWf) : (s.settleLine n b).memWf := by
  unfold State.settleLine
  split
  next heq =>
    split
    · split
      · exact memWf_of_fst heq (State.memWf_settleFlight h)
      · extract_lets u c
        have hu : u.memWf := State.memWf_l2Write (memWf_of_fst heq (State.memWf_settleFlight h))
        have hc : c.memWf = true := State.memWf_core hu _
        exact State.memWf_setCore _ hu (Core.memWf_with hc)
    · exact memWf_of_fst heq (State.memWf_settleFlight h)
  next heq => exact memWf_of_fst heq (State.memWf_settleFlight h)

theorem State.memWf_l1Stale {s : State} {n pa sz : Nat} (h : s.memWf) : (s.l1Stale n pa sz).memWf := by
  unfold State.l1Stale
  extract_lets c
  have hc : c.memWf = true := State.memWf_core h _
  exact State.memWf_setCore _ h (Core.memWf_with hc)

theorem State.memWf_releaseActs {s : State} {n x : Nat} {sc : Scope} (h : s.memWf) : (s.releaseActs n x sc).2.memWf := by
  unfold State.releaseActs
  split
  · exact h
  · extract_lets s1 _ s2
    have hs1 : s1.memWf := State.memWf_ite h (State.memWf_setCore _ h (Core.gFlush_memWf _ (State.memWf_core h _)))
    have hs2 : s2.memWf := State.memWf_drain hs1
    split
    · exact hs2
    · exact hs1

theorem State.memWf_acquireActs {s : State} {n : Nat} {sc : Scope} (h : s.memWf) : (s.acquireActs n sc).memWf := by
  unfold State.acquireActs
  split
  · exact State.memWf_setCore _ h (Core.l1Invalidate_memWf (State.memWf_core h _))
  · exact h

theorem State.memWf_drainUo {s : State} {n : Nat} (h : s.memWf) : (s.drainUo n).memWf := by
  unfold State.drainUo
  exact foldl_memWf (fun _ _ => State.memWf_l1Clean) h

theorem State.memWf_invalidateAll {s : State} {n : Nat} (h : s.memWf) : (s.invalidateAll n).memWf := by
  unfold State.invalidateAll
  exact State.memWf_setCore _ h (Core.l1Invalidate_memWf (State.memWf_core h _))

theorem State.memWf_fullActs {s : State} {n x : Nat} {sc : Scope} (h : s.memWf) : (s.fullActs n x sc).2.memWf := by
  unfold State.fullActs
  extract_lets _ t
  have ht : t.memWf := State.memWf_drainUo (State.memWf_releaseActs h)
  split
  · exact ht
  · exact State.memWf_releaseActs h

theorem State.memWf_fullEnd {s : State} {n : Nat} {sc : Scope} (h : s.memWf) : (s.fullEnd n sc).memWf := by
  unfold State.fullEnd
  exact State.memWf_ite (State.memWf_invalidateAll h) h

theorem release_keeps {sc : Scope} : Sem.Keeps (release sc) := by
  unfold release
  intro s h
  exact State.memWf_releaseActs h

theorem blockOn_keeps {ids : List Nat} : Sem.Keeps (blockOn ids) := by
  unfold blockOn
  exact .modMy

theorem State.memWf_startWalk {s : State} {n x root va : Nat} (h : s.memWf) : (s.startWalk n x root va).memWf := by
  unfold State.startWalk
  extract_lets _ _ _
  split
  · exact State.memWf_setCtx _ _ _ h
  · split
    · exact h
    · split
      next heq2 =>
        extract_lets _ s21 _
        have hs21 : s21.memWf := State.memWf_setDie _ (memWf_of_snd heq2 (State.memWf_newId h)) (State.memWf_die (memWf_of_snd heq2
          (State.memWf_newId h)) _)
        exact State.memWf_setCtx _ _ _ hs21

theorem xlate_keeps {va sz : Nat} {p : Perm} {faddr : Word} : Sem.Keeps (xlate va sz p faddr) := by
  unfold xlate
  intro s h
  beta_reduce
  extract_lets _ _
  split
  · split
    · trivial
    · exact State.memWf_ite h (State.memWf_tlbInstall h)
  · split
    · exact Ends.ite trivial fun _ => State.memWf_startWalk
    · exact fun _ h1 => State.memWf_startWalk h1

theorem pages_keeps {va sz : Nat} {p : Perm} : Sem.Keeps (pages va sz p) := by
  unfold pages
  refine .bind xlate_keeps fun _ => ?_
  dsimp only
  split
  · exact .pure
  · intro s h
    beta_reduce
    split
    next heq1 => exact Ends.ok_of_eq heq1 (xlate_keeps _ h)
    · exact h
    next heq2 => exact Ends.error_of_eq heq2 (xlate_keeps _ h)

theorem send_keeps {op : MemOp} {locs : List (Loc × Nat)} {w : Widen} {after : List Nat} {acq : Option Scope} {rose
    : Option RoseRef} {poll : Bool} :
    Sem.Keeps (send op locs w after acq rose poll) := by
  unfold send
  intro s h
  exact State.memWf_fly (State.memWf_newId h)

theorem ownReady_keeps {off sz : Nat} : Sem.Keeps (ownReady off sz) := by
  unfold ownReady
  intro s h
  exact Ends.ite (fun _ h1 => h1) h

theorem ownRead_keeps {off sz : Nat} : Sem.Keeps (ownRead off sz) := by
  unfold ownRead
  intro s h
  exact State.memWf_setMe h (Core.scrServe_memWf (State.memWf_me h))

theorem Core.claim_memWf {c : Core} {id : Nat} {rd wr : BitVec 128} (h : c.memWf = true) :
    (c.claim id rd wr).memWf = true := h

theorem Core.unclaim_memWf {c : Core} {id : Nat} (h : c.memWf = true) :
    (c.unclaim id).memWf = true := h

theorem Core.accWrite_memWf {c : Core} {off n v : Nat} (h : c.memWf = true) : (c.accWrite off n v).memWf = true := by
  induction n generalizing c off v with
  | zero => exact h
  | succ n ih => exact ih (Core.memWf_setRow h)

theorem soAfter_keeps {kind : PageKind} : Sem.Keeps (soAfter kind) := by
  unfold soAfter
  intro s h
  exact h

theorem acquireNow_keeps {acq : Option Scope} : Sem.Keeps (acquireNow acq) := by
  unfold acquireNow
  split
  · exact .modS (fun _ => State.memWf_acquireActs)
  · exact .pure

theorem loadPages_keeps {locs : List (Loc × Nat)} {w : Widen} {acq : Option Scope} {poll : Bool} {parts : List (Nat × Word)} :
    Sem.Keeps (loadPages locs w acq poll parts) := by
  unfold loadPages
  refine .getS_bind fun _ _ => ?_
  dsimp only
  split
  · exact .bind (.modMe (fun _ h1 => Core.foldl_memWf (fun _ _ => Core.l1Touch_memWf) h1)) fun _ => .bind acquireNow_keeps fun _ =>
      .pure
  · split
    · exact .raise
    · exact .bind (.modMe (fun _ => Core.l1Invalidate_memWf)) fun _ => .bind soAfter_keeps fun _ => .bind send_keeps fun _ => .pure

theorem load_keeps {ea : Word} {sz : Nat} {w : Widen} {acq : Option Scope} {poll : Bool} : Sem.Keeps (load ea sz w acq poll) := by
  unfold load
  refine .getS_bind fun _ _ => ?_
  dsimp only
  split
  · exact .raise
  · exact .bind ownReady_keeps fun _ => .bind acquireNow_keeps fun _ => .bind ownRead_keeps fun _ => .pure
  · exact .bind send_keeps fun _ => .pure
  · exact .bind send_keeps fun _ => .pure
  · split
    · exact .raise
    · split
      · exact .bind ownReady_keeps fun _ => .bind acquireNow_keeps fun _ => .bind ownRead_keeps fun _ => .pure
      · exact .bind send_keeps fun _ => .pure
  · exact .ite .raise (.ite (.bind acquireNow_keeps fun _ => .pure) .raise)
  · exact .ite .raise (.ite (.notYet (fun _ h1 => h1)) (.bind acquireNow_keeps fun _ => .pure))
  · refine .bind pages_keeps fun _ => .getS_bind fun _ h1 => ?_
    split
    · exact loadPages_keeps
    · exact loadPages_keeps
    · exact .bind .check fun _ => .raise

theorem sendStore_keeps {v : Nat} {locs : List (Loc × Nat)} {after : List Nat} {rose : Option RoseRef} :
    Sem.Keeps (sendStore v locs after rose) := by
  unfold sendStore
  exact .bind send_keeps fun _ => .pure

theorem storePiece_keeps {t : TlbEnt} {va sz v : Nat} {rel : Option Scope} {after : List Nat} :
    Sem.Keeps (storePiece t va sz v rel after) := by
  unfold storePiece
  exact .getS_bind fun _ _ => .ite (.bind soAfter_keeps fun _ => .bind (.modS (fun _ h1 => foldl_memWf (fun _ _ =>
    State.memWf_l1Clean) h1)) fun _ => sendStore_keeps) (.ite (.notYet_bind (fun _ h1 => h1)) (.modS (fun _ h1 =>
    foldl_fst_memWf (fun _ _ => State.memWf_l1Store) h1)))

theorem ownStore_keeps {off sz v : Nat} {acts : Sem (List Nat)} (hacts : Sem.Keeps acts) : Sem.Keeps (ownStore off sz v acts) := by
  unfold ownStore
  exact .bind ownReady_keeps fun _ => .bind hacts fun _ => .getS_bind fun _ _ => .ite (.modMe (fun _ h1 =>
    Core.scrWrite_memWf _ _ _ h1)) sendStore_keeps

theorem accStore_keeps {off sz v : Nat} {acts : Sem (List Nat)} (hacts : Sem.Keeps acts) : Sem.Keeps (accStore off sz v acts) := by
  unfold accStore
  exact .getS_bind fun _ _ => .ite (.notYet (fun _ h1 => h1)) (.bind hacts fun _ => .ite (.modMe (fun _ =>
    Core.accWrite_memWf)) (.bind send_keeps fun _ => .modMe (fun _ => Core.claim_memWf)))

theorem storeTo_keeps {ea : Word} {sz v : Nat} {rel : Option Scope} {aperture : Nat → Word → Sem Unit}
    (haperture : ∀ a w, Sem.Keeps (aperture a w)) : Sem.Keeps (storeTo ea sz v rel aperture) := by
  unfold storeTo
  refine .getS_bind fun s h => ?_
  extract_lets n v acts
  have hacts : Sem.Keeps acts := by
    unfold acts
    split
    · exact release_keeps
    · exact .pure
  split
  · exact .raise
  · exact ownStore_keeps hacts
  · exact .bind hacts fun _ => sendStore_keeps
  · exact .bind hacts fun _ => sendStore_keeps
  · split
    · exact .raise
    · exact .ite (ownStore_keeps hacts) (.bind hacts fun _ => sendStore_keeps)
  · exact .ite (.bind hacts fun _ => haperture _ _) .raise
  · exact accStore_keeps hacts
  · refine .bind .check fun _ => .bind pages_keeps fun pg => ?_
    split
    · exact .bind (.ite .pure hacts) fun _ => storePiece_keeps
    · exact .bind (.ite .pure hacts) fun _ => .bind storePiece_keeps fun _ => storePiece_keeps
    · extract_lets first
      have hfirst : Sem.Keeps first := .bind (.ite .pure hacts) fun _ => storePiece_keeps
      refine .bind hfirst fun _ _ _ u hu => ?_
      dsimp only
      split
      next heq => exact Ends.ok_of_eq heq (hfirst u hu)
      next => exact hu

end Sys2Proof.Machine
end

section
/-! PROOFS of the family 00_scope, O59 (Machine/Operands.lean): reads of operands and writes of destinations. -/

namespace Sys2Proof.Machine

theorem readOperands_keeps {i : Instr} {m : Mods} : Sem.Keeps (readOperands i m) := by
  unfold readOperands
  exact .mapM (fun _ => src_keeps)

theorem State.memWf_reserveTail {s : State} {i : Instr} (h : s.memWf) : Gives State.memWf (s.reserveTail i) := by
  unfold State.reserveTail
  split
  · exact h
  · split
    · exact h
    · split
      · trivial
      · split
        next heq3 =>
          extract_lets s21 _
          have hs21 : s21.memWf := State.memWf_setMe (memWf_of_snd heq3 (State.memWf_newId h)) (Core.memWf_setQ (State.memWf_me
            (memWf_of_snd heq3 (State.memWf_newId h))))
          exact State.memWf_setMy _ hs21

theorem State.memWf_dropTail {s : State} {n x : Nat} (h : s.memWf) : (s.dropTail n x).memWf := by
  unfold State.dropTail
  split
  · exact h
  · extract_lets s1 _
    have hs1 : s1.memWf := State.memWf_setCore _ h (Core.memWf_setQ (State.memWf_core h _))
    exact State.memWf_setCtx _ _ _ hs1

theorem dst_keeps {o : Opnd} {v : Word} : Sem.Keeps (dst o v) := by
  unfold dst
  refine .modS (fun _ h => State.memWf_writeLr _ _ _ ?_)
  split
  · extract_lets s1 _
    have hs1 : s1.memWf := State.memWf_setMe h (Core.memWf_setQ (State.memWf_me h))
    exact State.memWf_setMy _ hs1
  · exact State.memWf_writeReg _ _ _ _ h

theorem dstLater_keeps {o : Opnd} {id : Nat} : Sem.Keeps (dstLater o id) := by
  unfold dstLater
  refine .modS (fun _ h => State.memWf_setMy _ ?_)
  split
  · exact State.memWf_setMe h (Core.memWf_setQ (State.memWf_me h))
  · exact h

theorem State.memWf_deliver {s : State} {n x id : Nat} {v : Word} (h : s.memWf) : (s.deliver n x id v).memWf := by
  unfold State.deliver
  split
  · exact h
  · extract_lets s1 _
    have hs1 : s1.memWf := by
      unfold s1
      split
      · exact State.memWf_setCore _ h (Core.memWf_setQ (State.memWf_core h _))
      · exact h
      · exact State.memWf_writeReg _ _ _ _ h
    exact State.memWf_setCtx _ _ _ hs1

theorem State.memWf_retire {s : State} {id : Nat} (h : s.memWf) : (s.retire id).memWf := by
  obtain ⟨hhbm, hhost, hcores, hdies, hparts⟩ := h
  exact ⟨hhbm, hhost, List.forall_mem_map.2 hcores, hdies, List.forall_mem_map.2 hparts⟩

theorem State.memWf_post {s : State} {m : NocMsg} {after : List Nat} {dist : Nat} (h : s.memWf) : (s.post m after dist).memWf := by
  unfold State.post
  exact State.memWf_with (State.memWf_newId h)

end Sys2Proof.Machine
end

section
/-! PROOFS of the family 00_scope, O59 (Machine/Ops.lean): the operations that all families share. -/

namespace Sys2Proof.Machine

theorem State.memWf_traceHold {s : State} {n : Nat} (h : s.memWf) : (s.traceHold n).memWf := by
  unfold State.traceHold
  exact State.memWf_ite (State.memWf_setReg _ _ h) h

theorem State.memWf_withdraw {s : State} {n x : Nat} (h : s.memWf) : (s.withdraw n x).memWf := by
  unfold State.withdraw
  extract_lets _ _ s1 _
  have hs1 : s1.memWf := State.memWf_setOctet _ _ h
  exact State.memWf_setCtx _ _ _ hs1

theorem State.memWf_storeRec {s : State} {n x : Nat} {r : HaltRec} (h : s.memWf) : (s.storeRec n x r).memWf := by
  unfold State.storeRec
  extract_lets _ s1
  have hs1 : s1.memWf := State.memWf_setCtx _ _ _ h
  exact State.memWf_tableStore hs1

theorem State.memWf_dropResv {s : State} {n x : Nat} (h : s.memWf) : (s.dropResv n x).memWf := by
  unfold State.dropResv
  split
  · exact h
  · extract_lets s1 _
    have hs1 : s1.memWf := State.memWf_setCore _ h (Core.memWf_setQ (State.memWf_core h _))
    exact State.memWf_setCtx _ _ _ hs1

theorem State.memWf_dropAsk {s : State} {n x : Nat} (h : s.memWf) : (s.dropAsk n x).memWf := by
  unfold State.dropAsk
  extract_lets _ old s1 _
  have hold : old.memWf := State.memWf_getPart h _
  have hs1 : s1.memWf := State.memWf_putPart h (Part.memWf_with hold)
  exact State.memWf_ite (State.memWf_setCtx _ _ _ hs1) h

theorem State.memWf_leaveWait {s : State} {n x : Nat} (h : s.memWf) : (s.leaveWait n x).memWf := by
  unfold State.leaveWait
  exact State.memWf_dropAsk (State.memWf_dropTail (State.memWf_dropResv (State.memWf_withdraw h)))

theorem State.memWf_haltCount {s : State} {n : Nat} (h : s.memWf) : (s.haltCount n).2.memWf := by
  unfold State.haltCount
  extract_lets _ _
  exact State.memWf_setReg _ _ h

theorem State.memWf_haltEnd {s : State} {n x id : Nat} {c : BitVec 8} {pc : Word} {u : Option Upstream} (h : s.memWf) :
    (s.haltEnd n x id c pc u).memWf := by
  unfold State.haltEnd
  extract_lets s4 _ s6 _ s7
  have hs4 : s4.memWf := State.memWf_storeRec h
  have hs6 : s6.memWf := State.memWf_setCtx _ _ _ hs4
  have hs7 : s7.memWf := State.memWf_ite (State.memWf_setRegF _ _ _ _ hs6) (State.memWf_taskHalted (State.memWf_pilotEvent _ _ _
    (State.memWf_setReg _ _ hs6)))
  exact State.memWf_traceRec _ _ _ _ (State.memWf_trigger _ _ hs7)

theorem State.memWf_halt {s : State} {n x : Nat} {c : BitVec 8} {pc : Word} {u : Option Upstream} (h : s.memWf) :
    (s.halt n x c pc u).memWf := by
  unfold State.halt
  extract_lets s1 _ _ s2
  have hs1 : s1.memWf := State.memWf_leaveWait h
  have hs2 : s2.memWf := State.memWf_setCtx _ _ _ hs1
  split
  next heq =>
    split
    next heq1 =>
      split
      · exact State.memWf_haltEnd (memWf_of_snd heq1 (State.memWf_haltCount (memWf_of_snd heq (State.memWf_releaseActs
          (State.memWf_setCore _ hs2 (Core.writeBackAll_memWf _ (State.memWf_core hs2 _)))))))
      · exact State.memWf_setCtx _ _ _ (memWf_of_snd heq1 (State.memWf_haltCount (memWf_of_snd heq (State.memWf_releaseActs
          (State.memWf_setCore _ hs2 (Core.writeBackAll_memWf _ (State.memWf_core hs2 _)))))))

theorem State.memWf_causeIn {s : State} {n x : Nat} {c : BitVec 8} {f a : Word} {len : Nat} (h : s.memWf) :
    (s.causeIn n x c f a len).memWf := by
  unfold State.causeIn
  extract_lets _ s1
  have hs1 : s1.memWf := State.memWf_setCtx _ _ _ h
  split
  · exact State.memWf_setCtx _ _ _ (State.memWf_leaveWait h)
  · exact State.memWf_halt hs1

theorem State.memWf_takeSlot {s : State} {n x : Nat} (h : s.memWf) : (s.takeSlot n x).memWf := by
  unfold State.takeSlot
  exact State.memWf_setCtx _ _ _ h

theorem State.memWf_raiseIn {s : State} {n x : Nat} {c : BitVec 8} {f a : Word} {len : Nat} (h : s.memWf) :
    (s.raiseIn n x c f a len).memWf := by
  unfold State.raiseIn
  exact State.memWf_causeIn (State.memWf_takeSlot h)

theorem State.memWf_beginWait {s : State} {i : Instr} {m : Mods} {g : State → State} (h : s.memWf) (hg : ∀ u, u.memWf → (g u).memWf) :
    (s.beginWait i m g).memWf := by
  unfold State.beginWait
  split
  next heq =>
    extract_lets _ t1
    have ht1 : t1.memWf := hg _ (State.memWf_setMy _ (Ends.ok_of_eq heq (readOperands_keeps _ (State.memWf_beginIssue h))))
    exact Option.getD_memWf (State.memWf_reserveTail ht1) ht1
  · exact h

theorem State.memWf_haltWithheld {s : State} {n x : Nat} {u : Upstream} (h : s.memWf) : (s.haltWithheld n x u).memWf := by
  unfold State.haltWithheld
  extract_lets _
  exact State.memWf_halt (State.memWf_setCtx _ _ _ h)

theorem State.memWf_charged {s : State} (h : s.memWf) : s.charged.memWf := by
  unfold State.charged
  exact State.memWf_ite h (State.memWf_takeSlot h)

/-- However the body ends, what it leaves has the form (R210). -/
theorem finish1_memWf {m : Mods} {s : State} {r : Except Stop (Unit × State)} {wait : (State → State) → State} (h : s.memWf)
    (hr : Ends r) (hwait : ∀ g : State → State, (∀ u, u.memWf → (g u).memWf) → (wait g).memWf) : (finish1 m s r wait).memWf := by
  unfold finish1
  dsimp only
  split
  next => exact State.memWf_endIssue hr
  next => exact hr _ h
  next => exact hwait _ hr
  next => exact State.memWf_ite h (State.memWf_causeIn (State.memWf_charged h))
  next => exact State.memWf_ite h (State.memWf_haltWithheld (State.memWf_charged h))
  next => exact State.memWf_ite h (State.memWf_causeIn (State.memWf_charged (hr _ h)))

/-- The frame of every instruction keeps the form if its body does (R98, R264). -/
theorem runInstr_memWf {i : Instr} {m : Mods} {s : State} {body : Word → Sem Unit} (h : s.memWf) (hbody : ∀ a, Sem.Keeps (body a)) :
    NextWf (runInstr i m s body) := by
  unfold runInstr
  extract_lets k a
  split
  · split
    next => exact h
    next s1 heq =>
      have hs1 : s1.memWf := Gives.of_eq heq (State.memWf_reserveTail h)
      exact finish1_memWf hs1 (hbody _ _ (State.memWf_setMy _ hs1)) fun _ hg => hg _ hs1
  · have hb : s.beginIssue.memWf := State.memWf_beginIssue h
    refine .ite (.ite (.ite h ?_) ?_) (.ite (.ite h ?_) (.ite ?_ ?_))
    · exact State.memWf_raiseIn h
    · exact State.memWf_endIssue (State.memWf_setMy _ hb)
    · exact State.memWf_raiseIn h
    · exact State.memWf_setMy _ h
    · split
      · split
        · exact State.memWf_haltWithheld h
        · exact State.memWf_setMy _ h
      · exact finish1_memWf h (hbody _ _ (State.memWf_setMy _ hb)) fun _ hg => State.memWf_beginWait h hg

theorem waitFor_keeps {α : Type} {on : WaitOn} {limit : Nat} {withheld : Option Upstream} :
    Sem.Keeps (waitFor on limit withheld : Sem α) := by
  unfold waitFor
  intro s h
  beta_reduce
  split
  · trivial
  · exact fun _ h1 => State.memWf_setMy _ h1

theorem noRoom_keeps {α : Type} {on : WaitOn} {withheld : Option Upstream} : Sem.Keeps (noRoom on withheld : Sem α) := by
  unfold noRoom
  intro s h
  beta_reduce
  split
  · exact fun _ h1 => State.memWf_haltWithheld h1
  · exact fun _ h1 => State.memWf_setMy _ h1

theorem releaseFirst_keeps {sc : Scope} : Sem.Keeps (releaseFirst sc) := by
  intro s h
  have hacts : (s.releaseActs s.cur.1 s.cur.2 sc).2.memWf := State.memWf_releaseActs h
  unfold releaseFirst
  split
  · exact h
  · split
    next t heq =>
      have ht : t.memWf := memWf_of_snd heq hacts
      exact ht
    next => exact fun u hu => State.memWf_setMy _ (State.memWf_releaseActs hu)

end Sys2Proof.Machine
end

section
/-! PROOFS of the family 00_scope, O59 (Machine/Flags.lean): the sticky flags and the writes of predicates. -/

namespace Sys2Proof.Machine

theorem raiseFlags_keeps {fl : BitVec 5} : Sem.Keeps (raiseFlags fl) := by
  unfold raiseFlags
  intro s h
  exact Ends.ite (State.memWf_setMy _ h) (fun _ h1 => State.memWf_setMy _ h1)

end Sys2Proof.Machine
end

section
/-! PROOFS of the family 00_scope, O59 (Machine/Control.lean): predicates, branches, frames, traps and halts. -/

namespace Sys2Proof.Machine

theorem predBin_memWf {i : Instr} {d a b : BitVec 3} {m : Mods} {s : State} {op : Bool → Bool → Bool} (h : s.memWf) :
    NextWf (predBin i d a b m s op) := by
  unfold predBin
  exact runInstr_memWf h fun _ => .modMy

theorem execPnot_memWf {d a : BitVec 3} {m : Mods} {s : State} (h : s.memWf) : NextWf (execPnot d a m s) := by
  unfold execPnot
  exact runInstr_memWf h fun _ => .modMy

theorem execPpack_memWf {d : Opnd} {m : Mods} {s : State} (h : s.memWf) : NextWf (execPpack d m s) := by
  unfold execPpack
  exact runInstr_memWf h fun _ => .bind .getMy fun _ => dst_keeps

theorem execPunpk_memWf {a : Opnd} {m : Mods} {s : State} (h : s.memWf) : NextWf (execPunpk a m s) := by
  unfold execPunpk
  exact runInstr_memWf h fun _ => .bind src_keeps fun _ => .modMy

theorem branchTo_keeps {t : Word} : Sem.Keeps (branchTo t) := by
  unfold branchTo
  intro s h
  exact State.memWf_traceRec _ _ _ _ (State.memWf_setMy _ h)

theorem setReg_keeps {o : Opnd} {v : Word} : Sem.Keeps (setReg o v) := by
  unfold setReg
  exact .modS (fun _ h => State.memWf_writeReg _ _ _ _ h)

theorem execBr_memWf {off : BitVec 20} {neg : Bool} {p : BitVec 3} {m : Mods} {s : State} (h : s.memWf) :
    NextWf (execBr off neg p m s) := by
  unfold execBr
  exact runInstr_memWf h fun _ => .bind .getMy fun _ => .ite branchTo_keeps .pure

theorem execJmp_memWf {off : BitVec 24} {m : Mods} {s : State} (h : s.memWf) : NextWf (execJmp off m s) := by
  unfold execJmp
  exact runInstr_memWf h fun _ => branchTo_keeps

theorem execCall_memWf {off : BitVec 24} {m : Mods} {s : State} (h : s.memWf) : NextWf (execCall off m s) := by
  unfold execCall
  exact runInstr_memWf h fun _ => .bind setReg_keeps fun _ => branchTo_keeps

theorem checkTarget_keeps {t : Word} : Sem.Keeps (checkTarget t) := by
  unfold checkTarget
  exact .check

theorem execJmpr_memWf {x : Opnd} {m : Mods} {s : State} (h : s.memWf) : NextWf (execJmpr x m s) := by
  unfold execJmpr
  exact runInstr_memWf h fun _ => .bind src_keeps fun _ => .bind checkTarget_keeps fun _ => branchTo_keeps

theorem execCallr_memWf {x : Opnd} {m : Mods} {s : State} (h : s.memWf) : NextWf (execCallr x m s) := by
  unfold execCallr
  exact runInstr_memWf h fun _ => .bind src_keeps fun _ => .bind checkTarget_keeps fun _ => .bind setReg_keeps fun _ => branchTo_keeps

theorem execRet_memWf {m : Mods} {s : State} (h : s.memWf) : NextWf (execRet m s) := by
  unfold execRet
  exact runInstr_memWf h fun _ => .bind src_keeps fun _ => .bind checkTarget_keeps fun _ => branchTo_keeps

theorem execLoop_memWf {off : BitVec 17} {d : Opnd} {m : Mods} {s : State} (h : s.memWf) : NextWf (execLoop off d m s) := by
  unfold execLoop
  exact runInstr_memWf h fun _ => .bind src_keeps fun _ => .bind dst_keeps fun _ => .ite branchTo_keeps .pure

theorem wholeStore_keeps {ea v : Word} {ap : Nat → Word → Sem Unit} (hap : ∀ a0 a1, Sem.Keeps (ap a0 a1)) :
    Sem.Keeps (wholeStore ea v ap) := by
  unfold wholeStore
  intro s h
  beta_reduce
  split
  · trivial
  · exact storeTo_keeps (fun _ _ => hap _ _) _ h

theorem enterBody_keeps {d : BitVec 7} {m : Mods} {ap : Nat → Word → Sem Unit} (hap : ∀ a0 a1, Sem.Keeps (ap a0 a1)) :
    Sem.Keeps (enterBody d m ap) := by
  unfold enterBody
  exact .bind src_keeps fun _ => .bind src_keeps fun _ => .bind src_keeps fun _ => .bind .getMy fun _ => .bind .check fun _ =>
    .bind (wholeStore_keeps (fun _ _ => hap _ _)) fun _ => .bind (wholeStore_keeps (fun _ _ => hap _ _)) fun _ =>
    .bind setReg_keeps fun _ => setReg_keeps

theorem regLater_keeps {o : Opnd} {g : Got} : Sem.Keeps (regLater o g) := by
  unfold regLater
  split
  · exact setReg_keeps
  · exact .modMy

theorem execLeave_memWf {m : Mods} {s : State} (h : s.memWf) : NextWf (execLeave m s) := by
  unfold execLeave
  exact runInstr_memWf h fun _ => .bind src_keeps fun _ => .bind load_keeps fun _ => .bind load_keeps fun _ =>
    .bind setReg_keeps fun _ => .bind regLater_keeps fun _ => regLater_keeps

theorem execNop_memWf {m : Mods} {s : State} (h : s.memWf) : NextWf (execNop m s) := by
  unfold execNop
  exact runInstr_memWf h fun _ => .pure

theorem execHalt_memWf {m : Mods} {s : State} (h : s.memWf) : NextWf (execHalt m s) := by
  unfold execHalt
  exact runInstr_memWf h fun _ => .raise

theorem execTrap_memWf {n : BitVec 4} {m : Mods} {s : State} (h : s.memWf) : NextWf (execTrap n m s) := by
  unfold execTrap
  exact runInstr_memWf h fun _ => .raise

theorem execEret_memWf {m : Mods} {s : State} (h : s.memWf) : NextWf (execEret m s) := by
  unfold execEret
  exact runInstr_memWf h fun _ => .bind .getMy fun _ => .bind .check fun _ => .bind .modMy fun _ => .getS_bind fun _ h1 =>
    .putS (State.memWf_traceRec _ _ _ _ h1)

end Sys2Proof.Machine
end

section
/-! PROOFS of the family 00_scope, O59 (Machine/Engine.lean): the accesses of engines. -/

namespace Sys2Proof.Machine

theorem State.memWf_l1Fill {s : State} {n pa key : Nat} {kind : PageKind} {x : Bool} (h : s.memWf) :
    (s.l1Fill n pa key kind x).memWf := by
  unfold State.l1Fill
  extract_lets _ s1 _ _
  have hs1 : s1.memWf := State.memWf_l2Fill h
  exact State.memWf_ite h (State.memWf_ite hs1 (State.memWf_ite h (State.memWf_l1Put hs1)))

theorem State.memWf_setWalk {s : State} {d id : Nat} {w : Option Walk} (h : s.memWf) : (s.setWalk d id w).memWf := by
  unfold State.setWalk
  extract_lets _
  exact State.memWf_setDie _ h (State.memWf_die h _)

theorem State.memWf_walkFails {s : State} {id page : Nat} {c : BitVec 8} (h : s.memWf) : (s.walkFails id page c).memWf :=
  State.memWf_mapCores h fun _ hp => Core.memWf_with hp

theorem State.memWf_endWalk {s0 : State} {d : Nat} {w : Walk} (h : s0.memWf) : (s0.endWalk d w).memWf := by
  unfold State.endWalk
  extract_lets s _
  have hs : s.memWf := State.memWf_walkReads h
  split
  · extract_lets s1
    have hs1 : s1.memWf := State.memWf_ite (State.memWf_zeroFill hs) hs
    exact State.memWf_retire (State.memWf_setWalk (State.memWf_tlbInstall (foldl_memWf (fun _ _ => State.memWf_tlbInstall) hs1)))
  · exact State.memWf_retire (State.memWf_setWalk (State.memWf_walkFails hs))
  · exact State.memWf_retire (State.memWf_setWalk (State.memWf_walkFails (State.memWf_recordBad hs)))
  · exact State.memWf_retire (State.memWf_setWalk (State.memWf_walkFails hs))

theorem State.memWf_xlateNow {s : State} {n root va : Nat} (h : s.memWf) : (s.xlateNow n root va).2.memWf := by
  unfold State.xlateNow
  split
  · exact h
  · extract_lets _ s1
    have hs1 : s1.memWf := by
      refine State.memWf_walkReads ?_
      split
      · exact State.memWf_endWalk h
      · exact State.memWf_ite (State.memWf_endWalk h) h
      · exact h
    split
    · exact State.memWf_tlbInstall (State.memWf_ite (State.memWf_zeroFill hs1) hs1)
    · exact hs1
    · exact State.memWf_recordBad hs1
    · exact hs1

theorem State.memWf_engPlace {s : State} {n a sz : Nat} {p : Perm} {store fold ctx : Bool} (h : s.memWf) :
    (s.engPlace n a sz p store fold ctx).2.memWf := by
  unfold State.engPlace
  split
  · exact h
  · exact h
  · exact h
  · exact h
  · exact h
  · split
    · exact h
    · split
      · exact h
      · exact h
  · split
    · exact h
    · exact h
  · split
    next heq1 => exact memWf_of_snd heq1 (State.memWf_xlateNow h)
    next heq1 =>
      split
      · exact memWf_of_snd heq1 (State.memWf_xlateNow h)
      · split
        · exact memWf_of_snd heq1 (State.memWf_xlateNow h)
        · exact memWf_of_snd heq1 (State.memWf_xlateNow h)

theorem State.memWf_unitRead {s : State} {n sz : Nat} {l : Unit1} (h : s.memWf) : (s.unitRead n sz l).2.memWf := by
  unfold State.unitRead
  split
  · exact State.memWf_setCore _ h (Core.scrServe_memWf (State.memWf_core h _))
  · exact h
  · exact h
  · exact h
  · exact State.memWf_l1Fill h

/-- A unit of an engine access lands in a scratchpad, an accumulator or HBM. -/
theorem State.memWf_unitWrite {s : State} {n sz v : Nat} {u : Unit1} (h : s.memWf) : (s.unitWrite n sz v u).memWf := by
  cases u with
  | scr m off => exact State.memWf_setCore _ h (Core.scrWrite_memWf _ _ _ (State.memWf_core h _))
  | die d off => exact State.memWf_setDie _ h (Mem.wf_write _ _ _ _ (State.memWf_die h d))
  | acc off => exact State.memWf_setCore _ h (Core.accWrite_memWf (State.memWf_core h _))
  | status ch => exact h
  | mem pa key kind x => exact State.memWf_ite (State.memWf_l2Write h) (State.memWf_l1Store h)

theorem State.memWf_l2Flush {s : State} {b : Nat} (h : s.memWf) : (s.l2Flush b).memWf := by
  unfold State.l2Flush
  split
  · extract_lets s1 _
    have hs1 : s1.memWf := State.memWf_l2Evict h
    exact State.memWf_setDie _ hs1 (State.memWf_die hs1 _)
  · exact h

theorem State.memWf_foldFlags {s : State} {stack : Nat} {fl : BitVec 5} (h : s.memWf) : (s.foldFlags stack fl).memWf := by
  unfold State.foldFlags
  exact State.memWf_ite h h

theorem State.memWf_baseUpd {s : State} {pa key n : Nat} {f : Nat → Nat × BitVec 5} (h : s.memWf) :
    Gives State.memWf (s.baseUpd pa key n f) := by
  unfold State.baseUpd
  extract_lets _ s1 _ _ _
  have hs1 : s1.memWf := State.memWf_l2Flush h
  split
  · trivial
  · exact State.memWf_foldFlags (State.memWf_hbmPut (State.memWf_countCorrected hs1))

theorem State.memWf_baseFold {s : State} {pa key : Nat} {t : ElTy} {v : Nat} (h : s.memWf) :
    Gives State.memWf (s.baseFold pa key t v) := by
  unfold State.baseFold
  exact State.memWf_baseUpd h

theorem State.memWf_foldRefused {s : State} {pa : Nat} (h : s.memWf) : (s.foldRefused pa).memWf := by
  unfold State.foldRefused
  exact State.memWf_eccEvent (State.memWf_l2Flush h)

theorem State.memWf_engUpd {s : State} {n pa key k : Nat} {f : Nat → Nat × BitVec 5} (h : s.memWf) :
    Gives State.memWf (s.engUpd n pa key k f) := by
  unfold State.engUpd
  exact State.memWf_baseUpd (State.memWf_l1Stale (State.memWf_settleLine h))

theorem State.memWf_engFold {s : State} {n a : Nat} {t : ElTy} {v : Nat} (h : s.memWf) : (s.engFold n a t v).2.memWf := by
  unfold State.engFold
  extract_lets _
  split
  next heq => exact memWf_of_snd heq (State.memWf_engPlace h)
  next heq =>
    split
    next heq1 => exact Gives.of_eq heq1 (State.memWf_engUpd (memWf_of_snd heq (State.memWf_engPlace h)))
    · exact State.memWf_foldRefused (memWf_of_snd heq (State.memWf_engPlace h))
  next heq1 =>
    split
    next heq2 => exact State.memWf_unitWrite (memWf_of_snd heq2 (State.memWf_unitRead (memWf_of_snd heq1 (State.memWf_engPlace h))))

theorem State.memWf_engRead {s : State} {n a cnt : Nat} {ctx : Bool} (h : s.memWf) : (s.engRead n a cnt ctx).2.memWf := by
  unfold State.engRead
  refine foldl_snd_memWf (fun _ _ h1 => ?_) h
  split
  · exact h1
  · split
    next heq1 => exact memWf_of_snd heq1 (State.memWf_engPlace h1)
    next heq1 =>
      split
      next heq2 => exact memWf_of_snd heq2 (State.memWf_unitRead (memWf_of_snd heq1 (State.memWf_engPlace h1)))

theorem State.memWf_engWrite {s : State} {n a : Nat} {bs : List Byte} (h : s.memWf) : (s.engWrite n a bs).2.memWf := by
  unfold State.engWrite
  refine foldl_snd_memWf (fun _ _ h1 => ?_) h
  split
  · exact h1
  · split
    next heq1 => exact memWf_of_snd heq1 (State.memWf_engPlace h1)
    next heq1 => exact State.memWf_unitWrite (memWf_of_snd heq1 (State.memWf_engPlace h1))

theorem State.memWf_engineEvent {s : State} {n what : Nat} {c : BitVec 8} (h : s.memWf) : (s.engineEvent n what c).memWf := by
  unfold State.engineEvent
  exact State.memWf_pilotEvent _ _ _ h

theorem raiseWalked_keeps {α : Type} {c : BitVec 8} {f : Word} {t : State → State} : Sem.Keeps (raiseWalked c f t : Sem α) :=
  fun _ _ _ h => h

theorem ctxRead_keeps {a cnt : Nat} : Sem.Keeps (ctxRead a cnt) := by
  unfold ctxRead
  intro s h
  beta_reduce
  split
  · exact fun _ h1 => h1
  · split
    next heq1 => exact memWf_of_snd heq1 (State.memWf_engRead h)
    · exact raiseWalked_keeps _ h

theorem ctxWrite_keeps {a : Nat} {bs : List Byte} : Sem.Keeps (ctxWrite a bs) := by
  unfold ctxWrite
  intro s h
  beta_reduce
  split
  · exact fun _ h1 => h1
  · split
    next heq1 => exact memWf_of_snd heq1 (State.memWf_engWrite h)
    · exact raiseWalked_keeps _ h

end Sys2Proof.Machine
end

section
/-! PROOFS of the family 00_scope, O59 (Machine/Copy.lean): the start of a copy. -/

namespace Sys2Proof.Machine

theorem execXtpl_memWf {d : BitVec 6} {a : Opnd} {m : Mods} {s : State} (h : s.memWf) : NextWf (execXtpl d a m s) := by
  unfold execXtpl
  exact runInstr_memWf h fun _ => .bind src_keeps fun _ => .bind .check fun _ => .bind ctxRead_keeps fun _ => .bind .check fun _ =>
    .modMe (fun _ h1 => h1)

theorem startCopy_keeps {ch : Nat} {w enc : Word} : Sem.Keeps (startCopy ch w enc) := by
  unfold startCopy
  refine .getS_bind fun _ _ => .ite (.notYet fun _ h => h) (.bind .check fun _ => ?_)
  dsimp only
  split
  · exact .raise
  · split
    · exact .raise_bind
    · refine .ite (.notYet_bind fun _ h => h) (.bind .freshId fun _ => ?_)
      exact .bind (.modMe fun _ h => Core.ite_memWf (Core.gFlush_memWf _ h) h) fun _ =>
        .bind (.modMe fun _ h => Core.ite_memWf h (Core.claim_memWf h)) fun _ => .modMe fun _ => Core.memWf_setChan

theorem execXst_memWf {d : BitVec 3} {a : Opnd} {m : Mods} {s : State} (h : s.memWf) : NextWf (execXst d a m s) := by
  unfold execXst
  exact runInstr_memWf h fun _ => .bind src_keeps fun _ => startCopy_keeps

theorem execXstat_memWf {d : Opnd} {a : BitVec 3} {m : Mods} {s : State} (h : s.memWf) : NextWf (execXstat d a m s) := by
  unfold execXstat
  exact runInstr_memWf h fun _ => .getMe_bind fun _ _ => dst_keeps

theorem execXcan_memWf {d : BitVec 3} {m : Mods} {s : State} (h : s.memWf) : NextWf (execXcan d m s) := by
  unfold execXcan
  exact runInstr_memWf h fun _ => .getS_bind fun _ _ => .ite (.modMe (fun _ => Core.memWf_setChan)) waitFor_keeps

end Sys2Proof.Machine
end

section
/-! PROOFS of the family 00_scope, O59 (Machine/LoadStore.lean): loads and stores of a context. -/

namespace Sys2Proof.Machine

theorem loadDst_keeps {d : Opnd} {z : Sz} {g : Got} : Sem.Keeps (loadDst d z g) := by
  unfold loadDst
  split
  · exact dst_keeps
  · exact dstLater_keeps

theorem loadAt_keeps {d : Opnd} {z : Sz} {ea : Word} : Sem.Keeps (loadAt d z ea) := by
  unfold loadAt
  exact .bind load_keeps fun _ => loadDst_keeps

theorem storeAt_keeps {ea : Word} {z : Sz} {v : Word} {rel : Option Scope} {enc : Word} : Sem.Keeps (storeAt ea z v rel enc) := by
  unfold storeAt
  exact storeTo_keeps (fun _ _ => startCopy_keeps)

theorem execLd_memWf {d a : Opnd} {z : Sz} {i : BitVec 7} {m : Mods} {s : State} (h : s.memWf) : NextWf (execLd d a z i m s) := by
  unfold execLd
  exact runInstr_memWf h fun _ => .bind src_keeps fun _ => loadAt_keeps

theorem execSt_memWf {d a : Opnd} {z : Sz} {i : BitVec 7} {m : Mods} {s : State} (h : s.memWf) : NextWf (execSt d a z i m s) := by
  unfold execSt
  exact runInstr_memWf h fun _ => .bind src_keeps fun _ => .bind src_keeps fun _ => storeAt_keeps

theorem execLdx_memWf {f : Sz} {d a b : Opnd} {m : Mods} {s : State} (h : s.memWf) : NextWf (execLdx f d a b m s) := by
  unfold execLdx
  exact runInstr_memWf h fun _ => .bind src_keeps fun _ => .bind src_keeps fun _ => loadAt_keeps

theorem execStx_memWf {f : Sz} {d a b : Opnd} {m : Mods} {s : State} (h : s.memWf) : NextWf (execStx f d a b m s) := by
  unfold execStx
  exact runInstr_memWf h fun _ => .bind src_keeps fun _ => .bind src_keeps fun _ => .bind src_keeps fun _ => storeAt_keeps

theorem execLda_memWf {d a : Opnd} {z : Sz} {i : BitVec 3} {k : Scope} {m : Mods} {s : State} (h : s.memWf) :
    NextWf (execLda d a z i k m s) := by
  unfold execLda
  refine runInstr_memWf h fun _ => .bind src_keeps fun _ => .bind load_keeps fun _ => .bind loadDst_keeps fun _ => ?_
  split
  · exact .pure
  · exact blockOn_keeps

theorem execStl_memWf {d a : Opnd} {z : Sz} {i : BitVec 3} {k : Scope} {m : Mods} {s : State} (h : s.memWf) :
    NextWf (execStl d a z i k m s) := by
  unfold execStl
  exact runInstr_memWf h fun _ => .bind src_keeps fun _ => .bind src_keeps fun _ => storeAt_keeps

theorem execEnter_memWf {d : BitVec 7} {m : Mods} {s : State} (h : s.memWf) : NextWf (execEnter d m s) := by
  unfold execEnter
  exact runInstr_memWf h fun _ => enterBody_keeps (fun _ _ => startCopy_keeps)

end Sys2Proof.Machine
end

section
/-! PROOFS of the family 00_scope, O59 (Machine/Cache.lean): cache maintenance and fences. -/

namespace Sys2Proof.Machine

theorem State.memWf_lineAct {s : State} {n x : Nat} {op : LineOp} {t : TlbEnt} {pa : Nat} (h : s.memWf) :
    (s.lineAct n x op t pa).memWf := by
  unfold State.lineAct
  extract_lets _ _ _
  split
  next heq =>
    split
    · exact State.memWf_l1Clean h
    · exact State.memWf_l1Clean h
    · exact State.memWf_fly (State.memWf_l1Forget (memWf_of_snd heq (State.memWf_newId h)))
    · exact State.memWf_l2Fill h
    · exact State.memWf_ite h (State.memWf_fly (memWf_of_snd heq (State.memWf_newId h)))

theorem State.memWf_zeroLocal {s : State} {n x : Nat} {l : Loc} (h : s.memWf) : (s.zeroLocal n x l).memWf := by
  unfold State.zeroLocal
  exact State.memWf_fly (State.memWf_newId h)

theorem State.memWf_zeroView {s : State} {n x : Nat} {r : RoseRef} (h : s.memWf) : (s.zeroView n x r).memWf := by
  unfold State.zeroView
  exact State.memWf_fly (State.memWf_newId h)

theorem State.memWf_lineOp {s : State} {n x : Nat} {op : LineOp} {l : Nat} (h : s.memWf) : (s.lineOp n x op l).2.memWf := by
  unfold State.lineOp
  extract_lets loc
  have hloc : ∀ k, (loc k).2.memWf := fun k => State.memWf_ite (State.memWf_zeroLocal h) h
  split
  · exact h
  · exact hloc _
  · exact hloc _
  · exact hloc _
  · split
    · exact h
    · split
      · exact hloc _
      · exact State.memWf_ite (State.memWf_zeroView h) h
  · exact h
  · exact h
  next va _ =>
    have hx : (s.xlateNow n (s.homePart n) va).2.memWf := State.memWf_xlateNow h
    split
    · exact h
    · split
      next heq => exact memWf_of_snd heq hx
      next heq =>
        split
        · exact memWf_of_snd heq hx
        · exact State.memWf_lineAct (memWf_of_snd heq hx)

theorem State.memWf_lineOps {s : State} {n x : Nat} {op : LineOp} {ls : List Nat} (h : s.memWf) : (s.lineOps n x op ls).1.memWf := by
  induction ls generalizing s with
  | nil => exact h
  | cons l ls ih =>
    have hl : (s.lineOp n x op l).2.memWf := State.memWf_lineOp h
    rw [State.lineOps]
    split
    next heq => exact ih (memWf_of_snd heq hl)
    next heq =>
      split
      · exact ih (memWf_of_snd heq hl)
      · exact memWf_of_snd heq hl

theorem cacheOp_memWf {i : Instr} {a c : Opnd} {m : Mods} {s : State} {op : LineOp} (h : s.memWf) : NextWf (cacheOp i a c m s op) := by
  unfold cacheOp
  refine runInstr_memWf h fun _ => .bind src_keeps fun _ => ?_
  dsimp only
  split
  · refine .bind src_keeps fun cnt => .bind .check fun x => .getS_bind fun s1 h1 => ?_
    split
    next heq1 => exact .putS (memWf_of_fst heq1 (State.memWf_lineOps h1))
    · intro s2 hs2
      exact fun _ h2 => State.memWf_lineOps h2
  · refine .bind .pure fun cnt => .bind .check fun x => .getS_bind fun s1 h1 => ?_
    split
    next heq1 => exact .putS (memWf_of_fst heq1 (State.memWf_lineOps h1))
    · intro s2 hs2
      exact fun _ h2 => State.memWf_lineOps h2

theorem execIfence_memWf {m : Mods} {s : State} (h : s.memWf) : NextWf (execIfence m s) := by
  unfold execIfence
  exact runInstr_memWf h fun _ => .bind (.modMe (fun _ => Core.l1Invalidate_memWf)) fun _ => .modMy

theorem readsFirst_keeps : Sem.Keeps readsFirst := by
  unfold readsFirst
  intro s h
  exact Ends.ite h fun _ h1 => h1

theorem fullFirst_keeps {sc : Scope} : Sem.Keeps (fullFirst sc) := by
  unfold fullFirst
  intro s h
  beta_reduce
  split
  · exact h
  · split
    next heq1 => exact memWf_of_snd heq1 (State.memWf_fullActs h)
    · exact fun _ h1 => State.memWf_setMy _ (State.memWf_fullActs h1)

theorem execFence_memWf {d : FenceKind} {m : Mods} {s : State} (h : s.memWf) : NextWf (execFence d m s) := by
  unfold execFence
  refine runInstr_memWf h fun _ => ?_
  dsimp only
  split
  · exact .bind release_keeps fun _ => blockOn_keeps
  · split
    · exact .modS (fun _ => State.memWf_acquireActs)
    · exact .bind readsFirst_keeps fun _ => .modS (fun _ => State.memWf_acquireActs)
  · split
    · exact .pure
    · exact .bind fullFirst_keeps fun _ => .modS (fun _ h1 => State.memWf_acquireActs (State.memWf_fullEnd h1))

end Sys2Proof.Machine
end

section
/-! PROOFS of the family 00_scope, O59 (Machine/Atomic.lean): WAITA and the atomics. -/

namespace Sys2Proof.Machine

theorem limitOf_keeps {c : Opnd} {m : Mods} : Sem.Keeps (limitOf c m) := by
  unfold limitOf
  exact .ite (.bind src_keeps fun _ => .pure) .pure

theorem pollWait_keeps {lim : Nat} {due : Bool} : Sem.Keeps (pollWait lim due) := by
  unfold pollWait
  intro s h
  exact fun _ h1 => State.memWf_setMy _ h1

theorem startPoll_keeps {ea : Word} {z : Sz} {lim : Nat} {got : Nat → Sem Unit} (hgot : ∀ a0, Sem.Keeps (got a0)) :
    Sem.Keeps (startPoll ea z lim got) := by
  unfold startPoll
  intro s h
  beta_reduce
  split
  next heq => exact Ends.error_of_eq heq (load_keeps _ h)
  next heq => exact hgot _ _ (Ends.ok_of_eq heq (load_keeps _ h))
  · refine fun _ h1 => ?_
    beta_reduce
    split
    next heq1 =>
      extract_lets _
      exact State.memWf_setMy _ (Ends.ok_of_eq heq1 (load_keeps _ h1))
    · exact h1

theorem execWaita_memWf {f : Sz} {d a b c : Opnd} {m : Mods} {s : State} (h : s.memWf) : NextWf (execWaita f d a b c m s) := by
  unfold execWaita
  refine runInstr_memWf h fun _ => .bind src_keeps fun _ => .bind src_keeps fun _ => .bind limitOf_keeps fun _ => .bind .getMy fun _ =>
    ?_
  dsimp only
  split
  · split
    · split
      · exact .bind .modMy fun _ => .bind dst_keeps fun _ => acquireNow_keeps
      · exact pollWait_keeps
    · exact startPoll_keeps (fun _ => .ite (.bind .modMy fun _ => .bind dst_keeps fun _ => acquireNow_keeps) pollWait_keeps)
  · split
    · exact startPoll_keeps (fun _ => .ite (.bind .modMy fun _ => .bind dst_keeps fun _ => acquireNow_keeps) pollWait_keeps)
    · split
      · exact dst_keeps
      · split
        · exact startPoll_keeps (fun _ => .ite (.bind .modMy fun _ => .bind dst_keeps fun _ => acquireNow_keeps) pollWait_keeps)
        · exact pollWait_keeps
  · exact startPoll_keeps (fun _ => .ite (.bind .modMy fun _ => .bind dst_keeps fun _ => acquireNow_keeps) pollWait_keeps)

theorem ownRmw_keeps {i : Instr} {d : Opnd} {t : ElTy} {off y c : Nat} : Sem.Keeps (ownRmw i d t off y c) := by
  unfold ownRmw
  refine .bind ownReady_keeps fun _ => .bind ownRead_keeps fun _ => ?_
  dsimp only
  split
  · exact .bind (.modMe (fun _ h => Core.scrWrite_memWf _ _ _ h)) fun _ => dst_keeps
  · exact dst_keeps

theorem farRmw_keeps {i : Instr} {d : Opnd} {t : ElTy} {y c : Word} {locs : List (Loc × Nat)} {rose : Option RoseRef} {after : List Nat} :
    Sem.Keeps (farRmw i d t y c locs rose after) := by
  unfold farRmw
  exact .bind send_keeps fun _ => dstLater_keeps

theorem dropLines_keeps {pa sz : Nat} : Sem.Keeps (dropLines pa sz) := by
  unfold dropLines
  exact .modS (fun _ h => foldl_memWf (fun _ _ => State.memWf_l1Clean) h)

theorem atomicAt_keeps {i : Instr} {d : Opnd} {t : ElTy} {ea y c : Word} : Sem.Keeps (atomicAt i d t ea y c) := by
  unfold atomicAt
  refine .getS_bind fun _ _ => ?_
  dsimp only
  split
  · exact .raise
  · exact ownRmw_keeps
  · exact farRmw_keeps
  · exact farRmw_keeps
  · split
    · exact .raise
    · exact .ite ownRmw_keeps farRmw_keeps
  · exact .raise
  · exact .raise
  · exact .bind .check fun _ => .bind xlate_keeps fun _ => .bind .check fun _ => .getS_bind fun _ _ => .bind .check fun _ =>
      .bind soAfter_keeps fun _ => .bind dropLines_keeps fun _ => .getS_bind fun _ _ => farRmw_keeps

theorem amo_memWf {i : Instr} {d a b : Opnd} {m : Mods} {s : State} (h : s.memWf) : NextWf (amo i d a b m s) := by
  unfold amo
  exact runInstr_memWf h fun _ => .bind src_keeps fun _ => .bind src_keeps fun _ => atomicAt_keeps

theorem execAcas_memWf {d a b c : Opnd} {m : Mods} {s : State} (h : s.memWf) : NextWf (execAcas d a b c m s) := by
  unfold execAcas
  exact runInstr_memWf h fun _ => .bind src_keeps fun _ => .bind src_keeps fun _ => .bind src_keeps fun _ => atomicAt_keeps

end Sys2Proof.Machine
end

section
/-! PROOFS of the family 00_scope, O59 (Machine/Barriers.lean): barriers and rose regions. -/

namespace Sys2Proof.Machine

theorem State.memWf_barComplete {s : State} {o b : Nat} (h : s.memWf) : (s.barComplete o b).memWf := by
  unfold State.barComplete
  extract_lets _
  split
  · split
    · exact foldl_memWf (fun _ _ => State.memWf_post) (State.memWf_setCore _ h (Core.memWf_setBar (State.memWf_core h _)))
    · exact h
  · exact h

theorem execBinit_memWf {a : BitVec 7} {d : Opnd} {m : Mods} {s : State} (h : s.memWf) : NextWf (execBinit a d m s) := by
  unfold execBinit
  exact runInstr_memWf h fun _ => .bind src_keeps fun _ => .getS_bind fun _ _ => .bind .check fun _ => .bind .check fun _ =>
    .bind .check fun _ => .bind (.modMe (fun _ => Core.memWf_setBar)) fun _ => .ite (.modS (fun _ => State.memWf_barComplete)) .pure

theorem State.memWf_barArrive {s : State} {n x b : Nat} (h : s.memWf) : (s.barArrive n x b).memWf := by
  unfold State.barArrive
  extract_lets _
  split
  next heq =>
    extract_lets _ _
    exact State.memWf_post (State.memWf_setCore _ (memWf_of_snd heq (State.memWf_releaseActs h)) (Core.memWf_setBar (State.memWf_core
      (memWf_of_snd heq (State.memWf_releaseActs h)) _)))

theorem execBarr_memWf {a : BitVec 7} {m : Mods} {s : State} (h : s.memWf) : NextWf (execBarr a m s) := by
  unfold execBarr
  exact runInstr_memWf h fun _ => .getS_bind fun _ h1 => .bind .check fun _ => .putS (State.memWf_barArrive h1)

theorem barReturn_keeps {b : Nat} {d : Opnd} : Sem.Keeps (barReturn b d) := by
  unfold barReturn
  exact .getS_bind fun _ _ => .bind acquireNow_keeps fun _ => dst_keeps

theorem barWait_keeps {b : Nat} {d : Opnd} {lim : Nat} {arrived : Bool} : Sem.Keeps (barWait b d lim arrived) := by
  unfold barWait
  refine .getS_bind fun _ _ => ?_
  split
  · exact barReturn_keeps
  · split
    · exact .ite dst_keeps waitFor_keeps
    · exact waitFor_keeps

theorem execBwait_memWf {d : Opnd} {a : BitVec 7} {c : Opnd} {m : Mods} {s : State} (h : s.memWf) : NextWf (execBwait d a c m s) := by
  unfold execBwait
  exact runInstr_memWf h fun _ => .bind limitOf_keeps fun _ => barWait_keeps

theorem execBarw_memWf {d : Opnd} {a : BitVec 7} {c : Opnd} {m : Mods} {s : State} (h : s.memWf) : NextWf (execBarw d a c m s) := by
  unfold execBarw
  refine runInstr_memWf h fun _ => .bind limitOf_keeps fun _ => .getS_bind fun _ _ => ?_
  dsimp only
  split
  · exact barWait_keeps
  · refine .bind .check fun _ => ?_
    split
    · intro s2 hs2
      trivial
    · intro s2 hs2
      exact fun _ h2 => State.memWf_setMy _ (State.memWf_barArrive h2)

theorem execBstat_memWf {d : Opnd} {a : BitVec 7} {m : Mods} {s : State} (h : s.memWf) : NextWf (execBstat d a m s) := by
  unfold execBstat
  exact runInstr_memWf h fun _ => .getS_bind fun _ _ => dst_keeps

theorem execRoseb_memWf {d : BitVec 4} {a : Opnd} {m : Mods} {s : State} (h : s.memWf) : NextWf (execRoseb d a m s) := by
  unfold execRoseb
  refine runInstr_memWf h fun _ => .bind src_keeps fun _ => .bind ctxRead_keeps fun _ => .bind .check fun _ => .getS_bind fun _ _ => ?_
  dsimp only
  split
  · exact .raise
  · exact .bind .check fun _ => .bind .check fun _ => .bind .check fun _ => .modMe (fun _ => Core.memWf_setRose)

theorem execRoseq_memWf {d : Opnd} {a : BitVec 4} {m : Mods} {s : State} (h : s.memWf) : NextWf (execRoseq d a m s) := by
  unfold execRoseq
  exact runInstr_memWf h fun _ => .getS_bind fun _ _ => .ite (.notYet (fun _ h2 => h2)) dst_keeps

theorem execRosex_memWf {d : BitVec 4} {m : Mods} {s : State} (h : s.memWf) : NextWf (execRosex d m s) := by
  unfold execRosex
  exact runInstr_memWf h fun _ => .modMe (fun _ h1 => Core.ite_memWf (Core.memWf_setRose h1) h1)

end Sys2Proof.Machine
end

section
/-! PROOFS of the family 00_scope, O59 (Machine/Messages.lean): messages. -/

namespace Sys2Proof.Machine

theorem State.memWf_revoke {s : State} {n m : Nat} (h : s.memWf) : (s.revoke n m).memWf :=
  State.memWf_mapCores h fun _ hp => Core.memWf_with hp

theorem State.memWf_revokeAll {s : State} {n : Nat} (h : s.memWf) : (s.revokeAll n).memWf := by
  unfold State.revokeAll
  exact foldl_memWf (fun _ _ => State.memWf_revoke) h

theorem execMbind_memWf {a : Opnd} {m : Mods} {s : State} (h : s.memWf) : NextWf (execMbind a m s) := by
  unfold execMbind
  refine runInstr_memWf h fun _ => .bind src_keeps fun _ => .getS_bind fun _ _ => ?_
  dsimp only
  split
  · refine .bind .modMy fun x1 => ?_
    split
    · exact .pure
    · intro s2 hs2
      exact fun _ h2 => State.memWf_setMy _ h2
  · refine .bind .check fun x1 => ?_
    split
    · exact .raise
    · exact .bind .check fun _ => .bind .check fun _ => .ite (.notYet (fun _ h2 => h2)) (.blocked (fun _ h2 =>
        State.memWf_setMy _ (State.memWf_setMe (State.memWf_revoke (State.memWf_newId h2)) (Core.memWf_setMbox (State.memWf_me
        (State.memWf_revoke (State.memWf_newId h2)))))))

theorem execMstat_memWf {d a : Opnd} {m : Mods} {s : State} (h : s.memWf) : NextWf (execMstat d a m s) := by
  unfold execMstat
  exact runInstr_memWf h fun _ => .bind src_keeps fun _ => .bind .check fun _ => .getS_bind fun _ _ => dst_keeps

theorem sendChecks_keeps {w enc : Word} {regs : Bool} : Sem.Keeps (sendChecks w enc regs) := by
  unfold sendChecks
  dsimp only
  refine .bind .check fun _ => .bind .check fun _ => .getS_bind fun _ _ => .bind .check fun _ => ?_
  split
  · exact .raise
  · exact .check

theorem sendRoom_keeps : Sem.Keeps sendRoom := by
  unfold sendRoom
  intro s h
  exact Ends.ite h fun _ h1 => h1

theorem sendMsg_keeps {w : Word} {bs : List Byte} : Sem.Keeps (sendMsg w bs) := by
  unfold sendMsg
  exact .getS_bind fun _ _ => .bind release_keeps fun _ => .modMe (fun _ h1 => h1)

theorem execMsend_memWf {a c : Opnd} {m : Mods} {s : State} (h : s.memWf) : NextWf (execMsend a c m s) := by
  unfold execMsend
  refine runInstr_memWf h fun _ => .bind sendRoom_keeps fun _ => .bind src_keeps fun _ => .bind src_keeps fun _ =>
    .bind sendChecks_keeps fun _ => ?_
  dsimp only
  split
  · refine .bind .check fun _ => .getS_bind fun _ _ => ?_
    split
    · exact sendMsg_keeps
    · split
      · exact .raise
      · exact .bind ctxRead_keeps fun _ => sendMsg_keeps
  · exact .raise_bind

theorem execMsendr_memWf {d a c : Opnd} {m : Mods} {s : State} (h : s.memWf) : NextWf (execMsendr d a c m s) := by
  unfold execMsendr
  exact runInstr_memWf h fun _ => .bind sendRoom_keeps fun _ => .bind src_keeps fun _ => .bind sendChecks_keeps fun _ =>
    .bind src_keeps fun _ => .ite (.ite (.bind src_keeps fun _ => sendMsg_keeps) (.bind .pure fun _ => sendMsg_keeps)) sendMsg_keeps

theorem State.memWf_takeMsg {s : State} {n m : Nat} {g : Msg} (h : s.memWf) : (s.takeMsg n m g).memWf := by
  unfold State.takeMsg
  extract_lets _
  exact State.memWf_post (State.memWf_setCore _ h (Core.memWf_setMbox (State.memWf_core h _)))

theorem recv_keeps {d : Opnd} {b lim : Nat} {take : Msg → Sem Unit} {expire : Sem Unit} {reserve : State → State}
    (htake : ∀ a0, Sem.Keeps (take a0)) (hexpire : Sem.Keeps expire) (hreserve : ∀ u, u.memWf → (reserve u).memWf) :
    Sem.Keeps (recv d b lim take expire reserve) := by
  unfold recv
  refine .getS_bind fun _ _ => ?_
  dsimp only
  split
  · exact .bind (htake _) fun _ => .bind (.modS (fun _ => State.memWf_takeMsg)) fun _ => .bind dst_keeps fun _ => acquireNow_keeps
  · split
    · exact .bind hexpire fun _ => dst_keeps
    · split
      · intro s1 hs1
        trivial
      · exact .blocked (fun _ h1 => State.memWf_setMy _ (hreserve _ h1))

theorem execMrecv_memWf {d a c : Opnd} {m : Mods} {s : State} (h : s.memWf) : NextWf (execMrecv d a c m s) := by
  unfold execMrecv
  refine runInstr_memWf h fun _ => .bind src_keeps fun _ => .bind limitOf_keeps fun _ => .getS_bind fun _ _ => .bind .check fun _ => ?_
  dsimp only
  split
  · refine .bind .check fun _ => recv_keeps (fun _ => ?_) .pure (fun _ h2 => h2)
    split
    · exact .pure
    · split
      · exact .raise
      · exact ctxWrite_keeps
  · exact .raise_bind

theorem State.memWf_reserveTwo {s : State} {q : Nat} (h : s.memWf) : (s.reserveTwo q).memWf := by
  unfold State.reserveTwo
  split
  · exact h
  · extract_lets _ s1 _ s2 _
    have hs1 : s1.memWf := h
    have hs2 : s2.memWf := State.memWf_setMe hs1 (Core.memWf_setQ (State.memWf_me hs1))
    exact State.memWf_setMy _ hs2

theorem execMrecvr_memWf {d a c : Opnd} {m : Mods} {s : State} (h : s.memWf) : NextWf (execMrecvr d a c m s) := by
  unfold execMrecvr
  refine runInstr_memWf h fun _ => .bind src_keeps fun _ => .bind limitOf_keeps fun _ => .bind .check fun _ => .getS_bind fun _ _ => ?_
  split
  · exact noRoom_keeps
  · refine .bind .check fun _ => recv_keeps (fun _ => .bind .check fun _ => .bind (.modS (fun _ => State.memWf_reserveTwo)) fun _ =>
      .getS_bind fun _ h2 => ?_) (.modS (fun _ => State.memWf_dropResv)) (fun _ => State.memWf_reserveTwo)
    split
    · dsimp only
      exact .putS (State.memWf_setMy _ (State.memWf_setMe h2 (Core.memWf_setQ (State.memWf_me h2))))
    · exact .pure

end Sys2Proof.Machine
end

section
/-! PROOFS of the family 00_scope, O59 (Machine/Timetable.lean): timetable phases. -/

namespace Sys2Proof.Machine

theorem State.memWf_ttDamage {s : State} {id : Nat} (h : s.memWf) :
    (s.ttDamage id).memWf := h

theorem State.memWf_ttInject {s : State} {n k t : Nat} {v : Word} {p : Phase} (h : s.memWf) : (s.ttInject n k t v p).memWf := by
  unfold State.ttInject
  extract_lets _ _ s1
  have hs1 : s1.memWf := foldl_memWf (fun _ _ => State.memWf_ttDamage) h
  exact State.memWf_with (State.memWf_newId hs1)

theorem execTtgo_memWf {a : Opnd} {m : Mods} {s : State} (h : s.memWf) : NextWf (execTtgo a m s) := by
  unfold execTtgo
  refine runInstr_memWf h fun _ => .bind src_keeps fun _ => .getS_bind fun _ _ => ?_
  dsimp only
  split
  · exact .ite (.ite .pure waitFor_keeps) (.bind .check fun _ => .raise)
  · refine .bind .check fun _ => ?_
    split
    · intro s2 hs2
      trivial
    · exact .blocked (fun _ h2 => State.memWf_setMy _ (State.memWf_setMe h2 (Core.memWf_with (State.memWf_me h2))))

theorem ttEarly_keeps {send : Bool} {k t : Nat} {v : Word} : Sem.Keeps (ttEarly send k t v) := by
  unfold ttEarly
  exact .blocked (fun _ h => State.memWf_setMy _ h)

theorem execTtsend_memWf {d a : Opnd} {m : Mods} {s : State} (h : s.memWf) : NextWf (execTtsend d a m s) := by
  unfold execTtsend
  refine runInstr_memWf h fun _ => .bind src_keeps fun _ => .bind src_keeps fun _ => .getS_bind fun _ _ => ?_
  dsimp only
  split
  · exact .modMy
  · split
    · exact .raise
    · exact .bind .check fun _ => .ite ttEarly_keeps (.bind .check fun _ => .modS (fun _ => State.memWf_ttInject))

theorem execTtrecv_memWf {d a : Opnd} {m : Mods} {s : State} (h : s.memWf) : NextWf (execTtrecv d a m s) := by
  unfold execTtrecv
  refine runInstr_memWf h fun _ => .bind src_keeps fun _ => .getS_bind fun _ _ => ?_
  dsimp only
  split
  · exact .bind .modMy fun _ => dst_keeps
  · split
    · exact .raise
    · refine .bind .check fun _ => ?_
      split
      · intro s2 hs2
        trivial
      · split
        · exact ttEarly_keeps
        · exact .bind .check fun _ => .bind (.modMe (fun _ h2 => h2)) fun _ => dst_keeps

theorem execTtend_memWf {m : Mods} {s : State} (h : s.memWf) : NextWf (execTtend m s) := by
  unfold execTtend
  refine runInstr_memWf h fun _ => .getS_bind fun _ _ => ?_
  split
  · exact .raise
  · split
    · split
      · intro s2 hs2
        exact fun _ h2 => State.memWf_setMe h2 (Core.memWf_with (State.memWf_me h2))
      · exact .modMe (fun _ h2 => h2)
    · split
      · exact .raise
      · split
        · intro s2 hs2
          trivial
        · exact .blocked (fun _ h2 => State.memWf_setMy _ (State.memWf_setMe h2 (Core.memWf_with (State.memWf_me h2))))

theorem execTtq_memWf {d : Opnd} {m : Mods} {s : State} (h : s.memWf) : NextWf (execTtq d m s) := by
  unfold execTtq
  exact runInstr_memWf h fun _ => .getS_bind fun _ _ => dst_keeps

end Sys2Proof.Machine
end

section
/-! PROOFS of the family 00_scope, O59 (Machine/Fixes.lean): fix objects. -/

namespace Sys2Proof.Machine

theorem State.memWf_setFixObj {s : State} {fx : BitVec 32} {f : FixObj} (h : s.memWf) : (s.setFixObj fx f).memWf := by
  unfold State.setFixObj
  split
  · exact State.memWf_setCore _ h (Core.memWf_setFix (State.memWf_core h _))
  · exact h

theorem State.memWf_pagesOk {s : State} {n : Nat} {l : List Nat} (h : s.memWf) : GivesOk State.memWf (s.pagesOk n l) := by
  induction l generalizing s with
  | nil => exact h
  | cons a l ih =>
    have hx : (s.xlateNow n (s.homePart n) a).2.memWf := State.memWf_xlateNow h
    rw [State.pagesOk]
    split
    · trivial
    next heq =>
      split
      · trivial
      · exact ih (memWf_of_snd heq hx)

theorem State.memWf_fxResultOk {s : State} {n : Nat} {d : Line} {alg : Alg} (h : s.memWf) :
    GivesOk State.memWf (s.fxResultOk n d alg) := by
  unfold State.fxResultOk
  extract_lets _ _
  split
  · exact GivesOk.ite (GivesOk.ite trivial (State.memWf_pagesOk h)) trivial
  · split
    · split
      · exact GivesOk.ite h trivial
      · trivial
    · split
      · exact GivesOk.ite trivial (State.memWf_pagesOk h)
      · split
        · split
          · split
            · trivial
            · exact h
          · trivial
        · trivial

theorem State.memWf_agentWrite {s : State} {n a : Nat} {bs : List Byte} (h : s.memWf) : (s.agentWrite n a bs).memWf := by
  unfold State.agentWrite
  refine foldl_snd_snd_memWf (fun _ _ h1 => ?_) h
  split
  · exact h1
  · split
    next heq1 => exact State.memWf_engineEvent (memWf_of_snd heq1 (State.memWf_engPlace h1))
    next heq1 => exact State.memWf_l2Write (memWf_of_snd heq1 (State.memWf_engPlace h1))
    next heq2 => exact State.memWf_unitWrite (memWf_of_snd heq2 (State.memWf_engPlace h1))

theorem State.memWf_openBuffer {s : State} {fx : BitVec 32} {f : FixObj} {k : Nat} {tag : BitVec 32} (h : s.memWf) :
    (s.openBuffer fx f k tag).memWf := by
  unfold State.openBuffer
  extract_lets _ _
  exact State.memWf_agentWrite h

theorem State.memWf_stageContrib {s : State} {fx : BitVec 32} {f : FixObj} {k : Nat} {c : Contrib} (h : s.memWf) :
    (s.stageContrib fx f k c).memWf := by
  unfold State.stageContrib
  exact State.memWf_ite h (State.memWf_agentWrite h)

theorem State.memWf_fxCount1 {s : State} {p lo : Nat} (h : s.memWf) : (s.fxCount1 p lo).memWf := by
  unfold State.fxCount1
  exact State.memWf_setRegF _ _ _ _ h

end Sys2Proof.Machine
end

section
/-! PROOFS of the family 00_scope, O59 (Machine/Fabric.lean): packets and flits as they leave. -/

namespace Sys2Proof.Machine

theorem State.memWf_pumpPort {s : State} {p : Nat} (h : s.memWf) : (s.pumpPort p).memWf := by
  unfold State.pumpPort
  exact State.memWf_ite (State.memWf_setPort _ _ h) h

theorem State.memWf_idleFlit {s : State} {p : Nat} (h : s.memWf) : (s.idleFlit p).memWf := by
  unfold State.idleFlit
  exact State.memWf_ite (State.memWf_setPort _ _ h) h

theorem State.memWf_portCount {s : State} {p off lo k : Nat} (h : s.memWf) : (s.portCount p off lo k).memWf := by
  unfold State.portCount
  extract_lets _
  exact State.memWf_setRegF _ _ _ _ h

theorem State.memWf_portEvt {s : State} {p bit : Nat} (h : s.memWf) : (s.portEvt p bit).memWf := by
  unfold State.portEvt
  extract_lets _
  exact State.memWf_ite h (State.memWf_pilotEvent _ _ _ (State.memWf_setReg _ _ h))

theorem State.memWf_tagDrop {s : State} {p : Nat} {k : Packet} {egress : Bool} (h : s.memWf) : (s.tagDrop p k egress).memWf := by
  unfold State.tagDrop
  extract_lets s1 _
  have hs1 : s1.memWf := State.memWf_portCount h
  split
  · exact hs1
  · exact State.memWf_portEvt (State.memWf_setReg _ _ (State.memWf_setReg _ _ (State.memWf_setReg _ _ (State.memWf_setReg _ _
      (State.memWf_setReg _ _ hs1)))))

theorem State.memWf_emit {s : State} {hub : Nat} {k : Packet} (h : s.memWf) : (s.emit hub k).memWf := by
  unfold State.emit
  split
  · exact h
  · split
    · exact h
    · split
      · exact State.memWf_pumpPort (State.memWf_setPort _ _ h)
      · exact State.memWf_tagDrop h

theorem State.memWf_loseCopy {s : State} {c : Option (Nat × Nat × BitVec 16 × Nat)} (h : s.memWf) : (s.loseCopy c).memWf := by
  unfold State.loseCopy
  split
  · extract_lets _
    exact State.memWf_setCore _ h (Core.memWf_setChan (State.memWf_core h _))
  · exact h

theorem State.memWf_purge {s : State} {f : Packet → Bool} (h : s.memWf) :
    (s.purge f).memWf := h

theorem State.memWf_loseFlow {s : State} {dev vl p : Nat} (h : s.memWf) : (s.loseFlow dev vl p).memWf := by
  unfold State.loseFlow
  extract_lets _ s1
  have hs1 : s1.memWf := State.memWf_purge (foldl_memWf (fun _ _ => State.memWf_loseCopy) h)
  exact State.memWf_pilotEvent _ _ _ (State.memWf_portEvt (State.memWf_portCount (State.memWf_setFlow hs1)))

theorem State.memWf_sendPacket {s : State} {x : Send} (h : s.memWf) : (s.sendPacket x).memWf := by
  unfold State.sendPacket
  extract_lets _ _ _
  split
  · exact State.memWf_loseCopy (State.memWf_portCount h)
  · exact State.memWf_emit (State.memWf_setFlow h)

end Sys2Proof.Machine
end

section
/-! PROOFS of the family 00_scope, O59 (Machine/Folding.lean): contributions to fixes and their folds. -/

namespace Sys2Proof.Machine

theorem State.memWf_foldInto {s : State} {fx : BitVec 32} {k : Nat} {tag : BitVec 32} {first : Nat} {vs : List Nat} (h : s.memWf) :
    (s.foldInto fx k tag first vs).memWf := by
  unfold State.foldInto
  split
  · exact h
  · extract_lets _ _ _
    refine foldl_fst_memWf (fun _ _ h1 => ?_) h
    split
    · extract_lets _
      split
      next heq2 =>
        split
        next heq3 => exact Gives.of_eq heq3 (State.memWf_baseUpd (memWf_of_snd heq2 (State.memWf_engPlace h1)))
        · split
          · exact memWf_of_snd heq2 (State.memWf_engPlace h1)
          · extract_lets s2
            have hs2 : s2.memWf := by
              unfold s2
              split
              · exact State.memWf_setFixObj (memWf_of_snd heq2 (State.memWf_engPlace h1))
              · exact memWf_of_snd heq2 (State.memWf_engPlace h1)
            exact State.memWf_foldRefused hs2
      next heq2 => exact State.memWf_engineEvent (memWf_of_snd heq2 (State.memWf_engPlace h1))
      next heq4 => exact memWf_of_snd heq4 (State.memWf_engPlace h1)

theorem State.memWf_combine {s : State} {fx : BitVec 32} {d : Line} {tag : BitVec 32} {c : Contrib} {pool : Bool} (h : s.memWf) :
    (s.combine fx d tag c pool).memWf := by
  unfold State.combine
  extract_lets _ _ _ _
  split
  · exact State.memWf_setHub _ _ h
  · split
    · exact State.memWf_setHub _ _ h
    · split
      · exact State.memWf_setHub _ _ h
      · split
        · exact State.memWf_setHub _ _ h
        · exact State.memWf_post (State.memWf_setRegF _ _ _ _ h)

theorem State.memWf_freeEntries {s : State} {hub : Nat} (h : s.memWf) : (s.freeEntries hub).memWf := by
  unfold State.freeEntries
  extract_lets _
  exact State.memWf_setHub _ _ h

theorem State.memWf_addArrival {s : State} {fx : BitVec 32} {f : FixObj} {k : Nat} {tag : BitVec 32} {c : Contrib} (h : s.memWf) :
    (s.addArrival fx f k tag c).memWf := by
  unfold State.addArrival
  extract_lets _ _ _ _
  split
  · exact State.memWf_combine h
  · exact State.memWf_post h
  · exact State.memWf_setFixObj h

/-- What a contribution to a fold leaves (R190): every branch stores a fold in the object, counts, or combines. -/
theorem State.memWf_judge {s : State} {fx : BitVec 32} {k : Nat} {c : Contrib} (h : s.memWf) : (s.judge fx k c).memWf := by
  unfold State.judge
  split
  · exact h
  · extract_lets fo d p l keep lag s1 c2 s2
    have hkeep : ∀ g u, u.memWf → (keep g u).memWf := by
      intro g u hu
      dsimp only [keep]
      split
      · exact State.memWf_setFixObj hu
      · exact hu
    have hs1 : s1.memWf := hkeep _ _ (State.memWf_stageContrib h)
    have hs2 : s2.memWf := hkeep _ _ (State.memWf_stageContrib h)
    refine State.memWf_ite h (State.memWf_ite (State.memWf_fxCount1 h) (State.memWf_ite
      (State.memWf_ite ?accepted hs1)
      (State.memWf_ite (State.memWf_ite (hkeep _ _ (State.memWf_fxCount1 h)) (State.memWf_ite ?late hs2)) ?other)))
    case accepted =>
      split
      · exact State.memWf_addArrival hs1
      · exact hs1
    case late =>
      split
      · exact State.memWf_addArrival hs2
      · exact hs2
    case other =>
      exact State.memWf_ite (hkeep _ _ (State.memWf_fxCount1 h))
        (State.memWf_ite (hkeep _ _ (State.memWf_stageContrib h)) (hkeep _ _ (State.memWf_fxCount1 h)))

theorem State.memWf_flushFolds {s : State} {fx : BitVec 32} {k : Nat} (h : s.memWf) : (s.flushFolds fx k).memWf := by
  unfold State.flushFolds
  refine foldl_memWf (fun _ _ h1 => ?_) h
  split
  · split
    · split
      · extract_lets s11
        have hs11 : s11.memWf := h1
        exact State.memWf_foldInto hs11
      · exact h1
    · exact h1
  · exact h1

theorem State.memWf_drainEntries {s : State} {fx tag : BitVec 32} {k : Nat} (h : s.memWf) : (s.drainEntries fx tag k).memWf := by
  unfold State.drainEntries
  extract_lets _ _
  split
  · exact h
  · extract_lets s1 _
    have hs1 : s1.memWf := foldl_memWf (fun _ _ => State.memWf_foldInto) h
    exact State.memWf_setHub _ _ hs1

theorem State.memWf_writeValues {s : State} {fx : BitVec 32} {f : FixObj} {k : Nat} (h : s.memWf) : (s.writeValues fx f k).memWf := by
  unfold State.writeValues
  extract_lets _ _ _
  split
  · exact State.memWf_agentWrite h
  · split
    · exact State.memWf_agentWrite h
    · exact State.memWf_drainEntries (State.memWf_flushFolds h)

theorem State.memWf_closeRound {s : State} {fx : BitVec 32} {k : Nat} (h : s.memWf) : (s.closeRound fx k).1.memWf := by
  unfold State.closeRound
  split
  · exact h
  · extract_lets _ _ _ s0 s1
    have hs0 : s0.memWf := State.memWf_writeValues h
    have hs1 : s1.memWf := State.memWf_ite (State.memWf_openBuffer hs0) hs0
    split
    · exact hs1
    · extract_lets _ _ _ _ _ _ s2 s3 _
      have hs2 : s2.memWf := State.memWf_agentWrite hs1
      have hs3 : s3.memWf := State.memWf_ite (foldl_memWf (fun _ _ => State.memWf_sendPacket) hs2) hs2
      split
      · exact hs3
      · extract_lets _ s4
        have hs4 : s4.memWf := State.memWf_setFixObj hs3
        split
        · exact hs4
        · exact State.memWf_openBuffer hs4

theorem State.memWf_fixRun {fuel : Nat} {s : State} {fx : BitVec 32} {k : Nat} {cs : List Contrib} (h : s.memWf) :
    (State.fixRun fuel s fx k cs).memWf := by
  induction fuel generalizing s cs with
  | zero => exact h
  | succ fuel ih =>
    unfold State.fixRun
    extract_lets s1 go r
    have hs1 : s1.memWf := by
      unfold s1
      split
      · exact State.memWf_judge h
      · exact h
    split
    · exact ih (State.memWf_closeRound hs1)
    · split
      · exact hs1
      · exact ih hs1

theorem State.memWf_contribute {s : State} {fx : BitVec 32} {k : Nat} {c : Contrib} (h : s.memWf) : (s.contribute fx k c).memWf := by
  unfold State.contribute
  split
  · exact State.memWf_fixRun h
  · exact h

theorem State.memWf_serveAsks {s : State} {hub : Nat} (h : s.memWf) : (s.serveAsks hub).memWf := by
  unfold State.serveAsks
  extract_lets _
  refine foldl_memWf (fun _ _ h1 => ?_) (State.memWf_setHub _ _ h)
  split
  · exact State.memWf_combine h1
  · exact h1

theorem State.memWf_rejudge {s : State} {fx : BitVec 32} (h : s.memWf) : (s.rejudge fx).memWf := by
  unfold State.rejudge
  split
  · exact foldl_memWf (fun _ _ => State.memWf_fixRun) h
  · exact h

theorem State.memWf_tellDeparted {s : State} {fx : BitVec 32} {f : FixObj} {r : Nat} (h : s.memWf) : (s.tellDeparted fx f r).memWf := by
  unfold State.tellDeparted
  exact State.memWf_ite h h

theorem State.memWf_depart {s : State} {fx : BitVec 32} {r : Nat} (h : s.memWf) : (s.depart fx r).memWf := by
  unfold State.depart
  split
  · exact h
  · split
    · exact h
    · extract_lets _ _
      exact State.memWf_rejudge (State.memWf_tellDeparted (State.memWf_setFixObj h))

theorem State.memWf_phaseGo {s : State} {fx : BitVec 32} (h : s.memWf) : (s.phaseGo fx).memWf := by
  unfold State.phaseGo
  split
  · exact h
  · extract_lets _ s1
    have hs1 : s1.memWf := State.memWf_setFixObj h
    split
    · exact h
    · exact foldl_memWf (fun _ _ h1 => foldl_memWf (fun _ _ h2 => State.memWf_with (State.memWf_post h2)) h1) hs1

theorem State.memWf_roundsGo {s : State} (h : s.memWf) : s.roundsGo.memWf := by
  unfold State.roundsGo
  exact foldl_memWf (fun _ _ h1 => State.memWf_ite (State.memWf_rejudge h1) h1) h

theorem State.memWf_phasesGo {s : State} (h : s.memWf) : s.phasesGo.memWf := by
  unfold State.phasesGo
  exact foldl_memWf (fun _ _ h1 => State.memWf_ite h1 (State.memWf_phaseGo h1)) h

theorem State.memWf_readWords {s : State} {p a k : Nat} (h : s.memWf) : (s.readWords p a k).2.memWf := by
  induction k generalizing s a with
  | zero => exact h
  | succ k ih =>
    rw [State.readWords]
    split
    · exact ih (State.memWf_tableRead h)
    · exact State.memWf_tableRead h

theorem State.memWf_readTable {s : State} {n : Nat} {d : Line} (h : s.memWf) : (s.readTable n d).2.memWf := by
  unfold State.readTable
  exact State.memWf_readWords h

theorem State.memWf_fxReads {s : State} {n : Nat} {d : Line} (h : s.memWf) : (s.fxReads n d).memWf := by
  unfold State.fxReads
  exact State.memWf_ite (State.memWf_readTable h) h

theorem execFxdef_memWf {d a : Opnd} {m : Mods} {s : State} (h : s.memWf) : NextWf (execFxdef d a m s) := by
  unfold execFxdef
  refine runInstr_memWf h fun _ => .bind src_keeps fun _ => .bind .check fun _ => .bind ctxRead_keeps fun _ => .bind .check fun _ =>
    .bind .check fun _ => .getS_bind fun _ _ => ?_
  dsimp only
  split
  · intro s2 hs2
    exact fun _ h2 => State.memWf_fxReads h2
  · refine .bind (.modS (fun _ => State.memWf_fxReads)) fun _ => .bind .check fun _ => .getS_bind fun s2 h2 => ?_
    split
    · exact .raise
    next heq1 =>
      split
      · exact .raise
      · split
        · exact .notYet (fun _ h3 => h3)
        · exact .bind (.putS (foldl_memWf (fun _ _ => State.memWf_openBuffer) (State.memWf_setMe (GivesOk.of_eq heq1
            (State.memWf_fxResultOk h2)) (Core.memWf_setFix (State.memWf_me (GivesOk.of_eq heq1
            (State.memWf_fxResultOk h2))))))) fun _ => dst_keeps

theorem execFxjoin_memWf {a : Opnd} {m : Mods} {s : State} (h : s.memWf) : NextWf (execFxjoin a m s) := by
  unfold execFxjoin
  refine runInstr_memWf h fun _ => .bind src_keeps fun _ => .bind .check fun _ => .getS_bind fun _ h1 => ?_
  split
  · exact .raise
  · exact .bind .check fun _ => .bind .check fun _ => .bind .check fun _ => .putS (State.memWf_setFixObj h1)

theorem heldRank_keeps {fx : BitVec 32} : Sem.Keeps (heldRank fx) := by
  unfold heldRank
  intro s h
  beta_reduce
  split
  · trivial
  · split
    · trivial
    · exact h

theorem State.memWf_checkRange {s : State} {n a sz : Nat} (h : s.memWf) : GivesOk State.memWf (s.checkRange n a sz) := by
  refine GivesOk.foldl (fun r u hr => ?_) h
  split
  · trivial
  next s1 =>
    have hp : (s1.engPlace n (wrap u.1) u.2 .r false).2.memWf := State.memWf_engPlace hr
    split
    · trivial
    next heq => exact memWf_of_snd heq hp

theorem execFxc_memWf {d a c : Opnd} {m : Mods} {s : State} (h : s.memWf) : NextWf (execFxc d a c m s) := by
  unfold execFxc
  refine runInstr_memWf h fun _ => .bind sendRoom_keeps fun _ => .bind src_keeps fun _ => .bind src_keeps fun _ =>
    .bind src_keeps fun _ => .bind heldRank_keeps fun _ => .getS_bind fun _ h1 => ?_
  split
  · exact .raise
  next heq =>
    exact .bind (.putS (GivesOk.of_eq heq (State.memWf_checkRange h1))) fun _ => .bind release_keeps fun _ => .modMe (fun _ h2 => h2)

theorem execFxw_memWf {d a c : Opnd} {m : Mods} {s : State} (h : s.memWf) : NextWf (execFxw d a c m s) := by
  unfold execFxw
  refine runInstr_memWf h fun _ => .bind src_keeps fun _ => .ite (.bind src_keeps fun _ => ?_) (.bind .pure fun _ => ?_)
  all_goals
    refine .bind heldRank_keeps fun _ => .getS_bind fun _ _ => ?_
    exact .ite (.bind acquireNow_keeps fun _ => dst_keeps) (.ite dst_keeps (.ite dst_keeps waitFor_keeps))

theorem execFxq_memWf {d a : Opnd} {m : Mods} {s : State} (h : s.memWf) : NextWf (execFxq d a m s) := by
  unfold execFxq
  refine runInstr_memWf h fun _ => .bind src_keeps fun _ => .getS_bind fun _ _ => ?_
  split
  · exact .raise
  · dsimp only
    exact dst_keeps

theorem execFxlv_memWf {a : Opnd} {m : Mods} {s : State} (h : s.memWf) : NextWf (execFxlv a m s) := by
  unfold execFxlv
  exact runInstr_memWf h fun _ => .bind src_keeps fun _ => .bind heldRank_keeps fun _ => .modS (fun _ => State.memWf_depart)

end Sys2Proof.Machine
end

section
/-! PROOFS of the family 00_scope, O59 (Machine/ChartOps.lean): the Chartroom instructions. -/

namespace Sys2Proof.Machine

theorem State.memWf_postChart {s : State} {op : ChartOp} {rel blocks : Bool} (h : s.memWf) : (s.postChart op rel blocks).memWf := by
  unfold State.postChart
  extract_lets s0
  have hs0 : s0.memWf := State.memWf_ite (State.memWf_releaseActs h) h
  split
  next heq =>
    extract_lets _ old s21 _
    have hold : old.memWf := State.memWf_getPart (memWf_of_snd heq (State.memWf_newId hs0)) _
    have hs21 : s21.memWf := State.memWf_putPart (memWf_of_snd heq (State.memWf_newId hs0)) (Part.memWf_with hold)
    exact State.memWf_setMy _ hs21

theorem ask_keeps {op : ChartOp} {rel blocks : Bool} {faddr : Word} : Sem.Keeps (ask op rel blocks faddr) := by
  unfold ask
  refine .bind .getMy fun _ => ?_
  split
  · split
    · exact .blocked (fun _ h => h)
    · refine .bind .modMy fun _ => ?_
      split
      · exact .pure
      · intro s h
        exact fun _ h1 => State.memWf_setMy _ h1
  · dsimp only
    split
    · exact .bind releaseFirst_keeps fun _ => .blocked (fun _ => State.memWf_postChart)
    · exact .blocked (fun _ => State.memWf_postChart)

theorem execCharm_memWf {a : Opnd} {m : Mods} {s : State} (h : s.memWf) : NextWf (execCharm a m s) := by
  unfold execCharm
  exact runInstr_memWf h fun _ => .bind src_keeps fun _ => .bind ask_keeps fun _ => .pure

theorem execChdec_memWf {a : Opnd} {m : Mods} {s : State} (h : s.memWf) : NextWf (execChdec a m s) := by
  unfold execChdec
  exact runInstr_memWf h fun _ => .bind src_keeps fun _ => .bind ask_keeps fun _ => .pure

theorem execChpatch_memWf {d a : Opnd} {m : Mods} {s : State} (h : s.memWf) : NextWf (execChpatch d a m s) := by
  unfold execChpatch
  exact runInstr_memWf h fun _ => .bind src_keeps fun _ => .bind src_keeps fun _ => .bind .check fun _ => .bind ask_keeps fun _ => .pure

theorem execChcard_memWf {d : Opnd} {m : Mods} {s : State} (h : s.memWf) : NextWf (execChcard d m s) := by
  unfold execChcard
  exact runInstr_memWf h fun _ => .getS_bind fun _ _ => .bind .check fun _ => .bind ask_keeps fun _ => .bind dst_keeps fun _ =>
    .modS (fun _ h2 => State.memWf_traceRec _ _ _ _ h2)

theorem execChdone_memWf {a : Opnd} {m : Mods} {s : State} (h : s.memWf) : NextWf (execChdone a m s) := by
  unfold execChdone
  exact runInstr_memWf h fun _ => .bind src_keeps fun _ => .getS_bind fun _ _ => .bind ask_keeps fun _ => .modS (fun _ h2 =>
    State.memWf_traceRec _ _ _ _ h2)

theorem execChq_memWf {d a : Opnd} {m : Mods} {s : State} (h : s.memWf) : NextWf (execChq d a m s) := by
  unfold execChq
  refine runInstr_memWf h fun _ => .bind src_keeps fun _ => .getS_bind fun _ _ => ?_
  dsimp only
  split
  · exact .raise
  · split
    · intro s2 hs2
      exact fun _ h2 => State.memWf_readTcb h2
    · exact .bind (.modS (fun _ => State.memWf_readTcb)) fun _ => dst_keeps

theorem execCkset_memWf {d a : Opnd} {m : Mods} {s : State} (h : s.memWf) : NextWf (execCkset d a m s) := by
  unfold execCkset
  refine runInstr_memWf h fun _ => .bind src_keeps fun _ => .getS_bind fun _ _ => ?_
  split
  · exact .ite (.bind ask_keeps fun _ => dst_keeps) dst_keeps
  · exact dst_keeps

end Sys2Proof.Machine
end

section
/-! PROOFS of the family 00_scope, O59 (Machine/Vector.lean): the vector instructions. -/

namespace Sys2Proof.Machine

theorem notYetVector_keeps {α : Type} : Sem.Keeps (notYetVector : Sem α) := by
  unfold notYetVector
  exact .notYet (fun _ h => State.memWf_setMy _ h)

theorem vectorRoom_keeps : Sem.Keeps vectorRoom := by
  unfold vectorRoom
  exact .getMe_bind fun _ _ => .ite notYetVector_keeps .pure

theorem vecCmd_keeps {i : Instr} {m : Mods} {s0 s1 : Word} {lanes : List (Nat × List (Loc × Nat))} :
    Sem.Keeps (vecCmd i m s0 s1 lanes) := by
  unfold vecCmd
  exact .bind .freshId fun _ => .getS_bind fun _ _ => .bind (.modMe (fun _ => Core.claim_memWf)) fun _ => .bind .modMy fun _ => .pure

theorem enterVector_keeps {i : Instr} {m : Mods} {s0 s1 : Word} {scalar : Option Opnd} {lanes : List (Nat × List (Loc × Nat))} :
    Sem.Keeps (enterVector i m s0 s1 scalar lanes) := by
  unfold enterVector
  refine .getMe_bind fun _ _ => ?_
  split
  · exact notYetVector_keeps
  · refine .bind vecCmd_keeps fun _ => .bind (.modMe (fun _ h1 => h1)) fun _ => ?_
    split
    · exact dstLater_keeps
    · exact .pure

theorem rowInstr_memWf {i : Instr} {m : Mods} {s : State} (h : s.memWf) : NextWf (rowInstr i m s) := by
  unfold rowInstr
  exact runInstr_memWf h fun _ => enterVector_keeps

theorem execVsacc_memWf {d a b : Row} {c : Opnd} {m : Mods} {s : State} (h : s.memWf) : NextWf (execVsacc d a b c m s) := by
  unfold execVsacc
  exact runInstr_memWf h fun _ => .bind src_keeps fun _ => enterVector_keeps

theorem execViota_memWf {d : Row} {c : Opnd} {m : Mods} {s : State} (h : s.memWf) : NextWf (execViota d c m s) := by
  unfold execViota
  exact runInstr_memWf h fun _ => .bind src_keeps fun _ => enterVector_keeps

theorem execVbcast_memWf {d : Row} {c : Opnd} {m : Mods} {s : State} (h : s.memWf) : NextWf (execVbcast d c m s) := by
  unfold execVbcast
  exact runInstr_memWf h fun _ => .bind src_keeps fun _ => enterVector_keeps

theorem execVextr_memWf {d : Opnd} {a : Row} {c : Opnd} {m : Mods} {s : State} (h : s.memWf) : NextWf (execVextr d a c m s) := by
  unfold execVextr
  exact runInstr_memWf h fun _ => .bind src_keeps fun _ => .bind vectorRoom_keeps fun _ => .bind .check fun _ => enterVector_keeps

theorem execVins_memWf {d : Row} {a c : Opnd} {m : Mods} {s : State} (h : s.memWf) : NextWf (execVins d a c m s) := by
  unfold execVins
  exact runInstr_memWf h fun _ => .bind src_keeps fun _ => .bind src_keeps fun _ => .bind vectorRoom_keeps fun _ =>
    .bind .check fun _ => enterVector_keeps

theorem redIssue_memWf {i : Instr} {m : Mods} {s : State} (h : s.memWf) : NextWf (redIssue i m s) := by
  unfold redIssue
  exact runInstr_memWf h fun _ => .bind vectorRoom_keeps fun _ => .bind .getMy fun _ => .bind .check fun _ => enterVector_keeps

theorem execVsf_memWf {d a : Row} {m : Mods} {s : State} (h : s.memWf) : NextWf (execVsf d a m s) := by
  unfold execVsf
  exact runInstr_memWf h fun _ => .getS_bind fun _ _ => .ite notYetVector_keeps (.bind vecCmd_keeps fun _ => .modS (fun _ h2 =>
    State.memWf_setOctet _ _ h2))

theorem execVmpop_memWf {d : Opnd} {a : Row} {m : Mods} {s : State} (h : s.memWf) : NextWf (execVmpop d a m s) := by
  unfold execVmpop
  exact runInstr_memWf h fun _ => enterVector_keeps

theorem execVfence_memWf {m : Mods} {s : State} (h : s.memWf) : NextWf (execVfence m s) := by
  unfold execVfence
  exact runInstr_memWf h fun _ => .getS_bind fun _ _ => blockOn_keeps

end Sys2Proof.Machine
end

section
/-! PROOFS of the family 00_scope, O59 (Machine/VectorMem.lean): vector loads and stores and the events of the vector engine. -/

namespace Sys2Proof.Machine

theorem lanePlace_keeps {ea : Word} {sz : Nat} {store : Bool} : Sem.Keeps (lanePlace ea sz store) := by
  unfold lanePlace
  refine .getS_bind fun _ _ => ?_
  dsimp only
  split
  · exact .raise
  · exact .pure
  · exact .pure
  · exact .pure
  · split
    · exact .raise
    · exact .ite .pure (.notYet (fun _ h1 => h1))
  · exact .raise
  · exact .raise
  · refine .bind .check fun _ => .bind pages_keeps fun _ => .getS_bind fun _ h1 => ?_
    split
    · exact .pure
    · exact .pure
    · exact .raise

theorem vmLanes_keeps {t : ElTy} {mask : Option RowVal} {addr : Nat → Word} {store : Bool} : Sem.Keeps (vmLanes t mask addr store) := by
  unfold vmLanes
  exact .mapM (fun _ => .bind lanePlace_keeps fun _ => .pure)

theorem vmIssue_keeps {i : Instr} {m : Mods} {rows : BitVec 128} {addr : Core → Nat → Word} {store : Bool} :
    Sem.Keeps (vmIssue i m rows addr store) := by
  unfold vmIssue
  exact .bind vectorRoom_keeps fun _ => .getMe_bind fun _ _ => .ite notYetVector_keeps (.bind vmLanes_keeps fun _ => enterVector_keeps)

theorem execVld_memWf {d : Row} {c : Opnd} {m : Mods} {s : State} (h : s.memWf) : NextWf (execVld d c m s) := by
  unfold execVld
  exact runInstr_memWf h fun _ => .bind src_keeps fun _ => vmIssue_keeps

theorem execVst_memWf {d : Row} {c : Opnd} {m : Mods} {s : State} (h : s.memWf) : NextWf (execVst d c m s) := by
  unfold execVst
  exact runInstr_memWf h fun _ => .bind src_keeps fun _ => vmIssue_keeps

theorem execVlds_memWf {d : Row} {a c : Opnd} {m : Mods} {s : State} (h : s.memWf) : NextWf (execVlds d a c m s) := by
  unfold execVlds
  exact runInstr_memWf h fun _ => .bind src_keeps fun _ => .bind src_keeps fun _ => vmIssue_keeps

theorem execVsts_memWf {d : Row} {a c : Opnd} {m : Mods} {s : State} (h : s.memWf) : NextWf (execVsts d a c m s) := by
  unfold execVsts
  exact runInstr_memWf h fun _ => .bind src_keeps fun _ => .bind src_keeps fun _ => vmIssue_keeps

theorem execVgath_memWf {d a : Row} {c : Opnd} {m : Mods} {s : State} (h : s.memWf) : NextWf (execVgath d a c m s) := by
  unfold execVgath
  exact runInstr_memWf h fun _ => .bind src_keeps fun _ => vmIssue_keeps

theorem execVscat_memWf {d a : Row} {c : Opnd} {m : Mods} {s : State} (h : s.memWf) : NextWf (execVscat d a c m s) := by
  unfold execVscat
  exact runInstr_memWf h fun _ => .bind src_keeps fun _ => vmIssue_keeps

theorem State.memWf_portWrite {s : State} {m off k v : Nat} (h : s.memWf) : (s.portWrite m off k v).memWf := by
  unfold State.portWrite
  extract_lets _
  split
  · exact h
  · exact State.memWf_setCore _ h (Core.scrWrite_memWf _ _ _ (State.memWf_core h _))

theorem State.memWf_pieceRead {s : State} {n : Nat} {p : Loc × Nat} (h : s.memWf) : (s.pieceRead n p).2.memWf := by
  unfold State.pieceRead
  split
  · exact State.memWf_setCore _ h (Core.scrServe_memWf (State.memWf_core h _))
  · exact h
  · exact State.memWf_unitRead h
  · exact h

theorem State.memWf_laneRead {s : State} {n x : Nat} {p : Loc × Nat} (h : s.memWf) : (s.laneRead n x p).2.memWf := by
  unfold State.laneRead
  split
  · split
    · exact State.memWf_report h
    · exact State.memWf_pieceRead h
  · exact State.memWf_pieceRead h

theorem State.memWf_pieceWrite {s : State} {p : Loc × Nat} {v : Nat} (h : s.memWf) : (s.pieceWrite p v).memWf := by
  unfold State.pieceWrite
  split
  · exact State.memWf_portWrite h
  · exact State.memWf_setDie _ h (Mem.wf_write _ _ _ _ (State.memWf_die h _))
  · exact State.memWf_setCore _ h (Core.accWrite_memWf (State.memWf_core h _))
  · exact State.memWf_l2Write h

theorem readPieces_memWf {n x : Nat} {s : State} {ps : List (Loc × Nat)} (h : s.memWf) : (readPieces n x s ps).2.memWf := by
  induction ps generalizing s with
  | nil => exact h
  | cons p ps ih => exact ih (State.memWf_laneRead h)

theorem writePieces_memWf {n : Nat} {s : State} {ps : List (Loc × Nat)} {v : Nat} (h : s.memWf) : (writePieces n s ps v).memWf := by
  induction ps generalizing s v with
  | nil => exact h
  | cons p ps ih =>
    refine ih ?_
    split
    · exact State.memWf_l1Stale (State.memWf_pieceWrite (State.memWf_settleLine h))
    · exact State.memWf_pieceWrite h

theorem vmLoadLanes_memWf {n x : Nat} {t : ElTy} {s : State} {l : List (Nat × List (Loc × Nat))} (h : s.memWf) :
    (vmLoadLanes n x t s l).2.memWf := by
  induction l generalizing s with
  | nil => exact h
  | cons e l ih => exact ih (readPieces_memWf h)

theorem vmStoreLanes_memWf {n x : Nat} {t : ElTy} {r : RowVal} {s : State} {l : List (Nat × List (Loc × Nat))} (h : s.memWf) :
    (vmStoreLanes n x t r s l).memWf := by
  induction l generalizing s with
  | nil => exact h
  | cons e l ih => exact State.memWf_ite (ih (writePieces_memWf (readPieces_memWf h))) (ih (writePieces_memWf h))

theorem State.memWf_finishVec {s : State} {n : Nat} {v : VCmd} {r : VecRes} (h : s.memWf) : (s.finishVec n v r).memWf := by
  unfold State.finishVec
  extract_lets c s1 s2 s3
  have hc : c.memWf = true := Core.unclaim_memWf (State.memWf_core h _)
  have hs1 : s1.memWf := State.memWf_setCore _ h (Core.foldl_memWf (fun _ _ => Core.memWf_setRow) hc)
  have hs2 : s2.memWf := State.memWf_ite hs1 (State.memWf_setCtx _ _ _ hs1)
  have hs3 : s3.memWf := by
    unfold s3
    split
    · exact State.memWf_deliver hs2
    · exact hs2
  exact State.memWf_retire hs3

theorem State.memWf_runVm {s : State} {n : Nat} {v : VCmd} (h : s.memWf) : (s.runVm n v).2.memWf := by
  unfold State.runVm
  extract_lets c ld st
  have hld : ∀ d m, (ld d m).2.memWf := fun _ _ => vmLoadLanes_memWf h
  have hst : ∀ d m, (st d m).2.memWf := fun _ _ => vmStoreLanes_memWf h
  split
  · exact hld _ _
  · exact hld _ _
  · exact hld _ _
  · exact hst _ _
  · exact hst _ _
  · exact hst _ _
  · exact h

theorem execVectorEngineStart_memWf {n : Nat} {s : State} (h : s.memWf) : NextWf (execVectorEngineStart n s) := by
  unfold execVectorEngineStart
  refine runEvent_memWf h fun _ h1 => ?_
  extract_lets c
  have hc : c.memWf = true := State.memWf_core h1 _
  split
  · exact Gives.ite (State.memWf_setCore _ h1 (Core.memWf_with hc)) trivial
  · trivial

theorem execVectorEngineComplete_memWf {n : Nat} {s : State} (h : s.memWf) : NextWf (execVectorEngineComplete n s) := by
  unfold execVectorEngineComplete
  refine runEvent_memWf h fun _ h1 => ?_
  extract_lets c
  have hc : c.memWf = true := State.memWf_core h1 _
  split
  · extract_lets s11
    have hs11 : s11.memWf := State.memWf_setCore _ h1 (Core.memWf_with hc)
    split
    next heq1 =>
      refine State.memWf_finishVec (memWf_of_snd heq1 ?_)
      split
      · exact State.memWf_runVm hs11
      · exact hs11
  · trivial

theorem execSfuRequestStart_memWf {o : Nat} {s : State} (h : s.memWf) : NextWf (execSfuRequestStart o s) := by
  unfold execSfuRequestStart
  refine runEvent_memWf h fun _ h1 => ?_
  extract_lets _
  split
  · exact State.memWf_setOctet _ _ h1
  · trivial

theorem execSfuResult_memWf {o : Nat} {s : State} (h : s.memWf) : NextWf (execSfuResult o s) := by
  unfold execSfuResult
  refine runEvent_memWf h fun _ h1 => ?_
  extract_lets _
  split
  · exact State.memWf_finishVec (State.memWf_setOctet _ _ h1)
  · trivial

end Sys2Proof.Machine
end

section
/-! PROOFS of the family 00_scope, O59 (Machine/Arrivals.lean): accesses that arrive and responses that return. -/

namespace Sys2Proof.Machine

theorem State.memWf_pieceLoad {s : State} {n : Nat} {p : Loc × Nat} (h : s.memWf) : (s.pieceLoad n p).2.memWf := by
  unfold State.pieceLoad
  split
  · extract_lets _ _
    exact State.memWf_l1Fill (State.memWf_l2Fill h)
  · exact State.memWf_pieceRead h

theorem loadPieces_memWf {n : Nat} {s : State} {ps : List (Loc × Nat)} (h : s.memWf) : (loadPieces n s ps).2.memWf := by
  induction ps generalizing s with
  | nil => exact h
  | cons p ps ih => exact ih (State.memWf_pieceLoad h)

theorem State.memWf_pieceAt {s : State} {n : Nat} {p : Loc × Nat} (h : s.memWf) : (s.pieceAt n p).2.memWf := by
  unfold State.pieceAt
  split
  · exact State.memWf_l2Fill h
  · exact State.memWf_pieceRead h

theorem piecesAt_memWf {n : Nat} {s : State} {ps : List (Loc × Nat)} (h : s.memWf) : (piecesAt n s ps).2.memWf := by
  induction ps generalizing s with
  | nil => exact h
  | cons p ps ih => exact ih (State.memWf_pieceAt h)

theorem storePieces_memWf {n : Nat} {s : State} {ps : List (Loc × Nat)} {v : Nat} (h : s.memWf) : (storePieces n s ps v).memWf := by
  induction ps generalizing s v with
  | nil => exact h
  | cons p ps ih =>
    refine ih ?_
    split
    · exact State.memWf_l1Stale (State.memWf_pieceWrite h)
    · exact State.memWf_pieceWrite h

theorem State.memWf_effectOf {s : State} {n : Nat} {op : MemOp} {ls : List (Loc × Nat)} (h : s.memWf) : (s.effectOf n op ls).2.memWf := by
  cases op with
  | read => exact loadPieces_memWf h
  | write v => exact storePieces_memWf h
  | rmw i y c =>
    have hs1 : (piecesAt n s ls).2.memWf := piecesAt_memWf h
    dsimp only [State.effectOf]
    split
    · exact storePieces_memWf hs1
    · exact hs1
  | zero =>
    refine foldl_memWf (fun u p hu => ?_) h
    split
    · exact State.memWf_l1Stale (State.memWf_l2Zero hu)
    · exact State.memWf_pieceWrite hu
  | fill =>
    refine foldl_memWf (fun u p hu => ?_) h
    split
    · exact State.memWf_l1Fill hu
    · exact hu
  | wb data mask =>
    refine foldl_memWf (fun u p hu => ?_) h
    split
    · exact State.memWf_l2Write hu
    · exact hu

theorem State.memWf_perform {s : State} {a : Access} {ls : List (Loc × Nat)} (h : s.memWf) : (s.perform a ls).memWf := by
  unfold State.perform
  split
  next heq =>
    extract_lets s21
    have hs21 : s21.memWf := State.memWf_setCore _ (memWf_of_snd heq (State.memWf_effectOf h)) (Core.unclaim_memWf (State.memWf_core
      (memWf_of_snd heq (State.memWf_effectOf h)) _))
    exact State.memWf_with hs21

theorem State.memWf_arrive {s : State} {id : Nat} {port : Bool} (h : s.memWf) : Gives State.memWf (s.arrive id port) := by
  unfold State.arrive
  split
  · trivial
  · split
    · trivial
    · exact Gives.ite trivial (Gives.ite (State.memWf_perform h) trivial)

theorem execMeshAccessArrival_memWf {id : Nat} {s : State} (h : s.memWf) : NextWf (execMeshAccessArrival id s) := by
  unfold execMeshAccessArrival
  exact runEvent_memWf h fun _ => State.memWf_arrive

theorem execMemoryAccessArrival_memWf {id : Nat} {s : State} (h : s.memWf) : NextWf (execMemoryAccessArrival id s) := by
  unfold execMemoryAccessArrival
  exact runEvent_memWf h fun _ => State.memWf_arrive

theorem execAccessResponseReturn_memWf {id : Nat} {s : State} (h : s.memWf) : NextWf (execAccessResponseReturn id s) := by
  unfold execAccessResponseReturn
  refine runEvent_memWf h fun _ h1 => ?_
  split
  · trivial
  · extract_lets s11 s2 _ s3
    have hs11 : s11.memWf := h1
    have hs2 : s2.memWf := by
      unfold s2
      split
      · exact State.memWf_acquireActs hs11
      · exact hs11
    have hs3 : s3.memWf := State.memWf_ite (State.memWf_ite (State.memWf_setCtx _ _ _ hs2) hs2) (State.memWf_deliver hs2)
    exact State.memWf_retire hs3

theorem execMainFileWriteback_memWf {n : Nat} {s : State} (h : s.memWf) : NextWf (execMainFileWriteback n s) := by
  unfold execMainFileWriteback
  refine runEvent_memWf h fun _ h1 => ?_
  extract_lets c
  have hc : c.memWf = true := State.memWf_core h1 _
  split
  · trivial
  · extract_lets c1
    have hc1 : c1.memWf = true := Core.mfBack_memWf _ hc
    exact State.memWf_setCore _ h1 (Core.memWf_with hc1)

theorem execPageWalkComplete_memWf {id : Nat} {s : State} (h : s.memWf) : NextWf (execPageWalkComplete id s) := by
  unfold execPageWalkComplete
  refine runEvent_memWf h fun _ h1 => ?_
  split
  · trivial
  · split
    · trivial
    · split
      · exact Gives.ite trivial (Gives.ite (State.memWf_setWalk h1) (State.memWf_endWalk h1))
      · exact State.memWf_endWalk h1

theorem execZeroOnFirstTouch_memWf {id : Nat} {s : State} (h : s.memWf) : NextWf (execZeroOnFirstTouch id s) := by
  unfold execZeroOnFirstTouch
  refine runEvent_memWf h fun _ h1 => ?_
  split
  · trivial
  · split
    · trivial
    · extract_lets s11
      have hs11 : s11.memWf := State.memWf_setWalk h1
      split
      · exact State.memWf_ite (State.memWf_zeroFill hs11) hs11
      · exact hs11

end Sys2Proof.Machine
end

section
/-! PROOFS of the family 00_scope, O59 (Machine/Context.lean): contexts, helpers, queues and system registers. -/

namespace Sys2Proof.Machine

theorem execSysc_memWf {d a b : Opnd} {m : Mods} {s : State} (h : s.memWf) : NextWf (execSysc d a b m s) := by
  unfold execSysc
  exact runInstr_memWf h fun _ => .bind src_keeps fun _ => .bind src_keeps fun _ => .getS_bind fun _ _ => .ite (.notYet (fun _ h2 =>
    h2)) (.bind release_keeps fun _ => .getS_bind fun _ h2 => .ite (.bind (.putS (State.memWf_putPart h2 (Part.memWf_with
    (State.memWf_getPart h2 _)))) fun _ => dst_keeps) dst_keeps)

theorem Core.startHelper_memWf {c : Core} {x : Nat} {entry wsp : Word} {cyc : Nat} (h : c.memWf = true) :
    (c.startHelper x entry wsp cyc).memWf = true := by
  unfold Core.startHelper
  extract_lets _
  exact Core.memWf_setCtx h

theorem execHstart_memWf {d a b : Opnd} {m : Mods} {s : State} (h : s.memWf) : NextWf (execHstart d a b m s) := by
  unfold execHstart
  refine runInstr_memWf h fun _ => .bind src_keeps fun _ => .bind src_keeps fun _ => .getMe_bind fun _ _ => .bind .check fun _ =>
    .bind .check fun _ => ?_
  split
  · exact .raise
  · exact .bind (.modS (fun _ h2 => State.memWf_setMe h2 (Core.startHelper_memWf (State.memWf_me h2)))) fun _ => dst_keeps

theorem execHjoin_memWf {d a : Opnd} {m : Mods} {s : State} (h : s.memWf) : NextWf (execHjoin d a m s) := by
  unfold execHjoin
  exact runInstr_memWf h fun _ => .bind src_keeps fun _ => .getS_bind fun _ _ => .bind .check fun _ => .ite dst_keeps waitFor_keeps

theorem State.memWf_orphan {s : State} {n x : Nat} (h : s.memWf) : (s.orphan n x).memWf := by
  unfold State.orphan
  extract_lets _ c s1 _ _
  have hc : c.memWf = true := State.memWf_core h _
  have hs1 : s1.memWf := State.memWf_setCore _ h (Core.memWf_with hc)
  exact State.memWf_setOctet _ _ hs1

theorem State.memWf_exitCtx {s : State} {n x : Nat} (h : s.memWf) : (s.exitCtx n x).memWf := by
  unfold State.exitCtx
  extract_lets c
  have hc : c.memWf = true := Core.writeBackAll_memWf _ (State.memWf_core h _)
  exact State.memWf_orphan (State.memWf_setCore _ h (Core.memWf_setCtx hc))

theorem execHexit_memWf {m : Mods} {s : State} (h : s.memWf) : NextWf (execHexit m s) := by
  unfold execHexit
  exact runInstr_memWf h fun _ => .getS_bind fun _ _ => .ite (.notYet (fun _ h2 =>
    h2)) (.ite waitFor_keeps (.bind releaseFirst_keeps fun _ => .bind (.modS (fun _ => State.memWf_exitCtx)) fun _ =>
    .ite (.modS (fun _ h2 => State.memWf_traceRec _ _ _ _ (State.memWf_controlExit h2))) .pure))

theorem execCid_memWf {d : Opnd} {m : Mods} {s : State} (h : s.memWf) : NextWf (execCid d m s) := by
  unfold execCid
  exact runInstr_memWf h fun _ => .getS_bind fun _ _ => dst_keeps

theorem execMcrd_memWf {d a : Opnd} {m : Mods} {s : State} (h : s.memWf) : NextWf (execMcrd d a m s) := by
  unfold execMcrd
  exact runInstr_memWf h fun _ => .bind src_keeps fun _ => .getS_bind fun _ _ => dst_keeps

theorem execYield_memWf {a : Opnd} {m : Mods} {s : State} (h : s.memWf) : NextWf (execYield a m s) := by
  unfold execYield
  exact runInstr_memWf h fun _ => .bind src_keeps fun _ => .modS (fun _ h1 => State.memWf_setMy _ h1)

theorem fpsrReady_keeps {r : Sr} : Sem.Keeps (fpsrReady r) := by
  unfold fpsrReady
  intro s h
  exact Ends.ite (fun _ h1 => State.memWf_rejoin _ _ h1) h

theorem execSrd_memWf {d : Opnd} {a : Sr} {m : Mods} {s : State} (h : s.memWf) : NextWf (execSrd d a m s) := by
  unfold execSrd
  exact runInstr_memWf h fun _ => .bind fpsrReady_keeps fun _ => .getS_bind fun _ _ => dst_keeps

theorem execSwr_memWf {d : Sr} {a : Opnd} {m : Mods} {s : State} (h : s.memWf) : NextWf (execSwr d a m s) := by
  unfold execSwr
  refine runInstr_memWf h fun _ => .bind fpsrReady_keeps fun _ => .bind src_keeps fun _ => ?_
  dsimp only
  split
  · exact .raise
  · exact .raise
  · exact .raise
  · exact .raise
  · exact .bind .getMy fun _ => .bind .check fun _ => .modMy
  · exact .bind .check fun _ => .modMy
  · exact .modMy
  · exact .modMy
  · exact .modMy
  · exact .bind .check fun _ => .modMy
  · exact .modMy

theorem execWspx_memWf {d a : Opnd} {m : Mods} {s : State} (h : s.memWf) : NextWf (execWspx d a m s) := by
  unfold execWspx
  exact runInstr_memWf h fun _ => .bind src_keeps fun _ => .getS_bind fun _ _ => .bind .check fun _ => .ite (.notYet (fun _ h2 =>
    h2)) (.bind release_keeps fun _ => .bind (.modMe (fun _ h2 => Core.memWf_setCtx (Core.latchBack_memWf _ h2))) fun _ =>
    .bind dst_keeps fun _ => blockOn_keeps)

theorem execQstat_memWf {d : Opnd} {q : BitVec 3} {m : Mods} {s : State} (h : s.memWf) : NextWf (execQstat d q m s) := by
  unfold execQstat
  exact runInstr_memWf h fun _ => .getS_bind fun _ _ => dst_keeps

theorem execQflush_memWf {q : BitVec 3} {m : Mods} {s : State} (h : s.memWf) : NextWf (execQflush q m s) := by
  unfold execQflush
  exact runInstr_memWf h fun _ => .modMe (fun _ => Core.memWf_setQ)

theorem execTlbi_memWf {a : Opnd} {m : Mods} {s : State} (h : s.memWf) : NextWf (execTlbi a m s) := by
  unfold execTlbi
  exact runInstr_memWf h fun _ => .bind src_keeps fun _ => .getS_bind fun _ h1 => .ite .pure (.ite (.notYet (fun _ h2 =>
    State.memWf_setMy _ h2)) (.bind (.putS (State.memWf_setOctet _ _ h1)) fun _ => .modMe (fun _ h2 => h2)))

theorem execBkpt_memWf {m : Mods} {s : State} (h : s.memWf) : NextWf (execBkpt m s) := by
  unfold execBkpt
  exact runInstr_memWf h fun _ => .bind .getMy fun _ => .ite .pure .raise

theorem State.memWf_progCount {s : State} {n id : Nat} (h : s.memWf) : (s.progCount n id).memWf := by
  unfold State.progCount
  exact foldl_memWf (fun _ _ h1 => State.memWf_ite (foldl_memWf (fun _ _ h2 =>
    State.memWf_ite (State.memWf_setRegF _ _ _ _ h2) h2) h1) h1) h

theorem State.memWf_progTrigger {s : State} {n id : Nat} (h : s.memWf) : (s.progTrigger n id).memWf := by
  unfold State.progTrigger
  extract_lets _ s1
  have hs1 : s1.memWf := State.memWf_ite (State.memWf_traceStart _ h) h
  exact State.memWf_ite (State.memWf_traceStop _ hs1) hs1

theorem execProg_memWf {a : Opnd} {m : Mods} {s : State} (h : s.memWf) : NextWf (execProg a m s) := by
  unfold execProg
  exact runInstr_memWf h fun _ => .bind src_keeps fun _ => .modS (fun _ h1 =>
    State.memWf_traceRec _ _ _ _ (State.memWf_progTrigger (State.memWf_progCount h1)))

theorem execTrace_memWf {a : Opnd} {m : Mods} {s : State} (h : s.memWf) : NextWf (execTrace a m s) := by
  unfold execTrace
  exact runInstr_memWf h fun _ => .bind src_keeps fun _ => .modS (fun _ h1 => State.memWf_traceRec _ _ _ _ h1)

end Sys2Proof.Machine
end

section
/-! PROOFS of the family 00_scope, O59 (Machine/Matrix.lean): the matrix instructions and the events of the matrix unit. -/

namespace Sys2Proof.Machine

theorem State.memWf_enterPort {s : State} {n : Nat} {cmd : MCmd} {rd wr : BitVec 128} (h : s.memWf) :
    (s.enterPort n cmd rd wr).memWf := by
  unfold State.enterPort
  extract_lets c _ _
  have hc : c.memWf = true := State.memWf_core h _
  exact State.memWf_setCore _ h (Core.claim_memWf (Core.memWf_with hc))

theorem matrixRoom_keeps : Sem.Keeps matrixRoom := by
  unfold matrixRoom
  intro s h
  exact Ends.ite (fun _ h1 => h1) h

theorem enterMatrix_keeps {mk : Nat → MCmd} {rd wr : BitVec 128} : Sem.Keeps (enterMatrix mk rd wr) := by
  unfold enterMatrix
  exact .bind .freshId fun _ => .bind (.modS (fun _ => State.memWf_enterPort)) fun _ => .pure

theorem tileChecks_keeps {i : Instr} {m : Mods} {w a : Word} {granules : Bool} : Sem.Keeps (tileChecks i m w a granules) := by
  unfold tileChecks
  refine .getS_bind fun _ _ => .bind .check fun _ => .bind .check fun _ => .bind .check fun _ => .bind .check fun _ =>
    .bind .check fun _ => ?_
  dsimp only
  split
  · split
    · exact .notYet (fun _ h1 => h1)
    · split
      · exact .raise
      · exact .pure
  · split
    · exact .raise
    · exact .pure

theorem tileIssue_memWf {i : Instr} {d a : Opnd} {m : Mods} {s : State} {granules : Bool} (h : s.memWf) :
    NextWf (tileIssue i d a m s granules) := by
  unfold tileIssue
  exact runInstr_memWf h fun _ => .bind matrixRoom_keeps fun _ => .bind src_keeps fun _ => .bind src_keeps fun _ =>
    .bind tileChecks_keeps fun _ => .getS_bind fun _ _ => .bind enterMatrix_keeps fun _ => .pure

theorem execMwld_memWf {d a : Opnd} {m : Mods} {s : State} (h : s.memWf) : NextWf (execMwld d a m s) := by
  unfold execMwld
  refine runInstr_memWf h fun _ => .bind matrixRoom_keeps fun _ => .bind src_keeps fun _ => .bind src_keeps fun _ =>
    .getS_bind fun _ _ => .bind .check fun _ => .bind .check fun _ => .bind .check fun _ => ?_
  split
  · exact .raise
  · exact .bind enterMatrix_keeps fun _ => .pure

theorem execMupl_memWf {d : Opnd} {m : Mods} {s : State} (h : s.memWf) : NextWf (execMupl d m s) := by
  unfold execMupl
  exact runInstr_memWf h fun _ => .bind matrixRoom_keeps fun _ => .bind src_keeps fun _ => .bind .check fun _ => .getS_bind fun _ _ =>
    .bind enterMatrix_keeps fun _ => .modMe (fun _ h2 => h2)

theorem execMzero_memWf {d : Opnd} {m : Mods} {s : State} (h : s.memWf) : NextWf (execMzero d m s) := by
  unfold execMzero
  exact runInstr_memWf h fun _ => .bind matrixRoom_keeps fun _ => .bind src_keeps fun _ => .bind .check fun _ => .getS_bind fun _ _ =>
    .bind enterMatrix_keeps fun _ => .pure

theorem execMtr_memWf {d : Opnd} {m : Mods} {s : State} (h : s.memWf) : NextWf (execMtr d m s) := by
  unfold execMtr
  exact runInstr_memWf h fun _ => .bind matrixRoom_keeps fun _ => .bind src_keeps fun _ => .bind .check fun _ => .getS_bind fun _ _ =>
    .bind enterMatrix_keeps fun _ => .pure

theorem execMsacc_memWf {d : Opnd} {m : Mods} {s : State} (h : s.memWf) : NextWf (execMsacc d m s) := by
  unfold execMsacc
  exact runInstr_memWf h fun _ => .bind matrixRoom_keeps fun _ => .bind src_keeps fun _ => .bind .check fun _ => .getS_bind fun _ _ =>
    .bind enterMatrix_keeps fun _ => .pure

theorem moveIssue_memWf {i : Instr} {d a : Opnd} {m : Mods} {s : State} {mt : ElTy} {store : Bool} (h : s.memWf) :
    NextWf (moveIssue i d a m s mt store) := by
  unfold moveIssue
  refine runInstr_memWf h fun _ => .bind matrixRoom_keeps fun _ => .bind src_keeps fun _ => .bind src_keeps fun _ =>
    .getS_bind fun _ _ => .bind .check fun _ => .bind .check fun _ => ?_
  split
  · exact .raise
  · exact .bind .check fun _ => .bind .getMy fun _ => .bind enterMatrix_keeps fun _ => .modMy

theorem execMfence_memWf {m : Mods} {s : State} (h : s.memWf) : NextWf (execMfence m s) := by
  unfold execMfence
  exact runInstr_memWf h fun _ => .bind matrixRoom_keeps fun _ => .getS_bind fun _ _ => .bind enterMatrix_keeps fun _ => blockOn_keeps

theorem execMstatMatrix_memWf {d : Opnd} {m : Mods} {s : State} (h : s.memWf) : NextWf (execMstatMatrix d m s) := by
  unfold execMstatMatrix
  exact runInstr_memWf h fun _ => .getMe_bind fun _ _ => .bind (.modMe (fun _ h2 => h2)) fun _ => dst_keeps

theorem execMmag_memWf {d a c : Opnd} {m : Mods} {s : State} (h : s.memWf) : NextWf (execMmag d a c m s) := by
  unfold execMmag
  refine runInstr_memWf h fun _ => .bind src_keeps fun _ => .bind src_keeps fun _ => .bind src_keeps fun _ => .getS_bind fun _ _ => ?_
  dsimp only
  split
  · exact .ite .modMy waitFor_keeps
  · refine .bind .check fun _ => .bind tileChecks_keeps fun _ => .bind .check fun _ => ?_
    split
    · intro s2 hs2
      trivial
    · exact .blocked (fun _ h2 => State.memWf_setMy _ h2)

theorem execMmagMeeting_memWf {n : Nat} {s : State} (h : s.memWf) : NextWf (execMmagMeeting n s) := by
  unfold execMmagMeeting
  refine runEvent_memWf h fun _ h1 => ?_
  split
  · trivial
  · extract_lets _ _ _ _
    split
    · trivial
    · split
      next heq2 =>
        exact foldl_memWf (fun _ _ h2 => State.memWf_setCtx _ _ _ (State.memWf_enterPort (State.memWf_newId h2))) (memWf_of_snd heq2
          (State.memWf_newId h1))

theorem State.memWf_readRows {s : State} {n a pitch need k : Nat} (h : s.memWf) : (s.readRows n a pitch need k).2.memWf := by
  induction k with
  | zero => exact h
  | succ k ih =>
    rw [State.readRows]
    split
    next heq => exact memWf_of_snd heq ih
    next heq => exact State.memWf_engRead (memWf_of_snd heq ih)

theorem State.memWf_mFetch {s : State} {n : Nat} {k : MCmd} (h : s.memWf) : (s.mFetch n k).2.memWf := by
  unfold State.mFetch
  extract_lets tile
  have htile : ∀ m, (tile m).2.memWf := by
    intro m
    unfold tile
    split
    next heq => exact memWf_of_snd heq (State.memWf_readRows h)
  clear_value tile
  split
  · exact htile _
  · split
    · exact h
    · exact htile _
  · exact htile _
  · split
    next heq => exact memWf_of_snd heq (State.memWf_engRead h)
  · split
    next heq => exact memWf_of_snd heq (State.memWf_readRows h)
  · exact h

theorem execMatrixGrant_memWf {o : Nat} {s : State} (h : s.memWf) : NextWf (execMatrixGrant o s) := by
  unfold execMatrixGrant
  refine runEvent_memWf h fun _ h1 => ?_
  extract_lets _
  split
  · trivial
  · split
    · trivial
    · extract_lets _ s11
      have hs11 : s11.memWf := State.memWf_setOctet _ _ h1
      split
      · split
        next heq3 =>
          exact State.memWf_setCore _ (memWf_of_snd heq3 (State.memWf_mFetch hs11)) (Core.memWf_with (State.memWf_core
            (memWf_of_snd heq3 (State.memWf_mFetch hs11)) _))
      · trivial

theorem State.memWf_storeRows {s : State} {n a pitch : Nat} {rows : List (List Byte)} (h : s.memWf) :
    (s.storeRows n a pitch rows).2.memWf := by
  unfold State.storeRows
  refine foldl_snd_memWf (fun _ _ h1 => ?_) h
  split
  · exact h1
  · split
    next heq1 => exact memWf_of_snd heq1 (State.memWf_engWrite h1)

theorem State.memWf_setWeights {s : State} {n a : Nat} {bs : List Byte} (h : s.memWf) :
    (s.setCore n { s.core n with wts := (s.core n).wts.setBytes a bs }).memWf := by
  have hc : (s.core n).memWf = true := State.memWf_core h n
  simp only [Core.memWf, Bool.and_eq_true] at hc
  obtain ⟨hscr, hwts⟩ := hc
  refine State.memWf_setCore _ h ?_
  simp only [Core.memWf, Bool.and_eq_true]
  exact ⟨hscr, Mem.wf_setBytes _ _ _ hwts⟩

/-- A matrix command's effect, MWLD's write of the weight slice among them. -/
theorem State.memWf_mRun {s : State} {n : Nat} {k : MCmd} (h : s.memWf) : (s.mRun n k).s.memWf := by
  unfold State.mRun
  extract_lets c w tile rs
  have htile : ∀ m elem, (tile m elem).s.memWf := by
    intro m elem
    unfold tile
    split
    · exact h
    · exact h
  split
  · exact htile _ _
  · exact htile _ _
  · exact htile _ _
  · exact State.memWf_setWeights h
  · exact State.memWf_setCore _ h (State.memWf_core h n)
  · exact h
  · exact h
  · exact h
  · extract_lets out
    split
    next t heq =>
      have ht : ((t.drain n).drainUo n).memWf :=
        State.memWf_drainUo (State.memWf_drain (memWf_of_snd heq (State.memWf_storeRows h)))
      exact State.memWf_setCore _ ht (State.memWf_core ht n)
  · split
    · exact h
    · exact h
  · exact h

theorem State.memWf_unitFree {s : State} {o : Nat} (h : s.memWf) : (s.unitFree o).memWf := by
  unfold State.unitFree
  extract_lets _
  exact State.memWf_ite (State.memWf_setOctet _ _ h) (State.memWf_setOctet _ _ h)

theorem execMatrixCommandComplete_memWf {n : Nat} {s : State} (h : s.memWf) : NextWf (execMatrixCommandComplete n s) := by
  unfold execMatrixCommandComplete
  refine runEvent_memWf h fun s hs => ?_
  split
  · trivial
  · extract_lets r c c1 t t1 t2 o s1 s2 s3
    have hr : r.s.memWf := by
      unfold r
      split
      · exact hs
      · exact State.memWf_mRun hs
    have hc1 : c1.memWf = true := Core.foldl_memWf (fun _ _ => Core.memWf_setRow) (Core.unclaim_memWf (State.memWf_core hr n))
    have hs1 : s1.memWf := State.memWf_setCore _ hr hc1
    have hs2 : s2.memWf := State.memWf_ite (State.memWf_unitFree hs1) hs1
    have hs3 : s3.memWf := by
      unfold s3
      split
      · exact State.memWf_engineEvent hs2
      · exact hs2
    exact State.memWf_retire hs3

end Sys2Proof.Machine
end

section
/-! PROOFS of the family 00_scope, O59 (Machine/Fetch.lean): fetching. -/

namespace Sys2Proof.Machine

theorem Core.l1SetX_memWf {c : Core} {b : Nat} (h : c.memWf = true) :
    (c.l1SetX b).memWf = true := h

theorem State.memWf_fetchLine {s : State} {n : Nat} {t : TlbEnt} {va : Nat} (h : s.memWf) :
    Gives (fun p => p.2.memWf) (s.fetchLine n t va) := by
  unfold State.fetchLine
  extract_lets _ _
  split
  · exact Gives.ite trivial (State.memWf_l2Fill h)
  · split
    · split
      · exact State.memWf_setCore _ h (Core.l1SetX_memWf (Core.l1Touch_memWf (State.memWf_core h _)))
      · exact Gives.ite trivial (State.memWf_l1Fill h)
    · exact Gives.ite trivial (State.memWf_l1Fill h)

theorem refillAfter_keeps {l : Loc} : Sem.Keeps (refillAfter l) := by
  unfold refillAfter
  intro s h
  exact Ends.ite (fun _ h1 => h1) h

theorem fetchBlock_keeps {a : Word} : Sem.Keeps (fetchBlock a) := by
  unfold fetchBlock
  refine .getS_bind fun _ _ => ?_
  split
  · exact .raise
  · exact .bind refillAfter_keeps fun _ => .bind ownRead_keeps fun _ => .pure
  · exact .bind refillAfter_keeps fun _ => .pure
  · refine .bind xlate_keeps fun _ => .bind refillAfter_keeps fun _ => ?_
    intro s1 hs1
    beta_reduce
    split
    next heq1 => exact Gives.of_eq heq1 (State.memWf_fetchLine hs1)
    · trivial
  · exact .raise

theorem fetchHead_keeps {a : Word} : Sem.Keeps (fetchHead a) := by
  unfold fetchHead
  refine .bind .getMy fun _ => ?_
  split
  · exact .ite .pure (.bind fetchBlock_keeps fun _ => .bind .modMy fun _ => .pure)
  · exact .bind fetchBlock_keeps fun _ => .bind .modMy fun _ => .pure

theorem fetchRest_keeps {l : Line} {first a : Word} {k : Nat} : Sem.Keeps (fetchRest l first a k) := by
  induction k generalizing a with
  | zero => exact .pure
  | succ k ih =>
    rw [fetchRest]
    have hrest : ∀ w, Sem.Keeps (do pure (w :: (← fetchRest l first (a + 4) k))) := fun _ => .bind ih fun _ => .pure
    exact .ite (.bind .pure hrest) (.bind fetchBlock_keeps fun _ => .bind .pure hrest)

theorem fetch_keeps : Sem.Keeps fetch := by
  unfold fetch
  exact .bind .getMy fun _ => .bind .check fun _ => .bind fetchHead_keeps fun _ => .bind fetchRest_keeps fun _ => .pure

theorem fetchInstr_keeps : Sem.Keeps fetchInstr := by
  unfold fetchInstr
  refine .bind fetch_keeps fun _ => ?_
  split
  · exact .pure
  · exact .pure
  · exact .notYet (fun _ h => h)

theorem execIllegalEncoding_memWf {cause : BitVec 8} {enc : BitVec 64} {s : State} (h : s.memWf) :
    NextWf (execIllegalEncoding cause enc s) := by
  unfold execIllegalEncoding
  exact NextWf.ite h (State.memWf_raiseIn h)

end Sys2Proof.Machine
end

section
/-! PROOFS of the family 00_scope, O59 (Machine/Debug.lean): the comparators of a core. -/

namespace Sys2Proof.Machine

theorem State.memWf_cmpHit {s : State} {n x c what : Nat} (h : s.memWf) : (s.cmpHit n x c what).memWf := by
  unfold State.cmpHit
  extract_lets s1
  have hs1 : s1.memWf := State.memWf_trigger _ _ h
  split
  · exact State.memWf_setRegF _ _ _ _ hs1
  · exact State.memWf_traceRec _ _ _ _ hs1
  · exact hs1

theorem State.memWf_bpApply {s : State} {n x : Nat} {a : Word} (h : s.memWf) : (s.bpApply n x a).memWf := by
  unfold State.bpApply
  exact foldl_memWf (fun _ _ => State.memWf_cmpHit) h

theorem State.memWf_breakAt {s : State} {n x i : Nat} (h : s.memWf) : (s.breakAt n x i).memWf := by
  unfold State.breakAt
  extract_lets _
  exact State.memWf_causeIn (State.memWf_bpApply h)

theorem execBreakpointHalt_memWf {n x i : Nat} {s : State} (h : s.memWf) : NextWf (execBreakpointHalt n x i s) := by
  unfold execBreakpointHalt
  exact runEvent_memWf h fun _ h1 => Gives.ite (State.memWf_breakAt h1) trivial

/-- What follows an issue keeps the form. -/
theorem State.memWf_afterIssue {s t : State} {n x : Nat} {ins : Instr} {first : Bool} (h : t.memWf) :
    (s.afterIssue t n x ins first).memWf := by
  unfold State.afterIssue
  extract_lets done off hits t0 t1 step stop
  have ht0 : t0.memWf := State.memWf_ite (State.memWf_bpApply h) h
  have ht1 : t1.memWf := foldl_memWf (fun _ _ => State.memWf_cmpHit) ht0
  clear_value stop
  cases stop with
  | some e => exact State.memWf_ite (State.memWf_setCtx _ _ _ ht1) ht1
  | none => exact ht1

theorem State.memWf_takeStop {s : State} {n x : Nat} (h : s.memWf) : Gives State.memWf (s.takeStop n x) := by
  unfold State.takeStop
  split
  · trivial
  · exact Gives.ite (State.memWf_causeIn (State.memWf_setCtx _ _ _ h)) h

end Sys2Proof.Machine
end

section
/-! PROOFS of the family 00_scope, O59 (Machine/Halts.lean): halts, releases and kills. -/

namespace Sys2Proof.Machine

theorem execHaltOnWithheld_memWf {n x : Nat} {s : State} (h : s.memWf) : NextWf (execHaltOnWithheld n x s) := by
  unfold execHaltOnWithheld
  refine runEvent_memWf h fun _ h1 => ?_
  extract_lets _
  split
  · trivial
  · extract_lets _ _
    exact Gives.ite trivial (Gives.map_all (fun _ => State.memWf_haltWithheld h1))

theorem execWaitLimitExpiry_memWf {n x : Nat} {s : State} (h : s.memWf) : NextWf (execWaitLimitExpiry n x s) := by
  unfold execWaitLimitExpiry
  refine runEvent_memWf h fun _ h1 => ?_
  extract_lets _
  split
  · exact Gives.ite (State.memWf_setCtx _ _ _ h1) trivial
  · trivial

theorem execWaitaPoll_memWf {n x : Nat} {s : State} (h : s.memWf) : NextWf (execWaitaPoll n x s) := by
  unfold execWaitaPoll
  refine runEvent_memWf h fun _ h1 => ?_
  extract_lets _
  split
  · exact Gives.ite (State.memWf_setCtx _ _ _ h1) trivial
  · trivial

theorem State.memWf_dropHeld {s : State} {n x : Nat} (h : s.memWf) : (s.dropHeld n x).memWf := by
  unfold State.dropHeld
  extract_lets _ s1 _
  have hs1 : s1.memWf := foldl_memWf (fun _ _ h1 => State.memWf_retire (State.memWf_setCore _ h1 (Core.unclaim_memWf
    (State.memWf_core h1 _)))) h
  exact State.memWf_setCtx _ _ _ hs1

theorem State.memWf_clearRec {s : State} {n x : Nat} (h : s.memWf) : (s.clearRec n x).memWf := by
  unfold State.clearRec
  extract_lets _ _ s1
  have hs1 : s1.memWf := State.memWf_ite (State.memWf_storeRec h) (State.memWf_setCtx _ _ _ h)
  exact State.memWf_ite h (State.memWf_setRegF _ _ _ _ hs1)

theorem State.memWf_unbind {s : State} {n x : Nat} (h : s.memWf) : (s.unbind n x).memWf := by
  unfold State.unbind
  extract_lets s1 _ s2
  have hs1 : s1.memWf := State.memWf_clearRec (State.memWf_dropAsk (State.memWf_dropTail (State.memWf_dropResv h)))
  have hs2 : s2.memWf := State.memWf_setCore _ hs1 (Core.writeBackAll_memWf _ (State.memWf_core hs1 _))
  exact State.memWf_orphan (State.memWf_setCore _ hs2 (Core.memWf_setCtx (State.memWf_core hs2 _)))

theorem State.memWf_stopCtx {s : State} {n x : Nat} (h : s.memWf) : (s.stopCtx n x).memWf := by
  unfold State.stopCtx
  split
  · exact h
  · exact State.memWf_unbind (State.memWf_dropHeld (State.memWf_withdraw h))

theorem State.memWf_killCtx {s : State} {n x : Nat} (h : s.memWf) : (s.killCtx n x).memWf := by
  unfold State.killCtx
  extract_lets _ old s1 s2 old1 s3
  have hold : old.memWf := State.memWf_getPart h _
  have hs1 : s1.memWf := by
    unfold s1
    split
    · exact State.memWf_putPart h (Part.memWf_with hold)
    · exact h
  have hs2 : s2.memWf := State.memWf_ite hs1 (State.memWf_unbind (State.memWf_dropHeld hs1))
  have hold1 : old1.memWf = true := State.memWf_core hs2 _
  have hs3 : s3.memWf := State.memWf_setCore _ hs2 (Core.memWf_with hold1)
  exact foldl_memWf (fun _ _ => State.memWf_depart) hs3

theorem State.memWf_killSoon {s : State} {n x : Nat} (h : s.memWf) : (s.killSoon n x).memWf := by
  unfold State.killSoon
  split
  · exact State.memWf_killCtx h
  · exact State.memWf_setCtx _ _ _ h
  · exact h

theorem State.memWf_kill {s : State} {n x : Nat} (h : s.memWf) : (s.kill n x).memWf := by
  unfold State.kill
  extract_lets s1 s2
  have hs1 : s1.memWf := State.memWf_ite (foldl_memWf (fun _ _ hu => State.memWf_ite hu (State.memWf_killSoon hu)) h) h
  have hs2 : s2.memWf := State.memWf_killCtx hs1
  split
  · exact State.memWf_gangCheck hs2
  · exact hs2

theorem execHaltRequest_memWf {p : Nat} {v : BitVec 64} {s : State} (h : s.memWf) : NextWf (execHaltRequest p v s) := by
  unfold execHaltRequest
  exact runPilot_memWf h fun _ h1 => Gives.ite (State.memWf_setReg _ _ h1) (State.memWf_setReg _ _ (foldl_memWf (fun _ _ h2 =>
    State.memWf_setCtx _ _ _ h2) h1))

theorem State.memWf_reqDone {s : State} {p : Nat} (h : s.memWf) : (s.reqDone p).memWf := by
  unfold State.reqDone
  extract_lets _ _
  exact State.memWf_ite (State.memWf_setReg _ _ h) h

theorem State.memWf_haltNow {s : State} {n x : Nat} (h : s.memWf) : (s.haltNow n x).memWf := by
  unfold State.haltNow
  extract_lets _
  exact State.memWf_halt (State.memWf_setCtx _ _ _ h)

theorem State.memWf_resumeTask {s : State} {n x : Nat} (h : s.memWf) : (s.resumeTask n x).memWf := by
  unfold State.resumeTask
  split
  · exact h
  · extract_lets _
    exact State.memWf_ite (State.memWf_setTcbSt h) h

theorem State.memWf_releaseCtx {s0 : State} {n x : Nat} (h : s0.memWf) : (s0.releaseCtx n x).memWf := by
  unfold State.releaseCtx
  extract_lets s _ _ _ _ s1 _ s2 old
  have hs : s.memWf := State.memWf_ite (State.memWf_rejoin _ _ h) h
  have hs1 : s1.memWf := State.memWf_clearRec (State.memWf_resumeTask hs)
  have hs2 : s2.memWf := State.memWf_setCtx _ _ _ hs1
  have hold : old.memWf := State.memWf_getPart hs2 _
  exact State.memWf_putPart hs2 (Part.memWf_with hold)

theorem State.memWf_relBad {s : State} {p id : Nat} (h : s.memWf) : (s.relBad p id).memWf := by
  unfold State.relBad
  extract_lets _
  exact State.memWf_ite h (State.memWf_pilotEvent _ _ _ (State.memWf_setReg _ _ h))

theorem State.memWf_relReg {s : State} {p id : Nat} {kill : Bool} (h : s.memWf) : (s.relReg p id kill).memWf := by
  unfold State.relReg
  exact State.memWf_setReg _ _ h

theorem execHaltRelease_memWf {p id : Nat} {s : State} (h : s.memWf) : NextWf (execHaltRelease p id s) := by
  unfold execHaltRelease
  refine runPilot_memWf h fun _ h1 => ?_
  extract_lets s2
  have hs2 : s2.memWf := State.memWf_relReg h1
  split
  · exact State.memWf_releaseCtx hs2
  · exact State.memWf_relBad hs2

theorem execHaltKill_memWf {p id : Nat} {s : State} (h : s.memWf) : NextWf (execHaltKill p id s) := by
  unfold execHaltKill
  refine runPilot_memWf h fun _ h1 => ?_
  extract_lets s2
  have hs2 : s2.memWf := State.memWf_relReg h1
  split
  · exact State.memWf_kill hs2
  · exact State.memWf_relBad hs2

theorem execChainedRelease_memWf {p id : Nat} {s : State} (h : s.memWf) : NextWf (execChainedRelease p id s) := by
  unfold execChainedRelease
  refine runEvent_memWf h fun _ h1 => ?_
  extract_lets q
  have hq : q.memWf := State.memWf_getPart h1 _
  split
  · split
    · trivial
    · extract_lets s11
      have hs11 : s11.memWf := State.memWf_putPart h1 (Part.memWf_with hq)
      exact foldl_memWf (fun _ _ => State.memWf_releaseCtx) hs11
  · split
    · trivial
    · extract_lets s11
      have hs11 : s11.memWf := State.memWf_putPart h1 (Part.memWf_with hq)
      exact foldl_memWf (fun _ _ => State.memWf_releaseCtx) hs11

end Sys2Proof.Machine
end

section
/-! PROOFS of the family 00_scope, O59 (Machine/Tasks.lean): placement, pre-emption and retirement. -/

namespace Sys2Proof.Machine

theorem State.memWf_shrinkL1 {s : State} {n ways : Nat} (h : s.memWf) : (s.shrinkL1 n ways).memWf := by
  unfold State.shrinkL1
  exact foldl_memWf (fun _ _ => State.memWf_l1Clean) h

theorem Core.emptied_memWf {c : Core} : c.emptied.memWf = true := Core.memWf_iff.2 ⟨rfl, rfl⟩

theorem entryScr_wf {n i : Nat} {entry arg user : Word} {scratch stack : Nat}
    : (entryScr n i entry arg user scratch stack).wf = true := by
  unfold entryScr
  extract_lets base top put m1
  have hput : ∀ m off v, Mem.wf m = true → (put m off v).wf = true := fun _ _ _ => Mem.wf_write _ _ _ _
  have hm1 : m1.wf = true := hput _ _ _ (hput _ _ _ (hput _ _ _ (hput _ _ _ (hput _ _ _ rfl))))
  exact hput _ _ _ (hput _ _ _ (hput _ _ _ hm1))

theorem State.memWf_placeCore {s : State} {n : Nat} {g : GangRef} (h : s.memWf) : (s.placeCore n g).memWf := by
  unfold State.placeCore
  extract_lets f scratch s1 c entry c1 s2
  have hs1 : s1.memWf := State.memWf_shrinkL1 h
  have hc1 : c1.memWf = true := by
    refine Core.memWf_iff.2 ⟨?_, rfl⟩
    dsimp only [c1]
    split
    · rfl
    · exact entryScr_wf
  have hs2 : s2.memWf := State.memWf_revokeAll (State.memWf_setCore _ hs1 hc1)
  exact State.memWf_acquireActs (State.memWf_trigger _ _ (State.memWf_traceRec _ _ _ _ hs2))

/-- A core restored from a checkpoint image. -/
theorem State.memWf_restoreCore {s : State} {n : Nat} {g : GangRef} {old : Core} (h : s.memWf) (hold : old.memWf = true) :
    (s.restoreCore n g old).memWf := by
  unfold State.restoreCore
  extract_lets s1 c _ _
  have hs1 : s1.memWf := State.memWf_shrinkL1 h
  have hc : c.memWf = true := Core.emptied_memWf
  exact State.memWf_acquireActs (State.memWf_setCore _ hs1 hold)

theorem State.memWf_placeGang {s : State} {p i x0 y0 cvy member : Nat} {image : List (Nat × Core)} (h : s.memWf)
    (himage : ∀ k ∈ image, k.2.memWf = true) : (s.placeGang p i x0 y0 cvy member image).memWf := by
  unfold State.placeGang
  extract_lets lw lh q num g s1 r s2
  have hs1 : s1.memWf := State.memWf_putPart h (Part.memWf_with (State.memWf_getPart h p))
  have hs2 : s2.memWf := by
    refine foldl_memWf (fun u e hu => ?_) hs1
    split
    next heq => exact State.memWf_restoreCore hu (himage _ (List.mem_of_find?_eq_some heq))
    next => exact State.memWf_placeCore hu
  exact State.memWf_ite (State.memWf_progress (State.memWf_setTcbSt hs2)) hs2

/-- The cores of a checkpoint image have memories in their form. -/
theorem State.imageOf_memWf {s : State} {p cvy member : Nat} (h : s.memWf) : ∀ k ∈ s.imageOf p cvy member, k.2.memWf = true := by
  unfold State.imageOf
  split
  · intro k hk
    cases hk
  · extract_lets cur
    refine List.forall_mem_map.2 fun m hm => ?_
    have hm := (List.mem_filter.1 hm).1
    cases hget : AMap.get? (s.part p).images (2 * cvy + cur) with
    | none =>
      rw [AMap.getD, hget] at hm
      cases hm
    | some l =>
      rw [AMap.getD, hget] at hm
      exact State.memWf_part h p _ (AMap.get?_mem hget) m hm

theorem State.memWf_place {s : State} {p : Nat} {e : PoolEntry} {os : List (Nat × Nat)} (h : s.memWf) : (s.place p e os).memWf := by
  unfold State.place
  extract_lets cvy first t q
  have ht : t.memWf := by
    refine foldl_memWf (fun u m hu => State.memWf_placeGang hu ?_) h
    split
    · intro k hk
      cases hk
    · exact State.imageOf_memWf h
  exact State.memWf_putPart ht (Part.memWf_with (State.memWf_getPart ht p))

theorem State.memWf_passedOver {s : State} {p : Nat} {before : List PoolEntry} {e : PoolEntry} (h : s.memWf) :
    (s.passedOver p before e).memWf := by
  unfold State.passedOver
  extract_lets q _ _ s1
  have hq : q.memWf := State.memWf_getPart h _
  have hs1 : s1.memWf := State.memWf_putPart h (Part.memWf_with hq)
  exact State.memWf_ite (State.memWf_chrEvt hs1) hs1

theorem State.memWf_reserve {s : State} {p : Nat} {pool : List PoolEntry} {e : PoolEntry} (h : s.memWf) : (s.reserve p pool e).memWf := by
  unfold State.reserve
  extract_lets _ old
  have hold : old.memWf := State.memWf_getPart h _
  split
  · exact h
  · split
    · exact State.memWf_putPart h (Part.memWf_with hold)
    · exact h

theorem State.memWf_tryEntries {s : State} {p : Nat} {pool before l : List PoolEntry} (h : s.memWf) :
    (s.tryEntries p pool before l).memWf := by
  induction l generalizing s before with
  | nil => exact h
  | cons e rest ih =>
    rw [State.tryEntries]
    split
    · exact State.memWf_ite (State.memWf_passedOver (State.memWf_place h)) h
    · extract_lets q s1
      have hs1 : s1.memWf := State.memWf_ite (State.memWf_putPart h (Part.memWf_with (State.memWf_getPart h p))) h
      exact State.memWf_ite hs1 (ih (State.memWf_reserve hs1))

theorem State.memWf_readConvoys {s : State} {p : Nat} (h : s.memWf) : (s.readConvoys p).memWf := by
  unfold State.readConvoys
  exact foldl_memWf (fun _ _ => State.memWf_readCvy) h

theorem execPlacementAttempt_memWf {p : Nat} {s : State} (h : s.memWf) : NextWf (execPlacementAttempt p s) := by
  unfold execPlacementAttempt
  refine runEvent_memWf h fun _ h1 => ?_
  extract_lets _ q s11
  have hq : q.memWf := State.memWf_getPart h1 _
  have hs11 : s11.memWf := State.memWf_readConvoys (State.memWf_putPart h1 (Part.memWf_with hq))
  split
  · trivial
  · split
    · exact Gives.ite hs11 (State.memWf_tryEntries hs11)
    · exact State.memWf_tryEntries hs11

theorem State.memWf_portOpens {s : State} {n : Nat} (h : s.memWf) : (s.portOpens n).memWf := by
  unfold State.portOpens
  extract_lets old t _
  have hold : old.memWf = true := State.memWf_core h _
  have ht : t.memWf := State.memWf_setCore _ h (Core.memWf_with hold)
  exact foldl_memWf (fun _ _ h1 => Option.getD_memWf (State.memWf_arrive h1) h1) ht

theorem execKernelEntry_memWf {n : Nat} {s : State} (h : s.memWf) : NextWf (execKernelEntry n s) := by
  unfold execKernelEntry
  exact runEvent_memWf h fun _ h1 => Gives.ite trivial (Gives.ite (State.memWf_setCore _ (State.memWf_portOpens h1) (Core.memWf_with
    (State.memWf_core (State.memWf_portOpens h1) _))) (State.memWf_setCtx _ _ _ (State.memWf_portOpens h1)))

theorem State.memWf_cleanAll {s : State} {n : Nat} (h : s.memWf) : (s.cleanAll n).memWf := by
  unfold State.cleanAll
  exact foldl_memWf (fun _ _ => State.memWf_l1Clean) (State.memWf_drain h)

/-- A core given up keeps its scratchpad, its main file written back, and its weights. -/
theorem State.memWf_freeCore {s : State} {n : Nat} (h : s.memWf) : (s.freeCore n).memWf := by
  unfold State.freeCore
  extract_lets c kept old
  obtain ⟨-, hwts⟩ := Core.memWf_iff.1 (State.memWf_core h n)
  obtain ⟨hscr, -⟩ := Core.memWf_iff.1 (Core.mfBacks_memWf c.mf (State.memWf_core h n))
  exact State.memWf_setCore _ h (Core.memWf_iff.2 ⟨hscr, hwts⟩)

theorem State.memWf_taskRetired {s : State} {p i : Nat} (h : s.memWf) : (s.taskRetired p i).memWf := by
  unfold State.taskRetired
  split
  · exact h
  · split
    · extract_lets s1 old
      have hs1 : s1.memWf := State.memWf_taskDone h
      have hold : old.memWf := State.memWf_getPart hs1 _
      exact State.memWf_putPart hs1 (Part.memWf_with hold)
    · split
      · extract_lets s1 old
        have hs1 : s1.memWf := State.memWf_setTcbSt h
        have hold : old.memWf := State.memWf_getPart hs1 _
        exact State.memWf_putPart hs1 (Part.memWf_with hold)
      · exact h

theorem execGangRetire_memWf {p num : Nat} {s : State} (h : s.memWf) : NextWf (execGangRetire p num s) := by
  unfold execGangRetire
  refine runEvent_memWf h fun _ h1 => ?_
  split
  · trivial
  · split
    · trivial
    · split
      · exact foldl_memWf (fun _ _ => State.memWf_cleanAll) h1
      · split
        · trivial
        · extract_lets s11 q s2 s3 old
          have hs11 : s11.memWf := foldl_memWf (fun _ _ => State.memWf_freeCore) h1
          have hq : q.memWf := State.memWf_getPart hs11 _
          have hs2 : s2.memWf := State.memWf_putPart hs11 (Part.memWf_with hq)
          have hs3 : s3.memWf := foldl_memWf (fun _ _ h2 => State.memWf_ite h2 (State.memWf_taskRetired h2)) hs2
          have hold : old.memWf := State.memWf_getPart hs3 _
          split
          · exact State.memWf_taskRetired hs2
          · exact Gives.ite hs2 (State.memWf_ite (State.memWf_putPart hs3 (Part.memWf_with hold)) hs3)

theorem State.memWf_redealChunks {s : State} {p i : Nat} {cs : List Chunk} (h : s.memWf) : (s.redealChunks p i cs).memWf := by
  unfold State.redealChunks
  split
  · exact h
  · extract_lets q
    have hq : q.memWf := State.memWf_getPart h _
    exact State.memWf_putPart h (Part.memWf_with hq)

theorem State.memWf_redealLost {s : State} {p i : Nat} (h : s.memWf) : (s.redealLost p i).memWf := by
  unfold State.redealLost
  extract_lets q
  have hq : q.memWf := State.memWf_getPart h _
  exact State.memWf_redealChunks (State.memWf_putPart h (Part.memWf_with hq))

/-- A core that stops moving its state keeps its memories. -/
theorem State.memWf_unmoving {s : State} {n : Nat} (h : s.memWf) : (s.setCore n { s.core n with moving := false }).memWf :=
  State.memWf_setCore _ h (State.memWf_core h n)

theorem State.memWf_stopGang {s : State} {p : Nat} {g : Gang} {why : Leave} (h : s.memWf) : (s.stopGang p g why).memWf := by
  unfold State.stopGang
  extract_lets s1
  have hs1 : s1.memWf := foldl_memWf (fun _ _ hu => State.memWf_unmoving (foldl_memWf (fun _ _ => State.memWf_stopCtx) hu)) h
  exact State.memWf_setGang hs1

theorem State.memWf_stopTask {s : State} {p i : Nat} {why : Leave} {again : Bool} (h : s.memWf) : (s.stopTask p i why again).memWf := by
  unfold State.stopTask
  extract_lets _ s1
  have hs1 : s1.memWf := State.memWf_ite (State.memWf_redealChunks (State.memWf_redealLost h)) h
  exact foldl_memWf (fun _ _ => State.memWf_stopGang) hs1

theorem State.memWf_preemptTask {s : State} {p i : Nat} (h : s.memWf) : (s.preemptTask p i).memWf := by
  unfold State.preemptTask
  split
  · exact h
  · split
    · extract_lets s1 old
      have hs1 : s1.memWf := State.memWf_setTcbSt (State.memWf_stopTask h)
      have hold : old.memWf := State.memWf_getPart hs1 _
      exact State.memWf_putPart hs1 (Part.memWf_with hold)
    · split
      · exact h
      · exact State.memWf_taskRetired (State.memWf_putPart h (Part.memWf_with (State.memWf_getPart h _)))

theorem State.memWf_preemptConvoy {s : State} {p c : Nat} (h : s.memWf) : (s.preemptConvoy p c).memWf := by
  unfold State.preemptConvoy
  extract_lets _ _ q s1
  have hq : q.memWf := State.memWf_getPart h _
  have hs1 : s1.memWf := State.memWf_putPart h (Part.memWf_with hq)
  split
  · exact h
  · split
    · exact foldl_memWf (fun _ _ h1 => State.memWf_ite (State.memWf_setTcbSt (State.memWf_stopTask h1)) (State.memWf_stopTask h1)) hs1
    · exact foldl_memWf (fun _ _ h1 => State.memWf_ite h1 (State.memWf_putPart h1 (Part.memWf_with (State.memWf_getPart h1 _)))) h

theorem State.memWf_preempt {s : State} {p i : Nat} (h : s.memWf) : (s.preempt p i).memWf := by
  unfold State.preempt
  extract_lets _ old hold
  have hold : old.memWf := State.memWf_getPart h _
  split
  · split
    · exact State.memWf_ite h (State.memWf_putPart h (Part.memWf_with hold))
    · exact State.memWf_preemptTask h
  · split
    · exact h
    · split
      · exact State.memWf_ite h (State.memWf_putPart h (Part.memWf_with hold))
      · exact State.memWf_preemptConvoy h

theorem State.memWf_takePreempt {s : State} {p : Nat} {v : Word} (h : s.memWf) : (s.takePreempt p v).memWf := by
  unfold State.takePreempt
  extract_lets s1
  have hs1 : s1.memWf := State.memWf_setReg _ _ h
  split
  · exact foldl_memWf (fun _ _ => State.memWf_preempt) hs1
  · exact State.memWf_preempt hs1

theorem State.memWf_latePreempt {s : State} {p : Nat} (h : s.memWf) : (s.latePreempt p).memWf := by
  unfold State.latePreempt
  extract_lets _
  exact State.memWf_ite (State.memWf_takePreempt h) h

theorem execChrPreempt_memWf {p : Nat} {v : BitVec 64} {s : State} (h : s.memWf) : NextWf (execChrPreempt p v s) := by
  unfold execChrPreempt
  exact runPilot_memWf h fun _ h1 => Gives.ite (State.memWf_setReg _ _ h1) (Gives.ite (State.memWf_setReg _ _ h1)
    (State.memWf_takePreempt h1))

theorem State.memWf_discard {s : State} {p i cause x y : Nat} (h : s.memWf) : (s.discard p i cause x y).memWf := by
  unfold State.discard
  extract_lets s1 q
  have hs1 : s1.memWf := State.memWf_setTcbSt h
  have hq : q.memWf := State.memWf_getPart hs1 _
  exact State.memWf_complete (State.memWf_putPart hs1 (Part.memWf_with hq))

theorem State.memWf_graceEnd {s : State} {p j : Nat} (h : s.memWf) : (s.graceEnd p j).memWf := by
  unfold State.graceEnd
  split
  · exact State.memWf_discard (State.memWf_stopTask h)
  · exact State.memWf_ite (State.memWf_stopTask h) h

theorem execGraceExpiry_memWf {p i : Nat} {s : State} (h : s.memWf) : NextWf (execGraceExpiry p i s) := by
  unfold execGraceExpiry
  refine runEvent_memWf h fun _ h1 => ?_
  split
  · trivial
  · split
    · trivial
    · extract_lets _
      exact State.memWf_chrEvt (foldl_memWf (fun _ _ => State.memWf_graceEnd) h1)

theorem execTaskWatchdogExpiry_memWf {p i : Nat} {s : State} (h : s.memWf) : NextWf (execTaskWatchdogExpiry p i s) := by
  unfold execTaskWatchdogExpiry
  refine runEvent_memWf h fun _ h1 => ?_
  extract_lets _
  split
  · trivial
  · split
    · trivial
    · exact State.memWf_progress (State.memWf_chrEvt (State.memWf_setRegF _ _ _ _ h1))

theorem State.memWf_waitingPreempt {s : State} {p i : Nat} (h : s.memWf) : (s.waitingPreempt p i).memWf := by
  unfold State.waitingPreempt
  extract_lets _ _ old
  have hold : old.memWf := State.memWf_getPart h _
  split
  · exact State.memWf_preempt (State.memWf_putPart h (Part.memWf_with hold))
  · exact h

theorem State.memWf_backFrom {s : State} {p i : Nat} (h : s.memWf) : (s.backFrom p i).memWf := by
  unfold State.backFrom
  extract_lets t _
  have ht : t.memWf := State.memWf_setTcbSt h
  exact State.memWf_ite (State.memWf_taskRetired ht) ht

theorem State.memWf_heldPreempts {s : State} {p : Nat} (h : s.memWf) : (s.heldPreempts p).memWf := by
  unfold State.heldPreempts
  exact foldl_memWf (fun _ _ h1 => State.memWf_ite h1 (State.memWf_ite (State.memWf_preemptTask (State.memWf_putPart h1
    (Part.memWf_with (State.memWf_getPart h1 _)))) (State.memWf_preemptConvoy (State.memWf_putPart h1 (Part.memWf_with
    (State.memWf_getPart h1 _)))))) h

theorem execFaultResolution_memWf {p i : Nat} {how : Resolution} {s : State} (h : s.memWf) : NextWf (execFaultResolution p i how s) := by
  unfold execFaultResolution
  refine runPilot_memWf h fun s hs => Gives.ite trivial ?_
  extract_lets n x s1 s2 s3 s4
  have hs1 : s1.memWf := State.memWf_backFrom hs
  have hs2 : s2.memWf := State.memWf_ite (State.memWf_releaseCtx hs1) hs1
  have hs3 : s3.memWf := State.memWf_redealLost hs
  have hs4 : s4.memWf := foldl_memWf (fun _ _ hu => State.memWf_gangCheck (foldl_memWf
    (fun _ _ hv => State.memWf_unmoving (foldl_memWf (fun _ _ => State.memWf_killSoon) hv)) (State.memWf_setGang hu))) hs
  split
  · exact State.memWf_waitingPreempt hs2
  · split
    · exact State.memWf_waitingPreempt (State.memWf_ite (State.memWf_seqOne (State.memWf_setTcbSt hs3)) (State.memWf_setTcbSt hs3))
    · extract_lets s5 s6
      have hs5 : s5.memWf := State.memWf_stopGang (State.memWf_redealChunks hs3)
      have hs6 : s6.memWf := State.memWf_ite (State.memWf_setTcbSt hs5) (State.memWf_seqOne (State.memWf_setTcbSt hs5))
      exact State.memWf_waitingPreempt hs6
  · exact State.memWf_discard hs4

end Sys2Proof.Machine
end

section
/-! PROOFS of the family 00_scope, O59 (Machine/Cycle.lean): the end of an arithmetic cycle. -/

namespace Sys2Proof.Machine

theorem State.memWf_countWaits {s : State} (h : s.memWf) : s.countWaits.memWf := by
  unfold State.countWaits
  refine foldl_memWf (fun _ _ h1 => ?_) h
  extract_lets _
  split
  · exact State.memWf_ite (State.memWf_setCtx _ _ _ h1) h1
  · exact h1

theorem State.memWf_traceStops {s : State} (h : s.memWf) : s.traceStops.memWf := by
  unfold State.traceStops
  exact foldl_memWf (fun _ _ h1 => State.memWf_ite (State.memWf_traceHold (State.memWf_setCore _ (State.memWf_setReg _ _ h1)
    (Core.memWf_with (State.memWf_core h1 _)))) h1) h

theorem State.memWf_soundingCycle {s : State} (h : s.memWf) : s.soundingCycle.memWf := by
  unfold State.soundingCycle
  exact foldl_memWf (fun _ _ h1 => State.memWf_ite (State.memWf_setReg _ _ h1) h1) h

theorem State.memWf_ttDiscard {s : State} (h : s.memWf) : s.ttDiscard.memWf := by
  unfold State.ttDiscard
  refine foldl_memWf (fun _ _ h1 => ?_) h
  split
  · extract_lets _ old1
    have hold1 : old1.memWf = true := State.memWf_core h1 _
    exact State.memWf_ite h1 (State.memWf_setCore _ h1 (Core.memWf_with hold1))
  · exact h1

theorem State.memWf_notices {s : State} (h : s.memWf) : s.notices.memWf := by
  unfold State.notices
  refine foldl_memWf (fun _ _ h1 => foldl_memWf (fun _ _ h2 => ?_) h1) h
  split
  · split
    · extract_lets _
      split
      · beta_reduce
        exact foldl_memWf (fun _ _ => State.memWf_sendPacket) (State.memWf_setFixObj h2)
      · split
        · beta_reduce
          exact foldl_memWf (fun _ _ => State.memWf_sendPacket) (State.memWf_setFixObj h2)
        · exact h2
    · exact h2

theorem State.memWf_hubCycle {s : State} (h : s.memWf) : s.hubCycle.memWf := by
  unfold State.hubCycle
  exact foldl_memWf (fun _ _ h1 => State.memWf_freeEntries (State.memWf_serveAsks h1)) h

theorem State.memWf_idleFlits {s : State} (h : s.memWf) : s.idleFlits.memWf := by
  unfold State.idleFlits
  exact foldl_memWf (fun _ _ => State.memWf_idleFlit) h

theorem State.memWf_meshCycle {s : State} (h : s.memWf) : s.meshCycle.memWf := by
  unfold State.meshCycle
  extract_lets s1
  have hs1 : s1.memWf := foldl_memWf (fun _ _ h1 => State.memWf_reqDone (State.memWf_heldPreempts (State.memWf_latePreempt
    (State.memWf_chartCycle h1)))) h
  exact State.memWf_idleFlits (State.memWf_ttDiscard (State.memWf_phasesGo (State.memWf_roundsGo (State.memWf_hubCycle
    (State.memWf_notices hs1)))))

theorem State.memWf_tick {s : State} (h : s.memWf) : s.tick.memWf := by
  unfold State.tick
  extract_lets s1 s2
  have hs1 : s1.memWf := State.memWf_soundingCycle (State.memWf_traceStops (State.memWf_countWaits h))
  have hs2 : s2.memWf := State.memWf_with hs1
  exact State.memWf_ite (State.memWf_meshCycle hs2) hs2

theorem State.memWf_sndIssue {s : State} {n : Nat} {a : Word} (h : s.memWf) : (s.sndIssue n a).memWf := by
  unfold State.sndIssue
  exact foldl_memWf (fun _ _ h1 => State.memWf_ite (State.memWf_putPart h1 (Part.memWf_with (State.memWf_getPart h1 _))) h1) h

theorem execSoundingPause_memWf {p : Nat} {s : State} (h : s.memWf) : NextWf (execSoundingPause p s) := by
  unfold execSoundingPause
  exact runEvent_memWf h fun _ h1 => Gives.ite (foldl_memWf (fun _ _ h2 =>
    State.memWf_ite (State.memWf_setCtx _ _ _ h2) h2) (State.memWf_setReg _ _ (State.memWf_putPart h1 (Part.memWf_with
    (State.memWf_getPart h1 _))))) trivial

theorem execSoundingGo_memWf {p : Nat} {v : BitVec 64} {s : State} (h : s.memWf) : NextWf (execSoundingGo p v s) := by
  unfold execSoundingGo
  refine runPilot_memWf h fun s hs => ?_
  extract_lets a s1 r s2 s3 old
  have hs1 : s1.memWf := State.memWf_setReg _ _ hs
  have hs2 : s2.memWf := foldl_memWf (fun _ _ => State.memWf_setRegF _ _ _ _) hs1
  have hs3 : s3.memWf := State.memWf_setReg _ _ (State.memWf_setReg _ _ hs2)
  refine Gives.ite ?_ (State.memWf_setReg _ _ hs1)
  exact State.memWf_setReg _ _ (State.memWf_putPart hs3 (Part.memWf_with (State.memWf_getPart hs3 p)))

theorem execSoundingStop_memWf {w : SndWrite} {s : State} (h : s.memWf) : NextWf (execSoundingStop w s) := by
  unfold execSoundingStop
  exact runPilot_memWf h fun _ h1 => State.memWf_setReg _ _ h1

end Sys2Proof.Machine
end

section
/-! PROOFS of the family 00_scope, O59 (Machine/Checkpoint.lean): checkpoints. -/

namespace Sys2Proof.Machine

theorem State.memWf_pauseConvoy {s : State} {p c : Nat} (h : s.memWf) : (s.pauseConvoy p c).memWf := by
  unfold State.pauseConvoy
  extract_lets old s1
  have hs1 : s1.memWf := State.memWf_putPart h (Part.memWf_with (State.memWf_getPart h p))
  refine foldl_memWf (fun u e hu => foldl_memWf (fun v x hv => State.memWf_ite hv ?_) hu) hs1
  have hr : (if (v.ctx e.2.2 x).st = .live then v.rejoin e.2.2 x else v).memWf := State.memWf_ite (State.memWf_rejoin _ _ hv) hv
  exact State.memWf_setCtx _ _ _ (State.memWf_setCore _ hr (Core.writeBackAll_memWf _ (State.memWf_core hr _)))

theorem State.memWf_paceCheck {s : State} {n r : Nat} (h : s.memWf) : (s.paceCheck n r).memWf := by
  unfold State.paceCheck
  split
  · exact h
  · extract_lets _
    exact State.memWf_ite (State.memWf_pauseConvoy h) h

theorem State.memWf_partFill {s : State} {p a : Nat} {bs : List Byte} {fuel : Nat} (h : s.memWf) : (s.partFill p a bs fuel).memWf := by
  induction fuel generalizing s a bs with
  | zero => exact h
  | succ fuel ih => exact State.memWf_ite h (ih (State.memWf_partWrite h))

/-- The part of a core that a checkpoint image keeps. -/
theorem Core.imaged_memWf {c : Core} {acc wb : Bool} {ranges : List (Nat × Nat)} (h : c.memWf = true) :
    (c.imaged acc wb ranges).memWf = true := by
  obtain ⟨hscr, hwts⟩ := Core.memWf_iff.1 h
  refine Core.memWf_iff.2 ⟨Mem.wf_filter _ _ hscr, ?_⟩
  cases wb with
  | false => rfl
  | true => exact hwts

/-- An image of cores joins the partition's checkpoint images. -/
theorem Part.memWf_setImage {p : Part} {k : Nat} {img : List (Nat × Nat × Core)} {pause : AMap Nat} (h : p.memWf)
    (himg : ∀ m ∈ img, m.2.2.memWf = true) : ({ p with images := AMap.set p.images k img, pause := pause } : Part).memWf := by
  intro e he
  rcases AMap.mem_set he with he | rfl
  · exact h e he
  · exact himg

theorem execCheckpointImageWrite_memWf {p c : Nat} {s : State} (h : s.memWf) : NextWf (execCheckpointImageWrite p c s) := by
  unfold execCheckpointImageWrite
  refine runEvent_memWf h fun s hs => ?_
  extract_lets es s1 half d0 img n s2 q old
  have hs1 : s1.memWf := foldl_memWf (fun u e hu => State.memWf_setCore _ hu (Core.foldl_memWf
    (fun k x hk => Core.ite_memWf (Core.writeBackAll_memWf x hk) hk) (State.memWf_core hu _))) hs
  have hs2 : s2.memWf := State.memWf_partFill hs1
  have himg : ∀ m ∈ img, m.2.2.memWf = true := List.forall_mem_map.2 fun e _ => Core.imaged_memWf (State.memWf_core hs1 _)
  exact Gives.ite trivial (State.memWf_with (State.memWf_putPart hs2 (Part.memWf_setImage (State.memWf_getPart hs2 p) himg)))

theorem State.memWf_commitLog {s : State} {p c : Nat} (h : s.memWf) : (s.commitLog p c).memWf := by
  unfold State.commitLog
  extract_lets s1 _ s2 old
  have hs1 : s1.memWf := foldl_memWf (fun _ _ => State.memWf_engWrite) h
  have hs2 : s2.memWf := by
    unfold s2
    split
    · exact State.memWf_setCvyWord hs1
    · exact hs1
  have hold : old.memWf := State.memWf_getPart hs2 _
  exact State.memWf_putPart hs2 (Part.memWf_with hold)

theorem State.memWf_commitImage {s : State} {p c : Nat} (h : s.memWf) : (s.commitImage p c).memWf := by
  unfold State.commitImage
  extract_lets _ s1 _ _ s2 old old1 s3
  have hs1 : s1.memWf := State.memWf_partFill h
  have hs2 : s2.memWf := State.memWf_commitLog (State.memWf_setCvyWord (State.memWf_setCvyWord hs1))
  have hold : old.memWf := State.memWf_getPart hs2 _
  have hold1 : old1.memWf := State.memWf_chrEvt (State.memWf_putPart hs2 (Part.memWf_with hold))
  have hs3 : s3.memWf := State.memWf_with hold1
  exact foldl_memWf (fun _ _ h1 => State.memWf_drainUo (State.memWf_drain h1)) hs3

theorem State.memWf_endPause {s0 : State} {p c : Nat} (h : s0.memWf) : (s0.endPause p c).memWf := by
  unfold State.endPause
  extract_lets s old s1 old1
  have hs : s.memWf := foldl_memWf (fun _ _ => State.memWf_invalidateAll) h
  have hold : old.memWf := State.memWf_getPart hs _
  have hs1 : s1.memWf := State.memWf_putPart hs (Part.memWf_with hold)
  have hold1 : old1.memWf := State.memWf_getPart hs1 _
  split
  · exact State.memWf_preemptConvoy (State.memWf_putPart hs1 (Part.memWf_with hold1))
  · exact foldl_memWf (fun _ _ h1 => State.memWf_setCore _ h1 (Core.memWf_with (State.memWf_core h1 _))) hs1

theorem execCheckpointCommit_memWf {p c : Nat} {s : State} (h : s.memWf) : NextWf (execCheckpointCommit p c s) := by
  unfold execCheckpointCommit
  refine runEvent_memWf h fun _ h1 => ?_
  split
  · exact State.memWf_commitImage h1
  · exact Gives.ite (State.memWf_endPause h1) trivial
  · trivial

end Sys2Proof.Machine
end

section
/-! PROOFS of the family 00_scope, O59 (Machine/Deliveries.lean): deliveries over the mesh. -/

namespace Sys2Proof.Machine

theorem State.memWf_takeNoc {s : State} {id : Nat} (h : s.memWf) : Gives (fun p => p.2.memWf) (s.takeNoc id) := by
  unfold State.takeNoc
  split
  · split
    · exact Gives.ite h trivial
    · trivial
  · trivial

theorem State.memWf_sendHead {s : State} {n dst mbox : Nat} {hdr : Word} {data : List Byte} {rest : List SendCmd} (h : s.memWf) :
    Gives State.memWf (s.sendHead n dst mbox hdr data rest) := by
  unfold State.sendHead
  split
  · trivial
  · split
    · trivial
    · extract_lets old s1 s2
      have hold : old.memWf = true := State.memWf_core h _
      have hs1 : s1.memWf := State.memWf_setCore _ h (Core.memWf_with hold)
      have hs2 : s2.memWf := State.memWf_post hs1
      exact State.memWf_traceRec _ _ _ _ hs2

theorem State.memWf_spread {s : State} {fx : BitVec 32} {f : FixObj} {n : Nat} {c0 : Contrib} (h : s.memWf) :
    (s.spread fx f n c0).memWf := by
  unfold State.spread
  extract_lets _ _ _ s1 _
  have hs1 : s1.memWf := foldl_memWf (fun _ _ h1 => foldl_memWf (fun _ _ => State.memWf_post) h1) h
  split
  · exact State.memWf_setFixObj h
  · exact foldl_memWf (fun _ _ h1 => foldl_memWf (fun _ _ => State.memWf_sendPacket) h1) hs1

theorem State.memWf_sendFix {s : State} {n : Nat} {fx tag : BitVec 32} {rank : Nat} {src : Word} {rest : List SendCmd} (h : s.memWf) :
    (s.sendFix n fx tag rank src rest).memWf := by
  unfold State.sendFix
  extract_lets old s1
  have hold : old.memWf = true := State.memWf_core h _
  have hs1 : s1.memWf := State.memWf_setCore _ h (Core.memWf_with hold)
  split
  · exact hs1
  · split
    next heq1 => exact State.memWf_engineEvent (memWf_of_snd heq1 (State.memWf_engRead hs1))
    next heq1 => exact State.memWf_spread (memWf_of_snd heq1 (State.memWf_engRead hs1))

theorem execMessageSend_memWf {n : Nat} {s : State} (h : s.memWf) : NextWf (execMessageSend n s) := by
  unfold execMessageSend
  refine runEvent_memWf h fun _ h1 => ?_
  split
  · exact Gives.ite (State.memWf_sendHead h1) trivial
  · exact Gives.ite (State.memWf_sendFix h1) trivial
  · trivial

theorem State.memWf_digest {s : State} {n : Nat} {g : Msg} (h : s.memWf) : (s.digest n g).memWf := by
  unfold State.digest
  extract_lets _ _ s1 _ s2
  have hs1 : s1.memWf := State.memWf_setRegF _ _ _ _ (State.memWf_setReg _ _ h)
  have hs2 : s2.memWf := State.memWf_ite (State.memWf_pilotEvent _ _ _ (State.memWf_setReg _ _ hs1)) hs1
  exact State.memWf_traceRec _ _ _ _ hs2

theorem State.memWf_unhide {s : State} {n m : Nat} {g : Msg} (h : s.memWf) : (s.unhide n m g).memWf := by
  unfold State.unhide
  extract_lets _
  exact State.memWf_digest (State.memWf_setCore _ h (Core.memWf_setMbox (State.memWf_core h _)))

theorem State.memWf_unhideAll {s : State} {n : Nat} (h : s.memWf) : (s.unhideAll n).memWf := by
  unfold State.unhideAll
  exact foldl_memWf (fun _ _ => State.memWf_unhide) h

theorem State.memWf_replayEnd {s : State} {n : Nat} (h : s.memWf) : (s.replayEnd n).memWf := by
  unfold State.replayEnd
  exact State.memWf_unhideAll (State.memWf_setReg _ _ (State.memWf_setReg _ _ h))

theorem State.memWf_replay {s : State} {n fuel : Nat} (h : s.memWf) : (s.replay n fuel).memWf := by
  induction fuel generalizing s with
  | zero => exact h
  | succ fuel ih =>
    rw [State.replay]
    split
    · exact State.memWf_replayEnd h
    · extract_lets e src m
      split
      · exact h
      next g _ =>
        have hu : (s.unhide n m g).memWf := State.memWf_unhide h
        exact ih (State.memWf_setCore _ hu (State.memWf_core hu n))

theorem State.memWf_store {s : State} {n m : Nat} {g : Msg} (h : s.memWf) : (s.store n m g).memWf := by
  unfold State.store
  extract_lets _
  split
  · exact h
  · split
    · split
      next heq2 =>
        extract_lets s1
        have hs1 : s1.memWf := State.memWf_setCore _ (memWf_of_snd heq2 (State.memWf_newId h)) (Core.memWf_setMbox (State.memWf_core
          (memWf_of_snd heq2 (State.memWf_newId h)) _))
        exact State.memWf_replay hs1
    · exact State.memWf_digest (State.memWf_setCore _ h (Core.memWf_setMbox (State.memWf_core h _)))

theorem execMessageArrival_memWf {id : Nat} {s : State} (h : s.memWf) : NextWf (execMessageArrival id s) := by
  unfold execMessageArrival
  refine runEvent_memWf h fun _ h1 => ?_
  split
  next heq =>
    split
    · trivial
    · exact State.memWf_store (Gives.snd_of_eq heq (State.memWf_takeNoc h1))
  · trivial

theorem execAllowanceReturn_memWf {id : Nat} {s : State} (h : s.memWf) : NextWf (execAllowanceReturn id s) := by
  unfold execAllowanceReturn
  refine runEvent_memWf h fun _ h1 => ?_
  split
  next heq =>
    split
    · split
      · exact State.memWf_setCore _ (Gives.snd_of_eq heq (State.memWf_takeNoc h1)) (Core.memWf_with (State.memWf_core
          (Gives.snd_of_eq heq (State.memWf_takeNoc h1)) _))
      · exact Gives.snd_of_eq heq (State.memWf_takeNoc h1)
    · exact Gives.snd_of_eq heq (State.memWf_takeNoc h1)
  · trivial

theorem State.memWf_endBind {s : State} {n m : Nat} {r : Rebind} {c : BitVec 8} (h : s.memWf) : (s.endBind n m r c).memWf := by
  unfold State.endBind
  extract_lets _ s1 _
  have hs1 : s1.memWf := State.memWf_setCore _ h (Core.memWf_setMbox (State.memWf_core h _))
  exact State.memWf_retire (State.memWf_ite (State.memWf_setCtx _ _ _ hs1) hs1)

theorem execMbindComplete_memWf {n : Nat} {s : State} (h : s.memWf) : NextWf (execMbindComplete n s) := by
  unfold execMbindComplete
  refine runEvent_memWf h fun _ h1 => ?_
  split
  · trivial
  · split
    · trivial
    · split
      · exact State.memWf_endBind h1
      · extract_lets s11 _
        have hs11 : s11.memWf := State.memWf_setCore _ h1 (Core.memWf_setMbox (State.memWf_core h1 _))
        exact foldl_memWf (fun _ _ => State.memWf_post) hs11

theorem execMailboxGrant_memWf {id : Nat} {s : State} (h : s.memWf) : NextWf (execMailboxGrant id s) := by
  unfold execMailboxGrant
  refine runEvent_memWf h fun _ h1 => ?_
  split
  next heq =>
    extract_lets _ old s2
    have hold : old.memWf = true := State.memWf_core (Gives.snd_of_eq heq (State.memWf_takeNoc h1)) _
    have hs2 : s2.memWf := State.memWf_ite (State.memWf_setCore _ (Gives.snd_of_eq heq (State.memWf_takeNoc h1))
      (Core.memWf_with hold)) (Gives.snd_of_eq heq (State.memWf_takeNoc h1))
    split
    · exact hs2
    · split
      · exact State.memWf_endBind hs2
      · exact hs2
  · trivial

theorem execBarrierArrival_memWf {id : Nat} {s : State} (h : s.memWf) : NextWf (execBarrierArrival id s) := by
  unfold execBarrierArrival
  refine runEvent_memWf h fun _ h1 => ?_
  split
  next heq =>
    extract_lets _
    exact State.memWf_barComplete (State.memWf_setCore _ (Gives.snd_of_eq heq (State.memWf_takeNoc h1)) (Core.memWf_setBar
      (State.memWf_core (Gives.snd_of_eq heq (State.memWf_takeNoc h1)) _)))
  · trivial

theorem State.memWf_advanceHomes {s : State} {n b : Nat} (h : s.memWf) : (s.advanceHomes n b).memWf := by
  unfold State.advanceHomes
  exact foldl_memWf (fun _ _ h1 => State.memWf_ite (State.memWf_paceCheck (State.memWf_setCore _ h1 (Core.memWf_setRose
    (State.memWf_core h1 _)))) h1) h

theorem execBarrierRelease_memWf {id : Nat} {s : State} (h : s.memWf) : NextWf (execBarrierRelease id s) := by
  unfold execBarrierRelease
  refine runEvent_memWf h fun _ h1 => ?_
  split
  next heq =>
    extract_lets _
    split
    · exact State.memWf_advanceHomes (State.memWf_setCore _ (Gives.snd_of_eq heq (State.memWf_takeNoc h1)) (Core.memWf_setBar
        (State.memWf_core (Gives.snd_of_eq heq (State.memWf_takeNoc h1)) _)))
    · exact Gives.snd_of_eq heq (State.memWf_takeNoc h1)
  · trivial

theorem State.memWf_phaseMap {s : State} {rect : Word} {f : Phase → Phase} (h : s.memWf) : (s.phaseMap rect f).memWf := by
  unfold State.phaseMap
  exact foldl_memWf (fun _ _ h1 => State.memWf_setCore _ h1 (Core.memWf_with (State.memWf_core h1 _))) h

theorem execTimetableRelease_memWf {n : Nat} {s : State} (h : s.memWf) : NextWf (execTimetableRelease n s) := by
  unfold execTimetableRelease
  refine runEvent_memWf h fun _ h1 => ?_
  split
  · extract_lets _
    exact Gives.ite (State.memWf_phaseMap h1) trivial
  · trivial

theorem execTimetableWordArrival_memWf {id : Nat} {s : State} (h : s.memWf) : NextWf (execTimetableWordArrival id s) := by
  unfold execTimetableWordArrival
  refine runEvent_memWf h fun _ h1 => ?_
  split
  next heq =>
    split
    · exact State.memWf_setCore _ (Gives.snd_of_eq heq (State.memWf_takeNoc h1)) (Core.memWf_with (State.memWf_core
        (Gives.snd_of_eq heq (State.memWf_takeNoc h1)) _))
    · exact Gives.snd_of_eq heq (State.memWf_takeNoc h1)
  · trivial

theorem execTimetableEnd_memWf {n : Nat} {s : State} (h : s.memWf) : NextWf (execTimetableEnd n s) := by
  unfold execTimetableEnd
  refine runEvent_memWf h fun _ h1 => ?_
  split
  · exact Gives.ite (State.memWf_phaseMap h1) trivial
  · trivial

theorem execTimetableOffsetReached_memWf {n x : Nat} {s : State} (h : s.memWf) : NextWf (execTimetableOffsetReached n x s) := by
  unfold execTimetableOffsetReached
  refine runEvent_memWf h fun _ h1 => ?_
  extract_lets _
  split
  · split
    · trivial
    · extract_lets _
      split
      · exact State.memWf_ttInject (State.memWf_setCtx _ _ _ h1)
      · split
        · extract_lets s11 old
          have hs11 : s11.memWf := State.memWf_setCtx _ _ _ h1
          have hold : old.memWf = true := State.memWf_core hs11 _
          exact State.memWf_setCore _ hs11 (Core.memWf_with hold)
  · trivial

theorem execFixContributionArrival_memWf {id : Nat} {s : State} (h : s.memWf) : NextWf (execFixContributionArrival id s) := by
  unfold execFixContributionArrival
  refine runEvent_memWf h fun _ h1 => ?_
  split
  next heq =>
    split
    · split
      · trivial
      · exact State.memWf_contribute (Gives.snd_of_eq heq (State.memWf_takeNoc h1))
    · split
      · trivial
      · exact State.memWf_contribute (Gives.snd_of_eq heq (State.memWf_takeNoc h1))
  · trivial

theorem execNearMemoryFold_memWf {id : Nat} {s : State} (h : s.memWf) : NextWf (execNearMemoryFold id s) := by
  unfold execNearMemoryFold
  refine runEvent_memWf h fun _ h1 => ?_
  split
  next heq =>
    split
    · exact State.memWf_foldInto (Gives.snd_of_eq heq (State.memWf_takeNoc h1))
    · exact Gives.snd_of_eq heq (State.memWf_takeNoc h1)
  · trivial

end Sys2Proof.Machine
end

section
/-! PROOFS of the family 00_scope, O59 (Machine/Links.lean): the link of a port. -/

namespace Sys2Proof.Machine

theorem State.memWf_setPortSt {s : State} {p st : Nat} (h : s.memWf) : (s.setPortSt p st).memWf := by
  unfold State.setPortSt
  exact State.memWf_setRegF _ _ _ _ h

theorem State.memWf_setLanes {s : State} {p : Nat} {l0 l1 : Bool} (h : s.memWf) : (s.setLanes p l0 l1).memWf := by
  unfold State.setLanes
  exact State.memWf_setRegF _ _ _ _ h

theorem State.memWf_endRetrain {s : State} {p : Nat} (h : s.memWf) : (s.endRetrain p).memWf := by
  unfold State.endRetrain
  exact State.memWf_setRegF _ _ _ _ h

theorem State.memWf_portDown {s : State} {p st : Nat} (h : s.memWf) : (s.portDown p st).memWf := by
  unfold State.portDown
  extract_lets _
  exact State.memWf_endRetrain (State.memWf_setLanes (State.memWf_setPortSt (State.memWf_setPort _ _ h)))

theorem State.memWf_train {s : State} {p st : Nat} (h : s.memWf) : (s.train p st).memWf := by
  unfold State.train
  exact State.memWf_setLanes (State.memWf_setPortSt (State.memWf_setPort _ _ h))

theorem execLinkEn_memWf {p : Nat} {on : Bool} {s : State} (h : s.memWf) : NextWf (execLinkEn p on s) := by
  unfold execLinkEn
  exact runEvent_memWf h fun _ h1 => Gives.ite trivial (Gives.ite (State.memWf_ite (State.memWf_train (State.memWf_setRegF _ _ _ _ h1))
    (State.memWf_setRegF _ _ _ _ h1)) (State.memWf_portDown (State.memWf_setRegF _ _ _ _ h1)))

theorem State.memWf_retrain {s : State} {p : Nat} (h : s.memWf) : (s.retrain p).memWf := by
  unfold State.retrain
  exact State.memWf_train (State.memWf_setRegF _ _ _ _ h)

theorem execLinkRetrain_memWf {p : Nat} {s : State} (h : s.memWf) : NextWf (execLinkRetrain p s) := by
  unfold execLinkRetrain
  exact runPilot_memWf h fun _ h1 => Gives.ite (State.memWf_retrain (State.memWf_setRegF _ _ _ _ h1)) trivial

theorem State.memWf_failAttempt {s : State} {p : Nat} (h : s.memWf) : (s.failAttempt p).memWf := by
  unfold State.failAttempt
  extract_lets _
  exact State.memWf_ite (State.memWf_portDown h) (State.memWf_setPort _ _ h)

theorem State.memWf_resend {s : State} {p : Nat} {counted : Bool} (h : s.memWf) : (s.resend p counted).memWf := by
  unfold State.resend
  extract_lets t
  have ht : t.memWf := State.memWf_setPort _ _ h
  exact State.memWf_ite (State.memWf_portCount ht) ht

theorem execTrainingAttemptEnd_memWf {p : Nat} {pass0 pass1 : Bool} {peer0 peer1 : BitVec 62} {s : State} (h : s.memWf) :
    NextWf (execTrainingAttemptEnd p pass0 pass1 peer0 peer1 s) := by
  unfold execTrainingAttemptEnd
  exact runEvent_memWf h fun _ h1 => Gives.ite trivial (Gives.ite (State.memWf_failAttempt h1) (State.memWf_pumpPort
    (State.memWf_resend (State.memWf_setReg _ _ (State.memWf_endRetrain (State.memWf_setLanes (State.memWf_setPortSt
    (State.memWf_setPort _ _ h1))))))))

theorem execTrainingTimeout_memWf {p : Nat} {s : State} (h : s.memWf) : NextWf (execTrainingTimeout p s) := by
  unfold execTrainingTimeout
  exact runEvent_memWf h fun _ h1 => Gives.ite (State.memWf_failAttempt h1) trivial

theorem execLaneFail_memWf {p lane : Nat} {s : State} (h : s.memWf) : NextWf (execLaneFail p lane s) := by
  unfold execLaneFail
  exact runEvent_memWf h fun _ h1 => Gives.ite trivial (Gives.ite (State.memWf_resend (State.memWf_setLanes (State.memWf_setPortSt
    (State.memWf_report (State.memWf_portEvt (State.memWf_setPort _ _ h1)))))) (State.memWf_retrain (State.memWf_report
    (State.memWf_portEvt (State.memWf_setPort _ _ h1)))))

theorem State.memWf_badFlit {s : State} {p : Nat} (h : s.memWf) : (s.badFlit p).memWf := by
  unfold State.badFlit
  extract_lets s1 _
  have hs1 : s1.memWf := State.memWf_portCount h
  exact State.memWf_setPort _ _ hs1

theorem State.memWf_settle {s : State} {p before : Nat} (h : s.memWf) : (s.settle p before).memWf := by
  unfold State.settle
  extract_lets t
  have ht : t.memWf := State.memWf_pumpPort h
  exact State.memWf_ite (State.memWf_setPort _ _ ht) ht

theorem State.memWf_rxFlit {s : State} {p kind : Nat} {f : Flit} {act : State → State} (h : s.memWf)
    (hact : ∀ u, u.memWf → (act u).memWf) :
    Gives State.memWf (s.rxFlit p kind f act) := by
  unfold State.rxFlit
  extract_lets _ _ _ _ t
  have ht : t.memWf := State.memWf_ite (State.memWf_ite (hact _ (State.memWf_setPort _ _ h)) (State.memWf_setPort _ _ h)) (hact _
    (State.memWf_setPort _ _ h))
  split
  · trivial
  · split
    · exact State.memWf_badFlit h
    · exact Gives.ite trivial (Gives.ite (State.memWf_settle h) (State.memWf_settle ht))

theorem State.memWf_giveBack {s : State} {p vl flits : Nat} (h : s.memWf) : (s.giveBack p vl flits).memWf := by
  unfold State.giveBack
  extract_lets _
  exact State.memWf_setPort _ _ h

theorem State.memWf_assemble {s : State} {p vl : Nat} {fs : List Flit} (h : s.memWf) : (s.assemble p vl fs).memWf := by
  unfold State.assemble
  extract_lets _ _
  split
  · exact State.memWf_setPort _ _ h
  · exact State.memWf_giveBack (State.memWf_portCount h)

theorem execRxDataFlit_memWf {p : Nat} {f : BitVec 512} {s : State} (h : s.memWf) : NextWf (execRxDataFlit p f s) := by
  unfold execRxDataFlit
  exact runEvent_memWf h fun _ h1 => State.memWf_rxFlit h1 (fun _ h2 =>
    State.memWf_ite (State.memWf_assemble (State.memWf_setPort _ _ h2)) (State.memWf_setPort _ _ h2))

theorem execRxNakFlit_memWf {p : Nat} {f : BitVec 512} {s : State} (h : s.memWf) : NextWf (execRxNakFlit p f s) := by
  unfold execRxNakFlit
  exact runEvent_memWf h fun _ h1 => State.memWf_rxFlit h1 (fun _ h2 => State.memWf_resend (State.memWf_setPort _ _ h2))

theorem execRxCreditFlit_memWf {p : Nat} {f : BitVec 512} {s : State} (h : s.memWf) : NextWf (execRxCreditFlit p f s) := by
  unfold execRxCreditFlit
  exact runEvent_memWf h fun _ h1 => State.memWf_rxFlit h1 (fun _ h2 => State.memWf_setPort _ _ h2)

theorem execRxIdleFlit_memWf {p : Nat} {f : BitVec 512} {s : State} (h : s.memWf) : NextWf (execRxIdleFlit p f s) := by
  unfold execRxIdleFlit
  exact runEvent_memWf h fun _ h1 => State.memWf_rxFlit h1 (fun _ h2 => h2)

end Sys2Proof.Machine
end

section
/-! PROOFS of the family 00_scope, O59 (Machine/Packets.lean): packets between devices. -/

namespace Sys2Proof.Machine

theorem State.memWf_ackFlow {s : State} {p dev vl : Nat} {k : Packet} (h : s.memWf) : (s.ackFlow p dev vl k).memWf := by
  unfold State.ackFlow
  extract_lets _ _
  exact State.memWf_emit h

theorem State.memWf_portWake {s : State} {p : Nat} {k : Packet} (h : s.memWf) : (s.portWake p k).memWf := by
  unfold State.portWake
  extract_lets _
  exact State.memWf_setReg _ _ h

theorem State.memWf_acceptPkt {s : State} {p : Nat} {k : Packet} (h : s.memWf) : (s.acceptPkt p k).2.memWf := by
  unfold State.acceptPkt
  split
  · exact State.memWf_tagDrop h
  · split
    · exact State.memWf_portCount h
    · split
      · exact h
      · extract_lets _ _ _ s1
        have hs1 : s1.memWf := State.memWf_portWake (State.memWf_setFlow h)
        split
        · exact State.memWf_ite (State.memWf_ackFlow hs1) hs1
        · split
          · exact State.memWf_ackFlow (State.memWf_portCount h)
          · exact h

theorem State.memWf_rxPacket {s : State} {p ty : Nat} {act : Packet → State → State} (h : s.memWf)
    (hact : ∀ a0 u, u.memWf → (act a0 u).memWf) :
    Gives State.memWf (s.rxPacket p ty act) := by
  unfold State.rxPacket
  split
  · trivial
  · split
    · trivial
    · extract_lets _ s1
      have hs1 : s1.memWf := State.memWf_giveBack (State.memWf_setPort _ _ h)
      split
      next heq2 =>
        exact State.memWf_pumpPort (State.memWf_ite (hact _ _ (memWf_of_snd heq2 (State.memWf_acceptPkt hs1))) (memWf_of_snd heq2
          (State.memWf_acceptPkt hs1)))

theorem State.memWf_rxContribution {s : State} {p : Nat} {k : Packet} (h : s.memWf) : (s.rxContribution p k).memWf := by
  unfold State.rxContribution
  extract_lets _
  split
  · exact h
  · extract_lets _ _ _ _ _ _ _ s1
    have hs1 : s1.memWf := State.memWf_setFixObj h
    split
    · exact h
    · split
      · exact foldl_memWf (fun _ _ => State.memWf_post) h
      · split
        · exact State.memWf_setFixObj h
        · exact foldl_memWf (fun _ _ => State.memWf_post) hs1

theorem execPktFixContribution_memWf {p : Nat} {s : State} (h : s.memWf) : NextWf (execPktFixContribution p s) := by
  unfold execPktFixContribution
  exact runEvent_memWf h fun _ h1 => State.memWf_rxPacket h1 (fun _ _ => State.memWf_rxContribution)

theorem execPktFixResult_memWf {p : Nat} {s : State} (h : s.memWf) : NextWf (execPktFixResult p s) := by
  unfold execPktFixResult
  exact runEvent_memWf h fun _ h1 => State.memWf_rxPacket h1 (fun _ _ h2 => h2)

theorem execPktWithheld_memWf {p : Nat} {s : State} (h : s.memWf) : NextWf (execPktWithheld p s) := by
  unfold execPktWithheld
  refine runEvent_memWf h fun _ h1 => State.memWf_rxPacket h1 (fun _ _ h2 => ?_)
  split
  · exact State.memWf_ite h2 (State.memWf_setFixObj h2)
  · exact h2

theorem execPktReleased_memWf {p : Nat} {s : State} (h : s.memWf) : NextWf (execPktReleased p s) := by
  unfold execPktReleased
  refine runEvent_memWf h fun _ h1 => State.memWf_rxPacket h1 (fun _ _ h2 => ?_)
  split
  · extract_lets s11 _
    have hs11 : s11.memWf := State.memWf_setFixObj h2
    exact foldl_memWf (fun _ _ h3 => State.memWf_putPart h3 (Part.memWf_with (State.memWf_getPart h3 _))) hs11
  · exact h2

theorem State.memWf_partXlate {s : State} {part va sz : Nat} {p : Perm} (h : s.memWf) : (s.partXlate part va sz p).2.memWf := by
  unfold State.partXlate
  extract_lets s1
  have hs1 : s1.memWf := State.memWf_walkReads h
  split
  · exact hs1
  · exact State.memWf_recordBad hs1
  · exact hs1
  · extract_lets s11
    have hs11 : s11.memWf := State.memWf_ite (State.memWf_zeroFill hs1) hs1
    split
    · exact hs11
    · exact hs11

theorem State.memWf_remoteFault {s : State} {part a : Nat} {c : BitVec 8} (h : s.memWf) : (s.remoteFault part a c).memWf := by
  unfold State.remoteFault
  exact State.memWf_pilotEvent _ _ _ h

theorem State.memWf_remoteWrite {s : State} {part : Nat} {us : List (Nat × Nat)} {bs : List Byte} (h : s.memWf) :
    (s.remoteWrite part us bs).memWf := by
  induction us generalizing s bs with
  | nil => exact h
  | cons u us ih =>
    have hx : (s.partXlate part u.1 u.2 .w).2.memWf := State.memWf_partXlate h
    rw [State.remoteWrite]
    split
    next heq => exact State.memWf_remoteFault (memWf_of_snd heq hx)
    next heq => exact ih (State.memWf_paWrite (memWf_of_snd heq hx))

theorem State.memWf_remoteFold {s : State} {part : Nat} {ty : ElTy} {refused : Option Nat} {a : Nat} {vs : List Nat} (h : s.memWf) :
    (s.remoteFold part ty refused a vs).memWf := by
  induction vs generalizing s refused a with
  | nil => exact h
  | cons v vs ih =>
    have hx : (s.partXlate part a (ty.bits / 8) .rw).2.memWf := State.memWf_partXlate h
    rw [State.remoteFold]
    split
    next heq => exact State.memWf_remoteFault (memWf_of_snd heq hx)
    next s1 heq =>
      have hs1 : s1.memWf := memWf_of_snd heq hx
      split
      next hfold => exact ih (Gives.of_eq hfold (State.memWf_baseFold hs1))
      next => exact ih (State.memWf_ite hs1 (State.memWf_foldRefused hs1))

theorem execPktRemoteWrite_memWf {p : Nat} {s : State} (h : s.memWf) : NextWf (execPktRemoteWrite p s) := by
  unfold execPktRemoteWrite
  exact runEvent_memWf h fun _ h1 => State.memWf_rxPacket h1 (fun _ _ => State.memWf_remoteWrite)

theorem execPktRemoteFold_memWf {p : Nat} {s : State} (h : s.memWf) : NextWf (execPktRemoteFold p s) := by
  unfold execPktRemoteFold
  exact runEvent_memWf h fun _ h1 => State.memWf_rxPacket h1 (fun _ _ h2 =>
    State.memWf_ite (State.memWf_remoteFold h2) (State.memWf_remoteFault h2))

theorem State.memWf_copyAcked {s : State} {c : Option (Nat × Nat × BitVec 16 × Nat)} (h : s.memWf) : (s.copyAcked c).memWf := by
  unfold State.copyAcked
  split
  · extract_lets _
    exact State.memWf_setCore _ h (Core.memWf_setChan (State.memWf_core h _))
  · exact h

theorem execPktE2eAck_memWf {p : Nat} {s : State} (h : s.memWf) : NextWf (execPktE2eAck p s) := by
  unfold execPktE2eAck
  exact runEvent_memWf h fun _ h1 => State.memWf_rxPacket h1 (fun _ _ h2 => foldl_memWf (fun _ _ =>
    State.memWf_copyAcked) (State.memWf_setFlow h2))

theorem execE2eTimeout_memWf {dev vl : Nat} {s : State} (h : s.memWf) : NextWf (execE2eTimeout dev vl s) := by
  unfold execE2eTimeout
  refine runEvent_memWf h fun _ h1 => ?_
  extract_lets _ s11
  have hs11 : s11.memWf := State.memWf_setFlow h1
  split
  · trivial
  · split
    · trivial
    · exact Gives.ite trivial (foldl_memWf (fun _ _ => State.memWf_emit) hs11)

theorem State.memWf_departDev {s : State} {dev : Nat} (h : s.memWf) : (s.departDev dev).memWf := by
  unfold State.departDev
  exact foldl_memWf (fun _ _ h1 => foldl_memWf (fun _ _ => State.memWf_depart) h1) h

theorem execFlowLost_memWf {dev vl : Nat} {s : State} (h : s.memWf) : NextWf (execFlowLost dev vl s) := by
  unfold execFlowLost
  refine runEvent_memWf h fun _ h1 => ?_
  extract_lets _
  split
  · trivial
  · split
    · exact State.memWf_departDev (State.memWf_loseFlow h1)
    · exact Gives.ite (State.memWf_departDev (State.memWf_loseFlow h1)) trivial

theorem execFlowReset_memWf {dev : Nat} {s : State} (h : s.memWf) : NextWf (execFlowReset dev s) := by
  unfold execFlowReset
  exact runPilot_memWf h fun _ h1 => State.memWf_purge (foldl_memWf (fun _ _ h2 => State.memWf_setFlow (foldl_memWf (fun _ _ =>
    State.memWf_loseCopy) h2)) h1)

theorem State.memWf_hubReset {s : State} {d part : Nat} (h : s.memWf) : (s.hubReset d part).memWf := by
  unfold State.hubReset
  extract_lets _
  exact State.memWf_setReg _ _ (State.memWf_setHub _ _ h)

theorem execHubDrainTimeout_memWf {d part : Nat} {s : State} (h : s.memWf) : NextWf (execHubDrainTimeout d part s) := by
  unfold execHubDrainTimeout
  refine runEvent_memWf h fun s hs => ?_
  split
  · trivial
  · refine Gives.ite (foldl_memWf (fun u p hu => State.memWf_ite hu ?_) hs) trivial
    exact State.memWf_pumpPort (foldl_memWf (fun _ _ hv => State.memWf_giveBack hv) (State.memWf_portCount (State.memWf_setPort _ _ hu)))

theorem execHubScrub_memWf {d part : Nat} {s : State} (h : s.memWf) : NextWf (execHubScrub d part s) := by
  unfold execHubScrub
  exact runEvent_memWf h fun _ h1 => Gives.ite (State.memWf_setReg _ _ (State.memWf_setHub _ _ h1)) trivial

end Sys2Proof.Machine
end

section
/-! PROOFS of the family 00_scope, O59 (Machine/HostVf.lean): the virtual functions and a partition's reset. -/

namespace Sys2Proof.Machine

theorem State.memWf_setVf {s : State} {v : Nat} {f : Vf} (h : s.memWf) :
    (s.setVf v f).memWf := h

theorem State.memWf_setTdisp {s : State} {v n : Nat} (h : s.memWf) : (s.setTdisp v n).memWf := by
  unfold State.setTdisp
  exact State.memWf_setRegF _ _ _ _ h

theorem State.memWf_enableVfs {s : State} {n : Nat} (h : s.memWf) : (s.enableVfs n).memWf := by
  unfold State.enableVfs
  exact foldl_memWf (fun _ _ h1 => State.memWf_ite (State.memWf_ite (State.memWf_setVf h1) (State.memWf_setTdisp
    (State.memWf_setVf h1))) h1) h

theorem State.memWf_answer {s : State} {a : Answer} (h : s.memWf) :
    (s.answer a).memWf := h

theorem State.memWf_discardAll {s : State} {p : Nat} (h : s.memWf) : (s.discardAll p).memWf :=
  foldl_memWf (fun _ _ => State.memWf_setTcbSt) h

theorem State.memWf_stopChart {s : State} {p : Nat} (h : s.memWf) : (s.stopChart p).memWf :=
  State.memWf_putPart h fun _ he => nomatch he

theorem State.memWf_departCore {s : State} {n : Nat} (h : s.memWf) : (s.departCore n).memWf := by
  unfold State.departCore
  exact foldl_memWf (fun _ _ => State.memWf_depart) h

theorem State.memWf_dropQueued {s : State} {n : Nat} (h : s.memWf) : (s.dropQueued n).memWf := by
  unfold State.dropQueued
  extract_lets c _ _ s1 s2
  have hc : c.memWf = true := State.memWf_core h _
  have hs1 : s1.memWf := State.memWf_setCore _ h (Core.memWf_with hc)
  have hs2 : s2.memWf := State.memWf_setOctet _ _ hs1
  exact foldl_memWf (fun _ _ h1 => State.memWf_retire (State.memWf_setCore _ h1 (Core.unclaim_memWf (State.memWf_core h1 _)))) hs2

theorem State.memWf_stopCore {s : State} {n : Nat} (h : s.memWf) : (s.stopCore n).memWf :=
  State.memWf_unmoving (foldl_memWf (fun _ _ => State.memWf_stopCtx) h)

theorem State.memWf_resetSteps {s : State} {v : Nat} (h : s.memWf) : (s.resetSteps v).memWf := by
  unfold State.resetSteps
  extract_lets p s1 s2 cores s3 s4 s5
  have hs1 : s1.memWf := State.memWf_setRegF _ _ _ _ (State.memWf_setRegF _ _ _ _ h)
  have hs2 : s2.memWf := State.memWf_stopChart (State.memWf_discardAll hs1)
  have hs3 : s3.memWf := foldl_memWf (fun _ _ => State.memWf_departCore) hs2
  have hs4 : s4.memWf := foldl_memWf (fun _ _ => State.memWf_stopGang) hs3
  have hs5 : s5.memWf := foldl_memWf (fun _ _ hu => State.memWf_dropQueued (State.memWf_stopCore hu)) hs4
  exact foldl_memWf (fun _ _ => State.memWf_hubReset) hs5

theorem State.memWf_startReset {s : State} {v : Nat} {unlock disable : Bool} (h : s.memWf) : (s.startReset v unlock disable).memWf := by
  unfold State.startReset
  extract_lets _ s1
  have hs1 : s1.memWf := State.memWf_setVf h
  exact State.memWf_ite hs1 (State.memWf_resetSteps hs1)

theorem State.memWf_setNumVfs {s : State} {n : Nat} (h : s.memWf) : (s.setNumVfs n).memWf := by
  unfold State.setNumVfs
  extract_lets _ s1
  have hs1 : s1.memWf := State.memWf_enableVfs h
  exact foldl_memWf (fun _ _ h1 => State.memWf_ite (State.memWf_startReset h1) h1) hs1

theorem execNumvfsWrite_memWf {n : Nat} {s : State} (h : s.memWf) : NextWf (execNumvfsWrite n s) := by
  unfold execNumvfsWrite
  exact runEvent_memWf h fun _ h1 => Gives.ite trivial (Gives.ite (State.memWf_setNumVfs h1) h1)

theorem State.memWf_tdispRequest {s : State} {v : Nat} {takes : Bool} {done : State → State} (h : s.memWf)
    (hdone : ∀ u, u.memWf → (done u).memWf) :
    Gives State.memWf (s.tdispRequest v takes done) := by
  unfold State.tdispRequest
  exact Gives.ite trivial (Gives.ite (hdone _ h) (State.memWf_answer h))

theorem execLockInterfaceRequest_memWf {vf : Nat} {s : State} (h : s.memWf) : NextWf (execLockInterfaceRequest vf s) := by
  unfold execLockInterfaceRequest
  exact runEvent_memWf h fun _ h1 => State.memWf_tdispRequest h1 (fun _ h2 =>
    State.memWf_answer (State.memWf_setTdisp (State.memWf_setVf h2)))

theorem execStartInterfaceRequest_memWf {vf : Nat} {s : State} (h : s.memWf) : NextWf (execStartInterfaceRequest vf s) := by
  unfold execStartInterfaceRequest
  exact runEvent_memWf h fun _ h1 => State.memWf_tdispRequest h1 (fun _ h2 => State.memWf_answer (State.memWf_setTdisp h2))

theorem State.memWf_stopVf {s : State} {v : Nat} (h : s.memWf) : (s.stopVf v).memWf := by
  unfold State.stopVf
  exact State.memWf_startReset (State.memWf_setVf h)

theorem execStopInterfaceRequest_memWf {vf : Nat} {s : State} (h : s.memWf) : NextWf (execStopInterfaceRequest vf s) := by
  unfold execStopInterfaceRequest
  exact runEvent_memWf h fun _ h1 => State.memWf_tdispRequest h1 (fun _ h2 =>
    State.memWf_ite (State.memWf_answer (State.memWf_setTdisp h2)) (State.memWf_stopVf h2))

theorem execGetDeviceInterfaceReport_memWf {vf : Nat} {s : State} (h : s.memWf) : NextWf (execGetDeviceInterfaceReport vf s) := by
  unfold execGetDeviceInterfaceReport
  exact runEvent_memWf h fun _ h1 => State.memWf_tdispRequest h1 (fun _ => State.memWf_answer)

theorem State.memWf_tdispQuery {s : State} {v : Nat} {q : TdispQuery} (h : s.memWf) : (s.tdispQuery v q).memWf := by
  unfold State.tdispQuery
  exact Option.getD_memWf (State.memWf_tdispRequest h (fun _ => State.memWf_answer)) h

theorem State.memWf_breach {s : State} {v : Nat} (h : s.memWf) : Gives State.memWf (s.breach v) := by
  unfold State.breach
  exact Gives.ite (State.memWf_startReset (State.memWf_setTdisp h)) trivial

theorem execLockedItemWrite_memWf {vf : Nat} {s : State} (h : s.memWf) : NextWf (execLockedItemWrite vf s) := by
  unfold execLockedItemWrite
  exact runEvent_memWf h fun _ => State.memWf_breach

theorem execIdeIntegrityFailure_memWf {vf : Nat} {s : State} (h : s.memWf) : NextWf (execIdeIntegrityFailure vf s) := by
  unfold execIdeIntegrityFailure
  exact runEvent_memWf h fun _ => State.memWf_breach

theorem execFunctionLevelReset_memWf {vf : Nat} {s : State} (h : s.memWf) : NextWf (execFunctionLevelReset vf s) := by
  unfold execFunctionLevelReset
  refine runEvent_memWf h fun _ h1 => ?_
  split
  next heq => exact Gives.of_eq heq (State.memWf_breach h1)
  · exact Gives.ite (State.memWf_startReset h1) trivial

theorem Core.cleared_memWf {c : Core} : c.cleared.memWf = true := Core.memWf_iff.2 ⟨rfl, rfl⟩

/-- A partition's cores, and its half of the die's scratchpad, cleared. -/
theorem State.memWf_clearPart {s : State} {p : Nat} (h : s.memWf) : (s.clearPart p).memWf := by
  unfold State.clearPart
  extract_lets mine s1 clean oct die
  have hs1 : s1.memWf := foldl_memWf (fun _ _ hu => State.memWf_ite (State.memWf_setCore _ hu Core.cleared_memWf) hu) h
  clear_value s1
  obtain ⟨hhbm, hhost, hcores, hdies, hparts⟩ := hs1
  refine ⟨hhbm, hhost, List.forall_mem_map.2 hcores, List.forall_mem_map.2 fun d hd => ?_, hparts⟩
  dsimp only [die]
  split
  · exact Mem.wf_zero _ _ _ (hdies d hd)
  · exact hdies d hd

/-- A partition's HBM stack cleared. -/
theorem State.memWf_clearStack {s : State} {p : Nat} (h : s.memWf) : (s.clearStack p).memWf := by
  unfold State.clearStack
  extract_lets g out s1 key
  have hs1 : s1.memWf := State.memWf_setReg _ _ h
  obtain ⟨hhbm, hrest⟩ := hs1
  dsimp only [State.memWf]
  exact ⟨Mem.wf_zero _ _ _ hhbm, hrest⟩

theorem Mem.wf_foldl {l : List (Nat × Byte)} {f : Mem → Nat × Byte → Mem} {m : Mem} (hf : ∀ m b, Mem.wf m = true → (f m b).wf = true)
    (h : m.wf = true) : (l.foldl f m).wf = true := by
  induction l generalizing m with
  | nil => exact h
  | cons b l ih => exact ih (hf m b h)

theorem State.memWf_writeTables {s : State} {p : Nat} {t : Mem} (h : s.memWf) : (s.writeTables p t).memWf := by
  obtain ⟨hhbm, hrest⟩ := h
  refine ⟨Mem.wf_foldl (fun m b hm => ?_) hhbm, hrest⟩
  split
  · exact Mem.wf_set _ _ _ hm
  · exact hm

theorem State.memWf_endReset {s : State} {v : Nat} (h : s.memWf) : (s.endReset v).memWf := by
  unfold State.endReset
  extract_lets _ _ t
  have ht : t.memWf := State.memWf_setVf (State.memWf_setTdisp h)
  exact State.memWf_ite (State.memWf_answer ht) ht

theorem execPartitionResetComplete_memWf {part : Nat} {setup : ResetSetup} {s : State} (h : s.memWf) :
    NextWf (execPartitionResetComplete part setup s) := by
  unfold execPartitionResetComplete
  refine runEvent_memWf h fun s hs => Gives.ite trivial ?_
  extract_lets s1 s2 s3
  have hs1 : s1.memWf := foldl_memWf (fun _ _ => State.memWf_freeCore) hs
  have hs2 : s2.memWf := State.memWf_clearStack (State.memWf_clearPart (State.memWf_putPart hs1 fun _ he => nomatch he))
  have hs3 : s3.memWf := State.memWf_writeTables (State.memWf_endReset hs2)
  exact State.memWf_setReg _ _ (State.memWf_setReg _ _ hs3)

theorem execKeyLoad_memWf {vf slot : Nat} {key : BitVec 512} {s : State} (h : s.memWf) : NextWf (execKeyLoad vf slot key s) := by
  unfold execKeyLoad
  exact runPilot_memWf h fun _ h1 => Gives.ite trivial (State.memWf_setReg _ _ h1)

end Sys2Proof.Machine
end

section
/-! PROOFS of the family 00_scope, O59 (Machine/Bringup.lean): bring-up and power. -/

namespace Sys2Proof.Machine

theorem State.memWf_setStage {s : State} {n : Nat} (h : s.memWf) : (s.setStage n).memWf := by
  unfold State.setStage
  exact State.memWf_setRegF _ _ _ _ h

theorem State.memWf_devBit {s : State} {bit : Nat} (h : s.memWf) : (s.devBit bit).memWf := by
  unfold State.devBit
  exact State.memWf_ite h (State.memWf_msi (State.memWf_setReg _ _ h))

theorem State.memWf_failStep {s : State} {n : Nat} (h : s.memWf) : (s.failStep n).memWf := by
  unfold State.failStep
  exact State.memWf_devBit (State.memWf_setRegF _ _ _ _ h)

theorem State.memWf_reset : State.reset.memWf :=
  ⟨rfl, rfl, List.forall_mem_nil _, List.forall_mem_nil _, List.forall_mem_nil _⟩

/-- After a package reset only host memory stands. -/
theorem State.memWf_afterReset {s : State} (h : s.memWf) : s.afterReset.memWf := by
  obtain ⟨_, hhost, _⟩ := h
  exact State.memWf_with (State.memWf_setHostMem State.memWf_reset hhost)

theorem execPackageReset_memWf {s : State} (h : s.memWf) : NextWf (execPackageReset s) := by
  unfold execPackageReset
  exact runEvent_memWf h fun _ => State.memWf_afterReset

theorem execPowerGood_memWf {s : State} (h : s.memWf) : NextWf (execPowerGood s) := by
  unfold execPowerGood
  exact runEvent_memWf h fun _ h1 => Gives.ite (State.memWf_setStage h1) trivial

theorem execRailTimeout_memWf {s : State} (h : s.memWf) : NextWf (execRailTimeout s) := by
  unfold execRailTimeout
  exact runEvent_memWf h fun _ h1 => Gives.ite (State.memWf_failStep h1) trivial

theorem State.memWf_fenceHub {s : State} {d : Nat} (h : s.memWf) : (s.fenceHub d).memWf := by
  unfold State.fenceHub
  split
  · exact h
  · extract_lets _ t
    have ht : t.memWf := State.memWf_report h
    exact foldl_memWf (fun _ _ h1 => State.memWf_ite h1 (State.memWf_portDown h1)) ht

theorem State.memWf_fenceStack {s : State} {k : Nat} (h : s.memWf) : (s.fenceStack k).memWf := by
  unfold State.fenceStack
  exact State.memWf_ite h (State.memWf_report h)

theorem State.memWf_reportHomeless {s t : State} {p : Nat} (h : t.memWf) : (s.reportHomeless t p).memWf := by
  unfold State.reportHomeless
  exact foldl_memWf (fun _ _ => State.memWf_report) h

theorem State.memWf_fenceOctet {s : State} {o : Nat} (h : s.memWf) : (s.fenceOctet o).memWf := by
  unfold State.fenceOctet
  split
  · exact h
  · extract_lets _ t
    have ht : t.memWf := State.memWf_report h
    exact foldl_memWf (fun _ _ => State.memWf_reportHomeless) ht

theorem execSelfCalibrationDone_memWf {ok : Bool} {bad : BadPhys} {s : State} (h : s.memWf) :
    NextWf (execSelfCalibrationDone ok bad s) := by
  unfold execSelfCalibrationDone
  exact runEvent_memWf h fun _ h1 => Gives.ite trivial (Gives.ite (State.memWf_failStep h1) (State.memWf_setStage (foldl_memWf
    (fun _ _ => State.memWf_fenceStack) (foldl_memWf (fun _ _ => State.memWf_fenceHub) h1))))

theorem execHbmInitDone_memWf {ok : Bool} {s : State} (h : s.memWf) : NextWf (execHbmInitDone ok s) := by
  unfold execHbmInitDone
  refine runEvent_memWf h fun s hs => Gives.ite trivial (Gives.ite (State.memWf_failStep hs) ?_)
  obtain ⟨_, hhost, hcores, hdies, hparts⟩ := hs
  exact State.memWf_setStage ⟨rfl, hhost, hcores, List.forall_mem_map.2 hdies, hparts⟩

theorem State.memWf_enterRecovery {s : State} (h : s.memWf) : s.enterRecovery.memWf := by
  unfold State.enterRecovery
  extract_lets s1 _ s2
  have hs1 : s1.memWf := State.memWf_setNumVfs h
  have hs2 : s2.memWf := State.memWf_with hs1
  exact State.memWf_devBit (State.memWf_setReg _ _ hs2)

theorem execBootRomLoad_memWf {failing : List Nat} {s : State} (h : s.memWf) : NextWf (execBootRomLoad failing s) := by
  unfold execBootRomLoad
  refine runEvent_memWf h fun _ h1 => ?_
  extract_lets _ _
  split
  · trivial
  · split
    · exact State.memWf_enterRecovery h1
    · extract_lets s11 s2 _
      have hs11 : s11.memWf := h1
      have hs2 : s2.memWf := State.memWf_devBit (State.memWf_setStage (foldl_memWf (fun _ _ => State.memWf_fenceOctet) hs11))
      split
      · exact hs11
      · split
        · exact State.memWf_setNumVfs (State.memWf_with hs2)
        · exact hs2

theorem execPilotWdKick_memWf {s : State} (h : s.memWf) : NextWf (execPilotWdKick s) := by
  unfold execPilotWdKick
  exact runEvent_memWf h fun _ h1 => Gives.ite h1 trivial

theorem execPilotWatchdogExpiry_memWf {s : State} (h : s.memWf) : NextWf (execPilotWatchdogExpiry s) := by
  unfold execPilotWatchdogExpiry
  refine runEvent_memWf h fun _ h1 => ?_
  split
  · exact Gives.ite trivial (State.memWf_devBit h1)
  · trivial

theorem State.memWf_setClock {s : State} {mhz : Nat} (h : s.memWf) : (s.setClock mhz).memWf := by
  unfold State.setClock
  exact State.memWf_ite h (State.memWf_msi h)

theorem execPowerClampSample_memWf {avgWatts : Nat} {below1ms : Bool} {s : State} (h : s.memWf) :
    NextWf (execPowerClampSample avgWatts below1ms s) := by
  unfold execPowerClampSample
  exact runEvent_memWf h fun _ h1 => Gives.ite (State.memWf_setClock h1) (Gives.ite (State.memWf_setClock h1) trivial)

theorem execThermalLimit_memWf {hot : Bool} {s : State} (h : s.memWf) : NextWf (execThermalLimit hot s) := by
  unfold execThermalLimit
  exact runEvent_memWf h fun _ h1 => Gives.ite trivial (Gives.ite (State.memWf_msi h1) h1)

theorem execThermalTrip_memWf {s : State} (h : s.memWf) : NextWf (execThermalTrip s) := by
  unfold execThermalTrip
  exact runEvent_memWf h fun _ h1 => State.memWf_with (State.memWf_setRegF _ _ _ _ h1)

end Sys2Proof.Machine
end

section
/-! PROOFS of the family 00_scope, O59 (Machine/CodeLoad.lean): loading code. -/

namespace Sys2Proof.Machine

theorem State.memWf_frameWrite {s : State} {p fuel va : Nat} {bs : List Byte} (h : s.memWf) : (s.frameWrite p fuel va bs).memWf := by
  induction fuel generalizing s va bs with
  | zero => exact h
  | succ fuel ih =>
    refine State.memWf_ite h (ih ?_)
    split
    · exact State.memWf_paWrite (State.memWf_ite (State.memWf_zeroFill h) h)
    · exact h

theorem State.memWf_frames {s : State} {p va : Nat} {bs : List Byte} (h : s.memWf) : (s.frames p va bs).memWf := by
  unfold State.frames
  exact State.memWf_frameWrite h

theorem State.memWf_writeImage {s : State} {p dst : Nat} {bs : List Byte} (h : s.memWf) : (s.writeImage p dst bs).memWf := by
  unfold State.writeImage
  exact foldl_memWf (fun _ _ => State.memWf_frames) h

theorem State.memWf_relocate {s : State} {p dst : Nat} {r : Reloc} (h : s.memWf) : (s.relocate p dst r).memWf := by
  unfold State.relocate
  extract_lets _
  exact State.memWf_frames h

theorem State.memWf_writeTcb {s : State} {p dst : Nat} {r : TcbRec} (h : s.memWf) : (s.writeTcb p dst r).memWf := by
  unfold State.writeTcb
  exact foldl_memWf (fun _ _ => State.memWf_setTcbW) h

theorem State.memWf_loadEnd {s : State} {v status : Nat} (h : s.memWf) : (s.loadEnd v status).memWf := by
  unfold State.loadEnd
  exact State.memWf_setRegF _ _ _ _ (State.memWf_setRegF _ _ _ _ (State.memWf_setVf h))

theorem execVfLoadGo_memWf {vf : Nat} {tee : Bool} {s : State} (h : s.memWf) : NextWf (execVfLoadGo vf tee s) := by
  unfold execVfLoadGo
  exact runEvent_memWf h fun _ h1 => Gives.ite trivial (Gives.ite (State.memWf_vfEvt h1) (Gives.ite (State.memWf_setRegF _ _ _ _ h1)
    (State.memWf_setRegF _ _ _ _ (State.memWf_setRegF _ _ _ _ (State.memWf_setVf h1)))))

theorem execCodeLoadComplete_memWf {vf : Nat} {hostReadOk : Bool} {s : State} (h : s.memWf) :
    NextWf (execCodeLoadComplete vf hostReadOk s) := by
  unfold execCodeLoadComplete
  refine runEvent_memWf h fun _ h1 => ?_
  split
  · trivial
  · split
    · trivial
    · split
      · exact State.memWf_loadEnd h1
      · extract_lets _ _ _ _ s11 s2 _ s3
        have hs11 : s11.memWf := foldl_memWf (fun _ _ => State.memWf_relocate) (State.memWf_writeImage h1)
        have hs2 : s2.memWf := foldl_memWf (fun _ _ => State.memWf_writeTcb) hs11
        have hs3 : s3.memWf := State.memWf_setVf hs2
        split
        · exact State.memWf_loadEnd h1
        · exact State.memWf_loadEnd hs3

end Sys2Proof.Machine
end

section
/-! PROOFS of the family 00_scope, O59 (Machine/CopyRun.lean): copies as their channel runs them. -/

namespace Sys2Proof.Machine

theorem State.memWf_foldRow {s : State} {n : Nat} {ty : ElTy} {a : Nat} {es : List Nat} (h : s.memWf) :
    (s.foldRow n ty a es).2.2.memWf := by
  unfold State.foldRow
  refine foldl_snd_snd_memWf (fun _ _ h1 => ?_) h
  split
  · exact h1
  · split
    next heq1 => exact memWf_of_snd heq1 (State.memWf_engFold h1)
    next heq1 => exact memWf_of_snd heq1 (State.memWf_engFold h1)

theorem State.memWf_sendRow {s : State} {n ch : Nat} {c : Copy} {a : Nat} {bs : List Byte} {fold counted : Bool} (h : s.memWf) :
    (s.sendRow n ch c a bs fold counted).memWf := by
  unfold State.sendRow
  exact foldl_memWf (fun _ _ => State.memWf_sendPacket) h

theorem CopySt.put_memWf {k : CopySt} {n ch : Nat} {c : Copy} {a : Nat} {bs : List Byte} {counted : Bool} (hk : k.s.memWf) :
    (k.put n ch c a bs counted).s.memWf := by
  unfold CopySt.put
  extract_lets _
  split
  · exact hk
  · split
    · split
      · exact hk
      · exact State.memWf_sendRow hk
    · split
      · exact hk
      · split
        · exact hk
        · split
          · split
            next heq5 => exact memWf_of_snd_snd heq5 (State.memWf_foldRow hk)
          · split
            next heq5 => exact memWf_of_snd heq5 (State.memWf_engWrite hk)

theorem CopySt.row_memWf {k : CopySt} {n ch : Nat} {c : Copy} {r : Nat} (hk : k.s.memWf) : (k.row n ch c r).s.memWf := by
  unfold CopySt.row
  extract_lets _ _ _
  split
  · exact hk
  · split
    · split
      next heq2 =>
        extract_lets k1
        exact CopySt.put_memWf (memWf_of_snd heq2 (State.memWf_engRead hk))
      next heq2 =>
        extract_lets _ k1
        split
        · exact CopySt.put_memWf (CopySt.put_memWf (memWf_of_snd heq2 (State.memWf_engRead hk)))
        · exact CopySt.put_memWf (memWf_of_snd heq2 (State.memWf_engRead hk))
    · split
      · exact CopySt.put_memWf hk
      · exact hk

theorem CopySt.rows_memWf {n ch : Nat} {c : Copy} {m : Nat} {k : CopySt} (h : k.s.memWf) : (CopySt.rows n ch c m k).s.memWf := by
  induction m with
  | zero => exact h
  | succ m ih => exact CopySt.row_memWf ih

theorem CopySt.commit_memWf {k : CopySt} {n : Nat} (hk : k.s.memWf) : (k.commit n).s.memWf := by
  unfold CopySt.commit
  split
  · exact hk
  · split
    · exact hk
    · extract_lets q _ _ s1 old1
      have hq : q.memWf := State.memWf_getPart hk _
      have hs1 : s1.memWf := State.memWf_partFill hk
      have hold1 : old1.memWf := State.memWf_getPart hs1 _
      split
      · exact hk
      · exact State.memWf_putPart hs1 (Part.memWf_with hold1)

theorem execCopyStart_memWf {n ch : Nat} {s : State} (h : s.memWf) : NextWf (execCopyStart n ch s) := by
  unfold execCopyStart
  refine runEvent_memWf h fun s hs => ?_
  extract_lets k
  have hc : (s.core n).memWf = true := State.memWf_core hs n
  split
  · trivial
  · refine Gives.ite trivial (Gives.ite ?_ (Gives.ite trivial ?_))
    · exact State.memWf_setCore _ hs (Core.memWf_setChan (Core.unclaim_memWf hc))
    · extract_lets s1 r s2 after
      have hs1 : s1.memWf := State.memWf_setCore _ hs (Core.memWf_setChan hc)
      have hr : r.s.memWf := by
        dsimp only [r]
        split
        · exact hs1
        · exact CopySt.commit_memWf (CopySt.rows_memWf hs1)
      have hs2 : s2.memWf := State.memWf_ite (State.memWf_drain hr) hr
      exact State.memWf_setCore _ hs2 (Core.memWf_setChan (State.memWf_core hs2 n))

theorem State.memWf_flagWrite {s : State} {n a : Nat} {v : Word} (h : s.memWf) : (s.flagWrite n a v).2.memWf := by
  unfold State.flagWrite
  split
  next heq => exact memWf_of_snd heq (State.memWf_engPlace h)
  next heq => exact State.memWf_l1Stale (State.memWf_l2Write (State.memWf_settleLine (memWf_of_snd heq (State.memWf_engPlace h))))
  next heq1 => exact State.memWf_unitWrite (memWf_of_snd heq1 (State.memWf_engPlace h))

theorem execCopyComplete_memWf {n ch : Nat} {s : State} (h : s.memWf) : NextWf (execCopyComplete n ch s) := by
  unfold execCopyComplete
  refine runEvent_memWf h fun s hs => ?_
  split
  · trivial
  · extract_lets early flags
    refine Gives.ite trivial ?_
    split
    next cause s1 heq =>
      have hs1 : s1.memWf := by
        split at heq
        · exact memWf_of_snd heq hs
        · split at heq
          · exact memWf_of_snd heq hs
          · exact memWf_of_snd heq (State.memWf_flagWrite hs)
      extract_lets s2 k word stands k1 c1
      have hs2 : s2.memWf := State.memWf_ite (State.memWf_engineEvent hs1) hs1
      have hc1 : c1.memWf = true := Core.memWf_setChan (Core.unclaim_memWf (State.memWf_core hs2 n))
      exact State.memWf_setCore _ hs2 (Core.ite_memWf (Core.scrWrite_memWf _ _ _ hc1) hc1)

end Sys2Proof.Machine
end

section
/-! PROOFS of the family 00_scope, O59 (Machine/Dump.lean): core dumps. -/

namespace Sys2Proof.Machine

theorem State.memWf_dumpFlush {s : State} {n : Nat} (h : s.memWf) : (s.dumpFlush n).memWf := by
  unfold State.dumpFlush
  exact foldl_memWf (fun _ _ h1 => State.memWf_setCore _ h1 (Core.writeBackAll_memWf _ (State.memWf_core h1 _))) h

theorem State.memWf_dumpEnd {s : State} {part out : Nat} (h : s.memWf) : (s.dumpEnd part out).memWf := by
  unfold State.dumpEnd
  extract_lets s1 old _
  have hs1 : s1.memWf := State.memWf_setRegF _ _ _ _ (State.memWf_setRegF _ _ _ _ h)
  have hold : old.memWf := State.memWf_setReg _ _ hs1
  exact State.memWf_msi (State.memWf_with hold)

/-- The header of a core dump is written to host memory (R64). -/
theorem State.memWf_dumpHeader {s : State} {d : Dump} (h : s.memWf) : (s.dumpHeader d).memWf := by
  obtain ⟨hhbm, hhost, hrest⟩ := h
  dsimp only [State.dumpHeader, State.memWf]
  exact ⟨hhbm, Mem.wf_setBytes _ _ _ hhost, hrest⟩

/-- The next record of a core dump is written to host memory (R65). -/
theorem State.memWf_dumpNext {s : State} {d : Dump} (h : s.memWf) : (s.dumpNext d).memWf := by
  unfold State.dumpNext
  extract_lets off t
  have ht : t.memWf := State.memWf_dumpFlush h
  refine State.memWf_ite (State.memWf_dumpHeader h) (State.memWf_ite (State.memWf_dumpHeader h) ?_)
  obtain ⟨hhbm, hhost, hrest⟩ := ht
  dsimp only [State.memWf]
  exact ⟨hhbm, Mem.wf_setBytes _ _ _ hhost, hrest⟩

theorem State.memWf_dumpStart {s : State} {part : Nat} {cause : BitVec 8} {haltId : Nat} (h : s.memWf) :
    (s.dumpStart part cause haltId).memWf := by
  unfold State.dumpStart
  extract_lets _
  exact State.memWf_ite (State.memWf_dumpEnd h) (State.memWf_dumpNext h)

theorem execCoreDumpStart_memWf {part : Nat} {cause : BitVec 8} {haltId : Nat} {s : State} (h : s.memWf) :
    NextWf (execCoreDumpStart part cause haltId s) := by
  unfold execCoreDumpStart
  exact runPilot_memWf h fun _ h1 => Gives.ite h1 (Gives.ite (State.memWf_dumpStart h1) trivial)

theorem State.memWf_dumpArm {s : State} (h : s.memWf) : s.dumpArm.memWf := by
  unfold State.dumpArm
  extract_lets s1 _
  have hs1 : s1.memWf := State.memWf_setReg _ _ h
  split
  · exact State.memWf_dumpStart (State.memWf_with hs1)
  · exact hs1

theorem State.memWf_dumpFault {s : State} {d : Dump} {off : Nat} (h : s.memWf) : (s.dumpFault d off).memWf := by
  unfold State.dumpFault
  exact State.memWf_ite (State.memWf_dumpEnd h) (State.memWf_dumpHeader h)

theorem execDumpRecordReadback_memWf {fault : Option Nat} {s : State} (h : s.memWf) : NextWf (execDumpRecordReadback fault s) := by
  unfold execDumpRecordReadback
  refine runEvent_memWf h fun _ h1 => ?_
  split
  · trivial
  · exact Gives.ite (State.memWf_dumpFault h1) trivial
  · exact Gives.ite (State.memWf_dumpEnd h1) (State.memWf_dumpNext h1)

theorem execDumpReadbackTimeout_memWf {off : Nat} {s : State} (h : s.memWf) : NextWf (execDumpReadbackTimeout off s) := by
  unfold execDumpReadbackTimeout
  refine runEvent_memWf h fun _ h1 => ?_
  split
  · exact Gives.ite (State.memWf_dumpFault h1) trivial
  · trivial

end Sys2Proof.Machine
end

section
/-! PROOFS of the family 00_scope, O59 (Machine/Firmware.lean): updates of the firmware's image. -/

namespace Sys2Proof.Machine

theorem execFwUpdateGo_memWf {v : BitVec 64} {s : State} (h : s.memWf) : NextWf (execFwUpdateGo v s) := by
  unfold execFwUpdateGo
  exact runEvent_memWf h fun _ h1 => Gives.ite (State.memWf_setReg _ _ (State.memWf_setReg _ _ h1)) trivial

theorem execFwUpdateComplete_memWf {image : FwImage} {flashOk : Bool} {s : State} (h : s.memWf) :
    NextWf (execFwUpdateComplete image flashOk s) := by
  unfold execFwUpdateComplete
  exact runEvent_memWf h fun _ h1 => Gives.ite trivial (State.memWf_ite (State.memWf_afterReset (State.memWf_msi
    (State.memWf_setReg _ _ (State.memWf_setReg _ _ h1)))) (State.memWf_msi (State.memWf_setReg _ _ (State.memWf_setReg _ _ h1))))

end Sys2Proof.Machine
end

section
/-! PROOFS of the family 00_scope, O59 (Machine/FloatArith.lean): scalar floating point. -/

namespace Sys2Proof.Machine

theorem fpOp_memWf {i : Instr} {d : Opnd} {m : Mods} {s : State} {xs : List Opnd} {op : RndF → List FpNum → FpNum × BitVec 5}
    (h : s.memWf) :
    NextWf (fpOp i d m s xs op) := by
  unfold fpOp
  exact runInstr_memWf h fun _ => .bind (.mapM (fun _ => src_keeps)) fun _ => .bind .getMy fun _ => .bind raiseFlags_keeps fun _ =>
    .bind .modMy fun _ => dst_keeps

theorem execFmulz_memWf {d a b : Opnd} {m : Mods} {s : State} (h : s.memWf) : NextWf (execFmulz d a b m s) := by
  unfold execFmulz
  exact runInstr_memWf h fun _ => .bind src_keeps fun _ => .bind src_keeps fun _ => .bind .getMy fun _ =>
    .bind raiseFlags_keeps fun _ => .bind .modMy fun _ => dst_keeps

theorem fpMinMax_memWf {i : Instr} {d a b : Opnd} {m : Mods} {s : State} {wantMax : Bool} (h : s.memWf) :
    NextWf (fpMinMax i d a b m s wantMax) := by
  unfold fpMinMax
  exact runInstr_memWf h fun _ => .bind src_keeps fun _ => .bind src_keeps fun _ => .bind raiseFlags_keeps fun _ => dst_keeps

theorem fpBits_memWf {i : Instr} {d a : Opnd} {m : Mods} {s : State} {op : Nat → Nat → Nat} (h : s.memWf) :
    NextWf (fpBits i d a m s op) := by
  unfold fpBits
  exact runInstr_memWf h fun _ => .bind src_keeps fun _ => dst_keeps

theorem execFcvt_memWf {d a : Opnd} {m : Mods} {s : State} (h : s.memWf) : NextWf (execFcvt d a m s) := by
  unfold execFcvt
  exact runInstr_memWf h fun _ => .bind src_keeps fun _ => .bind .getMy fun _ => .bind raiseFlags_keeps fun _ => .bind .modMy fun _ =>
    dst_keeps

theorem execFcmpp_memWf {f : Fcc} {d : BitVec 3} {a b : Opnd} {m : Mods} {s : State} (h : s.memWf) : NextWf (execFcmpp f d a b m s) := by
  unfold execFcmpp
  exact runInstr_memWf h fun _ => .bind src_keeps fun _ => .bind src_keeps fun _ => .bind raiseFlags_keeps fun _ => .modMy

end Sys2Proof.Machine
end

section
/-! PROOFS of the family 00_scope, O59 (Machine/IntArith.lean): integer arithmetic. -/

namespace Sys2Proof.Machine

theorem intBin_memWf {i : Instr} {d a b : Opnd} {m : Mods} {s : State} {op : Nat → Nat → Nat → Nat} (h : s.memWf) :
    NextWf (intBin i d a b m s op) := by
  unfold intBin
  exact runInstr_memWf h fun _ => .bind src_keeps fun _ => .bind src_keeps fun _ => dst_keeps

theorem intUn_memWf {i : Instr} {d a : Opnd} {m : Mods} {s : State} {op : Nat → Nat → Nat} (h : s.memWf) :
    NextWf (intUn i d a m s op) := by
  unfold intUn
  exact runInstr_memWf h fun _ => .bind src_keeps fun _ => dst_keeps

theorem execAddi_memWf {d a : Opnd} {i : BitVec 10} {m : Mods} {s : State} (h : s.memWf) : NextWf (execAddi d a i m s) := by
  unfold execAddi
  exact runInstr_memWf h fun _ => .bind src_keeps fun _ => dst_keeps

theorem execExt_memWf {d a b : Opnd} {m : Mods} {s : State} (h : s.memWf) : NextWf (execExt d a b m s) := by
  unfold execExt
  exact runInstr_memWf h fun _ => .bind src_keeps fun _ => .bind src_keeps fun _ => dst_keeps

theorem execIns_memWf {d a b : Opnd} {m : Mods} {s : State} (h : s.memWf) : NextWf (execIns d a b m s) := by
  unfold execIns
  exact runInstr_memWf h fun _ => .bind src_keeps fun _ => .bind src_keeps fun _ => .bind src_keeps fun _ => dst_keeps

theorem execLea_memWf {d a b : Opnd} {m : Mods} {s : State} (h : s.memWf) : NextWf (execLea d a b m s) := by
  unfold execLea
  exact runInstr_memWf h fun _ => .bind src_keeps fun _ => .bind src_keeps fun _ => dst_keeps

theorem execCmpp_memWf {f : Cc} {d : BitVec 3} {a b : Opnd} {m : Mods} {s : State} (h : s.memWf) : NextWf (execCmpp f d a b m s) := by
  unfold execCmpp
  exact runInstr_memWf h fun _ => .bind src_keeps fun _ => .bind src_keeps fun _ => .modMy

theorem execSetc_memWf {f : Cc} {d a b : Opnd} {m : Mods} {s : State} (h : s.memWf) : NextWf (execSetc f d a b m s) := by
  unfold execSetc
  exact runInstr_memWf h fun _ => .bind src_keeps fun _ => .bind src_keeps fun _ => dst_keeps

theorem execSel_memWf {f : BitVec 3} {d a b : Opnd} {m : Mods} {s : State} (h : s.memWf) : NextWf (execSel f d a b m s) := by
  unfold execSel
  exact runInstr_memWf h fun _ => .bind src_keeps fun _ => .bind src_keeps fun _ => .bind .getMy fun _ => dst_keeps

end Sys2Proof.Machine
end

section
/-! PROOFS of the family 00_scope, O59 (Machine/Probes.lean): writes of translation and debug registers. -/

namespace Sys2Proof.Machine

theorem State.memWf_invalidate {s : State} {p : Nat} {v : Word} (h : s.memWf) : (s.invalidate p v).memWf := by
  obtain ⟨hhbm, hhost, hcores, hdies, hparts⟩ := h
  exact ⟨hhbm, hhost, List.forall_mem_map.2 hcores, List.forall_mem_map.2 hdies, hparts⟩

theorem execMmuInv_memWf {part : Nat} {v : BitVec 64} {s : State} (h : s.memWf) : NextWf (execMmuInv part v s) := by
  unfold execMmuInv
  exact runPilot_memWf h fun _ h1 => Gives.ite (State.memWf_putPart (State.memWf_invalidate (State.memWf_setReg _ _ h1))
    (Part.memWf_with (State.memWf_getPart (State.memWf_invalidate (State.memWf_setReg _ _ h1)) _))) (State.memWf_setReg _ _ h1)

theorem execMmuInvComplete_memWf {part : Nat} {s : State} (h : s.memWf) : NextWf (execMmuInvComplete part s) := by
  unfold execMmuInvComplete
  refine runEvent_memWf h fun _ h1 => ?_
  split
  · trivial
  · split
    · trivial
    · extract_lets _ s11 old
      have hs11 : s11.memWf := State.memWf_setReg _ _ (State.memWf_invalidate h1)
      have hold : old.memWf := State.memWf_getPart hs11 _
      exact State.memWf_putPart hs11 (Part.memWf_with hold)

theorem State.memWf_traceOff {s : State} {n : Nat} {v : Word} (h : s.memWf) : (s.traceOff n v).memWf := by
  unfold State.traceOff
  exact State.memWf_setCore _ (State.memWf_setReg _ _ h) (Core.memWf_with (State.memWf_core h _))

theorem State.memWf_traceFull {s : State} {n : Nat} (h : s.memWf) : (s.traceFull n).memWf := by
  unfold State.traceFull
  extract_lets _ c s1
  have hc : c.memWf = true := State.memWf_core h _
  have hs1 : s1.memWf := State.memWf_setRegF _ _ _ _ h
  exact State.memWf_setCore _ (State.memWf_setReg _ _ hs1) (Core.memWf_with hc)

theorem State.memWf_traceStep {s : State} {n : Nat} (h : s.memWf) : (s.traceStep n).memWf := by
  unfold State.traceStep
  extract_lets _ _
  split
  · exact State.memWf_setRegF _ _ _ _ h
  · split
    · exact State.memWf_traceFull h
    · exact State.memWf_setRegF _ _ _ _ (State.memWf_setRegF _ _ _ _ h)

/-- A trace record is written to the die's scratchpad (R223). -/
theorem execTraceRecordWrite_memWf {core : Nat} {s : State} (h : s.memWf) : NextWf (execTraceRecordWrite core s) := by
  unfold execTraceRecordWrite
  refine runEvent_memWf h fun s hs => ?_
  extract_lets c d pos old
  split
  · trivial
  · refine Gives.ite trivial ?_
    extract_lets s1 s2
    have hs1 : s1.memWf := State.memWf_setDie _ hs (Mem.wf_setBytes _ _ _ (State.memWf_die hs d))
    have hs2 : s2.memWf := State.memWf_traceStep (State.memWf_setCore _ hs1 (State.memWf_core hs core))
    show State.memWf _
    split
    · exact State.memWf_ite (State.memWf_traceOff hs2) hs2
    · exact hs2

theorem execTrCtl_memWf {core : Nat} {v : BitVec 64} {s : State} (h : s.memWf) : NextWf (execTrCtl core v s) := by
  unfold execTrCtl
  exact runPilot_memWf h fun _ h1 => Gives.ite (State.memWf_traceHold (State.memWf_setCore _ (State.memWf_setReg _ _ h1)
    (Core.memWf_with (State.memWf_core h1 _)))) (Gives.ite (State.memWf_setCore _ h1 (Core.memWf_with (State.memWf_core h1 _)))
    (State.memWf_traceOff h1))

theorem execWake_memWf {core : Nat} {v : BitVec 64} {s : State} (h : s.memWf) : NextWf (execWake core v s) := by
  unfold execWake
  exact runPilot_memWf h fun _ h1 => State.memWf_ite (State.memWf_setReg _ _ (State.memWf_setReg _ _ h1)) (State.memWf_setReg _ _ h1)

end Sys2Proof.Machine
end

section
/-! PROOFS of the family 00_scope, O59 (Machine/Registers.lean): writes of registers. -/

namespace Sys2Proof.Machine

theorem State.memWf_linkWrite {s : State} {a : Nat} {v : Word} (h : s.memWf) : (s.linkWrite a v).memWf := by
  unfold State.linkWrite
  extract_lets _ _ _ _ s1 old1
  have hs1 : s1.memWf := State.memWf_setReg _ _ h
  have hold1 : old1.memWf = true := State.memWf_core hs1 _
  split
  · exact State.memWf_ite (State.memWf_dumpArm h) h
  · split
    · exact State.memWf_traceHold (State.memWf_setReg _ _ (State.memWf_traceHold h))
    · split
      · split
        · exact State.memWf_setCore _ hs1 (Core.memWf_with hold1)
        · exact State.memWf_ite (State.memWf_unhideAll hs1) hs1
      · exact State.memWf_ite h (State.memWf_ite h (State.memWf_ite h hs1))

theorem State.memWf_hostVfWrite {s : State} {tee : Bool} {a : Nat} {v : Word} (h : s.memWf) :
    Gives State.memWf (s.hostVfWrite tee a v) := by
  unfold State.hostVfWrite
  extract_lets _ _
  split
  · trivial
  · exact Gives.ite trivial (Gives.ite (State.memWf_breach h) (State.memWf_linkWrite h))

theorem execRegisterWrite_memWf {src : RegWriter} {addr : Nat} {v : BitVec 64} {s : State} (h : s.memWf) :
    NextWf (execRegisterWrite src addr v s) := by
  unfold execRegisterWrite
  refine runEvent_memWf h fun _ h1 => ?_
  split
  · exact Gives.ite (State.memWf_linkWrite h1) trivial
  · split
    · exact State.memWf_hostVfWrite h1
    · exact Gives.ite (State.memWf_linkWrite h1) trivial

end Sys2Proof.Machine
end

section
/-! PROOFS of the family 00_scope, O59 (Machine/Rings.lean): the host's rings. -/

namespace Sys2Proof.Machine

theorem execVfArm_memWf {vf : Nat} {v : BitVec 64} {s : State} (h : s.memWf) : NextWf (execVfArm vf v s) := by
  unfold execVfArm
  exact runEvent_memWf h fun _ h1 => Gives.ite trivial (Gives.ite (State.memWf_armRefused h1) (Gives.ite (State.memWf_armRefused h1)
    (State.memWf_putPart (State.memWf_newId h1) (Part.memWf_with (State.memWf_getPart (State.memWf_newId h1) _)))))

theorem execVfCmplTail_memWf {vf : Nat} {v : BitVec 64} {s : State} (h : s.memWf) : NextWf (execVfCmplTail vf v s) := by
  unfold execVfCmplTail
  exact runEvent_memWf h fun _ h1 => Gives.ite (State.memWf_setReg _ _ h1) trivial

theorem execVfCmplCtl_memWf {vf : Nat} {v : BitVec 64} {s : State} (h : s.memWf) : NextWf (execVfCmplCtl vf v s) := by
  unfold execVfCmplCtl
  exact runEvent_memWf h fun _ h1 => Gives.ite trivial (Gives.ite (State.memWf_breach h1) (Gives.ite (State.memWf_vfEvt
    (State.memWf_setReg _ _ h1)) (State.memWf_setReg _ _ h1)))

/-- A completion record is written to host memory (R53). -/
theorem execCompletionRecordWrite_memWf {vf : Nat} {s : State} (h : s.memWf) : NextWf (execCompletionRecordWrite vf s) := by
  unfold execCompletionRecordWrite
  refine runEvent_memWf h fun s hs => ?_
  extract_lets p n head a
  split
  · trivial
  · refine Gives.ite trivial ?_
    extract_lets bs s1
    have hs1 : s1.memWf := by
      obtain ⟨hhbm, hhost, hrest⟩ := hs
      dsimp only [s1, State.memWf]
      exact ⟨hhbm, Mem.wf_setBytes _ _ _ hhost, hrest⟩
    exact State.memWf_msi (State.memWf_setReg _ _ (State.memWf_putPart hs1 (Part.memWf_with (State.memWf_getPart hs1 p))))

end Sys2Proof.Machine
end

section
/-! PROOFS of the family 00_scope, O59 (Machine/Secure.lean): the SPDM responders. -/

namespace Sys2Proof.Machine

theorem execKeyExchange_memWf {fn : Nat} {version : BitVec 8} {s : State} (h : s.memWf) : NextWf (execKeyExchange fn version s) := by
  unfold execKeyExchange
  exact runEvent_memWf h fun _ h1 => Gives.ite trivial (Gives.ite (State.memWf_answer h1) (Gives.ite (State.memWf_answer h1)
    (State.memWf_answer h1)))

theorem execSpdmRequest_memWf {fn : Nat} {version : BitVec 8} {fx : SpdmHead} {s : State} (h : s.memWf) :
    NextWf (execSpdmRequest fn version fx s) := by
  unfold execSpdmRequest
  exact runEvent_memWf h fun _ h1 => Gives.ite trivial (Gives.ite (State.memWf_answer h1) (State.memWf_answer (State.memWf_ite h1 h1)))

theorem execGetMeasurements_memWf {fn : Nat} {nonce : BitVec 256} {s : State} (h : s.memWf) :
    NextWf (execGetMeasurements fn nonce s) := by
  unfold execGetMeasurements
  exact runEvent_memWf h fun _ h1 => Gives.ite (State.memWf_answer h1) trivial

theorem execDieEvidenceTimeout_memWf {die : Nat} {s : State} (h : s.memWf) : NextWf (execDieEvidenceTimeout die s) := by
  unfold execDieEvidenceTimeout
  refine runEvent_memWf h fun _ h1 => ?_
  split
  · exact Gives.ite (State.memWf_answer h1) trivial
  · trivial

end Sys2Proof.Machine
end

section
/-! PROOFS of the family 00_scope, O59 (Machine/Dispatch.lean): every instruction and event. -/

namespace Sys2Proof.Machine

/-- Every instruction and every event keeps the form: one case per constructor, by the lemma about its meaning. -/
theorem exec_memWf {i : Instr} {s : State} (h : s.memWf) : NextWf (exec i s) := by
  unfold exec
  cases i with
  | add | sub | and | or | xor | andn | shl | shr | sar | ror | min | max | mul | mulh | div | rem => exact intBin_memWf h
  | clz | ctz | popc | brev => exact intUn_memWf h
  | ext => exact execExt_memWf h
  | ins => exact execIns_memWf h
  | lea => exact execLea_memWf h
  | mov => exact intUn_memWf h
  | addi => exact execAddi_memWf h
  | cmpp => exact execCmpp_memWf h
  | setc => exact execSetc_memWf h
  | sel => exact execSel_memWf h
  | fadd | fsub | fmul => exact fpOp_memWf h
  | fmulz => exact execFmulz_memWf h
  | fdiv => exact fpOp_memWf h
  | fmin | fmax => exact fpMinMax_memWf h
  | fma | fsqrt => exact fpOp_memWf h
  | fneg | fabs | fclass => exact fpBits_memWf h
  | fcvt => exact execFcvt_memWf h
  | fcmpp => exact execFcmpp_memWf h
  | pand | por | pxor => exact predBin_memWf h
  | pnot => exact execPnot_memWf h
  | ppack => exact execPpack_memWf h
  | punpk => exact execPunpk_memWf h
  | br => exact execBr_memWf h
  | jmp => exact execJmp_memWf h
  | call => exact execCall_memWf h
  | jmpr => exact execJmpr_memWf h
  | callr => exact execCallr_memWf h
  | ret => exact execRet_memWf h
  | enter => exact execEnter_memWf h
  | leave => exact execLeave_memWf h
  | nop => exact execNop_memWf h
  | halt => exact execHalt_memWf h
  | trap => exact execTrap_memWf h
  | sysc => exact execSysc_memWf h
  | eret => exact execEret_memWf h
  | loop => exact execLoop_memWf h
  | hstart => exact execHstart_memWf h
  | hjoin => exact execHjoin_memWf h
  | hexit => exact execHexit_memWf h
  | cid => exact execCid_memWf h
  | mcrd => exact execMcrd_memWf h
  | yield => exact execYield_memWf h
  | srd => exact execSrd_memWf h
  | swr => exact execSwr_memWf h
  | wspx => exact execWspx_memWf h
  | qstat => exact execQstat_memWf h
  | qflush => exact execQflush_memWf h
  | tlbi => exact execTlbi_memWf h
  | bkpt => exact execBkpt_memWf h
  | prog => exact execProg_memWf h
  | trace => exact execTrace_memWf h
  | ckset => exact execCkset_memWf h
  | ld => exact execLd_memWf h
  | st => exact execSt_memWf h
  | ldx => exact execLdx_memWf h
  | stx => exact execStx_memWf h
  | lda => exact execLda_memWf h
  | stl => exact execStl_memWf h
  | pref | cwb | cinv | cdisc | czero => exact cacheOp_memWf h
  | ifence => exact execIfence_memWf h
  | fence => exact execFence_memWf h
  | waita => exact execWaita_memWf h
  | aadd | aand | aor | axor | amin | amax | aswp | afadd => exact amo_memWf h
  | acas => exact execAcas_memWf h
  | binit => exact execBinit_memWf h
  | barr => exact execBarr_memWf h
  | bwait => exact execBwait_memWf h
  | barw => exact execBarw_memWf h
  | bstat => exact execBstat_memWf h
  | roseb => exact execRoseb_memWf h
  | roseq => exact execRoseq_memWf h
  | rosex => exact execRosex_memWf h
  | msend => exact execMsend_memWf h
  | msendr => exact execMsendr_memWf h
  | mrecv => exact execMrecv_memWf h
  | mrecvr => exact execMrecvr_memWf h
  | mbind => exact execMbind_memWf h
  | mstat => exact execMstat_memWf h
  | ttgo => exact execTtgo_memWf h
  | ttsend => exact execTtsend_memWf h
  | ttrecv => exact execTtrecv_memWf h
  | ttend => exact execTtend_memWf h
  | ttq => exact execTtq_memWf h
  | fxdef => exact execFxdef_memWf h
  | fxjoin => exact execFxjoin_memWf h
  | fxc => exact execFxc_memWf h
  | fxw => exact execFxw_memWf h
  | fxq => exact execFxq_memWf h
  | fxlv => exact execFxlv_memWf h
  | xtpl => exact execXtpl_memWf h
  | xst => exact execXst_memWf h
  | xcan => exact execXcan_memWf h
  | xstat => exact execXstat_memWf h
  | charm => exact execCharm_memWf h
  | chdec => exact execChdec_memWf h
  | chpatch => exact execChpatch_memWf h
  | chcard => exact execChcard_memWf h
  | chdone => exact execChdone_memWf h
  | chq => exact execChq_memWf h
  | vadd | vsub | vmul | vmulz | vfma | vmin | vmax => exact rowInstr_memWf h
  | vsacc => exact execVsacc_memWf h
  | vand | vor | vxor | vshl | vshr | vsar | vabs | vneg | vcmp | vsel | vcvt | vmov => exact rowInstr_memWf h
  | viota => exact execViota_memWf h
  | vbcast => exact execVbcast_memWf h
  | vextr => exact execVextr_memWf h
  | vins => exact execVins_memWf h
  | vred | vscan => exact redIssue_memWf h
  | vperm => exact rowInstr_memWf h
  | vsf => exact execVsf_memWf h
  | vmk => exact rowInstr_memWf h
  | vmpop => exact execVmpop_memWf h
  | vfence => exact execVfence_memWf h
  | vld => exact execVld_memWf h
  | vst => exact execVst_memWf h
  | vlds => exact execVlds_memWf h
  | vsts => exact execVsts_memWf h
  | vgath => exact execVgath_memWf h
  | vscat => exact execVscat_memWf h
  | mwld => exact execMwld_memWf h
  | mma => exact tileIssue_memWf h
  | mmag => exact execMmag_memWf h
  | mmap => exact tileIssue_memWf h
  | mupl => exact execMupl_memWf h
  | mzero => exact execMzero_memWf h
  | mtr => exact execMtr_memWf h
  | mst | mld => exact moveIssue_memWf h
  | msacc => exact execMsacc_memWf h
  | mfence => exact execMfence_memWf h
  | mstatMatrix => exact execMstatMatrix_memWf h
  | illegalEncoding => exact execIllegalEncoding_memWf h
  | haltOnWithheld => exact execHaltOnWithheld_memWf h
  | waitLimitExpiry => exact execWaitLimitExpiry_memWf h
  | waitaPoll => exact execWaitaPoll_memWf h
  | placementAttempt => exact execPlacementAttempt_memWf h
  | kernelEntry => exact execKernelEntry_memWf h
  | gangRetire => exact execGangRetire_memWf h
  | graceExpiry => exact execGraceExpiry_memWf h
  | taskWatchdogExpiry => exact execTaskWatchdogExpiry_memWf h
  | checkpointImageWrite => exact execCheckpointImageWrite_memWf h
  | checkpointCommit => exact execCheckpointCommit_memWf h
  | matrixGrant => exact execMatrixGrant_memWf h
  | matrixCommandComplete => exact execMatrixCommandComplete_memWf h
  | mmagMeeting => exact execMmagMeeting_memWf h
  | vectorEngineStart => exact execVectorEngineStart_memWf h
  | vectorEngineComplete => exact execVectorEngineComplete_memWf h
  | sfuRequestStart => exact execSfuRequestStart_memWf h
  | sfuResult => exact execSfuResult_memWf h
  | copyStart => exact execCopyStart_memWf h
  | copyComplete => exact execCopyComplete_memWf h
  | mainFileWriteback => exact execMainFileWriteback_memWf h
  | meshAccessArrival => exact execMeshAccessArrival_memWf h
  | pageWalkComplete => exact execPageWalkComplete_memWf h
  | zeroOnFirstTouch => exact execZeroOnFirstTouch_memWf h
  | messageSend => exact execMessageSend_memWf h
  | messageArrival => exact execMessageArrival_memWf h
  | allowanceReturn => exact execAllowanceReturn_memWf h
  | mailboxGrant => exact execMailboxGrant_memWf h
  | mbindComplete => exact execMbindComplete_memWf h
  | barrierArrival => exact execBarrierArrival_memWf h
  | barrierRelease => exact execBarrierRelease_memWf h
  | timetableRelease => exact execTimetableRelease_memWf h
  | timetableWordArrival => exact execTimetableWordArrival_memWf h
  | timetableEnd => exact execTimetableEnd_memWf h
  | fixContributionArrival => exact execFixContributionArrival_memWf h
  | nearMemoryFold => exact execNearMemoryFold_memWf h
  | pktFixContribution => exact execPktFixContribution_memWf h
  | pktFixResult => exact execPktFixResult_memWf h
  | pktRemoteWrite => exact execPktRemoteWrite_memWf h
  | pktRemoteFold => exact execPktRemoteFold_memWf h
  | pktE2eAck => exact execPktE2eAck_memWf h
  | pktWithheld => exact execPktWithheld_memWf h
  | pktReleased => exact execPktReleased_memWf h
  | e2eTimeout => exact execE2eTimeout_memWf h
  | flowLost => exact execFlowLost_memWf h
  | hubDrainTimeout => exact execHubDrainTimeout_memWf h
  | hubScrub => exact execHubScrub_memWf h
  | completionRecordWrite => exact execCompletionRecordWrite_memWf h
  | mmuInvComplete => exact execMmuInvComplete_memWf h
  | chainedRelease => exact execChainedRelease_memWf h
  | traceRecordWrite => exact execTraceRecordWrite_memWf h
  | soundingPause => exact execSoundingPause_memWf h
  | timetableOffsetReached => exact execTimetableOffsetReached_memWf h
  | memoryAccessArrival => exact execMemoryAccessArrival_memWf h
  | accessResponseReturn => exact execAccessResponseReturn_memWf h
  | breakpointHalt => exact execBreakpointHalt_memWf h
  | chrPreempt => exact execChrPreempt_memWf h
  | faultResolution => exact execFaultResolution_memWf h
  | rxDataFlit => exact execRxDataFlit_memWf h
  | rxNakFlit => exact execRxNakFlit_memWf h
  | rxCreditFlit => exact execRxCreditFlit_memWf h
  | rxIdleFlit => exact execRxIdleFlit_memWf h
  | laneFail => exact execLaneFail_memWf h
  | trainingAttemptEnd => exact execTrainingAttemptEnd_memWf h
  | trainingTimeout => exact execTrainingTimeout_memWf h
  | flowReset => exact execFlowReset_memWf h
  | linkEn => exact execLinkEn_memWf h
  | linkRetrain => exact execLinkRetrain_memWf h
  | packageReset => exact execPackageReset_memWf h
  | powerGood => exact execPowerGood_memWf h
  | railTimeout => exact execRailTimeout_memWf h
  | selfCalibrationDone => exact execSelfCalibrationDone_memWf h
  | hbmInitDone => exact execHbmInitDone_memWf h
  | bootRomLoad => exact execBootRomLoad_memWf h
  | powerClampSample => exact execPowerClampSample_memWf h
  | thermalLimit => exact execThermalLimit_memWf h
  | thermalTrip => exact execThermalTrip_memWf h
  | pilotWdKick => exact execPilotWdKick_memWf h
  | pilotWatchdogExpiry => exact execPilotWatchdogExpiry_memWf h
  | numvfsWrite => exact execNumvfsWrite_memWf h
  | lockInterfaceRequest => exact execLockInterfaceRequest_memWf h
  | startInterfaceRequest => exact execStartInterfaceRequest_memWf h
  | stopInterfaceRequest => exact execStopInterfaceRequest_memWf h
  | getDeviceInterfaceReport => exact execGetDeviceInterfaceReport_memWf h
  | lockedItemWrite => exact execLockedItemWrite_memWf h
  | ideIntegrityFailure => exact execIdeIntegrityFailure_memWf h
  | functionLevelReset => exact execFunctionLevelReset_memWf h
  | partitionResetComplete => exact execPartitionResetComplete_memWf h
  | getMeasurements => exact execGetMeasurements_memWf h
  | dieEvidenceTimeout => exact execDieEvidenceTimeout_memWf h
  | keyExchange => exact execKeyExchange_memWf h
  | keyLoad => exact execKeyLoad_memWf h
  | vfArm => exact execVfArm_memWf h
  | vfCmplTail => exact execVfCmplTail_memWf h
  | vfCmplCtl => exact execVfCmplCtl_memWf h
  | vfLoadGo => exact execVfLoadGo_memWf h
  | codeLoadComplete => exact execCodeLoadComplete_memWf h
  | fwUpdateGo => exact execFwUpdateGo_memWf h
  | fwUpdateComplete => exact execFwUpdateComplete_memWf h
  | coreDumpStart => exact execCoreDumpStart_memWf h
  | dumpRecordReadback => exact execDumpRecordReadback_memWf h
  | dumpReadbackTimeout => exact execDumpReadbackTimeout_memWf h
  | mmuInv => exact execMmuInv_memWf h
  | haltRequest => exact execHaltRequest_memWf h
  | haltRelease => exact execHaltRelease_memWf h
  | haltKill => exact execHaltKill_memWf h
  | trCtl => exact execTrCtl_memWf h
  | wake => exact execWake_memWf h
  | soundingGo => exact execSoundingGo_memWf h
  | soundingStop => exact execSoundingStop_memWf h
  | registerWrite => exact execRegisterWrite_memWf h
  | spdmRequest => exact execSpdmRequest_memWf h

end Sys2Proof.Machine
end

section
/-! PROOFS of the family 00_scope, O59 (Machine/Issue.lean): the issue of a context. -/

namespace Sys2Proof.Machine

theorem State.memWf_serveDelay {s : State} {n x : Nat} (h : s.memWf) : (s.serveDelay n x).memWf := by
  unfold State.serveDelay
  extract_lets _
  exact State.memWf_setCtx _ _ _ h

/-- What stands around an issue: breakpoints, watchpoints and soundings. -/
theorem State.memWf_around {s t : State} {n x : Nat} {i : Instr} (h : s.memWf) (ht : t.memWf) : (s.around t n x i).memWf := by
  unfold State.around
  extract_lets _
  split
  · exact State.memWf_ite ht (State.memWf_afterIssue ht)
  · split
    · exact ht
    · split
      · exact h
      · split
        · exact State.memWf_serveDelay h
        · split
          · exact State.memWf_ite h (State.memWf_breakAt h)
          · exact State.memWf_sndIssue (State.memWf_afterIssue ht)

theorem nextInstr_keeps : Sem.Keeps nextInstr := by
  unfold nextInstr
  intro s h
  beta_reduce
  split
  · exact h
  · exact fetchInstr_keeps _ h

/-- A context fetches and executes its next instruction (R97). -/
theorem State.memWf_runNext {s : State} {n x : Nat} (h : s.memWf) : NextWf (s.runNext n x) := by
  have hfetch : Ends (nextInstr s) := nextInstr_keeps s h
  unfold State.runNext
  extract_lets k fails
  have hfails : ∀ c f, (fails c f).memWf := fun _ _ =>
    State.memWf_ite h (State.memWf_ite (State.memWf_serveDelay h) (State.memWf_raiseIn h))
  split
  next i s1 heq =>
    have hs1 : s1.memWf := Ends.ok_of_eq heq hfetch
    have hexec : NextWf (exec i s1) := exec_memWf hs1
    split
    next t hnext => exact State.memWf_around hs1 (NextWf.of_eq hnext hexec)
    next => exact hexec
  next heq => exact Ends.error_of_eq heq hfetch _ h
  next heq => exact Ends.error_of_eq heq hfetch _ h
  next => exact hfails _ _
  next => exact hfails _ _
  next => exact h

theorem State.memWf_loseSlot {s : State} {n x : Nat} (h : s.memWf) : (s.loseSlot n x).memWf := by
  unfold State.loseSlot
  split
  · exact h
  · split
    · split
      · exact State.memWf_ite (State.memWf_serveDelay h) h
      · exact h
    · exact h

theorem State.memWf_finishHalt {s : State} {n x : Nat} {c : BitVec 8} {pc : Word} {u : Option Upstream} (h : s.memWf) :
    (s.finishHalt n x c pc u).memWf := by
  unfold State.finishHalt
  exact State.memWf_ite (State.memWf_releaseCtx h) (State.memWf_haltEnd h)

theorem State.memWf_issue {s0 : State} {n x : Nat} (h : s0.memWf) : NextWf (s0.issue n x) := by
  unfold State.issue
  extract_lets s _
  have hs : s.memWf := h
  split
  · exact hs
  · split
    · exact State.memWf_kill hs
    · split
      · exact hs
      · split
        · exact State.memWf_ite (State.memWf_finishHalt hs) hs
        · split
          next heq4 => exact Gives.of_eq heq4 (State.memWf_takeStop hs)
          · split
            · exact State.memWf_haltNow hs
            · split
              · exact hs
              · split
                · exact State.memWf_ite (State.memWf_raiseIn hs) hs
                · exact NextWf.ite (State.memWf_runNext hs) (State.memWf_loseSlot hs)

end Sys2Proof.Machine
end

section
/-! PROOFS of the family 00_scope, O59 (Machine/Outside.lean): what comes from outside the package. -/

namespace Sys2Proof.Machine

theorem State.memWf_badSymbol {s : State} {sector sym : Nat} (h : s.memWf) : (s.badSymbol sector sym).memWf := by
  unfold State.badSymbol
  exact State.memWf_ite h h

theorem State.memWf_putEntries {s : State} {at_ : Nat} {es : List Word} (h : s.memWf) : (s.putEntries at_ es).memWf := by
  unfold State.putEntries
  exact State.memWf_paWrite h

theorem State.memWf_splitPage {s : State} {t : TlbEnt} {entry va table : Nat} (h : s.memWf) : (s.splitPage t entry va table).1.memWf := by
  unfold State.splitPage
  extract_lets e group s1 base s2
  have hs1 : s1.memWf := State.memWf_ite (State.memWf_putEntries h) h
  have hs2 : s2.memWf := State.memWf_putEntries hs1
  split
  · exact h
  · split
    · dsimp only
      exact State.memWf_putEntries h
    · dsimp only
      exact State.memWf_putEntries hs2

theorem State.memWf_copyOut {s : State} {g frame : Nat} {key : Option Nat} (h : s.memWf) : (s.copyOut g frame key).memWf :=
  foldl_memWf (fun _ _ hu => State.memWf_ite hu (State.memWf_l2Write hu)) h

theorem State.memWf_retirePage {s : State} {p va table : Nat} {spare : Option Nat} (h : s.memWf) :
    (s.retirePage p va table spare).memWf := by
  unfold State.retirePage
  split
  · extract_lets g own
    refine State.memWf_ite h ?_
    split
    next s1 leaf heq =>
      extract_lets s2 e s3
      have hs2 : s2.memWf := State.memWf_invalidate (memWf_of_fst heq (State.memWf_splitPage h))
      have hs3 : s3.memWf := by
        unfold s3
        split
        · exact State.memWf_putEntries (State.memWf_ite hs2 (State.memWf_copyOut hs2))
        · exact State.memWf_putEntries hs2
      exact State.memWf_report hs3
  · exact h

theorem State.memWf_fenceLink {s : State} {a b : Nat} (h : s.memWf) : (s.fenceLink a b).memWf := by
  unfold State.fenceLink
  exact State.memWf_ite h (State.memWf_report h)

theorem State.memWf_notice {s : State} {e : Nat × Word × Word} (h : s.memWf) : (s.notice e).memWf := by
  unfold State.notice
  exact State.memWf_ite (State.memWf_msi h) h

theorem State.memWf_assign {s : State} {p : Nat} {on : Bool} (h : s.memWf) : (s.assign p on).memWf := by
  unfold State.assign
  extract_lets _ _ s1
  have hs1 : s1.memWf := State.memWf_setVf h
  split
  · exact h
  · split
    · exact State.memWf_enableVfs hs1
    · exact State.memWf_ite (State.memWf_startReset hs1) hs1

theorem State.memWf_vfConfig {s : State} {v : Nat} {bar0 : Word} {memEn : Bool} {table : List Word} (h : s.memWf) :
    (s.vfConfig v bar0 memEn table).memWf := by
  unfold State.vfConfig
  split
  · exact Option.getD_memWf (State.memWf_breach h) h
  · exact State.memWf_setVf h

theorem State.memWf_pilotWrite {s : State} {p va : Nat} {bs : List Byte} (h : s.memWf) : (s.pilotWrite p va bs).memWf := by
  unfold State.pilotWrite
  split
  · exact h
  · extract_lets t q
    have ht : t.memWf := State.memWf_frames h
    have hq : q.memWf := State.memWf_getPart ht _
    exact State.memWf_putPart ht (Part.memWf_with hq)

theorem State.memWf_forgetFix {s : State} {f : Nat → Bool} (h : s.memWf) :
    (s.forgetFix f).memWf := h

theorem State.memWf_remoteFix {s : State} {fx : BitVec 32} {d : Line} {table : List Word} {alg : Alg} {p : Nat} (h : s.memWf) :
    (s.remoteFix fx d table alg p).memWf := by
  unfold State.remoteFix
  split
  · exact h
  · extract_lets s1 _ _ _
    have hs1 : s1.memWf := State.memWf_forgetFix h
    exact foldl_memWf (fun _ _ => State.memWf_openBuffer) (State.memWf_setFixObj hs1)

theorem State.memWf_remoteDepart {s : State} {fx : BitVec 32} {r : Nat} (h : s.memWf) : (s.remoteDepart fx r).memWf := by
  unfold State.remoteDepart
  split
  · exact State.memWf_ite h (State.memWf_depart h)
  · exact h

theorem State.memWf_byPilot {s : State} {f : State → State} (h : s.memWf) (hf : ∀ u, u.memWf → (f u).memWf) : (s.byPilot f).memWf := by
  unfold State.byPilot
  exact State.memWf_ite (hf _ h) h

/-- Whatever comes from outside the package. -/
theorem State.memWf_outside {s : State} {o : Outside} (h : s.memWf) : (s.outside o).memWf := by
  unfold State.outside
  split
  · exact State.memWf_badSymbol h
  · exact State.memWf_byPilot h fun _ => State.memWf_retirePage
  · exact State.memWf_byPilot h fun _ => State.memWf_fenceOctet
  · exact State.memWf_byPilot h fun _ => State.memWf_fenceHub
  · exact State.memWf_byPilot h fun _ => State.memWf_fenceStack
  · exact State.memWf_byPilot h fun _ => State.memWf_fenceLink
  · exact State.memWf_byPilot h fun _ => State.memWf_notice
  · exact State.memWf_byPilot h fun _ => State.memWf_assign
  · exact State.memWf_ite (State.memWf_vfConfig h) h
  · exact State.memWf_tdispQuery h
  · exact State.memWf_byPilot h fun _ h1 => State.memWf_putPart h1 (Part.memWf_with (State.memWf_getPart h1 _))
  · exact h
  · exact State.memWf_byPilot h fun _ => State.memWf_pilotWrite
  · exact State.memWf_byPilot h fun _ => State.memWf_paWrite
  · exact State.memWf_setPort _ _ h
  · exact State.memWf_remoteFix h
  · exact State.memWf_ite h (State.memWf_forgetFix h)
  · exact State.memWf_remoteDepart h

end Sys2Proof.Machine
end

section
/-! PROOFS of the family 00_scope, O59 (Machine/Agenda.lean): the moves of the agenda. -/

namespace Sys2Proof.Machine

/-- Each move of the agenda. -/
theorem State.memWf_make {s : State} {m : Move} (h : s.memWf) : NextWf (s.make m) := by
  unfold State.make
  split
  · exact h
  · split
    · exact State.memWf_issue h
    · exact NextWf.ite (exec_memWf h) h
    · exact State.memWf_outside h
    · exact State.memWf_tick h

end Sys2Proof.Machine
end

section
/-! PROOFS of the family 00_scope, O59 (Machine/Step.lean): one step. -/

namespace Sys2Proof.Machine

/-- One step: a move of the agenda, or a new agenda. -/
theorem step_memWf {s : State} (h : s.memWf) : NextWf (step s) := by
  unfold step
  split
  · exact NextWf.ite h trivial
  · exact State.memWf_make h

/-- Settles O59: no move that a step makes breaks the form of a byte memory. -/
theorem memoriesKeepTheirForm : Obligations.MemoriesKeepTheirForm := by
  unfold Obligations.MemoriesKeepTheirForm
  intro s t h hstep
  exact NextWf.of_eq hstep (step_memWf h)

end Sys2Proof.Machine
end

section
/-! PROOFS of the family 01_package: the fields of a register (R5, R54), bit by bit. -/

namespace Sys2Proof.Machine

/-! ### Bits of a field -/

theorem testBit_bitsOf (w : Word) (lo n i : Nat) : (bitsOf w lo n).testBit i = (decide (i < n) && w.getLsbD (lo + i)) := by
  rw [bitsOf, Nat.testBit_mod_two_pow, Nat.testBit_div_two_pow, Nat.add_comm i lo]
  rfl

theorem bitsOf_lt (w : Word) (lo n : Nat) : bitsOf w lo n < 2 ^ n := Nat.mod_lt _ (Nat.two_pow_pos n)

/-- A field is decided by its bits. -/
theorem bitsOf_congr {v w : Word} {lo n : Nat} (h : ∀ i, i < n → v.getLsbD (lo + i) = w.getLsbD (lo + i)) :
    bitsOf v lo n = bitsOf w lo n := by
  refine Nat.eq_of_testBit_eq fun i => ?_
  rw [testBit_bitsOf, testBit_bitsOf]
  by_cases hi : i < n
  · rw [h i hi]
  · simp [hi]

/-! ### A field that is written -/

/-- The value of a register whose field is written: what lies below the field, the new field, and what lies above it. -/
theorem State.toNat_setRegF (s : State) (a : Nat) {lo n : Nat} (v : Nat) (h : lo + n ≤ 64) :
    ((s.setRegF a lo n v).reg a).toNat =
      2 ^ lo * (2 ^ n * ((s.reg a).toNat / 2 ^ (lo + n)) + v % 2 ^ n) + (s.reg a).toNat % 2 ^ lo := by
  rw [State.setRegF, State.setReg_reg_same]
  unfold bitsOf
  generalize (s.reg a) = w
  have hw : w.toNat < 2 ^ 64 := w.isLt
  have hsplit : w.toNat = 2 ^ lo * (2 ^ n * (w.toNat / 2 ^ (lo + n)) + w.toNat / 2 ^ lo % 2 ^ n) + w.toNat % 2 ^ lo := by
    rw [pow_add, ← Nat.div_div_eq_div_mul, Nat.div_add_mod, Nat.div_add_mod]
  have htop : w.toNat / 2 ^ (lo + n) < 2 ^ (64 - (lo + n)) := by
    rw [Nat.div_lt_iff_lt_mul (Nat.two_pow_pos _), ← pow_add, Nat.sub_add_cancel h]
    exact hw
  have hfit (f : Nat) (hf : f < 2 ^ n) :
      2 ^ lo * (2 ^ n * (w.toNat / 2 ^ (lo + n)) + f) + w.toNat % 2 ^ lo < 2 ^ 64 := by
    have hlow : w.toNat % 2 ^ lo < 2 ^ lo := Nat.mod_lt _ (Nat.two_pow_pos _)
    calc _ < 2 ^ lo * (2 ^ n * (w.toNat / 2 ^ (lo + n)) + f + 1) := by rw [Nat.mul_add_one]; omega
      _ ≤ 2 ^ lo * (2 ^ n * (w.toNat / 2 ^ (lo + n) + 1)) := by
        refine Nat.mul_le_mul_left _ ?_
        rw [Nat.mul_add_one]; omega
      _ ≤ 2 ^ lo * (2 ^ n * 2 ^ (64 - (lo + n))) := Nat.mul_le_mul_left _ (Nat.mul_le_mul_left _ htop)
      _ = 2 ^ 64 := by rw [← pow_add, ← pow_add]; congr 1; omega
  have hnew := hfit (v % 2 ^ n) (Nat.mod_lt _ (Nat.two_pow_pos n))
  have hold := hfit _ (Nat.mod_lt (w.toNat / 2 ^ lo) (Nat.two_pow_pos n))
  rw [Nat.mul_add] at hnew hsplit hold ⊢
  generalize 2 ^ lo * (2 ^ n * (w.toNat / 2 ^ (lo + n))) = top at *
  rw [Nat.mul_comm (w.toNat / 2 ^ lo % 2 ^ n), Nat.mul_comm (v % 2 ^ n)]
  generalize 2 ^ lo * (w.toNat / 2 ^ lo % 2 ^ n) = old at *
  generalize 2 ^ lo * (v % 2 ^ n) = new at *
  bv_omega

/-- Each bit of a register whose field is written. -/
theorem State.getLsbD_setRegF (s : State) (a : Nat) {lo n : Nat} (v : Nat) (h : lo + n ≤ 64) (j : Nat) :
    ((s.setRegF a lo n v).reg a).getLsbD j = if lo ≤ j ∧ j < lo + n then v.testBit (j - lo) else (s.reg a).getLsbD j := by
  have hlow : (s.reg a).toNat % 2 ^ lo < 2 ^ lo := Nat.mod_lt _ (Nat.two_pow_pos _)
  have hmid : v % 2 ^ n < 2 ^ n := Nat.mod_lt _ (Nat.two_pow_pos _)
  rw [BitVec.getLsbD, State.toNat_setRegF s a v h, Nat.testBit_two_pow_mul_add _ hlow, Nat.testBit_two_pow_mul_add _ hmid,
    Nat.testBit_mod_two_pow, Nat.testBit_mod_two_pow, Nat.testBit_div_two_pow]
  by_cases hj : j < lo
  · simp [hj, Nat.not_le.2 hj, BitVec.getLsbD]
  · by_cases hk : j < lo + n
    · simp [hj, Nat.not_lt.1 hj, hk, show j - lo < n by omega]
    · simp [hj, hk, show ¬ j - lo < n by omega, show j - lo - n + (lo + n) = j by omega, BitVec.getLsbD]

theorem State.getLsbD_setRegF_outside (s : State) (a : Nat) {lo n : Nat} (v : Nat) (h : lo + n ≤ 64) {j : Nat}
    (hj : j < lo ∨ lo + n ≤ j) :
    ((s.setRegF a lo n v).reg a).getLsbD j = (s.reg a).getLsbD j := by
  rw [State.getLsbD_setRegF s a v h, if_neg (by omega)]

theorem State.regF_setRegF_same (s : State) (a : Nat) {lo n : Nat} (v : Nat) (h : lo + n ≤ 64) :
    (s.setRegF a lo n v).regF a lo n = v % 2 ^ n := by
  refine Nat.eq_of_testBit_eq fun i => ?_
  rw [State.regF, testBit_bitsOf, Nat.testBit_mod_two_pow, State.getLsbD_setRegF s a v h]
  by_cases hi : i < n
  · rw [if_pos (by omega), Nat.add_sub_cancel_left]
  · simp [hi]

/-- Another field of the same register. -/
theorem State.regF_setRegF_disjoint (s : State) (a : Nat) {lo n lo' n' : Nat} (v : Nat) (h : lo + n ≤ 64)
    (hd : lo' + n' ≤ lo ∨ lo + n ≤ lo') : (s.setRegF a lo n v).regF a lo' n' = s.regF a lo' n' :=
  bitsOf_congr fun _ _ => State.getLsbD_setRegF_outside s a v h (by omega)

theorem State.setRegF_reg_other (s : State) (a lo n v : Nat) {c : Nat} (h : c ≠ a) : (s.setRegF a lo n v).reg c = s.reg c :=
  State.setReg_reg_other _ _ _ h

theorem State.setRegF_regF_other (s : State) (a lo n v : Nat) {c : Nat} (lo' n' : Nat) (h : c ≠ a) :
    (s.setRegF a lo n v).regF c lo' n' = s.regF c lo' n' := by
  rw [State.regF, State.setRegF_reg_other s a lo n v h, State.regF]

@[simp] theorem State.setRegF_port (s : State) (a lo n v p : Nat) : (s.setRegF a lo n v).port p = s.port p := rfl
@[simp] theorem State.setRegF_mesh (s : State) (a lo n v : Nat) : (s.setRegF a lo n v).mesh = s.mesh := rfl

/-! ### A bit that is raised -/

theorem getLsbD_or_two_pow (w : Word) {bit : Nat} (h : bit < 64) (j : Nat) :
    (w ||| BitVec.ofNat 64 (2 ^ bit)).getLsbD j = (w.getLsbD j || decide (j = bit)) := by
  rw [BitVec.getLsbD_or, BitVec.getLsbD_ofNat, Nat.testBit_two_pow]
  by_cases hj : j = bit
  · simp [hj, h]
  · simp [hj, Ne.symm hj]

end Sys2Proof.Machine
end

section
/-! PROOFS of the family 01_package: the link of a port (R23, R24, R26, R27, R29, R30, R44). -/

namespace Sys2Proof.Machine

/-! ### The registers of a port -/

@[simp] theorem Pf.port_inj {p off off' : Nat} : Pf.port p off = Pf.port p off' ↔ off = off' := by
  unfold Pf.port; omega

@[simp] theorem State.setPort_portSt (s : State) (q : Nat) (k : Port) (p : Nat) : (s.setPort q k).portSt p = s.portSt p := rfl
@[simp] theorem State.setPort_regF (s : State) (q : Nat) (k : Port) (a lo n : Nat) : (s.setPort q k).regF a lo n = s.regF a lo n := rfl

@[simp] theorem State.setReg_regF (s : State) {p off off' : Nat} (v : Word) (lo n : Nat) (h : off' ≠ off) :
    (s.setReg (Pf.port p off) v).regF (Pf.port p off') lo n = s.regF (Pf.port p off') lo n := by
  rw [State.regF, State.setReg_reg_other _ _ _ (by simpa using h), State.regF]
/-- A write of another register of the port leaves its state. -/
@[simp] theorem State.setReg_portSt (s : State) {p off : Nat} (v : Word) (h : off ≠ 8) :
    (s.setReg (Pf.port p off) v).portSt p = s.portSt p := State.setReg_regF _ _ _ _ (Ne.symm h)
@[simp] theorem State.setRegF_portSt (s : State) {p off : Nat} (lo n v : Nat) (h : off ≠ 8) :
    (s.setRegF (Pf.port p off) lo n v).portSt p = s.portSt p :=
  State.setRegF_regF_other _ _ _ _ _ _ _ (by simpa using Ne.symm h)

@[simp] theorem State.setPortSt_port (s : State) (p n q : Nat) : (s.setPortSt p n).port q = s.port q := rfl
@[simp] theorem State.setPortSt_portSt (s : State) (p n : Nat) : (s.setPortSt p n).portSt p = n % 8 :=
  State.regF_setRegF_same _ _ _ (by decide)
@[simp] theorem State.setPortSt_reg (s : State) {p off : Nat} (n : Nat) (h : off ≠ 8) :
    (s.setPortSt p n).reg (Pf.port p off) = s.reg (Pf.port p off) := State.setRegF_reg_other _ _ _ _ _ (by simpa using h)
@[simp] theorem State.setPortSt_regF (s : State) (p n : Nat) {lo m : Nat} (h : 3 ≤ lo) :
    (s.setPortSt p n).regF (Pf.port p 8) lo m = s.regF (Pf.port p 8) lo m :=
  State.regF_setRegF_disjoint _ _ _ (by decide) (.inr h)

@[simp] theorem State.setLanes_port (s : State) (p : Nat) (a b : Bool) (q : Nat) : (s.setLanes p a b).port q = s.port q := rfl
@[simp] theorem State.setLanes_portSt (s : State) (p : Nat) (a b : Bool) : (s.setLanes p a b).portSt p = s.portSt p :=
  State.regF_setRegF_disjoint _ _ _ (by decide) (.inl (by decide))
@[simp] theorem State.setLanes_lanes (s : State) (p : Nat) (a b : Bool) :
    (s.setLanes p a b).regF (Pf.port p 8) 4 2 = (if a then 1 else 0) + if b then 2 else 0 := by
  rw [State.setLanes, State.regF_setRegF_same _ _ _ (by decide)]
  cases a <;> cases b <;> rfl
@[simp] theorem State.setLanes_reg (s : State) {p off : Nat} (a b : Bool) (h : off ≠ 8) :
    (s.setLanes p a b).reg (Pf.port p off) = s.reg (Pf.port p off) := State.setRegF_reg_other _ _ _ _ _ (by simpa using h)
@[simp] theorem State.setLanes_regF (s : State) (p : Nat) (a b : Bool) {lo n : Nat} (h : 6 ≤ lo) :
    (s.setLanes p a b).regF (Pf.port p 8) lo n = s.regF (Pf.port p 8) lo n :=
  State.regF_setRegF_disjoint _ _ _ (by decide) (.inr h)

@[simp] theorem State.endRetrain_port (s : State) (p q : Nat) : (s.endRetrain p).port q = s.port q := rfl
@[simp] theorem State.endRetrain_portSt (s : State) (p : Nat) : (s.endRetrain p).portSt p = s.portSt p :=
  State.setRegF_portSt s 3 1 0 (by decide)
@[simp] theorem State.endRetrain_regF (s : State) {p off : Nat} (lo n : Nat) (h : off ≠ 0) :
    (s.endRetrain p).regF (Pf.port p off) lo n = s.regF (Pf.port p off) lo n :=
  State.setRegF_regF_other _ _ _ _ _ _ _ (by simpa using h)
/-- LINK_RETRAIN reads 0, and the other bits of PORT_CTL are as before. -/
theorem State.endRetrain_ctl (s : State) (p j : Nat) :
    ((s.endRetrain p).reg (Pf.port p 0)).getLsbD j = (decide (j ≠ 3) && (s.reg (Pf.port p 0)).getLsbD j) := by
  rw [State.endRetrain, State.getLsbD_setRegF _ _ _ (by decide)]
  by_cases h : j = 3
  · simp [h]
  · rw [if_neg (by omega)]; simp [h]

/-! ### What is told (R23, R44) -/

@[simp] theorem State.report_reg (s : State) (kind : Nat) (x y : Word) (a : Nat) : (s.report kind x y).reg a = s.reg a := rfl
@[simp] theorem State.report_port (s : State) (kind : Nat) (x y : Word) (p : Nat) : (s.report kind x y).port p = s.port p := rfl
@[simp] theorem State.report_pilot (s : State) (kind : Nat) (x y : Word) :
    (s.report kind x y).dev.pilot = s.dev.pilot ++ [(kind, x, y)] := rfl
@[simp] theorem State.report_hostLog (s : State) (kind : Nat) (x y : Word) :
    (s.report kind x y).dev.hostLog = s.dev.hostLog ++ [(kind, x, y)] := rfl

@[simp] theorem State.portEvt_port (s : State) (p bit q : Nat) : (s.portEvt p bit).port q = s.port q := by
  unfold State.portEvt; dsimp only; split <;> rfl
@[simp] theorem State.portEvt_reg (s : State) {p off : Nat} (bit : Nat) (h : off ≠ 0x28) :
    (s.portEvt p bit).reg (Pf.port p off) = s.reg (Pf.port p off) := by
  unfold State.portEvt; dsimp only; split
  · rfl
  · exact State.setReg_reg_other _ _ _ (by simpa using h)
@[simp] theorem State.portEvt_regF (s : State) {p off : Nat} (bit lo n : Nat) (h : off ≠ 0x28) :
    (s.portEvt p bit).regF (Pf.port p off) lo n = s.regF (Pf.port p off) lo n := by
  rw [State.regF, State.portEvt_reg s bit h, State.regF]
/-- The bit of PORT_EVT is set. -/
theorem State.portEvt_bit (s : State) (p : Nat) {bit : Nat} (h : bit < 64) :
    ((s.portEvt p bit).reg (Pf.port p 0x28)).getLsbD bit = true := by
  unfold State.portEvt; dsimp only; split
  · assumption
  · refine Eq.trans (congrArg (BitVec.getLsbD · bit) (State.setReg_reg_same s _ _)) ?_
    rw [getLsbD_or_two_pow _ h]; simp

/-! ### Training begins and ends (R26, R27) -/

@[simp] theorem State.train_port (s : State) (p n : Nat) :
    (s.train p n).port p = { s.port p with trainAt := s.mesh, attempts := 0 } := by simp [State.train]
@[simp] theorem State.train_portSt (s : State) (p n : Nat) : (s.train p n).portSt p = n % 8 := by simp [State.train]
@[simp] theorem State.train_lanes (s : State) (p n : Nat) : (s.train p n).regF (Pf.port p 8) 4 2 = 0 := by simp [State.train]
@[simp] theorem State.train_reg (s : State) {p off : Nat} (n : Nat) (h : off ≠ 8) :
    (s.train p n).reg (Pf.port p off) = s.reg (Pf.port p off) := by simp [State.train, h]
@[simp] theorem State.train_regF (s : State) (p n : Nat) {lo m : Nat} (h : 6 ≤ lo) :
    (s.train p n).regF (Pf.port p 8) lo m = s.regF (Pf.port p 8) lo m := by simp [State.train, h, show 3 ≤ lo by omega]

@[simp] theorem State.retrain_port (s : State) (p : Nat) :
    (s.retrain p).port p = { s.port p with trainAt := s.mesh, attempts := 0 } := by simp [State.retrain]
@[simp] theorem State.retrain_portSt (s : State) (p : Nat) : (s.retrain p).portSt p = 4 := by simp [State.retrain]
@[simp] theorem State.retrain_reg (s : State) {p off : Nat} (h : off ≠ 8) :
    (s.retrain p).reg (Pf.port p off) = s.reg (Pf.port p off) := by
  rw [State.retrain, State.train_reg _ _ h, State.setRegF_reg_other _ _ _ _ _ (by simpa using h)]
/-- RETRAINS counts up to 255. -/
theorem State.retrain_count (s : State) (p : Nat) :
    (s.retrain p).regF (Pf.port p 8) 24 8 = min 255 (s.regF (Pf.port p 8) 24 8 + 1) := by
  rw [State.retrain, State.train_regF _ _ _ (by decide), State.regF_setRegF_same _ _ _ (by decide), Nat.mod_eq_of_lt (by omega)]

/-- The port is down in state n: no lane is OK, and its buffers are empty. -/
def State.PortDown (t : State) (p n : Nat) : Prop :=
  t.portSt p = n ∧ t.regF (Pf.port p 8) 4 2 = 0 ∧
    (t.port p).queue = [] ∧ (t.port p).tx = [] ∧ (t.port p).replay = [] ∧ (t.port p).rxq = []

theorem State.portDown_portDown (s : State) (p : Nat) {n : Nat} (h : n < 8) : (s.portDown p n).PortDown p n := by
  simp [State.PortDown, State.portDown, Nat.mod_eq_of_lt h]

theorem State.portDown_ctl (s : State) (p n j : Nat) :
    ((s.portDown p n).reg (Pf.port p 0)).getLsbD j = (decide (j ≠ 3) && (s.reg (Pf.port p 0)).getLsbD j) := by
  rw [State.portDown, State.endRetrain_ctl, State.setLanes_reg _ _ _ (by decide), State.setPortSt_reg _ _ (by decide), State.setPort_reg]

/-- A failed attempt: a new one begins, or after the third the port is FAILED. -/
theorem State.failAttempt_again (s : State) (p : Nat) (h : (s.port p).attempts < 2) :
    s.failAttempt p = s.setPort p { s.port p with attempts := (s.port p).attempts + 1, trainAt := s.mesh } := by
  rw [State.failAttempt, if_neg (by omega)]

theorem State.failAttempt_failed (s : State) (p : Nat) (h : 2 ≤ (s.port p).attempts) : (s.failAttempt p).PortDown p 5 := by
  rw [State.failAttempt, if_pos (by omega)]
  exact s.portDown_portDown p (by decide)

/-! ### The sender (R29, R32) -/

/-- What the sender does only adds to what the link has been given. -/
theorem Port.out_isPrefix_pump (fuel : Nat) (k : Port) : k.out <+: (k.pump fuel).out := by
  induction fuel generalizing k with
  | zero => exact List.prefix_rfl
  | succ fuel ih =>
    have hcredit (v : Nat) : k.out <+: (k.sendCredit v).out := List.prefix_append _ _
    have hdata (q : Packet) (i : Nat) : k.out <+: (k.sendData q i).out := List.prefix_append _ _
    unfold Port.pump
    split
    · exact List.prefix_rfl
    · split
      · exact (hcredit _).trans (ih _)
      · split
        · exact (hdata _ _).trans (ih _)
        · exact List.prefix_rfl

/-- A port with nothing to send sends nothing. -/
theorem Port.pump_idle (fuel : Nat) {k : Port} (hq : k.queue = []) (ht : k.tx = []) (ho : k.owed = #v[0, 0, 0, 0]) : k.pump fuel = k := by
  cases fuel with
  | zero => rfl
  | succ fuel =>
    have hcredit : (List.range 4).find? (fun v => k.owed.toList.getD v 0 ≠ 0) = none := by rw [ho]; decide
    have hdata : k.nextData = none := by simp [Port.nextData, hq, ht]
    unfold Port.pump
    rw [hcredit, hdata]
    simp

@[simp] theorem State.pumpPort_reg (s : State) (p a : Nat) : (s.pumpPort p).reg a = s.reg a := by
  unfold State.pumpPort; split <;> rfl
@[simp] theorem State.pumpPort_regF (s : State) (p a lo n : Nat) : (s.pumpPort p).regF a lo n = s.regF a lo n := by
  rw [State.regF, State.pumpPort_reg, State.regF]
@[simp] theorem State.pumpPort_portSt (s : State) (p q : Nat) : (s.pumpPort p).portSt q = s.portSt q := State.pumpPort_regF ..
theorem State.pumpPort_port (s : State) (p : Nat) : ∃ fuel, (s.pumpPort p).port p = (s.port p).pump fuel := by
  unfold State.pumpPort; split
  · exact ⟨_, State.setPort_port_same _ _ _⟩
  · exact ⟨0, rfl⟩

/-- Every unacknowledged flit goes again; REPLAYS does not count them. -/
@[simp] theorem State.resend_uncounted (s : State) (p : Nat) : s.resend p false = s.setPort p (s.port p).resend := rfl

/-! ### An attempt (R27) -/

/-- The port after an attempt in which lanes have passed: fresh after TRAINING, as it was after RETRAIN but that what is
unacknowledged goes again. -/
def State.trainedPort (s : State) (p : Nat) : Port :=
  if s.portSt p = 1 then { queue := (s.port p).queue } else { s.port p with attempts := 0, resent := [] }

/-- The attempt succeeds on the lanes given, with a peer. -/
def State.linkUp (s : State) (p : Nat) (l0 l1 : Bool) (peer : Nat) : State :=
  let s1 := (((s.setPort p (s.trainedPort p)).setPortSt p (if l0 && l1 then 2 else 3)).setLanes p l0 l1).endRetrain p
  ((s1.setReg (Pf.port p 0x010) (BitVec.ofNat 64 (peer / 64 * 256 + peer % 64))).resend p false).pumpPort p

/-- The lanes that pass: those that are enabled, unless both are and they report different peers. -/
theorem exec_trainingAttemptEnd (s : State) (p : Nat) (a b : Bool) (x y : BitVec 62) (ht : s.portTrains p = true) :
    let c0 := (s.reg (Pf.port p 0)).getLsbD 1
    let c1 := (s.reg (Pf.port p 0)).getLsbD 2
    let differ := a && c0 && b && c1 && decide (x ≠ y)
    let l0 := a && c0 && !differ
    let l1 := b && c1 && !differ
    exec (.trainingAttemptEnd p a b x y) s = .next
      (if !l0 && !l1 then s.failAttempt p else s.linkUp p l0 l1 (if l0 then x else y).toNat) := by
  change execTrainingAttemptEnd p a b x y s = _
  unfold execTrainingAttemptEnd runEvent
  dsimp only
  rw [ht, if_neg (by decide)]
  split <;> rfl

section
variable {s : State} {p : Nat} {a b : Bool} {x y : BitVec 62} (ht : s.portTrains p = true) {l0 l1 : Bool}
  (h0 : (a && (s.reg (Pf.port p 0)).getLsbD 1) = l0) (h1 : (b && (s.reg (Pf.port p 0)).getLsbD 2) = l1)
include ht h0 h1

theorem exec_trainingAttemptEnd_fails (h : l0 = false ∧ l1 = false ∨ l0 = true ∧ l1 = true ∧ x ≠ y) :
    exec (.trainingAttemptEnd p a b x y) s = .next (s.failAttempt p) := by
  rw [exec_trainingAttemptEnd s p a b x y ht, Bool.and_assoc _ b, h0, h1]
  rcases h with ⟨rfl, rfl⟩ | ⟨rfl, rfl, hxy⟩ <;> simp [*]

theorem exec_trainingAttemptEnd_up (hup : l0 = true ∨ l1 = true) (hpeer : l0 = true → l1 = true → x = y) :
    exec (.trainingAttemptEnd p a b x y) s = .next (s.linkUp p l0 l1 (if l0 then x else y).toNat) := by
  rw [exec_trainingAttemptEnd s p a b x y ht, Bool.and_assoc _ b, h0, h1]
  cases l0
  · obtain rfl : l1 = true := by simpa using hup
    simp
  · cases l1
    · simp
    · simp [hpeer rfl rfl]

end

section
variable (s : State) (p : Nat) (l0 l1 : Bool) (peer : Nat)

@[simp] theorem State.linkUp_portSt : (s.linkUp p l0 l1 peer).portSt p = if l0 && l1 then 2 else 3 := by
  cases l0 <;> cases l1 <;> simp [State.linkUp]

@[simp] theorem State.linkUp_lanes :
    (s.linkUp p l0 l1 peer).regF (Pf.port p 8) 4 2 = (if l0 then 1 else 0) + if l1 then 2 else 0 := by simp [State.linkUp]

@[simp] theorem State.linkUp_peer :
    (s.linkUp p l0 l1 peer).reg (Pf.port p 0x10) = BitVec.ofNat 64 (peer / 64 * 256 + peer % 64) := by simp [State.linkUp]

theorem State.linkUp_endsRetrain : ((s.linkUp p l0 l1 peer).reg (Pf.port p 0)).getLsbD 3 = false := by
  simp only [State.linkUp, State.pumpPort_reg, State.resend_uncounted, State.setPort_reg]
  rw [State.setReg_reg_other _ _ _ (by simp), State.endRetrain_ctl]
  rfl

/-- The sender goes on from the trained port with what is unacknowledged sent again. -/
theorem State.linkUp_port : ∃ fuel, (s.linkUp p l0 l1 peer).port p = ((s.trainedPort p).resend).pump fuel := by
  obtain ⟨fuel, h⟩ := State.pumpPort_port (State.resend _ p false) p
  refine ⟨fuel, h.trans ?_⟩
  simp

end

/-- A port that has trained afresh with nothing queued is as at reset. -/
theorem State.linkUp_port_fresh {s : State} {p : Nat} (l0 l1 : Bool) (peer : Nat) (hst : s.portSt p = 1) (hq : (s.port p).queue = []) :
    (s.linkUp p l0 l1 peer).port p = {} := by
  obtain ⟨fuel, h⟩ := s.linkUp_port p l0 l1 peer
  rw [h, State.trainedPort, if_pos hst, hq]
  exact Port.pump_idle fuel rfl rfl rfl

section
variable {s : State} {p : Nat} (l0 l1 : Bool) (peer : Nat) (hst : s.portSt p = 4)
include hst

/-- After RETRAIN the link has been given what is unacknowledged, before anything else. -/
theorem State.linkUp_resends :
    (s.port p).out ++ (s.port p).replay.map Prod.snd <+: ((s.linkUp p l0 l1 peer).port p).out := by
  obtain ⟨fuel, h⟩ := s.linkUp_port p l0 l1 peer
  rw [h, State.trainedPort, if_neg (by omega)]
  exact Port.out_isPrefix_pump fuel ({ s.port p with attempts := 0, resent := [] } : Port).resend

theorem State.linkUp_port_kept (hq : (s.port p).queue = []) (ht : (s.port p).tx = []) (ho : (s.port p).owed = #v[0, 0, 0, 0]) :
    (s.linkUp p l0 l1 peer).port p =
      { s.port p with attempts := 0, resent := [], out := (s.port p).out ++ (s.port p).replay.map Prod.snd } := by
  obtain ⟨fuel, h⟩ := s.linkUp_port p l0 l1 peer
  rw [h, State.trainedPort, if_neg (by omega)]
  exact Port.pump_idle fuel hq ht ho

end

/-! ### The other events -/

theorem exec_linkEn_closed {s : State} (p : Nat) (on : Bool) (h : s.ready = false) : exec (.linkEn p on) s = .next s := by
  change execLinkEn p on s = _
  simp [execLinkEn, runEvent, h]

section
variable {s : State} {p : Nat} (hp : p < 64) (h : s.ready = true)
include hp h

theorem exec_linkEn_trains (hst : s.portSt p = 0) (hf : p / 16 ∉ s.dev.fencedHubs) :
    exec (.linkEn p true) s = .next ((s.setRegF (Pf.port p 0) 0 1 1).train p 1) := by
  change execLinkEn p true s = _
  simp [execLinkEn, runEvent, h, Nat.not_le.2 hp, hst, hf]

theorem exec_linkEn_only (hn : s.portSt p ≠ 0 ∨ p / 16 ∈ s.dev.fencedHubs) :
    exec (.linkEn p true) s = .next (s.setRegF (Pf.port p 0) 0 1 1) := by
  change execLinkEn p true s = _
  rcases hn with hn | hn <;> simp [execLinkEn, runEvent, h, Nat.not_le.2 hp, hn]

theorem exec_linkEn_off : exec (.linkEn p false) s = .next ((s.setRegF (Pf.port p 0) 0 1 0).portDown p 0) := by
  change execLinkEn p false s = _
  simp [execLinkEn, runEvent, h, Nat.not_le.2 hp]

end

theorem exec_linkRetrain_held {s : State} (p : Nat) (h : s.pilotRuns = false) : exec (.linkRetrain p) s = .next s := by
  change execLinkRetrain p s = _
  simp [execLinkRetrain, runPilot, runEvent, h]

theorem exec_linkRetrain_up {s : State} {p : Nat} (h : s.pilotRuns = true) (hup : s.portUp p = true) :
    exec (.linkRetrain p) s = .next ((s.setRegF (Pf.port p 0) 3 1 1).retrain p) := by
  change execLinkRetrain p s = _
  simp [execLinkRetrain, runPilot, runEvent, h, hup]

theorem exec_trainingTimeout {s : State} {p : Nat} (ht : s.portTrains p = true)
    (h : 10000 * s.dev.clock ≤ 2 * (s.mesh - (s.port p).trainAt)) : exec (.trainingTimeout p) s = .next (s.failAttempt p) := by
  change execTrainingTimeout p s = _
  simp [execTrainingTimeout, runEvent, State.micros, ht, h]

/-- A lane that fails is told to pilot firmware and logged, and the counts of resends begin again (R23, R44). -/
def State.laneTold (s : State) (p lane : Nat) : State :=
  ((s.setPort p { s.port p with resent := [] }).portEvt p 1).report 26 (BitVec.ofNat 64 p) (BitVec.ofNat 64 lane)

section
variable (s : State) (p lane : Nat)

@[simp] theorem State.laneTold_port : (s.laneTold p lane).port p = { s.port p with resent := [] } := by simp [State.laneTold]
@[simp] theorem State.laneTold_reg {off : Nat} (h : off ≠ 0x28) : (s.laneTold p lane).reg (Pf.port p off) = s.reg (Pf.port p off) := by
  simp [State.laneTold, h]
theorem State.laneTold_bit : ((s.laneTold p lane).reg (Pf.port p 0x28)).getLsbD 1 = true := State.portEvt_bit _ p (by decide)

/-- The event, to pilot firmware and in the host's log. -/
theorem State.laneTold_told :
    (26, BitVec.ofNat 64 p, BitVec.ofNat 64 lane) ∈ (s.laneTold p lane).dev.pilot ∧
      (26, BitVec.ofNat 64 p, BitVec.ofNat 64 lane) ∈ (s.laneTold p lane).dev.hostLog := by simp [State.laneTold]

end

section
variable {s : State} {p lane : Nat} (hlane : lane < 2) (hr : ∃ e ∈ (s.port p).resent, 8 ≤ e.2)
  (hok : (s.reg (Pf.port p 8)).getLsbD (4 + lane) = true)
include hlane hr hok

/-- A lane of an up port fails: the port goes to its other lane, or retrains. -/
theorem exec_laneFail (hup : s.portUp p = true) : exec (.laneFail p lane) s = .next
    (if s.portSt p = 2 then (((s.laneTold p lane).setPortSt p 3).setLanes p (lane = 1) (lane = 0)).resend p false
     else (s.laneTold p lane).retrain p) := by
  have hall : (s.port p).resent.all (fun e => decide (e.2 < 8)) = false := by
    obtain ⟨e, he, h8⟩ := hr
    exact List.all_eq_false.2 ⟨e, he, by simpa using h8⟩
  change execLaneFail p lane s = _
  unfold execLaneFail runEvent
  dsimp only
  rw [hup, hall, hok, decide_eq_false (Nat.not_le.2 hlane), if_neg (by decide)]
  split <;> rfl

end

/-- Settles O54: each event is reduced to the operation that it makes, and the claims are read off the operation's fields. -/
theorem linksTrainAndFail : Obligations.LinksTrainAndFail := by
  unfold Obligations.LinksTrainAndFail
  intro s p hp st k ctl lanes told down fails
  have hfails (i : Instr) (hi : exec i s = .next (s.failAttempt p)) : fails i :=
    ⟨fun h => by rw [hi, State.failAttempt_again s p h], fun h => ⟨_, hi, State.failAttempt_failed s p h⟩⟩
  have hup (h : st = 2 ∨ st = 3) : s.portUp p = true := by simpa [State.portUp] using h
  refine ⟨fun hr b => exec_linkEn_closed p b hr, exec_linkRetrain_held p, fun hr => ⟨fun hst hf => ?_, exec_linkEn_only hp hr, ?_⟩,
    fun hpilot hst => ?_, fun hst => ?_, fun lane hlane hres hok => ⟨fun hst => ?_, fun hst => ?_⟩⟩
  · refine ⟨_, exec_linkEn_trains hp hr hst hf, by simp, by simp [lanes], by simp, by simp, ?_⟩
    rw [State.train_reg _ _ (by decide), State.getLsbD_setRegF _ _ _ (by decide)]
    rfl
  · refine ⟨_, exec_linkEn_off hp hr, State.portDown_portDown _ p (by decide), ?_⟩
    rw [State.portDown_ctl, State.getLsbD_setRegF _ _ _ (by decide)]
    rfl
  · refine ⟨_, exec_linkRetrain_up hpilot (hup hst), by simp, ?_, ?_⟩
    · rw [State.retrain_reg _ (by decide), State.getLsbD_setRegF _ _ _ (by decide)]
      rfl
    · rw [State.retrain_count, State.setRegF_regF_other _ _ _ _ _ _ _ (by simp)]
  · have ht : s.portTrains p = true := by simpa [State.portTrains] using hst
    refine ⟨?_, fun htime => hfails _ (exec_trainingTimeout ht htime)⟩
    intro a b x y l0 l1 i up
    have hok {n ok : Nat} {peer : BitVec 62} (h : l0 = true ∨ l1 = true) (hpeer : l0 = true → l1 = true → x = y)
        (hn : (if l0 && l1 then 2 else 3) = n) (hl : ((if l0 then 1 else 0) + if l1 then 2 else 0) = ok)
        (hx : (if l0 then x else y) = peer) : up n ok peer := by
      subst hn hl hx
      exact ⟨_, exec_trainingAttemptEnd_up ht rfl rfl h hpeer, s.linkUp_portSt .., s.linkUp_lanes .., s.linkUp_peer ..,
        s.linkUp_endsRetrain .., State.linkUp_resends _ _ _,
        fun hq => ⟨fun h1 => State.linkUp_port_fresh _ _ _ h1 hq, fun h4 => State.linkUp_port_kept _ _ _ h4 hq⟩⟩
    refine ⟨fun h0 h1 hxy => ?_, fun h0 h1 => ?_, fun h0 h1 => ?_, fun h => hfails _ (exec_trainingAttemptEnd_fails ht rfl rfl h)⟩
    · exact hok (.inl h0) (fun _ _ => hxy) (by rw [h0, h1]; rfl) (by rw [h0, h1]; rfl) (by rw [h0]; rfl)
    · exact hok (.inl h0) (fun _ h => by simp [h1] at h) (by rw [h0, h1]; rfl) (by rw [h0, h1]; rfl) (by rw [h0]; rfl)
    · exact hok (.inr h1) (fun h => by simp [h0] at h) (by rw [h0, h1]; rfl) (by rw [h0, h1]; rfl) (by rw [h0]; rfl)
  · have hexec := exec_laneFail hlane hres hok (hup (.inl hst))
    rw [if_pos hst] at hexec
    refine ⟨_, hexec, by simp, ?_, State.laneTold_told s p lane, by simp [Port.resend], ?_, by simp [Port.resend, k],
      by simp [Port.resend, k], by simp⟩
    · obtain rfl | rfl : lane = 0 ∨ lane = 1 := by omega
      · simp [lanes]
      · simp [lanes]
    · simp only [State.resend_uncounted, State.setPort_reg]
      rw [State.setLanes_reg _ _ _ (by decide), State.setPortSt_reg _ _ (by decide)]
      exact State.laneTold_bit s p lane
  · have hexec := exec_laneFail hlane hres hok (hup (.inr hst))
    rw [if_neg (by change st ≠ 2; omega)] at hexec
    refine ⟨_, hexec, by simp, State.laneTold_told s p lane, by simp, ?_⟩
    rw [State.retrain_reg _ (by decide)]
    exact State.laneTold_bit s p lane

end Sys2Proof.Machine
end

section
/-! PROOFS of the family 01_package: package reset, bring-up, the boot ROM, the pilot watchdog, power and heat (R22, R24, R56, R58 to
R61). -/

namespace Sys2Proof

theorem AMap.getD_map {α β : Type} (f : α → β) (m : AMap α) (k : Nat) (d : α) :
    AMap.getD (m.map (fun e => (e.1, f e.2))) k (f d) = f (AMap.getD m k d) := by
  induction m with
  | nil => rfl
  | cons e m ih =>
    obtain ⟨j, v⟩ := e
    simp only [AMap.getD, List.map_cons, AMap.get?] at ih ⊢
    split
    · rfl
    · exact ih

namespace Machine

/-! ### Folds over a state -/

/-- What every step of a fold keeps, the fold keeps. -/
theorem foldl_keeps {σ α β : Type} {f : σ → α → σ} (g : σ → β) (hf : ∀ s a, g (f s a) = g s) (l : List α) (s : σ) :
    g (l.foldl f s) = g s := by
  induction l generalizing s with
  | nil => rfl
  | cons a l ih => exact (ih (f s a)).trans (hf s a)

/-- Where every step of a fold adds its item to a list, the fold adds all of them. -/
theorem mem_foldl_adds {σ α : Type} {f : σ → α → σ} (g : σ → List α) (hf : ∀ s a x, x ∈ g (f s a) ↔ x ∈ g s ∨ x = a)
    (l : List α) (s : σ) (x : α) : x ∈ g (l.foldl f s) ↔ x ∈ g s ∨ x ∈ l := by
  induction l generalizing s with
  | nil => simp
  | cons a l ih => rw [List.foldl_cons, ih, hf, List.mem_cons, or_assoc]

theorem mem_addOnce (l : List Nat) (a x : Nat) : x ∈ (if l.contains a then l else l ++ [a]) ↔ x ∈ l ∨ x = a := by
  split
  next h =>
    have ha : a ∈ l := by simpa using h
    exact ⟨.inl, fun hx => hx.elim id fun hx => hx ▸ ha⟩
  next => simp

/-! ### DEVSTAT (R58, R59) -/

theorem State.setStage_stage (s : State) {n : Nat} (h : n < 256) : (s.setStage n).regF 0 24 8 = n := by
  rw [State.setStage, State.regF_setRegF_same _ _ _ (by decide)]
  exact Nat.mod_eq_of_lt h

theorem State.setStage_low (s : State) (n : Nat) {j : Nat} (h : j < 24) : ((s.setStage n).reg 0).getLsbD j = (s.reg 0).getLsbD j :=
  State.getLsbD_setRegF_outside _ _ _ (by decide) (.inl h)

/-- The bits of DEVSTAT once one of them has risen. -/
theorem State.devBit_bit (s : State) {bit : Nat} (h : bit < 64) (j : Nat) :
    ((s.devBit bit).reg 0).getLsbD j = ((s.reg 0).getLsbD j || decide (j = bit)) := by
  unfold State.devBit
  split
  next hset =>
    by_cases hj : j = bit
    · simp [hj, hset]
    · simp [hj]
  next =>
    refine Eq.trans (congrArg (BitVec.getLsbD · j) (State.setReg_reg_same s _ _)) ?_
    exact getLsbD_or_two_pow _ h j

theorem State.devBit_regF (s : State) {bit lo n : Nat} (h : bit < 64) (hd : bit < lo ∨ lo + n ≤ bit) :
    (s.devBit bit).regF 0 lo n = s.regF 0 lo n :=
  bitsOf_congr fun i hi => by
    have : lo + i ≠ bit := by omega
    simp [State.devBit_bit s h, this]

/-- A bit that rises sends PF vector 0. -/
theorem State.devBit_rises (s : State) {bit : Nat} (h : (s.reg 0).getLsbD bit = false) :
    (s.devBit bit).dev.msix = s.dev.msix ++ [(0, 0)] := by
  unfold State.devBit
  rw [h]
  rfl

/-- Of the device a bit of DEVSTAT changes at most the messages sent. -/
theorem State.devBit_dev (s : State) (bit : Nat) : ∃ m, (s.devBit bit).dev = { s.dev with msix := m } := by
  unfold State.devBit
  split
  · exact ⟨s.dev.msix, rfl⟩
  · exact ⟨_, rfl⟩

/-- A failed step: FAILSTEP and FW_FAIL are set, the stage stays, and PF vector 0 goes out. -/
def State.FailedAt (s t : State) (step : Nat) : Prop :=
  t.regF 0 4 4 = step ∧ (t.reg 0).getLsbD 3 = true ∧ t.regF 0 24 8 = s.regF 0 24 8 ∧ t.dev.msix = s.dev.msix ++ [(0, 0)]

theorem State.failStep_failedAt (s : State) {n : Nat} (hn : n < 16) (h : (s.reg 0).getLsbD 3 = false) :
    s.FailedAt (s.failStep n) n := by
  refine ⟨?_, ?_, ?_, ?_⟩
  · rw [State.failStep, State.devBit_regF _ (by decide) (by decide), State.regF_setRegF_same _ _ _ (by decide)]
    exact Nat.mod_eq_of_lt hn
  · rw [State.failStep, State.devBit_bit _ (by decide)]; simp
  · rw [State.failStep, State.devBit_regF _ (by decide) (by decide), State.regF_setRegF_disjoint _ _ _ (by decide) (by decide)]
  · rw [State.failStep, State.devBit_rises]
    · rfl
    · rw [State.getLsbD_setRegF_outside _ _ _ (by decide) (by decide), h]

/-- Bring-up waits for the end of the step after stage n (R61). -/
theorem State.atStage_iff (s : State) (n : Nat) :
    s.atStage n = true ↔ s.dev.powered = true ∧ s.regF 0 24 8 = n ∧ (s.reg 0).getLsbD 3 = false ∧ (s.reg 0).getLsbD 2 = false := by
  simp only [State.atStage, Bool.and_eq_true, decide_eq_true_eq, Bool.not_eq_true', and_assoc]
  rfl

/-! ### Package reset (R61) -/

theorem exec_packageReset (s : State) : exec .packageReset s = .next s.afterReset := rfl

/-- TRIP outlives the reset. -/
theorem State.afterReset_devstat (s : State) : s.afterReset.reg 0 = BitVec.ofNat 64 (s.regF 0 8 2 * 2 ^ 8) := by
  unfold State.afterReset State.reg
  dsimp only
  split
  next h => rw [h]; rfl
  next => rfl

theorem State.afterReset_reg (s : State) {a : Nat} (h : a ≠ 0) : s.afterReset.reg a = Pf.resetValue a := by
  unfold State.afterReset State.reg
  dsimp only
  split
  · rfl
  · exact AMap.getD_set_other [] _ _ h

theorem State.afterReset_trip (s : State) : s.afterReset.regF 0 8 2 = s.regF 0 8 2 ∧ s.afterReset.regF 0 24 8 = 0 := by
  have h : s.regF 0 8 2 < 4 := bitsOf_lt _ _ _
  simp only [State.regF, State.afterReset_devstat, bitsOf, BitVec.toNat_ofNat] at h ⊢
  omega

/-! ### Fencing (R23, R24) -/

@[simp] theorem State.portDown_dev (s : State) (p n : Nat) : (s.portDown p n).dev = s.dev := rfl

theorem Pf.zero_ne_port (p off : Nat) : 0 ≠ Pf.port p off := by unfold Pf.port; omega

@[simp] theorem State.portDown_devstat (s : State) (p n : Nat) : (s.portDown p n).reg 0 = s.reg 0 := by
  unfold State.portDown State.endRetrain State.setLanes State.setPortSt
  dsimp only
  rw [State.setRegF_reg_other _ _ _ _ _ (Pf.zero_ne_port _ _), State.setRegF_reg_other _ _ _ _ _ (Pf.zero_ne_port _ _),
    State.setRegF_reg_other _ _ _ _ _ (Pf.zero_ne_port _ _), State.setPort_reg]

/-- A fenced hub joins the list, once; the ports taken down change neither the device nor DEVSTAT. -/
theorem State.fenceHub_fields (s : State) (d : Nat) :
    (s.fenceHub d).reg 0 = s.reg 0 ∧ (s.fenceHub d).dev =
      if s.dev.fencedHubs.contains d then s.dev
      else ({ s with dev := { s.dev with fencedHubs := s.dev.fencedHubs ++ [d] } }.report 20 (BitVec.ofNat 64 d) 0).dev := by
  unfold State.fenceHub
  split
  · exact ⟨rfl, rfl⟩
  · extract_lets t
    refine ⟨(foldl_keeps (fun u : State => u.reg 0) (fun u i => ?_) (List.range 16) _).trans rfl,
      foldl_keeps State.dev (fun u i => ?_) (List.range 16) _⟩
    · split <;> simp
    · split <;> simp

theorem State.mem_fencedHubs_fenceHub (s : State) (d h : Nat) :
    h ∈ (s.fenceHub d).dev.fencedHubs ↔ h ∈ s.dev.fencedHubs ∨ h = d := by
  rw [← mem_addOnce, (s.fenceHub_fields d).2]
  split <;> rfl

theorem State.fenceHub_msix (s : State) (d : Nat) : (s.fenceHub d).dev.msix = s.dev.msix := by
  rw [(s.fenceHub_fields d).2]; split <;> rfl

theorem State.fenceHub_fencedStacks (s : State) (d : Nat) : (s.fenceHub d).dev.fencedStacks = s.dev.fencedStacks := by
  rw [(s.fenceHub_fields d).2]; split <;> rfl

theorem State.mem_fencedStacks_fenceStack (s : State) (k j : Nat) :
    j ∈ (s.fenceStack k).dev.fencedStacks ↔ j ∈ s.dev.fencedStacks ∨ j = k := by
  rw [← mem_addOnce, State.fenceStack]
  split <;> rfl

theorem State.fenceStack_devstat (s : State) (k : Nat) : (s.fenceStack k).reg 0 = s.reg 0 := by
  unfold State.fenceStack; split <;> rfl

theorem State.fenceStack_msix (s : State) (k : Nat) : (s.fenceStack k).dev.msix = s.dev.msix := by
  unfold State.fenceStack; split <;> rfl

theorem State.fenceStack_fencedHubs (s : State) (k : Nat) : (s.fenceStack k).dev.fencedHubs = s.dev.fencedHubs := by
  unfold State.fenceStack; split <;> rfl

/-- Self-calibration fences the hubs and the stacks that the bad PHYs are local to (R61). -/
def State.fenceBad (s : State) (bad : BadPhys) : State :=
  bad.badStacks.foldl State.fenceStack ((bad.badPorts.map (fun p => p / 16)).foldl State.fenceHub s)

section
variable (s : State) (bad : BadPhys)

theorem State.fenceBad_devstat : (s.fenceBad bad).reg 0 = s.reg 0 :=
  (foldl_keeps (fun t : State => t.reg 0) State.fenceStack_devstat _ _).trans
    (foldl_keeps (fun t : State => t.reg 0) (fun s d => (s.fenceHub_fields d).1) _ s)

theorem State.fenceBad_msix : (s.fenceBad bad).dev.msix = s.dev.msix :=
  (foldl_keeps (fun t : State => t.dev.msix) State.fenceStack_msix _ _).trans
    (foldl_keeps (fun t : State => t.dev.msix) State.fenceHub_msix _ s)

theorem State.mem_fencedHubs_fenceBad (h : Nat) :
    h ∈ (s.fenceBad bad).dev.fencedHubs ↔ h ∈ s.dev.fencedHubs ∨ ∃ p ∈ bad.badPorts, p / 16 = h := by
  rw [State.fenceBad, foldl_keeps (fun t : State => t.dev.fencedHubs) State.fenceStack_fencedHubs,
    mem_foldl_adds (fun t : State => t.dev.fencedHubs) State.mem_fencedHubs_fenceHub, List.mem_map]

theorem State.mem_fencedStacks_fenceBad (k : Nat) :
    k ∈ (s.fenceBad bad).dev.fencedStacks ↔ k ∈ s.dev.fencedStacks ∨ k ∈ bad.badStacks := by
  rw [State.fenceBad, mem_foldl_adds (fun t : State => t.dev.fencedStacks) State.mem_fencedStacks_fenceStack,
    foldl_keeps (fun t : State => t.dev.fencedStacks) State.fenceHub_fencedStacks]

end

/-- t is s but for what pilot firmware and the host's log have been told (R23). -/
def State.ToldFrom (s t : State) : Prop := ∃ pilot log, t = { s with dev := { s.dev with pilot := pilot, hostLog := log } }

theorem State.ToldFrom.refl (s : State) : s.ToldFrom s := ⟨_, _, rfl⟩

theorem State.ToldFrom.trans {s t u : State} (hst : s.ToldFrom t) (htu : t.ToldFrom u) : s.ToldFrom u := by
  obtain ⟨_, _, rfl⟩ := hst
  obtain ⟨_, _, rfl⟩ := htu
  exact ⟨_, _, rfl⟩

theorem State.toldFrom_foldl {α : Type} {f : State → α → State} (hf : ∀ (s : State) a, s.ToldFrom (f s a)) (l : List α)
    (s : State) : s.ToldFrom (l.foldl f s) :=
  List.foldlRecOn (motive := s.ToldFrom) l f (.refl s) fun t ht a _ => ht.trans (hf t a)

theorem State.toldFrom_report (s : State) (kind : Nat) (x y : Word) : s.ToldFrom (s.report kind x y) := ⟨_, _, rfl⟩

/-- A fenced octet joins the list, once; the rest is told. -/
theorem State.fenceOctet_toldFrom (s : State) (o : Nat) :
    State.ToldFrom
      { s with dev := { s.dev with fenced := if s.dev.fenced.contains o then s.dev.fenced else s.dev.fenced ++ [o] } }
      (s.fenceOctet o) := by
  unfold State.fenceOctet
  split
  next => exact .refl s
  next =>
    exact (State.toldFrom_report _ _ _ _).trans
      (State.toldFrom_foldl (fun t _ => State.toldFrom_foldl (fun u _ => u.toldFrom_report _ _ _) _ t) _ _)

theorem State.mem_fenced_fenceOctet (s : State) (o j : Nat) : j ∈ (s.fenceOctet o).dev.fenced ↔ j ∈ s.dev.fenced ∨ j = o := by
  obtain ⟨_, _, h⟩ := s.fenceOctet_toldFrom o
  rw [← mem_addOnce, h]

/-- t has the registers of s, and its device as the boot ROM leaves it. -/
def State.SameBoot (s t : State) : Prop :=
  t.regs = s.regs ∧ t.dev.running = s.dev.running ∧ t.dev.fused = s.dev.fused ∧ t.dev.heldVfs = s.dev.heldVfs ∧
    t.dev.kickAt = s.dev.kickAt

theorem State.sameBoot_fenceOctets (s : State) (l : List Nat) : s.SameBoot (l.foldl State.fenceOctet s) :=
  List.foldlRecOn (motive := s.SameBoot) l State.fenceOctet ⟨rfl, rfl, rfl, rfl, rfl⟩ fun t ht o _ => by
    obtain ⟨_, _, h⟩ := t.fenceOctet_toldFrom o
    rw [h]
    exact ht

/-! ### The steps of bring-up (R61) -/

theorem exec_powerGood {s : State} (h : s.atStage 0 = true) : exec .powerGood s = .next (s.setStage 1) := by
  change execPowerGood s = _
  simp [execPowerGood, runEvent, h]

theorem exec_railTimeout {s : State} (h : s.atStage 0 = true) (ht : 50000 * s.dev.clock ≤ s.cyc) :
    exec .railTimeout s = .next (s.failStep 1) := by
  change execRailTimeout s = _
  simp [execRailTimeout, runEvent, State.micros, h, ht]

theorem exec_selfCalibrationDone {s : State} (h : s.atStage 1 = true) (ok : Bool) (bad : BadPhys) :
    exec (.selfCalibrationDone ok bad) s = .next (if ok then (s.fenceBad bad).setStage 2 else s.failStep 2) := by
  change execSelfCalibrationDone ok bad s = _
  cases ok <;> simp [execSelfCalibrationDone, runEvent, h, State.fenceBad]

/-- Every stack is zero-filled, under what its slot 0 holds. -/
def State.hbmFilled (s : State) : State :=
  { s with
    hbm := [], lineKey := [], ecc := [], dies := s.dies.map (fun d => (d.1, { d.2 with l2 := [] }))
    fills := (List.range 8).map (fun k => (k * 2 ^ 36, 2 ^ 36, s.material k 0)) }

theorem exec_hbmInitDone {s : State} (h : s.atStage 2 = true) (ok : Bool) :
    exec (.hbmInitDone ok) s = .next (if ok then s.hbmFilled.setStage 3 else s.failStep 3) := by
  change execHbmInitDone ok s = _
  cases ok <;> simp [execHbmInitDone, runEvent, h, State.hbmFilled]

theorem State.hbmFilled_l2 (s : State) (d : Nat) : (s.hbmFilled.die d).l2 = [] := by
  have h := AMap.getD_map (fun e : Die => { e with l2 := [] }) s.dies d {}
  exact congrArg Die.l2 h

/-- The boot ROM accepts an image that is signed, of the right length and not below the fuses (R56). -/
theorem State.bootImage_good {s : State} {i : FwImage} (hf : s.dev.flash = some i) (hs : i.signed = true) (hl : i.lengthOk = true)
    (hv : s.dev.fused ≤ i.version) : s.bootImage = some i := by simp [State.bootImage, hf, hs, hl, hv]

theorem State.bootImage_bad {s : State} {i : FwImage} (hf : s.dev.flash = some i)
    (h : i.signed = false ∨ i.lengthOk = false ∨ i.version < s.dev.fused) : s.bootImage = none := by
  rcases h with h | h | h
  · simp [State.bootImage, hf, h]
  · simp [State.bootImage, hf, h]
  · simp [State.bootImage, hf, h]

/-- The image runs, its version is fused, and the watchdog counts. -/
def State.booted (s : State) (i : FwImage) : State :=
  { s with dev := { s.dev with
      fused := if s.dev.fused ≤ i.version then i.version else s.dev.fused, running := some i, pilotHeld := false
      kickAt := some s.cyc } }

/-- Step 4 of bring-up: the image runs, the octets that fail are fenced, and READY is set. -/
def State.bootedReady (s : State) (i : FwImage) (failing : List Nat) : State :=
  ((failing.foldl State.fenceOctet (s.booted i)).setStage 5).devBit 0

theorem State.sameBoot_bootedReady (s : State) (i : FwImage) (failing : List Nat) :
    let d := (s.bootedReady i failing).dev
    let b := (s.booted i).dev
    d.running = b.running ∧ d.fused = b.fused ∧ d.heldVfs = b.heldVfs ∧ d.kickAt = b.kickAt := by
  obtain ⟨m, hdev⟩ := State.devBit_dev ((failing.foldl State.fenceOctet (s.booted i)).setStage 5) 0
  intro d b
  have hd : d = _ := hdev
  rw [hd]
  exact (State.sameBoot_fenceOctets (s.booted i) failing).2

theorem State.mem_fenced_bootedReady (s : State) (i : FwImage) (failing : List Nat) (o : Nat) :
    o ∈ (s.bootedReady i failing).dev.fenced ↔ o ∈ s.dev.fenced ∨ o ∈ failing := by
  obtain ⟨m, hdev⟩ := State.devBit_dev ((failing.foldl State.fenceOctet (s.booted i)).setStage 5) 0
  rw [State.bootedReady, hdev]
  exact mem_foldl_adds (fun t : State => t.dev.fenced) State.mem_fenced_fenceOctet failing (s.booted i) o

theorem State.bootedReady_devstat (s : State) (i : FwImage) (failing : List Nat) :
    ((s.bootedReady i failing).reg 0).getLsbD 0 = true ∧ (s.bootedReady i failing).regF 0 24 8 = 5 := by
  refine ⟨?_, ?_⟩
  · rw [State.bootedReady, State.devBit_bit _ (by decide)]; simp
  · rw [State.bootedReady, State.devBit_regF _ (by decide) (by decide), State.setStage_stage _ (by decide)]

/-- In recovery the pilot cores are held, no firmware runs, and the device is not ready. -/
theorem State.enterRecovery_fields (s : State) :
    (s.enterRecovery.reg 0).getLsbD 2 = true ∧ (s.enterRecovery.reg 0).getLsbD 0 = false ∧ s.enterRecovery.dev.running = none ∧
      s.enterRecovery.dev.pilotHeld = true := by
  unfold State.enterRecovery
  extract_lets s1 d s2
  obtain ⟨m, hdev⟩ := State.devBit_dev (s2.setReg 0 (s2.reg 0 &&& 0xFFFFFFFFFFFFFFFE#64)) 2
  rw [State.devBit_bit _ (by decide), State.devBit_bit _ (by decide), State.setReg_reg_same, hdev]
  refine ⟨by simp, ?_, rfl, rfl⟩
  rw [BitVec.getLsbD_and]
  simp

section
variable {s : State} (failing : List Nat) (h : s.atStage 3 = true) (hheld : s.dev.pilotHeld = false)
include h hheld

theorem exec_bootRomLoad_good {i : FwImage} (hi : s.bootImage = some i) (hv : s.dev.heldVfs = none) :
    exec (.bootRomLoad failing) s = .next (s.bootedReady i failing) := by
  obtain ⟨-, -, hheldVfs, -⟩ := s.sameBoot_bootedReady i failing
  have hnone : (s.bootedReady i failing).dev.heldVfs = none := hheldVfs.trans hv
  change execBootRomLoad failing s = _
  unfold State.bootedReady State.booted at hnone ⊢
  simp [execBootRomLoad, runEvent, h, hheld, hi, hnone]

theorem exec_bootRomLoad_bad (hi : s.bootImage = none) : exec (.bootRomLoad failing) s = .next s.enterRecovery := by
  change execBootRomLoad failing s = _
  simp [execBootRomLoad, runEvent, h, hheld, hi]

end

/-! ### The pilot watchdog (R60), power and temperature (R22) -/

theorem exec_pilotWdKick {s : State} {t0 : Nat} (h : s.dev.kickAt = some t0) :
    exec .pilotWdKick s = .next { s with dev := { s.dev with kickAt := some s.cyc } } := by
  change execPilotWdKick s = _
  simp [execPilotWdKick, runEvent, h]

theorem exec_pilotWatchdogExpiry {s : State} {t0 : Nat} (h : s.dev.kickAt = some t0)
    (ht : t0 + 1000 * max 1 (s.regF 0x60 0 16) * s.dev.clock ≤ s.cyc) :
    exec .pilotWatchdogExpiry s = .next ({ s with dev := { s.dev with pilotHeld := true, kickAt := none } }.devBit 1) := by
  change execPilotWatchdogExpiry s = _
  simp [execPilotWatchdogExpiry, runEvent, State.micros, h, Nat.not_lt.2 ht]

@[simp] theorem State.setClock_clock (s : State) (mhz : Nat) : (s.setClock mhz).dev.clock = mhz := by
  unfold State.setClock
  split
  next h => exact h.symm
  next => rfl

theorem exec_powerClampSample_high (s : State) {w : Nat} (b : Bool) (h : 3200 < w) :
    exec (.powerClampSample w b) s = .next (s.setClock (max 1000 (s.dev.clock - 250))) := by
  change execPowerClampSample w b s = _
  simp [execPowerClampSample, runEvent, h]

theorem exec_powerClampSample_low {s : State} {w : Nat} (h : w < 3040) (hc : s.dev.hot = false) :
    exec (.powerClampSample w true) s = .next (s.setClock (min 4000 (s.dev.clock + 250))) := by
  change execPowerClampSample w true s = _
  simp [execPowerClampSample, runEvent, h, hc, show ¬ 3200 < w by omega]

theorem exec_thermalLimit_hot {s : State} (h : s.dev.hot = false) :
    exec (.thermalLimit true) s = .next ({ s with dev := { s.dev with hot := true, clock := 1000 } }.msi 0 3) := by
  change execThermalLimit true s = _
  simp [execThermalLimit, runEvent, h]

theorem exec_thermalLimit_cool {s : State} (h : s.dev.hot = true) :
    exec (.thermalLimit false) s = .next { s with dev := { s.dev with hot := false } } := by
  change execThermalLimit false s = _
  simp [execThermalLimit, runEvent, h]

/-- Settles O45: each event is reduced to the operation that it makes, and the claims are read off the fields of its result. -/
theorem bringUpAndPower : Obligations.BringUpAndPower := by
  unfold Obligations.BringUpAndPower
  intro s at0 next fails
  have hat {n : Nat} (h : at0 n) : s.atStage n = true := (s.atStage_iff n).2 h
  have hfails {i : Instr} {n m : Nat} (h : at0 m) (hn : n < 16) (hi : exec i s = .next (s.failStep n)) : fails i n := by
    obtain ⟨-, -, hfail, -⟩ := h
    exact ⟨_, hi, s.failStep_failedAt hn hfail⟩
  refine ⟨?reset, ?good, ?rail, ?calibration, ?hbm, ?boot, ?watchdog, ?clamp, ?hot, ?cool, ?trip⟩
  case reset =>
    obtain ⟨htrip, hstage⟩ := s.afterReset_trip
    exact ⟨_, exec_packageReset s, htrip, fun a ha => s.afterReset_reg ha, hstage, rfl, rfl, rfl, rfl, rfl, rfl, rfl, rfl, rfl⟩
  case good =>
    exact fun h => ⟨_, exec_powerGood (hat h), s.setStage_stage (by decide), fun j hj => s.setStage_low 1 hj, rfl, trivial⟩
  case rail => exact fun h ht => hfails h (by decide) (exec_railTimeout (hat h) ht)
  case calibration =>
    intro ps ks h
    have hexec (ok : Bool) := exec_selfCalibrationDone (hat h) ok ⟨ps, ks⟩
    refine ⟨⟨_, hexec true, State.setStage_stage _ (by decide), fun j hj => ?_, s.fenceBad_msix _, ?_, ?_⟩,
      hfails h (by decide) (hexec false)⟩
    · rw [if_pos rfl, State.setStage_low _ _ hj, State.fenceBad_devstat]
    · exact s.mem_fencedHubs_fenceBad _
    · exact s.mem_fencedStacks_fenceBad _
  case hbm =>
    refine fun h => ⟨⟨_, exec_hbmInitDone (hat h) true, State.setStage_stage _ (by decide),
      fun j hj => State.setStage_low _ _ hj, rfl, rfl, rfl, rfl, s.hbmFilled_l2, fun k hk => ?_⟩,
      hfails h (by decide) (exec_hbmInitDone (hat h) false)⟩
    exact List.mem_map.2 ⟨k, List.mem_range.2 hk, rfl⟩
  case boot =>
    refine fun l i h hheld hf => ⟨fun hs hl hv hvfs => ?_, fun hbad => ?_⟩
    · obtain ⟨hready, hstage⟩ := s.bootedReady_devstat i l
      obtain ⟨hrun, hfused, -, hkick⟩ := s.sameBoot_bootedReady i l
      exact ⟨_, exec_bootRomLoad_good l (hat h) hheld (State.bootImage_good hf hs hl hv) hvfs, hready, hstage, hrun,
        hfused.trans (if_pos hv), s.mem_fenced_bootedReady i l, hkick⟩
    · exact ⟨_, exec_bootRomLoad_bad l (hat h) hheld (State.bootImage_bad hf hbad), s.enterRecovery_fields⟩
  case watchdog =>
    refine fun t0 hk => ⟨exec_pilotWdKick hk, fun ht => ?_⟩
    obtain ⟨m, hdev⟩ := State.devBit_dev { s with dev := { s.dev with pilotHeld := true, kickAt := none } } 1
    refine ⟨_, exec_pilotWatchdogExpiry hk ht, by rw [hdev], by rw [hdev], ?_⟩
    rw [State.devBit_bit _ (by decide)]
    simp
  case clamp =>
    exact fun w b => ⟨fun h => ⟨_, exec_powerClampSample_high s b h, s.setClock_clock _⟩,
      fun h hc => ⟨_, exec_powerClampSample_low h hc, s.setClock_clock _⟩⟩
  case hot => exact fun h => ⟨_, exec_thermalLimit_hot h, rfl, rfl, rfl⟩
  case cool => exact fun h => ⟨_, exec_thermalLimit_cool h, rfl, rfl⟩
  case trip => exact ⟨_, rfl, rfl, State.regF_setRegF_same s 0 1 (by decide)⟩

end Machine
end Sys2Proof
end

section
/-! PROOFS of the family 01_package: identity, configuration and system registers (R10 to R12, R310 to R314). -/

namespace Sys2Proof.Machine

/-! ### What the start of an issue keeps -/

/-- A context replaced by one that has begun as it had, where the core has such a context at all. -/
theorem State.begun_setCtx (s : State) (n x : Nat) {k : Ctx} (h : k.begun = (s.ctx n x).begun) :
    ((s.setCtx n x k).ctx n x).begun = (s.ctx n x).begun := by
  by_cases hx : x < 11
  · rw [State.setCtx_ctx_same s n k hx, h]
  · simp [State.setCtx, State.ctx, Core.setCtx, hx]

theorem State.begun_setMy (s : State) {k : Ctx} (h : k.begun = s.my.begun) : (s.setMy k).my.begun = s.my.begun :=
  State.begun_setCtx s _ _ h

theorem State.setMy_gang (s : State) (k : Ctx) : (s.setMy k).me.gang = s.me.gang := by
  rw [State.me, State.setMy, State.setCtx_cur, State.setCtx, State.setCore_core_same, Core.setCtx_gang, State.me]

/-- Requests that rejoin the octet's queue leave the core, the running context and the cycle. -/
theorem State.rejoin_keeps (s : State) :
    let t := s.rejoin s.cur.1 s.cur.2
    t.cur = s.cur ∧ t.cyc = s.cyc ∧ t.my.begun = s.my.begun ∧ t.me.gang = s.me.gang := by
  unfold State.rejoin
  dsimp only
  split
  · exact ⟨rfl, rfl, rfl, rfl⟩
  · exact ⟨rfl, rfl, State.begun_setMy (State.setOctet ..) rfl, State.setMy_gang (State.setOctet ..) _⟩

/-- So does the start of an issue. -/
theorem State.started_keeps (s : State) (m : Mods) :
    let t := s.started m
    t.cur = s.cur ∧ t.cyc = s.cyc ∧ t.my.begun = s.my.begun ∧ t.me.gang = s.me.gang := by
  obtain ⟨hcur, hcyc, hbegun, hgang⟩ := s.rejoin_keeps
  refine ⟨hcur, hcyc, ?_, ?_⟩
  · have hissue : s.beginIssue.my.begun = s.my.begun := (State.begun_setMy (s.rejoin s.cur.1 s.cur.2) (by rfl)).trans hbegun
    exact (State.begun_setMy s.beginIssue (by rfl)).trans hissue
  · exact ((State.setMy_gang _ _).trans (State.setMy_gang _ _)).trans hgang

/-! ### What a read of an operand keeps -/

@[simp] theorem Core.gTouch_ctxs (c : Core) (a : Nat) : (c.gTouch a).ctxs = c.ctxs := by
  unfold Core.gTouch
  split
  · rfl
  · exact Core.mfPut_ctxs _ _

theorem State.setMe_my (s : State) {c : Core} (h : c.ctxs = s.me.ctxs) : (s.setMe c).my = s.my := by
  simp only [State.setMe, State.my, State.ctx, State.setCore_cur, State.setCore_core_same, Core.ctx, h, State.me]

/-- Neither which context runs nor whether it is in an instruction that has issued. -/
theorem src_cur_begun {o : Opnd} {m : Mods} {t : SrcTy} {s u : State} {v : Word} (h : src o m t s = .ok (v, u)) :
    u.cur = s.cur ∧ u.my.begun = s.my.begun := by
  rcases src_cases m t s h with rfl | rfl | ⟨n, -, rfl⟩ | ⟨n, -, rfl⟩
  · exact ⟨rfl, rfl⟩
  · exact ⟨rfl, State.begun_setMy s rfl⟩
  · exact ⟨rfl, by rw [State.setMe_my s (Core.gTouch_ctxs _ _)]⟩
  · exact ⟨rfl, by rw [State.setMe_my s (Core.setQ_ctxs _ _ _)]⟩

/-- The one source of an instruction, read. -/
theorem State.src_of_reads {s u : State} {m : Mods} {a : Opnd} {x : Word} (h : s.reads m .int [a] = some ([x], u)) :
    src a m .int (s.started m) = .ok (x, u) := by
  have hok : ([a].mapM (fun o => src o m .int)) (s.started m) = .ok ([x], u) := by
    unfold State.reads Sem.run? at h
    split at h
    next r heq => rw [heq, Option.some.inj h]
    next => cases h
  rw [List.mapM_cons, List.mapM_nil] at hok
  obtain ⟨y, t, hsrc, hrest⟩ := Sem.bind_inv hok
  rw [hsrc]
  cases hrest
  rfl

/-! ### Instructions that read at most one operand -/

section
variable {i : Instr} {m : Mods} {s u : State} {a : Opnd} {x : Word} (hi : s.Issues i m)
include hi

/-- A result that no operand decides. -/
theorem runInstr_wrote (d : Opnd) (f : State → Word) :
    runInstr i m s (fun _ => do let t ← getS; dst d (f t)) = .next ((s.started m).wrote d (f (s.started m))) := by
  obtain ⟨-, -, hbegun, -⟩ := s.started_keeps m
  exact runInstr_ok hi (dst_run d _ _ (hbegun.trans hi.1))

/-- A result that one operand decides. -/
theorem runInstr_src_wrote (hr : s.reads m .int [a] = some ([x], u)) (d : Opnd) (f : State → Word → Word) :
    runInstr i m s (fun _ => do let v ← src a m; let t ← getS; dst d (f t v)) = .next (u.wrote d (f u x)) := by
  have hsrc := State.src_of_reads hr
  have hbegun : u.my.begun = false := by
    obtain ⟨-, -, hstart, -⟩ := s.started_keeps m
    exact (src_cur_begun hsrc).2.trans (hstart.trans hi.1)
  exact runInstr_ok hi ((Sem.bind_ok hsrc).trans (dst_run d _ _ hbegun))

end

/-! ### Words made of fields, and of bits -/

theorem toNat_append_eq_add {n m : Nat} (x : BitVec n) (y : BitVec m) : (x ++ y).toNat = x.toNat * 2 ^ m + y.toNat := by
  rw [BitVec.toNat_append, ← Nat.shiftLeft_add_eq_or_of_lt y.isLt, Nat.shiftLeft_eq]

/-- A sum of the powers of two whose exponents meet a condition has those bits. -/
theorem testBit_foldl_two_pow (P : Nat → Prop) [DecidablePred P] (n j : Nat) :
    ((List.range n).foldl (fun acc i => if P i then acc + 2 ^ i else acc) 0).testBit j = (decide (j < n) && decide (P j)) := by
  suffices h : (List.range n).foldl (fun acc i => if P i then acc + 2 ^ i else acc) 0 < 2 ^ n ∧ ∀ j,
      ((List.range n).foldl (fun acc i => if P i then acc + 2 ^ i else acc) 0).testBit j = (decide (j < n) && decide (P j)) from h.2 j
  induction n with
  | zero => simp
  | succ n ih =>
    obtain ⟨hlt, hbits⟩ := ih
    rw [List.range_succ, List.foldl_append, List.foldl_cons, List.foldl_nil]
    generalize (List.range n).foldl (fun acc i => if P i then acc + 2 ^ i else acc) 0 = w at hlt hbits
    split
    next hP =>
      refine ⟨by rw [pow_succ]; omega, fun j => ?_⟩
      have hadd := Nat.testBit_two_pow_mul_add 1 hlt j
      rw [Nat.mul_one, Nat.add_comm] at hadd
      rw [hadd, hbits]
      by_cases hj : j < n
      · simp [hj, show j < n + 1 by omega]
      · by_cases he : j = n
        · simp [he, hP]
        · have hone : Nat.testBit 1 (j - n) = false := by
            rw [← Bool.not_eq_true, Nat.testBit_one_eq_true_iff_self_eq_zero]; omega
          simp [hj, hone, show ¬ j < n + 1 by omega]
    next hP =>
      refine ⟨by rw [pow_succ]; omega, fun j => ?_⟩
      rw [hbits]
      by_cases he : j = n
      · simp [he, hP]
      · simp [show j < n + 1 ↔ j < n by omega]

/-- The numbers of a core's places fit their fields (R10 to R12). -/
theorem coreX_lt (n : Nat) : coreX n < 32 := Nat.mod_lt _ (by decide)

section
variable {n : Nat} (h : n < 1024)
include h

theorem coreY_lt : coreY n < 32 := by unfold coreY; omega

theorem partOf_lt : partOf n < 8 := by
  have hx := coreX_lt n
  have hy := coreY_lt h
  unfold partOf dieOf
  omega

theorem octetOf_lt : octetOf n < 128 := by
  have hx := coreX_lt n
  have hy := coreY_lt h
  unfold octetOf
  omega

theorem octIdx_lt : octIdx n < 8 := by
  have hx := coreX_lt n
  have hy := coreY_lt h
  unfold octIdx
  omega

end

/-- The identity word, field by field (R310). -/
theorem State.cidWord_fields (s : State) {n x : Nat} (hn : n < 1024) (hx : x < 11) :
    s.cidWord n x = 0#25 ++ (s.reg Pf.fabSelf).extractLsb' 0 12 ++ BitVec.ofNat 3 (partOf n) ++ BitVec.ofNat 7 (octetOf n) ++
      BitVec.ofNat 3 (octIdx n) ++ BitVec.ofNat 4 x ++ BitVec.ofNat 5 (coreY n) ++ BitVec.ofNat 5 (coreX n) := by
  have hself : s.regF Pf.fabSelf 0 12 < 2 ^ 12 := bitsOf_lt _ _ _
  have hextract : ((s.reg Pf.fabSelf).extractLsb' 0 12).toNat = s.regF Pf.fabSelf 0 12 := by
    rw [State.regF, bitsOf, BitVec.extractLsb'_toNat, Nat.shiftRight_eq_div_pow]
  have hpart := partOf_lt hn
  have hoctet := octetOf_lt hn
  have hidx := octIdx_lt hn
  have hy := coreY_lt hn
  have hx' := coreX_lt n
  refine BitVec.eq_of_toNat_eq ?_
  simp only [toNat_append_eq_add, State.cidWord, hextract, BitVec.toNat_ofNat]
  rw [Nat.mod_eq_of_lt (a := partOf n) hpart, Nat.mod_eq_of_lt (a := octetOf n) hoctet, Nat.mod_eq_of_lt (a := octIdx n) hidx,
    Nat.mod_eq_of_lt (a := coreY n) hy, Nat.mod_eq_of_lt (a := coreX n) hx', Nat.mod_eq_of_lt (a := x) (by omega),
    Nat.mod_eq_of_lt (b := 2 ^ 64) (by omega)]
  omega

/-! ### CID and MCRD (R310, R311) -/

theorem exec_cid {d : Opnd} {m : Mods} {s : State} (hi : s.Issues (.cid d m) m) :
    exec (.cid d m) s = .next ((s.started m).wrote d ((s.started m).cidWord s.cur.1 s.cur.2)) := by
  obtain ⟨hcur, -⟩ := s.started_keeps m
  have h := runInstr_wrote hi d (fun t => t.cidWord t.cur.1 t.cur.2)
  rw [hcur] at h
  exact h

theorem exec_mcrd {d a : Opnd} {m : Mods} {s u : State} {i : Word} (hr : s.reads m .int [a] = some ([i], u))
    (hi : s.Issues (.mcrd d a m) m) : exec (.mcrd d a m) s = .next (u.wrote d (u.mcWord u.cur.1 i.toNat)) :=
  runInstr_src_wrote hi hr d (fun t v => t.mcWord t.cur.1 v.toNat)

section
variable (s : State) (n : Nat)

theorem State.getLsbD_mcWord_fenced (j : Nat) :
    (s.mcWord n 4).getLsbD j = (decide (j < 16) && s.dev.fenced.contains (partOctet (partOf n) j)) := by
  refine (BitVec.getLsbD_ofNat _ _ _).trans ?_
  rw [testBit_foldl_two_pow (fun j => s.dev.fenced.contains (partOctet (partOf n) j) = true)]
  by_cases hj : j < 16
  · simp [hj, show j < 64 by omega]
  · simp [hj]

theorem State.getLsbD_mcWord_contexts (j : Nat) :
    (s.mcWord n 5).getLsbD j = (decide (j < 11) && decide (((s.core n).ctx j).st ≠ .free)) := by
  refine (BitVec.getLsbD_ofNat _ _ _).trans ?_
  rw [testBit_foldl_two_pow (fun j => ((s.core n).ctx j).st ≠ .free)]
  by_cases hj : j < 11
  · simp [hj, show j < 64 by omega]
  · simp [hj]

theorem State.mcWord_none {i : Nat} (h : 5 < i) : s.mcWord n i = 0 := by
  obtain ⟨k, rfl⟩ : ∃ k, i = k + 6 := ⟨i - 6, by omega⟩
  rfl

end

/-! ### SRD and SWR (R312 to R314) -/

/-- Only FPSR waits, and only for vector and SFU instructions of the context. -/
theorem fpsrReady_ok {r : Sr} {t : State} (h : r = .fpsr → t.vecBusy t.cur.1 t.cur.2 = false) : fpsrReady r t = .ok ((), t) := by
  unfold fpsrReady
  by_cases hr : r = .fpsr
  · simp [h hr]
  · simp [hr]

theorem exec_srd {d : Opnd} {r : Sr} {m : Mods} {s : State} (hready : r = .fpsr → (s.started m).vecBusy s.cur.1 s.cur.2 = false)
    (hi : s.Issues (.srd d r m) m) :
    exec (.srd d r m) s = .next ((s.started m).wrote d ((s.started m).readSr s.cur.1 s.cur.2 r)) := by
  obtain ⟨hcur, -, hbegun, -⟩ := s.started_keeps m
  have hok : fpsrReady r (s.started m) = .ok ((), s.started m) := fpsrReady_ok (by rwa [hcur])
  have hdst := dst_run d ((s.started m).readSr (s.started m).cur.1 (s.started m).cur.2 r) (s.started m) (hbegun.trans hi.1)
  change execSrd d r m s = _
  rw [execSrd, runInstr_ok hi ((Sem.bind_ok hok).trans hdst), hcur, ← hcur]
  rfl

section
variable {r : Sr} {a : Opnd} {m : Mods} {s u : State} {x : Word} {act : Word → Sem Unit}
  (hready : r = .fpsr → (s.started m).vecBusy s.cur.1 s.cur.2 = false) (hr : s.reads m .int [a] = some ([x], u))
include hready hr

theorem swrBody_run : (do fpsrReady r; let v ← src a m; act v : Sem Unit) (s.started m) = act x u := by
  obtain ⟨hcur, -⟩ := s.started_keeps m
  exact (Sem.bind_ok (fpsrReady_ok (by rwa [hcur]))).trans (Sem.bind_ok (State.src_of_reads hr))

/-- The write of a special register, once the source is read. -/
theorem runInstr_swr_latched {i : Instr} {f : Ctx → Ctx} (hact : act x u = .ok ((), u.setMy (f u.my))) (hi : s.Issues i m) :
    runInstr i m s (fun _ => do fpsrReady r; let v ← src a m; act v) = .next (u.latched f) :=
  runInstr_ok hi ((swrBody_run hready hr).trans hact)

theorem runInstr_swr_raises {i : Instr} {c : BitVec 8} {f : Word} (hact : act x u = .error (.raise c f)) (hi : s.Issues i m)
    (hp : s.my.pend = []) :
    runInstr i m s (fun _ => do fpsrReady r; let v ← src a m; act v) = .next (s.raiseIn s.cur.1 s.cur.2 c f s.my.pc m.len.words) :=
  runInstr_raise hi hp ((swrBody_run hready hr).trans hact)

end

theorem check_pass {b : Bool} {c : BitVec 8} {f : Word} {g : Unit → Sem Unit} {s : State} (h : b = true) :
    (check b c f >>= g) s = g () s := by
  rw [h]; exact Sem.bind_ok (check_true c f s)

theorem check_fail {b : Bool} {c : BitVec 8} {f : Word} {g : Unit → Sem Unit} {s : State} (h : b = false) :
    (check b c f >>= g) s = .error (.raise c f) := by
  rw [h]; exact Sem.bind_error (check_false c f s)

theorem seedOf_eq (x : Word) : seedOf x = if x.extractLsb' 0 32 = 0#32 then 0x2545F491 else x.extractLsb' 0 32 := by
  have h : x.setWidth 32 = x.extractLsb' 0 32 := by ext i hi; simp
  rw [seedOf, h]

/-- Only CODE of CAUSE is written (R211). -/
theorem causeCode_eq (old x : Word) :
    (old &&& 0xFFFFFFFFFFFFFF00#64) ||| (x &&& 0xFF) = old.extractLsb' 8 56 ++ x.extractLsb' 0 8 := by
  have hmasks : ∀ i : Fin 64,
      (0xFFFFFFFFFFFFFF00#64).getLsbD i = decide (8 ≤ i.val) ∧ (0xFF : Word).getLsbD i = decide (i.val < 8) := by decide
  refine BitVec.eq_of_getLsbD_eq fun i hi => ?_
  obtain ⟨hupper, hlower⟩ := hmasks ⟨i, hi⟩
  refine Eq.trans ?_ BitVec.getLsbD_append.symm
  rw [BitVec.getLsbD_or, BitVec.getLsbD_and, BitVec.getLsbD_and, hupper, hlower, BitVec.getLsbD_extractLsb', BitVec.getLsbD_extractLsb']
  by_cases h : i < 8
  · simp [h, Nat.not_le.2 h]
  · simp [h, Nat.not_lt.1 h, show i - 8 < 56 by omega, show 8 + (i - 8) = i by omega]

/-- FPSR takes a value without reserved bits whose rounding mode is one of the six (R240). -/
theorem fpsrOk_iff (x : Word) : fpsrOk x = true ↔ x &&& 0xFFFFFFFFFFE8E0E0#64 = 0 ∧ (x.extractLsb' 16 3).toNat < 6 := by
  have hmask : ~~~fpsrMask = 0xFFFFFFFFFFE8E0E0#64 := by decide
  have hmode : (x.extractLsb' 16 3).toNat = bitsOf x 16 3 := by
    rw [bitsOf, BitVec.extractLsb'_toNat, Nat.shiftRight_eq_div_pow]
  rw [fpsrOk, hmask, hmode, Bool.and_eq_true, decide_eq_true_eq, decide_eq_true_eq]

section
variable {a : Opnd} {m : Mods} {s u : State} {x : Word} (hr : s.reads m .int [a] = some ([x], u))
include hr

/-- The registers that no program writes (R314). -/
theorem exec_swr_readOnly {r : Sr} (hro : r = .wsp ∨ r = .cyc ∨ r = .gang ∨ r = .tcbi) (hi : s.Issues (.swr r a m) m)
    (hp : s.my.pend = []) :
    exec (.swr r a m) s = .next (s.raiseIn s.cur.1 s.cur.2 0x03 (encOf (.swr r a m) m) s.my.pc m.len.words) := by
  rcases hro with rfl | rfl | rfl | rfl
  · exact runInstr_swr_raises (r := .wsp) nofun hr rfl hi hp
  · exact runInstr_swr_raises (r := .cyc) nofun hr rfl hi hp
  · exact runInstr_swr_raises (r := .gang) nofun hr rfl hi hp
  · exact runInstr_swr_raises (r := .tcbi) nofun hr rfl hi hp

theorem exec_swr_slim (h : x.toNat ≤ u.my.slim.toNat) (hi : s.Issues (.swr .slim a m) m) :
    exec (.swr .slim a m) s = .next (u.latched (fun k => { k with slim := x })) :=
  runInstr_swr_latched (r := .slim) nofun hr ((Sem.bind_ok (getMy_run u)).trans (check_pass (decide_eq_true h))) hi

theorem exec_swr_slim_above (h : u.my.slim.toNat < x.toNat) (hi : s.Issues (.swr .slim a m) m) (hp : s.my.pend = []) :
    exec (.swr .slim a m) s = .next (s.raiseIn s.cur.1 s.cur.2 0x03 (encOf (.swr .slim a m) m) s.my.pc m.len.words) :=
  runInstr_swr_raises (r := .slim) nofun hr
    ((Sem.bind_ok (getMy_run u)).trans (check_fail (decide_eq_false (Nat.not_le.2 h)))) hi hp

theorem exec_swr_tvec (h : x.extractLsb' 0 2 = 0#2) (hi : s.Issues (.swr .tvec a m) m) :
    exec (.swr .tvec a m) s = .next (u.latched (fun k => { k with tvec := x })) :=
  runInstr_swr_latched (r := .tvec) nofun hr (check_pass (decide_eq_true h)) hi

theorem exec_swr_tvec_misaligned (h : x.extractLsb' 0 2 ≠ 0#2) (hi : s.Issues (.swr .tvec a m) m) (hp : s.my.pend = []) :
    exec (.swr .tvec a m) s = .next (s.raiseIn s.cur.1 s.cur.2 0x05 x s.my.pc m.len.words) :=
  runInstr_swr_raises (r := .tvec) nofun hr (check_fail (decide_eq_false h)) hi hp

theorem exec_swr_epc (hi : s.Issues (.swr .epc a m) m) :
    exec (.swr .epc a m) s = .next (u.latched (fun k => { k with epc := x })) :=
  runInstr_swr_latched (r := .epc) nofun hr rfl hi

theorem exec_swr_faddr (hi : s.Issues (.swr .faddr a m) m) :
    exec (.swr .faddr a m) s = .next (u.latched (fun k => { k with faddr := x })) :=
  runInstr_swr_latched (r := .faddr) nofun hr rfl hi

theorem exec_swr_cause (hi : s.Issues (.swr .cause a m) m) :
    exec (.swr .cause a m) s =
      .next (u.latched (fun k => { k with cause := k.cause.extractLsb' 8 56 ++ x.extractLsb' 0 8 })) := by
  simp only [← causeCode_eq]
  exact runInstr_swr_latched (r := .cause) nofun hr rfl hi

theorem exec_swr_seed (hi : s.Issues (.swr .seed a m) m) :
    exec (.swr .seed a m) s = .next (u.latched (fun k =>
      { k with seed := if x.extractLsb' 0 32 = 0#32 then 0x2545F491 else x.extractLsb' 0 32 })) := by
  rw [← seedOf_eq]
  exact runInstr_swr_latched (r := .seed) nofun hr rfl hi

section
variable (hv : (s.started m).vecBusy s.cur.1 s.cur.2 = false)
include hv

theorem exec_swr_fpsr (h : fpsrOk x = true) (hi : s.Issues (.swr .fpsr a m) m) :
    exec (.swr .fpsr a m) s = .next (u.latched (fun k => { k with fpsr := x })) :=
  runInstr_swr_latched (r := .fpsr) (fun _ => hv) hr (check_pass h) hi

theorem exec_swr_fpsr_reserved (h : fpsrOk x = false) (hi : s.Issues (.swr .fpsr a m) m) (hp : s.my.pend = []) :
    exec (.swr .fpsr a m) s = .next (s.raiseIn s.cur.1 s.cur.2 0x02 (encOf (.swr .fpsr a m) m) s.my.pc m.len.words) :=
  runInstr_swr_raises (r := .fpsr) (fun _ => hv) hr (check_fail h) hi hp

end

end

theorem gangWord_some (g : GangRef) : gangWord (some g) = BitVec.ofNat 64 (g.x0 + g.y0 * 32 + g.lw * 1024 + g.lh * 16384) := by
  rw [gangWord]
  congr 1
  omega

/-- Settles O19: CID and MCRD give a word of the state that the reads leave, whose fields and bits are read off; SRD gives the register it
names; and SWR, once its source is read, latches one register or raises its cause. -/
theorem systemRegisters : Obligations.SystemRegisters := by
  unfold Obligations.SystemRegisters
  refine ⟨?_, ?_⟩
  · intro d a m s u i hn hx v x y die
    refine ⟨fun hi => ?_, fun hr hi => ?_⟩
    · rw [exec_cid hi, State.cidWord_fields _ hn hx]
      rfl
    · have hexec := exec_mcrd hr hi
      have hcur : u.cur = s.cur := (src_cur_begun (State.src_of_reads hr)).1.trans (s.started_keeps m).1
      refine ⟨?_, ?_, ?_, ?_, ?_, ?_, fun h => by rw [hexec, State.mcWord_none _ _ h]⟩
      · rintro rfl; exact hexec
      · rintro rfl; exact hexec
      · rintro rfl; exact hexec
      · rintro rfl; exact hexec
      · rintro rfl
        refine ⟨_, hexec, ?_⟩
        rw [hcur]
        exact State.getLsbD_mcWord_fenced u _
      · rintro rfl
        exact ⟨_, hexec, State.getLsbD_mcWord_contexts u _⟩
  · intro d a m s u x v k reads writes traps enc
    obtain ⟨hcur, hcyc, -, hgang⟩ := s.started_keeps m
    have hmy : (s.started m).ctx s.cur.1 s.cur.2 = k := by
      change _ = (s.started m).ctx (s.started m).cur.1 (s.started m).cur.2
      rw [hcur]
    have hread {r : Sr} {w : Word} (hw : (s.started m).readSr s.cur.1 s.cur.2 r = w) : reads r w := by
      intro hready hi
      rw [exec_srd hready hi, hw]
    have hg : ((s.started m).core s.cur.1).gang = s.me.gang := by
      rw [← hgang]
      change _ = ((s.started m).core (s.started m).cur.1).gang
      rw [hcur]
    refine ⟨hread (congrArg Ctx.wsp hmy), hread (congrArg Ctx.slim hmy), hread (congrArg Ctx.tvec hmy), hread (congrArg Ctx.epc hmy),
      hread (congrArg Ctx.cause hmy), hread (congrArg Ctx.faddr hmy), hread (congrArg Ctx.fpsr hmy),
      hread (congrArg (fun k : Ctx => k.seed.setWidth 64) hmy), hread (congrArg (BitVec.ofNat 64) hcyc), hread ?_, hread ?_, fun hr => ?_⟩
    · change gangWord ((s.started m).core s.cur.1).gang = _
      rw [hg]
      cases s.me.gang with
      | none => rfl
      | some g => exact gangWord_some g
    · change tcbiWord ((s.started m).core s.cur.1).gang = _
      rw [hg]
      cases s.me.gang <;> rfl
    · refine ⟨exec_swr_readOnly hr (by simp), exec_swr_readOnly hr (by simp), exec_swr_readOnly hr (by simp),
        exec_swr_readOnly hr (by simp), exec_swr_slim hr, exec_swr_slim_above hr, exec_swr_tvec hr, exec_swr_tvec_misaligned hr,
        exec_swr_epc hr, exec_swr_faddr hr,
        exec_swr_cause hr, exec_swr_seed hr, fun hv hrsv hmode => exec_swr_fpsr hr hv ((fpsrOk_iff x).2 ⟨hrsv, hmode⟩),
        fun hv hbad => exec_swr_fpsr_reserved hr hv ?_⟩
      rw [Bool.eq_false_iff, Ne, fpsrOk_iff, not_and_or, Nat.not_lt]
      exact hbad

end Sys2Proof.Machine
end

section
/-! PROOFS of the family 02_fabric: flits as a port receives them, replay and send allowances (R28 to R32, R44). -/

namespace Sys2Proof.Machine

/-! ### A sender with nothing to send (R28, R32) -/

/-- A port has no packet and no allowance to send. -/
def Port.Idle (k : Port) : Prop := k.queue = [] ∧ k.tx = [] ∧ k.owed = #v[0, 0, 0, 0]

@[simp] theorem State.pumpPort_regs (s : State) (p : Nat) : (s.pumpPort p).regs = s.regs := by
  unfold State.pumpPort; split <;> rfl

theorem State.pumpPort_port_idle {s : State} {p : Nat} (h : (s.port p).Idle) : (s.pumpPort p).port p = s.port p := by
  obtain ⟨hq, ht, ho⟩ := h
  obtain ⟨fuel, hp⟩ := s.pumpPort_port p
  rw [hp, Port.pump_idle fuel hq ht ho]

@[simp] theorem State.settle_regs (s : State) (p before : Nat) : (s.settle p before).regs = s.regs := by
  unfold State.settle
  dsimp only
  split
  · exact s.pumpPort_regs p
  · exact s.pumpPort_regs p

@[simp] theorem State.settle_reg (s : State) (p before a : Nat) : (s.settle p before).reg a = s.reg a := by
  rw [State.reg, State.settle_regs, State.reg]
@[simp] theorem State.settle_regF (s : State) (p before a lo n : Nat) : (s.settle p before).regF a lo n = s.regF a lo n := by
  rw [State.regF, State.settle_reg, State.regF]

/-- Where nothing has gone out, and nothing is to go, an idle flit does. -/
theorem State.settle_port_silent {s : State} {p before : Nat} (h : (s.port p).Idle) (ho : (s.port p).out.length = before) :
    (s.settle p before).port p = (s.port p).control [] 0 0 := by
  unfold State.settle
  dsimp only
  rw [State.pumpPort_port_idle h, if_pos ho, State.setPort_port_same]

theorem State.settle_setPort_silent (s : State) (p : Nat) {k : Port} {before : Nat} (h : k.Idle) (ho : k.out.length = before) :
    ((s.setPort p k).settle p before).port p = k.control [] 0 0 := by
  have hk : (s.setPort p k).port p = k := State.setPort_port_same ..
  rw [State.settle_port_silent (by rw [hk]; exact h) (by rw [hk]; exact ho), hk]

/-- Where something has gone out, only what is ready goes. -/
theorem State.settle_sent {s : State} {p before : Nat} (ho : ((s.pumpPort p).port p).out.length ≠ before) :
    s.settle p before = s.pumpPort p := by
  unfold State.settle
  dsimp only
  rw [if_neg ho]

/-! ### Acknowledgements (R29) -/

theorem Port.acked_upTo {k : Port} {q : BitVec 12} {e : Flit} {pre post : List (BitVec 12 × Flit)}
    (h : k.replay = pre ++ (q, e) :: post) (hpre : ∀ x ∈ pre, x.1 ≠ q) :
    k.acked q = { k with replay := post, resent := k.resent.filter (fun e => post.any (fun f => f.1.toNat = e.1)) } := by
  have hany : k.replay.any (fun e => decide (e.1 = q)) = true := by simp [h]
  have hleft : (k.replay.dropWhile (fun e => decide (e.1 ≠ q))).drop 1 = post := by
    rw [h, List.dropWhile_append_of_pos (by simpa using hpre)]
    simp
  unfold Port.acked
  rw [if_pos hany, hleft]

theorem Port.acked_none {k : Port} {q : BitVec 12} (h : ∀ x ∈ k.replay, x.1 ≠ q) : k.acked q = k := by
  have hany : k.replay.any (fun e => decide (e.1 = q)) = false := by simpa using h
  unfold Port.acked
  rw [hany, if_neg (by decide)]

/-- An acknowledgement leaves everything but the replay buffer and its counts of resends. -/
theorem Port.exists_acked (k : Port) (q : BitVec 12) : ∃ r x, k.acked q = { k with replay := r, resent := x } := by
  unfold Port.acked
  split
  · exact ⟨_, _, rfl⟩
  · exact ⟨_, _, rfl⟩

/-! ### Flits received (R28, R29, R32) -/

/-- The flits of the packet that a data flit belongs to, with that flit. -/
def Port.joined (k : Port) (f : Flit) : List Flit := AMap.getD k.asm (flitVl f) [] ++ [f]

/-- What a data flit in its turn does: it joins its lane's packet. -/
def State.joinFlit (s : State) (p : Nat) (f : Flit) : State :=
  let k := s.port p
  let s1 := s.setPort p { k with asm := AMap.set k.asm (flitVl f) (if flitLast f then [] else k.joined f) }
  if flitLast f then s1.assemble p (flitVl f) (k.joined f) else s1

/-- What a credit flit in its turn does: it adds its allowances. -/
def Port.credited (k : Port) (f : Flit) : Port :=
  k.setAllow (flitVl f) (min (laneFlits (flitVl f)) (k.allowed (flitVl f) + ofLeBytes ((flitBytes f).take 2)))

/-- What a flit of a kind does once its acknowledgement is taken. -/
def State.flitDoes (p : Nat) (f : Flit) : Nat → State → State
  | 1, s => s.joinFlit p f
  | 2, s => (s.setPort p (s.port p).naked).resend p true
  | 3, s => s.setPort p ((s.port p).credited f)
  | _, s => s

/-- The event in which a flit of a kind arrives. -/
theorem exec_rxFlit (s : State) (p : Nat) (f : Flit) {n : Nat} (hn : n < 4) :
    exec ([Instr.rxIdleFlit p f, .rxDataFlit p f, .rxNakFlit p f, .rxCreditFlit p f].getD n (.rxIdleFlit p f)) s =
      .next ((s.rxFlit p n f (State.flitDoes p f n)).getD s) := by
  match n, hn with
  | 0, _ => rfl
  | 1, _ => rfl
  | 2, _ => rfl
  | 3, _ => rfl

/-- The kind of a good flit is one of the four. -/
theorem flitKind_lt {f : Flit} (h : flitGood f = true) : flitKind f < 4 := by
  simp only [flitGood, Bool.and_eq_true, decide_eq_true_eq] at h
  exact h.2

section
variable {s : State} {p : Nat} {f : Flit} (hup : s.portUp p = true)
include hup

theorem State.rxFlit_bad (n : Nat) (act : State → State) (hbad : flitGood f = false) : s.rxFlit p n f act = some (s.badFlit p) := by
  unfold State.rxFlit
  simp [hup, hbad]

variable {n : Nat} (act : State → State) (hgood : flitGood f = true) (hkind : flitKind f = n)
include hgood hkind

/-- While flits are dropped, a flit that is not the one waited for does nothing. -/
theorem State.rxFlit_dropped (hd : (s.port p).dropping = true) (hnot : ¬ ((n = 1 ∨ n = 3) ∧ flitSeq f = (s.port p).rxGood + 1)) :
    s.rxFlit p n f act = some (s.settle p (s.port p).out.length) := by
  unfold State.rxFlit
  dsimp only
  rw [if_neg (by simp [hup]), if_neg (by simp [hgood]), if_neg (by simp [hkind]), if_pos ⟨hd, hnot⟩]

/-- A numbered flit out of its turn does no more than acknowledge. -/
theorem State.rxFlit_outOfTurn (hd : (s.port p).dropping = false) (hn : n = 1 ∨ n = 3) (hturn : flitSeq f ≠ (s.port p).rxGood + 1) :
    s.rxFlit p n f act = some ((s.setPort p ((s.port p).acked (flitAck f))).settle p (s.port p).out.length) := by
  unfold State.rxFlit
  dsimp only
  rw [if_neg (by simp [hup]), if_neg (by simp [hgood]), if_neg (by simp [hkind]), if_neg (by simp [hd]), if_pos hn, if_neg hturn]

/-- A numbered flit in its turn is the last good one, and does what its kind says. -/
theorem State.rxFlit_inTurn (hn : n = 1 ∨ n = 3) (hturn : flitSeq f = (s.port p).rxGood + 1) :
    s.rxFlit p n f act =
      some ((act (s.setPort p (((s.port p).acked (flitAck f)).took f))).settle p (s.port p).out.length) := by
  unfold State.rxFlit
  dsimp only
  rw [if_neg (by simp [hup]), if_neg (by simp [hgood]), if_neg (by simp [hkind]), if_neg (fun h => h.2 ⟨hn, hturn⟩), if_pos hn,
    if_pos hturn]

/-- A flit without a number does what its kind says. -/
theorem State.rxFlit_control (hd : (s.port p).dropping = false) (hn : ¬ (n = 1 ∨ n = 3)) :
    s.rxFlit p n f act = some ((act (s.setPort p ((s.port p).acked (flitAck f)))).settle p (s.port p).out.length) := by
  unfold State.rxFlit
  dsimp only
  rw [if_neg (by simp [hup]), if_neg (by simp [hgood]), if_neg (by simp [hkind]), if_neg (by simp [hd]), if_neg hn]

end

/-! ### Counters and credits of a port (R30, R32, R44) -/

@[simp] theorem State.portCount_port (s : State) (p off lo k q : Nat) : (s.portCount p off lo k).port q = s.port q := rfl
@[simp] theorem State.portCount_ports (s : State) (p off lo k : Nat) : (s.portCount p off lo k).ports = s.ports := rfl

theorem State.portCount_regF (s : State) (p off k : Nat) {lo : Nat} (h : lo + 16 ≤ 64) :
    (s.portCount p off lo k).regF (Pf.port p off) lo 16 = min (s.regF (Pf.port p off) lo 16 + k) 0xFFFF := by
  rw [State.portCount, State.regF_setRegF_same _ _ _ h]
  exact Nat.mod_eq_of_lt (by omega)

/-- A field written with what it holds. -/
theorem State.setRegF_self (s : State) (a : Nat) {lo n : Nat} (h : lo + n ≤ 64) (c : Nat) :
    (s.setRegF a lo n (s.regF a lo n)).reg c = s.reg c := by
  by_cases hc : c = a
  · subst hc
    refine BitVec.eq_of_getLsbD_eq fun j hj => ?_
    rw [State.getLsbD_setRegF _ _ _ h]
    split
    next hin =>
      rw [State.regF, testBit_bitsOf, show lo + (j - lo) = j by omega, decide_eq_true (by omega), Bool.true_and]
    next => rfl
  · exact State.setRegF_reg_other _ _ _ _ _ hc

theorem State.portCount_zero (s : State) (p off : Nat) {lo : Nat} (h : lo + 16 ≤ 64) (c : Nat) :
    (s.portCount p off lo 0).reg c = s.reg c := by
  have hlt : s.regF (Pf.port p off) lo 16 < 2 ^ 16 := bitsOf_lt _ _ _
  unfold State.portCount
  dsimp only
  rw [Nat.add_zero, Nat.min_eq_left (by omega)]
  exact State.setRegF_self s _ h c

/-! ### What the sender does to its port (R29, R32) -/

/-- What the sender makes of a port, if each flit that it sends keeps it. -/
theorem Port.pump_induct {P : Port → Prop} (hcredit : ∀ (k : Port) (v : Nat), P k → P (k.sendCredit v))
    (hdata : ∀ (k : Port) (q : Packet) (i : Nat), k.nextData = some (q, i) → P k → P (k.sendData q i)) (fuel : Nat) {k : Port} (h : P k) :
    P (k.pump fuel) := by
  induction fuel generalizing k with
  | zero => exact h
  | succ fuel ih =>
    unfold Port.pump
    split
    · exact h
    · split
      · exact ih (hcredit _ _ h)
      · split
        next hnext => exact ih (hdata _ _ _ hnext h)
        next => exact h

/-- The sender leaves the port's receiver alone. -/
def Port.SameReceiver (j k : Port) : Prop := k.rxGood = j.rxGood ∧ k.dropping = j.dropping ∧ k.asm = j.asm ∧ k.rxq = j.rxq

theorem Port.pump_sameReceiver (fuel : Nat) (k : Port) : k.SameReceiver (k.pump fuel) :=
  Port.pump_induct (P := k.SameReceiver) (fun _ _ h => h) (fun _ _ _ _ h => h) fuel ⟨rfl, rfl, rfl, rfl⟩

theorem State.pumpPort_sameReceiver (s : State) (p : Nat) : (s.port p).SameReceiver ((s.pumpPort p).port p) := by
  obtain ⟨fuel, h⟩ := s.pumpPort_port p
  rw [h]
  exact Port.pump_sameReceiver fuel _

theorem State.settle_sameReceiver (s : State) (p before : Nat) : (s.port p).SameReceiver ((s.settle p before).port p) := by
  unfold State.settle
  dsimp only
  split
  · rw [State.setPort_port_same]
    exact s.pumpPort_sameReceiver p
  · exact s.pumpPort_sameReceiver p

/-- With 512 flits in the replay buffer none goes (R29). -/
theorem Port.pump_full (fuel : Nat) {k : Port} (h : 512 ≤ k.replay.length) : k.pump fuel = k := by
  cases fuel with
  | zero => rfl
  | succ fuel => rw [Port.pump, if_pos h]

theorem Port.owed_find_none {k : Port} (h : k.owed = #v[0, 0, 0, 0]) :
    (List.range 4).find? (fun v => k.owed.toList.getD v 0 ≠ 0) = none := by rw [h]; decide

/-- A port that owes the allowances of one lane, and has room, sends them in a credit flit. -/
theorem Port.pump_owing (fuel : Nat) {k : Port} {v n : Nat} (hk : k.Idle) (hv : v < 4) (hn : n ≠ 0) (hr : k.replay.length < 512) :
    ({ k with owed := k.owed.set v n } : Port).pump (fuel + 1) = k.give (leBytes 2 n) true v 3 := by
  obtain ⟨hq, ht, ho⟩ := hk
  have hfind : (List.range 4).find? (fun w => (k.owed.set v n).toList.getD w 0 ≠ 0) = some v ∧ (k.owed.set v n).toList.getD v 0 = n ∧
      (k.owed.set v n).set v 0 = k.owed := by
    rw [ho]
    match v, hv with
    | 0, _ => simp [List.range, List.range.loop, hn]
    | 1, _ => simp [List.range, List.range.loop, hn]
    | 2, _ => simp [List.range, List.range.loop, hn]
    | 3, _ => simp [List.range, List.range.loop, hn]
  obtain ⟨hfind, hget, hset⟩ := hfind
  have hsent : ({ k with owed := k.owed.set v n } : Port).sendCredit v = k.give (leBytes 2 n) true v 3 := by
    unfold Port.sendCredit
    simp only [dif_pos hv, hget, hset]
    rfl
  rw [Port.pump, if_neg (by simpa using hr)]
  dsimp only
  rw [hfind]
  dsimp only
  rw [hsent]
  exact Port.pump_idle fuel hq ht ho

/-! ### The kinds of flit -/

theorem flitVl_lt (f : Flit) : flitVl f < 4 := bitsOf_lt _ _ _

/-- The port when a lane has no packet that is arriving. -/
def Port.emptied (k : Port) (f : Flit) : Port := { k with asm := AMap.set k.asm (flitVl f) [] }

section
variable {s : State} {p : Nat} {f : Flit}

/-- A data flit that is not its packet's last waits for the rest. -/
theorem State.joinFlit_more (h : flitLast f = false) :
    s.joinFlit p f = s.setPort p { s.port p with asm := AMap.set (s.port p).asm (flitVl f) ((s.port p).joined f) } := by
  unfold State.joinFlit
  rw [h]
  rfl

variable (h : flitLast f = true)
include h

theorem State.joinFlit_last :
    s.joinFlit p f = (s.setPort p ((s.port p).emptied f)).assemble p (flitVl f) ((s.port p).joined f) := by
  unfold State.joinFlit
  rw [h]
  rfl

/-- The last flit of a packet makes it whole. -/
theorem State.joinFlit_whole (hok : (packetOf ((s.port p).joined f)).headerOk ((s.port p).joined f).length = true) :
    (s.joinFlit p f).port p = { (s.port p).emptied f with rxq := (s.port p).rxq ++ [packetOf ((s.port p).joined f)] } := by
  rw [State.joinFlit_last h, State.assemble]
  dsimp only
  rw [if_pos hok, State.setPort_port_same, State.setPort_port_same]
  rfl

/-- A packet with a bad header is counted, and its allowances are owed. -/
theorem State.joinFlit_bad (hbad : (packetOf ((s.port p).joined f)).headerOk ((s.port p).joined f).length = false) :
    s.joinFlit p f = ((s.setPort p ((s.port p).emptied f)).portCount p 0x020 16 1).giveBack p (flitVl f)
      ((s.port p).joined f).length := by
  rw [State.joinFlit_last h, State.assemble]
  dsimp only
  rw [hbad, if_neg (by decide)]

end

theorem State.flitDoes_nak (s : State) (p : Nat) (f : Flit) :
    State.flitDoes p f 2 s = (s.setPort p (s.port p).naked |>.setPort p (s.port p).naked.resend).portCount p 0x018 16 (s.port p).replay.length := by
  simp [State.flitDoes, State.resend, Port.naked]

theorem State.flitDoes_credit (s : State) (p : Nat) (f : Flit) : State.flitDoes p f 3 s = s.setPort p ((s.port p).credited f) := rfl

/-- What a port owes for a lane from which flits have been taken. -/
theorem State.giveBack_port_idle {s : State} {p v : Nat} (n : Nat) (hv : v < 4) (hk : (s.port p).Idle) :
    (s.giveBack p v n).port p = { s.port p with owed := (s.port p).owed.set v n } := by
  have h0 : (s.port p).owed[v] = 0 := by
    obtain ⟨-, -, ho⟩ := hk
    simp only [ho]
    match v, hv with
    | 0, _ => rfl
    | 1, _ => rfl
    | 2, _ => rfl
    | 3, _ => rfl
  unfold State.giveBack
  dsimp only
  rw [State.setPort_port_same, dif_pos hv, h0, Nat.zero_add]

theorem Port.Idle.credited {k : Port} (h : k.Idle) (f : Flit) : (k.credited f).Idle := h

theorem Port.credited_allow (k : Port) (f : Flit) (w : Fin 4) :
    (k.credited f).allow.get w = if w.val = flitVl f then
      min (laneFlits (flitVl f)) (k.allow.get w + ofLeBytes ((flitBytes f).take 2)) else k.allow.get w := by
  have hv := flitVl_lt f
  unfold Port.credited Port.setAllow Port.allowed
  generalize flitVl f = v at *
  rw [dif_pos hv]
  simp only [Vector.get_eq_getElem, Vector.getElem_set, List.getD_eq_getElem?_getD]
  by_cases hw : w.val = v
  · subst hw
    simp
  · simp [hw, Ne.symm hw]


/-- The allowances of a packet that is dropped go back in a credit flit, where the replay buffer has room (R29, R32). -/
theorem State.settle_giveBack_out {s : State} {p v n before : Nat} (hup : s.portUp p = true) (hk : (s.port p).Idle) (hv : v < 4) (hn : n ≠ 0)
    (hr : (s.port p).replay.length < 512) (ho : (s.port p).out.length = before) :
    (((s.giveBack p v n).settle p before).port p).out =
      (s.port p).out ++ [mkFlit (leBytes 2 n) true v 3 (s.port p).rxGood (s.port p).txSeq] := by
  have hpump : ((s.giveBack p v n).pumpPort p).port p = (s.port p).give (leBytes 2 n) true v 3 := by
    unfold State.pumpPort
    have hup' : (s.giveBack p v n).portUp p = true := hup
    dsimp only
    rw [if_pos hup', State.setPort_port_same, State.giveBack_port_idle n hv hk]
    exact Port.pump_owing _ hk hv hn hr
  rw [State.settle_sent]
  · rw [hpump]
    rfl
  · rw [hpump]
    simp [Port.give, ho]

/-- What joins its lane's packet is the lane's alone. -/
theorem State.joinFlit_receiver (s : State) (p : Nat) (f : Flit) :
    ((s.joinFlit p f).port p).rxGood = (s.port p).rxGood ∧ ((s.joinFlit p f).port p).dropping = (s.port p).dropping ∧
      ((s.joinFlit p f).port p).asm = AMap.set (s.port p).asm (flitVl f) (if flitLast f then [] else (s.port p).joined f) := by
  cases h : flitLast f with
  | false =>
    rw [State.joinFlit_more h, State.setPort_port_same]
    exact ⟨rfl, rfl, rfl⟩
  | true =>
    cases hok : (packetOf ((s.port p).joined f)).headerOk ((s.port p).joined f).length with
    | true =>
      rw [State.joinFlit_whole h hok]
      exact ⟨rfl, rfl, rfl⟩
    | false =>
      rw [State.joinFlit_bad h hok, State.giveBack]
      simp [Port.emptied]

/-- What is left once a data flit in its turn has joined its packet, and the port has settled. -/
def State.dataTaken (s : State) (p : Nat) (f : Flit) : State := (s.joinFlit p f).settle p (s.port p).out.length

section
variable {s : State} {p : Nat} {f : Flit}

theorem State.dataTaken_receiver :
    ((s.dataTaken p f).port p).rxGood = (s.port p).rxGood ∧ ((s.dataTaken p f).port p).dropping = (s.port p).dropping ∧
      ((s.dataTaken p f).port p).asm = AMap.set (s.port p).asm (flitVl f) (if flitLast f then [] else (s.port p).joined f) := by
  obtain ⟨hgood, hdrop, hasm⟩ := s.joinFlit_receiver p f
  obtain ⟨hgood', hdrop', hasm', -⟩ := (s.joinFlit p f).settle_sameReceiver p (s.port p).out.length
  exact ⟨hgood'.trans hgood, hdrop'.trans hdrop, hasm'.trans hasm⟩

theorem State.dataTaken_silent {j : Port} (hj : (s.joinFlit p f).port p = j) (hidle : j.Idle) (hout : j.out = (s.port p).out) :
    (s.dataTaken p f).port p = j.control [] 0 0 := by
  subst hj
  exact State.settle_port_silent hidle (by rw [hout])

variable (hk : (s.port p).Idle)
include hk

theorem State.dataTaken_more (h : flitLast f = false) :
    ((s.dataTaken p f).port p).rxq = (s.port p).rxq ∧ ((s.dataTaken p f).port p).replay = (s.port p).replay ∧
      ((s.dataTaken p f).port p).out = (s.port p).out ++ [mkFlit [] true 0 0 (s.port p).rxGood 0] := by
  rw [State.dataTaken_silent (congrArg (State.port · p) (State.joinFlit_more h)) (by rw [State.setPort_port_same]; exact hk)
    (by rw [State.setPort_port_same]), State.setPort_port_same]
  exact ⟨rfl, rfl, rfl⟩

variable (h : flitLast f = true)
include h

theorem State.dataTaken_whole (hok : (packetOf ((s.port p).joined f)).headerOk ((s.port p).joined f).length = true) :
    ((s.dataTaken p f).port p).rxq = (s.port p).rxq ++ [packetOf ((s.port p).joined f)] ∧
      ((s.dataTaken p f).port p).replay = (s.port p).replay ∧
      ((s.dataTaken p f).port p).out = (s.port p).out ++ [mkFlit [] true 0 0 (s.port p).rxGood 0] := by
  rw [State.dataTaken_silent (State.joinFlit_whole h hok) hk rfl]
  exact ⟨rfl, rfl, rfl⟩

theorem State.dataTaken_bad (hup : s.portUp p = true)
    (hbad : (packetOf ((s.port p).joined f)).headerOk ((s.port p).joined f).length = false) :
    ((s.dataTaken p f).port p).rxq = (s.port p).rxq ∧
      (s.dataTaken p f).regF (Pf.port p 0x020) 16 16 = min (s.regF (Pf.port p 0x020) 16 16 + 1) 0xFFFF ∧
      ((s.port p).replay.length < 512 → ((s.dataTaken p f).port p).out = (s.port p).out ++
        [mkFlit (leBytes 2 ((s.port p).joined f).length) true (flitVl f) 3 (s.port p).rxGood (s.port p).txSeq]) := by
  let u := (s.setPort p ((s.port p).emptied f)).portCount p 0x020 16 1
  have hu : u.port p = (s.port p).emptied f := State.setPort_port_same ..
  have hup' : u.portUp p = true := by
    simpa [State.portUp, u, State.portCount] using hup
  unfold State.dataTaken
  rw [State.joinFlit_bad h hbad]
  refine ⟨?_, ?_, fun hroom => ?_⟩
  · obtain ⟨-, -, -, hrxq⟩ := (u.giveBack p (flitVl f) ((s.port p).joined f).length).settle_sameReceiver p (s.port p).out.length
    rw [hrxq]
    simp [State.giveBack, hu, Port.emptied]
  · rw [State.settle_regF]
    exact State.portCount_regF (s.setPort p ((s.port p).emptied f)) p 0x020 1 (lo := 16) (by decide)
  · rw [State.settle_giveBack_out hup' (by rw [hu]; exact hk) (flitVl_lt f) (by simp [Port.joined]) (by rw [hu]; exact hroom)
      (by rw [hu]; rfl), hu]
    rfl

end

/-- Settles O55: each event is reduced to `State.rxFlit` and that to its branch; what the branch does and the settling after it are read
off the port. -/
theorem flitsAreReceived : Obligations.FlitsAreReceived := by
  unfold Obligations.FlitsAreReceived
  intro s p f hup hq ht ho k a v idle cnt is of turn
  have hidle : k.Idle := ⟨hq, ht, ho⟩
  obtain ⟨r, x, ha⟩ : ∃ r x, a = { k with replay := r, resent := x } := k.exists_acked (flitAck f)
  have haidle : a.Idle := by rw [ha]; exact hidle
  have haout : a.out = k.out := by rw [ha]
  have hasm : a.asm = k.asm := by rw [ha]
  obtain ⟨hrxGood, hrxq, htxSeq, hallow⟩ : a.rxGood = k.rxGood ∧ a.rxq = k.rxq ∧ a.txSeq = k.txSeq ∧ a.allow = k.allow := by rw [ha]; exact ⟨rfl, rfl, rfl, rfl⟩
  have hrun {n : Nat} {t : State} (hn : n < 4) (h : s.rxFlit p n f (State.flitDoes p f n) = some t) : exec (of n) s = .next t :=
    (exec_rxFlit s p f hn).trans (by rw [h]; rfl)
  refine ⟨fun pre post e => Port.acked_upTo, Port.acked_none, fun hbad n hn => ?bad, fun hd n hn hi hnot => ?dropped,
    fun hd n hn hi hturn => ?outOfTurn, fun hi hturn => ?data, fun hd hi e rest hr => ?nak, fun hd hi hr => ?nakEmpty, fun hout => ?idle,
    fun hi hturn => ?credit, fun hd hi => ?idleFlit⟩
  case bad =>
    refine ⟨_, hrun hn (State.rxFlit_bad hup n _ hbad), State.portCount_regF s p 0x018 1 (lo := 0) (by decide), ?_⟩
    simp [State.badFlit, Port.control, k]
  case dropped =>
    exact ⟨_, hrun hn (State.rxFlit_dropped hup _ hi.1 hi.2 hd hnot), State.settle_port_silent hidle rfl, State.settle_regs _ _ _⟩
  case outOfTurn =>
    refine ⟨_, hrun (by omega) (State.rxFlit_outOfTurn hup _ hi.1 hi.2 hd hn hturn), ?_, State.settle_regs _ _ _⟩
    rw [State.settle_setPort_silent s p haidle (by rw [haout]), Port.control, haout, hrxGood]
  case data =>
    intro fs
    obtain ⟨u, hu⟩ : ∃ u, u = s.setPort p (a.took f) := ⟨_, rfl⟩
    have hport : u.port p = a.took f := by rw [hu, State.setPort_port_same]
    have hidle' : (u.port p).Idle := by rw [hport]; exact haidle
    have hfs : (u.port p).joined f = fs := by rw [hport]; exact congrArg (fun m => AMap.getD m v [] ++ [f]) hasm
    have hlen : (u.port p).out.length = k.out.length := by rw [hport, ← haout]; rfl
    have hexec : exec (.rxDataFlit p f) s = .next (u.dataTaken p f) := by
      rw [State.dataTaken, hlen, hu]
      exact hrun (n := 1) (by decide) (State.rxFlit_inTurn hup _ hi.1 hi.2 (.inl rfl) hturn)
    obtain ⟨hgood, hdrop, hjoin⟩ := State.dataTaken_receiver (s := u) (p := p) (f := f)
    rw [hfs] at hjoin
    rw [hport] at hgood hdrop hjoin
    refine ⟨_, hexec, hgood, hdrop, fun w hw => ?_, fun hmore => ⟨?_, ?_⟩, fun hlast => ⟨?_, fun hok => ?_, fun hbad => ?_⟩⟩
    · rw [hjoin, AMap.getD_set_other _ _ _ hw, ← hasm]; rfl
    · rw [hjoin, AMap.getD_set_same, hmore]; rfl
    · have h := State.dataTaken_more hidle' hmore
      rwa [hport, Port.took, haout, hrxq] at h
    · rw [hjoin, AMap.getD_set_same, hlast]; rfl
    · have h := State.dataTaken_whole hidle' hlast (by rw [hfs]; exact hok)
      rwa [hfs, hport, Port.took, haout, hrxq] at h
    · have h := State.dataTaken_bad hidle' hlast (by rw [hu]; exact hup) (by rw [hfs]; exact hbad)
      rw [hfs, hport, Port.took, haout, hrxq, htxSeq] at h
      rw [hu] at h ⊢
      exact h
  case nak =>
    have hport : (State.flitDoes p f 2 (s.setPort p a)).port p = a.naked.resend := by
      rw [State.flitDoes_nak, State.portCount_port, State.setPort_port_same, State.setPort_port_same]
    have hpump := State.pumpPort_port_idle (s := State.flitDoes p f 2 (s.setPort p a)) (p := p) (by rw [hport]; exact haidle)
    have hsettle : ((State.flitDoes p f 2 (s.setPort p a)).settle p k.out.length) = (State.flitDoes p f 2 (s.setPort p a)).pumpPort p := by
      refine State.settle_sent ?_
      rw [hpump, hport]
      simp [Port.resend, Port.naked, haout, hr]
    refine ⟨_, hrun (by decide) (State.rxFlit_control hup _ hi.1 hi.2 hd (by decide)), ?_, ?_⟩
    · refine (State.settle_regF ..).trans ?_
      rw [State.flitDoes_nak, State.setPort_port_same]
      exact State.portCount_regF _ p 0x018 _ (lo := 16) (by decide)
    · refine (congrArg (State.port · p) hsettle).trans ?_
      rw [hpump, hport, ← haout]
      rfl
  case nakEmpty =>
    have hport : (State.flitDoes p f 2 (s.setPort p a)).port p = { a with resent := [] } := by
      rw [State.flitDoes_nak, State.portCount_port, State.setPort_port_same, State.setPort_port_same]
      simp [Port.naked, Port.resend, hr]
    refine ⟨_, hrun (by decide) (State.rxFlit_control hup _ hi.1 hi.2 hd (by decide)), ?_, fun c => ?_⟩
    · refine (State.settle_port_silent ?_ ?_).trans ?_
      · rw [hport]; exact haidle
      · rw [hport, ← haout]
      · rw [hport, Port.control, ← haout, hrxGood]
    · refine (State.settle_reg ..).trans ?_
      rw [State.flitDoes_nak, State.setPort_port_same, hr]
      exact State.portCount_zero _ p 0x018 (lo := 16) (by decide) c
  case idle =>
    unfold State.idleFlit
    rw [hup, Bool.true_and, if_pos (by simpa using hout), State.setPort_port_same, Port.control, hout]
    rfl
  case credit =>
    refine ⟨_, hrun (by decide) (State.rxFlit_inTurn hup _ hi.1 hi.2 (.inr rfl) hturn), State.settle_regs _ _ _, ?_⟩
    have hport : ((State.flitDoes p f 3 (s.setPort p (a.took f))).settle p k.out.length).port p = ((a.took f).credited f).control [] 0 0 := by
      rw [State.flitDoes_credit, State.setPort_port_same, State.settle_setPort_silent]
      · exact haidle
      · rw [← haout]; rfl
    refine ⟨?_, ?_, ?_, fun w => ?_⟩
    · exact (congrArg Port.replay hport).trans rfl
    · exact (congrArg Port.rxGood hport).trans rfl
    · exact (congrArg Port.out hport).trans (by rw [← haout]; rfl)
    · refine (congrArg (fun j : Port => j.allow.get w) hport).trans ?_
      refine ((a.took f).credited_allow f w).trans ?_
      rw [Port.took, hallow]
  case idleFlit =>
    refine ⟨_, hrun (by decide) (State.rxFlit_control hup _ hi.1 hi.2 hd (by decide)), State.settle_regs _ _ _, ?_⟩
    exact (State.settle_setPort_silent s p haidle (by rw [haout])).trans (by rw [Port.control, haout, hrxGood])

end Sys2Proof.Machine
end

section
/-! PROOFS of the family 02_fabric: what the other operations of the device leave of ports, flows and the registers of ports. -/

namespace Sys2Proof.Machine

/-! ### Where registers lie (R43) -/

theorem Pf.le_hub (d off : Nat) : 0x200000 ≤ Pf.hub d off := by unfold Pf.hub; omega
theorem Pf.le_mmuWalk (p : Nat) : 0x200000 ≤ Pf.mmuWalk p := by unfold Pf.mmuWalk; omega
theorem Pf.le_fxStat (p : Nat) : 0x200000 ≤ Pf.fxStat p := by unfold Pf.fxStat; omega
theorem Pf.port_lt {p off : Nat} (hp : p < 64) (ho : off < 0x400) : Pf.port p off < 0x200000 := by unfold Pf.port; omega

/-! ### What the rest of the device leaves of the fabric -/

/-- From a state to another the ports, the flows and the registers of the ports are the same. -/
structure State.SameFabric (s t : State) : Prop where
  ports : t.ports = s.ports
  flows : t.dev.flows = s.dev.flows
  regs : ∀ a, a < 0x200000 → t.reg a = s.reg a

namespace State.SameFabric

theorem refl (s : State) : s.SameFabric s := ⟨rfl, rfl, fun _ _ => rfl⟩

variable {s₀ s : State}

theorem ite {c : Prop} [Decidable c] {t : State} (hs : s₀.SameFabric s) (ht : s₀.SameFabric t) : s₀.SameFabric (if c then s else t) := by
  split
  · exact hs
  · exact ht

/-- An update of something that holds a state, step by step. -/
theorem foldl_on {σ α : Type} (π : σ → State) {f : σ → α → σ} (hf : ∀ x a, s₀.SameFabric (π x) → s₀.SameFabric (π (f x a))) (l : List α) {x : σ}
    (h : s₀.SameFabric (π x)) : s₀.SameFabric (π (l.foldl f x)) := by
  induction l generalizing x with
  | nil => exact h
  | cons a l ih => exact ih (hf x a h)

theorem foldl {α : Type} {f : State → α → State} (hf : ∀ s a, s₀.SameFabric s → s₀.SameFabric (f s a)) (l : List α) (h : s₀.SameFabric s) :
    s₀.SameFabric (l.foldl f s) := foldl_on id hf l h

theorem of_fst {α : Type} {p : State × α} {a : α} (h : s₀.SameFabric p.1) (e : p = (s, a)) : s₀.SameFabric s := by
  subst e; exact h
theorem of_snd {α : Type} {p : α × State} {a : α} (h : s₀.SameFabric p.2) (e : p = (a, s)) : s₀.SameFabric s := by
  subst e; exact h
theorem of_some {o : Option State} (h : ∀ t, o = some t → s₀.SameFabric t) (e : o = some s) : s₀.SameFabric s := h s e

variable (h : s₀.SameFabric s)
include h

theorem port (p : Nat) : s.port p = s₀.port p := by rw [State.port, h.ports, State.port]
theorem flow (dev vl : Nat) : s.flow dev vl = s₀.flow dev vl := by rw [State.flow, h.flows, State.flow]

/-- Another field of the state. -/
theorem of_fields {t : State} (hp : t.ports = s.ports) (hf : t.dev.flows = s.dev.flows) (hr : t.regs = s.regs) : s₀.SameFabric t :=
  ⟨hp.trans h.ports, hf.trans h.flows, fun a ha => by rw [State.reg, hr]; exact h.regs a ha⟩

/-! #### Named updates -/

theorem setReg {a : Nat} (v : Word) (ha : 0x200000 ≤ a) : s₀.SameFabric (s.setReg a v) :=
  ⟨h.ports, h.flows, fun b hb => (State.setReg_reg_other _ _ _ (by omega)).trans (h.regs b hb)⟩

theorem setRegF {a : Nat} (lo n v : Nat) (ha : 0x200000 ≤ a) : s₀.SameFabric (s.setRegF a lo n v) := h.setReg _ ha

theorem setCore {n : Nat} {c : Core} : s₀.SameFabric (s.setCore n c) := h.of_fields rfl rfl rfl
theorem setOctet {n : Nat} {o : Octet} : s₀.SameFabric (s.setOctet n o) := h.of_fields rfl rfl rfl
theorem setDie {n : Nat} {d : Die} : s₀.SameFabric (s.setDie n d) := h.of_fields rfl rfl rfl
theorem setPart {n : Nat} {p : Part} : s₀.SameFabric (s.setPart n p) := h.of_fields rfl rfl rfl
theorem setHub {n : Nat} {u : Hub} : s₀.SameFabric (s.setHub n u) := h.of_fields rfl rfl rfl
theorem pilotEvent {kind : Nat} {a b : Word} : s₀.SameFabric (s.pilotEvent kind a b) := h.of_fields rfl rfl rfl
theorem report {kind : Nat} {a b : Word} : s₀.SameFabric (s.report kind a b) := h.of_fields rfl rfl rfl
theorem fly {a : Access} : s₀.SameFabric (s.fly a) := h.of_fields rfl rfl rfl
theorem post {m : NocMsg} {after : List Nat} {dist : Nat} : s₀.SameFabric (s.post m after dist) := h.of_fields rfl rfl rfl
theorem retire {id : Nat} : s₀.SameFabric (s.retire id) := h.of_fields rfl rfl rfl

/-! #### HBM, the L2 and walks (R134 to R147) -/

theorem hbmPut {pa : Nat} {v : Line} {under : Option (BitVec 512)} : s₀.SameFabric (s.hbmPut pa v under) := by
  refine h.of_fields ?_ ?_ ?_
  all_goals dsimp only [State.hbmPut]

theorem countCorrected {l : Nat} : s₀.SameFabric (s.countCorrected l) := by
  unfold State.countCorrected
  exact .ite h (h.of_fields rfl rfl rfl)

theorem eccEvent {pa : Nat} : s₀.SameFabric (s.eccEvent pa) := h.report

theorem l2Evict {l : L2Line} : s₀.SameFabric (s.l2Evict l) := by
  unfold State.l2Evict
  exact .ite h.hbmPut h

theorem l2Put {l : L2Line} : s₀.SameFabric (s.l2Put l) := by
  unfold State.l2Put
  extract_lets
  split
  · exact h.setDie
  · exact h.l2Evict.setDie

theorem l2Fill {pa : Nat} {key : Option Nat} : s₀.SameFabric (s.l2Fill pa key) := by
  unfold State.l2Fill
  exact .ite h h.countCorrected.l2Put

theorem l2Write {pa : Nat} {key : Option Nat} {data : Line} {mask : BitVec 64} : s₀.SameFabric (s.l2Write pa key data mask) := by
  unfold State.l2Write
  exact .ite (h.of_fields rfl rfl rfl) (l2Put (.ite h.countCorrected h))

theorem paWrite {key : Option Nat} {pa : Nat} {bs : List Byte} : s₀.SameFabric (s.paWrite key pa bs) := by
  induction bs generalizing s pa with
  | nil => exact h
  | cons b bs ih => exact ih h.l2Write

theorem l2Reads {key : Option Nat} {ls : List Nat} : s₀.SameFabric (s.l2Reads key ls) := foldl (fun _ _ h => h.l2Fill) ls h

theorem walkReads {part va : Nat} : s₀.SameFabric (s.walkReads part va) := h.l2Reads

theorem zeroFill {t : TlbEnt} {entry : Nat} : s₀.SameFabric (s.zeroFill t entry) := by
  unfold State.zeroFill
  extract_lets _ _ s1 s2
  have hs2 : s₀.SameFabric s2 := h.of_fields (t := s2) rfl rfl rfl
  exact hs2.paWrite

theorem recordBad {part level reason entry : Nat} : s₀.SameFabric (s.recordBad part level reason entry) := by
  unfold State.recordBad
  exact .ite h (h.setReg _ (Pf.le_mmuWalk _))

theorem tlbInstall {n : Nat} {t : TlbEnt} : s₀.SameFabric (s.tlbInstall n t) := by
  unfold State.tlbInstall
  exact h.setDie.setOctet.setCore

theorem setWalk {d id : Nat} {w : Option Walk} : s₀.SameFabric (s.setWalk d id w) := h.setDie
theorem walkFails {id page : Nat} {c : BitVec 8} : s₀.SameFabric (s.walkFails id page c) := h.of_fields rfl rfl rfl

theorem endWalk {d : Nat} {w : Walk} : s₀.SameFabric (s.endWalk d w) := by
  unfold State.endWalk
  extract_lets t _
  have ht : s₀.SameFabric t := h.walkReads
  split
  · exact (foldl (fun _ _ h => h.tlbInstall) _ (.ite ht.zeroFill ht)).tlbInstall.setWalk.retire
  · exact ht.walkFails.setWalk.retire
  · exact ht.recordBad.walkFails.setWalk.retire
  · exact ht.walkFails.setWalk.retire

theorem xlateNow {n root va : Nat} : s₀.SameFabric (s.xlateNow n root va).2 := by
  unfold State.xlateNow
  split
  · exact h
  · extract_lets _ s1
    have hs1 : s₀.SameFabric s1 := by
      refine walkReads ?_
      split
      · exact h.endWalk
      · exact .ite h.endWalk h
      · exact h
    split
    · exact tlbInstall (.ite hs1.zeroFill hs1)
    · exact hs1
    · exact hs1.recordBad
    · exact hs1

/-! #### Accesses of engines (R142, R146) and folds (R17) -/

theorem engPlace {n a sz : Nat} {p : Perm} {store fold ctx : Bool} : s₀.SameFabric (s.engPlace n a sz p store fold ctx).2 := by
  have hx (va : Nat) := h.xlateNow (n := n) (root := s.homePart n) (va := va)
  unfold State.engPlace
  split
  · exact h
  · exact h
  · exact h
  · exact h
  · exact h
  · split
    · exact h
    · split
      · exact h
      · exact h
  · split
    · exact h
    · exact h
  · split
    next heq => exact (hx _).of_snd heq
    next heq =>
      split
      · exact (hx _).of_snd heq
      · split
        · exact (hx _).of_snd heq
        · exact (hx _).of_snd heq

theorem l1Back {n : Nat} {l : L1Line} : s₀.SameFabric (s.l1Back n l) := by
  unfold State.l1Back
  split
  · exact h
  · exact h.of_fields rfl rfl rfl

theorem l1Put {n : Nat} {l : L1Line} : s₀.SameFabric (s.l1Put n l) := by
  unfold State.l1Put
  refine setCore ?_
  split
  · exact h.l1Back.setCore
  · exact h

theorem l1Store {n pa key : Nat} {kind : PageKind} {x : Bool} {sz v : Nat} : s₀.SameFabric (s.l1Store n pa key kind x sz v) := by
  unfold State.l1Store
  refine .ite (setCore ?_) h.l1Put
  split
  · split
    · exact h.l1Put
    · split
      · exact h.l1Put.l1Back
      · exact h.l1Put.setCore
  · exact h.l1Put

theorem unitWrite {n sz v : Nat} {u : Unit1} : s₀.SameFabric (s.unitWrite n sz v u) := by
  cases u with
  | scr m off => exact h.setCore
  | die d off => exact h.setDie
  | acc off => exact h.setCore
  | status ch => exact h
  | mem pa key kind x => exact .ite h.l2Write h.l1Store

theorem l2Flush {b : Nat} : s₀.SameFabric (s.l2Flush b) := by
  unfold State.l2Flush
  split
  · exact h.l2Evict.setDie
  · exact h

theorem foldFlags {stack : Nat} {fl : BitVec 5} : s₀.SameFabric (s.foldFlags stack fl) := by
  unfold State.foldFlags
  exact .ite h (h.of_fields rfl rfl rfl)

theorem baseUpd {pa key n : Nat} {f : Nat → Nat × BitVec 5} {t : State} (e : s.baseUpd pa key n f = some t) : s₀.SameFabric t := by
  unfold State.baseUpd at e
  extract_lets at e
  split at e
  · cases e
  · cases e
    exact h.l2Flush.countCorrected.hbmPut.foldFlags

theorem baseFold {pa key : Nat} {ty : ElTy} {v : Nat} {t : State} (e : s.baseFold pa key ty v = some t) : s₀.SameFabric t := h.baseUpd e

theorem foldRefused {pa : Nat} : s₀.SameFabric (s.foldRefused pa) := h.l2Flush.eccEvent

theorem engineEvent {n what : Nat} {c : BitVec 8} : s₀.SameFabric (s.engineEvent n what c) := h.pilotEvent

/-! #### Fixes (R186 to R196) -/

theorem setFixObj {x : BitVec 32} {f : FixObj} : s₀.SameFabric (s.setFixObj x f) := by
  unfold State.setFixObj
  exact .ite h.setCore (h.of_fields rfl rfl rfl)

theorem agentWrite {n a : Nat} {bs : List Byte} : s₀.SameFabric (s.agentWrite n a bs) := by
  unfold State.agentWrite
  refine foldl_on (fun x : Bool × Nat × State => x.2.2) (fun acc u hacc => ?_) _ h
  have hplace : s₀.SameFabric (acc.2.2.engPlace n u.1 u.2 .w true).2 := hacc.engPlace
  split
  · exact hacc
  · split
    next heq => exact (hplace.of_snd heq).engineEvent
    next heq => exact (hplace.of_snd heq).l2Write
    next heq => exact (hplace.of_snd heq).unitWrite

theorem openBuffer {x : BitVec 32} {f : FixObj} {k : Nat} {tag : BitVec 32} : s₀.SameFabric (s.openBuffer x f k tag) := h.agentWrite

theorem stageContrib {x : BitVec 32} {f : FixObj} {k : Nat} {c : Contrib} : s₀.SameFabric (s.stageContrib x f k c) := by
  unfold State.stageContrib
  exact .ite h h.agentWrite

theorem fxCount1 {p lo : Nat} : s₀.SameFabric (s.fxCount1 p lo) := h.setRegF _ _ _ (Pf.le_fxStat _)

theorem foldInto {x : BitVec 32} {k : Nat} {tag : BitVec 32} {first : Nat} {vs : List Nat} : s₀.SameFabric (s.foldInto x k tag first vs) := by
  unfold State.foldInto
  split
  · exact h
  · extract_lets d n add
    refine foldl_on (fun y : State × Nat × Option Nat => y.1) (fun acc v hacc => ?_) _ h
    obtain ⟨t, i, refused⟩ := acc
    have hplace := State.SameFabric.engPlace hacc (n := n) (a := bufAddr d tag + (first + i) * fxE d) (sz := fxE d) (p := .rw) (store := true)
      (fold := true) (ctx := false)
    dsimp only
    split
    next pa key _ _ s1 heq =>
      have hs1 := hplace.of_snd heq
      split
      next heq' => exact hs1.baseUpd heq'
      · split
        · exact hs1
        · refine foldRefused ?_
          split
          · exact hs1.setFixObj
          · exact hs1
    next heq => exact (hplace.of_snd heq).engineEvent
    next heq => exact hplace.of_snd heq

theorem combine {x : BitVec 32} {d : Line} {tag : BitVec 32} {c : Contrib} {pool : Bool} : s₀.SameFabric (s.combine x d tag c pool) := by
  unfold State.combine
  extract_lets
  split
  · exact h.setHub
  · split
    · exact h.setHub
    · exact .ite h.setHub (.ite h.setHub (h.setRegF _ _ _ (Pf.le_hub _ _)).post)

theorem addArrival {x : BitVec 32} {f : FixObj} {k : Nat} {tag : BitVec 32} {c : Contrib} : s₀.SameFabric (s.addArrival x f k tag c) := by
  unfold State.addArrival
  extract_lets
  split
  · exact h.combine
  · exact h.post
  · exact h.setFixObj

theorem judge {x : BitVec 32} {k : Nat} {c : Contrib} : s₀.SameFabric (s.judge x k c) := by
  unfold State.judge
  split
  · exact h
  · extract_lets fo d p l keep lag s1 c2 s2
    have hkeep (g : Fold) {u : State} (hu : s₀.SameFabric u) : s₀.SameFabric (keep g u) := by
      dsimp only [keep]
      split
      · exact hu.setFixObj
      · exact hu
    have hadd {u : State} (hu : s₀.SameFabric u) (c : Contrib) :
        s₀.SameFabric (if fxArrival d then (match u.fix x with | some f => u.addArrival x f k fo.tag c | none => u) else u) := by
      split
      · split
        · exact hu.addArrival
        · exact hu
      · exact hu
    have hs1 : s₀.SameFabric s1 := hkeep _ h.stageContrib
    have hs2 : s₀.SameFabric s2 := hkeep _ h.stageContrib
    exact .ite h (.ite h.fxCount1 (.ite (hadd hs1 c) (.ite (.ite (hkeep _ h.fxCount1) (hadd hs2 c2))
      (.ite (hkeep _ h.fxCount1) (.ite (hkeep _ h.stageContrib) (hkeep _ h.fxCount1))))))

theorem flushFolds {x : BitVec 32} {k : Nat} : s₀.SameFabric (s.flushFolds x k) := by
  unfold State.flushFolds
  refine foldl (fun u i hu => ?_) _ h
  split
  · split
    · split
      · extract_lets s1
        have hs1 : s₀.SameFabric s1 := hu.of_fields rfl rfl rfl
        exact hs1.foldInto
      · exact hu
    · exact hu
  · exact hu

theorem drainEntries {x tag : BitVec 32} {k : Nat} : s₀.SameFabric (s.drainEntries x tag k) := by
  unfold State.drainEntries
  extract_lets
  split
  · exact h
  · exact (foldl (fun _ _ hu => hu.foldInto) _ h).setHub

theorem writeValues {x : BitVec 32} {f : FixObj} {k : Nat} : s₀.SameFabric (s.writeValues x f k) := by
  unfold State.writeValues
  exact .ite h.agentWrite (.ite h.agentWrite h.flushFolds.drainEntries)

theorem tellDeparted {x : BitVec 32} {f : FixObj} {r : Nat} : s₀.SameFabric (s.tellDeparted x f r) := by
  unfold State.tellDeparted
  exact .ite (h.of_fields rfl rfl rfl) h

end State.SameFabric

/-! ### What a departure leaves of the flows (R34, R196) -/

/-- From a state to another a flow that is lost is the same, and the events of the ports stand. -/
structure State.KeepsLosses (s t : State) : Prop where
  lost : ∀ dev vl, (s.flow dev vl).lost = true → t.flow dev vl = s.flow dev vl
  events : ∀ p bit, p < 64 → (s.reg (Pf.port p 0x28)).getLsbD bit = true → (t.reg (Pf.port p 0x28)).getLsbD bit = true

namespace State.KeepsLosses

theorem refl (s : State) : s.KeepsLosses s := ⟨fun _ _ _ => rfl, fun _ _ _ h => h⟩

variable {s t u : State}

theorem trans (h : s.KeepsLosses t) (h' : t.KeepsLosses u) : s.KeepsLosses u where
  lost dev vl hl := (h'.lost dev vl (by rw [h.lost dev vl hl]; exact hl)).trans (h.lost dev vl hl)
  events p bit hp hb := h'.events p bit hp (h.events p bit hp hb)

theorem of_sameFabric (h : s.SameFabric t) : s.KeepsLosses t where
  lost dev vl _ := h.flow dev vl
  events p bit hp hb := by rwa [h.regs _ (Pf.port_lt hp (by decide))]

theorem foldl {α : Type} {f : State → α → State} (hf : ∀ (s : State) a, s.KeepsLosses (f s a)) (l : List α) : s.KeepsLosses (l.foldl f s) := by
  induction l generalizing s with
  | nil => exact .refl s
  | cons a l ih => exact (hf s a).trans ih

end State.KeepsLosses

end Sys2Proof.Machine
end

section
/-! PROOFS of the family 02_fabric: packets as they leave, tags, and flows that stay lost (R33, R34, R36, R37). -/

namespace Sys2Proof.Machine

/-! ### Packets as they leave (R33, R36, R37) -/

/-- Registers of ports at different offsets are different. -/
theorem Pf.port_ne {p q off off' : Nat} (h : off ≠ off') (ho : off < 0x400) (ho' : off' < 0x400) : Pf.port p off ≠ Pf.port q off' := by
  unfold Pf.port; omega

theorem State.portCount_reg_other (s : State) (p : Nat) {off a : Nat} (lo k : Nat) (h : a ≠ Pf.port p off) :
    (s.portCount p off lo k).reg a = s.reg a := State.setRegF_reg_other _ _ _ _ _ h

@[simp] theorem State.portCount_dev (s : State) (p off lo k : Nat) : (s.portCount p off lo k).dev = s.dev := rfl
@[simp] theorem State.portCount_cores (s : State) (p off lo k : Nat) : (s.portCount p off lo k).cores = s.cores := rfl
@[simp] theorem State.portCount_hubs (s : State) (p off lo k : Nat) : (s.portCount p off lo k).hubs = s.hubs := rfl

theorem State.portEvt_reg_other (s : State) (p bit : Nat) {a : Nat} (h : a ≠ Pf.port p 0x28) : (s.portEvt p bit).reg a = s.reg a := by
  unfold State.portEvt
  dsimp only
  split
  · rfl
  · exact State.setReg_reg_other _ _ _ h

/-- An event of a port that stands goes on standing. -/
theorem State.portEvt_stands (s : State) {p bit q b : Nat} (hbit : bit < 64) (h : (s.reg (Pf.port q 0x28)).getLsbD b = true) :
    ((s.portEvt p bit).reg (Pf.port q 0x28)).getLsbD b = true := by
  unfold State.portEvt
  dsimp only
  split
  · exact h
  · by_cases hq : Pf.port q 0x28 = Pf.port p 0x28
    · rw [hq] at h ⊢
      refine (congrArg (BitVec.getLsbD · b) (State.setReg_reg_same s _ _)).trans ?_
      rw [getLsbD_or_two_pow _ hbit, h]
      rfl
    · exact (congrArg (BitVec.getLsbD · b) (State.setReg_reg_other s _ _ hq)).trans h

/-- What is the same from a state to another where only the registers of ports, and what pilot firmware is told, have changed. -/
structure State.SameButPortRegs (s t : State) : Prop where
  ports : t.ports = s.ports
  cores : t.cores = s.cores
  hubs : t.hubs = s.hubs
  flows : t.dev.flows = s.dev.flows

theorem State.SameButPortRegs.trans {s t u : State} (h : s.SameButPortRegs t) (h' : t.SameButPortRegs u) : s.SameButPortRegs u :=
  ⟨h'.ports.trans h.ports, h'.cores.trans h.cores, h'.hubs.trans h.hubs, h'.flows.trans h.flows⟩

theorem State.setReg_same (s : State) (a : Nat) (v : Word) : s.SameButPortRegs (s.setReg a v) := ⟨rfl, rfl, rfl, rfl⟩
theorem State.portCount_same (s : State) (p off lo k : Nat) : s.SameButPortRegs (s.portCount p off lo k) := s.setReg_same _ _

theorem State.portEvt_same (s : State) (p bit : Nat) : s.SameButPortRegs (s.portEvt p bit) := by
  unfold State.portEvt
  dsimp only
  split
  · exact ⟨rfl, rfl, rfl, rfl⟩
  · exact ⟨rfl, rfl, rfl, rfl⟩

/-- The first packet that fails a tag check is captured (R37). -/
def State.capture (s : State) (p : Nat) (k : Packet) (egress : Bool) : State :=
  ((((s.setReg (Pf.port p 0x030) k.h0).setReg (Pf.port p 0x038) k.h1).setReg (Pf.port p 0x040) k.h2).setReg (Pf.port p 0x048) k.h3).setReg
    (Pf.port p 0x050) (if egress then 1 else 0)

theorem State.capture_same (s : State) (p : Nat) (k : Packet) (egress : Bool) : s.SameButPortRegs (s.capture p k egress) := by
  unfold State.capture
  exact ((((s.setReg_same _ _).trans (State.setReg_same _ _ _)).trans (State.setReg_same _ _ _)).trans (State.setReg_same _ _ _)).trans
    (State.setReg_same _ _ _)

theorem State.capture_reg_other (s : State) (p : Nat) (k : Packet) (egress : Bool) {q off : Nat} (h : off < 0x30) :
    (s.capture p k egress).reg (Pf.port q off) = s.reg (Pf.port q off) := by
  have hne {off' : Nat} (h' : 0x30 ≤ off' ∧ off' < 0x400) : Pf.port q off ≠ Pf.port p off' := Pf.port_ne (by omega) (by omega) (by omega)
  unfold State.capture
  rw [State.setReg_reg_other _ _ _ (hne (by decide)), State.setReg_reg_other _ _ _ (hne (by decide)),
    State.setReg_reg_other _ _ _ (hne (by decide)), State.setReg_reg_other _ _ _ (hne (by decide)),
    State.setReg_reg_other _ _ _ (hne (by decide))]

theorem State.tagDrop_eq (s : State) (p : Nat) (k : Packet) (egress : Bool) :
    s.tagDrop p k egress = s.portCount p 0x018 48 1 ∨
      s.tagDrop p k egress = ((s.portCount p 0x018 48 1).capture p k egress).portEvt p 0 := by
  unfold State.tagDrop
  dsimp only
  split
  · exact .inl rfl
  · exact .inr rfl

section
variable (s : State) (p : Nat) (k : Packet) (egress : Bool)

theorem State.tagDrop_same : s.SameButPortRegs (s.tagDrop p k egress) := by
  rcases s.tagDrop_eq p k egress with h | h
  · rw [h]
    exact s.portCount_same p _ _ _
  · rw [h]
    exact ((s.portCount_same p _ _ _).trans (State.capture_same _ _ _ _)).trans (State.portEvt_same _ p 0)

/-- Below the captured packet a drop changes the count and the event alone. -/
theorem State.tagDrop_reg_other {q off : Nat} (h : off < 0x30) (he : off ≠ 0x28) :
    (s.tagDrop p k egress).reg (Pf.port q off) = (s.portCount p 0x018 48 1).reg (Pf.port q off) := by
  rcases s.tagDrop_eq p k egress with hd | hd
  · rw [hd]
  · rw [hd, State.portEvt_reg_other _ _ _ (Pf.port_ne he (by omega) (by decide)), State.capture_reg_other _ _ _ _ h]

/-- The drop is counted. -/
theorem State.tagDrop_count :
    (s.tagDrop p k egress).regF (Pf.port p 0x018) 48 16 = min (s.regF (Pf.port p 0x018) 48 16 + 1) 0xFFFF := by
  rw [State.regF, State.tagDrop_reg_other _ _ _ _ (by decide) (by decide)]
  exact State.portCount_regF s p 0x018 1 (by decide)

/-- The other counts of PORT_ERR are as before. -/
theorem State.tagDrop_regF (q : Nat) {lo n : Nat} (h : lo + n ≤ 48) :
    (s.tagDrop p k egress).regF (Pf.port q 0x018) lo n = s.regF (Pf.port q 0x018) lo n := by
  rw [State.regF, State.tagDrop_reg_other _ _ _ _ (by decide) (by decide)]
  by_cases hq : Pf.port q 0x018 = Pf.port p 0x018
  · rw [hq]
    exact State.regF_setRegF_disjoint _ _ _ (by decide) (.inl h)
  · rw [State.portCount_reg_other _ _ _ _ hq]
    rfl

theorem State.tagDrop_stands {q b : Nat} (h : (s.reg (Pf.port q 0x28)).getLsbD b = true) :
    ((s.tagDrop p k egress).reg (Pf.port q 0x28)).getLsbD b = true := by
  have hcount : ((s.portCount p 0x018 48 1).reg (Pf.port q 0x28)).getLsbD b = true := by
    rwa [State.portCount_reg_other _ _ _ _ (Pf.port_ne (by decide) (by decide) (by decide))]
  rcases s.tagDrop_eq p k egress with hd | hd
  · rwa [hd]
  · rw [hd]
    refine State.portEvt_stands _ (by decide) ?_
    rwa [State.capture_reg_other _ _ _ _ (by decide)]

end

@[simp] theorem State.pumpPort_dev (s : State) (p : Nat) : (s.pumpPort p).dev = s.dev := by unfold State.pumpPort; split <;> rfl
@[simp] theorem State.pumpPort_cores (s : State) (p : Nat) : (s.pumpPort p).cores = s.cores := by unfold State.pumpPort; split <;> rfl
@[simp] theorem State.pumpPort_hubs (s : State) (p : Nat) : (s.pumpPort p).hubs = s.hubs := by unfold State.pumpPort; split <;> rfl
theorem State.pumpPort_port_other (s : State) {p q : Nat} (h : q ≠ p) : (s.pumpPort p).port q = s.port q := by
  unfold State.pumpPort
  split
  · exact State.setPort_port_other _ _ _ h
  · rfl

/-- A packet joins the queue of the port by which it goes. -/
def State.enqueue (s : State) (p : Nat) (k : Packet) : State :=
  (s.setPort p { s.port p with queue := (s.port p).queue ++ [k] }).pumpPort p

/-- A packet that is put on its way joins a queue, or is dropped for its tag, or goes nowhere. -/
theorem State.emit_eq (s : State) (hub : Nat) (k : Packet) :
    s.emit hub k = s ∨ (∃ p, s.emit hub k = s.enqueue p k) ∨ ∃ p, s.emit hub k = s.tagDrop p k true := by
  unfold State.emit
  split
  · exact .inl rfl
  · split
    · exact .inl rfl
    · split
      · exact .inr (.inl ⟨_, rfl⟩)
      · exact .inr (.inr ⟨_, rfl⟩)

theorem State.enqueue_regs (s : State) (p : Nat) (k : Packet) : (s.enqueue p k).regs = s.regs := State.pumpPort_regs _ _

/-- What a packet that is put on its way leaves alone: the flows, the cores, the receive queues, the hubs, and the counts of PORT_ERR but
TAG_ERRS; and it takes no event back. -/
structure State.SameButSending (s t : State) : Prop where
  cores : t.cores = s.cores
  hubs : t.hubs = s.hubs
  flows : t.dev.flows = s.dev.flows
  rxq : ∀ q, (t.port q).rxq = (s.port q).rxq
  counts : ∀ (q : Nat) {lo n : Nat}, lo + n ≤ 48 → t.regF (Pf.port q 0x018) lo n = s.regF (Pf.port q 0x018) lo n
  events : ∀ q b, (s.reg (Pf.port q 0x28)).getLsbD b = true → (t.reg (Pf.port q 0x28)).getLsbD b = true

theorem State.enqueue_rxq (s : State) (p : Nat) (k : Packet) (q : Nat) : ((s.enqueue p k).port q).rxq = (s.port q).rxq := by
  unfold State.enqueue
  by_cases hq : q = p
  · subst hq
    obtain ⟨-, -, -, h⟩ := (s.setPort q { s.port q with queue := (s.port q).queue ++ [k] }).pumpPort_sameReceiver q
    rw [h, State.setPort_port_same]
  · rw [State.pumpPort_port_other _ hq, State.setPort_port_other _ _ _ hq]

theorem State.emit_same (s : State) (hub : Nat) (k : Packet) : s.SameButSending (s.emit hub k) := by
  rcases s.emit_eq hub k with h | ⟨p, h⟩ | ⟨p, h⟩
  · rw [h]
    exact ⟨rfl, rfl, rfl, fun _ => rfl, fun _ _ _ _ => rfl, fun _ _ h => h⟩
  · rw [h]
    refine ⟨by simp [State.enqueue], by simp [State.enqueue], by simp [State.enqueue], s.enqueue_rxq p k, fun q lo n _ => ?_,
      fun q b hb => ?_⟩
    · rw [State.regF, State.reg, State.enqueue_regs]
      rfl
    · rwa [State.reg, State.enqueue_regs]
  · rw [h]
    obtain ⟨hports, hcores, hhubs, hflows⟩ := s.tagDrop_same p k true
    exact ⟨hcores, hhubs, hflows, fun q => by rw [State.port, hports, State.port], fun q _ _ hl => s.tagDrop_regF p k true q hl,
      fun q b hb => s.tagDrop_stands p k true hb⟩

/-! ### Flows that are lost stay so (R34) -/

@[simp] theorem State.loseCopy_dev (s : State) (c : Option (Nat × Nat × BitVec 16 × Nat)) : (s.loseCopy c).dev = s.dev := by
  unfold State.loseCopy; split <;> rfl
@[simp] theorem State.loseCopy_regs (s : State) (c : Option (Nat × Nat × BitVec 16 × Nat)) : (s.loseCopy c).regs = s.regs := by
  unfold State.loseCopy; split <;> rfl
@[simp] theorem State.loseCopy_ports (s : State) (c : Option (Nat × Nat × BitVec 16 × Nat)) : (s.loseCopy c).ports = s.ports := by
  unfold State.loseCopy; split <;> rfl

namespace State.KeepsLosses

theorem emit (s : State) (hub : Nat) (k : Packet) : s.KeepsLosses (s.emit hub k) := by
  have h := s.emit_same hub k
  exact ⟨fun dev vl _ => by rw [State.flow, h.flows, State.flow], fun p bit _ hb => h.events p bit hb⟩

/-- A packet for a lost flow is discarded, and one for another takes that flow's next number. -/
theorem sendPacket (s : State) (x : Send) : s.KeepsLosses (s.sendPacket x) := by
  unfold State.sendPacket
  extract_lets hub f k
  cases hf : f.lost with
  | true =>
    rw [if_pos rfl]
    refine ⟨fun dev vl _ => by simp [State.flow], fun p bit hp hb => ?_⟩
    rw [State.reg, State.loseCopy_regs]
    exact (congrArg (BitVec.getLsbD · bit)
      (State.portCount_reg_other _ _ _ _ (Pf.port_ne (by decide) (by decide) (by decide)))).trans hb
  | false =>
    rw [if_neg (by decide)]
    refine trans ?_ (emit _ hub k)
    refine ⟨fun dev vl hl => ?_, fun p bit hp hb => hb⟩
    have hne : dev * 4 + vl ≠ x.dev * 4 + x.vl := by
      intro he
      have : s.flow dev vl = f := congrArg (fun n => AMap.getD s.dev.flows n {}) he
      rw [this, hf] at hl
      cases hl
    exact AMap.getD_set_other _ _ _ hne

theorem closeRound (s : State) (x : BitVec 32) (k : Nat) : s.KeepsLosses (s.closeRound x k).1 := by
  unfold State.closeRound
  split
  · exact .refl s
  · extract_lets lost all f1 s0 s1
    have hs0 : s.SameFabric s0 := (SameFabric.refl s).writeValues
    have hs1 : s.SameFabric s1 := .ite hs0.openBuffer hs0
    split
    · exact of_sameFabric hs1
    · extract_lets f d fo n c rec0 s2 s3 next
      have hs2 : s.SameFabric s2 := hs1.agentWrite
      have hs3 : s.KeepsLosses s3 := by
        refine (of_sameFabric hs2).trans ?_
        unfold s3
        split
        · exact foldl (fun s _ => sendPacket s _) _
        · exact .refl s2
      split
      · exact hs3
      · extract_lets g' s4
        have hs4 : s3.SameFabric s4 := (SameFabric.refl s3).setFixObj
        refine hs3.trans ?_
        split
        · exact of_sameFabric hs4
        · exact of_sameFabric hs4.openBuffer

theorem fixRun (fuel : Nat) (s : State) (x : BitVec 32) (k : Nat) (cs : List Contrib) : s.KeepsLosses (s.fixRun fuel x k cs) := by
  induction fuel generalizing s cs with
  | zero => exact .refl s
  | succ fuel ih =>
    unfold State.fixRun
    extract_lets s1 go r
    have hs1 : s.KeepsLosses s1 := by
      unfold s1
      split
      · exact of_sameFabric (SameFabric.refl s).judge
      · exact .refl s
    split
    · exact (hs1.trans (closeRound s1 x k)).trans (ih _ _)
    · split
      · exact hs1
      · exact hs1.trans (ih _ _)

theorem depart (s : State) (x : BitVec 32) (r : Nat) : s.KeepsLosses (s.depart x r) := by
  unfold State.depart
  split
  · exact .refl s
  · split
    · exact .refl s
    · extract_lets g g'
      have hs1 : s.SameFabric ((s.setFixObj x g').tellDeparted x g' r) := (SameFabric.refl s).setFixObj.tellDeparted
      refine (of_sameFabric hs1).trans ?_
      unfold State.rejudge
      split
      · exact foldl (fun s p => fixRun _ s x (Prod.fst p) []) _
      · exact .refl _

theorem departDev (s : State) (dev : Nat) : s.KeepsLosses (s.departDev dev) :=
  foldl (fun _ g => foldl (fun s r => depart s (Prod.fst g) r) _) _

end State.KeepsLosses

end Sys2Proof.Machine
end

section
/-! PROOFS of the family 02_fabric: the flows' timeouts, losses and restarts, and a hub's drain and scrub (R33, R34, R36, R38, R41, R43). -/

namespace Sys2Proof.Machine

/-! ### The flows (R33) -/

@[simp] theorem State.setFlow_flow_same (s : State) (dev vl : Nat) (f : Flow) : (s.setFlow dev vl f).flow dev vl = f := AMap.getD_set_same _ _ _ _
theorem State.setFlow_flow_other (s : State) {dev vl dev' vl' : Nat} (f : Flow) (h : dev' * 4 + vl' ≠ dev * 4 + vl) :
    (s.setFlow dev vl f).flow dev' vl' = s.flow dev' vl' := AMap.getD_set_other _ _ _ h
@[simp] theorem State.setFlow_regs (s : State) (dev vl : Nat) (f : Flow) : (s.setFlow dev vl f).regs = s.regs := rfl
@[simp] theorem State.setFlow_port (s : State) (dev vl : Nat) (f : Flow) (q : Nat) : (s.setFlow dev vl f).port q = s.port q := rfl

/-! ### What is read of the registers alone -/

section
variable {s t : State} (h : t.regs = s.regs)
include h

theorem State.reg_congr (a : Nat) : t.reg a = s.reg a := by rw [State.reg, h, State.reg]
theorem State.portSt_congr (p : Nat) : t.portSt p = s.portSt p := by rw [State.portSt, State.regF, State.reg_congr h]; rfl
theorem State.portUp_congr (p : Nat) : t.portUp p = s.portUp p := by rw [State.portUp, State.portSt_congr h]; rfl
theorem State.tagPass_congr (p tag part : Nat) : t.tagPass p tag part = s.tagPass p tag part := by
  unfold State.tagPass
  simp only [State.reg_congr h]
theorem State.routePort_congr (hub dev : Nat) : t.routePort hub dev = s.routePort hub dev := by
  unfold State.routePort
  rw [State.reg_congr h]

end

/-! ### Packets on their way (R33, R36) -/

/-- The route is in force, the port takes packets, and the tag passes: the packet is queued. -/
theorem State.emit_enqueue {s : State} {hub q : Nat} {k : Packet} (hr : s.routePort hub k.dstDev = some q) (h0 : s.portSt q ≠ 0)
    (h5 : s.portSt q ≠ 5) (ht : s.tagPass q k.tag k.srcPart = true) : s.emit hub k = s.enqueue q k := by
  unfold State.emit
  rw [hr]
  dsimp only
  rw [if_neg (by simp [h0, h5]), if_pos ht]
  rfl

/-- Nothing goes on the link of a port that is not up, or whose replay buffer is full. -/
theorem State.pumpPort_port_stuck {s : State} {q : Nat} (h : s.portUp q = false ∨ 512 ≤ (s.port q).replay.length) :
    (s.pumpPort q).port q = s.port q := by
  unfold State.pumpPort
  split
  next hup =>
    dsimp only
    rw [State.setPort_port_same]
    exact Port.pump_full _ (h.resolve_left (by simp [hup]))
  next => rfl

theorem State.enqueue_port_stuck {s : State} {q : Nat} (k : Packet) (h : s.portUp q = false ∨ 512 ≤ (s.port q).replay.length) :
    (s.enqueue q k).port q = { s.port q with queue := (s.port q).queue ++ [k] } := by
  unfold State.enqueue
  rw [State.pumpPort_port_stuck, State.setPort_port_same]
  rw [State.setPort_port_same]
  exact h

/-- Kept packets that go by one port, on whose link nothing goes, are all queued there in order. -/
theorem State.foldl_emit_port {q hub dev : Nat} (l : List TxPkt) {s : State} (hr : s.routePort hub dev = some q)
    (h0 : s.portSt q ≠ 0) (h5 : s.portSt q ≠ 5) (hstuck : s.portUp q = false ∨ 512 ≤ (s.port q).replay.length)
    (hl : ∀ k ∈ l, k.hub = hub ∧ k.pkt.dstDev = dev ∧ s.tagPass q k.pkt.tag k.pkt.srcPart = true) :
    (l.foldl (fun s t => s.emit t.hub t.pkt) s).port q = { s.port q with queue := (s.port q).queue ++ l.map TxPkt.pkt } := by
  induction l generalizing s with
  | nil => simp
  | cons k l ih =>
    obtain ⟨hhub, hdev, htag⟩ := hl k List.mem_cons_self
    have hemit : s.emit k.hub k.pkt = s.enqueue q k.pkt := State.emit_enqueue (by rw [hhub, hdev]; exact hr) h0 h5 htag
    have hregs := s.enqueue_regs q k.pkt
    have hport := State.enqueue_port_stuck k.pkt hstuck
    rw [List.foldl_cons, hemit, ih]
    · rw [hport]
      simp
    · rw [State.routePort_congr hregs]; exact hr
    · rw [State.portSt_congr hregs]; exact h0
    · rw [State.portSt_congr hregs]; exact h5
    · rw [State.portUp_congr hregs, hport]; exact hstuck
    · intro j hj
      rw [State.tagPass_congr hregs]
      exact hl j (List.mem_cons_of_mem _ hj)

/-- A packet of one flit goes at once on the link of a port that has nothing else to send, if its lane has an allowance (R32). -/
theorem Port.pump_one (fuel : Nat) {k : Port} (hk : k.Idle) {q : Packet} (hlen : q.pieces.length = 1) (hr : k.replay.length < 512)
    (ha : k.allowed q.vl ≠ 0) :
    (({ k with queue := [q] } : Port).pump (fuel + 1)).queue = [] ∧ (({ k with queue := [q] } : Port).pump (fuel + 1)).out =
      k.out ++ [mkFlit (q.pieces.getD 0 []) true q.vl 1 k.rxGood k.txSeq] := by
  obtain ⟨hq, ht, ho⟩ := hk
  have hnext : ({ k with queue := [q] } : Port).nextData = some (q, 0) := by
    simp only [Port.nextData, ht]
    simpa [AMap.get?, Port.allowed] using ha
  obtain ⟨hqueue, htx, howed⟩ : (({ k with queue := [q] } : Port).sendData q 0).Idle := by
    refine ⟨?_, ?_, ?_⟩
    · simp [Port.sendData]
    · simp [Port.sendData, hlen, ht, AMap.erase]
    · exact ho
  have hpump : ({ k with queue := [q] } : Port).pump (fuel + 1) = ({ k with queue := [q] } : Port).sendData q 0 := by
    rw [Port.pump, if_neg (by simpa using hr)]
    dsimp only
    rw [Port.owed_find_none ho, hnext]
    exact Port.pump_idle fuel hqueue htx howed
  rw [hpump]
  refine ⟨hqueue, ?_⟩
  change k.out ++ [mkFlit (q.pieces.getD 0 []) (decide (q.pieces.length ≤ 0 + 1)) q.vl 1 k.rxGood k.txSeq] = _
  rw [hlen]
  rfl

theorem State.enqueue_one {s : State} {q : Nat} {k : Packet} (hup : s.portUp q = true) (hidle : (s.port q).Idle) (hlen : k.pieces.length = 1)
    (hr : (s.port q).replay.length < 512) (ha : (s.port q).allowed k.vl ≠ 0) :
    ((s.enqueue q k).port q).queue = [] ∧ ((s.enqueue q k).port q).out =
      (s.port q).out ++ [mkFlit (k.pieces.getD 0 []) true k.vl 1 (s.port q).rxGood (s.port q).txSeq] := by
  have hqueue : (s.port q).queue ++ [k] = [k] := by rw [hidle.1]; rfl
  unfold State.enqueue State.pumpPort
  have hup' : (s.setPort q { s.port q with queue := (s.port q).queue ++ [k] }).portUp q = true := hup
  dsimp only
  rw [if_pos hup', State.setPort_port_same, State.setPort_port_same, hqueue]
  exact Port.pump_one _ hidle hlen hr ha

/-! ### Timeouts and lost flows (R33, R34) -/

section
variable {s : State} {dev vl : Nat} {u : TxPkt} {rest : List TxPkt} (hkept : (s.flow dev vl).kept = u :: rest)
include hkept

theorem exec_e2eTimeout {q : Nat} (hroute : s.routePort u.hub dev = some q)
    (hdue : u.sentAt + max 1 (s.regF (Pf.port q 0x0C8) 0 8) * s.dev.clock ≤ s.cyc) (hmore : u.resends < max 1 (s.regF (Pf.port q 0x0C8) 8 8)) :
    exec (.e2eTimeout dev vl) s = .next ((s.flow dev vl).kept.foldl (fun s t => s.emit t.hub t.pkt) (s.setFlow dev vl { s.flow dev vl with
      kept := (s.flow dev vl).kept.map (fun k => { k with sentAt := s.cyc, resends := k.resends + 1 }) })) := by
  have hd : s.e2eDue q u = true := decide_eq_true hdue
  have hl : ¬ s.e2eLimit q ≤ u.resends := Nat.not_le.2 hmore
  change execE2eTimeout dev vl s = _
  unfold execE2eTimeout runEvent
  dsimp only
  rw [hkept]
  dsimp only
  rw [hroute]
  dsimp only
  rw [hd, if_neg (by simpa using hl)]
  rfl

theorem exec_flowLost_due {q : Nat} (hroute : s.routePort u.hub dev = some q)
    (hdue : u.sentAt + max 1 (s.regF (Pf.port q 0x0C8) 0 8) * s.dev.clock ≤ s.cyc) (hspent : max 1 (s.regF (Pf.port q 0x0C8) 8 8) ≤ u.resends) :
    exec (.flowLost dev vl) s = .next ((s.loseFlow dev vl q).departDev dev) := by
  have hd : s.e2eDue q u = true := decide_eq_true hdue
  have hl : s.e2eLimit q ≤ u.resends := hspent
  change execFlowLost dev vl s = _
  unfold execFlowLost runEvent
  dsimp only
  rw [hkept]
  dsimp only
  rw [hroute]
  dsimp only
  rw [hd, if_pos (by simpa using hl)]
  rfl

theorem exec_flowLost_unrouted (hroute : s.routePort u.hub dev = none) :
    exec (.flowLost dev vl) s = .next ((s.loseFlow dev vl (u.hub * 16)).departDev dev) := by
  change execFlowLost dev vl s = _
  unfold execFlowLost runEvent
  dsimp only
  rw [hkept]
  dsimp only
  rw [hroute]
  rfl

end

/-- The ports once packets have left them. -/
theorem State.purge_port (s : State) (f : Packet → Bool) (q : Nat) : (s.purge f).port q = (s.port q).without f :=
  AMap.getD_map (fun k : Port => k.without f) s.ports q {}

@[simp] theorem State.purge_regs (s : State) (f : Packet → Bool) : (s.purge f).regs = s.regs := rfl
@[simp] theorem State.purge_flow (s : State) (f : Packet → Bool) (dev vl : Nat) : (s.purge f).flow dev vl = s.flow dev vl := rfl

theorem State.loseFlow_flow (s : State) (dev vl p : Nat) :
    (s.loseFlow dev vl p).flow dev vl = { s.flow dev vl with kept := [], lost := true } := by
  unfold State.loseFlow
  dsimp only
  rw [State.flow, State.pilotEvent]
  dsimp only
  rw [(State.portEvt_same _ _ _).flows]
  exact State.setFlow_flow_same _ _ _ _

theorem State.loseFlow_event (s : State) (dev vl p : Nat) : ((s.loseFlow dev vl p).reg (Pf.port p 0x28)).getLsbD 2 = true :=
  State.portEvt_bit _ p (by decide)

theorem State.foldl_loseCopy_ports (s : State) (l : List TxPkt) : (l.foldl (fun s k => s.loseCopy k.copy) s).ports = s.ports :=
  foldl_keeps State.ports (fun s k => s.loseCopy_ports k.copy) l s

theorem State.loseFlow_port (s : State) (dev vl p q : Nat) :
    (s.loseFlow dev vl p).port q = (s.port q).without (fun k => k.dstDev = dev && k.vl = vl) := by
  unfold State.loseFlow
  dsimp only
  rw [State.port, State.pilotEvent]
  dsimp only
  rw [(State.portEvt_same _ _ _).ports]
  refine (State.purge_port _ _ q).trans ?_
  rw [State.port, State.foldl_loseCopy_ports, State.port]

/-- After a loss and the departures that follow it the flow is lost and keeps nothing. -/
theorem State.flow_after_loss (s : State) (dev vl p : Nat) :
    (((s.loseFlow dev vl p).departDev dev).flow dev vl).lost = true ∧ (((s.loseFlow dev vl p).departDev dev).flow dev vl).kept = [] := by
  have h := (State.KeepsLosses.departDev (s.loseFlow dev vl p) dev).lost dev vl (by rw [State.loseFlow_flow])
  rw [h, State.loseFlow_flow]
  exact ⟨rfl, rfl⟩

theorem State.routePort_lt {s : State} {hub dev q : Nat} (h : s.routePort hub dev = some q) : q < 64 := by
  unfold State.routePort at h
  dsimp only at h
  split at h
  · cases h
    omega
  · cases h

/-! ### FLOW_RESET (R34) -/

theorem exec_flowReset_held {s : State} (dev : Nat) (h : s.pilotRuns = false) : exec (.flowReset dev) s = .next s := by
  change execFlowReset dev s = _
  simp [execFlowReset, runPilot, runEvent, h]

/-- One flow restarts, and the copies that it carried lose what it kept. -/
def State.resetFlow (s : State) (dev vl : Nat) : State := ((s.flow dev vl).kept.foldl (fun s t => s.loseCopy t.copy) s).setFlow dev vl {}

theorem State.resetFlow_regs (s : State) (dev vl : Nat) : (s.resetFlow dev vl).regs = s.regs :=
  foldl_keeps State.regs (fun s (t : TxPkt) => s.loseCopy_regs t.copy) (s.flow dev vl).kept s

theorem State.resetFlow_ports (s : State) (dev vl : Nat) : (s.resetFlow dev vl).ports = s.ports := State.foldl_loseCopy_ports s _

theorem State.resetFlow_flow (s : State) (dev v w : Nat) : (s.resetFlow dev v).flow dev w = if w = v then {} else s.flow dev w := by
  have hdev : ((s.flow dev v).kept.foldl (fun s t => s.loseCopy t.copy) s).dev = s.dev :=
    foldl_keeps State.dev (fun s (t : TxPkt) => s.loseCopy_dev t.copy) _ s
  unfold State.resetFlow
  split
  next h => rw [h, State.setFlow_flow_same]
  next h => rw [State.setFlow_flow_other _ _ (by omega), State.flow, hdev, State.flow]

theorem exec_flowReset {s : State} (dev : Nat) (h : s.pilotRuns = true) :
    exec (.flowReset dev) s = .next ((((s.resetFlow dev 0).resetFlow dev 1).resetFlow dev 2).purge (fun k => k.dstDev = dev && decide (k.vl < 3))) := by
  change execFlowReset dev s = _
  unfold execFlowReset runPilot runEvent
  dsimp only
  rw [if_pos h]
  rfl

/-! ### A hub's drain (R41) -/

theorem Port.holds_iff (k : Port) (part : Nat) :
    k.holds part = true ↔ (∃ q ∈ k.unsent, q.srcPart = part) ∨ ∃ q ∈ k.rxq, q.dstPart = part := by
  simp [Port.holds]

theorem Port.nextData_mem {k : Port} {q : Packet} {i : Nat} (h : k.nextData = some (q, i)) : q ∈ k.unsent := by
  unfold Port.nextData at h
  split at h
  next e he =>
    have hmem := List.mem_of_find?_eq_some he
    rw [Option.some.injEq] at h
    exact List.mem_append_right _ (List.mem_map.2 ⟨e, hmem, by rw [h]⟩)
  next =>
    obtain ⟨q', hq', heq⟩ := Option.map_eq_some_iff.1 h
    cases heq
    exact List.mem_append_left _ (List.mem_of_find?_eq_some hq')

theorem AMap.mem_erase {α : Type} {m : AMap α} {k : Nat} {e : Nat × α} (h : e ∈ AMap.erase m k) : e ∈ m := by
  induction m with
  | nil => exact h
  | cons p m ih =>
    rw [AMap.erase] at h
    split at h
    · exact .tail _ h
    · rcases List.mem_cons.1 h with h | h
      · exact h ▸ .head _
      · exact .tail _ (ih h)

/-- What the sender has still to send it had to send before. -/
theorem Port.mem_unsent_sendData {k : Port} {q x : Packet} {i : Nat} (hq : q ∈ k.unsent) (hx : x ∈ (k.sendData q i).unsent) : x ∈ k.unsent := by
  rcases List.mem_append.1 hx with h | h
  · refine List.mem_append_left _ ?_
    have h' : x ∈ (if i = 0 then k.queue.erase q else k.queue) := h
    split at h'
    · exact List.mem_of_mem_erase h'
    · exact h'
  · obtain ⟨e, he, rfl⟩ := List.mem_map.1 h
    have he' : e ∈ (if decide (q.pieces.length ≤ i + 1) then AMap.erase k.tx q.vl else AMap.set k.tx q.vl (q, i + 1)) := he
    split at he'
    · exact List.mem_append_right _ (List.mem_map_of_mem (AMap.mem_erase he'))
    · rcases AMap.mem_set he' with he' | he'
      · exact List.mem_append_right _ (List.mem_map_of_mem he')
      · rw [he']
        exact hq

theorem Port.unsent_pump_subset (fuel : Nat) (k : Port) : (k.pump fuel).unsent ⊆ k.unsent :=
  Port.pump_induct (P := fun j => j.unsent ⊆ k.unsent) (fun _ _ h => h)
    (fun _ _ _ hnext h _ hx => h (Port.mem_unsent_sendData (Port.nextData_mem hnext) hx)) fuel (List.Subset.refl _)

theorem State.holds_pumpPort {s : State} {p part : Nat} (h : (s.port p).holds part = false) : ((s.pumpPort p).port p).holds part = false := by
  obtain ⟨fuel, hp⟩ := s.pumpPort_port p
  obtain ⟨-, -, -, hrxq⟩ := Port.pump_sameReceiver fuel (s.port p)
  rw [hp, Bool.eq_false_iff, Ne, Port.holds_iff, hrxq]
  rw [Bool.eq_false_iff, Ne, Port.holds_iff] at h
  exact fun h' => h (h'.imp_left fun ⟨q, hq, hsrc⟩ => ⟨q, Port.unsent_pump_subset fuel _ hq, hsrc⟩)

/-- How many packets a port holds of a partition. -/
def Port.heldCount (k : Port) (part : Nat) : Nat :=
  (k.unsent.filter (fun q => q.srcPart = part)).length + (k.rxq.filter (fun q => q.dstPart = part)).length

theorem Port.holds_of_heldCount {k : Port} {part : Nat} (h : k.heldCount part = 0) : k.holds part = false := by
  rw [Bool.eq_false_iff, Ne, Port.holds_iff]
  simp only [Port.heldCount, Nat.add_eq_zero_iff, List.length_eq_zero_iff, List.filter_eq_nil_iff, decide_eq_true_eq] at h
  rintro (⟨q, hq, hp⟩ | ⟨q, hq, hp⟩)
  · exact h.1 q hq hp
  · exact h.2 q hq hp

/-- The port without what it held of a partition. -/
def Port.drained (k : Port) (part : Nat) : Port :=
  { k.without (fun q => q.srcPart = part) with rxq := k.rxq.filter (fun q => q.dstPart ≠ part) }

theorem Port.holds_drained (k : Port) (part : Nat) : (k.drained part).holds part = false := by
  rw [Bool.eq_false_iff, Ne, Port.holds_iff]
  simp only [Port.drained, Port.without, Port.unsent, List.mem_append, List.mem_map, List.mem_filter]
  rintro (⟨q, hq, hp⟩ | ⟨q, hq, hp⟩)
  · rcases hq with ⟨-, hq⟩ | ⟨e, ⟨-, hq⟩, rfl⟩
    · simp [hp] at hq
    · simp [hp] at hq
  · simp [hp] at hq

/-- What a port holds of a partition is dropped and counted, and its buffer space is free again. -/
def State.drainPort (s : State) (part p : Nat) : State :=
  let k := s.port p
  let gone := k.rxq.filter (fun q => q.dstPart = part)
  let out := (k.unsent.filter (fun q => q.srcPart = part)).length + gone.length
  if out = 0 then s
  else
    let s1 := (s.setPort p { k.without (fun q => q.srcPart = part) with rxq := k.rxq.filter (fun q => q.dstPart ≠ part) }).portCount p 0x020 16 out
    (gone.foldl (fun s q => s.giveBack p q.vl q.pieces.length) s1).pumpPort p

theorem State.drainPort_eq (s : State) (part p : Nat) : s.drainPort part p =
    if (s.port p).heldCount part = 0 then s
    else (((s.port p).rxq.filter (fun q => q.dstPart = part)).foldl (fun s q => s.giveBack p q.vl q.pieces.length)
      ((s.setPort p ((s.port p).drained part)).portCount p 0x020 16 ((s.port p).heldCount part))).pumpPort p := by
  unfold State.drainPort Port.heldCount Port.drained
  rfl

@[simp] theorem State.giveBack_regs (s : State) (p v n : Nat) : (s.giveBack p v n).regs = s.regs := rfl
@[simp] theorem State.giveBack_reg (s : State) (p v n a : Nat) : (s.giveBack p v n).reg a = s.reg a := rfl
@[simp] theorem State.giveBack_regF (s : State) (p v n a lo w : Nat) : (s.giveBack p v n).regF a lo w = s.regF a lo w := rfl
@[simp] theorem State.giveBack_hubs (s : State) (p v n : Nat) : (s.giveBack p v n).hubs = s.hubs := rfl
theorem State.giveBack_port (s : State) (p v n : Nat) : ∃ o, (s.giveBack p v n).port p = { s.port p with owed := o } :=
  ⟨_, State.setPort_port_same _ _ _⟩
theorem State.giveBack_port_other (s : State) {p q : Nat} (v n : Nat) (h : q ≠ p) : (s.giveBack p v n).port q = s.port q :=
  State.setPort_port_other _ _ _ h

section
variable {s : State} {part p : Nat}

/-- A drain of a port leaves the hubs, the other ports and their registers. -/
theorem State.drainPort_keeps :
    (s.drainPort part p).hubs = s.hubs ∧ (∀ q, q ≠ p → (s.drainPort part p).port q = s.port q) ∧
      ∀ a, a ≠ Pf.port p 0x020 → (s.drainPort part p).reg a = s.reg a := by
  rw [State.drainPort_eq]
  split
  · exact ⟨rfl, fun _ _ => rfl, fun _ _ => rfl⟩
  · refine ⟨?_, fun q hq => ?_, fun a ha => ?_⟩
    · rw [State.pumpPort_hubs]
      exact foldl_keeps State.hubs (fun s q => s.giveBack_hubs p _ _) _ _
    · rw [State.pumpPort_port_other _ hq]
      refine (foldl_keeps (State.port · q) (fun s _ => s.giveBack_port_other _ _ hq) _ _).trans ?_
      exact State.setPort_port_other _ _ _ hq
    · rw [State.pumpPort_reg]
      refine (foldl_keeps (State.reg · a) (fun s _ => s.giveBack_reg p _ _ a) _ _).trans ?_
      exact State.portCount_reg_other _ _ _ _ ha

theorem State.drainPort_drops : ((s.drainPort part p).port p).holds part = false := by
  rw [State.drainPort_eq]
  split
  next h => exact Port.holds_of_heldCount h
  next =>
    refine State.holds_pumpPort ?_
    have hgive (s : State) (q : Packet) : ((s.giveBack p q.vl q.pieces.length).port p).holds part = (s.port p).holds part := by
      obtain ⟨o, ho⟩ := s.giveBack_port p q.vl q.pieces.length
      rw [ho]
      rfl
    refine (foldl_keeps (fun s : State => (s.port p).holds part) hgive _ _).trans ?_
    rw [State.portCount_port, State.setPort_port_same]
    exact Port.holds_drained _ _

theorem State.drainPort_counts : (s.drainPort part p).regF (Pf.port p 0x020) 16 16 =
    min (s.regF (Pf.port p 0x020) 16 16 + (s.port p).heldCount part) 0xFFFF := by
  have hlt : s.regF (Pf.port p 0x020) 16 16 < 2 ^ 16 := bitsOf_lt _ _ _
  rw [State.drainPort_eq]
  split
  next h =>
    rw [h]
    omega
  next =>
    rw [State.pumpPort_regF]
    refine (foldl_keeps (State.regF · (Pf.port p 0x020) 16 16) (fun s _ => s.giveBack_regF p _ _ _ _ _) _ _).trans ?_
    exact State.portCount_regF (s.setPort p _) p 0x020 _ (by decide)

end

/-- A drain of several ports drops and counts what each of them holds, and leaves the others and the hubs. -/
theorem State.drainPorts (part : Nat) (l : List Nat) (hl : l.Nodup) (s : State) :
    let t := l.foldl (fun s p => s.drainPort part p) s
    t.hubs = s.hubs ∧ (∀ q, q ∉ l → t.port q = s.port q ∧ t.reg (Pf.port q 0x020) = s.reg (Pf.port q 0x020)) ∧
      ∀ q ∈ l, (t.port q).holds part = false ∧
        t.regF (Pf.port q 0x020) 16 16 = min (s.regF (Pf.port q 0x020) 16 16 + (s.port q).heldCount part) 0xFFFF := by
  induction l generalizing s with
  | nil => exact ⟨rfl, fun _ _ => ⟨rfl, rfl⟩, fun q hq => absurd hq List.not_mem_nil⟩
  | cons p l ih =>
    obtain ⟨hp, hl⟩ := List.nodup_cons.1 hl
    obtain ⟨hhubs, hports, hregs⟩ := State.drainPort_keeps (s := s) (part := part) (p := p)
    obtain ⟨hhubs', hout, hin⟩ := ih hl (s.drainPort part p)
    have hreg {q : Nat} (hq : q ≠ p) : (s.drainPort part p).reg (Pf.port q 0x020) = s.reg (Pf.port q 0x020) :=
      hregs _ (by unfold Pf.port; omega)
    refine ⟨hhubs'.trans hhubs, fun q hq => ?_, fun q hq => ?_⟩
    · obtain ⟨hqp, hql⟩ := not_or.1 (mt List.mem_cons.2 hq)
      obtain ⟨hport, hr⟩ := hout q hql
      exact ⟨hport.trans (hports q hqp), hr.trans (hreg hqp)⟩
    · by_cases hqp : q = p
      · subst hqp
        obtain ⟨hport, hr⟩ := hout q hp
        rw [List.foldl_cons, hport, State.regF, hr]
        exact ⟨State.drainPort_drops, State.drainPort_counts⟩
      · obtain ⟨hdrop, hcount⟩ := hin q ((List.mem_cons.1 hq).resolve_left hqp)
        rw [hports q hqp, State.regF, State.regF, hreg hqp] at hcount
        exact ⟨hdrop, hcount⟩

theorem hubPorts_nodup (d : Nat) : (hubPorts d).Nodup :=
  List.Nodup.map (fun a b h => by simpa using h) List.nodup_range

section
variable {s : State} {d part b : Nat} (hd : (s.hub d).draining.find? (fun e => e.1 = part) = some (part, b))
include hd

theorem exec_hubDrainTimeout (hdue : 100 * s.dev.clock ≤ 2 * (s.mesh - b)) (hheld : ∃ q ∈ hubPorts d, (s.port q).holds part = true) :
    exec (.hubDrainTimeout d part) s = .next ((hubPorts d).foldl (fun s p => s.drainPort part p) s) := by
  change execHubDrainTimeout d part s = _
  unfold execHubDrainTimeout runEvent
  dsimp only
  rw [hd]
  dsimp only
  rw [if_pos]
  · simp only [State.drainPort, Option.getD_some]
  · simp only [Bool.and_eq_true, decide_eq_true_eq, List.any_eq_true]
    exact ⟨hdue, hheld⟩

theorem exec_hubScrub (hnone : ∀ q ∈ hubPorts d, (s.port q).holds part = false) :
    exec (.hubScrub d part) s = .next ((s.setHub d { s.hub d with
      cmb := (s.hub d).cmb.filter (fun e => e.part ≠ part), draining := (s.hub d).draining.filter (fun e => e.1 ≠ part) }).setReg
        (Pf.hub d 8) (s.reg (Pf.hub d 8) &&& ~~~(BitVec.ofNat 64 (2 ^ part)))) := by
  have hmem := List.mem_of_find?_eq_some hd
  have hany : (s.hub d).draining.any (fun e => decide (e.1 = part)) = true := List.any_eq_true.2 ⟨_, hmem, by simp⟩
  have hall : (hubPorts d).all (fun p => !(s.port p).holds part) = true := by
    rw [List.all_eq_true]
    intro q hq
    rw [hnone q hq]
    rfl
  change execHubScrub d part s = _
  unfold execHubScrub runEvent
  dsimp only
  rw [hany, hall, if_pos (by decide)]
  rfl

end

/-- An up port is neither DISABLED nor FAILED. -/
theorem State.portSt_of_up {s : State} {q : Nat} (h : s.portUp q = true) : s.portSt q ≠ 0 ∧ s.portSt q ≠ 5 := by
  simp only [State.portUp, Bool.or_eq_true, decide_eq_true_eq] at h
  omega

/-- Settles O57: each event is reduced to the operations that it makes; departures leave a lost flow as it is (`State.KeepsLosses`), and a
drain goes port by port. -/
theorem flowsAreLostAndHubsDrained : Obligations.FlowsAreLostAndHubsDrained := by
  unfold Obligations.FlowsAreLostAndHubsDrained
  intro s dev vl d part f ports unsent holds
  have hholds (t : State) (q : Nat) : holds t q ↔ (t.port q).holds part = true := ((t.port q).holds_iff part).symm
  refine ⟨fun u rest hkept => ⟨fun q hroute hdue => ⟨fun hmore => ?timeout, fun hspent => ?lost⟩, fun hroute => ?unrouted⟩,
    fun p q => ?ports, exec_flowReset_held dev, fun hp => ?reset, fun hd hpart b hb => ⟨fun hdue hheld => ?drain, fun hnone => ?scrub⟩⟩
  case timeout =>
    refine ⟨_, exec_e2eTimeout hkept hroute hdue hmore, ?_, fun hall => ⟨fun hst => ?_, fun hup hrest hlen hvl hq ht ho hroom hallow => ?_⟩⟩
    · have hflow (t : State) (k : TxPkt) : (t.emit k.hub k.pkt).flow dev vl = t.flow dev vl := by
        rw [State.flow, (t.emit_same k.hub k.pkt).flows, State.flow]
      exact (foldl_keeps (State.flow · dev vl) hflow _ _).trans (State.setFlow_flow_same ..)
    · have hstuck : s.portUp q = false ∨ 512 ≤ (s.port q).replay.length := by
        rcases hst with h | h | ⟨-, h⟩
        · exact .inl (by simp [State.portUp, h])
        · exact .inl (by simp [State.portUp, h])
        · exact .inr h
      have hup : s.portSt q ≠ 0 ∧ s.portSt q ≠ 5 := by
        rcases hst with h | h | ⟨h, -⟩
        · omega
        · omega
        · exact State.portSt_of_up h
      exact State.foldl_emit_port (s := s.setFlow dev vl _) _ hroute hup.1 hup.2 hstuck hall
    · obtain ⟨hhub, hdev, htag⟩ := hall u (by rw [hkept]; exact List.mem_cons_self)
      obtain ⟨h0, h5⟩ := State.portSt_of_up hup
      rw [hkept, hrest]
      have hemit (g : Flow) : (s.setFlow dev vl g).emit u.hub u.pkt = (s.setFlow dev vl g).enqueue q u.pkt :=
        State.emit_enqueue (by rw [hdev]; exact hroute) h0 h5 htag
      rw [List.foldl_cons, List.foldl_nil, hemit]
      exact State.enqueue_one hup ⟨hq, ht, ho⟩ hlen hroom hallow
  case lost =>
    obtain ⟨hlost, hnone⟩ := s.flow_after_loss dev vl q
    exact ⟨_, exec_flowLost_due hkept hroute hdue hspent, hlost, hnone,
      (State.KeepsLosses.departDev _ dev).events q 2 (State.routePort_lt hroute) (s.loseFlow_event dev vl q)⟩
  case unrouted => exact ⟨_, exec_flowLost_unrouted hkept hroute, s.flow_after_loss dev vl _⟩
  case ports =>
    rw [State.loseFlow_port]
    exact ⟨rfl, rfl⟩
  case reset =>
    refine ⟨_, exec_flowReset dev hp, fun v hv => ?_, ?_, fun q => ?_⟩
    · rw [State.purge_flow, State.resetFlow_flow, State.resetFlow_flow, State.resetFlow_flow]
      obtain rfl | rfl | rfl : v = 0 ∨ v = 1 ∨ v = 2 := by omega
      · rfl
      · rfl
      · rfl
    · rw [State.purge_regs, State.resetFlow_regs, State.resetFlow_regs, State.resetFlow_regs]
    · have hports : (((s.resetFlow dev 0).resetFlow dev 1).resetFlow dev 2).port q = s.port q := by
        rw [State.port, State.resetFlow_ports, State.resetFlow_ports, State.resetFlow_ports, State.port]
      rw [State.purge_port, hports]
      exact ⟨rfl, rfl⟩
  case drain =>
    have hheld' : ∃ q ∈ hubPorts d, (s.port q).holds part = true := by
      obtain ⟨q, hq, h⟩ := hheld
      exact ⟨q, hq, (hholds s q).1 h⟩
    obtain ⟨hhubs, hout, hin⟩ := State.drainPorts part (hubPorts d) (hubPorts_nodup d) s
    refine ⟨_, exec_hubDrainTimeout hb hdue hheld', fun q hq => ?_, hhubs, fun q hq => (hout q hq).1⟩
    obtain ⟨hdrop, hcount⟩ := hin q hq
    refine ⟨fun h => ?_, ?_⟩
    · exact absurd ((hholds _ q).1 h) (by rw [hdrop]; decide)
    · rw [hcount, Port.heldCount, ← Nat.add_assoc]
      rfl
  case scrub =>
    have hnone' (q : Nat) (hq : q ∈ hubPorts d) : (s.port q).holds part = false :=
      Bool.eq_false_iff.2 fun h => hnone q hq ((hholds s q).2 h)
    refine ⟨_, exec_hubScrub hb hnone', ?_, fun e he => ?_, ?_⟩
    · simp
    · simp only [State.setReg_hub, State.setHub_hub_same] at he
      simpa using (List.mem_filter.1 he).2
    · rw [State.setReg_reg_same, BitVec.getLsbD_and, BitVec.getLsbD_not, BitVec.getLsbD_ofNat, Nat.testBit_two_pow]
      simp [show part < 64 by omega]

end Sys2Proof.Machine
end

section
/-! PROOFS of the family 02_fabric: packets as a port accepts them (R31, R33, R35, R36, R37, R42). -/

namespace Sys2Proof.Machine

/-! ### Memory does not see the fabric -/

/-- The state with other ports, flows and registers. -/
def State.withFabric (s : State) (ports : AMap Port) (regs : AMap Word) (flows : AMap Flow) : State :=
  { s with ports := ports, regs := regs, dev := { s.dev with flows := flows } }

section
variable (s : State) (ps : AMap Port) (rs : AMap Word) (fs : AMap Flow)

@[simp] theorem State.withFabric_die (d : Nat) : (s.withFabric ps rs fs).die d = s.die d := rfl
@[simp] theorem State.withFabric_badSymbols (l : Nat) : (s.withFabric ps rs fs).badSymbols l = s.badSymbols l := rfl
@[simp] theorem State.withFabric_eccLine (l : Nat) : (s.withFabric ps rs fs).eccLine l = s.eccLine l := rfl
@[simp] theorem State.withFabric_lineBad (l : Nat) : (s.withFabric ps rs fs).lineBad l = s.lineBad l := rfl
@[simp] theorem State.withFabric_hbmLine (pa : Nat) (slot : Option Nat) : (s.withFabric ps rs fs).hbmLine pa slot = s.hbmLine pa slot := rfl
@[simp] theorem State.withFabric_lineView (pa : Nat) (key : Option Nat) : (s.withFabric ps rs fs).lineView pa key = s.lineView pa key := rfl
@[simp] theorem State.withFabric_material (k j : Nat) : (s.withFabric ps rs fs).material k j = s.material k j := rfl
@[simp] theorem State.withFabric_setDie (n : Nat) (d : Die) : (s.withFabric ps rs fs).setDie n d = (s.setDie n d).withFabric ps rs fs := rfl
@[simp] theorem State.withFabric_report (kind : Nat) (x y : Word) :
    (s.withFabric ps rs fs).report kind x y = (s.report kind x y).withFabric ps rs fs := rfl
@[simp] theorem State.withFabric_hbmPut (pa : Nat) (v : Line) (under : Option (BitVec 512)) :
    (s.withFabric ps rs fs).hbmPut pa v under = (s.hbmPut pa v under).withFabric ps rs fs := by
  dsimp only [State.hbmPut, State.withFabric]

@[simp] theorem State.withFabric_ite (c : Prop) [Decidable c] (t : State) :
    (if c then s.withFabric ps rs fs else t.withFabric ps rs fs) = (if c then s else t).withFabric ps rs fs := by
  split
  · rfl
  · rfl

@[simp] theorem State.withFabric_countCorrected (l : Nat) :
    (s.withFabric ps rs fs).countCorrected l = (s.countCorrected l).withFabric ps rs fs := by
  unfold State.countCorrected
  rw [← State.withFabric_ite]
  rfl

@[simp] theorem State.withFabric_l2Evict (l : L2Line) : (s.withFabric ps rs fs).l2Evict l = (s.l2Evict l).withFabric ps rs fs := by
  unfold State.l2Evict
  rw [← State.withFabric_ite, ← State.withFabric_hbmPut]
  rfl

/-- The line that makes room for another in a full set of the L2 (R135). -/
def State.l2Victim (s : State) (l : L2Line) : Option L2Line :=
  let rivals := l2Rivals (s.die (paDie l.pa)).l2 l
  if rivals.length < (if l.zero then zeroTags else stackWays) then none
  else
    match (rivals.filter (fun m => m.dirty || !s.eccLine m.pa)).getLast? with
    | some v => some v
    | none => rivals.getLast?

/-- The die with a line in its L2, in the way of the line that leaves. -/
def State.l2Placed (s : State) (l : L2Line) (victim : Option L2Line) : Die :=
  let d := s.die (paDie l.pa)
  match victim with
  | none =>
    let way := if l.zero then 0 else freeWay ((l2Rivals d.l2 l).map L2Line.way) (stackOf l.pa % 2 * stackWays) stackWays
    { d with l2 := { l with way := way } :: l2Drop d.l2 l.pa }
  | some v => { d with l2 := { l with way := v.way } :: l2Drop (l2Drop d.l2 l.pa) v.pa }

theorem State.l2Put_of_none {s : State} {l : L2Line} (h : s.l2Victim l = none) :
    s.l2Put l = s.setDie (paDie l.pa) (s.l2Placed l none) := by
  unfold State.l2Put
  change (match s.l2Victim l with | none => _ | some v => _) = _
  rw [h]
  rfl

theorem State.l2Put_of_some {s : State} {l v : L2Line} (h : s.l2Victim l = some v) :
    s.l2Put l = (s.l2Evict v).setDie (paDie l.pa) (s.l2Placed l (some v)) := by
  unfold State.l2Put
  change (match s.l2Victim l with | none => _ | some v => _) = _
  rw [h]
  rfl

@[simp] theorem State.withFabric_l2Put (l : L2Line) : (s.withFabric ps rs fs).l2Put l = (s.l2Put l).withFabric ps rs fs := by
  cases h : s.l2Victim l with
  | none => rw [State.l2Put_of_none h, ← State.withFabric_setDie]; exact State.l2Put_of_none h
  | some v =>
    rw [State.l2Put_of_some h, ← State.withFabric_setDie, ← State.withFabric_l2Evict]
    exact State.l2Put_of_some h

@[simp] theorem State.withFabric_l2Fill (pa : Nat) (key : Option Nat) :
    (s.withFabric ps rs fs).l2Fill pa key = (s.l2Fill pa key).withFabric ps rs fs := by
  unfold State.l2Fill
  simp

@[simp] theorem State.withFabric_l2Write (pa : Nat) (key : Option Nat) (data : Line) (mask : BitVec 64) :
    (s.withFabric ps rs fs).l2Write pa key data mask = (s.l2Write pa key data mask).withFabric ps rs fs := by
  unfold State.l2Write
  simp only [State.withFabric_die, State.withFabric_eccLine, State.withFabric_lineView, State.withFabric_countCorrected,
    State.withFabric_ite, State.withFabric_l2Put, State.withFabric_material]
  split
  · dsimp only [State.withFabric]
  · rfl

theorem State.withFabric_paWrite (key : Option Nat) (pa : Nat) (bs : List Byte) :
    (s.withFabric ps rs fs).paWrite key pa bs = (s.paWrite key pa bs).withFabric ps rs fs := by
  induction bs generalizing s pa with
  | nil => rfl
  | cons b bs ih =>
    rw [State.paWrite, State.withFabric_l2Write, ih]
    rfl

theorem State.withFabric_l2Reads (key : Option Nat) (ls : List Nat) :
    (s.withFabric ps rs fs).l2Reads key ls = (s.l2Reads key ls).withFabric ps rs fs := by
  induction ls generalizing s with
  | nil => rfl
  | cons l ls ih => exact (congrArg (State.l2Reads · key ls) (s.withFabric_l2Fill ps rs fs l key)).trans (ih _)

@[simp] theorem State.withFabric_paRead (key : Option Nat) (pa n : Nat) : (s.withFabric ps rs fs).paRead key pa n = s.paRead key pa n := by
  induction n generalizing pa with
  | zero => rfl
  | succ n ih => rw [State.paRead, State.withFabric_lineView, ih, State.paRead]

theorem State.withFabric_walkFrom (root va : Nat) (levels : List (Nat × Nat × Nat)) (table : Nat) :
    (s.withFabric ps rs fs).walkFrom root va levels table = s.walkFrom root va levels table := by
  induction levels generalizing table with
  | nil => rfl
  | cons l levels ih => simp only [State.walkFrom, State.withFabric_paRead, State.withFabric_lineBad, ih]

theorem State.withFabric_walkLines (va : Nat) (levels : List (Nat × Nat × Nat)) (table : Nat) :
    (s.withFabric ps rs fs).walkLines va levels table = s.walkLines va levels table := by
  induction levels generalizing table with
  | nil => rfl
  | cons l levels ih => simp only [State.walkLines, State.withFabric_paRead, State.withFabric_lineBad, ih]

theorem State.withFabric_l2Flush (b : Nat) : (s.withFabric ps rs fs).l2Flush b = (s.l2Flush b).withFabric ps rs fs := by
  unfold State.l2Flush
  simp only [State.withFabric_die, State.withFabric_l2Evict, State.withFabric_setDie]
  split
  · rfl
  · rfl

theorem State.withFabric_foldFlags (k : Nat) (fl : BitVec 5) :
    (s.withFabric ps rs fs).foldFlags k fl = (s.foldFlags k fl).withFabric ps rs fs := by
  unfold State.foldFlags
  rw [← State.withFabric_ite]
  rfl

theorem State.withFabric_baseUpd (pa key n : Nat) (f : Nat → Nat × BitVec 5) :
    (s.withFabric ps rs fs).baseUpd pa key n f = (s.baseUpd pa key n f).map (State.withFabric · ps rs fs) := by
  unfold State.baseUpd
  simp only [State.withFabric_l2Flush, State.withFabric_eccLine, State.withFabric_hbmLine, State.withFabric_countCorrected,
    State.withFabric_material, State.withFabric_hbmPut, State.withFabric_foldFlags]
  split
  · rfl
  · rfl

/-- The reads of a walk change no register. -/
theorem State.walkReads_regs (part va : Nat) : (s.walkReads part va).regs = s.regs := by
  have h : s.walkReads part va = (s.walkReads part va).withFabric s.ports s.regs s.dev.flows :=
    s.withFabric_l2Reads s.ports s.regs s.dev.flows none (s.walkLines va walkLevels (s.rootOf part))
  rw [h]
  rfl

theorem State.walkReads_reg (part va a : Nat) : (s.walkReads part va).reg a = s.reg a := State.reg_congr (s.walkReads_regs part va) a

end

/-- The page that a walk finds lies in the HBM. -/
theorem State.walkFrom_page_lt {s : State} {root va : Nat} {levels : List (Nat × Nat × Nat)} {table : Nat} {pg : TlbEnt} {e : Nat} {z : Bool}
    (h : s.walkFrom root va levels table = .page pg e z) : pg.pa < 2 ^ 39 := by
  induction levels generalizing table with
  | nil => cases h
  | cons l levels ih =>
    rw [State.walkFrom] at h
    dsimp only at h
    split at h
    · cases h
    · split at h
      · cases h
      · split at h
        · cases h
        · split at h
          · cases h
          · split at h
            · cases h
              exact (Nat.mul_lt_mul_of_pos_right (bitsOf_lt _ 12 27) (by decide)).trans_eq (by decide)
            · exact ih h

section
variable {s : State} {part va sz e : Nat} {pg : TlbEnt} {p : Perm}

/-- A translation by a page that is not to be zero-filled, and passes the checks. -/
theorem State.partXlate_ok (hw : (s.walkReads part va).walk part va = .page pg e false) (hc : (s.walkReads part va).pageCause pg p va sz = none) :
    s.partXlate part va sz p = (.ok pg, s.walkReads part va) := by
  simp [State.partXlate, hw, hc]

/-- One that fails a check. -/
theorem State.partXlate_error {c : BitVec 8} (hw : (s.walkReads part va).walk part va = .page pg e false)
    (hc : (s.walkReads part va).pageCause pg p va sz = some c) : s.partXlate part va sz p = (.error c, s.walkReads part va) := by
  simp [State.partXlate, hw, hc]

end

section
variable (s : State) (ps : AMap Port) (rs : AMap Word) (fs : AMap Flow)
variable (hregs : ∀ a, a < 0x100000 ∨ 0x200000 ≤ a → AMap.getD rs a (Pf.resetValue a) = s.reg a)
include hregs

theorem State.withFabric_rootOf (part : Nat) : (s.withFabric ps rs fs).rootOf part = s.rootOf part := by
  unfold State.rootOf
  rw [← hregs _ (.inr (by unfold Pf.mmuRoot; omega))]
  rfl

theorem State.withFabric_walkReads (part va : Nat) :
    (s.withFabric ps rs fs).walkReads part va = (s.walkReads part va).withFabric ps rs fs := by
  rw [State.walkReads, s.withFabric_rootOf ps rs fs hregs, State.withFabric_walkLines, State.withFabric_l2Reads, State.walkReads]

theorem State.withFabric_walk (part va : Nat) : (s.withFabric ps rs fs).walk part va = s.walk part va := by
  rw [State.walk, s.withFabric_rootOf ps rs fs hregs, State.withFabric_walkFrom, State.walk]

theorem State.withFabric_pageCause {pg : TlbEnt} (hpa : pg.pa < 2 ^ 39) (p : Perm) (va sz : Nat) :
    (s.withFabric ps rs fs).pageCause pg p va sz = s.pageCause pg p va sz := by
  have hpool : (s.withFabric ps rs fs).inPool pg.root va sz = s.inPool pg.root va sz := by
    unfold State.inPool
    rw [← hregs _ (.inr (by unfold Pf.chr; omega))]
    rfl
  have hreach : (s.withFabric ps rs fs).reg (Pf.mmuReach pg.root) = s.reg (Pf.mmuReach pg.root) :=
    hregs _ (.inr (by unfold Pf.mmuReach; omega))
  have hkey : (s.withFabric ps rs fs).keyLoaded (stackOf pg.pa) pg.key = s.keyLoaded (stackOf pg.pa) pg.key := by
    unfold State.keyLoaded
    rw [← hregs _ (.inl (by unfold Pf.keyStat stackOf; omega))]
    rfl
  rw [State.pageCause, hpool, hreach, hkey, State.pageCause]

theorem State.withFabric_fix (h : BitVec 32) : (s.withFabric ps rs fs).fix h = s.fix h := by
  have hself : (s.withFabric ps rs fs).selfDev = s.selfDev := by
    unfold State.selfDev State.regF
    rw [← hregs _ (.inr (by decide))]
    rfl
  rw [State.fix, hself, State.fix]
  rfl

end

/-! ### What the packets do that are accepted (R31, R33, R35) -/

/-- What an acknowledgement up to a packet's number leaves of a flow. -/
def Flow.unacked (f : Flow) (seq : BitVec 32) : Flow :=
  { f with kept := f.kept.filter (fun u => !decide ((seq - u.pkt.seq).toNat < 2 ^ 31)) }

/-- The address that a remote write or fold names. -/
abbrev Packet.va (k : Packet) : Nat := bitsOf k.h2 0 56

/-- The state as the walk for that address leaves it. -/
abbrev State.walked (s : State) (k : Packet) : State := s.walkReads k.dstPart k.va

namespace State

/-- The last result of a fix of another device. -/
def keepResult (s : State) (k : Packet) : State :=
  { s with dev := { s.dev with results := AMap.set s.dev.results k.handle.toNat (k.round, k.data) } }

/-- A remote write, unit by unit. -/
def writeRemote (s : State) (k : Packet) : State :=
  s.remoteWrite k.dstPart (units k.va (k.data.length + 1) k.data.length) k.data

/-- A remote fold, element by element. -/
def foldRemote (s : State) (k : Packet) : State :=
  let ty := ElTy.ofCode (k.h2.extractLsb' 56 4)
  if ty = .f32 || ty = .bf16 then s.remoteFold k.dstPart ty none k.va ((groups (ty.bits / 8) k.data.length k.data).map ofLeBytes)
  else s.remoteFault k.dstPart k.va 0x04

/-- An acknowledgement. -/
def freeAcked (s : State) (k : Packet) : State :=
  let vl := bitsOf k.h2 0 2
  let f := s.flow k.srcDev vl
  (f.kept.filter (fun t => decide ((k.seq - t.pkt.seq).toNat < 2 ^ 31))).foldl (fun s t => s.copyAcked t.copy)
    (s.setFlow k.srcDev vl (f.unacked k.seq))

/-- A withheld notice. -/
def noteWithheld (s : State) (k : Packet) : State :=
  match s.fix k.handle with
  | some f => if f.remoteHalted.contains k.rank then s else s.setFixObj k.handle { f with remoteHalted := k.rank :: f.remoteHalted }
  | none => s

/-- The words of the rounds of a fix, as its waiters are released (R35, R207). -/
def roundWords (h : BitVec 32) (f : FixObj) : List Word :=
  ((f.folds.map (fun e => e.2.tag)).eraseDups).map (fun t => BitVec.ofNat 64 (5 * 2 ^ 60 + h.toNat + t.toNat % 2 ^ 28 * 2 ^ 32))

/-- A partition releases waiters in the next mesh cycle. -/
def releaseIn (ds : List Word) (s : State) (q : Nat) : State :=
  s.setPart q { s.part q with remote := (s.part q).remote ++ ds.map (fun d => (d, s.mesh + 1)) }

/-- A released notice. -/
def noteReleased (s : State) (k : Packet) : State :=
  match s.fix k.handle with
  | some f => partNums.foldl (releaseIn (roundWords k.handle f))
      (s.setFixObj k.handle { f with remoteHalted := f.remoteHalted.filter (· ≠ k.rank) })
  | none => s

/-- What an accepted packet does, by its type. -/
def packetDoes (p ty : Nat) (k : Packet) (s : State) : State :=
  match ty with
  | 1 => s.rxContribution p k
  | 2 => s.keepResult k
  | 3 => s.writeRemote k
  | 4 => s.foldRemote k
  | 5 => s.freeAcked k
  | 6 => s.noteWithheld k
  | 7 => s.noteReleased k
  | _ => s

end State

/-- The event of each type takes the packet at the head of the queue. -/
theorem exec_packet {p ty : Nat} {i : Instr} (s : State)
    (h : [none, some (Instr.pktFixContribution p), some (.pktFixResult p), some (.pktRemoteWrite p), some (.pktRemoteFold p),
      some (.pktE2eAck p), some (.pktWithheld p), some (.pktReleased p)].getD ty none = some i) :
    exec i s = .next ((s.rxPacket p ty (State.packetDoes p ty)).getD s) := by
  match ty, h with
  | 0, h => cases h
  | 1, h => cases h; rfl
  | 2, h => cases h; rfl
  | 3, h => cases h; rfl
  | 4, h => cases h; rfl
  | 5, h => cases h; rfl
  | 6, h => cases h; rfl
  | 7, h => cases h; rfl
  | n + 8, h => cases h

/-! ### How it is taken and checked (R33, R36, R37, R42) -/

/-- The packet at the head has left the receive queue, and its buffer space is free. -/
def State.taken (s : State) (p : Nat) (k : Packet) (rest : List Packet) : State :=
  (s.setPort p { s.port p with rxq := rest }).giveBack p k.vl k.pieces.length

/-- The packet has been accepted in sequence, and no acknowledgement is due yet. -/
def State.accepted (s : State) (p : Nat) (k : Packet) (rest : List Packet) : State :=
  let f := s.flow k.srcDev k.vl
  ((s.taken p k rest).setFlow k.srcDev k.vl { f with expect := f.expect + 1, since := f.since + 1, lastRx := k }).portWake p k

section
variable {s : State} {p : Nat} {k : Packet} {rest : List Packet}

theorem State.taken_regs : (s.taken p k rest).regs = s.regs := rfl

theorem State.taken_rxq : ((s.taken p k rest).port p).rxq = rest := by
  obtain ⟨o, ho⟩ := (s.setPort p { s.port p with rxq := rest }).giveBack_port p k.vl k.pieces.length
  rw [State.taken, ho, State.setPort_port_same]

theorem State.pumpPort_rxq (s : State) (p : Nat) : ((s.pumpPort p).port p).rxq = (s.port p).rxq := by
  obtain ⟨-, -, -, h⟩ := s.pumpPort_sameReceiver p
  exact h

theorem State.accepted_rxq : ((s.accepted p k rest).port p).rxq = rest := State.taken_rxq

theorem State.accepted_flow : (s.accepted p k rest).flow k.srcDev k.vl =
    { s.flow k.srcDev k.vl with expect := (s.flow k.srcDev k.vl).expect + 1, since := (s.flow k.srcDev k.vl).since + 1, lastRx := k } :=
  State.setFlow_flow_same _ _ _ _

section
variable (htag : s.tagPass p k.tag k.dstPart = true)

theorem State.acceptPkt_untagged (h : s.tagPass p k.tag k.dstPart = false) : s.acceptPkt p k = (false, s.tagDrop p k false) := by
  simp [State.acceptPkt, h]

include htag

theorem State.acceptPkt_elsewhere (h : k.dstDev ≠ s.regF Pf.fabSelf 0 12) : s.acceptPkt p k = (false, s.portCount p 0x020 16 1) := by
  simp [State.acceptPkt, htag, h]

variable (hdev : k.dstDev = s.regF Pf.fabSelf 0 12)
include hdev

theorem State.acceptPkt_unnumbered (hvl : k.vl = 3) : s.acceptPkt p k = (true, s) := by
  simp [State.acceptPkt, htag, hdev, hvl]

variable (hvl : k.vl < 3)
include hvl

theorem State.acceptPkt_again (hne : (s.flow k.srcDev k.vl).expect ≠ k.seq) (hb : ((s.flow k.srcDev k.vl).expect - k.seq).toNat ≤ 2 ^ 31) :
    s.acceptPkt p k = (false, (s.portCount p 0x018 32 1).ackFlow p k.srcDev k.vl k) := by
  have h0 : ((s.flow k.srcDev k.vl).expect - k.seq).toNat ≠ 0 := by bv_omega
  simp only [State.acceptPkt, htag, hdev, Nat.ne_of_lt hvl, h0, hb, Bool.not_true, Bool.false_eq_true, ne_eq, not_true, if_false, if_true]

theorem State.acceptPkt_inSequence (he : (s.flow k.srcDev k.vl).expect = k.seq) (hsince : (s.flow k.srcDev k.vl).since < 15) :
    s.acceptPkt p k = (true, (s.setFlow k.srcDev k.vl { s.flow k.srcDev k.vl with
      expect := (s.flow k.srcDev k.vl).expect + 1, since := (s.flow k.srcDev k.vl).since + 1, lastRx := k }).portWake p k) := by
  have h0 : ((s.flow k.srcDev k.vl).expect - k.seq).toNat = 0 := by bv_omega
  have hn : ((s.flow k.srcDev k.vl).since + 1) % 16 = (s.flow k.srcDev k.vl).since + 1 := by omega
  simp [State.acceptPkt, htag, hdev, Nat.ne_of_lt hvl, h0, hn]

end

section
variable {i : Instr} (hup : s.portUp p = true) (hrxq : (s.port p).rxq = k :: rest)
  (hi : [none, some (Instr.pktFixContribution p), some (.pktFixResult p), some (.pktRemoteWrite p), some (.pktRemoteFold p),
      some (.pktE2eAck p), some (.pktWithheld p), some (.pktReleased p)].getD k.type none = some i)
include hup hrxq

theorem State.rxPacket_head {act : Packet → State → State} {ok : Bool} {u : State} (h : (s.taken p k rest).acceptPkt p k = (ok, u)) :
    s.rxPacket p k.type act = some ((if ok then act k u else u).pumpPort p) := by
  unfold State.rxPacket
  rw [hrxq, hup]
  dsimp only
  rw [if_neg (by simp)]
  change (match (s.taken p k rest).acceptPkt p k with | (ok, s2) => some ((if ok then act k s2 else s2).pumpPort p)) = _
  rw [h]

include hi

theorem exec_refused {u : State} (h : (s.taken p k rest).acceptPkt p k = (false, u)) : exec i s = .next (u.pumpPort p) := by
  rw [exec_packet s hi, State.rxPacket_head hup hrxq h]
  rfl

theorem exec_admitted {u : State} (h : (s.taken p k rest).acceptPkt p k = (true, u)) :
    exec i s = .next ((State.packetDoes p k.type k u).pumpPort p) := by
  rw [exec_packet s hi, State.rxPacket_head hup hrxq h]
  rfl

/-- A packet whose tag does not pass is dropped and counted. -/
theorem exec_untagged (htag : s.tagPass p k.tag k.dstPart = false) : ∃ t, exec i s = .next t ∧
    t.regF (Pf.port p 0x018) 48 16 = min (s.regF (Pf.port p 0x018) 48 16 + 1) 0xFFFF ∧ (t.port p).rxq = rest ∧
    t.dev.flows = s.dev.flows ∧ t.cores = s.cores := by
  have htaken : (s.taken p k rest).tagPass p k.tag k.dstPart = false := by rwa [State.tagPass_congr State.taken_regs]
  have hsame := (s.taken p k rest).tagDrop_same p k false
  refine ⟨_, exec_refused hup hrxq hi (State.acceptPkt_untagged htaken), ?_, ?_, ?_, ?_⟩
  · rw [State.pumpPort_regF]
    exact State.tagDrop_count _ _ _ _
  · rw [State.pumpPort_rxq, State.port, hsame.ports]
    exact State.taken_rxq
  · rw [State.pumpPort_dev, hsame.flows]
    rfl
  · rw [State.pumpPort_cores, hsame.cores]
    rfl

variable (htag : s.tagPass p k.tag k.dstPart = true)
include htag

/-- One for another device is a header error. -/
theorem exec_elsewhere (hdev : k.dstDev ≠ s.regF Pf.fabSelf 0 12) : ∃ t, exec i s = .next t ∧
    t.regF (Pf.port p 0x020) 16 16 = min (s.regF (Pf.port p 0x020) 16 16 + 1) 0xFFFF ∧ (t.port p).rxq = rest ∧
    t.dev.flows = s.dev.flows ∧ t.cores = s.cores := by
  have htaken : (s.taken p k rest).tagPass p k.tag k.dstPart = true := by rwa [State.tagPass_congr State.taken_regs]
  refine ⟨_, exec_refused hup hrxq hi (State.acceptPkt_elsewhere htaken hdev), ?_, ?_, ?_, ?_⟩
  · rw [State.pumpPort_regF]
    exact State.portCount_regF _ p 0x020 1 (by decide)
  · rw [State.pumpPort_rxq]
    exact State.taken_rxq
  · rw [State.pumpPort_dev]
    rfl
  · rw [State.pumpPort_cores]
    rfl

variable (hdev : k.dstDev = s.regF Pf.fabSelf 0 12) (hvl : k.vl < 3)
include hdev hvl

/-- One that its flow has already taken is dropped, counted and acknowledged. -/
theorem exec_again (hne : (s.flow k.srcDev k.vl).expect ≠ k.seq) (hb : ((s.flow k.srcDev k.vl).expect - k.seq).toNat ≤ 2 ^ 31) :
    ∃ t, exec i s = .next t ∧ t.regF (Pf.port p 0x018) 32 16 = min (s.regF (Pf.port p 0x018) 32 16 + 1) 0xFFFF ∧
      t.dev.flows = s.dev.flows ∧ t.cores = s.cores ∧ (t.port p).rxq = rest := by
  have htaken : (s.taken p k rest).tagPass p k.tag k.dstPart = true := by rwa [State.tagPass_congr State.taken_regs]
  have hsent : ((s.taken p k rest).portCount p 0x018 32 1).SameButSending
      (((s.taken p k rest).portCount p 0x018 32 1).ackFlow p k.srcDev k.vl k) := State.emit_same _ _ _
  refine ⟨_, exec_refused hup hrxq hi (State.acceptPkt_again htaken hdev hvl hne hb), ?_, ?_, ?_, ?_⟩
  · rw [State.pumpPort_regF, hsent.counts p (by decide)]
    exact State.portCount_regF _ p 0x018 1 (by decide)
  · rw [State.pumpPort_dev, hsent.flows]
    rfl
  · rw [State.pumpPort_cores, hsent.cores]
    rfl
  · rw [State.pumpPort_rxq, hsent.rxq]
    exact State.taken_rxq

/-- One in its turn is accepted: it does what its type says, and the flow expects the next. -/
theorem exec_inSequence (he : (s.flow k.srcDev k.vl).expect = k.seq) (hsince : (s.flow k.srcDev k.vl).since < 15) {u : State}
    (hu : State.packetDoes p k.type k (s.accepted p k rest) = u) (hfab : (s.accepted p k rest).SameFabric u) :
    exec i s = .next (u.pumpPort p) ∧ ((u.pumpPort p).port p).rxq = rest ∧ (u.pumpPort p).flow k.srcDev k.vl =
      { s.flow k.srcDev k.vl with expect := (s.flow k.srcDev k.vl).expect + 1, since := (s.flow k.srcDev k.vl).since + 1, lastRx := k } := by
  have htaken : (s.taken p k rest).tagPass p k.tag k.dstPart = true := by rwa [State.tagPass_congr State.taken_regs]
  refine ⟨?_, ?_, ?_⟩
  · rw [← hu]
    exact exec_admitted hup hrxq hi (State.acceptPkt_inSequence htaken hdev hvl he hsince)
  · rw [State.pumpPort_rxq, hfab.port]
    exact State.accepted_rxq
  · rw [State.flow, State.pumpPort_dev]
    exact (hfab.flow _ _).trans State.accepted_flow

end
end

/-! ### What the accepted packet finds -/

section
variable {s : State} {p : Nat} {k : Packet} {rest : List Packet}

/-- The fabric aside, the state is as it was. -/
theorem State.accepted_eq : s.accepted p k rest =
    s.withFabric (s.accepted p k rest).ports (s.accepted p k rest).regs (s.accepted p k rest).dev.flows := rfl

theorem State.accepted_regs (hp : p < 64) (a : Nat) (ha : a < 0x100000 ∨ 0x200000 ≤ a) :
    AMap.getD (s.accepted p k rest).regs a (Pf.resetValue a) = s.reg a :=
  State.setReg_reg_other _ _ _ (by unfold Pf.port; omega)

theorem State.accepted_fix (hp : p < 64) (h : BitVec 32) : (s.accepted p k rest).fix h = s.fix h :=
  State.withFabric_fix s _ _ _ (State.accepted_regs hp) h

end

/-! ### Contributions (R31, R189) -/

section
variable {s : State} {p : Nat} {k : Packet} {o : FixObj} {key : Nat} {fo : Fold}

@[simp] theorem State.setFixObj_noc (s : State) (h : BitVec 32) (f : FixObj) : (s.setFixObj h f).noc = s.noc := by
  unfold State.setFixObj; split <;> rfl
@[simp] theorem State.setFixObj_nextId (s : State) (h : BitVec 32) (f : FixObj) : (s.setFixObj h f).nextId = s.nextId := by
  unfold State.setFixObj; split <;> rfl
@[simp] theorem State.setFixObj_mesh (s : State) (h : BitVec 32) (f : FixObj) : (s.setFixObj h f).mesh = s.mesh := by
  unfold State.setFixObj; split <;> rfl

/-- A message that waits for nothing is due at once where the distance is nought. -/
theorem State.post_noc (s : State) (m : NocMsg) :
    (s.post m [] 0).noc = s.noc ++ [{ id := s.nextId, m := m, after := [], dist := 0, due := some s.mesh }] := rfl

/-- The contribution that a packet carries. -/
def Packet.contrib (k : Packet) (p : Nat) (d : Line) : Contrib :=
  { rank := k.rank, tag := k.round, vals := fxValues d k.data, port := p, part := k.dstPart }

variable (hfix : s.fix k.handle = some o) (hfolds : o.folds = [(key, fo)]) (hrank : k.rank < fxN o.desc) (hchunk : k.chunk < chunkCount o.desc)
include hfix hfolds hrank hchunk

theorem State.rxContribution_arrival (ha : fxArrival o.desc = true) : s.rxContribution p k =
    s.post (.fix k.handle key { k.contrib p o.desc with chunk := k.chunk, chunks := chunkCount o.desc }) [] 0 := by
  simp [State.rxContribution, hfix, hfolds, Nat.not_le.2 hrank, Nat.not_le.2 hchunk, ha, Packet.contrib]

/-- A contribution of one chunk is whole with it. -/
theorem State.rxContribution_single (ha : fxArrival o.desc = false) (hone : chunkCount o.desc = 1) (hparts : fo.parts = []) :
    ∃ f, s.rxContribution p k = (s.setFixObj k.handle f).post (.fix k.handle key (k.contrib p o.desc)) [] 0 := by
  have hc0 : k.chunk = 0 := by omega
  have hfold : o.fold key = fo := by simp [FixObj.fold, hfolds, AMap.getD, AMap.get?]
  refine ⟨o.setFold key { fo with parts := [] }, ?_⟩
  simp [State.rxContribution, hfix, hfolds, hrank, hone, hc0, ha, hfold, hparts, Packet.contrib]

end

/-! ### Remote writes and folds (R31, R342) -/

/-- A range within a doubleword is one unit. -/
theorem units_single {a n : Nat} (h : 1 ≤ n) (hn : n ≤ 8 - a % 8) : units a (n + 1) n = [(a, n)] := by
  obtain ⟨m, rfl⟩ : ∃ m, n = m + 1 := ⟨n - 1, by omega⟩
  simp [units, Nat.min_eq_left hn]

/-- As many bytes as a group has are one group. -/
theorem groups_single {bs : List Byte} (h : bs ≠ []) : groups bs.length bs.length bs = [bs] := by
  cases bs with
  | nil => exact absurd rfl h
  | cons b bs => cases bs <;> simp [groups]

section
variable {s : State} {k : Packet} {pg : TlbEnt} {e : Nat}
  (hw : (s.walked k).walk k.dstPart k.va = .page pg e false)
include hw

section
variable (hlen : 1 ≤ k.data.length) (hunit : k.data.length ≤ 8 - k.va % 8)
include hlen hunit

theorem State.writeRemote_ok (hc : (s.walked k).pageCause pg .w k.va k.data.length = none) :
    s.writeRemote k = (s.walked k).paWrite (some pg.key) (pg.phys k.va) k.data := by
  rw [State.writeRemote, units_single hlen hunit, State.remoteWrite, State.partXlate_ok hw hc]
  simp [State.remoteWrite, State.keyOf]

theorem State.writeRemote_fault {c : BitVec 8}
    (hc : (s.walked k).pageCause pg .w k.va k.data.length = some c) :
    s.writeRemote k = (s.walked k).remoteFault k.dstPart k.va c := by
  rw [State.writeRemote, units_single hlen hunit, State.remoteWrite, State.partXlate_error hw hc]

end

theorem State.foldRemote_single {ty : ElTy} (hty : ElTy.ofCode (k.h2.extractLsb' 56 4) = ty) (hf : ty = .f32 ∨ ty = .bf16)
    (hc : (s.walked k).pageCause pg .rw k.va (ty.bits / 8) = none) (hlen : k.data.length = ty.bits / 8)
    {u : State} (hu : (s.walked k).baseFold (pg.phys k.va) pg.key ty (ofLeBytes k.data) = some u) :
    s.foldRemote k = u := by
  have hne : k.data ≠ [] := by
    intro h
    rw [h] at hlen
    rcases hf with rfl | rfl
    · exact absurd hlen (by decide)
    · exact absurd hlen (by decide)
  have hg : groups (ty.bits / 8) k.data.length k.data = [k.data] := by rw [← hlen]; exact groups_single hne
  rw [State.foldRemote, hty]
  rw [if_pos (by simpa using hf), hg, List.map_singleton, State.remoteFold, State.partXlate_ok hw hc]
  simp only [State.keyOf, Option.getD_some, hu, State.remoteFold]

end

/-- A fold of another type is refused. -/
theorem State.foldRemote_refused {s : State} {k : Packet} {ty : ElTy} (hty : ElTy.ofCode (k.h2.extractLsb' 56 4) = ty) (h32 : ty ≠ .f32)
    (h16 : ty ≠ .bf16) : s.foldRemote k = s.remoteFault k.dstPart k.va 0x04 := by
  simp [State.foldRemote, hty, h32, h16]

section
variable {s : State} {p : Nat} {k : Packet} {rest : List Packet} (hp : p < 64)
include hp

/-- The accepted packet walks as the state before would. -/
theorem State.accepted_walkReads (part va : Nat) : (s.accepted p k rest).walkReads part va =
    (s.walkReads part va).withFabric (s.accepted p k rest).ports (s.accepted p k rest).regs (s.accepted p k rest).dev.flows :=
  s.withFabric_walkReads _ _ _ (State.accepted_regs hp) part va

theorem State.accepted_walked : (s.accepted p k rest).walked k =
    (s.walked k).withFabric (s.accepted p k rest).ports (s.accepted p k rest).regs (s.accepted p k rest).dev.flows :=
  State.accepted_walkReads hp _ _

theorem State.accepted_walked_regs (part va a : Nat) (ha : a < 0x100000 ∨ 0x200000 ≤ a) :
    AMap.getD (s.accepted p k rest).regs a (Pf.resetValue a) = (s.walkReads part va).reg a :=
  (State.accepted_regs hp a ha).trans (s.walkReads_reg part va a).symm

theorem State.accepted_walk (part va : Nat) :
    ((s.accepted p k rest).walkReads part va).walk part va = (s.walkReads part va).walk part va := by
  rw [State.accepted_walkReads hp]
  exact State.withFabric_walk _ _ _ _ (State.accepted_walked_regs hp part va) part va

theorem State.accepted_pageCause {part va e : Nat} {pg : TlbEnt} {z : Bool} (hw : (s.walkReads part va).walk part va = .page pg e z)
    (perm : Perm) (a sz : Nat) :
    ((s.accepted p k rest).walkReads part va).pageCause pg perm a sz = (s.walkReads part va).pageCause pg perm a sz := by
  rw [State.accepted_walkReads hp]
  exact State.withFabric_pageCause _ _ _ _ (State.accepted_walked_regs hp part va) (State.walkFrom_page_lt hw) perm a sz

end

/-! ### Notices (R35, R207) -/

/-- What a handle names rests on the registers, the cores and what is known of the fixes of other devices. -/
theorem State.fix_congr {s t : State} (hregs : t.regs = s.regs) (hcores : t.cores = s.cores) (hdev : t.dev.farFixes = s.dev.farFixes)
    (h : BitVec 32) : t.fix h = s.fix h := by
  rw [State.fix, State.selfDev, State.regF, State.reg_congr hregs, State.core, hcores, hdev]
  rfl

/-- A handle names the fix as it has been changed, while it is the same fix. -/
theorem State.fix_setFixObj {s : State} {h : BitVec 32} {o f : FixObj} (ho : s.fix h = some o) (hlive : f.live = o.live) (hgen : f.gen = o.gen) :
    (s.setFixObj h f).fix h = some f := by
  unfold State.fix at ho
  split at ho
  · cases ho
  next hh =>
    by_cases hd : fxDev h = s.selfDev
    · rw [if_pos hd] at ho
      dsimp only at ho
      split at ho
      next hl =>
        cases ho
        have hself : (s.setCore (fxHome h) ((s.core (fxHome h)).setFix (fxSlot h) f)).selfDev = s.selfDev := rfl
        have hobj : ((s.core (fxHome h)).setFix (fxSlot h) f).fixObj (fxSlot h) = f := AMap.getD_set_same _ _ _ _
        rw [State.setFixObj, if_pos hd, State.fix, if_neg hh, hself, if_pos hd, State.setCore_core_same, hobj]
        dsimp only
        rw [hlive, hgen, if_pos hl]
      · cases ho
    · have hself : ({ s with dev := { s.dev with farFixes := AMap.set s.dev.farFixes h.toNat f } } : State).selfDev = s.selfDev := rfl
      rw [State.setFixObj, if_neg hd, State.fix, if_neg hh, hself, if_neg hd]
      exact AMap.get?_set_same _ _ _

theorem State.releaseIn_fix (ds : List Word) (s : State) (q : Nat) (h : BitVec 32) : (s.releaseIn ds q).fix h = s.fix h :=
  State.fix_congr rfl rfl rfl h

/-- Waiters that are to be released stay so. -/
theorem State.releaseIn_keeps {ds : List Word} {s : State} {a q : Nat} {e : Word × Nat} (h : e ∈ (s.part q).remote) :
    e ∈ ((s.releaseIn ds a).part q).remote := by
  by_cases hq : q = a
  · subst hq
    rw [State.releaseIn, State.setPart_part_same]
    exact List.mem_append_left _ h
  · rwa [State.releaseIn, State.setPart_part_other _ _ _ hq]

theorem State.foldl_releaseIn_keeps {ds : List Word} {q : Nat} {e : Word × Nat} (l : List Nat) {s : State} (h : e ∈ (s.part q).remote) :
    e ∈ ((l.foldl (State.releaseIn ds) s).part q).remote := by
  induction l generalizing s with
  | nil => exact h
  | cons a l ih => exact ih (State.releaseIn_keeps h)

/-- Each partition in turn releases every round's waiters. -/
theorem State.foldl_releaseIn_mem {ds : List Word} {d : Word} {q : Nat} {l : List Nat} (hq : q ∈ l) (hd : d ∈ ds) (s : State) :
    (d, s.mesh + 1) ∈ ((l.foldl (State.releaseIn ds) s).part q).remote := by
  induction l generalizing s with
  | nil => cases hq
  | cons a l ih =>
    rcases List.mem_cons.1 hq with rfl | hq
    · refine State.foldl_releaseIn_keeps l ?_
      rw [State.releaseIn, State.setPart_part_same]
      exact List.mem_append_right _ (List.mem_map_of_mem hd)
    · exact ih hq (s.releaseIn ds a)

section
variable {s : State} {k : Packet} {o : FixObj} (hfix : s.fix k.handle = some o)
include hfix

theorem State.noteWithheld_fix : ∃ g, (s.noteWithheld k).fix k.handle = some g ∧ k.rank ∈ g.remoteHalted := by
  unfold State.noteWithheld
  rw [hfix]
  dsimp only
  split
  next h => exact ⟨o, hfix, by simpa using h⟩
  next => exact ⟨_, State.fix_setFixObj hfix rfl rfl, List.mem_cons_self⟩

theorem State.noteReleased_eq : s.noteReleased k = partNums.foldl (State.releaseIn (State.roundWords k.handle o))
    (s.setFixObj k.handle { o with remoteHalted := o.remoteHalted.filter (· ≠ k.rank) }) := by
  rw [State.noteReleased, hfix]

theorem State.noteReleased_fix : ∃ g, (s.noteReleased k).fix k.handle = some g ∧ k.rank ∉ g.remoteHalted := by
  refine ⟨{ o with remoteHalted := o.remoteHalted.filter (· ≠ k.rank) }, ?_, by simp⟩
  rw [State.noteReleased_eq hfix]
  exact (foldl_keeps (fun t : State => t.fix k.handle) (fun t q => t.releaseIn_fix _ q k.handle) _ _).trans (State.fix_setFixObj hfix rfl rfl)

theorem State.noteReleased_remote {q : Nat} (hq : q < 8) {e : Nat × Fold} (he : e ∈ o.folds) :
    (BitVec.ofNat 64 (5 * 2 ^ 60 + k.handle.toNat + e.2.tag.toNat % 2 ^ 28 * 2 ^ 32), s.mesh + 1) ∈ ((s.noteReleased k).part q).remote := by
  have hword : BitVec.ofNat 64 (5 * 2 ^ 60 + k.handle.toNat + e.2.tag.toNat % 2 ^ 28 * 2 ^ 32) ∈ State.roundWords k.handle o :=
    List.mem_map.2 ⟨e.2.tag, List.mem_eraseDups.2 (List.mem_map_of_mem he), rfl⟩
  rw [State.noteReleased_eq hfix, ← s.setFixObj_mesh k.handle { o with remoteHalted := o.remoteHalted.filter (· ≠ k.rank) }]
  exact State.foldl_releaseIn_mem (List.mem_range.2 hq) hword _

end

/-! ### What each type leaves of the fabric -/

namespace State.SameFabric

variable {s₀ s : State} (h : s₀.SameFabric s)
include h

theorem noteWithheld {k : Packet} : s₀.SameFabric (s.noteWithheld k) := by
  unfold State.noteWithheld
  split
  · exact .ite h h.setFixObj
  · exact h

theorem noteReleased {k : Packet} : s₀.SameFabric (s.noteReleased k) := by
  unfold State.noteReleased
  split
  · exact foldl (fun _ _ h => h.setPart) _ h.setFixObj
  · exact h

end State.SameFabric

/-! ### Acknowledgements (R33) -/

@[simp] theorem State.copyAcked_dev (s : State) (c : Option (Nat × Nat × BitVec 16 × Nat)) : (s.copyAcked c).dev = s.dev := by
  unfold State.copyAcked; split <;> rfl
@[simp] theorem State.copyAcked_ports (s : State) (c : Option (Nat × Nat × BitVec 16 × Nat)) : (s.copyAcked c).ports = s.ports := by
  unfold State.copyAcked; split <;> rfl

theorem State.freeAcked_flow (s : State) (k : Packet) : (s.freeAcked k).flow k.srcDev (bitsOf k.h2 0 2) =
    (s.flow k.srcDev (bitsOf k.h2 0 2)).unacked k.seq := by
  unfold State.freeAcked
  rw [State.flow, foldl_keeps State.dev (fun (s : State) (t : TxPkt) => s.copyAcked_dev t.copy)]
  exact State.setFlow_flow_same _ _ _ _

theorem State.freeAcked_ports (s : State) (k : Packet) : (s.freeAcked k).ports = s.ports :=
  foldl_keeps State.ports (fun (s : State) (t : TxPkt) => s.copyAcked_ports t.copy) _ _

/-! ### What is left after the port has sent what it may -/

@[simp] theorem State.pumpPort_noc (s : State) (p : Nat) : (s.pumpPort p).noc = s.noc := by unfold State.pumpPort; split <;> rfl
@[simp] theorem State.pumpPort_dies (s : State) (p : Nat) : (s.pumpPort p).dies = s.dies := by unfold State.pumpPort; split <;> rfl
@[simp] theorem State.pumpPort_hbm (s : State) (p : Nat) : (s.pumpPort p).hbm = s.hbm := by unfold State.pumpPort; split <;> rfl
@[simp] theorem State.pumpPort_lineKey (s : State) (p : Nat) : (s.pumpPort p).lineKey = s.lineKey := by unfold State.pumpPort; split <;> rfl
@[simp] theorem State.pumpPort_part (s : State) (p q : Nat) : (s.pumpPort p).part q = s.part q := by unfold State.pumpPort; split <;> rfl
@[simp] theorem State.pumpPort_fix (s : State) (p : Nat) (h : BitVec 32) : (s.pumpPort p).fix h = s.fix h :=
  State.fix_congr (s.pumpPort_regs p) (s.pumpPort_cores p) (by rw [State.pumpPort_dev]) h

/-! ### A packet in sequence, by type (R31, R33, R35) -/

/-- An event accepts the packet at the head of a port's receive queue in sequence: it leaves the queue, its flow expects the next, and what
it does holds of the state. -/
def State.Runs (s : State) (p : Nat) (k : Packet) (rest : List Packet) (i : Instr) (g : State → Prop) : Prop :=
  ∃ t, exec i s = .next t ∧ (t.port p).rxq = rest ∧ t.flow k.srcDev k.vl =
    { s.flow k.srcDev k.vl with expect := (s.flow k.srcDev k.vl).expect + 1, since := (s.flow k.srcDev k.vl).since + 1, lastRx := k } ∧ g t

section
variable {s : State} {p : Nat} {k : Packet} {rest : List Packet}
variable (hp : p < 64) (hup : s.portUp p = true) (hrxq : (s.port p).rxq = k :: rest) (htag : s.tagPass p k.tag k.dstPart = true)
  (hdev : k.dstDev = s.regF Pf.fabSelf 0 12) (hvl : k.vl < 3) (he : (s.flow k.srcDev k.vl).expect = k.seq)
  (hsince : (s.flow k.srcDev k.vl).since < 15)
include hup hrxq htag hdev hvl he hsince

/-- It runs by what its type does to the accepted state. -/
theorem State.runs_packet {ty : Nat} {i : Instr} {g : State → Prop} {u : State} (hty : k.type = ty)
    (hi : [none, some (Instr.pktFixContribution p), some (.pktFixResult p), some (.pktRemoteWrite p), some (.pktRemoteFold p),
      some (.pktE2eAck p), some (.pktWithheld p), some (.pktReleased p)].getD ty none = some i)
    (hu : State.packetDoes p ty k (s.accepted p k rest) = u) (hfab : (s.accepted p k rest).SameFabric u) (hg : g (u.pumpPort p)) :
    s.Runs p k rest i g := by
  subst hty
  obtain ⟨hexec, hqueue, hflow⟩ := exec_inSequence hup hrxq hi htag hdev hvl he hsince hu hfab
  exact ⟨_, hexec, hqueue, hflow, hg⟩

theorem State.runs_result (hty : k.type = 2) :
    s.Runs p k rest (.pktFixResult p) (fun t => AMap.get? t.dev.results k.handle.toNat = some (k.round, k.data)) := by
  refine State.runs_packet hup hrxq htag hdev hvl he hsince hty rfl rfl ((State.SameFabric.refl _).of_fields rfl rfl rfl) ?_
  rw [State.pumpPort_dev]
  exact AMap.get?_set_same _ _ _

include hp

section
variable {o : FixObj} {key : Nat} {fo : Fold} (hty : k.type = 1) (hfix : s.fix k.handle = some o) (hfolds : o.folds = [(key, fo)])
  (hrank : k.rank < fxN o.desc) (hchunk : k.chunk < chunkCount o.desc)
include hty hfix hfolds hrank hchunk

theorem State.runs_arrival (ha : fxArrival o.desc = true) : s.Runs p k rest (.pktFixContribution p) (fun t => t.noc = s.noc ++
    [{ id := s.nextId, m := .fix k.handle key { k.contrib p o.desc with chunk := k.chunk, chunks := chunkCount o.desc }, after := [], dist := 0,
       due := some s.mesh }]) := by
  have hfix' : (s.accepted p k rest).fix k.handle = some o := (State.accepted_fix hp _).trans hfix
  refine State.runs_packet hup hrxq htag hdev hvl he hsince hty rfl (State.rxContribution_arrival hfix' hfolds hrank hchunk ha)
    (State.SameFabric.refl _).post ?_
  rw [State.pumpPort_noc, State.post_noc]
  rfl

theorem State.runs_single (ha : fxArrival o.desc = false) (hone : chunkCount o.desc = 1) (hparts : fo.parts = []) :
    s.Runs p k rest (.pktFixContribution p) (fun t => t.noc = s.noc ++
      [{ id := s.nextId, m := .fix k.handle key (k.contrib p o.desc), after := [], dist := 0, due := some s.mesh }]) := by
  have hfix' : (s.accepted p k rest).fix k.handle = some o := (State.accepted_fix hp _).trans hfix
  obtain ⟨f, hf⟩ := State.rxContribution_single (p := p) hfix' hfolds hrank hchunk ha hone hparts
  refine State.runs_packet hup hrxq htag hdev hvl he hsince hty rfl hf (State.SameFabric.refl _).setFixObj.post ?_
  rw [State.pumpPort_noc, State.post_noc, State.setFixObj_noc, State.setFixObj_nextId, State.setFixObj_mesh]
  rfl

end

section
variable {pg : TlbEnt} {e : Nat}
  (hw : (s.walked k).walk k.dstPart k.va = .page pg e false)
include hw

section
variable (hty : k.type = 3) (hlen : 1 ≤ k.data.length) (hunit : k.data.length ≤ 8 - k.va % 8)
include hty hlen hunit

theorem State.runs_write (hc : (s.walked k).pageCause pg .w k.va k.data.length = none) :
    s.Runs p k rest (.pktRemoteWrite p) (fun t =>
      let u := (s.walked k).paWrite (some pg.key) (pg.phys k.va) k.data
      t.dies = u.dies ∧ t.hbm = u.hbm ∧ t.lineKey = u.lineKey) := by
  have hwrite := State.writeRemote_ok (s := s.accepted p k rest) ((State.accepted_walk hp _ _).trans hw) hlen hunit
    ((State.accepted_pageCause hp hw _ _ _).trans hc)
  refine State.runs_packet hup hrxq htag hdev hvl he hsince hty rfl hwrite (State.SameFabric.refl _).walkReads.paWrite ?_
  rw [State.accepted_walked hp, State.withFabric_paWrite]
  exact ⟨State.pumpPort_dies _ _, State.pumpPort_hbm _ _, State.pumpPort_lineKey _ _⟩

theorem State.runs_writeFault {c : BitVec 8}
    (hc : (s.walked k).pageCause pg .w k.va k.data.length = some c) :
    s.Runs p k rest (.pktRemoteWrite p) (fun t =>
      let r := s.walked k
      t.dies = r.dies ∧ t.hbm = r.hbm ∧ t.dev.pilot = r.dev.pilot ++
        [(10, BitVec.ofNat 64 (k.dstPart * 2 ^ 56 + k.va % 2 ^ 56), c.setWidth 64)]) := by
  have hwrite := State.writeRemote_fault (s := s.accepted p k rest) ((State.accepted_walk hp _ _).trans hw) hlen hunit
    ((State.accepted_pageCause hp hw _ _ _).trans hc)
  refine State.runs_packet hup hrxq htag hdev hvl he hsince hty rfl hwrite (State.SameFabric.refl _).walkReads.pilotEvent ?_
  rw [State.accepted_walked hp]
  exact ⟨State.pumpPort_dies _ _, State.pumpPort_hbm _ _, congrArg Dev.pilot (State.pumpPort_dev _ _)⟩

end

theorem State.runs_fold {ty : ElTy} (hty : k.type = 4) (hel : ElTy.ofCode (k.h2.extractLsb' 56 4) = ty) (hf : ty = .f32 ∨ ty = .bf16)
    (hc : (s.walked k).pageCause pg .rw k.va (ty.bits / 8) = none) (hlen : k.data.length = ty.bits / 8)
    {u : State} (hu : (s.walked k).baseFold (pg.phys k.va) pg.key ty (ofLeBytes k.data) = some u) :
    s.Runs p k rest (.pktRemoteFold p) (fun t => t.dies = u.dies ∧ t.hbm = u.hbm) := by
  have hu' : ((s.accepted p k rest).walked k).baseFold (pg.phys k.va) pg.key ty (ofLeBytes k.data) =
      some (u.withFabric (s.accepted p k rest).ports (s.accepted p k rest).regs (s.accepted p k rest).dev.flows) := by
    rw [State.accepted_walked hp, State.baseFold, State.withFabric_baseUpd]
    exact congrArg (Option.map _) hu
  have hfold := State.foldRemote_single ((State.accepted_walk hp _ _).trans hw) hel hf ((State.accepted_pageCause hp hw _ _ _).trans hc) hlen hu'
  refine State.runs_packet hup hrxq htag hdev hvl he hsince hty rfl hfold ((State.SameFabric.refl _).walkReads.baseFold hu') ?_
  exact ⟨State.pumpPort_dies _ _, State.pumpPort_hbm _ _⟩

end

omit hp in
theorem State.runs_foldRefused {ty : ElTy} (hty : k.type = 4) (hel : ElTy.ofCode (k.h2.extractLsb' 56 4) = ty) (h32 : ty ≠ .f32)
    (h16 : ty ≠ .bf16) : s.Runs p k rest (.pktRemoteFold p) (fun t => t.dies = s.dies ∧ t.hbm = s.hbm ∧ t.dev.pilot = s.dev.pilot ++
      [(10, BitVec.ofNat 64 (k.dstPart * 2 ^ 56 + k.va % 2 ^ 56), 4)]) := by
  refine State.runs_packet hup hrxq htag hdev hvl he hsince hty rfl (State.foldRemote_refused hel h32 h16)
    (State.SameFabric.refl _).pilotEvent ?_
  exact ⟨State.pumpPort_dies _ _, State.pumpPort_hbm _ _, congrArg Dev.pilot (State.pumpPort_dev _ _)⟩

section
variable {o : FixObj} (hfix : s.fix k.handle = some o)
include hfix

theorem State.runs_withheld (hty : k.type = 6) :
    s.Runs p k rest (.pktWithheld p) (fun t => ∃ g, t.fix k.handle = some g ∧ k.rank ∈ g.remoteHalted) := by
  refine State.runs_packet hup hrxq htag hdev hvl he hsince hty rfl rfl (State.SameFabric.refl _).noteWithheld ?_
  rw [State.pumpPort_fix]
  exact State.noteWithheld_fix ((State.accepted_fix hp _).trans hfix)

theorem State.runs_released (hty : k.type = 7) :
    s.Runs p k rest (.pktReleased p) (fun t => (∃ g, t.fix k.handle = some g ∧ k.rank ∉ g.remoteHalted) ∧ ∀ q < 8, ∀ e ∈ o.folds,
      (BitVec.ofNat 64 (5 * 2 ^ 60 + k.handle.toNat + e.2.tag.toNat % 2 ^ 28 * 2 ^ 32), s.mesh + 1) ∈ (t.part q).remote) := by
  have hfix' : (s.accepted p k rest).fix k.handle = some o := (State.accepted_fix hp _).trans hfix
  refine State.runs_packet hup hrxq htag hdev hvl he hsince hty rfl rfl (State.SameFabric.refl _).noteReleased ⟨?_, fun q hq e he => ?_⟩
  · rw [State.pumpPort_fix]
    exact State.noteReleased_fix hfix'
  · rw [State.pumpPort_part]
    exact State.noteReleased_remote hfix' hq he

end
end

/-- An acknowledgement frees what it names. -/
theorem exec_pktE2eAck {s : State} {p : Nat} {k : Packet} {rest : List Packet} (hup : s.portUp p = true) (hrxq : (s.port p).rxq = k :: rest)
    (htag : s.tagPass p k.tag k.dstPart = true) (hdev : k.dstDev = s.regF Pf.fabSelf 0 12) (hvl : k.vl = 3) (hty : k.type = 5) :
    ∃ t, exec (.pktE2eAck p) s = .next t ∧ (t.port p).rxq = rest ∧
      t.flow k.srcDev (bitsOf k.h2 0 2) = (s.flow k.srcDev (bitsOf k.h2 0 2)).unacked k.seq := by
  have htaken : (s.taken p k rest).tagPass p k.tag k.dstPart = true := by rwa [State.tagPass_congr State.taken_regs]
  have hexec := exec_admitted (i := .pktE2eAck p) hup hrxq (by rw [hty]; rfl) (State.acceptPkt_unnumbered htaken hdev hvl)
  rw [hty] at hexec
  refine ⟨_, hexec, ?_, ?_⟩
  · rw [State.pumpPort_rxq, State.port, State.packetDoes, State.freeAcked_ports]
    exact State.taken_rxq
  · rw [State.flow, State.pumpPort_dev]
    exact State.freeAcked_flow _ _

/-- Settles O56: the packet leaves the queue, is checked, and its type's operation sees the state before it but for the fabric. -/
theorem packetsAreAccepted : Obligations.PacketsAreAccepted := by
  unfold Obligations.PacketsAreAccepted
  intro s p k rest hp hup hrxq f part h of cnt pass
  refine ⟨fun i hi htag => exec_untagged hup hrxq hi htag, fun i hi htag hdev => exec_elsewhere hup hrxq hi htag hdev, ?_, ?_⟩
  · rintro ⟨htag, hdev⟩ hvl
    refine ⟨fun i hi hne hb => exec_again hup hrxq hi htag hdev hvl hne hb, fun he hsince => ?_⟩
    intro runs
    refine ⟨?_, ?_, ?_, ?_, ?_⟩
    · intro hty o key fo hfix hfolds hrank hchunk c posted
      exact ⟨fun ha => State.runs_arrival hp hup hrxq htag hdev hvl he hsince hty hfix hfolds hrank hchunk ha,
        fun ha hone hparts => State.runs_single hp hup hrxq htag hdev hvl he hsince hty hfix hfolds hrank hchunk ha hone hparts⟩
    · exact fun hty => State.runs_result hup hrxq htag hdev hvl he hsince hty
    · intro a r pg e hw
      refine ⟨fun hty hlen hunit => ⟨fun hc => ?_, fun c hc => ?_⟩, fun hty ty hel => ⟨fun h32 h16 => ?_, fun hf hc hlen u hu => ?_⟩⟩
      · exact State.runs_write hp hup hrxq htag hdev hvl he hsince hw hty hlen hunit hc
      · exact State.runs_writeFault hp hup hrxq htag hdev hvl he hsince hw hty hlen hunit hc
      · exact State.runs_foldRefused hup hrxq htag hdev hvl he hsince hty hel h32 h16
      · exact State.runs_fold hp hup hrxq htag hdev hvl he hsince hw hty hel hf hc hlen hu
    · exact fun hty o hfix => State.runs_withheld hp hup hrxq htag hdev hvl he hsince hfix hty
    · exact fun hty o hfix => State.runs_released hp hup hrxq htag hdev hvl he hsince hfix hty
  · rintro ⟨htag, hdev⟩ hvl hty
    exact exec_pktE2eAck hup hrxq htag hdev hvl hty

end Sys2Proof.Machine
end

section
/-! PROOFS of the family 03_host, O60. The firmware that runs (R56, R57, R58, R61): what it means for a state to follow another as far
as its firmware goes, and that every operation of the machine answers such a state.

Only three operations write the fuses or the firmware that runs: the boot ROM's load starts a checked image and lifts the fuses to its
version, recovery stops the firmware, and a package reset stops it and keeps the fuses. Everything else leaves both alone, so its lemma
only names the updates it is made of. The sections below follow the files of the model, with one lemma per operation, up to the step. -/

namespace Sys2Proof.Machine

/-! ### What keeps the firmware -/

/-- The firmware of s may follow that of orig: the fuses have not fallen, and it is a checked one where that of orig is (R56, R61). -/
def Follows (orig s : State) : Prop := orig.dev.fused ≤ s.dev.fused ∧ (orig.bootedWell → s.bootedWell)

/-- What a stop leaves of a state, or makes stand in it, has the firmware that the state has. -/
def Stop.KeepsFw (orig : State) : Stop → Prop
  | .raiseKeep _ _ g => ∀ s : State, Follows orig s → Follows orig (g s)
  | .wait g => ∀ s : State, Follows orig s → Follows orig (g s)
  | .block g => ∀ s : State, Follows orig s → Follows orig (g s)
  | .raise _ _ => True
  | .withheld _ => True

/-- A computation has ended in a state with this firmware, or in a stop that keeps it. -/
def EndsFw {α : Type} (orig : State) : Except Stop (α × State) → Prop
  | .ok p => Follows orig p.2
  | .error e => e.KeepsFw orig

/-- A computation keeps this firmware. -/
def Sem.KeepsFw {α : Type} (orig : State) (f : Sem α) : Prop := ∀ s : State, Follows orig s → EndsFw orig (f s)

/-- The next state, if one is answered, satisfies P. -/
def Nexts (P : State → Prop) : Host.Outcome State Fault Refusal → Prop
  | .next t => P t
  | _ => True

variable {orig : State}

theorem EndsFw.ite {α : Type} {c : Prop} [Decidable c] {o q : Except Stop (α × State)} (ho : EndsFw orig o) (hq : EndsFw orig q) :
    EndsFw orig (if c then o else q) := by
  split
  · exact ho
  · exact hq

theorem EndsFw.ok_of_eq {α : Type} {o : Except Stop (α × State)} {a : α} {s : State} (e : o = .ok (a, s)) (h : EndsFw orig o) :
    Follows orig s :=
  (e ▸ h : EndsFw orig (.ok (a, s)))
theorem EndsFw.error_of_eq {α : Type} {o : Except Stop (α × State)} {r : Stop} (e : o = .error r) (h : EndsFw orig o) : r.KeepsFw orig :=
  (e ▸ h : EndsFw orig (.error r))

theorem Nexts.ite {P : State → Prop} {c : Prop} [Decidable c] {o q : Host.Outcome State Fault Refusal} (ho : Nexts P o) (hq : Nexts P q) :
    Nexts P (if c then o else q) := by
  split
  · exact ho
  · exact hq

theorem Nexts.of_eq {P : State → Prop} {r : Host.Outcome State Fault Refusal} {t : State} (e : r = .next t) (h : Nexts P r) : P t :=
  (e ▸ h : Nexts P (.next t))

theorem Gives.pair_of_eq {α : Type} {P : State → Prop} {o : Option (α × State)} {a : α} {s : State} (e : o = some (a, s))
    (h : Gives (fun r => P r.2) o) : P s :=
  (e ▸ h : Gives (fun r : α × State => P r.2) (some (a, s)))

namespace Follows

/-- An update of other fields. -/
theorem same {s t : State} (h : Follows orig s) (e : (t.dev.fused, t.dev.running) = (s.dev.fused, s.dev.running)) : Follows orig t := by
  obtain ⟨ef, er⟩ := Prod.mk.inj e
  unfold Follows State.bootedWell
  rw [ef, er]
  exact h

/-- No firmware runs, and the fuses stand as they stood. -/
theorem stopped {s t : State} (h : Follows orig s) (hf : t.dev.fused = s.dev.fused) (hr : t.dev.running = none) : Follows orig t :=
  ⟨hf ▸ h.1, fun _ i hi => absurd (hr ▸ hi) (by simp)⟩

/-- The firmware that runs is a checked one, and the fuses have not fallen. -/
theorem booted {s t : State} {i : FwImage} (h : Follows orig s) (hf : s.dev.fused ≤ t.dev.fused) (hr : t.dev.running = some i)
    (hi : i.signed = true ∧ i.lengthOk = true ∧ i.version ≤ t.dev.fused) : Follows orig t :=
  ⟨BitVec.le_trans h.1 hf, fun _ _ hj => Option.some.inj (hr.symm.trans hj) ▸ hi⟩

theorem ite {c : Prop} [Decidable c] {s t : State} (hs : Follows orig s) (ht : Follows orig t) : Follows orig (if c then s else t) := by
  split
  · exact hs
  · exact ht

theorem getD {o : Option State} {s : State} (hs : Follows orig s) (ho : Gives (Follows orig) o) : Follows orig (o.getD s) := by
  cases o with
  | none => exact hs
  | some t => exact ho

theorem of_fst {α : Type} {p : State × α} {s : State} {a : α} (h : Follows orig p.1) (e : p = (s, a)) : Follows orig s := by
  subst e; exact h
theorem of_snd {α : Type} {p : α × State} {s : State} {a : α} (h : Follows orig p.2) (e : p = (a, s)) : Follows orig s := by
  subst e; exact h
theorem of_snd_snd {α β : Type} {p : α × β × State} {s : State} {a : α} {b : β} (h : Follows orig p.2.2) (e : p = (a, b, s)) :
    Follows orig s := by
  subst e; exact h

theorem foldl {α : Type} {f : State → α → State} {l : List α} {s : State} (h : Follows orig s)
    (hf : ∀ s a, Follows orig s → Follows orig (f s a)) :
    Follows orig (l.foldl f s) := by
  induction l generalizing s with
  | nil => exact h
  | cons a l ih => exact ih (hf s a h)

theorem foldl_fst {α β : Type} {f : State × β → α → State × β} {l : List α} {p : State × β} (h : Follows orig p.1)
    (hf : ∀ p a, Follows orig p.1 → Follows orig (f p a).1) : Follows orig (l.foldl f p).1 := by
  induction l generalizing p with
  | nil => exact h
  | cons a l ih => exact ih (hf p a h)

theorem foldl_snd {α β : Type} {f : β × State → α → β × State} {l : List α} {p : β × State} (h : Follows orig p.2)
    (hf : ∀ p a, Follows orig p.2 → Follows orig (f p a).2) : Follows orig (l.foldl f p).2 := by
  induction l generalizing p with
  | nil => exact h
  | cons a l ih => exact ih (hf p a h)

theorem foldl_snd_snd {α β γ : Type} {f : β × γ × State → α → β × γ × State} {l : List α} {p : β × γ × State} (h : Follows orig p.2.2)
    (hf : ∀ p a, Follows orig p.2.2 → Follows orig (f p a).2.2) : Follows orig (l.foldl f p).2.2 := by
  induction l generalizing p with
  | nil => exact h
  | cons a l ih => exact ih (hf p a h)

theorem runEvent {s : State} {f : State → Option State} (h : Follows orig s) (hf : ∀ s, Follows orig s → Gives (Follows orig) (f s)) :
    Nexts (Follows orig) (runEvent s f) := h.getD (hf s h)

theorem runPilot {s : State} {f : State → Option State} (h : Follows orig s) (hf : ∀ s, Follows orig s → Gives (Follows orig) (f s)) :
    Nexts (Follows orig) (runPilot s f) := h.runEvent fun s hs => Gives.ite (hf s hs) trivial

end Follows

namespace Sem.KeepsFw

variable {α β : Type}

theorem pure {a : α} : Sem.KeepsFw orig (Pure.pure a : Sem α) := fun _ h => h

theorem bind {f : Sem α} {g : α → Sem β} (hf : Sem.KeepsFw orig f) (hg : ∀ a, Sem.KeepsFw orig (g a)) : Sem.KeepsFw orig (f >>= g) := by
  intro s h
  have h1 := hf s h
  cases hr : f s with
  | error e => rw [Sem.bind_error hr]; exact (hr ▸ h1 : EndsFw orig (.error e))
  | ok p => rw [Sem.bind_ok hr]; exact hg p.1 p.2 (hr ▸ h1 : EndsFw orig (.ok p))

theorem getS_bind {g : State → Sem β} (hg : ∀ s : State, Follows orig s → Sem.KeepsFw orig (g s)) : Sem.KeepsFw orig (getS >>= g) :=
  fun s h => hg s h s h

theorem getMe : Sem.KeepsFw orig getMe := fun _ h => h
theorem getMy : Sem.KeepsFw orig getMy := fun _ h => h
theorem freshId : Sem.KeepsFw orig freshId := fun _ h => h
theorem putS {t : State} (h : Follows orig t) : Sem.KeepsFw orig (putS t) := fun _ _ => h
theorem modS {f : State → State} (hf : ∀ s, Follows orig s → Follows orig (f s)) : Sem.KeepsFw orig (modS f) := fun s h => hf s h
theorem modMy {f : Ctx → Ctx} : Sem.KeepsFw orig (modMy f) := fun _ h => h
theorem modMe {f : Core → Core} : Sem.KeepsFw orig (modMe f) := fun _ h => h

theorem raise {c : BitVec 8} {f : Word} : Sem.KeepsFw orig (raise c f : Sem α) := fun _ _ => trivial
theorem notYet {g : State → State} (hg : ∀ s, Follows orig s → Follows orig (g s)) : Sem.KeepsFw orig (notYet g : Sem α) := fun _ _ => hg
theorem raise_bind {c : BitVec 8} {f : Word} {g : α → Sem β} : Sem.KeepsFw orig ((Machine.raise c f : Sem α) >>= g) := fun _ _ => trivial
theorem notYet_bind {k : State → State} {g : α → Sem β} (hk : ∀ s, Follows orig s → Follows orig (k s)) :
    Sem.KeepsFw orig ((Machine.notYet k : Sem α) >>= g) := fun _ _ => hk
theorem blocked {g : State → State} (hg : ∀ s, Follows orig s → Follows orig (g s)) : Sem.KeepsFw orig (blocked g : Sem α) := fun _ _ => hg

theorem check {b : Bool} {c : BitVec 8} {f : Word} : Sem.KeepsFw orig (check b c f) := by
  intro s h
  cases b with
  | false => trivial
  | true => exact h

theorem ite {c : Prop} [Decidable c] {f g : Sem α} (hf : Sem.KeepsFw orig f) (hg : Sem.KeepsFw orig g) :
    Sem.KeepsFw orig (if c then f else g) := by
  split
  · exact hf
  · exact hg

theorem mapM {f : α → Sem β} {l : List α} (hf : ∀ a, Sem.KeepsFw orig (f a)) : Sem.KeepsFw orig (l.mapM f) := by
  induction l with
  | nil => rw [List.mapM_nil]; exact pure
  | cons a l ih => rw [List.mapM_cons]; exact bind (hf a) fun _ => bind ih fun _ => pure

end Sem.KeepsFw

/-! ### The writes of the state, issuing and traces -/

theorem Follows.setCore {s : State} {n : Nat} {c : Core} (h : Follows orig s) : Follows orig (s.setCore n c) := h

theorem Follows.setCtx {s : State} {n x : Nat} {k : Ctx} (h : Follows orig s) : Follows orig (s.setCtx n x k) := h.setCore

theorem Follows.setMy {s : State} {k : Ctx} (h : Follows orig s) : Follows orig (s.setMy k) := h.setCtx

theorem Follows.setMe {s : State} {c : Core} (h : Follows orig s) : Follows orig (s.setMe c) := h.setCore

theorem Follows.setOctet {s : State} {n : Nat} {o : Octet} (h : Follows orig s) : Follows orig (s.setOctet n o) := h

theorem Follows.setPort {s : State} {n : Nat} {o : Port} (h : Follows orig s) : Follows orig (s.setPort n o) := h

theorem Follows.setHub {s : State} {n : Nat} {o : Hub} (h : Follows orig s) : Follows orig (s.setHub n o) := h

theorem Follows.setFlow {s : State} {dev vl : Nat} {f : Flow} (h : Follows orig s) : Follows orig (s.setFlow dev vl f) := h.same rfl

theorem Follows.setFresh {s : State} {n : Nat} (h : Follows orig s) : Follows orig { s with fresh := n } := h.same rfl

theorem Follows.setReg {s : State} {a : Nat} {v : Word} (h : Follows orig s) : Follows orig (s.setReg a v) := h

theorem Follows.setRegF {s : State} {a lo n v : Nat} (h : Follows orig s) : Follows orig (s.setRegF a lo n v) := h

theorem Follows.pilotEvent {s : State} {k : Nat} {a b : Word} (h : Follows orig s) : Follows orig (s.pilotEvent k a b) := h

theorem Follows.setDie {s : State} {n : Nat} {d : Die} (h : Follows orig s) : Follows orig (s.setDie n d) := h

theorem Follows.setPart {s : State} {n : Nat} {p : Part} (h : Follows orig s) : Follows orig (s.setPart n p) := h

theorem Follows.writeReg {s : State} {n x : Nat} {o : Opnd} {v : Word} (h : Follows orig s) : Follows orig (s.writeReg n x o v) := by
  cases o with
  | g k => exact h
  | o k => exact h
  | lr => exact h
  | q k => exact h
  | zr => exact h
  | lit => exact h
  | imm k => exact h

theorem Follows.writeLr {s : State} {n x : Nat} {v : Word} (h : Follows orig s) : Follows orig (s.writeLr n x v) := h.setCtx

theorem Follows.endIssue {s : State} (h : Follows orig s) : Follows orig s.endIssue := h.setMy

theorem Follows.rejoin {s : State} {n x : Nat} (h : Follows orig s) : Follows orig (s.rejoin n x) := by
  unfold State.rejoin
  dsimp only
  exact .ite h h.setOctet.setCtx

theorem Follows.beginIssue {s : State} (h : Follows orig s) : Follows orig s.beginIssue := h.rejoin.setMy

theorem Follows.started {s : State} {m : Mods} (h : Follows orig s) : Follows orig (s.started m) := h.beginIssue.setMy

theorem Follows.src {s u : State} {o : Opnd} {m : Mods} {t : SrcTy} {v : Word} (h : Follows orig s) (hs : src o m t s = .ok (v, u)) :
    Follows orig u := by
  rcases src_cases m t s hs with rfl | rfl | ⟨n, -, rfl⟩ | ⟨n, -, rfl⟩
  · exact h
  · exact h.setMy
  · exact h.setMe
  · exact h.setMe

theorem Sem.KeepsFw.src {o : Opnd} {m : Mods} {t : SrcTy} : Sem.KeepsFw orig (src o m t) := by
  intro s h
  cases hr : Machine.src o m t s with
  | ok p => exact Follows.src h hr
  | error e =>
    obtain ⟨-, g, rfl, hg⟩ := src_stop m t s hr
    intro u hu
    rw [hg u]
    exact hu

theorem Follows.traceAdd {s : State} {n : Nat} {r : Word × Word} (h : Follows orig s) : Follows orig (s.traceAdd n r) :=
  Follows.ite h.setCore h.setCore.setRegF

theorem Follows.traceRec {s : State} {n x kind : Nat} {w : Word} (h : Follows orig s) : Follows orig (s.traceRec n x kind w) := by
  unfold State.traceRec
  dsimp only
  exact .ite h (.ite h.traceAdd h.setCore)

theorem Follows.traceStart {s : State} {n : Nat} (h : Follows orig s) : Follows orig (s.traceStart n) := by
  unfold State.traceStart
  dsimp only
  exact .ite (h.setReg.setCore.foldl fun _ _ h => h.traceAdd) h.setReg

theorem Follows.traceStop {s : State} {n : Nat} (h : Follows orig s) : Follows orig (s.traceStop n) := h.setCore

theorem Follows.trigger {s : State} {n c : Nat} (h : Follows orig s) : Follows orig (s.trigger n c) := by
  unfold State.trigger
  dsimp only
  split
  · split
    · exact h.traceStart.traceStop
    · exact h.traceStop
  · exact .ite h.traceStart h

/-! ### Machine/Translate.lean -/

theorem Follows.report {s : State} {kind : Nat} {a b : Word} (h : Follows orig s) : Follows orig (s.report kind a b) := h

theorem Follows.newId {s : State} (h : Follows orig s) : Follows orig s.newId.2 := h

theorem Follows.countCorrected {s : State} {l : Nat} (h : Follows orig s) : Follows orig (s.countCorrected l) := Follows.ite h h.report

theorem Follows.eccEvent {s : State} {pa : Nat} (h : Follows orig s) : Follows orig (s.eccEvent pa) := h.report

theorem Follows.hbmPut {s : State} {pa : Nat} {v : Line} {under : Option (BitVec 512)} (h : Follows orig s) :
    Follows orig (s.hbmPut pa v under) := h.same rfl

theorem Follows.l2Evict {s : State} {l : L2Line} (h : Follows orig s) : Follows orig (s.l2Evict l) := Follows.ite h.hbmPut h

theorem Follows.l2Put {s : State} {l : L2Line} (h : Follows orig s) : Follows orig (s.l2Put l) := by
  unfold State.l2Put
  extract_lets _ _ _ _ _
  split
  · exact h.setDie
  · exact h.l2Evict.setDie

theorem Follows.l2Fill {s : State} {pa : Nat} {key : Option Nat} (h : Follows orig s) : Follows orig (s.l2Fill pa key) :=
  Follows.ite h h.countCorrected.l2Put

theorem Follows.l2Write {s : State} {pa : Nat} {key : Option Nat} {data : Line} {mask : BitVec 64} (h : Follows orig s) :
    Follows orig (s.l2Write pa key data mask) := by
  unfold State.l2Write
  dsimp only
  exact .ite (h.same rfl) ((Follows.ite h.countCorrected h).l2Put)

theorem Follows.paWrite {s : State} {key : Option Nat} {pa : Nat} {bs : List Byte} (h : Follows orig s) :
    Follows orig (s.paWrite key pa bs) := by
  induction bs generalizing s pa with
  | nil => exact h
  | cons b bs ih => exact ih h.l2Write

theorem Follows.l2Zero {s : State} {pa key : Nat} (h : Follows orig s) : Follows orig (s.l2Zero pa key) := h.l2Put

theorem Follows.l2Reads {s : State} {key : Option Nat} {ls : List Nat} (h : Follows orig s) : Follows orig (s.l2Reads key ls) :=
  h.foldl fun _ _ h => h.l2Fill

theorem Follows.walkReads {s : State} {part va : Nat} (h : Follows orig s) : Follows orig (s.walkReads part va) := h.l2Reads

theorem Follows.zeroFill {s : State} {t : TlbEnt} {entry : Nat} (h : Follows orig s) : Follows orig (s.zeroFill t entry) := by
  unfold State.zeroFill
  extract_lets d out s1 s2 e
  have hs1 : Follows orig s1 := h.setDie
  have hs2 : Follows orig s2 := by
    exact hs1
  exact hs2.paWrite

theorem Follows.recordBad {s : State} {part level reason entry : Nat} (h : Follows orig s) :
    Follows orig (s.recordBad part level reason entry) := Follows.ite h h.setReg

theorem Follows.tlbInstall {s : State} {n : Nat} {t : TlbEnt} (h : Follows orig s) : Follows orig (s.tlbInstall n t) :=
  h.setDie.setOctet.setCore

theorem Follows.partWrite {s : State} {part va : Nat} {bs : List Byte} (h : Follows orig s) : Follows orig (s.partWrite part va bs) := by
  unfold State.partWrite
  split
  · exact (Follows.ite h.zeroFill h).paWrite
  · exact h

theorem Follows.unmapped {s : State} {reg addr : Nat} (h : Follows orig s) : Follows orig (s.unmapped reg addr) := h.pilotEvent

theorem Follows.tableRead {s : State} {part reg va n : Nat} (h : Follows orig s) : Follows orig (s.tableRead part reg va n) := by
  unfold State.tableRead
  extract_lets s1
  have hs1 : Follows orig s1 := h.walkReads
  split
  · extract_lets s2
    have hs2 : Follows orig s2 := Follows.ite hs1.zeroFill hs1
    split
    · exact hs2.eccEvent
    · exact hs2.l2Reads
  · exact hs1.eccEvent
  · exact hs1.unmapped

theorem Follows.tableStore {s : State} {part reg va : Nat} {bs : List Byte} (h : Follows orig s) :
    Follows orig (s.tableStore part reg va bs) := by
  unfold State.tableStore
  exact Follows.ite h.unmapped h.partWrite

/-! ### Machine/Convoy.lean -/

theorem Follows.setCvyWord {s : State} {p id i : Nat} {v : Word} (h : Follows orig s) : Follows orig (s.setCvyWord p id i v) := h.tableStore

theorem Follows.readCvy {s : State} {p id : Nat} (h : Follows orig s) : Follows orig (s.readCvy p id) := by
  unfold State.readCvy
  exact h.tableRead

/-! ### Machine/Chart.lean -/

theorem Follows.readTcb {s : State} {p i : Nat} (h : Follows orig s) : Follows orig (s.readTcb p i) := Follows.ite h h.tableRead

theorem Follows.readTcbs {s : State} {p : Nat} {is : List Nat} (h : Follows orig s) : Follows orig (s.readTcbs p is) :=
  h.foldl fun _ _ h => h.readTcb

theorem Follows.setTcbW {s : State} {p i j : Nat} {v : Word} (h : Follows orig s) : Follows orig (s.setTcbW p i j v) := h.setPart.tableStore

theorem Follows.setTcbF {s : State} {p i j lo n v : Nat} (h : Follows orig s) : Follows orig (s.setTcbF p i j lo n v) := h.setTcbW

theorem Follows.setTcbSt {s : State} {p i v : Nat} (h : Follows orig s) : Follows orig (s.setTcbSt p i v) := h.setTcbF

theorem Follows.chrEvt {s : State} {p bit : Nat} (h : Follows orig s) : Follows orig (s.chrEvt p bit) := Follows.ite h h.setReg.pilotEvent

theorem Follows.msi {s : State} {fn vec : Nat} (h : Follows orig s) : Follows orig (s.msi fn vec) := h

theorem Follows.vfEvt {s : State} {v bit : Nat} (h : Follows orig s) : Follows orig (s.vfEvt v bit) := Follows.ite h h.setReg.msi

theorem Follows.queueRec {s : State} {p : Nat} {r : Option (Vector Word 4)} (h : Follows orig s) : Follows orig (s.queueRec p r) := by
  unfold State.queueRec
  split
  · exact h
  · exact .ite h.setRegF.vfEvt h.setPart

theorem Follows.complete {s : State} {p i st cause x y : Nat} (h : Follows orig s) : Follows orig (s.complete p i st cause x y) :=
  h.queueRec

theorem Follows.armReads {s : State} {p i : Nat} (h : Follows orig s) : Follows orig (s.armReads p i) := h.foldl fun _ _ h => h.tableRead

theorem Follows.armTask {s : State} {p i : Nat} (h : Follows orig s) : Follows orig (s.armTask p i) :=
  h.setTcbW.setTcbW.setTcbW.setPart.setTcbSt

theorem Follows.patch {s : State} {p i w : Nat} {v : Word} (h : Follows orig s) : GivesOk (Follows orig) (s.patch p i w v) :=
  GivesOk.ite trivial (GivesOk.ite trivial h.setTcbW.setTcbSt.setPart)

theorem Follows.endPatching {s : State} {p : Nat} (h : Follows orig s) : Follows orig (s.endPatching p) :=
  Follows.ite h (h.foldl fun _ _ h1 => Follows.ite h1.setTcbSt h1).setPart

theorem Follows.decrement {s : State} {p i : Nat} (h : Follows orig s) : GivesOk (fun r => Follows orig r.2) (s.decrement p i) :=
  GivesOk.ite trivial (GivesOk.ite trivial (GivesOk.ite h.setTcbF.setTcbSt h.setTcbF))

theorem Follows.underflow {s : State} {p : Nat} (h : Follows orig s) : Follows orig (s.underflow p) := h.setRegF.chrEvt

theorem Follows.prefetch {s : State} {p a : Nat} (h : Follows orig s) : Follows orig (s.prefetch p a) := by
  unfold State.prefetch
  split
  · exact Follows.ite h h.l2Fill
  · exact h

theorem Follows.seqOne {s : State} {p i : Nat} (h : Follows orig s) : Follows orig (s.seqOne p i) :=
  h.setTcbF.setReg.foldl fun _ _ h => h.prefetch

theorem Follows.seqAll {s : State} {p : Nat} {new : List Newly} (h : Follows orig s) : Follows orig (s.seqAll p new) :=
  h.foldl fun _ _ h => h.seqOne

theorem Follows.setGang {s : State} {p : Nat} {g : Gang} (h : Follows orig s) : Follows orig (s.setGang p g) := h.setPart

theorem Follows.progress {s : State} {p i : Nat} (h : Follows orig s) : Follows orig (s.progress p i) := h.setPart

theorem Follows.quietUpdate {s : State} {p i : Nat} (h : Follows orig s) : Follows orig (s.quietUpdate p i) :=
  Follows.ite h (Follows.ite h.setTcbF h)

theorem Follows.deal {s : State} {n x : Nat} (h : Follows orig s) : Gives (fun r => Follows orig r.2) (s.deal n x) := by
  unfold State.deal
  split
  · exact h
  · extract_lets _ q _ _ _ _ _
    split
    · trivial
    · split
      · exact h.progress
      · split
        · trivial
        · split
          · exact h.setPart.setGang.progress
          · exact .ite h.progress h.setTcbF.setGang.progress

theorem Follows.ack {s : State} {n first : Nat} (h : Follows orig s) : GivesOk (Follows orig) (s.ack n first) := by
  unfold State.ack
  split
  · trivial
  · split
    · trivial
    · exact (Follows.ite h.setGang.setTcbF.setTcbSt h.setGang.setTcbF).quietUpdate.progress

theorem Follows.answerReq {s : State} {r : ChartReq} {c : BitVec 8} {v : Word} (h : Follows orig s) : Follows orig (s.answerReq r c v) :=
  h.setCtx

theorem Follows.armRefused {s : State} {p i : Nat} {c : BitVec 8} (h : Follows orig s) : Follows orig (s.armRefused p i c) :=
  .ite h.setRegF h.setReg.msi

theorem Follows.release1 {s : State} {p i : Nat} {new : List Newly} {id : Nat} {left : List Nat} (h : Follows orig s) :
    Follows orig (s.release1 p i new id left).1 := by
  unfold State.release1
  refine h.foldl_fst fun _ _ h1 => ?_
  split
  · extract_lets s1
    have hs1 : Follows orig s1 := h1.readTcb
    split
    · exact hs1
    · split
      next heq2 => exact GivesOk.of_eq heq2 hs1.decrement
      next heq2 => exact GivesOk.of_eq heq2 hs1.decrement
      · exact Follows.ite hs1 hs1.underflow

theorem Follows.apply {p : Nat} {b : Batch} {r : ChartReq} (h : Follows orig b.s) : Follows orig (Batch.apply p b r).s := by
  unfold Batch.apply
  extract_lets s
  have hs : Follows orig s := h
  split
  · extract_lets s1
    have hs1 : Follows orig s1 := hs.readTcb
    split
    next heq => exact (GivesOk.of_eq heq hs1.patch).answerReq
    · exact hs1.answerReq
  · split
    next heq =>
      split
      · exact (hs.release1.of_fst heq).queueRec
      · exact hs.release1.of_fst heq
  · split
    · exact hs
    · extract_lets s1
      have hs1 : Follows orig s1 := hs.readTcb
      split
      next heq => exact (GivesOk.of_eq heq hs1.decrement).answerReq
      · exact hs1.answerReq
  · split
    · exact hs
    · split
      · exact hs.armReads.answerReq
      · exact hs.armReads.armTask.answerReq
  · split
    · exact hs
    · split
      · exact hs.armReads.armRefused
      · exact hs.armReads.armTask
  · split
    next heq => exact (GivesOk.of_eq heq hs.ack).answerReq
    · exact hs.answerReq
  · split
    next heq => exact (Gives.pair_of_eq heq hs.deal).answerReq
    · exact hs
  · extract_lets _ s1 _ _ _ old t
    have hs1 : Follows orig s1 := hs.readCvy
    have ht : Follows orig t := hs1.setPart
    split
    · exact ht.answerReq
    · exact hs1.answerReq

theorem Follows.batch {p : Nat} {l : List ChartReq} {b : Batch} (h : Follows orig b.s) : Follows orig (l.foldl (Batch.apply p) b).s := by
  induction l generalizing b with
  | nil => exact h
  | cons r l ih => exact ih h.apply

theorem Follows.chartCycle {s : State} {p : Nat} (h : Follows orig s) : Follows orig (s.chartCycle p) :=
  Follows.ite h ((batch h.endPatching.setPart).seqAll).setPart

theorem Follows.taskDone {s : State} {p i : Nat} (h : Follows orig s) : Follows orig (s.taskDone p i) := by
  unfold State.taskDone
  extract_lets s1
  have hs1 : Follows orig s1 := h.setTcbSt.readTcbs
  split
  next heq =>
    exact (hs1.newId.of_snd heq).setPart

theorem Follows.taskFault {s : State} {p i num n x : Nat} {c : BitVec 8} {chunks : List Chunk} (h : Follows orig s) :
    Follows orig (s.taskFault p i num n x c chunks) := by
  unfold State.taskFault
  extract_lets _
  split
  · exact h
  · split
    · exact h.setTcbW.setTcbW.setTcbSt.setPart.chrEvt.quietUpdate.complete

theorem Follows.taskHalted {s : State} {n x : Nat} {c : BitVec 8} (h : Follows orig s) : Follows orig (s.taskHalted n x c) := by
  unfold State.taskHalted
  split
  · exact h
  · split
    · exact h
    · exact h.taskFault

theorem Follows.drainGang {s : State} {p : Nat} {g : Gang} (h : Follows orig s) : Follows orig (s.drainGang p g) := by
  unfold State.drainGang
  extract_lets _ s1
  have hs1 : Follows orig s1 := h.setGang
  split
  · exact hs1
  · split
    · exact hs1.taskFault
    · exact Follows.ite hs1.setTcbSt hs1

theorem Follows.gangCheck {s : State} {p : Nat} {g : Gang} (h : Follows orig s) : Follows orig (s.gangCheck p g) :=
  .ite h (.ite h.drainGang (Follows.ite (h.foldl fun _ _ h => h.drainGang) h))

theorem Follows.controlExit {s : State} {n : Nat} (h : Follows orig s) : Follows orig (s.controlExit n) := by
  unfold State.controlExit
  split
  · exact h
  · exact h.progress.gangCheck

end Sys2Proof.Machine
end

section
/-! PROOFS of the family 03_host, O60: Machine/Memory to Machine/Atomic. -/

namespace Sys2Proof.Machine

variable {orig : State}

/-! ### Machine/Memory.lean -/

theorem Follows.fly {s : State} {a : Access} (h : Follows orig s) : Follows orig (s.fly a) := h

theorem Follows.l1Back {s : State} {n : Nat} {l : L1Line} (h : Follows orig s) : Follows orig (s.l1Back n l) := by
  unfold State.l1Back
  split
  · exact h
  · split
    next heq1 =>
      exact ((h.newId.of_snd heq1).setCore).fly

theorem Follows.l1Put {s : State} {n : Nat} {l : L1Line} (h : Follows orig s) : Follows orig (s.l1Put n l) := by
  unfold State.l1Put
  extract_lets _ s1 old
  have hs1 : Follows orig s1 := by
    unfold s1
    split
    · exact h.l1Back.setCore
    · exact h
  exact hs1.setCore

theorem Follows.l1Store {s : State} {n pa key : Nat} {kind : PageKind} {x : Bool} {sz v : Nat} (h : Follows orig s) :
    Follows orig (s.l1Store n pa key kind x sz v) := by
  unfold State.l1Store
  extract_lets _ _ _ _ _ s1 old1 s2 old2
  have hs1 : Follows orig s1 := h.l1Put
  have hs2 : Follows orig s2 := by
    unfold s2
    split
    · split
      · exact hs1
      · split
        · exact hs1.l1Back
        · exact hs1.setCore
    · exact hs1
  exact Follows.ite hs2.setCore hs1

theorem Follows.l1Clean {s : State} {n b : Nat} {drop : Bool} (h : Follows orig s) : Follows orig (s.l1Clean n b drop) := by
  unfold State.l1Clean
  split
  · exact Follows.ite h.l1Back.setCore h.l1Back
  · exact h

theorem Follows.l1Forget {s : State} {n b : Nat} (h : Follows orig s) : Follows orig (s.l1Forget n b) := h.setCore

theorem Follows.drain {s : State} {n : Nat} (h : Follows orig s) : Follows orig (s.drain n) := h.foldl fun _ _ h => h.l1Clean

theorem Follows.lands {a : Access} {s : State} (h : Follows orig s) : Follows orig (a.lands s) := by
  unfold Access.lands
  split
  · refine h.foldl fun _ _ h1 => ?_
    split
    · exact h1.l2Write
    · exact h1
  · exact h

theorem Follows.settleFlight {s : State} {n b fuel : Nat} (h : Follows orig s) : Follows orig (s.settleFlight n b fuel).1 := by
  induction fuel generalizing s with
  | zero => exact h
  | succ fuel ih =>
    unfold State.settleFlight
    split
    · exact h
    · split
      · exact ih (h.lands)
      · exact h

theorem Follows.settleLine {s : State} {n b : Nat} (h : Follows orig s) : Follows orig (s.settleLine n b) := by
  unfold State.settleLine
  split
  next heq =>
    split
    · exact .ite (h.settleFlight.of_fst heq) (((h.settleFlight.of_fst heq).l2Write).setCore)
    · exact h.settleFlight.of_fst heq
  next heq => exact h.settleFlight.of_fst heq

theorem Follows.l1Stale {s : State} {n pa sz : Nat} (h : Follows orig s) : Follows orig (s.l1Stale n pa sz) := h.setCore

theorem Follows.releaseActs {s : State} {n x : Nat} {sc : Scope} (h : Follows orig s) : Follows orig (s.releaseActs n x sc).2 := by
  unfold State.releaseActs
  split
  · exact h
  · extract_lets s1 _ s2
    have hs1 : Follows orig s1 := Follows.ite h h.setCore
    have hs2 : Follows orig s2 := hs1.drain
    split
    · exact hs2
    · exact hs1

theorem Follows.acquireActs {s : State} {n : Nat} {sc : Scope} (h : Follows orig s) : Follows orig (s.acquireActs n sc) := .ite h.setCore h

theorem Follows.drainUo {s : State} {n : Nat} (h : Follows orig s) : Follows orig (s.drainUo n) := h.foldl fun _ _ h => h.l1Clean

theorem Follows.invalidateAll {s : State} {n : Nat} (h : Follows orig s) : Follows orig (s.invalidateAll n) := h.setCore

theorem Follows.fullActs {s : State} {n x : Nat} {sc : Scope} (h : Follows orig s) : Follows orig (s.fullActs n x sc).2 := by
  unfold State.fullActs
  extract_lets _ t
  have ht : Follows orig t := h.releaseActs.drainUo
  split
  · exact ht
  · exact h.releaseActs

theorem Follows.fullEnd {s : State} {n : Nat} {sc : Scope} (h : Follows orig s) : Follows orig (s.fullEnd n sc) :=
  Follows.ite h.invalidateAll h

theorem Sem.KeepsFw.release {sc : Scope} : Sem.KeepsFw orig (release sc) := by
  unfold Machine.release
  intro s h
  exact h.releaseActs

theorem Sem.KeepsFw.blockOn {ids : List Nat} : Sem.KeepsFw orig (blockOn ids) := .modMy

theorem Follows.startWalk {s : State} {n x root va : Nat} (h : Follows orig s) : Follows orig (s.startWalk n x root va) := by
  unfold State.startWalk
  extract_lets _ _ _
  split
  · exact h.setCtx
  · split
    · exact h
    · split
      next heq2 =>
        exact ((h.newId.of_snd heq2).setDie).setCtx

theorem Sem.KeepsFw.xlate {va sz : Nat} {p : Perm} {faddr : Word} : Sem.KeepsFw orig (xlate va sz p faddr) := by
  unfold Machine.xlate
  intro s h
  beta_reduce
  extract_lets _ _
  split
  · split
    · trivial
    · exact Follows.ite h h.tlbInstall
  · split
    · exact EndsFw.ite trivial fun _ h => h.startWalk
    · exact fun _ h1 => h1.startWalk

theorem Sem.KeepsFw.pages {va sz : Nat} {p : Perm} : Sem.KeepsFw orig (pages va sz p) := by
  unfold Machine.pages
  refine .bind .xlate fun _ => ?_
  dsimp only
  split
  · exact .pure
  · intro s h
    beta_reduce
    split
    next heq1 => exact EndsFw.ok_of_eq heq1 (Sem.KeepsFw.xlate _ h)
    · exact h
    next heq2 => exact EndsFw.error_of_eq heq2 (Sem.KeepsFw.xlate _ h)

theorem Sem.KeepsFw.send {op : MemOp} {locs : List (Loc × Nat)} {w : Widen} {after : List Nat} {acq : Option Scope}
    {rose : Option RoseRef} {poll : Bool} :
    Sem.KeepsFw orig (send op locs w after acq rose poll) := by
  unfold Machine.send
  intro s h
  exact h.newId.fly

theorem Sem.KeepsFw.ownReady {off sz : Nat} : Sem.KeepsFw orig (ownReady off sz) := by
  unfold Machine.ownReady
  intro s h
  exact EndsFw.ite (fun _ h1 => h1) h

theorem Sem.KeepsFw.ownRead {off sz : Nat} : Sem.KeepsFw orig (ownRead off sz) := by
  unfold Machine.ownRead
  intro s h
  exact h.setMe

theorem Sem.KeepsFw.soAfter {kind : PageKind} : Sem.KeepsFw orig (soAfter kind) := by
  unfold Machine.soAfter
  intro s h
  exact h

theorem Sem.KeepsFw.acquireNow {acq : Option Scope} : Sem.KeepsFw orig (acquireNow acq) := by
  unfold Machine.acquireNow
  split
  · exact .modS fun _ h => h.acquireActs
  · exact .pure

theorem Sem.KeepsFw.loadPages {locs : List (Loc × Nat)} {w : Widen} {acq : Option Scope} {poll : Bool} {parts : List (Nat × Word)} :
    Sem.KeepsFw orig (loadPages locs w acq poll parts) := by
  unfold Machine.loadPages
  refine .getS_bind fun _ _ => ?_
  dsimp only
  split
  · exact .bind .modMe fun _ => .bind .acquireNow fun _ => .pure
  · split
    · exact .raise
    · exact .bind .modMe fun _ => .bind .soAfter fun _ => .bind .send fun _ => .pure

theorem Sem.KeepsFw.load {ea : Word} {sz : Nat} {w : Widen} {acq : Option Scope} {poll : Bool} : Sem.KeepsFw orig (load ea sz w acq poll) :=
  by
  unfold Machine.load
  refine .getS_bind fun _ _ => ?_
  dsimp only
  split
  · exact .raise
  · exact .bind .ownReady fun _ => .bind .acquireNow fun _ => .bind .ownRead fun _ => .pure
  · exact .bind .send fun _ => .pure
  · exact .bind .send fun _ => .pure
  · split
    · exact .raise
    · exact .ite (.bind .ownReady fun _ => .bind .acquireNow fun _ => .bind .ownRead fun _ => .pure) (.bind .send fun _ => .pure)
  · exact .ite .raise (.ite (.bind .acquireNow fun _ => .pure) .raise)
  · exact .ite .raise (.ite (.notYet fun _ h1 => h1) (.bind .acquireNow fun _ => .pure))
  · refine .bind .pages fun _ => .getS_bind fun _ h1 => ?_
    split
    · exact .loadPages
    · exact .loadPages
    · exact .bind .check fun _ => .raise

theorem Sem.KeepsFw.sendStore {v : Nat} {locs : List (Loc × Nat)} {after : List Nat} {rose : Option RoseRef} :
    Sem.KeepsFw orig (sendStore v locs after rose) := .bind .send fun _ => .pure

theorem Sem.KeepsFw.storePiece {t : TlbEnt} {va sz v : Nat} {rel : Option Scope} {after : List Nat} :
    Sem.KeepsFw orig (storePiece t va sz v rel after) :=
  .getS_bind fun _ _ => .ite (.bind .soAfter fun _ => .bind (.modS fun _ h1 => h1.foldl fun _ _ h => h.l1Clean) fun _ => .sendStore)
    (.ite (.notYet_bind fun _ h1 => h1) (.modS fun _ h1 => h1.foldl_fst fun _ _ h => h.l1Store))

theorem Sem.KeepsFw.ownStore {off sz v : Nat} {acts : Sem (List Nat)} (hacts : Sem.KeepsFw orig acts) :
    Sem.KeepsFw orig (ownStore off sz v acts) := .bind .ownReady fun _ => .bind hacts fun _ => .getS_bind fun _ _ => .ite .modMe .sendStore

theorem Sem.KeepsFw.accStore {off sz v : Nat} {acts : Sem (List Nat)} (hacts : Sem.KeepsFw orig acts) :
    Sem.KeepsFw orig (accStore off sz v acts) :=
  .getS_bind fun _ _ => .ite (.notYet fun _ h1 => h1) (.bind hacts fun _ => .ite .modMe (.bind .send fun _ => .modMe))

theorem Sem.KeepsFw.storeTo {ea : Word} {sz v : Nat} {rel : Option Scope} {aperture : Nat → Word → Sem Unit}
    (haperture : ∀ a w, Sem.KeepsFw orig (aperture a w)) :
    Sem.KeepsFw orig (storeTo ea sz v rel aperture) := by
  unfold Machine.storeTo
  refine .getS_bind fun s h => ?_
  extract_lets n v acts
  have hacts : Sem.KeepsFw orig acts := by
    unfold acts
    split
    · exact .release
    · exact .pure
  split
  · exact .raise
  · exact .ownStore hacts
  · exact .bind hacts fun _ => .sendStore
  · exact .bind hacts fun _ => .sendStore
  · split
    · exact .raise
    · exact .ite (.ownStore hacts) (.bind hacts fun _ => .sendStore)
  · exact .ite (.bind hacts fun _ => haperture _ _) .raise
  · exact .accStore hacts
  · refine .bind .check fun _ => .bind .pages fun pg => ?_
    split
    · exact .bind (.ite .pure hacts) fun _ => .storePiece
    · exact .bind (.ite .pure hacts) fun _ => .bind .storePiece fun _ => .storePiece
    · extract_lets first
      have hfirst : Sem.KeepsFw orig first := .bind (.ite .pure hacts) fun _ => .storePiece
      refine .bind hfirst fun _ _ _ u hu => ?_
      dsimp only
      split
      next heq => exact EndsFw.ok_of_eq heq (hfirst u hu)
      next => exact hu

/-! ### Machine/Operands.lean -/

theorem Sem.KeepsFw.readOperands {i : Instr} {m : Mods} : Sem.KeepsFw orig (readOperands i m) := .mapM fun _ => .src

theorem Follows.reserveTail {s : State} {i : Instr} (h : Follows orig s) : Gives (Follows orig) (s.reserveTail i) := by
  unfold State.reserveTail
  split
  · exact h
  · split
    · exact h
    · split
      · trivial
      · split
        next heq3 =>
          exact ((h.newId.of_snd heq3).setMe).setMy

theorem Follows.dropTail {s : State} {n x : Nat} (h : Follows orig s) : Follows orig (s.dropTail n x) := by
  unfold State.dropTail
  split
  · exact h
  · exact h.setCore.setCtx

theorem Sem.KeepsFw.dst {o : Opnd} {v : Word} : Sem.KeepsFw orig (dst o v) := by
  unfold Machine.dst
  refine .modS fun _ h => Follows.writeLr ?_
  split
  · exact h.setMe.setMy
  · exact h.writeReg

theorem Sem.KeepsFw.dstLater {o : Opnd} {id : Nat} : Sem.KeepsFw orig (dstLater o id) := by
  unfold Machine.dstLater
  refine .modS fun _ h => Follows.setMy ?_
  split
  · exact h.setMe
  · exact h

theorem Follows.deliver {s : State} {n x id : Nat} {v : Word} (h : Follows orig s) : Follows orig (s.deliver n x id v) := by
  unfold State.deliver
  split
  · exact h
  · extract_lets s1 _
    have hs1 : Follows orig s1 := by
      unfold s1
      split
      · exact h.setCore
      · exact h
      · exact h.writeReg
    exact hs1.setCtx

theorem Follows.retire {s : State} {id : Nat} (h : Follows orig s) : Follows orig (s.retire id) := h

theorem Follows.post {s : State} {m : NocMsg} {after : List Nat} {dist : Nat} (h : Follows orig s) : Follows orig (s.post m after dist) :=
  by
  unfold State.post
  exact h.newId

/-! ### Machine/Ops.lean -/

theorem Follows.traceHold {s : State} {n : Nat} (h : Follows orig s) : Follows orig (s.traceHold n) := Follows.ite h.setReg h

theorem Follows.withdraw {s : State} {n x : Nat} (h : Follows orig s) : Follows orig (s.withdraw n x) := h.setOctet.setCtx

theorem Follows.storeRec {s : State} {n x : Nat} {r : HaltRec} (h : Follows orig s) : Follows orig (s.storeRec n x r) := h.setCtx.tableStore

theorem Follows.dropResv {s : State} {n x : Nat} (h : Follows orig s) : Follows orig (s.dropResv n x) := by
  unfold State.dropResv
  split
  · exact h
  · exact h.setCore.setCtx

theorem Follows.dropAsk {s : State} {n x : Nat} (h : Follows orig s) : Follows orig (s.dropAsk n x) := Follows.ite h.setPart.setCtx h

theorem Follows.leaveWait {s : State} {n x : Nat} (h : Follows orig s) : Follows orig (s.leaveWait n x) :=
  h.withdraw.dropResv.dropTail.dropAsk

theorem Follows.haltCount {s : State} {n : Nat} (h : Follows orig s) : Follows orig (s.haltCount n).2 := h.setReg

theorem Follows.haltEnd {s : State} {n x id : Nat} {c : BitVec 8} {pc : Word} {u : Option Upstream} (h : Follows orig s) :
    Follows orig (s.haltEnd n x id c pc u) :=
  (Follows.ite h.storeRec.setCtx.setRegF h.storeRec.setCtx.setReg.pilotEvent.taskHalted).trigger.traceRec

theorem Follows.halt {s : State} {n x : Nat} {c : BitVec 8} {pc : Word} {u : Option Upstream} (h : Follows orig s) :
    Follows orig (s.halt n x c pc u) := by
  unfold State.halt
  extract_lets s1 _ _ s2
  have hs2 : Follows orig s2 := h.leaveWait.setCtx
  split
  next heq =>
    split
    next heq1 =>
      split
      · exact ((hs2.setCore.releaseActs.of_snd heq).haltCount.of_snd heq1).haltEnd
      · exact ((hs2.setCore.releaseActs.of_snd heq).haltCount.of_snd heq1).setCtx

theorem Follows.causeIn {s : State} {n x : Nat} {c : BitVec 8} {f a : Word} {len : Nat} (h : Follows orig s) :
    Follows orig (s.causeIn n x c f a len) := .ite h.leaveWait.setCtx h.setCtx.halt

theorem Follows.takeSlot {s : State} {n x : Nat} (h : Follows orig s) : Follows orig (s.takeSlot n x) := h.setCtx

theorem Follows.raiseIn {s : State} {n x : Nat} {c : BitVec 8} {f a : Word} {len : Nat} (h : Follows orig s) :
    Follows orig (s.raiseIn n x c f a len) := h.takeSlot.causeIn

theorem Follows.beginWait {s : State} {i : Instr} {m : Mods} {g : State → State} (h : Follows orig s)
    (hg : ∀ u, Follows orig u → Follows orig (g u)) :
    Follows orig (s.beginWait i m g) := by
  unfold State.beginWait
  split
  next heq =>
    extract_lets _ t1
    have ht1 : Follows orig t1 := hg _ ((EndsFw.ok_of_eq heq (Sem.KeepsFw.readOperands _ h.beginIssue)).setMy)
    exact ht1.getD ht1.reserveTail
  · exact h

theorem Follows.haltWithheld {s : State} {n x : Nat} {u : Upstream} (h : Follows orig s) : Follows orig (s.haltWithheld n x u) :=
  h.setCtx.halt

theorem Follows.charged {s : State} (h : Follows orig s) : Follows orig s.charged := Follows.ite h h.takeSlot

theorem Follows.finish1 {m : Mods} {s : State} {r : Except Stop (Unit × State)} {wait : (State → State) → State} (h : Follows orig s)
    (hr : EndsFw orig r) (hwait : ∀ g : State → State, (∀ u, Follows orig u → Follows orig (g u)) → Follows orig (wait g)) :
    Follows orig (finish1 m s r wait) := by
  unfold Machine.finish1
  dsimp only
  split
  next => exact hr.endIssue
  next => exact hr _ h
  next => exact hwait _ hr
  next => exact Follows.ite h h.charged.causeIn
  next => exact Follows.ite h h.charged.haltWithheld
  next => exact Follows.ite h ((hr _ h).charged.causeIn)

theorem Follows.runInstr {i : Instr} {m : Mods} {s : State} {body : Word → Sem Unit} (h : Follows orig s)
    (hbody : ∀ a, Sem.KeepsFw orig (body a)) :
    Nexts (Follows orig) (runInstr i m s body) := by
  unfold Machine.runInstr
  extract_lets k a
  split
  · split
    next => exact h
    next s1 heq =>
      have hs1 : Follows orig s1 := Gives.of_eq heq h.reserveTail
      exact hs1.finish1 (hbody _ _ hs1.setMy) fun _ hg => hg _ hs1
  · have hb : Follows orig s.beginIssue := h.beginIssue
    refine .ite (.ite (.ite h ?_) ?_) (.ite (.ite h ?_) (.ite ?_ ?_))
    · exact h.raiseIn
    · exact hb.setMy.endIssue
    · exact h.raiseIn
    · exact h.setMy
    · split
      · split
        · exact h.haltWithheld
        · exact h.setMy
      · exact h.finish1 (hbody _ _ hb.setMy) fun _ hg => h.beginWait hg

theorem Sem.KeepsFw.waitFor {α : Type} {on : WaitOn} {limit : Nat} {withheld : Option Upstream} :
    Sem.KeepsFw orig (waitFor on limit withheld : Sem α) := by
  unfold Machine.waitFor
  intro s h
  beta_reduce
  split
  · trivial
  · exact fun _ h1 => h1.setMy

theorem Sem.KeepsFw.noRoom {α : Type} {on : WaitOn} {withheld : Option Upstream} : Sem.KeepsFw orig (noRoom on withheld : Sem α) := by
  unfold Machine.noRoom
  intro s h
  beta_reduce
  split
  · exact fun _ h1 => h1.haltWithheld
  · exact fun _ h1 => h1.setMy

theorem Sem.KeepsFw.releaseFirst {sc : Scope} : Sem.KeepsFw orig (releaseFirst sc) := by
  intro s h
  have hacts : Follows orig (s.releaseActs s.cur.1 s.cur.2 sc).2 := h.releaseActs
  unfold Machine.releaseFirst
  split
  · exact h
  · split
    next t heq =>
      exact hacts.of_snd heq
    next => exact fun u hu => hu.releaseActs.setMy

/-! ### Machine/Flags.lean -/

theorem Sem.KeepsFw.raiseFlags {fl : BitVec 5} : Sem.KeepsFw orig (raiseFlags fl) := by
  unfold Machine.raiseFlags
  intro s h
  exact EndsFw.ite h.setMy fun _ h1 => h1.setMy

/-! ### Machine/Control.lean -/

theorem Follows.predBin {i : Instr} {d a b : BitVec 3} {m : Mods} {s : State} {op : Bool → Bool → Bool} (h : Follows orig s) :
    Nexts (Follows orig) (predBin i d a b m s op) := h.runInstr fun _ => .modMy

theorem Follows.execPnot {d a : BitVec 3} {m : Mods} {s : State} (h : Follows orig s) : Nexts (Follows orig) (execPnot d a m s) :=
  h.runInstr fun _ => .modMy

theorem Follows.execPpack {d : Opnd} {m : Mods} {s : State} (h : Follows orig s) : Nexts (Follows orig) (execPpack d m s) :=
  h.runInstr fun _ => .bind .getMy fun _ => .dst

theorem Follows.execPunpk {a : Opnd} {m : Mods} {s : State} (h : Follows orig s) : Nexts (Follows orig) (execPunpk a m s) :=
  h.runInstr fun _ => .bind .src fun _ => .modMy

theorem Sem.KeepsFw.branchTo {t : Word} : Sem.KeepsFw orig (branchTo t) := by
  unfold Machine.branchTo
  intro s h
  exact h.setMy.traceRec

theorem Sem.KeepsFw.setReg {o : Opnd} {v : Word} : Sem.KeepsFw orig (setReg o v) := .modS fun _ h => h.writeReg

theorem Follows.execBr {off : BitVec 20} {neg : Bool} {p : BitVec 3} {m : Mods} {s : State} (h : Follows orig s) :
    Nexts (Follows orig) (execBr off neg p m s) := h.runInstr fun _ => .bind .getMy fun _ => .ite .branchTo .pure

theorem Follows.execJmp {off : BitVec 24} {m : Mods} {s : State} (h : Follows orig s) : Nexts (Follows orig) (execJmp off m s) :=
  h.runInstr fun _ => .branchTo

theorem Follows.execCall {off : BitVec 24} {m : Mods} {s : State} (h : Follows orig s) : Nexts (Follows orig) (execCall off m s) :=
  h.runInstr fun _ => .bind .setReg fun _ => .branchTo

theorem Sem.KeepsFw.checkTarget {t : Word} : Sem.KeepsFw orig (checkTarget t) := .check

theorem Follows.execJmpr {x : Opnd} {m : Mods} {s : State} (h : Follows orig s) : Nexts (Follows orig) (execJmpr x m s) :=
  h.runInstr fun _ => .bind .src fun _ => .bind .checkTarget fun _ => .branchTo

theorem Follows.execCallr {x : Opnd} {m : Mods} {s : State} (h : Follows orig s) : Nexts (Follows orig) (execCallr x m s) :=
  h.runInstr fun _ => .bind .src fun _ => .bind .checkTarget fun _ => .bind .setReg fun _ => .branchTo

theorem Follows.execRet {m : Mods} {s : State} (h : Follows orig s) : Nexts (Follows orig) (execRet m s) :=
  h.runInstr fun _ => .bind .src fun _ => .bind .checkTarget fun _ => .branchTo

theorem Follows.execLoop {off : BitVec 17} {d : Opnd} {m : Mods} {s : State} (h : Follows orig s) :
    Nexts (Follows orig) (execLoop off d m s) := h.runInstr fun _ => .bind .src fun _ => .bind .dst fun _ => .ite .branchTo .pure

theorem Sem.KeepsFw.wholeStore {ea v : Word} {ap : Nat → Word → Sem Unit} (hap : ∀ a0 a1, Sem.KeepsFw orig (ap a0 a1)) :
    Sem.KeepsFw orig (wholeStore ea v ap) := by
  unfold Machine.wholeStore
  intro s h
  beta_reduce
  split
  · trivial
  · exact Sem.KeepsFw.storeTo (fun _ _ => hap _ _) _ h

theorem Sem.KeepsFw.enterBody {d : BitVec 7} {m : Mods} {ap : Nat → Word → Sem Unit} (hap : ∀ a0 a1, Sem.KeepsFw orig (ap a0 a1)) :
    Sem.KeepsFw orig (enterBody d m ap) :=
  .bind .src fun _ => .bind .src fun _ => .bind .src fun _ => .bind .getMy fun _ => .bind .check fun _ => .bind
    (.wholeStore fun _ _ => hap _ _) fun _ => .bind (.wholeStore fun _ _ => hap _ _) fun _ => .bind .setReg fun _ => .setReg

theorem Sem.KeepsFw.regLater {o : Opnd} {g : Got} : Sem.KeepsFw orig (regLater o g) := by
  unfold Machine.regLater
  split
  · exact .setReg
  · exact .modMy

theorem Follows.execLeave {m : Mods} {s : State} (h : Follows orig s) : Nexts (Follows orig) (execLeave m s) :=
  h.runInstr fun _ => .bind .src fun _ => .bind .load fun _ => .bind .load fun _ => .bind .setReg fun _ => .bind .regLater fun _ =>
    .regLater

theorem Follows.execNop {m : Mods} {s : State} (h : Follows orig s) : Nexts (Follows orig) (execNop m s) := h.runInstr fun _ => .pure

theorem Follows.execHalt {m : Mods} {s : State} (h : Follows orig s) : Nexts (Follows orig) (execHalt m s) := h.runInstr fun _ => .raise

theorem Follows.execTrap {n : BitVec 4} {m : Mods} {s : State} (h : Follows orig s) : Nexts (Follows orig) (execTrap n m s) :=
  h.runInstr fun _ => .raise

theorem Follows.execEret {m : Mods} {s : State} (h : Follows orig s) : Nexts (Follows orig) (execEret m s) := by
  unfold Machine.execEret
  exact h.runInstr fun _ => .bind .getMy fun _ => .bind .check fun _ => .bind .modMy fun _ => .getS_bind fun _ h1 => .putS h1.traceRec

/-! ### Machine/Engine.lean -/

theorem Follows.l1Fill {s : State} {n pa key : Nat} {kind : PageKind} {x : Bool} (h : Follows orig s) :
    Follows orig (s.l1Fill n pa key kind x) := Follows.ite h (Follows.ite h.l2Fill (Follows.ite h h.l2Fill.l1Put))

theorem Follows.setWalk {s : State} {d id : Nat} {w : Option Walk} (h : Follows orig s) : Follows orig (s.setWalk d id w) := h.setDie

theorem Follows.walkFails {s : State} {id page : Nat} {c : BitVec 8} (h : Follows orig s) : Follows orig (s.walkFails id page c) := h

theorem Follows.endWalk {s0 : State} {d : Nat} {w : Walk} (h : Follows orig s0) : Follows orig (s0.endWalk d w) := by
  unfold State.endWalk
  extract_lets s _
  have hs : Follows orig s := h.walkReads
  split
  · exact ((Follows.ite hs.zeroFill hs).foldl fun _ _ h => h.tlbInstall).tlbInstall.setWalk.retire
  · exact hs.walkFails.setWalk.retire
  · exact hs.recordBad.walkFails.setWalk.retire
  · exact hs.walkFails.setWalk.retire

theorem Follows.xlateNow {s : State} {n root va : Nat} (h : Follows orig s) : Follows orig (s.xlateNow n root va).2 := by
  unfold State.xlateNow
  split
  · exact h
  · extract_lets _ s1
    have hs1 : Follows orig s1 := by
      refine Follows.walkReads ?_
      split
      · exact h.endWalk
      · exact Follows.ite h.endWalk h
      · exact h
    split
    · exact (Follows.ite hs1.zeroFill hs1).tlbInstall
    · exact hs1
    · exact hs1.recordBad
    · exact hs1

theorem Follows.engPlace {s : State} {n a sz : Nat} {p : Perm} {store fold ctx : Bool} (h : Follows orig s) :
    Follows orig (s.engPlace n a sz p store fold ctx).2 := by
  unfold State.engPlace
  split
  · exact h
  · exact h
  · exact h
  · exact h
  · exact h
  · split
    · exact h
    · split
      · exact h
      · exact h
  · split
    · exact h
    · exact h
  · split
    next heq1 => exact h.xlateNow.of_snd heq1
    next heq1 =>
      split
      · exact h.xlateNow.of_snd heq1
      · split
        · exact h.xlateNow.of_snd heq1
        · exact h.xlateNow.of_snd heq1

theorem Follows.unitRead {s : State} {n sz : Nat} {l : Unit1} (h : Follows orig s) : Follows orig (s.unitRead n sz l).2 := by
  unfold State.unitRead
  split
  · exact h.setCore
  · exact h
  · exact h
  · exact h
  · exact h.l1Fill

theorem Follows.unitWrite {s : State} {n sz v : Nat} {u : Unit1} (h : Follows orig s) : Follows orig (s.unitWrite n sz v u) := by
  cases u with
  | scr m off => exact h.setCore
  | die d off => exact h.setDie
  | acc off => exact h.setCore
  | status ch => exact h
  | mem pa key kind x => exact Follows.ite h.l2Write h.l1Store

theorem Follows.l2Flush {s : State} {b : Nat} (h : Follows orig s) : Follows orig (s.l2Flush b) := by
  unfold State.l2Flush
  split
  · exact h.l2Evict.setDie
  · exact h

theorem Follows.foldFlags {s : State} {stack : Nat} {fl : BitVec 5} (h : Follows orig s) : Follows orig (s.foldFlags stack fl) :=
  Follows.ite h h

theorem Follows.baseUpd {s : State} {pa key n : Nat} {f : Nat → Nat × BitVec 5} (h : Follows orig s) :
    Gives (Follows orig) (s.baseUpd pa key n f) := .ite trivial h.l2Flush.countCorrected.hbmPut.foldFlags

theorem Follows.baseFold {s : State} {pa key : Nat} {t : ElTy} {v : Nat} (h : Follows orig s) :
    Gives (Follows orig) (s.baseFold pa key t v) := h.baseUpd

theorem Follows.foldRefused {s : State} {pa : Nat} (h : Follows orig s) : Follows orig (s.foldRefused pa) := h.l2Flush.eccEvent

theorem Follows.engUpd {s : State} {n pa key k : Nat} {f : Nat → Nat × BitVec 5} (h : Follows orig s) :
    Gives (Follows orig) (s.engUpd n pa key k f) := h.settleLine.l1Stale.baseUpd

theorem Follows.engFold {s : State} {n a : Nat} {t : ElTy} {v : Nat} (h : Follows orig s) : Follows orig (s.engFold n a t v).2 := by
  unfold State.engFold
  extract_lets _
  split
  next heq => exact h.engPlace.of_snd heq
  next heq =>
    split
    next heq1 => exact Gives.of_eq heq1 ((h.engPlace.of_snd heq).engUpd)
    · exact (h.engPlace.of_snd heq).foldRefused
  next heq1 =>
    split
    next heq2 => exact ((h.engPlace.of_snd heq1).unitRead.of_snd heq2).unitWrite

theorem Follows.engRead {s : State} {n a cnt : Nat} {ctx : Bool} (h : Follows orig s) : Follows orig (s.engRead n a cnt ctx).2 := by
  unfold State.engRead
  refine h.foldl_snd fun _ _ h1 => ?_
  split
  · exact h1
  · split
    next heq1 => exact h1.engPlace.of_snd heq1
    next heq1 =>
      split
      next heq2 => exact (h1.engPlace.of_snd heq1).unitRead.of_snd heq2

theorem Follows.engWrite {s : State} {n a : Nat} {bs : List Byte} (h : Follows orig s) : Follows orig (s.engWrite n a bs).2 := by
  unfold State.engWrite
  refine h.foldl_snd fun _ _ h1 => ?_
  split
  · exact h1
  · split
    next heq1 => exact h1.engPlace.of_snd heq1
    next heq1 => exact (h1.engPlace.of_snd heq1).unitWrite

theorem Follows.engineEvent {s : State} {n what : Nat} {c : BitVec 8} (h : Follows orig s) : Follows orig (s.engineEvent n what c) :=
  h.pilotEvent

theorem Sem.KeepsFw.raiseWalked {α : Type} {c : BitVec 8} {f : Word} {t : State → State} : Sem.KeepsFw orig (raiseWalked c f t : Sem α) :=
  fun _ _ _ h => h

theorem Sem.KeepsFw.ctxRead {a cnt : Nat} : Sem.KeepsFw orig (ctxRead a cnt) := by
  unfold Machine.ctxRead
  intro s h
  beta_reduce
  split
  · exact fun _ h1 => h1
  · split
    next heq1 => exact h.engRead.of_snd heq1
    · exact Sem.KeepsFw.raiseWalked _ h

theorem Sem.KeepsFw.ctxWrite {a : Nat} {bs : List Byte} : Sem.KeepsFw orig (ctxWrite a bs) := by
  unfold Machine.ctxWrite
  intro s h
  beta_reduce
  split
  · exact fun _ h1 => h1
  · split
    next heq1 => exact h.engWrite.of_snd heq1
    · exact Sem.KeepsFw.raiseWalked _ h

/-! ### Machine/Copy.lean -/

theorem Follows.execXtpl {d : BitVec 6} {a : Opnd} {m : Mods} {s : State} (h : Follows orig s) : Nexts (Follows orig) (execXtpl d a m s) :=
  h.runInstr fun _ => .bind .src fun _ => .bind .check fun _ => .bind .ctxRead fun _ => .bind .check fun _ => .modMe

theorem Sem.KeepsFw.startCopy {ch : Nat} {w enc : Word} : Sem.KeepsFw orig (startCopy ch w enc) := by
  unfold Machine.startCopy
  refine .getS_bind fun _ _ => .ite (.notYet fun _ h => h) (.bind .check fun _ => ?_)
  dsimp only
  split
  · exact .raise
  · split
    · exact .raise_bind
    · refine .ite (.notYet_bind fun _ h => h) (.bind .freshId fun _ => ?_)
      exact .bind .modMe fun _ => .bind .modMe fun _ => .modMe

theorem Follows.execXst {d : BitVec 3} {a : Opnd} {m : Mods} {s : State} (h : Follows orig s) : Nexts (Follows orig) (execXst d a m s) :=
  h.runInstr fun _ => .bind .src fun _ => .startCopy

theorem Follows.execXstat {d : Opnd} {a : BitVec 3} {m : Mods} {s : State} (h : Follows orig s) :
    Nexts (Follows orig) (execXstat d a m s) := h.runInstr fun _ => .bind .getMe fun _ => .dst

theorem Follows.execXcan {d : BitVec 3} {m : Mods} {s : State} (h : Follows orig s) : Nexts (Follows orig) (execXcan d m s) := by
  unfold Machine.execXcan
  exact h.runInstr fun _ => .getS_bind fun _ _ => .ite .modMe .waitFor

/-! ### Machine/LoadStore.lean -/

theorem Sem.KeepsFw.loadDst {d : Opnd} {z : Sz} {g : Got} : Sem.KeepsFw orig (loadDst d z g) := by
  unfold Machine.loadDst
  split
  · exact .dst
  · exact .dstLater

theorem Sem.KeepsFw.loadAt {d : Opnd} {z : Sz} {ea : Word} : Sem.KeepsFw orig (loadAt d z ea) := .bind .load fun _ => .loadDst

theorem Sem.KeepsFw.storeAt {ea : Word} {z : Sz} {v : Word} {rel : Option Scope} {enc : Word} : Sem.KeepsFw orig (storeAt ea z v rel enc) :=
  .storeTo fun _ _ => .startCopy

theorem Follows.execLd {d a : Opnd} {z : Sz} {i : BitVec 7} {m : Mods} {s : State} (h : Follows orig s) :
    Nexts (Follows orig) (execLd d a z i m s) := h.runInstr fun _ => .bind .src fun _ => .loadAt

theorem Follows.execSt {d a : Opnd} {z : Sz} {i : BitVec 7} {m : Mods} {s : State} (h : Follows orig s) :
    Nexts (Follows orig) (execSt d a z i m s) := h.runInstr fun _ => .bind .src fun _ => .bind .src fun _ => .storeAt

theorem Follows.execLdx {f : Sz} {d a b : Opnd} {m : Mods} {s : State} (h : Follows orig s) : Nexts (Follows orig) (execLdx f d a b m s) :=
  h.runInstr fun _ => .bind .src fun _ => .bind .src fun _ => .loadAt

theorem Follows.execStx {f : Sz} {d a b : Opnd} {m : Mods} {s : State} (h : Follows orig s) : Nexts (Follows orig) (execStx f d a b m s) :=
  h.runInstr fun _ => .bind .src fun _ => .bind .src fun _ => .bind .src fun _ => .storeAt

theorem Follows.execLda {d a : Opnd} {z : Sz} {i : BitVec 3} {k : Scope} {m : Mods} {s : State} (h : Follows orig s) :
    Nexts (Follows orig) (execLda d a z i k m s) := by
  unfold Machine.execLda
  refine h.runInstr fun _ => .bind .src fun _ => .bind .load fun _ => .bind .loadDst fun _ => ?_
  split
  · exact .pure
  · exact .blockOn

theorem Follows.execStl {d a : Opnd} {z : Sz} {i : BitVec 3} {k : Scope} {m : Mods} {s : State} (h : Follows orig s) :
    Nexts (Follows orig) (execStl d a z i k m s) := h.runInstr fun _ => .bind .src fun _ => .bind .src fun _ => .storeAt

theorem Follows.execEnter {d : BitVec 7} {m : Mods} {s : State} (h : Follows orig s) : Nexts (Follows orig) (execEnter d m s) := by
  unfold Machine.execEnter
  exact h.runInstr fun _ => .enterBody fun _ _ => .startCopy

/-! ### Machine/Cache.lean -/

theorem Follows.lineAct {s : State} {n x : Nat} {op : LineOp} {t : TlbEnt} {pa : Nat} (h : Follows orig s) :
    Follows orig (s.lineAct n x op t pa) := by
  unfold State.lineAct
  extract_lets _ _ _
  split
  next heq =>
    split
    · exact h.l1Clean
    · exact h.l1Clean
    · exact (h.newId.of_snd heq).l1Forget.fly
    · exact h.l2Fill
    · exact Follows.ite h ((h.newId.of_snd heq).fly)

theorem Follows.zeroLocal {s : State} {n x : Nat} {l : Loc} (h : Follows orig s) : Follows orig (s.zeroLocal n x l) := h.newId.fly

theorem Follows.zeroView {s : State} {n x : Nat} {r : RoseRef} (h : Follows orig s) : Follows orig (s.zeroView n x r) := h.newId.fly

theorem Follows.lineOp {s : State} {n x : Nat} {op : LineOp} {l : Nat} (h : Follows orig s) : Follows orig (s.lineOp n x op l).2 := by
  unfold State.lineOp
  extract_lets loc
  have hloc : ∀ k, Follows orig (loc k).2 := fun k => Follows.ite h.zeroLocal h
  split
  · exact h
  · exact hloc _
  · exact hloc _
  · exact hloc _
  · split
    · exact h
    · split
      · exact hloc _
      · exact Follows.ite h.zeroView h
  · exact h
  · exact h
  next va _ =>
    have hx : Follows orig (s.xlateNow n (s.homePart n) va).2 := h.xlateNow
    split
    · exact h
    · split
      next heq => exact hx.of_snd heq
      next heq =>
        split
        · exact hx.of_snd heq
        · exact (hx.of_snd heq).lineAct

theorem Follows.lineOps {s : State} {n x : Nat} {op : LineOp} {ls : List Nat} (h : Follows orig s) : Follows orig (s.lineOps n x op ls).1 :=
  by
  induction ls generalizing s with
  | nil => exact h
  | cons l ls ih =>
    have hl : Follows orig (s.lineOp n x op l).2 := h.lineOp
    rw [State.lineOps]
    split
    next heq => exact ih (hl.of_snd heq)
    next heq =>
      split
      · exact ih (hl.of_snd heq)
      · exact hl.of_snd heq

theorem Follows.cacheOp {i : Instr} {a c : Opnd} {m : Mods} {s : State} {op : LineOp} (h : Follows orig s) :
    Nexts (Follows orig) (cacheOp i a c m s op) := by
  unfold Machine.cacheOp
  refine h.runInstr fun _ => .bind .src fun _ => ?_
  dsimp only
  split
  · refine .bind .src fun cnt => .bind .check fun x => .getS_bind fun s1 h1 => ?_
    split
    next heq1 => exact .putS (h1.lineOps.of_fst heq1)
    · intro s2 hs2
      exact fun _ h2 => h2.lineOps
  · refine .bind .pure fun cnt => .bind .check fun x => .getS_bind fun s1 h1 => ?_
    split
    next heq1 => exact .putS (h1.lineOps.of_fst heq1)
    · intro s2 hs2
      exact fun _ h2 => h2.lineOps

theorem Follows.execIfence {m : Mods} {s : State} (h : Follows orig s) : Nexts (Follows orig) (execIfence m s) :=
  h.runInstr fun _ => .bind .modMe fun _ => .modMy

theorem Sem.KeepsFw.readsFirst  : Sem.KeepsFw orig readsFirst := by
  unfold Machine.readsFirst
  intro s h
  exact EndsFw.ite h fun _ h1 => h1

theorem Sem.KeepsFw.fullFirst {sc : Scope} : Sem.KeepsFw orig (fullFirst sc) := by
  unfold Machine.fullFirst
  intro s h
  beta_reduce
  split
  · exact h
  · split
    next heq1 => exact h.fullActs.of_snd heq1
    · exact fun _ h1 => h1.fullActs.setMy

theorem Follows.execFence {d : FenceKind} {m : Mods} {s : State} (h : Follows orig s) : Nexts (Follows orig) (execFence d m s) := by
  unfold Machine.execFence
  refine h.runInstr fun _ => ?_
  dsimp only
  split
  · exact .bind .release fun _ => .blockOn
  · exact .ite (.modS fun _ h => h.acquireActs) (.bind .readsFirst fun _ => .modS fun _ h => h.acquireActs)
  · exact .ite .pure (.bind .fullFirst fun _ => .modS fun _ h1 => h1.fullEnd.acquireActs)

/-! ### Machine/Atomic.lean -/

theorem Sem.KeepsFw.limitOf {c : Opnd} {m : Mods} : Sem.KeepsFw orig (limitOf c m) := by
  unfold Machine.limitOf
  exact .ite (.bind .src fun _ => .pure) .pure

theorem Sem.KeepsFw.pollWait {lim : Nat} {due : Bool} : Sem.KeepsFw orig (pollWait lim due) := by
  unfold Machine.pollWait
  intro s h
  exact fun _ h1 => h1.setMy

theorem Sem.KeepsFw.startPoll {ea : Word} {z : Sz} {lim : Nat} {got : Nat → Sem Unit} (hgot : ∀ a0, Sem.KeepsFw orig (got a0)) :
    Sem.KeepsFw orig (startPoll ea z lim got) := by
  unfold Machine.startPoll
  intro s h
  beta_reduce
  split
  next heq => exact EndsFw.error_of_eq heq (Sem.KeepsFw.load _ h)
  next heq => exact hgot _ _ (EndsFw.ok_of_eq heq (Sem.KeepsFw.load _ h))
  · refine fun _ h1 => ?_
    beta_reduce
    split
    next heq1 =>
      exact (EndsFw.ok_of_eq heq1 (Sem.KeepsFw.load _ h1)).setMy
    · exact h1

theorem Follows.execWaita {f : Sz} {d a b c : Opnd} {m : Mods} {s : State} (h : Follows orig s) :
    Nexts (Follows orig) (execWaita f d a b c m s) := by
  unfold Machine.execWaita
  refine h.runInstr fun _ => .bind .src fun _ => .bind .src fun _ => .bind .limitOf fun _ => .bind .getMy fun _ => ?_
  dsimp only
  split
  · split
    · exact .ite (.bind .modMy fun _ => .bind .dst fun _ => .acquireNow) .pollWait
    · exact .startPoll fun _ => .ite (.bind .modMy fun _ => .bind .dst fun _ => .acquireNow) .pollWait
  · split
    · exact .startPoll fun _ => .ite (.bind .modMy fun _ => .bind .dst fun _ => .acquireNow) .pollWait
    · exact .ite .dst (.ite (.startPoll fun _ => .ite (.bind .modMy fun _ => .bind .dst fun _ => .acquireNow) .pollWait) .pollWait)
  · exact .startPoll fun _ => .ite (.bind .modMy fun _ => .bind .dst fun _ => .acquireNow) .pollWait

theorem Sem.KeepsFw.ownRmw {i : Instr} {d : Opnd} {t : ElTy} {off y c : Nat} : Sem.KeepsFw orig (ownRmw i d t off y c) := by
  unfold Machine.ownRmw
  refine .bind .ownReady fun _ => .bind .ownRead fun _ => ?_
  dsimp only
  split
  · exact .bind .modMe fun _ => .dst
  · exact .dst

theorem Sem.KeepsFw.farRmw {i : Instr} {d : Opnd} {t : ElTy} {y c : Word} {locs : List (Loc × Nat)} {rose : Option RoseRef}
    {after : List Nat} :
    Sem.KeepsFw orig (farRmw i d t y c locs rose after) := .bind .send fun _ => .dstLater

theorem Sem.KeepsFw.dropLines {pa sz : Nat} : Sem.KeepsFw orig (dropLines pa sz) := .modS fun _ h => h.foldl fun _ _ h => h.l1Clean

theorem Sem.KeepsFw.atomicAt {i : Instr} {d : Opnd} {t : ElTy} {ea y c : Word} : Sem.KeepsFw orig (atomicAt i d t ea y c) := by
  unfold Machine.atomicAt
  refine .getS_bind fun _ _ => ?_
  dsimp only
  split
  · exact .raise
  · exact .ownRmw
  · exact .farRmw
  · exact .farRmw
  · split
    · exact .raise
    · exact .ite .ownRmw .farRmw
  · exact .raise
  · exact .raise
  · exact .bind .check fun _ => .bind .xlate fun _ => .bind .check fun _ => .getS_bind fun _ _ => .bind .check fun _ => .bind .soAfter fun
      _ => .bind .dropLines fun _ => .getS_bind fun _ _ => .farRmw

theorem Follows.amo {i : Instr} {d a b : Opnd} {m : Mods} {s : State} (h : Follows orig s) : Nexts (Follows orig) (amo i d a b m s) :=
  h.runInstr fun _ => .bind .src fun _ => .bind .src fun _ => .atomicAt

theorem Follows.execAcas {d a b c : Opnd} {m : Mods} {s : State} (h : Follows orig s) : Nexts (Follows orig) (execAcas d a b c m s) := by
  unfold Machine.execAcas
  exact h.runInstr fun _ => .bind .src fun _ => .bind .src fun _ => .bind .src fun _ => .atomicAt

end Sys2Proof.Machine
end

section
/-! PROOFS of the family 03_host, O60: Machine/Barriers to Machine/Context. -/

namespace Sys2Proof.Machine

variable {orig : State}

/-! ### Machine/Barriers.lean -/

theorem Follows.barComplete {s : State} {o b : Nat} (h : Follows orig s) : Follows orig (s.barComplete o b) := by
  unfold State.barComplete
  extract_lets _
  split
  · exact .ite (h.setCore.foldl fun _ _ h => h.post) h
  · exact h

theorem Follows.execBinit {a : BitVec 7} {d : Opnd} {m : Mods} {s : State} (h : Follows orig s) :
    Nexts (Follows orig) (execBinit a d m s) :=
  h.runInstr fun _ => .bind .src fun _ => .getS_bind fun _ _ => .bind .check fun _ => .bind .check fun _ => .bind .check fun _ => .bind
    .modMe fun _ => .ite (.modS fun _ h => h.barComplete) .pure

theorem Follows.barArrive {s : State} {n x b : Nat} (h : Follows orig s) : Follows orig (s.barArrive n x b) := by
  unfold State.barArrive
  extract_lets _
  split
  next heq =>
    exact (h.releaseActs.of_snd heq).setCore.post

theorem Follows.execBarr {a : BitVec 7} {m : Mods} {s : State} (h : Follows orig s) : Nexts (Follows orig) (execBarr a m s) :=
  h.runInstr fun _ => .getS_bind fun _ h1 => .bind .check fun _ => .putS h1.barArrive

theorem Sem.KeepsFw.barReturn {b : Nat} {d : Opnd} : Sem.KeepsFw orig (barReturn b d) :=
  .getS_bind fun _ _ => .bind .acquireNow fun _ => .dst

theorem Sem.KeepsFw.barWait {b : Nat} {d : Opnd} {lim : Nat} {arrived : Bool} : Sem.KeepsFw orig (barWait b d lim arrived) := by
  unfold Machine.barWait
  refine .getS_bind fun _ _ => ?_
  split
  · exact .barReturn
  · split
    · exact .ite .dst .waitFor
    · exact .waitFor

theorem Follows.execBwait {d : Opnd} {a : BitVec 7} {c : Opnd} {m : Mods} {s : State} (h : Follows orig s) :
    Nexts (Follows orig) (execBwait d a c m s) := h.runInstr fun _ => .bind .limitOf fun _ => .barWait

theorem Follows.execBarw {d : Opnd} {a : BitVec 7} {c : Opnd} {m : Mods} {s : State} (h : Follows orig s) :
    Nexts (Follows orig) (execBarw d a c m s) := by
  unfold Machine.execBarw
  refine h.runInstr fun _ => .bind .limitOf fun _ => .getS_bind fun _ _ => ?_
  dsimp only
  split
  · exact .barWait
  · refine .bind .check fun _ => ?_
    split
    · intro s2 hs2
      trivial
    · intro s2 hs2
      exact fun _ h2 => h2.barArrive.setMy

theorem Follows.execBstat {d : Opnd} {a : BitVec 7} {m : Mods} {s : State} (h : Follows orig s) :
    Nexts (Follows orig) (execBstat d a m s) := h.runInstr fun _ => .getS_bind fun _ _ => .dst

theorem Follows.execRoseb {d : BitVec 4} {a : Opnd} {m : Mods} {s : State} (h : Follows orig s) :
    Nexts (Follows orig) (execRoseb d a m s) := by
  unfold Machine.execRoseb
  refine h.runInstr fun _ => .bind .src fun _ => .bind .ctxRead fun _ => .bind .check fun _ => .getS_bind fun _ _ => ?_
  dsimp only
  split
  · exact .raise
  · exact .bind .check fun _ => .bind .check fun _ => .bind .check fun _ => .modMe

theorem Follows.execRoseq {d : Opnd} {a : BitVec 4} {m : Mods} {s : State} (h : Follows orig s) :
    Nexts (Follows orig) (execRoseq d a m s) := h.runInstr fun _ => .getS_bind fun _ _ => .ite (.notYet fun _ h2 => h2) .dst

theorem Follows.execRosex {d : BitVec 4} {m : Mods} {s : State} (h : Follows orig s) : Nexts (Follows orig) (execRosex d m s) := by
  unfold Machine.execRosex
  exact h.runInstr fun _ => .modMe

/-! ### Machine/Messages.lean -/

theorem Follows.revoke {s : State} {n m : Nat} (h : Follows orig s) : Follows orig (s.revoke n m) := h

theorem Follows.revokeAll {s : State} {n : Nat} (h : Follows orig s) : Follows orig (s.revokeAll n) := h.foldl fun _ _ h => h.revoke

theorem Follows.execMbind {a : Opnd} {m : Mods} {s : State} (h : Follows orig s) : Nexts (Follows orig) (execMbind a m s) := by
  unfold Machine.execMbind
  refine h.runInstr fun _ => .bind .src fun _ => .getS_bind fun _ _ => ?_
  dsimp only
  split
  · refine .bind .modMy fun x1 => ?_
    split
    · exact .pure
    · intro s2 hs2
      exact fun _ h2 => h2.setMy
  · refine .bind .check fun x1 => ?_
    split
    · exact .raise
    · exact .bind .check fun _ => .bind .check fun _ => .ite (.notYet fun _ h2 => h2) (.blocked fun _ h2 => h2.newId.revoke.setMe.setMy)

theorem Follows.execMstat {d a : Opnd} {m : Mods} {s : State} (h : Follows orig s) : Nexts (Follows orig) (execMstat d a m s) :=
  h.runInstr fun _ => .bind .src fun _ => .bind .check fun _ => .getS_bind fun _ _ => .dst

theorem Sem.KeepsFw.sendChecks {w enc : Word} {regs : Bool} : Sem.KeepsFw orig (sendChecks w enc regs) := by
  unfold Machine.sendChecks
  dsimp only
  refine .bind .check fun _ => .bind .check fun _ => .getS_bind fun _ _ => .bind .check fun _ => ?_
  split
  · exact .raise
  · exact .check

theorem Sem.KeepsFw.sendRoom  : Sem.KeepsFw orig sendRoom := by
  unfold Machine.sendRoom
  intro s h
  exact EndsFw.ite h fun _ h1 => h1

theorem Sem.KeepsFw.sendMsg {w : Word} {bs : List Byte} : Sem.KeepsFw orig (sendMsg w bs) :=
  .getS_bind fun _ _ => .bind .release fun _ => .modMe

theorem Follows.execMsend {a c : Opnd} {m : Mods} {s : State} (h : Follows orig s) : Nexts (Follows orig) (execMsend a c m s) := by
  unfold Machine.execMsend
  refine h.runInstr fun _ => .bind .sendRoom fun _ => .bind .src fun _ => .bind .src fun _ => .bind .sendChecks fun _ => ?_
  dsimp only
  split
  · refine .bind .check fun _ => .getS_bind fun _ _ => ?_
    split
    · exact .sendMsg
    · split
      · exact .raise
      · exact .bind .ctxRead fun _ => .sendMsg
  · exact .raise_bind

theorem Follows.execMsendr {d a c : Opnd} {m : Mods} {s : State} (h : Follows orig s) : Nexts (Follows orig) (execMsendr d a c m s) :=
  h.runInstr fun _ => .bind .sendRoom fun _ => .bind .src fun _ => .bind .sendChecks fun _ => .bind .src fun _ => .ite
    (.ite (.bind .src fun _ => .sendMsg) (.bind .pure fun _ => .sendMsg)) .sendMsg

theorem Follows.takeMsg {s : State} {n m : Nat} {g : Msg} (h : Follows orig s) : Follows orig (s.takeMsg n m g) := h.setCore.post

theorem Sem.KeepsFw.recv {d : Opnd} {b lim : Nat} {take : Msg → Sem Unit} {expire : Sem Unit} {reserve : State → State}
    (htake : ∀ a0, Sem.KeepsFw orig (take a0)) (hexpire : Sem.KeepsFw orig expire)
      (hreserve : ∀ u, Follows orig u → Follows orig (reserve u)) :
    Sem.KeepsFw orig (recv d b lim take expire reserve) := by
  unfold Machine.recv
  refine .getS_bind fun _ _ => ?_
  dsimp only
  split
  · exact .bind (htake _) fun _ => .bind (.modS fun _ h => h.takeMsg) fun _ => .bind .dst fun _ => .acquireNow
  · split
    · exact .bind hexpire fun _ => .dst
    · split
      · intro s1 hs1
        trivial
      · exact .blocked fun _ h1 => (hreserve _ h1).setMy

theorem Follows.execMrecv {d a c : Opnd} {m : Mods} {s : State} (h : Follows orig s) : Nexts (Follows orig) (execMrecv d a c m s) := by
  unfold Machine.execMrecv
  refine h.runInstr fun _ => .bind .src fun _ => .bind .limitOf fun _ => .getS_bind fun _ _ => .bind .check fun _ => ?_
  dsimp only
  split
  · refine .bind .check fun _ => .recv (fun _ => ?_) .pure fun _ h2 => h2
    split
    · exact .pure
    · split
      · exact .raise
      · exact .ctxWrite
  · exact .raise_bind

theorem Follows.reserveTwo {s : State} {q : Nat} (h : Follows orig s) : Follows orig (s.reserveTwo q) := by
  unfold State.reserveTwo
  split
  · exact h
  · extract_lets _ s1 _ s2 _
    have hs1 : Follows orig s1 := h
    have hs2 : Follows orig s2 := hs1.setMe
    exact hs2.setMy

theorem Follows.execMrecvr {d a c : Opnd} {m : Mods} {s : State} (h : Follows orig s) : Nexts (Follows orig) (execMrecvr d a c m s) := by
  unfold Machine.execMrecvr
  refine h.runInstr fun _ => .bind .src fun _ => .bind .limitOf fun _ => .bind .check fun _ => .getS_bind fun _ _ => ?_
  split
  · exact .noRoom
  · refine .bind .check fun _ => .recv (fun _ => .bind .check fun _ => .bind (.modS fun _ h => h.reserveTwo) fun _ => .getS_bind fun _ h2
      => ?_) (.modS fun _ h => h.dropResv) fun _ h => h.reserveTwo
    split
    · dsimp only
      exact .putS h2.setMe.setMy
    · exact .pure

/-! ### Machine/Timetable.lean -/

theorem Follows.ttDamage {s : State} {id : Nat} (h : Follows orig s) : Follows orig (s.ttDamage id) := h

theorem Follows.ttInject {s : State} {n k t : Nat} {v : Word} {p : Phase} (h : Follows orig s) : Follows orig (s.ttInject n k t v p) :=
  (h.foldl fun _ _ h => h.ttDamage).newId

theorem Follows.execTtgo {a : Opnd} {m : Mods} {s : State} (h : Follows orig s) : Nexts (Follows orig) (execTtgo a m s) := by
  unfold Machine.execTtgo
  refine h.runInstr fun _ => .bind .src fun _ => .getS_bind fun _ _ => ?_
  dsimp only
  split
  · exact .ite (.ite .pure .waitFor) (.bind .check fun _ => .raise)
  · refine .bind .check fun _ => ?_
    split
    · intro s2 hs2
      trivial
    · exact .blocked fun _ h2 => h2.setMe.setMy

theorem Sem.KeepsFw.ttEarly {send : Bool} {k t : Nat} {v : Word} : Sem.KeepsFw orig (ttEarly send k t v) := .blocked fun _ h => h.setMy

theorem Follows.execTtsend {d a : Opnd} {m : Mods} {s : State} (h : Follows orig s) : Nexts (Follows orig) (execTtsend d a m s) := by
  unfold Machine.execTtsend
  refine h.runInstr fun _ => .bind .src fun _ => .bind .src fun _ => .getS_bind fun _ _ => ?_
  dsimp only
  split
  · exact .modMy
  · split
    · exact .raise
    · exact .bind .check fun _ => .ite .ttEarly (.bind .check fun _ => .modS fun _ h => h.ttInject)

theorem Follows.execTtrecv {d a : Opnd} {m : Mods} {s : State} (h : Follows orig s) : Nexts (Follows orig) (execTtrecv d a m s) := by
  unfold Machine.execTtrecv
  refine h.runInstr fun _ => .bind .src fun _ => .getS_bind fun _ _ => ?_
  dsimp only
  split
  · exact .bind .modMy fun _ => .dst
  · split
    · exact .raise
    · refine .bind .check fun _ => ?_
      split
      · intro s2 hs2
        trivial
      · exact .ite .ttEarly (.bind .check fun _ => .bind .modMe fun _ => .dst)

theorem Follows.execTtend {m : Mods} {s : State} (h : Follows orig s) : Nexts (Follows orig) (execTtend m s) := by
  unfold Machine.execTtend
  refine h.runInstr fun _ => .getS_bind fun _ _ => ?_
  split
  · exact .raise
  · split
    · split
      · intro s2 hs2
        exact fun _ h2 => h2.setMe
      · exact .modMe
    · split
      · exact .raise
      · split
        · intro s2 hs2
          trivial
        · exact .blocked fun _ h2 => h2.setMe.setMy

theorem Follows.execTtq {d : Opnd} {m : Mods} {s : State} (h : Follows orig s) : Nexts (Follows orig) (execTtq d m s) := by
  unfold Machine.execTtq
  exact h.runInstr fun _ => .getS_bind fun _ _ => .dst

/-! ### Machine/Fixes.lean -/

theorem Follows.setFixObj {s : State} {fx : BitVec 32} {f : FixObj} (h : Follows orig s) : Follows orig (s.setFixObj fx f) :=
  .ite h.setCore h

theorem Follows.pagesOk {s : State} {n : Nat} {l : List Nat} (h : Follows orig s) : GivesOk (Follows orig) (s.pagesOk n l) := by
  induction l generalizing s with
  | nil => exact h
  | cons a l ih =>
    have hx : Follows orig (s.xlateNow n (s.homePart n) a).2 := h.xlateNow
    rw [State.pagesOk]
    split
    · trivial
    next heq =>
      split
      · trivial
      · exact ih (hx.of_snd heq)

theorem Follows.fxResultOk {s : State} {n : Nat} {d : Line} {alg : Alg} (h : Follows orig s) :
    GivesOk (Follows orig) (s.fxResultOk n d alg) := by
  unfold State.fxResultOk
  extract_lets _ _
  split
  · exact GivesOk.ite (GivesOk.ite trivial h.pagesOk) trivial
  · split
    · split
      · exact GivesOk.ite h trivial
      · trivial
    · split
      · exact GivesOk.ite trivial h.pagesOk
      · split
        · split
          · split
            · trivial
            · exact h
          · trivial
        · trivial

theorem Follows.agentWrite {s : State} {n a : Nat} {bs : List Byte} (h : Follows orig s) : Follows orig (s.agentWrite n a bs) := by
  unfold State.agentWrite
  refine h.foldl_snd_snd fun _ _ h1 => ?_
  split
  · exact h1
  · split
    next heq1 => exact (h1.engPlace.of_snd heq1).engineEvent
    next heq1 => exact (h1.engPlace.of_snd heq1).l2Write
    next heq2 => exact (h1.engPlace.of_snd heq2).unitWrite

theorem Follows.openBuffer {s : State} {fx : BitVec 32} {f : FixObj} {k : Nat} {tag : BitVec 32} (h : Follows orig s) :
    Follows orig (s.openBuffer fx f k tag) := h.agentWrite

theorem Follows.stageContrib {s : State} {fx : BitVec 32} {f : FixObj} {k : Nat} {c : Contrib} (h : Follows orig s) :
    Follows orig (s.stageContrib fx f k c) := Follows.ite h h.agentWrite

theorem Follows.fxCount1 {s : State} {p lo : Nat} (h : Follows orig s) : Follows orig (s.fxCount1 p lo) := by
  unfold State.fxCount1
  exact h.setRegF

/-! ### Machine/Fabric.lean -/

theorem Follows.pumpPort {s : State} {p : Nat} (h : Follows orig s) : Follows orig (s.pumpPort p) := Follows.ite h.setPort h

theorem Follows.idleFlit {s : State} {p : Nat} (h : Follows orig s) : Follows orig (s.idleFlit p) := Follows.ite h.setPort h

theorem Follows.portCount {s : State} {p off lo k : Nat} (h : Follows orig s) : Follows orig (s.portCount p off lo k) := h.setRegF

theorem Follows.portEvt {s : State} {p bit : Nat} (h : Follows orig s) : Follows orig (s.portEvt p bit) := Follows.ite h h.setReg.pilotEvent

theorem Follows.tagDrop {s : State} {p : Nat} {k : Packet} {egress : Bool} (h : Follows orig s) : Follows orig (s.tagDrop p k egress) :=
  .ite h.portCount h.portCount.setReg.setReg.setReg.setReg.setReg.portEvt

theorem Follows.emit {s : State} {hub : Nat} {k : Packet} (h : Follows orig s) : Follows orig (s.emit hub k) := by
  unfold State.emit
  split
  · exact h
  · exact .ite h (.ite h.setPort.pumpPort h.tagDrop)

theorem Follows.loseCopy {s : State} {c : Option (Nat × Nat × BitVec 16 × Nat)} (h : Follows orig s) : Follows orig (s.loseCopy c) := by
  unfold State.loseCopy
  split
  · exact h.setCore
  · exact h

theorem Follows.purge {s : State} {f : Packet → Bool} (h : Follows orig s) : Follows orig (s.purge f) := h

theorem Follows.loseFlow {s : State} {dev vl p : Nat} (h : Follows orig s) : Follows orig (s.loseFlow dev vl p) :=
  ((h.foldl fun _ _ h => h.loseCopy).purge).setFlow.portCount.portEvt.pilotEvent

theorem Follows.sendPacket {s : State} {x : Send} (h : Follows orig s) : Follows orig (s.sendPacket x) := by
  unfold State.sendPacket
  exact .ite h.portCount.loseCopy h.setFlow.emit

/-! ### Machine/Folding.lean -/

theorem Follows.foldInto {s : State} {fx : BitVec 32} {k : Nat} {tag : BitVec 32} {first : Nat} {vs : List Nat} (h : Follows orig s) :
    Follows orig (s.foldInto fx k tag first vs) := by
  unfold State.foldInto
  split
  · exact h
  · extract_lets _ _ _
    refine h.foldl_fst fun _ _ h1 => ?_
    split
    · extract_lets _
      split
      next heq2 =>
        split
        next heq3 => exact Gives.of_eq heq3 ((h1.engPlace.of_snd heq2).baseUpd)
        · split
          · exact h1.engPlace.of_snd heq2
          · extract_lets s2
            have hs2 : Follows orig s2 := by
              unfold s2
              split
              · exact (h1.engPlace.of_snd heq2).setFixObj
              · exact h1.engPlace.of_snd heq2
            exact hs2.foldRefused
      next heq2 => exact (h1.engPlace.of_snd heq2).engineEvent
      next heq4 => exact h1.engPlace.of_snd heq4

theorem Follows.combine {s : State} {fx : BitVec 32} {d : Line} {tag : BitVec 32} {c : Contrib} {pool : Bool} (h : Follows orig s) :
    Follows orig (s.combine fx d tag c pool) := by
  unfold State.combine
  extract_lets _ _ _ _
  split
  · exact h.setHub
  · split
    · exact h.setHub
    · exact .ite h.setHub (.ite h.setHub h.setRegF.post)

theorem Follows.freeEntries {s : State} {hub : Nat} (h : Follows orig s) : Follows orig (s.freeEntries hub) := h.setHub

theorem Follows.addArrival {s : State} {fx : BitVec 32} {f : FixObj} {k : Nat} {tag : BitVec 32} {c : Contrib} (h : Follows orig s) :
    Follows orig (s.addArrival fx f k tag c) := by
  unfold State.addArrival
  extract_lets _ _ _ _
  split
  · exact h.combine
  · exact h.post
  · exact h.setFixObj

theorem Follows.judge {s : State} {fx : BitVec 32} {k : Nat} {c : Contrib} (h : Follows orig s) : Follows orig (s.judge fx k c) := by
  unfold State.judge
  split
  · exact h
  · extract_lets fo d p l keep lag s1 c2 s2
    have hkeep : ∀ g u, Follows orig u → Follows orig (keep g u) := by
      intro g u hu
      dsimp only [keep]
      split
      · exact hu.setFixObj
      · exact hu
    have hs1 : Follows orig s1 := hkeep _ _ h.stageContrib
    have hs2 : Follows orig s2 := hkeep _ _ h.stageContrib
    refine Follows.ite h (Follows.ite h.fxCount1 (Follows.ite (Follows.ite ?accepted hs1)
      (Follows.ite (Follows.ite (hkeep _ _ h.fxCount1) (Follows.ite ?late hs2)) ?other)))
    case accepted =>
      split
      · exact hs1.addArrival
      · exact hs1
    case late =>
      split
      · exact hs2.addArrival
      · exact hs2
    case other =>
      exact Follows.ite (hkeep _ _ h.fxCount1) (Follows.ite (hkeep _ _ h.stageContrib) (hkeep _ _ h.fxCount1))

theorem Follows.flushFolds {s : State} {fx : BitVec 32} {k : Nat} (h : Follows orig s) : Follows orig (s.flushFolds fx k) := by
  unfold State.flushFolds
  refine h.foldl fun _ _ h1 => ?_
  split
  · split
    · split
      · extract_lets s11
        have hs11 : Follows orig s11 := h1
        exact hs11.foldInto
      · exact h1
    · exact h1
  · exact h1

theorem Follows.drainEntries {s : State} {fx tag : BitVec 32} {k : Nat} (h : Follows orig s) : Follows orig (s.drainEntries fx tag k) := by
  unfold State.drainEntries
  extract_lets _ _
  split
  · exact h
  · exact (h.foldl fun _ _ h => h.foldInto).setHub

theorem Follows.writeValues {s : State} {fx : BitVec 32} {f : FixObj} {k : Nat} (h : Follows orig s) :
    Follows orig (s.writeValues fx f k) := .ite h.agentWrite (.ite h.agentWrite h.flushFolds.drainEntries)

theorem Follows.closeRound {s : State} {fx : BitVec 32} {k : Nat} (h : Follows orig s) : Follows orig (s.closeRound fx k).1 := by
  unfold State.closeRound
  split
  · exact h
  · extract_lets _ _ _ s0 s1
    have hs0 : Follows orig s0 := h.writeValues
    have hs1 : Follows orig s1 := Follows.ite hs0.openBuffer hs0
    split
    · exact hs1
    · extract_lets _ _ _ _ _ _ s2 s3 _
      have hs2 : Follows orig s2 := hs1.agentWrite
      have hs3 : Follows orig s3 := Follows.ite (hs2.foldl fun _ _ h => h.sendPacket) hs2
      split
      · exact hs3
      · extract_lets _ s4
        have hs4 : Follows orig s4 := hs3.setFixObj
        split
        · exact hs4
        · exact hs4.openBuffer

theorem Follows.fixRun {fuel : Nat} {s : State} {fx : BitVec 32} {k : Nat} {cs : List Contrib} (h : Follows orig s) :
    Follows orig (State.fixRun fuel s fx k cs) := by
  induction fuel generalizing s cs with
  | zero => exact h
  | succ fuel ih =>
    unfold State.fixRun
    extract_lets s1 go r
    have hs1 : Follows orig s1 := by
      unfold s1
      split
      · exact h.judge
      · exact h
    split
    · exact ih hs1.closeRound
    · split
      · exact hs1
      · exact ih hs1

theorem Follows.contribute {s : State} {fx : BitVec 32} {k : Nat} {c : Contrib} (h : Follows orig s) : Follows orig (s.contribute fx k c) :=
  by
  unfold State.contribute
  split
  · exact h.fixRun
  · exact h

theorem Follows.serveAsks {s : State} {hub : Nat} (h : Follows orig s) : Follows orig (s.serveAsks hub) := by
  unfold State.serveAsks
  extract_lets _
  refine h.setHub.foldl fun _ _ h1 => ?_
  split
  · exact h1.combine
  · exact h1

theorem Follows.rejudge {s : State} {fx : BitVec 32} (h : Follows orig s) : Follows orig (s.rejudge fx) := by
  unfold State.rejudge
  split
  · exact h.foldl fun _ _ h => h.fixRun
  · exact h

theorem Follows.tellDeparted {s : State} {fx : BitVec 32} {f : FixObj} {r : Nat} (h : Follows orig s) :
    Follows orig (s.tellDeparted fx f r) := Follows.ite h h

theorem Follows.depart {s : State} {fx : BitVec 32} {r : Nat} (h : Follows orig s) : Follows orig (s.depart fx r) := by
  unfold State.depart
  split
  · exact h
  · exact .ite h h.setFixObj.tellDeparted.rejudge

theorem Follows.phaseGo {s : State} {fx : BitVec 32} (h : Follows orig s) : Follows orig (s.phaseGo fx) := by
  unfold State.phaseGo
  split
  · exact h
  · exact .ite h (h.setFixObj.foldl fun _ _ h1 => h1.foldl fun _ _ h2 => h2.same rfl)

theorem Follows.roundsGo {s : State} (h : Follows orig s) : Follows orig s.roundsGo := h.foldl fun _ _ h1 => Follows.ite h1.rejudge h1

theorem Follows.phasesGo {s : State} (h : Follows orig s) : Follows orig s.phasesGo := h.foldl fun _ _ h1 => Follows.ite h1 h1.phaseGo

theorem Follows.readWords {s : State} {p a k : Nat} (h : Follows orig s) : Follows orig (s.readWords p a k).2 := by
  induction k generalizing s a with
  | zero => exact h
  | succ k ih =>
    rw [State.readWords]
    split
    · exact ih h.tableRead
    · exact h.tableRead

theorem Follows.readTable {s : State} {n : Nat} {d : Line} (h : Follows orig s) : Follows orig (s.readTable n d).2 := h.readWords

theorem Follows.fxReads {s : State} {n : Nat} {d : Line} (h : Follows orig s) : Follows orig (s.fxReads n d) := Follows.ite h.readTable h

theorem Follows.execFxdef {d a : Opnd} {m : Mods} {s : State} (h : Follows orig s) : Nexts (Follows orig) (execFxdef d a m s) := by
  unfold Machine.execFxdef
  refine h.runInstr fun _ => .bind .src fun _ => .bind .check fun _ => .bind .ctxRead fun _ => .bind .check fun _ => .bind .check fun _ =>
    .getS_bind fun _ _ => ?_
  dsimp only
  split
  · intro s2 hs2
    exact fun _ h2 => h2.fxReads
  · refine .bind (.modS fun _ h => h.fxReads) fun _ => .bind .check fun _ => .getS_bind fun s2 h2 => ?_
    split
    · exact .raise
    next heq1 =>
      split
      · exact .raise
      · split
        · exact .notYet fun _ h3 => h3
        · exact .bind (.putS ((GivesOk.of_eq heq1 h2.fxResultOk).setMe.foldl fun _ _ h => h.openBuffer)) fun _ => .dst

theorem Follows.execFxjoin {a : Opnd} {m : Mods} {s : State} (h : Follows orig s) : Nexts (Follows orig) (execFxjoin a m s) := by
  unfold Machine.execFxjoin
  refine h.runInstr fun _ => .bind .src fun _ => .bind .check fun _ => .getS_bind fun _ h1 => ?_
  split
  · exact .raise
  · exact .bind .check fun _ => .bind .check fun _ => .bind .check fun _ => .putS h1.setFixObj

theorem Sem.KeepsFw.heldRank {fx : BitVec 32} : Sem.KeepsFw orig (heldRank fx) := by
  unfold Machine.heldRank
  intro s h
  beta_reduce
  split
  · trivial
  · split
    · trivial
    · exact h

theorem Follows.checkRange {s : State} {n a sz : Nat} (h : Follows orig s) : GivesOk (Follows orig) (s.checkRange n a sz) := by
  refine GivesOk.foldl (fun r u hr => ?_) h
  split
  · trivial
  next s1 =>
    have hp : Follows orig (s1.engPlace n (wrap u.1) u.2 .r false).2 := hr.engPlace
    split
    · trivial
    next heq => exact hp.of_snd heq

theorem Follows.execFxc {d a c : Opnd} {m : Mods} {s : State} (h : Follows orig s) : Nexts (Follows orig) (execFxc d a c m s) := by
  unfold Machine.execFxc
  refine h.runInstr fun _ => .bind .sendRoom fun _ => .bind .src fun _ => .bind .src fun _ => .bind .src fun _ => .bind .heldRank fun _ =>
    .getS_bind fun _ h1 => ?_
  split
  · exact .raise
  next heq =>
    exact .bind (.putS (GivesOk.of_eq heq h1.checkRange)) fun _ => .bind .release fun _ => .modMe

theorem Follows.execFxw {d a c : Opnd} {m : Mods} {s : State} (h : Follows orig s) : Nexts (Follows orig) (execFxw d a c m s) := by
  unfold Machine.execFxw
  refine h.runInstr fun _ => .bind .src fun _ => .ite (.bind .src fun _ => ?_) (.bind .pure fun _ => ?_)
  all_goals
    exact .bind .heldRank fun _ => .getS_bind fun _ _ => .ite (.bind .acquireNow fun _ => .dst) (.ite .dst (.ite .dst .waitFor))

theorem Follows.execFxq {d a : Opnd} {m : Mods} {s : State} (h : Follows orig s) : Nexts (Follows orig) (execFxq d a m s) := by
  unfold Machine.execFxq
  refine h.runInstr fun _ => .bind .src fun _ => .getS_bind fun _ _ => ?_
  split
  · exact .raise
  · dsimp only
    exact .dst

theorem Follows.execFxlv {a : Opnd} {m : Mods} {s : State} (h : Follows orig s) : Nexts (Follows orig) (execFxlv a m s) := by
  unfold Machine.execFxlv
  exact h.runInstr fun _ => .bind .src fun _ => .bind .heldRank fun _ => .modS fun _ h => h.depart

/-! ### Machine/ChartOps.lean -/

theorem Follows.postChart {s : State} {op : ChartOp} {rel blocks : Bool} (h : Follows orig s) : Follows orig (s.postChart op rel blocks) :=
  by
  unfold State.postChart
  extract_lets s0
  have hs0 : Follows orig s0 := Follows.ite h.releaseActs h
  split
  next heq =>
    exact ((hs0.newId.of_snd heq).setPart).setMy

theorem Sem.KeepsFw.ask {op : ChartOp} {rel blocks : Bool} {faddr : Word} : Sem.KeepsFw orig (ask op rel blocks faddr) := by
  unfold Machine.ask
  refine .bind .getMy fun _ => ?_
  split
  · split
    · exact .blocked fun _ h => h
    · refine .bind .modMy fun _ => ?_
      split
      · exact .pure
      · intro s h
        exact fun _ h1 => h1.setMy
  · dsimp only
    exact .ite (.bind .releaseFirst fun _ => .blocked fun _ h => h.postChart) (.blocked fun _ h => h.postChart)

theorem Follows.execCharm {a : Opnd} {m : Mods} {s : State} (h : Follows orig s) : Nexts (Follows orig) (execCharm a m s) :=
  h.runInstr fun _ => .bind .src fun _ => .bind .ask fun _ => .pure

theorem Follows.execChdec {a : Opnd} {m : Mods} {s : State} (h : Follows orig s) : Nexts (Follows orig) (execChdec a m s) :=
  h.runInstr fun _ => .bind .src fun _ => .bind .ask fun _ => .pure

theorem Follows.execChpatch {d a : Opnd} {m : Mods} {s : State} (h : Follows orig s) : Nexts (Follows orig) (execChpatch d a m s) :=
  h.runInstr fun _ => .bind .src fun _ => .bind .src fun _ => .bind .check fun _ => .bind .ask fun _ => .pure

theorem Follows.execChcard {d : Opnd} {m : Mods} {s : State} (h : Follows orig s) : Nexts (Follows orig) (execChcard d m s) :=
  h.runInstr fun _ => .getS_bind fun _ _ => .bind .check fun _ => .bind .ask fun _ => .bind .dst fun _ => .modS fun _ h2 => h2.traceRec

theorem Follows.execChdone {a : Opnd} {m : Mods} {s : State} (h : Follows orig s) : Nexts (Follows orig) (execChdone a m s) :=
  h.runInstr fun _ => .bind .src fun _ => .getS_bind fun _ _ => .bind .ask fun _ => .modS fun _ h2 => h2.traceRec

theorem Follows.execChq {d a : Opnd} {m : Mods} {s : State} (h : Follows orig s) : Nexts (Follows orig) (execChq d a m s) := by
  unfold Machine.execChq
  refine h.runInstr fun _ => .bind .src fun _ => .getS_bind fun _ _ => ?_
  dsimp only
  split
  · exact .raise
  · split
    · intro s2 hs2
      exact fun _ h2 => h2.readTcb
    · exact .bind (.modS fun _ h => h.readTcb) fun _ => .dst

theorem Follows.execCkset {d a : Opnd} {m : Mods} {s : State} (h : Follows orig s) : Nexts (Follows orig) (execCkset d a m s) := by
  unfold Machine.execCkset
  refine h.runInstr fun _ => .bind .src fun _ => .getS_bind fun _ _ => ?_
  split
  · exact .ite (.bind .ask fun _ => .dst) .dst
  · exact .dst

/-! ### Machine/Vector.lean -/

theorem Sem.KeepsFw.notYetVector {α : Type} : Sem.KeepsFw orig (notYetVector : Sem α) := .notYet fun _ h => h.setMy

theorem Sem.KeepsFw.vectorRoom  : Sem.KeepsFw orig vectorRoom := .bind .getMe fun _ => .ite .notYetVector .pure

theorem Sem.KeepsFw.vecCmd {i : Instr} {m : Mods} {s0 s1 : Word} {lanes : List (Nat × List (Loc × Nat))} :
    Sem.KeepsFw orig (vecCmd i m s0 s1 lanes) :=
  .bind .freshId fun _ => .getS_bind fun _ _ => .bind .modMe fun _ => .bind .modMy fun _ => .pure

theorem Sem.KeepsFw.enterVector {i : Instr} {m : Mods} {s0 s1 : Word} {scalar : Option Opnd} {lanes : List (Nat × List (Loc × Nat))} :
    Sem.KeepsFw orig (enterVector i m s0 s1 scalar lanes) := by
  unfold Machine.enterVector
  refine .bind .getMe fun _ => ?_
  split
  · exact .notYetVector
  · refine .bind .vecCmd fun _ => .bind .modMe fun _ => ?_
    split
    · exact .dstLater
    · exact .pure

theorem Follows.rowInstr {i : Instr} {m : Mods} {s : State} (h : Follows orig s) : Nexts (Follows orig) (rowInstr i m s) :=
  h.runInstr fun _ => .enterVector

theorem Follows.execVsacc {d a b : Row} {c : Opnd} {m : Mods} {s : State} (h : Follows orig s) :
    Nexts (Follows orig) (execVsacc d a b c m s) := h.runInstr fun _ => .bind .src fun _ => .enterVector

theorem Follows.execViota {d : Row} {c : Opnd} {m : Mods} {s : State} (h : Follows orig s) : Nexts (Follows orig) (execViota d c m s) :=
  h.runInstr fun _ => .bind .src fun _ => .enterVector

theorem Follows.execVbcast {d : Row} {c : Opnd} {m : Mods} {s : State} (h : Follows orig s) : Nexts (Follows orig) (execVbcast d c m s) :=
  h.runInstr fun _ => .bind .src fun _ => .enterVector

theorem Follows.execVextr {d : Opnd} {a : Row} {c : Opnd} {m : Mods} {s : State} (h : Follows orig s) :
    Nexts (Follows orig) (execVextr d a c m s) :=
  h.runInstr fun _ => .bind .src fun _ => .bind .vectorRoom fun _ => .bind .check fun _ => .enterVector

theorem Follows.execVins {d : Row} {a c : Opnd} {m : Mods} {s : State} (h : Follows orig s) : Nexts (Follows orig) (execVins d a c m s) :=
  h.runInstr fun _ => .bind .src fun _ => .bind .src fun _ => .bind .vectorRoom fun _ => .bind .check fun _ => .enterVector

theorem Follows.redIssue {i : Instr} {m : Mods} {s : State} (h : Follows orig s) : Nexts (Follows orig) (redIssue i m s) :=
  h.runInstr fun _ => .bind .vectorRoom fun _ => .bind .getMy fun _ => .bind .check fun _ => .enterVector

theorem Follows.execVsf {d a : Row} {m : Mods} {s : State} (h : Follows orig s) : Nexts (Follows orig) (execVsf d a m s) :=
  h.runInstr fun _ => .getS_bind fun _ _ => .ite .notYetVector (.bind .vecCmd fun _ => .modS fun _ h2 => h2.setOctet)

theorem Follows.execVmpop {d : Opnd} {a : Row} {m : Mods} {s : State} (h : Follows orig s) : Nexts (Follows orig) (execVmpop d a m s) :=
  h.runInstr fun _ => .enterVector

theorem Follows.execVfence {m : Mods} {s : State} (h : Follows orig s) : Nexts (Follows orig) (execVfence m s) := by
  unfold Machine.execVfence
  exact h.runInstr fun _ => .getS_bind fun _ _ => .blockOn

/-! ### Machine/VectorMem.lean -/

theorem Sem.KeepsFw.lanePlace {ea : Word} {sz : Nat} {store : Bool} : Sem.KeepsFw orig (lanePlace ea sz store) := by
  unfold Machine.lanePlace
  refine .getS_bind fun _ _ => ?_
  dsimp only
  split
  · exact .raise
  · exact .pure
  · exact .pure
  · exact .pure
  · split
    · exact .raise
    · exact .ite .pure (.notYet fun _ h1 => h1)
  · exact .raise
  · exact .raise
  · refine .bind .check fun _ => .bind .pages fun _ => .getS_bind fun _ h1 => ?_
    split
    · exact .pure
    · exact .pure
    · exact .raise

theorem Sem.KeepsFw.vmLanes {t : ElTy} {mask : Option RowVal} {addr : Nat → Word} {store : Bool} :
    Sem.KeepsFw orig (vmLanes t mask addr store) := .mapM fun _ => .bind .lanePlace fun _ => .pure

theorem Sem.KeepsFw.vmIssue {i : Instr} {m : Mods} {rows : BitVec 128} {addr : Core → Nat → Word} {store : Bool} :
    Sem.KeepsFw orig (vmIssue i m rows addr store) :=
  .bind .vectorRoom fun _ => .bind .getMe fun _ => .ite .notYetVector (.bind .vmLanes fun _ => .enterVector)

theorem Follows.execVld {d : Row} {c : Opnd} {m : Mods} {s : State} (h : Follows orig s) : Nexts (Follows orig) (execVld d c m s) :=
  h.runInstr fun _ => .bind .src fun _ => .vmIssue

theorem Follows.execVst {d : Row} {c : Opnd} {m : Mods} {s : State} (h : Follows orig s) : Nexts (Follows orig) (execVst d c m s) :=
  h.runInstr fun _ => .bind .src fun _ => .vmIssue

theorem Follows.execVlds {d : Row} {a c : Opnd} {m : Mods} {s : State} (h : Follows orig s) : Nexts (Follows orig) (execVlds d a c m s) :=
  h.runInstr fun _ => .bind .src fun _ => .bind .src fun _ => .vmIssue

theorem Follows.execVsts {d : Row} {a c : Opnd} {m : Mods} {s : State} (h : Follows orig s) : Nexts (Follows orig) (execVsts d a c m s) :=
  h.runInstr fun _ => .bind .src fun _ => .bind .src fun _ => .vmIssue

theorem Follows.execVgath {d a : Row} {c : Opnd} {m : Mods} {s : State} (h : Follows orig s) : Nexts (Follows orig) (execVgath d a c m s) :=
  h.runInstr fun _ => .bind .src fun _ => .vmIssue

theorem Follows.execVscat {d a : Row} {c : Opnd} {m : Mods} {s : State} (h : Follows orig s) : Nexts (Follows orig) (execVscat d a c m s) :=
  h.runInstr fun _ => .bind .src fun _ => .vmIssue

theorem Follows.portWrite {s : State} {m off k v : Nat} (h : Follows orig s) : Follows orig (s.portWrite m off k v) := .ite h h.setCore

theorem Follows.pieceRead {s : State} {n : Nat} {p : Loc × Nat} (h : Follows orig s) : Follows orig (s.pieceRead n p).2 := by
  unfold State.pieceRead
  split
  · exact h.setCore
  · exact h
  · exact h.unitRead
  · exact h

theorem Follows.laneRead {s : State} {n x : Nat} {p : Loc × Nat} (h : Follows orig s) : Follows orig (s.laneRead n x p).2 := by
  unfold State.laneRead
  split
  · split
    · exact h.report
    · exact h.pieceRead
  · exact h.pieceRead

theorem Follows.pieceWrite {s : State} {p : Loc × Nat} {v : Nat} (h : Follows orig s) : Follows orig (s.pieceWrite p v) := by
  unfold State.pieceWrite
  split
  · exact h.portWrite
  · exact h.setDie
  · exact h.setCore
  · exact h.l2Write

theorem Follows.readPieces {n x : Nat} {s : State} {ps : List (Loc × Nat)} (h : Follows orig s) : Follows orig (readPieces n x s ps).2 := by
  induction ps generalizing s with
  | nil => exact h
  | cons p ps ih => exact ih h.laneRead

theorem Follows.writePieces {n : Nat} {s : State} {ps : List (Loc × Nat)} {v : Nat} (h : Follows orig s) :
    Follows orig (writePieces n s ps v) := by
  induction ps generalizing s v with
  | nil => exact h
  | cons p ps ih =>
    refine ih ?_
    split
    · exact h.settleLine.pieceWrite.l1Stale
    · exact h.pieceWrite

theorem Follows.vmLoadLanes {n x : Nat} {t : ElTy} {s : State} {l : List (Nat × List (Loc × Nat))} (h : Follows orig s) :
    Follows orig (vmLoadLanes n x t s l).2 := by
  induction l generalizing s with
  | nil => exact h
  | cons e l ih => exact ih h.readPieces

theorem Follows.vmStoreLanes {n x : Nat} {t : ElTy} {r : RowVal} {s : State} {l : List (Nat × List (Loc × Nat))} (h : Follows orig s) :
    Follows orig (vmStoreLanes n x t r s l) := by
  induction l generalizing s with
  | nil => exact h
  | cons e l ih => exact Follows.ite (ih h.readPieces.writePieces) (ih h.writePieces)

theorem Follows.finishVec {s : State} {n : Nat} {v : VCmd} {r : VecRes} (h : Follows orig s) : Follows orig (s.finishVec n v r) := by
  unfold State.finishVec
  extract_lets c s1 s2 s3
  have hs1 : Follows orig s1 := h.setCore
  have hs2 : Follows orig s2 := Follows.ite hs1 hs1.setCtx
  have hs3 : Follows orig s3 := by
    unfold s3
    split
    · exact hs2.deliver
    · exact hs2
  exact hs3.retire

theorem Follows.runVm {s : State} {n : Nat} {v : VCmd} (h : Follows orig s) : Follows orig (s.runVm n v).2 := by
  unfold State.runVm
  extract_lets c ld st
  have hld : ∀ d m, Follows orig (ld d m).2 := fun _ _ => h.vmLoadLanes
  have hst : ∀ d m, Follows orig (st d m).2 := fun _ _ => h.vmStoreLanes
  split
  · exact hld _ _
  · exact hld _ _
  · exact hld _ _
  · exact hst _ _
  · exact hst _ _
  · exact hst _ _
  · exact h

theorem Follows.execVectorEngineStart {n : Nat} {s : State} (h : Follows orig s) : Nexts (Follows orig) (execVectorEngineStart n s) := by
  unfold Machine.execVectorEngineStart
  refine h.runEvent fun _ h1 => ?_
  extract_lets c
  split
  · exact Gives.ite h1.setCore trivial
  · trivial

theorem Follows.execVectorEngineComplete {n : Nat} {s : State} (h : Follows orig s) : Nexts (Follows orig) (execVectorEngineComplete n s) :=
  by
  unfold Machine.execVectorEngineComplete
  refine h.runEvent fun _ h1 => ?_
  extract_lets c
  split
  · extract_lets s11
    have hs11 : Follows orig s11 := h1.setCore
    split
    next heq1 =>
      refine (Follows.of_snd ?_ heq1).finishVec
      split
      · exact hs11.runVm
      · exact hs11
  · trivial

theorem Follows.execSfuRequestStart {o : Nat} {s : State} (h : Follows orig s) : Nexts (Follows orig) (execSfuRequestStart o s) := by
  unfold Machine.execSfuRequestStart
  refine h.runEvent fun _ h1 => ?_
  extract_lets _
  split
  · exact h1.setOctet
  · trivial

theorem Follows.execSfuResult {o : Nat} {s : State} (h : Follows orig s) : Nexts (Follows orig) (execSfuResult o s) := by
  unfold Machine.execSfuResult
  refine h.runEvent fun _ h1 => ?_
  extract_lets _
  split
  · exact h1.setOctet.finishVec
  · trivial

/-! ### Machine/Arrivals.lean -/

theorem Follows.pieceLoad {s : State} {n : Nat} {p : Loc × Nat} (h : Follows orig s) : Follows orig (s.pieceLoad n p).2 := by
  unfold State.pieceLoad
  split
  · exact h.l2Fill.l1Fill
  · exact h.pieceRead

theorem Follows.loadPieces {n : Nat} {s : State} {ps : List (Loc × Nat)} (h : Follows orig s) : Follows orig (loadPieces n s ps).2 := by
  induction ps generalizing s with
  | nil => exact h
  | cons p ps ih => exact ih h.pieceLoad

theorem Follows.pieceAt {s : State} {n : Nat} {p : Loc × Nat} (h : Follows orig s) : Follows orig (s.pieceAt n p).2 := by
  unfold State.pieceAt
  split
  · exact h.l2Fill
  · exact h.pieceRead

theorem Follows.piecesAt {n : Nat} {s : State} {ps : List (Loc × Nat)} (h : Follows orig s) : Follows orig (piecesAt n s ps).2 := by
  induction ps generalizing s with
  | nil => exact h
  | cons p ps ih => exact ih h.pieceAt

theorem Follows.storePieces {n : Nat} {s : State} {ps : List (Loc × Nat)} {v : Nat} (h : Follows orig s) :
    Follows orig (storePieces n s ps v) := by
  induction ps generalizing s v with
  | nil => exact h
  | cons p ps ih =>
    refine ih ?_
    split
    · exact h.pieceWrite.l1Stale
    · exact h.pieceWrite

theorem Follows.effectOf {s : State} {n : Nat} {op : MemOp} {ls : List (Loc × Nat)} (h : Follows orig s) :
    Follows orig (s.effectOf n op ls).2 := by
  cases op with
  | read => exact h.loadPieces
  | write v => exact h.storePieces
  | rmw i y c =>
    have hs1 : Follows orig (Machine.piecesAt n s ls).2 := h.piecesAt
    dsimp only [State.effectOf]
    split
    · exact hs1.storePieces
    · exact hs1
  | zero =>
    refine h.foldl fun u p hu => ?_
    split
    · exact hu.l2Zero.l1Stale
    · exact hu.pieceWrite
  | fill =>
    refine h.foldl fun u p hu => ?_
    split
    · exact hu.l1Fill
    · exact hu
  | wb data mask =>
    refine h.foldl fun u p hu => ?_
    split
    · exact hu.l2Write
    · exact hu

theorem Follows.perform {s : State} {a : Access} {ls : List (Loc × Nat)} (h : Follows orig s) : Follows orig (s.perform a ls) := by
  unfold State.perform
  split
  next heq =>
    extract_lets s21
    have hs21 : Follows orig s21 := (h.effectOf.of_snd heq).setCore
    exact hs21

theorem Follows.arrive {s : State} {id : Nat} {port : Bool} (h : Follows orig s) : Gives (Follows orig) (s.arrive id port) := by
  unfold State.arrive
  split
  · trivial
  · split
    · trivial
    · exact Gives.ite trivial (Gives.ite h.perform trivial)

theorem Follows.execMeshAccessArrival {id : Nat} {s : State} (h : Follows orig s) : Nexts (Follows orig) (execMeshAccessArrival id s) :=
  h.runEvent fun _ h => h.arrive

theorem Follows.execMemoryAccessArrival {id : Nat} {s : State} (h : Follows orig s) : Nexts (Follows orig) (execMemoryAccessArrival id s) :=
  h.runEvent fun _ h => h.arrive

theorem Follows.execAccessResponseReturn {id : Nat} {s : State} (h : Follows orig s) :
    Nexts (Follows orig) (execAccessResponseReturn id s) := by
  unfold Machine.execAccessResponseReturn
  refine h.runEvent fun _ h1 => ?_
  split
  · trivial
  · extract_lets s11 s2 _ s3
    have hs11 : Follows orig s11 := h1
    have hs2 : Follows orig s2 := by
      unfold s2
      split
      · exact hs11.acquireActs
      · exact hs11
    exact (Follows.ite (Follows.ite hs2.setCtx hs2) hs2.deliver).retire

theorem Follows.execMainFileWriteback {n : Nat} {s : State} (h : Follows orig s) : Nexts (Follows orig) (execMainFileWriteback n s) := by
  unfold Machine.execMainFileWriteback
  refine h.runEvent fun _ h1 => ?_
  extract_lets c
  split
  · trivial
  · exact h1.setCore

theorem Follows.execPageWalkComplete {id : Nat} {s : State} (h : Follows orig s) : Nexts (Follows orig) (execPageWalkComplete id s) := by
  unfold Machine.execPageWalkComplete
  refine h.runEvent fun _ h1 => ?_
  split
  · trivial
  · split
    · trivial
    · split
      · exact Gives.ite trivial (Gives.ite h1.setWalk h1.endWalk)
      · exact h1.endWalk

theorem Follows.execZeroOnFirstTouch {id : Nat} {s : State} (h : Follows orig s) : Nexts (Follows orig) (execZeroOnFirstTouch id s) := by
  unfold Machine.execZeroOnFirstTouch
  refine h.runEvent fun _ h1 => ?_
  split
  · trivial
  · split
    · trivial
    · extract_lets s11
      have hs11 : Follows orig s11 := h1.setWalk
      split
      · exact Follows.ite hs11.zeroFill hs11
      · exact hs11

/-! ### Machine/Context.lean -/

theorem Follows.execSysc {d a b : Opnd} {m : Mods} {s : State} (h : Follows orig s) : Nexts (Follows orig) (execSysc d a b m s) :=
  h.runInstr fun _ => .bind .src fun _ => .bind .src fun _ => .getS_bind fun _ _ => .ite (.notYet fun _ h2 => h2)
    (.bind .release fun _ => .getS_bind fun _ h2 => .ite (.bind (.putS h2.setPart) fun _ => .dst) .dst)

theorem Follows.execHstart {d a b : Opnd} {m : Mods} {s : State} (h : Follows orig s) : Nexts (Follows orig) (execHstart d a b m s) := by
  unfold Machine.execHstart
  refine h.runInstr fun _ => .bind .src fun _ => .bind .src fun _ => .bind .getMe fun _ => .bind .check fun _ => .bind .check fun _ => ?_
  split
  · exact .raise
  · exact .bind (.modS fun _ h2 => h2.setMe) fun _ => .dst

theorem Follows.execHjoin {d a : Opnd} {m : Mods} {s : State} (h : Follows orig s) : Nexts (Follows orig) (execHjoin d a m s) :=
  h.runInstr fun _ => .bind .src fun _ => .getS_bind fun _ _ => .bind .check fun _ => .ite .dst .waitFor

theorem Follows.orphan {s : State} {n x : Nat} (h : Follows orig s) : Follows orig (s.orphan n x) := h.setCore.setOctet

theorem Follows.exitCtx {s : State} {n x : Nat} (h : Follows orig s) : Follows orig (s.exitCtx n x) := h.setCore.orphan

theorem Follows.execHexit {m : Mods} {s : State} (h : Follows orig s) : Nexts (Follows orig) (execHexit m s) :=
  h.runInstr fun _ => .getS_bind fun _ _ => .ite (.notYet fun _ h2 => h2)
    (.ite .waitFor (.bind .releaseFirst fun _ => .bind (.modS fun _ h => h.exitCtx) fun _ => .ite
      (.modS fun _ h2 => h2.controlExit.traceRec) .pure))

theorem Follows.execCid {d : Opnd} {m : Mods} {s : State} (h : Follows orig s) : Nexts (Follows orig) (execCid d m s) :=
  h.runInstr fun _ => .getS_bind fun _ _ => .dst

theorem Follows.execMcrd {d a : Opnd} {m : Mods} {s : State} (h : Follows orig s) : Nexts (Follows orig) (execMcrd d a m s) :=
  h.runInstr fun _ => .bind .src fun _ => .getS_bind fun _ _ => .dst

theorem Follows.execYield {a : Opnd} {m : Mods} {s : State} (h : Follows orig s) : Nexts (Follows orig) (execYield a m s) :=
  h.runInstr fun _ => .bind .src fun _ => .modS fun _ h1 => h1.setMy

theorem Sem.KeepsFw.fpsrReady {r : Sr} : Sem.KeepsFw orig (fpsrReady r) := by
  unfold Machine.fpsrReady
  intro s h
  exact EndsFw.ite (fun _ h1 => h1.rejoin) h

theorem Follows.execSrd {d : Opnd} {a : Sr} {m : Mods} {s : State} (h : Follows orig s) : Nexts (Follows orig) (execSrd d a m s) :=
  h.runInstr fun _ => .bind .fpsrReady fun _ => .getS_bind fun _ _ => .dst

theorem Follows.execSwr {d : Sr} {a : Opnd} {m : Mods} {s : State} (h : Follows orig s) : Nexts (Follows orig) (execSwr d a m s) := by
  unfold Machine.execSwr
  refine h.runInstr fun _ => .bind .fpsrReady fun _ => .bind .src fun _ => ?_
  dsimp only
  split
  · exact .raise
  · exact .raise
  · exact .raise
  · exact .raise
  · exact .bind .getMy fun _ => .bind .check fun _ => .modMy
  · exact .bind .check fun _ => .modMy
  · exact .modMy
  · exact .modMy
  · exact .modMy
  · exact .bind .check fun _ => .modMy
  · exact .modMy

theorem Follows.execWspx {d a : Opnd} {m : Mods} {s : State} (h : Follows orig s) : Nexts (Follows orig) (execWspx d a m s) :=
  h.runInstr fun _ => .bind .src fun _ => .getS_bind fun _ _ => .bind .check fun _ => .ite (.notYet fun _ h2 => h2)
    (.bind .release fun _ => .bind .modMe fun _ => .bind .dst fun _ => .blockOn)

theorem Follows.execQstat {d : Opnd} {q : BitVec 3} {m : Mods} {s : State} (h : Follows orig s) :
    Nexts (Follows orig) (execQstat d q m s) := h.runInstr fun _ => .getS_bind fun _ _ => .dst

theorem Follows.execQflush {q : BitVec 3} {m : Mods} {s : State} (h : Follows orig s) : Nexts (Follows orig) (execQflush q m s) :=
  h.runInstr fun _ => .modMe

theorem Follows.execTlbi {a : Opnd} {m : Mods} {s : State} (h : Follows orig s) : Nexts (Follows orig) (execTlbi a m s) :=
  h.runInstr fun _ => .bind .src fun _ => .getS_bind fun _ h1 => .ite .pure
    (.ite (.notYet fun _ h2 => h2.setMy) (.bind (.putS h1.setOctet) fun _ => .modMe))

theorem Follows.execBkpt {m : Mods} {s : State} (h : Follows orig s) : Nexts (Follows orig) (execBkpt m s) :=
  h.runInstr fun _ => .bind .getMy fun _ => .ite .pure .raise

theorem Follows.progCount {s : State} {n id : Nat} (h : Follows orig s) : Follows orig (s.progCount n id) :=
  h.foldl fun _ _ h1 => Follows.ite (h1.foldl fun _ _ h2 => Follows.ite h2.setRegF h2) h1

theorem Follows.progTrigger {s : State} {n id : Nat} (h : Follows orig s) : Follows orig (s.progTrigger n id) :=
  Follows.ite (Follows.ite h.traceStart h).traceStop (Follows.ite h.traceStart h)

theorem Follows.execProg {a : Opnd} {m : Mods} {s : State} (h : Follows orig s) : Nexts (Follows orig) (execProg a m s) :=
  h.runInstr fun _ => .bind .src fun _ => .modS fun _ h1 => h1.progCount.progTrigger.traceRec

theorem Follows.execTrace {a : Opnd} {m : Mods} {s : State} (h : Follows orig s) : Nexts (Follows orig) (execTrace a m s) := by
  unfold Machine.execTrace
  exact h.runInstr fun _ => .bind .src fun _ => .modS fun _ h1 => h1.traceRec

end Sys2Proof.Machine
end

section
/-! PROOFS of the family 03_host, O60: Machine/Matrix to Machine/Checkpoint. -/

namespace Sys2Proof.Machine

variable {orig : State}

/-! ### Machine/Matrix.lean -/

theorem Follows.enterPort {s : State} {n : Nat} {cmd : MCmd} {rd wr : BitVec 128} (h : Follows orig s) :
    Follows orig (s.enterPort n cmd rd wr) := h.setCore

theorem Sem.KeepsFw.matrixRoom  : Sem.KeepsFw orig matrixRoom := by
  unfold Machine.matrixRoom
  intro s h
  exact EndsFw.ite (fun _ h1 => h1) h

theorem Sem.KeepsFw.enterMatrix {mk : Nat → MCmd} {rd wr : BitVec 128} : Sem.KeepsFw orig (enterMatrix mk rd wr) :=
  .bind .freshId fun _ => .bind (.modS fun _ h => h.enterPort) fun _ => .pure

theorem Sem.KeepsFw.tileChecks {i : Instr} {m : Mods} {w a : Word} {granules : Bool} : Sem.KeepsFw orig (tileChecks i m w a granules) := by
  unfold Machine.tileChecks
  refine .getS_bind fun _ _ => .bind .check fun _ => .bind .check fun _ => .bind .check fun _ => .bind .check fun _ => .bind .check fun _
    => ?_
  dsimp only
  split
  · split
    · exact .notYet fun _ h1 => h1
    · split
      · exact .raise
      · exact .pure
  · split
    · exact .raise
    · exact .pure

theorem Follows.tileIssue {i : Instr} {d a : Opnd} {m : Mods} {s : State} {granules : Bool} (h : Follows orig s) :
    Nexts (Follows orig) (tileIssue i d a m s granules) :=
  h.runInstr fun _ => .bind .matrixRoom fun _ => .bind .src fun _ => .bind .src fun _ => .bind .tileChecks fun _ => .getS_bind fun _ _ =>
    .bind .enterMatrix fun _ => .pure

theorem Follows.execMwld {d a : Opnd} {m : Mods} {s : State} (h : Follows orig s) : Nexts (Follows orig) (execMwld d a m s) := by
  unfold Machine.execMwld
  refine h.runInstr fun _ => .bind .matrixRoom fun _ => .bind .src fun _ => .bind .src fun _ => .getS_bind fun _ _ => .bind .check fun _
    => .bind .check fun _ => .bind .check fun _ => ?_
  split
  · exact .raise
  · exact .bind .enterMatrix fun _ => .pure

theorem Follows.execMupl {d : Opnd} {m : Mods} {s : State} (h : Follows orig s) : Nexts (Follows orig) (execMupl d m s) :=
  h.runInstr fun _ => .bind .matrixRoom fun _ => .bind .src fun _ => .bind .check fun _ => .getS_bind fun _ _ => .bind .enterMatrix fun _
    => .modMe

theorem Follows.execMzero {d : Opnd} {m : Mods} {s : State} (h : Follows orig s) : Nexts (Follows orig) (execMzero d m s) :=
  h.runInstr fun _ => .bind .matrixRoom fun _ => .bind .src fun _ => .bind .check fun _ => .getS_bind fun _ _ => .bind .enterMatrix fun _
    => .pure

theorem Follows.execMtr {d : Opnd} {m : Mods} {s : State} (h : Follows orig s) : Nexts (Follows orig) (execMtr d m s) :=
  h.runInstr fun _ => .bind .matrixRoom fun _ => .bind .src fun _ => .bind .check fun _ => .getS_bind fun _ _ => .bind .enterMatrix fun _
    => .pure

theorem Follows.execMsacc {d : Opnd} {m : Mods} {s : State} (h : Follows orig s) : Nexts (Follows orig) (execMsacc d m s) :=
  h.runInstr fun _ => .bind .matrixRoom fun _ => .bind .src fun _ => .bind .check fun _ => .getS_bind fun _ _ => .bind .enterMatrix fun _
    => .pure

theorem Follows.moveIssue {i : Instr} {d a : Opnd} {m : Mods} {s : State} {mt : ElTy} {store : Bool} (h : Follows orig s) :
    Nexts (Follows orig) (moveIssue i d a m s mt store) := by
  unfold Machine.moveIssue
  refine h.runInstr fun _ => .bind .matrixRoom fun _ => .bind .src fun _ => .bind .src fun _ => .getS_bind fun _ _ => .bind .check fun _
    => .bind .check fun _ => ?_
  split
  · exact .raise
  · exact .bind .check fun _ => .bind .getMy fun _ => .bind .enterMatrix fun _ => .modMy

theorem Follows.execMfence {m : Mods} {s : State} (h : Follows orig s) : Nexts (Follows orig) (execMfence m s) :=
  h.runInstr fun _ => .bind .matrixRoom fun _ => .getS_bind fun _ _ => .bind .enterMatrix fun _ => .blockOn

theorem Follows.execMstatMatrix {d : Opnd} {m : Mods} {s : State} (h : Follows orig s) : Nexts (Follows orig) (execMstatMatrix d m s) :=
  h.runInstr fun _ => .bind .getMe fun _ => .bind .modMe fun _ => .dst

theorem Follows.execMmag {d a c : Opnd} {m : Mods} {s : State} (h : Follows orig s) : Nexts (Follows orig) (execMmag d a c m s) := by
  unfold Machine.execMmag
  refine h.runInstr fun _ => .bind .src fun _ => .bind .src fun _ => .bind .src fun _ => .getS_bind fun _ _ => ?_
  dsimp only
  split
  · exact .ite .modMy .waitFor
  · refine .bind .check fun _ => .bind .tileChecks fun _ => .bind .check fun _ => ?_
    split
    · intro s2 hs2
      trivial
    · exact .blocked fun _ h2 => h2.setMy

theorem Follows.execMmagMeeting {n : Nat} {s : State} (h : Follows orig s) : Nexts (Follows orig) (execMmagMeeting n s) := by
  unfold Machine.execMmagMeeting
  refine h.runEvent fun _ h1 => ?_
  split
  · trivial
  · extract_lets _ _ _ _
    split
    · trivial
    · split
      next heq2 =>
        exact (h1.newId.of_snd heq2).foldl fun _ _ h2 => h2.newId.enterPort.setCtx

theorem Follows.readRows {s : State} {n a pitch need k : Nat} (h : Follows orig s) : Follows orig (s.readRows n a pitch need k).2 := by
  induction k with
  | zero => exact h
  | succ k ih =>
    rw [State.readRows]
    split
    next heq => exact ih.of_snd heq
    next heq => exact (ih.of_snd heq).engRead

theorem Follows.mFetch {s : State} {n : Nat} {k : MCmd} (h : Follows orig s) : Follows orig (s.mFetch n k).2 := by
  unfold State.mFetch
  extract_lets tile
  have htile : ∀ m, Follows orig (tile m).2 := by
    intro m
    unfold tile
    split
    next heq => exact h.readRows.of_snd heq
  clear_value tile
  split
  · exact htile _
  · split
    · exact h
    · exact htile _
  · exact htile _
  · split
    next heq => exact h.engRead.of_snd heq
  · split
    next heq => exact h.readRows.of_snd heq
  · exact h

theorem Follows.execMatrixGrant {o : Nat} {s : State} (h : Follows orig s) : Nexts (Follows orig) (execMatrixGrant o s) := by
  unfold Machine.execMatrixGrant
  refine h.runEvent fun _ h1 => ?_
  extract_lets _
  split
  · trivial
  · split
    · trivial
    · extract_lets _ s11
      have hs11 : Follows orig s11 := h1.setOctet
      split
      · split
        next heq3 =>
          exact (hs11.mFetch.of_snd heq3).setCore
      · trivial

theorem Follows.storeRows {s : State} {n a pitch : Nat} {rows : List (List Byte)} (h : Follows orig s) :
    Follows orig (s.storeRows n a pitch rows).2 := by
  unfold State.storeRows
  refine h.foldl_snd fun _ _ h1 => ?_
  split
  · exact h1
  · split
    next heq1 => exact h1.engWrite.of_snd heq1

theorem Follows.mRun {s : State} {n : Nat} {k : MCmd} (h : Follows orig s) : Follows orig (s.mRun n k).s := by
  unfold State.mRun
  extract_lets c w tile rs
  have htile : ∀ m elem, Follows orig (tile m elem).s := by
    intro m elem
    unfold tile
    split
    · exact h
    · exact h
  split
  · exact htile _ _
  · exact htile _ _
  · exact htile _ _
  · exact h.setCore
  · exact h.setCore
  · exact h
  · exact h
  · exact h
  · extract_lets out
    split
    next t heq => exact (h.storeRows.of_snd heq).drain.drainUo.setCore
  · split
    · exact h
    · exact h
  · exact h

theorem Follows.unitFree {s : State} {o : Nat} (h : Follows orig s) : Follows orig (s.unitFree o) := Follows.ite h.setOctet h.setOctet

theorem Follows.execMatrixCommandComplete {n : Nat} {s : State} (h : Follows orig s) :
    Nexts (Follows orig) (execMatrixCommandComplete n s) := by
  unfold Machine.execMatrixCommandComplete
  refine h.runEvent fun _ hs => ?_
  split
  · trivial
  · extract_lets r c c1 t t1 t2 o s1 s2 s3
    have hr : Follows orig r.s := by
      unfold r
      split
      · exact hs
      · exact hs.mRun
    have hs1 : Follows orig s1 := hr.setCore
    have hs2 : Follows orig s2 := Follows.ite hs1.unitFree hs1
    have hs3 : Follows orig s3 := by
      unfold s3
      split
      · exact hs2.engineEvent
      · exact hs2
    exact hs3.retire

/-! ### Machine/Fetch.lean -/

theorem Follows.fetchLine {s : State} {n : Nat} {t : TlbEnt} {va : Nat} (h : Follows orig s) :
    Gives (fun r => Follows orig r.2) (s.fetchLine n t va) := by
  unfold State.fetchLine
  extract_lets _ _
  split
  · exact Gives.ite trivial h.l2Fill
  · split
    · exact .ite h.setCore (Gives.ite trivial h.l1Fill)
    · exact Gives.ite trivial h.l1Fill

theorem Sem.KeepsFw.refillAfter {l : Loc} : Sem.KeepsFw orig (refillAfter l) := by
  unfold Machine.refillAfter
  intro s h
  exact EndsFw.ite (fun _ h1 => h1) h

theorem Sem.KeepsFw.fetchBlock {a : Word} : Sem.KeepsFw orig (fetchBlock a) := by
  unfold Machine.fetchBlock
  refine .getS_bind fun _ _ => ?_
  split
  · exact .raise
  · exact .bind .refillAfter fun _ => .bind .ownRead fun _ => .pure
  · exact .bind .refillAfter fun _ => .pure
  · refine .bind .xlate fun _ => .bind .refillAfter fun _ => ?_
    intro s1 hs1
    beta_reduce
    split
    next heq1 => exact Gives.of_eq heq1 hs1.fetchLine
    · trivial
  · exact .raise

theorem Sem.KeepsFw.fetchHead {a : Word} : Sem.KeepsFw orig (fetchHead a) := by
  unfold Machine.fetchHead
  refine .bind .getMy fun _ => ?_
  split
  · exact .ite .pure (.bind .fetchBlock fun _ => .bind .modMy fun _ => .pure)
  · exact .bind .fetchBlock fun _ => .bind .modMy fun _ => .pure

theorem Sem.KeepsFw.fetchRest {l : Line} {first a : Word} {k : Nat} : Sem.KeepsFw orig (fetchRest l first a k) := by
  induction k generalizing a with
  | zero => exact .pure
  | succ k ih =>
    rw [Machine.fetchRest]
    have hrest : ∀ w, Sem.KeepsFw orig (do Pure.pure (w :: (← Machine.fetchRest l first (a + 4) k))) := fun _ => .bind ih fun _ => .pure
    exact .ite (.bind .pure hrest) (.bind .fetchBlock fun _ => .bind .pure hrest)

theorem Sem.KeepsFw.fetch : Sem.KeepsFw orig fetch :=
  .bind .getMy fun _ => .bind .check fun _ => .bind .fetchHead fun _ => .bind .fetchRest fun _ => .pure

theorem Sem.KeepsFw.fetchInstr : Sem.KeepsFw orig fetchInstr := by
  unfold Machine.fetchInstr
  refine .bind .fetch fun _ => ?_
  split
  · exact .pure
  · exact .pure
  · exact .notYet fun _ h => h

theorem Follows.execIllegalEncoding {cause : BitVec 8} {enc : BitVec 64} {s : State} (h : Follows orig s) :
    Nexts (Follows orig) (execIllegalEncoding cause enc s) := by
  unfold Machine.execIllegalEncoding
  exact Nexts.ite h h.raiseIn

/-! ### Machine/Debug.lean -/

theorem Follows.cmpHit {s : State} {n x c what : Nat} (h : Follows orig s) : Follows orig (s.cmpHit n x c what) := by
  unfold State.cmpHit
  extract_lets s1
  have hs1 : Follows orig s1 := h.trigger
  split
  · exact hs1.setRegF
  · exact hs1.traceRec
  · exact hs1

theorem Follows.bpApply {s : State} {n x : Nat} {a : Word} (h : Follows orig s) : Follows orig (s.bpApply n x a) :=
  h.foldl fun _ _ h => h.cmpHit

theorem Follows.breakAt {s : State} {n x i : Nat} (h : Follows orig s) : Follows orig (s.breakAt n x i) := h.bpApply.causeIn

theorem Follows.execBreakpointHalt {n x i : Nat} {s : State} (h : Follows orig s) : Nexts (Follows orig) (execBreakpointHalt n x i s) :=
  h.runEvent fun _ h1 => Gives.ite h1.breakAt trivial

theorem Follows.afterIssue {s t : State} {n x : Nat} {ins : Instr} {first : Bool} (h : Follows orig t) :
    Follows orig (s.afterIssue t n x ins first) := by
  unfold State.afterIssue
  extract_lets done off hits t0 t1 step stop
  have ht1 : Follows orig t1 := (Follows.ite h.bpApply h).foldl fun _ _ h => h.cmpHit
  clear_value stop
  cases stop with
  | some e => exact Follows.ite ht1.setCtx ht1
  | none => exact ht1

theorem Follows.takeStop {s : State} {n x : Nat} (h : Follows orig s) : Gives (Follows orig) (s.takeStop n x) := by
  unfold State.takeStop
  split
  · trivial
  · exact Gives.ite h.setCtx.causeIn h

/-! ### Machine/Halts.lean -/

theorem Follows.execHaltOnWithheld {n x : Nat} {s : State} (h : Follows orig s) : Nexts (Follows orig) (execHaltOnWithheld n x s) := by
  unfold Machine.execHaltOnWithheld
  refine h.runEvent fun _ h1 => ?_
  extract_lets _
  split
  · trivial
  · exact Gives.ite trivial (Gives.map_all fun _ => h1.haltWithheld)

theorem Follows.execWaitLimitExpiry {n x : Nat} {s : State} (h : Follows orig s) : Nexts (Follows orig) (execWaitLimitExpiry n x s) := by
  unfold Machine.execWaitLimitExpiry
  refine h.runEvent fun _ h1 => ?_
  extract_lets _
  split
  · exact Gives.ite h1.setCtx trivial
  · trivial

theorem Follows.execWaitaPoll {n x : Nat} {s : State} (h : Follows orig s) : Nexts (Follows orig) (execWaitaPoll n x s) := by
  unfold Machine.execWaitaPoll
  refine h.runEvent fun _ h1 => ?_
  extract_lets _
  split
  · exact Gives.ite h1.setCtx trivial
  · trivial

theorem Follows.dropHeld {s : State} {n x : Nat} (h : Follows orig s) : Follows orig (s.dropHeld n x) :=
  (h.foldl fun _ _ h1 => h1.setCore.retire).setCtx

theorem Follows.clearRec {s : State} {n x : Nat} (h : Follows orig s) : Follows orig (s.clearRec n x) :=
  Follows.ite h (Follows.ite h.storeRec h.setCtx).setRegF

theorem Follows.unbind {s : State} {n x : Nat} (h : Follows orig s) : Follows orig (s.unbind n x) :=
  h.dropResv.dropTail.dropAsk.clearRec.setCore.setCore.orphan

theorem Follows.stopCtx {s : State} {n x : Nat} (h : Follows orig s) : Follows orig (s.stopCtx n x) := .ite h h.withdraw.dropHeld.unbind

theorem Follows.killCtx {s : State} {n x : Nat} (h : Follows orig s) : Follows orig (s.killCtx n x) := by
  unfold State.killCtx
  extract_lets _ old s1 s2 old1 s3
  have hs1 : Follows orig s1 := by
    unfold s1
    split
    · exact h.setPart
    · exact h
  exact ((Follows.ite hs1 hs1.dropHeld.unbind).setCore).foldl fun _ _ h => h.depart

theorem Follows.killSoon {s : State} {n x : Nat} (h : Follows orig s) : Follows orig (s.killSoon n x) := by
  unfold State.killSoon
  split
  · exact h.killCtx
  · exact h.setCtx
  · exact h

theorem Follows.kill {s : State} {n x : Nat} (h : Follows orig s) : Follows orig (s.kill n x) := by
  unfold State.kill
  extract_lets s1 s2
  have hs2 : Follows orig s2 := (Follows.ite (h.foldl fun _ _ hu => Follows.ite hu hu.killSoon) h).killCtx
  split
  · exact hs2.gangCheck
  · exact hs2

theorem Follows.execHaltRequest {p : Nat} {v : BitVec 64} {s : State} (h : Follows orig s) : Nexts (Follows orig) (execHaltRequest p v s) :=
  h.runPilot fun _ h1 => Gives.ite h1.setReg ((h1.foldl fun _ _ h2 => h2.setCtx).setReg)

theorem Follows.reqDone {s : State} {p : Nat} (h : Follows orig s) : Follows orig (s.reqDone p) := Follows.ite h.setReg h

theorem Follows.haltNow {s : State} {n x : Nat} (h : Follows orig s) : Follows orig (s.haltNow n x) := h.setCtx.halt

theorem Follows.resumeTask {s : State} {n x : Nat} (h : Follows orig s) : Follows orig (s.resumeTask n x) := by
  unfold State.resumeTask
  split
  · exact h
  · exact Follows.ite h.setTcbSt h

theorem Follows.releaseCtx {s0 : State} {n x : Nat} (h : Follows orig s0) : Follows orig (s0.releaseCtx n x) :=
  (((Follows.ite h.rejoin h).resumeTask.clearRec).setCtx).setPart

theorem Follows.relBad {s : State} {p id : Nat} (h : Follows orig s) : Follows orig (s.relBad p id) := Follows.ite h h.setReg.pilotEvent

theorem Follows.relReg {s : State} {p id : Nat} {kill : Bool} (h : Follows orig s) : Follows orig (s.relReg p id kill) := h.setReg

theorem Follows.execHaltRelease {p id : Nat} {s : State} (h : Follows orig s) : Nexts (Follows orig) (execHaltRelease p id s) := by
  unfold Machine.execHaltRelease
  refine h.runPilot fun _ h1 => ?_
  extract_lets s2
  have hs2 : Follows orig s2 := h1.relReg
  split
  · exact hs2.releaseCtx
  · exact hs2.relBad

theorem Follows.execHaltKill {p id : Nat} {s : State} (h : Follows orig s) : Nexts (Follows orig) (execHaltKill p id s) := by
  unfold Machine.execHaltKill
  refine h.runPilot fun _ h1 => ?_
  extract_lets s2
  have hs2 : Follows orig s2 := h1.relReg
  split
  · exact hs2.kill
  · exact hs2.relBad

theorem Follows.execChainedRelease {p id : Nat} {s : State} (h : Follows orig s) : Nexts (Follows orig) (execChainedRelease p id s) := by
  unfold Machine.execChainedRelease
  refine h.runEvent fun _ h1 => ?_
  extract_lets q
  split
  · split
    · trivial
    · exact h1.setPart.foldl fun _ _ h => h.releaseCtx
  · split
    · trivial
    · exact h1.setPart.foldl fun _ _ h => h.releaseCtx

/-! ### Machine/Tasks.lean -/

theorem Follows.shrinkL1 {s : State} {n ways : Nat} (h : Follows orig s) : Follows orig (s.shrinkL1 n ways) :=
  h.foldl fun _ _ h => h.l1Clean

theorem Follows.placeCore {s : State} {n : Nat} {g : GangRef} (h : Follows orig s) : Follows orig (s.placeCore n g) :=
  h.shrinkL1.setCore.revokeAll.traceRec.trigger.acquireActs

theorem Follows.restoreCore {s : State} {n : Nat} {g : GangRef} {old : Core} (h : Follows orig s) : Follows orig (s.restoreCore n g old) :=
  h.shrinkL1.setCore.acquireActs

theorem Follows.placeGang {s : State} {p i x0 y0 cvy member : Nat} {image : List (Nat × Core)} (h : Follows orig s) :
    Follows orig (s.placeGang p i x0 y0 cvy member image) := by
  unfold State.placeGang
  extract_lets lw lh q num g s1 r s2
  have hs1 : Follows orig s1 := h.setPart
  have hs2 : Follows orig s2 := by
    refine hs1.foldl fun u e hu => ?_
    split
    next heq => exact hu.restoreCore
    next => exact hu.placeCore
  exact Follows.ite hs2.setTcbSt.progress hs2

theorem Follows.place {s : State} {p : Nat} {e : PoolEntry} {os : List (Nat × Nat)} (h : Follows orig s) : Follows orig (s.place p e os) :=
  (h.foldl fun _ _ hu => hu.placeGang).setPart

theorem Follows.passedOver {s : State} {p : Nat} {before : List PoolEntry} {e : PoolEntry} (h : Follows orig s) :
    Follows orig (s.passedOver p before e) := Follows.ite h.setPart.chrEvt h.setPart

theorem Follows.reserve {s : State} {p : Nat} {pool : List PoolEntry} {e : PoolEntry} (h : Follows orig s) :
    Follows orig (s.reserve p pool e) := by
  unfold State.reserve
  extract_lets _ old
  split
  · exact h
  · split
    · exact h.setPart
    · exact h

theorem Follows.tryEntries {s : State} {p : Nat} {pool before l : List PoolEntry} (h : Follows orig s) :
    Follows orig (s.tryEntries p pool before l) := by
  induction l generalizing s before with
  | nil => exact h
  | cons e rest ih =>
    rw [State.tryEntries]
    split
    · exact Follows.ite h.place.passedOver h
    · exact Follows.ite (Follows.ite h.setPart h) (ih (Follows.ite h.setPart h).reserve)

theorem Follows.readConvoys {s : State} {p : Nat} (h : Follows orig s) : Follows orig (s.readConvoys p) := h.foldl fun _ _ h => h.readCvy

theorem Follows.execPlacementAttempt {p : Nat} {s : State} (h : Follows orig s) : Nexts (Follows orig) (execPlacementAttempt p s) := by
  unfold Machine.execPlacementAttempt
  refine h.runEvent fun _ h1 => ?_
  extract_lets _ q s11
  have hs11 : Follows orig s11 := h1.setPart.readConvoys
  split
  · trivial
  · split
    · exact Gives.ite hs11 hs11.tryEntries
    · exact hs11.tryEntries

theorem Follows.portOpens {s : State} {n : Nat} (h : Follows orig s) : Follows orig (s.portOpens n) :=
  h.setCore.foldl fun _ _ h1 => h1.getD h1.arrive

theorem Follows.execKernelEntry {n : Nat} {s : State} (h : Follows orig s) : Nexts (Follows orig) (execKernelEntry n s) :=
  h.runEvent fun _ h1 => Gives.ite trivial (Gives.ite h1.portOpens.setCore h1.portOpens.setCtx)

theorem Follows.cleanAll {s : State} {n : Nat} (h : Follows orig s) : Follows orig (s.cleanAll n) := h.drain.foldl fun _ _ h => h.l1Clean

theorem Follows.freeCore {s : State} {n : Nat} (h : Follows orig s) : Follows orig (s.freeCore n) := h.setCore

theorem Follows.taskRetired {s : State} {p i : Nat} (h : Follows orig s) : Follows orig (s.taskRetired p i) :=
  .ite h (.ite h.taskDone.setPart (.ite h.setTcbSt.setPart h))

theorem Follows.execGangRetire {p num : Nat} {s : State} (h : Follows orig s) : Nexts (Follows orig) (execGangRetire p num s) := by
  unfold Machine.execGangRetire
  refine h.runEvent fun _ h1 => ?_
  split
  · trivial
  · split
    · trivial
    · split
      · exact h1.foldl fun _ _ h => h.cleanAll
      · split
        · trivial
        · extract_lets s11 q s2 s3 old
          have hs2 : Follows orig s2 := (h1.foldl fun _ _ h => h.freeCore).setPart
          have hs3 : Follows orig s3 := hs2.foldl fun _ _ h2 => .ite h2 h2.taskRetired
          exact .ite hs2.taskRetired (Gives.ite hs2 (Follows.ite hs3.setPart hs3))

theorem Follows.redealChunks {s : State} {p i : Nat} {cs : List Chunk} (h : Follows orig s) : Follows orig (s.redealChunks p i cs) :=
  .ite h h.setPart

theorem Follows.redealLost {s : State} {p i : Nat} (h : Follows orig s) : Follows orig (s.redealLost p i) := h.setPart.redealChunks

theorem Follows.stopGang {s : State} {p : Nat} {g : Gang} {why : Leave} (h : Follows orig s) : Follows orig (s.stopGang p g why) :=
  (h.foldl fun _ _ hu => (hu.foldl fun _ _ h => h.stopCtx).setCore).setGang

theorem Follows.stopTask {s : State} {p i : Nat} {why : Leave} {again : Bool} (h : Follows orig s) :
    Follows orig (s.stopTask p i why again) := (Follows.ite h.redealLost.redealChunks h).foldl fun _ _ h => h.stopGang

theorem Follows.preemptTask {s : State} {p i : Nat} (h : Follows orig s) : Follows orig (s.preemptTask p i) :=
  .ite h (.ite h.stopTask.setTcbSt.setPart (.ite h h.setPart.taskRetired))

theorem Follows.preemptConvoy {s : State} {p c : Nat} (h : Follows orig s) : Follows orig (s.preemptConvoy p c) := by
  unfold State.preemptConvoy
  extract_lets _ _ q s1
  have hs1 : Follows orig s1 := h.setPart
  split
  · exact h
  · exact .ite (hs1.foldl fun _ _ h1 => Follows.ite h1.stopTask.setTcbSt h1.stopTask) (h.foldl fun _ _ h1 => Follows.ite h1 h1.setPart)

theorem Follows.preempt {s : State} {p i : Nat} (h : Follows orig s) : Follows orig (s.preempt p i) :=
  .ite (.ite (Follows.ite h h.setPart) h.preemptTask) (.ite h (.ite (Follows.ite h h.setPart) h.preemptConvoy))

theorem Follows.takePreempt {s : State} {p : Nat} {v : Word} (h : Follows orig s) : Follows orig (s.takePreempt p v) :=
  .ite (h.setReg.foldl fun _ _ h => h.preempt) h.setReg.preempt

theorem Follows.latePreempt {s : State} {p : Nat} (h : Follows orig s) : Follows orig (s.latePreempt p) := Follows.ite h.takePreempt h

theorem Follows.execChrPreempt {p : Nat} {v : BitVec 64} {s : State} (h : Follows orig s) : Nexts (Follows orig) (execChrPreempt p v s) :=
  h.runPilot fun _ h1 => Gives.ite h1.setReg (Gives.ite h1.setReg h1.takePreempt)

theorem Follows.discard {s : State} {p i cause x y : Nat} (h : Follows orig s) : Follows orig (s.discard p i cause x y) :=
  h.setTcbSt.setPart.complete

theorem Follows.graceEnd {s : State} {p j : Nat} (h : Follows orig s) : Follows orig (s.graceEnd p j) :=
  .ite h.stopTask.discard (Follows.ite h.stopTask h)

theorem Follows.execGraceExpiry {p i : Nat} {s : State} (h : Follows orig s) : Nexts (Follows orig) (execGraceExpiry p i s) := by
  unfold Machine.execGraceExpiry
  refine h.runEvent fun _ h1 => ?_
  split
  · trivial
  · exact .ite trivial ((h1.foldl fun _ _ h => h.graceEnd).chrEvt)

theorem Follows.execTaskWatchdogExpiry {p i : Nat} {s : State} (h : Follows orig s) : Nexts (Follows orig) (execTaskWatchdogExpiry p i s) :=
  by
  unfold Machine.execTaskWatchdogExpiry
  refine h.runEvent fun _ h1 => ?_
  extract_lets _
  split
  · trivial
  · exact .ite trivial h1.setRegF.chrEvt.progress

theorem Follows.waitingPreempt {s : State} {p i : Nat} (h : Follows orig s) : Follows orig (s.waitingPreempt p i) :=
  .ite h.setPart.preempt h

theorem Follows.backFrom {s : State} {p i : Nat} (h : Follows orig s) : Follows orig (s.backFrom p i) :=
  Follows.ite h.setTcbSt.taskRetired h.setTcbSt

theorem Follows.heldPreempts {s : State} {p : Nat} (h : Follows orig s) : Follows orig (s.heldPreempts p) :=
  h.foldl fun _ _ h1 => Follows.ite h1 (Follows.ite h1.setPart.preemptTask h1.setPart.preemptConvoy)

theorem Follows.execFaultResolution {p i : Nat} {how : Resolution} {s : State} (h : Follows orig s) :
    Nexts (Follows orig) (execFaultResolution p i how s) := by
  unfold Machine.execFaultResolution
  refine h.runPilot fun s hs => Gives.ite trivial ?_
  extract_lets n x s1 s2 s3 s4
  have hs1 : Follows orig s1 := hs.backFrom
  have hs2 : Follows orig s2 := Follows.ite hs1.releaseCtx hs1
  have hs3 : Follows orig s3 := hs.redealLost
  have hs4 : Follows orig s4 := hs.foldl fun _ _ hu => (hu.setGang.foldl fun _ _ hv => (hv.foldl fun _ _ h => h.killSoon).setCore).gangCheck
  split
  · exact hs2.waitingPreempt
  · split
    · exact (Follows.ite hs3.setTcbSt.seqOne hs3.setTcbSt).waitingPreempt
    · exact (Follows.ite hs3.redealChunks.stopGang.setTcbSt hs3.redealChunks.stopGang.setTcbSt.seqOne).waitingPreempt
  · exact hs4.discard

/-! ### Machine/Cycle.lean -/

theorem Follows.countWaits {s : State} (h : Follows orig s) : Follows orig s.countWaits := by
  unfold State.countWaits
  refine h.foldl fun _ _ h1 => ?_
  extract_lets _
  split
  · exact Follows.ite h1.setCtx h1
  · exact h1

theorem Follows.traceStops {s : State} (h : Follows orig s) : Follows orig s.traceStops :=
  h.foldl fun _ _ h1 => Follows.ite h1.setReg.setCore.traceHold h1

theorem Follows.soundingCycle {s : State} (h : Follows orig s) : Follows orig s.soundingCycle :=
  h.foldl fun _ _ h1 => Follows.ite h1.setReg h1

theorem Follows.ttDiscard {s : State} (h : Follows orig s) : Follows orig s.ttDiscard := by
  unfold State.ttDiscard
  refine h.foldl fun _ _ h1 => ?_
  split
  · exact Follows.ite h1 h1.setCore
  · exact h1

theorem Follows.notices {s : State} (h : Follows orig s) : Follows orig s.notices := by
  unfold State.notices
  refine h.foldl fun _ _ h1 => h1.foldl fun _ _ h2 => ?_
  split
  · split
    · extract_lets _
      split
      · beta_reduce
        exact h2.setFixObj.foldl fun _ _ h => h.sendPacket
      · split
        · beta_reduce
          exact h2.setFixObj.foldl fun _ _ h => h.sendPacket
        · exact h2
    · exact h2

theorem Follows.hubCycle {s : State} (h : Follows orig s) : Follows orig s.hubCycle := h.foldl fun _ _ h1 => h1.serveAsks.freeEntries

theorem Follows.idleFlits {s : State} (h : Follows orig s) : Follows orig s.idleFlits := h.foldl fun _ _ h => h.idleFlit

theorem Follows.meshCycle {s : State} (h : Follows orig s) : Follows orig s.meshCycle :=
  (h.foldl fun _ _ h1 => h1.chartCycle.latePreempt.heldPreempts.reqDone).notices.hubCycle.roundsGo.phasesGo.ttDiscard.idleFlits

theorem Follows.tick {s : State} (h : Follows orig s) : Follows orig s.tick := by
  unfold State.tick
  extract_lets s1 s2
  have hs2 : Follows orig s2 := h.countWaits.traceStops.soundingCycle
  exact Follows.ite hs2.meshCycle hs2

theorem Follows.sndIssue {s : State} {n : Nat} {a : Word} (h : Follows orig s) : Follows orig (s.sndIssue n a) :=
  h.foldl fun _ _ h1 => Follows.ite h1.setPart h1

theorem Follows.execSoundingPause {p : Nat} {s : State} (h : Follows orig s) : Nexts (Follows orig) (execSoundingPause p s) :=
  h.runEvent fun _ h1 => Gives.ite (h1.setPart.setReg.foldl fun _ _ h2 => Follows.ite h2.setCtx h2) trivial

theorem Follows.execSoundingGo {p : Nat} {v : BitVec 64} {s : State} (h : Follows orig s) : Nexts (Follows orig) (execSoundingGo p v s) :=
  by
  unfold Machine.execSoundingGo
  refine h.runPilot fun s hs => ?_
  extract_lets a s1 r s2 s3 old
  have hs1 : Follows orig s1 := hs.setReg
  have hs3 : Follows orig s3 := (hs1.foldl fun _ _ h => h.setRegF).setReg.setReg
  refine Gives.ite ?_ hs1.setReg
  exact hs3.setPart.setReg

theorem Follows.execSoundingStop {w : SndWrite} {s : State} (h : Follows orig s) : Nexts (Follows orig) (execSoundingStop w s) := by
  unfold Machine.execSoundingStop
  exact h.runPilot fun _ h1 => h1.setReg

/-! ### Machine/Checkpoint.lean -/

theorem Follows.pauseConvoy {s : State} {p c : Nat} (h : Follows orig s) : Follows orig (s.pauseConvoy p c) :=
  h.setPart.foldl fun _ _ hu => hu.foldl fun _ _ hv => Follows.ite hv ((Follows.ite hv.rejoin hv).setCore.setCtx)

theorem Follows.paceCheck {s : State} {n r : Nat} (h : Follows orig s) : Follows orig (s.paceCheck n r) := by
  unfold State.paceCheck
  split
  · exact h
  · exact Follows.ite h.pauseConvoy h

theorem Follows.partFill {s : State} {p a : Nat} {bs : List Byte} {fuel : Nat} (h : Follows orig s) :
    Follows orig (s.partFill p a bs fuel) := by
  induction fuel generalizing s a bs with
  | zero => exact h
  | succ fuel ih => exact Follows.ite h (ih h.partWrite)

theorem Follows.execCheckpointImageWrite {p c : Nat} {s : State} (h : Follows orig s) :
    Nexts (Follows orig) (execCheckpointImageWrite p c s) :=
  h.runEvent fun _ hs => Gives.ite trivial (hs.foldl fun _ _ hu => hu.setCore).partFill.setPart.setFresh

theorem Follows.commitLog {s : State} {p c : Nat} (h : Follows orig s) : Follows orig (s.commitLog p c) := by
  unfold State.commitLog
  extract_lets s1 _ s2 old
  have hs1 : Follows orig s1 := h.foldl fun _ _ h => h.engWrite
  have hs2 : Follows orig s2 := by
    unfold s2
    split
    · exact hs1.setCvyWord
    · exact hs1
  exact hs2.setPart

theorem Follows.commitImage {s : State} {p c : Nat} (h : Follows orig s) : Follows orig (s.commitImage p c) :=
  h.partFill.setCvyWord.setCvyWord.commitLog.setPart.chrEvt.setFresh.foldl fun _ _ h1 => h1.drain.drainUo

theorem Follows.endPause {s0 : State} {p c : Nat} (h : Follows orig s0) : Follows orig (s0.endPause p c) := by
  unfold State.endPause
  extract_lets s old s1 old1
  have hs1 : Follows orig s1 := (h.foldl fun _ _ h => h.invalidateAll).setPart
  exact .ite hs1.setPart.preemptConvoy (hs1.foldl fun _ _ h1 => h1.setCore)

theorem Follows.execCheckpointCommit {p c : Nat} {s : State} (h : Follows orig s) : Nexts (Follows orig) (execCheckpointCommit p c s) := by
  unfold Machine.execCheckpointCommit
  refine h.runEvent fun _ h1 => ?_
  split
  · exact h1.commitImage
  · exact Gives.ite h1.endPause trivial
  · trivial

end Sys2Proof.Machine
end

section
/-! PROOFS of the family 03_host, O60: Machine/Deliveries to Machine/Secure. -/

namespace Sys2Proof.Machine

variable {orig : State}

/-! ### Machine/Deliveries.lean -/

theorem Follows.takeNoc {s : State} {id : Nat} (h : Follows orig s) : Gives (fun r => Follows orig r.2) (s.takeNoc id) := by
  unfold State.takeNoc
  split
  · split
    · exact Gives.ite h trivial
    · trivial
  · trivial

theorem Follows.sendHead {s : State} {n dst mbox : Nat} {hdr : Word} {data : List Byte} {rest : List SendCmd} (h : Follows orig s) :
    Gives (Follows orig) (s.sendHead n dst mbox hdr data rest) := by
  unfold State.sendHead
  split
  · trivial
  · exact .ite trivial h.setCore.post.traceRec

theorem Follows.spread {s : State} {fx : BitVec 32} {f : FixObj} {n : Nat} {c0 : Contrib} (h : Follows orig s) :
    Follows orig (s.spread fx f n c0) :=
  .ite h.setFixObj ((h.foldl fun _ _ h1 => h1.foldl fun _ _ h => h.post).foldl fun _ _ h1 => h1.foldl fun _ _ h => h.sendPacket)

theorem Follows.sendFix {s : State} {n : Nat} {fx tag : BitVec 32} {rank : Nat} {src : Word} {rest : List SendCmd} (h : Follows orig s) :
    Follows orig (s.sendFix n fx tag rank src rest) := by
  unfold State.sendFix
  extract_lets old s1
  have hs1 : Follows orig s1 := h.setCore
  split
  · exact hs1
  · split
    next heq1 => exact (hs1.engRead.of_snd heq1).engineEvent
    next heq1 => exact (hs1.engRead.of_snd heq1).spread

theorem Follows.execMessageSend {n : Nat} {s : State} (h : Follows orig s) : Nexts (Follows orig) (execMessageSend n s) := by
  unfold Machine.execMessageSend
  refine h.runEvent fun _ h1 => ?_
  split
  · exact Gives.ite h1.sendHead trivial
  · exact Gives.ite h1.sendFix trivial
  · trivial

theorem Follows.digest {s : State} {n : Nat} {g : Msg} (h : Follows orig s) : Follows orig (s.digest n g) :=
  (Follows.ite h.setReg.setRegF.setReg.pilotEvent h.setReg.setRegF).traceRec

theorem Follows.unhide {s : State} {n m : Nat} {g : Msg} (h : Follows orig s) : Follows orig (s.unhide n m g) := h.setCore.digest

theorem Follows.unhideAll {s : State} {n : Nat} (h : Follows orig s) : Follows orig (s.unhideAll n) := h.foldl fun _ _ h => h.unhide

theorem Follows.replayEnd {s : State} {n : Nat} (h : Follows orig s) : Follows orig (s.replayEnd n) := h.setReg.setReg.unhideAll

theorem Follows.replay {s : State} {n fuel : Nat} (h : Follows orig s) : Follows orig (s.replay n fuel) := by
  induction fuel generalizing s with
  | zero => exact h
  | succ fuel ih =>
    rw [State.replay]
    split
    · exact h.replayEnd
    · extract_lets e src m
      split
      · exact h
      next g _ =>
        exact ih h.unhide.setCore

theorem Follows.store {s : State} {n m : Nat} {g : Msg} (h : Follows orig s) : Follows orig (s.store n m g) := by
  unfold State.store
  extract_lets _
  split
  · exact h
  · split
    · split
      next heq2 =>
        exact ((h.newId.of_snd heq2).setCore).replay
    · exact h.setCore.digest

theorem Follows.execMessageArrival {id : Nat} {s : State} (h : Follows orig s) : Nexts (Follows orig) (execMessageArrival id s) := by
  unfold Machine.execMessageArrival
  refine h.runEvent fun _ h1 => ?_
  split
  next heq =>
    exact .ite trivial ((Gives.pair_of_eq heq h1.takeNoc).store)
  · trivial

theorem Follows.execAllowanceReturn {id : Nat} {s : State} (h : Follows orig s) : Nexts (Follows orig) (execAllowanceReturn id s) := by
  unfold Machine.execAllowanceReturn
  refine h.runEvent fun _ h1 => ?_
  split
  next heq =>
    split
    · exact .ite ((Gives.pair_of_eq heq h1.takeNoc).setCore) (Gives.pair_of_eq heq h1.takeNoc)
    · exact Gives.pair_of_eq heq h1.takeNoc
  · trivial

theorem Follows.endBind {s : State} {n m : Nat} {r : Rebind} {c : BitVec 8} (h : Follows orig s) : Follows orig (s.endBind n m r c) :=
  (Follows.ite h.setCore.setCtx h.setCore).retire

theorem Follows.execMbindComplete {n : Nat} {s : State} (h : Follows orig s) : Nexts (Follows orig) (execMbindComplete n s) := by
  unfold Machine.execMbindComplete
  refine h.runEvent fun _ h1 => ?_
  split
  · trivial
  · split
    · trivial
    · exact .ite h1.endBind (h1.setCore.foldl fun _ _ h => h.post)

theorem Follows.execMailboxGrant {id : Nat} {s : State} (h : Follows orig s) : Nexts (Follows orig) (execMailboxGrant id s) := by
  unfold Machine.execMailboxGrant
  refine h.runEvent fun _ h1 => ?_
  split
  next heq =>
    extract_lets _ old s2
    have hs2 : Follows orig s2 := Follows.ite ((Gives.pair_of_eq heq h1.takeNoc).setCore) (Gives.pair_of_eq heq h1.takeNoc)
    split
    · exact hs2
    · split
      · exact hs2.endBind
      · exact hs2
  · trivial

theorem Follows.execBarrierArrival {id : Nat} {s : State} (h : Follows orig s) : Nexts (Follows orig) (execBarrierArrival id s) := by
  unfold Machine.execBarrierArrival
  refine h.runEvent fun _ h1 => ?_
  split
  next heq =>
    exact (Gives.pair_of_eq heq h1.takeNoc).setCore.barComplete
  · trivial

theorem Follows.advanceHomes {s : State} {n b : Nat} (h : Follows orig s) : Follows orig (s.advanceHomes n b) :=
  h.foldl fun _ _ h1 => Follows.ite h1.setCore.paceCheck h1

theorem Follows.execBarrierRelease {id : Nat} {s : State} (h : Follows orig s) : Nexts (Follows orig) (execBarrierRelease id s) := by
  unfold Machine.execBarrierRelease
  refine h.runEvent fun _ h1 => ?_
  split
  next heq =>
    exact .ite ((Gives.pair_of_eq heq h1.takeNoc).setCore.advanceHomes) (Gives.pair_of_eq heq h1.takeNoc)
  · trivial

theorem Follows.phaseMap {s : State} {rect : Word} {f : Phase → Phase} (h : Follows orig s) : Follows orig (s.phaseMap rect f) :=
  h.foldl fun _ _ h1 => h1.setCore

theorem Follows.execTimetableRelease {n : Nat} {s : State} (h : Follows orig s) : Nexts (Follows orig) (execTimetableRelease n s) := by
  unfold Machine.execTimetableRelease
  refine h.runEvent fun _ h1 => ?_
  split
  · exact Gives.ite h1.phaseMap trivial
  · trivial

theorem Follows.execTimetableWordArrival {id : Nat} {s : State} (h : Follows orig s) :
    Nexts (Follows orig) (execTimetableWordArrival id s) := by
  unfold Machine.execTimetableWordArrival
  refine h.runEvent fun _ h1 => ?_
  split
  next heq =>
    split
    · exact (Gives.pair_of_eq heq h1.takeNoc).setCore
    · exact Gives.pair_of_eq heq h1.takeNoc
  · trivial

theorem Follows.execTimetableEnd {n : Nat} {s : State} (h : Follows orig s) : Nexts (Follows orig) (execTimetableEnd n s) := by
  unfold Machine.execTimetableEnd
  refine h.runEvent fun _ h1 => ?_
  split
  · exact Gives.ite h1.phaseMap trivial
  · trivial

theorem Follows.execTimetableOffsetReached {n x : Nat} {s : State} (h : Follows orig s) :
    Nexts (Follows orig) (execTimetableOffsetReached n x s) := by
  unfold Machine.execTimetableOffsetReached
  refine h.runEvent fun _ h1 => ?_
  extract_lets _
  split
  · split
    · trivial
    · extract_lets _
      split
      · exact h1.setCtx.ttInject
      · split
        · exact h1.setCtx.setCore
  · trivial

theorem Follows.execFixContributionArrival {id : Nat} {s : State} (h : Follows orig s) :
    Nexts (Follows orig) (execFixContributionArrival id s) := by
  unfold Machine.execFixContributionArrival
  refine h.runEvent fun _ h1 => ?_
  split
  next heq =>
    split
    · exact .ite trivial ((Gives.pair_of_eq heq h1.takeNoc).contribute)
    · exact .ite trivial ((Gives.pair_of_eq heq h1.takeNoc).contribute)
  · trivial

theorem Follows.execNearMemoryFold {id : Nat} {s : State} (h : Follows orig s) : Nexts (Follows orig) (execNearMemoryFold id s) := by
  unfold Machine.execNearMemoryFold
  refine h.runEvent fun _ h1 => ?_
  split
  next heq =>
    split
    · exact (Gives.pair_of_eq heq h1.takeNoc).foldInto
    · exact Gives.pair_of_eq heq h1.takeNoc
  · trivial

/-! ### Machine/Links.lean -/

theorem Follows.setPortSt {s : State} {p st : Nat} (h : Follows orig s) : Follows orig (s.setPortSt p st) := h.setRegF

theorem Follows.setLanes {s : State} {p : Nat} {l0 l1 : Bool} (h : Follows orig s) : Follows orig (s.setLanes p l0 l1) := h.setRegF

theorem Follows.endRetrain {s : State} {p : Nat} (h : Follows orig s) : Follows orig (s.endRetrain p) := h.setRegF

theorem Follows.portDown {s : State} {p st : Nat} (h : Follows orig s) : Follows orig (s.portDown p st) :=
  h.setPort.setPortSt.setLanes.endRetrain

theorem Follows.train {s : State} {p st : Nat} (h : Follows orig s) : Follows orig (s.train p st) := h.setPort.setPortSt.setLanes

theorem Follows.execLinkEn {p : Nat} {on : Bool} {s : State} (h : Follows orig s) : Nexts (Follows orig) (execLinkEn p on s) :=
  h.runEvent fun _ h1 => Gives.ite trivial (Gives.ite (Follows.ite h1.setRegF.train h1.setRegF) h1.setRegF.portDown)

theorem Follows.retrain {s : State} {p : Nat} (h : Follows orig s) : Follows orig (s.retrain p) := h.setRegF.train

theorem Follows.execLinkRetrain {p : Nat} {s : State} (h : Follows orig s) : Nexts (Follows orig) (execLinkRetrain p s) :=
  h.runPilot fun _ h1 => Gives.ite h1.setRegF.retrain trivial

theorem Follows.failAttempt {s : State} {p : Nat} (h : Follows orig s) : Follows orig (s.failAttempt p) := Follows.ite h.portDown h.setPort

theorem Follows.resend {s : State} {p : Nat} {counted : Bool} (h : Follows orig s) : Follows orig (s.resend p counted) :=
  Follows.ite h.setPort.portCount h.setPort

theorem Follows.execTrainingAttemptEnd {p : Nat} {pass0 pass1 : Bool} {peer0 peer1 : BitVec 62} {s : State} (h : Follows orig s) :
    Nexts (Follows orig) (execTrainingAttemptEnd p pass0 pass1 peer0 peer1 s) :=
  h.runEvent fun _ h1 => Gives.ite trivial (Gives.ite h1.failAttempt h1.setPort.setPortSt.setLanes.endRetrain.setReg.resend.pumpPort)

theorem Follows.execTrainingTimeout {p : Nat} {s : State} (h : Follows orig s) : Nexts (Follows orig) (execTrainingTimeout p s) :=
  h.runEvent fun _ h1 => Gives.ite h1.failAttempt trivial

theorem Follows.execLaneFail {p lane : Nat} {s : State} (h : Follows orig s) : Nexts (Follows orig) (execLaneFail p lane s) :=
  h.runEvent fun _ h1 => Gives.ite trivial (Gives.ite h1.setPort.portEvt.report.setPortSt.setLanes.resend h1.setPort.portEvt.report.retrain)

theorem Follows.badFlit {s : State} {p : Nat} (h : Follows orig s) : Follows orig (s.badFlit p) := h.portCount.setPort

theorem Follows.settle {s : State} {p before : Nat} (h : Follows orig s) : Follows orig (s.settle p before) :=
  Follows.ite h.pumpPort.setPort h.pumpPort

theorem Follows.rxFlit {s : State} {p kind : Nat} {f : Flit} {act : State → State} (h : Follows orig s)
    (hact : ∀ u, Follows orig u → Follows orig (act u)) :
    Gives (Follows orig) (s.rxFlit p kind f act) := by
  unfold State.rxFlit
  extract_lets _ _ _ _ t
  have ht : Follows orig t := Follows.ite (Follows.ite (hact _ h.setPort) h.setPort) (hact _ h.setPort)
  split
  · trivial
  · exact .ite h.badFlit (Gives.ite trivial (Gives.ite h.settle ht.settle))

theorem Follows.giveBack {s : State} {p vl flits : Nat} (h : Follows orig s) : Follows orig (s.giveBack p vl flits) := h.setPort

theorem Follows.assemble {s : State} {p vl : Nat} {fs : List Flit} (h : Follows orig s) : Follows orig (s.assemble p vl fs) :=
  .ite h.setPort h.portCount.giveBack

theorem Follows.execRxDataFlit {p : Nat} {f : BitVec 512} {s : State} (h : Follows orig s) : Nexts (Follows orig) (execRxDataFlit p f s) :=
  h.runEvent fun _ h1 => h1.rxFlit fun _ h2 => Follows.ite h2.setPort.assemble h2.setPort

theorem Follows.execRxNakFlit {p : Nat} {f : BitVec 512} {s : State} (h : Follows orig s) : Nexts (Follows orig) (execRxNakFlit p f s) :=
  h.runEvent fun _ h1 => h1.rxFlit fun _ h2 => h2.setPort.resend

theorem Follows.execRxCreditFlit {p : Nat} {f : BitVec 512} {s : State} (h : Follows orig s) :
    Nexts (Follows orig) (execRxCreditFlit p f s) := h.runEvent fun _ h1 => h1.rxFlit fun _ h2 => h2.setPort

theorem Follows.execRxIdleFlit {p : Nat} {f : BitVec 512} {s : State} (h : Follows orig s) : Nexts (Follows orig) (execRxIdleFlit p f s) :=
  by
  unfold Machine.execRxIdleFlit
  exact h.runEvent fun _ h1 => h1.rxFlit fun _ h2 => h2

/-! ### Machine/Packets.lean -/

theorem Follows.ackFlow {s : State} {p dev vl : Nat} {k : Packet} (h : Follows orig s) : Follows orig (s.ackFlow p dev vl k) := h.emit

theorem Follows.portWake {s : State} {p : Nat} {k : Packet} (h : Follows orig s) : Follows orig (s.portWake p k) := h.setReg

theorem Follows.acceptPkt {s : State} {p : Nat} {k : Packet} (h : Follows orig s) : Follows orig (s.acceptPkt p k).2 := by
  unfold State.acceptPkt
  split
  · exact h.tagDrop
  · split
    · exact h.portCount
    · split
      · exact h
      · extract_lets _ _ _ s1
        have hs1 : Follows orig s1 := h.setFlow.portWake
        split
        · exact Follows.ite hs1.ackFlow hs1
        · split
          · exact h.portCount.ackFlow
          · exact h

theorem Follows.rxPacket {s : State} {p ty : Nat} {act : Packet → State → State} (h : Follows orig s)
    (hact : ∀ a0 u, Follows orig u → Follows orig (act a0 u)) :
    Gives (Follows orig) (s.rxPacket p ty act) := by
  unfold State.rxPacket
  split
  · trivial
  · split
    · trivial
    · extract_lets _ s1
      have hs1 : Follows orig s1 := h.setPort.giveBack
      split
      next heq2 =>
        exact (Follows.ite (hact _ _ (hs1.acceptPkt.of_snd heq2)) (hs1.acceptPkt.of_snd heq2)).pumpPort

theorem Follows.rxContribution {s : State} {p : Nat} {k : Packet} (h : Follows orig s) : Follows orig (s.rxContribution p k) := by
  unfold State.rxContribution
  extract_lets _
  split
  · exact h
  · exact .ite h (.ite (h.foldl fun _ _ h => h.post) (.ite h.setFixObj (h.setFixObj.foldl fun _ _ h => h.post)))

theorem Follows.execPktFixContribution {p : Nat} {s : State} (h : Follows orig s) : Nexts (Follows orig) (execPktFixContribution p s) :=
  h.runEvent fun _ h1 => h1.rxPacket fun _ _ h => h.rxContribution

theorem Follows.execPktFixResult {p : Nat} {s : State} (h : Follows orig s) : Nexts (Follows orig) (execPktFixResult p s) :=
  h.runEvent fun _ h1 => h1.rxPacket fun _ _ h2 => h2

theorem Follows.execPktWithheld {p : Nat} {s : State} (h : Follows orig s) : Nexts (Follows orig) (execPktWithheld p s) := by
  unfold Machine.execPktWithheld
  refine h.runEvent fun _ h1 => h1.rxPacket fun _ _ h2 => ?_
  split
  · exact Follows.ite h2 h2.setFixObj
  · exact h2

theorem Follows.execPktReleased {p : Nat} {s : State} (h : Follows orig s) : Nexts (Follows orig) (execPktReleased p s) := by
  unfold Machine.execPktReleased
  refine h.runEvent fun _ h1 => h1.rxPacket fun _ _ h2 => ?_
  split
  · exact h2.setFixObj.foldl fun _ _ h3 => h3.setPart
  · exact h2

theorem Follows.partXlate {s : State} {part va sz : Nat} {p : Perm} (h : Follows orig s) : Follows orig (s.partXlate part va sz p).2 := by
  unfold State.partXlate
  extract_lets s1
  have hs1 : Follows orig s1 := h.walkReads
  split
  · exact hs1
  · exact hs1.recordBad
  · exact hs1
  · extract_lets s11
    have hs11 : Follows orig s11 := Follows.ite hs1.zeroFill hs1
    split
    · exact hs11
    · exact hs11

theorem Follows.remoteFault {s : State} {part a : Nat} {c : BitVec 8} (h : Follows orig s) : Follows orig (s.remoteFault part a c) :=
  h.pilotEvent

theorem Follows.remoteWrite {s : State} {part : Nat} {us : List (Nat × Nat)} {bs : List Byte} (h : Follows orig s) :
    Follows orig (s.remoteWrite part us bs) := by
  induction us generalizing s bs with
  | nil => exact h
  | cons u us ih =>
    have hx : Follows orig (s.partXlate part u.1 u.2 .w).2 := h.partXlate
    rw [State.remoteWrite]
    split
    next heq => exact (hx.of_snd heq).remoteFault
    next heq => exact ih ((hx.of_snd heq).paWrite)

theorem Follows.remoteFold {s : State} {part : Nat} {ty : ElTy} {refused : Option Nat} {a : Nat} {vs : List Nat} (h : Follows orig s) :
    Follows orig (s.remoteFold part ty refused a vs) := by
  induction vs generalizing s refused a with
  | nil => exact h
  | cons v vs ih =>
    have hx : Follows orig (s.partXlate part a (ty.bits / 8) .rw).2 := h.partXlate
    rw [State.remoteFold]
    split
    next heq => exact (hx.of_snd heq).remoteFault
    next s1 heq =>
      have hs1 : Follows orig s1 := hx.of_snd heq
      split
      next hfold => exact ih (Gives.of_eq hfold hs1.baseFold)
      next => exact ih (Follows.ite hs1 hs1.foldRefused)

theorem Follows.execPktRemoteWrite {p : Nat} {s : State} (h : Follows orig s) : Nexts (Follows orig) (execPktRemoteWrite p s) :=
  h.runEvent fun _ h1 => h1.rxPacket fun _ _ h => h.remoteWrite

theorem Follows.execPktRemoteFold {p : Nat} {s : State} (h : Follows orig s) : Nexts (Follows orig) (execPktRemoteFold p s) :=
  h.runEvent fun _ h1 => h1.rxPacket fun _ _ h2 => Follows.ite h2.remoteFold h2.remoteFault

theorem Follows.copyAcked {s : State} {c : Option (Nat × Nat × BitVec 16 × Nat)} (h : Follows orig s) : Follows orig (s.copyAcked c) := by
  unfold State.copyAcked
  split
  · exact h.setCore
  · exact h

theorem Follows.execPktE2eAck {p : Nat} {s : State} (h : Follows orig s) : Nexts (Follows orig) (execPktE2eAck p s) :=
  h.runEvent fun _ h1 => h1.rxPacket fun _ _ h2 => h2.setFlow.foldl fun _ _ h => h.copyAcked

theorem Follows.execE2eTimeout {dev vl : Nat} {s : State} (h : Follows orig s) : Nexts (Follows orig) (execE2eTimeout dev vl s) := by
  unfold Machine.execE2eTimeout
  refine h.runEvent fun _ h1 => ?_
  extract_lets _ s11
  have hs11 : Follows orig s11 := h1.setFlow
  split
  · trivial
  · split
    · trivial
    · exact Gives.ite trivial (hs11.foldl fun _ _ h => h.emit)

theorem Follows.departDev {s : State} {dev : Nat} (h : Follows orig s) : Follows orig (s.departDev dev) :=
  h.foldl fun _ _ h1 => h1.foldl fun _ _ h => h.depart

theorem Follows.execFlowLost {dev vl : Nat} {s : State} (h : Follows orig s) : Nexts (Follows orig) (execFlowLost dev vl s) := by
  unfold Machine.execFlowLost
  refine h.runEvent fun _ h1 => ?_
  extract_lets _
  split
  · trivial
  · split
    · exact h1.loseFlow.departDev
    · exact Gives.ite h1.loseFlow.departDev trivial

theorem Follows.execFlowReset {dev : Nat} {s : State} (h : Follows orig s) : Nexts (Follows orig) (execFlowReset dev s) :=
  h.runPilot fun _ h1 => (h1.foldl fun _ _ h2 => (h2.foldl fun _ _ h => h.loseCopy).setFlow).purge

theorem Follows.hubReset {s : State} {d part : Nat} (h : Follows orig s) : Follows orig (s.hubReset d part) := h.setHub.setReg

theorem Follows.execHubDrainTimeout {d part : Nat} {s : State} (h : Follows orig s) : Nexts (Follows orig) (execHubDrainTimeout d part s) :=
  by
  unfold Machine.execHubDrainTimeout
  refine h.runEvent fun _ hs => ?_
  split
  · trivial
  · refine Gives.ite (hs.foldl fun u p hu => Follows.ite hu ?_) trivial
    exact (hu.setPort.portCount.foldl fun _ _ hv => hv.giveBack).pumpPort

theorem Follows.execHubScrub {d part : Nat} {s : State} (h : Follows orig s) : Nexts (Follows orig) (execHubScrub d part s) := by
  unfold Machine.execHubScrub
  exact h.runEvent fun _ h1 => Gives.ite h1.setHub.setReg trivial

/-! ### Machine/HostVf.lean -/

theorem Follows.setVf {s : State} {v : Nat} {f : Vf} (h : Follows orig s) : Follows orig (s.setVf v f) := h

theorem Follows.setTdisp {s : State} {v n : Nat} (h : Follows orig s) : Follows orig (s.setTdisp v n) := h.setRegF

theorem Follows.enableVfs {s : State} {n : Nat} (h : Follows orig s) : Follows orig (s.enableVfs n) :=
  h.foldl fun _ _ h1 => Follows.ite (Follows.ite h1.setVf h1.setVf.setTdisp) h1

theorem Follows.answer {s : State} {a : Answer} (h : Follows orig s) : Follows orig (s.answer a) := h

theorem Follows.discardAll {s : State} {p : Nat} (h : Follows orig s) : Follows orig (s.discardAll p) := h.foldl fun _ _ h => h.setTcbSt

theorem Follows.stopChart {s : State} {p : Nat} (h : Follows orig s) : Follows orig (s.stopChart p) := h.setPart

theorem Follows.departCore {s : State} {n : Nat} (h : Follows orig s) : Follows orig (s.departCore n) := h.foldl fun _ _ h => h.depart

theorem Follows.dropQueued {s : State} {n : Nat} (h : Follows orig s) : Follows orig (s.dropQueued n) :=
  h.setCore.setOctet.foldl fun _ _ h1 => h1.setCore.retire

theorem Follows.stopCore {s : State} {n : Nat} (h : Follows orig s) : Follows orig (s.stopCore n) :=
  (h.foldl fun _ _ h => h.stopCtx).setCore

theorem Follows.resetSteps {s : State} {v : Nat} (h : Follows orig s) : Follows orig (s.resetSteps v) :=
  (((h.setRegF.setRegF.discardAll.stopChart.foldl fun _ _ h => h.departCore).foldl fun _ _ h => h.stopGang).foldl fun _ _ hu =>
    hu.stopCore.dropQueued).foldl fun _ _ h => h.hubReset

theorem Follows.startReset {s : State} {v : Nat} {unlock disable : Bool} (h : Follows orig s) :
    Follows orig (s.startReset v unlock disable) := Follows.ite h.setVf h.setVf.resetSteps

theorem Follows.setNumVfs {s : State} {n : Nat} (h : Follows orig s) : Follows orig (s.setNumVfs n) := by
  unfold State.setNumVfs
  extract_lets _ s1
  have hs1 : Follows orig s1 := enableVfs (h.same rfl)
  exact hs1.foldl fun _ _ h1 => .ite h1.startReset h1

theorem Follows.execNumvfsWrite {n : Nat} {s : State} (h : Follows orig s) : Nexts (Follows orig) (execNumvfsWrite n s) :=
  h.runEvent fun _ h1 => Gives.ite trivial (Gives.ite h1.setNumVfs (h1.same rfl))

theorem Follows.tdispRequest {s : State} {v : Nat} {takes : Bool} {done : State → State} (h : Follows orig s)
    (hdone : ∀ u, Follows orig u → Follows orig (done u)) :
    Gives (Follows orig) (s.tdispRequest v takes done) := Gives.ite trivial (Gives.ite (hdone _ h) h.answer)

theorem Follows.execLockInterfaceRequest {vf : Nat} {s : State} (h : Follows orig s) :
    Nexts (Follows orig) (execLockInterfaceRequest vf s) := h.runEvent fun _ h1 => h1.tdispRequest fun _ h2 => h2.setVf.setTdisp.answer

theorem Follows.execStartInterfaceRequest {vf : Nat} {s : State} (h : Follows orig s) :
    Nexts (Follows orig) (execStartInterfaceRequest vf s) := h.runEvent fun _ h1 => h1.tdispRequest fun _ h2 => h2.setTdisp.answer

theorem Follows.stopVf {s : State} {v : Nat} (h : Follows orig s) : Follows orig (s.stopVf v) := h.setVf.startReset

theorem Follows.execStopInterfaceRequest {vf : Nat} {s : State} (h : Follows orig s) :
    Nexts (Follows orig) (execStopInterfaceRequest vf s) :=
  h.runEvent fun _ h1 => h1.tdispRequest fun _ h2 => Follows.ite h2.setTdisp.answer h2.stopVf

theorem Follows.execGetDeviceInterfaceReport {vf : Nat} {s : State} (h : Follows orig s) :
    Nexts (Follows orig) (execGetDeviceInterfaceReport vf s) := h.runEvent fun _ h1 => h1.tdispRequest fun _ h => h.answer

theorem Follows.tdispQuery {s : State} {v : Nat} {q : TdispQuery} (h : Follows orig s) : Follows orig (s.tdispQuery v q) :=
  h.getD (h.tdispRequest fun _ h => h.answer)

theorem Follows.breach {s : State} {v : Nat} (h : Follows orig s) : Gives (Follows orig) (s.breach v) :=
  Gives.ite h.setTdisp.startReset trivial

theorem Follows.execLockedItemWrite {vf : Nat} {s : State} (h : Follows orig s) : Nexts (Follows orig) (execLockedItemWrite vf s) :=
  h.runEvent fun _ h => h.breach

theorem Follows.execIdeIntegrityFailure {vf : Nat} {s : State} (h : Follows orig s) : Nexts (Follows orig) (execIdeIntegrityFailure vf s) :=
  h.runEvent fun _ h => h.breach

theorem Follows.execFunctionLevelReset {vf : Nat} {s : State} (h : Follows orig s) : Nexts (Follows orig) (execFunctionLevelReset vf s) :=
  by
  unfold Machine.execFunctionLevelReset
  refine h.runEvent fun _ h1 => ?_
  split
  next heq => exact Gives.of_eq heq h1.breach
  · exact Gives.ite h1.startReset trivial

theorem Follows.clearPart {s : State} {p : Nat} (h : Follows orig s) : Follows orig (s.clearPart p) := by
  unfold State.clearPart
  extract_lets mine s1 clean oct die
  have hs1 : Follows orig s1 := h.foldl fun _ _ hu => .ite hu.setCore hu
  clear_value s1
  exact hs1.same rfl

theorem Follows.clearStack {s : State} {p : Nat} (h : Follows orig s) : Follows orig (s.clearStack p) := h.same rfl

theorem Follows.writeTables {s : State} {p : Nat} {t : Mem} (h : Follows orig s) : Follows orig (s.writeTables p t) := h.same rfl

theorem Follows.endReset {s : State} {v : Nat} (h : Follows orig s) : Follows orig (s.endReset v) := Follows.ite (h.same rfl) (h.same rfl)

theorem Follows.execPartitionResetComplete {part : Nat} {setup : ResetSetup} {s : State} (h : Follows orig s) :
    Nexts (Follows orig) (execPartitionResetComplete part setup s) := by
  unfold Machine.execPartitionResetComplete
  refine h.runEvent fun _ hs => Gives.ite trivial ?_
  extract_lets s1 s2 s3
  have hs1 : Follows orig s1 := hs.foldl fun _ _ h => h.freeCore
  have hs2 : Follows orig s2 := hs1.setPart.clearPart.clearStack
  have hs3 : Follows orig s3 := hs2.endReset.writeTables
  exact hs3.setReg.setReg

theorem Follows.execKeyLoad {vf slot : Nat} {key : BitVec 512} {s : State} (h : Follows orig s) :
    Nexts (Follows orig) (execKeyLoad vf slot key s) := h.runPilot fun _ h1 => Gives.ite trivial (h1.same rfl)

/-! ### Machine/Bringup.lean -/

theorem Follows.setStage {s : State} {n : Nat} (h : Follows orig s) : Follows orig (s.setStage n) := h.setRegF

theorem Follows.devBit {s : State} {bit : Nat} (h : Follows orig s) : Follows orig (s.devBit bit) := Follows.ite h h.setReg.msi

theorem Follows.failStep {s : State} {n : Nat} (h : Follows orig s) : Follows orig (s.failStep n) := h.setRegF.devBit

theorem Follows.afterReset {s : State} (h : Follows orig s) : Follows orig s.afterReset := h.stopped rfl rfl

theorem Follows.execPackageReset {s : State} (h : Follows orig s) : Nexts (Follows orig) (execPackageReset s) :=
  h.runEvent fun _ h => h.afterReset

theorem Follows.execPowerGood {s : State} (h : Follows orig s) : Nexts (Follows orig) (execPowerGood s) :=
  h.runEvent fun _ h1 => Gives.ite h1.setStage trivial

theorem Follows.execRailTimeout {s : State} (h : Follows orig s) : Nexts (Follows orig) (execRailTimeout s) :=
  h.runEvent fun _ h1 => Gives.ite h1.failStep trivial

theorem Follows.fenceHub {s : State} {d : Nat} (h : Follows orig s) : Follows orig (s.fenceHub d) := by
  unfold State.fenceHub
  split
  · exact h
  · extract_lets _ t
    have ht : Follows orig t := h.same rfl
    exact ht.foldl fun _ _ h1 => .ite h1 h1.portDown

theorem Follows.fenceStack {s : State} {k : Nat} (h : Follows orig s) : Follows orig (s.fenceStack k) := Follows.ite h (h.same rfl)

theorem Follows.reportHomeless {s t : State} {p : Nat} (h : Follows orig t) : Follows orig (s.reportHomeless t p) :=
  h.foldl fun _ _ h => h.report

theorem Follows.fenceOctet {s : State} {o : Nat} (h : Follows orig s) : Follows orig (s.fenceOctet o) := by
  unfold State.fenceOctet
  split
  · exact h
  · extract_lets _ t
    have ht : Follows orig t := h.same rfl
    exact ht.foldl fun _ _ h => h.reportHomeless

theorem Follows.execSelfCalibrationDone {ok : Bool} {bad : BadPhys} {s : State} (h : Follows orig s) :
    Nexts (Follows orig) (execSelfCalibrationDone ok bad s) :=
  h.runEvent fun _ h1 => Gives.ite trivial (Gives.ite h1.failStep
    (((h1.foldl fun _ _ h => h.fenceHub).foldl fun _ _ h => h.fenceStack).setStage))

theorem Follows.execHbmInitDone {ok : Bool} {s : State} (h : Follows orig s) : Nexts (Follows orig) (execHbmInitDone ok s) :=
  h.runEvent fun _ h1 => Gives.ite trivial (Gives.ite h1.failStep (h1.same rfl))

theorem Follows.enterRecovery {s : State} (h : Follows orig s) : Follows orig s.enterRecovery := by
  unfold State.enterRecovery
  extract_lets s1 _ s2
  have hs1 : Follows orig s1 := h.setNumVfs
  clear_value s1
  have hs2 : Follows orig s2 := hs1.stopped rfl rfl
  exact hs2.setReg.devBit

theorem State.bootImage_checked {s : State} {i : FwImage} (h : s.bootImage = some i) :
    i.signed = true ∧ i.lengthOk = true ∧ s.dev.fused ≤ i.version := by
  unfold State.bootImage at h
  split at h
  · split at h
    next hok =>
      cases Option.some.inj h
      simpa [and_assoc] using hok
    · cases h
  · cases h

theorem Follows.boots {s : State} {i : FwImage} {held : Bool} {kick : Option Nat} (h : Follows orig s) (hi : s.bootImage = some i) :
    Follows orig { s with dev := { s.dev with
      fused := if s.dev.fused ≤ i.version then i.version else s.dev.fused, running := some i, pilotHeld := held, kickAt := kick } } := by
  obtain ⟨hs, hl, hv⟩ := State.bootImage_checked hi
  rw [if_pos hv]
  exact h.booted hv rfl ⟨hs, hl, BitVec.le_refl _⟩

theorem Follows.execBootRomLoad {failing : List Nat} {s : State} (h : Follows orig s) : Nexts (Follows orig) (execBootRomLoad failing s) :=
  by
  unfold Machine.execBootRomLoad
  refine h.runEvent fun _ hs => ?_
  extract_lets _ _
  split
  · trivial
  · split
    · exact hs.enterRecovery
    next i hboot =>
      extract_lets s1 s2 old
      have hs1 : Follows orig s1 := hs.boots hboot
      have hs2 : Follows orig s2 := (hs1.foldl fun _ _ h => h.fenceOctet).setStage.devBit
      split
      · exact hs1
      · split
        · exact setNumVfs (hs2.same rfl)
        · exact hs2

theorem Follows.execPilotWdKick {s : State} (h : Follows orig s) : Nexts (Follows orig) (execPilotWdKick s) :=
  h.runEvent fun _ h1 => Gives.ite h1 trivial

theorem Follows.execPilotWatchdogExpiry {s : State} (h : Follows orig s) : Nexts (Follows orig) (execPilotWatchdogExpiry s) := by
  unfold Machine.execPilotWatchdogExpiry
  refine h.runEvent fun _ h1 => ?_
  split
  · exact Gives.ite trivial (devBit (h1.same rfl))
  · trivial

theorem Follows.setClock {s : State} {mhz : Nat} (h : Follows orig s) : Follows orig (s.setClock mhz) := Follows.ite h (h.same rfl)

theorem Follows.execPowerClampSample {avgWatts : Nat} {below1ms : Bool} {s : State} (h : Follows orig s) :
    Nexts (Follows orig) (execPowerClampSample avgWatts below1ms s) :=
  h.runEvent fun _ h1 => Gives.ite h1.setClock (Gives.ite h1.setClock trivial)

theorem Follows.execThermalLimit {hot : Bool} {s : State} (h : Follows orig s) : Nexts (Follows orig) (execThermalLimit hot s) :=
  h.runEvent fun _ h1 => Gives.ite trivial (Gives.ite (h1.same rfl) (h1.same rfl))

theorem Follows.execThermalTrip {s : State} (h : Follows orig s) : Nexts (Follows orig) (execThermalTrip s) :=
  h.runEvent fun _ h1 => h1.same rfl

/-! ### Machine/CodeLoad.lean -/

theorem Follows.frameWrite {s : State} {p fuel va : Nat} {bs : List Byte} (h : Follows orig s) : Follows orig (s.frameWrite p fuel va bs) :=
  by
  induction fuel generalizing s va bs with
  | zero => exact h
  | succ fuel ih =>
    refine Follows.ite h (ih ?_)
    split
    · exact (Follows.ite h.zeroFill h).paWrite
    · exact h

theorem Follows.frames {s : State} {p va : Nat} {bs : List Byte} (h : Follows orig s) : Follows orig (s.frames p va bs) := h.frameWrite

theorem Follows.writeImage {s : State} {p dst : Nat} {bs : List Byte} (h : Follows orig s) : Follows orig (s.writeImage p dst bs) :=
  h.foldl fun _ _ h => h.frames

theorem Follows.relocate {s : State} {p dst : Nat} {r : Reloc} (h : Follows orig s) : Follows orig (s.relocate p dst r) := h.frames

theorem Follows.writeTcb {s : State} {p dst : Nat} {r : TcbRec} (h : Follows orig s) : Follows orig (s.writeTcb p dst r) :=
  h.foldl fun _ _ h => h.setTcbW

theorem Follows.loadEnd {s : State} {v status : Nat} (h : Follows orig s) : Follows orig (s.loadEnd v status) := h.setVf.setRegF.setRegF

theorem Follows.execVfLoadGo {vf : Nat} {tee : Bool} {s : State} (h : Follows orig s) : Nexts (Follows orig) (execVfLoadGo vf tee s) :=
  h.runEvent fun _ h1 => Gives.ite trivial (Gives.ite h1.vfEvt (Gives.ite h1.setRegF h1.setVf.setRegF.setRegF))

theorem Follows.execCodeLoadComplete {vf : Nat} {hostReadOk : Bool} {s : State} (h : Follows orig s) :
    Nexts (Follows orig) (execCodeLoadComplete vf hostReadOk s) := by
  unfold Machine.execCodeLoadComplete
  refine h.runEvent fun _ h1 => ?_
  split
  · trivial
  · split
    · trivial
    · split
      · exact h1.loadEnd
      · extract_lets _ _ _ _ s11 s2 _ s3
        have hs3 : Follows orig s3 := ((h1.writeImage.foldl fun _ _ h => h.relocate).foldl fun _ _ h => h.writeTcb).setVf
        split
        · exact h1.loadEnd
        · exact hs3.loadEnd

/-! ### Machine/CopyRun.lean -/

theorem Follows.foldRow {s : State} {n : Nat} {ty : ElTy} {a : Nat} {es : List Nat} (h : Follows orig s) :
    Follows orig (s.foldRow n ty a es).2.2 := by
  unfold State.foldRow
  refine h.foldl_snd_snd fun _ _ h1 => ?_
  split
  · exact h1
  · split
    next heq1 => exact h1.engFold.of_snd heq1
    next heq1 => exact h1.engFold.of_snd heq1

theorem Follows.sendRow {s : State} {n ch : Nat} {c : Copy} {a : Nat} {bs : List Byte} {fold counted : Bool} (h : Follows orig s) :
    Follows orig (s.sendRow n ch c a bs fold counted) := h.foldl fun _ _ h => h.sendPacket

theorem Follows.putBytes {k : CopySt} {n ch : Nat} {c : Copy} {a : Nat} {bs : List Byte} {counted : Bool} (h : Follows orig k.s) :
    Follows orig (k.put n ch c a bs counted).s := by
  unfold CopySt.put
  extract_lets _
  split
  · exact h
  · split
    · split
      · exact h
      · exact h.sendRow
    · split
      · exact h
      · split
        · exact h
        · split
          · split
            next heq => exact h.foldRow.of_snd_snd heq
          · split
            next heq => exact h.engWrite.of_snd heq

theorem Follows.copyRow {k : CopySt} {n ch : Nat} {c : Copy} {r : Nat} (h : Follows orig k.s) : Follows orig (k.row n ch c r).s := by
  unfold CopySt.row
  extract_lets _ _ _
  split
  · exact h
  · split
    · split
      next heq => exact putBytes (h.engRead.of_snd heq)
      next heq =>
        extract_lets _ k1
        split
        · exact (putBytes (h.engRead.of_snd heq)).putBytes
        · exact putBytes (h.engRead.of_snd heq)
    · split
      · exact h.putBytes
      · exact h

theorem Follows.copyRows {n ch : Nat} {c : Copy} {m : Nat} {k : CopySt} (h : Follows orig k.s) : Follows orig (CopySt.rows n ch c m k).s :=
  by
  induction m with
  | zero => exact h
  | succ m ih => exact ih.copyRow

theorem Follows.commitRows {k : CopySt} {n : Nat} (h : Follows orig k.s) : Follows orig (k.commit n).s := by
  unfold CopySt.commit
  split
  · exact h
  · split
    · exact h
    · extract_lets _ _ _ s1
      have hs1 : Follows orig s1 := h.partFill
      split
      · exact h
      · exact hs1.setPart

theorem Follows.execCopyStart {n ch : Nat} {s : State} (h : Follows orig s) : Nexts (Follows orig) (execCopyStart n ch s) := by
  unfold Machine.execCopyStart
  refine h.runEvent fun _ hs => ?_
  extract_lets k
  split
  · trivial
  · refine Gives.ite trivial (Gives.ite ?_ (Gives.ite trivial ?_))
    · exact hs.setCore
    · extract_lets s1 r s2 after
      have hs1 : Follows orig s1 := hs.setCore
      have hr : Follows orig r.s := by
        dsimp only [r]
        split
        · exact hs1
        · exact (copyRows hs1).commitRows
      exact (Follows.ite hr.drain hr).setCore

theorem Follows.flagWrite {s : State} {n a : Nat} {v : Word} (h : Follows orig s) : Follows orig (s.flagWrite n a v).2 := by
  unfold State.flagWrite
  split
  next heq => exact h.engPlace.of_snd heq
  next heq => exact (h.engPlace.of_snd heq).settleLine.l2Write.l1Stale
  next heq1 => exact (h.engPlace.of_snd heq1).unitWrite

theorem Follows.execCopyComplete {n ch : Nat} {s : State} (h : Follows orig s) : Nexts (Follows orig) (execCopyComplete n ch s) := by
  unfold Machine.execCopyComplete
  refine h.runEvent fun _ hs => ?_
  split
  · trivial
  · extract_lets early flags
    refine Gives.ite trivial ?_
    split
    next cause s1 heq =>
      have hs1 : Follows orig s1 := by
        split at heq
        · exact hs.of_snd heq
        · split at heq
          · exact hs.of_snd heq
          · exact hs.flagWrite.of_snd heq
      exact (Follows.ite hs1.engineEvent hs1).setCore

/-! ### Machine/Dump.lean -/

theorem Follows.dumpFlush {s : State} {n : Nat} (h : Follows orig s) : Follows orig (s.dumpFlush n) := h.foldl fun _ _ h1 => h1.setCore

theorem Follows.dumpEnd {s : State} {part out : Nat} (h : Follows orig s) : Follows orig (s.dumpEnd part out) := h.same rfl

theorem Follows.dumpHeader {s : State} {d : Dump} (h : Follows orig s) : Follows orig (s.dumpHeader d) := h

theorem Follows.dumpNext {s : State} {d : Dump} (h : Follows orig s) : Follows orig (s.dumpNext d) := by
  unfold State.dumpNext
  extract_lets off t
  have ht : Follows orig t := h.dumpFlush
  clear_value t
  exact Follows.ite h.dumpHeader (Follows.ite h.dumpHeader (ht.same rfl))

theorem Follows.dumpStart {s : State} {part : Nat} {cause : BitVec 8} {haltId : Nat} (h : Follows orig s) :
    Follows orig (s.dumpStart part cause haltId) := Follows.ite h.dumpEnd h.dumpNext

theorem Follows.execCoreDumpStart {part : Nat} {cause : BitVec 8} {haltId : Nat} {s : State} (h : Follows orig s) :
    Nexts (Follows orig) (execCoreDumpStart part cause haltId s) :=
  h.runPilot fun _ h1 => Gives.ite (h1.same rfl) (Gives.ite h1.dumpStart trivial)

theorem Follows.dumpArm {s : State} (h : Follows orig s) : Follows orig s.dumpArm := by
  unfold State.dumpArm
  extract_lets s1 old
  have hs1 : Follows orig s1 := h.setReg
  split
  · exact dumpStart (hs1.same rfl)
  · exact hs1

theorem Follows.dumpFault {s : State} {d : Dump} {off : Nat} (h : Follows orig s) : Follows orig (s.dumpFault d off) :=
  Follows.ite h.dumpEnd h.dumpHeader

theorem Follows.execDumpRecordReadback {fault : Option Nat} {s : State} (h : Follows orig s) :
    Nexts (Follows orig) (execDumpRecordReadback fault s) := by
  unfold Machine.execDumpRecordReadback
  refine h.runEvent fun _ h1 => ?_
  split
  · trivial
  · exact Gives.ite h1.dumpFault trivial
  · exact Gives.ite h1.dumpEnd h1.dumpNext

theorem Follows.execDumpReadbackTimeout {off : Nat} {s : State} (h : Follows orig s) :
    Nexts (Follows orig) (execDumpReadbackTimeout off s) := by
  unfold Machine.execDumpReadbackTimeout
  refine h.runEvent fun _ h1 => ?_
  split
  · exact Gives.ite h1.dumpFault trivial
  · trivial

/-! ### Machine/Firmware.lean -/

theorem Follows.execFwUpdateGo {v : BitVec 64} {s : State} (h : Follows orig s) : Nexts (Follows orig) (execFwUpdateGo v s) :=
  h.runEvent fun _ h1 => Gives.ite h1.setReg.setReg trivial

theorem Follows.execFwUpdateComplete {image : FwImage} {flashOk : Bool} {s : State} (h : Follows orig s) :
    Nexts (Follows orig) (execFwUpdateComplete image flashOk s) :=
  h.runEvent fun _ hs => Gives.ite trivial (Follows.ite (hs.same rfl).afterReset (hs.same rfl))

/-! ### Machine/FloatArith.lean -/

theorem Follows.fpOp {i : Instr} {d : Opnd} {m : Mods} {s : State} {xs : List Opnd} {op : RndF → List FpNum → FpNum × BitVec 5}
    (h : Follows orig s) :
    Nexts (Follows orig) (fpOp i d m s xs op) :=
  h.runInstr fun _ => .bind (.mapM fun _ => .src) fun _ => .bind .getMy fun _ => .bind .raiseFlags fun _ => .bind .modMy fun _ => .dst

theorem Follows.execFmulz {d a b : Opnd} {m : Mods} {s : State} (h : Follows orig s) : Nexts (Follows orig) (execFmulz d a b m s) :=
  h.runInstr fun _ => .bind .src fun _ => .bind .src fun _ => .bind .getMy fun _ => .bind .raiseFlags fun _ => .bind .modMy fun _ => .dst

theorem Follows.fpMinMax {i : Instr} {d a b : Opnd} {m : Mods} {s : State} {wantMax : Bool} (h : Follows orig s) :
    Nexts (Follows orig) (fpMinMax i d a b m s wantMax) :=
  h.runInstr fun _ => .bind .src fun _ => .bind .src fun _ => .bind .raiseFlags fun _ => .dst

theorem Follows.fpBits {i : Instr} {d a : Opnd} {m : Mods} {s : State} {op : Nat → Nat → Nat} (h : Follows orig s) :
    Nexts (Follows orig) (fpBits i d a m s op) := h.runInstr fun _ => .bind .src fun _ => .dst

theorem Follows.execFcvt {d a : Opnd} {m : Mods} {s : State} (h : Follows orig s) : Nexts (Follows orig) (execFcvt d a m s) :=
  h.runInstr fun _ => .bind .src fun _ => .bind .getMy fun _ => .bind .raiseFlags fun _ => .bind .modMy fun _ => .dst

theorem Follows.execFcmpp {f : Fcc} {d : BitVec 3} {a b : Opnd} {m : Mods} {s : State} (h : Follows orig s) :
    Nexts (Follows orig) (execFcmpp f d a b m s) := by
  unfold Machine.execFcmpp
  exact h.runInstr fun _ => .bind .src fun _ => .bind .src fun _ => .bind .raiseFlags fun _ => .modMy

/-! ### Machine/IntArith.lean -/

theorem Follows.intBin {i : Instr} {d a b : Opnd} {m : Mods} {s : State} {op : Nat → Nat → Nat → Nat} (h : Follows orig s) :
    Nexts (Follows orig) (intBin i d a b m s op) := h.runInstr fun _ => .bind .src fun _ => .bind .src fun _ => .dst

theorem Follows.intUn {i : Instr} {d a : Opnd} {m : Mods} {s : State} {op : Nat → Nat → Nat} (h : Follows orig s) :
    Nexts (Follows orig) (intUn i d a m s op) := h.runInstr fun _ => .bind .src fun _ => .dst

theorem Follows.execAddi {d a : Opnd} {i : BitVec 10} {m : Mods} {s : State} (h : Follows orig s) :
    Nexts (Follows orig) (execAddi d a i m s) := h.runInstr fun _ => .bind .src fun _ => .dst

theorem Follows.execExt {d a b : Opnd} {m : Mods} {s : State} (h : Follows orig s) : Nexts (Follows orig) (execExt d a b m s) :=
  h.runInstr fun _ => .bind .src fun _ => .bind .src fun _ => .dst

theorem Follows.execIns {d a b : Opnd} {m : Mods} {s : State} (h : Follows orig s) : Nexts (Follows orig) (execIns d a b m s) :=
  h.runInstr fun _ => .bind .src fun _ => .bind .src fun _ => .bind .src fun _ => .dst

theorem Follows.execLea {d a b : Opnd} {m : Mods} {s : State} (h : Follows orig s) : Nexts (Follows orig) (execLea d a b m s) :=
  h.runInstr fun _ => .bind .src fun _ => .bind .src fun _ => .dst

theorem Follows.execCmpp {f : Cc} {d : BitVec 3} {a b : Opnd} {m : Mods} {s : State} (h : Follows orig s) :
    Nexts (Follows orig) (execCmpp f d a b m s) := h.runInstr fun _ => .bind .src fun _ => .bind .src fun _ => .modMy

theorem Follows.execSetc {f : Cc} {d a b : Opnd} {m : Mods} {s : State} (h : Follows orig s) :
    Nexts (Follows orig) (execSetc f d a b m s) := h.runInstr fun _ => .bind .src fun _ => .bind .src fun _ => .dst

theorem Follows.execSel {f : BitVec 3} {d a b : Opnd} {m : Mods} {s : State} (h : Follows orig s) :
    Nexts (Follows orig) (execSel f d a b m s) := by
  unfold Machine.execSel
  exact h.runInstr fun _ => .bind .src fun _ => .bind .src fun _ => .bind .getMy fun _ => .dst

/-! ### Machine/Probes.lean -/

theorem Follows.invalidate {s : State} {p : Nat} {v : Word} (h : Follows orig s) : Follows orig (s.invalidate p v) := h

theorem Follows.execMmuInv {part : Nat} {v : BitVec 64} {s : State} (h : Follows orig s) : Nexts (Follows orig) (execMmuInv part v s) :=
  h.runPilot fun _ h1 => Gives.ite h1.setReg.invalidate.setPart h1.setReg

theorem Follows.execMmuInvComplete {part : Nat} {s : State} (h : Follows orig s) : Nexts (Follows orig) (execMmuInvComplete part s) := by
  unfold Machine.execMmuInvComplete
  refine h.runEvent fun _ h1 => ?_
  split
  · trivial
  · exact .ite trivial h1.invalidate.setReg.setPart

theorem Follows.traceOff {s : State} {n : Nat} {v : Word} (h : Follows orig s) : Follows orig (s.traceOff n v) := h.setReg.setCore

theorem Follows.traceFull {s : State} {n : Nat} (h : Follows orig s) : Follows orig (s.traceFull n) := h.setRegF.setReg.setCore

theorem Follows.traceStep {s : State} {n : Nat} (h : Follows orig s) : Follows orig (s.traceStep n) :=
  .ite h.setRegF (.ite h.traceFull h.setRegF.setRegF)

theorem Follows.execTraceRecordWrite {core : Nat} {s : State} (h : Follows orig s) : Nexts (Follows orig) (execTraceRecordWrite core s) :=
  by
  unfold Machine.execTraceRecordWrite
  refine h.runEvent fun _ hs => ?_
  extract_lets c d pos old
  split
  · trivial
  · refine Gives.ite trivial ?_
    extract_lets s1 s2
    have hs2 : Follows orig s2 := hs.setDie.setCore.traceStep
    show Follows orig _
    split
    · exact .ite hs2.traceOff hs2
    · exact hs2

theorem Follows.execTrCtl {core : Nat} {v : BitVec 64} {s : State} (h : Follows orig s) : Nexts (Follows orig) (execTrCtl core v s) :=
  h.runPilot fun _ h1 => Gives.ite h1.setReg.setCore.traceHold (Gives.ite h1.setCore h1.traceOff)

theorem Follows.execWake {core : Nat} {v : BitVec 64} {s : State} (h : Follows orig s) : Nexts (Follows orig) (execWake core v s) := by
  unfold Machine.execWake
  exact h.runPilot fun _ h1 => Follows.ite h1.setReg.setReg h1.setReg

/-! ### Machine/Registers.lean -/

theorem Follows.linkWrite {s : State} {a : Nat} {v : Word} (h : Follows orig s) : Follows orig (s.linkWrite a v) := by
  unfold State.linkWrite
  extract_lets _ _ _ _ s1 old1
  have hs1 : Follows orig s1 := h.setReg
  split
  · exact Follows.ite h.dumpArm h
  · split
    · exact h.traceHold.setReg.traceHold
    · exact .ite (.ite hs1.setCore (Follows.ite hs1.unhideAll hs1)) (Follows.ite h (Follows.ite h (Follows.ite h hs1)))

theorem Follows.hostVfWrite {s : State} {tee : Bool} {a : Nat} {v : Word} (h : Follows orig s) :
    Gives (Follows orig) (s.hostVfWrite tee a v) := .ite trivial (Gives.ite trivial (Gives.ite h.breach h.linkWrite))

theorem Follows.execRegisterWrite {src : RegWriter} {addr : Nat} {v : BitVec 64} {s : State} (h : Follows orig s) :
    Nexts (Follows orig) (execRegisterWrite src addr v s) := by
  unfold Machine.execRegisterWrite
  refine h.runEvent fun _ h1 => ?_
  split
  · exact Gives.ite h1.linkWrite trivial
  · exact .ite h1.hostVfWrite (Gives.ite h1.linkWrite trivial)

/-! ### Machine/Rings.lean -/

theorem Follows.execVfArm {vf : Nat} {v : BitVec 64} {s : State} (h : Follows orig s) : Nexts (Follows orig) (execVfArm vf v s) :=
  h.runEvent fun _ h1 => Gives.ite trivial (Gives.ite h1.armRefused (Gives.ite h1.armRefused h1.newId.setPart))

theorem Follows.execVfCmplTail {vf : Nat} {v : BitVec 64} {s : State} (h : Follows orig s) : Nexts (Follows orig) (execVfCmplTail vf v s) :=
  h.runEvent fun _ h1 => Gives.ite h1.setReg trivial

theorem Follows.execVfCmplCtl {vf : Nat} {v : BitVec 64} {s : State} (h : Follows orig s) : Nexts (Follows orig) (execVfCmplCtl vf v s) :=
  h.runEvent fun _ h1 => Gives.ite trivial (Gives.ite h1.breach (Gives.ite h1.setReg.vfEvt h1.setReg))

theorem Follows.execCompletionRecordWrite {vf : Nat} {s : State} (h : Follows orig s) :
    Nexts (Follows orig) (execCompletionRecordWrite vf s) := by
  unfold Machine.execCompletionRecordWrite
  refine h.runEvent fun _ hs => ?_
  extract_lets p n head a
  split
  · trivial
  · exact Gives.ite trivial (hs.same rfl)

/-! ### Machine/Secure.lean -/

theorem Follows.execKeyExchange {fn : Nat} {version : BitVec 8} {s : State} (h : Follows orig s) :
    Nexts (Follows orig) (execKeyExchange fn version s) :=
  h.runEvent fun _ h1 => Gives.ite trivial (Gives.ite h1.answer (Gives.ite h1.answer (h1.same rfl)))

theorem Follows.execSpdmRequest {fn : Nat} {version : BitVec 8} {head : SpdmHead} {s : State} (h : Follows orig s) :
    Nexts (Follows orig) (execSpdmRequest fn version head s) := by
  unfold Machine.execSpdmRequest
  refine h.runEvent fun _ hs => Gives.ite trivial (Gives.ite hs.answer ?_)
  extract_lets old s1
  have hs1 : Follows orig s1 := .ite (hs.same rfl) hs
  exact hs1.answer

theorem Follows.execGetMeasurements {fn : Nat} {nonce : BitVec 256} {s : State} (h : Follows orig s) :
    Nexts (Follows orig) (execGetMeasurements fn nonce s) := h.runEvent fun _ h1 => Gives.ite h1.answer trivial

theorem Follows.execDieEvidenceTimeout {die : Nat} {s : State} (h : Follows orig s) : Nexts (Follows orig) (execDieEvidenceTimeout die s) :=
  by
  unfold Machine.execDieEvidenceTimeout
  refine h.runEvent fun _ h1 => ?_
  split
  · exact Gives.ite (h1.same rfl) trivial
  · trivial

end Sys2Proof.Machine
end

section
/-! PROOFS of the family 03_host, O60: the dispatch, issuing, what comes from outside, and the step. -/

namespace Sys2Proof.Machine

variable {orig : State}

/-! ### Machine/Dispatch.lean -/

theorem Follows.exec {i : Instr} {s : State} (h : Follows orig s) : Nexts (Follows orig) (exec i s) := by
  unfold Machine.exec
  cases i with
  | add | sub | and | or | xor | andn | shl | shr | sar | ror | min | max | mul | mulh | div | rem => exact h.intBin
  | clz | ctz | popc | brev => exact h.intUn
  | ext => exact h.execExt
  | ins => exact h.execIns
  | lea => exact h.execLea
  | mov => exact h.intUn
  | addi => exact h.execAddi
  | cmpp => exact h.execCmpp
  | setc => exact h.execSetc
  | sel => exact h.execSel
  | fadd | fsub | fmul => exact h.fpOp
  | fmulz => exact h.execFmulz
  | fdiv => exact h.fpOp
  | fmin | fmax => exact h.fpMinMax
  | fma | fsqrt => exact h.fpOp
  | fneg | fabs | fclass => exact h.fpBits
  | fcvt => exact h.execFcvt
  | fcmpp => exact h.execFcmpp
  | pand | por | pxor => exact h.predBin
  | pnot => exact h.execPnot
  | ppack => exact h.execPpack
  | punpk => exact h.execPunpk
  | br => exact h.execBr
  | jmp => exact h.execJmp
  | call => exact h.execCall
  | jmpr => exact h.execJmpr
  | callr => exact h.execCallr
  | ret => exact h.execRet
  | enter => exact h.execEnter
  | leave => exact h.execLeave
  | nop => exact h.execNop
  | halt => exact h.execHalt
  | trap => exact h.execTrap
  | sysc => exact h.execSysc
  | eret => exact h.execEret
  | loop => exact h.execLoop
  | hstart => exact h.execHstart
  | hjoin => exact h.execHjoin
  | hexit => exact h.execHexit
  | cid => exact h.execCid
  | mcrd => exact h.execMcrd
  | yield => exact h.execYield
  | srd => exact h.execSrd
  | swr => exact h.execSwr
  | wspx => exact h.execWspx
  | qstat => exact h.execQstat
  | qflush => exact h.execQflush
  | tlbi => exact h.execTlbi
  | bkpt => exact h.execBkpt
  | prog => exact h.execProg
  | trace => exact h.execTrace
  | ckset => exact h.execCkset
  | ld => exact h.execLd
  | st => exact h.execSt
  | ldx => exact h.execLdx
  | stx => exact h.execStx
  | lda => exact h.execLda
  | stl => exact h.execStl
  | pref | cwb | cinv | cdisc | czero => exact h.cacheOp
  | ifence => exact h.execIfence
  | fence => exact h.execFence
  | waita => exact h.execWaita
  | aadd | aand | aor | axor | amin | amax | aswp | afadd => exact h.amo
  | acas => exact h.execAcas
  | binit => exact h.execBinit
  | barr => exact h.execBarr
  | bwait => exact h.execBwait
  | barw => exact h.execBarw
  | bstat => exact h.execBstat
  | roseb => exact h.execRoseb
  | roseq => exact h.execRoseq
  | rosex => exact h.execRosex
  | msend => exact h.execMsend
  | msendr => exact h.execMsendr
  | mrecv => exact h.execMrecv
  | mrecvr => exact h.execMrecvr
  | mbind => exact h.execMbind
  | mstat => exact h.execMstat
  | ttgo => exact h.execTtgo
  | ttsend => exact h.execTtsend
  | ttrecv => exact h.execTtrecv
  | ttend => exact h.execTtend
  | ttq => exact h.execTtq
  | fxdef => exact h.execFxdef
  | fxjoin => exact h.execFxjoin
  | fxc => exact h.execFxc
  | fxw => exact h.execFxw
  | fxq => exact h.execFxq
  | fxlv => exact h.execFxlv
  | xtpl => exact h.execXtpl
  | xst => exact h.execXst
  | xcan => exact h.execXcan
  | xstat => exact h.execXstat
  | charm => exact h.execCharm
  | chdec => exact h.execChdec
  | chpatch => exact h.execChpatch
  | chcard => exact h.execChcard
  | chdone => exact h.execChdone
  | chq => exact h.execChq
  | vadd | vsub | vmul | vmulz | vfma | vmin | vmax => exact h.rowInstr
  | vsacc => exact h.execVsacc
  | vand | vor | vxor | vshl | vshr | vsar | vabs | vneg | vcmp | vsel | vcvt | vmov => exact h.rowInstr
  | viota => exact h.execViota
  | vbcast => exact h.execVbcast
  | vextr => exact h.execVextr
  | vins => exact h.execVins
  | vred | vscan => exact h.redIssue
  | vperm => exact h.rowInstr
  | vsf => exact h.execVsf
  | vmk => exact h.rowInstr
  | vmpop => exact h.execVmpop
  | vfence => exact h.execVfence
  | vld => exact h.execVld
  | vst => exact h.execVst
  | vlds => exact h.execVlds
  | vsts => exact h.execVsts
  | vgath => exact h.execVgath
  | vscat => exact h.execVscat
  | mwld => exact h.execMwld
  | mma => exact h.tileIssue
  | mmag => exact h.execMmag
  | mmap => exact h.tileIssue
  | mupl => exact h.execMupl
  | mzero => exact h.execMzero
  | mtr => exact h.execMtr
  | mst | mld => exact h.moveIssue
  | msacc => exact h.execMsacc
  | mfence => exact h.execMfence
  | mstatMatrix => exact h.execMstatMatrix
  | illegalEncoding => exact h.execIllegalEncoding
  | haltOnWithheld => exact h.execHaltOnWithheld
  | waitLimitExpiry => exact h.execWaitLimitExpiry
  | waitaPoll => exact h.execWaitaPoll
  | placementAttempt => exact h.execPlacementAttempt
  | kernelEntry => exact h.execKernelEntry
  | gangRetire => exact h.execGangRetire
  | graceExpiry => exact h.execGraceExpiry
  | taskWatchdogExpiry => exact h.execTaskWatchdogExpiry
  | checkpointImageWrite => exact h.execCheckpointImageWrite
  | checkpointCommit => exact h.execCheckpointCommit
  | matrixGrant => exact h.execMatrixGrant
  | matrixCommandComplete => exact h.execMatrixCommandComplete
  | mmagMeeting => exact h.execMmagMeeting
  | vectorEngineStart => exact h.execVectorEngineStart
  | vectorEngineComplete => exact h.execVectorEngineComplete
  | sfuRequestStart => exact h.execSfuRequestStart
  | sfuResult => exact h.execSfuResult
  | copyStart => exact h.execCopyStart
  | copyComplete => exact h.execCopyComplete
  | mainFileWriteback => exact h.execMainFileWriteback
  | meshAccessArrival => exact h.execMeshAccessArrival
  | pageWalkComplete => exact h.execPageWalkComplete
  | zeroOnFirstTouch => exact h.execZeroOnFirstTouch
  | messageSend => exact h.execMessageSend
  | messageArrival => exact h.execMessageArrival
  | allowanceReturn => exact h.execAllowanceReturn
  | mailboxGrant => exact h.execMailboxGrant
  | mbindComplete => exact h.execMbindComplete
  | barrierArrival => exact h.execBarrierArrival
  | barrierRelease => exact h.execBarrierRelease
  | timetableRelease => exact h.execTimetableRelease
  | timetableWordArrival => exact h.execTimetableWordArrival
  | timetableEnd => exact h.execTimetableEnd
  | fixContributionArrival => exact h.execFixContributionArrival
  | nearMemoryFold => exact h.execNearMemoryFold
  | pktFixContribution => exact h.execPktFixContribution
  | pktFixResult => exact h.execPktFixResult
  | pktRemoteWrite => exact h.execPktRemoteWrite
  | pktRemoteFold => exact h.execPktRemoteFold
  | pktE2eAck => exact h.execPktE2eAck
  | pktWithheld => exact h.execPktWithheld
  | pktReleased => exact h.execPktReleased
  | e2eTimeout => exact h.execE2eTimeout
  | flowLost => exact h.execFlowLost
  | hubDrainTimeout => exact h.execHubDrainTimeout
  | hubScrub => exact h.execHubScrub
  | completionRecordWrite => exact h.execCompletionRecordWrite
  | mmuInvComplete => exact h.execMmuInvComplete
  | chainedRelease => exact h.execChainedRelease
  | traceRecordWrite => exact h.execTraceRecordWrite
  | soundingPause => exact h.execSoundingPause
  | timetableOffsetReached => exact h.execTimetableOffsetReached
  | memoryAccessArrival => exact h.execMemoryAccessArrival
  | accessResponseReturn => exact h.execAccessResponseReturn
  | breakpointHalt => exact h.execBreakpointHalt
  | chrPreempt => exact h.execChrPreempt
  | faultResolution => exact h.execFaultResolution
  | rxDataFlit => exact h.execRxDataFlit
  | rxNakFlit => exact h.execRxNakFlit
  | rxCreditFlit => exact h.execRxCreditFlit
  | rxIdleFlit => exact h.execRxIdleFlit
  | laneFail => exact h.execLaneFail
  | trainingAttemptEnd => exact h.execTrainingAttemptEnd
  | trainingTimeout => exact h.execTrainingTimeout
  | flowReset => exact h.execFlowReset
  | linkEn => exact h.execLinkEn
  | linkRetrain => exact h.execLinkRetrain
  | packageReset => exact h.execPackageReset
  | powerGood => exact h.execPowerGood
  | railTimeout => exact h.execRailTimeout
  | selfCalibrationDone => exact h.execSelfCalibrationDone
  | hbmInitDone => exact h.execHbmInitDone
  | bootRomLoad => exact h.execBootRomLoad
  | powerClampSample => exact h.execPowerClampSample
  | thermalLimit => exact h.execThermalLimit
  | thermalTrip => exact h.execThermalTrip
  | pilotWdKick => exact h.execPilotWdKick
  | pilotWatchdogExpiry => exact h.execPilotWatchdogExpiry
  | numvfsWrite => exact h.execNumvfsWrite
  | lockInterfaceRequest => exact h.execLockInterfaceRequest
  | startInterfaceRequest => exact h.execStartInterfaceRequest
  | stopInterfaceRequest => exact h.execStopInterfaceRequest
  | getDeviceInterfaceReport => exact h.execGetDeviceInterfaceReport
  | lockedItemWrite => exact h.execLockedItemWrite
  | ideIntegrityFailure => exact h.execIdeIntegrityFailure
  | functionLevelReset => exact h.execFunctionLevelReset
  | partitionResetComplete => exact h.execPartitionResetComplete
  | getMeasurements => exact h.execGetMeasurements
  | dieEvidenceTimeout => exact h.execDieEvidenceTimeout
  | keyExchange => exact h.execKeyExchange
  | keyLoad => exact h.execKeyLoad
  | vfArm => exact h.execVfArm
  | vfCmplTail => exact h.execVfCmplTail
  | vfCmplCtl => exact h.execVfCmplCtl
  | vfLoadGo => exact h.execVfLoadGo
  | codeLoadComplete => exact h.execCodeLoadComplete
  | fwUpdateGo => exact h.execFwUpdateGo
  | fwUpdateComplete => exact h.execFwUpdateComplete
  | coreDumpStart => exact h.execCoreDumpStart
  | dumpRecordReadback => exact h.execDumpRecordReadback
  | dumpReadbackTimeout => exact h.execDumpReadbackTimeout
  | mmuInv => exact h.execMmuInv
  | haltRequest => exact h.execHaltRequest
  | haltRelease => exact h.execHaltRelease
  | haltKill => exact h.execHaltKill
  | trCtl => exact h.execTrCtl
  | wake => exact h.execWake
  | soundingGo => exact h.execSoundingGo
  | soundingStop => exact h.execSoundingStop
  | registerWrite => exact h.execRegisterWrite
  | spdmRequest => exact h.execSpdmRequest

/-! ### Machine/Issue.lean -/

theorem Follows.serveDelay {s : State} {n x : Nat} (h : Follows orig s) : Follows orig (s.serveDelay n x) := h.setCtx

theorem Follows.around {s t : State} {n x : Nat} {i : Instr} (h : Follows orig s) (ht : Follows orig t) : Follows orig (s.around t n x i) :=
  by
  unfold State.around
  extract_lets _
  split
  · exact Follows.ite ht ht.afterIssue
  · split
    · exact ht
    · split
      · exact h
      · split
        · exact h.serveDelay
        · split
          · exact Follows.ite h h.breakAt
          · exact ht.afterIssue.sndIssue

theorem Sem.KeepsFw.nextInstr : Sem.KeepsFw orig nextInstr := by
  unfold Machine.nextInstr
  intro s h
  beta_reduce
  split
  · exact h
  · exact Sem.KeepsFw.fetchInstr _ h

theorem Follows.runNext {s : State} {n x : Nat} (h : Follows orig s) : Nexts (Follows orig) (s.runNext n x) := by
  have hfetch : EndsFw orig (Machine.nextInstr s) := Sem.KeepsFw.nextInstr s h
  unfold State.runNext
  extract_lets k fails
  have hfails : ∀ c f, Follows orig (fails c f) := fun _ _ => Follows.ite h (Follows.ite h.serveDelay h.raiseIn)
  split
  next i s1 heq =>
    have hs1 : Follows orig s1 := EndsFw.ok_of_eq heq hfetch
    have hexec : Nexts (Follows orig) (Machine.exec i s1) := hs1.exec
    split
    next t hnext => exact hs1.around (Nexts.of_eq hnext hexec)
    next => exact hexec
  next heq => exact EndsFw.error_of_eq heq hfetch _ h
  next heq => exact EndsFw.error_of_eq heq hfetch _ h
  next => exact hfails _ _
  next => exact hfails _ _
  next => exact h

theorem Follows.loseSlot {s : State} {n x : Nat} (h : Follows orig s) : Follows orig (s.loseSlot n x) := by
  unfold State.loseSlot
  split
  · exact h
  · split
    · split
      · exact Follows.ite h.serveDelay h
      · exact h
    · exact h

theorem Follows.finishHalt {s : State} {n x : Nat} {c : BitVec 8} {pc : Word} {u : Option Upstream} (h : Follows orig s) :
    Follows orig (s.finishHalt n x c pc u) := Follows.ite h.releaseCtx h.haltEnd

theorem Follows.issue {s0 : State} {n x : Nat} (h : Follows orig s0) : Nexts (Follows orig) (s0.issue n x) := by
  unfold State.issue
  extract_lets s _
  have hs : Follows orig s := h
  split
  · exact hs
  · split
    · exact hs.kill
    · split
      · exact hs
      · split
        · exact Follows.ite hs.finishHalt hs
        · split
          next heq4 => exact Gives.of_eq heq4 hs.takeStop
          · exact .ite hs.haltNow (.ite hs (.ite (Follows.ite hs.raiseIn hs) (Nexts.ite hs.runNext hs.loseSlot)))

/-! ### Machine/Outside.lean -/

theorem Follows.badSymbol {s : State} {sector sym : Nat} (h : Follows orig s) : Follows orig (s.badSymbol sector sym) := Follows.ite h h

theorem Follows.putEntries {s : State} {at_ : Nat} {es : List Word} (h : Follows orig s) : Follows orig (s.putEntries at_ es) := h.paWrite

theorem Follows.splitPage {s : State} {t : TlbEnt} {entry va table : Nat} (h : Follows orig s) :
    Follows orig (s.splitPage t entry va table).1 := by
  unfold State.splitPage
  extract_lets e group s1 base s2
  have hs2 : Follows orig s2 := (Follows.ite h.putEntries h).putEntries
  split
  · exact h
  · split
    · dsimp only
      exact h.putEntries
    · dsimp only
      exact hs2.putEntries

theorem Follows.copyOut {s : State} {g frame : Nat} {key : Option Nat} (h : Follows orig s) : Follows orig (s.copyOut g frame key) :=
  h.foldl fun _ _ hu => Follows.ite hu hu.l2Write

theorem Follows.retirePage {s : State} {p va table : Nat} {spare : Option Nat} (h : Follows orig s) :
    Follows orig (s.retirePage p va table spare) := by
  unfold State.retirePage
  split
  · extract_lets g own
    refine Follows.ite h ?_
    split
    next s1 leaf heq =>
      extract_lets s2 e s3
      have hs2 : Follows orig s2 := (h.splitPage.of_fst heq).invalidate
      have hs3 : Follows orig s3 := by
        unfold s3
        split
        · exact (Follows.ite hs2 hs2.copyOut).putEntries
        · exact hs2.putEntries
      exact hs3.report
  · exact h

theorem Follows.fenceLink {s : State} {a b : Nat} (h : Follows orig s) : Follows orig (s.fenceLink a b) := Follows.ite h (h.same rfl)

theorem Follows.notice {s : State} {e : Nat × Word × Word} (h : Follows orig s) : Follows orig (s.notice e) := Follows.ite (h.same rfl) h

theorem Follows.assign {s : State} {p : Nat} {on : Bool} (h : Follows orig s) : Follows orig (s.assign p on) :=
  .ite h (.ite h.setVf.enableVfs (Follows.ite h.setVf.startReset h.setVf))

theorem Follows.vfConfig {s : State} {v : Nat} {bar0 : Word} {memEn : Bool} {table : List Word} (h : Follows orig s) :
    Follows orig (s.vfConfig v bar0 memEn table) := .ite (h.getD h.breach) h.setVf

theorem Follows.pilotWrite {s : State} {p va : Nat} {bs : List Byte} (h : Follows orig s) : Follows orig (s.pilotWrite p va bs) :=
  .ite h h.frames.setPart

theorem Follows.forgetFix {s : State} {f : Nat → Bool} (h : Follows orig s) : Follows orig (s.forgetFix f) := h

theorem Follows.remoteFix {s : State} {fx : BitVec 32} {d : Line} {table : List Word} {alg : Alg} {p : Nat} (h : Follows orig s) :
    Follows orig (s.remoteFix fx d table alg p) := .ite h (h.forgetFix.setFixObj.foldl fun _ _ h => h.openBuffer)

theorem Follows.remoteDepart {s : State} {fx : BitVec 32} {r : Nat} (h : Follows orig s) : Follows orig (s.remoteDepart fx r) := by
  unfold State.remoteDepart
  split
  · exact Follows.ite h h.depart
  · exact h

theorem Follows.byPilot {s : State} {f : State → State} (h : Follows orig s) (hf : ∀ u, Follows orig u → Follows orig (f u)) :
    Follows orig (s.byPilot f) := Follows.ite (hf _ h) h

theorem Follows.outside {s : State} {o : Outside} (h : Follows orig s) : Follows orig (s.outside o) := by
  unfold State.outside
  split
  · exact h.badSymbol
  · exact h.byPilot fun _ h => h.retirePage
  · exact h.byPilot fun _ h => h.fenceOctet
  · exact h.byPilot fun _ h => h.fenceHub
  · exact h.byPilot fun _ h => h.fenceStack
  · exact h.byPilot fun _ h => h.fenceLink
  · exact h.byPilot fun _ h => h.notice
  · exact h.byPilot fun _ h => h.assign
  · exact Follows.ite h.vfConfig h
  · exact h.tdispQuery
  · exact h.byPilot fun _ h1 => h1.setPart
  · exact h
  · exact h.byPilot fun _ h => h.pilotWrite
  · exact h.byPilot fun _ h => h.paWrite
  · exact h.setPort
  · exact h.remoteFix
  · exact Follows.ite h h.forgetFix
  · exact h.remoteDepart

/-! ### Machine/Agenda.lean -/

theorem Follows.make {s : State} {m : Move} (h : Follows orig s) : Nexts (Follows orig) (s.make m) := by
  unfold State.make
  split
  · exact h
  · split
    · exact h.issue
    · exact Nexts.ite h.exec h
    · exact h.outside
    · exact h.tick

/-! ### Machine/Step.lean -/

theorem Follows.step {s : State} (h : Follows orig s) : Nexts (Follows orig) (step s) := by
  unfold Machine.step
  split
  · exact Nexts.ite (h.same rfl) trivial
  · exact make (h.same rfl)

theorem Follows.refl {s : State} : Follows s s := ⟨BitVec.le_refl _, id⟩

end Sys2Proof.Machine
end

section
/-! PROOFS of the family 03_host, O60: every step keeps the firmware that runs a checked one. -/

namespace Sys2Proof.Machine

/-- Settles O60: whatever is made at a step, its answer follows the state before it. -/
theorem firmwareStaysChecked : Obligations.FirmwareStaysChecked := by
  unfold Obligations.FirmwareStaysChecked
  intro s t hstep
  exact Nexts.of_eq hstep (Follows.step .refl)

end Sys2Proof.Machine
end

section
/-! PROOFS of the family 03_host, O50. Core dumps (R64, R65): how a dump ends, what the header's write does, and what each event of a
dump answers. -/

namespace Sys2Proof.Machine

/-! ### The end and the header -/

/-- The dump has ended with an outcome: DUMP_PART, DUMP_OUT, ARM cleared and PF vector 1. -/
def State.DumpEnded (s t : State) (part out : Nat) : Prop :=
  t.regF 0 16 4 = part ∧ t.regF 0 20 4 = out ∧ t.reg 0x210 = 0 ∧ t.dev.dump = none ∧ t.dev.msix = s.dev.msix ++ [(0, 1)] ∧
    t.hostMem = s.hostMem

/-- The header of a dump has been written, with a flag added and an offset. -/
def State.HeaderWritten (s t : State) (d : Dump) (extra off : Nat) : Prop :=
  let e : Dump := { d with flags := d.flags + extra, faultOff := off }
  t.hostMem = s.hostMem.setBytes d.base e.headBytes ∧ t.dev.dump = some { e with header := true, reads := [56] } ∧ t.regs = s.regs

theorem readBacks_header : readBacks 0 64 = [56] := by decide

theorem readBacks_firstRecord : readBacks 64 8192 = [4088, 8184, 8248] := by decide

variable {s : State} {part out : Nat} {d : Dump}

theorem State.dumpEnd_ended (hp : part < 16) (ho : out < 16) : s.DumpEnded (s.dumpEnd part out) part out := by
  have hreg : (s.dumpEnd part out).reg 0 = ((s.setRegF 0 16 4 part).setRegF 0 20 4 out).reg 0 :=
    State.setReg_reg_other _ dumpCtl 0 (by decide)
  refine ⟨?_, ?_, State.setReg_reg_same _ dumpCtl 0, rfl, rfl, rfl⟩
  · rw [State.regF, hreg]
    exact (State.regF_setRegF_disjoint _ 0 out (by decide) (.inl (by decide))).trans
      ((State.regF_setRegF_same _ _ _ (by decide)).trans (Nat.mod_eq_of_lt hp))
  · rw [State.regF, hreg]
    exact (State.regF_setRegF_same _ _ _ (by decide)).trans (Nat.mod_eq_of_lt ho)

theorem State.dumpHeader_written (extra off : Nat) :
    s.HeaderWritten (s.dumpHeader { d with flags := d.flags + extra, faultOff := off }) d extra off := by
  unfold State.HeaderWritten State.dumpHeader
  rw [readBacks_header]
  dsimp only
  exact ⟨rfl, rfl, rfl⟩

/-! ### The next record -/

/-- Writing the latches and the cached words of a core back changes cores alone. -/
theorem State.dumpFlush_hostMem (n : Nat) : (s.dumpFlush n).hostMem = s.hostMem := by
  unfold State.dumpFlush
  refine foldl_keeps State.hostMem (fun _ _ => ?_) _ _
  rfl

theorem State.dumpNext_record {off : Nat} (hoff : off = 64 + d.recs * 8192) (hr : d.recs ≠ 128) (hs : off + 8192 ≤ d.size) :
    (s.dumpNext d).hostMem = s.hostMem.setBytes (d.base + off)
      ((s.dumpFlush (partCore d.part d.recs)).dumpRecord (partCore d.part d.recs)) ∧
    (s.dumpNext d).cores = (s.dumpFlush (partCore d.part d.recs)).cores ∧
    (s.dumpNext d).dev.dump = some { d with reads := readBacks off 8192 } := by
  unfold State.dumpNext
  rw [← hoff, if_neg hr, if_neg (Nat.not_lt.2 hs)]
  dsimp only
  rw [State.dumpFlush_hostMem]
  exact ⟨rfl, rfl, rfl⟩

theorem State.dumpNext_short {off : Nat} (hoff : off = 64 + d.recs * 8192) (hr : d.recs ≠ 128) (hs : d.size < off + 8192) :
    s.dumpNext d = s.dumpHeader { d with flags := d.flags + 1 } := by
  unfold State.dumpNext
  rw [← hoff, if_neg hr, if_pos hs]

theorem State.dumpNext_last (hr : d.recs = 128) : s.dumpNext d = s.dumpHeader d := if_pos hr

/-! ### CORE_DUMP_START -/

variable {cause : BitVec 8} {h : Nat}

theorem exec_coreDumpStart_held (hp : s.pilotRuns = false) : exec (.coreDumpStart part cause h) s = .next s := by
  change execCoreDumpStart part cause h s = _
  simp [execCoreDumpStart, runPilot, runEvent, hp]

theorem exec_coreDumpStart (hp : s.pilotRuns = true) (hd : s.dev.dump = none) (harm : (s.reg 0x210).getLsbD 0 = true) :
    exec (.coreDumpStart part cause h) s = .next (s.dumpStart part cause h) := by
  change execCoreDumpStart part cause h s = _
  simp [execCoreDumpStart, dumpCtl, runPilot, runEvent, hp, hd, harm]

theorem exec_coreDumpStart_waits (hp : s.pilotRuns = true) (hd : s.dev.dump ≠ none) :
    exec (.coreDumpStart part cause h) s =
      .next { s with dev := { s.dev with dumpQueue := s.dev.dumpQueue ++ [(part, cause, h)] } } := by
  change execCoreDumpStart part cause h s = _
  simp [execCoreDumpStart, runPilot, runEvent, hp, Option.isSome_iff_ne_none.2 hd]

theorem State.dumpStart_next (hs : 64 ≤ s.regF 0x208 0 32) : s.dumpStart part cause h =
    s.dumpNext { part := part, cause := cause, haltId := h, base := (s.reg 0x200).toNat, size := s.regF 0x208 0 32 } :=
  if_neg (Nat.not_lt.2 hs)

theorem State.dumpStart_small (hs : s.regF 0x208 0 32 < 64) : s.dumpStart part cause h = s.dumpEnd part 3 := if_pos hs

/-! ### The read-backs -/

theorem exec_dumpRecordReadback (hd : s.dev.dump = some d) (hh : d.header = false) :
    exec (.dumpRecordReadback none) s = .next (s.dumpNext { d with recs := d.recs + 1 }) := by
  change execDumpRecordReadback none s = _
  simp [execDumpRecordReadback, runEvent, hd, hh]

theorem exec_dumpRecordReadback_header (hd : s.dev.dump = some d) (hh : d.header = true) :
    exec (.dumpRecordReadback none) s = .next (s.dumpEnd d.part (if d.flags = 0 then 1 else 2)) := by
  change execDumpRecordReadback none s = _
  simp [execDumpRecordReadback, runEvent, hd, hh]

theorem exec_dumpRecordReadback_fails {off : Nat} (hd : s.dev.dump = some d) (hoff : off ∈ d.reads) :
    exec (.dumpRecordReadback (some off)) s = .next (s.dumpFault d off) := by
  change execDumpRecordReadback (some off) s = _
  simp [execDumpRecordReadback, runEvent, hd, hoff]

theorem exec_dumpReadbackTimeout {off : Nat} (hd : s.dev.dump = some d) (hoff : off ∈ d.reads) :
    exec (.dumpReadbackTimeout off) s = .next (s.dumpFault d off) := by
  change execDumpReadbackTimeout off s = _
  simp [execDumpReadbackTimeout, runEvent, hd, hoff]

theorem State.dumpFault_record {off : Nat} (hh : d.header = false) : s.HeaderWritten (s.dumpFault d off) d 2 off := by
  unfold State.dumpFault
  rw [hh]
  exact State.dumpHeader_written 2 off

theorem State.dumpFault_header {off : Nat} (hh : d.header = true) (hp : d.part < 16) :
    s.DumpEnded (s.dumpFault d off) d.part 3 := by
  unfold State.dumpFault
  rw [if_pos hh]
  exact State.dumpEnd_ended hp (by decide)

end Sys2Proof.Machine
end

section
/-! PROOFS of the family 03_host, O50: the statement. -/

namespace Sys2Proof.Machine

/-- Settles O50: each event of a dump is the start, the next record, the header or the end of one. -/
theorem coreDumps : Obligations.CoreDumps := by
  unfold Obligations.CoreDumps
  intro s part cause h hpart size base ends header
  refine ⟨exec_coreDumpStart_held, fun hp hd harm => ⟨fun hs => ?_, fun hs hsize => ?_, fun hs => ?_⟩,
    fun hp hd => ⟨_, exec_coreDumpStart_waits hp hd, rfl, rfl⟩, fun d hd hpt => ⟨fun hh => ⟨?_, ?_, ?_, ?_⟩, fun hh => ⟨?_, ?_⟩⟩⟩
  · refine ⟨_, exec_coreDumpStart hp hd harm, ?_⟩
    rw [State.dumpStart_next (Nat.le_trans (Nat.le_add_right _ _) hs), ← readBacks_firstRecord]
    exact State.dumpNext_record (off := 64) (by simp) (by simp) hs
  · refine ⟨_, exec_coreDumpStart hp hd harm, ?_⟩
    rw [State.dumpStart_next hs, State.dumpNext_short (off := 64) (by simp) (by simp) hsize]
    exact ⟨State.dumpHeader_written 1 0, rfl⟩
  · refine ⟨_, exec_coreDumpStart hp hd harm, ?_⟩
    rw [State.dumpStart_small hs]
    exact State.dumpEnd_ended (by omega) (by decide)
  · intro hr hs
    refine ⟨_, exec_dumpRecordReadback hd hh, ?_⟩
    obtain ⟨hmem, hcores, -⟩ := State.dumpNext_record (s := s) (d := { d with recs := d.recs + 1 }) rfl (by dsimp only; omega)
      (by dsimp only; omega)
    exact ⟨hmem.trans (by rw [Nat.add_assoc]), hcores⟩
  · intro hr hs
    refine ⟨_, exec_dumpRecordReadback hd hh, ?_⟩
    rw [State.dumpNext_short rfl (by dsimp only; omega) (by dsimp only; omega)]
    exact State.dumpHeader_written 1 d.faultOff
  · intro hr
    have hall : d.recs + 1 = 128 := by omega
    refine ⟨_, exec_dumpRecordReadback hd hh, ?_⟩
    rw [hall, State.dumpNext_last rfl]
    exact State.dumpHeader_written (d := { d with recs := 128 }) 0 d.faultOff
  · exact fun off hoff => ⟨⟨_, exec_dumpRecordReadback_fails hd hoff, State.dumpFault_record hh⟩,
      _, exec_dumpReadbackTimeout hd hoff, State.dumpFault_record hh⟩
  · refine ⟨_, exec_dumpRecordReadback_header hd hh, ?_⟩
    rw [hpt]
    exact State.dumpEnd_ended (by omega) (by split <;> decide)
  · subst hpt
    have hp : d.part < 16 := by omega
    exact fun off hoff => ⟨⟨_, exec_dumpRecordReadback_fails hd hoff, State.dumpFault_header hh hp⟩,
      _, exec_dumpReadbackTimeout hd hoff, State.dumpFault_header hh hp⟩

end Sys2Proof.Machine
end

section
/-! PROOFS of the family 03_host, O46. The update of pilot firmware's image (R56 to R58): how it starts, what it ends with, and what a
good image does in recovery. -/

namespace Sys2Proof.Machine

variable {s : State} {i : FwImage} {ok : Bool}

theorem exec_fwUpdateGo {v : Word} (hv : v.getLsbD 0 = true) (hgo : (s.reg 0x50).getLsbD 0 = false) :
    exec (.fwUpdateGo v) s = .next ((s.setReg 0x50 1).setReg 0x58 1) := by
  change execFwUpdateGo v s = _
  unfold execFwUpdateGo runEvent fwCmd
  simp only [hv, hgo]
  rfl

/-- The flash after an update that ends with a code. -/
def State.flashAfter (s : State) (i : FwImage) (code : Nat) : Option FwImage :=
  if code = 2 then some (s.fetched i) else if code = 6 then none else s.dev.flash

/-- The state in which an update ends with a code: GO reads 0, FW_STAT holds the code, and PF vector 0 goes out. -/
def State.updateEnds (s : State) (i : FwImage) (code : Nat) : State :=
  (({ s with dev := { s.dev with flash := s.flashAfter i code } }.setReg fwCmd 0).setReg fwStat (BitVec.ofNat 64 code)).msi 0 0

theorem State.updateEnds_stat (code : Nat) : (s.updateEnds i code).reg 0x58 = BitVec.ofNat 64 code := State.setReg_reg_same _ 0x58 _

theorem State.updateEnds_cmd (code : Nat) : (s.updateEnds i code).reg 0x50 = 0 :=
  (State.setReg_reg_other _ 0x58 _ (by decide)).trans (State.setReg_reg_same _ 0x50 _)

theorem State.fwCode_eq : s.fwCode i ok =
    if i.lengthOk = false ∨ 0x8000000 < s.regF 0x48 0 28 then 5 else if i.signed = false then 3
    else if i.version < s.dev.fused then 4 else if ok then 2 else 6 := by
  unfold State.fwCode
  cases ok <;> simp

theorem State.fwCode_good (hl : i.lengthOk = true) (hn : s.regF 0x48 0 28 ≤ 0x8000000) (hs : i.signed = true)
    (hv : s.dev.fused ≤ i.version) : s.fwCode i true = 2 := by
  simp [State.fwCode, hl, hs, Nat.not_lt.2 hn, BitVec.not_lt.2 hv]

section
variable (hgo : (s.reg 0x50).getLsbD 0 = true)
include hgo

theorem exec_fwUpdateComplete (hrec : s.recovery = false) (hready : s.ready = true) (hheld : s.dev.pilotHeld = false) :
    exec (.fwUpdateComplete i ok) s = .next (s.updateEnds i (s.fwCode i ok)) := by
  change execFwUpdateComplete i ok s = _
  have hruns : (s.ready && !s.dev.pilotHeld) = true := by simp [hready, hheld]
  unfold execFwUpdateComplete runEvent fwCmd
  simp only [hgo, hruns, hrec]
  rfl

theorem exec_fwUpdateComplete_recovery (hrec : s.recovery = true) (hcode : s.fwCode i ok = 2) :
    exec (.fwUpdateComplete i ok) s = .next (s.updateEnds i 2).afterReset := by
  change execFwUpdateComplete i ok s = _
  unfold execFwUpdateComplete runEvent fwCmd
  simp only [hgo, hrec, hcode]
  rfl

end

end Sys2Proof.Machine
end

section
/-! PROOFS of the family 03_host, O46. The SPDM responder (R49, R50): what each request is answered. -/

namespace Sys2Proof.Machine

/-- A step that only gives an answer, with its signature. -/
def State.Replies (s : State) (j : Instr) (a : Answer) : Prop :=
  ∃ t, exec j s = .next t ∧ t.dev.answers = s.dev.answers ++ [(a, Config.dieSign 12 (Config.sha512 a.bytes))] ∧ t.regs = s.regs

theorem State.replies_of {s : State} {j : Instr} {a : Answer} (h : exec j s = .next (s.answer a)) : s.Replies j a := ⟨_, h, rfl, rfl⟩

section
variable {s : State} {fn : Nat} (hr : s.responds fn = true)
include hr

theorem exec_keyExchange_version {v : BitVec 8} (hv : v ≠ 19#8) :
    exec (.keyExchange fn v) s = .next (s.answer (.versionMismatch fn)) := by
  change execKeyExchange fn v s = _
  simp [execKeyExchange, runEvent, spdm13, hr, hv]

theorem exec_keyExchange_full (hn : 4 ≤ AMap.getD s.dev.sessions fn 0) :
    exec (.keyExchange fn 0x13) s = .next (s.answer (.sessionLimit fn)) := by
  change execKeyExchange fn 0x13 s = _
  simp [execKeyExchange, runEvent, spdm13, hr, hn]

theorem exec_keyExchange (hn : AMap.getD s.dev.sessions fn 0 < 4) :
    exec (.keyExchange fn 0x13) s = .next ({ s with dev := { s.dev with
      sessions := AMap.set s.dev.sessions fn (AMap.getD s.dev.sessions fn 0 + 1) } }.answer (.reply fn 0xE4)) := by
  change execKeyExchange fn 0x13 s = _
  simp [execKeyExchange, runEvent, spdm13, hr, Nat.not_le.2 hn]

theorem exec_spdmRequest_version {v : BitVec 8} (hv : v ≠ 19#8) (head : SpdmHead) :
    exec (.spdmRequest fn v head) s = .next (s.answer (.versionMismatch fn)) := by
  change execSpdmRequest fn v head s = _
  simp [execSpdmRequest, runEvent, spdm13, hr, hv]

theorem exec_spdmRequest_end (q : BitVec 8) :
    exec (.spdmRequest fn 0x13 ⟨0xEC, q⟩) s = .next ({ s with dev := { s.dev with
      sessions := AMap.set s.dev.sessions fn (AMap.getD s.dev.sessions fn 0 - 1) } }.answer (spdmAnswer fn 0xEC q)) := by
  change execSpdmRequest fn 0x13 ⟨0xEC, q⟩ s = _
  simp [execSpdmRequest, runEvent, spdm13, hr]

theorem exec_spdmRequest {c : BitVec 8} (hc : c ≠ 236#8) (q : BitVec 8) :
    exec (.spdmRequest fn 0x13 ⟨c, q⟩) s = .next (s.answer (spdmAnswer fn c q)) := by
  change execSpdmRequest fn 0x13 ⟨c, q⟩ s = _
  simp [execSpdmRequest, runEvent, spdm13, hr, hc]

theorem exec_getMeasurements (nonce : BitVec 256) :
    exec (.getMeasurements fn nonce) s = .next (s.answer (.measurements fn nonce (s.blocks fn nonce))) := by
  change execGetMeasurements fn nonce s = _
  simp [execGetMeasurements, runEvent, hr]

end

theorem State.responds_iff {s : State} {fn : Nat} : s.responds fn = true ↔
    (s.reg 0).getLsbD 0 = true ∧ s.dev.pilotHeld = false ∧ (fn = 0 ∨ (s.vf fn).enabled = true) := by
  simp [State.responds, State.ready, and_assoc]

/-- The blocks of a function's responder are numbered from 1; a VF's has one more than the PF's. -/
theorem State.blocks_index (s : State) (fn : Nat) (nonce : BitVec 256) :
    (s.blocks fn nonce).map Block.index = (List.range (if fn = 0 then 16 else 17)).map (· + 1) := by
  have hdies : ((List.range 12).map fun d => dieBlock (5 + d) d nonce).map Block.index = (List.range 12).map (5 + ·) := by
    simp [dieBlock, Function.comp_def]
  unfold State.blocks
  rw [List.map_append, List.map_append, hdies]
  by_cases h : fn = 0
  · rw [if_pos h, if_pos h]; rfl
  · rw [if_neg h, if_neg h]; rfl

/-- A die's evidence that is late loses its signature. -/
theorem exec_dieEvidenceTimeout {s : State} {rest : List (Answer × BitVec 1056)} {fn d : Nat} {nonce : BitVec 256} {bs : List Block}
    {g : BitVec 1056} (hd : d < 12) (ha : s.dev.answers = rest ++ [(.measurements fn nonce bs, g)]) :
    exec (.dieEvidenceTimeout d) s =
      .next ({ s with dev := { s.dev with answers := rest } }.answer ((Answer.measurements fn nonce bs).blank d)) := by
  change execDieEvidenceTimeout d s = _
  simp [execDieEvidenceTimeout, runEvent, ha, hd]

end Sys2Proof.Machine
end

section
/-! PROOFS of the family 03_host, O46. Key loads (R51): the register that tells a partition's generation and loaded slots. -/

namespace Sys2Proof.Machine

/-- The word of a generation and of the slots loaded. -/
def keyWord (g loaded : Nat) : Word := BitVec.ofNat 64 (g * 2 ^ 32 + loaded)

theorem bitsOf_keyWord {g loaded : Nat} (hg : g < 2 ^ 32) (hl : loaded < 2 ^ 32) : bitsOf (keyWord g loaded) 32 32 = g := by
  rw [bitsOf, keyWord, BitVec.toNat_ofNat]
  omega

theorem getLsbD_keyWord {g loaded j : Nat} (hl : loaded < 2 ^ 32) (hj : j < 32) : (keyWord g loaded).getLsbD j = loaded.testBit j := by
  rw [keyWord, BitVec.getLsbD_ofNat, Nat.mul_comm, Nat.testBit_two_pow_mul_add _ hl, if_pos hj]
  simp [show j < 64 by omega]

variable {s : State} {fn slot : Nat} {key : BitVec 512}

theorem exec_keyLoad_held (h : s.dev.pilotHeld = true) : exec (.keyLoad fn slot key) s = .next s := by
  change execKeyLoad fn slot key s = _
  simp [execKeyLoad, runPilot, runEvent, State.pilotRuns, h]

/-- The slots loaded once one more is. -/
def State.loadedWith (s : State) (p slot : Nat) : Nat := bitsOf (s.reg (Pf.keyStat p) ||| BitVec.ofNat 64 (2 ^ slot)) 0 16

theorem State.loadedWith_lt (p : Nat) : s.loadedWith p slot < 2 ^ 32 := Nat.lt_trans (bitsOf_lt _ 0 16) (by decide)

theorem State.testBit_loadedWith (p : Nat) {j : Nat} (hs : slot < 16) (hj : j < 16) :
    (s.loadedWith p slot).testBit j = ((s.reg (Pf.keyStat p)).getLsbD j || decide (j = slot)) := by
  rw [State.loadedWith, testBit_bitsOf, Nat.zero_add, getLsbD_or_two_pow _ (by omega)]
  simp [hj]

theorem exec_keyLoad (hheld : s.dev.pilotHeld = false) (hup : s.vfUp fn = true) (hst : s.tdisp fn = 0) (hslot : slot < 16)
    (hn : AMap.getD s.dev.sessions fn 0 ≠ 0) :
    let k := (fn - 1) * 16 + slot
    let g := (AMap.getD s.keyGen k 0 + 1) % 2 ^ 32
    exec (.keyLoad fn slot key) s = .next ({ s with keyGen := AMap.set s.keyGen k g, keys := AMap.set s.keys k key }.setReg
      (Pf.keyStat (fn - 1)) (keyWord g (s.loadedWith (fn - 1) slot))) := by
  have hready : s.ready = true := by
    by_contra hno
    simp [State.vfUp, hno] at hup
  change execKeyLoad fn slot key s = _
  simp [execKeyLoad, runPilot, runEvent, State.pilotRuns, hready, hheld, hup, hst, Nat.not_le.2 hslot, hn, keyWord, State.loadedWith]

end Sys2Proof.Machine
end

section
/-! PROOFS of the family 03_host, O46: the statement. -/

namespace Sys2Proof.Machine

/-- Settles O46: each of the updates, requests and key loads is one of the cases above. -/
theorem firmwareUpdatesAndSessions : Obligations.FirmwareUpdatesAndSessions := by
  unfold Obligations.FirmwareUpdatesAndSessions
  intro s fn i nonce resp n replies got
  refine ⟨fun v => exec_fwUpdateGo, fun ok hgo hrec hready hheld => ?_, fun hgo hrec hl hn hs hv => ?_, fun hresp => ?_,
    fun rest bs g d hd ha => ⟨_, exec_dieEvidenceTimeout hd ha, rfl⟩, fun slot key => ⟨exec_keyLoad_held, fun hheld hup hst hslot hn => ?_⟩⟩
  · intro code
    have hcode : s.fwCode i ok = code := State.fwCode_eq
    refine ⟨_, exec_fwUpdateComplete hgo hrec hready hheld, ?_⟩
    rw [hcode]
    exact ⟨State.updateEnds_stat code, State.updateEnds_cmd code, rfl, rfl, rfl⟩
  · exact ⟨_, exec_fwUpdateComplete_recovery hgo hrec (State.fwCode_good hl hn hs hv), rfl, (State.afterReset_trip _).2, rfl⟩
  · have hr : s.responds fn = true := State.responds_iff.2 hresp
    refine ⟨fun v hv => ⟨State.replies_of (exec_keyExchange_version hr hv),
        fun c q => State.replies_of (exec_spdmRequest_version hr hv ⟨c, q⟩)⟩,
      fun hn => State.replies_of (exec_keyExchange_full hr hn),
      fun hn => ⟨_, exec_keyExchange hr hn, AMap.getD_set_same .., by simp [State.answer]⟩,
      fun q => ⟨_, exec_spdmRequest_end hr q, AMap.getD_set_same ..⟩,
      fun q => ⟨State.replies_of (exec_spdmRequest hr (by decide) q), State.replies_of (exec_spdmRequest hr (by decide) q),
        fun c hc => State.replies_of (exec_spdmRequest hr hc q)⟩,
      State.replies_of (exec_getMeasurements hr nonce), State.blocks_index s fn nonce⟩
  · refine ⟨_, exec_keyLoad hheld hup hst hslot hn, AMap.get?_set_same .., ?_, ?_, fun j hj hne => ?_⟩
    · rw [State.regF, State.setReg_reg_same]
      exact bitsOf_keyWord (Nat.mod_lt _ (by decide)) (State.loadedWith_lt _)
    · rw [State.setReg_reg_same, getLsbD_keyWord (State.loadedWith_lt _) (by omega), State.testBit_loadedWith _ hslot hslot]
      simp
    · rw [State.setReg_reg_same, getLsbD_keyWord (State.loadedWith_lt _) (by omega), State.testBit_loadedWith _ hslot hj]
      simp [hne]

end Sys2Proof.Machine
end

section
/-! PROOFS of the family 03_host, O47. The virtual functions and the TDISP states (R47, R48): a VF and a VF's state after a write, what
NumVFs enables, and what each request is answered. -/

namespace Sys2Proof.Machine

/-! ### A VF and its TDISP state after a write -/

section
variable (s : State) (v : Nat) (f : Vf) (n : Nat)

@[simp] theorem State.setVf_vf_same : (s.setVf v f).vf v = f := AMap.getD_set_same ..
@[simp] theorem State.setVf_tdisp (w : Nat) : (s.setVf v f).tdisp w = s.tdisp w := rfl
@[simp] theorem State.setTdisp_vf (w : Nat) : (s.setTdisp v n).vf w = s.vf w := rfl
theorem State.setVf_vf_other {w : Nat} (h : w ≠ v) : (s.setVf v f).vf w = s.vf w := AMap.getD_set_other _ _ _ h

theorem State.setTdisp_tdisp_same {n : Nat} (h : n < 4) : (s.setTdisp v n).tdisp v = n :=
  (State.regF_setRegF_same s _ n (by decide)).trans (Nat.mod_eq_of_lt h)

theorem State.setTdisp_tdisp_other {w : Nat} (h : w ≠ v) : (s.setTdisp v n).tdisp w = s.tdisp w :=
  State.setRegF_regF_other s _ _ _ _ _ _ (by unfold Pf.vf; omega)

end

/-! ### NumVFs (R47) -/

/-- What NumVFs n does with one VF. -/
def State.enableVf (n : Nat) (s : State) (v : Nat) : State :=
  let f := s.vf v
  if v ≤ n ∧ f.assigned then (if f.enabled then s.setVf v { f with disable := false } else (s.setVf v { f with enabled := true }).setTdisp v 0)
  else s

theorem State.enableVfs_eq (s : State) (n : Nat) : s.enableVfs n = ((List.range 8).map (· + 1)).foldl (State.enableVf n) s := rfl

theorem State.enableVf_other (s : State) (n : Nat) {v w : Nat} (h : w ≠ v) :
    (s.enableVf n v).vf w = s.vf w ∧ (s.enableVf n v).tdisp w = s.tdisp w := by
  unfold State.enableVf
  dsimp only
  split
  · split
    · exact ⟨State.setVf_vf_other _ _ _ h, rfl⟩
    · exact ⟨State.setVf_vf_other _ _ _ h, State.setTdisp_tdisp_other _ _ _ h⟩
  · exact ⟨rfl, rfl⟩

theorem State.enableVf_same (s : State) (n v : Nat) :
    ((s.enableVf n v).vf v).assigned = (s.vf v).assigned ∧
    (((s.enableVf n v).vf v).enabled = true ↔ (s.vf v).enabled = true ∨ v ≤ n ∧ (s.vf v).assigned = true) ∧
    (((s.vf v).enabled = true → s.tdisp v = 0) → ((s.enableVf n v).vf v).enabled = true → (s.enableVf n v).tdisp v = 0) := by
  unfold State.enableVf
  dsimp only
  split
  next h =>
    split
    next he => exact ⟨by simp, by simp [he], fun h0 _ => h0 he⟩
    next => exact ⟨by simp, by simp [h], fun _ _ => State.setTdisp_tdisp_same _ _ (by decide)⟩
  next h => exact ⟨rfl, ⟨.inl, fun h' => h'.resolve_right h⟩, id⟩

/-- NumVFs enables the VFs up to it that have a tenant, and what it enables is unlocked. -/
theorem State.foldl_enableVf (n w : Nat) (l : List Nat) (s : State) :
    ((l.foldl (State.enableVf n) s).vf w).assigned = (s.vf w).assigned ∧
    (((l.foldl (State.enableVf n) s).vf w).enabled = true ↔ (s.vf w).enabled = true ∨ w ∈ l ∧ w ≤ n ∧ (s.vf w).assigned = true) ∧
    (((s.vf w).enabled = true → s.tdisp w = 0) → ((l.foldl (State.enableVf n) s).vf w).enabled = true →
      (l.foldl (State.enableVf n) s).tdisp w = 0) := by
  induction l generalizing s with
  | nil => simp
  | cons v l ih =>
    obtain ⟨ha, he, ht⟩ := ih (s.enableVf n v)
    rw [List.foldl_cons]
    by_cases h : w = v
    · subst h
      obtain ⟨ha', he', ht'⟩ := s.enableVf_same n w
      refine ⟨ha.trans ha', ?_, fun h0 => ht (ht' h0)⟩
      rw [he, he', ha', List.mem_cons]
      simp only [true_or, true_and]
      exact ⟨fun h => h.elim id fun h => .inr h.2, .inl⟩
    · obtain ⟨hv, htd⟩ := s.enableVf_other n h
      rw [hv] at ha he ht
      rw [htd] at ht
      refine ⟨ha, ?_, ht⟩
      rw [he, List.mem_cons]
      simp [h]

/-- Where no VF is enabled, NumVFs starts no reset. -/
theorem State.setNumVfs_fresh {s : State} {n : Nat} (h : ∀ w, (s.vf w).enabled = false) :
    s.setNumVfs n = { s with dev := { s.dev with numVfs := n } }.enableVfs n := by
  unfold State.setNumVfs
  refine List.foldl_fixed' (fun w => if_neg ?_) _
  rintro ⟨hn, he⟩
  have hnone : ({ s with dev := { s.dev with numVfs := n } } : State).vf w = s.vf w := rfl
  rw [State.enableVfs_eq, (State.foldl_enableVf n w _ _).2.1, hnone, h w] at he
  rcases he with he | ⟨-, hle, -⟩
  · cases he
  · omega

theorem State.enableVfs_numVfs (s : State) (n : Nat) : (s.enableVfs n).dev.numVfs = s.dev.numVfs := by
  refine foldl_keeps (fun t : State => t.dev.numVfs) (fun t v => ?_) _ s
  dsimp only
  split
  · split <;> rfl
  · rfl

section
variable {s : State} {n : Nat} (hn : n ≤ 8)
include hn

theorem exec_numvfsWrite_held (hr : (s.reg 0).getLsbD 0 = false) :
    exec (.numvfsWrite n) s = .next { s with dev := { s.dev with heldVfs := some n } } := by
  change execNumvfsWrite n s = _
  unfold execNumvfsWrite runEvent State.ready
  dsimp only
  rw [if_neg (Nat.not_lt.2 hn), hr]
  rfl

theorem exec_numvfsWrite (hr : (s.reg 0).getLsbD 0 = true) : exec (.numvfsWrite n) s = .next (s.setNumVfs n) := by
  change execNumvfsWrite n s = _
  unfold execNumvfsWrite runEvent State.ready
  dsimp only
  rw [if_neg (Nat.not_lt.2 hn), hr]
  rfl

end

/-! ### TDISP requests (R48) -/

section
variable {s : State} {v : Nat} (hp : s.pilotRuns = true) (he : (s.vf v).enabled = true)
include hp he

/-- A request of an enabled VF while pilot firmware runs. -/
theorem State.tdispRequest_eq (takes : Bool) (done : State → State) :
    s.tdispRequest v takes done = some (if takes then done s else s.answer (.stateError v)) := by
  unfold State.tdispRequest
  rw [hp, he]
  cases takes <;> rfl

theorem exec_lock : exec (.lockInterfaceRequest v) s = .next (if s.vfUp v && decide (s.tdisp v = 0) then
    ((s.setVf v { s.vf v with lockCfg := s.lockedItems v }).setTdisp v 1).answer (.locked v) else s.answer (.stateError v)) := by
  change execLockInterfaceRequest v s = _
  unfold execLockInterfaceRequest runEvent
  dsimp only
  rw [State.tdispRequest_eq hp he]
  rfl

theorem exec_start : exec (.startInterfaceRequest v) s = .next (if s.vfUp v && decide (s.tdisp v = 1) then
    (s.setTdisp v 2).answer (.started v) else s.answer (.stateError v)) := by
  change execStartInterfaceRequest v s = _
  unfold execStartInterfaceRequest runEvent
  dsimp only
  rw [State.tdispRequest_eq hp he]
  rfl

theorem exec_stop : exec (.stopInterfaceRequest v) s = .next (if (s.tdisp v = 0 || s.tdisp v = 3) && !(s.vf v).resetting then
    (s.setTdisp v 0).answer (.stopped v) else s.stopVf v) := by
  change execStopInterfaceRequest v s = _
  unfold execStopInterfaceRequest runEvent
  dsimp only
  rw [State.tdispRequest_eq hp he]
  rfl

theorem exec_report : exec (.getDeviceInterfaceReport v) s = .next (if s.tdisp v = 1 || s.tdisp v = 2 then
    s.answer (.report v 0x10000 0x080) else s.answer (.stateError v)) := by
  change execGetDeviceInterfaceReport v s = _
  unfold execGetDeviceInterfaceReport runEvent
  dsimp only
  rw [State.tdispRequest_eq hp he]
  rfl

theorem State.tdispQuery_eq (q : TdispQuery) : s.tdispQuery v q = s.answer (match q with
    | .version => .tdispVersion v 0x10 | .capabilities => .tdispCapabilities v | .state => .interfaceState v (s.tdisp v)) := by
  unfold State.tdispQuery
  rw [State.tdispRequest_eq hp he]
  rfl

end

/-! ### Breaches and resets that start (R48, R63) -/

theorem State.breach_unlocked {s : State} {v : Nat} (h : s.tdisp v = 0 ∨ s.tdisp v = 3) : s.breach v = none := by
  unfold State.breach
  refine if_neg ?_
  rcases h with h | h <;> simp [h]

section
variable {s : State} {v : Nat} (he : (s.vf v).enabled = true)
include he

theorem State.breach_locked (h : s.tdisp v = 1 ∨ s.tdisp v = 2) : s.breach v = some ((s.setTdisp v 3).startReset v false false) := by
  unfold State.breach
  exact if_pos (by simpa [he] using h)

theorem exec_breach (h : s.tdisp v = 1 ∨ s.tdisp v = 2) :
    ∀ i ∈ [Instr.lockedItemWrite v, .ideIntegrityFailure v, .functionLevelReset v],
      exec i s = .next ((s.setTdisp v 3).startReset v false false) := by
  have hb := State.breach_locked he h
  simp only [List.forall_mem_cons, List.not_mem_nil, false_implies, implies_true, and_true]
  refine ⟨?_, ?_, ?_⟩
  · change execLockedItemWrite v s = _
    simp [execLockedItemWrite, runEvent, hb]
  · change execIdeIntegrityFailure v s = _
    simp [execIdeIntegrityFailure, runEvent, hb]
  · change execFunctionLevelReset v s = _
    simp [execFunctionLevelReset, runEvent, hb]

theorem exec_functionLevelReset (h : s.tdisp v = 0 ∨ s.tdisp v = 3) :
    exec (.functionLevelReset v) s = .next (s.startReset v false false) := by
  change execFunctionLevelReset v s = _
  simp [execFunctionLevelReset, runEvent, State.breach_unlocked h, he]

end

theorem State.startReset_again {s : State} {v : Nat} (u d : Bool) (h : (s.vf v).resetting = true) :
    s.startReset v u d =
      s.setVf v { s.vf v with unlock := (s.vf v).unlock || u, disable := (s.vf v).disable || d, load := none } := by
  unfold State.startReset
  rw [if_pos h, ← h]

end Sys2Proof.Machine
end

section
/-! PROOFS of the family 03_host, O47. The end of a partition reset (R63, R51): what steps 6 to 8 leave, and what they clear. -/

namespace Sys2Proof.Machine

/-! ### Reads of a store and of a memory without some of their entries -/

theorem AMap.get?_filter {α : Type} (f : Nat → Bool) (m : AMap α) (k : Nat) :
    AMap.get? (m.filter (fun e => f e.1)) k = if f k then AMap.get? m k else none := by
  induction m with
  | nil => simp [AMap.get?]
  | cons e m ih =>
    obtain ⟨j, a⟩ := e
    rw [List.filter_cons]
    by_cases hj : j = k
    · subst hj
      split
      next => rw [AMap.get?, if_pos rfl, AMap.get?, if_pos rfl]
      next hf => rw [ih, if_neg hf]
    · split
      · rw [AMap.get?, if_neg hj, ih, AMap.get?, if_neg hj]
      · rw [ih, AMap.get?, if_neg hj]

theorem Mem.get_zero (m : Mem) (a n x : Nat) : (m.zero a n).get x = if a ≤ x ∧ x < a + n then 0 else m.get x := by
  induction m with
  | nil => simp [Mem.zero, Mem.get, Mem.unlisted]
  | cons e m ih =>
    obtain ⟨j, b⟩ := e
    unfold Mem.zero at ih ⊢
    by_cases hj : j = x
    · subst hj
      by_cases hin : a ≤ j ∧ j < a + n
      · rw [List.filter_cons_of_neg (by simpa using hin), ih, if_pos hin, if_pos hin]
      · rw [List.filter_cons_of_pos (by simpa [or_iff_not_imp_left] using hin), Mem.get, if_pos rfl, if_neg hin, Mem.get, if_pos rfl]
    · rw [List.filter_cons]
      split
      · rw [Mem.get, if_neg hj, ih, Mem.get, if_neg hj]
      · rw [ih, Mem.get, if_neg hj]

/-! ### Steps 6 to 8 -/

/-- What freeing cores and clearing a partition's cores, caches, scratchpad share and messages leave alone. -/
def State.aside (s : State) : Dev × AMap Word × AMap Nat × AMap (BitVec 512) × Nat × Mem :=
  (s.dev, s.regs, s.keyGen, s.keys, s.fresh, s.hbm)

theorem State.freeCores_aside (s : State) (l : List Nat) : (l.foldl State.freeCore s).aside = s.aside := by
  refine foldl_keeps State.aside (fun _ _ => ?_) l s
  rfl

theorem State.clearPart_aside (s : State) (p : Nat) : (s.clearPart p).aside = s.aside ∧ (s.clearPart p).parts = s.parts := by
  unfold State.clearPart
  extract_lets mine s1 clean oct die
  have hs1 : (s1.aside, s1.parts) = (s.aside, s.parts) := by
    refine foldl_keeps (fun t : State => (t.aside, t.parts)) (fun t n => ?_) _ s
    split <;> rfl
  clear_value s1
  exact Prod.mk.inj hs1

/-- The state in which step 6 of a partition's reset is done. -/
def State.resetCleared (s : State) (p : Nat) : State :=
  ((((s.part p).gangs.flatMap Gang.cores).foldl State.freeCore s).setPart p {}).clearPart p

theorem State.resetCleared_aside (s : State) (p : Nat) : (s.resetCleared p).aside = s.aside :=
  (State.clearPart_aside _ p).1.trans (State.freeCores_aside s _)

theorem State.resetCleared_part (s : State) (p : Nat) : (s.resetCleared p).part p = {} := by
  unfold State.resetCleared
  rw [State.part, (State.clearPart_aside _ p).2]
  exact AMap.getD_set_same ..

/-- Step 7: slot 0 holds a fresh key, and slots 1 to 15 none. -/
theorem State.clearStack_keys (s : State) (p : Nat) :
    AMap.get? (s.clearStack p).keys (p * 16) = some (Config.freshKey s.fresh) ∧
    ∀ j, 1 ≤ j → j < 16 → AMap.get? (s.clearStack p).keys (p * 16 + j) = none := by
  refine ⟨AMap.get?_set_same .., fun j h1 h2 => (AMap.get?_set_other _ _ (by omega)).trans ?_⟩
  refine (AMap.get?_filter (fun k => k / 16 ≠ p) s.keys (p * 16 + j)).trans (if_neg ?_)
  simp only [decide_eq_true_eq]
  omega

/-- Step 7: the stack reads zero, and the other stacks read as before. -/
theorem State.clearStack_hbm (s : State) (p a : Nat) :
    (s.clearStack p).hbm.get a = if a / 2 ^ 36 = p then 0 else s.hbm.get a := by
  refine (Mem.get_zero s.hbm (p * 2 ^ 36) (2 ^ 36) a).trans (if_congr ?_ rfl rfl)
  omega

theorem State.clearStack_keyStat (s : State) (p : Nat) :
    (s.clearStack p).reg (Pf.keyStat p) = keyWord ((AMap.getD s.keyGen (p * 16) 0 + 1) % 2 ^ 32) 1 :=
  State.setReg_reg_same s (Pf.keyStat p) _

theorem State.clearStack_tdisp (s : State) (p w : Nat) (h : p < 8) : (s.clearStack p).tdisp w = s.tdisp w :=
  congrArg (bitsOf · 0 2) (State.setReg_reg_other s (Pf.keyStat p) _ (by unfold Pf.vf Pf.keyStat; omega))

section
variable (s : State) (p w : Nat)
theorem State.clearStack_vf : (s.clearStack p).vf w = s.vf w := rfl
theorem State.clearStack_answers : (s.clearStack p).dev.answers = s.dev.answers := rfl
theorem State.clearStack_parts : (s.clearStack p).parts = s.parts := rfl
end

theorem bitsOf_keyWord_low (g : Nat) : bitsOf (keyWord g 1) 0 16 = 1 := by
  rw [bitsOf, keyWord, BitVec.toNat_ofNat]
  omega

/-- Step 8: the VF is what its configuration space was, and is disabled where that was asked. -/
theorem State.endReset_vf (s : State) (v : Nat) : (s.endReset v).vf v =
    { assigned := (s.vf v).assigned, enabled := (s.vf v).enabled && !(s.vf v).disable, bar0 := (s.vf v).bar0, memEn := (s.vf v).memEn
      msixTable := (s.vf v).msixTable } := by
  unfold State.endReset
  dsimp only
  split
  · exact State.setVf_vf_same ..
  · exact State.setVf_vf_same ..

theorem State.endReset_tdisp (s : State) (v : Nat) :
    (s.endReset v).tdisp v = if s.tdisp v = 3 ∧ (s.vf v).unlock = false then 3 else 0 := by
  unfold State.endReset
  dsimp only
  split
  all_goals
    refine (State.setTdisp_tdisp_same _ v (by split <;> decide)).trans ?_
    simp only [Bool.not_eq_true]

theorem State.endReset_answers (s : State) (v : Nat) : (s.endReset v).dev.answers.map Prod.fst =
    s.dev.answers.map Prod.fst ++ (if (s.vf v).stopping then [.stopped v] else []) := by
  unfold State.endReset
  dsimp only
  split
  · exact List.map_append
  · exact (List.append_nil _).symm

/-- Step 8 leaves keys, the stacks and the partitions alone. -/
theorem State.endReset_rest (s : State) (v : Nat) :
    (s.endReset v).keys = s.keys ∧ (s.endReset v).hbm = s.hbm ∧ (s.endReset v).parts = s.parts := by
  unfold State.endReset
  dsimp only
  split <;> exact ⟨rfl, rfl, rfl⟩

/-- A register that a reset does not return to its reset value, and that is not the VF's. -/
theorem State.endReset_reg (s : State) (v : Nat) {a : Nat} (ha : resetsWith (v - 1) a = false) (hv : a ≠ Pf.vf v 0x10) :
    (s.endReset v).reg a = s.reg a := by
  have hkeep : ({ s with regs := s.regs.filter (fun r => !resetsWith (v - 1) r.1) } : State).reg a = s.reg a := by
    unfold State.reg AMap.getD
    dsimp only
    rw [AMap.get?_filter (fun k => !resetsWith (v - 1) k), ha]
    rfl
  unfold State.endReset
  dsimp only
  split
  all_goals exact (State.setRegF_reg_other _ _ 0 2 _ hv).trans hkeep

theorem resetsWith_keyStat {p q : Nat} (h : q < 8) : resetsWith p (Pf.keyStat q) = false := by
  unfold resetsWith Pf.keyStat Pf.chr Pf.mmuRoot Pf.fxThresh Pf.hltBase Pf.snd Pf.vf
  simp only [Bool.or_eq_false_iff, Bool.and_eq_false_iff, decide_eq_false_iff_not]
  omega

/-- The state in which a partition's reset has ended, without page tables. -/
def State.resetDone (s : State) (p : Nat) (x : ResetSetup) : State :=
  ((((s.resetCleared p).clearStack p).endReset (p + 1)).setReg (Pf.mmuRoot p) (x.root &&& 0x00FFFFFFFFFFFF80#64)).setReg (Pf.hltBase p)
    (x.hltBase &&& 0x00FFFFFFFFFF0000#64)

theorem State.writeTables_nil (s : State) (p : Nat) : s.writeTables p [] = s := rfl

theorem exec_partitionResetComplete {s : State} {p : Nat} {x : ResetSetup} (hr : (s.vf (p + 1)).resetting = true)
    (hq : s.resetQuiet p = true) (hheld : s.dev.pilotHeld = false) (hx : x.tables = []) :
    exec (.partitionResetComplete p x) s = .next (s.resetDone p x) := by
  change execPartitionResetComplete p x s = _
  unfold execPartitionResetComplete runEvent
  dsimp only
  rw [hr, hq, hheld, hx, if_neg (by decide), State.writeTables_nil]
  rfl

/-! ### What a reset that has ended leaves -/

section
variable (s : State) {p : Nat} (x : ResetSetup)

/-- A register that pilot firmware does not set at the end. -/
theorem State.resetDone_reg {a : Nat} (h1 : a ≠ Pf.hltBase p) (h2 : a ≠ Pf.mmuRoot p) :
    (s.resetDone p x).reg a = (((s.resetCleared p).clearStack p).endReset (p + 1)).reg a :=
  (State.setReg_reg_other _ _ _ h1).trans (State.setReg_reg_other _ _ _ h2)

theorem State.resetDone_rest :
    (s.resetDone p x).dev = (((s.resetCleared p).clearStack p).endReset (p + 1)).dev ∧
    (s.resetDone p x).keys = (((s.resetCleared p).clearStack p).endReset (p + 1)).keys ∧
    (s.resetDone p x).hbm = (((s.resetCleared p).clearStack p).endReset (p + 1)).hbm ∧
    (s.resetDone p x).parts = (((s.resetCleared p).clearStack p).endReset (p + 1)).parts := by
  unfold State.resetDone
  generalize ((s.resetCleared p).clearStack p).endReset (p + 1) = e
  exact ⟨rfl, rfl, rfl, rfl⟩

theorem State.resetDone_root :
    (s.resetDone p x).reg (Pf.mmuRoot p) = x.root &&& 0x00FFFFFFFFFFFF80#64 ∧
    (s.resetDone p x).reg (Pf.hltBase p) = x.hltBase &&& 0x00FFFFFFFFFF0000#64 :=
  ⟨(State.setReg_reg_other _ _ _ (by unfold Pf.mmuRoot Pf.hltBase; omega)).trans (State.setReg_reg_same ..), State.setReg_reg_same ..⟩

end

end Sys2Proof.Machine
end

section
/-! PROOFS of the family 03_host, O47: the statement. -/

namespace Sys2Proof.Machine

theorem State.pilotRuns_of {s : State} (hr : (s.reg 0).getLsbD 0 = true) (hh : s.dev.pilotHeld = false) : s.pilotRuns = true := by
  simp [State.pilotRuns, State.ready, hr, hh]

/-- What the end of a partition's reset leaves of its VF, its keys, its stack and its registers. -/
theorem State.resetDone_leaves (s : State) {p : Nat} (x : ResetSetup) (hp : p < 8) :
    let t := s.resetDone p x
    let f := s.vf (p + 1)
    t.vf (p + 1) = { assigned := f.assigned, enabled := f.enabled && !f.disable, bar0 := f.bar0, memEn := f.memEn, msixTable := f.msixTable } ∧
    t.dev.answers.map Prod.fst = s.dev.answers.map Prod.fst ++ (if f.stopping then [.stopped (p + 1)] else []) ∧
    t.tdisp (p + 1) = (if s.tdisp (p + 1) = 3 ∧ f.unlock = false then 3 else 0) ∧
    AMap.get? t.keys (p * 16) = some (Config.freshKey s.fresh) ∧
    (∀ j, 1 ≤ j → j < 16 → AMap.get? t.keys (p * 16 + j) = none) ∧
    t.regF (Pf.keyStat p) 0 16 = 1 ∧
    (∀ a, t.hbm.get a = if a / 2 ^ 36 = p then 0 else s.hbm.get a) ∧ (t.part p).gangs = [] := by
  intro t f
  obtain ⟨hdev, hregs, -, -, hfresh, hhbm⟩ : _ ∧ _ ∧ _ ∧ _ ∧ _ ∧ _ := by
    simpa only [State.aside, Prod.mk.injEq] using State.resetCleared_aside s p
  have hpart := State.resetCleared_part s p
  have hvf : ((s.resetCleared p).clearStack p).vf (p + 1) = f := by
    rw [State.clearStack_vf, State.vf, hdev]
    rfl
  have htd : ((s.resetCleared p).clearStack p).tdisp (p + 1) = s.tdisp (p + 1) := by
    rw [State.clearStack_tdisp _ _ _ hp, State.tdisp, State.regF, State.reg, hregs]
    rfl
  obtain ⟨hrdev, hrkeys, hrhbm, hrparts⟩ := State.resetDone_rest s x (p := p)
  obtain ⟨hekeys, hehbm, heparts⟩ := State.endReset_rest ((s.resetCleared p).clearStack p) (p + 1)
  obtain ⟨hkey, hnokeys⟩ := State.clearStack_keys (s.resetCleared p) p
  refine ⟨?_, ?_, ?_, ?_, fun j h1 h2 => ?_, ?_, fun a => ?_, ?_⟩
  · rw [State.vf, hrdev, ← State.vf, State.endReset_vf, hvf]
  · rw [hrdev, State.endReset_answers, hvf, State.clearStack_answers, hdev]
  · rw [State.tdisp, State.regF, State.resetDone_reg s x (by unfold Pf.vf Pf.hltBase; omega) (by unfold Pf.vf Pf.mmuRoot; omega),
      ← State.regF, ← State.tdisp, State.endReset_tdisp, htd, hvf]
  · rw [hrkeys, hekeys, hkey, hfresh]
  · rw [hrkeys, hekeys, hnokeys j h1 h2]
  · rw [State.regF, State.resetDone_reg s x (by unfold Pf.keyStat Pf.hltBase; omega) (by unfold Pf.keyStat Pf.mmuRoot; omega),
      State.endReset_reg _ _ (resetsWith_keyStat hp) (by unfold Pf.keyStat Pf.vf; omega), State.clearStack_keyStat]
    exact bitsOf_keyWord_low _
  · rw [hrhbm, hehbm, State.clearStack_hbm, hhbm]
  · rw [State.part, hrparts, heparts, State.clearStack_parts, ← State.part, hpart]

/-- Settles O47. -/
theorem virtualFunctions : Obligations.VirtualFunctions := by
  unfold Obligations.VirtualFunctions
  intro s v hv1 hv8 up st
  refine ⟨fun n hn => ⟨exec_numvfsWrite_held hn, fun hr hnone => ?_⟩, fun hr hh he => ?_,
    fun he => ⟨exec_breach he, exec_functionLevelReset he⟩, State.startReset_again, fun x hres hq hh _ hx => ?_⟩
  · refine ⟨_, exec_numvfsWrite hn hr, ?_⟩
    rw [State.setNumVfs_fresh hnone]
    obtain ⟨-, hen, htd⟩ := State.foldl_enableVf n v ((List.range 8).map (· + 1)) { s with dev := { s.dev with numVfs := n } }
    have hmem : v ∈ (List.range 8).map (· + 1) := List.mem_map.2 ⟨v - 1, List.mem_range.2 (by omega), by omega⟩
    have hv : ({ s with dev := { s.dev with numVfs := n } } : State).vf v = s.vf v := rfl
    have hiff : ((({ s with dev := { s.dev with numVfs := n } } : State).enableVfs n).vf v).enabled = true ↔
        v ≤ n ∧ (s.vf v).assigned = true := by
      rw [State.enableVfs_eq, hen, hv, hnone v]
      simp [hmem]
    refine ⟨State.enableVfs_numVfs _ n, hiff, fun hle ha => htd ?_ (hiff.2 ⟨hle, ha⟩)⟩
    rw [hv, hnone v]
    intro h
    cases h
  · have hp := State.pilotRuns_of hr hh
    intro answers refused
    have refuses {i : Instr} (h : exec i s = .next (s.answer (.stateError v))) : refused i := ⟨_, h, rfl, rfl, rfl⟩
    refine ⟨fun (hup : s.vfUp v = true) (h : s.tdisp v = 0) => ?_, fun (h : s.tdisp v ≠ 0) => refuses ?_,
      fun (h : s.tdisp v ≠ 1) => refuses ?_, fun (hup : s.vfUp v = true) (h : s.tdisp v = 1) => ?_, fun h hquiet => ?_,
      fun (h : s.tdisp v = 1 ∨ s.tdisp v = 2 ∨ _) => ?_, fun h => ?_, fun (h : s.tdisp v = 0 ∨ s.tdisp v = 3) => refuses ?_,
      fun q a hqa => ?_⟩
    · refine ⟨_, (exec_lock hp he).trans (congrArg _ (if_pos ?_)), rfl, ?_, ?_⟩
      · simp [hup, h]
      · exact State.setTdisp_tdisp_same _ v (by decide)
      · exact congrArg Vf.lockCfg (State.setVf_vf_same s v { s.vf v with lockCfg := s.lockedItems v })
    · exact (exec_lock hp he).trans (congrArg _ (if_neg (by simp [h])))
    · exact (exec_start hp he).trans (congrArg _ (if_neg (by simp [h])))
    · exact ⟨_, (exec_start hp he).trans (congrArg _ (if_pos (by simp [hup, h]))), rfl, State.setTdisp_tdisp_same _ v (by decide)⟩
    · exact ⟨_, (exec_stop hp he).trans (congrArg _ (if_pos (by simpa [hquiet] using h))), rfl,
        State.setTdisp_tdisp_same _ v (by decide), rfl⟩
    · refine (exec_stop hp he).trans (congrArg _ (if_neg ?_))
      rcases h with h | h | h <;> simp [h]
    · exact ⟨_, (exec_report hp he).trans (congrArg _ (if_pos (by simpa using h))), rfl, rfl⟩
    · refine (exec_report hp he).trans (congrArg _ (if_neg ?_))
      rcases h with h | h <;> simp [h]
    · rw [State.tdispQuery_eq hp he]
      simp only [List.mem_cons, List.not_mem_nil, or_false, Prod.mk.injEq] at hqa
      obtain ⟨rfl, rfl⟩ | ⟨rfl, rfl⟩ | ⟨rfl, rfl⟩ := hqa
      · exact ⟨rfl, rfl⟩
      · exact ⟨rfl, rfl⟩
      · exact ⟨rfl, rfl⟩
  · obtain ⟨p, rfl⟩ : ∃ p, v = p + 1 := ⟨v - 1, by omega⟩
    rw [Nat.add_sub_cancel] at hq ⊢
    obtain ⟨hvf, hans, htd, hkey, hkeys, hstat, hhbm, hgangs⟩ := State.resetDone_leaves s x (p := p) (by omega)
    obtain ⟨hroot, hbase⟩ := State.resetDone_root s x (p := p)
    refine ⟨_, exec_partitionResetComplete hres hq hh hx, ?_⟩
    rw [hvf]
    exact ⟨rfl, rfl, rfl, rfl, rfl, rfl, hans, htd, hkey, hkeys, hstat, fun a ha => (hhbm a).trans (if_pos ha),
      fun a ha => (hhbm a).trans (if_neg ha), hroot, hbase, hgangs⟩

end Sys2Proof.Machine
end

section
/-! PROOFS of the family 03_host, O39. What an operation of the machine leaves of the Chartrooms' boards: the TCBs that they cache, their
gangs, pre-emptions, pauses, logs and grace periods, and the registers CHR_PREEMPT, READYSEQ and CHR_EVT. The caches, the walks, the stop
of a context, the store of a table and a completion record leave all of it. -/

namespace Sys2Proof.Machine

/-! ### The board of a partition -/

/-- A partition without what contexts and records change of it: service requests, Chartroom requests, completion records, and releases that
are passed on. -/
def Part.board (q : Part) : Part := { q with svc := [], reqs := [], recs := [], chain := [] }

/-- An address that may be of CHR_PREEMPT, READYSEQ or CHR_EVT (R95), by its low byte. -/
def BoardReg (a : Nat) : Prop := a % 0x100 = 0x30 ∨ a % 0x100 = 0x38 ∨ a % 0x100 = 0x48

/-- The boards of s are those of orig, and so are the registers. -/
structure SameBoard (orig s : State) : Prop where
  board : ∀ p, (s.part p).board = (orig.part p).board
  reg : ∀ a, BoardReg a → s.reg a = orig.reg a

theorem SameBoard.refl (s : State) : SameBoard s s := ⟨fun _ => rfl, fun _ _ => rfl⟩

section
variable {s t : State} (h : SameBoard s t) (p : Nat)
include h

theorem SameBoard.tcbs : (t.part p).tcbs = (s.part p).tcbs := (congrArg Part.tcbs (h.board p) :)
theorem SameBoard.gangs : (t.part p).gangs = (s.part p).gangs := (congrArg Part.gangs (h.board p) :)
theorem SameBoard.grace : (t.part p).grace = (s.part p).grace := (congrArg Part.grace (h.board p) :)
theorem SameBoard.preempts : (t.part p).preempts = (s.part p).preempts := (congrArg Part.preempts (h.board p) :)
theorem SameBoard.pause : (t.part p).pause = (s.part p).pause := (congrArg Part.pause (h.board p) :)
theorem SameBoard.log : (t.part p).log = (s.part p).log := (congrArg Part.log (h.board p) :)

end

theorem boardReg_chr (p : Nat) {off : Nat} (h : off = 0x30 ∨ off = 0x38 ∨ off = 0x48) : BoardReg (Pf.chr p off) := by
  unfold BoardReg Pf.chr
  omega

/-! ### The writes of the state -/

namespace SameBoard
variable {orig s t : State}

/-- An update of other fields. -/
theorem same (h : SameBoard orig s) (e : (t.parts, t.regs) = (s.parts, s.regs)) : SameBoard orig t := by
  obtain ⟨ep, er⟩ := Prod.mk.inj e
  refine ⟨fun p => ?_, fun a ha => ?_⟩
  · rw [State.part, ep]; exact h.board p
  · rw [State.reg, er]; exact h.reg a ha

theorem ite {c : Prop} [Decidable c] (hs : SameBoard orig s) (ht : SameBoard orig t) : SameBoard orig (if c then s else t) := by
  split
  · exact hs
  · exact ht

theorem foldl {α : Type} {f : State → α → State} {l : List α} (h : SameBoard orig s)
    (hf : ∀ s a, SameBoard orig s → SameBoard orig (f s a)) : SameBoard orig (l.foldl f s) := by
  induction l generalizing s with
  | nil => exact h
  | cons a l ih => exact ih (hf s a h)

theorem foldl_snd {α β : Type} {f : β × State → α → β × State} {l : List α} {r : β × State} (h : SameBoard orig r.2)
    (hf : ∀ r a, SameBoard orig r.2 → SameBoard orig (f r a).2) : SameBoard orig (l.foldl f r).2 := by
  induction l generalizing r with
  | nil => exact h
  | cons a l ih => exact ih (hf r a h)

theorem of_snd {α : Type} {r : α × State} {a : α} (h : SameBoard orig r.2) (e : r = (a, s)) : SameBoard orig s := by
  subst e; exact h

/-- A partition that is written with its board. -/
theorem setPart {n : Nat} {q : Part} (h : SameBoard orig s) (hq : q.board = (s.part n).board) : SameBoard orig (s.setPart n q) := by
  refine ⟨fun p => ?_, h.reg⟩
  by_cases e : p = n
  · subst e
    rw [State.setPart_part_same, hq]
    exact h.board p
  · rw [State.setPart_part_other _ _ _ e]
    exact h.board p

theorem setChain {n : Nat} {l : List (Nat × Nat)} (h : SameBoard orig s) : SameBoard orig (s.setPart n { s.part n with chain := l }) :=
  h.setPart rfl

/-- A register of another kind is written. -/
theorem setReg {n : Nat} {v : Word} (h : SameBoard orig s) (hn : ¬ BoardReg n) : SameBoard orig (s.setReg n v) :=
  ⟨h.board, fun a ha => (State.setReg_reg_other s n v (fun e => hn (e ▸ ha))).trans (h.reg a ha)⟩

theorem setRegF {n lo k v : Nat} (h : SameBoard orig s) (hn : ¬ BoardReg n) : SameBoard orig (s.setRegF n lo k v) := h.setReg hn

theorem setCore {n : Nat} {c : Core} (h : SameBoard orig s) : SameBoard orig (s.setCore n c) := h.same rfl
theorem setCtx {n x : Nat} {k : Ctx} (h : SameBoard orig s) : SameBoard orig (s.setCtx n x k) := h.setCore
theorem setOctet {n : Nat} {o : Octet} (h : SameBoard orig s) : SameBoard orig (s.setOctet n o) := h.same rfl
theorem setDie {n : Nat} {d : Die} (h : SameBoard orig s) : SameBoard orig (s.setDie n d) := h.same rfl
theorem pilotEvent {k : Nat} {a b : Word} (h : SameBoard orig s) : SameBoard orig (s.pilotEvent k a b) := h.same rfl
theorem report {k : Nat} {a b : Word} (h : SameBoard orig s) : SameBoard orig (s.report k a b) := h.same rfl
theorem newId (h : SameBoard orig s) : SameBoard orig s.newId.2 := h.same rfl
theorem fly {a : Access} (h : SameBoard orig s) : SameBoard orig (s.fly a) := h.same rfl
theorem msi {fn vec : Nat} (h : SameBoard orig s) : SameBoard orig (s.msi fn vec) := h.same rfl

/-- An instruction or access that retires leaves the service requests alone that wait for it. -/
theorem retire {id : Nat} (h : SameBoard orig s) : SameBoard orig (s.retire id) := by
  let rm (l : List Nat) : List Nat := l.filter (· ≠ id)
  let f (q : Part) : Part := { q with svc := q.svc.map (fun r => { r with after := rm r.after }) }
  refine ⟨fun p => ?_, h.reg⟩
  have hp : (s.retire id).part p = f (s.part p) := AMap.getD_map f s.parts p {}
  rw [hp]
  exact h.board p

/-! ### Memory: Machine/Translate.lean -/

theorem countCorrected {l : Nat} (h : SameBoard orig s) : SameBoard orig (s.countCorrected l) := .ite h (h.same rfl)

theorem eccEvent {pa : Nat} (h : SameBoard orig s) : SameBoard orig (s.eccEvent pa) := h.report

theorem hbmPut {pa : Nat} {v : Line} {under : Option (BitVec 512)} (h : SameBoard orig s) : SameBoard orig (s.hbmPut pa v under) := by
  unfold State.hbmPut
  exact h.same rfl

theorem l2Evict {l : L2Line} (h : SameBoard orig s) : SameBoard orig (s.l2Evict l) := .ite h.hbmPut h

theorem l2Put {l : L2Line} (h : SameBoard orig s) : SameBoard orig (s.l2Put l) := by
  cases hv : s.l2Victim l with
  | none => rw [State.l2Put_of_none hv]; exact h.setDie
  | some v => rw [State.l2Put_of_some hv]; exact h.l2Evict.setDie

theorem l2Fill {pa : Nat} {key : Option Nat} (h : SameBoard orig s) : SameBoard orig (s.l2Fill pa key) := .ite h h.countCorrected.l2Put

theorem l2Write {pa : Nat} {key : Option Nat} {data : Line} {mask : BitVec 64} (h : SameBoard orig s) :
    SameBoard orig (s.l2Write pa key data mask) :=
  .ite (h.same rfl) (SameBoard.ite h.countCorrected h).l2Put

theorem paWrite {key : Option Nat} {pa : Nat} {bs : List Byte} (h : SameBoard orig s) : SameBoard orig (s.paWrite key pa bs) := by
  induction bs generalizing s pa with
  | nil => exact h
  | cons b bs ih => exact ih h.l2Write

theorem l2Reads {key : Option Nat} {ls : List Nat} (h : SameBoard orig s) : SameBoard orig (s.l2Reads key ls) :=
  h.foldl fun _ _ h => h.l2Fill

theorem walkReads {part va : Nat} (h : SameBoard orig s) : SameBoard orig (s.walkReads part va) := h.l2Reads

theorem zeroFill {t : TlbEnt} {entry : Nat} (h : SameBoard orig s) : SameBoard orig (s.zeroFill t entry) :=
  SameBoard.paWrite (h.same rfl)

theorem recordBad {part level reason entry : Nat} (h : SameBoard orig s) : SameBoard orig (s.recordBad part level reason entry) :=
  .ite h (h.setReg (by unfold BoardReg Pf.mmuWalk; omega))

theorem tlbInstall {n : Nat} {t : TlbEnt} (h : SameBoard orig s) : SameBoard orig (s.tlbInstall n t) := h.setDie.setOctet.setCore

theorem partWrite {part va : Nat} {bs : List Byte} (h : SameBoard orig s) : SameBoard orig (s.partWrite part va bs) := by
  unfold State.partWrite
  split
  · exact (SameBoard.ite h.zeroFill h).paWrite
  · exact h

theorem partFill {p a : Nat} {bs : List Byte} {fuel : Nat} (h : SameBoard orig s) : SameBoard orig (s.partFill p a bs fuel) := by
  induction fuel generalizing s a bs with
  | zero => exact h
  | succ fuel ih => exact .ite h (ih h.partWrite)

theorem unmapped {reg addr : Nat} (h : SameBoard orig s) : SameBoard orig (s.unmapped reg addr) := h.pilotEvent

theorem tableRead {part reg va n : Nat} (h : SameBoard orig s) : SameBoard orig (s.tableRead part reg va n) := by
  unfold State.tableRead
  extract_lets s1
  have hs1 : SameBoard orig s1 := h.walkReads
  split
  · extract_lets s2
    have hs2 : SameBoard orig s2 := .ite hs1.zeroFill hs1
    split
    · exact hs2.eccEvent
    · exact hs2.l2Reads
  · exact hs1.eccEvent
  · exact hs1.unmapped

theorem tableStore {part reg va : Nat} {bs : List Byte} (h : SameBoard orig s) : SameBoard orig (s.tableStore part reg va bs) :=
  .ite h.unmapped h.partWrite

theorem setCvyWord {p id i : Nat} {v : Word} (h : SameBoard orig s) : SameBoard orig (s.setCvyWord p id i v) := h.tableStore

theorem readTcb {p i : Nat} (h : SameBoard orig s) : SameBoard orig (s.readTcb p i) := .ite h h.tableRead

theorem readTcbs {p : Nat} {is : List Nat} (h : SameBoard orig s) : SameBoard orig (s.readTcbs p is) := h.foldl fun _ _ h => h.readTcb

theorem prefetch {p a : Nat} (h : SameBoard orig s) : SameBoard orig (s.prefetch p a) := by
  unfold State.prefetch
  split
  · exact .ite h h.l2Fill
  · exact h

/-! ### Completion records -/

theorem vfEvt {v bit : Nat} (h : SameBoard orig s) : SameBoard orig (s.vfEvt v bit) :=
  .ite h (h.setReg (by unfold BoardReg Pf.vf; omega)).msi

theorem queueRec {p : Nat} {r : Option (Vector Word 4)} (h : SameBoard orig s) : SameBoard orig (s.queueRec p r) := by
  unfold State.queueRec
  split
  · exact h
  · exact .ite (h.setRegF (by unfold BoardReg Pf.vf; omega)).vfEvt (h.setPart rfl)

theorem complete {p i st cause x y : Nat} (h : SameBoard orig s) : SameBoard orig (s.complete p i st cause x y) := h.queueRec

/-! ### The end of a context: Machine/Halts.lean -/

theorem rejoin {n x : Nat} (h : SameBoard orig s) : SameBoard orig (s.rejoin n x) := .ite h h.setOctet.setCtx

theorem withdraw {n x : Nat} (h : SameBoard orig s) : SameBoard orig (s.withdraw n x) := h.setOctet.setCtx

theorem dropHeld {n x : Nat} (h : SameBoard orig s) : SameBoard orig (s.dropHeld n x) :=
  (h.foldl fun _ _ h1 => h1.setCore.retire).setCtx

theorem dropResv {n x : Nat} (h : SameBoard orig s) : SameBoard orig (s.dropResv n x) := by
  unfold State.dropResv
  split
  · exact h
  · exact h.setCore.setCtx

theorem dropTail {n x : Nat} (h : SameBoard orig s) : SameBoard orig (s.dropTail n x) := by
  unfold State.dropTail
  split
  · exact h
  · exact h.setCore.setCtx

theorem dropAsk {n x : Nat} (h : SameBoard orig s) : SameBoard orig (s.dropAsk n x) :=
  .ite (SameBoard.setCtx (h.setPart rfl)) h

theorem storeRec {n x : Nat} {r : HaltRec} (h : SameBoard orig s) : SameBoard orig (s.storeRec n x r) := h.setCtx.tableStore

theorem clearRec {n x : Nat} (h : SameBoard orig s) : SameBoard orig (s.clearRec n x) :=
  .ite h ((SameBoard.ite h.storeRec h.setCtx).setRegF (by unfold BoardReg Pf.hltStat; omega))

theorem orphan {n x : Nat} (h : SameBoard orig s) : SameBoard orig (s.orphan n x) := h.setCore.setOctet

theorem unbind {n x : Nat} (h : SameBoard orig s) : SameBoard orig (s.unbind n x) :=
  h.dropResv.dropTail.dropAsk.clearRec.setCore.setCore.orphan

theorem stopCtx {n x : Nat} (h : SameBoard orig s) : SameBoard orig (s.stopCtx n x) := .ite h h.withdraw.dropHeld.unbind

/-! ### The L1 and the engines' writes -/

theorem l1Back {n : Nat} {l : L1Line} (h : SameBoard orig s) : SameBoard orig (s.l1Back n l) := .ite h h.newId.setCore.fly

theorem l1Clean {n b : Nat} {drop : Bool} (h : SameBoard orig s) : SameBoard orig (s.l1Clean n b drop) := by
  unfold State.l1Clean
  split
  · exact .ite h.l1Back.setCore h.l1Back
  · exact h

theorem drain {n : Nat} (h : SameBoard orig s) : SameBoard orig (s.drain n) := h.foldl fun _ _ h => h.l1Clean
theorem drainUo {n : Nat} (h : SameBoard orig s) : SameBoard orig (s.drainUo n) := h.foldl fun _ _ h => h.l1Clean
theorem invalidateAll {n : Nat} (h : SameBoard orig s) : SameBoard orig (s.invalidateAll n) := h.setCore

theorem l1Put {n : Nat} {l : L1Line} (h : SameBoard orig s) : SameBoard orig (s.l1Put n l) := by
  unfold State.l1Put
  refine SameBoard.setCore ?_
  split
  · exact h.l1Back.setCore
  · exact h

theorem l1Store {n pa key : Nat} {kind : PageKind} {x : Bool} {sz v : Nat} (h : SameBoard orig s) :
    SameBoard orig (s.l1Store n pa key kind x sz v) := by
  unfold State.l1Store
  extract_lets _ _ _ _ _ s1 _ s2
  have hs1 : SameBoard orig s1 := h.l1Put
  refine .ite (SameBoard.setCore ?_) hs1
  unfold s2
  split
  · refine .ite hs1 ?_
    split
    · exact hs1.l1Back
    · exact hs1.setCore
  · exact hs1

theorem setWalk {d id : Nat} {w : Option Walk} (h : SameBoard orig s) : SameBoard orig (s.setWalk d id w) := h.setDie

theorem walkFails {id page : Nat} {c : BitVec 8} (h : SameBoard orig s) : SameBoard orig (s.walkFails id page c) := h.same rfl

theorem endWalk {d : Nat} {w : Walk} (h : SameBoard orig s) : SameBoard orig (s.endWalk d w) := by
  unfold State.endWalk
  extract_lets s1 _
  have hs : SameBoard orig s1 := h.walkReads
  split
  · exact ((SameBoard.ite hs.zeroFill hs).foldl fun _ _ h => h.tlbInstall).tlbInstall.setWalk.retire
  · exact hs.walkFails.setWalk.retire
  · exact hs.recordBad.walkFails.setWalk.retire
  · exact hs.walkFails.setWalk.retire

theorem xlateNow {n root va : Nat} (h : SameBoard orig s) : SameBoard orig (s.xlateNow n root va).2 := by
  unfold State.xlateNow
  split
  · exact h
  · extract_lets _ s1
    have hs1 : SameBoard orig s1 := by
      refine SameBoard.walkReads ?_
      split
      · exact h.endWalk
      · exact .ite h.endWalk h
      · exact h
    split
    · exact (SameBoard.ite hs1.zeroFill hs1).tlbInstall
    · exact hs1
    · exact hs1.recordBad
    · exact hs1

theorem engPlace {n a sz : Nat} {p : Perm} {store fold ctx : Bool} (h : SameBoard orig s) :
    SameBoard orig (s.engPlace n a sz p store fold ctx).2 := by
  unfold State.engPlace
  split
  iterate 5 exact h
  · split
    · exact h
    · split
      · exact h
      · exact h
  · split
    · exact h
    · exact h
  · split
    next heq => exact h.xlateNow.of_snd heq
    next heq =>
      split
      · exact h.xlateNow.of_snd heq
      · split
        · exact h.xlateNow.of_snd heq
        · exact h.xlateNow.of_snd heq

theorem unitWrite {n sz v : Nat} {u : Unit1} (h : SameBoard orig s) : SameBoard orig (s.unitWrite n sz v u) := by
  cases u with
  | scr m off => exact h.setCore
  | die d off => exact h.setDie
  | acc off => exact h.setCore
  | status ch => exact h
  | mem pa key kind x => exact .ite h.l2Write h.l1Store

theorem engWrite {n a : Nat} {bs : List Byte} (h : SameBoard orig s) : SameBoard orig (s.engWrite n a bs).2 := by
  unfold State.engWrite
  refine h.foldl_snd fun _ _ h1 => ?_
  split
  · exact h1
  · split
    next heq => exact h1.engPlace.of_snd heq
    next heq => exact (h1.engPlace.of_snd heq).unitWrite

end SameBoard

end Sys2Proof.Machine
end

section
/-! PROOFS of the family 03_host, O39. TCBs (R66, R67, R69): a field after a write of it, and a cached TCB after the machine's other
operations. -/

namespace Sys2Proof

/-- An entry that a store did not hold comes and goes. -/
theorem AMap.erase_set_of_none {α : Type} {m : AMap α} {k : Nat} (v : α) (h : AMap.get? m k = none) :
    AMap.erase (AMap.set m k v) k = m := by
  induction m with
  | nil => simp [AMap.set, AMap.erase]
  | cons e m ih =>
    obtain ⟨j, w⟩ := e
    simp only [AMap.get?] at h
    by_cases hj : j = k
    · simp [hj] at h
    · rw [if_neg hj] at h
      by_cases hk : k < j
      · simp [AMap.set, AMap.erase, hk]
      · simp [AMap.set, AMap.erase, hk, hj, Ne.symm hj, ih h]

namespace Machine

/-! ### Fields of a doubleword -/

/-- A register's field is written as a doubleword's is. -/
theorem State.setRegF_eq_putBits (s : State) (a lo n v : Nat) : s.setRegF a lo n v = s.setReg a (putBits (s.reg a) lo n v) := by
  have hold : bitsOf (s.reg a) lo n * 2 ^ lo ≤ (s.reg a).toNat :=
    (Nat.mul_le_mul_right _ (Nat.mod_le _ _)).trans (Nat.div_mul_le_self _ _)
  unfold State.setRegF putBits
  congr 1
  generalize bitsOf (s.reg a) lo n * 2 ^ lo = old at *
  generalize v % 2 ^ n * 2 ^ lo = new at *
  have := (s.reg a).isLt
  bv_omega

theorem bitsOf_putBits_same (w : Word) {lo n : Nat} (v : Nat) (h : lo + n ≤ 64) : bitsOf (putBits w lo n v) lo n = v % 2 ^ n := by
  have hs := State.regF_setRegF_same (State.reset.setReg 0 w) 0 v h
  rwa [State.setRegF_eq_putBits, State.regF, State.setReg_reg_same, State.setReg_reg_same] at hs

theorem vecGet_set_same (t : Vector Word 16) {j : Nat} (v : Word) (h : j < 16) : vecGet (t.set j v) j = v := by
  rw [vecGet, dif_pos h, Vector.getElem_set_self]

theorem vecGet_set_other (t : Vector Word 16) {j k : Nat} (v : Word) (h : j < 16) (hk : k ≠ j) : vecGet (t.set j v) k = vecGet t k := by
  unfold vecGet
  split
  · exact Vector.getElem_set_ne h _ (Ne.symm hk)
  · rfl

/-! ### A TCB that the Chartroom caches -/

/-- The Chartroom of s caches a TCB, and that of t caches the same. -/
def SameTcb (s t : State) (p i : Nat) : Prop :=
  (AMap.get? (s.part p).tcbs i).isSome ∧ AMap.get? (t.part p).tcbs i = AMap.get? (s.part p).tcbs i

section
variable {s t u : State} {p i : Nat}

theorem SameTcb.refl (h : (AMap.get? (s.part p).tcbs i).isSome) : SameTcb s s p i := ⟨h, rfl⟩

theorem SameTcb.self (h : SameTcb s t p i) : SameTcb t t p i := .refl (h.2 ▸ h.1)

/-- Its Chartroom's tcbs stand. -/
theorem SameTcb.of_tcbs (h : SameTcb s t p i) (e : (u.part p).tcbs = (t.part p).tcbs) : SameTcb s u p i := ⟨h.1, e ▸ h.2⟩

theorem SameTcb.setPart {q : Part} (h : SameTcb s t p i) (e : q.tcbs = (t.part p).tcbs) : SameTcb s (t.setPart p q) p i :=
  h.of_tcbs (by rw [State.setPart_part_same, e])

theorem SameTcb.setWdog (h : SameTcb s t p i) (w : AMap Nat) : SameTcb s (t.setPart p { t.part p with wdog := w }) p i := h.setPart rfl

theorem SameTcb.setGrace (h : SameTcb s t p i) (g w : AMap Nat) : SameTcb s (t.setPart p { t.part p with grace := g, wdog := w }) p i :=
  h.setPart rfl

theorem SameTcb.of_sameBoard (h : SameTcb s t p i) (k : SameBoard t u) : SameTcb s u p i := h.of_tcbs (k.tcbs p)

theorem State.tcb_of_cached {x : Vector Word 16} (h : AMap.get? (s.part p).tcbs i = some x) : s.tcb p i = x := by
  rw [State.tcb, State.tcb?, h]
  rfl

theorem SameTcb.tcb (h : SameTcb s t p i) : t.tcb p i = s.tcb p i := by
  obtain ⟨hc, he⟩ := h
  obtain ⟨x, hx⟩ := Option.isSome_iff_exists.1 hc
  rw [State.tcb_of_cached hx, State.tcb_of_cached (he.trans hx)]

theorem SameTcb.tcbF (h : SameTcb s t p i) (j lo n : Nat) : t.tcbF p i j lo n = s.tcbF p i j lo n := by
  rw [State.tcbF, State.tcbW, h.tcb]
  rfl

theorem SameTcb.tcbSt (h : SameTcb s t p i) : t.tcbSt p i = s.tcbSt p i := h.tcbF 0 0 8
theorem SameTcb.tcbConvoy (h : SameTcb s t p i) : t.tcbConvoy p i = s.tcbConvoy p i := h.tcbF 8 48 16

end

/-! ### A TCB that is written -/

section
variable (s : State) (p i : Nat) {j : Nat} (v : Word)

/-- The write changes the Chartroom's copy, and what the store of it into the pool does is no matter of the board. -/
theorem State.setTcbW_sameBoard (h : j < 16) :
    SameBoard (s.setPart p { s.part p with tcbs := AMap.set (s.part p).tcbs i ((s.tcb p i).set j v) }) (s.setTcbW p i j v) := by
  unfold State.setTcbW
  dsimp only
  rw [dif_pos h]
  exact (SameBoard.refl _).tableStore

variable (h : j < 16)
include h

theorem State.setTcbW_cached : AMap.get? ((s.setTcbW p i j v).part p).tcbs i = some ((s.tcb p i).set j v) := by
  rw [(s.setTcbW_sameBoard p i v h).tcbs, State.setPart_part_same, AMap.get?_set_same]

theorem State.setTcbW_sameTcb : SameTcb (s.setTcbW p i j v) (s.setTcbW p i j v) p i :=
  .refl (Option.isSome_iff_exists.2 ⟨_, s.setTcbW_cached p i v h⟩)

theorem State.setTcbW_tcbW_same : (s.setTcbW p i j v).tcbW p i j = v := by
  rw [State.tcbW, State.tcb_of_cached (s.setTcbW_cached p i v h), vecGet_set_same _ _ h]

theorem State.setTcbW_tcbW_other {k : Nat} (hk : k ≠ j) : (s.setTcbW p i j v).tcbW p i k = s.tcbW p i k := by
  rw [State.tcbW, State.tcb_of_cached (s.setTcbW_cached p i v h), vecGet_set_other _ _ h hk]
  rfl

/-- Another TCB that the Chartroom caches. -/
theorem SameTcb.setTcbW {u : State} {q k : Nat} (hs : SameTcb u s q k) (hd : q ≠ p ∨ k ≠ i) : SameTcb u (s.setTcbW p i j v) q k := by
  refine ⟨hs.1, Eq.trans ?_ hs.2⟩
  rw [(s.setTcbW_sameBoard p i v h).tcbs]
  by_cases hq : q = p
  · subst hq
    rw [State.setPart_part_same, AMap.get?_set_other _ _ (hd.resolve_left (fun e => e rfl))]
  · rw [State.setPart_part_other _ _ _ hq]

theorem State.setTcbW_gangs (q : Nat) : ((s.setTcbW p i j v).part q).gangs = (s.part q).gangs := by
  rw [(s.setTcbW_sameBoard p i v h).gangs]
  by_cases hq : q = p
  · subst hq; rw [State.setPart_part_same]
  · rw [State.setPart_part_other _ _ _ hq]

theorem State.setTcbW_preempts (q : Nat) : ((s.setTcbW p i j v).part q).preempts = (s.part q).preempts := by
  rw [(s.setTcbW_sameBoard p i v h).preempts]
  by_cases hq : q = p
  · subst hq; rw [State.setPart_part_same]
  · rw [State.setPart_part_other _ _ _ hq]

theorem State.setTcbW_grace (q : Nat) : ((s.setTcbW p i j v).part q).grace = (s.part q).grace := by
  rw [(s.setTcbW_sameBoard p i v h).grace]
  by_cases hq : q = p
  · subst hq; rw [State.setPart_part_same]
  · rw [State.setPart_part_other _ _ _ hq]

theorem State.setTcbW_reg {a : Nat} (ha : BoardReg a) : (s.setTcbW p i j v).reg a = s.reg a :=
  (s.setTcbW_sameBoard p i v h).reg a ha

end

/-! ### The state of a task that is set (R69) -/

section
variable (s : State) (p i v : Nat)

theorem State.setTcbSt_sameTcb : SameTcb (s.setTcbSt p i v) (s.setTcbSt p i v) p i := s.setTcbW_sameTcb p i _ (by decide)

theorem State.setTcbSt_tcbSt (h : v < 256) : (s.setTcbSt p i v).tcbSt p i = v := by
  rw [State.tcbSt, State.tcbF, State.setTcbSt, State.setTcbF, State.setTcbW_tcbW_same _ _ _ _ (by decide),
    bitsOf_putBits_same _ _ (by decide)]
  exact Nat.mod_eq_of_lt h

theorem State.setTcbSt_tcbF {j : Nat} (h : j ≠ 0) (lo n : Nat) : (s.setTcbSt p i v).tcbF p i j lo n = s.tcbF p i j lo n := by
  rw [State.tcbF, State.setTcbSt, State.setTcbF, State.setTcbW_tcbW_other _ _ _ _ (by decide) h]
  rfl

theorem State.setTcbSt_tcbConvoy : (s.setTcbSt p i v).tcbConvoy p i = s.tcbConvoy p i := s.setTcbSt_tcbF p i v (by decide) 48 16

@[simp] theorem State.setTcbSt_gangs (q : Nat) : ((s.setTcbSt p i v).part q).gangs = (s.part q).gangs :=
  s.setTcbW_gangs p i _ (by decide) q
@[simp] theorem State.setTcbSt_preempts (q : Nat) : ((s.setTcbSt p i v).part q).preempts = (s.part q).preempts :=
  s.setTcbW_preempts p i _ (by decide) q
@[simp] theorem State.setTcbSt_grace (q : Nat) : ((s.setTcbSt p i v).part q).grace = (s.part q).grace :=
  s.setTcbW_grace p i _ (by decide) q
theorem State.setTcbSt_reg {a : Nat} (ha : BoardReg a) : (s.setTcbSt p i v).reg a = s.reg a := s.setTcbW_reg p i _ (by decide) ha

end

/-! ### A TCB after a write of a register that names no table -/

section
variable (s : State) {a : Nat} (v : Word) {p : Nat}

/-- A register that is written is one of another fabric, which no walk sees. -/
theorem State.setReg_eq_withFabric : s.setReg a v = s.withFabric s.ports (AMap.set s.regs a v) s.dev.flows := rfl

theorem State.setReg_paRead (key : Option Nat) (pa n : Nat) : (s.setReg a v).paRead key pa n = s.paRead key pa n := by
  rw [State.setReg_eq_withFabric, State.withFabric_paRead]

theorem State.setReg_partPage (h : a ≠ Pf.mmuRoot p) (va : Nat) : (s.setReg a v).partPage p va = s.partPage p va := by
  have hw : (s.setReg a v).walk p va = s.walk p va := by
    have hr : (s.setReg a v).rootOf p = s.rootOf p := by rw [State.rootOf, State.setReg_reg_other _ _ _ (Ne.symm h), State.rootOf]
    rw [State.walk, hr, State.setReg_eq_withFabric, State.withFabric_walkFrom, State.walk]
  rw [State.partPage, hw, State.partPage]

theorem State.setReg_partBad (h : a ≠ Pf.mmuRoot p) (va n : Nat) : (s.setReg a v).partBad p va n = s.partBad p va n := by
  rw [State.partBad, State.setReg_partPage s v h, State.partBad]
  rfl

theorem State.setReg_partThere (h : a ≠ Pf.mmuRoot p) (va n : Nat) : (s.setReg a v).partThere p va n = s.partThere p va n := by
  rw [State.partThere, State.setReg_partPage s v h, State.setReg_partBad s v h, State.partThere]

theorem State.setReg_partRead (h : a ≠ Pf.mmuRoot p) (va n : Nat) : (s.setReg a v).partRead p va n = s.partRead p va n := by
  rw [State.partRead, State.setReg_partPage s v h, State.setReg_partBad s v h, State.partRead]
  simp only [State.setReg_paRead]
  rfl

theorem State.setReg_tcb (h : a ≠ Pf.mmuRoot p) (h0 : a ≠ Pf.chr p 0) (i : Nat) : (s.setReg a v).tcb p i = s.tcb p i := by
  have ha : (s.setReg a v).tcbAddr p i = s.tcbAddr p i := by
    rw [State.tcbAddr, State.setReg_reg_other _ _ _ (Ne.symm h0), State.tcbAddr]
  unfold State.tcb State.tcb?
  simp only [State.setReg_part, ha, State.setReg_partThere s v h, State.setReg_partRead s v h]

end

/-! ### Memory does not see cores and partitions -/

/-- The state with other cores and partitions. -/
def State.withCoresParts (s : State) (cs : AMap Core) (ps : AMap Part) : State := { s with cores := cs, parts := ps }

section
variable (s : State) (cs : AMap Core) (ps : AMap Part) (p : Nat)

theorem State.withCoresParts_paRead (key : Option Nat) (pa n : Nat) : (s.withCoresParts cs ps).paRead key pa n = s.paRead key pa n := by
  induction n generalizing pa with
  | zero => rfl
  | succ n ih =>
    have hv : (s.withCoresParts cs ps).lineView (lineBase pa) key = s.lineView (lineBase pa) key := rfl
    rw [State.paRead, hv, ih, State.paRead]

theorem State.withCoresParts_walkFrom (root va : Nat) (levels : List (Nat × Nat × Nat)) (table : Nat) :
    (s.withCoresParts cs ps).walkFrom root va levels table = s.walkFrom root va levels table := by
  have hb (l : Nat) : (s.withCoresParts cs ps).lineBad l = s.lineBad l := rfl
  induction levels generalizing table with
  | nil => rfl
  | cons l levels ih => simp only [State.walkFrom, State.withCoresParts_paRead, hb, ih]

theorem State.withCoresParts_partPage (va : Nat) : (s.withCoresParts cs ps).partPage p va = s.partPage p va := by
  have hr : (s.withCoresParts cs ps).rootOf p = s.rootOf p := rfl
  rw [State.partPage, State.walk, State.withCoresParts_walkFrom, hr, State.partPage, State.walk]

theorem State.withCoresParts_partBad (va n : Nat) : (s.withCoresParts cs ps).partBad p va n = s.partBad p va n := by
  have hb (l : Nat) : (s.withCoresParts cs ps).lineBad l = s.lineBad l := rfl
  rw [State.partBad, State.withCoresParts_partPage, funext hb, State.partBad]

theorem State.withCoresParts_partThere (va n : Nat) : (s.withCoresParts cs ps).partThere p va n = s.partThere p va n := by
  rw [State.partThere, State.withCoresParts_partPage, State.withCoresParts_partBad, State.partThere]

theorem State.withCoresParts_partRead (va n : Nat) : (s.withCoresParts cs ps).partRead p va n = s.partRead p va n := by
  rw [State.partRead, State.withCoresParts_partPage, State.withCoresParts_partBad, State.partRead]
  simp only [State.withCoresParts_paRead]
  rfl

end

/-- A partition that is written with its TCBs. -/
theorem State.setPart_tcb (s : State) (p i : Nat) {q : Part} (h : q.tcbs = (s.part p).tcbs) : (s.setPart p q).tcb p i = s.tcb p i := by
  have he : s.setPart p q = s.withCoresParts s.cores (AMap.set s.parts p q) := rfl
  have ha : (s.setPart p q).tcbAddr p i = s.tcbAddr p i := rfl
  unfold State.tcb State.tcb?
  rw [State.setPart_part_same, h, ha, he]
  simp only [State.withCoresParts_partThere, State.withCoresParts_partRead]

/-- The half of a convoy's area that is not current, after a write of a core. -/
theorem State.setCore_otherHalf (s : State) (n : Nat) (k : Core) (p c : Nat) : (s.setCore n k).otherHalf p c = s.otherHalf p c := by
  have he : s.setCore n k = s.withCoresParts (AMap.set s.cores n k) s.parts := rfl
  have ha : (s.withCoresParts (AMap.set s.cores n k) s.parts).cvyAddr p c = s.cvyAddr p c := rfl
  rw [he, State.otherHalf, State.cvyWord, State.withCoresParts_partRead, ha, State.otherHalf, State.cvyWord]

end Machine
end Sys2Proof
end

section
/-! PROOFS of the family 03_host, O39. The gangs of a task that is stopped drain (R87, R93), what the Chartroom's pre-emption makes of a
task (R87, R95), and what the retirement of its last gang means to it (R69). -/

namespace Sys2Proof.Machine

/-! ### An event bit of the Chartroom (R95) -/

section
variable (s : State) (p : Nat) {bit : Nat}

@[simp] theorem State.chrEvt_part (q : Nat) : (s.chrEvt p bit).part q = s.part q := by
  unfold State.chrEvt
  dsimp only
  split
  · rfl
  · rfl

@[simp] theorem State.chrEvt_cyc : (s.chrEvt p bit).cyc = s.cyc := by
  unfold State.chrEvt
  dsimp only
  split
  · rfl
  · rfl

theorem State.chrEvt_reg_other {a : Nat} (h : a ≠ Pf.chr p 0x48) : (s.chrEvt p bit).reg a = s.reg a := by
  unfold State.chrEvt
  dsimp only
  split
  · rfl
  · exact State.setReg_reg_other _ _ _ h

/-- The bit is set. -/
theorem State.chrEvt_bit (h : bit < 64) : ((s.chrEvt p bit).reg (Pf.chr p 0x48)).getLsbD bit = true := by
  unfold State.chrEvt
  dsimp only
  split
  next hb => exact hb
  next =>
    change ((s.setReg _ _).reg _).getLsbD bit = true
    rw [State.setReg_reg_same, getLsbD_or_two_pow _ h]
    simp

end

/-! ### Gangs that are stopped -/

section
variable (s : State) (p i : Nat) (g : Gang) (why : Leave)

@[simp] theorem State.setGang_gangs :
    ((s.setGang p g).part p).gangs = (s.part p).gangs.map (fun h => if h.num = g.num then g else h) := by
  rw [State.setGang, State.setPart_part_same]

/-- A gang that is stopped drains; the contexts that end change no board. -/
theorem State.stopGang_sameBoard :
    ∃ u, SameBoard s u ∧ s.stopGang p g why = u.setGang p { g with draining := true, leave := why, chunks := [] } :=
  ⟨_, (SameBoard.refl s).foldl fun _ _ h => (h.foldl fun _ _ h => h.stopCtx).setCore, rfl⟩

theorem State.stopGang_gangs : ((s.stopGang p g why).part p).gangs =
    (s.part p).gangs.map (fun h => if h.num = g.num then { g with draining := true, leave := why, chunks := [] } else h) := by
  obtain ⟨u, hu, e⟩ := s.stopGang_sameBoard p g why
  rw [e, State.setGang_gangs, hu.gangs]

theorem State.stopGang_reg {a : Nat} (ha : BoardReg a) : (s.stopGang p g why).reg a = s.reg a := by
  obtain ⟨u, hu, e⟩ := s.stopGang_sameBoard p g why
  rw [e]
  exact hu.reg a ha

/-- Every gang drains afterwards that is none of before but one that was not stopped. -/
theorem State.stopGangs_draining (gs : List Gang) {h : Gang} (hm : h ∈ ((gs.foldl (fun s g => s.stopGang p g why) s).part p).gangs) :
    h.draining = true ∨ (h ∈ (s.part p).gangs ∧ h ∉ gs) := by
  induction gs generalizing s with
  | nil => exact .inr ⟨hm, List.not_mem_nil⟩
  | cons g gs ih =>
    rcases ih (s.stopGang p g why) hm with hd | ⟨hg, hn⟩
    · exact .inl hd
    · rw [State.stopGang_gangs, List.mem_map] at hg
      obtain ⟨h0, hm0, rfl⟩ := hg
      by_cases hnum : h0.num = g.num
      · rw [if_pos hnum]
        exact .inl rfl
      · rw [if_neg hnum] at hn ⊢
        refine .inr ⟨hm0, fun hc => ?_⟩
        rcases List.mem_cons.1 hc with rfl | hc
        · exact hnum rfl
        · exact hn hc

@[simp] theorem State.redealChunks_gangs (cs : List Chunk) : ((s.redealChunks p i cs).part p).gangs = (s.part p).gangs := by
  unfold State.redealChunks
  split
  · rfl
  · dsimp only
    rw [State.setPart_part_same]

theorem State.redealChunks_reg (cs : List Chunk) (a : Nat) : (s.redealChunks p i cs).reg a = s.reg a := by
  unfold State.redealChunks
  split
  · rfl
  · rfl

@[simp] theorem State.redealLost_gangs : ((s.redealLost p i).part p).gangs = (s.part p).gangs := by
  rw [State.redealLost, State.redealChunks_gangs, State.setPart_part_same]

theorem State.redealLost_reg (a : Nat) : (s.redealLost p i).reg a = s.reg a := State.redealChunks_reg ..

/-- All gangs of a task that is stopped drain. -/
theorem State.stopTask_draining (again : Bool) {h : Gang} (hm : h ∈ ((s.stopTask p i why again).part p).gangs) (hi : h.tcb = i) :
    h.draining = true := by
  rcases State.stopGangs_draining _ p why _ hm with hd | ⟨hg, hn⟩
  · exact hd
  · have hg : h ∈ (s.part p).gangs := by
      cases again with
      | false => exact hg
      | true => simpa using hg
    exact absurd (List.mem_filter.2 ⟨hg, decide_eq_true hi⟩ : h ∈ s.gangsOf p i) hn

theorem State.stopTask_reg (again : Bool) {a : Nat} (ha : BoardReg a) : (s.stopTask p i why again).reg a = s.reg a := by
  refine (foldl_keeps (fun s : State => s.reg a) (fun s g => s.stopGang_reg p g why ha) _ _).trans ?_
  cases again with
  | false => rfl
  | true => exact (State.redealChunks_reg ..).trans (State.redealLost_reg ..)

theorem State.gangsOf_eq_nil : s.gangsOf p i = [] ↔ (s.part p).gangs.any (fun g => g.tcb = i) = false := by
  simp [State.gangsOf]

end

/-! ### The last gang of a task has retired -/

section
variable {s : State} {p i : Nat}

/-- Not the last. -/
theorem State.taskRetired_of_gang (h : s.gangsOf p i ≠ []) : s.taskRetired p i = s := by
  rw [Ne, State.gangsOf_eq_nil, Bool.not_eq_false] at h
  rw [State.taskRetired, if_pos h]

/-- A task that becomes DONE decrements its successors in the next mesh cycle. -/
theorem State.taskDone_sameTcb : SameTcb (s.setTcbSt p i tDone) (s.taskDone p i) p i := by
  refine ((s.setTcbSt_sameTcb p i tDone).of_sameBoard
    ((SameBoard.refl _).readTcbs (p := p) (is := s.chain p 17 i)).newId).of_tcbs ?_
  unfold State.taskDone
  dsimp only
  rw [State.setPart_part_same]

theorem State.taskDone_preempts : ((s.taskDone p i).part p).preempts = (s.part p).preempts := by
  have hb := ((SameBoard.refl (s.setTcbSt p i tDone)).readTcbs (p := p) (is := s.chain p 17 i)).newId
  unfold State.taskDone
  dsimp only
  rw [State.setPart_part_same]
  exact (hb.preempts p).trans (State.setTcbSt_preempts ..)

/-- One that drains becomes DONE. -/
theorem State.taskRetired_draining (h : s.gangsOf p i = []) (hd : s.tcbSt p i = tDraining) :
    SameTcb (s.setTcbSt p i tDone) (s.taskRetired p i) p i ∧ ((s.taskRetired p i).part p).preempts = (s.part p).preempts := by
  rw [State.gangsOf_eq_nil] at h
  rw [State.taskRetired, if_neg (by rw [h]; decide), if_pos hd]
  dsimp only
  rw [State.setPart_part_same]
  exact ⟨State.taskDone_sameTcb.of_tcbs (by rw [State.setPart_part_same]), State.taskDone_preempts⟩

/-- One that a grace period stops becomes READY with what is left of it (R87). -/
theorem State.taskRetired_graced (h : s.gangsOf p i = []) (hr : s.tcbSt p i = tRunning) (hg : (AMap.get? (s.part p).grace i).isSome) :
    (s.taskRetired p i).tcbSt p i = tReady ∧ ((s.taskRetired p i).part p).grace = AMap.erase (s.part p).grace i ∧
      ∀ a, BoardReg a → (s.taskRetired p i).reg a = s.reg a := by
  rw [State.gangsOf_eq_nil] at h
  rw [State.taskRetired, if_neg (by rw [h]; decide), if_neg (by rw [hr]; decide), if_pos (by simp [hr, hg])]
  have hc := s.setTcbSt_sameTcb p i tReady
  have hst := s.setTcbSt_tcbSt p i tReady (by decide)
  have hgr := s.setTcbSt_grace p i tReady p
  have hreg := fun a (ha : BoardReg a) => s.setTcbSt_reg p i tReady ha
  generalize s.setTcbSt p i tReady = u at *
  dsimp only
  refine ⟨(hc.setGrace _ _).tcbSt.trans hst, ?_, fun a ha => ?_⟩
  · rw [State.setPart_part_same, hgr]
  · rw [State.setPart_reg]
    exact hreg a ha

end

/-! ### A pre-emption of a task outside a convoy (R87, R95) -/

section
variable {s : State} {p i : Nat}

/-- One without a fault is pre-empted at once. -/
theorem State.preempt_alone (hc : 1024 ≤ s.tcbConvoy p i) (hf : s.tcbSt p i ≠ tFaulted) : s.preempt p i = s.preemptTask p i := by
  rw [State.preempt, if_pos hc, if_neg hf]

theorem State.setWdog_gangs (w : AMap Nat) : ((s.setPart p { s.part p with wdog := w }).part p).gangs = (s.part p).gangs := by
  rw [State.setPart_part_same]

/-- A restartable one becomes READY, and its gangs drain. -/
theorem State.preemptTask_restartable (hr : s.tcbSt p i = tRunning) (h1 : s.tcbF p i 5 21 1 = 1) :
    (s.preemptTask p i).tcbSt p i = tReady ∧ (∀ g ∈ ((s.preemptTask p i).part p).gangs, g.tcb = i → g.draining = true) ∧
      ∀ a, BoardReg a → (s.preemptTask p i).reg a = s.reg a := by
  rw [State.preemptTask, if_neg (not_not.2 hr), if_pos h1]
  have hg := fun g => s.stopTask_draining p i .restart true (h := g)
  have hreg := fun a (ha : BoardReg a) => s.stopTask_reg p i .restart true ha
  generalize s.stopTask p i .restart true = u at *
  have hc := u.setTcbSt_sameTcb p i tReady
  have hst := u.setTcbSt_tcbSt p i tReady (by decide)
  rw [← u.setTcbSt_gangs p i tReady p] at hg
  have hreg := fun a (ha : BoardReg a) => (u.setTcbSt_reg p i tReady ha).trans (hreg a ha)
  generalize u.setTcbSt p i tReady = u at *
  dsimp only
  refine ⟨(hc.setWdog _).tcbSt.trans hst, ?_, fun a ha => ?_⟩
  · rw [State.setWdog_gangs]
    exact hg
  · rw [State.setPart_reg]
    exact hreg a ha

/-- Another's grace period starts as pre-emption finds it with a gang. -/
def State.graceStarts (s : State) (p i : Nat) : State :=
  s.setPart p { s.part p with grace := AMap.set (s.part p).grace i s.cyc }

theorem State.preemptTask_grace (hr : s.tcbSt p i = tRunning) (h0 : s.tcbF p i 5 21 1 = 0) (hg : AMap.get? (s.part p).grace i = none) :
    s.preemptTask p i = (s.graceStarts p i).taskRetired p i := by
  rw [State.preemptTask, if_neg (not_not.2 hr), if_neg (by rw [h0]; decide), hg, if_neg (by decide)]
  rfl

theorem State.graceStarts_tcbF (j lo n : Nat) : (s.graceStarts p i).tcbF p i j lo n = s.tcbF p i j lo n := by
  have ht : (s.graceStarts p i).tcb p i = s.tcb p i := s.setPart_tcb p i rfl
  rw [State.tcbF, State.tcbW, ht]
  rfl

@[simp] theorem State.graceStarts_gangsOf : (s.graceStarts p i).gangsOf p i = s.gangsOf p i := by
  rw [State.gangsOf, State.graceStarts, State.setPart_part_same]
  rfl

end

end Sys2Proof.Machine
end

section
/-! PROOFS of the family 03_host, O39. A write of CHR_PREEMPT (R87, R95): when its request is taken, and what it makes of one task. -/

namespace Sys2Proof.Machine

/-! ### CHR_PREEMPT (R95) -/

section
variable {s : State} {p : Nat} {v : Word}

theorem exec_chrPreempt_held (h : s.pilotRuns = false) : exec (.chrPreempt p v) s = .next s := by
  change execChrPreempt p v s = _
  simp [execChrPreempt, runPilot, runEvent, h]

theorem exec_chrPreempt_plain (h : s.pilotRuns = true) (hgo : v.getLsbD 17 = false) :
    exec (.chrPreempt p v) s = .next (s.setReg (Pf.chr p 0x30) ((v &&& 0x11FFF) ||| (s.reg (Pf.chr p 0x30) &&& 0x20000))) := by
  change execChrPreempt p v s = _
  simp [execChrPreempt, runPilot, runEvent, h, hgo, -BitVec.getLsbD_eq_getElem]

theorem exec_chrPreempt_late (h : s.pilotRuns = true) (hgo : v.getLsbD 17 = true) (ha : s.attempted p = true) :
    exec (.chrPreempt p v) s = .next (s.setReg (Pf.chr p 0x30) (v &&& 0x31FFF)) := by
  change execChrPreempt p v s = _
  simp [execChrPreempt, runPilot, runEvent, h, hgo, -BitVec.getLsbD_eq_getElem, ha]

theorem exec_chrPreempt_taken (h : s.pilotRuns = true) (hgo : v.getLsbD 17 = true) (ha : s.attempted p = false) :
    exec (.chrPreempt p v) s = .next (s.takePreempt p v) := by
  change execChrPreempt p v s = _
  simp [execChrPreempt, runPilot, runEvent, h, hgo, -BitVec.getLsbD_eq_getElem, ha]

end

/-- The register names no table: it leaves every TCB as it is read. -/
theorem State.setReg_preempt_tcb (s : State) (p q i : Nat) (v : Word) : (s.setReg (Pf.chr q 0x30) v).tcb p i = s.tcb p i :=
  State.setReg_tcb s v (by unfold Pf.chr Pf.mmuRoot; omega) (by unfold Pf.chr; omega) i

theorem State.setReg_preempt_tcbF (s : State) (p q i : Nat) (v : Word) (j lo n : Nat) :
    (s.setReg (Pf.chr q 0x30) v).tcbF p i j lo n = s.tcbF p i j lo n := by
  rw [State.tcbF, State.tcbW, State.setReg_preempt_tcb]
  rfl

/-- A request for one RUNNING task that is no member is that task's pre-emption. -/
theorem State.takePreempt_alone {s : State} {p i : Nat} {v : Word} (hv : v.getLsbD 16 = false) (hi : bitsOf v 0 13 = i)
    (hc : 1024 ≤ s.tcbConvoy p i) (hr : s.tcbSt p i = tRunning) :
    s.takePreempt p v = (s.setReg (Pf.chr p 0x30) (v &&& 0x11FFF)).preemptTask p i := by
  rw [State.takePreempt, hv, if_neg (by decide), hi]
  refine State.preempt_alone ?_ ?_
  · exact hc.trans_eq (s.setReg_preempt_tcbF p p i _ 8 48 16).symm
  · have h0 : (s.setReg (Pf.chr p 0x30) (v &&& 0x11FFF)).tcbSt p i = tRunning := (s.setReg_preempt_tcbF p p i _ 0 0 8).trans hr
    rw [h0]
    decide

/-- What a request for a RUNNING task outside a convoy leaves. -/
theorem State.preemptTask_graced {s : State} {p i : Nat} (hr : s.tcbSt p i = tRunning) (h0 : s.tcbF p i 5 21 1 = 0)
    (hg : AMap.get? (s.part p).grace i = none) :
    (s.gangsOf p i ≠ [] → s.preemptTask p i = s.graceStarts p i) ∧
      (s.gangsOf p i = [] → (s.preemptTask p i).tcbSt p i = tReady ∧ AMap.get? ((s.preemptTask p i).part p).grace i = none ∧
        ∀ a, BoardReg a → (s.preemptTask p i).reg a = s.reg a) := by
  rw [State.preemptTask_grace hr h0 hg]
  refine ⟨fun hn => State.taskRetired_of_gang (by rwa [State.graceStarts_gangsOf]), fun hn => ?_⟩
  have hgr : ((s.graceStarts p i).part p).grace = AMap.set (s.part p).grace i s.cyc := by rw [State.graceStarts, State.setPart_part_same]
  have hst : (s.graceStarts p i).tcbSt p i = tRunning := (State.graceStarts_tcbF 0 0 8).trans hr
  obtain ⟨h1, h2, h3⟩ := State.taskRetired_graced (s := s.graceStarts p i) (by rwa [State.graceStarts_gangsOf]) hst (by rw [hgr]; simp)
  refine ⟨h1, ?_, h3⟩
  rw [h2, hgr, AMap.erase_set_of_none _ hg, hg]

end Sys2Proof.Machine
end

section
/-! PROOFS of the family 03_host, O39. The end of a grace period (R87), the task watchdog (R60), and what a resolution makes of a FAULTED
task (R93). -/

namespace Sys2Proof.Machine

/-! ### A task becomes DISCARDED (R69) -/

section
variable {s u : State} {p i : Nat}

theorem SameTcb.discarded (h : SameTcb s u p i) (g w : AMap Nat) (r : AMap (List Chunk)) (l : AMap (List Gang)) (ps : List Nat) :
    SameTcb s (u.setPart p { u.part p with grace := g, wdog := w, redeal := r, lost := l, preempts := ps }) p i := h.setPart rfl

theorem State.discarded_gangs (g w : AMap Nat) (r : AMap (List Chunk)) (l : AMap (List Gang)) (ps : List Nat) :
    ((u.setPart p { u.part p with grace := g, wdog := w, redeal := r, lost := l, preempts := ps }).part p).gangs = (u.part p).gangs := by
  rw [State.setPart_part_same]

theorem State.discard_sameTcb (c x y : Nat) : SameTcb (s.setTcbSt p i tDiscarded) (s.discard p i c x y) p i := by
  unfold State.discard
  exact ((s.setTcbSt_sameTcb p i tDiscarded).discarded _ _ _ _ _).of_sameBoard (SameBoard.refl _).complete

theorem State.discard_tcbSt (c x y : Nat) : (s.discard p i c x y).tcbSt p i = tDiscarded :=
  (State.discard_sameTcb c x y).tcbSt.trans (s.setTcbSt_tcbSt p i tDiscarded (by decide))

theorem State.discard_gangs (c x y : Nat) : ((s.discard p i c x y).part p).gangs = (s.part p).gangs := by
  unfold State.discard
  dsimp only
  rw [((SameBoard.refl _).complete).gangs, State.discarded_gangs, State.setTcbSt_gangs]

/-! ### The end of a grace period -/

/-- A RUNNING task is stopped and DISCARDED. -/
theorem State.graceEnd_running (h : s.tcbSt p i = tRunning) :
    s.graceEnd p i = (s.stopTask p i .discard false).discard p i 0 0 0 := by
  rw [State.graceEnd, if_pos h]

/-- Nothing leaves another state by it. -/
theorem State.graceEnd_other (hr : s.tcbSt p i ≠ tRunning) (hd : s.tcbSt p i ≠ tDraining) : s.graceEnd p i = s := by
  rw [State.graceEnd, if_neg hr, if_neg hd]

theorem State.graceEnd_draining (h : s.tcbSt p i = tRunning) {g : Gang} (hg : g ∈ ((s.graceEnd p i).part p).gangs) (hi : g.tcb = i) :
    g.draining = true := by
  rw [State.graceEnd_running h, State.discard_gangs] at hg
  exact s.stopTask_draining p i .discard false hg hi

theorem SameTcb.chrEvt {bit : Nat} (h : SameTcb s u p i) : SameTcb s (u.chrEvt p bit) p i := h.of_tcbs (by rw [State.chrEvt_part])

/-- GRACE_EXPIRY of a task outside a convoy. -/
theorem exec_graceExpiry {t0 : Nat} (hg : AMap.get? (s.part p).grace i = some t0)
    (ht : t0 + s.regF (Pf.chr p 0x10) 0 32 * s.dev.clock ≤ s.cyc) (hn : s.gangsOf p i ≠ []) (hr : s.tcbSt p i = tRunning)
    (hc : 1024 ≤ s.tcbConvoy p i) : exec (.graceExpiry p i) s = .next ((s.graceEnd p i).chrEvt p 2) := by
  change execGraceExpiry p i s = _
  simp [execGraceExpiry, runEvent, State.micros, hg, hn, hr, Nat.not_lt.2 ht, Nat.not_lt.2 hc]

/-! ### The task watchdog (R60) -/

theorem exec_taskWatchdogExpiry {t0 : Nat} (hw : AMap.get? (s.part p).wdog i = some t0) (hl : s.regF (Pf.chr p 0x50) 0 32 ≠ 0)
    (ht : t0 + s.regF (Pf.chr p 0x50) 0 32 * s.dev.clock ≤ s.cyc) (hr : s.tcbSt p i = tRunning) :
    exec (.taskWatchdogExpiry p i) s = .next (((s.setRegF (Pf.chr p 0x50) 48 13 i).chrEvt p 5).progress p i) := by
  change execTaskWatchdogExpiry p i s = _
  simp [execTaskWatchdogExpiry, runEvent, State.micros, hw, hl, hr, Nat.not_lt.2 ht]

theorem State.progress_reg (a : Nat) : (s.progress p i).reg a = s.reg a := rfl

theorem State.progress_wdog : AMap.get? ((s.progress p i).part p).wdog i = some s.cyc := by
  rw [State.progress, State.setPart_part_same, AMap.get?_set_same]

/-! ### A fault is resolved (R93) -/

theorem exec_faultResolution_held {r : Resolution} (h : s.pilotRuns = false) : exec (.faultResolution p i r) s = .next s := by
  change execFaultResolution p i r s = _
  simp [execFaultResolution, runPilot, runEvent, h]

/-- No pre-emption has waited for it. -/
theorem State.waitingPreempt_of_nil (h : (s.part p).preempts = []) : s.waitingPreempt p i = s := by
  unfold State.waitingPreempt
  rw [h]
  rfl

/-- The state that a task with a fault resolved goes back to. -/
theorem State.backTo_eq : s.backTo p i =
    if (if s.recCount p i = 0 then s.liveGangs p i = 0 else s.acked p i = s.recCount p i) then tDraining else tRunning := by
  unfold State.backTo
  split
  · rfl
  · rfl

theorem State.backTo_cases : s.backTo p i = tDraining ∨ s.backTo p i = tRunning := by
  rw [State.backTo_eq]
  by_cases h : if s.recCount p i = 0 then s.liveGangs p i = 0 else s.acked p i = s.recCount p i
  · exact .inl (if_pos h)
  · exact .inr (if_neg h)

/-- The state of a task outside a convoy whose fault is resolved. -/
def State.resumedSt (s : State) (p i : Nat) : Nat := if s.backTo p i = tDraining ∧ s.gangsOf p i = [] then tDone else s.backTo p i

theorem State.resumedSt_ne : s.resumedSt p i ≠ tFaulted := by
  unfold State.resumedSt
  split
  · decide
  · rcases State.backTo_cases (s := s) (p := p) (i := i) with h | h
    · rw [h]; decide
    · rw [h]; decide

theorem State.setTcbSt_gangsOf (v : Nat) : (s.setTcbSt p i v).gangsOf p i = s.gangsOf p i := by
  rw [State.gangsOf, State.setTcbSt_gangs, State.gangsOf]

/-- A task outside a convoy goes back: the Chartroom caches it as the state says, and the pre-emptions that wait stand. -/
theorem State.backFrom_alone (hc : 1024 ≤ s.tcbConvoy p i) :
    SameTcb (s.backFrom p i) (s.backFrom p i) p i ∧ (s.backFrom p i).tcbSt p i = s.resumedSt p i ∧
      ((s.backFrom p i).part p).preempts = (s.part p).preempts := by
  have hst : (s.setTcbSt p i (s.backTo p i)).tcbSt p i = s.backTo p i := s.setTcbSt_tcbSt p i _ (by
    rcases State.backTo_cases (s := s) (p := p) (i := i) with h | h
    · rw [h]; decide
    · rw [h]; decide)
  have hu := s.setTcbSt_sameTcb p i (s.backTo p i)
  have hpre := s.setTcbSt_preempts p i (s.backTo p i) p
  rw [← State.setTcbSt_tcbConvoy s p i (s.backTo p i)] at hc
  unfold State.backFrom State.resumedSt
  rw [← State.setTcbSt_gangsOf (s.backTo p i)]
  generalize s.setTcbSt p i (s.backTo p i) = u at *
  dsimp only
  rw [hst, decide_eq_false (Nat.not_lt.2 hc), Bool.false_and, Bool.not_false, Bool.and_true]
  by_cases hb : s.backTo p i = tDraining
  · rw [if_pos (decide_eq_true hb)]
    by_cases hn : u.gangsOf p i = []
    · obtain ⟨h1, h2⟩ := State.taskRetired_draining hn (hst.trans hb)
      rw [if_pos ⟨hb, hn⟩]
      exact ⟨h1.self, h1.tcbSt.trans (u.setTcbSt_tcbSt p i tDone (by decide)), h2.trans hpre⟩
    · rw [State.taskRetired_of_gang hn, if_neg (fun h => hn h.2)]
      exact ⟨hu, hst, hpre⟩
  · rw [if_neg (by rw [decide_eq_true_iff]; exact hb), if_neg (fun h => hb h.1)]
    exact ⟨hu, hst, hpre⟩

/-! ### A release of a context leaves a task that is not FAULTED -/

/-- What a release resumes is the fault of a task. -/
theorem State.resumeTask_keeps {n x : Nat} (h : SameTcb s u p i) (hf : s.tcbSt p i ≠ tFaulted) :
    SameTcb s (u.resumeTask n x) p i ∧ ((u.resumeTask n x).part p).preempts = (u.part p).preempts := by
  unfold State.resumeTask
  split
  · exact ⟨h, rfl⟩
  · dsimp only
    split
    next q g _ hcond =>
      refine ⟨SameTcb.setTcbW _ _ _ _ (by decide) h ?_, State.setTcbSt_preempts ..⟩
      by_cases hq : p = q
      · refine .inr fun hi => hf ?_
        subst hq hi
        rw [← h.tcbSt]
        simp only [Bool.and_eq_true, decide_eq_true_eq] at hcond
        exact hcond.1.1.1.1
      · exact .inl hq
    next => exact ⟨h, rfl⟩

/-- The rest of a release changes no board. -/
theorem State.releaseCtx_sameBoard (n x : Nat) : ∃ w, SameBoard u w ∧ SameBoard (w.resumeTask n x) (u.releaseCtx n x) := by
  refine ⟨if (u.ctx n x).paused then u.rejoin n x else u, .ite (SameBoard.refl u).rejoin (.refl u), ?_⟩
  unfold State.releaseCtx
  exact SameBoard.setChain (SameBoard.refl _).clearRec.setCtx

theorem State.releaseCtx_keeps {n x : Nat} (h : SameTcb s u p i) (hf : s.tcbSt p i ≠ tFaulted) :
    SameTcb s (u.releaseCtx n x) p i ∧ ((u.releaseCtx n x).part p).preempts = (u.part p).preempts := by
  obtain ⟨w, hw, hr⟩ := u.releaseCtx_sameBoard n x
  obtain ⟨h1, h2⟩ := State.resumeTask_keeps (n := n) (x := x) (h.of_sameBoard hw) hf
  exact ⟨h1.of_sameBoard hr, (hr.preempts p).trans (h2.trans (hw.preempts p))⟩

end

end Sys2Proof.Machine
end

section
/-! PROOFS of the family 03_host, O39. A FAULTED task outside a convoy is resolved (R93): it resumes, it restarts, or it is killed. -/

namespace Sys2Proof.Machine

/-! ### A task with the next READYSEQ (R77) -/

section
variable (s : State) (p i : Nat)

/-- The task that has taken its place in the order, before its tiles are prefetched. -/
def State.sequenced (s : State) (p i : Nat) : State :=
  (s.setTcbF p i 8 0 48 (s.regF (Pf.chr p 0x38) 0 48)).setReg (Pf.chr p 0x38)
    (BitVec.ofNat 64 ((s.regF (Pf.chr p 0x38) 0 48 + 1) % 2 ^ 48))

/-- Prefetches leave the board. -/
theorem State.seqOne_sameBoard : SameBoard (s.sequenced p i) (s.seqOne p i) := (SameBoard.refl _).foldl fun _ _ h => h.prefetch

theorem State.sequenced_sameTcb :
    SameTcb (s.setTcbF p i 8 0 48 (s.regF (Pf.chr p 0x38) 0 48)) (s.sequenced p i) p i :=
  (s.setTcbW_sameTcb p i _ (by decide)).of_tcbs (by rw [State.sequenced, State.setReg_part, State.setTcbF])

theorem State.seqOne_sameTcb : SameTcb (s.setTcbF p i 8 0 48 (s.regF (Pf.chr p 0x38) 0 48)) (s.seqOne p i) p i :=
  (s.sequenced_sameTcb p i).of_sameBoard (s.seqOne_sameBoard p i)

theorem State.seqOne_tcbSt : (s.seqOne p i).tcbSt p i = s.tcbSt p i := by
  rw [(s.seqOne_sameTcb p i).tcbSt, State.tcbSt, State.tcbF, State.setTcbF, State.setTcbW_tcbW_other _ _ _ _ (by decide) (by decide)]
  rfl

theorem State.seqOne_readySeq : (s.seqOne p i).tcbF p i 8 0 48 = s.regF (Pf.chr p 0x38) 0 48 := by
  refine ((s.seqOne_sameTcb p i).tcbF 8 0 48).trans ?_
  rw [State.tcbF, State.setTcbF, State.setTcbW_tcbW_same _ _ _ _ (by decide), bitsOf_putBits_same _ _ (by decide)]
  exact Nat.mod_eq_of_lt (bitsOf_lt _ _ _)

theorem State.seqOne_regF :
    (s.seqOne p i).regF (Pf.chr p 0x38) 0 48 = (s.regF (Pf.chr p 0x38) 0 48 + 1) % 2 ^ 48 := by
  rw [State.regF, (s.seqOne_sameBoard p i).reg _ (boardReg_chr p (.inr (.inl rfl))), State.sequenced, State.setReg_reg_same]
  simp only [bitsOf, BitVec.toNat_ofNat]
  omega

theorem State.seqOne_preempts : ((s.seqOne p i).part p).preempts = (s.part p).preempts := by
  rw [(s.seqOne_sameBoard p i).preempts, State.sequenced, State.setReg_part, State.setTcbF, State.setTcbW_preempts _ _ _ _ (by decide)]

end

/-! ### The three resolutions -/

section
variable {s : State} {p i : Nat}

theorem State.redealChunks_preempts (cs : List Chunk) : ((s.redealChunks p i cs).part p).preempts = (s.part p).preempts := by
  unfold State.redealChunks
  split
  · rfl
  · dsimp only
    rw [State.setPart_part_same]

theorem State.redealLost_preempts : ((s.redealLost p i).part p).preempts = (s.part p).preempts := by
  rw [State.redealLost, State.redealChunks_preempts, State.setPart_part_same]

theorem State.redealLost_gangsOf : (s.redealLost p i).gangsOf p i = s.gangsOf p i := by
  rw [State.gangsOf, State.redealLost_gangs, State.gangsOf]

theorem runPilot_of_runs (f : State → Option State) (hp : s.pilotRuns = true) : runPilot s f = .next ((f s).getD s) := by
  simp [runPilot, runEvent, hp]

variable (hp : s.pilotRuns = true) (hf : s.tcbSt p i = tFaulted)
include hp hf

/-- It resumes. -/
theorem exec_faultResolution_resume (hc : 1024 ≤ s.tcbConvoy p i) (hw : (s.part p).preempts = []) :
    ∃ t, exec (.faultResolution p i .resume) s = .next t ∧ t.tcbSt p i = s.resumedSt p i := by
  change ∃ t, execFaultResolution p i .resume s = .next t ∧ _
  rw [execFaultResolution, runPilot_of_runs _ hp, if_neg (not_not.2 hf)]
  dsimp only
  rw [Option.getD_some]
  refine ⟨_, rfl, ?_⟩
  obtain ⟨h1, h2, h3⟩ := State.backFrom_alone hc
  have stays (w : State) (h : SameTcb (s.backFrom p i) w p i) (hpre : (w.part p).preempts = ((s.backFrom p i).part p).preempts) :
      (w.waitingPreempt p i).tcbSt p i = s.resumedSt p i := by
    rw [State.waitingPreempt_of_nil (hpre.trans (h3.trans hw))]
    exact h.tcbSt.trans h2
  refine stays _ ?_ ?_
  · split
    · exact (State.releaseCtx_keeps h1 (h2 ▸ State.resumedSt_ne)).1
    · exact h1
  · split
    · exact (State.releaseCtx_keeps h1 (h2 ▸ State.resumedSt_ne)).2
    · rfl

/-- It restarts with no gang left. -/
theorem exec_faultResolution_restart (hw : (s.part p).preempts = []) (hn : s.gangsOf p i = []) :
    exec (.faultResolution p i .restart) s = .next (((s.redealLost p i).setTcbSt p i tReady).seqOne p i) := by
  change execFaultResolution p i .restart s = _
  rw [execFaultResolution, runPilot_of_runs _ hp, if_neg (not_not.2 hf)]
  dsimp only
  rw [hn, List.find?_nil]
  dsimp only
  rw [State.redealLost_gangsOf, if_pos hn, Option.getD_some, State.waitingPreempt_of_nil]
  rw [State.seqOne_preempts, State.setTcbSt_preempts, State.redealLost_preempts, hw]

/-- It is killed with no gang left. -/
theorem exec_faultResolution_kill (hn : s.gangsOf p i = []) :
    exec (.faultResolution p i .kill) s = .next (s.discard p i (s.tcbF p i 9 0 8) (s.tcbF p i 9 8 8) (s.tcbF p i 9 16 8)) := by
  change execFaultResolution p i .kill s = _
  rw [execFaultResolution, runPilot_of_runs _ hp, if_neg (not_not.2 hf)]
  dsimp only
  rw [hn, List.foldl_nil, Option.getD_some]

end

end Sys2Proof.Machine
end

section
/-! PROOFS of the family 03_host, O39. The checkpoint of a convoy (R88): the image, its commit, and the end of the pause. -/

namespace Sys2Proof.Machine

/-! ### The image -/

section
variable (s : State) (p c : Nat)

theorem State.setFresh_part (n : Nat) : ({ s with fresh := n } : State).part p = s.part p := rfl

theorem State.cvyCores_of_gangs {t : State} (h : (t.part p).gangs = (s.part p).gangs) : t.cvyCores p c = s.cvyCores p c := by
  rw [State.cvyCores, h, State.cvyCores]

/-- An image lists the cores by their member and their place in its gang. -/
theorem imagePlaces {α β : Type} (es : List (Nat × Nat × α)) (f : Nat × Nat × α → β) :
    (es.map (fun e => (e.1, e.2.1, f e))).map (fun e => (e.1, e.2.1)) = es.map (fun e => (e.1, e.2.1)) := by
  rw [List.map_map]
  rfl

/-- The image is written: step 5 goes on. -/
def State.imageWritten (s : State) (p c half n : Nat) (img : List (Nat × Nat × Core)) : State :=
  { s.setPart p { s.part p with
      images := AMap.set (s.part p).images (2 * c + half) img, pause := AMap.set (s.part p).pause c 5 } with fresh := n }

theorem State.imageWritten_pause (half n : Nat) (img : List (Nat × Nat × Core)) :
    AMap.get? ((s.imageWritten p c half n img).part p).pause c = some 5 := by
  rw [State.imageWritten, State.setFresh_part, State.setPart_part_same, AMap.get?_set_same]

theorem State.imageWritten_images (half n : Nat) (img : List (Nat × Nat × Core)) :
    AMap.getD ((s.imageWritten p c half n img).part p).images (2 * c + half) [] = img := by
  rw [State.imageWritten, State.setFresh_part, State.setPart_part_same, AMap.getD_set_same]

/-- The cores' registers before the image: each context's that holds any are written back. -/
def State.regsBack (s : State) (es : List (Nat × Nat × Nat)) : State :=
  es.foldl (fun s e => s.setCore e.2.2 (ctxNums.foldl (fun k x => if k.holds x then k.writeBackAll x else k) (s.core e.2.2))) s

theorem State.regsBack_otherHalf (es : List (Nat × Nat × Nat)) : (s.regsBack es).otherHalf p c = s.otherHalf p c :=
  foldl_keeps (f := fun (s : State) (e : Nat × Nat × Nat) =>
    s.setCore e.2.2 (ctxNums.foldl (fun k x => if k.holds x then k.writeBackAll x else k) (s.core e.2.2)))
    (fun s : State => s.otherHalf p c) (fun s _ => s.setCore_otherHalf _ _ p c) es s

theorem exec_checkpointImageWrite (hp : AMap.get? (s.part p).pause c = some 1)
    (hq : s.cvyQuiet ((s.cvyCores p c).map (fun e => e.2.2)) = true) :
    ∃ (u : State) (n : Nat) (f : Nat × Nat × Nat → Core), exec (.checkpointImageWrite p c) s =
      .next (u.imageWritten p c ((s.regsBack (s.cvyCores p c)).otherHalf p c) n ((s.cvyCores p c).map (fun e => (e.1, e.2.1, f e)))) := by
  change ∃ (u : State) (n : Nat) (f : Nat × Nat × Nat → Core), execCheckpointImageWrite p c s = _
  rw [execCheckpointImageWrite, runEvent, if_neg (by simp [hp, hq]), Option.getD_some]
  exact ⟨_, _, _, rfl⟩

/-! ### The commit -/

/-- The log of the convoy is done. -/
theorem State.commitLog_log : ((s.commitLog p c).part p).log = AMap.erase (s.part p).log c := by
  unfold State.commitLog
  extract_lets s1 st s2
  have h1 : SameBoard s s1 := (SameBoard.refl s).foldl fun _ _ h => h.engWrite
  have h2 : SameBoard s s2 := by
    unfold s2
    split
    · exact h1.setCvyWord
    · exact h1
  rw [State.setPart_part_same, h2.log]

/-- The image is current and the log committed: step 6 goes on, and the event is told. -/
def State.imageCurrent (s : State) (p c n : Nat) : State :=
  { (s.setPart p { s.part p with pause := AMap.set (s.part p).pause c 6 }).chrEvt p 4 with fresh := n }

theorem State.imageCurrent_pause (n : Nat) : AMap.get? ((s.imageCurrent p c n).part p).pause c = some 6 := by
  rw [State.imageCurrent, State.setFresh_part, State.chrEvt_part, State.setPart_part_same, AMap.get?_set_same]

theorem State.imageCurrent_log (n : Nat) : ((s.imageCurrent p c n).part p).log = (s.part p).log := by
  rw [State.imageCurrent, State.setFresh_part, State.chrEvt_part, State.setPart_part_same]

theorem State.imageCurrent_bit (n : Nat) : ((s.imageCurrent p c n).reg (Pf.chr p 0x48)).getLsbD 4 = true :=
  State.chrEvt_bit (s.setPart p { s.part p with pause := AMap.set (s.part p).pause c 6 }) p (bit := 4) (by decide)

/-- What a commit writes before its log leaves the boards, and so does what it writes back after it. -/
theorem State.commitImage_sameBoard :
    ∃ u n, SameBoard s u ∧ SameBoard ((u.commitLog p c).imageCurrent p c n) (s.commitImage p c) :=
  ⟨_, _, (SameBoard.refl s).partFill.setCvyWord.setCvyWord, (SameBoard.refl _).foldl fun _ _ h => h.drain.drainUo⟩

/-- A pause whose image is current has its log committed and the event told. -/
theorem State.commitImage_keeps (l : List LogEnt) (hl : (s.part p).log = [(c, l)]) :
    AMap.get? ((s.commitImage p c).part p).pause c = some 6 ∧ ((s.commitImage p c).reg (Pf.chr p 0x48)).getLsbD 4 = true ∧
      ((s.commitImage p c).part p).log = [] := by
  obtain ⟨u, n, hu, ht⟩ := s.commitImage_sameBoard p c
  refine ⟨?_, ?_, ?_⟩
  · rw [ht.pause, State.imageCurrent_pause]
  · rw [ht.reg _ (boardReg_chr p (.inr (.inr rfl))), State.imageCurrent_bit]
  · rw [ht.log, State.imageCurrent_log, State.commitLog_log, hu.log, hl]
    simp [AMap.erase]

theorem exec_checkpointCommit (hp : AMap.get? (s.part p).pause c = some 5) :
    exec (.checkpointCommit p c) s = .next (s.commitImage p c) := by
  change execCheckpointCommit p c s = _
  simp only [execCheckpointCommit, runEvent, hp]
  rw [Option.getD_some]

/-! ### The end of the pause -/

theorem exec_checkpointCommit_ends (hp : AMap.get? (s.part p).pause c = some 6) (hu : ∀ e ∈ s.cvyCores p c, s.unacked e.2.2 = []) :
    exec (.checkpointCommit p c) s = .next (s.endPause p c) := by
  have ha : (s.cvyCores p c).all (fun e => s.unacked e.2.2 = []) = true := by simpa using hu
  change execCheckpointCommit p c s = _
  simp only [execCheckpointCommit, runEvent, hp, ha, if_true]
  rw [Option.getD_some]

/-- A core whose contexts go on. -/
def Core.resumed (k : Core) : Core := { k with ctxs := k.ctxs.map (fun x => { x with paused := false }) }

theorem Core.resumed_paused (k : Core) {x : Nat} (h : x < 11) : (k.resumed.ctx x).paused = false := by
  rw [Core.ctx, dif_pos h, Core.resumed, Vector.getElem_map]

/-- The contexts of each core go on. -/
theorem State.foldl_resumed_paused (es : List (Nat × Nat × Nat)) {n x : Nat} (hx : x < 11)
    (h : (∃ e ∈ es, e.2.2 = n) ∨ (s.ctx n x).paused = false) :
    ((es.foldl (fun s e => s.setCore e.2.2 (s.core e.2.2).resumed) s).ctx n x).paused = false := by
  induction es generalizing s with
  | nil => exact h.resolve_left (fun ⟨_, he, _⟩ => List.not_mem_nil he)
  | cons e es ih =>
    refine ih _ ?_
    by_cases hn : n = e.2.2
    · subst hn
      refine .inr ?_
      rw [State.ctx, State.setCore_core_same]
      exact Core.resumed_paused _ hx
    · rcases h with ⟨d, hd, hdn⟩ | h
      · rcases List.mem_cons.1 hd with rfl | hd
        · exact absurd hdn.symm hn
        · exact .inl ⟨d, hd, hdn⟩
      · refine .inr ?_
        rw [State.ctx, State.setCore_core_other _ _ _ hn]
        exact h

/-- Step 7: the pause is over. -/
def State.pauseOver (s : State) (p c : Nat) : State := s.setPart p { s.part p with pause := AMap.erase (s.part p).pause c }

/-- No core of the convoy keeps a clean line (R168). -/
def State.cvyInvalidated (s : State) (p c : Nat) : State := (s.cvyCores p c).foldl (fun s e => s.invalidateAll e.2.2) s

theorem State.cvyInvalidated_part (q : Nat) : (s.cvyInvalidated p c).part q = s.part q :=
  foldl_keeps (f := fun (s : State) (e : Nat × Nat × Nat) => s.invalidateAll e.2.2) (fun s : State => s.part q) (fun _ _ => rfl) _ _

theorem State.pauseOver_pause : ((s.pauseOver p c).part p).pause = AMap.erase (s.part p).pause c := by
  rw [State.pauseOver, State.setPart_part_same]

theorem State.pauseOver_preempts : ((s.pauseOver p c).part p).preempts = (s.part p).preempts := by
  rw [State.pauseOver, State.setPart_part_same]

/-- The contexts of a convoy that no pre-emption waits for go on. -/
def State.cvyResumed (s : State) (p c : Nat) : State :=
  (s.cvyCores p c).foldl (fun s e => s.setCore e.2.2 (s.core e.2.2).resumed) s

theorem State.cvyResumed_part (q : Nat) : (s.cvyResumed p c).part q = s.part q :=
  foldl_keeps (f := fun (s : State) (e : Nat × Nat × Nat) => s.setCore e.2.2 (s.core e.2.2).resumed) (fun s : State => s.part q)
    (fun _ _ => rfl) _ _

theorem State.cvyResumed_paused {e : Nat × Nat × Nat} (he : e ∈ (s.cvyResumed p c).cvyCores p c) {x : Nat} (hx : x < 11) :
    ((s.cvyResumed p c).ctx e.2.2 x).paused = false := by
  rw [State.cvyCores_of_gangs s p c (by rw [State.cvyResumed_part])] at he
  exact s.foldl_resumed_paused _ hx (.inl ⟨e, he, rfl⟩)

theorem State.endPause_of_no_preempt (hw : 8192 + c ∉ (s.part p).preempts) :
    s.endPause p c = ((s.cvyInvalidated p c).pauseOver p c).cvyResumed p c := by
  refine if_neg ?_
  have hp : (((s.cvyInvalidated p c).pauseOver p c).part p).preempts.contains (8192 + c) = false := by
    rw [State.pauseOver_preempts, State.cvyInvalidated_part]
    simpa using hw
  intro h
  rw [Bool.and_eq_true] at h
  exact absurd (hp.symm.trans h.1) (by decide)

end

end Sys2Proof.Machine
end

section
/-! PROOFS of the family 03_host, O39. The statement, clause by clause. -/

namespace Sys2Proof.Machine

section
variable {s : State} {p i : Nat}

/-- No register of the board changes by it. -/
theorem State.preemptTask_reg (hr : s.tcbSt p i = tRunning) {a : Nat} (ha : BoardReg a) : (s.preemptTask p i).reg a = s.reg a := by
  by_cases h1 : s.tcbF p i 5 21 1 = 1
  · exact (State.preemptTask_restartable hr h1).2.2 a ha
  · have h0 : s.tcbF p i 5 21 1 = 0 := by
      have := bitsOf_lt (s.tcbW p i 5) 21 1
      unfold State.tcbF at h1 ⊢
      omega
    cases hg : AMap.get? (s.part p).grace i with
    | some t => rw [State.preemptTask, if_neg (not_not.2 hr), if_neg h1, hg, if_pos Option.isSome_some]
    | none =>
      obtain ⟨hsome, hnone⟩ := State.preemptTask_graced hr h0 hg
      by_cases hn : s.gangsOf p i = []
      · exact (hnone hn).2.2 a ha
      · rw [hsome hn, State.graceStarts, State.setPart_reg]

/-- A request before the attempt of its mesh cycle, of a RUNNING task outside a convoy (R87, R95). -/
theorem chrPreempt_takes {v : Word} (hp : s.pilotRuns = true) (hgo : v.getLsbD 17 = true) (hall : v.getLsbD 16 = false)
    (hi : (v.extractLsb' 0 13).toNat = i) (hc : 1024 ≤ s.tcbConvoy p i) (hr : s.tcbSt p i = tRunning) (ha : s.attempted p = false) :
    ∃ t, exec (.chrPreempt p v) s = .next t ∧ t.reg (Pf.chr p 0x30) = v &&& 0x11FFF ∧
      (s.tcbF p i 5 21 1 = 1 → t.tcbSt p i = tReady ∧ ∀ g ∈ (t.part p).gangs, g.tcb = i → g.draining = true) ∧
      (s.tcbF p i 5 21 1 = 0 → AMap.get? (s.part p).grace i = none →
        (s.gangsOf p i ≠ [] →
          t.tcbSt p i = tRunning ∧ AMap.get? (t.part p).grace i = some s.cyc ∧ (t.part p).gangs = (s.part p).gangs) ∧
        (s.gangsOf p i = [] → t.tcbSt p i = tReady ∧ AMap.get? (t.part p).grace i = none)) := by
  have hb : bitsOf v 0 13 = i := by
    rw [← hi, BitVec.extractLsb'_toNat, Nat.shiftRight_eq_div_pow, bitsOf]
  rw [exec_chrPreempt_taken hp hgo ha, State.takePreempt_alone hall hb hc hr]
  have hu (j lo n : Nat) := s.setReg_preempt_tcbF p p i (v &&& 0x11FFF) j lo n
  have hreg : (s.setReg (Pf.chr p 0x30) (v &&& 0x11FFF)).reg (Pf.chr p 0x30) = v &&& 0x11FFF := State.setReg_reg_same ..
  have hpart : (s.setReg (Pf.chr p 0x30) (v &&& 0x11FFF)).part p = s.part p := State.setReg_part ..
  have hcyc : (s.setReg (Pf.chr p 0x30) (v &&& 0x11FFF)).cyc = s.cyc := State.setReg_cyc ..
  have hgs : (s.setReg (Pf.chr p 0x30) (v &&& 0x11FFF)).gangsOf p i = s.gangsOf p i := by rw [State.gangsOf, hpart, State.gangsOf]
  generalize s.setReg (Pf.chr p 0x30) (v &&& 0x11FFF) = u at *
  have hr' : u.tcbSt p i = tRunning := (hu 0 0 8).trans hr
  rw [← hu 5 21 1, ← hpart, ← hcyc, ← hgs]
  refine ⟨_, rfl, ?_, ?_, ?_⟩
  · rw [State.preemptTask_reg hr' (boardReg_chr p (.inl rfl)), hreg]
  · intro h1
    obtain ⟨h, hg, -⟩ := State.preemptTask_restartable hr' h1
    exact ⟨h, hg⟩
  · intro h0 hg
    obtain ⟨hsome, hnone⟩ := State.preemptTask_graced hr' h0 hg
    refine ⟨fun hn => ?_, fun hn => ⟨(hnone hn).1, (hnone hn).2.1⟩⟩
    rw [hsome hn]
    refine ⟨(State.graceStarts_tcbF 0 0 8).trans hr', ?_, ?_⟩
    · rw [State.graceStarts, State.setPart_part_same, AMap.get?_set_same]
    · rw [State.graceStarts, State.setPart_part_same]

/-- The end of a grace period of a RUNNING task outside a convoy (R87). -/
theorem graceExpiry_discards {t0 : Nat} (hg : AMap.get? (s.part p).grace i = some t0)
    (ht : t0 + s.regF (Pf.chr p 0x10) 0 32 * s.dev.clock ≤ s.cyc) (hn : s.gangsOf p i ≠ []) (hr : s.tcbSt p i = tRunning)
    (hc : 1024 ≤ s.tcbConvoy p i) :
    ∃ t, exec (.graceExpiry p i) s = .next t ∧ t.tcbSt p i = tDiscarded ∧ (t.reg (Pf.chr p 0x48)).getLsbD 2 = true ∧
      ∀ g ∈ (t.part p).gangs, g.tcb = i → g.draining = true := by
  refine ⟨_, exec_graceExpiry hg ht hn hr hc, ?_, State.chrEvt_bit _ p (by decide), fun g hg hi => ?_⟩
  · rw [State.graceEnd_running hr]
    exact (State.discard_sameTcb 0 0 0).chrEvt.tcbSt.trans (State.setTcbSt_tcbSt _ p i tDiscarded (by decide))
  · rw [State.chrEvt_part] at hg
    exact State.graceEnd_draining hr hg hi

/-- A RUNNING task without progress for the watchdog's limit (R60). -/
theorem taskWatchdogExpiry_names {t0 : Nat} (hi : i < 8192) (hw : AMap.get? (s.part p).wdog i = some t0)
    (hl : s.regF (Pf.chr p 0x50) 0 32 ≠ 0) (ht : t0 + s.regF (Pf.chr p 0x50) 0 32 * s.dev.clock ≤ s.cyc) (hr : s.tcbSt p i = tRunning) :
    ∃ t, exec (.taskWatchdogExpiry p i) s = .next t ∧ t.regF (Pf.chr p 0x50) 48 13 = i ∧ (t.reg (Pf.chr p 0x48)).getLsbD 5 = true ∧
      AMap.get? (t.part p).wdog i = some s.cyc := by
  refine ⟨_, exec_taskWatchdogExpiry hw hl ht hr, ?_, ?_, ?_⟩
  · rw [State.regF, State.progress_reg, State.chrEvt_reg_other _ _ (by unfold Pf.chr; omega)]
    exact (State.regF_setRegF_same s _ i (by decide)).trans (Nat.mod_eq_of_lt hi)
  · rw [State.progress_reg]
    exact State.chrEvt_bit _ p (by decide)
  · rw [State.progress_wdog, State.chrEvt_cyc]
    rfl

/-- The resolutions of a FAULTED task outside a convoy, for which no pre-emption waits (R93). -/
theorem faultResolution_answers (hp : s.pilotRuns = true) (hf : s.tcbSt p i = tFaulted) (hc : 1024 ≤ s.tcbConvoy p i)
    (hw : (s.part p).preempts = []) :
    (∃ t, exec (.faultResolution p i .resume) s = .next t ∧ t.tcbSt p i = s.resumedSt p i) ∧
      (s.gangsOf p i = [] → ∃ t, exec (.faultResolution p i .restart) s = .next t ∧ t.tcbSt p i = tReady ∧
        t.tcbF p i 8 0 48 = s.regF (Pf.chr p 0x38) 0 48 ∧ t.regF (Pf.chr p 0x38) 0 48 = (s.regF (Pf.chr p 0x38) 0 48 + 1) % 2 ^ 48) ∧
      (s.gangsOf p i = [] → ∃ t, exec (.faultResolution p i .kill) s = .next t ∧ t.tcbSt p i = tDiscarded) := by
  refine ⟨exec_faultResolution_resume hp hf hc hw, fun hn => ⟨_, exec_faultResolution_restart hp hf hw hn, ?_, ?_, ?_⟩,
    fun hn => ⟨_, exec_faultResolution_kill hp hf hn, State.discard_tcbSt _ _ _⟩⟩
  · rw [State.seqOne_tcbSt, State.setTcbSt_tcbSt _ _ _ _ (by decide)]
  · rw [State.seqOne_readySeq, State.regF, State.setTcbSt_reg _ _ _ _ (boardReg_chr p (.inr (.inl rfl))), State.redealLost_reg, State.regF]
  · rw [State.seqOne_regF, State.regF, State.setTcbSt_reg _ _ _ _ (boardReg_chr p (.inr (.inl rfl))), State.redealLost_reg, State.regF]

/-- The image of a convoy that is quiet (R88, step 4). -/
theorem checkpointImageWrite_lists {c : Nat} (hp : AMap.get? (s.part p).pause c = some 1)
    (hq : s.cvyQuiet ((s.cvyCores p c).map (fun e => e.2.2)) = true) :
    ∃ t, exec (.checkpointImageWrite p c) s = .next t ∧ AMap.get? (t.part p).pause c = some 5 ∧
      (AMap.getD (t.part p).images (2 * c + s.otherHalf p c) []).map (fun e => (e.1, e.2.1)) =
        (s.cvyCores p c).map (fun e => (e.1, e.2.1)) := by
  obtain ⟨u, n, f, h⟩ := exec_checkpointImageWrite s p c hp hq
  rw [State.regsBack_otherHalf] at h
  refine ⟨_, h, State.imageWritten_pause .., ?_⟩
  rw [State.imageWritten_images, imagePlaces]

/-- The end of a pause that no pre-emption waits for (R88, step 7). -/
theorem checkpointCommit_resumes {c : Nat} (hp : (s.part p).pause = [(c, 6)]) (hw : 8192 + c ∉ (s.part p).preempts)
    (hu : ∀ e ∈ s.cvyCores p c, s.unacked e.2.2 = []) :
    ∃ t, exec (.checkpointCommit p c) s = .next t ∧ (t.part p).pause = [] ∧
      ∀ e ∈ t.cvyCores p c, ∀ x : Nat, x < 11 → (t.ctx e.2.2 x).paused = false := by
  have h6 : AMap.get? (s.part p).pause c = some 6 := by rw [hp]; simp [AMap.get?]
  refine ⟨_, exec_checkpointCommit_ends s p c h6 hu, ?_⟩
  rw [State.endPause_of_no_preempt s p c hw]
  refine ⟨?_, fun e he x hx => State.cvyResumed_paused _ p c he hx⟩
  rw [State.cvyResumed_part, State.pauseOver_pause, State.cvyInvalidated_part, hp]
  simp [AMap.erase]

end

/-- Settles O39, clause by clause: a write of a TCB leaves the Chartroom a copy that says what was written, and whatever else an operation
does of memory, caches, contexts and records leaves the boards of all Chartrooms as they are. -/
theorem tasksAreStopped : Obligations.TasksAreStopped := by
  unfold Obligations.TasksAreStopped
  intro s p i hi
  refine ⟨fun v hp hgo hall hv ⟨hc, _⟩ hr => ⟨exec_chrPreempt_late hp hgo, chrPreempt_takes hp hgo hall hv hc hr⟩,
    fun v hp hgo => exec_chrPreempt_plain hp hgo,
    fun v r hp => ⟨exec_chrPreempt_held hp, exec_faultResolution_held hp⟩,
    fun t0 hg ht hn hr ⟨hc, _⟩ => graceExpiry_discards hg ht hn hr hc,
    fun j hr hd => State.graceEnd_other hr hd,
    fun t0 hw hl ht hr => taskWatchdogExpiry_names hi hw hl ht hr,
    fun hp hf ⟨hc, hw⟩ => ?_,
    fun c hpause hq => checkpointImageWrite_lists hpause hq,
    fun c l hpause hl => ⟨_, exec_checkpointCommit s p c hpause, State.commitImage_keeps s p c l hl⟩,
    fun c hpause hw hu => checkpointCommit_resumes hpause hw hu⟩
  have h := faultResolution_answers hp hf hc hw
  unfold State.resumedSt at h
  rw [State.backTo_eq] at h
  exact h

end Sys2Proof.Machine
end

section
/-! PROOFS of the family 04_chartroom, O44. A move of rows beyond the window of the own scratchpad (R128, R382): the statement bounds the
scratchpad by 512 KiB, and the window that shows it ends after 256 KiB. -/

namespace Sys2Proof.Machine

/-- f32 in the rows and in memory. -/
def f32Moves : Mods := ⟨.w, 0, 8, false, .fpsr, false, 0, .f32, false, false, 0, 0⟩

/-- A store of one row of four elements from eight bytes before the end of the window. -/
def rowPastWindow : MCmd :=
  { id := 5, ctx := 0, instr := .mst .zr .zr f32Moves, word := 0x40100, addr := BitVec.ofNat 64 (ownBase + 0x3FFF8), pitch := 16 }

/-- Core 0, of which SCRATCH says 512 KiB, runs it. -/
def storesPastWindow : State :=
  { cores := [(0, { scratch := 512, mrun := some rowPastWindow })], octets := [(0, { matrix := some 0 })] }

/-- The unit at the window's end lies in no window, and the command ends with a fault (R142). -/
theorem storesPastWindow_faults :
    (match exec (.matrixCommandComplete 0) storesPastWindow with
      | .next t => (t.core 0).mstat.faulted
      | _ => false) = true := by decide +kernel

/-- Refutes O44: the clause of MST takes a range that ends within TOP for one that the window shows. In a core with SCRATCH 512, which R71
lets no TCB ask for and the statement does not exclude, a row that crosses the window's end at 0x40000 meets the clause's hypotheses, and
its command faults with 0x11 where the clause has it end without. -/
theorem not_matrixCommandsComplete : ¬ Obligations.MatrixCommandsComplete := by
  unfold Obligations.MatrixCommandsComplete
  intro h
  obtain ⟨hends, -⟩ := h .zr .zr .zr f32Moves storesPastWindow 0 0 rowPastWindow
  obtain ⟨-, -, -, hmst, -⟩ := hends rfl rfl rfl rfl
  obtain ⟨t, fl, ⟨hexec, -, hstat, -⟩, -⟩ :=
    hmst 0x3FFF8 rfl rfl (by decide) (by decide) (by decide) (by decide) (by decide) (by decide)
  have hfault := storesPastWindow_faults
  rw [hexec] at hfault
  exact Bool.false_ne_true ((congrArg MStat.faulted hstat).symm.trans hfault)

end Sys2Proof.Machine
end

section
/-! PROOFS of the family 04_chartroom. What a table's read or write by the Chartroom leaves (R16, R138, R144, R410): it changes memory, the
base dies' logs and what pilot firmware and the host are told, and nothing else. -/

namespace Sys2Proof.Machine

/-- A state without its memory behind the L2, the logs of its base dies, and what pilot firmware and the host's log hold. -/
def State.offMemory (s : State) : State :=
  { s with dies := [], hbm := [], lineKey := [], ecc := [], fills := [], corrected := [], granuleErrs := []
           dev := { s.dev with pilot := [], hostLog := [] } }

theorem State.cores_eq_of_offMemory {s t : State} (h : s.offMemory = t.offMemory) : s.cores = t.cores :=
  (congrArg State.cores h :)

section
variable (s : State)

@[simp] theorem State.countCorrected_offMemory (l : Nat) : (s.countCorrected l).offMemory = s.offMemory := by
  unfold State.countCorrected
  dsimp only
  split <;> rfl

@[simp] theorem State.pilotEvent_offMemory (kind : Nat) (a b : Word) : (s.pilotEvent kind a b).offMemory = s.offMemory := by
  unfold State.pilotEvent State.offMemory
  rfl

@[simp] theorem State.eccEvent_offMemory (pa : Nat) : (s.eccEvent pa).offMemory = s.offMemory := by
  unfold State.eccEvent State.report State.pilotEvent State.offMemory
  rfl

@[simp] theorem State.unmapped_offMemory (reg addr : Nat) : (s.unmapped reg addr).offMemory = s.offMemory :=
  State.pilotEvent_offMemory ..

@[simp] theorem State.l2Evict_offMemory (l : L2Line) : (s.l2Evict l).offMemory = s.offMemory := by
  unfold State.l2Evict
  split
  · unfold State.hbmPut State.offMemory
    rfl
  · rfl

@[simp] theorem State.l2Put_offMemory (l : L2Line) : (s.l2Put l).offMemory = s.offMemory := by
  cases hv : s.l2Victim l with
  | none => rw [State.l2Put_of_none hv]; rfl
  | some v => rw [State.l2Put_of_some hv]; exact State.l2Evict_offMemory s v

@[simp] theorem State.l2Fill_offMemory (pa : Nat) (key : Option Nat) : (s.l2Fill pa key).offMemory = s.offMemory := by
  unfold State.l2Fill
  split
  · rfl
  · rw [State.l2Put_offMemory, State.countCorrected_offMemory]

@[simp] theorem State.l2Write_offMemory (pa : Nat) (key : Option Nat) (data : Line) (mask : BitVec 64) :
    (s.l2Write pa key data mask).offMemory = s.offMemory := by
  unfold State.l2Write
  dsimp only
  split
  · unfold State.offMemory
    rfl
  · rw [State.l2Put_offMemory]
    split
    · exact State.countCorrected_offMemory s pa
    · rfl

@[simp] theorem State.l2Reads_offMemory (key : Option Nat) (ls : List Nat) : (s.l2Reads key ls).offMemory = s.offMemory :=
  foldl_keeps State.offMemory (fun s l => s.l2Fill_offMemory l key) ls s

theorem State.paWrite_offMemory (key : Option Nat) (pa : Nat) (bs : List Byte) : (s.paWrite key pa bs).offMemory = s.offMemory := by
  induction bs generalizing s pa with
  | nil => rfl
  | cons b bs ih => rw [State.paWrite, ih, State.l2Write_offMemory]

@[simp] theorem State.walkReads_offMemory (p va : Nat) : (s.walkReads p va).offMemory = s.offMemory := s.l2Reads_offMemory ..

@[simp] theorem State.zeroFill_offMemory (t : TlbEnt) (entry : Nat) : (s.zeroFill t entry).offMemory = s.offMemory := by
  unfold State.zeroFill
  dsimp only
  rw [State.paWrite_offMemory]
  unfold State.offMemory
  rfl

theorem State.partWrite_offMemory (p va : Nat) (bs : List Byte) : (s.partWrite p va bs).offMemory = s.offMemory := by
  unfold State.partWrite
  split
  next z _ =>
    rw [State.paWrite_offMemory]
    cases z with
    | true => rw [if_pos rfl, State.zeroFill_offMemory]
    | false => rw [if_neg Bool.false_ne_true]
  next => rfl

/-- A table's read. -/
@[simp] theorem State.tableRead_offMemory (p reg va n : Nat) : (s.tableRead p reg va n).offMemory = s.offMemory := by
  unfold State.tableRead
  extract_lets s1
  have hs1 : s1.offMemory = s.offMemory := s.walkReads_offMemory p va
  split
  next t e z _ =>
    extract_lets s2
    have hs2 : s2.offMemory = s.offMemory := by
      unfold s2
      cases z with
      | true => rw [if_pos rfl, State.zeroFill_offMemory, hs1]
      | false => rw [if_neg Bool.false_ne_true, hs1]
    split
    · rw [State.eccEvent_offMemory, hs2]
    · exact (State.l2Reads_offMemory ..).trans hs2
  next => rw [State.eccEvent_offMemory, hs1]
  next => rw [State.unmapped_offMemory, hs1]

/-- A write of a table. -/
@[simp] theorem State.tableStore_offMemory (p reg va : Nat) (bs : List Byte) : (s.tableStore p reg va bs).offMemory = s.offMemory := by
  unfold State.tableStore
  split
  · exact State.unmapped_offMemory ..
  · exact State.partWrite_offMemory ..

@[simp] theorem State.readTcb_offMemory (p i : Nat) : (s.readTcb p i).offMemory = s.offMemory := by
  unfold State.readTcb
  split
  · rfl
  · exact State.tableRead_offMemory ..

@[simp] theorem State.readTcbs_offMemory (p : Nat) (is : List Nat) : (s.readTcbs p is).offMemory = s.offMemory :=
  foldl_keeps State.offMemory (fun s i => s.readTcb_offMemory p i) is s

@[simp] theorem State.prefetch_offMemory (p a : Nat) : (s.prefetch p a).offMemory = s.offMemory := by
  unfold State.prefetch
  split
  · split
    · rfl
    · exact State.l2Fill_offMemory ..
  · rfl

/-- The write of a doubleword of a TCB changes the Chartroom's copy beside the pool. -/
theorem State.setTcbW_offMemory (p i j : Nat) (v : Word) (h : j < 16) : (s.setTcbW p i j v).offMemory =
    (s.setPart p { s.part p with tcbs := AMap.set (s.part p).tcbs i ((s.tcb p i).set j v) }).offMemory := by
  unfold State.setTcbW
  dsimp only
  rw [dif_pos h]
  exact State.tableStore_offMemory ..

end

end Sys2Proof.Machine
end

section
/-! PROOFS of the family 04_chartroom. What the checks of an arm (R71, R83) and the search for a place (R79, R81) read of a state: TCBs, the
partition's memory, the registers and the fenced octets. -/

namespace Sys2Proof.Machine

/-- The Chartroom of p finds in t what it finds in s. -/
structure SameTables (s t : State) (p : Nat) : Prop where
  tcb? : ∀ i, t.tcb? p i = s.tcb? p i
  read : ∀ va n, t.partRead p va n = s.partRead p va n
  there : ∀ va n, t.partThere p va n = s.partThere p va n
  addr : ∀ va, t.partAddr p va = s.partAddr p va
  reg : ∀ a, t.reg a = s.reg a
  fenced : t.dev.fenced = s.dev.fenced

/-- The cores, and what the Chartrooms hold beside the TCBs of p. -/
theorem SameTables.withCoresParts (s : State) {p : Nat} (cs : AMap Core) {ps : AMap Part}
    (h : (AMap.getD ps p {}).tcbs = (s.part p).tcbs) : SameTables s (s.withCoresParts cs ps) p := by
  refine ⟨fun i => ?_, fun va n => s.withCoresParts_partRead .., fun va n => s.withCoresParts_partThere .., fun va => ?_, fun a => rfl, rfl⟩
  · have hp : (s.withCoresParts cs ps).part p = AMap.getD ps p {} := rfl
    have ha : (s.withCoresParts cs ps).tcbAddr p i = s.tcbAddr p i := rfl
    rw [State.tcb?, hp, h, ha, State.withCoresParts_partThere, State.tcb?]
    simp only [State.withCoresParts_partRead]
  · rw [State.partAddr, State.withCoresParts_partPage, State.partAddr]

/-- A partition that is written with its TCBs. -/
theorem SameTables.setPart (s : State) (p : Nat) {q : Part} (h : q.tcbs = (s.part p).tcbs) : SameTables s (s.setPart p q) p := by
  have he : s.setPart p q = s.withCoresParts s.cores (AMap.set s.parts p q) := rfl
  rw [he]
  exact SameTables.withCoresParts s _ (by rw [AMap.getD_set_same, h])

theorem SameTables.setCore (s : State) (p n : Nat) (c : Core) : SameTables s (s.setCore n c) p := by
  have he : s.setCore n c = s.withCoresParts (AMap.set s.cores n c) s.parts := rfl
  rw [he]
  exact SameTables.withCoresParts s _ rfl

namespace SameTables
variable {s t : State} {p : Nat} (h : SameTables s t p)
include h

theorem tcb (i : Nat) : t.tcb p i = s.tcb p i := by rw [State.tcb, h.tcb?, State.tcb]
theorem tcbW (i j : Nat) : t.tcbW p i j = s.tcbW p i j := by rw [State.tcbW, h.tcb, State.tcbW]
theorem tcbF (i j lo n : Nat) : t.tcbF p i j lo n = s.tcbF p i j lo n := by rw [State.tcbF, h.tcbW, State.tcbF]
theorem tcbSt (i : Nat) : t.tcbSt p i = s.tcbSt p i := h.tcbF i 0 0 8
theorem tcbConvoy (i : Nat) : t.tcbConvoy p i = s.tcbConvoy p i := h.tcbF i 8 48 16
theorem lwOf (i : Nat) : t.lwOf p i = s.lwOf p i := h.tcbF i 0 10 4
theorem lhOf (i : Nat) : t.lhOf p i = s.lhOf p i := h.tcbF i 0 14 4
theorem tcbMiss (i : Nat) : t.tcbMiss p i = s.tcbMiss p i := by simp only [State.tcbMiss, State.tcbAddr, h.reg]

theorem succBlock (i : Nat) : t.succBlock p i = s.succBlock p i := by simp only [State.succBlock, h.tcbF]

theorem chainCause (left i : Nat) : t.chainCause p left i = s.chainCause p left i := by
  induction left generalizing i with
  | zero =>
    unfold State.chainCause
    simp only [h.tcbF, h.succBlock]
  | succ l ih =>
    unfold State.chainCause
    simp only [h.tcbF, h.succBlock, h.tcb?, h.tcbMiss, h.tcbSt, ih]

/-! ### Places -/

theorem origins (lw lh : Nat) : t.origins p lw lh = s.origins p lw lh := by simp only [State.origins, h.reg, h.fenced]

theorem affinity (i : Nat) : t.affinity p i = s.affinity p i := by
  simp only [State.affinity, h.lwOf, h.lhOf, h.tcbW, h.reg, h.addr]

theorem scan (i : Nat) : t.scan p i = s.scan p i := by
  simp only [State.scan, h.lwOf, h.lhOf, h.origins, h.affinity]

theorem fit (i : Nat) (avail : Nat → Bool) (only : Option (Nat × Nat)) : t.fit p i avail only = s.fit p i avail only := by
  simp only [State.fit, h.scan, h.lwOf, h.lhOf]

theorem fitAll (free : Nat → Bool) (ms : List (Nat × Option (Nat × Nat))) (taken : List Nat) :
    t.fitAll p free ms taken = s.fitAll p free ms taken := by
  induction ms generalizing taken with
  | nil => rfl
  | cons m ms ih =>
    obtain ⟨i, only⟩ := m
    simp only [State.fitAll, h.fit, h.lwOf, h.lhOf, ih]

/-! ### Convoy records -/

theorem cvyAddr (c : Nat) : t.cvyAddr p c = s.cvyAddr p c := by simp only [State.cvyAddr, h.reg]
theorem cvyWord (c i : Nat) : t.cvyWord p c i = s.cvyWord p c i := by rw [State.cvyWord, h.cvyAddr, h.read, State.cvyWord]
theorem cvyThere (c : Nat) : t.cvyThere p c = s.cvyThere p c := by rw [State.cvyThere, h.cvyAddr, h.there, State.cvyThere]
theorem cvyMembers (c : Nat) : t.cvyMembers p c = s.cvyMembers p c := by simp only [State.cvyMembers, h.cvyWord]
theorem cvyRanges (c j : Nat) : t.cvyRanges p c j = s.cvyRanges p c j := by simp only [State.cvyRanges, h.cvyWord]

theorem imageBound (c : Nat) : t.imageBound p c = s.imageBound p c := by
  simp only [State.imageBound, h.cvyWord, h.cvyMembers, h.lwOf, h.lhOf, h.cvyRanges]

theorem cvyRsvOk (c : Nat) : t.cvyRsvOk p c = s.cvyRsvOk p c := by
  rw [State.cvyRsvOk, State.cvyRsvOk]
  simp only [h.cvyWord]

theorem memberOk (i : Nat) : t.memberOk p i = s.memberOk p i := by
  simp only [State.memberOk, h.tcbConvoy, h.cvyMembers, h.tcbF, h.cvyRsvOk, h.imageBound, h.cvyWord]

/-! ### The checks of an arm -/

theorem tcbRsvOk (i : Nat) : t.tcbRsvOk p i = s.tcbRsvOk p i := by simp only [State.tcbRsvOk, h.tcbF]

theorem memberCause (i : Nat) : t.memberCause p i = s.memberCause p i := by
  simp only [State.memberCause, h.tcbConvoy, h.cvyThere, h.cvyAddr, h.cvyMembers, h.tcb?, h.tcbMiss, h.memberOk, h.fitAll]

theorem armFault (i : Nat) : t.armFault p i = s.armFault p i := by
  simp only [State.armFault, h.tcbF, h.tcb?, h.tcbMiss, h.tcbSt, h.tcbRsvOk, h.chainCause, h.origins, h.memberCause]

theorem armCause (i : Nat) : t.armCause p i = s.armCause p i := by rw [State.armCause, h.armFault, State.armCause]

end SameTables

end Sys2Proof.Machine
end

section
/-! PROOFS of the family 04_chartroom, O37. A mesh cycle of a Chartroom that has one request to serve (R70, R77): what its answer is to the
context that waits, and what becomes of the task. -/

namespace Sys2Proof.Machine

/-! ### The answer -/

theorem State.answerReq_reg (s : State) (r : ChartReq) (c : BitVec 8) (v : Word) (a : Nat) : (s.answerReq r c v).reg a = s.reg a := rfl
theorem State.answerReq_tcbF (s : State) (r : ChartReq) (c : BitVec 8) (v : Word) (p i j lo n : Nat) :
    (s.answerReq r c v).tcbF p i j lo n = s.tcbF p i j lo n := by
  unfold State.answerReq State.setCtx
  exact (SameTables.setCore s p _ _).tcbF i j lo n

/-- Context x of core n has the answer c, v, and no longer waits for the request with the id (R70, R344). -/
def State.Answered (t : State) (id n x : Nat) (c : BitVec 8) (v : Word) : Prop :=
  (t.ctx n x).answer = some (c, v) ∧ id ∉ (t.ctx n x).block

theorem State.answerReq_answered (s : State) {r : ChartReq} (c : BitVec 8) (v : Word) (h : r.ctx < 11) :
    (s.answerReq r c v).Answered r.id r.core r.ctx c v := by
  unfold State.Answered State.answerReq
  rw [State.setCtx_ctx_same _ _ _ h]
  simp

theorem State.Answered.of_cores {s t : State} {id n x : Nat} {c : BitVec 8} {v : Word} (h : s.Answered id n x c v)
    (hc : t.cores = s.cores) : t.Answered id n x c v := by
  unfold State.Answered State.ctx State.core at *
  rwa [hc]

/-! ### The cycle -/

/-- The requests of the cycle are taken. -/
def State.reqsTaken (s : State) (p : Nat) : State := s.setPart p { s.part p with reqs := [] }

/-- The requests that are held wait for the next mesh cycle. -/
def State.reqsHeld (s : State) (p : Nat) (held : List ChartReq) : State :=
  s.setPart p { s.part p with reqs := held ++ (s.part p).reqs }

section
variable (s : State) (p i : Nat)

theorem State.reqsTaken_part : (s.reqsTaken p).part p = { s.part p with reqs := [] } := State.setPart_part_same ..

theorem State.reqsHeld_part (held : List ChartReq) :
    (s.reqsHeld p held).part p = { s.part p with reqs := held ++ (s.part p).reqs } := State.setPart_part_same ..

theorem sortBy_single {α : Type} (lt : α → α → Bool) (x : α) : sortBy lt [x] = [x] := rfl

theorem State.reqsHeld_cores (held : List ChartReq) : (s.reqsHeld p held).cores = s.cores := rfl

theorem State.reqsHeld_reg (held : List ChartReq) (a : Nat) : (s.reqsHeld p held).reg a = s.reg a := rfl

theorem State.setTcbW_cores {j : Nat} (v : Word) (h : j < 16) : (s.setTcbW p i j v).cores = s.cores :=
  (State.cores_eq_of_offMemory (s.setTcbW_offMemory p i j v h)).trans (State.setPart_cores ..)

theorem State.seqAll_nil : s.seqAll p [] = s := rfl

theorem State.seqAll_single (k : Newly) : s.seqAll p [k] = s.seqOne p k.tcb := by
  rw [State.seqAll, sortBy_single, List.foldl_cons, List.foldl_nil]

theorem State.reqsHeld_tcbs (held : List ChartReq) : ((s.reqsHeld p held).part p).tcbs = (s.part p).tcbs :=
  (congrArg Part.tcbs (s.reqsHeld_part p held) :)

theorem State.seqOne_offMemory : (s.seqOne p i).offMemory = (s.sequenced p i).offMemory :=
  foldl_keeps State.offMemory (fun s a => s.prefetch_offMemory p a) _ _

theorem State.sequenced_cores : (s.sequenced p i).cores = s.cores :=
  (State.setReg_cores ..).trans (s.setTcbW_cores p i _ (by decide))

theorem State.seqOne_cores : (s.seqOne p i).cores = s.cores :=
  (State.cores_eq_of_offMemory (s.seqOne_offMemory p i)).trans (s.sequenced_cores p i)

theorem State.seqOne_tcbF {j : Nat} (h : j ≠ 8) (lo n : Nat) : (s.seqOne p i).tcbF p i j lo n = s.tcbF p i j lo n := by
  rw [(s.seqOne_sameTcb p i).tcbF, State.tcbF, State.setTcbF, State.setTcbW_tcbW_other _ _ _ _ (by decide) h]
  rfl

end

section
variable {s u : State} {p : Nat} {r : ChartReq} (hpatch : (s.part p).patching = []) (hreq : (s.part p).reqs = [r])
include hpatch hreq

/-- One request is applied, a task that it makes READY takes its place, and a request that is held stays. -/
theorem State.chartCycle_one : s.chartCycle p =
    let b := Batch.apply p { s := s.reqsTaken p } r
    (b.s.seqAll p b.new).reqsHeld p b.held := by
  have hend : s.endPatching p = s := by rw [State.endPatching, hpatch]; rfl
  unfold State.chartCycle
  dsimp only
  rw [if_neg (by simp [hreq]), hend, hreq]
  rfl

theorem State.chartCycle_seqOne {k : Newly} (h : Batch.apply p { s := s.reqsTaken p } r = { s := u, new := [k] }) :
    s.chartCycle p = (u.seqOne p k.tcb).reqsHeld p [] := by
  rw [State.chartCycle_one hpatch hreq, h]
  exact congrArg (State.reqsHeld · p []) (u.seqAll_single p k)

variable {c : BitVec 8} {v : Word} (hctx : r.ctx < 11)
include hctx

/-- A request that is answered and makes no task READY. -/
theorem State.chartCycle_answers (h : Batch.apply p { s := s.reqsTaken p } r = { s := u.answerReq r c v }) :
    (s.chartCycle p).Answered r.id r.core r.ctx c v ∧ ((s.chartCycle p).part p).tcbs = (u.part p).tcbs ∧
      ((s.chartCycle p).part p).gangs = (u.part p).gangs ∧ ((s.chartCycle p).part p).redeal = (u.part p).redeal := by
  rw [State.chartCycle_one hpatch hreq, h]
  refine ⟨u.answerReq_answered c v hctx, ?_, ?_, ?_⟩
  · exact State.reqsHeld_tcbs ..
  · exact congrArg Part.gangs (State.reqsHeld_part ..)
  · exact congrArg Part.redeal (State.reqsHeld_part ..)

/-- A request that makes one READY. -/
theorem State.chartCycle_readies {k : Newly} (h : Batch.apply p { s := s.reqsTaken p } r = { s := u.answerReq r c v, new := [k] }) :
    (s.chartCycle p).Answered r.id r.core r.ctx c v ∧
      ((s.chartCycle p).part p).tcbs = (((u.answerReq r c v).seqOne p k.tcb).part p).tcbs ∧
      ∀ a, (s.chartCycle p).reg a = ((u.answerReq r c v).seqOne p k.tcb).reg a := by
  rw [State.chartCycle_seqOne hpatch hreq h]
  have hcores := ((u.answerReq r c v).seqOne p k.tcb).reqsHeld_cores p [] |>.trans ((u.answerReq r c v).seqOne_cores p k.tcb)
  exact ⟨(u.answerReq_answered c v hctx).of_cores hcores, State.reqsHeld_tcbs .., fun a => State.reqsHeld_reg ..⟩

end

/-! ### A task in the cycle -/

section
variable {s : State} {p i : Nat} (hcached : (AMap.get? (s.part p).tcbs i).isSome)
include hcached

theorem State.reqsTaken_sameTcb : SameTcb s (s.reqsTaken p) p i := (SameTcb.refl hcached).setPart rfl

theorem State.tcb?_ne_none_of_cached : s.tcb? p i ≠ none := by
  obtain ⟨x, hx⟩ := Option.isSome_iff_exists.1 hcached
  rw [State.tcb?, hx]
  exact Option.some_ne_none x

/-- A TCB that the Chartroom caches is not read again. -/
theorem State.readTcb_of_cached : s.readTcb p i = s := by rw [State.readTcb, hcached, Bool.or_true, if_pos rfl]

end

theorem State.isPatching_of_nil {s : State} {p : Nat} (h : (s.part p).patching = []) (i : Nat) : s.isPatching p i = false := by
  rw [State.isPatching, h]
  rfl

end Sys2Proof.Machine
end

section
/-! PROOFS of the family 04_chartroom, O37. The requests themselves: decrements (R73), arms (R71), patches (R72), deals (R75) and
acknowledgements (R76). -/

namespace Sys2Proof.Machine

/-! ### Fields that are written -/

section
variable (s : State) (p i : Nat) {j : Nat} (lo n v : Nat)

theorem State.setTcbF_tcbF_same (hj : j < 16) (h : lo + n ≤ 64) (hv : v < 2 ^ n) : (s.setTcbF p i j lo n v).tcbF p i j lo n = v := by
  rw [State.tcbF, State.setTcbF, State.setTcbW_tcbW_same _ _ _ _ hj, bitsOf_putBits_same _ _ h, Nat.mod_eq_of_lt hv]

theorem State.setTcbF_tcbF_other (hj : j < 16) {k : Nat} (hk : k ≠ j) (lo' n' : Nat) :
    (s.setTcbF p i j lo n v).tcbF p i k lo' n' = s.tcbF p i k lo' n' := by
  rw [State.tcbF, State.setTcbF, State.setTcbW_tcbW_other _ _ _ _ hj hk, State.tcbF]

theorem State.setTcbF_tcbSt (hj : j < 16) (h0 : 0 ≠ j) : (s.setTcbF p i j lo n v).tcbSt p i = s.tcbSt p i :=
  s.setTcbF_tcbF_other p i lo n v hj h0 0 8

theorem State.setTcbF_sameTcb (hj : j < 16) : SameTcb (s.setTcbF p i j lo n v) (s.setTcbF p i j lo n v) p i :=
  s.setTcbW_sameTcb p i _ hj

end

/-- A TCB that a state caches is cached where its Chartroom's tcbs stand. -/
theorem SameTcb.of_eq {u t : State} {p i : Nat} (hu : SameTcb u u p i) (e : (t.part p).tcbs = (u.part p).tcbs) : SameTcb u t p i :=
  hu.of_tcbs e

/-! ### Decrements -/

section
variable {s : State} {p i : Nat} (hi : i < 8192) (hc : (AMap.get? (s.part p).tcbs i).isSome)
include hi hc

theorem State.decrement_refused (h : (s.tcbSt p i ≠ tFree ∧ s.tcbSt p i ≠ tWaiting) ∨ s.tcbF p i 5 0 16 = 0) :
    s.decrement p i = .error 0x70 := by
  have ht := State.tcb?_ne_none_of_cached hc
  unfold State.decrement
  dsimp only
  rw [if_neg (by simp [ht, hi]), if_pos (by simpa using h)]

theorem State.decrement_counts (hd : s.tcbF p i 5 0 16 ≠ 0) (hs : s.tcbSt p i = tFree ∨ s.tcbSt p i = tWaiting)
    (hr : ¬ (s.tcbSt p i = tWaiting ∧ s.tcbF p i 5 0 16 = 1)) :
    s.decrement p i = .ok (false, s.setTcbF p i 5 0 16 (s.tcbF p i 5 0 16 - 1)) := by
  have ht := State.tcb?_ne_none_of_cached hc
  have hst : ¬ (s.tcbSt p i ≠ tFree ∧ s.tcbSt p i ≠ tWaiting) := by tauto
  unfold State.decrement
  dsimp only
  rw [if_neg (by simp [ht, hi]), if_neg (by simpa [hd] using hst), if_neg (by simpa using hr)]

theorem State.decrement_readies (hs : s.tcbSt p i = tWaiting) (h1 : s.tcbF p i 5 0 16 = 1) :
    s.decrement p i = .ok (true, (s.setTcbF p i 5 0 16 (s.tcbF p i 5 0 16 - 1)).setTcbSt p i tReady) := by
  have ht := State.tcb?_ne_none_of_cached hc
  unfold State.decrement
  dsimp only
  rw [if_neg (by simp [ht, hi]), if_neg (by simp [hs, h1]), if_pos (by simp [hs, h1])]

end

/-! ### One request of the cycle -/

section
variable {s : State} {p id n x i : Nat}

theorem Batch.apply_dec_ok {rd : Bool} {t : State} (hpatch : (s.part p).patching = []) (hc : (AMap.get? (s.part p).tcbs i).isSome)
    (h : s.decrement p i = .ok (rd, t)) : Batch.apply p { s := s } ⟨id, n, x, .dec i⟩ =
      { s := t.answerReq ⟨id, n, x, .dec i⟩ 0 0, new := if rd then [⟨1, n, id, i⟩] else [] } := by
  unfold Batch.apply
  dsimp only
  rw [State.isPatching_of_nil hpatch, if_neg Bool.false_ne_true, State.readTcb_of_cached hc, h]
  rfl

theorem Batch.apply_dec_error {c : BitVec 8} (hpatch : (s.part p).patching = []) (hc : (AMap.get? (s.part p).tcbs i).isSome)
    (h : s.decrement p i = .error c) :
    Batch.apply p { s := s } ⟨id, n, x, .dec i⟩ = { s := s.answerReq ⟨id, n, x, .dec i⟩ c 0 } := by
  unfold Batch.apply
  dsimp only
  rw [State.isPatching_of_nil hpatch, if_neg Bool.false_ne_true, State.readTcb_of_cached hc, h]

theorem Batch.apply_arm_refused {c : BitVec 8} (hpatch : (s.part p).patching = []) (h : s.armCause p i = some c) :
    Batch.apply p { s := s } ⟨id, n, x, .arm i⟩ = { s := (s.armReads p i).answerReq ⟨id, n, x, .arm i⟩ c 0 } := by
  unfold Batch.apply
  dsimp only
  rw [State.isPatching_of_nil hpatch, if_neg Bool.false_ne_true, h]

theorem Batch.apply_arm (hpatch : (s.part p).patching = []) (h : s.armCause p i = none) : Batch.apply p { s := s } ⟨id, n, x, .arm i⟩ =
    { s := ((s.armReads p i).armTask p i).answerReq ⟨id, n, x, .arm i⟩ 0 0
      new := if ((s.armReads p i).armTask p i).tcbSt p i = tReady then [⟨1, n, id, i⟩] else [] } := by
  unfold Batch.apply
  dsimp only
  rw [State.isPatching_of_nil hpatch, if_neg Bool.false_ne_true, h]
  rfl

theorem Batch.apply_patch {w : Nat} {v : Word} {t : State} (hc : (AMap.get? (s.part p).tcbs i).isSome) (h : s.patch p i w v = .ok t) :
    Batch.apply p { s := s } ⟨id, n, x, .patch i w v⟩ = { s := t.answerReq ⟨id, n, x, .patch i w v⟩ 0 0 } := by
  unfold Batch.apply
  dsimp only
  rw [State.readTcb_of_cached hc, h]

theorem Batch.apply_card {v : Word} {t : State} (h : s.deal n x = some (v, t)) :
    Batch.apply p { s := s } ⟨id, n, x, .card⟩ = { s := t.answerReq ⟨id, n, x, .card⟩ 0 v } := by
  unfold Batch.apply
  dsimp only
  rw [h]

theorem Batch.apply_card_held (h : s.deal n x = none) :
    Batch.apply p { s := s } ⟨id, n, x, .card⟩ = { s := s, held := [⟨id, n, x, .card⟩] } := by
  unfold Batch.apply
  dsimp only
  rw [h]
  rfl

theorem Batch.apply_done {first : Nat} {t : State} (h : s.ack n first = .ok t) :
    Batch.apply p { s := s } ⟨id, n, x, .done first⟩ = { s := t.answerReq ⟨id, n, x, .done first⟩ 0 0 } := by
  unfold Batch.apply
  dsimp only
  rw [h]

end

/-! ### Arms -/

section
variable (s : State) (p i : Nat)

/-- The reads of an arm's checks change no board. -/
theorem State.armReads_sameBoard : SameBoard s (s.armReads p i) := (SameBoard.refl s).foldl fun _ _ h => h.tableRead

/-- The words that an arm clears (R71). -/
def State.armWords : State := ((s.setTcbW p i 4 0).setTcbW p i 9 0).setTcbW p i 10 0

theorem State.armWords_word4 : (s.armWords p i).tcbW p i 4 = 0 := by
  rw [State.armWords, State.setTcbW_tcbW_other _ _ _ _ (by decide) (by decide), State.setTcbW_tcbW_other _ _ _ _ (by decide) (by decide),
    State.setTcbW_tcbW_same _ _ _ _ (by decide)]

theorem State.armWords_deps : (s.armWords p i).tcbF p i 5 0 16 = s.tcbF p i 5 0 16 := by
  rw [State.tcbF, State.armWords, State.setTcbW_tcbW_other _ _ _ _ (by decide) (by decide),
    State.setTcbW_tcbW_other _ _ _ _ (by decide) (by decide), State.setTcbW_tcbW_other _ _ _ _ (by decide) (by decide), State.tcbF]

/-- What the Chartroom keeps beside the task's TCB is forgotten. -/
def State.armForgets : State :=
  s.setPart p { s.part p with
    redeal := AMap.erase (s.part p).redeal i, lost := AMap.erase (s.part p).lost i, faulty := AMap.erase (s.part p).faulty i
    passed := AMap.erase (AMap.erase (s.part p).passed i) (8192 + s.tcbConvoy p i), grace := AMap.erase (s.part p).grace i }

theorem State.armTask_eq : s.armTask p i = ((s.armWords p i).armForgets p i).setTcbSt p i
    (if ((s.armWords p i).armForgets p i).tcbF p i 5 0 16 = 0 then tReady else tWaiting) := rfl

theorem State.armForgets_tcbs : ((s.armForgets p i).part p).tcbs = (s.part p).tcbs := by
  rw [State.armForgets, State.setPart_part_same]

theorem State.armWords_sameTcb : SameTcb (s.armWords p i) (s.armWords p i) p i := by
  unfold State.armWords
  exact State.setTcbW_sameTcb _ _ _ _ (by decide)

theorem State.armForgets_sameTcb : SameTcb (s.armWords p i) ((s.armWords p i).armForgets p i) p i :=
  (s.armWords_sameTcb p i).of_eq ((s.armWords p i).armForgets_tcbs p i)

theorem State.armTask_tcbSt : (s.armTask p i).tcbSt p i = if s.tcbF p i 5 0 16 = 0 then tReady else tWaiting := by
  rw [s.armTask_eq, State.setTcbSt_tcbSt _ _ _ _ (by split <;> decide), (s.armForgets_sameTcb p i).tcbF, s.armWords_deps]

theorem State.armTask_word4 (lo n : Nat) : (s.armTask p i).tcbF p i 4 lo n = 0 := by
  rw [s.armTask_eq, State.setTcbSt_tcbF _ _ _ _ (by decide), (s.armForgets_sameTcb p i).tcbF, State.tcbF, State.armWords_word4, bitsOf]
  simp

theorem State.armTask_sameTcb : SameTcb (s.armTask p i) (s.armTask p i) p i := by
  rw [s.armTask_eq]
  exact State.setTcbSt_sameTcb ..

end

end Sys2Proof.Machine
end

section
/-! PROOFS of the family 04_chartroom, O37, concluded. Patches, deals and acknowledgements, and what a mesh cycle with one request leaves. -/

namespace Sys2Proof.Machine

/-! ### Patches -/

/-- A task whose words are being patched, and the state it goes back to at the end of the mesh cycle (R72). -/
def State.addPatching (s : State) (p i back : Nat) : State :=
  s.setPart p { s.part p with patching := (s.part p).patching ++ [(i, back)] }

/-- The state after a patch that passes its checks (R72). -/
def State.patched (s : State) (p i w : Nat) (v : Word) : State :=
  ((s.setTcbW p i w ((s.tcbW p i w &&& ~~~(tcbRw w)) ||| v)).setTcbSt p i tPatching).addPatching p i
    (if s.tcbSt p i = tWaiting then tWaiting else tFree)

/-- The words of a task that its state lets a patch write. -/
def patchable (st w : Nat) : Bool :=
  if st = tFree || st = tDone || st = tDiscarded then true
  else if st = tWaiting then decide (w = 2 ∨ 11 ≤ w) else false

theorem State.addPatching_tcbs (s : State) (p i back : Nat) : ((s.addPatching p i back).part p).tcbs = (s.part p).tcbs := by
  rw [State.addPatching, State.setPart_part_same]

section
variable {s u : State} {p i w : Nat} {v : Word}

theorem State.patch_eq : s.patch p i w v = if i ≥ 8192 || (s.tcb? p i).isNone then .error 0x72
    else if !patchable (s.tcbSt p i) w || v &&& ~~~(tcbRw w) ≠ 0 then .error 0x71 else .ok (s.patched p i w v) := rfl

/-- A patch passes its checks where the tables are those of a state in which it does. -/
theorem State.patch_of_ok {t : State} (hu : SameTables s u p) (h : s.patch p i w v = .ok t) : u.patch p i w v = .ok (u.patched p i w v) := by
  rw [State.patch_eq] at h ⊢
  rw [hu.tcb?, hu.tcbSt]
  split at h
  · nomatch h
  next hthere =>
    split at h
    · nomatch h
    next hword => rw [if_neg hthere, if_neg hword]

theorem State.patched_sameTcb :
    SameTcb ((s.setTcbW p i w ((s.tcbW p i w &&& ~~~(tcbRw w)) ||| v)).setTcbSt p i tPatching) (s.patched p i w v) p i := by
  unfold State.patched
  exact SameTcb.of_eq (State.setTcbSt_sameTcb ..) (State.addPatching_tcbs ..)

theorem State.patched_tcbSt : (s.patched p i w v).tcbSt p i = tPatching := by
  rw [State.patched_sameTcb.tcbSt, State.setTcbSt_tcbSt _ _ _ _ (by decide)]

theorem State.patched_tcbW (hw : w < 16) (h0 : w ≠ 0) :
    (s.patched p i w v).tcbW p i w = (s.tcbW p i w &&& ~~~(tcbRw w)) ||| v := by
  rw [State.tcbW, State.patched_sameTcb.tcb, ← State.tcbW, State.setTcbSt, State.setTcbF,
    State.setTcbW_tcbW_other _ _ _ _ (by decide) h0, State.setTcbW_tcbW_same _ _ _ _ hw]

end

/-! ### Gangs -/

section
variable (s : State) (p i : Nat)

theorem State.gangOf_of_only {s : State} {p n : Nat} {g : GangRef} {h : Gang} (hg : (s.core n).gang = some g) (hp : g.part = p)
    (hs : (s.part p).gangs = [h]) (hn : h.num = g.num) : s.gangOf n = some (p, h) := by
  subst hp
  simp [State.gangOf, hg, hs, hn]

theorem State.setGang_only {g h : Gang} (hs : (s.part p).gangs = [h]) (hn : h.num = g.num) : ((s.setGang p g).part p).gangs = [g] := by
  rw [State.setGang_gangs, hs, List.map_singleton, if_pos hn]

theorem State.progress_gangs : ((s.progress p i).part p).gangs = (s.part p).gangs := by rw [State.progress, State.setPart_part_same]
theorem State.progress_redeal : ((s.progress p i).part p).redeal = (s.part p).redeal := by rw [State.progress, State.setPart_part_same]
theorem State.setGang_redeal (g : Gang) : ((s.setGang p g).part p).redeal = (s.part p).redeal := by
  rw [State.setGang, State.setPart_part_same]

theorem State.progress_tcbs : ((s.progress p i).part p).tcbs = (s.part p).tcbs := by rw [State.progress, State.setPart_part_same]
theorem State.setGang_tcbs (g : Gang) : ((s.setGang p g).part p).tcbs = (s.part p).tcbs := by rw [State.setGang, State.setPart_part_same]

/-- A gang and its progress are no matter of a TCB. -/
theorem State.setGang_progress_tcbs (g : Gang) : (((s.setGang p g).progress p i).part p).tcbs = (s.part p).tcbs := by
  rw [State.progress_tcbs, State.setGang_tcbs]

theorem State.recCount_lt : s.recCount p i < 2 ^ 32 := bitsOf_lt _ _ _

end

/-! ### Deals -/

/-- The records of a chunk (R75). -/
def State.dealCount (s : State) (p i : Nat) : Nat :=
  let rem := s.recCount p i - s.cursor p i
  let k := 2 * 2 ^ s.tcbF p i 0 18 4
  min rem (max (max 1 (s.tcbF p i 3 48 16)) ((rem + k - 1) / k))

/-- The redeal list of a task without its first chunk. -/
def State.setRedeal (s : State) (p i : Nat) (rest : List Chunk) : State :=
  s.setPart p { s.part p with redeal := if rest = [] then AMap.erase (s.part p).redeal i else AMap.set (s.part p).redeal i rest }

theorem State.setRedeal_redeal (s : State) (p i : Nat) {rest : List Chunk} (h : rest ≠ []) :
    AMap.getD ((s.setRedeal p i rest).part p).redeal i [] = rest := by
  rw [State.setRedeal, State.setPart_part_same, if_neg h, AMap.getD_set_same]

theorem State.setRedeal_tcbs (s : State) (p i : Nat) (rest : List Chunk) :
    ((s.setRedeal p i rest).part p).tcbs = (s.part p).tcbs := by rw [State.setRedeal, State.setPart_part_same]

section
variable {s : State} {p n x : Nat} {g : Gang} (hg : s.gangOf n = some (p, g)) (hst : s.tcbSt p g.tcb ≠ tFaulted)
  (hgr : AMap.get? (s.part p).grace g.tcb = none)
include hg hst hgr

theorem State.deal_held (h : 2 ≤ g.chunks.length) : s.deal n x = none := by
  simp [State.deal, hg, hst, hgr, h]

variable (h : g.chunks.length < 2)
include h

theorem State.deal_redeal {c : Chunk} {rest : List Chunk} (hr : AMap.getD (s.part p).redeal g.tcb [] = c :: rest) :
    s.deal n x = some (BitVec.ofNat 64 (c.count * 2 ^ 32 + c.first),
      ((s.setRedeal p g.tcb rest).setGang p { g with chunks := g.chunks ++ [{ c with core := n, ctx := x }] }).progress p g.tcb) := by
  unfold State.deal
  dsimp only
  simp only [hg]
  rw [if_neg hst, if_neg (by simp [hgr]), if_neg (Nat.not_le.2 h), hr]
  rfl

variable (hr : AMap.getD (s.part p).redeal g.tcb [] = [])
include hr

theorem State.deal_empty (hz : s.recCount p g.tcb - s.cursor p g.tcb = 0) :
    s.deal n x = some (BitVec.ofNat 64 (s.cursor p g.tcb), s.progress p g.tcb) := by
  simp [State.deal, hg, hst, hgr, Nat.not_le.2 h, hr, hz]

theorem State.deal_records (hz : s.recCount p g.tcb - s.cursor p g.tcb ≠ 0) :
    s.deal n x = some (BitVec.ofNat 64 (s.dealCount p g.tcb * 2 ^ 32 + s.cursor p g.tcb),
      ((s.setTcbF p g.tcb 4 0 32 (s.cursor p g.tcb + s.dealCount p g.tcb)).setGang p
        { g with chunks := g.chunks ++ [⟨s.cursor p g.tcb, s.dealCount p g.tcb, n, x⟩] }).progress p g.tcb) := by
  unfold State.deal
  dsimp only
  simp only [hg]
  rw [if_neg hst, if_neg (by simp [hgr]), if_neg (Nat.not_le.2 h), hr]
  dsimp only
  rw [if_neg hz]
  rfl

end

/-- A deal stays within the records. -/
theorem State.cursor_add_dealCount_lt {s : State} {p i : Nat} (h : s.recCount p i - s.cursor p i ≠ 0) :
    s.cursor p i + s.dealCount p i < 2 ^ 32 := by
  have hle : s.dealCount p i ≤ s.recCount p i - s.cursor p i := Nat.min_le_left _ _
  have := s.recCount_lt p i
  omega

/-! ### Acknowledgements -/

theorem State.quietUpdate_of_ne {s : State} {p i : Nat} (h : s.tcbSt p i ≠ tFaulted) : s.quietUpdate p i = s := by
  rw [State.quietUpdate, if_pos h]

/-- The acknowledged count of a task that has just one chunk out. -/
def State.ackOnly (s : State) (p : Nat) (g : Gang) (a : Nat) : State :=
  (s.setGang p { g with chunks := [] }).setTcbF p g.tcb 4 32 32 a

section
variable {s : State} {p n : Nat} {g : Gang} {a : Nat}

theorem State.ackOnly_tcbSt : (s.ackOnly p g a).tcbSt p g.tcb = (s.setGang p { g with chunks := [] }).tcbSt p g.tcb :=
  State.setTcbF_tcbSt _ _ _ _ _ _ (by decide) (by decide)

theorem State.ackOnly_recCount : (s.ackOnly p g a).recCount p g.tcb = (s.setGang p { g with chunks := [] }).recCount p g.tcb :=
  State.setTcbF_tcbF_other _ _ _ _ _ _ (by decide) (by decide) _ _

theorem State.ackOnly_acked (ha : a < 2 ^ 32) : (s.ackOnly p g a).acked p g.tcb = a :=
  State.setTcbF_tcbF_same _ _ _ _ _ _ (by decide) (by decide) ha

theorem State.ackOnly_gangs {h : Gang} (hs : (s.part p).gangs = [h]) (hn : h.num = g.num) :
    ((s.ackOnly p g a).part p).gangs = [{ g with chunks := [] }] := by
  rw [State.ackOnly, State.setTcbF, State.setTcbW_gangs _ _ _ _ (by decide)]
  exact s.setGang_only p hs hn

/-- The only chunk of a RUNNING task is acknowledged: the last one makes it DRAINING. -/
theorem State.ack_only {c : Chunk} (hg : s.gangOf n = some (p, g)) (hc : g.chunks = [c]) (hcache : (AMap.get? (s.part p).tcbs g.tcb).isSome)
    (hst : s.tcbSt p g.tcb = tRunning) : s.ack n c.first = .ok ((if s.acked p g.tcb + c.count = s.recCount p g.tcb
      then (s.ackOnly p g (s.acked p g.tcb + c.count)).setTcbSt p g.tcb tDraining
      else s.ackOnly p g (s.acked p g.tcb + c.count)).progress p g.tcb) := by
  have hsame : SameTcb s (s.setGang p { g with chunks := [] }) p g.tcb := (SameTcb.refl hcache).setPart rfl
  have hrun : (s.ackOnly p g (s.acked p g.tcb + c.count)).tcbSt p g.tcb = tRunning := by rw [State.ackOnly_tcbSt, hsame.tcbSt, hst]
  have hrec : (s.ackOnly p g (s.acked p g.tcb + c.count)).recCount p g.tcb = s.recCount p g.tcb :=
    State.ackOnly_recCount.trans (hsame.tcbF 3 16 32)
  have hack : s.ack n c.first = .ok (((if s.acked p g.tcb + c.count = (s.ackOnly p g (s.acked p g.tcb + c.count)).recCount p g.tcb ∧
      (s.ackOnly p g (s.acked p g.tcb + c.count)).tcbSt p g.tcb = tRunning
      then (s.ackOnly p g (s.acked p g.tcb + c.count)).setTcbSt p g.tcb tDraining
      else s.ackOnly p g (s.acked p g.tcb + c.count)).quietUpdate p g.tcb).progress p g.tcb) := by
    have hfind : g.chunks.find? (fun d => d.first = c.first) = some c := by simp [hc]
    have hrest : g.chunks.filter (fun d => d.first ≠ c.first) = [] := by simp [hc]
    unfold State.ack
    simp only [hg, hfind, hrest]
    rfl
  rw [hack, hrun, hrec, State.quietUpdate_of_ne]
  · simp
  · split
    · rw [State.setTcbSt_tcbSt _ _ _ _ (by decide)]; decide
    · rw [hrun]; decide

end

end Sys2Proof.Machine
end

section
/-! PROOFS of the family 04_chartroom, O37: the obligation. -/

namespace Sys2Proof.Machine

section
variable (s : State) (p i : Nat)

theorem State.reqsTaken_patching : ((s.reqsTaken p).part p).patching = (s.part p).patching := by rw [State.reqsTaken_part]
theorem State.reqsTaken_gangs : ((s.reqsTaken p).part p).gangs = (s.part p).gangs := by rw [State.reqsTaken_part]
theorem State.reqsTaken_grace : ((s.reqsTaken p).part p).grace = (s.part p).grace := by rw [State.reqsTaken_part]
theorem State.reqsTaken_redeal : ((s.reqsTaken p).part p).redeal = (s.part p).redeal := by rw [State.reqsTaken_part]

theorem State.reqsTaken_sameTables : SameTables s (s.reqsTaken p) p := SameTables.setPart s p rfl

end

/-! ### What one served request leaves -/

section
variable {s u : State} {p : Nat} {r : ChartReq} (hpatch : (s.part p).patching = []) (hreq : (s.part p).reqs = [r])
  {c : BitVec 8} {v : Word} (hctx : r.ctx < 11)
include hpatch hreq hctx

theorem State.chartCycle_serves {i : Nat} {w : State} (h : Batch.apply p { s := s.reqsTaken p } r = { s := u.answerReq r c v })
    (hu : SameTcb w u p i) : (s.chartCycle p).Answered r.id r.core r.ctx c v ∧ SameTcb w (s.chartCycle p) p i ∧
      ((s.chartCycle p).part p).gangs = (u.part p).gangs ∧ ((s.chartCycle p).part p).redeal = (u.part p).redeal := by
  obtain ⟨ha, ht, hg, hr⟩ := State.chartCycle_answers hpatch hreq hctx h
  exact ⟨ha, hu.of_tcbs ht, hg, hr⟩

/-- A task that becomes READY has the next READYSEQ (R77). -/
theorem State.chartCycle_sequences {k : Newly} (h : Batch.apply p { s := s.reqsTaken p } r = { s := u.answerReq r c v, new := [k] }) :
    (s.chartCycle p).Answered r.id r.core r.ctx c v ∧
      (∀ j lo n, j ≠ 8 → (s.chartCycle p).tcbF p k.tcb j lo n = u.tcbF p k.tcb j lo n) ∧
      (s.chartCycle p).tcbF p k.tcb 8 0 48 = u.regF (Pf.chr p 0x38) 0 48 ∧
      (s.chartCycle p).regF (Pf.chr p 0x38) 0 48 = (u.regF (Pf.chr p 0x38) 0 48 + 1) % 2 ^ 48 := by
  obtain ⟨ha, ht, hreg⟩ := State.chartCycle_readies hpatch hreq hctx h
  have htcb := u.answerReq_tcbF r c v p k.tcb
  have hregs := u.answerReq_reg r c v (Pf.chr p 0x38)
  generalize u.answerReq r c v = w at *
  have hsame : SameTcb (w.seqOne p k.tcb) (s.chartCycle p) p k.tcb := (w.seqOne_sameTcb p k.tcb).self.of_eq ht
  refine ⟨ha, fun j lo n hj => ?_, ?_, ?_⟩
  · rw [hsame.tcbF, State.seqOne_tcbF _ _ _ hj, htcb]
  · rw [hsame.tcbF, State.seqOne_readySeq, State.regF, hregs, State.regF]
  · rw [State.regF, hreg, ← State.regF, State.seqOne_regF, State.regF, hregs, State.regF]

end

section
variable {s : State} {p id n x i : Nat} (hx : x < 11) (hpatch : (s.part p).patching = [])

section
variable (hcached : (AMap.get? (s.part p).tcbs i).isSome)
include hx hpatch hcached

/-! ### Decrements -/

section
variable (hreq : (s.part p).reqs = [⟨id, n, x, .dec i⟩]) (hi : i < 8192)
include hreq hi

theorem State.chartCycle_dec_refused (h : (s.tcbSt p i ≠ tFree ∧ s.tcbSt p i ≠ tWaiting) ∨ s.tcbF p i 5 0 16 = 0) :
    (s.chartCycle p).Answered id n x 0x70 0 := by
  have hs := State.reqsTaken_sameTcb hcached
  have hd := State.decrement_refused hi hs.self.1 (by rwa [hs.tcbSt, hs.tcbF])
  exact (State.chartCycle_answers hpatch hreq hx (Batch.apply_dec_error ((s.reqsTaken_patching p).trans hpatch) hs.self.1 hd)).1

theorem State.chartCycle_dec_counts (hd : s.tcbF p i 5 0 16 ≠ 0) (hst : s.tcbSt p i = tFree ∨ s.tcbSt p i = tWaiting)
    (hr : ¬ (s.tcbSt p i = tWaiting ∧ s.tcbF p i 5 0 16 = 1)) : (s.chartCycle p).Answered id n x 0 0 ∧
      (s.chartCycle p).tcbF p i 5 0 16 = s.tcbF p i 5 0 16 - 1 ∧ (s.chartCycle p).tcbSt p i = s.tcbSt p i := by
  have hs := State.reqsTaken_sameTcb hcached
  have hlt : s.tcbF p i 5 0 16 < 2 ^ 16 := bitsOf_lt _ _ _
  have hdec := State.decrement_counts hi hs.self.1 (by rwa [hs.tcbF]) (by rwa [hs.tcbSt]) (by rwa [hs.tcbSt, hs.tcbF])
  obtain ⟨ha, ht, -, -⟩ := State.chartCycle_serves hpatch hreq hx
    (Batch.apply_dec_ok ((s.reqsTaken_patching p).trans hpatch) hs.self.1 hdec) (State.setTcbF_sameTcb _ _ _ _ _ _ (by decide))
  refine ⟨ha, ?_, ?_⟩
  · rw [ht.tcbF, State.setTcbF_tcbF_same _ _ _ _ _ _ (by decide) (by decide) (by rw [hs.tcbF]; omega), hs.tcbF]
  · rw [ht.tcbSt, State.setTcbF_tcbSt _ _ _ _ _ _ (by decide) (by decide), hs.tcbSt]

theorem State.chartCycle_dec_readies (hst : s.tcbSt p i = tWaiting) (h1 : s.tcbF p i 5 0 16 = 1) :
    (s.chartCycle p).Answered id n x 0 0 ∧ (s.chartCycle p).tcbF p i 5 0 16 = s.tcbF p i 5 0 16 - 1 ∧
      (s.chartCycle p).tcbSt p i = tReady ∧ (s.chartCycle p).tcbF p i 8 0 48 = s.regF (Pf.chr p 0x38) 0 48 ∧
      (s.chartCycle p).regF (Pf.chr p 0x38) 0 48 = (s.regF (Pf.chr p 0x38) 0 48 + 1) % 2 ^ 48 := by
  have hs := State.reqsTaken_sameTcb hcached
  have hdec := State.decrement_readies hi hs.self.1 (by rwa [hs.tcbSt]) (by rwa [hs.tcbF])
  obtain ⟨ha, htcb, hseq, hreg⟩ := State.chartCycle_sequences hpatch hreq hx
    (Batch.apply_dec_ok ((s.reqsTaken_patching p).trans hpatch) hs.self.1 hdec)
  have hreg0 : (((s.reqsTaken p).setTcbF p i 5 0 16 ((s.reqsTaken p).tcbF p i 5 0 16 - 1)).setTcbSt p i tReady).regF (Pf.chr p 0x38) 0 48 =
      s.regF (Pf.chr p 0x38) 0 48 := by
    rw [State.regF, State.setTcbSt_reg _ _ _ _ (boardReg_chr p (.inr (.inl rfl))), State.setTcbF,
      State.setTcbW_reg _ _ _ _ (by decide) (boardReg_chr p (.inr (.inl rfl))), (s.reqsTaken_sameTables p).reg, State.regF]
  refine ⟨ha, ?_, ?_, hseq.trans hreg0, by rw [hreg, hreg0]⟩
  · rw [htcb _ _ _ (by decide), State.setTcbSt_tcbF _ _ _ _ (by decide),
      State.setTcbF_tcbF_same _ _ _ _ _ _ (by decide) (by decide) (by rw [hs.tcbF, h1]; decide), hs.tcbF]
  · rw [State.tcbSt, htcb _ _ _ (by decide), ← State.tcbSt]
    exact State.setTcbSt_tcbSt _ _ _ _ (by decide)

end

/-! ### Arms -/

section
variable (hreq : (s.part p).reqs = [⟨id, n, x, .arm i⟩])
include hreq

omit hcached in
theorem State.chartCycle_arm_refused {c : BitVec 8} (h : s.armCause p i = some c) : (s.chartCycle p).Answered id n x c 0 :=
  (State.chartCycle_answers hpatch hreq hx (Batch.apply_arm_refused ((s.reqsTaken_patching p).trans hpatch)
    ((s.reqsTaken_sameTables p).armCause i |>.trans h))).1

theorem State.chartCycle_arm (h : s.armCause p i = none) : (s.chartCycle p).Answered id n x 0 0 ∧
    (s.chartCycle p).tcbSt p i = (if s.tcbF p i 5 0 16 = 0 then tReady else tWaiting) ∧ ∀ lo k, (s.chartCycle p).tcbF p i 4 lo k = 0 := by
  have hs := (State.reqsTaken_sameTcb hcached).of_sameBoard ((s.reqsTaken p).armReads_sameBoard p i)
  have happly := Batch.apply_arm (id := id) (n := n) (x := x) ((s.reqsTaken_patching p).trans hpatch)
    ((s.reqsTaken_sameTables p).armCause i |>.trans h)
  have hst := ((s.reqsTaken p).armReads p i).armTask_tcbSt p i
  rw [hs.tcbF] at hst
  have h4 := ((s.reqsTaken p).armReads p i).armTask_word4 p i
  by_cases hr : s.tcbF p i 5 0 16 = 0
  · rw [if_pos hr] at hst ⊢
    rw [hst, if_pos rfl] at happly
    obtain ⟨ha, htcb, -, -⟩ := State.chartCycle_sequences hpatch hreq hx happly
    exact ⟨ha, (htcb 0 0 8 (by decide)).trans hst, fun lo k => (htcb 4 lo k (by decide)).trans (h4 lo k)⟩
  · rw [if_neg hr] at hst ⊢
    rw [hst, if_neg (by decide)] at happly
    obtain ⟨ha, ht, -, -⟩ := State.chartCycle_serves hpatch hreq hx happly (State.armTask_sameTcb ..)
    exact ⟨ha, ht.tcbSt.trans hst, fun lo k => (ht.tcbF 4 lo k).trans (h4 lo k)⟩

end

/-! ### Patches -/

theorem State.chartCycle_patch {w : Nat} {v : Word} {t1 : State} (hreq : (s.part p).reqs = [⟨id, n, x, .patch i w v⟩])
    (h : s.patch p i w v = .ok t1) (hw : w < 16) (h0 : w ≠ 0) : (s.chartCycle p).Answered id n x 0 0 ∧
      (s.chartCycle p).tcbSt p i = tPatching ∧ (s.chartCycle p).tcbW p i w = (s.tcbW p i w &&& ~~~(tcbRw w)) ||| v := by
  have hs := s.reqsTaken_sameTables p
  obtain ⟨ha, ht, -, -⟩ := State.chartCycle_serves hpatch hreq hx
    (Batch.apply_patch (State.reqsTaken_sameTcb hcached).self.1 (State.patch_of_ok hs h)) State.patched_sameTcb.self
  refine ⟨ha, ht.tcbSt.trans State.patched_tcbSt, ?_⟩
  rw [State.tcbW, ht.tcb, ← State.tcbW, State.patched_tcbW hw h0, hs.tcbW]

end

/-! ### Deals and acknowledgements -/

section
variable {g : GangRef} {h : Gang} (hcached : (AMap.get? (s.part p).tcbs h.tcb).isSome) (hg : (s.core n).gang = some g) (hp : g.part = p)
  (hs : (s.part p).gangs = [h]) (hn : h.num = g.num)
include hx hpatch hcached hg hp hs hn

omit hx hpatch hcached in
theorem State.reqsTaken_gangOf : (s.reqsTaken p).gangOf n = some (p, h) :=
  State.gangOf_of_only (s := s.reqsTaken p) hg hp ((s.reqsTaken_gangs p).trans hs) hn

section
variable (hreq : (s.part p).reqs = [⟨id, n, x, .card⟩]) (hst : s.tcbSt p h.tcb ≠ tFaulted) (hgr : AMap.get? (s.part p).grace h.tcb = none)
include hreq hst hgr

omit hx in
theorem State.chartCycle_card_held (hc : 2 ≤ h.chunks.length) : ((s.chartCycle p).part p).reqs = (s.part p).reqs := by
  have hst' : (s.reqsTaken p).tcbSt p h.tcb ≠ tFaulted := by rwa [(State.reqsTaken_sameTcb hcached).tcbSt]
  have hgr' : AMap.get? ((s.reqsTaken p).part p).grace h.tcb = none := by rwa [s.reqsTaken_grace]
  rw [State.chartCycle_one hpatch hreq, Batch.apply_card_held (State.deal_held (State.reqsTaken_gangOf hg hp hs hn) hst' hgr' hc)]
  refine (congrArg Part.reqs (State.reqsHeld_part ..) :).trans ?_
  rw [State.seqAll_nil, State.reqsTaken_part, hreq]
  rfl

variable (hc : h.chunks.length < 2)
include hc

theorem State.chartCycle_card_redeals {c : Chunk} {rest : List Chunk} (hr : AMap.getD (s.part p).redeal h.tcb [] = c :: rest) :
    (s.chartCycle p).Answered id n x 0 (BitVec.ofNat 64 (c.count * 2 ^ 32 + c.first)) ∧
      (s.chartCycle p).cursor p h.tcb = s.cursor p h.tcb ∧ (rest ≠ [] → AMap.getD ((s.chartCycle p).part p).redeal h.tcb [] = rest) := by
  have hsame := State.reqsTaken_sameTcb hcached
  obtain ⟨ha, ht, -, hred⟩ := State.chartCycle_serves hpatch hreq hx (Batch.apply_card (State.deal_redeal
    (State.reqsTaken_gangOf hg hp hs hn) (by rwa [hsame.tcbSt]) (by rwa [s.reqsTaken_grace]) hc (by rw [s.reqsTaken_redeal, hr])))
    (hsame.of_tcbs (by rw [State.setGang_progress_tcbs, State.setRedeal_tcbs]))
  refine ⟨ha, ht.tcbF 4 0 32, fun hne => ?_⟩
  rw [hred, State.progress_redeal, State.setGang_redeal, State.setRedeal_redeal _ _ _ hne]

variable (hr : AMap.getD (s.part p).redeal h.tcb [] = [])
include hr

theorem State.chartCycle_card_empty (hz : s.recCount p h.tcb - s.cursor p h.tcb = 0) :
    (s.chartCycle p).Answered id n x 0 (BitVec.ofNat 64 (s.cursor p h.tcb)) := by
  have hsame := State.reqsTaken_sameTcb hcached
  have hcur : (s.reqsTaken p).cursor p h.tcb = s.cursor p h.tcb := hsame.tcbF 4 0 32
  have hrec : (s.reqsTaken p).recCount p h.tcb = s.recCount p h.tcb := hsame.tcbF 3 16 32
  rw [← hcur]
  exact (State.chartCycle_answers hpatch hreq hx (Batch.apply_card (State.deal_empty
    (State.reqsTaken_gangOf hg hp hs hn) (by rwa [hsame.tcbSt]) (by rwa [s.reqsTaken_grace]) hc (by rw [s.reqsTaken_redeal, hr])
    (by rw [hcur, hrec, hz])))).1

theorem State.chartCycle_card_deals (hz : s.recCount p h.tcb - s.cursor p h.tcb ≠ 0) :
    (s.chartCycle p).Answered id n x 0 (BitVec.ofNat 64 (s.dealCount p h.tcb * 2 ^ 32 + s.cursor p h.tcb)) ∧
      (s.chartCycle p).cursor p h.tcb = s.cursor p h.tcb + s.dealCount p h.tcb ∧
      ((s.chartCycle p).part p).gangs = [{ h with chunks := h.chunks ++ [⟨s.cursor p h.tcb, s.dealCount p h.tcb, n, x⟩] }] := by
  have hsame := State.reqsTaken_sameTcb hcached
  have hcur : (s.reqsTaken p).cursor p h.tcb = s.cursor p h.tcb := hsame.tcbF 4 0 32
  have hrec : (s.reqsTaken p).recCount p h.tcb = s.recCount p h.tcb := hsame.tcbF 3 16 32
  have hcnt : (s.reqsTaken p).dealCount p h.tcb = s.dealCount p h.tcb := by
    simp only [State.dealCount, hcur, hrec, hsame.tcbF]
  obtain ⟨ha, ht, hgs, -⟩ := State.chartCycle_serves hpatch hreq hx (Batch.apply_card (State.deal_records
    (State.reqsTaken_gangOf hg hp hs hn) (by rwa [hsame.tcbSt]) (by rwa [s.reqsTaken_grace]) hc (by rw [s.reqsTaken_redeal, hr])
    (by rwa [hcur, hrec])))
    ((State.setTcbF_sameTcb _ _ _ _ _ _ (by decide)).of_eq (State.setGang_progress_tcbs ..))
  rw [hcnt, hcur] at ha ht hgs
  refine ⟨ha, ?_, ?_⟩
  · refine (ht.tcbF 4 0 32).trans ?_
    exact State.setTcbF_tcbF_same _ _ _ _ _ _ (by decide) (by decide) (State.cursor_add_dealCount_lt hz)
  · rw [hgs, State.progress_gangs]
    refine State.setGang_only (h := h) _ _ ?_ rfl
    rw [State.setTcbF, State.setTcbW_gangs _ _ _ _ (by decide), s.reqsTaken_gangs, hs]

end

theorem State.chartCycle_done {c : Chunk} (hreq : (s.part p).reqs = [⟨id, n, x, .done c.first⟩]) (hc : h.chunks = [c])
    (hst : s.tcbSt p h.tcb = tRunning) (hlt : s.acked p h.tcb + c.count < 2 ^ 32) : (s.chartCycle p).Answered id n x 0 0 ∧
      (s.chartCycle p).acked p h.tcb = s.acked p h.tcb + c.count ∧ ((s.chartCycle p).part p).gangs = [{ h with chunks := [] }] ∧
      (s.chartCycle p).tcbSt p h.tcb = (if s.acked p h.tcb + c.count = s.recCount p h.tcb then tDraining else tRunning) := by
  have hsame := State.reqsTaken_sameTcb hcached
  have hacked : (s.reqsTaken p).acked p h.tcb = s.acked p h.tcb := hsame.tcbF 4 32 32
  have hrec : (s.reqsTaken p).recCount p h.tcb = s.recCount p h.tcb := hsame.tcbF 3 16 32
  have hack := State.ack_only (State.reqsTaken_gangOf hg hp hs hn) hc hsame.self.1 (by rwa [hsame.tcbSt])
  rw [hacked, hrec] at hack
  have hgs := (s.reqsTaken_gangs p).trans hs
  have hself : SameTcb ((s.reqsTaken p).ackOnly p h (s.acked p h.tcb + c.count))
      ((s.reqsTaken p).ackOnly p h (s.acked p h.tcb + c.count)) p h.tcb := State.setTcbF_sameTcb _ _ _ _ _ _ (by decide)
  have hrun : ((s.reqsTaken p).ackOnly p h (s.acked p h.tcb + c.count)).tcbSt p h.tcb = tRunning := by
    rw [State.ackOnly_tcbSt, (hsame.of_tcbs (State.setGang_tcbs ..)).tcbSt, hst]
  have hgangs := State.ackOnly_gangs (a := s.acked p h.tcb + c.count) hgs (g := h) rfl
  have hcount := State.ackOnly_acked (s := s.reqsTaken p) (p := p) (g := h) hlt
  generalize (s.reqsTaken p).ackOnly p h (s.acked p h.tcb + c.count) = u at hack hself hrun hgangs hcount
  split at hack
  next hlast =>
    obtain ⟨ha, ht, hgang, -⟩ := State.chartCycle_serves hpatch hreq hx (Batch.apply_done hack)
      ((u.setTcbSt_sameTcb p h.tcb _).of_eq (State.progress_tcbs ..))
    refine ⟨ha, (ht.tcbF 4 32 32).trans ?_, ?_, ?_⟩
    · rw [State.setTcbSt_tcbF _ _ _ _ (by decide)]
      exact hcount
    · rw [hgang, State.progress_gangs, State.setTcbSt_gangs, hgangs]
    · rw [if_pos hlast, ht.tcbSt, State.setTcbSt_tcbSt _ _ _ _ (by decide)]
  next hmore =>
    obtain ⟨ha, ht, hgang, -⟩ := State.chartCycle_serves hpatch hreq hx (Batch.apply_done hack) (hself.of_tcbs (State.progress_tcbs ..))
    refine ⟨ha, (ht.tcbF 4 32 32).trans hcount, ?_, ?_⟩
    · rw [hgang, State.progress_gangs, hgangs]
    · rw [if_neg hmore, ht.tcbSt, hrun]

end

end

/-- Settles O37: one request is served alone in its mesh cycle. The cycle's order of service plays no part, so each clause is what
Batch.apply does with the request, and a task that becomes READY is sequenced afterwards. -/
theorem requestsAreServed : Obligations.RequestsAreServed := by
  unfold Obligations.RequestsAreServed
  intro s p id n x i hx
  dsimp only
  intro hc
  refine ⟨?_, ?_, ?_, ?_, ?_⟩
  · rintro ⟨hp, hr⟩ hi
    refine ⟨fun hst hd => ?_, fun hf hw => ?_, fun hd => ?_⟩
    · by_cases hready : s.tcbSt p i = tWaiting ∧ s.tcbF p i 5 0 16 = 1
      · obtain ⟨ha, hdeps, hs, hseq, hreg⟩ := State.chartCycle_dec_readies hx hp hc hr hi hready.1 hready.2
        exact ⟨ha, hdeps, by rw [hs, if_pos hready], fun _ _ => ⟨hseq, hreg⟩⟩
      · obtain ⟨ha, hdeps, hs⟩ := State.chartCycle_dec_counts hx hp hc hr hi hd hst hready
        exact ⟨ha, hdeps, by rw [hs, if_neg hready], fun h1 h2 => absurd ⟨h1, h2⟩ hready⟩
    · exact State.chartCycle_dec_refused hx hp hc hr hi (.inl ⟨hf, hw⟩)
    · exact State.chartCycle_dec_refused hx hp hc hr hi (.inr hd)
  · rintro ⟨hp, hr⟩
    refine ⟨fun c h => State.chartCycle_arm_refused hx hp hr h, fun h => ?_⟩
    obtain ⟨ha, hs, h4⟩ := State.chartCycle_arm hx hp hc hr h
    exact ⟨ha, hs, h4 0 32, h4 32 32⟩
  · rintro w v t1 ⟨hp, hr⟩ h hw h0
    exact State.chartCycle_patch hx hp hc hr h hw h0
  · rintro g h ⟨hp, hr⟩ hg hgp hgs hn rfl hst hgr
    refine ⟨fun hl hred hrem => ?_, fun hl hred hrem => ?_, fun c rest hl hred => ?_, fun hl => ?_⟩
    · exact State.chartCycle_card_deals hx hp hc hg hgp hgs hn hr hst hgr hl hred hrem
    · exact State.chartCycle_card_empty hx hp hc hg hgp hgs hn hr hst hgr hl hred hrem
    · exact State.chartCycle_card_redeals hx hp hc hg hgp hgs hn hr hst hgr hl hred
    · exact State.chartCycle_card_held hp hc hg hgp hgs hn hr hst hgr hl
  · rintro g h c ⟨hp, hr⟩ hg hgp hgs hn rfl hch hst hlt
    exact State.chartCycle_done hx hp hc hg hgp hgs hn hr hch hst hlt

end Sys2Proof.Machine
end

section
/-! PROOFS of the family 04_chartroom. What the L1, the trace and the grants of a core leave of everything else: lines that are written
back or dropped (R132, R165), records and triggers of a trace (R223, R224), grants that end (R174). -/

namespace Sys2Proof.Machine

/-- A core without its L1 lines, its trace and its grants. -/
def Core.bare (c : Core) : Core := { c with l1 := [], fifo := [], trace := [], missed := [], trStop := false, grants := [] }

/-- A core without the grant of a binding. -/
def Core.dropGrant (c : Core) (k : Nat) : Core := { c with grants := AMap.erase c.grants k }

/-- A state without its cores, the accesses under way, the ids given and the registers. -/
def State.offWork (s : State) : State := { s with cores := [], flight := [], nextId := 0, regs := [] }

/-- From s to t the L1 lines, traces and grants of cores may have changed, and writebacks may have begun. -/
structure SameWork (s t : State) : Prop where
  core : ∀ n, (t.core n).bare = (s.core n).bare
  off : t.offWork = s.offWork

namespace SameWork
variable {s t u : State}

theorem refl (s : State) : SameWork s s := ⟨fun _ => rfl, rfl⟩

theorem trans (h : SameWork s t) (k : SameWork t u) : SameWork s u := ⟨fun n => (k.core n).trans (h.core n), k.off.trans h.off⟩

theorem foldl {α : Type} {f : State → α → State} (hf : ∀ s a, SameWork s (f s a)) (l : List α) (s : State) : SameWork s (l.foldl f s) := by
  induction l generalizing s with
  | nil => exact refl s
  | cons a l ih => exact (hf s a).trans (ih _)

/-- A core that is written with all but its L1 lines, its trace and its grants as they were. -/
theorem setCore {n : Nat} {c : Core} (h : SameWork s t) (e : c.bare = (t.core n).bare) : SameWork s (t.setCore n c) := by
  refine ⟨fun m => Eq.trans ?_ (h.core m), h.off⟩
  by_cases hm : m = n
  · subst hm
    rw [State.setCore_core_same, e]
  · rw [State.setCore_core_other _ _ _ hm]

theorem newId (h : SameWork s t) : SameWork s t.newId.2 := ⟨h.core, h.off⟩
theorem fly {a : Access} (h : SameWork s t) : SameWork s (t.fly a) := ⟨h.core, h.off⟩
theorem setReg {a : Nat} {v : Word} (h : SameWork s t) : SameWork s (t.setReg a v) := ⟨h.core, h.off⟩
theorem setRegF {a lo n v : Nat} (h : SameWork s t) : SameWork s (t.setRegF a lo n v) := h.setReg

/-! ### The L1 -/

theorem l1Back (s : State) (n : Nat) (l : L1Line) : SameWork s (s.l1Back n l) := by
  unfold State.l1Back
  split
  · exact refl s
  · exact ((refl s).newId.setCore (by rfl)).fly

theorem l1Clean (s : State) (n b : Nat) (drop : Bool) : SameWork s (s.l1Clean n b drop) := by
  unfold State.l1Clean
  split
  next l _ =>
    dsimp only
    split
    · exact (l1Back s n l).setCore rfl
    · exact l1Back s n l
  next => exact refl s

theorem drain (s : State) (n : Nat) : SameWork s (s.drain n) := foldl (fun s b => l1Clean s n b false) _ s

theorem shrinkL1 (s : State) (n ways : Nat) : SameWork s (s.shrinkL1 n ways) := foldl (fun s b => l1Clean s n b true) _ s

theorem acquireActs (s : State) (n : Nat) (sc : Scope) : SameWork s (s.acquireActs n sc) := by
  unfold State.acquireActs
  split
  · exact (refl s).setCore rfl
  · exact refl s

/-! ### The trace -/

theorem traceAdd (s : State) (n : Nat) (r : Word × Word) : SameWork s (s.traceAdd n r) := by
  unfold State.traceAdd
  dsimp only
  split
  · exact (refl s).setCore rfl
  · exact ((refl s).setCore (by rfl)).setRegF

theorem traceRec (s : State) (n x kind : Nat) (d1 : Word) : SameWork s (s.traceRec n x kind d1) := by
  unfold State.traceRec
  dsimp only
  split
  · exact refl s
  · split
    · exact traceAdd ..
    · exact (refl s).setCore rfl

theorem traceStart (s : State) (n : Nat) : SameWork s (s.traceStart n) := by
  unfold State.traceStart
  dsimp only
  split
  · exact ((refl s).setReg.setCore (by rfl)).trans (foldl (fun s r => traceAdd s n r) _ _)
  · exact (refl s).setReg

theorem traceStop (s : State) (n : Nat) : SameWork s (s.traceStop n) := (refl s).setCore rfl

theorem trigger (s : State) (n code : Nat) : SameWork s (s.trigger n code) := by
  have hstart : SameWork s (if bitsOf (s.reg (Pf.dbg n 0x1C0)) 0 5 = code ∧ code ≠ 0 then s.traceStart n else s) := by
    split
    · exact traceStart s n
    · exact refl s
  unfold State.trigger
  dsimp only
  split
  · exact hstart.trans (traceStop ..)
  · exact hstart

/-! ### Grants -/

theorem revoke (s : State) (n m : Nat) : SameWork s (s.revoke n m) := by
  refine ⟨fun k => ?_, rfl⟩
  have hk : (s.revoke n m).core k = (s.core k).dropGrant (mboxKey n m) :=
    AMap.getD_map (fun c : Core => c.dropGrant (mboxKey n m)) s.cores k {}
  rw [hk]
  rfl

theorem revokeAll (s : State) (n : Nat) : SameWork s (s.revokeAll n) := foldl (fun s m => revoke s n m) _ s

/-! ### What stands -/

section
variable (h : SameWork s t)
include h

theorem cur : t.cur = s.cur := (congrArg State.cur h.off :)
theorem parts : t.parts = s.parts := (congrArg State.parts h.off :)
theorem ctxs (n : Nat) : (t.core n).ctxs = (s.core n).ctxs := (congrArg Core.ctxs (h.core n) :)
theorem ctx (n x : Nat) : t.ctx n x = s.ctx n x := by rw [State.ctx, Core.ctx, h.ctxs, State.ctx, Core.ctx]
theorem gang (n : Nat) : (t.core n).gang = (s.core n).gang := (congrArg Core.gang (h.core n) :)
theorem mf (n : Nat) : (t.core n).mf = (s.core n).mf := (congrArg Core.mf (h.core n) :)
theorem scr (n : Nat) : (t.core n).scr = (s.core n).scr := (congrArg Core.scr (h.core n) :)
theorem qs (n : Nat) : (t.core n).qs = (s.core n).qs := (congrArg Core.qs (h.core n) :)
theorem moving (n : Nat) : (t.core n).moving = (s.core n).moving := (congrArg Core.moving (h.core n) :)
theorem scratch (n : Nat) : (t.core n).scratch = (s.core n).scratch := (congrArg Core.scratch (h.core n) :)
theorem stack (n : Nat) : (t.core n).stack = (s.core n).stack := (congrArg Core.stack (h.core n) :)

theorem my : t.my = s.my := by rw [State.my, h.cur, h.ctx, State.my]

end

end SameWork

end Sys2Proof.Machine
end

section
/-! PROOFS of the family 04_chartroom, O36. What the parts of an issue leave of the running context, its core's gang and the partitions:
reads of operands (R288), the start of the issue (R120), a release (R166). -/

namespace Sys2Proof.Machine

/-! ### The operands of an instruction of format S -/

theorem Opnd.ofBitsD_bits (o : Opnd) : Opnd.ofBitsD o.bits = o := by
  cases o with
  | g n => revert n; decide
  | o n => revert n; decide
  | q n => revert n; decide
  | imm v => revert v; decide
  | lr => decide
  | zr => decide
  | lit => decide

theorem extractLsb'_high (f : BitVec 10) (a d : BitVec 7) : (f ++ (a ++ d)).extractLsb' 7 7 = a := by
  apply BitVec.eq_of_toNat_eq
  rw [BitVec.extractLsb'_toNat, toNat_append_eq_add, toNat_append_eq_add, Nat.shiftRight_eq_div_pow]
  have := a.isLt
  have := d.isLt
  omega

theorem extractLsb'_low (f : BitVec 10) (a d : BitVec 7) : (f ++ (a ++ d)).extractLsb' 0 7 = d := by
  apply BitVec.eq_of_toNat_eq
  rw [BitVec.extractLsb'_toNat, toNat_append_eq_add, toNat_append_eq_add, Nat.shiftRight_eq_div_pow]
  have := d.isLt
  omega

theorem fieldsOf_s {i : Instr} {m : Mods} {x : Desc} {f : BitVec 10} {a d : BitVec 7} (hm : i.mods? = some m) (hx : i.desc? = some x)
    (hf : x.fmt = .s) (hc : x.c = .unused) (hi : i.hi = f ++ (a ++ d)) :
    fieldsOf i = [(Opnd.ofBitsD a, x.a), (Opnd.ofBitsD d, x.d)].filter (fun p => Raw.Use.isOpnd p.2) := by
  have ha : (i.raw m).a = a := by
    rw [Raw.a, Instr.raw, hi]
    exact extractLsb'_high f a d
  have hd : (i.raw m).d = d := by
    rw [Raw.d, Instr.raw, hi]
    exact extractLsb'_low f a d
  have hfields : (i.raw m).fields x = [(a, x.a), (d, x.d)] := by rw [Raw.fields, hf, ha, hd]
  unfold fieldsOf
  rw [hm, hx]
  dsimp only
  rw [hfields, hc]
  split
  · rfl
  · rfl

/-- The operands that an instruction reads as it issues. -/
def sourcesOf (i : Instr) : List Opnd := ((fieldsOf i).filter (fun p => readsField p.2)).map Prod.fst

theorem readOperands_eq (i : Instr) (m : Mods) : readOperands i m = (sourcesOf i).mapM (fun o => src o m) := by
  rw [readOperands, sourcesOf, List.mapM_map]
  rfl

section
variable (d a : Opnd) (m : Mods)

theorem fieldsOf_charm : fieldsOf (.charm a m) = [(a, .src)] := by rw [fieldsOf_s rfl rfl rfl rfl rfl, Opnd.ofBitsD_bits]; rfl
theorem fieldsOf_chdec : fieldsOf (.chdec a m) = [(a, .src)] := by rw [fieldsOf_s rfl rfl rfl rfl rfl, Opnd.ofBitsD_bits]; rfl
theorem fieldsOf_chdone : fieldsOf (.chdone a m) = [(a, .src)] := by rw [fieldsOf_s rfl rfl rfl rfl rfl, Opnd.ofBitsD_bits]; rfl
theorem fieldsOf_chpatch : fieldsOf (.chpatch d a m) = [(a, .src), (d, .src)] := by
  rw [fieldsOf_s rfl rfl rfl rfl rfl, Opnd.ofBitsD_bits, Opnd.ofBitsD_bits]; rfl
theorem fieldsOf_chcard : fieldsOf (.chcard d m) = [(d, .dst)] := by rw [fieldsOf_s rfl rfl rfl rfl rfl, Opnd.ofBitsD_bits]; rfl
theorem fieldsOf_ckset : fieldsOf (.ckset d a m) = [(a, .src), (d, .dst)] := by
  rw [fieldsOf_s rfl rfl rfl rfl rfl, Opnd.ofBitsD_bits, Opnd.ofBitsD_bits]; rfl

end

/-! ### What stands around the running context -/

/-- The running context is the same one, in the same gang, and the partitions are those of s. -/
structure SameHome (s t : State) : Prop where
  cur : t.cur = s.cur
  parts : t.parts = s.parts
  gang : t.me.gang = s.me.gang

/-- It also stands as it stood. -/
structure SameRun (s t : State) : Prop extends SameHome s t where
  my : t.my = s.my

namespace SameHome
variable {s t u : State}

theorem trans (h : SameHome s t) (k : SameHome t u) : SameHome s u :=
  ⟨k.cur.trans h.cur, k.parts.trans h.parts, k.gang.trans h.gang⟩

theorem setMy (s : State) (k : Ctx) : SameHome s (s.setMy k) := ⟨rfl, rfl, State.setMy_gang s k⟩

theorem homePart (h : SameHome s t) : t.homePart t.cur.1 = s.homePart s.cur.1 := by
  have hg := h.gang
  unfold State.me at hg
  rw [State.homePart, State.homePart, hg, h.cur]

theorem part (h : SameHome s t) (p : Nat) : t.part p = s.part p := by rw [State.part, h.parts, State.part]

end SameHome

namespace SameRun
variable {s t u : State}

theorem refl (s : State) : SameRun s s := ⟨⟨rfl, rfl, rfl⟩, rfl⟩

theorem trans (h : SameRun s t) (k : SameRun t u) : SameRun s u := ⟨h.toSameHome.trans k.toSameHome, k.my.trans h.my⟩

theorem setMe {c : Core} (hg : c.gang = s.me.gang) (hc : c.ctxs = s.me.ctxs) : SameRun s (s.setMe c) :=
  ⟨⟨rfl, rfl, by rw [State.setMe_me, hg]⟩, State.setMe_my s hc⟩

theorem of_sameWork (h : SameWork s t) : SameRun s t :=
  ⟨⟨h.cur, h.parts, by rw [State.me, h.cur, h.gang, State.me]⟩, h.my⟩

theorem newId (s : State) : SameRun s s.newId.2 := ⟨⟨rfl, rfl, rfl⟩, rfl⟩

end SameRun

/-! ### Cores -/

section
variable (c : Core)

theorem Core.mfBack_gang (e : MfEntry) : (c.mfBack e).gang = c.gang := by unfold Core.mfBack; split <;> rfl

theorem Core.mfPut_gang (e : MfEntry) : (c.mfPut e).gang = c.gang := by
  rcases c.mfPut_cases e with h | ⟨v, -, h⟩
  · rw [h]
  · rw [h]
    exact c.mfBack_gang v

theorem Core.gTouch_gang (a : Nat) : (c.gTouch a).gang = c.gang := by
  unfold Core.gTouch
  split
  · rfl
  · exact Core.mfPut_gang _ _

theorem Core.gTouch_qs (a : Nat) : (c.gTouch a).qs = c.qs := by
  unfold Core.gTouch
  split
  · rfl
  · exact Core.mfPut_qs _ _

theorem Core.mfBacks_keep {α : Type} (f : Core → α) (hf : ∀ c e, f (Core.mfBack c e) = f c) (l : List MfEntry) :
    f (l.foldl Core.mfBack c) = f c := by
  induction l generalizing c with
  | nil => rfl
  | cons e l ih => exact (ih _).trans (hf c e)

theorem Core.gFlush_gang (w : Word) : (c.gFlush w).gang = c.gang := c.mfBacks_keep Core.gang Core.mfBack_gang _
theorem Core.gFlush_ctxs (w : Word) : (c.gFlush w).ctxs = c.ctxs := c.mfBacks_keep Core.ctxs Core.mfBack_ctxs _

end

/-! ### A release -/

theorem State.releaseActs_sameRun (s : State) (sc : Scope) : SameRun s (s.releaseActs s.cur.1 s.cur.2 sc).2 := by
  have hflush : SameRun s (if (s.ctx s.cur.1 s.cur.2).noWs then s
      else s.setCore s.cur.1 ((s.core s.cur.1).gFlush (s.ctx s.cur.1 s.cur.2).wsp)) := by
    split
    · exact .refl s
    · exact .setMe (Core.gFlush_gang ..) (Core.gFlush_ctxs ..)
  unfold State.releaseActs
  split
  · exact .refl s
  · dsimp only
    split
    · exact hflush.trans (.of_sameWork (SameWork.drain ..))
    · exact hflush

/-- A release with nothing to wait for goes on. -/
theorem releaseFirst_ok {s : State} {sc : Scope} (h : (s.releaseActs s.cur.1 s.cur.2 sc).1 = []) :
    ∃ t, releaseFirst sc s = .ok ((), t) ∧ SameRun s t := by
  unfold releaseFirst
  split
  · exact ⟨s, rfl, .refl s⟩
  · have hrun := s.releaseActs_sameRun sc
    generalize s.releaseActs s.cur.1 s.cur.2 sc = r at h hrun
    obtain ⟨ids, t⟩ := r
    subst h
    exact ⟨t, rfl, hrun⟩

/-- A release that was made before goes on. -/
theorem releaseFirst_arrived {s : State} {sc : Scope} {q : Wait} (h : s.my.wait = some q) (hon : q.on = .release) (ha : q.arrived = true) :
    releaseFirst sc s = .ok ((), s) := by
  rw [releaseFirst, if_pos]
  simp [h, hon, ha]

/-! ### Contexts that are written -/

section
variable (s : State) (k l : Ctx)

theorem State.setMy_setMy (h : s.cur.2 < 11) : (s.setMy k).setMy l = s.setMy l := by
  simp [State.setMy, State.setCtx, Core.setCtx, h]

end

/-! ### The start of an issue -/

section
variable {s : State} (h : s.cur.2 < 11)
include h

theorem State.rejoin_my : (s.rejoin s.cur.1 s.cur.2).my = { s.my with heldSfu := [] } := by
  unfold State.rejoin
  dsimp only
  split
  next hh =>
    have hk : s.my.heldSfu = [] := hh
    rw [← hk]
  next => exact State.setMy_my (s.setOctet _ _) _ h

omit h in
theorem State.rejoin_parts : (s.rejoin s.cur.1 s.cur.2).parts = s.parts := by
  unfold State.rejoin
  dsimp only
  split
  · rfl
  · rfl

theorem State.beginIssue_my : s.beginIssue.my = { s.my with heldSfu := [], lastIssue := some s.cyc } := by
  obtain ⟨hcur, hcyc, -, -⟩ := s.rejoin_keeps
  unfold State.beginIssue
  dsimp only
  rw [State.setMy_my _ _ (by rw [hcur]; exact h), State.rejoin_my h]

omit h in
theorem State.beginIssue_sameHome : SameHome s s.beginIssue := by
  obtain ⟨hcur, -, -, hgang⟩ := s.rejoin_keeps
  exact ⟨hcur, s.rejoin_parts, (State.setMy_gang ..).trans hgang⟩

theorem State.started_my (m : Mods) : (s.started m).my = { s.beginIssue.my with pc := nextPc s.my.pc m } := by
  unfold State.started
  rw [State.setMy_my _ _ (by rw [State.beginIssue_sameHome.cur]; exact h)]

end

/-! ### Reads -/

/-- A read of an issuing instruction leaves the context, the gang and the partitions. -/
theorem src_sameRun {o : Opnd} {m : Mods} {ty : SrcTy} {s u : State} {v : Word} (hb : s.my.begun = false) (h : src o m ty s = .ok (v, u)) :
    SameRun s u := by
  unfold src at h
  rw [if_neg (by simp [hb])] at h
  cases o with
  | g n => cases h; exact .setMe (Core.gTouch_gang ..) (Core.gTouch_ctxs ..)
  | q n =>
    dsimp only at h
    split at h
    · cases h; exact .setMe (Core.setQ_gang ..) (Core.setQ_ctxs ..)
    · cases h
  | _ => cases h; exact .refl s

/-- The running contexts of two states read queues alike. -/
structure SameQueues (s t : State) : Prop where
  qs : t.me.qs = s.me.qs
  cur : t.cur = s.cur
  issues : s.my.begun = false ∧ t.my.begun = false

/-- A read that succeeds in one does so in the other. -/
theorem SameQueues.src {o : Opnd} {m : Mods} {ty : SrcTy} {s t u : State} {v : Word} (k : SameQueues s t) (h : src o m ty s = .ok (v, u)) :
    ∃ w u', Machine.src o m ty t = .ok (w, u') ∧ SameQueues u u' := by
  obtain ⟨hqs, hcur, hs, ht⟩ := k
  unfold Machine.src at h ⊢
  rw [if_neg (by simp [hs])] at h
  rw [if_neg (by simp [ht])]
  cases o with
  | g n =>
    cases h
    refine ⟨_, _, rfl, ?_, hcur, ?_⟩
    · simp [Core.gTouch_qs, hqs]
    · simp [State.setMe_my, hs, ht]
  | q n =>
    have hq : t.me.q n.toNat = s.me.q n.toNat := by simp [Core.q, hqs]
    dsimp only at h ⊢
    rw [hq]
    split at h
    · cases h
      refine ⟨_, _, rfl, ?_, hcur, ?_⟩
      · simp [Core.setQ, hqs, hcur]
        split <;> simp [hqs]
      · simp [State.setMe_my, hs, ht]
    · cases h
  | _ => cases h; exact ⟨_, _, rfl, hqs, hcur, hs, ht⟩

theorem SameQueues.mapM {m : Mods} {os : List Opnd} {s t u : State} {vs : List Word} (k : SameQueues s t)
    (h : (os.mapM (fun o => Machine.src o m)) s = .ok (vs, u)) : ∃ ws u', (os.mapM (fun o => Machine.src o m)) t = .ok (ws, u') := by
  induction os generalizing s t u vs with
  | nil => exact ⟨[], t, rfl⟩
  | cons o os ih =>
    rw [List.mapM_cons] at h ⊢
    obtain ⟨v, s1, hv, hrest⟩ := Sem.bind_inv h
    obtain ⟨vs', s2, hvs, -⟩ := Sem.bind_inv hrest
    obtain ⟨w, t1, hw, k1⟩ := k.src hv
    obtain ⟨ws, t2, hws⟩ := ih k1 hvs
    exact ⟨w :: ws, t2, (Sem.bind_ok hw).trans ((Sem.bind_ok hws).trans rfl)⟩

/-- Reads one after another leave what one does. -/
theorem mapM_src_sameRun {m : Mods} {os : List Opnd} {s u : State} {vs : List Word} (hb : s.my.begun = false)
    (h : (os.mapM (fun o => src o m)) s = .ok (vs, u)) : SameRun s u := by
  induction os generalizing s vs with
  | nil => cases h; exact .refl _
  | cons o os ih =>
    rw [List.mapM_cons] at h
    obtain ⟨v, s1, hv, hrest⟩ := Sem.bind_inv h
    obtain ⟨vs', s2, hvs, hend⟩ := Sem.bind_inv hrest
    cases hend
    have h1 := src_sameRun hb hv
    exact h1.trans (ih (by rw [h1.my]; exact hb) hvs)

theorem State.mapM_of_reads {s u : State} {m : Mods} {os : List Opnd} {vs : List Word} (h : s.reads m .int os = some (vs, u)) :
    (os.mapM (fun o => src o m)) (s.started m) = .ok (vs, u) := by
  unfold State.reads Sem.run? at h
  split at h
  next r heq => rw [heq, Option.some.inj h]
  next => cases h

/-- The reads of an issuing instruction leave its gang, the partitions and what its context waits for. -/
theorem State.reads_keeps {s u : State} {m : Mods} {os : List Opnd} {vs : List Word} (hx : s.cur.2 < 11) (hb : s.my.begun = false)
    (h : s.reads m .int os = some (vs, u)) : SameHome s u ∧ u.my.wait = s.my.wait ∧ u.my.begun = false := by
  have hmy := State.started_my hx m
  rw [State.beginIssue_my hx] at hmy
  have hrun := mapM_src_sameRun (by rw [hmy]; exact hb) (State.mapM_of_reads h)
  refine ⟨(State.beginIssue_sameHome.trans (.setMy _ _)).trans hrun.toSameHome, ?_, ?_⟩
  · rw [hrun.my, hmy]
  · rw [hrun.my, hmy]; exact hb

/-- What an issuing instruction can read once it has begun, it can read as it begins. -/
theorem State.readOperands_of_reads {i : Instr} {s u : State} {m : Mods} {vs : List Word} (hx : s.cur.2 < 11) (hb : s.my.begun = false)
    (h : s.reads m .int (sourcesOf i) = some (vs, u)) : ∃ ws t, readOperands i m s.beginIssue = .ok (ws, t) ∧ SameRun s.beginIssue t := by
  have hb0 : s.beginIssue.my.begun = false := by rw [State.beginIssue_my hx]; exact hb
  have hq : SameQueues (s.started m) s.beginIssue := by
    refine ⟨?_, rfl, ?_, hb0⟩
    · simp [State.started, State.setMy, State.setCtx, State.me]
    · rw [State.started_my hx]; exact hb0
  obtain ⟨ws, t, ht⟩ := hq.mapM (State.mapM_of_reads h)
  rw [readOperands_eq]
  exact ⟨ws, t, ht, mapM_src_sameRun hb0 ht⟩

end Sys2Proof.Machine
end

section
/-! PROOFS of the family 04_chartroom, O36. A request is posted and answered (R344, R345). -/

namespace Sys2Proof.Machine

/-! ### The entry that an instruction reserves for its result -/

section
variable {s r : State} {i : Instr}

theorem State.reserveTail_none (h : destQueue i = none) : s.reserveTail i = some s := by rw [State.reserveTail, h]

theorem State.reserveTail_of_some {e : Nat × Nat} (h : s.my.tail = some e) (hr : s.reserveTail i = some r) : r = s := by
  unfold State.reserveTail at hr
  split at hr
  · exact (Option.some.inj hr).symm
  · rw [h, if_pos (by rfl)] at hr
    exact (Option.some.inj hr).symm

/-- The reservation changes nothing of the running context but its entry. -/
theorem State.reserveTail_keeps (h : s.cur.2 < 11) (hr : s.reserveTail i = some r) : SameHome s r ∧ ∃ e, r.my = { s.my with tail := e } := by
  unfold State.reserveTail at hr
  split at hr
  · cases hr
    exact ⟨⟨rfl, rfl, rfl⟩, _, rfl⟩
  next q _ =>
    split at hr
    · cases hr
      exact ⟨⟨rfl, rfl, rfl⟩, _, rfl⟩
    · split at hr
      · cases hr
      · have hpush := (SameRun.newId s).trans (SameRun.setMe (s := s.newId.2)
          (c := s.newId.2.me.setQ q ((s.newId.2.me.q q).push s.newId.2.cur.2 s.nextId none)) (Core.setQ_gang ..) (Core.setQ_ctxs ..))
        cases hr
        refine ⟨hpush.toSameHome.trans (.setMy _ _), some (q, s.nextId), (State.setMy_my _ _ (by exact h)).trans ?_⟩
        exact congrArg (fun k : Ctx => { k with tail := some (q, s.nextId) }) hpush.my

end

/-! ### A request is posted -/

/-- From s to t the running context has posted a request, and waits for the answer. -/
structure Posted (s t : State) (op : ChartOp) (id : Nat) : Prop where
  cur : t.cur = s.cur
  reqs : (t.part (s.homePart s.cur.1)).reqs = (s.part (s.homePart s.cur.1)).reqs ++ [⟨id, s.cur.1, s.cur.2, op⟩]
  asked : t.my.asked = true
  pc : t.my.pc = s.my.pc
  doing : t.my.doing = s.my.doing

namespace Posted
variable {s t u : State} {op : ChartOp} {id : Nat}

/-- A state from which the context has gone on. -/
theorem of_sameHome (h : SameHome s u) (hpc : u.my.pc = s.my.pc) (p : Posted u t op id) : t.cur = s.cur ∧
    (t.part (s.homePart s.cur.1)).reqs = (s.part (s.homePart s.cur.1)).reqs ++ [⟨id, s.cur.1, s.cur.2, op⟩] ∧ t.my.asked = true ∧
    t.my.pc = s.my.pc ∧ t.my.doing = u.my.doing := by
  obtain ⟨hcur, hreqs, hasked, hpc', hdoing⟩ := p
  rw [h.homePart, h.part, h.cur] at hreqs
  exact ⟨hcur.trans h.cur, hreqs, hasked, hpc'.trans hpc, hdoing⟩

theorem reserveTail {i : Instr} {r : State} (h : s.cur.2 < 11) (p : Posted s t op id) (hr : t.reserveTail i = some r) : Posted s r op id := by
  obtain ⟨hcur, hreqs, hasked, hpc, hdoing⟩ := p
  obtain ⟨hhome, e, hmy⟩ := State.reserveTail_keeps (by rw [hcur]; exact h) hr
  refine ⟨hhome.cur.trans hcur, by rw [hhome.part, hreqs], ?_, ?_, ?_⟩
  · rw [hmy]; exact hasked
  · rw [hmy]; exact hpc
  · rw [hmy]; exact hdoing

end Posted

/-- Once what a release does first has been done, the request joins the queue of the Chartroom. -/
theorem State.postChart_posts (s : State) (op : ChartOp) (rel blocks : Bool) (h : s.cur.2 < 11) :
    ∃ id, Posted s (s.postChart op rel blocks) op id := by
  have hrel : SameRun s (if rel then (s.releaseActs s.cur.1 s.cur.2 .part).2 else s) := by
    split
    · exact s.releaseActs_sameRun .part
    · exact .refl s
  unfold State.postChart
  generalize (if rel then (s.releaseActs s.cur.1 s.cur.2 .part).2 else s) = s0 at hrel
  dsimp only
  have hrun := hrel.trans (SameRun.newId s0)
  have hhome := hrun.homePart
  have hpart := hrun.part (s.homePart s.cur.1)
  generalize s0.newId = new at *
  obtain ⟨id, s1⟩ := new
  dsimp only at *
  rw [hhome]
  have hlt : s1.cur.2 < 11 := by rw [hrun.cur]; exact h
  refine ⟨id, hrun.cur, ?_, ?_, ?_, ?_⟩
  · rw [State.part, State.setMy_parts, ← State.part, State.setPart_part_same, hpart]
  all_goals rw [State.setMy_my (s1.setPart _ _) _ hlt]
  · rfl
  · exact (congrArg Ctx.pc hrun.my :)
  · exact (congrArg Ctx.doing hrun.my :)

/-- An issuing instruction posts its request, and is in it from then on. -/
theorem State.beginWait_posts {s : State} {i : Instr} {m : Mods} (h : s.cur.2 < 11)
    (hread : ∃ vs t, readOperands i m s.beginIssue = .ok (vs, t) ∧ SameRun s.beginIssue t) (op : ChartOp) (rel blocks : Bool) :
    ∃ id, ((s.beginWait i m (fun s => s.postChart op rel blocks)).part (s.homePart s.cur.1)).reqs =
        (s.part (s.homePart s.cur.1)).reqs ++ [⟨id, s.cur.1, s.cur.2, op⟩] ∧
      (s.beginWait i m (fun s => s.postChart op rel blocks)).my.asked = true ∧
      (s.beginWait i m (fun s => s.postChart op rel blocks)).my.pc = s.my.pc ∧
      (s.beginWait i m (fun s => s.postChart op rel blocks)).my.doing = some i := by
  obtain ⟨vs, t, hok, hrun⟩ := hread
  have hhome := State.beginIssue_sameHome.trans (hrun.toSameHome.trans (SameHome.setMy t { t.my with doing := some i, held := vs }))
  have hmy : (t.setMy { t.my with doing := some i, held := vs }).my = { t.my with doing := some i, held := vs } :=
    State.setMy_my _ _ (by rw [hrun.cur, State.beginIssue_sameHome.cur]; exact h)
  have hpc : (t.setMy { t.my with doing := some i, held := vs }).my.pc = s.my.pc := by
    rw [hmy]
    exact (congrArg Ctx.pc (hrun.my.trans (State.beginIssue_my h)) :)
  have hdoing : (t.setMy { t.my with doing := some i, held := vs }).my.doing = some i := by rw [hmy]
  unfold State.beginWait
  rw [hok]
  dsimp only
  generalize t.setMy { t.my with doing := some i, held := vs } = u at hhome hpc hdoing
  have hlt : u.cur.2 < 11 := by rw [hhome.cur]; exact h
  obtain ⟨id, hp⟩ := u.postChart_posts op rel blocks hlt
  generalize u.postChart op rel blocks = v at hp
  have hend : Posted u ((v.reserveTail i).getD v) op id := by
    cases hr : v.reserveTail i with
    | none => exact hp
    | some r => exact hp.reserveTail hlt hr
  obtain ⟨-, hreqs, hasked, hpc', hdo⟩ := hend.of_sameHome hhome hpc
  exact ⟨id, hreqs, hasked, hpc', hdo.trans hdoing⟩

/-- One that has issued before posts it as it goes on. -/
theorem State.reserved_posts {s r : State} {i : Instr} (h : s.cur.2 < 11) (hr : s.reserveTail i = some r) (hd : s.my.doing = some i)
    (op : ChartOp) (rel blocks : Bool) : ∃ id, ((r.postChart op rel blocks).part (s.homePart s.cur.1)).reqs =
        (s.part (s.homePart s.cur.1)).reqs ++ [⟨id, s.cur.1, s.cur.2, op⟩] ∧ (r.postChart op rel blocks).my.asked = true ∧
      (r.postChart op rel blocks).my.pc = s.my.pc ∧ (r.postChart op rel blocks).my.doing = some i := by
  obtain ⟨hhome, e, hmy⟩ := State.reserveTail_keeps h hr
  obtain ⟨id, hp⟩ := r.postChart_posts op rel blocks (by rw [hhome.cur]; exact h)
  obtain ⟨-, hreqs, hasked, hpc, hdo⟩ := hp.of_sameHome hhome (by rw [hmy])
  exact ⟨id, hreqs, hasked, hpc, hdo.trans (by rw [hmy, hd])⟩

/-! ### What ask does -/

section
variable {s : State} {op : ChartOp} {rel blocks : Bool} {f : Word}

theorem ask_answered {w : Word} (ha : s.my.asked = true) (hw : s.my.answer = some (0, w)) :
    ask op rel blocks f s = .ok (w, s.setMy { s.my with answer := none }) := by
  unfold ask
  rw [Sem.bind_ok (getMy_run s), if_pos ha, hw]
  rfl

theorem ask_refused {c : BitVec 8} {w : Word} (hc : c ≠ 0) (ha : s.my.asked = true) (hw : s.my.answer = some (c, w)) :
    ask op rel blocks f s = .error (.raiseKeep c f (fun s => s.setMy { s.my with answer := none })) := by
  unfold ask
  rw [Sem.bind_ok (getMy_run s), if_pos ha, hw]
  dsimp only
  rw [Sem.bind_ok (modMy_run _ s), if_neg hc]

/-- A request is posted at once where no release goes before it. -/
theorem ask_posts (ha : s.my.asked = false) : ask op false blocks f s = .error (.block (fun s => s.postChart op false blocks)) := by
  unfold ask
  rw [Sem.bind_ok (getMy_run s), if_neg (by rw [ha]; exact Bool.false_ne_true)]
  rfl

/-- Otherwise it follows the release. -/
theorem ask_posts_released {t : State} (ha : s.my.asked = false) (hrel : releaseFirst .part s = .ok ((), t)) :
    ask op true blocks f s = .error (.block (fun s => s.postChart op true blocks)) := by
  unfold ask
  rw [Sem.bind_ok (getMy_run s), if_neg (by rw [ha]; exact Bool.false_ne_true), if_pos rfl]
  exact Sem.bind_ok hrel

end

end Sys2Proof.Machine
end

section
/-! PROOFS of the family 04_chartroom, O36: the instructions (R319, R344, R345). -/

namespace Sys2Proof.Machine

/-! ### Operands of an instruction that has issued -/

/-- They come from what the context holds, in their order. -/
theorem mapM_src_held {m : Mods} {os : List Opnd} {r : State} {k : Ctx} {vs : List Word} (h : r.cur.2 < 11) (hb : k.begun = true)
    (hheld : k.held = vs) (hlen : vs.length = os.length) :
    (os.mapM (fun o => src o m)) (r.setMy k) = .ok (vs, r.setMy { k with held := [] }) := by
  induction os generalizing k vs with
  | nil =>
    have : vs = [] := List.length_eq_zero_iff.1 hlen
    subst this
    rw [List.mapM_nil, ← hheld]
    rfl
  | cons o os ih =>
    cases vs with
    | nil => simp at hlen
    | cons v vs =>
      have hmy : (r.setMy k).my = k := State.setMy_my r k h
      have hsrc : src o m .int (r.setMy k) = .ok (v, r.setMy { k with held := vs }) := by
        rw [src_held m .int (r.setMy k) (by rw [hmy]; exact hb) o, hmy, hheld, State.setMy_setMy _ _ _ h]
        rfl
      have hrest := ih (k := { k with held := vs }) hb rfl (Nat.succ.inj hlen)
      rw [List.mapM_cons]
      exact (Sem.bind_ok hsrc).trans ((Sem.bind_ok hrest).trans rfl)

/-- A refusal clears the answer and raises its cause. -/
theorem finish1_refused {s r : State} {m : Mods} {c : BitVec 8} {f : Word} {e : Option (Nat × Nat)} {wait : (State → State) → State}
    (h : s.cur.2 < 11) (hcur : r.cur = s.cur) (hmy : r.my = { s.my with tail := e }) (hb : s.my.begun = true) (hp : s.my.pend = []) :
    finish1 m r (.error (.raiseKeep c f (fun s => s.setMy { s.my with answer := none }))) wait =
      (r.setMy { r.my with answer := none }).causeIn s.cur.1 s.cur.2 c f s.my.pc m.len.words := by
  have hbegun : (r.setMy { r.my with answer := none }).my.begun = true := by
    rw [State.setMy_my r _ (by rw [hcur]; exact h), hmy]
    exact hb
  unfold finish1
  dsimp only
  rw [if_neg (by rw [hmy]; simp [hp]), State.charged_goesOn hbegun, hcur, hmy]

/-! ### The four instructions that post a request after a release -/

/-- The body reads its operands, asks after a release, and then only makes trace records. -/
def AsksThen (body : Sem Unit) (m : Mods) (os : List Opnd) (vs : List Word) (g : Option GangRef) (op : ChartOp) (f : Word) : Prop :=
  ∃ rest : Sem Unit, (∀ v, ∃ t, rest v = .ok ((), t) ∧ SameWork v t) ∧ ∀ b u, (os.mapM (fun o => src o m)) b = .ok (vs, u) →
    u.me.gang = g → body b = (ask op true true f >>= fun _ => rest) u

section
variable {i : Instr} {m : Mods} {s : State} {body : Sem Unit} {vs : List Word} {op : ChartOp} {f w : Word}
  (h : s.cur.2 < 11) (hbody : AsksThen body m (sourcesOf i) vs s.me.gang op f)
include h hbody

/-- It goes on in a context that has begun. -/
theorem AsksThen.resumed {r : State} (hlen : vs.length = (sourcesOf i).length) (hg : s.GoesOn i vs) (hr : s.reserveTail i = some r) :
    ∃ rest : Sem Unit, (∀ v, ∃ t, rest v = .ok ((), t) ∧ SameWork v t) ∧
      body (r.setMy { r.my with pc := nextPc s.my.pc m }) =
        (ask op true true f >>= fun _ => rest) (r.setMy { r.my with pc := nextPc s.my.pc m, held := [] }) := by
  obtain ⟨rest, hrest, hshape⟩ := hbody
  obtain ⟨hdoing, hheld, -⟩ := hg
  obtain ⟨hhome, e, hmy⟩ := State.reserveTail_keeps h hr
  refine ⟨rest, hrest, hshape _ _ (mapM_src_held (by rw [hhome.cur]; exact h) ?_ ?_ hlen) ?_⟩
  · rw [hmy]; exact Option.isSome_iff_exists.2 ⟨i, hdoing⟩
  · rw [hmy]; exact hheld
  · rw [State.setMy_gang, hhome.gang]

variable (hlen : vs.length = (sourcesOf i).length) (hg : s.GoesOn i vs)
include hlen hg

theorem runInstr_asks_completes (ha : s.my.asked = true) (hw : s.my.answer = some (0, w)) :
    ∃ t, runInstr i m s (fun _ => body) = .next t ∧ t.my.pc = nextPc s.my.pc m ∧ t.my.answer = none ∧ t.my.wait = none ∧
      t.my.doing = none ∧ t.my.lr = s.my.lr := by
  obtain ⟨r, hr⟩ := Option.isSome_iff_exists.1 hg.2.2
  obtain ⟨hhome, e, hmy⟩ := State.reserveTail_keeps h hr
  obtain ⟨rest, hrest, hrun⟩ := AsksThen.resumed h hbody hlen hg hr
  have hlt : r.cur.2 < 11 := by rw [hhome.cur]; exact h
  have hkmy := State.setMy_my r { r.my with pc := nextPc s.my.pc m, held := [] } hlt
  have hask := ask_answered (op := op) (rel := true) (blocks := true) (f := f) (w := w)
    (s := r.setMy { r.my with pc := nextPc s.my.pc m, held := [] }) (by rw [hkmy, hmy]; exact ha) (by rw [hkmy, hmy]; exact hw)
  rw [hkmy, State.setMy_setMy _ _ _ hlt] at hask
  obtain ⟨t, ht, hwork⟩ := hrest (r.setMy { r.my with pc := nextPc s.my.pc m, held := [], answer := none })
  have htmy := hwork.my.trans (State.setMy_my r _ hlt)
  refine ⟨t.endIssue, ?_, ?_⟩
  · rw [runInstr_goesOn (by exact Option.isSome_iff_exists.2 ⟨i, hg.1⟩) hr, hrun, Sem.bind_ok hask, ht]
    rfl
  · rw [State.endIssue_my t (by rw [hwork.cur]; exact hlt), htmy, hmy]
    exact ⟨rfl, rfl, rfl, rfl, rfl⟩

/-- An answer with a cause raises it, and the answer is gone. -/
theorem runInstr_asks_fails {c : BitVec 8} {r : State} (hc : c ≠ 0) (hr : s.reserveTail i = some r) (ha : s.my.asked = true)
    (hw : s.my.answer = some (c, w)) (hp : s.my.pend = []) : runInstr i m s (fun _ => body) =
      .next ((r.setMy { r.my with answer := none }).causeIn s.cur.1 s.cur.2 c f s.my.pc m.len.words) := by
  obtain ⟨hhome, e, hmy⟩ := State.reserveTail_keeps h hr
  obtain ⟨rest, -, hrun⟩ := AsksThen.resumed h hbody hlen hg hr
  have hlt : r.cur.2 < 11 := by rw [hhome.cur]; exact h
  have hkmy := State.setMy_my r { r.my with pc := nextPc s.my.pc m, held := [] } hlt
  have hask := ask_refused (op := op) (rel := true) (blocks := true) (f := f) (w := w) hc
    (s := r.setMy { r.my with pc := nextPc s.my.pc m, held := [] }) (by rw [hkmy, hmy]; exact ha) (by rw [hkmy, hmy]; exact hw)
  rw [runInstr_goesOn (Option.isSome_iff_exists.2 ⟨i, hg.1⟩) hr, hrun, Sem.bind_error hask]
  exact congrArg Host.Outcome.next (finish1_refused h hhome.cur hmy (Option.isSome_iff_exists.2 ⟨i, hg.1⟩) hp)

/-- Once its release has been made, it posts its request. -/
theorem runInstr_asks_follows {q : Wait} (hq : s.my.wait = some q) (hon : q.on = .release) (ha : q.arrived = true) :
    ∃ t id, runInstr i m s (fun _ => body) = .next t ∧ (t.part (s.homePart s.cur.1)).reqs =
        (s.part (s.homePart s.cur.1)).reqs ++ [⟨id, s.cur.1, s.cur.2, op⟩] ∧
      t.my.asked = true ∧ t.my.pc = s.my.pc ∧ t.my.doing = some i := by
  obtain ⟨r, hr⟩ := Option.isSome_iff_exists.1 hg.2.2
  obtain ⟨hhome, e, hmy⟩ := State.reserveTail_keeps h hr
  obtain ⟨rest, -, hrun⟩ := AsksThen.resumed h hbody hlen hg hr
  have hkmy := State.setMy_my r { r.my with pc := nextPc s.my.pc m, held := [] } (by rw [hhome.cur]; exact h)
  have hwait : (r.setMy { r.my with pc := nextPc s.my.pc m, held := [] }).my.wait = some q := by rw [hkmy, hmy]; exact hq
  have hasked : (r.setMy { r.my with pc := nextPc s.my.pc m, held := [] }).my.asked = false := by simp [Ctx.asked, hwait, hon]
  have hask := ask_posts_released (op := op) (blocks := true) (f := f) hasked (releaseFirst_arrived hwait hon ha)
  obtain ⟨id, hposted⟩ := State.reserved_posts h hr hg.1 op true true
  refine ⟨r.postChart op true true, id, ?_, hposted⟩
  rw [runInstr_goesOn (Option.isSome_iff_exists.2 ⟨i, hg.1⟩) hr, hrun, Sem.bind_error hask]
  rfl

omit hlen hg in
/-- With nothing to wait for in its release, it posts its request as it issues. -/
theorem runInstr_asks_posts {u : State} (hr : s.reads m .int (sourcesOf i) = some (vs, u)) (hi : s.Issues i m) (hw : s.my.wait = none)
    (hrel : (u.releaseActs s.cur.1 s.cur.2 .part).1 = []) :
    ∃ t id, runInstr i m s (fun _ => body) = .next t ∧ (t.part (s.homePart s.cur.1)).reqs =
        (s.part (s.homePart s.cur.1)).reqs ++ [⟨id, s.cur.1, s.cur.2, op⟩] ∧
      t.my.asked = true ∧ t.my.pc = s.my.pc ∧ t.my.doing = some i := by
  obtain ⟨rest, -, hshape⟩ := hbody
  obtain ⟨hrun, hmy, -⟩ := State.reads_keeps h hi.1 hr
  have hasked : u.my.asked = false := by simp [Ctx.asked, hmy, hw]
  obtain ⟨t, hfirst, -⟩ := releaseFirst_ok (s := u) (sc := .part) (by rw [hrun.cur]; exact hrel)
  have hask := ask_posts_released (op := op) (blocks := true) (f := f) hasked hfirst
  obtain ⟨id, hposted⟩ := State.beginWait_posts h (State.readOperands_of_reads h hi.1 hr) op true true
  refine ⟨_, id, runInstr_block hi ?_, hposted⟩
  exact (hshape _ _ (State.mapM_of_reads hr) hrun.gang).trans (Sem.bind_error hask)

end

/-! ### The bodies -/

section
variable {s u : State} {m : Mods}

theorem src_of_mapM_one {a : Opnd} {x : Word} (h : ([a].mapM (fun o => src o m)) s = .ok ([x], u)) : src a m .int s = .ok (x, u) := by
  rw [List.mapM_cons, List.mapM_nil] at h
  obtain ⟨y, t, hsrc, hrest⟩ := Sem.bind_inv h
  rw [hsrc]
  cases hrest
  rfl

theorem src_of_mapM_two {a d : Opnd} {x y : Word} (h : ([a, d].mapM (fun o => src o m)) s = .ok ([x, y], u)) :
    ∃ t, src a m .int s = .ok (x, t) ∧ src d m .int t = .ok (y, u) := by
  rw [List.mapM_cons] at h
  obtain ⟨x', t, hx, hrest⟩ := Sem.bind_inv h
  obtain ⟨ys, t', hy, hend⟩ := Sem.bind_inv hrest
  cases hend
  exact ⟨t, hx, src_of_mapM_one hy⟩

theorem keepsWork_pure (v : State) : ∃ t, (pure () : Sem Unit) v = .ok ((), t) ∧ SameWork v t := ⟨v, rfl, .refl v⟩

end

section
variable (a d : Opnd) (m : Mods) (x y : Word) (g : Option GangRef)

theorem execCharm_asks (s : State) : ∃ body, execCharm a m s = runInstr (.charm a m) m s (fun _ => body) ∧
    AsksThen body m (sourcesOf (.charm a m)) [x] g (.arm x.toNat) x := by
  refine ⟨_, rfl, pure (), keepsWork_pure, fun b u hread _ => ?_⟩
  rw [sourcesOf, fieldsOf_charm] at hread
  exact Sem.bind_ok (src_of_mapM_one hread)

theorem execChdec_asks (s : State) : ∃ body, execChdec a m s = runInstr (.chdec a m) m s (fun _ => body) ∧
    AsksThen body m (sourcesOf (.chdec a m)) [x] g (.dec x.toNat) x := by
  refine ⟨_, rfl, pure (), keepsWork_pure, fun b u hread _ => ?_⟩
  rw [sourcesOf, fieldsOf_chdec] at hread
  exact Sem.bind_ok (src_of_mapM_one hread)

theorem execChdone_asks (s : State) {r : GangRef} (hg : g = some r) : ∃ body, execChdone a m s = runInstr (.chdone a m) m s (fun _ => body) ∧
    AsksThen body m (sourcesOf (.chdone a m)) [x] g (.done x.toNat) (BitVec.ofNat 64 r.tcb) := by
  refine ⟨_, rfl, modS (fun s => s.traceRec s.cur.1 s.cur.2 2
    (BitVec.ofNat 64 (x.toNat % 2 ^ 32 * 2 ^ 32 + 2 * 2 ^ 16 + s.myTcb.toNat % 8192))), fun v => ⟨_, rfl, SameWork.traceRec ..⟩,
    fun b u hread hgang => ?_⟩
  rw [sourcesOf, fieldsOf_chdone] at hread
  refine (Sem.bind_ok (src_of_mapM_one hread)).trans ((Sem.bind_ok (getS_run u)).trans ?_)
  have htcb : u.myTcb = BitVec.ofNat 64 r.tcb := by rw [State.myTcb, hgang, hg]; rfl
  rw [htcb]

theorem extractLsb'_toNat_eq_bitsOf (v : Word) (lo n : Nat) : (v.extractLsb' lo n).toNat = bitsOf v lo n := by
  rw [BitVec.extractLsb'_toNat, Nat.shiftRight_eq_div_pow, bitsOf]

/-- The index of a patch is the low 13 bits of its first operand. -/
theorem bitsOf_index (v : Word) : BitVec.ofNat 64 (bitsOf v 0 13) = v &&& 0x1FFF := by
  apply BitVec.eq_of_toNat_eq
  have h : BitVec.toNat (0x1FFF : Word) = 2 ^ 13 - 1 := rfl
  rw [BitVec.toNat_and, h, Nat.and_two_pow_sub_one_eq_mod, BitVec.toNat_ofNat, bitsOf]
  omega

theorem execChpatch_asks (s : State) (hok : x &&& 0xFFFFFFFFFFF0E000#64 = 0) :
    ∃ body, execChpatch d a m s = runInstr (.chpatch d a m) m s (fun _ => body) ∧ AsksThen body m (sourcesOf (.chpatch d a m)) [x, y] g
      (.patch (x.extractLsb' 0 13).toNat (x.extractLsb' 16 4).toNat y) (x &&& 0x1FFF) := by
  refine ⟨_, rfl, pure (), keepsWork_pure, fun b u hread _ => ?_⟩
  rw [sourcesOf, fieldsOf_chpatch] at hread
  obtain ⟨t, hx, hy⟩ := src_of_mapM_two hread
  rw [extractLsb'_toNat_eq_bitsOf, extractLsb'_toNat_eq_bitsOf, ← bitsOf_index]
  exact (Sem.bind_ok hx).trans ((Sem.bind_ok hy).trans (check_pass (by simpa using hok)))

end

end Sys2Proof.Machine
end

section
/-! PROOFS of the family 04_chartroom, O36: the instructions that give a result (R319, R344, R345), and the obligation. -/

namespace Sys2Proof.Machine

/-! ### The result of an instruction that has issued -/

/-- From b to t an instruction that has issued has given v. -/
structure Given (b t : State) (d : Opnd) (v : Word) : Prop where
  cur : t.cur = b.cur
  lr : t.my.lr = v
  pc : t.my.pc = b.my.pc
  answer : t.my.answer = b.my.answer
  reg : b.my.tail = none → (∃ k, d = .g k) ∨ (∃ k, d = .o k) → t.regVal t.cur.1 t.cur.2 d = v
  entry : ∀ q id, b.my.tail = some (q, id) → q < 8 → (t.me.q q).ents = ((b.me.q q).fill id v).ents

/-- The registers and queues of t's running context show what those of s show. -/
structure SameShown (s t : State) : Prop where
  cur : t.cur = s.cur
  mf : t.me.mf = s.me.mf
  scr : t.me.scr = s.me.scr
  qs : t.me.qs = s.me.qs
  wsp : t.my.wsp = s.my.wsp
  o : t.my.o = s.my.o
  lr : t.my.lr = s.my.lr
  pc : t.my.pc = s.my.pc
  answer : t.my.answer = s.my.answer

theorem SameWork.sameShown {s t : State} (h : SameWork s t) : SameShown s t := by
  have hc := h.cur
  refine ⟨hc, ?_, ?_, ?_, ?_, ?_, ?_, ?_, ?_⟩
  · rw [State.me, hc, h.mf, State.me]
  · rw [State.me, hc, h.scr, State.me]
  · rw [State.me, hc, h.qs, State.me]
  all_goals rw [h.my]

/-- A context that is written without those registers. -/
theorem SameShown.setMy {s : State} {k : Ctx} (h : s.cur.2 < 11) (hwsp : k.wsp = s.my.wsp) (ho : k.o = s.my.o) (hlr : k.lr = s.my.lr)
    (hpc : k.pc = s.my.pc) (hans : k.answer = s.my.answer) : SameShown s (s.setMy k) := by
  have hme : (s.setMy k).me = s.me.setCtx s.cur.2 k := by simp [State.setMy, State.setCtx, State.me]
  have hmy := State.setMy_my s k h
  refine ⟨rfl, ?_, ?_, ?_, ?_, ?_, ?_, ?_, ?_⟩
  · rw [hme, Core.setCtx_mf]
  · rw [hme, Core.setCtx_scr]
  · rw [hme, Core.setCtx_qs]
  all_goals rw [hmy]; assumption

theorem Given.sameShown {b t u : State} {d : Opnd} {v : Word} (h : Given b t d v) (k : SameShown t u) : Given b u d v := by
  obtain ⟨hcur, hlr, hpc, hans, hreg, hent⟩ := h
  obtain ⟨kcur, kmf, kscr, kqs, kwsp, ko, klr, kpc, kans⟩ := k
  refine ⟨kcur.trans hcur, klr.trans hlr, kpc.trans hpc, kans.trans hans, fun htail hd => ?_, fun q id htail hq => ?_⟩
  · refine Eq.trans ?_ (hreg htail hd)
    rcases hd with ⟨k, rfl⟩ | ⟨k, rfl⟩
    · change u.me.gWord (gAddr u.my.wsp k.toNat) = t.me.gWord (gAddr t.my.wsp k.toNat)
      rw [kwsp, Core.gWord, kmf, kscr, Core.gWord]
    · change u.my.o.get k.toFin = t.my.o.get k.toFin
      rw [ko]
  · rw [← hent q id htail hq, Core.q, kqs, Core.q]

theorem Given.endIssue {b t : State} {d : Opnd} {v : Word} (hx : b.cur.2 < 11) (h : Given b t d v) : Given b t.endIssue d v :=
  h.sameShown (.setMy (by rw [h.cur]; exact hx) rfl rfl rfl rfl rfl)

/-- lr takes the value last. -/
theorem Given.writeLr {b t : State} {d : Opnd} {v : Word} (hx : b.cur.2 < 11) (hcur : t.cur = b.cur) (hpc : t.my.pc = b.my.pc)
    (hans : t.my.answer = b.my.answer)
    (hreg : b.my.tail = none → (∃ k, d = .g k) ∨ (∃ k, d = .o k) → t.regVal t.cur.1 t.cur.2 d = v)
    (hent : ∀ q id, b.my.tail = some (q, id) → q < 8 → (t.me.q q).ents = ((b.me.q q).fill id v).ents) :
    Given b (t.writeLr t.cur.1 t.cur.2 v) d v := by
  have hlt : t.cur.2 < 11 := by rw [hcur]; exact hx
  have hme : (t.setMy { t.my with lr := v, lrPend := none }).me = t.me.setCtx t.cur.2 { t.my with lr := v, lrPend := none } := by
    simp [State.setMy, State.setCtx, State.me]
  have hmy := State.setMy_my t { t.my with lr := v, lrPend := none } hlt
  change Given b (t.setMy { t.my with lr := v, lrPend := none }) d v
  refine ⟨hcur, by rw [hmy], by rw [hmy]; exact hpc, by rw [hmy]; exact hans, fun htail hd => ?_, fun q id htail hq => ?_⟩
  · refine Eq.trans ?_ (hreg htail hd)
    rcases hd with ⟨k, rfl⟩ | ⟨k, rfl⟩
    · change (t.setMy _).me.gWord (gAddr (t.setMy _).my.wsp k.toNat) = t.me.gWord (gAddr t.my.wsp k.toNat)
      rw [hmy, hme, Core.gWord, Core.setCtx_mf, Core.setCtx_scr, Core.gWord]
    · change (t.setMy _).my.o.get k.toFin = t.my.o.get k.toFin
      rw [hmy]
  · rw [← hent q id htail hq, hme, Core.q, Core.setCtx_qs, Core.q]

/-- A register write gives the value to the register. -/
theorem State.writeReg_given (b : State) (d : Opnd) (v : Word) (hx : b.cur.2 < 11) :
    (b.writeReg b.cur.1 b.cur.2 d v).cur = b.cur ∧ (b.writeReg b.cur.1 b.cur.2 d v).my.pc = b.my.pc ∧
      (b.writeReg b.cur.1 b.cur.2 d v).my.answer = b.my.answer ∧
      ((∃ k, d = .g k) ∨ (∃ k, d = .o k) → (b.writeReg b.cur.1 b.cur.2 d v).regVal b.cur.1 b.cur.2 d = v) := by
  cases d with
  | g k =>
    have hmy : (b.setMe (b.me.gWrite (gAddr b.my.wsp k.toNat) v)).my = b.my := State.setMe_my b (Core.mfPut_ctxs ..)
    change (b.setMe (b.me.gWrite (gAddr b.my.wsp k.toNat) v)).cur = _ ∧ (b.setMe (b.me.gWrite (gAddr b.my.wsp k.toNat) v)).my.pc = _ ∧
      (b.setMe (b.me.gWrite (gAddr b.my.wsp k.toNat) v)).my.answer = _ ∧
      (_ → (b.setMe (b.me.gWrite (gAddr b.my.wsp k.toNat) v)).me.gWord
        (gAddr (b.setMe (b.me.gWrite (gAddr b.my.wsp k.toNat) v)).my.wsp k.toNat) = v)
    rw [hmy, State.setMe_me, Core.gWord_gWrite]
    exact ⟨rfl, rfl, rfl, fun _ => rfl⟩
  | o k =>
    have hmy := State.setMy_my b { b.my with o := b.my.o.set k.toNat v k.isLt } hx
    change (b.setMy { b.my with o := b.my.o.set k.toNat v k.isLt }).cur = _ ∧
      (b.setMy { b.my with o := b.my.o.set k.toNat v k.isLt }).my.pc = _ ∧
      (b.setMy { b.my with o := b.my.o.set k.toNat v k.isLt }).my.answer = _ ∧
      (_ → (b.setMy { b.my with o := b.my.o.set k.toNat v k.isLt }).my.o.get k.toFin = v)
    rw [hmy]
    exact ⟨rfl, rfl, rfl, fun _ => Vector.getElem_set_self k.isLt⟩
  | lr =>
    have hmy := State.setMy_my b { b.my with lr := v } hx
    change (b.setMy { b.my with lr := v }).cur = _ ∧ (b.setMy { b.my with lr := v }).my.pc = _ ∧
      (b.setMy { b.my with lr := v }).my.answer = _ ∧ _
    rw [hmy]
    exact ⟨rfl, rfl, rfl, by rintro (⟨k, hk⟩ | ⟨k, hk⟩) <;> cases hk⟩
  | q k =>
    have hmy : (b.setMe (b.me.setQ k.toNat ((b.me.q k.toNat).push b.cur.2 0 (some v)))).my = b.my := State.setMe_my b (Core.setQ_ctxs ..)
    change (b.setMe (b.me.setQ k.toNat ((b.me.q k.toNat).push b.cur.2 0 (some v)))).cur = _ ∧
      (b.setMe (b.me.setQ k.toNat ((b.me.q k.toNat).push b.cur.2 0 (some v)))).my.pc = _ ∧
      (b.setMe (b.me.setQ k.toNat ((b.me.q k.toNat).push b.cur.2 0 (some v)))).my.answer = _ ∧ _
    rw [hmy]
    exact ⟨rfl, rfl, rfl, by rintro (⟨k, hk⟩ | ⟨k, hk⟩) <;> cases hk⟩
  | zr => exact ⟨rfl, rfl, rfl, by rintro (⟨k, hk⟩ | ⟨k, hk⟩) <;> cases hk⟩
  | lit => exact ⟨rfl, rfl, rfl, by rintro (⟨k, hk⟩ | ⟨k, hk⟩) <;> cases hk⟩
  | imm k => exact ⟨rfl, rfl, rfl, by rintro (⟨j, hk⟩ | ⟨j, hk⟩) <;> cases hk⟩

/-- The destination of an instruction that has issued: its reserved entry, or else the register. -/
theorem dst_given (b : State) (d : Opnd) (v : Word) (hx : b.cur.2 < 11) (hb : b.my.begun = true) :
    ∃ t, dst d v b = .ok ((), t) ∧ Given b t d v := by
  cases htail : b.my.tail with
  | none =>
    obtain ⟨hcur, hpc, hans, hreg⟩ := b.writeReg_given d v hx
    have hrun : dst d v b = .ok ((), (b.writeReg b.cur.1 b.cur.2 d v).writeLr b.cur.1 b.cur.2 v) := by
      simp [dst, Ctx.tailNow, hb, htail]
    refine ⟨_, hrun, ?_⟩
    have hgiven := Given.writeLr (d := d) (v := v) hx hcur hpc hans (fun _ hd => by rw [hcur]; exact hreg hd)
      (fun q id he => by rw [htail] at he; cases he)
    rwa [hcur] at hgiven
  | some e =>
    obtain ⟨q, id⟩ := e
    obtain ⟨t, hrun, ht⟩ := dst_reserved d v b hb htail
    refine ⟨t, hrun, ?_⟩
    subst ht
    have hmy : (b.setMe (b.me.setQ q ((b.me.q q).fill id v))).my = b.my := State.setMe_my b (Core.setQ_ctxs ..)
    have hshown := SameShown.setMy (s := b.setMe (b.me.setQ q ((b.me.q q).fill id v)))
      (k := { (b.setMe (b.me.setQ q ((b.me.q q).fill id v))).my with tail := none }) hx rfl rfl rfl rfl rfl
    refine Given.writeLr (b := b) hx rfl (by rw [hshown.pc, hmy]) (by rw [hshown.answer, hmy]) (fun he => ?_) (fun r j he hr => ?_)
    · rw [htail] at he; cases he
    · rw [htail] at he
      cases he
      rw [Core.q, hshown.qs, ← Core.q, State.setMe_me, Core.setQ_q_same _ _ hr]

/-! ### CHCARD and CKSET that go on -/

section
variable {i : Instr} {m : Mods} {s : State} {d : Opnd} {w : Word} (h : s.cur.2 < 11)
include h

/-- What an instruction gives that reads as b does and then writes its result. -/
theorem gave_of_given {r t : State} {k : Ctx} (hr : s.reserveTail i = some r) (hreg : (∃ k, d = .g k) ∨ (∃ k, d = .o k) → destQueue i = none)
    (hgiven : Given (r.setMy k) t d w) (hpc : k.pc = nextPc s.my.pc m) (hans : k.answer = none) (htail : k.tail = r.my.tail) :
    t.endIssue.my.answer = none ∧ s.gave t.endIssue m d w := by
  have hhome := (State.reserveTail_keeps h hr).1
  have hlt : r.cur.2 < 11 := by rw [hhome.cur]; exact h
  have hbmy := State.setMy_my r k hlt
  have hend := t.endIssue_my (by rw [hgiven.cur]; exact hlt)
  obtain ⟨hcur, hlr, hpc', hans', hreg', hent⟩ := hgiven.endIssue (by exact hlt)
  rw [hbmy] at hpc' hans' hreg' hent
  refine ⟨hans'.trans hans, hlr, hpc'.trans hpc, by rw [hend], by rw [hend], fun hs hd => ?_, fun q id hs hq => ?_⟩
  · rw [State.reserveTail_none (hreg hd)] at hr
    cases hr
    have hv := hreg' (htail.trans hs) hd
    rwa [hcur] at hv
  · have hrs := State.reserveTail_of_some hs hr
    subst hrs
    rw [hent q id (htail.trans hs) hq]
    have hme : (r.setMy k).me = r.me.setCtx r.cur.2 k := by simp [State.setMy, State.setCtx, State.me]
    rw [hme, Core.q, Core.setCtx_qs, Core.q]

end

section
variable (d a : Opnd) (m : Mods)

theorem destQueue_chcard (h : (∃ k, d = .g k) ∨ (∃ k, d = .o k)) : destQueue (.chcard d m) = none := by
  rw [destQueue, fieldsOf_chcard]
  rcases h with ⟨k, rfl⟩ | ⟨k, rfl⟩ <;> rfl

theorem destQueue_ckset (h : (∃ k, d = .g k) ∨ (∃ k, d = .o k)) : destQueue (.ckset d a m) = none := by
  rw [destQueue, fieldsOf_ckset]
  rcases h with ⟨k, rfl⟩ | ⟨k, rfl⟩ <;> rfl

end

/-- An instruction that goes on and completes. -/
theorem runInstr_goesOn_ok {i : Instr} {m : Mods} {s r t : State} {body : Word → Sem Unit} (hd : s.my.doing = some i)
    (hr : s.reserveTail i = some r) (hb : body s.my.pc (r.setMy { r.my with pc := nextPc s.my.pc m }) = .ok ((), t)) :
    runInstr i m s body = .next t.endIssue := by
  rw [runInstr_goesOn (Option.isSome_iff_exists.2 ⟨i, hd⟩) hr, hb]
  rfl

section
variable {d a : Opnd} {m : Mods} {s u : State} {x w : Word} {g : GangRef} (h : s.cur.2 < 11)
include h

theorem State.resumed_my {i : Instr} {r : State} (hr : s.reserveTail i = some r) (k : Ctx) : (r.setMy k).my = k :=
  State.setMy_my r k (by rw [(State.reserveTail_keeps h hr).1.cur]; exact h)

theorem chcard_gives (hg : s.me.gang = some g) (hgo : s.GoesOn (.chcard d m) []) (ha : s.my.asked = true) (hw : s.my.answer = some (0, w)) :
    ∃ t, exec (.chcard d m) s = .next t ∧ t.my.answer = none ∧ s.gave t m d w := by
  obtain ⟨hdoing, -, hsome⟩ := hgo
  obtain ⟨r, hr⟩ := Option.isSome_iff_exists.1 hsome
  obtain ⟨hhome, e, hmy⟩ := State.reserveTail_keeps h hr
  have hlt : r.cur.2 < 11 := by rw [hhome.cur]; exact h
  have hkmy := State.resumed_my h hr { r.my with pc := nextPc s.my.pc m }
  have hask := ask_answered (op := .card) (rel := false) (blocks := false) (w := w)
    (f := (r.setMy { r.my with pc := nextPc s.my.pc m }).myTcb) (by rw [hkmy, hmy]; exact ha) (by rw [hkmy, hmy]; exact hw)
  rw [hkmy, State.setMy_setMy _ _ _ hlt] at hask
  have hbegun : (r.setMy { r.my with pc := nextPc s.my.pc m, answer := none }).my.begun = true := by
    rw [State.resumed_my h hr, hmy]
    exact Option.isSome_iff_exists.2 ⟨_, hdoing⟩
  obtain ⟨t, hdst, hgiven⟩ := dst_given _ d w (by exact hlt) hbegun
  have hcheck : (r.setMy { r.my with pc := nextPc s.my.pc m }).me.gang.isSome = true := by
    rw [State.setMy_gang, hhome.gang, hg]
    rfl
  have hrun : ∃ u, SameWork t u ∧ execChcard d m s = .next u.endIssue := by
    unfold execChcard
    exact ⟨_, SameWork.traceRec .., runInstr_goesOn_ok hdoing hr
      ((Sem.bind_ok (getS_run _)).trans ((check_pass hcheck).trans ((Sem.bind_ok hask).trans ((Sem.bind_ok hdst).trans (modS_run _ _)))))⟩
  obtain ⟨u, hwork, hrun⟩ := hrun
  exact ⟨_, hrun, gave_of_given h hr (destQueue_chcard d m) (hgiven.sameShown hwork.sameShown) rfl rfl rfl⟩

theorem ckset_gives (hg : s.me.gang = some g) (hgo : s.GoesOn (.ckset d a m) [x]) (ha : s.my.asked = true)
    (hw : s.my.answer = some (0, w)) : ∃ t, exec (.ckset d a m) s = .next t ∧ t.my.answer = none ∧ s.gave t m d w := by
  obtain ⟨hdoing, hheld, hsome⟩ := hgo
  obtain ⟨r, hr⟩ := Option.isSome_iff_exists.1 hsome
  obtain ⟨hhome, e, hmy⟩ := State.reserveTail_keeps h hr
  have hlt : r.cur.2 < 11 := by rw [hhome.cur]; exact h
  have hsrc := src_of_mapM_one (mapM_src_held (m := m) (os := [a]) (k := { r.my with pc := nextPc s.my.pc m }) hlt
    (by rw [hmy]; exact Option.isSome_iff_exists.2 ⟨_, hdoing⟩) (by rw [hmy]; exact hheld) rfl)
  have hkmy := State.resumed_my h hr { r.my with pc := nextPc s.my.pc m, held := [] }
  have hgang : (r.setMy { r.my with pc := nextPc s.my.pc m, held := [] }).me.gang = some g := by rw [State.setMy_gang, hhome.gang, hg]
  have hasked : (r.setMy { r.my with pc := nextPc s.my.pc m, held := [] }).my.asked = true := by rw [hkmy, hmy]; exact ha
  have hask := ask_answered (op := .ckset g.convoy x) (rel := false) (blocks := true) (w := w) (f := 0) hasked
    (by rw [hkmy, hmy]; exact hw)
  rw [hkmy, State.setMy_setMy _ _ _ hlt] at hask
  have hbegun : (r.setMy { r.my with pc := nextPc s.my.pc m, held := [], answer := none }).my.begun = true := by
    rw [State.resumed_my h hr, hmy]
    exact Option.isSome_iff_exists.2 ⟨_, hdoing⟩
  obtain ⟨t, hdst, hgiven⟩ := dst_given _ d w (by exact hlt) hbegun
  have hrun : execCkset d a m s = .next t.endIssue := by
    unfold execCkset
    refine runInstr_goesOn_ok hdoing hr ((Sem.bind_ok hsrc).trans ((Sem.bind_ok (getS_run _)).trans ?_))
    simp only [hgang, hasked, Bool.true_or, if_true]
    exact (Sem.bind_ok hask).trans hdst
  exact ⟨_, hrun, gave_of_given h hr (destQueue_ckset d a m) hgiven rfl rfl rfl⟩

/-- A refusal of CHCARD names the TCB of its gang. -/
theorem chcard_fails {c : BitVec 8} {r : State} (hg : s.me.gang = some g) (hc : c ≠ 0) (hgo : s.GoesOn (.chcard d m) [])
    (hr : s.reserveTail (.chcard d m) = some r) (ha : s.my.asked = true) (hw : s.my.answer = some (c, w)) (hp : s.my.pend = []) :
    exec (.chcard d m) s =
      .next ((r.setMy { r.my with answer := none }).causeIn s.cur.1 s.cur.2 c (BitVec.ofNat 64 g.tcb) s.my.pc m.len.words) := by
  have hdoing := hgo.1
  obtain ⟨hhome, e, hmy⟩ := State.reserveTail_keeps h hr
  have hgang : (r.setMy { r.my with pc := nextPc s.my.pc m }).me.gang = some g := by rw [State.setMy_gang, hhome.gang, hg]
  have hkmy := State.resumed_my h hr { r.my with pc := nextPc s.my.pc m }
  have hask := ask_refused (op := .card) (rel := false) (blocks := false) (w := w) hc
    (f := (r.setMy { r.my with pc := nextPc s.my.pc m }).myTcb) (by rw [hkmy, hmy]; exact ha) (by rw [hkmy, hmy]; exact hw)
  have htcb : (r.setMy { r.my with pc := nextPc s.my.pc m }).myTcb = BitVec.ofNat 64 g.tcb := by rw [State.myTcb, hgang]; rfl
  change execChcard d m s = _
  unfold execChcard
  rw [runInstr_goesOn (Option.isSome_iff_exists.2 ⟨_, hdoing⟩) hr, Sem.bind_ok (getS_run _), check_pass (by rw [hgang]; rfl),
    Sem.bind_error hask, htcb]
  exact congrArg Host.Outcome.next (finish1_refused h hhome.cur hmy (Option.isSome_iff_exists.2 ⟨_, hdoing⟩) hp)

/-! ### CHCARD and CKSET that issue -/

theorem chcard_posts (hg : s.me.gang = some g) (hi : s.Issues (.chcard d m) m) (hwait : s.my.wait = none) :
    ∃ t id, exec (.chcard d m) s = .next t ∧ (t.part (s.homePart s.cur.1)).reqs =
        (s.part (s.homePart s.cur.1)).reqs ++ [⟨id, s.cur.1, s.cur.2, .card⟩] ∧ t.my.asked = true ∧ t.my.pc = s.my.pc ∧
      t.my.doing = some (.chcard d m) := by
  have hreads : s.reads m .int (sourcesOf (.chcard d m)) = some ([], s.started m) := by
    rw [sourcesOf, fieldsOf_chcard]
    rfl
  obtain ⟨hhome, hmy, -⟩ := State.reads_keeps h hi.1 hreads
  have hask := ask_posts (s := s.started m) (op := .card) (blocks := false) (f := (s.started m).myTcb) (by simp [Ctx.asked, hmy, hwait])
  obtain ⟨id, hposted⟩ := State.beginWait_posts h (State.readOperands_of_reads h hi.1 hreads) .card false false
  have hin : (s.started m).me.gang.isSome = true := by rw [hhome.gang, hg]; rfl
  have hrun : execChcard d m s = .next (s.beginWait (.chcard d m) m (fun s => s.postChart .card false false)) := by
    unfold execChcard
    exact runInstr_block hi ((Sem.bind_ok (getS_run _)).trans ((check_pass hin).trans (Sem.bind_error hask)))
  exact ⟨_, id, hrun, hposted⟩

omit h in
theorem chcard_outside (hg : s.me.gang = none) (hi : s.Issues (.chcard d m) m) (hp : s.my.pend = []) :
    exec (.chcard d m) s = .next (s.raiseIn s.cur.1 s.cur.2 0x71 0 s.my.pc m.len.words) := by
  obtain ⟨-, -, -, hgang⟩ := s.started_keeps m
  have hout : (s.started m).me.gang.isSome = false := by rw [hgang, hg]; rfl
  change execChcard d m s = _
  unfold execChcard
  exact runInstr_raise hi hp ((Sem.bind_ok (getS_run _)).trans (check_fail hout))

section
variable (hr : s.reads m .int [a] = some ([x], u)) (hi : s.Issues (.ckset d a m) m) (hwait : s.my.wait = none)
include hr hi hwait

theorem ckset_unasked : SameHome s u ∧ u.my.asked = false ∧ u.my.begun = false := by
  obtain ⟨hhome, hmy, hb⟩ := State.reads_keeps h hi.1 hr
  exact ⟨hhome, by simp [Ctx.asked, hmy, hwait], hb⟩

theorem ckset_none (hg : s.me.gang = none) : exec (.ckset d a m) s = .next (u.wrote d 0) := by
  obtain ⟨hhome, -, hb⟩ := ckset_unasked h hr hi hwait
  have hgang := hhome.gang.trans hg
  change execCkset d a m s = _
  unfold execCkset
  refine runInstr_ok hi ((Sem.bind_ok (State.src_of_reads hr)).trans ((Sem.bind_ok (getS_run u)).trans ?_))
  simp only [hgang]
  exact dst_run d 0 u hb

theorem ckset_idle (hg : s.me.gang = some g) (hn : 1024 ≤ g.convoy ∨ u.cvyLaps g.part g.convoy = 0) :
    exec (.ckset d a m) s = .next (u.wrote d 0) := by
  obtain ⟨hhome, hasked, hb⟩ := ckset_unasked h hr hi hwait
  have hgang := hhome.gang.trans hg
  have hno : (u.my.asked || (decide (g.convoy < 1024) && decide (u.cvyLaps g.part g.convoy ≠ 0))) = false := by
    rcases hn with hn | hn
    · simp [hasked, Nat.not_lt.2 hn]
    · simp [hasked, hn]
  change execCkset d a m s = _
  unfold execCkset
  refine runInstr_ok hi ((Sem.bind_ok (State.src_of_reads hr)).trans ((Sem.bind_ok (getS_run u)).trans ?_))
  simp only [hgang, hno, Bool.false_eq_true, if_false]
  exact dst_run d 0 u hb

theorem ckset_posts (hg : s.me.gang = some g) (hcv : g.convoy < 1024) (hlaps : u.cvyLaps g.part g.convoy ≠ 0) :
    ∃ t id, exec (.ckset d a m) s = .next t ∧ (t.part (s.homePart s.cur.1)).reqs =
        (s.part (s.homePart s.cur.1)).reqs ++ [⟨id, s.cur.1, s.cur.2, .ckset g.convoy x⟩] ∧ t.my.asked = true ∧ t.my.pc = s.my.pc ∧
      t.my.doing = some (.ckset d a m) := by
  obtain ⟨hhome, hasked, -⟩ := ckset_unasked h hr hi hwait
  have hgang := hhome.gang.trans hg
  have hreads : s.reads m .int (sourcesOf (.ckset d a m)) = some ([x], u) := by
    rw [sourcesOf, fieldsOf_ckset]
    exact hr
  have hyes : (u.my.asked || (decide (g.convoy < 1024) && decide (u.cvyLaps g.part g.convoy ≠ 0))) = true := by simp [hcv, hlaps]
  have hask := ask_posts (s := u) (op := .ckset g.convoy x) (blocks := true) (f := 0) hasked
  obtain ⟨id, hposted⟩ := State.beginWait_posts h (State.readOperands_of_reads h hi.1 hreads) (.ckset g.convoy x) false true
  have hrun : execCkset d a m s = .next (s.beginWait (.ckset d a m) m (fun s => s.postChart (.ckset g.convoy x) false true)) := by
    unfold execCkset
    refine runInstr_block hi ((Sem.bind_ok (State.src_of_reads hr)).trans ((Sem.bind_ok (getS_run u)).trans ?_))
    simp only [hgang, hyes, if_true]
    exact Sem.bind_error hask
  exact ⟨_, id, hrun, hposted⟩

end

end

/-! ### CHQ -/

section
variable {d a : Opnd} {m : Mods} {s u : State} {x : Word}

/-- The status word's fields, from the top down. -/
theorem State.chqWord_fields (s : State) (p i : Nat) : s.chqWord p i =
    (s.tcbW p i 4).extractLsb' 32 32 ++ 0#7 ++ BitVec.ofBool (s.taskWithheld p ((s.part p).tcbs.length + 1) i) ++
      (s.tcbW p i 5).extractLsb' 0 16 ++ (s.tcbW p i 0).extractLsb' 0 8 := by
  apply BitVec.eq_of_toNat_eq
  simp only [toNat_append_eq_add, extractLsb'_toNat_eq_bitsOf, State.chqWord, State.tcbSt, State.acked, State.tcbF, BitVec.toNat_ofNat]
  have h4 := bitsOf_lt (s.tcbW p i 4) 32 32
  have h5 := bitsOf_lt (s.tcbW p i 5) 0 16
  have h0 := bitsOf_lt (s.tcbW p i 0) 0 8
  cases s.taskWithheld p ((s.part p).tcbs.length + 1) i with
  | true =>
    rw [if_pos rfl]
    simp only [BitVec.toNat_ofBool, Bool.toNat_true]
    omega
  | false =>
    rw [if_neg Bool.false_ne_true]
    simp only [BitVec.toNat_ofBool, Bool.toNat_false]
    omega

variable (h : s.cur.2 < 11) (hr : s.reads m .int [a] = some ([x], u)) (hi : s.Issues (.chq d a m) m)
include h hr hi

theorem chq_gives (hx : x.toNat < 8192) (ht : (u.tcb? (s.homePart s.cur.1) x.toNat).isSome = true) : exec (.chq d a m) s =
    .next ((u.readTcb (s.homePart s.cur.1) x.toNat).wrote d (u.chqWord (s.homePart s.cur.1) x.toNat)) := by
  obtain ⟨hhome, -, hb⟩ := State.reads_keeps h hi.1 hr
  have hoff := u.readTcb_offMemory (s.homePart s.cur.1) x.toNat
  have hcores := State.cores_eq_of_offMemory hoff
  have hcur : (u.readTcb (s.homePart s.cur.1) x.toNat).cur = u.cur := (congrArg State.cur hoff :)
  have hb' : (u.readTcb (s.homePart s.cur.1) x.toNat).my.begun = false := by
    rw [State.my, State.ctx, State.core, hcores, hcur]
    exact hb
  change execChq d a m s = _
  unfold execChq
  refine runInstr_ok hi ((Sem.bind_ok (State.src_of_reads hr)).trans ((Sem.bind_ok (getS_run u)).trans ?_))
  rw [hhome.homePart, if_neg (Nat.not_le.2 hx), if_neg (by simpa using Option.isSome_iff_ne_none.1 ht)]
  exact (Sem.bind_ok (modS_run _ u)).trans (dst_run d _ _ hb')

theorem chq_missing (hx : x.toNat < 8192) (ht : (u.tcb? (s.homePart s.cur.1) x.toNat).isSome = false)
    (hmy : (s.readTcb (s.homePart s.cur.1) x.toNat).my = s.my) (hcur : (s.readTcb (s.homePart s.cur.1) x.toNat).cur = s.cur)
    (hp : s.my.pend = []) : exec (.chq d a m) s =
      .next ((s.readTcb (s.homePart s.cur.1) x.toNat).raiseIn s.cur.1 s.cur.2 0x72 x s.my.pc m.len.words) := by
  obtain ⟨hhome, -, -⟩ := State.reads_keeps h hi.1 hr
  change execChq d a m s = _
  unfold execChq
  refine (runInstr_issues hi).trans (congrArg Host.Outcome.next ?_)
  rw [Sem.bind_ok (State.src_of_reads hr), Sem.bind_ok (getS_run u)]
  rw [hhome.homePart, if_neg (Nat.not_le.2 hx), if_pos (by simpa using ht)]
  unfold finish1
  dsimp only
  rw [if_neg (by simp [hp]), State.charged_issues (by rw [hmy]; exact hi.1), hcur]
  rfl

omit h in
theorem chq_outside (hx : 8192 ≤ x.toNat) (hp : s.my.pend = []) :
    exec (.chq d a m) s = .next (s.raiseIn s.cur.1 s.cur.2 0x72 x s.my.pc m.len.words) := by
  change execChq d a m s = _
  unfold execChq
  refine runInstr_raise hi hp ((Sem.bind_ok (State.src_of_reads hr)).trans ((Sem.bind_ok (getS_run u)).trans ?_))
  rw [if_pos hx]
  rfl

end

/-! ### The obligation -/

/-- A patch with a reserved bit is refused as it issues. -/
theorem chpatch_reserved {d a : Opnd} {m : Mods} {s u : State} {x y : Word} (hr : s.reads m .int [a, d] = some ([x, y], u))
    (hbad : x &&& 0xFFFFFFFFFFF0E000#64 ≠ 0) (hi : s.Issues (.chpatch d a m) m) (hp : s.my.pend = []) : exec (.chpatch d a m) s =
      .next (s.raiseIn s.cur.1 s.cur.2 0x02 (encOf (.chpatch d a m) m) s.my.pc m.len.words) := by
  obtain ⟨t, hx, hy⟩ := src_of_mapM_two (State.mapM_of_reads hr)
  change execChpatch d a m s = _
  unfold execChpatch
  exact runInstr_raise hi hp ((Sem.bind_ok hx).trans ((Sem.bind_ok hy).trans (check_fail (by simpa using hbad))))

/-- What the statement says of the four instructions that post after a release. -/
theorem asks_all {i : Instr} {m : Mods} {s u : State} {vs : List Word} {f w : Word} {c : BitVec 8} {op : ChartOp} (h : s.cur.2 < 11)
    (hbody : ∃ body, exec i s = runInstr i m s (fun _ => body) ∧ AsksThen body m (sourcesOf i) vs s.me.gang op f)
    (hlen : vs.length = (sourcesOf i).length) (hr : s.reads m .int (sourcesOf i) = some (vs, u)) :
    let posts := ∃ t id, exec i s = .next t ∧ (t.part (s.homePart s.cur.1)).reqs =
        (s.part (s.homePart s.cur.1)).reqs ++ [⟨id, s.cur.1, s.cur.2, op⟩] ∧ t.my.asked = true ∧ t.my.pc = s.my.pc ∧ t.my.doing = some i
    (s.GoesOn i vs → s.my.asked = true ∧ s.my.answer = some (0, w) → ∃ t, exec i s = .next t ∧
      t.my.pc = nextPc s.my.pc m ∧ t.my.answer = none ∧ t.my.wait = none ∧ t.my.doing = none ∧ t.my.lr = s.my.lr) ∧
    (∀ r, c ≠ 0 → s.GoesOn i vs → s.reserveTail i = some r → s.my.asked = true ∧ s.my.answer = some (c, w) → s.my.pend = [] →
      exec i s = .next ((r.setMy { r.my with answer := none }).causeIn s.cur.1 s.cur.2 c f s.my.pc m.len.words)) ∧
    (s.Issues i m → s.my.wait = none → (u.releaseActs s.cur.1 s.cur.2 .part).1 = [] → posts) ∧
    (s.GoesOn i vs → (∃ q, s.my.wait = some q ∧ q.on = .release ∧ q.arrived = true) → posts) := by
  obtain ⟨body, hexec, hasks⟩ := hbody
  rw [hexec]
  refine ⟨fun hg ⟨ha, hw⟩ => ?_, fun r hc hg hr' ⟨ha, hw⟩ hp => ?_, fun hi hw hrel => ?_, fun hg ⟨q, hq, hon, harr⟩ => ?_⟩
  · exact runInstr_asks_completes h hasks hlen hg ha hw
  · exact runInstr_asks_fails h hasks hlen hg hc hr' ha hw hp
  · exact runInstr_asks_posts h hasks hr hi hw hrel
  · exact runInstr_asks_follows h hasks hlen hg hq hon harr

/-- Settles O36: each instruction is its reads, then ask, then its result; ask posts the request, or finds the answer. -/
theorem chartroomInstructions : Obligations.ChartroomInstructions := by
  unfold Obligations.ChartroomInstructions
  intro d a m s u x y w c h
  dsimp only
  refine ⟨fun hr => ?one, fun hr => ?two, fun hg hi hp => chcard_outside hg hi hp, fun g hg => ?card⟩
  case one =>
    have h1 {i : Instr} (hi : sourcesOf i = [a]) : s.reads m .int (sourcesOf i) = some ([x], u) := by rw [hi]; exact hr
    have hcharm : sourcesOf (.charm a m) = [a] := by rw [sourcesOf, fieldsOf_charm]; rfl
    have hchdec : sourcesOf (.chdec a m) = [a] := by rw [sourcesOf, fieldsOf_chdec]; rfl
    have hchdone : sourcesOf (.chdone a m) = [a] := by rw [sourcesOf, fieldsOf_chdone]; rfl
    refine ⟨?_, ?_, fun g hg => ?_, fun hi => ⟨fun hx ht => ?_, fun hx ht hmy hcur hp => ?_, fun hx hp => ?_⟩,
      fun hi hw => ⟨fun hg => ?_, fun g hg => ⟨fun hn => ?_, fun hcv hl => ?_⟩⟩, fun g hg hgo ⟨ha, hw⟩ => ?_⟩
    · exact asks_all h (execCharm_asks a m x s.me.gang s) (by rw [hcharm]; rfl) (h1 hcharm)
    · exact asks_all h (execChdec_asks a m x s.me.gang s) (by rw [hchdec]; rfl) (h1 hchdec)
    · exact asks_all h (execChdone_asks a m x s.me.gang s hg) (by rw [hchdone]; rfl) (h1 hchdone)
    · rw [← State.chqWord_fields]
      exact chq_gives h hr hi hx ht
    · exact chq_missing h hr hi hx ht hmy hcur hp
    · exact chq_outside hr hi hx hp
    · exact ckset_none h hr hi hw hg
    · exact ckset_idle h hr hi hw hg hn
    · exact ckset_posts h hr hi hw hg hcv hl
    · exact ckset_gives h hg hgo ha hw
  case two =>
    have hchpatch : sourcesOf (.chpatch d a m) = [a, d] := by rw [sourcesOf, fieldsOf_chpatch]; rfl
    refine ⟨fun hbad hi hp => chpatch_reserved hr hbad hi hp, fun hok => ?_⟩
    exact asks_all h (execChpatch_asks a d m x y s.me.gang s hok) (by rw [hchpatch]; rfl) (by rw [hchpatch]; exact hr)
  case card =>
    exact ⟨fun hgo ⟨ha, hw⟩ => chcard_gives h hg hgo ha hw,
      fun r hc hgo hr ⟨ha, hw⟩ hp => chcard_fails h hg hc hgo hr ha hw hp, fun hi hw => chcard_posts h hg hi hw⟩

end Sys2Proof.Machine
end

section
/-! PROOFS of the family 04_chartroom, O38. A core that starts after its boundary has moved (R122, R132), and the completion record that
is written (R53, R69). -/

namespace Sys2Proof.Machine

/-! ### Completion records -/

/-- Where a VF's next completion record goes. -/
def State.recordAddr (s : State) (v : Nat) : Nat :=
  (s.reg (Pf.vf v 0x40)).toNat + s.regF (Pf.vf v 0x50) 0 32 % 2 ^ s.regF (Pf.vf v 0x48) 0 5 * 32

/-- A completion record as it is written. -/
def State.recordBytes (s : State) (v : Nat) (r : Vector Word 4) : List Byte :=
  leBytes 8 (withPhase r[0] (s.regF (Pf.vf v 0x50) 0 32) (s.regF (Pf.vf v 0x48) 0 5)).toNat ++ leBytes 8 r[1].toNat ++
    leBytes 8 r[2].toNat ++ leBytes 8 r[3].toNat

/-- The state after the oldest record has been written. -/
def State.recordWritten (s : State) (v : Nat) (r : Vector Word 4) (rest : List (Vector Word 4)) : State :=
  let s1 := { s with hostMem := s.hostMem.setBytes (s.recordAddr v) (s.recordBytes v r) }
  ((s1.setPart (v - 1) { s1.part (v - 1) with recs := rest }).setReg (Pf.vf v 0x50)
    (BitVec.ofNat 64 ((s.regF (Pf.vf v 0x50) 0 32 + 1) % 2 ^ 32))).msi v 0

section
variable {s : State} {v : Nat} {r : Vector Word 4} {rest : List (Vector Word 4)}

theorem exec_completionRecordWrite (hr : (s.part (v - 1)).recs = r :: rest) (hroom : s.ringRoom v ≠ 0) (hup : (s.vf v).resetting = false) :
    exec (.completionRecordWrite v) s = .next (s.recordWritten v r rest) := by
  change execCompletionRecordWrite v s = _
  unfold execCompletionRecordWrite runEvent
  dsimp only
  rw [hr]
  dsimp only
  rw [if_neg (by simp [hroom, hup]), Option.getD_some]
  unfold State.recordWritten State.recordAddr State.recordBytes
  rfl

theorem State.msi_part (s : State) (fn vec p : Nat) : (s.msi fn vec).part p = s.part p := rfl
theorem State.msi_hostMem (s : State) (fn vec : Nat) : (s.msi fn vec).hostMem = s.hostMem := rfl
theorem State.msi_msix (s : State) (fn vec : Nat) : (s.msi fn vec).dev.msix = s.dev.msix ++ [(fn, vec)] := rfl
theorem State.msi_reg (s : State) (fn vec a : Nat) : (s.msi fn vec).reg a = s.reg a := rfl

theorem State.recordWritten_recs : ((s.recordWritten v r rest).part (v - 1)).recs = rest := by
  unfold State.recordWritten
  dsimp only
  rw [State.msi_part, State.setReg_part, State.setPart_part_same]

theorem State.recordWritten_hostMem :
    (s.recordWritten v r rest).hostMem = s.hostMem.setBytes (s.recordAddr v) (s.recordBytes v r) := by
  unfold State.recordWritten
  dsimp only
  rw [State.msi_hostMem, State.setReg_hostMem, State.setPart_hostMem]

theorem State.recordWritten_msix : (s.recordWritten v r rest).dev.msix = s.dev.msix ++ [(v, 0)] := by
  unfold State.recordWritten
  dsimp only
  rw [State.msi_msix, State.setReg_dev, State.setPart_dev]

theorem State.recordWritten_head : (s.recordWritten v r rest).regF (Pf.vf v 0x50) 0 32 = (s.regF (Pf.vf v 0x50) 0 32 + 1) % 2 ^ 32 := by
  have hreg : (s.recordWritten v r rest).reg (Pf.vf v 0x50) = BitVec.ofNat 64 ((s.regF (Pf.vf v 0x50) 0 32 + 1) % 2 ^ 32) :=
    by
    unfold State.recordWritten
    dsimp only
    rw [State.msi_reg, State.setReg_reg_same]
  rw [State.regF, hreg, bitsOf, BitVec.toNat_ofNat]
  omega

end

/-! ### A boundary that has moved -/

section
variable (s : State) (n : Nat)

/-- The port of the core takes accesses. -/
def State.portOpened : State := s.setCore n { s.core n with moving := false }

theorem State.portOpened_core : (s.portOpened n).core n = { s.core n with moving := false } := State.setCore_core_same ..

/-- No rectangle is held that was not held. -/
theorem State.portOpened_heldRects {r : Rect} (h : r ∈ (s.portOpened n).heldRects) : r ∈ s.heldRects := by
  unfold State.heldRects at h ⊢
  rw [List.mem_append] at h ⊢
  refine h.imp (fun hc => ?_) id
  obtain ⟨e, he, hr⟩ := List.mem_filterMap.1 hc
  refine List.mem_filterMap.2 ?_
  rcases AMap.mem_set he with he | rfl
  · exact ⟨e, he, hr⟩
  · have hr' : (s.core n).inPhase.map (fun p => rectOfWord p.rect) = some r := hr
    cases hg : AMap.get? s.cores n with
    | none =>
      have hcore : s.core n = {} := by rw [State.core, AMap.getD, hg]; rfl
      rw [hcore] at hr'
      cases hr'
    | some c =>
      have hcore : s.core n = c := by rw [State.core, AMap.getD, hg]; rfl
      exact ⟨(n, c), AMap.get?_mem hg, by rw [hcore] at hr'; exact hr'⟩

theorem State.portOpened_linkBusy {k l : Nat} (h : s.linkBusy k l = false) : (s.portOpened n).linkBusy k l = false := by
  have hpath : (s.portOpened n).pathOf k l = s.pathOf k l := rfl
  unfold State.linkBusy at h ⊢
  rw [hpath]
  refine List.any_eq_false.2 fun r hr => ?_
  exact List.any_eq_false.1 h r (s.portOpened_heldRects n hr)

theorem State.portOpens_empty (h : s.flight = []) : s.portOpens n = s.portOpened n := by
  unfold State.portOpens
  rw [h]
  rfl

end

/-! ### An access that has waited at the boundary -/

section
variable {s : State} {n off sz : Nat} {a : Access} {v : Word}

/-- A write at the array of another core changes neither its contexts nor its boundary. -/
theorem State.portWrite_stands (s : State) (n off k v : Nat) :
    ((s.portWrite n off k v).core n).ctxs = (s.core n).ctxs ∧ ((s.portWrite n off k v).core n).moving = (s.core n).moving := by
  unfold State.portWrite
  dsimp only
  split
  · exact ⟨rfl, rfl⟩
  · rw [State.setCore_core_same]
    exact ⟨rfl, rfl⟩

theorem State.portWrite_flight (s : State) (n off k v : Nat) : (s.portWrite n off k v).flight = s.flight := by
  unfold State.portWrite
  dsimp only
  split
  · rfl
  · rfl

theorem State.effectOf_write_scr (s : State) (n off sz : Nat) (v : Word) (c : Nat) :
    s.effectOf c (.write v) [(.scr n off, sz)] = (0, s.portWrite n off sz (v.toNat % 256 ^ sz)) := rfl

theorem State.perform_write_stands (ha : a.op = .write v) (hc : n ≠ a.core) :
    ((s.perform a [(.scr n off, sz)]).core n).ctxs = (s.core n).ctxs ∧
      ((s.perform a [(.scr n off, sz)]).core n).moving = (s.core n).moving := by
  unfold State.perform
  rw [ha, State.effectOf_write_scr]
  change (((s.portWrite n off sz (v.toNat % 256 ^ sz)).setCore _ _).core n).ctxs = _ ∧
    (((s.portWrite n off sz (v.toNat % 256 ^ sz)).setCore _ _).core n).moving = _
  rw [State.setCore_core_other _ _ _ hc]
  exact s.portWrite_stands ..

theorem State.perform_flight (hf : s.flight = [a]) (ha : a.op = .write v) :
    (s.perform a [(.scr n off, sz)]).flight.map Access.performed = [true] := by
  unfold State.perform
  rw [ha, State.effectOf_write_scr]
  change ((s.portWrite n off sz (v.toNat % 256 ^ sz)).flight.map _).map Access.performed = _
  rw [State.portWrite_flight, hf]
  simp

variable (hf : s.flight = [a]) (hl : a.locs = [(.scr n off, sz)]) (hrose : a.rose = none) (hafter : a.after = [])
  (hp : a.performed = false) (hbusy : s.linkBusy a.core n = false)
include hf hl hrose hafter hp hbusy

omit hl hrose in
/-- Once the boundary has moved nothing holds it. -/
theorem State.portOpened_canPerform : (s.portOpened n).canPerform a [(.scr n off, sz)] = true := by
  have hflight : (s.portOpened n).flight = [a] := hf
  have hblocked : (s.portOpened n).blockedBy a.core a.id [(.scr n off, sz)] = false := by simp [State.blockedBy, hflight]
  have hahead : (s.portOpened n).roseAhead a.core a.id n = false := by simp [State.roseAhead, hflight]
  have htakes : (s.portOpened n).portTakes a (.scr n off) = true := by
    simp [State.portTakes, s.portOpened_core n, s.portOpened_linkBusy n hbusy, hahead]
  simp [State.canPerform, hafter, hp, hblocked, htakes]

theorem State.portOpens_performs : s.portOpens n = (s.portOpened n).perform a [(.scr n off, sz)] := by
  have hlocs (t : State) : t.accLocs a = some [(.scr n off, sz)] := by rw [State.accLocs, hrose, hl]
  have harrive : (s.portOpened n).arrive a.id true = some ((s.portOpened n).perform a [(.scr n off, sz)]) := by
    have hflight : (s.portOpened n).flight = [a] := hf
    simp [State.arrive, hflight, hlocs, State.portOpened_canPerform hf hafter hp hbusy]
  unfold State.portOpens
  rw [hf]
  simp only [hlocs, List.any_cons, List.any_nil, Bool.or_false, List.filter_cons, List.filter_nil, decide_true, if_true,
    List.foldl_cons, List.foldl_nil]
  exact congrArg (Option.getD · _) harrive

end

/-! ### The control context starts -/

/-- The control context of a core starts, on the workspace at the scratchpad's base where there is one (R122). -/
def Core.starting (c : Core) (cyc : Nat) : Ctx :=
  { if (c.ctx 0).noWs then c.ctx 0 else c.latchLoad (c.ctx 0) (BitVec.ofNat 64 ownBase) with
    st := .live, liveAt := cyc, lastWs := if (c.ctx 0).noWs then none else some (BitVec.ofNat 64 ownBase) }

theorem exec_kernelEntry {s : State} {n : Nat} (hm : (s.core n).moving = true) (hfree : ∀ x, x < 11 → ((s.portOpens n).ctx n x).st = .free) :
    exec (.kernelEntry n) s = .next ((s.portOpens n).setCtx n 0 (((s.portOpens n).core n).starting (s.portOpens n).cyc)) := by
  have hnone : ctxNums.any (fun x => (((s.portOpens n).core n).ctx x).st ≠ .free) = false := by
    rw [List.any_eq_false]
    intro x hx
    have hst : (((s.portOpens n).core n).ctx x).st = .free := hfree x (List.mem_range.1 hx)
    simp [hst]
  change execKernelEntry n s = _
  unfold execKernelEntry runEvent
  dsimp only
  rw [if_neg (by simp [hm]), if_neg (by rw [hnone]; exact Bool.false_ne_true)]
  rfl

section
variable (c : Core) (cyc : Nat)

theorem Core.starting_noWs (h : (c.ctx 0).noWs = true) : (c.starting cyc).pc = (c.ctx 0).pc := by
  unfold Core.starting
  rw [h]
  rfl

/-- The latches are those of the workspace at the base. -/
theorem Core.starting_latches (h : (c.ctx 0).noWs = false) : (c.starting cyc).wsp = BitVec.ofNat 64 ownBase ∧
    (c.starting cyc).pc = BitVec.ofNat 64 (c.scr.read 0x150 8) ∧ (c.starting cyc).slim = BitVec.ofNat 64 (c.scr.read 0x160 8) ∧
    (c.starting cyc).seed = BitVec.ofNat 32 (c.scr.read 0x188 8) := by
  have hoff : wsOff (BitVec.ofNat 64 ownBase) = 0 := by decide
  simp only [Core.starting, h, Bool.false_eq_true, if_false, Core.latchLoad, hoff, Nat.zero_add, true_and]
  exact BitVec.setWidth_ofNat_of_le (by decide) _

end

/-- What kernel entry leaves of a core whose contexts are free. -/
theorem kernelEntry_starts {s : State} {n : Nat} {u : State} (hm : (s.core n).moving = true) (hf : ∀ x, x < 11 → (s.ctx n x).st = .free)
    (hu : s.portOpens n = u) (hctxs : (u.core n).ctxs = (s.core n).ctxs) (hmoving : (u.core n).moving = false) :
    ∃ t, exec (.kernelEntry n) s = .next t ∧ (t.core n).moving = false ∧ t.ctx n 0 = (u.core n).starting u.cyc ∧
      (∀ x, 0 < x → x < 11 → (t.ctx n x).st = .free) ∧ (t.core n).scr = (u.core n).scr ∧ t.flight = u.flight := by
  have hfree : ∀ x, x < 11 → (u.ctx n x).st = .free := fun x hx => by
    rw [State.ctx, Core.ctx, hctxs]
    exact hf x hx
  have hrun := exec_kernelEntry hm (by rw [hu]; exact hfree)
  rw [hu] at hrun
  refine ⟨_, hrun, ?_, State.setCtx_ctx_same _ _ _ (by decide), fun x h0 hx => ?_, ?_, rfl⟩
  · rw [State.setCtx, State.setCore_core_same, Core.setCtx_moving, hmoving]
  · rw [State.setCtx_ctx_other _ _ _ (by omega)]
    exact hfree x hx
  · rw [State.setCtx, State.setCore_core_same, Core.setCtx_scr]

end Sys2Proof.Machine
end

section
/-! PROOFS of the family 04_chartroom, O38. A gang that retires (R86): its cores are free, and its task may be done. -/

namespace Sys2Proof.Machine

theorem SameTables.refl (s : State) (p : Nat) : SameTables s s p :=
  ⟨fun _ => rfl, fun _ _ => rfl, fun _ _ => rfl, fun _ => rfl, fun _ => rfl, rfl⟩

theorem SameTables.trans {s t u : State} {p : Nat} (h : SameTables s t p) (k : SameTables t u p) : SameTables s u p :=
  ⟨fun i => (k.tcb? i).trans (h.tcb? i), fun va n => (k.read va n).trans (h.read va n), fun va n => (k.there va n).trans (h.there va n),
    fun va => (k.addr va).trans (h.addr va), fun a => (k.reg a).trans (h.reg a), k.fenced.trans h.fenced⟩

/-! ### The end of a task's last gang leaves the cores and the gangs -/

section
variable (s : State) (p i : Nat)

theorem State.setTcbSt_cores (v : Nat) : (s.setTcbSt p i v).cores = s.cores := s.setTcbW_cores p i _ (by decide)

theorem State.newId_cores : s.newId.2.cores = s.cores := rfl

theorem State.taskDone_cores : (s.taskDone p i).cores = s.cores := by
  have hread := State.cores_eq_of_offMemory ((s.setTcbSt p i tDone).readTcbs_offMemory p (s.chain p 17 i))
  unfold State.taskDone
  dsimp only
  rw [State.setPart_cores, State.newId_cores, hread, State.setTcbSt_cores]

theorem State.taskDone_gangs : ((s.taskDone p i).part p).gangs = (s.part p).gangs := by
  have hb := ((SameBoard.refl (s.setTcbSt p i tDone)).readTcbs (p := p) (is := s.chain p 17 i)).newId
  unfold State.taskDone
  dsimp only
  rw [State.setPart_part_same]
  exact (hb.gangs p).trans (State.setTcbSt_gangs ..)

/-- No grace period of the task runs. -/
def State.graceErased : State := s.setPart p { s.part p with grace := AMap.erase (s.part p).grace i }

/-- Neither a grace period of the task runs nor its watchdog. -/
def State.timesErased : State :=
  s.setPart p { s.part p with grace := AMap.erase (s.part p).grace i, wdog := AMap.erase (s.part p).wdog i }

theorem State.graceErased_gangs : ((s.graceErased p i).part p).gangs = (s.part p).gangs := by rw [State.graceErased, State.setPart_part_same]
theorem State.timesErased_gangs : ((s.timesErased p i).part p).gangs = (s.part p).gangs := by rw [State.timesErased, State.setPart_part_same]
theorem State.graceErased_cores : (s.graceErased p i).cores = s.cores := rfl
theorem State.timesErased_cores : (s.timesErased p i).cores = s.cores := rfl

theorem State.taskRetired_cases : s.taskRetired p i = s ∨ s.taskRetired p i = (s.taskDone p i).graceErased p i ∨
    s.taskRetired p i = (s.setTcbSt p i tReady).timesErased p i := by
  unfold State.taskRetired
  dsimp only
  split
  · exact .inl rfl
  · split
    · exact .inr (.inl rfl)
    · split
      · exact .inr (.inr rfl)
      · exact .inl rfl

theorem State.taskRetired_cores : (s.taskRetired p i).cores = s.cores := by
  rcases s.taskRetired_cases p i with h | h | h
  · rw [h]
  · rw [h, State.graceErased_cores, State.taskDone_cores]
  · rw [h, State.timesErased_cores, State.setTcbSt_cores]

theorem State.taskRetired_gangs : ((s.taskRetired p i).part p).gangs = (s.part p).gangs := by
  rcases s.taskRetired_cases p i with h | h | h
  · rw [h]
  · rw [h, State.graceErased_gangs, State.taskDone_gangs]
  · rw [h, State.timesErased_gangs, State.setTcbSt_gangs]

end

/-! ### Cores that become free -/

section
variable (s : State)

theorem State.freeCore_gang_same (n : Nat) : ((s.freeCore n).core n).gang = none := by
  unfold State.freeCore
  dsimp only
  rw [State.setCore_core_same]
  rfl

theorem State.freeCore_gang {n m : Nat} (h : (s.core n).gang = none) : ((s.freeCore m).core n).gang = none := by
  by_cases e : n = m
  · subst e
    exact s.freeCore_gang_same n
  · unfold State.freeCore
    dsimp only
    rw [State.setCore_core_other _ _ _ e, h]

theorem State.freeCores_gang (ns : List Nat) {n : Nat} (h : n ∈ ns ∨ (s.core n).gang = none) :
    ((ns.foldl State.freeCore s).core n).gang = none := by
  induction ns generalizing s with
  | nil => exact h.resolve_left List.not_mem_nil
  | cons m ns ih =>
    refine ih _ ?_
    rcases h with hm | hg
    · rcases List.mem_cons.1 hm with rfl | hm
      · exact .inr (s.freeCore_gang_same n)
      · exact .inl hm
    · exact .inr (s.freeCore_gang hg)

theorem State.freeCores_sameTables (p : Nat) (ns : List Nat) : SameTables s (ns.foldl State.freeCore s) p := by
  induction ns generalizing s with
  | nil => exact .refl s p
  | cons m ns ih => exact (SameTables.setCore s p m _).trans (ih _)

theorem State.freeCore_parts (n : Nat) : (s.freeCore n).parts = s.parts := rfl

theorem State.freeCores_parts (ns : List Nat) : (ns.foldl State.freeCore s).parts = s.parts :=
  foldl_keeps State.parts State.freeCore_parts ns s

end

/-! ### Retirement -/

/-- The gangs of p without the one that retires, whose chunks are kept if it has any. -/
def State.gangLeft (s : State) (p : Nat) (g : Gang) : State :=
  s.setPart p { s.part p with
    gangs := (s.part p).gangs.filter (fun h => h.num ≠ g.num)
    lost := if g.chunks = [] then (s.part p).lost else AMap.set (s.part p).lost g.tcb (AMap.getD (s.part p).lost g.tcb [] ++ [g]) }

/-- What the retirement means to the gang's task, or to the convoy's tasks. -/
def State.gangTasks (s : State) (p : Nat) (g : Gang) : State :=
  if g.convoy ≥ 1024 then s.taskRetired p g.tcb
  else if (s.part p).gangs.any (fun h => h.convoy = g.convoy) then s
  else
    let s3 := (s.cvyMembers p g.convoy).foldl (fun s i =>
      if g.leave = .restart && s.tcbSt p i = tDraining then s else s.taskRetired p i) s
    if g.leave = .restart then s3.setPart p { s3.part p with log := AMap.erase (s3.part p).log g.convoy } else s3

section
variable {s : State} {p : Nat} {g : Gang}

theorem exec_gangRetire (hf : (s.part p).gangs.find? (fun h => h.num = g.num) = some g) (hd : g.draining = true)
    (he : s.gangEmpty g = true) (hidle : g.cores.all s.engineIdle = true) (hclean : ∀ n ∈ g.cores, ∀ l ∈ (s.core n).l1, l.dirty = 0)
    (hflight : ∀ a ∈ s.flight, a.core ∉ g.cores) :
    exec (.gangRetire p g.num) s = .next (((g.cores.foldl State.freeCore s).gangLeft p g).gangTasks p g) := by
  have hdirty : g.cores.any (fun n => (s.core n).l1.any (fun l => l.dirty ≠ 0)) = false :=
    List.any_eq_false.2 fun n hn => by
      rw [Bool.not_eq_true, List.any_eq_false]
      intro l hl
      simp [hclean n hn l hl]
  have hfly : s.flight.any (fun a => g.cores.contains a.core) = false := List.any_eq_false.2 fun a ha => by simp [hflight a ha]
  change execGangRetire p g.num s = _
  unfold execGangRetire runEvent
  dsimp only
  rw [hf]
  dsimp only
  rw [if_neg (by simp [hd, he, hidle]), if_neg (by rw [hdirty]; exact Bool.false_ne_true), if_neg (by rw [hfly]; exact Bool.false_ne_true)]
  unfold State.gangTasks
  dsimp only
  by_cases hcv : g.convoy ≥ 1024
  · rw [if_pos hcv, if_pos hcv]
    rfl
  · rw [if_neg hcv, if_neg hcv]
    by_cases hother : (((g.cores.foldl State.freeCore s).gangLeft p g).part p).gangs.any (fun h => h.convoy = g.convoy) = true
    · rw [if_pos (by exact hother), if_pos hother]
      rfl
    · rw [if_neg (by exact hother), if_neg hother]
      rfl

theorem State.gangLeft_gangs : ((s.gangLeft p g).part p).gangs = (s.part p).gangs.filter (fun h => h.num ≠ g.num) := by
  rw [State.gangLeft, State.setPart_part_same]

theorem State.gangTasks_cores : (s.gangTasks p g).cores = s.cores := by
  have hfold := foldl_keeps State.cores (f := fun s i => if g.leave = .restart && s.tcbSt p i = tDraining then s else s.taskRetired p i)
    (fun s i => by
      split
      · rfl
      · exact s.taskRetired_cores p i) (s.cvyMembers p g.convoy) s
  unfold State.gangTasks
  dsimp only
  split
  · exact s.taskRetired_cores p g.tcb
  · split
    · rfl
    · split
      · rw [State.setPart_cores, hfold]
      · exact hfold

theorem State.gangTasks_gangs : ((s.gangTasks p g).part p).gangs = (s.part p).gangs := by
  have hfold := foldl_keeps (fun s : State => (s.part p).gangs)
    (f := fun s i => if g.leave = .restart && s.tcbSt p i = tDraining then s else s.taskRetired p i)
    (fun s i => by
      split
      · rfl
      · exact s.taskRetired_gangs p i) (s.cvyMembers p g.convoy) s
  unfold State.gangTasks
  dsimp only
  split
  · exact s.taskRetired_gangs p g.tcb
  · split
    · rfl
    · split
      · rw [State.setPart_part_same]
        exact hfold
      · exact hfold

/-- A task that drains and has no gang left is DONE. -/
theorem State.gangTasks_done (hc : 1024 ≤ g.convoy) (hs : s.tcbSt p g.tcb = tDraining) (hn : ∀ h ∈ (s.part p).gangs, h.tcb ≠ g.tcb) :
    (s.gangTasks p g).tcbSt p g.tcb = tDone := by
  have hnil : s.gangsOf p g.tcb = [] := List.filter_eq_nil_iff.2 fun h hh => by simpa using hn h hh
  rw [State.gangTasks, if_pos hc, (State.taskRetired_draining hnil hs).1.tcbSt, State.setTcbSt_tcbSt _ _ _ _ (by decide)]

theorem gangRetire_frees (hf : (s.part p).gangs.find? (fun h => h.num = g.num) = some g) (hd : g.draining = true)
    (he : s.gangEmpty g = true) (hidle : g.cores.all s.engineIdle = true) (hclean : ∀ n ∈ g.cores, ∀ l ∈ (s.core n).l1, l.dirty = 0)
    (hflight : ∀ a ∈ s.flight, a.core ∉ g.cores) :
    ∃ t, exec (.gangRetire p g.num) s = .next t ∧ (∀ h ∈ (t.part p).gangs, h.num ≠ g.num) ∧
      (∀ n ∈ g.cores, (t.core n).gang = none) ∧
      (1024 ≤ g.convoy → s.tcbSt p g.tcb = tDraining → (∀ h ∈ (s.part p).gangs, h.num ≠ g.num → h.tcb ≠ g.tcb) →
        t.tcbSt p g.tcb = tDone) := by
  have hpart : (g.cores.foldl State.freeCore s).part p = s.part p := by rw [State.part, State.freeCores_parts, State.part]
  have hgangs : (((g.cores.foldl State.freeCore s).gangLeft p g).part p).gangs = (s.part p).gangs.filter (fun h => h.num ≠ g.num) := by
    rw [State.gangLeft_gangs, hpart]
  refine ⟨_, exec_gangRetire hf hd he hidle hclean hflight, fun h hh => ?_, fun n hn => ?_, fun hc hs hn => ?_⟩
  · rw [State.gangTasks_gangs, hgangs] at hh
    simpa using (List.mem_filter.1 hh).2
  · rw [State.core, State.gangTasks_cores]
    exact s.freeCores_gang g.cores (.inl hn)
  · refine State.gangTasks_done hc ?_ fun h hh => ?_
    · have htab := (s.freeCores_sameTables p g.cores).trans (SameTables.setPart (g.cores.foldl State.freeCore s) p
        (q := { (g.cores.foldl State.freeCore s).part p with
          gangs := ((g.cores.foldl State.freeCore s).part p).gangs.filter (fun h => h.num ≠ g.num)
          lost := if g.chunks = [] then ((g.cores.foldl State.freeCore s).part p).lost
            else AMap.set ((g.cores.foldl State.freeCore s).part p).lost g.tcb
              (AMap.getD ((g.cores.foldl State.freeCore s).part p).lost g.tcb [] ++ [g]) }) rfl)
      exact (htab.tcbSt g.tcb).trans hs
    · rw [hgangs] at hh
      obtain ⟨hmem, hnum⟩ := List.mem_filter.1 hh
      exact hn h hmem (by simpa using hnum)

end

end Sys2Proof.Machine
end

section
/-! PROOFS of the family 04_chartroom, O38. A gang that is placed (R79, R122, R132). -/

namespace Sys2Proof.Machine

/-! ### A core that is placed -/

/-- A core as a placement leaves it but for its L1, its trace and the grants of others: the boundary moves, and the entry state stands. -/
def State.entryCore (s : State) (n : Nat) (g : GangRef) (c : Core) : Core :=
  let f := s.tcbF g.part g.tcb
  let scratch := f 0 32 16
  { c.emptied with
    scratch := scratch, stack := f 0 48 8, gang := some g, moving := true
    scr := if scratch = 0 then [] else
      entryScr n g.tcb (s.tcbW g.part g.tcb 1) (s.tcbW g.part g.tcb 2) (s.tcbW g.part g.tcb 15) scratch (f 0 48 8)
    ctxs := c.emptied.ctxs.set 0 (firstCtx (c.emptied.ctx 0) n (s.tcbW g.part g.tcb 1) (scratch = 0)) }

/-- What the statement says of a core of the rectangle. -/
structure PlacedCore (c : Core) (g : GangRef) (entry : Word) (scratch stack : Nat) : Prop where
  moving : c.moving = true
  gang : c.gang = some g
  scratch : c.scratch = scratch
  stack : c.stack = stack
  pc : (c.ctx 0).pc = entry
  free : ∀ x, x < 11 → (c.ctx x).st = .free

theorem firstCtx_st (k : Ctx) (n : Nat) (entry : Word) (none : Bool) : (firstCtx k n entry none).st = .free := by
  unfold firstCtx
  dsimp only
  split
  · rfl
  · rfl

theorem firstCtx_pc (k : Ctx) (n : Nat) (entry : Word) (none : Bool) : (firstCtx k n entry none).pc = entry := by
  unfold firstCtx
  dsimp only
  split
  · rfl
  · rfl

theorem Core.emptied_st (c : Core) {x : Nat} (h : x < 11) : (c.emptied.ctxs[x]).st = .free := by
  simp [Core.emptied]

section
variable (s : State) (n : Nat) (g : GangRef)

theorem State.entryCore_placed (c : Core) : PlacedCore (s.entryCore n g c) g (s.tcbW g.part g.tcb 1) (s.tcbF g.part g.tcb 0 32 16)
    (s.tcbF g.part g.tcb 0 48 8) := by
  refine ⟨rfl, rfl, rfl, rfl, ?_, fun x hx => ?_⟩
  · simp [State.entryCore, Core.ctx, firstCtx_pc]
  · by_cases h0 : x = 0
    · subst h0
      simp [State.entryCore, Core.ctx, firstCtx_st]
    · simp only [State.entryCore, Core.ctx, hx, dif_pos, Vector.getElem_set_ne _ _ (Ne.symm h0)]
      exact c.emptied_st hx

/-- A placement of a core is that write, with work on L1s, traces and grants before and after. -/
theorem State.placeCore_work : ∃ u, SameWork s u ∧ SameWork (u.setCore n (s.entryCore n g (u.core n))) (s.placeCore n g) :=
  ⟨s.shrinkL1 n (20 - s.tcbF g.part g.tcb 0 32 16 / 16), SameWork.shrinkL1 .., (SameWork.revokeAll ..).trans
    ((SameWork.traceRec ..).trans ((SameWork.trigger ..).trans (SameWork.acquireActs ..)))⟩

theorem PlacedCore.of_sameWork {t u : State} {m scratch stack : Nat} {entry : Word} (h : PlacedCore (t.core m) g entry scratch stack)
    (k : SameWork t u) : PlacedCore (u.core m) g entry scratch stack := by
  obtain ⟨h1, h2, h3, h4, h5, h6⟩ := h
  have hctx (x : Nat) : (u.core m).ctx x = (t.core m).ctx x := k.ctx m x
  exact ⟨(k.moving m).trans h1, (k.gang m).trans h2, (k.scratch m).trans h3, (k.stack m).trans h4, by rw [hctx, h5],
    fun x hx => by rw [hctx, h6 x hx]⟩

theorem State.placeCore_placed : PlacedCore ((s.placeCore n g).core n) g (s.tcbW g.part g.tcb 1) (s.tcbF g.part g.tcb 0 32 16)
    (s.tcbF g.part g.tcb 0 48 8) := by
  obtain ⟨u, -, hw⟩ := s.placeCore_work n g
  refine PlacedCore.of_sameWork g ?_ hw
  rw [State.setCore_core_same]
  exact s.entryCore_placed n g _

theorem State.placeCore_placed_other {m scratch stack : Nat} {entry : Word} (hm : m ≠ n)
    (h : PlacedCore (s.core m) g entry scratch stack) : PlacedCore ((s.placeCore n g).core m) g entry scratch stack := by
  obtain ⟨u, hu, hw⟩ := s.placeCore_work n g
  refine PlacedCore.of_sameWork g ?_ hw
  rw [State.setCore_core_other _ _ _ hm]
  exact h.of_sameWork g hu

theorem State.placeCore_parts : (s.placeCore n g).parts = s.parts := by
  obtain ⟨u, hu, hw⟩ := s.placeCore_work n g
  exact hw.parts.trans hu.parts

end

/-! ### The cores of a gang -/

/-- The cores of a rectangle are placed in their order. -/
def State.placedCores (s : State) (g : GangRef) (ns : List Nat) : State := ns.foldl (fun s n => s.placeCore n g) s

section
variable {s : State} {g : GangRef}

theorem State.placedCores_parts (ns : List Nat) : (s.placedCores g ns).parts = s.parts :=
  foldl_keeps State.parts (fun s n => s.placeCore_parts n g) ns s

/-- Each of them holds the entry state of the gang's task, which the Chartroom caches. -/
theorem State.placedCores_placed (hc : (AMap.get? (s.part g.part).tcbs g.tcb).isSome) (ns : List Nat) {m : Nat}
    (h : m ∈ ns ∨ PlacedCore (s.core m) g (s.tcbW g.part g.tcb 1) (s.tcbF g.part g.tcb 0 32 16) (s.tcbF g.part g.tcb 0 48 8)) :
    PlacedCore ((s.placedCores g ns).core m) g (s.tcbW g.part g.tcb 1) (s.tcbF g.part g.tcb 0 32 16) (s.tcbF g.part g.tcb 0 48 8) := by
  induction ns generalizing s with
  | nil => exact h.resolve_left List.not_mem_nil
  | cons n ns ih =>
    have hsame : SameTcb s (s.placeCore n g) g.part g.tcb :=
      (SameTcb.refl hc).of_tcbs (by rw [State.part, State.placeCore_parts, State.part])
    have hw : (s.placeCore n g).tcbW g.part g.tcb 1 = s.tcbW g.part g.tcb 1 := by rw [State.tcbW, hsame.tcb, State.tcbW]
    have hstep := ih hsame.self.1
    rw [hw, hsame.tcbF, hsame.tcbF] at hstep
    refine hstep ?_
    by_cases hm : m = n
    · subst hm
      exact .inr (s.placeCore_placed m g)
    · rcases h with h | h
      · exact .inl ((List.mem_cons.1 h).resolve_left hm)
      · exact .inr (s.placeCore_placed_other n g hm h)

end

end Sys2Proof.Machine
end

section
/-! PROOFS of the family 04_chartroom, O38. An attempt that places the one task of the pool (R79, R80). -/

namespace Sys2Proof.Machine

/-! ### A doubleword of a cached TCB, and the rest of its Chartroom -/

section
variable (s : State) (p i : Nat)

theorem State.parts_eq_of_offMemory {s t : State} (h : s.offMemory = t.offMemory) : s.parts = t.parts := (congrArg State.parts h :)

theorem State.setTcbW_part {j : Nat} (v : Word) (h : j < 16) :
    (s.setTcbW p i j v).part p = { s.part p with tcbs := AMap.set (s.part p).tcbs i ((s.tcb p i).set j v) } := by
  rw [State.part, State.parts_eq_of_offMemory (s.setTcbW_offMemory p i j v h), ← State.part, State.setPart_part_same]

theorem State.setTcbSt_lastTry (v : Nat) : ((s.setTcbSt p i v).part p).lastTry = (s.part p).lastTry := by
  rw [State.setTcbSt, State.setTcbF, State.setTcbW_part _ _ _ _ (by decide)]

end

/-! ### What the attempt sees -/

/-- The attempt of this mesh cycle has been made. -/
def State.tried (s : State) (p : Nat) : State := s.setPart p { s.part p with lastTry := s.mesh + 1 }

section
variable (s : State) (p i : Nat)

theorem State.tried_part : (s.tried p).part p = { s.part p with lastTry := s.mesh + 1 } := State.setPart_part_same ..

theorem State.tried_part_other {q : Nat} (h : q ≠ p) : (s.tried p).part q = s.part q := State.setPart_part_other _ _ _ h

theorem State.tried_sameTables : SameTables s (s.tried p) p := SameTables.setPart s p rfl

theorem State.tried_waitingConvoys : (s.tried p).waitingConvoys p = s.waitingConvoys p := by
  have h := s.tried_sameTables p
  have htcb : (s.tried p).tcbConvoy p = s.tcbConvoy p := funext h.tcbConvoy
  simp only [State.waitingConvoys, s.tried_part p, htcb, h.tcbSt]

theorem State.tried_resv (q : Nat) : ((s.tried p).part q).resv = (s.part q).resv := by
  by_cases h : q = p
  · subst h
    rw [State.tried_part]
  · rw [s.tried_part_other p h]

theorem State.tried_seenFree : (s.tried p).seenFree p = s.seenFree p := by
  funext n
  have hfree : (s.tried p).coreFree n = s.coreFree n := rfl
  have hclaimed : (s.tried p).claimedNow p n = s.claimedNow p n := by
    unfold State.claimedNow
    have hgang : ((s.tried p).core n).gang = (s.core n).gang := rfl
    rw [hgang]
    cases hg : (s.core n).gang with
    | none => rfl
    | some g =>
      by_cases hlt : g.part < p
      · have hpart := s.tried_part_other p (Nat.ne_of_lt hlt)
        have hmesh : (s.tried p).mesh = s.mesh := rfl
        simp only [hpart, hmesh]
      · simp [hlt]
  rw [State.seenFree, hfree, hclaimed, State.seenFree]
  rfl

/-- Without a reservation no core is kept from anyone. -/
theorem State.reserved_nil {s : State} (h : ∀ k, k < 8 → (s.part k).resv = none) (p key : Nat) : s.reserved p key = [] := by
  unfold State.reserved
  refine List.flatMap_eq_nil_iff.2 fun q hq => ?_
  have hq8 : q < 8 := List.mem_range.1 hq
  rw [State.holder, h q hq8]

/-- The members of a task alone: itself, anywhere. -/
theorem State.wanted_task (e : PoolEntry) (hk : e.key < 8192) : s.wanted p e = e.tcbs.map (fun i => (i, none)) := by
  unfold State.wanted
  split
  · rw [if_neg (Nat.not_le.2 hk)]
  · rfl

/-- A task alone is placed at the first origin that fits. -/
theorem State.spots_task {s : State} {p i pr sq x0 y0 : Nat} (hi : i < 8192) (hres : ∀ k, k < 8 → (s.part k).resv = none)
    (hfit : s.fit p i (s.seenFree p) none = some (x0, y0)) : s.spots p ⟨i, pr, sq, [i]⟩ = some [(x0, y0)] := by
  have hnone : s.reserved p i = [] := State.reserved_nil hres p i
  have havail : (fun n => (fun n => s.seenFree p n && !(s.reserved p i).contains n) n && !([] : List Nat).contains n) = s.seenFree p := by
    funext n
    simp [hnone]
  unfold State.spots
  dsimp only
  rw [State.wanted_task _ _ _ hi, List.map_singleton, State.fitAll, havail, hfit]
  rfl

end

/-! ### The gang -/

/-- The gang that a task's placement makes. -/
def State.newGang (s : State) (p i x0 y0 : Nat) : Gang :=
  { num := (s.part p).gangNum, tcb := i, x0 := x0, y0 := y0, lw := s.lwOf p i, lh := s.lhOf p i, convoy := 0xFFFF, member := 0
    chunks := AMap.getD (s.part p).kept i [] }

/-- The core's name for a task's gang. -/
def Gang.ref (g : Gang) (p : Nat) : GangRef :=
  { part := p, tcb := g.tcb, num := g.num, x0 := g.x0, y0 := g.y0, lw := g.lw, lh := g.lh, convoy := g.convoy, member := g.member }

/-- The Chartroom has the gang. -/
def State.addGang (s : State) (p : Nat) (g : Gang) : State :=
  s.setPart p { s.part p with gangs := (s.part p).gangs ++ [g], gangNum := g.num + 1, kept := AMap.erase (s.part p).kept g.tcb }

/-- A READY task with a gang is RUNNING. -/
def State.runs (s : State) (p i : Nat) : State := if s.tcbSt p i = tReady then (s.setTcbSt p i tRunning).progress p i else s

theorem foldl_zipIdx {α β : Type} (f : β → α → β) (l : List α) (b : β) (k : Nat) :
    (l.zipIdx k).foldl (fun b e => f b e.1) b = l.foldl f b := by
  induction l generalizing b k with
  | nil => rfl
  | cons a l ih => exact ih (f b a) (k + 1)

section
variable (s : State) (p i x0 y0 : Nat)

theorem State.placeGang_task : s.placeGang p i x0 y0 0xFFFF 0 [] =
    (((s.addGang p (s.newGang p i x0 y0)).placedCores ((s.newGang p i x0 y0).ref p) (rectCores x0 y0 (s.lwOf p i) (s.lhOf p i))).runs p i) := by
  have hfold := foldl_zipIdx (fun (s' : State) n => s'.placeCore n ((s.newGang p i x0 y0).ref p))
    (rectCores x0 y0 (s.lwOf p i) (s.lhOf p i)) (s.addGang p (s.newGang p i x0 y0)) 0
  unfold State.placedCores
  rw [← hfold]
  rfl

end

/-! ### What an attempt leaves of its gang -/

/-- Nothing of the cores, of the gangs and of the time of the attempt is changed. -/
structure SamePlaces (s t : State) (p : Nat) : Prop where
  cores : t.cores = s.cores
  gangs : (t.part p).gangs = (s.part p).gangs
  lastTry : (t.part p).lastTry = (s.part p).lastTry

section
variable {s t u : State} {p i : Nat}

theorem SamePlaces.trans (h : SamePlaces s t p) (k : SamePlaces t u p) : SamePlaces s u p :=
  ⟨k.cores.trans h.cores, k.gangs.trans h.gangs, k.lastTry.trans h.lastTry⟩

theorem SamePlaces.core (h : SamePlaces s t p) (n : Nat) : t.core n = s.core n := by rw [State.core, h.cores, State.core]

theorem SamePlaces.setPart (s : State) (p : Nat) {q : Part} (hg : q.gangs = (s.part p).gangs) (hl : q.lastTry = (s.part p).lastTry) :
    SamePlaces s (s.setPart p q) p :=
  ⟨rfl, by rw [State.setPart_part_same, hg], by rw [State.setPart_part_same, hl]⟩

theorem SamePlaces.progress (s : State) (p i : Nat) : SamePlaces s (s.progress p i) p := .setPart s p rfl rfl

theorem SamePlaces.setTcbSt (s : State) (p i v : Nat) : SamePlaces s (s.setTcbSt p i v) p :=
  ⟨s.setTcbSt_cores p i v, s.setTcbSt_gangs p i v p, s.setTcbSt_lastTry p i v⟩

theorem State.runs_samePlaces (s : State) (p i : Nat) : SamePlaces s (s.runs p i) p := by
  unfold State.runs
  split
  · exact (SamePlaces.setTcbSt s p i _).trans (.progress _ p i)
  · exact ⟨rfl, rfl, rfl⟩

theorem State.runs_sameTcb (h : s.tcbSt p i = tReady) : SameTcb (s.setTcbSt p i tRunning) (s.runs p i) p i := by
  rw [State.runs, if_pos h]
  exact (State.setTcbSt_sameTcb ..).of_tcbs (State.progress_tcbs ..)

/-- The notes of a placement: what the Chartroom knows of its last one. -/
theorem State.place_task (s : State) {p i pr sq x0 y0 : Nat} (hi : i < 8192) :
    ∃ q, s.place p ⟨i, pr, sq, [i]⟩ [(x0, y0)] = (s.placeGang p i x0 y0 0xFFFF 0 []).setPart p q ∧
      q.gangs = ((s.placeGang p i x0 y0 0xFFFF 0 []).part p).gangs ∧ q.lastTry = ((s.placeGang p i x0 y0 0xFFFF 0 []).part p).lastTry ∧
      q.tcbs = ((s.placeGang p i x0 y0 0xFFFF 0 []).part p).tcbs ∧ q.lastPlace = some s.mesh := by
  unfold State.place
  dsimp only
  rw [if_neg (Nat.not_le.2 hi)]
  simp only [if_true, List.zip_cons_cons, List.zip_nil_right, List.zipIdx_cons, List.zipIdx_nil, List.foldl_cons, List.foldl_nil]
  exact ⟨_, rfl, rfl, rfl, rfl, rfl⟩

/-- A first entry that is placed passes no other over. -/
theorem State.passedOver_nil (s : State) (p : Nat) (e : PoolEntry) :
    s.passedOver p [] e = s.setPart p { s.part p with passed := AMap.erase (s.part p).passed e.key } := rfl

end

/-! ### The attempt -/

section
variable {s : State} {p i pr sq x0 y0 : Nat}

theorem exec_placementAttempt (s : State) (p : Nat) : exec (.placementAttempt p) s = .next ((
    if !s.mayTry p || (List.range p).any s.mayTry then none
    else match (s.part p).lastPlace with
      | some m => if s.mesh < m + s.regF (Pf.chr p 0x18) 0 16 then some ((s.tried p).readConvoys p)
          else some (((s.tried p).readConvoys p).tryEntries p (s.pool p) [] ((s.pool p).take 8))
      | none => some (((s.tried p).readConvoys p).tryEntries p (s.pool p) [] ((s.pool p).take 8))).getD s) := rfl

/-- The attempt places the first entry that fits. -/
theorem exec_placementAttempt_task (hi : i < 8192) (hpool : s.pool p = [⟨i, pr, sq, [i]⟩]) (hmesh : s.mesh + 1 ≠ (s.part p).lastTry)
    (hbefore : ∀ k, k < p → s.mayTry k = false) (hcvy : s.waitingConvoys p = []) (hcomp : (s.part p).completing = false)
    (hlast : (s.part p).lastPlace = none) (hresv : ∀ k, k < 8 → (s.part k).resv = none)
    (hfit : s.fit p i (s.seenFree p) none = some (x0, y0))
    (hfree : ∀ n ∈ rectCores x0 y0 (s.lwOf p i) (s.lhOf p i), s.coreFree n = true) :
    exec (.placementAttempt p) s =
      .next (((s.tried p).place p ⟨i, pr, sq, [i]⟩ [(x0, y0)]).passedOver p [] ⟨i, pr, sq, [i]⟩) := by
  have hmay : s.mayTry p = true := by simp [State.mayTry, hpool, hcomp, State.attempted, Ne.symm hmesh]
  have hfirst : (List.range p).any s.mayTry = false := List.any_eq_false.2 fun k hk => by simp [hbefore k (List.mem_range.1 hk)]
  have hread : (s.tried p).readConvoys p = s.tried p := by rw [State.readConvoys, State.tried_waitingConvoys, hcvy, List.foldl_nil]
  have htab := s.tried_sameTables p
  have hspots : (s.tried p).spots p ⟨i, pr, sq, [i]⟩ = some [(x0, y0)] :=
    State.spots_task hi (fun k hk => (s.tried_resv p k).trans (hresv k hk)) (by rw [State.tried_seenFree, htab.fit, hfit])
  have hall : ((s.tried p).placeCores p [i] [(x0, y0)]).all (s.tried p).coreFree = true := by
    rw [List.all_eq_true]
    intro n hn
    rw [State.placeCores, List.zip_cons_cons, List.zip_nil_right, List.flatMap_singleton, htab.lwOf, htab.lhOf] at hn
    exact hfree n hn
  rw [exec_placementAttempt, hmay, hfirst, hpool, hlast, hread]
  simp only [Bool.not_true, Bool.or_self, Bool.false_eq_true, if_false, Option.getD_some, List.take_succ_cons, List.take_nil, State.tryEntries,
    hspots, hall, if_true]

/-- The Chartroom's gangs with the new one, whose cores are placed. -/
def State.gangPlaced (s : State) (p : Nat) (g : Gang) : State := (s.addGang p g).placedCores (g.ref p) g.cores

section
variable (hc : (AMap.get? (s.part p).tcbs i).isSome) {g : Gang}

theorem State.addGang_part : (s.addGang p g).part p =
    { s.part p with gangs := (s.part p).gangs ++ [g], gangNum := g.num + 1, kept := AMap.erase (s.part p).kept g.tcb } :=
  State.setPart_part_same ..

theorem State.gangPlaced_part : (s.gangPlaced p g).part p = (s.addGang p g).part p := by
  rw [State.gangPlaced, State.part, State.placedCores_parts, State.part]

include hc in
theorem State.gangPlaced_sameTcb : SameTcb s (s.gangPlaced p g) p i :=
  (SameTcb.refl hc).of_tcbs (by rw [State.gangPlaced_part, State.addGang_part])

include hc in
/-- Every core of the gang holds the entry state of its task. -/
theorem State.gangPlaced_core (hg : g.tcb = i) {n : Nat} (hn : n ∈ g.cores) : PlacedCore ((s.gangPlaced p g).core n) (g.ref p)
    (s.tcbW p i 1) (s.tcbF p i 0 32 16) (s.tcbF p i 0 48 8) := by
  have hsame : SameTcb s (s.addGang p g) p i := (SameTcb.refl hc).of_tcbs (by rw [State.addGang_part])
  have hw : (s.addGang p g).tcbW p i 1 = s.tcbW p i 1 := by rw [State.tcbW, hsame.tcb, State.tcbW]
  have hplaced := State.placedCores_placed (s := s.addGang p g) (g := g.ref p) (m := n)
    (by subst hg; exact hsame.self.1) g.cores (.inl hn)
  have hp : (g.ref p).part = p := rfl
  have ht : (g.ref p).tcb = i := hg
  rw [hp, ht, hw, hsame.tcbF, hsame.tcbF] at hplaced
  exact hplaced

theorem State.placeGang_task_eq : s.placeGang p i x0 y0 0xFFFF 0 [] = (s.gangPlaced p (s.newGang p i x0 y0)).runs p i :=
  s.placeGang_task p i x0 y0

end

/-- One attempt over a pool of one task: its gang is placed, and the task is RUNNING. -/
theorem placementAttempt_places {tb : Vector Word 16} (hi : i < 8192) (hpool : s.pool p = [⟨i, pr, sq, [i]⟩])
    (hmesh : s.mesh + 1 ≠ (s.part p).lastTry) (hbefore : ∀ k, k < p → s.mayTry k = false) (hcvy : s.waitingConvoys p = [])
    (hcomp : (s.part p).completing = false) (hlast : (s.part p).lastPlace = none) (hresv : ∀ k, k < 8 → (s.part k).resv = none)
    (hc : AMap.get? (s.part p).tcbs i = some tb) (hfit : s.fit p i (s.seenFree p) none = some (x0, y0))
    (hfree : ∀ n ∈ rectCores x0 y0 (s.lwOf p i) (s.lhOf p i), s.coreFree n = true) (hst : s.tcbSt p i = tReady) :
    ∃ t g, exec (.placementAttempt p) s = .next t ∧ (t.part p).gangs = (s.part p).gangs ++ [g] ∧ g.tcb = i ∧ g.x0 = x0 ∧ g.y0 = y0 ∧
      g.lw = s.lwOf p i ∧ g.lh = s.lhOf p i ∧ g.convoy = 0xFFFF ∧ t.tcbSt p i = tRunning ∧
      (t.part p).lastPlace = some s.mesh ∧ (t.part p).lastTry = s.mesh + 1 ∧
      ∀ n ∈ rectCores x0 y0 (s.lwOf p i) (s.lhOf p i), PlacedCore (t.core n) (g.ref p) (s.tcbW p i 1) (s.tcbF p i 0 32 16)
        (s.tcbF p i 0 48 8) := by
  have htab := s.tried_sameTables p
  have hcached : (AMap.get? ((s.tried p).part p).tcbs i).isSome := by
    rw [State.tried_part]
    exact Option.isSome_iff_exists.2 ⟨tb, hc⟩
  have hlw : ((s.tried p).newGang p i x0 y0).lw = s.lwOf p i := htab.lwOf i
  have hlh : ((s.tried p).newGang p i x0 y0).lh = s.lhOf p i := htab.lhOf i
  generalize hg : (s.tried p).newGang p i x0 y0 = g at hlw hlh
  have htcb : g.tcb = i := by rw [← hg, State.newGang]
  have hx : g.x0 = x0 := by rw [← hg, State.newGang]
  have hy : g.y0 = y0 := by rw [← hg, State.newGang]
  have hcv : g.convoy = 0xFFFF := by rw [← hg, State.newGang]
  have hsame := State.gangPlaced_sameTcb (g := g) hcached
  have hready : ((s.tried p).gangPlaced p g).tcbSt p i = tReady := by rw [hsame.tcbSt, htab.tcbSt, hst]
  obtain ⟨q, hplace, hgangs, htry, htcbs, hlastPlace⟩ := (s.tried p).place_task (pr := pr) (sq := sq) (x0 := x0) (y0 := y0) (p := p) hi
  rw [State.placeGang_task_eq, hg] at hplace hgangs htry htcbs
  have hplaces := (State.runs_samePlaces ((s.tried p).gangPlaced p g) p i).trans (.setPart _ p hgangs htry)
  have hleft := hplaces.trans (.setPart _ p (q := { q with passed := AMap.erase q.passed i }) (by rw [State.setPart_part_same])
    (by rw [State.setPart_part_same]))
  have hkeeps : SameTcb (((s.tried p).gangPlaced p g).setTcbSt p i tRunning)
      (((((s.tried p).gangPlaced p g).runs p i).setPart p q).setPart p { q with passed := AMap.erase q.passed i }) p i :=
    ((State.runs_sameTcb hready).setPart htcbs).setPart (by rw [State.setPart_part_same])
  have hrun := exec_placementAttempt_task hi hpool hmesh hbefore hcvy hcomp hlast hresv hfit hfree
  rw [State.passedOver_nil, hplace, State.setPart_part_same] at hrun
  refine ⟨_, g, hrun, ?_, htcb, hx, hy, hlw, hlh, hcv, ?_, ?_, ?_, fun n hn => ?_⟩
  · rw [hleft.gangs, State.gangPlaced_part, State.addGang_part, State.tried_part]
  · rw [hkeeps.tcbSt, State.setTcbSt_tcbSt _ _ _ _ (by decide)]
  · rw [State.setPart_part_same]
    exact hlastPlace
  · rw [hleft.lastTry, State.gangPlaced_part, State.addGang_part, State.tried_part]
  · rw [hleft.core]
    have hcore := State.gangPlaced_core (g := g) hcached htcb (n := n) (by rw [Gang.cores, hx, hy, hlw, hlh]; exact hn)
    have hw : (s.tried p).tcbW p i 1 = s.tcbW p i 1 := htab.tcbW i 1
    rw [hw, htab.tcbF, htab.tcbF] at hcore
    exact hcore

end

end Sys2Proof.Machine
end

section
/-! PROOFS of the family 04_chartroom, O38, concluded. Kernel entry behind a moved boundary (R122, R132), and the statement. -/

namespace Sys2Proof.Machine

section
variable {s : State} {n : Nat}

/-- An access that waited at the boundary is performed before the control context starts. -/
theorem kernelEntry_performs {a : Access} {off sz : Nat} {v : Word} (hm : (s.core n).moving = true)
    (hfree : ∀ x, x < 11 → (s.ctx n x).st = .free) (hf : s.flight = [a]) (hl : a.locs = [(.scr n off, sz)]) (hop : a.op = .write v)
    (hrose : a.rose = none) (hafter : a.after = []) (hp : a.performed = false) (hc : a.core ≠ n) (hbusy : s.linkBusy a.core n = false) :
    ∃ t, exec (.kernelEntry n) s = .next t ∧ (t.core n).moving = false ∧ (t.ctx n 0).st = .live ∧
      t.flight.map Access.performed = [true] := by
  have hstands := State.perform_write_stands (s := s.portOpened n) (n := n) (off := off) (sz := sz) hop hc.symm
  have hctxs : (((s.portOpened n).perform a [(.scr n off, sz)]).core n).ctxs = (s.core n).ctxs := by
    rw [hstands.1, State.portOpened_core]
  have hmoving : (((s.portOpened n).perform a [(.scr n off, sz)]).core n).moving = false := by rw [hstands.2, State.portOpened_core]
  obtain ⟨t, hrun, hmoved, hctx, -, -, hflight⟩ :=
    kernelEntry_starts hm hfree (State.portOpens_performs hf hl hrose hafter hp hbusy) hctxs hmoving
  refine ⟨t, hrun, hmoved, by rw [hctx]; rfl, ?_⟩
  rw [hflight]
  exact State.perform_flight (s := s.portOpened n) hf hop

/-- With nothing under way the control context starts on what stands in the core. -/
theorem kernelEntry_starts_core (hm : (s.core n).moving = true) (hfree : ∀ x, x < 11 → (s.ctx n x).st = .free) (hf : s.flight = []) :
    ∃ t, exec (.kernelEntry n) s = .next t ∧ (t.core n).moving = false ∧ t.ctx n 0 = (s.core n).starting s.cyc ∧
      (∀ x, 0 < x → x < 11 → (t.ctx n x).st = .free) ∧ (t.core n).scr = (s.core n).scr := by
  obtain ⟨t, hrun, hmoved, hctx, hothers, hscr, -⟩ := kernelEntry_starts hm hfree (s.portOpens_empty n hf)
    (by rw [State.portOpened_core]) (by rw [State.portOpened_core])
  rw [State.portOpened_core] at hctx hscr
  exact ⟨t, hrun, hmoved, hctx, hothers, hscr⟩

end

/-- Settles O38: each of the five events is enabled under its hypotheses, and what it leaves is read off the state it builds. -/
theorem gangsArePlacedAndRetired : Obligations.GangsArePlacedAndRetired := by
  unfold Obligations.GangsArePlacedAndRetired
  refine ⟨?placement, ?waited, ?entry, ?retirement, ?completion⟩
  case placement =>
    intro s p i pr sq x0 y0 tb hi hpool hmesh hbefore hcvy hcomp hlast hresv _ hc hfit hfree hst
    obtain ⟨t, g, hrun, hgangs, htcb, hx, hy, hlw, hlh, hcv, hrunning, hplace, htry, hcores⟩ :=
      placementAttempt_places hi hpool hmesh hbefore hcvy hcomp hlast hresv hc hfit hfree hst
    refine ⟨t, g, hrun, hgangs, htcb, hx, hy, hlw, hlh, hcv, hrunning, hplace, htry, fun n hn => ?_⟩
    obtain ⟨hmoving, hgang, hscratch, hstack, hpc, hctxs⟩ := hcores n hn
    exact ⟨hmoving, by rw [hgang]; rfl, hscratch, hstack, hpc, hctxs⟩
  case waited =>
    intro s n a off sz v hm hfree hf hl hop hrose hafter hp hc hbusy
    exact kernelEntry_performs hm hfree hf hl hop hrose hafter hp hc hbusy
  case entry =>
    intro s n hm hfree hf
    obtain ⟨t, hrun, hmoved, hctx, hothers, hscr⟩ := kernelEntry_starts_core hm hfree hf
    refine ⟨t, hrun, hmoved, by rw [hctx]; rfl, by rw [hctx]; rfl, hothers, hscr, fun hn => ?_, fun hn => ?_⟩
    · rw [hctx]
      exact Core.starting_noWs _ _ hn
    · rw [hctx]
      exact Core.starting_latches _ _ hn
  case retirement =>
    intro s p g hf hd he hidle hclean hflight
    exact gangRetire_frees hf hd he hidle hclean hflight
  case completion =>
    intro s v r rest hr hroom hup
    exact ⟨_, exec_completionRecordWrite hr hroom hup, State.recordWritten_recs, State.recordWritten_hostMem, State.recordWritten_head,
      State.recordWritten_msix⟩

end Sys2Proof.Machine
end
